-- ==== Sys2Proof/Word.lean ====
section
/-! DEFINITION. The word types of the LP-9640 model and the sparse table type. -/

namespace Sys2Proof

/-- One byte. -/
abbrev Byte := BitVec 8

/-- A 32-bit register or bus word (R9). -/
abbrev Word := BitVec 32

/-- An octet string, first octet first (R3). -/
abbrev Bytes := List Byte

/-- A sparse table: index and entry, indexes strictly rising, no entry equal to the table's default.
An index that is not listed holds the default, which the reader of the table names. -/
abbrev Table (α : Type) := List (Nat × α)

/-- A door, 0 to 3 (Table 4-1). -/
abbrev DoorId := Fin 4

/-- A port, end × 8 + number: wet 0–7 are 0–7, dry 0–7 are 8–15 (Table 12-9). -/
abbrev PortId := Fin 16

/-- A Press lane, or an Ethernet lane of one end. -/
abbrev LaneId := Fin 8

end Sys2Proof
end

