-- ==== Sys2Proof/Syntax.lean ====
section
/-! DEFINITION. The commands of the LP-9640 block and their operands. -/

namespace Sys2Proof

/-- The moments of a door 2 EVC_CLAIM instruction: its vector is chosen, and CS_N rises after some data bytes (R310). -/
inductive SpiClaim where
  | chosen
  | csRise (bytes : Nat)
  deriving DecidableEq, Repr

/-- Why a PCIe door loses its link or is reset by it (R64). -/
inductive LinkDownCause where
  | linkDown | hotReset | functionReset | d3hot
  /-- A ring read or a reply write ended unsuccessfully or timed out; AER reports it. -/
  | ringAccess
  deriving DecidableEq, Repr

/-- Who claims from or completes to the Event Controller by a register (R310): the sentinel, or the host of door 0 or 1
in its BAR0. Door 2 has SPI instructions of its own. -/
inductive EvcTarget where
  | sentinel | door0 | door1
  deriving DecidableEq, Repr

/-- Where an input's voltage lies against its hysteresis band when it is sampled (R319, R391, R417). -/
inductive BandLevel where
  | below | within | above
  deriving DecidableEq, Repr

/-- An event a timer may count (R324): a TCLK tick, an edge of a timer's input pin, or a panel line start. Wraps of the
timer below are counted inside these. -/
inductive TimerEvent where
  | tick
  | edge (n : Fin 8) (rising : Bool)
  | line
  deriving DecidableEq, Repr


/-- A frame whose first byte crosses into PCLK: its port, its bytes from destination address to FCS, whether it holds a
PCS coding error, and what the FEC of its port met meanwhile. -/
structure RxFrame where
  port : PortId
  bytes : Bytes
  coding : Bool := false
  fecCorrected : Nat := 0
  fecUncorrected : Nat := 0
  fecSymbols : Nat := 0
  deriving DecidableEq, Repr

/-- What a read of frame words in the Felt met (R137): corrected words, and whether one was uncorrectable. -/
structure FeltRead where
  corrected : Nat := 0
  uncorrectable : Bool := false
  deriving DecidableEq, Repr

/-- A Calender slot: its dry port, and what the Felt reads of the frames it begins meet, in order (R135, R149). -/
structure CalSlot where
  d : Fin 8
  felt : List FeltRead := []
  deriving DecidableEq, Repr

/-- A sequence in which the Dryer releases frames (R132): of a channel, or of the frames bypassed from a port. -/
inductive DryerQueue where
  | channel (c : Fin 8192)
  | bypass (p : PortId)
  deriving DecidableEq, Repr

/-- A fault that the device detects, with where it was found (Table 10-1, R214). The watchdogs' faults have commands of
their own. -/
inductive FaultEvent where
  | feltLinkUe
  /-- Stage 0 Headbox to 6 Reel; direction 0 encrypt, 1 decrypt; the port of a Headbox or Reel fault. -/
  | stageParity (stage : Fin 7) (dir : Fin 2) (port : Fin 8)
  | pressLane (lane : LaneId)
  | chanStateUe (c : Fin 8192)
  | interpParity
  | keyeCheck
  /-- KIND, register number and address as PAIR.LAST and LAST_ADDR show them (Table 14-8); in Tight mode also the address of
  a load whose read has taken effect and whose value has not been compared (R286). -/
  | pairMismatch (kind : Fin 4) (regNo : Byte) (addr : Word) (read : Option Word)
  | sntMemUe
  /-- A parity error of a cache line, which is no fault, met by an access without an operand of its own for it: of the I-cache
  or the D-cache, in the line of an address (R287). -/
  | cacheParity (data : Bool) (addr : Word)
  /-- A single-bit error of a sentinel memory word, likewise, at an address (R293). -/
  | memCorrected (addr : Word)
  deriving DecidableEq, Repr

/-- What a device's parameter page says (Table 11-1): a 16-bit bus, data and spare bytes of a page, pages per block, chip
enables that answer, LUNs per target, blocks per LUN, bits per cell, and the highest asynchronous and NV-DDR3 timing modes
advertised. -/
structure ParamPage where
  bus16 : Bool := false
  pageBytes : Nat
  spare : Nat
  pagesPerBlock : Nat
  targets : Nat
  luns : Nat
  blocks : Nat
  cellBits : Nat := 1
  asyncMax : Fin 6 := 0
  ddr : Option (Fin 8) := none
  deriving DecidableEq, Repr

/-- What the NAND and the board answer at a mount (R216, R217): why the Store is absent, or the device's parameter page. -/
inductive MountAnswer where
  /-- REASON 1 (VDDIO_N against NVSEL), 2 (no READ ID), 3 (parameter page) or 6 (bad-block table). -/
  | absent (reason : Fin 7)
  | found (p : ParamPage)
  deriving DecidableEq, Repr

/-- Bits of a codeword that the NAND returns inverted: the codeword's place in what is read, and the bits in column order at
its first reading and at a second one (R220). -/
structure CwErr where
  cw : Nat
  first : List Nat := []
  again : List Nat := []
  deriving DecidableEq, Repr

/-- What the boot ROM's reads meet, codewords counted from the start of each slot's header and of its payload (R41). -/
structure BootReads where
  hdrA : List CwErr := []
  hdrB : List CwErr := []
  payA : List CwErr := []
  payB : List CwErr := []
  deriving DecidableEq, Repr

/-- What a NAND operation of the Vat met: inverted bits of the codewords read; a program or erase that reported FAIL; blocks
whose erase fails where the operation takes in several, as a format does; the factory bad blocks that a first format finds; the
most zero bits in a codeword of a block read back as erased (R232). -/
structure NandResult where
  errs : List CwErr := []
  failed : Bool := false
  fails : List Nat := []
  bad : List Nat := []
  zeros : Nat := 0
  deriving DecidableEq, Repr

/-- How an I2C transaction ended on the bus (R114). -/
inductive I2cEnd where
  | ok | addressNack | dataNack | lost
  deriving DecidableEq, Repr

/-- The end of an I2C transaction: how, the data bytes transferred and, on a read, what they are. -/
structure I2cResult where
  how : I2cEnd
  count : Nat
  data : Bytes
  deriving DecidableEq, Repr

/-- An input that starts unresolved (R391). -/
inductive InputPin where
  | gp (n : Fin 48)
  | tach (n : Fin 3)
  | hall (n : Fin 3)
  | trip
  deriving DecidableEq, Repr

/-- A register block with a lock bit (R5). -/
inductive LockBlock where
  | idn | vat | pair | panel | compositor | fan
  deriving DecidableEq, Repr

/-- The addressing mode of a Karpol load or store, with its fields (Table 13-4). -/
inductive AMode where
  | disp (an : Fin 8) (d : BitVec 16)
  | postInc (an : Fin 8)
  | preDec (an : Fin 8)
  | index (an : Fin 8) (dm : Fin 16) (sh : Fin 4)
  | postDisp (an : Fin 8) (d : BitVec 16)
  | pcRel (d : BitVec 16)
  /-- MODE 6 or 7, or a field that must be 0 and is not: an undefined word (R269). -/
  | reserved
  deriving DecidableEq, Repr

/-- The bit address of a bit instruction: BIT itself, or (Dm + BIT)[11:0] (Table 13-12). -/
inductive BitRef where
  | direct (b : BitVec 12)
  | indexed (dm : Fin 16) (b : BitVec 12)
  deriving DecidableEq, Repr

/-- What a load met on its way: a parity error of the D-cache line (R287), a corrected memory word (R293). -/
structure LoadMet where
  parity : Bool := false
  corrected : Bool := false
  deriving DecidableEq, Repr

/-- What the scrubber finds in a word of a sentinel memory (R293). -/
inductive ScrubFind where
  | clean | corrected | uncorrectable
  deriving DecidableEq, Repr

/-- The commands of the block: one constructor per row of the table of operations and events, the Karpol instructions first. -/
inductive Instr where
  /-- ADD (R269). -/
  | kAdd (dd a b : Fin 16)
  /-- ADDC (R269). -/
  | kAddc (dd a b : Fin 16)
  /-- SUB (R269). -/
  | kSub (dd a b : Fin 16)
  /-- SUBC (R269). -/
  | kSubc (dd a b : Fin 16)
  /-- AND (R269). -/
  | kAnd (dd a b : Fin 16)
  /-- OR (R269). -/
  | kOr (dd a b : Fin 16)
  /-- XOR (R269). -/
  | kXor (dd a b : Fin 16)
  /-- ANDN (R269). -/
  | kAndn (dd a b : Fin 16)
  /-- CMP (R270). -/
  | kCmp (a b : Fin 16)
  /-- TST (R270). -/
  | kTst (a b : Fin 16)
  /-- MOV (R269). -/
  | kMov (dd a : Fin 16)
  /-- NOT (R269). -/
  | kNot (dd a : Fin 16)
  /-- NEG (R269). -/
  | kNeg (dd a : Fin 16)
  /-- MIN (R269). -/
  | kMin (dd a b : Fin 16)
  /-- MAX (R269). -/
  | kMax (dd a b : Fin 16)
  /-- SHL (R269). -/
  | kShl (dd a b : Fin 16)
  /-- SHR (R269). -/
  | kShr (dd a b : Fin 16)
  /-- SAR (R269). -/
  | kSar (dd a b : Fin 16)
  /-- ROR (R269). -/
  | kRor (dd a b : Fin 16)
  /-- SHLI (R269). -/
  | kShli (dd a : Fin 16) (sh : Fin 32)
  /-- SHRI (R269). -/
  | kShri (dd a : Fin 16) (sh : Fin 32)
  /-- SARI (R269). -/
  | kSari (dd a : Fin 16) (sh : Fin 32)
  /-- RORI (R269). -/
  | kRori (dd a : Fin 16) (sh : Fin 32)
  /-- MUL (R269). -/
  | kMul (dd a b : Fin 16)
  /-- MULH (R269). -/
  | kMulh (dd a b : Fin 16)
  /-- MULHU (R269). -/
  | kMulhu (dd a b : Fin 16)
  /-- DIVU (R272). -/
  | kDivu (dd a b : Fin 16)
  /-- DIVS (R272). -/
  | kDivs (dd a b : Fin 16)
  /-- REMU (R272). -/
  | kRemu (dd a b : Fin 16)
  /-- REMS (R272). -/
  | kRems (dd a b : Fin 16)
  /-- SEXTB (R269). -/
  | kSextb (dd a : Fin 16)
  /-- SEXTH (R269). -/
  | kSexth (dd a : Fin 16)
  /-- ZEXTB (R269). -/
  | kZextb (dd a : Fin 16)
  /-- ZEXTH (R269). -/
  | kZexth (dd a : Fin 16)
  /-- CLZ (R269). -/
  | kClz (dd a : Fin 16)
  /-- BSWAP (R269). -/
  | kBswap (dd a : Fin 16)
  /-- MINU (R269). -/
  | kMinu (dd a b : Fin 16)
  /-- MAXU (R269). -/
  | kMaxu (dd a b : Fin 16)
  /-- ADDI (R269). -/
  | kAddi (dd a : Fin 16) (imm : BitVec 16)
  /-- ANDI (R269). -/
  | kAndi (dd a : Fin 16) (imm : BitVec 16)
  /-- ORI (R269). -/
  | kOri (dd a : Fin 16) (imm : BitVec 16)
  /-- XORI (R269). -/
  | kXori (dd a : Fin 16) (imm : BitVec 16)
  /-- CMPI (R270). -/
  | kCmpi (a : Fin 16) (imm : BitVec 16)
  /-- MOVI (R269). -/
  | kMovi (dd : Fin 16) (imm : BitVec 16)
  /-- MOVHI (R269). -/
  | kMovhi (dd : Fin 16) (imm : BitVec 16)
  /-- LEA (R269). -/
  | kLea (an am : Fin 8) (imm : BitVec 16)
  /-- MOVA (R269). -/
  | kMova (an : Fin 8) (dm : Fin 16)
  /-- MOVD (R269). -/
  | kMovd (dm : Fin 16) (am : Fin 8)
  /-- ADDA (R269). -/
  | kAdda (an am : Fin 8) (dm : Fin 16)
  /-- SUBA (R269). -/
  | kSuba (an am : Fin 8) (dm : Fin 16)
  /-- CMPA (R270). -/
  | kCmpa (an am : Fin 8)
  /-- MOVAA (R269). -/
  | kMovaa (an am : Fin 8)
  /-- ADDAS (R269). -/
  | kAddas (an am : Fin 8) (dm : Fin 16)
  /-- LEAPC (R269). -/
  | kLeapc (an : Fin 8) (imm : BitVec 16)
  /-- LD_W (R264). -/
  | kLdW (dt : Fin 16) (ea : AMode) (met : LoadMet)
  /-- LD_H (R264). -/
  | kLdH (dt : Fin 16) (ea : AMode) (met : LoadMet)
  /-- LD_HU (R264). -/
  | kLdHu (dt : Fin 16) (ea : AMode) (met : LoadMet)
  /-- LD_B (R264). -/
  | kLdB (dt : Fin 16) (ea : AMode) (met : LoadMet)
  /-- LD_BU (R264). -/
  | kLdBu (dt : Fin 16) (ea : AMode) (met : LoadMet)
  /-- ST_W (R264). -/
  | kStW (dt : Fin 16) (ea : AMode)
  /-- ST_H (R264). -/
  | kStH (dt : Fin 16) (ea : AMode)
  /-- ST_B (R264). -/
  | kStB (dt : Fin 16) (ea : AMode)
  /-- LDA (R264). -/
  | kLda (ar : Fin 8) (ea : AMode) (met : LoadMet)
  /-- STA (R264). -/
  | kSta (ar : Fin 8) (ea : AMode)
  /-- BCC (R269). -/
  | kBcc (cond : Fin 16) (disp : BitVec 22)
  /-- BAL (R265). -/
  | kBal (disp : BitVec 26)
  /-- CALL (R266). -/
  | kCall (disp : BitVec 26)
  /-- JMP (R269). -/
  | kJmp (an : Fin 8)
  /-- CALLR (R266). -/
  | kCallr (an : Fin 8)
  /-- BALR (R265). -/
  | kBalr (an : Fin 8)
  /-- JLK (R265). -/
  | kJlk
  /-- PUSH (R266). -/
  | kPush (r : Fin 32)
  /-- POP (R265). -/
  | kPop (r : Fin 32)
  /-- TBS (R268). -/
  | kTbs (disp : BitVec 14) (b : BitVec 12)
  /-- TBC (R268). -/
  | kTbc (disp : BitVec 14) (b : BitVec 12)
  /-- TBSC (R268). -/
  | kTbsc (disp : BitVec 14) (b : BitVec 12)
  /-- TBCS (R268). -/
  | kTbcs (disp : BitVec 14) (b : BitVec 12)
  /-- BSET (R268). -/
  | kBset (b : BitRef)
  /-- BCLR (R268). -/
  | kBclr (b : BitRef)
  /-- BFLIP (R268). -/
  | kBflip (b : BitRef)
  /-- BLD (R268). -/
  | kBld (b : BitRef)
  /-- BST (R268). -/
  | kBst (b : BitRef)
  /-- BAND (R268). -/
  | kBand (b : BitRef)
  /-- BOR (R268). -/
  | kBor (b : BitRef)
  /-- BXOR (R268). -/
  | kBxor (b : BitRef)
  /-- CSET (R270). -/
  | kCset
  /-- CCLR (R270). -/
  | kCclr
  /-- CFLIP (R270). -/
  | kCflip
  /-- MAC (R273). -/
  | kMac (ac : Fin 4) (a b : Fin 16) (h1 h2 : Bool)
  /-- MSU (R273). -/
  | kMsu (ac : Fin 4) (a b : Fin 16) (h1 h2 : Bool)
  /-- MPY (R273). -/
  | kMpy (ac : Fin 4) (a b : Fin 16) (h1 h2 : Bool)
  /-- RDAC (R273). -/
  | kRdac (dd : Fin 16) (ac : Fin 4) (sh : Fin 32)
  /-- WRAC (R273). -/
  | kWrac (ac : Fin 4) (a : Fin 16) (sh : Fin 32)
  /-- CLRAC (R273). -/
  | kClrac (ac : Fin 4)
  /-- ADDAC (R273). -/
  | kAddac (ac acs : Fin 4)
  /-- KARPOL_NOP (R269). -/
  | kNop
  /-- WAIT (R278). -/
  | kWait
  /-- WAIT_COMPLETE (R278). -/
  | kWaitComplete
  /-- BRK (R274). -/
  | kBrk
  /-- TRAP (R274). -/
  | kTrap (imm : Byte)
  /-- RETI (R279). -/
  | kReti
  /-- RET (R265). -/
  | kRet
  /-- EI (R278). -/
  | kEi
  /-- DI (R278). -/
  | kDi
  /-- CHKPT (R289). -/
  | kChkpt
  /-- MFC (R281). -/
  | kMfc (dd : Fin 16) (cr : Byte)
  /-- MTC (R281). -/
  | kMtc (cr : Byte) (a : Fin 16)
  /-- IINV (R263). -/
  | kIinv
  /-- IINVL (R263). -/
  | kIinvl (an : Fin 8)
  /-- COLD_RESET (R25). -/
  | coldReset (lowNs : Nat)
  /-- WARM_RESET (R25). -/
  | warmReset (lowNs : Nat)
  /-- CORE_SUPERVISOR_RESET (R25). -/
  | coreSupervisorReset (lowNs : Nat)
  /-- CLK_LOSS (R25). -/
  | clkLoss
  /-- RESET_RELEASE (R25). -/
  | resetRelease
  /-- LOFT_RESET (R315). -/
  | loftReset
  /-- SWRST (R27). -/
  | swrst (key : Word)
  /-- PXDIV (R21). -/
  | pxdiv (v : Word)
  /-- CLK_GATE (R28). -/
  | clkGate (v : Word)
  /-- PSREQ_RUN (R29). -/
  | psreqRun
  /-- PSREQ_DIM (R30). -/
  | psreqDim
  /-- PSREQ_NAP (R29). -/
  | psreqNap
  /-- PSREQ_SLEEP (R31). -/
  | psreqSleep
  /-- DIM_DRAIN_END (R30). -/
  | dimDrainEnd
  /-- DIM_DRAIN_TIMEOUT (R30). -/
  | dimDrainTimeout
  /-- DIM_EXIT_DONE (R29). -/
  | dimExitDone
  /-- SLEEP_ENTRY_DONE (R31). -/
  | sleepEntryDone
  /-- PWR_EN_RISE (R322). -/
  | pwrEnRise
  /-- DROOP_START (R33). -/
  | droopStart
  /-- DROOP_END (R33). -/
  | droopEnd
  /-- TELEMETRY_SAMPLE (R390). -/
  | telemetrySample (temps : List Int) (rails : List Nat)
  /-- SENSOR_CAL (R389). -/
  | sensorCal (sensor : Fin 6)
  /-- FPKEY (R39). -/
  | fpkey (key : Word)
  /-- FUSE_BURN_DONE (R39). -/
  | fuseBurnDone
  /-- BLOCK_LOCK (R5). -/
  | blockLock (b : LockBlock)
  /-- VAT_MOUNT_DONE (R217). -/
  | vatMountDone (a : MountAnswer) (boot : BootReads)
  /-- COMMAND_PACKET (R69). -/
  | commandPacket (ps : List (DoorId × Bytes))
  /-- CMD_TAIL (R62). -/
  | cmdTail (d : DoorId) (v : Word)
  /-- RPL_HEAD (R62). -/
  | rplHead (d : DoorId) (v : Word)
  /-- RING_ENABLE (R63). -/
  | ringEnable (d : DoorId)
  /-- RING_DISABLE (R63). -/
  | ringDisable (d : DoorId)
  /-- REPLY_DELIVER (R71). -/
  | replyDeliver (d : DoorId)
  /-- IDLE_HINT (R79). -/
  | idleHint (d : DoorId) (v : Word)
  /-- MODERATION_EXPIRY (R79). -/
  | moderationExpiry (d : DoorId)
  /-- SENTINEL_MODERATION_END (R313). -/
  | sentinelModerationEnd
  /-- DOOR_RESET (R81). -/
  | doorReset (d : DoorId) (key : Word)
  /-- DOOR_RESET_DONE (R81). -/
  | doorResetDone (d : DoorId)
  /-- PCIE_LINK_UP (R52). -/
  | pcieLinkUp (d : DoorId)
  /-- PCIE_LINK_DOWN (R64). -/
  | pcieLinkDown (d : DoorId) (why : LinkDownCause)
  /-- PCIE_PERST (R418). -/
  | pciePerst (d : DoorId)
  /-- WRITE_CMD (R65). -/
  | writeCmd (data : Bytes)
  /-- WRITE_CMD_Q (R65). -/
  | writeCmdQ (data : Bytes)
  /-- READ_STATUS (R65). -/
  | readStatus (bytes : Nat)
  /-- READ_REPLY (R65). -/
  | readReply (bytes : Nat)
  /-- READ_REPLY_Q (R65). -/
  | readReplyQ (bytes : Nat)
  /-- READ_DATA (R66). -/
  | readData (offset bytes : Nat)
  /-- READ_DATA_Q (R66). -/
  | readDataQ (offset bytes : Nat)
  /-- READ_NOTICE (R65). -/
  | readNotice (bytes : Nat)
  /-- WRITE_NOTICE_MASK (R65). -/
  | writeNoticeMask (data : Bytes)
  /-- SPI_EVC_CLAIM (R310). -/
  | spiEvcClaim (p : SpiClaim)
  /-- SPI_EVC_COMPLETE (R311). -/
  | spiEvcComplete (data : Bytes)
  /-- SPI_IDLE_HINT (R79). -/
  | spiIdleHint
  /-- RESET_ENABLE (R81). -/
  | resetEnable
  /-- SPI_DOOR_RESET (R81). -/
  | spiDoorReset
  /-- NOP (R241). -/
  | doorNop (d : DoorId) (tag : Nat)
  /-- IDENTIFY (R48). -/
  | identify (d : DoorId) (tag : Nat) (hostIn : Option Bytes)
  /-- GET_STATUS (R247). -/
  | getStatus (d : DoorId) (tag : Nat)
  /-- DOOR_CLAIM (R76). -/
  | doorClaim (d : DoorId) (tag : Nat)
  /-- DOOR_RELEASE (R76). -/
  | doorRelease (d : DoorId) (tag : Nat)
  /-- IDLE_SETUP (R246). -/
  | idleSetup (d : DoorId) (tag : Nat)
  /-- STOCK_SET (R85). -/
  | stockSet (d : DoorId) (tag : Nat) (hostIn : Option Bytes)
  /-- STOCK_GET (R248). -/
  | stockGet (d : DoorId) (tag : Nat)
  /-- STOCK_CHECK (R86). -/
  | stockCheck (d : DoorId) (tag : Nat)
  /-- STOCK_CHECK_END (R86). -/
  | stockCheckEnd (d : DoorId) (tag : Nat)
  /-- STOCK_APPLY (R89). -/
  | stockApply (d : DoorId) (tag : Nat)
  /-- STOCK_DISCARD (R96). -/
  | stockDiscard (d : DoorId) (tag : Nat)
  /-- SHADOW_LOADED (R90). -/
  | shadowLoaded
  /-- APPLY_RELEASE_TIME (R90). -/
  | applyReleaseTime
  /-- EPOCH_BOUNDARY (R88). -/
  | epochBoundary
  /-- PORT_LANES_SET (R110). -/
  | portLanesSet (q : PortId) (signal : Bool) (cdr : Byte)
  /-- SIGNAL_CHANGE (R108). -/
  | signalChange (q : PortId) (signal : Bool) (cdr : Byte)
  /-- LOCK_LOSS (R108). -/
  | lockLoss (q : PortId) (signal : Bool) (cdr : Byte)
  /-- REMOTE_FAULT_RX (R108). -/
  | remoteFaultRx (q : PortId)
  /-- PORT_UP (R108). -/
  | portUp (q : PortId)
  /-- FRAME_ADMIT (R119). -/
  | frameAdmit (fs : List RxFrame)
  /-- MAC_FRAME_END (R102). -/
  | macFrameEnd (q : PortId)
  /-- WIRE_CHECK (R124). -/
  | wireCheck (dir : Fin 2)
  /-- COUCH_DEAL (R128). -/
  | couchDeal (dir : Fin 2)
  /-- PRESS_DONE (R127). -/
  | pressDone (lane : LaneId) (felt : FeltRead)
  /-- DRYER_RELEASE (R132). -/
  | dryerRelease (q : DryerQueue)
  /-- EGRESS_SELECT (R134). -/
  | egressSelect (q : PortId)
  /-- REEL_START (R135). -/
  | reelStart (q : PortId) (felt : FeltRead)
  /-- FRAME_TX_END (R124). -/
  | frameTxEnd (q : PortId)
  /-- FELT_SCRUB (R138). -/
  | feltScrub (felt : FeltRead)
  /-- LANE_SERVICE_REMOVE (R130). -/
  | laneServiceRemove (tag : Nat)
  /-- LANE_SERVICE_RESTORE (R130). -/
  | laneServiceRestore (tag : Nat)
  /-- LANE_DRAINED (R130). -/
  | laneDrained (lane : LaneId)
  /-- LANE_KAT_DONE (R130). -/
  | laneKatDone (lane : LaneId) (pass : Bool)
  /-- CALENDER_SLOT (R149): what the Felt reads of the frames it begins meet, in turn. -/
  | calenderSlot (x : CalSlot)
  /-- CELL_RECEIVE (R160). -/
  | cellReceive (d : Fin 8)
  /-- SYNC_TIMEOUT (R163). -/
  | syncTimeout (d : Fin 8)
  /-- HOLD_EXPIRE (R164). -/
  | holdExpire (d : Fin 8)
  /-- CAL_RELEASE (R161). -/
  | calRelease (d : Fin 8)
  /-- SA_LOAD (R170). -/
  | saLoad (d : DoorId) (tag : Nat) (hostIn : Option Bytes)
  /-- SA_RETIRE_NEXT (R171). -/
  | saRetireNext (d : DoorId) (tag : Nat)
  /-- SA_RETIRE_ALL (R171). -/
  | saRetireAll (d : DoorId) (tag : Nat)
  /-- SA_QUERY (R245). -/
  | saQuery (d : DoorId) (tag : Nat)
  /-- ZEROISE_CHANNEL (R189). -/
  | zeroiseChannel (d : DoorId) (tag : Nat)
  /-- ZEROISE_OWNED (R189). -/
  | zeroiseOwned (d : DoorId) (tag : Nat)
  /-- ZEROISE_KE (R189). -/
  | zeroiseKe (d : DoorId) (tag : Nat)
  /-- ZEROISE_DEVICE (R189). -/
  | zeroiseDevice (d : DoorId) (tag : Nat)
  /-- KEY_DRAIN_EMPTY (R172). -/
  | keyDrainEmpty (c : Fin 8192)
  /-- RX_GRACE_END (R172). -/
  | rxGraceEnd (c : Fin 8192)
  /-- KE_OPEN (R182). -/
  | keOpen (d : DoorId) (tag : Nat)
  /-- KE_STATUS (R181). -/
  | keStatus (d : DoorId) (tag : Nat)
  /-- EC_KEYGEN (R180). -/
  | ecKeygen (d : DoorId) (tag : Nat)
  /-- EC_DH (R181). -/
  | ecDh (d : DoorId) (tag : Nat) (hostIn : Option Bytes)
  /-- KEM_KEYGEN (R180). -/
  | kemKeygen (d : DoorId) (tag : Nat)
  /-- KEM_ENCAPS (R181). -/
  | kemEncaps (d : DoorId) (tag : Nat) (hostIn : Option Bytes)
  /-- KEM_DECAPS (R181). -/
  | kemDecaps (d : DoorId) (tag : Nat) (hostIn : Option Bytes)
  /-- TRANSCRIPT (R181). -/
  | transcript (d : DoorId) (tag : Nat) (hostIn : Option Bytes)
  /-- DERIVE (R183). -/
  | derive (d : DoorId) (tag : Nat) (hostIn : Option Bytes)
  /-- SIGN (R180). -/
  | sign (d : DoorId) (tag : Nat)
  /-- SHA384 (R180). -/
  | sha384 (d : DoorId) (tag : Nat) (hostIn : Option Bytes)
  /-- ECDSA_VERIFY (R181). -/
  | ecdsaVerify (d : DoorId) (tag : Nat) (hostIn : Option Bytes)
  /-- MLDSA_VERIFY (R181). -/
  | mldsaVerify (d : DoorId) (tag : Nat) (hostIn : Option Bytes)
  /-- VAULT_KEYGEN (R176). -/
  | vaultKeygen (d : DoorId) (tag : Nat)
  /-- VAULT_WRAP (R178). -/
  | vaultWrap (d : DoorId) (tag : Nat)
  /-- MSG_SEND (R187). -/
  | msgSend (d : DoorId) (tag : Nat) (hostIn : Option Bytes)
  /-- MSG_RECV (R188). -/
  | msgRecv (d : DoorId) (tag : Nat)
  /-- KE_CLOSE (R184). -/
  | keClose (d : DoorId) (tag : Nat) (hostIn : Option Bytes)
  /-- KEYE_OP_DONE (R180). -/
  | keyeOpDone (u : Fin 3)
  /-- KE_TIMEOUT (R185). -/
  | keTimeout (k : Fin 16)
  /-- FAULT_DETECTED (R194). -/
  | faultDetected (f : FaultEvent)
  /-- STAGE_WATCHDOG (R194). -/
  | stageWatchdog (dir : Fin 2) (slot : Fin 1024)
  /-- RECOVERY_END (R208). -/
  | recoveryEnd
  /-- STORE_READ (R222). -/
  | storeRead (d : DoorId) (tag : Nat)
  /-- STORE_WRITE (R225). -/
  | storeWrite (d : DoorId) (tag : Nat) (hostIn : Option Bytes)
  /-- STORE_ERASE (R232). -/
  | storeErase (d : DoorId) (tag : Nat)
  /-- LOG_APPEND (R237). -/
  | logAppend (d : DoorId) (tag : Nat) (hostIn : Option Bytes)
  /-- LOG_READ (R239). -/
  | logRead (d : DoorId) (tag : Nat)
  /-- LOG_TRIM (R238). -/
  | logTrim (d : DoorId) (tag : Nat)
  /-- REAM_INFO (R239). -/
  | reamInfo (d : DoorId) (tag : Nat)
  /-- STORE_FORMAT (R226). -/
  | storeFormat (d : DoorId) (tag : Nat)
  /-- VAT_OP_DONE (R224). -/
  | vatOpDone (r : NandResult)
  /-- RETENTION_PATROL (R234). -/
  | retentionPatrol (r : NandResult)
  /-- BACKGROUND_RELOCATE (R236). -/
  | backgroundRelocate (r : NandResult)
  /-- STATIC_LEVELLING (R235). -/
  | staticLevelling
  /-- VAT_IF_REQ (R216). -/
  | vatIfReq (v : Word)
  /-- PORT_STATS (R117). -/
  | portStats (d : DoorId) (tag : Nat)
  /-- CHAN_STATS (R140). -/
  | chanStats (d : DoorId) (tag : Nat)
  /-- COUNTER_CLEAR (R116). -/
  | counterClear (d : DoorId) (tag : Nat)
  /-- TEL_SUBSCRIBE (R254). -/
  | telSubscribe (d : DoorId) (tag : Nat)
  /-- TELEMETRY_PERIOD (R254). -/
  | telemetryPeriod (d : DoorId)
  /-- MODULE_XFER (R114). -/
  | moduleXfer (d : DoorId) (tag : Nat) (hostIn : Option Bytes)
  /-- I2C_TRANSACTION_DONE (R113). -/
  | i2cTransactionDone (n : Fin 4) (r : I2cResult)
  /-- I2C_BUS_TIMEOUT (R113). -/
  | i2cBusTimeout (n : Fin 4) (count : Nat) (data : Bytes)
  /-- PANEL_POST (R256). -/
  | panelPost (d : DoorId) (tag : Nat) (hostIn : Option Bytes)
  /-- AUDIO_STREAM (R257). -/
  | audioStream (d : DoorId) (tag : Nat) (hostIn : Option Bytes)
  /-- GRANT_SET (R73). -/
  | grantSet (tag : Nat)
  /-- OWNER_SET (R74). -/
  | ownerSet (tag : Nat)
  /-- MODULE_ASSIGN (R114). -/
  | moduleAssign (tag : Nat)
  /-- INTERRUPT_ENTRY (R277). -/
  | interruptEntry
  /-- GAP_CHECKPOINT (R290). -/
  | gapCheckpoint
  /-- MODE_REQ (R292). -/
  | modeReq (v : Word)
  /-- PAIR_KICK (R294). -/
  | pairKick (v : Word)
  /-- WDOG_WARN (R294). -/
  | wdogWarn
  /-- SNT_WATCHDOG (R294). -/
  | sntWatchdog
  /-- SENTINEL_SCRUB (R293). -/
  | sentinelScrub (itcm dtcm sram : ScrubFind)
  /-- BIST_DONE (R296). -/
  | bistDone (passA passB : Bool) (boot : BootReads)
  /-- RESTART_ZERO_DONE (R298). -/
  | restartZeroDone (boot : BootReads)
  /-- EXTEST (R427). -/
  | extest (tdi : List Bool)
  /-- SAMPLE_PRELOAD (R427). -/
  | samplePreload (tdi : List Bool)
  /-- IDCODE (R427). -/
  | idcode (tdi : List Bool)
  /-- HIGHZ (R427). -/
  | highz (tdi : List Bool)
  /-- CLAMP (R427). -/
  | clamp (tdi : List Bool)
  /-- BYPASS (R427). -/
  | bypass (tdi : List Bool)
  /-- DBG_ACCESS (R300). -/
  | dbgAccess (tdi : List Bool) (boot : BootReads)
  /-- TAP_RESET (R427). -/
  | tapReset
  /-- BUS_READ (R300). -/
  | busRead (addr : Word)
  /-- BUS_WRITE (R300). -/
  | busWrite (addr data : Word)
  /-- REG_READ (R300). -/
  | regRead (addr : Word)
  /-- REG_WRITE (R300). -/
  | regWrite (addr data : Word)
  /-- HALT (R301). -/
  | dbgHalt
  /-- RESUME (R301). -/
  | dbgResume (boot : BootReads)
  /-- STEP (R300). -/
  | dbgStep
  /-- SET_MODE (R302). -/
  | setMode (data : Word)
  /-- RESYNC (R303). -/
  | dbgResync
  /-- BREAKPOINT (R300). -/
  | dbgBreakpoint (addr data : Word)
  /-- EVC_CLAIM (R310). -/
  | evcClaim (t : EvcTarget)
  /-- EVC_COMPLETE (R311). -/
  | evcComplete (t : EvcTarget) (v : BitVec 10)
  /-- SWSET (R307). -/
  | swset (v : Word)
  /-- SWCLR (R307). -/
  | swclr (v : Word)
  /-- XTAL_START (R315). -/
  | xtalStart
  /-- XTAL_FAIL (R315). -/
  | xtalFail
  /-- LOFT_WRITE_APPLY (R316). -/
  | loftWriteApply
  /-- RTC_SECOND (R317). -/
  | rtcSecond
  /-- RTC_SET (R317). -/
  | rtcSet (sec : Word)
  /-- RTC_SUB_READ (R317). -/
  | rtcSubRead
  /-- TAMPER_EDGE (R318). -/
  | tamperEdge (n : Fin 4) (rising : Bool)
  /-- PWRBTN_EDGE (R318). -/
  | pwrbtnEdge
  /-- TAMPER_SAMPLE (R319). -/
  | tamperSample (n : Fin 4) (level : BandLevel)
  /-- PWRBTN_PRESS (R321). -/
  | pwrbtnPress (pressed : Bool)
  /-- PWRBTN_LONG (R321). -/
  | pwrbtnLong
  /-- FORCED_OFF (R321). -/
  | forcedOff
  /-- TIMER_EN (R325). -/
  | timerEn (v : Word)
  /-- TIMER_GO (R325). -/
  | timerGo (v : Word)
  /-- TIMER_STOP (R328). -/
  | timerStop (v : Word)
  /-- TIMER_COUNT (R326). -/
  | timerCount (ev : TimerEvent)
  /-- TIMER_COUNT_READ (R327). -/
  | timerCountRead (n : Fin 8)
  /-- RASTER_START (R333). -/
  | rasterStart
  /-- LINE_START (R331). -/
  | lineStart (times : List Nat)
  /-- ACTIVE_END (R340). -/
  | activeEnd
  /-- LS_ENTRY_WRITE (R340). -/
  | lsEntryWrite
  /-- SEAL_KICK (R360). -/
  | sealKick (v : Word)
  /-- DANDY_DONE (R365). -/
  | dandyDone
  /-- BLT_GO (R368). -/
  | bltGo (v : Word)
  /-- BLT_JOB_START (R366). -/
  | bltJobStart
  /-- BLT_JOB_DONE (R369). -/
  | bltJobDone (u : Fin 2)
  /-- SAMPLE_BOUNDARY (R372). -/
  | sampleBoundary
  /-- VOICE_KEY (R375). -/
  | voiceKey (n : Fin 4) (v : Word)
  /-- PRST (R374). -/
  | prst (n : Fin 4) (v : Word)
  /-- SP_RUN (R376). -/
  | spRun (v : Word)
  /-- EQ_COMMIT (R381). -/
  | eqCommit (k : Fin 2) (v : Word)
  /-- EQ_CLR (R380). -/
  | eqClr (k : Fin 2) (v : Word)
  /-- FAN_TABLE_EVAL (R395). -/
  | fanTableEval
  /-- TACH_EDGE (R393). -/
  | tachEdge (n : Fin 3)
  /-- FAN_FAULT (R394). -/
  | fanFault (n : Fin 4)
  /-- MANUAL (R396). -/
  | manual (v : Word)
  /-- FAN_KICK (R396). -/
  | fanKick (v : Word)
  /-- FAN_TAKEOVER (R396). -/
  | fanTakeover
  /-- HALL_CHANGE (R397). -/
  | hallChange (code : Fin 8)
  /-- FAN3_TRIP (R401). -/
  | fan3Trip
  /-- F3_TRIP_RELEASE (R401). -/
  | f3TripRelease
  /-- F3_CLR (R400). -/
  | f3Clr
  /-- F3_ARM (R400). -/
  | f3Arm
  /-- F3_DISARM (R400). -/
  | f3Disarm
  /-- INPUT_RESOLVED (R391). -/
  | inputResolved (pin : InputPin) (high : Bool)
  /-- GPIO_EDGE (R407). -/
  | gpioEdge (n : Fin 48) (rising : Bool)
  /-- OUTSET (R406). -/
  | outset (b : Fin 3) (v : Word)
  /-- OUTCLR (R406). -/
  | outclr (b : Fin 3) (v : Word)
  /-- LOCK_SEQUENCE (R409). -/
  | lockSequence (b : Fin 3) (v : Word)
  /-- COUNTER_LATCH_READ (R117). -/
  | counterLatchRead (a : Word)
  /-- RC_READ (R4). -/
  | rcRead (who : EvcTarget) (a : Word)
  /-- REGISTER_WRITE (R4). -/
  | registerWrite (who : EvcTarget) (a v : Word)
  /-- VDD_AON_REMOVAL (R28). -/
  | vddAonRemoval
  /-- KEY_AGING (R173). -/
  | keyAging (c : Fin 8192)
  /-- PWM_PERIOD_START (R392). -/
  | pwmPeriodStart
  deriving DecidableEq, Repr

end Sys2Proof
end

