-- ==== Sys2Proof/Machine/Bits.lean ====
section
/-! DEFINITION. Bit fields, byte order and sparse tables: the helpers every family's meanings use. -/

namespace Sys2Proof.Machine

/-- Field [lo + len - 1 : lo] of a number (R2). -/
def fld (w lo len : Nat) : Nat := w / 2 ^ lo % 2 ^ len

/-- Bit `i` of a number. -/
def bitAt (w i : Nat) : Bool := w / 2 ^ i % 2 == 1

/-- Field [lo + len - 1 : lo] of a register (R2). -/
def wfld (w : Word) (lo len : Nat) : Nat := fld w.toNat lo len

/-- Bit `i` of a register. -/
def wbit (w : Word) (i : Nat) : Bool := w.getLsbD i

/-- The word with field [lo + len - 1 : lo] replaced by `v` modulo 2^len. -/
def wsetFld (w : Word) (lo len v : Nat) : Word :=
  BitVec.ofNat 32 (w.toNat - wfld w lo len * 2 ^ lo + v % 2 ^ len * 2 ^ lo)

/-- The word with bit `i` set to `b`. -/
def wsetBit (w : Word) (i : Nat) (b : Bool) : Word := wsetFld w i 1 (if b then 1 else 0)

/-- 1 for true, 0 for false. -/
def b2n (b : Bool) : Nat := if b then 1 else 0

/-- A number as a register word. -/
def w32 (n : Nat) : Word := BitVec.ofNat 32 n

/-- One increment of a `w`-bit count that saturates. -/
def satInc (w n : Nat) : Nat := if n + 1 < 2 ^ w then n + 1 else 2 ^ w - 1

/-- An addition to a `w`-bit count that saturates. -/
def satAdd (w n k : Nat) : Nat := if n + k < 2 ^ w then n + k else 2 ^ w - 1

/-- The value of a field of `w` bits read as two's complement. -/
def toSigned (w n : Nat) : Int :=
  let m := n % 2 ^ w
  if 2 * m < 2 ^ w then (m : Int) else (m : Int) - (2 ^ w : Nat)

/-- An integer narrowed to `w` bits, two's complement. -/
def ofSigned (w : Nat) (i : Int) : Nat := (i % ((2 ^ w : Nat) : Int)).toNat

/-- An integer clamped to [lo, hi]. -/
def clampInt (lo hi i : Int) : Int := if i < lo then lo else if hi < i then hi else i

/-- The little-endian value of a byte string (R3). -/
def leNat : Bytes → Nat
  | [] => 0
  | b :: bs => b.toNat + 256 * leNat bs

/-- The `n` little-endian bytes of a value (R3). -/
def leBytes : Nat → Nat → Bytes
  | 0, _ => []
  | n + 1, v => BitVec.ofNat 8 v :: leBytes n (v / 256)

/-- The big-endian value of a byte string: network order (R3). -/
def beNat (bs : Bytes) : Nat := leNat bs.reverse

/-- The `n` big-endian bytes of a value (R3). -/
def beBytes (n v : Nat) : Bytes := (leBytes n v).reverse

/-- Byte `i` of a string as a number; 0 beyond its end. -/
def byteAt (bs : Bytes) (i : Nat) : Nat := (bs.getD i 0#8).toNat

/-- Bytes [off, off + n) of a string, short at its end. -/
def slice (bs : Bytes) (off n : Nat) : Bytes := (bs.drop off).take n

/-- The little-endian field of `n` bytes at offset `off`. -/
def leAt (bs : Bytes) (off n : Nat) : Nat := leNat (slice bs off n)

/-- The big-endian field of `n` bytes at offset `off`. -/
def beAt (bs : Bytes) (off n : Nat) : Nat := beNat (slice bs off n)

/-- A string cut or filled with zeros to exactly `n` bytes. -/
def fitBytes (n : Nat) (bs : Bytes) : Bytes := bs.take n ++ List.replicate (n - bs.length) 0#8

/-- A string with bytes [off, off + new.length) replaced. -/
def overwrite (bs : Bytes) (off : Nat) (new : Bytes) : Bytes :=
  bs.take off ++ new ++ bs.drop (off + new.length)

/-- The offset of the first non-zero byte of a string, counted from `off`. -/
def firstNonZero (bs : Bytes) (off : Nat) : Option Nat :=
  match bs with
  | [] => none
  | b :: t => if b = 0#8 then firstNonZero t (off + 1) else some off

/-- The entry of a sparse table at an index; `d` where none is listed. -/
def tget {α : Type} (d : α) (t : Table α) (i : Nat) : α :=
  match t with
  | [] => d
  | (k, v) :: r => if k = i then v else tget d r i

/-- Insert or replace an entry, keeping the indexes rising. -/
def tins {α : Type} (t : Table α) (i : Nat) (v : α) : Table α :=
  match t with
  | [] => [(i, v)]
  | (k, u) :: r => if i < k then (i, v) :: (k, u) :: r
                   else if i = k then (i, v) :: r
                   else (k, u) :: tins r i v

/-- Remove an entry: its index holds the default again. -/
def tdel {α : Type} (t : Table α) (i : Nat) : Table α :=
  match t with
  | [] => []
  | (k, u) :: r => if k = i then r else (k, u) :: tdel r i

/-- Set an entry, in canonical form: the default `d` is never listed. -/
def tset {α : Type} [DecidableEq α] (d : α) (t : Table α) (i : Nat) (v : α) : Table α :=
  if v = d then tdel t i else tins t i v

/-- The canonical form of a table above a bound: indexes strictly rising, no default entry. -/
def tableWf {α : Type} [DecidableEq α] (d : α) : Nat → Table α → Bool
  | _, [] => true
  | lo, (k, v) :: r => decide (lo ≤ k) && decide (v ≠ d) && tableWf d (k + 1) r

/-- One step of the reflected CRC-32C over one byte (R55). -/
def crcByte (poly crc b : Nat) : Nat :=
  (List.range 8).foldl (fun c _ => if c % 2 = 1 then (c / 2) ^^^ poly else c / 2) (crc ^^^ b)

/-- A reflected CRC-32 with initial value and final XOR of all ones. -/
def crcReflected (poly : Nat) (bs : Bytes) : Nat :=
  (bs.foldl (fun c b => crcByte poly c b.toNat) 0xFFFFFFFF) ^^^ 0xFFFFFFFF

/-- CRC-32C, polynomial 0x1EDC_6F41, reflected form 0x82F6_3B78 (R55). -/
def crc32c (bs : Bytes) : Nat := crcReflected 0x82F63B78 bs

/-- CRC-32 of Ethernet, reflected form 0xEDB8_8320 (R343 and the frame check sequence). -/
def crc32 (bs : Bytes) : Nat := crcReflected 0xEDB88320 bs

/-- Replace the element at an index of a list, if there is one. -/
def setAt {α : Type} (l : List α) (i : Nat) (v : α) : List α :=
  l.take i ++ (match l.drop i with | [] => [] | _ :: r => v :: r)

/-- Update every element of a list that meets a test. -/
def updWhere {α : Type} (l : List α) (p : α → Bool) (f : α → α) : List α :=
  l.map fun x => if p x then f x else x

end Sys2Proof.Machine
end

