-- ==== Sys2Proof/Machine/Aes.lean ====
section
/-! DEFINITION. AES-256, Galois/Counter Mode, and the AES key wraps, which the manual takes from FIPS 197, SP 800-38D,
RFC 3394 and RFC 5649 by name (R143, R154, R177, R178). PRESUMED: those standards' text (entry 14). Octets are numbers
below 256. -/

namespace Sys2Proof.Machine

/-! The block cipher. -/

/-- The S-box, octet 0 of a row in its low bits. -/
def sboxRows : List Nat :=
  [0xC072A49CAFA2D4ADF04759FA7DC982CA76ABD7FE2B670130C56F6BF27B777C63,
   0x75B227EBE28012079A059618C323C7041531D871F1E5A534CCF73F362693FDB7,
   0xCF584C4A39BECB6A5BB1FC20ED00D153842FE329B3D63B52A05A6E1B1A2C8309,
   0xD2F3FF1021DAB6BCF5389D928F40A351A89F3C507F02F94585334D43FBAAEFD0,
   0xDB0B5EDE14B8EE4688902A22DC4F816073195D643D7EA7C41744975FEC130CCD,
   0x08AE7A65EAF4566CA94ED58D6D37C8E779E4959162ACD3C25C2406490A3A32E0,
   0x9E1DC186B95735610EF6034866B53E708A8BBD4B1F74DDE8C6B4A61C2E2578BA,
   0x16BB54B00F2D99416842E6BF0D89A18CDF2855CEE9871E9B948ED9691198F8E1]

/-- The inverse S-box. -/
def sboxInvRows : List Nat :=
  [0xCBE9DEC444438E3487FF2F9B8239E37CFBD7F3819EA340BF38A53630D56A0952,
   0x25D18B6D49A25B76B224D92866A12E084EC3FA420B954CEE3D23C2A632947B54,
   0x849D8DA75746155EDAB9EDFD5048706C92B6655DCC5CA4D41698688664F6F872,
   0x6B8A130103BDAFC1020F3FCA8F1E2CD00645B3B80558E4F70AD3BC8C00ABD890,
   0x6EDF751CE837F9E28535ADE72274AC9673E6B4F0CECFF297EADC674F4111913A,
   0xF45ACD78FEC0DB9A2079D2C64B3E56FC1BBE18AA0E62B76F89C5291D711AF147,
   0xEF9CC9939F7AE52D0D4AB519A97F51605FEC8027591012B131C7078833A8DD1F,
   0x7D0C2155631469E126D677BA7E042B17619953833CBBEBC8B0F52AAE4D3BE0A0]

/-- One octet through a box. -/
def boxAt (rows : List Nat) (x : Nat) : Nat := rows.getD (x / 32) 0 / 256 ^ (x % 32) % 256

/-- Times x in the field of AES. -/
def aesDouble (a : Nat) : Nat := if a < 128 then 2 * a else (2 * a) ^^^ 0x11B

/-- A product in the field of AES, the second factor below 16. -/
def aesMul (a k : Nat) : Nat :=
  let a2 := aesDouble a
  let a4 := aesDouble a2
  (if k % 2 = 1 then a else 0) ^^^ (if k / 2 % 2 = 1 then a2 else 0) ^^^ (if k / 4 % 2 = 1 then a4 else 0)
    ^^^ (if k / 8 % 2 = 1 then aesDouble a4 else 0)

/-- XOR of two octet strings. -/
def xorOctets (a b : List Nat) : List Nat := List.zipWith (· ^^^ ·) a b

/-- Word `i` of the key schedule; `w` holds the words before it, newest first. -/
def aesNextWord (i : Nat) (w : List (List Nat)) : List Nat :=
  let last := w.headD []
  let t :=
    if i % 8 = 0 then
      xorOctets ((last.drop 1 ++ last.take 1).map (boxAt sboxRows)) [(List.range (i / 8 - 1)).foldl (fun r _ => aesDouble r) 1, 0, 0, 0]
    else if i % 8 = 4 then last.map (boxAt sboxRows)
    else last
  xorOctets (w.getD 7 []) t

/-- The 15 round keys of a 32-octet key, first round first. -/
def aesKeys (key : List Nat) : List (List Nat) :=
  let w := (List.range 52).foldl (fun w j => aesNextWord (j + 8) w :: w)
    ((List.range 8).map fun i => (key.drop (28 - 4 * i)).take 4)
  let flat := w.reverse.flatten
  (List.range 15).map fun r => (flat.drop (16 * r)).take 16

/-- Row r of the state moves by r columns; `dir` is 5 for the cipher, 13 for its inverse. -/
def aesShift (dir : Nat) (s : List Nat) : List Nat := 
  (List.range 16).map fun i => s.getD ((i + (dir - 1) * (i % 4)) % 16) 0

/-- Each column times a polynomial with coefficients `m`. -/
def aesMix (m : List Nat) (s : List Nat) : List Nat :=
  (List.range 16).map fun i =>
    (List.range 4).foldl (fun t j => t ^^^ aesMul (s.getD (i / 4 * 4 + (i + j) % 4) 0) (m.getD j 0)) 0

/-- AES-256 of one block. -/
def aesBlock (ks : List (List Nat)) (b : List Nat) : List Nat :=
  let round := fun (s k : List Nat) => xorOctets (aesMix [2, 3, 1, 1] (aesShift 5 (s.map (boxAt sboxRows)))) k
  let s := ((ks.drop 1).take 13).foldl round (xorOctets b (ks.headD []))
  xorOctets (aesShift 5 (s.map (boxAt sboxRows))) (ks.getD 14 [])

/-- The inverse cipher of one block. -/
def aesBlockInv (ks : List (List Nat)) (b : List Nat) : List Nat :=
  let round := fun (s k : List Nat) => aesMix [14, 11, 13, 9] (xorOctets ((aesShift 13 s).map (boxAt sboxInvRows)) k)
  let s := ((ks.drop 1).take 13).reverse.foldl round (xorOctets b (ks.getD 14 []))
  xorOctets ((aesShift 13 s).map (boxAt sboxInvRows)) (ks.headD [])

/-- Octet strings as numbers, and back. -/
def octets (b : Bytes) : List Nat := b.map (·.toNat)
def ofOctets (l : List Nat) : Bytes := l.map (BitVec.ofNat 8)

/-- The round keys of a key. -/
def aesKeysOf (key : Bytes) : List (List Nat) := aesKeys (octets (fitBytes 32 key))

/-- AES-256 of one block: key and block (key check values). -/
@[irreducible] def aes256 (key block : Bytes) : Bytes := ofOctets (aesBlock (aesKeysOf key) (octets (fitBytes 16 block)))

/-- Split into blocks of 16, the last one short. -/
def blocks16 (b : Bytes) : List Bytes := (List.range ((b.length + 15) / 16)).map fun i => slice b (16 * i) 16

/-! Galois/Counter Mode. -/

/-- A product in GF(2^128), bit 127 the coefficient of 1. -/
def ghashMul (x h : Nat) : Nat :=
  ((List.range 128).foldl (fun (zv : Nat × Nat) i =>
    let z := if bitAt x (127 - i) then zv.1 ^^^ zv.2 else zv.1
    (z, if zv.2 % 2 = 1 then (zv.2 / 2) ^^^ (0xE1 * 2 ^ 120) else zv.2 / 2)) (0, h)).1

/-- GHASH of whole blocks. -/
def ghash (h : Nat) (bs : List Bytes) : Nat := bs.foldl (fun y b => ghashMul (y ^^^ beNat (fitBytes 16 b)) h) 0

/-- Encryption in counter mode from the counter after `iv`'s first. -/
def gcmCtr (ks : List (List Nat)) (iv data : Bytes) : Bytes :=
  ((blocks16 data).mapIdx fun i b =>
    ofOctets (xorOctets (octets b) (aesBlock ks (octets (fitBytes 12 iv ++ beBytes 4 (i + 2)))))).flatten

/-- The tag of additional data and ciphertext. -/
def gcmTag (ks : List (List Nat)) (iv aad ct : Bytes) : Bytes :=
  let h := beNat (ofOctets (aesBlock ks (List.replicate 16 0)))
  let y := ghash h (blocks16 aad ++ blocks16 ct ++ [beBytes 8 (8 * aad.length) ++ beBytes 8 (8 * ct.length)])
  ofOctets (xorOctets (octets (beBytes 16 y)) (aesBlock ks (octets (fitBytes 12 iv ++ beBytes 4 1))))

/-- AES-GCM (R143, R154): key, 96-bit IV, additional data and plaintext give ciphertext and 16-byte tag. -/
@[irreducible] def gcmSeal (key iv aad pt : Bytes) : Bytes × Bytes :=
  let ks := aesKeysOf key
  let ct := gcmCtr ks iv pt
  (ct, gcmTag ks iv aad ct)

/-- AES-GCM: key, IV, additional data, ciphertext and tag give the plaintext where the tag verifies. -/
@[irreducible] def gcmOpen (key iv aad ct tag : Bytes) : Option Bytes :=
  let ks := aesKeysOf key
  if gcmTag ks iv aad ct = tag then some (gcmCtr ks iv ct) else none

/-! Key wraps. -/

/-- Replace semiblock `i` (8 octets each) of a string. -/
def putSemi (r : Bytes) (i : Nat) (b : Bytes) : Bytes := overwrite r (8 * i) b

/-- The wrapping function W on an initial value and `n` ≥ 2 semiblocks (RFC 3394, 2.2.1). -/
def wrapW (ks : List (List Nat)) (a r : Bytes) : Bytes :=
  let n := r.length / 8
  let (a', r') := (List.range (6 * n)).foldl (fun (x : Bytes × Bytes) t =>
    let b := ofOctets (aesBlock ks (octets (x.1 ++ slice x.2 (8 * (t % n)) 8)))
    (beBytes 8 (beNat (b.take 8) ^^^ (t + 1)), putSemi x.2 (t % n) (b.drop 8))) (a, r)
  a' ++ r'

/-- Its inverse: the initial value and the semiblocks. -/
def unwrapW (ks : List (List Nat)) (c : Bytes) : Bytes × Bytes :=
  let n := c.length / 8 - 1
  (List.range (6 * n)).reverse.foldl (fun (x : Bytes × Bytes) t =>
    let b := ofOctets (aesBlockInv ks (octets (beBytes 8 (beNat x.1 ^^^ (t + 1)) ++ slice x.2 (8 * (t % n)) 8)))
    (b.take 8, putSemi x.2 (t % n) (b.drop 8))) (c.take 8, c.drop 8)

/-- Key wrap with padding (RFC 5649): key-encryption key and data of 1 octet or more. -/
@[irreducible] def keyWrap (kek data : Bytes) : Bytes :=
  let ks := aesKeysOf kek
  let a := [0xA6#8, 0x59#8, 0x59#8, 0xA6#8] ++ beBytes 4 data.length
  let p := fitBytes ((data.length + 7) / 8 * 8) data
  if p.length = 8 then ofOctets (aesBlock ks (octets (a ++ p))) else wrapW ks a p

/-- Unwrap with padding (RFC 5649): none where the integrity check fails. -/
def unwrapPadded (kek blob : Bytes) : Option Bytes :=
  let ks := aesKeysOf kek
  let (a, p) := if blob.length = 16 then let b := ofOctets (aesBlockInv ks (octets blob)); (b.take 8, b.drop 8) else unwrapW ks blob
  let n := beAt a 4 4
  if a.take 4 = [0xA6#8, 0x59#8, 0x59#8, 0xA6#8] ∧ n ≤ p.length ∧ p.length < n + 8 ∧ (p.drop n).all (· == 0#8) = true then
    some (p.take n)
  else none

/-- Unwrap without padding (RFC 3394): none where the integrity check fails. -/
def unwrapPlain (kek blob : Bytes) : Option Bytes :=
  let (a, p) := unwrapW (aesKeysOf kek) blob
  if a = List.replicate 8 0xA6#8 then some p else none

/-- Key unwrap of RFC 3394 (format 0) or RFC 5649 (format 1), of a blob of whole semiblocks (R177). -/
@[irreducible] def keyUnwrap (fmt : Nat) (kek blob : Bytes) : Option Bytes :=
  if blob.length % 8 ≠ 0 ∨ blob.length < 16 then none
  else if fmt = 0 then (if blob.length < 24 then none else unwrapPlain kek blob)
  else unwrapPadded kek blob

end Sys2Proof.Machine
end

