-- ==== Sys2Proof/Config.lean ====
section
/-! DEFINITION. What one part fixes and what the manual leaves open, as constants with no body: no proof can see what
they are, so a claim holds whatever they are. -/

namespace Sys2Proof.Config

/-- The model's supply of free values: the k-th is used where the manual leaves the k-th value of a run open. -/
opaque freeNat : Nat → Nat

/-- The k-th supply of random octets (key generation, nonces). -/
opaque freeBytes : Nat → Nat → Bytes

/-- The NVSEL ball is tied to VDDIO_A: VDDIO_N is declared as 1.80 V (R24). -/
opaque nvsel18 : Bool

/-- The boot ROM's bytes, which the manual does not state (Table 13-3). -/
opaque bootRom : Nat → Byte

/-- Delay of a port's receive and transmit paths in PCLK cycles, which each device accounts for itself (R161). -/
opaque rxDelay : Nat → Nat
opaque txDelay : Nat → Nat

/-- How a copy folds an output of Table 14-2, laid out as numbers, into its 64-bit signature (R289). -/
opaque signatureFold : BitVec 64 → List Nat → BitVec 64

/-- What a read of Panel RAM beyond its 2 MiB gives the compositor, and the pixel at a position of a surface that has none
there (an empty surface, or STC sizes that are no multiples of 8), which the manual does not state. -/
opaque panelBeyond : Nat → Byte
opaque emptyPixel : Nat → Nat → Nat

/-- What final test programmed into one part and the manual does not fix (Table 3-1): numbers and octets from which
Machine/Fuses.lean takes the fields within their ranges. -/
opaque fuseLot : Nat
opaque fuseWaferDie : Nat
opaque fuseTestDate : Nat
opaque fuseIdkeyPriv : Bytes
opaque fuseKekSeed : Bytes

end Sys2Proof.Config
end

