-- ==== Sys2Proof/Machine/RegMap.lean ====
section
/-! DEFINITION. The register maps of the sentinel address space: for each register its reset value and the bits of each
type code of Table 0-3. Registers whose reads or writes do more than their type says are handled in their family. -/

namespace Sys2Proof.Machine

/-- A register's fields by type code: reset value, and masks of RW, LK, W1C and RC bits. Bits in no mask are RO, WO or
reserved: a write does not store them (R4, R6). -/
structure RegSpec where
  reset : Nat := 0
  rw : Nat := 0
  lk : Nat := 0
  w1c : Nat := 0
  rc : Nat := 0
  deriving DecidableEq, Repr

/-- Is `a` in [lo, hi]? -/
def inRange (a lo hi : Nat) : Bool := decide (lo ≤ a) && decide (a ≤ hi)

/-- EVC, 0x4000_0000 (Table 15-2). -/
def evcReg (o : Nat) : RegSpec :=
  match o with
  | 0x004 => { w1c := 0x1F }
  | 0x008 => { rw := 0xFFFF }
  | 0x01C => { rc := 0xFFFFFFFF }
  | _ =>
    if inRange o 0x220 0x23F then { reset := 0xFFFFFFFF, rw := 0xFFFFFFFF }
    else if inRange o 0x400 0x7FF then { reset := 0x100, rw := 0x1F0F }
    else {}

/-- TMR, 0x4001_0000 (Table 15-6). -/
def tmrReg (o : Nat) : RegSpec :=
  match o with
  | 0x000 => { w1c := 0xFFFF }
  | 0x004 => { rw := 0xFF }
  | 0x008 => {}
  | _ =>
    if inRange o 0x040 0x13F then
      match o % 0x20 with
      | 0x00 => { rw := 0x3F }
      | 0x04 => { rw := 0xFFFF }
      | 0x08 => { reset := 0xFFFF, rw := 0xFFFF }
      | 0x0C => { reset := 0xFFFF, rw := 0xFFFF }
      | 0x10 => { rw := 0xFFFF }
      | 0x18 => { reset := 0xFFFFFFFF }
      | _ => {}
    else {}

/-- LOFT, 0x400E_0000 (Table 15-5). STATUS and the RTC are read from the Loft's own state. -/
def loftReg (o : Nat) : RegSpec :=
  match o with
  | 0x004 => { w1c := 0x1FF }
  | 0x008 => { reset := 0x840, rw := 0xFF7 }
  | 0x00C => { reset := 0x0BFD, rw := 0x0BFD }
  | 0x020 => { rw := 0xFFFFFFFF }
  | 0x024 => { rw := 0x3FF }
  | 0x028 => { w1c := 0x7F }
  | _ => {}

/-- CLK, 0x400A_0000 (Table 2-7). RCAUSE is held in the Loft (R26); its reset value is that of a first power-up. -/
def clkReg (o : Nat) : RegSpec :=
  match o with
  | 0x004 => { reset := 0x07, w1c := 0xFF }
  | 0x00C => { rw := 0x7 }
  | 0x010 => { reset := 0x4, rw := 0x7 }
  | 0x014 => { reset := 1000, rw := 0x3FF }
  | 0x01C => { rc := 0xFFFF }
  | 0x020 => { rc := 0xFFFFFFFF }
  | 0x024 => { rc := 0xFFFFFFFF }
  | _ => {}

/-- VAT, 0x4008_0000 (Table 11-7). STATUS, GEOM, BLOCKS, ECMAX, ECMIN and RETIRED are read from the Vat's own state. -/
def vatReg (o : Nat) : RegSpec :=
  match o with
  | 0x004 => { rw := 0x8000000F }
  | 0x00C => { reset := 0x640024, lk := 0xFFFF007F }
  | 0x010 => { reset := 50000, lk := 0xFFFFFFFF }
  | 0x014 => { reset := 256, lk := 0xFFFF }
  | 0x024 => { rc := 0xFFFFFFFF }
  | 0x028 => { rc := 0xFFFFFFFF }
  | 0x034 => { rc := 0xFFFFFFFF }
  | _ => if inRange o 0x080 0x0FF then { reset := 0x55555555, lk := 0xFFFFFFFF } else {}

/-- IDN, 0x400B_0000 (Table 3-2). The fuse fields and FPSTAT.BUSY are read from the fuses' own state. -/
def idnReg (o : Nat) : RegSpec :=
  match o with
  | 0x0F0 => { lk := 0x3FF }
  | 0x0F8 => { w1c := 6 }
  | 0x0FC => { rw := 1 }
  | _ => {}

/-- PAIR, 0x4009_0000 (Table 14-8). STATUS and WDOG_LEFT are read from the pair's own state. -/
def pairReg (o : Nat) : RegSpec :=
  match o with
  | 0x004 => { w1c := 0x7F }
  | 0x008 => { rw := 0x80000000, lk := 1 }
  | 0x00C => { reset := 65536, lk := 0xFFFFF }
  | 0x010 => { reset := 1000, lk := 0xFFFF }
  | 0x02C => { rc := 0xFFFFFFFF }
  | 0x030 => { rc := 0xFFFFFFFF }
  | _ => {}

/-- KEYE, 0x400F_0000 (Table 9-10). STATUS and 0x008–0x014 are read from the key engine's own state. -/
def keyeReg (o : Nat) : RegSpec :=
  match o with
  | 0x004 => { w1c := 0xF }
  | 0x024 => { rc := 0xFFFFFFFF }
  | _ => {}

/-- GPIO, 0x4002_0000 (Table 19-8). IN is read from the pins' own state; the LK fields depend on the locked mask
(Machine/Pins.lean). -/
def gpioReg (o : Nat) : RegSpec :=
  if inRange o 0x010 0x018 then { rw := 0xFFFF }
  else if inRange o 0x040 0x048 then { lk := 0xFFFF }
  else if inRange o 0x050 0x058 then { lk := if o = 0x050 then 0xFFFF else if o = 0x054 then 0xFF else 0 }
  else if inRange o 0x060 0x068 then { w1c := 0xFFFF }
  else if inRange o 0x070 0x078 then { reset := 0xFFFF }
  else if o = 0x090 then { rw := 1 }
  else if inRange o 0x0A0 0x0AC then { reset := 1, lk := 3 }
  else if inRange o 0x100 0x1BC then { reset := 0x60, lk := 0x7FF }
  else {}

/-- FAN, 0x4003_0000 (Table 19-5). STATUS, WDOG_LEFT and RPM are read from the fan block's own state. -/
def fanReg (o : Nat) : RegSpec :=
  match o with
  | 0x004 => { w1c := 0x1FF }
  | 0x008 => { reset := 8, rw := 0x8000000F }
  | 0x010 => { reset := 1000, lk := 0xFFFF }
  | 0x01C => { reset := 10, lk := 0x3F }
  | _ =>
    if inRange o 0x020 0x02C then { reset := 400, rw := 0x1FF }
    else if inRange o 0x030 0x03C then { reset := 400 }
    else if inRange o 0x040 0x07C then
      match o % 0x10 with
      | 0x0 => { reset := 0xFFFFFF }
      | 0x8 => { reset := 1 + 2000 * 2 ^ 16, rw := 0xFFFF0007 }
      | 0xC => { reset := 300000, rw := 0xFFFFFF }
      | _ => {}
    else if inRange o 0x080 0x09C then { reset := 20 + 10 * ((o - 0x080) / 4) + 400 * 2 ^ 16, lk := 0x1FF00FF }
    else {}

/-- LOW and HIGH of a rail in mV (Table 20-8). -/
def railLimits (r : Nat) : Nat × Nat :=
  match r with
  | 0 => (873, 927)
  | 1 => (873, 927)
  | 2 => (1164, 1236)
  | 3 => (1746, 1854)
  | 4 => (855, 945)
  | 6 => if Config.nvsel18 then (1710, 1890) else (1140, 1260)
  | _ => (1710, 1890)

/-- TEL, 0x400D_0000 (Table 19-1a). Readings, SUBS and DROPPED are read from the state they show. -/
def telReg (o : Nat) : RegSpec :=
  match o with
  | 0x004 => { w1c := 0xFFFF }
  | 0x008 => { reset := 0xFF, rw := 0xFF }
  | _ =>
    if inRange o 0x060 0x07C then
      let l := railLimits ((o - 0x060) / 4)
      { reset := l.1 + l.2 * 2 ^ 16, rw := 0xFFFFFFFF }
    else {}

/-- PNL, 0x4005_0000 (Table 16-5). STATUS, FRZ_STAT, LS_STAT and the live set are read from the raster's own state. -/
def pnlReg (o : Nat) : RegSpec :=
  match o with
  | 0x004 => { w1c := 0x7FF }
  | 0x008 => { rw := 0x80000003, lk := 0xC }
  | 0x00C => { rw := 0x3F }
  | 0x010 => { reset := 0x00100280, rw := 0x0FFF0FFF }
  | 0x014 => { reset := 0x00300060, rw := 0x03FF03FF }
  | 0x018 => { reset := 0x000A01E0, rw := 0x03FF07FF }
  | 0x01C => { reset := 0x00210002, rw := 0x03FF03FF }
  | 0x020 => { rw := 0x800007FF }
  | 0x024 => { rw := 0x1FFFF8 }
  | 0x028 => { reset := 8, lk := 0xFF }
  | 0x038 => { lk := 0x07FF07FF }
  | 0x03C => { lk := 0x07FF07FF }
  | 0x040 => { lk := 0xFFFFFFFF }
  | 0x048 => { rc := 0xFFFFFFFF }
  | _ => {}

/-- A layer block at an offset of it (Table 17-7): the mask of its fields. -/
def layerMask (o : Nat) : Nat :=
  match o with
  | 0x00 => 0x03FFFF7D
  | 0x04 => 0x1FFFFC
  | 0x08 => 0xFFFC
  | 0x1C => 0xFFFFFFFF
  | _ => 0x07FF07FF

/-- CMP, 0x4006_0000 (Table 17-7). STATUS is read from the compositor's own state. -/
def cmpReg (o : Nat) : RegSpec :=
  match o with
  | 0x004 => { w1c := 0x3F }
  | 0x008 => { rw := 0x80000003 }
  | 0x00C => { rw := 0xFFFFFF }
  | 0x030 => { rw := 0x03FF000D }
  | 0x034 => { rw := 0x1FFFF8 }
  | 0x100 => { reset := 64 + 255 * 2 ^ 24, rw := 0xFF0107FF }
  | 0x104 => { rc := 0x3FFFFFFF }
  | 0x120 => { rc := 0xFFFFFFFF }
  | 0x124 => { rw := 0x07FF07FF }
  | 0x128 => { rw := 0x1FFFFC }
  | 0x420 => { reset := 1, lk := 0x07FF07FF }
  | 0x424 => { reset := 1, lk := 0x07FF07FF }
  | 0x430 => { lk := 0x03FF0071 }
  | 0x434 => { lk := 0x1FFFFC }
  | 0x438 => { lk := 0xFFFC }
  | 0x43C => { lk := 0x07FF07FF }
  | 0x440 => { lk := 0x07FF07FF }
  | 0x450 => { lk := 0x07FF07FF }
  | 0x454 => { reset := 0x00010001, lk := 0x007F00FF }
  | 0x458 => { lk := 0x1FFFFC }
  | 0x45C => { reset := 60, lk := 0x1FF }
  | 0x470 => { reset := 0x1E00, lk := 0xFF07 }
  | 0x474 => { lk := 0x07FF07FF }
  | 0x478 => { lk := 0x1FFFFC }
  | 0x47C => { lk := 0x1FFFFC }
  | 0x480 => { lk := 0x1FFFFF }
  | 0x484 => { lk := 0x1FFFFF }
  | _ =>
    if o = 0x010 ∨ o = 0x020 then { rw := 0x01FF01FF }
    else if o = 0x014 ∨ o = 0x024 then { rw := 0x03FFFF0F }
    else if o = 0x018 ∨ o = 0x01C ∨ o = 0x028 ∨ o = 0x02C then { rw := 0x1FFFFC }
    else if inRange o 0x040 0x07F then
      { reset := if o % 0x20 = 0x1C then 0x01000100 else 0, rw := layerMask (o % 0x20) }
    else if inRange o 0x400 0x41F then
      { reset := if o % 0x20 = 0x1C then 0x01000100 else 0, lk := layerMask (o % 0x20) }
    else if inRange o 0x1000 0x1FFC then { rw := 0xFFFFFFFF }
    else {}

/-- BLT, 0x4007_0000 (Table 17-8). STATUS is read from the Blitter's own state. -/
def bltReg (o : Nat) : RegSpec :=
  match o with
  | 0x004 => { w1c := 7 }
  | 0x008 => { rw := 0x3FF }
  | 0x010 => { rw := 0x00FF7773 }
  | 0x014 => { rw := 0x1FFFFF }
  | 0x018 => { rw := 0xFFFF }
  | 0x01C => { rw := 0x1FFFFF }
  | 0x020 => { rw := 0xFFFF }
  | 0x024 => { reset := 0x00010001, rw := 0x07FF07FF }
  | 0x028 => { rw := 0xFFFFFFFF }
  | 0x02C => { rw := 0x07FF07FF }
  | 0x034 => { rw := 0x3FF }
  | _ => {}

/-- AUD, 0x4004_0000 (Table 18-5). STATUS, SAMPLES, LEVEL and SP_POS are read from audio's own state. -/
def audReg (o : Nat) : RegSpec :=
  match o with
  | 0x004 => { w1c := 0xFFF }
  | 0x008 => { rw := 7 }
  | 0x010 => { rw := 0xFFFF }
  | 0x0C0 => { rw := 0x1FFFFF }
  | 0x0C4 => { reset := 1, rw := 0x3FFFFF }
  | 0x0C8 => { rw := 0x1FFFFF }
  | 0x0CC => { reset := 0x10000, rw := 0xFFFFFFFF }
  | 0x0D0 => { rw := 0xF }
  | 0x180 => { rw := 3 }
  | 0x190 => { reset := 0x30, rw := 0x1F7 }
  | 0x184 => { reset := 1000 * 2 ^ 16, rw := 0xFFFF7FFF }
  | 0x194 => { reset := 1000 * 2 ^ 16, rw := 0xFFFF7FFF }
  | _ =>
    if inRange o 0x040 0x0BF then
      match o % 0x20 with
      | 0x00 => { rw := 0xFFFFFFFF }
      | 0x04 => { reset := 128 * 2 ^ 8, rw := 0xFF07 }
      | 0x08 => { rw := 0xFFFFFFFF }
      | 0x0C => { reset := 0xFFFF, rw := 0xFFFFFFFF }
      | 0x10 => { rw := 1 }
      | _ => {}
    else if inRange o 0x100 0x13F ∧ o % 0x20 < 0x18 then { rw := 0xFFFF }
    else if o = 0x200 ∨ o = 0x300 then { rw := 0x3F }
    else if inRange (o % 0x100) 0x10 0x87 ∧ inRange o 0x200 0x3FF then
      { reset := if (o % 0x100 - 0x10) % 0x14 = 0 then 0x400000 else 0, rw := 0xFFFFFF }
    else {}

/-- The register at a sentinel address. -/
def regSpec (a : Nat) : RegSpec :=
  let o := a % 0x10000
  match a / 0x10000 with
  | 0x4000 => evcReg o
  | 0x4001 => tmrReg o
  | 0x4002 => gpioReg o
  | 0x4003 => fanReg o
  | 0x4004 => audReg o
  | 0x4005 => pnlReg o
  | 0x4006 => cmpReg o
  | 0x4007 => bltReg o
  | 0x4008 => vatReg o
  | 0x4009 => pairReg o
  | 0x400A => clkReg o
  | 0x400B => idnReg o
  | 0x400D => telReg o
  | 0x400E => loftReg o
  | 0x400F => keyeReg o
  | _ => {}

end Sys2Proof.Machine
end

