-- ==== Sys2Proof/Machine/State.lean ====
section
/-! DEFINITION. The state of the LP-9640 as plain data: every register, queue, counter, mode and pin the spec gives
it, and the queue of commands that wait. Registers that software reaches in the sentinel address space stand in `regs`,
keyed by their address; a register not listed holds the reset value its register map gives (Machine/RegMap.lean). -/

namespace Sys2Proof.Machine

/-- Why the machine stops. -/
inductive Fault where
  /-- Raised by a register write, a bit write or a debug write that leaves a general pin with its fixed function and
  its general output driver both enabled: the manual calls what follows undefined, its effect on other doors and ports
  included (R405, chapter 0). Safe: the model stops where the hardware goes on. -/
  | undefinedPinFunction
  deriving DecidableEq, Repr

/-- Why a command has no meaning in this model. -/
inductive Refusal where
  /-- Raised by an arm of `exec` whose command has no meaning yet. Safe: the model stops. -/
  | notModelled (mnemonic : String)
  deriving DecidableEq, Repr

/-- What a port's transmit lanes carry (Table 6-4): electrical idle, Remote Fault ordered sets, Idle, or Idle and frames. -/
inductive Line where
  | electricalIdle | remoteFault | idle | frames
  deriving DecidableEq, Repr

/-- What a controller puts on its I2C bus (R113): a START or a repeated START, a byte it sends, bytes it reads, a STOP, and
SCL pulses alone. -/
inductive I2cBit where
  | start | restart
  | byte (b : Byte)
  | read (n : Nat)
  | stop
  | pulses (n : Nat)
  deriving DecidableEq, Repr

/-- What the Vat asks of the NAND device (Table 11-1): RESET of every target, SET FEATURES of the interface and the drive code,
ZQ CALIBRATION LONG of every LUN, a BLOCK ERASE, and a PAGE PROGRAM with the columns written. -/
inductive NandOp where
  | reset
  | features (nvddr3 : Bool) (mode drive : Nat)
  | zqCal
  | erase (block : Nat)
  | program (block page : Nat) (columns : Bytes)
  deriving DecidableEq, Repr

/-- What PNL_PCLK does: low, or a clock on whose named edge the panel samples (R335). -/
inductive Pclk where
  | low | rising | falling
  deriving DecidableEq, Repr

/-- What the LVDS pairs show: powered down, a steady differential 0, or the seven bit slots of a pixel clock on LV0 to LV3
and on the clock pair (R329, R330, R336). -/
inductive Lvds where
  | highZ
  | steady
  | slots (pairs : List (List Bool))
  deriving DecidableEq, Repr

/-- The panel balls in one pixel clock: the parallel group, colours as RGB888, and the LVDS group. -/
structure PanelBalls where
  rgb : Nat := 0
  hsync : Bool := false
  vsync : Bool := false
  de : Bool := false
  pclk : Pclk := .low
  lvds : Lvds := .highZ
  deriving DecidableEq, Repr

/-- The audio balls through one sample (R382–R384, Table 18-3). Where a list is empty its balls drive low throughout. -/
structure AudioBalls where
  /-- AUD_PWM_P and AUD_PWM_N in each of the 250 ACLK cycles. -/
  pwm : List (Bool × Bool) := []
  /-- AUD_MCLK carries ACLK. -/
  mclk : Bool := false
  /-- ACLK cycles of one AUD_BCLK cycle; 0 where AUD_BCLK drives low. -/
  bclk : Nat := 0
  /-- AUD_FS and AUD_SD in each AUD_BCLK cycle; both change on its falling edge. -/
  fs : List Bool := []
  sd : List Bool := []
  en0 : Bool := false
  en1 : Bool := false
  deriving DecidableEq, Repr

/-- What the block sends to the world outside it, newest first in `State.out`. The machine never reads it. A reset puts every
ball in its reset state. -/
inductive Out where
  /-- A reply or output data written to host memory (R57, R63). -/
  | hostWrite (door addr : Nat) (data : Bytes)
  /-- An MSI-X message (Table 4-13). -/
  | msix (door vector : Nat)
  /-- The reply, status, data or notice bytes that an SPI instruction returns (Table 4-9). -/
  | spiData (data : Bytes)
  /-- The value a register or memory read returned to its reader. -/
  | readData (value : Nat)
  /-- A frame or cell sent on a port; `ok` is false where it leaves aborted, with an error code. -/
  | frame (port : Nat) (data : Bytes) (ok : Bool)
  /-- The transmit lanes of a port begin to carry something else (Table 6-4). -/
  | line (port : Nat) (what : Line)
  /-- An unsuccessful ring access reported through AER (R64). -/
  | aer (door : Nat)
  /-- A line as it leaves on the panel balls: for each level in turn, the pixel clocks it stays (R331, R335–R337). -/
  | panelLine (line : Nat) (clocks : List (Nat × PanelBalls))
  /-- The panel balls as they stand while the raster does not scan (R330). -/
  | panelIdle (balls : PanelBalls)
  /-- The audio balls through one sample (R382–R384). -/
  | audio (balls : AudioBalls)
  /-- A PWM period starts: for how many of its 400 ticks each of FAN0_PWM–FAN2_PWM is released before it drives low (R392). -/
  | fanPwm (released : List Nat)
  /-- FAN3's gate outputs AH, AL, BH, BL, CH, CL from now on: the ticks of this PWM period, first and past the last, in which
  each is high (R397, R398). -/
  | gates (high : List (Nat × Nat))
  /-- A NAND operation of the Vat. -/
  | nand (op : NandOp)
  /-- What a controller puts on its I2C bus, in order, at its SPEED (R113, R410). -/
  | i2c (controller speed : Nat) (bus : List I2cBit)
  /-- Bits shifted out of TDO (R427). -/
  | tdo (bits : List Bool)
  /-- What the boundary register drives the covered outputs with, in chain order: 0 low, 1 high, 2 high impedance. -/
  | boundary (drives : List Nat)
  deriving DecidableEq, Repr

/-- Where a reply-pool entry was taken from (R71). -/
inductive PoolKind where
  | none | floor | shared
  deriving DecidableEq, Repr

/-- How far an accepted command has come. -/
inductive CmdStage where
  /-- Door 2: continuation packets are still to bring `left` bytes (R66). -/
  | collecting (left : Nat)
  | waiting
  | running
  | replied
  deriving DecidableEq, Repr

/-- An outstanding command of a door (R69). -/
structure Cmd where
  tag : Nat
  opcode : Nat
  flags : Nat
  pkt : Bytes
  input : Bytes := []
  pool : PoolKind := .floor
  /-- Its replies are dropped when formed: a door reset (R81) or a forced claim (R76) came after it. -/
  dropped : Bool := false
  /-- Its one interim reply has been sent (R70). -/
  interimSent : Bool := false
  stage : CmdStage := .waiting
  /-- Words its engine keeps for it while it runs. -/
  aux : List Nat := []
  /-- GEN under which it was accepted (R202). -/
  gen : Nat := 0
  /-- Its commit point has passed (R201). -/
  committed : Bool := false
  deriving DecidableEq, Repr

/-- A formed reply that waits for delivery (Table 4-6). -/
structure Reply where
  tag : Nat
  status : Nat
  interim : Bool := false
  unsol : Bool := false
  gen : Nat
  opcode : Nat
  detail : Nat := 0
  epoch : Nat
  res0 : Nat := 0
  res1 : Nat := 0
  res2 : Nat := 0
  /-- Output data that waits for the door 2 window; on the other doors `some []` marks data already written. -/
  data : Option Bytes := none
  quiet : Bool := false
  pool : PoolKind := .none
  /-- The final reply of an accepted command: its delivery ends the command. -/
  endsCmd : Bool := false
  deriving DecidableEq, Repr

/-- One door (Table 4-7 and chapter 4). Door 3's session, grant and ring registers are fixed (R68). -/
structure Door where
  grant : Nat := 0
  session : Bool := false
  resetPend : Bool := false
  linkUp : Bool := false
  /-- A low on the door's PCIe reset ball holds its PHY in reset (R418). -/
  perst : Bool := false
  expectSeq : Nat := 0
  cmds : List Cmd := []
  replies : List Reply := []
  floorUsed : Nat := 0
  cringBase : Nat := 0
  cringLog2 : Nat := 4
  rringBase : Nat := 0
  rringLog2 : Nat := 4
  ringEnable : Bool := false
  cmdTail : Nat := 0
  cmdHead : Nat := 0
  rplHead : Nat := 0
  rplTail : Nat := 0
  phase : Bool := true
  notice : Nat := 0
  noticeMask : Nat := 0x7F
  modPeriod : Nat := 0
  idle : Bool := false
  /-- A moderation period runs, and the PCLK time of its end (R79, R246). -/
  modRunning : Bool := false
  modEnd : Nat := 0
  /-- Vectors held by moderation. -/
  held : List Nat := []
  /-- MSI-X table words by offset; an unlisted vector control word reads 1, any other word 0. -/
  msixTable : Table Nat := []
  pba : Nat := 0
  /-- Door 2: the 8-packet queue, OVERRUN, the data window and the instruction before this one. -/
  spiQueue : List Bytes := []
  overrun : Bool := false
  window : Option Bytes := none
  /-- The reply whose data the window holds has been read out (R66). -/
  windowRead : Bool := false
  lastSpi : Nat := 0
  /-- What a door 2 EVC_CLAIM under way has chosen (R310): a source, or no request. -/
  spiClaim : Option (Option Nat) := none
  irq2 : Bool := false
  /-- Telemetry subscription: period in ms, 0 for none, and items (R254). -/
  telPeriod : Nat := 0
  telItems : Nat := 0
  /-- PCLK time at which the present telemetry period ends. -/
  telNext : Nat := 0
  deriving DecidableEq, Repr

/-- The reply pool, the dispatcher and the pool of Stock entries (R71, R72, R77). -/
structure Pool where
  sharedFree : Nat := 128
  pointer : Nat := 0
  stockPointer : Nat := 0
  /-- The door the Interpreter's round robin names next (R77). -/
  rr : Nat := 0
  telemDropped : Nat := 0
  deriving DecidableEq, Repr

/-- The Event Controller beyond its registers (R306–R313). Target 0 is the sentinel, target d + 1 is door d. -/
structure Evc where
  pend : Table Nat := []
  /-- Each target's priority stack, top entry first: source and level. -/
  stk : Table (List (Nat × Nat)) := []
  /-- The level last signalled to a door target, plus 1; 0 where none. -/
  lastSig : Table Nat := []
  /-- The sentinel's moderation period runs, and the PCLK time of its end (R313). -/
  modHold : Bool := false
  modEnd : Nat := 0
  deriving DecidableEq, Repr

/-- Power states of the device (Table 2-8). -/
inductive PState where
  | run | dim | nap | sleep | off
  deriving DecidableEq, Repr

/-- The root: resets, power states and throttling (chapter 2). -/
structure Clk where
  /-- A cold or warm reset is in progress: RSTOUT_N is low. -/
  held : Bool := true
  cold : Bool := true
  /-- Locked once a reset is released; a cold reset relocks the PLL. -/
  pllLock : Bool := false
  refclkOk : Bool := true
  thermHold : Bool := false
  pstate : PState := .run
  psBusy : Bool := false
  /-- RUN to DIM has been requested; admission stops at the next boundary (R30). -/
  dimWanted : Bool := false
  admitStopped : Bool := false
  /-- The drain of R30 runs: the first boundary after the request for DIM has stopped admission. -/
  draining : Bool := false
  /-- PCLK time of that boundary. -/
  drainFrom : Nat := 0
  /-- DIM to RUN: the lanes are being powered up. -/
  runWanted : Bool := false
  /-- NAP is requested (R29). -/
  napWanted : Bool := false
  sleepWanted : Bool := false
  /-- Admission resumes at the next boundary after PSTATE reads RUN (R29). -/
  admitFrom : Bool := false
  throttle : Nat := 0
  droop : Bool := false
  pxdivPend : Option Nat := none
  /-- The divisor that PXCLK runs on. -/
  pxdivLive : Nat := 1000
  /-- Positions 0–7 of the compositor's FCLK and of SCLK (R32), and the FCLK half of an SCLK cycle. -/
  fpos : Nat := 0
  spos : Nat := 0
  sphase : Nat := 0
  hotSensor : Nat := 0
  hotTemp : Int := 0
  temps : List Int := []
  rails : List Nat := []
  /-- Sensors that calibrate now, bit n for TSn (R389). -/
  cal : Nat := 0
  deriving DecidableEq, Repr

/-- The general pins beyond their registers (R391, R406–R409). -/
structure Pins where
  /-- Synchronised levels of GP0–GP47, bit n for GPn, as the balls show them. -/
  level : Nat := 0
  /-- How far the lock sequence of each bank has come: 0 none, 1 after 0x5A, 2 after 0xA5. -/
  lockSeq : Table Nat := []
  /-- Drive of each pin as its pad holds it through SLEEP: 0 low, 1 high, 2 high impedance, 3 pull-down, 4 pull-up. -/
  pads : List Nat := []
  /-- Drive of each pin when it last took its sleep state in NAP or in the fault state, for SLEEP 2. -/
  held : List Nat := []
  deriving DecidableEq, Repr

/-- An I2C transaction that waits or runs (R113–R115). -/
structure I2cXfer where
  door : Nat
  tag : Nat
  port : Nat
  addr : Nat
  select : Nat
  write : Bool
  off : Nat
  len : Nat
  data : Bytes
  deriving DecidableEq, Repr

/-- An I2C controller: its queue, whether the head runs, the port served last and the select pin it holds low (255 for
none). -/
structure I2cCtl where
  queue : List I2cXfer := []
  running : Bool := false
  last : Nat := 255
  sel : Nat := 255
  deriving DecidableEq, Repr

/-- A tachometer: PCLK time of its last accepted edge, and whether the present slowness has been a fault (R393, R394). -/
structure Tach where
  edge : Option Nat := none
  faulted : Bool := false
  /-- PCLK time until which the channel was seen not to count toward a fault. -/
  mark : Nat := 0
  deriving DecidableEq, Repr

/-- The fan block beyond its registers (R391–R401). -/
structure Fans where
  tableDuty : Nat := 400
  tableBad : Bool := false
  tach : Table Tach := []
  /-- Resolved inputs: bits 0–2 tachometers, 3–5 Hall A–C, 6 TRIP_N. -/
  resolved : Nat := 0
  /-- FAN3_TRIP_N is asserted. -/
  tripIn : Bool := true
  /-- 0 TRIPPED, 1 SAFE, 2 RUN. -/
  f3 : Nat := 0
  /-- An ARM waits for the next period start. -/
  arm : Bool := false
  /-- Hall code at the inputs; unresolved inputs read 0. -/
  hall : Nat := 0
  /-- DIR, COMP and DEAD in force since the last period start. -/
  dir : Bool := false
  comp : Bool := true
  dead : Nat := 10
  /-- TCLK tick of the last period start. -/
  pwmAt : Nat := 0
  /-- Per gate output, the TCLK tick from which its command has been true through the last change of the drive. -/
  gateFrom : List Nat := []
  /-- The watchdog: timeout taken in ms and PCLK time of its start while it runs; the value WDOG_LEFT keeps while it does
  not. -/
  wdog : Option (Nat × Nat) := none
  left : Nat := 1000
  deriving DecidableEq, Repr

/-- A write that waits for the Loft: register offset, the bits it writes and their values (R268, R316). -/
structure LoftWrite where
  offset : Nat
  mask : Word
  value : Word
  deriving DecidableEq, Repr

/-- The Loft beyond its registers (R315–R323). -/
structure Loft where
  xtalRun : Bool := false
  /-- The crystal has been found stopped (R315): the RTC, the sampler and the button's timing stand still. -/
  xtalDead : Bool := false
  pwrEn : Bool := true
  /-- Writes that wait for the crystal, oldest first (R316). -/
  wq : List LoftWrite := []
  btn : Bool := false
  tstate : List Nat := [2, 2, 2, 2]
  /-- Per input: side and number of consecutive samples outside the band (R319). -/
  streak : List (Nat × Nat) := [(0, 0), (0, 0), (0, 0), (0, 0)]
  /-- TAMPER_INDET has been raised for this Loft reset (R319), per input. -/
  indetDone : List Bool := [false, false, false, false]
  /-- Sources latched while the core is unpowered, presented at release (R318). -/
  latched : List Nat := []
  rtcSub : Nat := 0
  /-- Crystal cycles into the present span of 2^20, over which CAL.TRIM corrects (R317). -/
  xtalPos : Nat := 0
  rtcSec : Nat := 0
  rtcSecL : Nat := 0
  /-- A wake is held for the end of the minimum low time (R322). -/
  wakeHeld : Bool := false
  sleepExit : Bool := false
  longDone : Bool := false
  /-- The button has been down since the press that forced off (R322). -/
  forcedPress : Bool := false
  deriving DecidableEq, Repr

/-- One Karpol core's architectural state (Tables 13-1, 13-2, 13-13). -/
structure Core where
  d : Table Word := []
  a : Table Word := []
  /-- AC0–AC3, 56 bits two's complement. -/
  ac : Table Int := []
  lk : Word := 0
  stat : Word := 0
  pc : Word := 0
  vbase : Word := 0
  stklim : Word := 0x2001FEC0
  ecause : Word := 0
  eaddr : Word := 0
  cctl : Word := 3
  cycle : Nat := 0
  cycleh : Word := 0
  /-- Stopped in WAIT (R278). -/
  waiting : Bool := false
  /-- Locked up (R280). -/
  lockup : Bool := false
  /-- No interrupt is taken at the boundary directly after EI, MTC STAT or POP STAT (R278). -/
  shadow : Bool := false
  deriving DecidableEq, Repr

/-- What the pair is doing about a class S fault (R295–R298). -/
inductive Handling where
  | run | bist
  /-- Zeroing the sentinel memories before a restart. -/
  | zeroing
  deriving DecidableEq, Repr

/-- An entry of the replay queue (R288): a value read, or an interrupt entry or a completion of WAIT. -/
inductive Replay where
  | load (v : Word)
  /-- An interrupt of a level, entered after a count of instructions. -/
  | irq (level count : Nat)
  | wait
  deriving DecidableEq, Repr

/-- The sentinel pair beyond the main copy's registers (chapter 14). -/
structure Pair where
  /-- 0 TIGHT, 1 LOOSE, 2 SOLO, 3 REPLAY. -/
  mode : Nat := 0
  /-- Copy B is main. -/
  mainB : Bool := false
  failedA : Bool := false
  failedB : Bool := false
  /-- The checker's core in Loose and Replay mode; in Tight mode it executes each instruction two cycles behind the main copy
  on the same data (R284), so that its core is the main copy's. -/
  chk : Option Core := none
  /-- Recorded instructions of the main copy that the checker has not executed yet. -/
  lag : Nat := 0
  /-- The commit set: the state at the last committed point (R286, R289). -/
  commit : Core := {}
  /-- Instructions retired since the last checkpoint (R290). -/
  since : Nat := 0
  /-- Instructions the main copy has issued since the last checkpoint of Loose mode, or since Replay mode began. -/
  issued : Nat := 0
  /-- Loose mode: each copy's signature of its outputs since the last checkpoint (R289). -/
  sigMain : BitVec 64 := 0
  sigChk : BitVec 64 := 0
  handling : Handling := .run
  /-- A further class S fault makes an outcome of Solo a restart (R434). -/
  noSolo : Bool := false
  /-- Break mode is armed; the pair, or in Replay mode the checker, is halted by the debugger. -/
  brk : Bool := false
  halted : Bool := false
  chkHalted : Bool := false
  /-- A halt, or a RESYNC, awaited at the next instruction boundary. -/
  haltWanted : Bool := false
  resyncWanted : Bool := false
  dbgSeen : Bool := false
  /-- Breakpoints by number: PC and whether it is enabled. -/
  bps : Table (Word × Bool) := []
  /-- The main copy, or the checker, has just resumed: the breakpoint at its PC does not halt it again. -/
  skip : Bool := false
  chkSkip : Bool := false
  /-- Lines held by the main copy's I-cache, and by the checker's in Loose and Replay mode, by line number (R263, R283). -/
  icache : Table Bytes := []
  chkIcache : Table Bytes := []
  /-- Line numbers held by the D-caches, which are alike in both copies (R283) and whose bytes are those of sentinel SRAM
  (R263: write-through, and invalidated by other agents' writes). -/
  dcache : List Nat := []
  /-- Addresses of the words in the write buffers, oldest first, at most 4 (R263). -/
  wbuf : List Nat := []
  /-- The replay queue, oldest first, and whether recording has stopped (R302). -/
  queue : List Replay := []
  ovf : Bool := false
  /-- A load of the instruction being run takes its value from the replay queue: the checker executes. -/
  asChk : Bool := false
  /-- Watchdog: the timeout taken at the last reload in ms, the PCLK time of that reload, WDOG_LEFT while it pauses. -/
  wdogTaken : Nat := 1000
  wdogStart : Nat := 0
  wdogPaused : Option Nat := none
  wdogWarned : Bool := false
  /-- Words of the sentinel memories that the scrubber reads next. -/
  scrubTcm : Nat := 0
  scrubSram : Nat := 0
  deriving DecidableEq, Repr

/-- A timer beyond its registers (R324–R327). -/
structure Tmr where
  pre : Nat := 0
  deriving DecidableEq, Repr

/-- The epoch counter and the boundary count (R88). -/
structure Epoch where
  /-- Log2 of the epoch in PCLK cycles. -/
  k : Nat := 20
  count : Nat := 0
  boundaries : Nat := 0
  /-- PCLK cycles from release to the start of the present epoch. -/
  base : Nat := 0
  deriving DecidableEq, Repr

/-- A door's Stock area (R83–R86, Table 5-5). An entry is keyed by KIND × 65,536 + OBJECT and holds OP and VALUE. -/
structure StockArea where
  entries : Table (Nat × Bytes) := []
  passed : Bool := false
  checkVer : Nat := 0
  /-- Changes of the entries since reset: a running check that sees a change leaves its state NONE (R86). -/
  mods : Nat := 0
  lastEpoch : Nat := 0
  lastResult : Nat := 0
  deriving DecidableEq, Repr

/-- The one pending Apply of the device (R89, R90). -/
structure Apply where
  door : Nat
  tag : Nat
  target : Nat
  /-- Target 0 was asked for: the earliest boundary. -/
  earliest : Bool
  /-- Frames admitted under the bank to be replaced before are still in the paper machine. -/
  waitRelease : Bool
  /-- The shadow bank, loaded from Stock and the active bank. -/
  shadow : Option (Table Bytes) := none
  deriving DecidableEq, Repr

/-- Stock and Apply (chapter 5). A bank maps KIND × 65,536 + OBJECT to the live VALUE bytes. -/
structure Stock where
  areas : Table StockArea := []
  liveVer : Nat := 0
  bank0 : Table Bytes := []
  bank1 : Table Bytes := []
  /-- The active bank, 0 or 1. -/
  active : Nat := 0
  apply : Option Apply := none
  deriving DecidableEq, Repr

/-- A port's state (Tables 6-4, 6-7) and its module (R114). -/
structure Port where
  state : Nat := 0
  carrying : Bool := false
  cdr : Nat := 0
  owner : Option Nat := none
  /-- Assigned module: controller plus 1 (0 for none), address and select pin (255 for none). -/
  ctrl : Nat := 0
  addr : Nat := 0
  select : Nat := 0
  /-- An Apply has disabled it while it sends a frame: it enters DISABLED when that frame has left (R110). -/
  closing : Bool := false
  /-- Frames it sent in near-end loopback that its own receiver has still to take, and whether each is whole (R105). -/
  looped : List (Bytes × Bool) := []
  deriving DecidableEq, Repr

/-- Where an admitted frame stands. -/
inductive FStage where
  /-- Admitted; Wire has not taken it. -/
  | headbox
  /-- Received on a wet port without a live MAP: discarded at its end (R112). -/
  | unmapped
  /-- A cell frame that goes to Calender receive (R121). -/
  | cell
  /-- Kept by Wire; waits for the Couch. -/
  | couch
  /-- In a Press lane's queue. -/
  | press
  /-- Finished by the Press, or needs none: waits for release in order. -/
  | dryer
  /-- Received in cells: complete, waits for its release moment (R161). -/
  | held
  /-- In an egress queue. -/
  | queued
  /-- Picked by the egress scheduler, read by the Reel next. -/
  | chosen
  /-- Its transmission has begun. -/
  | sending
  deriving DecidableEq, Repr

/-- A frame in the paper machine (R119). -/
structure Sheet where
  /-- Its serial number, the model's own. -/
  id : Nat := 0
  port : Nat
  slot : Option Nat := none
  /-- The bank active when it was admitted. -/
  bank : Nat := 0
  /-- Its timestamp: boundary count and epoch counter at admission. -/
  boundary : Nat := 0
  count : Nat := 0
  /-- PCLK time of admission. -/
  time : Nat := 0
  bytes : Bytes := []
  coding : Bool := false
  /-- MAX_FRAME of its port when its reception began (R110). -/
  maxFrame : Nat := 0
  /-- Its reception has ended, passed by the MAC. -/
  ended : Bool := false
  stage : FStage := .headbox
  chan : Option Nat := none
  bypass : Bool := false
  egress : Nat := 0
  cls : Nat := 1
  granules : Nat := 0
  seq : Nat := 0
  pn : Option Nat := none
  /-- Serial number of the key it was dealt under; 0 where none. -/
  kid : Nat := 0
  lane : Nat := 0
  /-- The Press's result, without FCS. -/
  result : Bytes := []
  /-- The ICV verified. -/
  verified : Bool := false
  /-- Bytes already carried in cells. -/
  sent : Nat := 0
  /-- For a frame received in cells, its release moment less LATENCY: the PCLK time at which its first cell reached the
  balls, less its AGE (R161). -/
  due : Int := 0
  /-- Its release moment passed before it could be sent. -/
  late : Bool := false
  deriving DecidableEq, Repr

/-- A Press lane (Table 7-3) and the LANE_SERVICE commands that wait on it. -/
structure PLane where
  state : Nat := 3
  /-- RESTOREs whose test or return to service is awaited. -/
  restore : List (Nat × Nat) := []
  /-- RESTOREs that wait for a DRAINING lane to be OUT. -/
  restoreNext : List (Nat × Nat) := []
  removes : List (Nat × Nat) := []
  deriving DecidableEq, Repr

/-- A frame being reassembled from cells (R156, R160). -/
structure Reasm where
  pi : Nat
  data : Bytes
  kid : Nat
  age : Nat
  /-- PCLK time at which the cell with its FIRST record arrived. -/
  time : Nat
  /-- Its release moment has passed already. -/
  late : Bool := false
  deriving DecidableEq, Repr

/-- A dry port's Calender state (R150, R155–R166) and message queues (R187, R188). -/
structure CalPort where
  slots : Nat := 0
  rxSync : Bool := false
  peerSync : Bool := false
  /-- A MARK has been received since RX_SYNC last became 1. -/
  markSeen : Bool := false
  hold : Bool := false
  holdExpired : Bool := false
  /-- PCLK times at which HOLD was entered, and of the last protected cell that passed step 2 of R160. -/
  holdFrom : Nat := 0
  okAt : Nat := 0
  openTx : Bool := false
  good : Nat := 0
  bad : Nat := 0
  pend : Option Reasm := none
  sendq : List Bytes := []
  /-- Received messages, each with whether it came in an open cell. -/
  recvq : List (Bytes × Bool) := []
  dropped : Nat := 0
  deriving DecidableEq, Repr

/-- An egress port's class scheduler (R134): class visited last and credits of classes 1–3. -/
structure Egress where
  cls : Nat := 3
  credit : List Int := [0, 0, 0]
  deriving DecidableEq, Repr

/-- The paper machine (chapter 7). -/
structure Mach where
  /-- Frames in order of admission, those queued for egress in order of queueing behind them. -/
  frames : List Sheet := []
  nextId : Nat := 1
  lanes : Table PLane := []
  egress : Table Egress := []
  /-- Next sequence number of bypassed frames, per ingress port. -/
  bypassSeq : Table Nat := []
  /-- A drop has been counted in this epoch (R142). -/
  onset : Bool := false
  cal : Table CalPort := []
  /-- Granule the scrubber reads next. -/
  scrub : Nat := 0
  deriving DecidableEq, Repr

/-- A key slot of a channel (Table 9-3, R170–R175). -/
structure KeySlot where
  state : Nat := 0
  /-- Serial number of the key in the slot, the model's own; 0 where none. -/
  kid : Nat := 0
  an : Nat := 0
  key : Bytes := []
  salt : Bytes := []
  ssci : Nat := 0
  lifetime : Nat := 0
  startPn : Nat := 0
  /-- Encrypt: the next PN to assign. -/
  pn : Nat := 0
  /-- Decrypt: highest PN accepted, and the PNs accepted in H − 1,023 to H. -/
  h : Nat := 0
  seen : List Nat := []
  /-- Boundary number and PCLK time of its promotion, boundary number of its demotion. -/
  promotedB : Nat := 0
  promotedT : Nat := 0
  demotedB : Nat := 0
  /-- PCLK time of its demotion. -/
  demotedT : Nat := 0
  /-- Its PN limit was reached: it serves nothing more (R173). -/
  spent : Bool := false
  aged : Bool := false
  endNoted : Bool := false
  graceOver : Bool := false
  deriving DecidableEq, Repr

/-- A channel (chapter 9). -/
structure Chan where
  owner : Option Nat := none
  cur : KeySlot := {}
  nxt : KeySlot := {}
  endCause : Nat := 0
  lastDir : Nat := 0
  /-- The lanes of its binding (R129). -/
  lanes : List Nat := []
  seq : Nat := 0
  deriving DecidableEq, Repr

/-- A vault entry V1–V15 (R176). -/
structure Vault where
  key : Bytes := []
  p384 : Bool := false
  owner : Nat := 0
  deriving DecidableEq, Repr

/-- A KE slot (R181–R185). -/
structure KeSlot where
  state : Nat := 0
  owner : Nat := 0
  /-- Seconds of its timeout, and the PCLK time of its KE_OPEN. -/
  timeout : Nat := 0
  opened : Nat := 0
  /-- The timeout has expired while an operation runs on the slot. -/
  expired : Bool := false
  ec : Option Bytes := none
  dk : Option Bytes := none
  zEc : Option Bytes := none
  kPq : Option Bytes := none
  transcript : Bytes := []
  outs : Table Bytes := []
  /-- Serial number of its KE_OPEN, the model's own: an operation of an earlier opening finds another slot. -/
  serial : Nat := 0
  deriving DecidableEq, Repr

/-- The key engine and the channel table (chapter 9). -/
structure Keys where
  chans : Table Chan := []
  vault : Table Vault := []
  v0 : Bytes := []
  v0Ready : Bool := false
  ke : Table KeSlot := []
  /-- What freed slots held, while operations dispatched on them still run (R185). -/
  closed : List KeSlot := []
  /-- Operations of the EC, lattice and hash units, oldest first: door and tag. -/
  units : Table (List (Nat × Nat)) := []
  /-- SA_LOAD and SA_RETIRE commands that wait on an encrypt DRAINING slot, in dispatch order: channel, door, tag. -/
  waits : List (Nat × Nat × Nat) := []
  nextKid : Nat := 1
  deriving DecidableEq, Repr

/-- The fault record (Table 10-5) and the recovery in progress (R208–R210). -/
structure Faults where
  last : Nat := 0
  lastEpoch : Nat := 0
  recoveries : Nat := 0
  discCmds : Nat := 0
  discFrames : Nat := 0
  first : Nat := 0
  lastUnit : Nat := 0
  firstUnit : Nat := 0
  /-- Consecutive restarts of the recovery in progress. -/
  restarts : Nat := 0
  /-- PCLK times at which recoveries began, within the last second. -/
  begun : List Nat := []
  /-- The fault state was entered by BIST_FAILED. -/
  bist : Bool := false
  deriving DecidableEq, Repr

/-- The device's fault state and generation (R205, R210). -/
structure FaultSt where
  /-- 0 NORMAL, 1 RECOVERING, 2 FAULT. -/
  mode : Nat := 0
  gen : Nat := 0
  deriving DecidableEq, Repr

/-- The fuses that the sentinel may blow (Table 3-3), as bit maps. -/
structure FuseBits where
  svn : Nat := 0
  khEc : Nat := 0
  khPq : Nat := 0
  lock : Bool := false
  deriving DecidableEq, Repr

/-- The fuse array (chapter 3): the bits blown, those sensed at the last reset, and a burn in progress. The other fields
are fixed at final test; of them BIN stands here, the rest in Config. -/
structure Fuses where
  bin : Nat := 0x15
  blown : FuseBits := {}
  sensed : FuseBits := {}
  burn : Option Nat := none
  deriving DecidableEq, Repr

/-- Identity and boot (chapter 3). -/
structure Idn where
  /-- The boot ROM has halted (R46). -/
  halted : Bool := false
  /-- The boot ROM runs and waits for the mount. -/
  booting : Bool := false
  /-- SHA-384 of the booted header's signed region; empty where none booted (Table 3-7). -/
  digest : Bytes := []
  /-- The TAP has left Test-Logic-Reset since the last cold reset (Table 3-2). -/
  tap : Bool := false
  deriving DecidableEq, Repr

/-- The geometry of the NAND device (R216): PAGE code, spare bytes of a page, and the fields of VAT.GEOM. -/
structure Geom where
  page : Nat := 0
  spare : Nat := 0
  ppbLog2 : Nat := 6
  twoCe : Bool := false
  luns : Nat := 0
  blocks : Nat := 0
  mlc : Bool := false
  deriving DecidableEq, Repr

/-- A NAND block: erases, reads and uncorrectable codewords, pages programmed since its last erase. An erase of a torn one has
begun and not ended: it is erased again before use (R227). -/
structure Blk where
  erases : Nat := 0
  reads : Nat := 0
  ues : Nat := 0
  used : Nat := 0
  retired : Bool := false
  queued : Bool := false
  torn : Bool := false
  deriving DecidableEq, Repr

/-- An AUDIT record: its number, sector and place in it, and its bytes (Table 11-6). -/
structure LogRec where
  seq : Nat
  sector : Nat
  off : Nat
  bytes : Bytes
  deriving DecidableEq, Repr

/-- What the NAND holds (chapter 11). It keeps all of it through every reset. -/
structure Nand where
  geom : Geom := {}
  formatted : Bool := false
  lower : List Nat := []
  user : Nat := 0
  blks : Table Blk := []
  /-- The pool of KEYWRAP blocks (R232). -/
  pool : List Nat := []
  /-- Blocks being filled: data, KEYWRAP, journal, and the two copies of the bad-block table (R230). -/
  openBlk : Option Nat := none
  poolBlk : Option Nat := none
  jrnBlk : Option Nat := none
  tabA : Option Nat := none
  tabB : Option Nat := none
  /-- Blocks with journal records of the last checkpoint or since. -/
  jrn : List Nat := []
  /-- By ream × 2^24 + sector: contents, the page each lies in plus 1 (block × pages per block + page), and the serial number of
  the free values that are its codewords' metadata. An unlisted sector reads as erased. -/
  data : Table Bytes := []
  loc : Table Nat := []
  meta4 : Table Nat := []
  log : List LogRec := []
  baseSeq : Nat := 0
  nextSeq : Nat := 0
  /-- PREV of the record BASE_SEQ, and HASH of the last record; empty for the genesis value. -/
  basePrev : Bytes := []
  lastHash : Bytes := []
  /-- The sector that records go to, the bytes it holds, and the sectors in use. -/
  logTail : Nat := 0
  logFill : Nat := 4096
  logUsed : Nat := 0
  journal : Nat := 0
  /-- Pages of an uncommitted command stand programmed. -/
  orphan : Bool := false
  deriving DecidableEq, Repr

/-- How far a Store command has come. -/
inductive VatPhase where
  | waiting
  /-- A format, with the lower-page map and the Store's state at its start. -/
  | format (lower : List Nat) (before : Nat)
  /-- The KEYE hash unit computes the record's hash (R237). -/
  | hash
  /-- Sectors still to be read, those of one page together. -/
  | reads (left : List (List Nat))
  /-- Page programs still to be made. -/
  | data (left : Nat)
  /-- Blocks still to be erased for SANITISE; the first has been erased and is to be read back. -/
  | erases (left : List Nat) (check : Bool)
  | commit
  deriving DecidableEq, Repr

/-- A Store command in the Vat. -/
structure VatOp where
  door : Nat
  tag : Nat
  phase : VatPhase := .waiting
  /-- Its input could not be read (R242). -/
  unread : Bool := false
  /-- Its pages programmed, each with the serial number of its metadata; the one being programmed is the last. -/
  pages : List (Nat × Nat) := []
  /-- Sectors read, as delivered, and codewords lost: sector × 4 + codeword. -/
  got : Table Bytes := []
  lost : List Nat := []
  record : Bytes := []
  deriving DecidableEq, Repr

/-- A block whose live data the Vat moves in the background, page by page, and the block it fills (R230, R235). -/
structure Move where
  src : Nat
  dst : Nat
  deriving DecidableEq, Repr

/-- The Vat (chapter 11). -/
structure Vat where
  st : Nat := 1
  reason : Nat := 0
  asyncMode : Nat := 0
  asyncMax : Nat := 0
  ddrOk : Bool := false
  ddrMode : Nat := 0
  nvddr3 : Bool := false
  /-- Store commands in dispatch order; the first one runs. -/
  ops : List VatOp := []
  /-- A NAND operation of the first command is in progress. -/
  busy : Bool := false
  /-- The last page operation was a foreground one (R236). -/
  fgLast : Bool := false
  /-- Relocation and static levelling under way. -/
  reloc : Option Move := none
  level : Option Move := none
  /-- NWP_N is high. -/
  wp : Bool := false
  /-- No new operation starts: SLEEP is being entered (R229). -/
  stopping : Bool := false
  /-- Page that the retention patrol reads next, or the first with live data after it. -/
  patrol : Nat := 0
  auditFull : Bool := false
  deriving DecidableEq, Repr

/-- The live timing set and OUTCFG of the raster (R331, R332). -/
structure Timing where
  hact : Nat := 640
  hfp : Nat := 16
  hsw : Nat := 96
  hbp : Nat := 48
  vact : Nat := 480
  vfp : Nat := 10
  vsw : Nat := 2
  vbp : Nat := 33
  out : Nat := 0
  deriving DecidableEq, Repr

/-- A run of pixels that a layer draws on a line: what it costs to begin and per group of 8 pixels, its first column, its
alpha, its pixels as ARGB8888, and which of them lie in damaged STC blocks. -/
structure Run where
  setup : Nat := 0
  per : Nat := 6
  x0 : Nat := 0
  alpha : Nat := 255
  trim : Bool := false
  px : List Nat := []
  bad : List Bool := []
  deriving DecidableEq, Repr

/-- A layer that shows on a line: its MODE, whether it is L6, and its runs EXACT and trimmed. -/
structure LayerWork where
  mode : Nat := 0
  host : Bool := false
  exact : List Run := []
  trimd : List Run := []
  deriving DecidableEq, Repr

/-- What the trust stage has read for a line: first column and pixels of L7 and of the heartbeat, and of the seal in each
seal state (R359). -/
structure TrustRow where
  l7 : Nat × List Nat := (0, [])
  heart : Nat × List Nat := (0, [])
  image : Nat × List (List Nat) := (0, [])
  deriving DecidableEq, Repr

/-- A line under composition, as the registers and Panel RAM stand at its compose start (R337): the serial number of its
frame, the change count then, F, its layers and backdrop; in the reuse band its place in the reuse store, the pixels held
there, and whether they are those of the previous frame with nothing changed since. -/
structure LineWork where
  line : Nat := 0
  serial : Nat := 0
  chg : Nat := 0
  cycles : Nat := 0
  backdrop : List Nat := []
  layers : List LayerWork := []
  sprLimit : Bool := false
  store : Option (Nat × List Nat) := none
  same : Bool := false
  trust : TrustRow := {}
  deriving DecidableEq, Repr

/-- A line the Dandy unit recomputes (R365): the change count at its compose start, its pixels with every layer EXACT, and
the pixels composed. -/
structure Dandy where
  line : Nat
  chg : Nat
  exact : List Nat
  sent : List Nat
  deriving DecidableEq, Repr

/-- A Blitter job (R366–R369). For a PANEL_POST `input` is its source. -/
structure BltJob where
  fill : Bool := false
  sfmt : Nat := 0
  dfmt : Nat := 0
  irq : Bool := false
  wm : Bool := false
  beam : Bool := false
  tag : Nat := 0
  src : Nat := 0
  sstride : Nat := 0
  dst : Nat := 0
  dstride : Nat := 0
  w : Nat := 1
  h : Nat := 1
  colour : Nat := 0
  startLine : Nat := 0
  wmLine : Nat := 0
  pal : Nat := 0
  input : Option Bytes := none
  /-- The PANEL_POST it serves: door, tag, and whether pixels were clipped. -/
  post : Option (Nat × Nat × Bool) := none
  /-- Its PANEL_POST was discarded: it writes no more pixels (R201). -/
  dead : Bool := false
  /-- PCLK time of its start, and DEAD as it stood then (R367). -/
  start : Nat := 0
  idle : Nat := 0
  deriving DecidableEq, Repr

/-- The Panel Engine beyond its registers: raster, Line Sequencer, compositor, trust stage, Blitter (chapters 16, 17). -/
structure Panel where
  running : Bool := false
  line : Nat := 0
  /-- The active position of the line is over. -/
  hblank : Bool := false
  timingPend : Bool := false
  live : Timing := {}
  /-- The line under composition, and the eighths of the compositor's cycles removed since its compose start: at that
  moment, then after each change. -/
  work : Option LineWork := none
  rates : List Nat := []
  /-- Running values of FSIG and TSIG, and whether the trust region has had a pixel this frame. -/
  fcrc : Nat := 0xFFFFFFFF
  tcrc : Nat := 0xFFFFFFFF
  tany : Bool := false
  /-- The last frame's FSIG. -/
  prevSig : Option Nat := none
  /-- The frame's motion window is open; motion met in it; the last frame's expectation (R344). -/
  motionOpen : Bool := false
  motion : Bool := false
  lastMotion : Bool := false
  frozen : Bool := false
  frzCount : Nat := 0
  sealSt : Nat := 0
  /-- Frame starts since the last SEAL_KICK, saturating at 255. -/
  sealCount : Nat := 0
  /-- Frames since the raster's start, and the frame's serial number. -/
  heart : Nat := 0
  frame : Nat := 0
  /-- The last check of R358 passed; every check of the frame has passed, so that L6 may show. -/
  cfgValid : Bool := false
  l6Ok : Bool := false
  /-- Changes of the kind of R362. -/
  chg : Nat := 0
  /-- Per line of the reuse band: frame serial and change count of its last composition. -/
  lines : Table (Nat × Nat) := []
  dandyN : Nat := 0
  dandy : List Dandy := []
  trimmed : Bool := false
  reused : Bool := false
  lsActive : Bool := false
  /-- Panel RAM offset of the next entry, line whose window opened last, LINE of the last entry executed in the frame. -/
  lsPos : Nat := 0
  lsOpen : Nat := 0
  lsSrv : Nat := 0
  lsCount : Nat := 0
  lsLast : Nat := 0
  lsTotal : Nat := 0
  queue : List BltJob := []
  /-- PANEL_POST jobs that wait for a queue entry (R366). -/
  postWait : List BltJob := []
  units : Table (Option BltJob) := []
  lastTag : Nat := 0
  why : Nat := 0
  deriving DecidableEq, Repr

/-- A 64-byte burst of Panel RAM in the sample player's buffer: its offset, whether play comes to it by the loop, its
bytes (R377). -/
structure Burst where
  off : Nat := 0
  byLoop : Bool := false
  data : Bytes := []
  deriving DecidableEq, Repr

/-- A tone voice (R374, R375). -/
structure Voice where
  phase : Nat := 0
  level : Nat := 0
  /-- Table 18-2. -/
  env : Nat := 0
  key : Bool := false
  lfsr : Nat := 1
  deriving DecidableEq, Repr

/-- A biquad section's state (R380). -/
structure Biquad where
  x1 : Int := 0
  x2 : Int := 0
  y1 : Int := 0
  y2 : Int := 0
  deriving DecidableEq, Repr

/-- A sink (R379–R384): its sections' states, live coefficients by 5 × section + index, live SEC_EN, a COMMIT or CLR that
waits for the boundary, the enable ball, the count of silent samples, the mode the count belongs to. -/
structure Sink where
  secs : Table Biquad := []
  coefs : Table Nat := []
  secEn : Nat := 0
  commit : Bool := false
  clr : Bool := false
  en : Bool := false
  silent : Nat := 0
  mode : Nat := 0
  e1 : Int := 0
  e2 : Int := 0
  deriving DecidableEq, Repr

/-- A block of the host stream (R257, R378). -/
structure StreamBlk where
  door : Nat
  tag : Nat
  data : Bytes
  pos : Nat := 0
  gap : Nat := 0
  deriving DecidableEq, Repr

/-- Audio beyond its registers (chapter 18). `live` holds the register values in force since the last boundary. -/
structure Audio where
  live : Table Word := []
  voices : Table Voice := []
  /-- Voices whose PRST waits for the boundary. -/
  prst : List Nat := []
  spRun : Bool := false
  spPos : Nat := 0
  /-- The player's 256-byte buffer: its bursts in the order of play (R377). -/
  spBuf : List Burst := []
  /-- A write of RUN that waits: 1 start or restart, 0 stop. -/
  spWrite : Option Bool := none
  sinks : Table Sink := []
  stream : List StreamBlk := []
  /-- Door of the last block that ended, and boundaries since its last sample. -/
  lastDoor : Option Nat := none
  gap : Nat := 0
  samples : Nat := 0
  tick : Nat := 0
  deriving DecidableEq, Repr

/-- The test access port (R300, R427, R428). -/
structure Tap where
  /-- The instruction selected (Table 20-14). -/
  ir : Nat := 0x02
  /-- The boundary register as last updated, cell 0 first. -/
  bsr : List Bool := List.replicate 311 false
  /-- The last debug command: CMD, result, ADDR and DATA (Table 14-6). -/
  cmd : Nat := 0
  res : Nat := 0
  addr : Word := 0
  data : Word := 0
  deriving DecidableEq, Repr

/-- The state of the block. -/
structure State where
  /-- The commands that wait, first in, first out. -/
  pending : List Instr := []
  /-- What the block has sent out, newest first. -/
  out : List Out := []
  /-- The model's own: which free value comes next. -/
  freeCtr : Nat := 0
  /-- Registers in the sentinel address space by address; an unlisted one holds its reset value. -/
  regs : Table Word := []
  /-- On-die memory of the sentinel address space by byte address; an unlisted byte is 0 (zeroed at reset, R25). -/
  mem : List Host.Cell := []
  /-- A write has left a general pin with FUNC and its output driver both enabled (R405). -/
  undef : Bool := false
  clk : Clk := {}
  evc : Evc := {}
  core : Core := {}
  pair : Pair := {}
  epoch : Epoch := {}
  fault : FaultSt := {}
  idn : Idn := {}
  doors : Table Door := []
  pool : Pool := {}
  loft : Loft := {}
  tmr : Table Tmr := []
  pins : Pins := {}
  i2c : Table I2cCtl := []
  tap : Tap := {}
  fans : Fans := {}
  fuses : Fuses := {}
  nand : Nand := {}
  vat : Vat := {}
  stock : Stock := {}
  ports : Table Port := []
  mach : Mach := {}
  keys : Keys := {}
  faults : Faults := {}
  panel : Panel := {}
  audio : Audio := {}
  /-- Counters of the statistics window by address of their low word; an unlisted one is 0. -/
  stats : Table Nat := []
  /-- High words latched by reads of low words, by address (R117). -/
  latched : Table Nat := []
  deriving DecidableEq, Repr

/-- The machine right after power-on reset has begun to be released: a cold reset is in progress (step 1 of
Table 2-6), the Loft has been reset, CLK.RCAUSE shows a first power-up (R26). -/
def State.reset : State := {}

end Sys2Proof.Machine
end

