-- ==== Sys2Proof/Machine/Ops.lean ====
section
/-! DEFINITION. The shared operations over State: registers, memory, free values, events and their delivery, door
interrupts, formed replies. -/

namespace Sys2Proof.Machine

/-! Outcomes. -/

/-- The outcome of a command that comes to state `s`. -/
def done (s : State) : Host.Outcome State Fault Refusal :=
  if s.undef then .fault .undefinedPinFunction else .next s

/-- A command that has its effect only while no reset is held; during a reset it finds nothing to act on. -/
def live (s : State) (f : State → State) : State := if s.clk.held then s else f s

/-! Free values. -/

/-- The next free value of the run. -/
def freeVal (s : State) : Nat := Config.freeNat s.freeCtr

/-- Move on to the next free value. -/
def freeNext (s : State) : State := { s with freeCtr := s.freeCtr + 1 }

/-- PCLK cycles since release. -/
def nowP (s : State) : Nat := s.epoch.base + s.epoch.count

/-- Add an output, newest first. -/
def emit (o : Out) (s : State) : State := { s with out := o :: s.out }

/-! Registers. -/

/-- The stored value of a register. -/
def reg (s : State) (a : Nat) : Word := tget (w32 (regSpec a).reset) s.regs a

/-- Store a register's value. -/
def setReg (a : Nat) (v : Word) (s : State) : State :=
  { s with regs := tset (w32 (regSpec a).reset) s.regs a v }

/-- Set the bits of a mask in a register. -/
def orReg (a m : Nat) (s : State) : State := setReg a (reg s a ||| w32 m) s

/-- Clear the bits of a mask in a register. -/
def clrReg (a m : Nat) (s : State) : State := setReg a (reg s a &&& ~~~(w32 m)) s

/-- Set or clear one bit of a register. -/
def putBit (a i : Nat) (b : Bool) (s : State) : State := setReg a (wsetBit (reg s a) i b) s

/-- Field [lo + len - 1 : lo] of a register. -/
def rfld (s : State) (a lo len : Nat) : Nat := wfld (reg s a) lo len

/-- Bit `i` of a register. -/
def rbit (s : State) (a i : Nat) : Bool := wbit (reg s a) i

/-- Store a register's whole value as a number. -/
def setRegN (a v : Nat) (s : State) : State := setReg a (w32 v) s

/-- One increment of a saturating count in a 32-bit register. -/
def incReg (a : Nat) (s : State) : State := setRegN a (satInc 32 (reg s a).toNat) s

/-- A software write to a register whose fields behave as their type codes say (R4–R6). -/
def writeTyped (a : Nat) (locked : Bool) (v : Word) (s : State) : State :=
  let p := regSpec a
  let m := w32 p.rw ||| (if locked then 0#32 else w32 p.lk)
  let old := reg s a
  setReg a (((old &&& ~~~m) ||| (v &&& m)) &&& ~~~(v &&& w32 p.w1c)) s

/-- A software read of a register: RC fields clear to their reset value (R4). -/
def readClears (a : Nat) (s : State) : State :=
  let p := regSpec a
  if p.rc = 0 then s else setReg a ((reg s a &&& ~~~(w32 p.rc)) ||| (w32 p.reset &&& w32 p.rc)) s

/-! Memory: the on-die memories of the sentinel address space, one byte an address. -/

/-- One byte of on-die memory; a byte never written since reset reads 0 (R25). -/
def mget (s : State) (a : Nat) : Byte := tget 0#8 s.mem a

/-- Write one byte of on-die memory. -/
def mset (a : Nat) (b : Byte) (s : State) : State := { s with mem := tset 0#8 s.mem a b }

/-- Read `n` bytes from an address. -/
def mread (s : State) (a n : Nat) : Bytes := (List.range n).map fun i => mget s (a + i)

/-- Write a byte string from an address. -/
def mwrite (a : Nat) (bs : Bytes) (s : State) : State :=
  match bs with
  | [] => s
  | b :: r => mwrite (a + 1) r (mset a b s)

/-- Write a little-endian number of `n` bytes (R3). -/
def mwriteN (a n v : Nat) (s : State) : State := mwrite a (leBytes n v) s

/-! Panel RAM (R362): the changes that make lines be composed anew. -/

def panelRam : Nat := 0x60000000
def panelSize : Nat := 0x200000
def cmpBase : Nat := 0x40060000

/-- One more change of the kind of R362. -/
def panelChange (s : State) : State := { s with panel := { s.panel with chg := s.panel.chg + 1 } }

/-- Does a write of `n` bytes at an address reach Panel RAM outside the protection range? -/
def hitsOpenRam (s : State) (a n : Nat) : Bool :=
  (List.range n).any fun i =>
    inRange (a + i) panelRam (panelRam + panelSize - 1)
      && !inRange (a + i - panelRam) (rfld s (cmpBase + 0x480) 0 21) (rfld s (cmpBase + 0x484) 0 21)

/-- A write to memory by an agent other than the compositor (R362). -/
def agentWrite (a : Nat) (bs : Bytes) (s : State) : State :=
  mwrite a bs (if hitsOpenRam s a bs.length then panelChange s else s)

/-- A device write into the sentinel's memories, such as door 3 output data: lines of sentinel SRAM it touches leave the
D-caches of both copies first (R263). -/
def deviceWrite (a : Nat) (bs : Bytes) (s : State) : State :=
  let hit := fun l => decide (a / 32 ≤ l) && decide (l ≤ (a + bs.length - 1) / 32)
  agentWrite a bs { s with pair := { s.pair with dcache := s.pair.dcache.filter fun l => !hit l } }

/-! Doors as a table. -/

/-- A door's state. -/
def door (s : State) (d : Nat) : Door := tget {} s.doors d

/-- Replace a door's state. -/
def setDoor (d : Nat) (x : Door) (s : State) : State := { s with doors := tset {} s.doors d x }

/-- Change a door's state. -/
def modDoor (d : Nat) (f : Door → Door) (s : State) : State := setDoor d (f (door s d)) s

/-- The door's grant word has OPEN = 1; door 3 is always open (R68, R73). -/
def doorOpen (s : State) (d : Nat) : Bool := d == 3 || bitAt (door s d).grant 0

/-- A session is held; door 3 always has one (R68, R76). -/
def doorSession (s : State) (d : Nat) : Bool := d == 3 || (door s d).session

/-- The sentinel runs: no class S fault is handled, no debugger holds the pair, BIST has not failed (R209, R212, R295,
R301). -/
def sentinelRuns (s : State) : Bool :=
  s.pair.handling == .run && !s.pair.halted && !(s.fault.mode == 2 && s.faults.bist)

/-! The Event Controller: pending bits and delivery (R306–R309). -/

def evcBase : Nat := 0x40000000

/-- A source's configuration word (R306). -/
def srcCfg (s : State) (n : Nat) : Word := reg s (evcBase + 0x400 + 4 * n)

/-- A source's level. -/
def srcLevel (s : State) (n : Nat) : Nat := wfld (srcCfg s n) 0 4

/-- Is a source routed to target `t`? -/
def srcTargets (s : State) (n t : Nat) : Bool := wbit (srcCfg s n) (8 + t)

/-- The pending bits of a target, bit n for source n. -/
def evcPend (s : State) (t : Nat) : Nat := tget 0 s.evc.pend t

def setEvcPend (t v : Nat) (s : State) : State :=
  { s with evc := { s.evc with pend := tset 0 s.evc.pend t v } }

/-- A target's priority stack, top entry first. -/
def evcStack (s : State) (t : Nat) : List (Nat × Nat) := tget [] s.evc.stk t

def setEvcStack (t : Nat) (v : List (Nat × Nat)) (s : State) : State :=
  { s with evc := { s.evc with stk := tset [] s.evc.stk t v } }

/-- The sentinel's mask bit of a source. -/
def evcMasked (s : State) (n : Nat) : Bool := rbit s (evcBase + 0x220 + 4 * (n / 32)) (n % 32)

/-- A source is pending and, for the sentinel, not masked. -/
def evcRequested (s : State) (t n : Nat) : Bool :=
  bitAt (evcPend s t) n && !(t == 0 && evcMasked s n)

/-- A request is deliverable to a target (R308). -/
def deliverable (s : State) (t n : Nat) : Bool :=
  evcRequested s t n
    && (match evcStack s t with | [] => true | (_, l) :: _ => decide (l < srcLevel s n))
    && (t == 0 || doorOpen s (t - 1))

/-- Among the sources that meet a test, the one of the highest level, the lowest number where levels are equal. -/
def bestSource (s : State) (p : Nat → Bool) : Option Nat :=
  (List.range 256).foldl (fun best n =>
    if p n then
      match best with
      | none => some n
      | some m => if srcLevel s m < srcLevel s n then some n else best
    else best) none

/-- The deliverable request a claim by target `t` returns, before the sentinel's test of IL (R310). -/
def bestDeliverable (s : State) (t : Nat) : Option Nat :=
  if evcPend s t = 0 then none else bestSource s (deliverable s t)

/-! Door interrupts and moderation (R78–R80, R313). -/

/-- Is an MSI-X vector masked in its table entry? Vector control's reset value masks it. -/
def msixMasked (x : Door) (v : Nat) : Bool := bitAt (tget 1 x.msixTable (16 * v + 12)) 0

/-- Send an MSI-X message, or set its pending bit while its table entry masks it. A message sent is an interrupt: it starts
a moderation period and clears IDLE (R79, R313); a masked vector sends none. -/
def sendMsix (d v : Nat) (s : State) : State :=
  let x := door s d
  if msixMasked x v then setDoor d { x with pba := if bitAt x.pba v then x.pba else x.pba + 2 ^ v } s
  else emit (.msix d v) (setDoor d { x with
    pba := if bitAt x.pba v then x.pba - 2 ^ v else x.pba, idle := false, modRunning := decide (x.modPeriod ≠ 0)
    modEnd := nowP s + x.modPeriod * 125 } s)

/-- A cause of vector `v` on door 0 or 1: its message goes out at once while the door is idle or no moderation period runs,
and is held otherwise (R79). -/
def doorInterrupt (d v : Nat) (s : State) : State :=
  let x := door s d
  if x.modRunning && !x.idle then
    setDoor d { x with held := if x.held.contains v then x.held else x.held ++ [v] } s
  else sendMsix d v s

/-- Some cause of the door 2 column of Table 4-13 holds. -/
def irq2Cause (s : State) : Bool :=
  let x := door s 2
  x.replies.any (fun r => !r.quiet)
    || x.notice &&& x.noticeMask != 0
    || (bestDeliverable s 3).isSome

/-- Bring IRQ2_N to what its causes and moderation make it (R79, R80). -/
def irq2Settle (s : State) : State :=
  let x := door s 2
  if irq2Cause s then
    if x.irq2 then s
    else if x.modRunning && !x.idle then
      setDoor 2 { x with held := if x.held.contains 0 then x.held else x.held ++ [0] } s
    else setDoor 2 { x with
      irq2 := true, idle := false, held := [], modRunning := decide (x.modPeriod ≠ 0), modEnd := nowP s + x.modPeriod * 125 } s
  else setDoor 2 { x with irq2 := false } s

/-- Signal level `p` to a door target (R309). -/
def evcSignal (d p : Nat) (s : State) : State :=
  if d = 2 then irq2Settle s else doorInterrupt d (16 + p) s

def setLastSig (d v : Nat) (s : State) : State :=
  { s with evc := { s.evc with lastSig := tset 0 s.evc.lastSig d v } }

/-- After a change of what is deliverable to door `d`: signal where the highest deliverable level rose above the one
last signalled or came into being (R309). -/
def evcSettle (d : Nat) (s : State) : State :=
  match bestDeliverable s (d + 1) with
  | none => (if d = 2 then irq2Settle else id) (setLastSig d 0 s)
  | some n =>
    let p := srcLevel s n
    if tget 0 s.evc.lastSig d < p + 1 then evcSignal d p (setLastSig d (p + 1) s)
    else if d = 2 then irq2Settle s else s

/-- After a completion or the emptying of its stack, a door is signalled where a request is deliverable (R309). -/
def evcResignal (d : Nat) (s : State) : State :=
  match bestDeliverable s (d + 1) with
  | none => (if d = 2 then irq2Settle else id) (setLastSig d 0 s)
  | some n => evcSignal d (srcLevel s n) (setLastSig d (srcLevel s n + 1) s)

/-- Set a source's pending bit for target `t` where its TARGETS routes it there (R307). -/
def pendTarget (n t : Nat) (s : State) : State :=
  if srcTargets s n t then
    let v := evcPend s t
    setEvcPend t (if bitAt v n then v else v + 2 ^ n) s
  else s

/-- An occurrence of an event source (R307, R309). -/
def raise (n : Nat) (s : State) : State :=
  let s1 := pendTarget n 3 (pendTarget n 2 (pendTarget n 1 (pendTarget n 0 s)))
  let f := fun d x => if srcTargets s n (d + 1) then evcSettle d x else x
  f 2 (f 1 (f 0 s1))

/-- Raise a source where a condition holds. -/
def raiseIf (b : Bool) (n : Nat) (s : State) : State := if b then raise n s else s

/-- Raise each source of a list. -/
def raiseAll (l : List Nat) (s : State) : State := l.foldl (fun x n => raise n x) s

/-- Clear a source's pending bit for one target (R307). -/
def unpend (t n : Nat) (s : State) : State :=
  let v := evcPend s t
  setEvcPend t (if bitAt v n then v - 2 ^ n else v) s

/-- Set a NOTICE bit of a door and raise vector 1, or assert IRQ2_N, where it is unmasked (Tables 4-7, 4-13). -/
def setNotice (d bit : Nat) (s : State) : State :=
  let x := door s d
  let s1 := setDoor d { x with notice := if bitAt x.notice bit then x.notice else x.notice + 2 ^ bit } s
  if d = 3 then s1
  else if d = 2 then irq2Settle s1
  else if bitAt x.noticeMask bit then doorInterrupt d 1 s1 else s1

end Sys2Proof.Machine
end

