-- ==== Sys2Proof/Machine/Bank.lean ====
section
/-! DEFINITION. Banks of staged settings and what the live tables say: arrangements, ports, mappings, bindings, rasters
(Tables 5-1 to 5-3a, 6-1 to 6-3, 8-2, 8-3, 9-1; R97–R106). -/

namespace Sys2Proof.Machine

/-- Stock kinds (Table 5-3). -/
def kArrangement : Nat := 1
def kPort : Nat := 2
def kMap : Nat := 3
def kPolicy : Nat := 4
def kBind : Nat := 5
def kSwitch : Nat := 6
def kRaster : Nat := 7
def kClasses : Nat := 8
def kLatency : Nat := 9
def kEpochLen : Nat := 10

/-- A bank: VALUE bytes by KIND × 65,536 + OBJECT. -/
abbrev Bank := Table Bytes

/-- The key of a setting in a bank or a Stock (R84). -/
def setKey (kind obj : Nat) : Nat := kind * 65536 + obj

/-- A setting's VALUE; empty where the bank holds none. -/
def bankVal (b : Bank) (kind obj : Nat) : Bytes := tget [] b (setKey kind obj)

/-- Byte `o` of an entry, from its VALUE bytes 8–31. -/
def vb (v : Bytes) (o : Nat) : Nat := byteAt v (o - 8)

/-- The little-endian field of `n` bytes at byte `o` of an entry. -/
def vle (v : Bytes) (o n : Nat) : Nat := leAt v (o - 8) n

/-- Entries of one kind in a bank: object and VALUE, ascending. -/
def bankKind (b : Bank) (kind : Nat) : List (Nat × Bytes) :=
  (b.filter fun e => e.1 / 65536 == kind).map fun e => (e.1 % 65536, e.2)

/-- Bank 0 or 1. -/
def bankOf (s : State) (i : Nat) : Bank := if i = 0 then s.stock.bank0 else s.stock.bank1

/-- The bank in effect. -/
def liveBank (s : State) : Bank := bankOf s s.stock.active

/-! Arrangements and ports. Ports are numbered end × 8 + port. -/

/-- Arrangement code of an end; NONE where never set (R103, R104). -/
def arrCode (b : Bank) (e : Nat) : Nat := vb (bankVal b kArrangement e) 8

/-- A row of Table 6-1: ports, lanes per port, LANE_MODE, rate in Gb/s. -/
def arrRow (code : Nat) : Nat × Nat × Nat × Nat :=
  match code with
  | 1 => (1, 8, 0, 400)
  | 2 => (2, 4, 0, 200)
  | 3 => (4, 2, 0, 100)
  | 4 => (8, 1, 0, 50)
  | 5 => (8, 1, 1, 25)
  | 6 => (8, 1, 2, 10)
  | _ => (0, 0, 0, 0)

/-- Row of the arrangement that port `q`'s end runs. -/
def portRow (b : Bank) (q : Nat) : Nat × Nat × Nat × Nat := arrRow (arrCode b (q / 8))

/-- The port appears in its end's arrangement (R99). -/
def portExists (b : Bank) (q : Nat) : Bool := decide (q % 8 < (portRow b q).1)

/-- Lanes of a port in its arrangement (R99). -/
def portLanes (b : Bank) (q : Nat) : List Nat :=
  let w := (portRow b q).2.1
  if portExists b q then (List.range w).map fun i => q % 8 * w + i else []

/-- The settings a port has before any PORT entry (R103). -/
def portDefault (q : Nat) : Bytes :=
  fitBytes 24 ([0#8, 0#8, 2#8, 0#8] ++ leBytes 2 (if q < 8 then 1518 else 1550))

/-- A port's live VALUE (Table 6-3). -/
def portVal (b : Bank) (q : Nat) : Bytes :=
  match bankVal b kPort q with | [] => portDefault q | v => v

def portEnable (b : Bank) (q : Nat) : Bool := bitAt (vb (portVal b q) 8) 0
def portFec (b : Bank) (q : Nat) : Nat := vb (portVal b q) 10
def portProt (b : Bank) (q : Nat) : Nat := vb (portVal b q) 11

/-- LOOP: near-end serial loopback (Table 6-3). -/
def portLoop (b : Bank) (q : Nat) : Bool := bitAt (vb (portVal b q) 8) 1
def portMaxFrame (b : Bank) (q : Nat) : Nat := vle (portVal b q) 12 2

/-- The port is enabled and exists (R100). -/
def portOn (b : Bank) (q : Nat) : Bool := portEnable b q && portExists b q

/-- Dry port `d` runs Calender mode. -/
def isCal (b : Bank) (d : Nat) : Bool := portProt b (8 + d) == 1

/-- PCLK cycles of a Calender slot at a port's rate; 0 where the port does not exist (Table 8-2). -/
def slotT (b : Bank) (d : Nat) : Nat :=
  match (portRow b (8 + d)).2.2.2 with
  | 400 => 13
  | 200 => 26
  | 100 => 52
  | 50 => 104
  | 25 => 208
  | 10 => 520
  | _ => 0

/-- Wet port `w`'s live MAP: dry port and mode (R106). -/
def mapOf (b : Bank) (w : Nat) : Option (Nat × Nat) :=
  match bankVal b kMap w with | [] => none | v => some (vb v 8, vb v 9)

/-- Epoch length K of a bank (R88). -/
def bankK (b : Bank) : Nat := match bankVal b kEpochLen 0 with | [] => 20 | v => vb v 8

/-! Bindings (Table 9-1). -/

/-- A channel's binding. -/
structure Bind where
  dir : Nat
  wet : Nat
  dry : Nat
  cls : Nat
  quota : Nat
  suite : Nat
  sciOpt : Nat
  offset30 : Bool
  replay : Bool
  window : Nat
  sci : Bytes
  grace : Nat
  deriving DecidableEq, Repr

/-- A BIND VALUE decoded. -/
def bindOfVal (v : Bytes) : Bind :=
  { dir := vb v 8, wet := vb v 9, dry := vb v 10, cls := vb v 11, quota := vle v 12 2, suite := vb v 14
    sciOpt := fld (vb v 15) 0 2, offset30 := bitAt (vb v 15) 2, replay := bitAt (vb v 15) 3, window := vle v 16 2
    sci := slice v 10 8, grace := vle v 26 2 }

/-- The binding of a channel in a bank. -/
def bindOf (b : Bank) (c : Nat) : Option Bind :=
  match bankVal b kBind c with | [] => none | v => some (bindOfVal v)

/-- Port identifier of a binding's SCI. -/
def bindPi (x : Bind) : Nat := beAt x.sci 6 2

/-- Channels that a bank binds, ascending. -/
def boundChannels (b : Bank) : List (Nat × Bind) := (bankKind b kBind).map fun e => (e.1, bindOfVal e.2)

/-- The pair of ports a binding names is mapped: the wet port's MAP names the dry port; with no wet port, the dry port
exists (R168). -/
def mappedPair (b : Bank) (wet dry : Nat) : Bool :=
  if wet = 0xFF then portExists b (8 + dry)
  else match mapOf b wet with | some (d, _) => d == dry | none => false

/-! Calender parameters (Table 8-3). -/

def latVal (b : Bank) (d : Nat) : Bytes := bankVal b kLatency d
def latLatency (b : Bank) (d : Nat) : Nat := vle (latVal b d) 8 4
def latTx (b : Bank) (d : Nat) : Nat := vle (latVal b d) 12 2
def latRx (b : Bank) (d : Nat) : Nat := vle (latVal b d) 14 2
def latHold (b : Bank) (d : Nat) : Nat := vle (latVal b d) 16 2
def latSync (b : Bank) (d : Nat) : Nat := vle (latVal b d) 18 2
def latPeer (b : Bank) (d : Nat) : Bytes := slice (latVal b d) 12 6

/-- The live rows of a dry port's raster, ascending: row, RTYPE, COUNT (R150). -/
def rasterRows (b : Bank) (d : Nat) : List (Nat × Nat × Nat) :=
  ((bankKind b kRaster).filter fun e => e.1 / 1024 == d).map fun e => (e.1 % 1024, vb e.2 8, vle e.2 10 2)

/-- RTYPE of slot `k` of an epoch: the rows repeat until the epoch tail (R150). -/
def rasterType (b : Bank) (d k : Nat) : Nat :=
  let rows := rasterRows b d
  let total := (rows.map fun r => r.2.2).foldl (· + ·) 0
  let rec go : List (Nat × Nat × Nat) → Nat → Nat
    | [], _ => 0
    | (_, t, n) :: r, i => if i < n then t else go r (i - n)
  if total = 0 then 0 else go rows (k % total)

/-- Channel `c` serves as a carrier of an existing Calender dry port; one that does not exist sends nothing (R152). -/
def isCarrier (b : Bank) (c : Nat) : Bool :=
  (List.range 8).any fun d => isCal b d && portExists b (8 + d) && latVal b d != [] && (latTx b d == c || latRx b d == c)

/-! Ownership and names (R74, R435). -/

/-- Channels and ports that a Stock entry names: kind, object, OP and VALUE (Table 5-3a). -/
def entryNames (kind obj op : Nat) (v : Bytes) : List Nat × List Nat :=
  let set := op == 0
  if kind = kPort then ([], [obj])
  else if kind = kMap then ([], obj :: (if set then [8 + vb v 8] else []))
  else if kind = kPolicy then
    if set then
      let e := vb v 8
      (if vb v 11 = 2 then [vle v 24 2] else [],
       ((List.range 8).filter fun p => bitAt (vb v 9) p).map (fun p => 8 * e + p)
         ++ (if e = 1 ∧ vb v 11 = 1 then [vb v 26] else []))
    else ([], [])
  else if kind = kBind then
    ([obj], if set then (if vb v 9 = 0xFF then [] else [vb v 9]) ++ [8 + vb v 10] else [])
  else if kind = kSwitch then ([obj], [])
  else if kind = kRaster then ([], [8 + obj / 1024])
  else if kind = kClasses then ([], [8 + obj])
  else if kind = kLatency then (if set then [vle v 12 2, vle v 14 2] else [], [8 + obj])
  else ([], [])

/-! Stock areas. -/

/-- A door's Stock area. -/
def area (s : State) (d : Nat) : StockArea := tget {} s.stock.areas d

def setArea (d : Nat) (a : StockArea) (s : State) : State :=
  { s with stock := { s.stock with areas := tset {} s.stock.areas d a } }

/-- Lay a Stock over a bank (R86). KEY_SWITCH entries hold no setting. -/
def overlay (b : Bank) (es : Table (Nat × Bytes)) : Bank :=
  es.foldl (fun x e => if e.1 / 65536 = kSwitch then x
    else if e.2.1 = 1 then tdel x e.1 else tset [] x e.1 e.2.2) b

/-- The pending Apply's Stock names this channel. -/
def applyNamesChan (s : State) (c : Nat) : Bool :=
  match s.stock.apply with
  | none => false
  | some a => (area s a.door).entries.any fun e =>
      (entryNames (e.1 / 65536) (e.1 % 65536) e.2.1 e.2.2).1.contains c

/-- The pending Apply's Stock names this port. -/
def applyNamesPort (s : State) (q : Nat) : Bool :=
  match s.stock.apply with
  | none => false
  | some a => (area s a.door).entries.any fun e =>
      (entryNames (e.1 / 65536) (e.1 % 65536) e.2.1 e.2.2).2.contains q

/-- LIVE_VER increases by 1 modulo 2^32 (R87). -/
def bumpLiveVer (s : State) : State :=
  { s with stock := { s.stock with liveVer := (s.stock.liveVer + 1) % 2 ^ 32 } }

end Sys2Proof.Machine
end

