-- ==== Sys2Proof/Machine/Felt.lean ====
section
/-! DEFINITION. Counters of the statistics window, frames and what they are charged, discards (R116–R119, R124, R126,
R136, R140–R142). -/

namespace Sys2Proof.Machine

/-! Counters (R116, R117). -/

/-- Address of counter `i` of port `q` (Tables 6-6, 7-9, 8-6). -/
def portCnt (q i : Nat) : Nat := 0x80000000 + q * 0x100 + i * 8

/-- Address of FAULT_DISCARD of port `q` (R198). -/
def faultDiscardCnt (q : Nat) : Nat := portCnt q 31

/-- Address of counter `i` of channel `c` (R140). -/
def chanCnt (c i : Nat) : Nat := 0x80100000 + c * 0x80 + i * 8

/-- Device-wide words (Table 7-10). -/
def feltCeCnt : Nat := 0x80001000
def feltUeCnt : Nat := 0x80001008
def scrubCnt : Nat := 0x80001010

/-- A counter's value. -/
def cnt (s : State) (a : Nat) : Nat := tget 0 s.stats a

/-- Add to a 64-bit counter that saturates (R116). -/
def cntAdd (a n : Nat) (s : State) : State := { s with stats := tset 0 s.stats a (satAdd 64 (cnt s a) n) }

/-- Clear a counter. -/
def cntClr (a : Nat) (s : State) : State := { s with stats := tset 0 s.stats a 0 }

/-- The first drop of any reason in an epoch raises DROP_ONSET (R142). -/
def dropOnset (s : State) : State :=
  if s.mach.onset then s else raise 84 { s with mach := { s.mach with onset := true } }

/-- Count a drop in a port's counter of Table 7-9. -/
def dropPort (q i : Nat) (s : State) : State := dropOnset (cntAdd (portCnt q i) 1 s)

/-- Count a drop in a channel's counter of Table 7-8. -/
def dropChan (c i : Nat) (s : State) : State := dropOnset (cntAdd (chanCnt c i) 1 s)

/-! Frames. -/

def setFrames (l : List Sheet) (s : State) : State := { s with mach := { s.mach with frames := l } }

/-- Change the frame of a serial number. -/
def modFrm (id : Nat) (f : Sheet → Sheet) (s : State) : State := setFrames (updWhere s.mach.frames (fun x => x.id == id) f) s

/-- The frame of a serial number. -/
def findFrm (s : State) (id : Nat) : Option Sheet := s.mach.frames.find? fun x => x.id == id

/-- Frames queued toward a port in a class, oldest first. -/
def classQueue (s : State) (e k : Nat) : List Sheet :=
  s.mach.frames.filter fun f => f.stage == .queued && f.egress == e && f.cls == k

def egressOf (s : State) (e : Nat) : Egress := tget {} s.mach.egress e

def setEgress (e : Nat) (x : Egress) (s : State) : State :=
  { s with mach := { s.mach with egress := tset {} s.mach.egress e x } }

/-- Credit returns to 0 where a class's queue is empty (R134). -/
def creditSettle (e k : Nat) (s : State) : State :=
  if (classQueue s e k).isEmpty then setEgress e { egressOf s e with credit := setAt (egressOf s e).credit (k - 1) 0 } s else s

/-- Remove a frame: its slot and its Felt charge are released; the queue it waited in may become empty. -/
def removeFrm (id : Nat) (s : State) : State :=
  let s1 := setFrames (s.mach.frames.filter fun x => x.id != id) s
  match findFrm s id with
  | some f => if f.stage = .queued then creditSettle f.egress f.cls s1 else s1
  | none => s1

/-- Direction of a frame: 0 encrypt, 1 decrypt. -/
def frmDir (f : Sheet) : Nat := f.port / 8

/-- A frame leaves without being sent; an assigned encrypt packet number stays unused (R126). -/
def discardFrm (f : Sheet) (s : State) : State :=
  let s1 := removeFrm f.id s
  match f.chan, f.pn with
  | some c, some _ => if frmDir f = 0 then cntAdd (chanCnt c 10) 1 s1 else s1
  | _, _ => s1

/-- Discard a frame and count it in a counter of its channel. -/
def discardChan (f : Sheet) (i : Nat) (s : State) : State :=
  match f.chan with
  | some c => dropChan c i (discardFrm f s)
  | none => discardFrm f s

/-- Discard a frame and count it in a counter of its ingress port. -/
def discardPort (f : Sheet) (i : Nat) (s : State) : State := dropPort f.port i (discardFrm f s)

/-- Discard a frame under R109: its egress port's DOWN_DISCARD, and its channel's DROP_DOWN after Wire. -/
def discardDown (afterWire : Bool) (f : Sheet) (s : State) : State :=
  let s1 := cntAdd (portCnt f.egress 14) 1 (discardFrm f s)
  match afterWire, f.chan with
  | true, some c => dropChan c 9 s1
  | _, _ => s1

/-- The sum of the granules of the frames that meet a test. -/
def granulesWhere (s : State) (p : Sheet → Bool) : Nat :=
  (s.mach.frames.map fun f => if p f then f.granules else 0).foldl (· + ·) 0

/-- Granules charged to a channel. -/
def chanCharge (s : State) (c : Nat) : Nat := granulesWhere s fun f => f.chan == some c

/-- Granules charged for bypass toward an egress port. -/
def bypassCharge (s : State) (e : Nat) : Nat := granulesWhere s fun f => f.bypass && f.egress == e

/-- Granules queued or in process toward an egress port in a class. -/
def classCharge (s : State) (e k : Nat) : Nat := granulesWhere s fun f => f.egress == e && f.cls == k && frmDir f == 0

/-- Slots of a direction in use (R119). -/
def slotsUsed (s : State) (dir : Nat) : Nat :=
  (s.mach.frames.filter fun f => f.slot.isSome && frmDir f == dir).length

/-- Is a slot of a direction free? -/
def slotFree (s : State) (dir i : Nat) : Bool := !(s.mach.frames.any fun f => f.slot == some i && frmDir f == dir)

/-- A free slot of a direction; which one is not stated, so the search starts at a free value. -/
def pickSlot (s : State) (dir : Nat) : Option Nat :=
  ((List.range 1024).map fun i => (freeVal s + i) % 1024).find? (slotFree s dir)

/-- FELT_FREE (Table 7-10). -/
def feltFree (s : State) : Nat :=
  let q := granulesWhere s fun f => !f.bypass
  let r := granulesWhere s fun f => f.bypass
  (57344 - q) + (8192 - r) * 2 ^ 17

/-- SLOTS (Table 7-10). -/
def slotsWord (s : State) : Nat := slotsUsed s 0 + slotsUsed s 1 * 2 ^ 16

/-! Press lanes as a table. -/

def lane (s : State) (i : Nat) : PLane := tget {} s.mach.lanes i

def setLane (i : Nat) (l : PLane) (s : State) : State :=
  { s with mach := { s.mach with lanes := tset {} s.mach.lanes i l } }

/-- A lane changes state: source 83 PRESS_LANE (R130). -/
def laneTo (i st : Nat) (s : State) : State := raise 83 (setLane i { lane s i with state := st } s)

/-- LANES (Table 7-10). -/
def lanesWord (s : State) : Nat := ((List.range 8).map fun i => (lane s i).state * 2 ^ (4 * i)).foldl (· + ·) 0

/-- Frames in a lane's queue, oldest first. -/
def laneQueue (s : State) (i : Nat) : List Sheet := s.mach.frames.filter fun f => f.stage == .press && f.lane == i

/-! Ports and Calender ports as tables. -/

def port (s : State) (q : Nat) : Port := tget {} s.ports q

def setPort (q : Nat) (p : Port) (s : State) : State := { s with ports := tset {} s.ports q p }

/-- The port is sending a frame. -/
def txBusy (s : State) (q : Nat) : Bool := s.mach.frames.any fun f => f.stage == .sending && f.egress == q

/-- What a port's transmit lanes carry in its state (Table 6-4): a frame already begun is completed (R109, R110), and a
port in loopback keeps its pins in electrical idle (R105). -/
def lineOf (s : State) (q : Nat) : Line :=
  if portLoop (liveBank s) q then .electricalIdle
  else if txBusy s q then .frames
  else match (port s q).state with
    | 2 => .remoteFault
    | 3 => .remoteFault
    | 4 => .idle
    | 5 => .frames
    | _ => .electricalIdle

/-- Do something to a port, and put on its lanes what they carry then. -/
def lineChange (q : Nat) (f : State → State) (s : State) : State :=
  let s1 := f s
  if lineOf s1 q = lineOf s q then s1 else emit (.line q (lineOf s1 q)) s1

/-- A frame leaves on a port, whole or with an error: in near-end loopback it returns to the port's own receiver (R105). -/
def sendOut (q : Nat) (bytes : Bytes) (ok : Bool) (s : State) : State :=
  if portLoop (liveBank s) q then
    let p := port s q
    setPort q { p with looped := p.looped ++ [(bytes, ok)] } s
  else emit (.frame q bytes ok) s

def cal (s : State) (d : Nat) : CalPort := tget {} s.mach.cal d

def setCal (d : Nat) (c : CalPort) (s : State) : State :=
  { s with mach := { s.mach with cal := tset {} s.mach.cal d c } }

def modCal (d : Nat) (f : CalPort → CalPort) (s : State) : State := setCal d (f (cal s d)) s

/-- A frame of the encrypt direction leaves in Calender cells: by PROT of its dry port in its own bank (R91). -/
def frmCal (s : State) (f : Sheet) : Bool :=
  decide (8 ≤ f.egress) && frmDir f == 0 && isCal (bankOf s f.bank) (f.egress - 8)

/-- Frames of the bank that is not active are still to leave in cells on dry port `d`. -/
def oldCells (s : State) (d : Nat) : Bool :=
  s.mach.frames.any fun f => f.egress == 8 + d && f.bank != s.stock.active && frmCal s f

/-- The bank whose Calender settings a dry port runs: the live one where its PROT is Calender; where an Apply has made it
MACsec, the old one, until the frames it admitted have left (R90, R91; DESIGN CHOICE, entry 67). -/
def calBank (s : State) (d : Nat) : Bank :=
  if !isCal (liveBank s) d && oldCells s d then bankOf s (1 - s.stock.active) else liveBank s

/-- Dry port `d` sends cells. -/
def calServes (s : State) (d : Nat) : Bool := isCal (calBank s d) d

/-- The conditions of HOLD of a dry port (R164). -/
def holdCond (s : State) (d : Nat) : Bool :=
  let c := cal s d
  calServes s d && (!c.rxSync || !c.markSeen || !c.peerSync || !(port s (8 + d)).carrying)

/-- Bits 4:0 of a dry port's Calender status word (Table 8-6). -/
def calStatus (s : State) (d : Nat) : Nat :=
  let c := cal s d
  if isCal (liveBank s) d then
    b2n c.rxSync + 2 * b2n c.peerSync + 4 * b2n c.hold + 8 * b2n c.holdExpired + 16 * b2n c.openTx
  else 0

/-- Bring HOLD to what its conditions make it: an entry counts in HOLD_EVENTS, an end clears its expiry (R164). -/
def calSettle (d : Nat) (s : State) : State :=
  let h := holdCond s d
  let c := cal s d
  if h = c.hold then s
  else if h then cntAdd (portCnt (8 + d) 29) 1 (setCal d { c with hold := true, holdFrom := nowP s } s)
  else setCal d { c with hold := false, holdExpired := false } s

/-- Bring a dry port's HOLD up to date; where its status bits are no longer `was`, CAL_STATE is raised (R166). -/
def calUpdate (d was : Nat) (s : State) : State :=
  let s1 := calSettle d s
  raiseIf (calStatus s1 d != was) 85 s1

/-- Change a dry port's Calender state; a change of its status bits raises CAL_STATE (R166). -/
def calChange (d : Nat) (f : State → State) (s : State) : State := calUpdate d (calStatus s d) (f s)

/-- A port loses cell sync (R163). -/
def loseSync (d : Nat) (s : State) : State := modCal d (fun c => { c with rxSync := false, good := 0 }) s

/-- Port states (Table 6-4). -/
def psDisabled : Nat := 0
def psReconfig : Nat := 1
def psNoSignal : Nat := 2
def psLocking : Nat := 3
def psRemoteFault : Nat := 4
def psUp : Nat := 5
def psDim : Nat := 6

/-- What a change of a dry port's state or carrying does to its Calender state: leaving UP loses cell sync (R163). -/
def portCal (q : Nat) (lose : Bool) (f : State → State) (s : State) : State :=
  if q < 8 then f s else calChange (q - 8) (fun x => if lose then loseSync (q - 8) (f x) else f x) s

/-- The states in which a port's receive lanes are off: DISABLED, RECONFIG and DIM (R97, R109). -/
def lanesOff (st : Nat) : Bool := st == psDisabled || st == psReconfig || st == psDim

/-- A port's fields on entry to a state: it stops carrying; lanes that are off hold no CDR lock (DEDUCED, entry 27) and
receive nothing; DISABLED is where a port that an Apply closed arrives. -/
def portIn (st : Nat) (p : Port) : Port :=
  { p with state := st, carrying := false, cdr := if lanesOff st then 0 else p.cdr
           looped := if lanesOff st then [] else p.looped, closing := p.closing && st != psDisabled }

/-- A port changes state: its source is raised and its lanes carry what Table 6-4 says; on leaving UP it stops carrying and,
but for DIM, the departure counts (R107, R108, R109, R111). -/
def portTo (q st : Nat) (s : State) : State :=
  let p := port s q
  if p.state = st then s
  else
    let leaves := p.state == psUp
    let s1 := lineChange q (portCal q leaves (setPort q (portIn st p))) s
    let s2 := if leaves && st != psDim then cntAdd (portCnt q 13) 1 s1 else s1
    raise (88 + q) s2

/-- A port that an Apply disabled while it was sending enters DISABLED once the frame has left (R110). -/
def portClose (q : Nat) (s : State) : State :=
  if (port s q).closing && !txBusy s q then portTo q psDisabled s else s

end Sys2Proof.Machine
end

