-- ==== Sys2Proof/Machine/Channels.lean ====
section
/-! DEFINITION. Channels and their key slots: which key serves a frame, packet numbers, replay windows, promotion and
rollover, clearing (R126, R127, R148, R169–R175, R189). -/

namespace Sys2Proof.Machine

def keyeBase : Nat := 0x400F0000

/-- Slot states (Table 9-3). -/
def ksEmpty : Nat := 0
def ksLoaded : Nat := 1
def ksCurrent : Nat := 2
def ksDraining : Nat := 3
def ksEnded : Nat := 4

/-- A channel. -/
def chan (s : State) (c : Nat) : Chan := tget {} s.keys.chans c

def setChan (c : Nat) (x : Chan) (s : State) : State :=
  { s with keys := { s.keys with chans := tset {} s.keys.chans c x } }

def modChan (c : Nat) (f : Chan → Chan) (s : State) : State := setChan c (f (chan s c)) s

/-- The direction of a channel: of its live binding, else of its most recent one (Table 9-2). -/
def chanDir (s : State) (c : Nat) : Nat :=
  match bindOf (liveBank s) c with | some b => b.dir | none => (chan s c).lastDir

/-- PN limit of a channel (R173, R249). -/
def pnLimit (s : State) (c : Nat) : Nat :=
  if isCarrier (liveBank s) c then 2 ^ 64 - 1
  else match bindOf (liveBank s) c with
    | some b => if b.suite = 0 then 2 ^ 32 - 1 else 2 ^ 64 - 1
    | none => 2 ^ 64 - 1

/-- Frames dealt under a key that have not left. -/
def kidBusy (s : State) (kid : Nat) : Bool := s.mach.frames.any fun f => f.kid == kid && f.kid != 0

/-- A slot holds a key: an ENDED key is held only while frames dealt to it are unfinished (Table 9-3). -/
def holdsKey (s : State) (k : KeySlot) : Bool :=
  k.state == ksLoaded || k.state == ksCurrent || k.state == ksDraining || (k.state == ksEnded && kidBusy s k.kid)

/-- Key check value: the first four bytes of AES-256 of sixteen zero bytes; zero without a key. -/
def kcv (key : Bytes) : Bytes := fitBytes 4 (aes256 key (List.replicate 16 0#8))

def slotKcv (s : State) (k : KeySlot) : Bytes := if holdsKey s k then kcv k.key else List.replicate 4 0#8

/-- Lowest acceptable PN of a slot (R175). -/
def lowestPn (k : KeySlot) (window : Nat) : Nat := max k.startPn (k.h - window)

/-- Which slot of an encrypt channel serves a frame admitted at boundary count `b` (R91, R172): false for current, true
for next. -/
def encSlot (x : Chan) (b : Nat) : Option Bool :=
  if x.cur.state = ksCurrent ∧ x.cur.promotedB ≤ b then some false
  else if x.nxt.state = ksDraining ∧ x.nxt.spent = false ∧ b < x.nxt.demotedB ∧ x.nxt.promotedB ≤ b then some true
  else none

/-- Which slot of a decrypt channel an AN selects; one at its PN limit, or whose grace has ended, accepts nothing more (R145,
R172, R173, R175). -/
def decSlot (x : Chan) (an : Nat) : Option Bool :=
  if x.cur.state = ksCurrent ∧ x.cur.an = an then some false
  else if (x.nxt.state = ksLoaded ∨ x.nxt.state = ksDraining) ∧ x.nxt.spent = false ∧ x.nxt.graceOver = false ∧ x.nxt.an = an then
    some true
  else none

/-- The slot that `which` names. -/
def slotOf (x : Chan) (which : Bool) : KeySlot := if which then x.nxt else x.cur

def setSlot (x : Chan) (which : Bool) (k : KeySlot) : Chan := if which then { x with nxt := k } else { x with cur := k }

/-- KEY_AGING for a packet number above 7/8 of the limit, once per key (R173). -/
def pnAging (c : Nat) (which : Bool) (n : Nat) (s : State) : State :=
  let x := chan s c
  let k := slotOf x which
  if !k.aged && decide (7 * pnLimit s c < 8 * n) then raise 161 (setChan c (setSlot x which { k with aged := true }) s) else s

/-- A slot's key has reached its PN limit: a current key is ENDED, another serves nothing more (R173). -/
def pnEnd (c : Nat) (which : Bool) (s : State) : State :=
  modChan c (fun x =>
    let k := { slotOf x which with spent := true }
    if which then { x with nxt := k } else { x with cur := { k with state := ksEnded }, endCause := 2 }) s

/-- Assign the next packet number of an encrypt slot (R126, R173). -/
def assignPn (c : Nat) (which : Bool) (s : State) : State :=
  let x := chan s c
  let k := slotOf x which
  let s1 := pnAging c which k.pn (setChan c (setSlot x which { k with pn := k.pn + 1 }) s)
  if k.pn ≥ pnLimit s c then pnEnd c which s1 else s1

/-- The full packet number of a received XPN frame (R148). -/
def recoverPn (low l : Nat) : Nat :=
  (if l % 2 ^ 32 ≤ low then l / 2 ^ 32 * 2 ^ 32 + low else (l / 2 ^ 32 + 1) * 2 ^ 32 + low) % 2 ^ 64

/-- The replay check of a slot: a PN below L, or recorded at or below H (R175). -/
def replayBad (k : KeySlot) (window pn : Nat) : Bool :=
  decide (pn < lowestPn k window) || (decide (pn ≤ k.h) && k.seen.contains pn)

/-- Record an accepted PN in the slot that holds key `kid` (R127, R175). -/
def acceptPn (c kid pn : Nat) (s : State) : State :=
  let x := chan s c
  let which := x.nxt.kid == kid
  let k := slotOf x which
  if k.kid ≠ kid ∨ kid = 0 then s
  else
    let h := max k.h pn
    let k1 := { k with h := h, seen := (pn :: k.seen).filter fun p => decide (h ≤ p + 1023) }
    let s1 := pnAging c which h (setChan c (setSlot x which k1) s)
    if h ≥ pnLimit s c then pnEnd c which s1 else s1

/-! Promotion and rollover at a boundary (R172–R174). -/

/-- The LOADED next key moves to the current slot; a key that was current, or ended and still held, drains. -/
def promote (c : Nat) (s : State) : State :=
  let x := chan s c
  let b := s.epoch.boundaries
  let old := x.cur
  let drains := old.state == ksCurrent || (old.state == ksEnded && kidBusy s old.kid)
  let nxt : KeySlot := if drains then { old with state := ksDraining, demotedB := b, demotedT := nowP s, graceOver := false } else {}
  let ended := x.nxt.spent
  let cur := { x.nxt with state := if ended then ksEnded else ksCurrent, promotedB := b, promotedT := nowP s }
  setChan c { x with cur := cur, nxt := nxt, endCause := if ended then 2 else 0 } s

/-- The lifetime of a current key has passed: LIFETIME seconds of PCLK time since its promotion (R173). -/
def lifeOver (s : State) (k : KeySlot) : Bool :=
  k.lifetime != 0 && decide (k.lifetime * 1250000000 ≤ nowP s - k.promotedT)

/-- Rollover of one channel at a boundary (R174). -/
def rollover (c : Nat) (s : State) : State :=
  let x := chan s c
  let ends := x.cur.state == ksCurrent && lifeOver s x.cur
  if x.cur.promotedB = s.epoch.boundaries ∧ x.cur.state ≠ ksEmpty then s
  else if x.cur.state == ksEnded || ends then
    if x.nxt.state = ksLoaded then raise 160 (promote c s)
    else
      let cause := if ends then 1 else x.endCause
      let s1 := setChan c { x with cur := { x.cur with state := ksEnded, endNoted := true }, endCause := cause } s
      if x.cur.endNoted then s1 else raise 162 (orReg (keyeBase + 0x004) 4 s1)
  else s

/-- Every channel whose table entry is listed rolls over where it must. -/
def rolloverAll (s : State) : State := (s.keys.chans.map (·.1)).foldl (fun x c => rollover c x) s

/-! Draining and clearing. -/

/-- An encrypt DRAINING slot still has frames: those of the channel admitted before the demotion, and those begun under
its key on a Calender port (R172). -/
def drainBusy (s : State) (c : Nat) : Bool :=
  let x := chan s c
  kidBusy s x.nxt.kid || s.mach.frames.any fun f => f.chan == some c && decide (f.boundary < x.nxt.demotedB)

/-- Both slots and the packet-number and replay state of a channel are cleared; END_CAUSE becomes 3 where a key was
held (R189). -/
def clearChan (c : Nat) (s : State) : State :=
  let x := chan s c
  let held := holdsKey s x.cur || holdsKey s x.nxt
  setChan c { x with cur := {}, nxt := {}, endCause := if held then 3 else x.endCause } s

/-- A frame has begun transmission: on the line, or in cells. -/
def begun (f : Sheet) : Bool := f.stage == .sending || decide (0 < f.sent)

/-- Frames of a channel that have not begun transmission are discarded as DROP_NO_KEY (R190). -/
def dropChanFrames (c : Nat) (s : State) : State :=
  (s.mach.frames.filter fun f => f.chan == some c && !begun f).foldl (fun x f => discardChan f 5 x) s

/-- The owner of a channel lets door `d` act on it (R74). -/
def mayUse (owner : Option Nat) (d : Nat) : Bool := d == 3 || owner == none || owner == some d

/-- A channel unowned becomes owned by a door (R74); LIVE_VER increases (R87). -/
def takeChan (c d : Nat) (s : State) : State :=
  if (chan s c).owner = none then bumpLiveVer (modChan c (fun x => { x with owner := some d }) s) else s

/-- An encrypt carrier has a usable current key. -/
def carrierReady (s : State) (d : Nat) : Bool := (chan s (latTx (calBank s d) d)).cur.state == ksCurrent

end Sys2Proof.Machine
end

