-- ==== Sys2Proof/Machine/Catalogue.lean ====
section
/-! DEFINITION. The opcodes, their families and forms, and the fields of a command packet (Tables 4-3 to 4-5, 12-1). -/

namespace Sys2Proof.Machine

/-- A row of Table 12-1: the family's number (0–7) and the forms, each a value of PTR and a PARAM_LEN. -/
structure OpInfo where
  family : Nat
  forms : List (Bool × Nat)
  deriving DecidableEq, Repr

/-- Table 12-1. -/
def opInfo (op : Nat) : Option OpInfo :=
  match op with
  | 0x00 => some ⟨0, [(false, 0)]⟩
  | 0x01 => some ⟨0, [(true, 0)]⟩
  | 0x02 => some ⟨0, [(false, 0), (true, 0)]⟩
  | 0x03 => some ⟨0, [(false, 4)]⟩
  | 0x04 => some ⟨0, [(false, 0)]⟩
  | 0x05 => some ⟨0, [(false, 4)]⟩
  | 0x10 => some ⟨1, [(false, 32), (true, 4)]⟩
  | 0x11 => some ⟨1, [(true, 8)]⟩
  | 0x12 => some ⟨1, [(false, 0)]⟩
  | 0x13 => some ⟨1, [(false, 8)]⟩
  | 0x14 => some ⟨1, [(false, 0)]⟩
  | 0x20 => some ⟨2, [(true, 0)]⟩
  | 0x21 => some ⟨2, [(false, 4)]⟩
  | 0x22 => some ⟨2, [(true, 4)]⟩
  | 0x23 => some ⟨2, [(false, 4)]⟩
  | 0x30 => some ⟨3, [(false, 4)]⟩
  | 0x31 => some ⟨3, [(true, 4)]⟩
  | 0x32 => some ⟨3, [(false, 4), (true, 4)]⟩
  | 0x40 => some ⟨4, [(true, 12)]⟩
  | 0x41 => some ⟨4, [(true, 12)]⟩
  | 0x42 => some ⟨4, [(false, 12)]⟩
  | 0x43 => some ⟨4, [(true, 4)]⟩
  | 0x44 => some ⟨4, [(true, 12)]⟩
  | 0x45 => some ⟨4, [(false, 12)]⟩
  | 0x46 => some ⟨4, [(true, 4)]⟩
  | 0x47 => some ⟨4, [(false, 0)]⟩
  | 0x50 => some ⟨5, [(true, 4)]⟩
  | 0x51 => some ⟨5, [(true, 4)]⟩
  | 0x52 => some ⟨5, [(false, 4)]⟩
  | 0x53 => some ⟨5, [(false, 4)]⟩
  | 0x54 => some ⟨5, [(true, 4)]⟩
  | 0x60 => some ⟨6, [(true, 12)]⟩
  | 0x61 => some ⟨6, [(true, 0)]⟩
  | 0x70 => some ⟨7, [(false, 8)]⟩
  | 0x71 => some ⟨7, [(false, 4)]⟩
  | 0x72 => some ⟨7, [(false, 4)]⟩
  | 0x73 => some ⟨7, [(false, 4)]⟩
  | _ => none

/-- The reserved parameter bits of an opcode in a form: parameter byte and mask (R7, chapter 12's parameter columns). -/
def reservedParams (op : Nat) (ptr : Bool) : List (Nat × Nat) :=
  match op with
  | 0x03 => [(0, 0xFE), (1, 0xFF), (2, 0xFF), (3, 0xFF)]
  | 0x05 => [(2, 0xFF), (3, 0xFF)]
  | 0x10 => if ptr then [(2, 0xFF), (3, 0xFF)] else []
  | 0x11 => [(1, 0xFF), (6, 0xFF), (7, 0xFF)]
  | 0x21 => [(3, 0xFF)]
  | 0x23 => [(1, 0xFF)]
  | 0x30 => [(2, 0xFF), (3, 0xFF)]
  | 0x31 => [(3, 0xFC)]
  | 0x32 => [(2, 0xFF), (3, 0xFF)]
  | 0x40 => [(1, 0xFF), (2, 0xFF), (3, 0xFF)]
  | 0x41 => [(1, 0xFF), (2, 0xFF), (3, 0xFF)]
  | 0x42 => [(1, 0xFE), (2, 0xFF), (3, 0xFF)]
  | 0x43 => [(2, 0xFF), (3, 0xFF)]
  | 0x44 => [(1, 0xFF), (2, 0xFF), (3, 0xFF)]
  | 0x45 => [(1, 0xFF), (2, 0xFF), (3, 0xFF)]
  | 0x46 => [(1, 0xFF), (2, 0xFF), (3, 0xFF)]
  | 0x50 => [(1, 0xFF), (2, 0xFF), (3, 0xFF)]
  | 0x52 => [(1, 0xFF)]
  | 0x53 => [(2, 0xE0), (3, 0xFF)]
  | 0x60 => [(9, 0xFF)]
  | 0x70 => [(1, 0xFF), (2, 0xFF), (3, 0xFF)]
  | 0x72 => [(2, 0xFF), (3, 0xFF)]
  | _ => []

/-! Packet fields (Table 4-3). -/

def pktOpcode (p : Bytes) : Nat := byteAt p 0
def pktFlags (p : Bytes) : Nat := byteAt p 1
def pktTag (p : Bytes) : Nat := leAt p 2 2
def pktSeq (p : Bytes) : Nat := leAt p 4 4
def pktParamLen (p : Bytes) : Nat := leAt p 8 2
def pktCrc (p : Bytes) : Nat := leAt p 12 4
def pktFence (p : Bytes) : Bool := bitAt (pktFlags p) 0
def pktInterim (p : Bytes) : Bool := bitAt (pktFlags p) 1
def pktPtr (p : Bytes) : Bool := bitAt (pktFlags p) 2
def pktCont (p : Bytes) : Bool := bitAt (pktFlags p) 3
def pktQuiet (p : Bytes) : Bool := bitAt (pktFlags p) 4

/-- Where the parameters begin: byte 40 with PTR, byte 16 without (R241). -/
def pktParamBase (p : Bytes) : Nat := if pktPtr p then 40 else 16

/-- Parameter byte n (R241). -/
def pByte (p : Bytes) (n : Nat) : Nat := byteAt p (pktParamBase p + n)

/-- The little-endian parameter of `k` bytes at Pn. -/
def pLe (p : Bytes) (n k : Nat) : Nat := leAt p (pktParamBase p + n) k

/-- The packet byte offset of Pn, as RES0 reports it (R242). -/
def pOff (p : Bytes) (n : Nat) : Nat := pktParamBase p + n

/-- IN_ADDR, IN_LEN, OUT_LEN and OUT_ADDR; zero without PTR (Table 4-5). -/
def pktInAddr (p : Bytes) : Nat := if pktPtr p then leAt p 16 8 else 0
def pktInLen (p : Bytes) : Nat := if pktPtr p then leAt p 24 4 else 0
def pktOutLen (p : Bytes) : Nat := if pktPtr p then leAt p 28 4 else 0
def pktOutAddr (p : Bytes) : Nat := if pktPtr p then leAt p 32 8 else 0

/-- The CRC-32C of a packet with bytes 12–15 taken as zero (R55). -/
def pktCrcComputed (p : Bytes) : Nat := crc32c (overwrite p 12 [0#8, 0#8, 0#8, 0#8])

/-! Status codes (Tables 4-11, 12-13). -/

def stDone : Nat := 0x00
def stDoneNote : Nat := 0x01
def stDelayedEpoch : Nat := 0x10
def stDelayedEngine : Nat := 0x11
def stDelayedStore : Nat := 0x12
def stDelayedFence : Nat := 0x13
def stOutstanding : Nat := 0x20
def stNoCredit : Nat := 0x21
def stOverCapacity : Nat := 0x22
def stNoKeSlot : Nat := 0x23
def stQueueFull : Nat := 0x24
def stReamFull : Nat := 0x25
def stStoreAbsent : Nat := 0x26
def stStoreWorn : Nat := 0x27
def stNotGranted : Nat := 0x30
def stNotOwner : Nat := 0x31
def stNoSession : Nat := 0x32
def stReam : Nat := 0x33
def stUnchecked : Nat := 0x34
def stFusedLane : Nat := 0x35
def stNoModule : Nat := 0x36
def stNotCalender : Nat := 0x37
def stLogOnly : Nat := 0x38
def stClosed : Nat := 0x39
def stCrc : Nat := 0x40
def stLength : Nat := 0x41
def stReserved : Nat := 0x42
def stOpcode : Nat := 0x43
def stTag : Nat := 0x44
def stSequence : Nat := 0x45
def stContinuation : Nat := 0x46
def stPointer : Nat := 0x47
def stValue : Nat := 0x48
def stWrap : Nat := 0x49
def stRange : Nat := 0x4A
def stDiscardedFault : Nat := 0x50
def stFaultState : Nat := 0x51
def stApplyPending : Nat := 0x60
def stPending : Nat := 0x61
def stClaimed : Nat := 0x62
def stStale : Nat := 0x63
def stCancelled : Nat := 0x64
def stEpoch : Nat := 0x65
def stStock : Nat := 0x66
def stKeState : Nat := 0x67
def stBound : Nat := 0x68
def stAn : Nat := 0x69
def stStreamBusy : Nat := 0x6A

end Sys2Proof.Machine
end

