-- ==== Sys2Proof/Machine/Events.lean ====
section
/-! DEFINITION. The Event Controller: claims, completions, stack faults, software sources, its registers
(R306–R314). -/

namespace Sys2Proof.Machine

/-- The target a register claim or completion acts for. -/
def evcTargetIdx : EvcTarget → Nat
  | .sentinel => 0
  | .door0 => 1
  | .door1 => 2

/-- STAT.IL of the core (Table 13-2). -/
def coreIL (s : State) : Nat := wfld s.core.stat 8 4

/-- STAT.IE of the core. -/
def coreIE (s : State) : Bool := wbit s.core.stat 7

/-- A request that may be signalled to the core: pending, unmasked and, in a moderation period outside WAIT, urgent
(R309, R313). -/
def coreSignalled (s : State) (n : Nat) : Bool :=
  evcRequested s 0 n && (!s.evc.modHold || s.core.waiting || wbit (srcCfg s n) 12)

/-- The level the EVC signals to the core (R309). -/
def sigLevel (s : State) : Option Nat :=
  if evcPend s 0 = 0 then none else (bestSource s (coreSignalled s)).map (srcLevel s)

/-- Some request is pending and unmasked for the sentinel target, whatever its level (R278). -/
def sentinelPending (s : State) : Bool :=
  if evcPend s 0 = 0 then false else (List.range 256).any (evcRequested s 0)

/-- Signal a door target again where what is deliverable to it may have changed; the sentinel's signal follows its
requests by itself. -/
def evcSettleTarget (t : Nat) (s : State) : State := if t = 0 then s else evcSettle (t - 1) s

/-- What a claim by target `t` returns: the highest deliverable request; for the sentinel its level must be at least
STAT.IL (R310). -/
def claimed (s : State) (t : Nat) : Option Nat :=
  match bestDeliverable s t with
  | none => none
  | some n => if t = 0 ∧ srcLevel s n < coreIL s then none else some n

/-- The effect of a claim that returned this request: the pending bit clears and the entry is pushed, or SPURIOUS is set and
counted (R310). -/
def claimTake (t : Nat) (v : Option Nat) (s : State) : State :=
  match v with
  | some n => evcSettleTarget t (setEvcStack t ((n, srcLevel s n) :: evcStack s t) (unpend t n s))
  | none => incReg (evcBase + 0x01C) (putBit (evcBase + 0x004) 4 true s)

/-- A claim by a read: it returns and takes effect at once. -/
def claim (t : Nat) (s : State) : State := claimTake t (claimed s t) s

/-- The vector a claim returns: 0x3FF where no request qualifies (R310). -/
def claimVector (s : State) (t : Nat) : Nat := (claimed s t).getD 0x3FF

/-- A stack fault of target `t` (R312). -/
def stackFault (t v : Nat) (s : State) : State :=
  let expected := match evcStack s t with | [] => 0x3FF | (n, _) :: _ => n
  let s1 := setEvcStack t [] s
  let s2 := setRegN (evcBase + 0x018) (expected + v % 1024 * 2 ^ 10 + t * 2 ^ 20) s1
  let s3 := raise 176 (putBit (evcBase + 0x004) t true s2)
  if t = 0 then s3 else evcResignal (t - 1) s3

/-- A completion of vector `v` by target `t` (R311, R312). -/
def complete (t v : Nat) (s : State) : State :=
  if v = 0x3FF then s
  else match evcStack s t with
    | (n, _) :: r =>
      if n = v then
        let s1 := setEvcStack t r s
        if t = 0 then s1 else evcResignal (t - 1) s1
      else stackFault t v s
    | [] => stackFault t v s

/-- Raise a software source, 192–255; other values are ignored (R307). -/
def swSet (v : Nat) (s : State) : State := if inRange v 192 255 then raise v s else s

/-- Withdraw a software source for every target at once (R307). -/
def swClr (v : Nat) (s : State) : State :=
  if inRange v 192 255 then
    let s1 := unpend 3 v (unpend 2 v (unpend 1 v (unpend 0 v s)))
    evcSettle 2 (evcSettle 1 (evcSettle 0 s1))
  else s

/-- Clear a target's stack and pending bits: a door reset (R312). -/
def evcClearTarget (t : Nat) (s : State) : State :=
  evcSettleTarget t (setEvcPend t 0 (setEvcStack t [] s))

/-- STATUS or DSTATUS of a target (Table 15-2). -/
def evcStatus (s : State) (t : Nat) : Word :=
  let st := evcStack s t
  let top := match st with | [] => 0 | (_, l) :: _ => l
  let sig : Option Nat :=
    if t = 0 then sigLevel s
    else match tget 0 s.evc.lastSig (t - 1) with | 0 => none | p + 1 => some p
  let hold := if t = 0 then s.evc.modHold else (door s (t - 1)).modRunning
  w32 (top + st.length * 2 ^ 4 + sig.getD 0 * 2 ^ 9 + b2n sig.isSome * 2 ^ 13 + b2n hold * 2 ^ 14)

/-- STACKi: the sentinel's stack entry i, bottom first. -/
def evcStackReg (s : State) (i : Nat) : Word :=
  match (evcStack s 0).reverse[i]? with
  | none => 0#32
  | some (n, l) => w32 (n + l * 2 ^ 8 + 2 ^ 12)

/-- The value an EVC register reads as, before any side effect (R314). -/
def evcPeek (o : Nat) (s : State) : Word :=
  if o = 0x000 then evcStatus s 0
  else if o = 0x010 then w32 (claimVector s 0)
  else if inRange o 0x030 0x03B then evcStatus s ((o - 0x030) / 4 + 1)
  else if inRange o 0x040 0x07F then evcStackReg s ((o - 0x040) / 4)
  else if inRange o 0x200 0x21F then w32 (evcPend s 0 / 2 ^ (32 * ((o - 0x200) / 4)))
  else reg s (evcBase + o)

/-- The side effect of a read of an EVC register: a read of CLAIM claims, SPURCNT clears. -/
def evcReadEffect (o : Nat) (s : State) : State :=
  if o = 0x010 then claim 0 s else readClears (evcBase + o) s

/-- A write of a SRC_CFG word: a door source keeps only the TARGETS bits of the sentinel and its own door; a TARGETS
bit that clears withdraws the request from that target (R306, R307). -/
def srcCfgWrite (n : Nat) (v : Word) (s : State) : State :=
  let allowed := if inRange n 112 143 then
      (let d := (n - 112) / 8; if d < 3 then 1 + 2 ^ (d + 1) else 1) else 0xF
  let v' := wsetFld v 8 4 (wfld v 8 4 &&& allowed)
  let s1 := writeTyped (evcBase + 0x400 + 4 * n) false v' s
  let drop := fun t x => if srcTargets s n t && !srcTargets x n t then unpend t n x else x
  let s2 := drop 3 (drop 2 (drop 1 (drop 0 s1)))
  evcSettle 2 (evcSettle 1 (evcSettle 0 s2))

/-- A software write of an EVC register (R314). -/
def evcWrite (o : Nat) (v : Word) (s : State) : State :=
  if o = 0x014 then complete 0 (wfld v 0 10) s
  else if o = 0x020 then swSet (wfld v 0 8) s
  else if o = 0x024 then swClr (wfld v 0 8) s
  else if inRange o 0x400 0x7FF then srcCfgWrite ((o - 0x400) / 4) v s
  else writeTyped (evcBase + o) false v s

/-- EVC_CLAIM (R310). -/
def execEvcClaim (t : EvcTarget) (s : State) : Host.Outcome State Fault Refusal :=
  .next (live s fun s =>
    let i := evcTargetIdx t
    claim i (emit (.readData (claimVector s i)) s))

/-- EVC_COMPLETE (R311, R312). -/
def execEvcComplete (t : EvcTarget) (v : BitVec 10) (s : State) : Host.Outcome State Fault Refusal :=
  .next (live s (complete (evcTargetIdx t) v.toNat))

/-- SWSET (R307). -/
def execSwset (v : Word) (s : State) : Host.Outcome State Fault Refusal :=
  .next (live s (evcWrite 0x020 v))

/-- SWCLR (R307). -/
def execSwclr (v : Word) (s : State) : Host.Outcome State Fault Refusal :=
  .next (live s (evcWrite 0x024 v))

/-- An SPI instruction has been the last on door 2 (R81). -/
def spiDone (code : Nat) (s : State) : State := modDoor 2 (fun x => { x with lastSpi := code, spiClaim := none }) s

/-- Door 2 EVC_CLAIM: the vector is chosen at the end of the 8 dummy cycles, and the claim takes effect only where both data
bytes have been clocked out and CS_N rises, then for the vector chosen, withdrawn or not (R310). The level pushed is the
source's at that moment (DESIGN CHOICE, entry 92). -/
def execSpiEvcClaim (p : SpiClaim) (s : State) : Host.Outcome State Fault Refusal :=
  .next (live s fun s =>
    match p with
    | .chosen => modDoor 2 (fun x => { x with spiClaim := some (claimed s 3) }) s
    | .csRise bytes =>
      match (door s 2).spiClaim with
      | none => spiDone 0x0E s
      | some v =>
        let s1 := spiDone 0x0E (emit (.spiData ((leBytes 2 (v.getD 0x3FF)).take bytes)) s)
        if bytes < 2 then s1 else claimTake 3 v s1)

/-- Door 2 EVC_COMPLETE: an instruction that ends before its two bytes has no effect (R53, R311). -/
def execSpiEvcComplete (data : Bytes) (s : State) : Host.Outcome State Fault Refusal :=
  .next (live s fun s =>
    let s1 := spiDone 0x0F s
    if data.length < 2 then s1 else complete 3 (leAt data 0 2 % 1024) s1)

/-- The sentinel moderation period ends (R313). -/
def execSentinelModerationEnd (s : State) : Host.Outcome State Fault Refusal :=
  .next (live s fun s => if nowP s < s.evc.modEnd then s else { s with evc := { s.evc with modHold := false } })

end Sys2Proof.Machine
end

