-- ==== Sys2Proof/Machine/Doors.lean ====
section
/-! DEFINITION. The doors: acceptance and refusal of packets, the reply pool, replies and their delivery, rings and
BAR0, door 2's SPI instructions, door resets (R51–R81). -/

namespace Sys2Proof.Machine

/-! The reply pool (R71). -/

/-- Return an entry to the pool. -/
def poolReturn (d : Nat) (k : PoolKind) (s : State) : State :=
  match k with
  | .none => s
  | .floor => modDoor d (fun x => { x with floorUsed := x.floorUsed - 1 }) s
  | .shared => { s with pool := { s.pool with sharedFree := s.pool.sharedFree + 1 } }

/-- Take an entry for door `d`: from its floor while fewer than 32 of it are in use, from the shared entries
otherwise. -/
def poolTake (d : Nat) (s : State) : Option (PoolKind × State) :=
  if (door s d).floorUsed < 32 then
    some (.floor, modDoor d (fun x => { x with floorUsed := x.floorUsed + 1 }) s)
  else if 0 < s.pool.sharedFree then
    some (.shared, { s with pool := { s.pool with sharedFree := s.pool.sharedFree - 1 } })
  else none

/-! Replies (R60). -/

/-- A reply formed now: GEN and EPOCH are those of this moment. -/
def mkReply (s : State) (tag opcode status detail r0 r1 r2 : Nat) : Reply :=
  { tag := tag, status := status, gen := s.fault.gen, opcode := opcode, detail := detail,
    epoch := s.epoch.boundaries, res0 := r0 % 2 ^ 32, res1 := r1 % 2 ^ 32, res2 := r2 % 2 ^ 32 }

/-- Load the door 2 window with the data of the reply at the head of its queue where the window is free (R66). -/
def windowLoad (x : Door) : Door :=
  match x.window, x.replies with
  | none, r :: _ =>
    match r.data with
    | some bs => { x with window := some bs, windowRead := false }
    | none => x
  | _, _ => x

/-- Put a formed reply at the end of its door's queue. -/
def pushReply (d : Nat) (r : Reply) (s : State) : State :=
  if d = 2 then irq2Settle (modDoor 2 (fun x => windowLoad { x with replies := x.replies ++ [r] }) s)
  else modDoor d (fun x => { x with replies := x.replies ++ [r] }) s

/-- The 32 bytes of a reply with a given PHASE (Table 4-6). -/
def replyBytes (r : Reply) (phase : Bool) : Bytes :=
  let body := leBytes 2 r.tag ++ leBytes 1 r.status
    ++ leBytes 1 (b2n phase + 2 * b2n r.interim + 4 * b2n r.unsol + 8 * b2n r.data.isSome)
    ++ leBytes 2 r.gen ++ leBytes 1 r.opcode ++ leBytes 1 r.detail ++ leBytes 8 r.epoch
    ++ leBytes 4 r.res0 ++ leBytes 4 r.res1 ++ leBytes 4 r.res2
  body ++ leBytes 4 (crc32c body)

/-! Outstanding commands. -/

/-- A command of a door by its tag that has no final reply formed yet. -/
def findCmd (s : State) (d tag : Nat) : Option Cmd :=
  (door s d).cmds.find? fun c => c.tag == tag && c.stage != .replied

/-- Change that command. -/
def modCmd (d tag : Nat) (f : Cmd → Cmd) (s : State) : State :=
  modDoor d (fun x => { x with cmds := updWhere x.cmds (fun c => c.tag == tag && c.stage != .replied) f }) s

/-- Remove the command whose final reply has been delivered or dropped. -/
def removeCmd (d : Nat) (p : Cmd → Bool) (s : State) : State :=
  modDoor d (fun x => { x with cmds := x.cmds.filter fun c => !p c }) s

/-- Write a command's output data before its final reply (R57): to host memory, to sentinel memory, or into the reply
for the door 2 window. -/
def writeOutput (d : Nat) (c : Cmd) (data : Bytes) (s : State) : State :=
  if d = 3 then deviceWrite (pktOutAddr c.pkt) data s
  else if d = 2 then s
  else emit (.hostWrite d (pktOutAddr c.pkt) data) s

/-- Form the final reply of a command (R69–R71, R76): output data is written first; the reply of a command whose
replies are dropped is dropped, and its entry returns to the pool. -/
def finish (d tag status detail r0 r1 r2 : Nat) (data : Option Bytes) (s : State) : State :=
  match findCmd s d tag with
  | none => s
  | some c =>
    if c.dropped then
      poolReturn d c.pool (removeCmd d (fun x => x.tag == tag && x.stage != .replied) s)
    else
      let s1 := match data with | some bs => writeOutput d c bs s | none => s
      let r2' := match data with | some bs => if d = 2 then bs.length else r2 | none => r2
      let r := { mkReply s tag c.opcode status detail r0 r1 r2' with
        data := data, quiet := pktQuiet c.pkt, pool := c.pool, endsCmd := true }
      pushReply d r (modCmd d tag (fun x => { x with stage := .replied }) s1)

/-- A final reply with status and detail only. -/
def finishSt (d tag status detail : Nat) (s : State) : State := finish d tag status detail 0 0 0 none s

/-- A final reply with status and RES0. -/
def finishR0 (d tag status r0 : Nat) (s : State) : State := finish d tag status 0 r0 0 0 none s

/-- The one interim reply of a command that is deferred, where it asked for one (R70). -/
def deferCmd (d tag status : Nat) (s : State) : State :=
  match findCmd s d tag with
  | none => s
  | some c =>
    if pktInterim c.pkt && !c.interimSent then
      let s1 := modCmd d tag (fun x => { x with interimSent := true }) s
      if c.dropped then s1
      else pushReply d { mkReply s tag c.opcode status 0 0 0 0 with interim := true, quiet := pktQuiet c.pkt } s1
    else s

/-- An unsolicited reply takes a pool entry, or is dropped and counted (R71). -/
def unsolicited (d opcode detail r0 r1 r2 : Nat) (s : State) : State :=
  match poolTake d s with
  | none => setNotice d 6 { s with pool := { s.pool with telemDropped := satInc 32 s.pool.telemDropped } }
  | some (k, s1) =>
    pushReply d { mkReply s1 0xFFFF opcode stDoneNote detail r0 r1 r2 with unsol := true, pool := k } s1

/-- The EVC source of a door's event k (Table 4-14). -/
def doorSource (d k : Nat) : Nat := 112 + 8 * d + k

/-- Refuse a packet: one final reply that takes no pool entry, and the NOTICE bits and sources of its class (R69,
Tables 4-7, 4-14). -/
def refusePkt (d : Nat) (p : Bytes) (status r0 : Nat) (s : State) : State :=
  let r := { mkReply s (pktTag p) (pktOpcode p) status 0 r0 0 0 with quiet := pktQuiet p }
  let s1 := pushReply d r s
  let s2 := if inRange status 0x40 0x4F then raise (doorSource d 2) (setNotice d 1 s1) else s1
  let s3 := if status = stSequence then raise (doorSource d 6) (setNotice d 2 s2) else s2
  if status = stNoCredit then raise (doorSource d 1) (setNotice d 0 s3) else s3

/-! Acceptance checks (Table 4-10). -/

/-- The first offset at which a packet breaks check 4: a reserved byte or bit, CONT off door 2, PTR with CONT,
parameter bytes beyond PARAM_LEN, or a reserved parameter bit of its opcode. -/
def reservedFault (d : Nat) (p : Bytes) : Option Nat :=
  let flags := pktFlags p
  let flagBad := fld flags 5 3 != 0 || (pktCont p && (d != 2 || pktPtr p))
  let tail := pktParamBase p + pktParamLen p
  let paramBad : Option Nat :=
    if pktCont p then none
    else ((reservedParams (pktOpcode p) (pktPtr p)).find? fun q => pByte p q.1 &&& q.2 != 0).map
      fun q => pOff p q.1
  if flagBad then some 1
  else match firstNonZero (slice p 10 2) 10 with
    | some o => some o
    | none =>
      match (if d = 3 then firstNonZero (slice p 12 4) 12 else none) with
      | some o => some o
      | none =>
        match paramBad, firstNonZero (p.drop tail) tail with
        | some a, some b => some (min a b)
        | some a, none => some a
        | none, b => b

/-- The largest input or output length of a descriptor on a door (Table 4-5). -/
def maxDescLen (d : Nat) : Nat := if d = 2 then 16384 else 1048576

/-- Check 5: none where the lengths are right, otherwise the length expected (R56, R241). -/
def lengthFault (d : Nat) (p : Bytes) : Option Nat :=
  match opInfo (pktOpcode p) with
  | some i =>
    if i.forms.contains (pktPtr p, pktParamLen p) then
      if maxDescLen d < pktInLen p ∨ maxDescLen d < pktOutLen p then some (maxDescLen d) else none
    else some (match i.forms with | (_, n) :: _ => n | [] => 0)
  | none =>
    let m := if pktPtr p then 24 else 48
    if m < pktParamLen p then some m
    else if maxDescLen d < pktInLen p ∨ maxDescLen d < pktOutLen p then some (maxDescLen d) else none

/-- Check 8: the status a grant word refuses an opcode with (R73, R46). -/
def grantFault (s : State) (d : Nat) (p : Bytes) : Option Nat :=
  if d = 3 then none
  else
    let g := (door s d).grant
    let op := pktOpcode p
    match opInfo op with
    | none => none
    | some i =>
      if i.family = 7 then some stNotGranted
      else if i.family ≠ 0 ∧ bitAt g i.family = false then some stNotGranted
      else if i.family = 4 then
        if d = 2 ∧ s.idn.halted = true ∧ ¬ (op = 0x40 ∨ op = 0x41 ∨ op = 0x46) then some stNotGranted
        else if op = 0x47 then none
        else if pByte p 0 ≤ 5 ∧ bitAt g (8 + pByte p 0) = false then some stReam
        else none
      else none

/-- Commands that count as outstanding: those without a final reply delivered (R69). -/
def outstanding (x : Door) : Nat := x.cmds.length

/-- Opcodes that need no session: NOP, IDENTIFY, GET_STATUS and DOOR_CLAIM (Table 4-10). -/
def needsNoSession (op : Nat) : Bool := op ≤ 3

/-- The continuation command of door 2 that still collects data, and the bytes it expects. -/
def collecting (x : Door) : Option (Cmd × Nat) :=
  x.cmds.findSome? fun c => match c.stage with | .collecting n => some (c, n) | _ => none

/-- Checks 4 to 10 of a packet that starts a command: none where they pass, otherwise status and RES0. -/
def startFault (s : State) (d : Nat) (p : Bytes) : Option (Nat × Nat) :=
  let x := door s d
  match reservedFault d p with
  | some o => some (stReserved, o)
  | none =>
    match lengthFault d p with
    | some n => some (stLength, n)
    | none =>
      if (opInfo (pktOpcode p)).isNone then some (stOpcode, 0)
      else if pktTag p = 0xFFFF ∨ x.cmds.any (fun c => c.tag == pktTag p && c.stage != .replied) then some (stTag, 0)
      else match grantFault s d p with
        | some st => some (st, x.grant)
        | none =>
          if !doorSession s d && !needsNoSession (pktOpcode p) then some (stNoSession, 0)
          else if 64 ≤ outstanding x then some (stOutstanding, 64)
          else none

/-- A continuation packet (R66, R67): it brings its data to the pending command, or is refused and ends it. One that is not
the last may carry fewer than 48 bytes (DESIGN CHOICE, entry 86). Where the continuation is refused with 0x46, its own reply
comes before the pending command's final one; one that fails check 4 or 5 leaves the command collecting, so that its data
can be sent again under the next SEQ (DESIGN CHOICE, entry 87). -/
def continuePkt (p : Bytes) (s : State) : State :=
  match collecting (door s 2) with
  | none => refusePkt 2 p stContinuation 0 s
  | some (c, left) =>
    let n := pktParamLen p
    if c.opcode ≠ pktOpcode p ∨ c.tag ≠ pktTag p ∨ left < n then
      finishR0 2 c.tag stContinuation left (refusePkt 2 p stContinuation left s)
    else match reservedFault 2 p with
      | some o => refusePkt 2 p stReserved o s
      | none =>
        if n = 0 ∨ 48 < n then refusePkt 2 p stLength (min 48 left) s
        else modCmd 2 c.tag (fun x => { x with
          input := x.input ++ slice p 16 n,
          stage := if left = n then .waiting else .collecting (left - n) }) s

/-- Checks 1 to 10 of one packet: the packet is refused, or continues a command, or asks for a pool entry. -/
def checkPkt (d : Nat) (p : Bytes) (s : State) : State × Bool :=
  if d ≠ 3 ∧ pktCrcComputed p ≠ pktCrc p then (refusePkt d p stCrc (pktCrcComputed p) s, false)
  else if pktSeq p ≠ (door s d).expectSeq then (refusePkt d p stSequence (door s d).expectSeq s, false)
  else
    let s1 := modDoor d (fun x => { x with expectSeq := (x.expectSeq + 1) % 2 ^ 32 }) s
    if d = 2 ∧ pktCont p = true then (continuePkt p s1, false)
    else
      let s2 := match (if d = 2 then collecting (door s1 2) else none) with
        | some (c, left) => finishR0 2 c.tag stContinuation left s1
        | none => s1
      match startFault s2 d p with
      | some (st, r0) => (refusePkt d p st r0 s2, false)
      | none => (s2, true)

/-- Accept a packet whose pool entry has been granted (R69): on door 2 it may still await its input data (R66). -/
def acceptPkt (d : Nat) (p : Bytes) (k : PoolKind) (s : State) : State :=
  let n := if d = 2 then pktInLen p else 0
  let c : Cmd := { tag := pktTag p, opcode := pktOpcode p, flags := pktFlags p, pkt := p, pool := k, gen := s.fault.gen,
                   stage := if n = 0 then .waiting else .collecting n }
  modDoor d (fun x => { x with cmds := x.cmds ++ [c] }) s

/-- The doors in the order the pool's rotating pointer gives (R72). -/
def rotation (ptr : Nat) : List Nat := (List.range 4).map fun i => (ptr + i) % 4

/-- Check 11 for the packets of one FCLK cycle: floor requests are served, shared requests in the pointer's order while
entries remain; after a contested cycle with a winner the pointer moves to the door after the last winner (R72). -/
def grantPool (reqs : List (Nat × Bytes)) (s : State) : State :=
  let onFloor := fun d => decide ((door s d).floorUsed < 32)
  let floorReqs := reqs.filter fun r => onFloor r.1
  let sharedReqs := reqs.filter fun r => !onFloor r.1
  let s1 := floorReqs.foldl (fun x r =>
    match poolTake r.1 x with
    | some (k, y) => acceptPkt r.1 r.2 k y
    | none => x) s
  let contested := decide (2 ≤ sharedReqs.length) && decide (s.pool.sharedFree < sharedReqs.length)
  let ordered := (rotation s.pool.pointer).filterMap fun d => sharedReqs.find? fun r => r.1 == d
  let winners := ordered.take s.pool.sharedFree
  let s2 := ordered.foldl (fun x r =>
    match poolTake r.1 x with
    | some (k, y) => acceptPkt r.1 r.2 k y
    | none => refusePkt r.1 r.2 stNoCredit x.pool.sharedFree x) s1
  match contested, winners.getLast? with
  | true, some w => { s2 with pool := { s2.pool with pointer := (w.1 + 1) % 4 } }
  | _, _ => s2

/-! Fetching (R62, R64, R65). -/

def ringSize (log2 : Nat) : Nat := 2 ^ log2

/-- Ring sizes of a door: door 3's are fixed (R68). -/
def cmdRingSize (d : Nat) (x : Door) : Nat := if d = 3 then 64 else ringSize x.cringLog2
def rplRingSize (d : Nat) (x : Door) : Nat := if d = 3 then 128 else ringSize x.rringLog2

/-- There is room for a reply entry (R62). -/
def replyRoom (d : Nat) (x : Door) : Bool :=
  (x.rplTail + 1) % rplRingSize d x != x.rplHead % rplRingSize d x

/-- May the door's front end take a packet now? It is open, in no reset or recovery, and has a packet and space for a
reply in its ring or, on door 2, in its queue of 256 (R62, R63, R65, R69, R73, R81, R203; DEDUCED for door 2, entry
24). -/
def mayFetch (s : State) (d : Nat) : Bool :=
  let x := door s d
  doorOpen s d && !x.resetPend && s.fault.mode != 1 && (d != 3 || sentinelRuns s) &&
    (if d = 2 then !x.spiQueue.isEmpty && decide (x.replies.length < 256)
     else (d == 3 || (x.ringEnable && x.linkUp))
       && x.cmdHead % cmdRingSize d x != x.cmdTail % cmdRingSize d x && replyRoom d x)

/-- The packet a front end takes: door 2's from its queue, door 3's from the ring in the sentinel address space, the
others as read from host memory. -/
def fetchBytes (s : State) (d : Nat) (hostBytes : Bytes) : Bytes :=
  if d = 2 then (door s 2).spiQueue.headD []
  else if d = 3 then mread s (0x70000000 + 64 * ((door s 3).cmdHead % 64)) 64
  else fitBytes 64 hostBytes

/-- The packet leaves the ring or queue. -/
def consumePkt (d : Nat) (s : State) : State :=
  modDoor d (fun x =>
    if d = 2 then { x with spiQueue := x.spiQueue.drop 1 }
    else { x with cmdHead := (x.cmdHead + 1) % cmdRingSize d x }) s

/-- The first packet of each door in a list: a front end checks at most one packet in a cycle, whatever becomes of it
(R51). -/
def onePerDoor (ps : List (DoorId × Bytes)) : List (DoorId × Bytes) :=
  [(0 : DoorId), 1, 2, 3].filterMap fun d => ps.find? fun q => q.1 == d

/-- One front end of a cycle: fetch a packet where it may, and check it. -/
def frontEnd (acc : State × List (Nat × Bytes)) (q : DoorId × Bytes) : State × List (Nat × Bytes) :=
  let (s, reqs) := acc
  let d := q.1.val
  if mayFetch s d then
    let p := fetchBytes s d q.2
    let (s1, wants) := checkPkt d p (consumePkt d s)
    if wants then (s1, reqs ++ [(d, p)]) else (s1, reqs)
  else acc

/-- COMMAND_PACKET: the packets that front ends take and check in one FCLK cycle (R51, R69, R72). -/
def execCommandPacket (ps : List (DoorId × Bytes)) (s : State) : Host.Outcome State Fault Refusal :=
  .next (live s fun s =>
    let (s1, reqs) := (onePerDoor ps).foldl frontEnd (s, [])
    grantPool reqs s1)

/-! Dispatch (R77). -/

/-- The next command a door would dispatch: its oldest waiting one. -/
def headWaiting (x : Door) : Option Cmd := x.cmds.find? fun c => c.stage == .waiting

/-- A fenced command waits for the final replies of every earlier command of its door (R77). -/
def fenceBlocked (x : Door) (c : Cmd) : Bool :=
  pktFence c.pkt && (x.cmds.takeWhile fun e => e.tag != c.tag || e.stage != .waiting).any fun e => e.stage != .replied

/-- A door has a command the Interpreter can dispatch now. -/
def dispatchReady (s : State) (d : Nat) : Bool :=
  match headWaiting (door s d) with
  | some c => !fenceBlocked (door s d) c
  | none => false

/-- The round robin reaches door `d`: no door before it in turn is ready (R77). -/
def rrReaches (s : State) (d : Nat) : Bool :=
  ((rotation s.pool.rr).takeWhile fun e => e != d).all fun e => !dispatchReady s e || (e == 3 && !sentinelRuns s)

/-- In the fault state a dispatched command completes with 0x51 (R212): all but NOP, GET_STATUS and IDENTIFY, and IDENTIFY
after KEYE_CHECK; door 3, while the sentinel runs, is served for families 0x00 and 0x40, and not at all after
BIST_FAILED. -/
def stateRefuses (s : State) (d : Nat) (c : Cmd) : Bool :=
  s.fault.mode == 2 &&
    (if c.opcode ≤ 2 then c.opcode == 1 && s.faults.last % 256 == 0x17
     else !(d == 3 && !s.faults.bist && (c.opcode / 16 == 0 || c.opcode / 16 == 4)))

/-- Dispatch a command of a door by tag and opcode, of the kind `p` tells: where it is the door's next, no fence holds it
and the round robin reaches the door, it starts and `f` is its effect; where its fence holds it, it is deferred (R70,
R77). -/
def dispatchIf (d tag op : Nat) (p : Cmd → Bool) (f : Cmd → State → State) (s : State) : State :=
  match headWaiting (door s d) with
  | none => s
  | some c =>
    if c.tag ≠ tag ∨ c.opcode ≠ op ∨ p c = false then s
    else if d = 3 ∧ sentinelRuns s = false then s
    else if fenceBlocked (door s d) c then deferCmd d tag stDelayedFence s
    else if !rrReaches s d then s
    else
      let s1 := modCmd d tag (fun x => { x with stage := .running }) s
      let s2 := { s1 with pool := { s1.pool with rr := (d + 1) % 4 } }
      if stateRefuses s2 d c then finishSt d tag stFaultState (s2.faults.last % 256) s2 else f c s2

/-- Dispatch a command of a door by tag and opcode. -/
def dispatch (d tag op : Nat) (f : Cmd → State → State) (s : State) : State := dispatchIf d tag op (fun _ => true) f s

/-! Input data and pointer rules (R57). -/

/-- Where door 3's data may lie: DTCM, sentinel SRAM or Panel RAM. -/
def inDoor3Region (a n : Nat) : Bool :=
  (inRange a 0x20000000 0x2001FFFF && decide (a + n ≤ 0x20020000))
    || (inRange a 0x30000000 0x300FFFFF && decide (a + n ≤ 0x30100000))
    || (inRange a 0x60000000 0x601FFFFF && decide (a + n ≤ 0x60200000))

/-- An address and length obey the pointer rules of a door; door 3's addresses lie in its regions whatever the length
(R57). -/
def pointerOk (d a n : Nat) : Bool :=
  a % 4 == 0 && (if d = 2 then a == 0 else if d = 3 then inDoor3Region a n else true)

/-- Both addresses of a descriptor obey the pointer rules. -/
def pointersOk (d : Nat) (p : Bytes) : Bool :=
  !pktPtr p || (pointerOk d (pktInAddr p) (pktInLen p) && pointerOk d (pktOutAddr p) (pktOutLen p))

/-- A command's input data: what the host's memory returned on doors 0–1 (none where the read failed), the collected
continuation data on door 2, the sentinel's memory on door 3. -/
def cmdInput (s : State) (d : Nat) (c : Cmd) (hostIn : Option Bytes) : Option Bytes :=
  if d = 2 then some c.input
  else if d = 3 then some (mread s (pktInAddr c.pkt) (pktInLen c.pkt))
  else match hostIn with
    | some bs => if bs.length = pktInLen c.pkt then some bs else if pktInLen c.pkt = 0 then some [] else none
    | none => if pktInLen c.pkt = 0 then some [] else none

/-! Delivery of replies (R62, R63, R71, R78). -/

/-- What a delivered reply leaves: its command ends and its entry returns to the pool. -/
def delivered (d : Nat) (r : Reply) (s : State) : State :=
  let s1 := if r.endsCmd then
      modDoor d (fun x => { x with cmds := match x.cmds.findIdx? fun c => c.tag == r.tag && c.stage == .replied with
        | some i => x.cmds.eraseIdx i
        | none => x.cmds }) s
    else s
  poolReturn d r.pool s1

/-- The oldest formed reply of a ring door is written into its reply ring where there is room (R62, R63, R68). -/
def deliverReply (d : Nat) (s : State) : State :=
  let x := door s d
  match x.replies with
  | [] => s
  | r :: rest =>
    if d = 2 || !(d == 3 || (x.ringEnable && x.linkUp)) || x.resetPend || !replyRoom d x || (d == 3 && !sentinelRuns s) then s
    else
      let i := x.rplTail % rplRingSize d x
      let bs := replyBytes r x.phase
      let s1 := if d = 3 then mwrite (0x70001000 + 32 * i) bs s else emit (.hostWrite d (x.rringBase + 32 * i) bs) s
      let i' := (i + 1) % rplRingSize d x
      let s2 := modDoor d (fun x => { x with replies := rest, rplTail := i', phase := if i' = 0 then !x.phase else x.phase }) s1
      let s3 := delivered d r s2
      if d = 3 then raise (doorSource 3 5) s3
      else if r.quiet then s3 else doorInterrupt d 0 s3

/-- REPLY_DELIVER (R71). -/
def execReplyDeliver (d : DoorId) (s : State) : Host.Outcome State Fault Refusal :=
  .next (live s (deliverReply d.val))

/-! Ring registers and doorbells (R61–R63, R79). -/

/-- CMD_TAIL and RPL_HEAD doorbells: the index is stored and IDLE clears. -/
def cmdTailWrite (d : Nat) (v : Word) (s : State) : State :=
  modDoor d (fun x => { x with cmdTail := wfld v 0 12, idle := false }) s

def rplHeadWrite (d : Nat) (v : Word) (s : State) : State :=
  modDoor d (fun x => { x with rplHead := wfld v 0 12, idle := false }) s

/-- A write of 1 to IDLE_HINT marks the door idle (R79): the next interrupt goes out at once, so IRQ2_N is asserted where a
cause of it holds (R80). MSI-X vectors that a running period already holds stay held until it ends (DESIGN CHOICE, entry
85). -/
def idleHint (d : Nat) (s : State) : State :=
  let s1 := raise (doorSource d 7) (modDoor d (fun x => { x with idle := true }) s)
  if d = 2 then irq2Settle s1 else s1

def idleHintWrite (d : Nat) (v : Word) (s : State) : State := if wbit v 0 then idleHint d s else s

/-- ENABLE changes from 0 to 1: the indices are zeroed and the phase is 1 (R63). -/
def ringEnable (d : Nat) (s : State) : State :=
  if d ≥ 2 then s
  else modDoor d (fun x => if x.ringEnable then x else
    { x with ringEnable := true, cmdHead := 0, cmdTail := 0, rplHead := 0, rplTail := 0, phase := true }) s

/-- ENABLE changes from 1 to 0: fetching and reply writing stop (R63). -/
def ringDisable (d : Nat) (s : State) : State :=
  if d ≥ 2 then s else modDoor d (fun x => { x with ringEnable := false }) s

/-- CMD_TAIL (R62). -/
def execCmdTail (d : DoorId) (v : Word) (s : State) : Host.Outcome State Fault Refusal :=
  .next (live s fun s => if d = 2 then s else cmdTailWrite d.val v s)

/-- RPL_HEAD (R62). -/
def execRplHead (d : DoorId) (v : Word) (s : State) : Host.Outcome State Fault Refusal :=
  .next (live s fun s => if d = 2 then s else rplHeadWrite d.val v s)

/-- RING_ENABLE (R63). -/
def execRingEnable (d : DoorId) (s : State) : Host.Outcome State Fault Refusal := .next (live s (ringEnable d.val))

/-- RING_DISABLE (R63). -/
def execRingDisable (d : DoorId) (s : State) : Host.Outcome State Fault Refusal := .next (live s (ringDisable d.val))

/-- IDLE_HINT (R79). -/
def execIdleHint (d : DoorId) (v : Word) (s : State) : Host.Outcome State Fault Refusal :=
  .next (live s fun s => if d = 2 then s else idleHintWrite d.val v s)

/-- A moderation period ends, with the length it was started with: each held vector is sent once, or IRQ2_N is asserted (R79). -/
def moderationExpiry (d : Nat) (s : State) : State :=
  let x := door s d
  if !x.modRunning || decide (nowP s < x.modEnd) then s
  else
    let s1 := setDoor d { x with modRunning := false, held := [] } s
    if d = 2 then irq2Settle s1 else x.held.foldl (fun y v => sendMsix d v y) s1

/-- MODERATION_EXPIRY (R79). -/
def execModerationExpiry (d : DoorId) (s : State) : Host.Outcome State Fault Refusal :=
  .next (live s (moderationExpiry d.val))

/-! Door resets (R64, R81). -/

/-- A door reset starts: packets not yet accepted are discarded, the replies of accepted commands will be dropped, the
ring state, NOTICE, IDLE, EXPECT_SEQ, session, door 2 queue and window return to reset (R81). The EVC empties the door's
stack and pending bits (R312), the telemetry subscription ends (R254), moderation is off (R246). -/
def doorResetCore (d : Nat) (s : State) : State :=
  let x := door s d
  let gone := x.cmds.filter fun c => match c.stage with | .replied => true | .collecting _ => true | _ => false
  let s1 := gone.foldl (fun y c => poolReturn d c.pool y) s
  let s2 := (x.replies.filter fun r => r.unsol).foldl (fun y r => poolReturn d r.pool y) s1
  let kept := (x.cmds.filter fun c => match c.stage with | .replied => false | .collecting _ => false | _ => true).map
    fun c => { c with dropped := true }
  let s3 := modDoor d (fun x => { x with
    cmds := kept, replies := [], ringEnable := false, cmdHead := 0, cmdTail := 0, rplHead := 0, rplTail := 0,
    phase := true, notice := 0, idle := false, expectSeq := 0, session := false, spiQueue := [], overrun := false,
    window := none, windowRead := false, modPeriod := 0, modRunning := false, held := [], telPeriod := 0, telItems := 0 }) s2
  if d = 3 then s3 else irq2Settle (evcClearTarget (d + 1) s3)

/-- A door reset of door 0, 1 or 2 starts (R81). Packets are discarded and the ring state returns to reset once, at the
start; packets written to door 2's queue and rings enabled while RESET_PEND is 1 are kept, and served after it (DESIGN
CHOICE, entry 88). -/
def startDoorReset (d : Nat) (s : State) : State :=
  if d = 3 then s
  else raise (doorSource d 4) (modDoor d (fun x => { x with resetPend := true }) (doorResetCore d s))

/-- A write of DOOR_RESET: 0xC1EA starts a door reset; absent on door 3 (R61, R81). -/
def doorResetWrite (d : Nat) (v : Word) (s : State) : State :=
  if wfld v 0 16 = 0xC1EA then startDoorReset d s else s

/-- DOOR_RESET (R81). -/
def execDoorReset (d : DoorId) (key : Word) (s : State) : Host.Outcome State Fault Refusal :=
  .next (live s fun s => if d = 2 then s else doorResetWrite d.val key s)

/-- DOOR_RESET_DONE (R81). -/
def execDoorResetDone (d : DoorId) (s : State) : Host.Outcome State Fault Refusal :=
  .next (live s fun s =>
    if (door s d.val).resetPend then setNotice d.val 5 (modDoor d.val (fun x => { x with resetPend := false }) s) else s)

/-! The configuration space of doors 0 and 1 (Table 4-2). -/

/-- Configuration-space words that identify a PCIe door and give its BAR: vendor and device, revision and class, subsystem,
and BAR0's size and kind, each at the offset the PCI header gives it (Table 4-2; offsets PRESUMED, entry 89). The table of
commands has no access to this space. -/
def pcieConfig (o : Nat) : Nat :=
  match o with
  | 0x00 => 0x1F5D + 0x9640 * 2 ^ 16
  | 0x08 => 0xB0 + 0x108000 * 2 ^ 8
  | 0x2C => 0x1F5D + 0x9640 * 2 ^ 16
  | _ => 0

/-- What else a PCIe door presents (Table 4-2). -/
structure PcieFeatures where
  megatransfers : List Nat
  widths : List Nat
  functions : Nat
  barKiB : Nat
  barBits : Nat
  prefetchable : Bool
  msixVectors : Nat
  aer : Bool
  aspmL1 : Bool
  maxPayload : Nat
  maxReadRequest : Nat
  deriving DecidableEq, Repr

/-- Table 4-2, the same for each of the two doors. -/
def pcieFeatures : PcieFeatures :=
  { megatransfers := [2500, 5000, 8000, 16000], widths := [1, 2, 4], functions := 1, barKiB := 16, barBits := 64,
    prefetchable := false, msixVectors := 32, aer := true, aspmL1 := true, maxPayload := 256, maxReadRequest := 512 }

/-- PCIE_LINK_UP (R52). -/
def execPcieLinkUp (d : DoorId) (s : State) : Host.Outcome State Fault Refusal :=
  .next (live s fun s =>
    if d.val < 2 ∧ (door s d.val).linkUp = false then
      raise (doorSource d.val 3) (modDoor d.val (fun x => { x with linkUp := true, perst := false }) s)
    else s)

/-- The link of a PCIe door goes down. -/
def linkFalls (d : Nat) (s : State) : State :=
  if (door s d).linkUp then raise (doorSource d 3) (modDoor d (fun x => { x with linkUp := false }) s) else s

/-- PCIE_LINK_DOWN: each cause of R64 is a door reset; a failed ring access is reported through AER. -/
def execPcieLinkDown (d : DoorId) (why : LinkDownCause) (s : State) : Host.Outcome State Fault Refusal :=
  .next (live s fun s =>
    if d.val ≥ 2 then s
    else match why with
      | .linkDown => startDoorReset d.val (linkFalls d.val s)
      | .hotReset => startDoorReset d.val (linkFalls d.val s)
      | .ringAccess => startDoorReset d.val (emit (.aer d.val) s)
      | .functionReset => startDoorReset d.val s
      | .d3hot => startDoorReset d.val s)

/-- PCIE_PERST: a low holds the PHY in reset, and the door undergoes a door reset for loss of its link (R418). -/
def execPciePerst (d : DoorId) (s : State) : Host.Outcome State Fault Refusal :=
  .next (live s fun s =>
    if d.val ≥ 2 then s
    else startDoorReset d.val (modDoor d.val (fun x => { x with perst := true }) (linkFalls d.val s)))

/-! Door 2 over SPI (R53, R65–R67, R81). -/

/-- WRITE_CMD in either I/O: 64 bytes enter the queue, or are discarded with OVERRUN where it is full; IDLE clears. -/
def spiWriteCmd (code : Nat) (data : Bytes) (s : State) : State :=
  let s0 := spiDone code s
  if data.length < 64 then s0
  else
    let s1 := modDoor 2 (fun x => { x with idle := false }) s0
    if (door s1 2).spiQueue.length < 8 then modDoor 2 (fun x => { x with spiQueue := x.spiQueue ++ [data.take 64] }) s1
    else raise (doorSource 2 3) (modDoor 2 (fun x => { x with overrun := true }) s1)

/-- WRITE_CMD (R65). -/
def execWriteCmd (data : Bytes) (s : State) : Host.Outcome State Fault Refusal := .next (live s (spiWriteCmd 0x02 data))

/-- WRITE_CMD_Q (R65). -/
def execWriteCmdQ (data : Bytes) (s : State) : Host.Outcome State Fault Refusal := .next (live s (spiWriteCmd 0x32 data))

/-- The door 2 status word. -/
def spiStatus (s : State) : Nat :=
  let x := door s 2
  (8 - x.spiQueue.length) + min 256 x.replies.length * 2 ^ 4 + b2n (doorOpen s 2) * 2 ^ 13 + b2n x.session * 2 ^ 14
    + b2n x.overrun * 2 ^ 15 + b2n x.window.isSome * 2 ^ 16 + b2n x.irq2 * 2 ^ 17

/-- READ_STATUS: a complete one clears OVERRUN. -/
def execReadStatus (bytes : Nat) (s : State) : Host.Outcome State Fault Refusal :=
  .next (live s fun s =>
    let s1 := spiDone 0x05 (emit (.spiData ((leBytes 4 (spiStatus s)).take bytes)) s)
    if bytes < 4 then s1 else modDoor 2 (fun x => { x with overrun := false }) s1)

/-- A complete READ_REPLY: the window is released where its reply had been read, the head reply is consumed, and its data
or the next head's data goes into the free window (R65, R66). -/
def spiConsume (s : State) : State :=
  let x := door s 2
  let x1 := if x.windowRead then { x with window := none, windowRead := false } else x
  match x1.replies with
  | [] => setDoor 2 (windowLoad x1) s
  | r :: rest =>
    let x2 := { windowLoad x1 with replies := rest }
    let x3 := if r.data.isSome then { x2 with windowRead := true } else x2
    irq2Settle (delivered 2 r (setDoor 2 (windowLoad x3) s))

/-- READ_REPLY in either I/O (R65). -/
def spiReadReply (code bytes : Nat) (s : State) : State :=
  let x := door s 2
  let bs := match x.replies with | [] => List.replicate 32 0#8 | r :: _ => replyBytes r false
  let s1 := spiDone code (emit (.spiData (bs.take bytes)) s)
  if bytes < 32 then s1 else modDoor 2 (fun x => { x with idle := false }) (spiConsume s1)

/-- READ_REPLY (R65). -/
def execReadReply (bytes : Nat) (s : State) : Host.Outcome State Fault Refusal := .next (live s (spiReadReply 0x0B bytes))

/-- READ_REPLY_Q (R65). -/
def execReadReplyQ (bytes : Nat) (s : State) : Host.Outcome State Fault Refusal := .next (live s (spiReadReply 0x6B bytes))

/-- READ_DATA in either I/O: bytes of the window from an offset; bytes beyond the count read 0 (R66). -/
def spiReadData (code offset bytes : Nat) (s : State) : State :=
  let w := (door s 2).window.getD []
  spiDone code (emit (.spiData (fitBytes bytes (slice w offset bytes))) s)

/-- READ_DATA (R66). -/
def execReadData (offset bytes : Nat) (s : State) : Host.Outcome State Fault Refusal :=
  .next (live s (spiReadData 0x0C offset bytes))

/-- READ_DATA_Q (R66). -/
def execReadDataQ (offset bytes : Nat) (s : State) : Host.Outcome State Fault Refusal :=
  .next (live s (spiReadData 0x6C offset bytes))

/-- READ_NOTICE: a complete one clears NOTICE. -/
def execReadNotice (bytes : Nat) (s : State) : Host.Outcome State Fault Refusal :=
  .next (live s fun s =>
    let s1 := spiDone 0x06 (emit (.spiData ((leBytes 4 (door s 2).notice).take bytes)) s)
    if bytes < 4 then s1 else irq2Settle (modDoor 2 (fun x => { x with notice := 0 }) s1))

/-- WRITE_NOTICE_MASK. -/
def execWriteNoticeMask (data : Bytes) (s : State) : Host.Outcome State Fault Refusal :=
  .next (live s fun s =>
    let s1 := spiDone 0x07 s
    if data.length < 4 then s1 else irq2Settle (modDoor 2 (fun x => { x with noticeMask := leAt data 0 4 % 128 }) s1))

/-- Door 2 IDLE_HINT (R79). -/
def execSpiIdleHint (s : State) : Host.Outcome State Fault Refusal := .next (live s fun s => idleHint 2 (spiDone 0xB9 s))

/-- RESET_ENABLE arms a following DOOR_RESET (R81). -/
def execResetEnable (s : State) : Host.Outcome State Fault Refusal := .next (live s (spiDone 0x66))

/-- Door 2 DOOR_RESET: acts only where the instruction before it was 0x66 (R81). -/
def execSpiDoorReset (s : State) : Host.Outcome State Fault Refusal :=
  .next (live s fun s => if (door s 2).lastSpi = 0x66 then spiDone 0x99 (startDoorReset 2 s) else spiDone 0x99 s)

/-! Door registers: BAR0 of doors 0 and 1, and the DOOR3 block (Table 4-7). -/

/-- The value a door register reads as. -/
def doorPeek (d o : Nat) (s : State) : Word :=
  let x := door s d
  let three := d == 3
  match o with
  | 0x0000 => w32 (d + 0x9640 * 2 ^ 16)
  | 0x0004 => w32 (b2n (doorOpen s d) + 2 * b2n (doorSession s d) + 4 * b2n x.resetPend
      + 8 * b2n (s.fault.mode == 1) + s.fault.gen * 2 ^ 16)
  | 0x0008 => w32 x.expectSeq
  | 0x000C => w32 (outstanding x + x.floorUsed * 2 ^ 8 + s.pool.sharedFree * 2 ^ 16)
  | 0x0010 => w32 (if three then 0x70000000 else x.cringBase)
  | 0x0014 => w32 (if three then 0 else x.cringBase / 2 ^ 32)
  | 0x0018 => w32 (if three then 6 else x.cringLog2)
  | 0x0020 => w32 (if three then 0x70001000 else x.rringBase)
  | 0x0024 => w32 (if three then 0 else x.rringBase / 2 ^ 32)
  | 0x0028 => w32 (if three then 7 else x.rringLog2)
  | 0x0030 => w32 (b2n (three || x.ringEnable))
  | 0x0034 => w32 x.cmdTail
  | 0x0038 => w32 x.cmdHead
  | 0x003C => w32 x.rplHead
  | 0x0040 => w32 x.rplTail
  | 0x004C => w32 x.notice
  | 0x0050 => w32 x.noticeMask
  | 0x0054 => w32 (x.modPeriod + b2n x.idle * 2 ^ 16)
  | 0x0060 => w32 (if three then 0x3FF else claimVector s (d + 1))
  | 0x1800 => w32 (if three then 0 else x.pba)
  | _ =>
    if !three && inRange o 0x1000 0x11FF then
      w32 (tget (if (o - 0x1000) % 16 = 12 then 1 else 0) x.msixTable (o - 0x1000))
    else 0#32

/-- The side effect of a read of a door register: EVC_CLAIM claims (R310). -/
def doorReadEffect (d o : Nat) (s : State) : State := if o = 0x0060 ∧ d < 2 then claim (d + 1) s else s

/-- A write of an MSI-X table word; unmasking a vector whose pending bit is set sends it, as moderation permits (R79). -/
def msixWrite (d o : Nat) (v : Word) (s : State) : State :=
  let dflt := if o % 16 = 12 then 1 else 0
  let s1 := modDoor d (fun x => { x with msixTable := tset dflt x.msixTable o (v.toNat) }) s
  let n := o / 16
  if o % 16 = 12 ∧ wbit v 0 = false ∧ bitAt (door s1 d).pba n = true then doorInterrupt d n s1 else s1

/-- Bits of NOTICE that stay after a write that clears `v`. -/
def noticeAfter (n v : Nat) : Nat := n - (n &&& v)

/-- NOTICE_MASK takes a new value: on doors 0 and 1 a bit that is set and becomes unmasked raises vector 1 (R78, Table
4-13). -/
def noticeMaskWrite (d m : Nat) (s : State) : State :=
  let x := door s d
  let s1 := setDoor d { x with noticeMask := m } s
  if d < 2 ∧ noticeAfter (x.notice &&& m) x.noticeMask ≠ 0 then doorInterrupt d 1 s1 else s1

/-- A write of a door register (Table 4-7, R61, R63). -/
def doorWrite (d o : Nat) (v : Word) (s : State) : State :=
  let three := d == 3
  let ringFree := !three && !(door s d).ringEnable
  match o with
  | 0x0010 => if ringFree then modDoor d (fun x => { x with cringBase := x.cringBase / 2 ^ 32 * 2 ^ 32 + wfld v 12 20 * 2 ^ 12 }) s else s
  | 0x0014 => if ringFree then modDoor d (fun x => { x with cringBase := x.cringBase % 2 ^ 32 + v.toNat * 2 ^ 32 }) s else s
  | 0x0018 => if ringFree && inRange (wfld v 0 4) 4 12 then modDoor d (fun x => { x with cringLog2 := wfld v 0 4 }) s else s
  | 0x0020 => if ringFree then modDoor d (fun x => { x with rringBase := x.rringBase / 2 ^ 32 * 2 ^ 32 + wfld v 12 20 * 2 ^ 12 }) s else s
  | 0x0024 => if ringFree then modDoor d (fun x => { x with rringBase := x.rringBase % 2 ^ 32 + v.toNat * 2 ^ 32 }) s else s
  | 0x0028 => if ringFree && inRange (wfld v 0 4) 4 12 then modDoor d (fun x => { x with rringLog2 := wfld v 0 4 }) s else s
  | 0x0030 => if wbit v 0 then ringEnable d s else ringDisable d s
  | 0x0034 => cmdTailWrite d v s
  | 0x003C => rplHeadWrite d v s
  | 0x0044 => idleHintWrite d v s
  | 0x0048 => doorResetWrite d v s
  | 0x004C => modDoor d (fun x => { x with notice := noticeAfter x.notice v.toNat }) s
  | 0x0050 => noticeMaskWrite d (wfld v 0 7) s
  | 0x0064 => if three then s else complete (d + 1) (wfld v 0 10) s
  | _ => if !three && inRange o 0x1000 0x11FF && o % 4 == 0 then msixWrite d (o - 0x1000) v s else s

end Sys2Proof.Machine
end

