-- ==== Sys2Proof/Machine/PaperMachine.lean ====
section
/-! DEFINITION. The paper machine: Headbox, Wire, Couch, Press, Dryer, egress scheduler and Reel, and the Press lanes
(R102, R109, R112, R118–R138, R144–R148). -/

namespace Sys2Proof.Machine

/-! Headbox (R102, R109, R119, R120). -/

/-- EtherType of a frame, tag control of its outer VLAN tag, and the offset of the EtherType (R120). -/
def parseTags (b : Bytes) : Nat × Option Nat × Nat :=
  let t0 := beAt b 12 2
  if t0 = 0x8100 ∨ t0 = 0x88A8 then
    if beAt b 16 2 = 0x8100 then (beAt b 20 2, some (beAt b 14 2), 20) else (beAt b 16 2, some (beAt b 14 2), 16)
  else (t0, none, 12)

/-- The MAC counter a received frame is discarded under, or none (R102). -/
def macVerdict (f : Sheet) : Option Nat :=
  let n := f.bytes.length
  if f.coding then some 5
  else if n < 64 then some 3
  else if f.maxFrame < n then some 4
  else if crc32 (f.bytes.take (n - 4)) ≠ leAt f.bytes (n - 4) 4 then some 2
  else none

/-- The port receives frames: its PCS holds lock (R109). -/
def portReceives (p : Port) : Bool := p.state == 3 || p.state == 4 || p.state == 5

/-- What a port's receiver takes: a port in near-end loopback receives what it sent, oldest first, and nothing from its
balls; a frame that was sent with an error comes back with a coding error (R105). A frame that spans an uncorrectable FEC
codeword holds a coding error (R102, R116). -/
def received (s : State) (x : RxFrame) : Option (RxFrame × State) :=
  let q := x.port.val
  let b := liveBank s
  let f : RxFrame := { x with coding := x.coding || (portFec b q != 0 && x.fecUncorrected != 0) }
  if portLoop b q then
    let p := port s q
    match p.looped with
    | [] => none
    | (bytes, ok) :: r => some ({ f with bytes := bytes, coding := f.coding || !ok }, setPort q { p with looped := r } s)
  else some (f, s)

/-- One frame's first byte at the Headbox: refused and counted, or admitted with bank, timestamp and slot. A frame refused
on entry to DIM counts in DIM_DISCARD; on the return to RUN it counts as one of a port that does not carry (R30, R109, R111,
R119, R198). -/
def admitReceived (s : State) (x : RxFrame) : State :=
  let q := x.port.val
  let p := port s q
  if s.fault.mode = 2 ∨ portReceives p = false then s
  else
    let b := liveBank s
    let s1 := if portFec b q = 0 then s
      else cntAdd (portCnt q 12) x.fecSymbols (cntAdd (portCnt q 11) x.fecUncorrected (cntAdd (portCnt q 10) x.fecCorrected s))
    if s1.clk.draining then cntAdd (portCnt q 15) 1 s1
    else if !p.carrying then cntAdd (portCnt q 14) 1 s1
    else if s1.clk.admitStopped then cntAdd (portCnt q 15) 1 s1
    else if s1.fault.mode = 1 then
      cntAdd (faultDiscardCnt q) 1 { s1 with faults := { s1.faults with discFrames := satInc 64 s1.faults.discFrames } }
    else match pickSlot s1 (q / 8) with
      | none => dropPort q 21 s1
      | some i =>
        let f : Sheet := { id := s1.mach.nextId, port := q, slot := some i, bank := s1.stock.active,
                           boundary := s1.epoch.boundaries, count := s1.epoch.count, time := nowP s1, bytes := x.bytes,
                           coding := x.coding, maxFrame := portMaxFrame b q,
                           stage := if q < 8 ∧ mapOf b q = none then .unmapped else .headbox }
        freeNext { s1 with mach := { s1.mach with frames := s1.mach.frames ++ [f], nextId := s1.mach.nextId + 1 } }

/-- One frame at a port's receiver. -/
def admitFrame (s : State) (x : RxFrame) : State :=
  match received s x with
  | none => s
  | some (f, s1) => admitReceived s1 f

/-- FRAME_ADMIT: frames whose first bytes cross into PCLK in one cycle, taken in ascending port order (R119). -/
def execFrameAdmit (fs : List RxFrame) (s : State) : Host.Outcome State Fault Refusal :=
  .next (live s fun s =>
    let inPort := fun (q : Nat) => fs.filter fun x => x.port.val == q
    ((List.range 16).map inPort).flatten.foldl admitFrame s)

/-- The end of a received frame: a frame the MAC finds bad is discarded whole and counted once; a good one on a wet port
without MAP is discarded as unmapped and is not one that is passed on (R102, R112, R116, R119). -/
def frameEnd (q : Nat) (s : State) : State :=
  match s.mach.frames.find? fun f => f.port == q && !f.ended with
  | none => s
  | some f =>
    match macVerdict f with
    | some i => cntAdd (portCnt q i) 1 (discardFrm f s)
    | none =>
      let s1 := if beAt f.bytes 12 2 = 0x8808 then cntAdd (portCnt q 6) 1 s else s
      if f.stage = .unmapped then cntAdd (portCnt q 7) 1 (discardFrm f s1)
      else
        modFrm f.id (fun x => { x with ended := true }) (cntAdd (portCnt q 1) f.bytes.length (cntAdd (portCnt q 0) 1 s1))

/-- MAC_FRAME_END (R102). -/
def execMacFrameEnd (q : PortId) (s : State) : Host.Outcome State Fault Refusal :=
  .next (live s (frameEnd q.val))

/-! Wire (R10, R121–R125, R145, R146). -/

/-- What Wire decides about a frame. -/
inductive WireV where
  /-- Discarded in a counter of its ingress port. -/
  | drop (i : Nat)
  /-- Discarded in a counter of a channel. -/
  | dropC (c i : Nat)
  /-- Discarded under R109. -/
  | down (egress : Nat)
  /-- To Calender receive. -/
  | cell
  | channel (c egress cls g : Nat)
  | bypass (egress cls g : Nat)
  deriving DecidableEq, Repr

/-- Granules of a stored length (R124). -/
def granulesOf (n : Nat) : Nat := (n + 255) / 256

/-- A POLICY rule matches a frame (R123). -/
def ruleMatches (v : Bytes) (f : Sheet) : Bool :=
  let (et, tci, _) := parseTags f.bytes
  let m := vb v 10
  let tag := vle v 14 2
  let n := vb v 22
  vb v 8 == f.port / 8 && bitAt (vb v 9) (f.port % 8)
    && (!bitAt m 0 || vle v 12 2 == et)
    && (!bitAt m 1 || (match tci with | some t => fld t 0 12 == fld tag 0 12 | none => false))
    && (!bitAt m 2 || (match tci with | some t => fld t 13 3 == fld tag 12 3 | none => false))
    && (!bitAt m 3 || beAt f.bytes 0 6 / 2 ^ (48 - n) == beAt v 8 6 / 2 ^ (48 - n))
    && (!bitAt m 4 || tci.isNone)

/-- The live rule of the lowest index that matches a frame (R123). -/
def policyHit (b : Bank) (f : Sheet) : Option Bytes :=
  ((bankKind b kPolicy).find? fun e => ruleMatches e.2 f).map (·.2)

/-- The egress port of a frame carries; a Calender port that does not is in HOLD and counts as carrying (R124). PROT is that
of the frame's own bank (R91). -/
def egressCarries (s : State) (f : Sheet) (e : Nat) : Bool :=
  (port s e).carrying || frmCal s { f with egress := e }

/-- LIMIT of a class of a dry port; 0 for none (R133). -/
def classLimit (s : State) (e k : Nat) : Nat :=
  if e < 8 then 0 else vle (bankVal (liveBank s) kClasses (e - 8)) (10 + 2 * k) 2

/-- The Felt quota a frame of channel `c` is checked against (R125). -/
def quotaOf (s : State) (f : Sheet) (c : Nat) : Nat :=
  match bindOf (liveBank s) c, bindOf (bankOf s f.bank) c with
  | some b, _ => b.quota
  | none, some b => b.quota
  | none, none => 0

/-- The class limit check of an encrypt-direction frame (R124, check 3). -/
def overLimit (s : State) (f : Sheet) (e k g : Nat) : Bool :=
  frmDir f == 0 && classLimit s e k != 0 && decide (classLimit s e k < classCharge s e k + g)

/-- Checks of R124 for a channel's frame. -/
def wireChannel (s : State) (f : Sheet) (c e k n : Nat) : WireV :=
  let g := granulesOf n
  if !egressCarries s f e then .down e
  else if quotaOf s f c < chanCharge s c + g then .dropC c 2
  else if overLimit s f e k g then .dropC c 3
  else .channel c e k g

/-- Checks of R124 for a bypassed frame. -/
def wireBypass (s : State) (f : Sheet) (e k : Nat) : WireV :=
  let g := granulesOf f.bytes.length
  if !egressCarries s f e then .down e
  else if overLimit s f e k g then .drop 20
  else if 256 < bypassCharge s e + g then .drop 20
  else .bypass e k g

/-- The SecTAG of a MACsec frame: TCI/AN byte, SL, PN, SCI for matching and the offset of the secure data (R145). -/
structure SecTag where
  tci : Nat
  sl : Nat
  pn : Nat
  sci : Bytes
  data : Nat
  deriving DecidableEq, Repr

/-- Read the SecTAG that lies directly after the source address (Table 8-1). -/
def readSecTag (b : Bytes) : SecTag :=
  let t := byteAt b 14
  if bitAt t 5 then ⟨t, byteAt b 15, beAt b 16 4, slice b 20 8, 28⟩
  else ⟨t, byteAt b 15, beAt b 16 4, slice b 6 6 ++ [0#8, 1#8], 20⟩

/-- SecTAG fields and length are valid (R146, step 1). -/
def secTagOk (b : Bytes) : Bool :=
  let t := readSecTag b
  let n := b.length - t.data - 20
  !bitAt t.tci 7 && !bitAt t.tci 4 && !(bitAt t.tci 6 && bitAt t.tci 5) && bitAt t.tci 3 && bitAt t.tci 2
    && (if n < 48 then t.sl == n else t.sl == 0) && decide (t.data + 1 + 20 ≤ b.length)

/-- The decrypt channel of a MACsec frame received on a dry port (R121, R145). -/
def sciLookup (b : Bank) (d : Nat) (sci : Bytes) : Option (Nat × Bind) :=
  (boundChannels b).find? fun e => e.2.dir == 1 && e.2.dry == d && e.2.wet != 0xFF && e.2.sci == sci

/-- The policy map's decision about a frame (R10, R123). -/
def wirePolicy (s : State) (f : Sheet) : WireV :=
  let b := bankOf s f.bank
  match policyHit b f with
  | none => .drop 17
  | some v =>
    if vb v 11 = 0 then .drop 16
    else if vb v 11 = 2 then
      let c := vle v 24 2
      match bindOf b c with
      | some x => if x.dir = 0 ∧ x.wet = f.port then wireChannel s f c (8 + x.dry) x.cls (f.bytes.length + 32) else .drop 16
      | none => .drop 16
    else if f.port < 8 then
      match mapOf b f.port with
      | some (d, _) => if isCal b d then .drop 16 else wireBypass s f (8 + d) (vb v 23)
      | none => .drop 16
    else if portExists (liveBank s) (vb v 26) then wireBypass s f (vb v 26) (vb v 23)
    else .drop 16

/-- Wire's decision about a frame (R121, R123, R124, R146). -/
def wireVerdict (s : State) (f : Sheet) : WireV :=
  let b := bankOf s f.bank
  let et := beAt f.bytes 12 2
  if f.port < 8 then wirePolicy s f
  else if et = 0x88E5 ∧ isCal b (f.port - 8) = false then
    if secTagOk f.bytes then
      match sciLookup b (f.port - 8) (readSecTag f.bytes).sci with
      | some (c, x) => wireChannel s f c x.wet x.cls f.bytes.length
      | none => .drop 22
    else .drop 22
  else if et = 0x88B5 ∧ isCal b (f.port - 8) = true then .cell
  else wirePolicy s f

/-- Wire takes the oldest frame of a direction; a frame it would discard is discarded once its reception has ended
(R119). -/
def wireCheck (dir : Nat) (s : State) : State :=
  match s.mach.frames.find? fun f => f.stage == .headbox && frmDir f == dir with
  | none => s
  | some f =>
    let wait := fun (x : State) => if f.ended then x else s
    match wireVerdict s f with
    | .drop i => wait (discardPort f i s)
    | .dropC c i => wait (dropChan c i (discardFrm f s))
    | .down e => wait (discardDown false { f with egress := e } s)
    | .cell => modFrm f.id (fun x => { x with stage := .cell }) s
    | .channel c e k g =>
      modFrm f.id (fun x => { x with stage := .couch, chan := some c, egress := e, cls := k, granules := g }) s
    | .bypass e k g =>
      modFrm f.id (fun x => { x with stage := .couch, bypass := true, egress := e, cls := k, granules := g }) s

/-- WIRE_CHECK (R121–R125). -/
def execWireCheck (dir : Fin 2) (s : State) : Host.Outcome State Fault Refusal := .next (live s (wireCheck dir.val))

/-! Couch (R126–R129, R144, R147, R148). -/

/-- XOR of two strings of one length. -/
def xorBytes (a b : Bytes) : Bytes := List.zipWith (· ^^^ ·) a b

/-- The 96-bit IV (R148). -/
def macsecIv (suite : Nat) (sci salt : Bytes) (ssci pn : Nat) : Bytes :=
  if suite = 0 then sci ++ beBytes 4 pn else xorBytes (fitBytes 12 salt) (beBytes 4 ssci ++ beBytes 8 pn)

/-- Bytes of secure data left in clear (R147). -/
def clearBytes (offset30 : Bool) (n : Nat) : Nat := if offset30 then min 30 n else 0

/-- A protected frame without its FCS (R144, R147). -/
def macsecSeal (x : Bind) (k : KeySlot) (pn : Nat) (body : Bytes) : Bytes :=
  let addrs := body.take 12
  let data := body.drop 12
  let tci := b2n (x.sciOpt == 1) * 64 + b2n (x.sciOpt == 2) * 32 + 12 + k.an
  let sl := if data.length < 48 then data.length else 0
  let tag := beBytes 2 0x88E5 ++ [BitVec.ofNat 8 tci, BitVec.ofNat 8 sl] ++ beBytes 4 pn ++ (if x.sciOpt = 2 then x.sci else [])
  let c := clearBytes x.offset30 data.length
  let head := addrs ++ tag ++ data.take c
  let (ct, icv) := gcmSeal k.key (macsecIv x.suite x.sci k.salt k.ssci pn) head (data.drop c)
  head ++ fitBytes (data.length - c) ct ++ fitBytes 16 icv

/-- The plaintext of a protected frame without FCS; none where its ICV fails (R144, R147). -/
def macsecOpen (x : Bind) (k : KeySlot) (pn : Nat) (b : Bytes) : Option Bytes :=
  let t := readSecTag b
  let body := b.take (b.length - 4)
  let data := slice body t.data (body.length - t.data - 16)
  let c := clearBytes x.offset30 data.length
  match gcmOpen k.key (macsecIv x.suite t.sci k.salt k.ssci pn) (body.take (t.data + c)) (data.drop c)
      (body.drop (body.length - 16)) with
  | some p => some (body.take 12 ++ data.take c ++ fitBytes (data.length - c) p)
  | none => none

/-- The channel is at an idle point: no frame between the Couch and the Dryer's release (R129). -/
def chanIdle (s : State) (c : Nat) : Bool :=
  !(s.mach.frames.any fun f => f.chan == some c && (f.stage == .press || f.stage == .dryer))

/-- Lanes in service. -/
def lanesInService (s : State) : List Nat := (List.range 8).filter fun i => (lane s i).state == 0

/-- The lane a channel's frame is dealt to: of its binding, in service, fewer than 4 queued, fewest, lowest (R128). -/
def pickLane (s : State) (lanes : List Nat) : Option Nat :=
  (List.range 8).foldl (fun best i =>
    let n := (laneQueue s i).length
    if lanes.contains i && (lane s i).state == 0 && decide (n < 4) then
      match best with
      | none => some i
      | some j => if n < (laneQueue s j).length then some i else best
    else best) none

/-- At an idle point the channel's binding becomes the lanes in service (R129). -/
def rebind (c : Nat) (s : State) : State :=
  if chanIdle s c then modChan c (fun x => { x with lanes := lanesInService s }) s else s

/-- Number a frame in its channel's sequence, or in that of its ingress port where it is bypassed (R127). -/
def numberFrame (f : Sheet) (s : State) : State × Nat :=
  match f.chan with
  | some c => (modChan c (fun x => { x with seq := x.seq + 1 }) s, (chan s c).seq)
  | none =>
    let n := tget 0 s.mach.bypassSeq f.port
    ({ s with mach := { s.mach with bypassSeq := tset 0 s.mach.bypassSeq f.port (n + 1) } }, n)

/-- A frame passes the Couch with the fields `f` gives it. -/
def passCouch (f : Sheet) (s : State) : State :=
  let (s1, n) := numberFrame f s
  modFrm f.id (fun _ => { f with seq := n }) s1

/-- The bytes of a received frame before its FCS. -/
def bodyOf (f : Sheet) : Bytes := f.bytes.take (f.bytes.length - 4)

/-- Deal an encrypt frame of a MACsec port (R126, R128, R144). -/
def dealEncrypt (f : Sheet) (c : Nat) (x : Bind) (s : State) : State :=
  match encSlot (chan s c) f.boundary with
  | none => if f.ended then discardChan f 5 s else s
  | some w =>
    let s1 := rebind c s
    match pickLane s1 (chan s1 c).lanes with
    | none => s1
    | some i =>
      let k := slotOf (chan s1 c) w
      let f1 := { f with stage := .press, lane := i, pn := some k.pn, kid := k.kid, verified := true,
                         result := macsecSeal x k k.pn (bodyOf f) }
      assignPn c w (passCouch f1 s1)

/-- Deal a decrypt frame of a MACsec port: slot by AN, packet number, replay (R127, R145, R146, R148, R175). -/
def dealDecrypt (f : Sheet) (c : Nat) (x : Bind) (s : State) : State :=
  let t := readSecTag f.bytes
  match decSlot (chan s c) (t.tci % 4) with
  | none => if f.ended then discardChan f 5 s else s
  | some w =>
    let k := slotOf (chan s c) w
    let pn := if x.suite = 0 then t.pn else recoverPn t.pn (lowestPn k x.window)
    if pn = 0 then (if f.ended then discardPort f 22 s else s)
    else if x.replay && replayBad k x.window pn then (if f.ended then discardChan f 6 s else s)
    else
      let s1 := rebind c s
      match pickLane s1 (chan s1 c).lanes with
      | none => s1
      | some i =>
        let r := macsecOpen x k pn f.bytes
        passCouch { f with stage := .press, lane := i, pn := some pn, kid := k.kid, verified := r.isSome,
                           result := r.getD [] } s1

/-- Deal an encrypt frame of a Calender port: it is held while no lane of its channel's binding can take work, has no packet
number of its own, and enters the Press in the cells that carry it (R128, R154, R169). -/
def dealCells (f : Sheet) (c : Nat) (x : Bind) (s : State) : State :=
  if carrierReady s x.dry then
    let s1 := rebind c s
    match pickLane s1 (chan s1 c).lanes with
    | none => s1
    | some _ => passCouch { f with stage := .dryer, verified := true, result := bodyOf f } s1
  else if f.ended then discardChan f 5 s
  else s

/-- The Couch takes the oldest frame of a direction: bypassed frames do not enter the Press (R128, R169). -/
def couchDeal (dir : Nat) (s : State) : State :=
  match s.mach.frames.find? fun f => f.stage == .couch && frmDir f == dir with
  | none => s
  | some f =>
    match f.chan with
    | none => passCouch { f with stage := .dryer, verified := true, result := bodyOf f } s
    | some c =>
      match bindOf (bankOf s f.bank) c with
      | none => if f.ended then discardChan f 5 s else s
      | some x =>
        if dir = 1 then dealDecrypt f c x s
        else if isCal (bankOf s f.bank) x.dry then dealCells f c x s
        else dealEncrypt f c x s

/-- COUCH_DEAL (R126–R129). -/
def execCouchDeal (dir : Fin 2) (s : State) : Host.Outcome State Fault Refusal := .next (live s (couchDeal dir.val))

/-! Press (R128, R137). -/

/-- Corrected words count in FELT_CE. -/
def feltCe (r : FeltRead) (s : State) : State := cntAdd feltCeCnt r.corrected s

/-- A frame with an uncorrectable word is discarded whole (R135, R137). -/
def feltUe (f : Sheet) (s : State) : State :=
  raise 82 (cntAdd feltUeCnt 1 (dropPort f.egress 23 (discardFrm f s)))

/-- A lane finishes the frame at the head of its queue. -/
def pressDone (i : Nat) (r : FeltRead) (s : State) : State :=
  match (laneQueue s i).head? with
  | none => s
  | some f =>
    if r.uncorrectable then feltUe f (feltCe r s)
    else modFrm f.id (fun x => { x with stage := .dryer }) (feltCe r s)

/-- PRESS_DONE. -/
def execPressDone (lane : LaneId) (felt : FeltRead) (s : State) : Host.Outcome State Fault Refusal :=
  .next (live s (pressDone lane.val felt))

/-! Dryer (R127, R132). -/

/-- A frame enters the egress queue of its port and class; after HOLD_TIME frames that leave in cells on a port in HOLD are
discarded (R132, R164). -/
def enqueue (f : Sheet) (s : State) : State :=
  if frmCal s f && (cal s (f.egress - 8)).holdExpired then discardChan f 4 s
  else
    let s1 := removeFrm f.id s
    setFrames (s1.mach.frames ++ [{ f with stage := .queued, slot := none }]) s1

/-- Does a frame past the Couch, or held complete from cells, belong to this sequence? -/
def inSequence (q : DryerQueue) (f : Sheet) : Bool :=
  (f.stage == .press || f.stage == .dryer || f.stage == .held) &&
    match q with
    | .channel c => f.chan == some c.val
    | .bypass p => f.bypass && f.port == p.val

/-- The Dryer's verdict on the next frame of a sequence: DROP_ICV, DROP_REPLAY, or release (R127, R132). -/
def dryerRelease (q : DryerQueue) (s : State) : State :=
  match s.mach.frames.find? (inSequence q) with
  | none => s
  | some f =>
    if f.stage ≠ .dryer ∨ f.ended = false then s
    else match f.chan, f.pn with
      | some c, some pn =>
        if frmDir f = 0 then enqueue f s
        else if !f.verified then discardChan f 7 s
        else
          match bindOf (bankOf s f.bank) c with
          | none => enqueue f s
          | some x =>
            let ch := chan s c
            let k := slotOf ch (ch.nxt.kid == f.kid)
            if x.replay && k.kid == f.kid && replayBad k x.window pn then discardChan f 6 s
            else enqueue f (acceptPn c f.kid pn s)
      | _, _ => enqueue f s

/-- DRYER_RELEASE. -/
def execDryerRelease (q : DryerQueue) (s : State) : Host.Outcome State Fault Refusal := .next (live s (dryerRelease q))

/-! Egress of MACsec and wet ports (R109, R134, R135). -/

/-- A frame padded to the least Ethernet length, with its FCS. -/
def wireFrame (r : Bytes) : Bytes :=
  let b := if r.length < 60 then fitBytes 60 r else r
  b ++ leBytes 4 (crc32 b)

/-- Frames queued toward a port in a class that leave as frames, oldest first: those that leave in cells wait for their
slots (R91, R155). -/
def frameQueue (s : State) (e k : Nat) : List Sheet := (classQueue s e k).filter fun f => !frmCal s f

/-- Weight of a class of a port (R133, R134). -/
def classWeight (s : State) (e k : Nat) : Nat :=
  if e < 8 then 1
  else match bankVal (liveBank s) kClasses (e - 8) with | [] => 1 | v => vb v (7 + k)


/-- One visit of the scheduler after another until a class can send: the class visited and the credits then. `cost` is
what the head of a class takes, none where its queue is empty; `unit` is what a visit adds per weight. -/
def drr (unit : Nat) (weight : Nat → Nat) (cost : Nat → Option Nat) : Nat → Egress → Option (Nat × Egress)
  | 0, _ => none
  | fuel + 1, e =>
    let can := fun (x : Egress) => match cost x.cls with
      | some n => decide ((n : Int) ≤ x.credit.getD (x.cls - 1) 0)
      | none => false
    if can e then some (e.cls, e)
    else
      let k := e.cls % 3 + 1
      let cr := match cost k with
        | some _ => e.credit.getD (k - 1) 0 + ((weight k * unit : Nat) : Int)
        | none => 0
      drr unit weight cost fuel { cls := k, credit := setAt e.credit (k - 1) cr }

/-- Subtract what was sent from a class's credit; an emptied queue's credit returns to 0 (R134). -/
def drrSpend (e : Egress) (k n : Nat) (emptied : Bool) : Egress :=
  { e with credit := setAt e.credit (k - 1) (if emptied then 0 else e.credit.getD (k - 1) 0 - (n : Int)) }

/-- Line length of a queued frame: frame bytes and 20 (R134). -/
def lineLength (f : Sheet) : Nat := (wireFrame f.result).length + 20

/-- The port is free: no frame chosen or in transmission. -/
def egressFree (s : State) (e : Nat) : Bool :=
  !(s.mach.frames.any fun f => (f.stage == .chosen || f.stage == .sending) && f.egress == e)

/-- A free egress port picks its next frame by class credit (R134). On a port that an Apply has made Calender only the old
bank's frames are left to send so (R91). -/
def egressSelect (e : Nat) (s : State) : State :=
  if !egressFree s e then s
  else
    let cost := fun k => (frameQueue s e k).head?.map lineLength
    if (cost 1).isNone && (cost 2).isNone && (cost 3).isNone then s
    else match drr 1024 (classWeight s e) cost 64 (egressOf s e) with
      | none => s
      | some (k, g) =>
        match frameQueue s e k with
        | [] => s
        | f :: rest =>
          setEgress e (drrSpend g k (lineLength f) rest.isEmpty) (modFrm f.id (fun x => { x with stage := .chosen }) s)

/-- EGRESS_SELECT. -/
def execEgressSelect (q : PortId) (s : State) : Host.Outcome State Fault Refusal := .next (live s (egressSelect q.val))

/-- The Reel reads the chosen frame's whole body and starts its transmission, or discards it (R109, R135). -/
def reelStart (e : Nat) (r : FeltRead) (s : State) : State :=
  match s.mach.frames.find? fun f => f.stage == .chosen && f.egress == e with
  | none => s
  | some f =>
    if !(port s e).carrying then discardDown true f s
    else if r.uncorrectable then feltUe f (feltCe r s)
    else sendOut e (wireFrame f.result) true (lineChange e (modFrm f.id fun x => { x with stage := .sending }) (feltCe r s))

/-- REEL_START. -/
def execReelStart (q : PortId) (felt : FeltRead) (s : State) : Host.Outcome State Fault Refusal :=
  .next (live s (reelStart q.val felt))

/-- A frame has left the device: it counts at its egress port, and under its channel or as bypassed (Tables 6-6, 7-8,
7-9). -/
def countSent (f : Sheet) (n : Nat) (s : State) : State :=
  match f.chan with
  | some c => cntAdd (chanCnt c 1) n (cntAdd (chanCnt c 0) 1 s)
  | none => cntAdd (portCnt f.port 19) n (cntAdd (portCnt f.port 18) 1 s)

/-- A frame's last byte leaves: it is counted and its granules are released (R116, R124). A port that is to be disabled or
that no longer is UP then sends no more (R109, R110). -/
def frameTxEnd (e : Nat) (s : State) : State :=
  match s.mach.frames.find? fun f => f.stage == .sending && f.egress == e with
  | none => s
  | some f =>
    let n := (wireFrame f.result).length
    let s1 := cntAdd (portCnt e 9) n (cntAdd (portCnt e 8) 1 (lineChange e (removeFrm f.id) s))
    let s2 := countSent f n s1
    portClose e (if f.late then cntAdd (portCnt f.port 28) 1 s2 else s2)

/-- FRAME_TX_END. -/
def execFrameTxEnd (q : PortId) (s : State) : Host.Outcome State Fault Refusal := .next (live s (frameTxEnd q.val))

/-! Felt scrubbing (R137, R138). -/

/-- An event of the paper machine, which runs on PCLK: in DIM and NAP PCLK is gated and nothing of it happens (R28, Table
2-8). -/
def onPclk (f : State → State) (s : State) : State := if s.clk.pstate = .run then f s else s

/-- One granule is read and repaired; a pass is complete after the last of 65,536. A word the scrubber cannot correct counts
in FELT_UE and stays as it is: the stage that reads it next discards its frame (R137; DESIGN CHOICE, entry 68). -/
def feltScrub (r : FeltRead) (s : State) : State :=
  let n := s.mach.scrub + 1
  let s1 := feltCe r { s with mach := { s.mach with scrub := n % 65536 } }
  let s2 := if r.uncorrectable then cntAdd feltUeCnt 1 s1 else s1
  if n = 65536 then cntAdd scrubCnt 1 s2 else s2

/-- FELT_SCRUB. -/
def execFeltScrub (felt : FeltRead) (s : State) : Host.Outcome State Fault Refusal := .next (live s (onPclk (feltScrub felt)))

/-! Press lanes in and out of service (Table 7-3, R130, R131). -/

/-- Final replies of LANE_SERVICE commands: RES0 is the lane's state after. -/
def laneReply (i : Nat) (detail : Nat) (c : Nat × Nat) (s : State) : State :=
  finish c.1 c.2 (if detail = 0 then stDone else stDoneNote) detail (lane s i).state 0 0 none s

/-- The replies of several commands with one outcome. -/
def laneReplies (i detail : Nat) (cs : List (Nat × Nat)) (s : State) : State := cs.foldl (fun x c => laneReply i detail c x) s

/-- A lane starts its known-answer test, for RESTOREs or at release. -/
def laneTest (i : Nat) (who : List (Nat × Nat)) (s : State) : State :=
  setLane i { lane (laneTo i 3 s) i with restore := who } (laneTo i 3 s)

/-- A DRAINING lane is OUT: the REMOVEs complete, and the RESTOREs that waited go on together, with one test. -/
def laneOut (i : Nat) (s : State) : State :=
  let l := lane s i
  let s1 := laneReplies i 0 l.removes (laneTo i 2 (setLane i { l with removes := [], restoreNext := [] } s))
  if l.restoreNext.isEmpty then s1 else laneTest i l.restoreNext s1

/-- REMOVE by the lane's state (R130). -/
def laneRemove (i : Nat) (c : Nat × Nat) (s : State) : State :=
  let l := lane s i
  if l.state = 0 then
    if (lanesInService s).length ≤ 1 then finish c.1 c.2 stOverCapacity 0 l.state 0 0 none s
    else laneTo i 1 (setLane i { l with removes := l.removes ++ [c] } s)
  else if l.state = 1 then setLane i { l with removes := l.removes ++ [c] } s
  else if l.state = 3 ∨ l.state = 4 then
    laneReply i 0 c (laneReplies i 0x22 l.restore (laneTo i 2 (setLane i { l with restore := [] } s)))
  else laneReply i 0 c s

/-- RESTORE by the lane's state (R130). -/
def laneRestore (i : Nat) (c : Nat × Nat) (s : State) : State :=
  let l := lane s i
  if l.state = 2 ∨ l.state = 5 then laneTest i [c] s
  else if l.state = 1 then setLane i { l with restoreNext := l.restoreNext ++ [c] } s
  else laneReply i 0x21 c s

/-- LANE_SERVICE's own value checks, then its action. -/
def laneService (want : Nat) (tag : Nat) (f : Nat → State → State) (s : State) : State :=
  dispatchIf 3 tag 0x72 (fun c => (if pByte c.pkt 1 = 1 then 1 else 0) == want) (fun c s =>
    let p := c.pkt
    if 7 < pByte p 0 then finishR0 3 tag stValue (pOff p 0) s
    else if 1 < pByte p 1 then finishR0 3 tag stValue (pOff p 1) s
    else f (pByte p 0) s) s

/-- LANE_SERVICE_REMOVE (R130). -/
def execLaneServiceRemove (tag : Nat) (s : State) : Host.Outcome State Fault Refusal :=
  .next (live s (laneService 0 tag fun i => laneRemove i (3, tag)))

/-- LANE_SERVICE_RESTORE (R130). -/
def execLaneServiceRestore (tag : Nat) (s : State) : Host.Outcome State Fault Refusal :=
  .next (live s (laneService 1 tag fun i => laneRestore i (3, tag)))

/-- LANE_DRAINED. -/
def execLaneDrained (lane : LaneId) (s : State) : Host.Outcome State Fault Refusal :=
  .next (live s fun s =>
    if (Machine.lane s lane.val).state = 1 ∧ (laneQueue s lane.val).isEmpty = true then laneOut lane.val s else s)

/-- The known-answer test of a lane ends: a pass makes the lane READY, a failure FAILED (R130, R131). -/
def laneKat (i : Nat) (pass : Bool) (s : State) : State :=
  let l := lane s i
  if l.state ≠ 3 then s
  else if pass then laneTo i 4 s
  else laneReplies i 0x20 l.restore (laneTo i 5 (setLane i { l with restore := [] } s))

/-- LANE_KAT_DONE: the lanes test themselves on PCLK. -/
def execLaneKatDone (lane : LaneId) (pass : Bool) (s : State) : Host.Outcome State Fault Refusal :=
  .next (live s (onPclk (laneKat lane.val pass)))

/-- At a boundary every READY lane comes into service, and its RESTORE completes (R130, R131). -/
def lanesBoundary (s : State) : State :=
  (List.range 8).foldl (fun x i =>
    let l := lane x i
    if l.state = 4 then laneReplies i 0 l.restore (laneTo i 0 (setLane i { l with restore := [] } x)) else x) s

end Sys2Proof.Machine
end

