-- ==== Sys2Proof/Machine/Calender.lean ====
section
/-! DEFINITION. Calender ports: slots and cells sent, cells received, cell sync, HOLD and fixed latency (R149–R166,
R187, R188). -/

namespace Sys2Proof.Machine

/-! Sending (R149, R153–R159). -/

/-- A lane of the channel's binding can take one more work unit (R128, R154). -/
def laneReady (s : State) (c : Nat) : Bool := (pickLane (rebind c s) (chan (rebind c s) c).lanes).isSome

/-- Slots of an epoch of a dry port, ⌊2^K ÷ T⌋ (R149). -/
def slotsPerEpoch (s : State) (d : Nat) : Nat := let t := slotT (liveBank s) d; if t = 0 then 0 else 2 ^ s.epoch.k / t

/-- The frame whose first record has been sent and whose remaining records are not (R155, step 1). -/
def contFrame (s : State) (d : Nat) : Option Sheet :=
  s.mach.frames.find? fun f => f.stage == .queued && f.egress == 8 + d && decide (0 < f.sent)

/-- Frames queued toward a dry port in a class that leave in cells and have not begun. -/
def cellQueue (s : State) (d k : Nat) : List Sheet :=
  (classQueue s (8 + d) k).filter fun f => f.sent == 0 && frmCal s f

/-- Port identifier of the channel of a frame. -/
def frmPi (s : State) (f : Sheet) : Nat :=
  match f.chan.bind (bindOf (bankOf s f.bank)) with | some x => bindPi x | none => 0

/-- AGE of a frame whose FIRST record leaves in the cell of slot `k` (R161). -/
def ageOf (s : State) (d k : Nat) (f : Sheet) : Nat :=
  min 0xFFFFFF (s.epoch.base + k * slotT (liveBank s) d - f.time + Config.rxDelay f.port + Config.txDelay (8 + d))

/-- A record header (R156). -/
def recordHeader (first last : Bool) (age pi len : Nat) : Bytes :=
  [BitVec.ofNat 8 (b2n first * 128 + b2n last * 64)] ++ beBytes 3 age ++ beBytes 2 pi ++ beBytes 2 len

/-- One record of frame `f` into `room` bytes of a body: the record, and the state after; a finished frame has left the
device (R156). Key `kid` protects the records that are left of a frame begun now (R154). A frame that leaves in cells counts
in OCTETS with the 4 bytes of its FCS, which no record carries (DESIGN CHOICE, entry 70). -/
def putRecord (d k kid : Nat) (f : Sheet) (room : Nat) (s : State) : Bytes × State :=
  let left := f.result.length - f.sent
  let n := min left (min (room - 8) 444)
  let first := f.sent == 0
  let last := n == left
  let bytes := recordHeader first last (if first then ageOf s d k f else 0) (frmPi s f) n ++ slice f.result f.sent n
  let s1 := if last then countSent f (f.result.length + 4) (removeFrm f.id s)
    else modFrm f.id (fun x => { x with sent := x.sent + n, kid := if first then kid else x.kid }) s
  (bytes, s1)

/-- The next frame of classes 1–3 toward a Calender port, by class credit in cell units (R134, R155). -/
def nextCellFrame (d : Nat) (s : State) : Option (Sheet × State) :=
  let cost := fun k => (cellQueue s d k).head?.map fun f => f.result.length + 8
  if (cost 1).isNone && (cost 2).isNone && (cost 3).isNone then none
  else match drr 452 (classWeight s (8 + d)) cost 128 (egressOf s (8 + d)) with
    | none => none
    | some (k, g) =>
      match cellQueue s d k with
      | [] => none
      | f :: rest => some (f, setEgress (8 + d) (drrSpend g k (f.result.length + 8) rest.isEmpty) s)

/-- Fill a body with records of the frame begun, then of queued frames where `more` allows (R155, R156). Before a frame's
first record its whole body is read from the Felt, `felt` telling what the reads meet in turn: one with an uncorrectable
word is discarded before any of it leaves (R135, R137). -/
def fillBody (d k kid : Nat) (more : Bool) : Nat → Nat → List FeltRead → State → Bytes × State
  | 0, _, _, s => ([], s)
  | fuel + 1, room, felt, s =>
    if room < 9 then ([], s)
    else
      match contFrame s d with
      | some f =>
        let (r, s1) := putRecord d k kid f room s
        let (t, s2) := fillBody d k kid more fuel (room - r.length) felt s1
        (r ++ t, s2)
      | none =>
        match (if more then nextCellFrame d s else none) with
        | none => ([], s)
        | some (f, s1) =>
          match felt with
          | { corrected := n, uncorrectable := true } :: rest =>
            fillBody d k kid more fuel room rest (feltUe f (feltCe ⟨n, true⟩ s))
          | _ =>
            let s2 := match felt with | x :: _ => feltCe x s1 | [] => s1
            let (r, s3) := putRecord d k kid f room s2
            let (t, s4) := fillBody d k kid more fuel (room - r.length) (felt.drop 1) s3
            (r ++ t, s4)

/-- Bytes 0–23 of a cell (Table 8-4). -/
def cellHead (s : State) (d cmode pn : Nat) : Bytes :=
  let b := calBank s d
  let sa := match bindOf b (latTx b d) with | some x => x.sci.take 6 | none => []
  fitBytes 6 (latPeer b d) ++ fitBytes 6 sa ++ beBytes 2 0x88B5 ++ [1#8, BitVec.ofNat 8 cmode] ++ beBytes 8 pn

/-- Bytes 24–479 of a cell. -/
def cellPlain (ctype sub : Nat) (body : Bytes) : Bytes :=
  [BitVec.ofNat 8 ctype, BitVec.ofNat 8 sub, 0#8, 0#8] ++ fitBytes 452 body

/-- A cell leaves on the port. -/
def sendCell (d : Nat) (bytes : Bytes) (s : State) : State :=
  let b := bytes ++ leBytes 4 (crc32 bytes)
  sendOut (8 + d) b true
    (cntAdd (portCnt (8 + d) 24) 1 (cntAdd (portCnt (8 + d) 9) 500 (cntAdd (portCnt (8 + d) 8) 1 s)))

/-- A protected cell under a slot of the carrier: it consumes the slot's next PN (R154). -/
def sendProtected (d c : Nat) (which : Bool) (plain : Bytes) (s : State) : State :=
  let k := slotOf (chan s c) which
  let head := cellHead s d k.an k.pn
  let (ct, icv) := gcmSeal k.key (xorBytes (fitBytes 12 k.salt) (beBytes 4 k.ssci ++ beBytes 8 k.pn)) head plain
  sendCell d (head ++ fitBytes 456 ct ++ fitBytes 16 icv) (assignPn c which s)

/-- An open cell (R159). -/
def sendOpen (d : Nat) (plain : Bytes) (s : State) : State :=
  sendCell d (cellHead s d 0x80 0 ++ plain ++ List.replicate 16 0#8) s

/-- Body of a MARK cell sent in slot `k` (Table 8-5, R157). -/
def markBody (s : State) (d k : Nat) : Bytes :=
  let c := cal s d
  [BitVec.ofNat 8 (b2n c.rxSync + 2 * b2n c.hold), BitVec.ofNat 8 s.epoch.k, 0#8, 0#8]
    ++ beBytes 8 s.epoch.boundaries ++ beBytes 4 (k * slotT (liveBank s) d)

/-- Body of a MESSAGE cell. -/
def messageBody (m : Bytes) : Bytes := beBytes 2 m.length ++ m

/-- Take the oldest message queued for a port. -/
def popMessage (d : Nat) (s : State) : State := modCal d (fun c => { c with sendq := c.sendq.drop 1 }) s

/-- A slot while the carrier has no usable current key: an open cell, and frames toward the port are discarded as
DROP_NO_KEY (R159). -/
def openSlot (d ty : Nat) (s : State) : State :=
  let s1 := (s.mach.frames.filter fun f => f.stage == .queued && f.egress == 8 + d && frmCal s f).foldl (fun x f => discardChan f 5 x) s
  let s2 := modCal d (fun c => { c with openTx := true }) s1
  match ty, (cal s2 d).sendq with
  | 1, m :: _ => popMessage d (sendOpen d (cellPlain 2 2 (messageBody m)) s2)
  | _, _ => sendOpen d (cellPlain 0 0 []) s2

/-- A slot sent under a key of the carrier: MARK, the frame begun, a message, frames, or fill (R155). A cell is a work unit of
the Press: while no lane of the carrier's binding can take one, the slot sends Idle (R128, R154). A frame begun in the last
cell under an outgoing key goes on under the current one, which every later cell uses (R154; DESIGN CHOICE, entry 69). -/
def keyedSlot (d k ty c : Nat) (which : Bool) (felt : List FeltRead) (s0 : State) : State :=
  if !laneReady s0 c then rebind c s0
  else
    let s := modCal d (fun x => { x with openTx := false }) (rebind c s0)
    let kid := (chan s c).cur.kid
    if ty = 2 then sendProtected d c which (cellPlain 2 1 (markBody s d k)) s
    else
      match contFrame s d, (cal s d).sendq with
      | none, m :: _ => popMessage d (sendProtected d c which (cellPlain 2 2 (messageBody m)) s)
      | _, _ =>
        let (body, s1) := fillBody d k kid (!(cal s d).hold) (64 + felt.length) 452 felt s
        sendProtected d c which (cellPlain (if body.isEmpty then 0 else 1) 0 body) s1

/-- A Calender slot starts (R149, R150, R155, R159, R164, R165). While a frame of the bank before is on the line the slot
sends nothing: a frame begun is completed (R91, R135; entry 67). -/
def calSlot (d : Nat) (felt : List FeltRead) (s : State) : State :=
  let b := calBank s d
  let k := (cal s d).slots
  if calServes s d = false ∨ slotsPerEpoch s d ≤ k then s
  else
    let s1 := modCal d (fun c => { c with slots := c.slots + 1 }) s
    let ty := rasterType b d k
    if (port s1 (8 + d)).state ≠ 5 ∨ s1.fault.mode ≠ 0 ∨ ty = 0 ∨ egressFree s1 (8 + d) = false then s1
    else
      let c := latTx b d
      let x := chan s1 c
      let lostKey := fun (f : Sheet) => f.kid != x.cur.kid && !(f.kid == x.nxt.kid && x.nxt.state == ksDraining && !x.nxt.spent)
      let s2 := match contFrame s1 d with
        | some f => if lostKey f then discardChan f 5 s1 else s1
        | none => s1
      calChange d (fun s =>
        match contFrame s d with
        | some f =>
          if f.kid = x.cur.kid ∧ x.cur.state ≠ ksCurrent then openSlot d ty s
          else keyedSlot d k ty c (f.kid != x.cur.kid) felt s
        | none => if x.cur.state = ksCurrent then keyedSlot d k ty c false felt s else openSlot d ty s) s2

/-- CALENDER_SLOT. -/
def execCalenderSlot (x : CalSlot) (s : State) : Host.Outcome State Fault Refusal :=
  .next (live s (calSlot x.d.val x.felt))

/-! Receiving (R156–R160, R163, R164, R188). -/

/-- Records of a DATA body: first, last, age, PI, data. -/
abbrev Rec := Bool × Bool × Nat × Nat × Bytes

/-- Split a DATA body into records; none where its structure is wrong (R156). A record that is not its frame's last ends
with the body. `pend` is the port identifier of the frame pending. -/
def splitRecords : Nat → Bytes → Option Nat → Option (List Rec)
  | 0, _, _ => none
  | fuel + 1, b, pend =>
    if b.length < 9 ∨ b.take 8 = List.replicate 8 0#8 then
      if b.all (· == 0#8) then some [] else none
    else
      let fl := byteAt b 0
      let first := bitAt fl 7
      let last := bitAt fl 6
      let age := beAt b 1 3
      let pi := beAt b 4 2
      let n := beAt b 6 2
      if fl % 64 ≠ 0 ∨ n = 0 ∨ 444 < n ∨ b.length < 8 + n then none
      else if last = false ∧ b.length ≠ 8 + n then none
      else if first = pend.isSome then none
      else if first = false ∧ (pend ≠ some pi ∨ age ≠ 0) then none
      else match splitRecords fuel (b.drop (8 + n)) (if last then none else some pi) with
        | some r => some ((first, last, age, pi, slice b 8 n) :: r)
        | none => none

/-- The decrypt channel that a PI names on a dry port and that has a wet port (R160). -/
def piLookup (b : Bank) (d pi : Nat) : Option (Nat × Bind) :=
  (boundChannels b).find? fun e => e.2.dir == 1 && e.2.dry == d && e.2.wet != 0xFF && bindPi e.2 == pi

/-- Discard the frame pending reassembly (R160). -/
def dropPending (d : Nat) (s : State) : State :=
  match (cal s d).pend with
  | none => s
  | some r =>
    let s1 := modCal d (fun c => { c with pend := none }) s
    match piLookup (liveBank s) d r.pi with
    | some (c, _) => dropChan c 7 s1
    | none => dropPort (8 + d) 22 s1

/-- The release moment of a frame received in cells less LATENCY: when its first cell reached the balls, less its AGE. -/
def baseOf (d : Nat) (r : Reasm) : Int := (r.time : Int) - (Config.rxDelay (8 + d) : Int) - (r.age : Int)

/-- LATENCY of a frame received in cells on dry port `d`: the live one, whatever bank the frame carries (R91); the frame's
own where an Apply has deleted it. -/
def latencyOf (s : State) (d bank : Nat) : Nat :=
  if latVal (liveBank s) d = [] then latLatency (bankOf s bank) d else latLatency (liveBank s) d

/-- The release moment of a held frame: LATENCY − AGE after its first cell reached the balls (R161). -/
def dueOf (s : State) (f : Sheet) : Int := f.due + (latencyOf s (f.port - 8) f.bank : Int)

/-- A held frame is the first of its channel: every frame of the channel before it has been released (R132, R161). -/
def firstHeld (s : State) (f : Sheet) : Bool :=
  match f.chan with
  | some c => ((s.mach.frames.find? fun g => g.chan == some c && (g.stage == .press || g.stage == .dryer || g.stage == .held)).map (·.id)) == some f.id
  | none => true

/-- Frames held on a dry port that are the first of their channels. -/
def heldFirst (s : State) (d : Nat) : List Sheet :=
  s.mach.frames.filter fun f => f.stage == .held && f.port == 8 + d && firstHeld s f

/-- A held frame's release moment has passed: the model's time goes on by 2 PCLK cycles at once (entry 2). -/
def momentPassed (s : State) (f : Sheet) : Bool := decide (dueOf s f + 1 < (nowP s : Int))

/-- Frames whose moment had passed before they were complete, or while an earlier one of their channel was held, are sent as
soon as they can be (R161). -/
def sendLate (d : Nat) : Nat → State → State
  | 0, s => s
  | fuel + 1, s =>
    match (heldFirst s d).find? fun f => f.late || momentPassed s f with
    | none => s
    | some f => sendLate d fuel (enqueue { f with late := true } s)

/-- A completed frame: matched by PI, charged to its channel's quota, and held until its release moment, or sent at once
where that has passed (R160, R161). It carries the bank under which the cell with its LAST record was admitted (DESIGN CHOICE,
entry 71). -/
def completeFrame (d bank : Nat) (r : Reasm) (s : State) : State :=
  match piLookup (bankOf s bank) d r.pi with
  | none => dropPort (8 + d) 22 s
  | some (c, x) =>
    let g := granulesOf (r.data.length + 4)
    let f : Sheet := { id := s.mach.nextId, port := 8 + d, bank := bank, boundary := s.epoch.boundaries,
                       count := s.epoch.count, time := r.time, ended := true, stage := .held, chan := some c, egress := x.wet,
                       cls := x.cls, granules := g, result := r.data, verified := true, due := baseOf d r, late := r.late }
    if quotaOf s f c < chanCharge s c + g then dropChan c 2 s
    else
      let s1 := { s with mach := { s.mach with frames := s.mach.frames ++ [f], nextId := s.mach.nextId + 1 } }
      sendLate d s1.mach.frames.length s1

/-- Take the records of a cell that passed, from the cell of key `kid` that arrived at `time`. -/
def takeRecords (d bank kid time : Nat) (rs : List Rec) (s : State) : State :=
  rs.foldl (fun x r =>
    let (first, last, age, pi, data) := r
    let cur : Option Reasm := if first then some { pi := pi, data := data, kid := kid, age := age, time := time }
      else (cal x d).pend.map fun p => { p with data := p.data ++ data }
    match cur with
    | none => x
    | some p =>
      if last then completeFrame d bank p (modCal d (fun c => { c with pend := none }) x)
      else modCal d (fun c => { c with pend := some p }) x) s

/-- A received message enters the port's queue, or is dropped where it is full; source 86 and an unsolicited reply to
the door that owns the port tell of it (R158, R188). -/
def messageArrives (d : Nat) (m : Bytes) (isOpen : Bool) (s : State) : State :=
  let s1 := modCal d (fun c =>
    if c.recvq.length < 16 then { c with recvq := c.recvq ++ [(m, isOpen)] } else { c with dropped := satInc 32 c.dropped }) s
  unsolicited ((port s1 (8 + d)).owner.getD 3) 0x31 0x43 d (cal s1 d).recvq.length 0 (raise 86 s1)

/-- Is a plaintext (bytes 24–479) well formed (R153–R156)? -/
def plainOk (p : Bytes) (pend : Option Nat) : Bool :=
  let ty := byteAt p 0
  let sub := byteAt p 1
  let body := p.drop 4
  let zeroFrom := fun n => (body.drop n).all (· == 0#8)
  byteAt p 2 == 0 && byteAt p 3 == 0 &&
    (if ty = 0 then sub == 0 && zeroFrom 0
     else if ty = 1 then sub == 0 && (splitRecords 64 body pend).isSome
     else if ty = 2 then
       if sub = 1 then byteAt body 0 < 4 && byteAt body 2 == 0 && byteAt body 3 == 0 && zeroFrom 16
       else if sub = 2 then let n := beAt body 0 2; decide (1 ≤ n) && decide (n ≤ 450) && zeroFrom (2 + n)
       else false
     else false)

/-- Eight consecutive failures lose cell sync, and the four cells that regain it count anew (R163). -/
def syncBad (d : Nat) (s : State) : State :=
  modCal d (fun c =>
    let n := c.bad + 1
    if c.rxSync && decide (8 ≤ n) then { c with bad := n, rxSync := false, good := 0 } else { c with bad := n }) s

/-- Four consecutive protected cells that pass steps 1 and 2 gain it. -/
def syncGood (d : Nat) (s : State) : State :=
  modCal d (fun c =>
    let n := c.good + 1
    if !c.rxSync && decide (4 ≤ n) then { c with good := n, bad := 0, rxSync := true, markSeen := false, okAt := nowP s }
    else { c with good := n, okAt := nowP s }) s

/-- A cell that fails R160. -/
def cellBad (d : Nat) (isOpen step3 : Bool) (s : State) : State :=
  let s1 := cntAdd (portCnt (8 + d) 26) 1 (syncBad d s)
  let s2 := if isOpen then s1 else dropPending d s1
  if isOpen || step3 then s2 else modCal d (fun c => { c with good := 0 }) s2

/-- The effect of the plaintext of a protected cell that passed, in sequence or not. -/
def cellContent (d bank kid time : Nat) (inSeq : Bool) (p : Bytes) (pend : Option Nat) (s : State) : State :=
  let ty := byteAt p 0
  let body := p.drop 4
  let carriesPend := ty == 1 && pend.isSome
  let other := match (cal s d).pend with | some r => r.kid != kid | none => false
  let s1 := if !inSeq || (carriesPend && other) then dropPending d s else s
  if ty = 1 then takeRecords d bank kid time ((splitRecords 64 body pend).getD []) s1
  else if ty = 2 ∧ byteAt p 1 = 1 then modCal d (fun c => { c with markSeen := true, peerSync := bitAt (byteAt body 0) 0 }) s1
  else if ty = 2 then messageArrives d (slice body 2 (beAt body 0 2)) false s1
  else s1

/-- A protected cell whose number is in order waits while no lane of its carrier's binding can take it (R128, R154, R160). -/
def cellWaits (d : Nat) (f : Sheet) (s : State) : Bool :=
  let c := latRx (bankOf s f.bank) d
  let pn := beAt f.bytes 16 8
  match decSlot (chan s c) (byteAt f.bytes 15 % 4) with
  | none => false
  | some w => let k := slotOf (chan s c) w; decide (k.startPn ≤ pn) && decide (k.h < pn) && !laneReady s c

/-- A protected cell (R160, R163, R164). -/
def protectedCell (d : Nat) (f : Sheet) (s : State) : State :=
  let b := f.bytes
  let c := latRx (bankOf s f.bank) d
  let cm := byteAt b 15
  match decSlot (chan s c) (cm % 4) with
  | none => cellBad d false false s
  | some w =>
    let k := slotOf (chan s c) w
    let pn := beAt b 16 8
    if pn < k.startPn ∨ pn ≤ k.h then cellBad d false false s
    else
      match gcmOpen k.key (xorBytes (fitBytes 12 k.salt) (beBytes 4 k.ssci ++ beBytes 8 pn)) (b.take 24)
          (slice b 24 456) (slice b 480 16) with
      | none => cellBad d false false s
      | some p0 =>
        let p := fitBytes 456 p0
        let pend := (cal s d).pend.map (·.pi)
        if fld cm 2 5 ≠ 0 ∨ plainOk p pend = false then cellBad d false true (syncGood d s)
        else
          let inSeq := pn == k.h + 1 || (k.h == 0 && pn == k.startPn)
          let s1 := acceptPn c k.kid pn (cntAdd (portCnt (8 + d) 25) 1 s)
          syncGood d (modCal d (fun x => { x with bad := 0 }) (cellContent d f.bank k.kid f.time inSeq p pend s1))

/-- An open cell: only a message is accepted (R159). -/
def openCell (d : Nat) (f : Sheet) (s : State) : State :=
  let b := f.bytes
  let n := beAt b 28 2
  let s1 := modCal d (fun x => { x with bad := 0 }) (cntAdd (portCnt (8 + d) 25) 1 s)
  if byteAt b 24 = 2 ∧ byteAt b 25 = 2 ∧ 1 ≤ n ∧ n ≤ 450 then
    messageArrives d (slice b 30 n) true (cntAdd (portCnt (8 + d) 27) 1 s1)
  else s1

/-- Calender receive takes the port's oldest cell frame whose reception has ended (R121, R160). -/
def cellReceive (d : Nat) (s : State) : State :=
  match s.mach.frames.find? fun f => f.stage == .cell && f.port == 8 + d && f.ended with
  | none => s
  | some f =>
    let isOpen := bitAt (byteAt f.bytes 15) 7
    let fits := f.bytes.length == 500 && byteAt f.bytes 14 == 1
    if fits && !isOpen && cellWaits d f s then rebind (latRx (bankOf s f.bank) d) s
    else
      calChange d (fun s =>
        if !fits then cellBad d isOpen false s
        else if isOpen then openCell d f s
        else protectedCell d f (rebind (latRx (bankOf s f.bank) d) s)) (removeFrm f.id s)

/-- CELL_RECEIVE. -/
def execCellReceive (d : Fin 8) (s : State) : Host.Outcome State Fault Refusal := .next (live s (cellReceive d.val))

/-- No protected cell has passed step 2 for SYNC_TIMEOUT, which counts in µs (R163). -/
def syncTimedOut (s : State) (d : Nat) : Bool := decide ((cal s d).okAt + latSync (liveBank s) d * 1250 ≤ nowP s)

/-- SYNC_TIMEOUT. -/
def execSyncTimeout (d : Fin 8) (s : State) : Host.Outcome State Fault Refusal :=
  .next (live s fun s => if syncTimedOut s d.val then calChange d.val (loseSync d.val) s else s)

/-- HOLD has lasted HOLD_TIME, which counts in units of 10 µs (R164). -/
def holdLong (s : State) (d : Nat) : Bool :=
  (cal s d).hold && decide ((cal s d).holdFrom + latHold (liveBank s) d * 12500 ≤ nowP s)

/-- HOLD has lasted HOLD_TIME: frames queued toward the port are discarded (R164). -/
def holdExpire (d : Nat) (s : State) : State :=
  if holdLong s d then
    let s1 := calChange d (modCal d (fun c => { c with holdExpired := true })) s
    (s1.mach.frames.filter fun f => f.stage == .queued && f.egress == 8 + d && f.sent == 0 && frmCal s f).foldl
      (fun x f => discardChan f 4 x) s1
  else s

/-- HOLD_EXPIRE. -/
def execHoldExpire (d : Fin 8) (s : State) : Host.Outcome State Fault Refusal := .next (live s (holdExpire d.val))

/-- The frame with the earliest release moment among those a dry port holds complete, each the first of its channel. -/
def nextHeld (s : State) (d : Nat) : Option Sheet :=
  (heldFirst s d).foldl (fun best f =>
    match best with
    | none => some f
    | some g => if dueOf s f < dueOf s g then some f else best) none

/-- The frame being reassembled becomes late where its release moment has come (R161). -/
def pendLate (d : Nat) (s : State) : State :=
  match (cal s d).pend with
  | none => s
  | some r =>
    if baseOf d r + (latencyOf s d s.stock.active : Int) ≤ (nowP s : Int) then
      modCal d (fun c => { c with pend := some { r with late := true } }) s
    else s

/-- A frame's release moment has come: a complete one is sent on, late where its egress port is busy, and with it those of
its channel that had to wait for it; one still being reassembled becomes late (R132, R161). -/
def calRelease (d : Nat) (s : State) : State :=
  match nextHeld s d with
  | none => pendLate d s
  | some f =>
    if dueOf s f ≤ (nowP s : Int) then
      sendLate d s.mach.frames.length (enqueue { f with late := f.late || momentPassed s f || !egressFree s f.egress } (pendLate d s))
    else pendLate d s

/-- CAL_RELEASE. -/
def execCalRelease (d : Fin 8) (s : State) : Host.Outcome State Fault Refusal := .next (live s (calRelease d.val))

end Sys2Proof.Machine
end

