-- ==== Sys2Proof/Machine/Keccak.lean ====
section
/-! DEFINITION. Keccak, SHA3 and SHAKE (FIPS 202), which ML-KEM-1024 and ML-DSA-87 use (R44, R181). PRESUMED: that standard's
text (entry 14). -/

namespace Sys2Proof.Machine

/-- The round constants. -/
def keccakRc : List Nat :=
  [0x0000000000000001, 0x0000000000008082, 0x800000000000808A, 0x8000000080008000,
   0x000000000000808B, 0x0000000080000001, 0x8000000080008081, 0x8000000000008009,
   0x000000000000008A, 0x0000000000000088, 0x0000000080008009, 0x000000008000000A,
   0x000000008000808B, 0x800000000000008B, 0x8000000000008089, 0x8000000000008003,
   0x8000000000008002, 0x8000000000000080, 0x000000000000800A, 0x800000008000000A,
   0x8000000080008081, 0x8000000000008080, 0x0000000080000001, 0x8000000080008008]

/-- The rotations of lane x + 5 y. -/
def keccakRho : List Nat := [0, 1, 62, 28, 27, 36, 44, 6, 55, 20, 3, 10, 43, 25, 39, 41, 45, 15, 21, 8, 18, 2, 61, 56, 14]

/-- A 64-bit rotation to the left. -/
def rol64 (x n : Nat) : Nat := x * 2 ^ n % 2 ^ 64 + x / 2 ^ (64 - n)

/-- One round of the permutation on 25 lanes. -/
def keccakRound (a : List Nat) (rc : Nat) : List Nat :=
  let c := (List.range 5).map fun x => a.getD x 0 ^^^ a.getD (x + 5) 0 ^^^ a.getD (x + 10) 0 ^^^ a.getD (x + 15) 0 ^^^ a.getD (x + 20) 0
  let d := (List.range 5).map fun x => c.getD ((x + 4) % 5) 0 ^^^ rol64 (c.getD ((x + 1) % 5) 0) 1
  let t := a.mapIdx fun i v => rol64 (v ^^^ d.getD (i % 5) 0) (keccakRho.getD i 0)
  let b := (List.range 25).map fun i => t.getD ((i % 5 + 3 * (i / 5)) % 5 + 5 * (i % 5)) 0
  b.mapIdx fun i v =>
    let y := i / 5 * 5
    let w := v ^^^ ((2 ^ 64 - 1 - b.getD (y + (i + 1 - y) % 5) 0) &&& b.getD (y + (i + 2 - y) % 5) 0)
    if i = 0 then w ^^^ rc else w

/-- Keccak-f[1600]. -/
def keccakF (a : List Nat) : List Nat := keccakRc.foldl keccakRound a

/-- The padded message's blocks of `rate` octets are absorbed. -/
def keccakAbsorb (rate : Nat) (p : Bytes) : List Nat :=
  (List.range (p.length / rate)).foldl (fun a i =>
    let block := slice p (rate * i) rate
    keccakF (a.mapIdx fun k v => if 8 * k < rate then v ^^^ leAt block (8 * k) 8 else v)) (List.replicate 25 0)

/-- `n` blocks are squeezed. -/
def keccakSqueeze (rate : Nat) : Nat → List Nat → Bytes
  | 0, _ => []
  | n + 1, a => ((a.flatMap (leBytes 8)).take rate) ++ keccakSqueeze rate n (keccakF a)

/-- The sponge: rate, domain octet, message, output length. -/
def sponge (rate dom : Nat) (m : Bytes) (n : Nat) : Bytes :=
  let q := rate - m.length % rate
  let pad := if q = 1 then [BitVec.ofNat 8 (dom + 0x80)] else [BitVec.ofNat 8 dom] ++ List.replicate (q - 2) 0#8 ++ [0x80#8]
  (keccakSqueeze rate ((n + rate - 1) / rate) (keccakAbsorb rate (m ++ pad))).take n

def sha3_256 (m : Bytes) : Bytes := sponge 136 0x06 m 32
def sha3_512 (m : Bytes) : Bytes := sponge 72 0x06 m 64
def shake128 (m : Bytes) (n : Nat) : Bytes := sponge 168 0x1F m n
def shake256 (m : Bytes) (n : Nat) : Bytes := sponge 136 0x1F m n

end Sys2Proof.Machine
end

