-- ==== Sys2Proof/Machine/P384.lean ====
section
/-! DEFINITION. The curve P-384, ECDH and ECDSA over it (SP 800-186, FIPS 186-5, SEC 1), which the manual names (R44, R48,
R176, R181). PRESUMED: those standards' text (entry 14). -/

namespace Sys2Proof.Machine

/-- The field's prime, the order of the group, and the curve's coefficient b; a is −3. -/
def p384P : Nat := 2 ^ 384 - 2 ^ 128 - 2 ^ 96 + 2 ^ 32 - 1
def p384N : Nat := 0xFFFFFFFFFFFFFFFFFFFFFFFFFFFFFFFFFFFFFFFFFFFFFFFFC7634D81F4372DDF581A0DB248B0A77AECEC196ACCC52973
def p384B : Nat := 0xB3312FA7E23EE7E4988E056BE3F82D19181D9C6EFE8141120314088F5013875AC656398D8A2ED19D2A85C8EDD3EC2AEF

/-- The generator. -/
def p384G : Nat × Nat :=
  (0xAA87CA22BE8B05378EB1C71EF320AD746E1D3B628BA79B9859F741E082542A385502F25DBF55296C3A545E3872760AB7,
   0x3617DE4A96262C6F5D9E98BF9292DC29F8F41DBD289A147CE9DA3113B5F0B8C00A60B1CE1D7E819D7A431D7C90EA0E5F)

/-- A power modulo `m`, the exponent below 2^384. -/
def powMod (m b e : Nat) : Nat :=
  (List.range 384).foldl (fun r i =>
    let s := r * r % m
    if bitAt e (383 - i) then s * b % m else s) 1

/-- The inverse modulo a prime. -/
def invMod (m a : Nat) : Nat := powMod m (a % m) (m - 2)

/-- A difference modulo `m`. -/
def subMod (m a b : Nat) : Nat := (a + m - b % m) % m

/-- A point in Jacobian coordinates; Z = 0 is the identity. -/
abbrev JPoint := Nat × Nat × Nat

/-- Twice a point. -/
def p384Double (q : JPoint) : JPoint :=
  let (x, y, z) := q
  if y = 0 ∨ z = 0 then (1, 1, 0)
  else
    let p := p384P
    let z2 := z * z % p
    let y2 := y * y % p
    let t := 4 * x * y2 % p
    let m := 3 * (x + z2) * subMod p x z2 % p
    let u := subMod p (m * m) (2 * t)
    (u, subMod p (m * subMod p t u) (8 * y2 * y2), 2 * y * z % p)

/-- The sum of two points. -/
def p384Add (q r : JPoint) : JPoint :=
  let (x1, y1, z1) := q
  let (x2, y2, z2) := r
  if z1 = 0 then r
  else if z2 = 0 then q
  else
    let p := p384P
    let a := z1 * z1 % p
    let b := z2 * z2 % p
    let u1 := x1 * b % p
    let u2 := x2 * a % p
    let s1 := y1 * b * z2 % p
    let s2 := y2 * a * z1 % p
    if u1 = u2 then (if s1 = s2 then p384Double q else (1, 1, 0))
    else
      let h := subMod p u2 u1
      let r' := subMod p s2 s1
      let h2 := h * h % p
      let h3 := h2 * h % p
      let v := u1 * h2 % p
      let x3 := subMod p (r' * r') (h3 + 2 * v)
      (x3, subMod p (r' * subMod p v x3) (s1 * h3), h * z1 * z2 % p)

/-- A multiple of a point, the factor below 2^384. -/
def p384Mul (k : Nat) (q : Nat × Nat) : JPoint :=
  (List.range 384).foldl (fun r i =>
    let d := p384Double r
    if bitAt k (383 - i) then p384Add d (q.1, q.2, 1) else d) (1, 1, 0)

/-- Affine coordinates; none of the identity. -/
def p384Affine (q : JPoint) : Option (Nat × Nat) :=
  let (x, y, z) := q
  if z = 0 then none
  else
    let i := invMod p384P z
    let i2 := i * i % p384P
    some (x * i2 % p384P, y * i2 * i % p384P)

/-- An uncompressed point: the octet 0x04, coordinates below the prime, on the curve (R181). The identity has no such
encoding. -/
def p384Point (b : Bytes) : Option (Nat × Nat) :=
  let x := beAt b 1 48
  let y := beAt b 49 48
  if b.length = 97 ∧ byteAt b 0 = 4 ∧ x < p384P ∧ y < p384P
      ∧ y * y % p384P = (x * x * x + (p384P - 3) * x + p384B) % p384P then some (x, y)
  else none

/-- A private scalar of octets that leave it open: 1 to n − 1. -/
def p384Scalar (seed : Bytes) : Bytes := beBytes 48 (beNat seed % (p384N - 1) + 1)

/-- The public point of a scalar, uncompressed. -/
@[irreducible] def p384Public (sc : Bytes) : Bytes :=
  match p384Affine (p384Mul (beNat sc) p384G) with
  | some (x, y) => [0x04#8] ++ beBytes 48 x ++ beBytes 48 y
  | none => List.replicate 97 0#8

/-- ECDH: the X coordinate of the scalar times the peer's point; none for a bad point. -/
@[irreducible] def p384Dh (sc pt : Bytes) : Option Bytes :=
  match p384Point pt with
  | some q => (p384Affine (p384Mul (beNat sc) q)).map fun r => beBytes 48 r.1
  | none => none

/-- ECDSA: scalar, digest and per-message secret, 1 to n − 1, give r‖s. -/
@[irreducible] def p384Sign (sc digest nonce : Bytes) : Bytes :=
  let k := beNat nonce
  let r := match p384Affine (p384Mul k p384G) with | some q => q.1 % p384N | none => 0
  let s := invMod p384N k * (beNat digest + r * beNat sc) % p384N
  beBytes 48 r ++ beBytes 48 s

/-- ECDSA: public point, signature r‖s and digest; none for a bad point. -/
@[irreducible] def p384Verify (pt sig digest : Bytes) : Option Bool :=
  match p384Point pt with
  | none => none
  | some q =>
    let r := beAt sig 0 48
    let s := beAt sig 48 48
    if r = 0 ∨ p384N ≤ r ∨ s = 0 ∨ p384N ≤ s then some false
    else
      let w := invMod p384N s
      let x := p384Affine (p384Add (p384Mul (beNat digest * w % p384N) p384G) (p384Mul (r * w % p384N) q))
      some (match x with | some a => a.1 % p384N == r | none => false)

end Sys2Proof.Machine
end

