-- ==== Sys2Proof/Machine/MlKem.lean ====
section
/-! DEFINITION. ML-KEM-1024 (FIPS 203), which the manual names (R181). PRESUMED: that standard's text (entry 14). Polynomials are
lists of 256 coefficients below q. -/

namespace Sys2Proof.Machine

def kemQ : Nat := 3329

/-- The `n` low bits of a number, turned round. -/
def bitRev : Nat → Nat → Nat
  | 0, _ => 0
  | n + 1, x => x % 2 * 2 ^ n + bitRev n (x / 2)

/-- A small power modulo `m`. -/
def powSmall (m b e : Nat) : Nat :=
  (List.range 24).foldl (fun r i => let s := r * r % m; if bitAt e (23 - i) then s * b % m else s) 1

/-- The number-theoretic transform: `levels` halvings, node `k` of the tree of roots; `root` gives the root of a node. -/
def nttTree (q : Nat) (root : Nat → Nat) : Nat → Nat → List Nat → List Nat
  | 0, _, a => a
  | n + 1, k, a =>
    let h := a.length / 2
    let lo := a.take h
    let hi := (a.drop h).map fun x => root k * x % q
    nttTree q root n (2 * k) (List.zipWith (fun x y => (x + y) % q) lo hi)
      ++ nttTree q root n (2 * k + 1) (List.zipWith (fun x y => (x + q - y) % q) lo hi)

/-- Its inverse. -/
def nttTreeInv (q : Nat) (root : Nat → Nat) : Nat → Nat → List Nat → List Nat
  | 0, _, a => a
  | n + 1, k, a =>
    let h := a.length / 2
    let lo := nttTreeInv q root n (2 * k) (a.take h)
    let hi := nttTreeInv q root n (2 * k + 1) (a.drop h)
    let half := (q + 1) / 2
    let z := powSmall q (2 * root k % q) (q - 2)
    List.zipWith (fun x y => (x + y) * half % q) lo hi ++ List.zipWith (fun x y => (x + q - y) * z % q) lo hi

def kemRoot (k : Nat) : Nat := powSmall kemQ 17 (bitRev 7 k)
def kemNtt (a : List Nat) : List Nat := nttTree kemQ kemRoot 7 1 a
def kemNttInv (a : List Nat) : List Nat := nttTreeInv kemQ kemRoot 7 1 a

/-- Sums and differences of polynomials. -/
def polyAdd (q : Nat) (a b : List Nat) : List Nat := List.zipWith (fun x y => (x + y) % q) a b
def polySub (q : Nat) (a b : List Nat) : List Nat := List.zipWith (fun x y => (x + q - y) % q) a b

/-- Pairs of a list. -/
def pairsOf : List Nat → List (Nat × Nat)
  | x :: y :: r => (x, y) :: pairsOf r
  | _ => []

/-- A product of two transforms: pair by pair, modulo X² less a root. -/
def kemMul (a b : List Nat) : List Nat :=
  ((List.zipWith Prod.mk (pairsOf a) (pairsOf b)).mapIdx fun i x =>
    let g := powSmall kemQ 17 (2 * bitRev 7 i + 1)
    [(x.1.1 * x.2.1 + x.1.2 * x.2.2 % kemQ * g) % kemQ, (x.1.1 * x.2.2 + x.1.2 * x.2.1) % kemQ]).flatten

/-- The scalar product of two vectors. -/
def polyDot (q : Nat) (mul : List Nat → List Nat → List Nat) (a b : List (List Nat)) : List Nat :=
  (List.zipWith mul a b).foldl (polyAdd q) (List.replicate 256 0)

/-! Encodings. -/

/-- Numbers of `d` bits each, packed from the lowest bit on. -/
def packBits (d : Nat) (l : List Nat) : Bytes := leBytes (d * l.length / 8) (l.foldr (fun x n => x + n * 2 ^ d) 0)

/-- `n` numbers of `d` bits each. -/
def unpackBits (d n : Nat) (b : Bytes) : List Nat :=
  let w := leNat b
  (List.range n).map fun i => fld w (d * i) d

/-- Compression to `d` bits, and back. -/
def kemCompress (d x : Nat) : Nat := (2 ^ (d + 1) * x + kemQ) / (2 * kemQ) % 2 ^ d
def kemDecompress (d y : Nat) : Nat := (2 * kemQ * y + 2 ^ d) / 2 ^ (d + 1)

/-! Sampling. -/

/-- Candidates of 12 bits, two from three octets. -/
def kemCandidates : Bytes → List Nat
  | a :: b :: c :: r => (a.toNat + 256 * (b.toNat % 16)) :: (b.toNat / 16 + 16 * c.toNat) :: kemCandidates r
  | _ => []

/-- A uniform polynomial of the transform's domain, from seed and indexes. Octets for 840 candidates are drawn, of which 256
below q are all but certain to be among. -/
def kemUniform (rho : Bytes) (i j : Nat) : List Nat :=
  ((kemCandidates (shake128 (rho ++ leBytes 1 j ++ leBytes 1 i) 1260)).filter (· < kemQ)).take 256

/-- A polynomial of the centred binomial distribution with η = 2. -/
def kemCbd (b : Bytes) : List Nat :=
  (unpackBits 4 256 b).map fun x => (x % 2 + x / 2 % 2 + kemQ - x / 4 % 2 - x / 8 % 2) % kemQ

/-- Polynomial `n` of the noise of a seed. -/
def kemNoise (seed : Bytes) (n : Nat) : List Nat := kemCbd (shake256 (seed ++ leBytes 1 n) 128)

/-- Row `i` of the matrix. -/
def kemRow (rho : Bytes) (i : Nat) : List (List Nat) := (List.range 4).map fun j => kemUniform rho i j

/-- Column `j` of the matrix. -/
def kemCol (rho : Bytes) (j : Nat) : List (List Nat) := (List.range 4).map fun i => kemUniform rho i j

/-! K-PKE and ML-KEM. -/

/-- The encryption key and the secret vector's encoding, from 32 octets. -/
def kpkeKeygen (d : Bytes) : Bytes × Bytes :=
  let g := sha3_512 (d ++ [4#8])
  let rho := g.take 32
  let sigma := g.drop 32
  let s := (List.range 4).map fun i => kemNtt (kemNoise sigma i)
  let e := (List.range 4).map fun i => kemNtt (kemNoise sigma (4 + i))
  let t := (List.range 4).map fun i => polyAdd kemQ (polyDot kemQ kemMul (kemRow rho i) s) (e.getD i [])
  (t.flatMap (packBits 12) ++ rho, s.flatMap (packBits 12))

/-- The vector of an encryption key or a secret. -/
def kemVector (b : Bytes) : List (List Nat) := (List.range 4).map fun i => (unpackBits 12 256 (slice b (384 * i) 384)).map (· % kemQ)

/-- Encryption of 32 octets with 32 octets of randomness. -/
def kpkeEncrypt (ek m r : Bytes) : Bytes :=
  let t := kemVector ek
  let rho := ek.drop 1536
  let y := (List.range 4).map fun i => kemNtt (kemNoise r i)
  let u := (List.range 4).map fun j => polyAdd kemQ (kemNttInv (polyDot kemQ kemMul (kemCol rho j) y)) (kemNoise r (4 + j))
  let mu := (unpackBits 1 256 m).map (kemDecompress 1)
  let v := polyAdd kemQ (polyAdd kemQ (kemNttInv (polyDot kemQ kemMul t y)) (kemNoise r 8)) mu
  u.flatMap (fun a => packBits 11 (a.map (kemCompress 11))) ++ packBits 5 (v.map (kemCompress 5))

/-- Decryption. -/
def kpkeDecrypt (dk c : Bytes) : Bytes :=
  let u := (List.range 4).map fun i => kemNtt ((unpackBits 11 256 (slice c (352 * i) 352)).map (kemDecompress 11))
  let v := (unpackBits 5 256 (c.drop 1408)).map (kemDecompress 5)
  packBits 1 ((polySub kemQ v (kemNttInv (polyDot kemQ kemMul (kemVector dk) u))).map (kemCompress 1))

/-- Key pair of 64 octets d‖z: encapsulation key and decapsulation key. -/
@[irreducible] def mlkemKeygen (seed : Bytes) : Bytes × Bytes :=
  let (ek, dk) := kpkeKeygen (seed.take 32)
  (ek, dk ++ ek ++ sha3_256 ek ++ seed.drop 32)

/-- Encapsulation: key and 32 octets of randomness give ciphertext and secret; none where the input checks of FIPS 203 fail: the
length, and every coefficient below q. -/
@[irreducible] def mlkemEncaps (ek m : Bytes) : Option (Bytes × Bytes) :=
  if ek.length = 1568 ∧ ((List.range 4).all fun i => (unpackBits 12 256 (slice ek (384 * i) 384)).all (· < kemQ)) = true then
    let g := sha3_512 (m ++ sha3_256 ek)
    some (kpkeEncrypt ek m (g.drop 32), g.take 32)
  else none

/-- Decapsulation, with implicit rejection. -/
@[irreducible] def mlkemDecaps (dk c : Bytes) : Bytes :=
  let ek := slice dk 1536 1568
  let m := kpkeDecrypt (dk.take 1536) c
  let g := sha3_512 (m ++ slice dk 3104 32)
  if kpkeEncrypt ek m (g.drop 32) = c then g.take 32 else shake256 (slice dk 3136 32 ++ c) 32

end Sys2Proof.Machine
end

