-- ==== Sys2Proof/Machine/MlDsa.lean ====
section
/-! DEFINITION. Verification of ML-DSA-87 signatures in pure mode (FIPS 204), which the manual names (R44, R181). PRESUMED: that
standard's text (entry 14). -/

namespace Sys2Proof.Machine

def dsaQ : Nat := 8380417

/-- The parameters γ1, γ2 and β = τ η of ML-DSA-87. -/
def dsaG1 : Nat := 2 ^ 19
def dsaG2 : Nat := (dsaQ - 1) / 32
def dsaBeta : Nat := 120

def dsaRoot (k : Nat) : Nat := powSmall dsaQ 1753 (bitRev 8 k)
def dsaNtt (a : List Nat) : List Nat := nttTree dsaQ dsaRoot 8 1 a
def dsaNttInv (a : List Nat) : List Nat := nttTreeInv dsaQ dsaRoot 8 1 a

/-- A product of two transforms. -/
def dsaMul (a b : List Nat) : List Nat := List.zipWith (fun x y => x * y % dsaQ) a b

/-- Candidates of 23 bits, one from three octets. -/
def dsaCandidates : Bytes → List Nat
  | a :: b :: c :: r => (a.toNat + 256 * b.toNat + 65536 * (c.toNat % 128)) :: dsaCandidates r
  | _ => []

/-- Entry (i, j) of the matrix. Octets for 336 candidates are drawn, of which 256 below q are all but certain to be among. -/
def dsaUniform (rho : Bytes) (i j : Nat) : List Nat :=
  ((dsaCandidates (shake128 (rho ++ leBytes 1 j ++ leBytes 1 i) 1008)).filter (· < dsaQ)).take 256

/-- The challenge's coefficients from step `i` on: 60 places are drawn; `signs` are the sign bits that are left. -/
def dsaPlaces : Nat → Nat → Nat → Bytes → List Nat → List Nat
  | 0, _, _, _, c => c
  | _ + 1, _, _, [], c => c
  | fuel + 1, i, signs, x :: r, c =>
    if 256 ≤ i then c
    else if i < x.toNat then dsaPlaces fuel i signs r c
    else
      let c1 := setAt c i (c.getD x.toNat 0)
      dsaPlaces fuel (i + 1) (signs / 2) r (setAt c1 x.toNat (if signs % 2 = 1 then dsaQ - 1 else 1))

/-- SampleInBall: 60 coefficients of ±1. Octets for 1,024 draws are taken, which are all but certain to be enough. -/
def dsaChallenge (seed : Bytes) : List Nat :=
  let h := shake256 seed 1032
  dsaPlaces 1024 196 (leAt h 0 8) (h.drop 8) (List.replicate 256 0)

/-- The hint's positions of one polynomial: rising; none where they are not. -/
def hintRow : List Nat → Option (List Nat)
  | x :: y :: r => if x < y then (hintRow (y :: r)).map (x :: ·) else none
  | l => some l

/-- The hint of 8 polynomials: positions up to each row's limit, the unused places 0. -/
def hintUnpack (b : Bytes) : Option (List (List Nat)) :=
  let ends := (List.range 8).map fun i => byteAt b (75 + i)
  let rows := ends.mapIdx fun i e =>
    let lo := if i = 0 then 0 else ends.getD (i - 1) 0
    if e < lo ∨ 75 < e then none else hintRow ((List.range (e - lo)).map fun k => byteAt b (lo + k))
  if rows.all Option.isSome && ((b.take 75).drop (ends.getD 7 0)).all (· == 0#8) then some (rows.map (·.getD [])) else none

/-- The high part of a number after its hint (UseHint). -/
def dsaUseHint (hint : Bool) (r : Nat) : Nat :=
  let a := 2 * dsaG2
  let low : Int := let m := r % a; if dsaG2 < m then (m : Int) - (a : Int) else (m : Int)
  let top := (r : Int) - low == (dsaQ : Int) - 1
  let high := if top then 0 else ((r : Int) - low).toNat / a
  let low' := if top then low - 1 else low
  if hint then (if 0 < low' then (high + 1) % 16 else (high + 15) % 16) else high

/-- The 20-bit encoding of a coefficient of z, as a number modulo q. -/
def dsaZ (x : Nat) : Nat := (dsaQ + dsaG1 - x) % dsaQ

/-- A coefficient's distance from 0. -/
def dsaNorm (x : Nat) : Nat := min x (dsaQ - x)

/-- Verification: public key, signature and message, with an empty context string. -/
@[irreducible] def mldsaVerify (pk sig msg : Bytes) : Bool :=
  let rho := pk.take 32
  let t1 := (List.range 8).map fun i => unpackBits 10 256 (slice pk (32 + 320 * i) 320)
  let seed := sig.take 64
  let z := (List.range 7).map fun i => (unpackBits 20 256 (slice sig (64 + 640 * i) 640)).map dsaZ
  match pk.length == 2592 && sig.length == 4627, hintUnpack (sig.drop 4544) with
  | true, some hint =>
    let mu := shake256 (shake256 pk 64 ++ [0#8, 0#8] ++ msg) 64
    let c := dsaNtt (dsaChallenge seed)
    let zt := z.map dsaNtt
    let w := (List.range 8).map fun i =>
      let az := polyDot dsaQ dsaMul ((List.range 7).map fun j => dsaUniform rho i j) zt
      let ct := dsaMul c (dsaNtt ((t1.getD i []).map fun x => x * 2 ^ 13 % dsaQ))
      (dsaNttInv (polySub dsaQ az ct)).mapIdx fun k r => dsaUseHint ((hint.getD i []).contains k) r
    z.all (fun p => p.all fun x => dsaNorm x < dsaG1 - dsaBeta) && shake256 (mu ++ w.flatMap (packBits 4)) 64 == seed
  | _, _ => false

end Sys2Proof.Machine
end

