-- ==== Sys2Proof/Machine/Sha2.lean ====
section
/-! DEFINITION. SHA-384 (FIPS 180-4), HMAC and HKDF with it (RFC 2104, RFC 5869), which the manual names (R44, R48, R176,
R181, R183). PRESUMED: those standards' text (entry 14). -/

namespace Sys2Proof.Machine

/-- The round constants: the fractions of the cube roots of the first 80 primes. -/
def sha2K : List Nat :=
  [0x428A2F98D728AE22, 0x7137449123EF65CD, 0xB5C0FBCFEC4D3B2F, 0xE9B5DBA58189DBBC,
   0x3956C25BF348B538, 0x59F111F1B605D019, 0x923F82A4AF194F9B, 0xAB1C5ED5DA6D8118,
   0xD807AA98A3030242, 0x12835B0145706FBE, 0x243185BE4EE4B28C, 0x550C7DC3D5FFB4E2,
   0x72BE5D74F27B896F, 0x80DEB1FE3B1696B1, 0x9BDC06A725C71235, 0xC19BF174CF692694,
   0xE49B69C19EF14AD2, 0xEFBE4786384F25E3, 0x0FC19DC68B8CD5B5, 0x240CA1CC77AC9C65]
    ++ [0x2DE92C6F592B0275, 0x4A7484AA6EA6E483, 0x5CB0A9DCBD41FBD4, 0x76F988DA831153B5,
   0x983E5152EE66DFAB, 0xA831C66D2DB43210, 0xB00327C898FB213F, 0xBF597FC7BEEF0EE4,
   0xC6E00BF33DA88FC2, 0xD5A79147930AA725, 0x06CA6351E003826F, 0x142929670A0E6E70,
   0x27B70A8546D22FFC, 0x2E1B21385C26C926, 0x4D2C6DFC5AC42AED, 0x53380D139D95B3DF,
   0x650A73548BAF63DE, 0x766A0ABB3C77B2A8, 0x81C2C92E47EDAEE6, 0x92722C851482353B]
    ++ [0xA2BFE8A14CF10364, 0xA81A664BBC423001, 0xC24B8B70D0F89791, 0xC76C51A30654BE30,
   0xD192E819D6EF5218, 0xD69906245565A910, 0xF40E35855771202A, 0x106AA07032BBD1B8,
   0x19A4C116B8D2D0C8, 0x1E376C085141AB53, 0x2748774CDF8EEB99, 0x34B0BCB5E19B48A8,
   0x391C0CB3C5C95A63, 0x4ED8AA4AE3418ACB, 0x5B9CCA4F7763E373, 0x682E6FF3D6B2B8A3,
   0x748F82EE5DEFB2FC, 0x78A5636F43172F60, 0x84C87814A1F0AB72, 0x8CC702081A6439EC]
    ++ [0x90BEFFFA23631E28, 0xA4506CEBDE82BDE9, 0xBEF9A3F7B2C67915, 0xC67178F2E372532B,
   0xCA273ECEEA26619C, 0xD186B8C721C0C207, 0xEADA7DD6CDE0EB1E, 0xF57D4F7FEE6ED178,
   0x06F067AA72176FBA, 0x0A637DC5A2C898A6, 0x113F9804BEF90DAE, 0x1B710B35131C471B,
   0x28DB77F523047D84, 0x32CAAB7B40C72493, 0x3C9EBE0A15C9BEBC, 0x431D67C49C100D4C,
   0x4CC5D4BECB3E42B6, 0x597F299CFC657E2A, 0x5FCB6FAB3AD6FAEC, 0x6C44198C4A475817]

/-- The initial value of SHA-384: the fractions of the square roots of the 9th to the 16th prime. -/
def sha384Init : List Nat :=
  [0xCBBB9D5DC1059ED8, 0x629A292A367CD507, 0x9159015A3070DD17, 0x152FECD8F70E5939,
   0x67332667FFC00B31, 0x8EB44A8768581511, 0xDB0C2E0D64F98FA7, 0x47B5481DBEFA4FA4]

/-- A 64-bit rotation to the right. -/
def ror64 (x n : Nat) : Nat := x / 2 ^ n + x % 2 ^ n * 2 ^ (64 - n)

def sha2Big0 (x : Nat) : Nat := ror64 x 28 ^^^ ror64 x 34 ^^^ ror64 x 39
def sha2Big1 (x : Nat) : Nat := ror64 x 14 ^^^ ror64 x 18 ^^^ ror64 x 41
def sha2Small0 (x : Nat) : Nat := ror64 x 1 ^^^ ror64 x 8 ^^^ x / 2 ^ 7
def sha2Small1 (x : Nat) : Nat := ror64 x 19 ^^^ ror64 x 61 ^^^ x / 2 ^ 6

/-- The 80 words of a 128-byte block's schedule. -/
def sha2Schedule (b : Bytes) : List Nat :=
  ((List.range 64).foldl (fun w _ =>
    (sha2Small1 (w.getD 1 0) + w.getD 6 0 + sha2Small0 (w.getD 14 0) + w.getD 15 0) % 2 ^ 64 :: w)
    ((List.range 16).map fun i => beAt b (8 * (15 - i)) 8)).reverse

/-- One round on the eight working variables. -/
def sha2Round (v : List Nat) (kw : Nat) : List Nat :=
  match v with
  | [a, b, c, d, e, f, g, h] =>
    let t1 := h + sha2Big1 e + ((e &&& f) ^^^ ((2 ^ 64 - 1 - e) &&& g)) + kw
    let t2 := sha2Big0 a + ((a &&& b) ^^^ (a &&& c) ^^^ (b &&& c))
    [(t1 + t2) % 2 ^ 64, a, b, c, (d + t1) % 2 ^ 64, e, f, g]
  | _ => v

/-- The compression of one block. -/
def sha2Block (h : List Nat) (b : Bytes) : List Nat :=
  let v := (List.zipWith (· + ·) sha2K (sha2Schedule b)).foldl sha2Round h
  List.zipWith (fun x y => (x + y) % 2 ^ 64) h v

/-- SHA-384. -/
@[irreducible] def sha384 (m : Bytes) : Bytes :=
  let p := m ++ [0x80#8] ++ List.replicate ((111 + 128 - m.length % 128) % 128) 0#8 ++ beBytes 16 (8 * m.length)
  let h := (List.range (p.length / 128)).foldl (fun h i => sha2Block h (slice p (128 * i) 128)) sha384Init
  (h.flatMap (beBytes 8)).take 48

/-- HMAC with SHA-384. -/
@[irreducible] def hmac384 (key m : Bytes) : Bytes :=
  let k := fitBytes 128 (if 128 < key.length then sha384 key else key)
  sha384 (k.map (· ^^^ 0x5C#8) ++ sha384 (k.map (· ^^^ 0x36#8) ++ m))

/-- The output blocks of HKDF-Expand: `t` is the block before, `i` its number. -/
def hkdfExpand (prk info : Bytes) : Nat → Nat → Bytes → Bytes
  | 0, _, _ => []
  | n + 1, i, t =>
    let u := hmac384 prk (t ++ info ++ [BitVec.ofNat 8 i])
    u ++ hkdfExpand prk info n (i + 1) u

/-- HKDF with SHA-384: salt, input key, info and length. -/
@[irreducible] def hkdf384 (salt ikm info : Bytes) (n : Nat) : Bytes :=
  (hkdfExpand (hmac384 salt ikm) info ((n + 47) / 48) 1 []).take n

end Sys2Proof.Machine
end

