-- ==== Sys2Proof/Machine/Ports.lean ====
section
/-! DEFINITION. Wet and dry ports: their states, bring-up and what an Apply does to them (R97, R107–R111, Tables 6-4,
6-7). -/

namespace Sys2Proof.Machine

/-- Set the CDR lock bits of a port's own lanes. -/
def portCdr (q : Nat) (cdr : Nat) (s : State) : State :=
  setPort q { port s q with cdr := cdr % 2 ^ (portLanes (liveBank s) q).length } s

/-- All lanes of a port have CDR lock. -/
def portLocked (q : Nat) (s : State) : State := portCdr q 0xFF s

/-- The state of a port whose lanes are in their mode: by signal on its receive lanes. -/
def signalState (signal : Bool) : Nat := if signal then psLocking else psNoSignal

/-- PORT_LANES_SET: step 2 of Table 6-5, after RECONFIG or on the return from DIM (R111). -/
def execPortLanesSet (q : PortId) (signal : Bool) (cdr : Byte) (s : State) : Host.Outcome State Fault Refusal :=
  .next (live s fun s =>
    let st := (port s q.val).state
    if st = psReconfig ∨ (st = psDim ∧ s.clk.runWanted = true) then
      portCdr q.val cdr.toNat (portTo q.val (signalState signal) s)
    else s)

/-- SIGNAL_CHANGE: between NO_SIGNAL and LOCKING (R108). -/
def execSignalChange (q : PortId) (signal : Bool) (cdr : Byte) (s : State) : Host.Outcome State Fault Refusal :=
  .next (live s fun s =>
    let st := (port s q.val).state
    if st = psNoSignal ∨ st = psLocking then portCdr q.val cdr.toNat (portTo q.val (signalState signal) s) else s)

/-- LOCK_LOSS: from UP or REMOTE_FAULT after 10 µs without lock (R108). -/
def execLockLoss (q : PortId) (signal : Bool) (cdr : Byte) (s : State) : Host.Outcome State Fault Refusal :=
  .next (live s fun s =>
    let st := (port s q.val).state
    if st = psUp ∨ st = psRemoteFault then portCdr q.val cdr.toNat (portTo q.val (signalState signal) s) else s)

/-- REMOTE_FAULT_RX (R108). -/
def execRemoteFaultRx (q : PortId) (s : State) : Host.Outcome State Fault Refusal :=
  .next (live s fun s =>
    let st := (port s q.val).state
    if st = psUp ∨ st = psLocking then portLocked q.val (portTo q.val psRemoteFault s) else s)

/-- PORT_UP: lock held 1 ms with no Remote Fault received (R108). -/
def execPortUp (q : PortId) (s : State) : Host.Outcome State Fault Refusal :=
  .next (live s fun s =>
    let st := (port s q.val).state
    if st = psLocking ∨ st = psRemoteFault then portLocked q.val (portTo q.val psUp s) else s)

/-- At a boundary every port that is UP carries from then on (R107). -/
def portsCarry (s : State) : State :=
  (List.range 16).foldl (fun x q =>
    let p := port x q
    if p.state = psUp ∧ p.carrying = false ∧ p.closing = false then portCal q false (setPort q { p with carrying := true }) x
    else x) s

/-- The settings whose change puts a port in RECONFIG: arrangement, LOOP, LANE_MODE, FEC, TX_PRESET, polarity (R110). -/
def linkKey (b : Bank) (q : Nat) : Nat × List Nat :=
  let v := portVal b q
  (arrCode b (q / 8), [fld (vb v 8) 1 1, vb v 9, vb v 10, vb v 14, vb v 16, vb v 17])

/-- The device's lanes are powered down: it is in DIM or NAP. -/
def lanesDown (s : State) : Bool := s.clk.pstate == .dim || s.clk.pstate == .nap

/-- An Apply disables a port: it carries no more, and enters DISABLED once the frame it has begun has left (R110). -/
def portDisable (q : Nat) (s : State) : State :=
  if txBusy s q && (port s q).state != psDisabled then
    portCal q false (setPort q { port s q with closing := true, carrying := false }) s
  else portTo q psDisabled s

/-- The effect of a bank swap on one port (R110, R111). While PSTATE reads DIM a port goes to DIM, one whose lanes have been
powered up already on the return to RUN too (DESIGN CHOICE, entry 72). -/
def portSwap (old new : Bank) (s : State) (q : Nat) : State :=
  if portOn new q = false then portDisable q s
  else
    let s1 := if (port s q).closing then setPort q { port s q with closing := false } s else s
    if portOn old q = false ∨ linkKey old q ≠ linkKey new q then portTo q (if lanesDown s1 then psDim else psReconfig) s1
    else s1

/-- The effect of a bank swap on all ports. -/
def portsSwap (old new : Bank) (s : State) : State := (List.range 16).foldl (portSwap old new) s

/-- On entry to DIM every enabled port enters DIM as its lanes power down (R111). -/
def portsDim (s : State) : State :=
  (List.range 16).foldl (fun x q => if portOn (liveBank x) q then portTo q psDim x else portClose q x) s

/-- The port status word (Table 6-7). -/
def portStatus (s : State) (q : Nat) : Nat :=
  let p := port s q
  p.state + 8 * b2n p.carrying + p.cdr % 256 * 2 ^ 4 + portFec (liveBank s) q % 4 * 2 ^ 12 + b2n (applyNamesPort s q) * 2 ^ 14
    + b2n (p.ctrl != 0) * 2 ^ 15

end Sys2Proof.Machine
end

