-- ==== Sys2Proof/Machine/Stock.lean ====
section
/-! DEFINITION. Stock and Apply: form checks, the entry pool, consistency checks, pending Applies (R82–R96, R104–R106,
R122, R133, R150–R152, R167, R168, R248). -/

namespace Sys2Proof.Machine

/-! Form checks (R85). A rule that relates several fields names the first of them in entry order. -/

/-- Offset `o` where a rule is broken. -/
def viol (bad : Bool) (o : Nat) : List Nat := if bad then [o] else []

/-- The least of a list of offsets. -/
def leastOf (l : List Nat) : Option Nat := l.foldl (fun m o => match m with | none => some o | some x => some (min x o)) none

/-- Offsets of the non-zero bytes of an entry in [lo, hi). -/
def nonZero (e : Bytes) (lo hi : Nat) : List Nat := (firstNonZero (slice e lo (hi - lo)) lo).toList

/-- ARRANGEMENT (R104). -/
def formArrangement (e : Bytes) : List Nat := viol (6 < byteAt e 8) 8 ++ nonZero e 9 32

/-- PORT (R105, Table 6-3). -/
def formPort (obj : Nat) (e : Bytes) : List Nat :=
  let mode := byteAt e 9
  let fec := byteAt e 10
  let fecOk := if mode = 0 then fec == 2 else if mode = 1 then decide (fec ≤ 1) else fec == 0
  let mf := leAt e 12 2
  let narrow := decide (mode = 1 ∨ mode = 2)
  viol (fld (byteAt e 8) 2 6 != 0) 8 ++ viol (2 < mode) 9 ++ viol (2 < fec) 10
    ++ viol (mode ≤ 2 && fec ≤ 2 && !fecOk) 9
    ++ viol (if obj < 8 then byteAt e 11 != 0 else 1 < byteAt e 11) 11
    ++ viol (if obj < 8 then !(inRange mf 1518 9600) else !(inRange mf 1550 9632)) 12
    ++ viol (7 < byteAt e 14) 14 ++ nonZero e 15 16
    ++ viol (narrow && (1 < byteAt e 16 || 1 < byteAt e 17)) 9 ++ nonZero e 18 32

/-- MAP (R106). -/
def formMap (e : Bytes) : List Nat := viol (7 < byteAt e 8) 8 ++ viol (1 < byteAt e 9) 9 ++ nonZero e 10 32

/-- POLICY (R122, Table 7-2). -/
def formPolicy (e : Bytes) : List Nat :=
  let fin := byteAt e 8
  let m := byteAt e 10
  let act := byteAt e 11
  let tag := leAt e 14 2
  let cls := byteAt e 23
  let out := byteAt e 26
  let unmatched := (!bitAt m 0 && leAt e 12 2 != 0) || (!bitAt m 1 && fld tag 0 12 != 0) || (!bitAt m 2 && fld tag 12 3 != 0)
    || (!bitAt m 3 && (nonZero e 16 23).length != 0)
  viol (1 < fin) 8 ++ viol (act == 2 && fin == 1) 8 ++ viol (out != 0 && !(act == 1 && fin == 1)) 8
    ++ viol (byteAt e 9 == 0) 9 ++ viol (fld m 5 3 != 0) 10 ++ viol (bitAt m 4 && (bitAt m 1 || bitAt m 2)) 10
    ++ viol unmatched 10 ++ viol (2 < act) 11 ++ viol (cls != 0 && act != 1) 11 ++ viol (leAt e 24 2 != 0 && act != 2) 11
    ++ viol (fld tag 0 12 == 4095) 14 ++ viol (bitAt tag 15) 15 ++ viol (48 < byteAt e 22) 22
    ++ viol (act == 1 && !(inRange cls 1 3)) 23 ++ viol (8191 < leAt e 24 2) 24 ++ viol (7 < out) 26 ++ nonZero e 27 32

/-- BIND (R167, Table 9-1). -/
def formBind (e : Bytes) : List Nat :=
  let dir := byteAt e 8
  let opt := fld (byteAt e 15) 0 2
  let grace := leAt e 26 2
  viol (1 < dir) 8 ++ viol (dir == 1 && opt != 0) 8 ++ viol (dir == 0 && grace != 0) 8
    ++ viol (7 < byteAt e 9 && byteAt e 9 != 0xFF) 9 ++ viol (7 < byteAt e 10) 10 ++ viol (!(inRange (byteAt e 11) 1 3)) 11
    ++ viol (!(inRange (leAt e 12 2) 1 57344)) 12 ++ viol (1 < byteAt e 14) 14
    ++ viol (fld (byteAt e 15) 4 4 != 0 || opt == 3 || (opt == 1 && beAt e 24 2 != 1)) 15
    ++ viol (1023 < leAt e 16 2) 16 ++ viol (60000 < grace) 26 ++ nonZero e 28 32

/-- RASTER (R150). -/
def formRaster (e : Bytes) : List Nat :=
  viol (2 < byteAt e 8) 8 ++ nonZero e 9 10 ++ viol (leAt e 10 2 == 0) 10 ++ nonZero e 12 32

/-- CLASSES (R133, Table 7-4). -/
def formClasses (e : Bytes) : List Nat :=
  viol (byteAt e 8 == 0) 8 ++ viol (byteAt e 9 == 0) 9 ++ viol (byteAt e 10 == 0) 10 ++ nonZero e 11 12
    ++ viol (57344 < leAt e 12 2) 12 ++ viol (57344 < leAt e 14 2) 14 ++ viol (57344 < leAt e 16 2) 16 ++ nonZero e 18 32

/-- LATENCY (R151, Table 8-3). -/
def formLatency (e : Bytes) : List Nat :=
  viol (!(inRange (leAt e 8 4) 1125 16777215)) 8 ++ viol (8191 < leAt e 12 2) 12 ++ viol (8191 < leAt e 14 2) 14
    ++ viol (leAt e 16 2 == 0) 16 ++ viol (leAt e 18 2 == 0) 18 ++ nonZero e 26 32

/-- EPOCH_LEN (Table 5-3). -/
def formEpochLen (e : Bytes) : List Nat := viol (!(inRange (byteAt e 8) 10 24)) 8 ++ nonZero e 9 32

/-- Largest OBJECT of a kind, and whether DELETE is allowed (Table 5-3). -/
def kindInfo (kind : Nat) : Option (Nat × Bool) :=
  match kind with
  | 1 => some (1, false)
  | 2 => some (15, false)
  | 3 => some (7, true)
  | 4 => some (4095, true)
  | 5 => some (8191, true)
  | 6 => some (8191, false)
  | 7 => some (8191, true)
  | 8 => some (7, false)
  | 9 => some (7, false)
  | 10 => some (0, false)
  | _ => none

/-- The first offending byte of a 32-byte entry (R85). -/
def entryFault (e : Bytes) : Option Nat :=
  let kind := byteAt e 0
  let op := byteAt e 1
  let obj := leAt e 2 2
  match kindInfo kind with
  | none => some 0
  | some (hi, del) =>
    let value := if op = 1 then nonZero e 8 32
      else match kind with
        | 1 => formArrangement e
        | 2 => formPort obj e
        | 3 => formMap e
        | 4 => formPolicy e
        | 5 => formBind e
        | 6 => nonZero e 8 32
        | 7 => formRaster e
        | 8 => formClasses e
        | 9 => formLatency e
        | _ => formEpochLen e
    leastOf (viol (1 < op || (op == 1 && !del)) 1 ++ viol (hi < obj) 2 ++ nonZero e 4 8 ++ value)

/-- Cut a string into 32-byte entries. -/
def splitEntries : Nat → Bytes → List Bytes
  | 0, _ => []
  | n + 1, b => if b.isEmpty then [] else b.take 32 :: splitEntries n (b.drop 32)

/-- The first entry of a list whose form is wrong: its index and offset. -/
def firstFormFault (es : List Bytes) : Option (Nat × Nat) :=
  es.zipIdx.findSome? fun x => (entryFault x.1).map fun o => (x.2, o)

/-! The entry pool (R83, R84). -/

/-- Free shared Stock entries: each door holds 512 of its own, and the shared ones beyond. -/
def stockSharedFree (s : State) : Nat :=
  2048 - ((List.range 4).map fun d => (area s d).entries.length - 512).foldl (· + ·) 0

/-- The requests of one FCLK cycle for shared Stock entries, each a door and the number it needs: the pool's rotating pointer
orders them, each is granted whole or refused, and after a contested cycle with a winner the pointer moves to the door after
the last winner (R83, as R72). The answer is the doors granted. -/
def stockGrant (reqs : List (Nat × Nat)) (s : State) : List Nat × State :=
  let free := stockSharedFree s
  let shared := reqs.filter fun r => decide (0 < r.2)
  let ordered := (rotation s.pool.stockPointer).filterMap fun d => shared.find? fun r => r.1 == d
  let won := (ordered.foldl (fun (x : Nat × List Nat) r =>
    if r.2 ≤ x.1 then (x.1 - r.2, x.2 ++ [r.1]) else x) (free, [])).2
  let contested := decide (2 ≤ shared.length) && decide (free < (shared.map (·.2)).foldl (· + ·) 0)
  let granted := (reqs.filter fun r => r.2 == 0).map (·.1) ++ won
  match contested, won.getLast? with
  | true, some w => (granted, { s with pool := { s.pool with stockPointer := (w + 1) % 4 } })
  | _, _ => (granted, s)

/-- A Stock with the entries of a command laid in, the later of a repeated pair kept. -/
def layEntries (t : Table (Nat × Bytes)) (es : List Bytes) : Table (Nat × Bytes) :=
  es.foldl (fun x e => tins x (setKey (byteAt e 0) (leAt e 2 2)) (byteAt e 1, e.drop 8)) t

/-- This door's Apply is pending: its Stock is frozen (R93). -/
def stockFrozen (s : State) (d : Nat) : Bool := match s.stock.apply with | some a => a.door == d | none => false

/-! Lengths of input and output (R242, checks 1 and 2). -/

/-- RES0 of a length fault: the input must be exactly `inWant` bytes and the output area at least `outNeed`. -/
def lengthBad (p : Bytes) (inWant outNeed : Nat) : Option Nat :=
  if pktInLen p ≠ inWant then some inWant else if pktOutLen p < outNeed then some outNeed else none

/-- The pointer and length checks of R242, then the rest. -/
def withIo (d tag : Nat) (c : Cmd) (inWant outNeed : Nat) (f : State → State) (s : State) : State :=
  if !pointersOk d c.pkt then finishSt d tag stPointer 0 s
  else match lengthBad c.pkt inWant outNeed with
    | some n => finishR0 d tag stLength n s
    | none => f s

/-- Refuse a parameter value: RES0 is its packet byte offset. -/
def badValue (d tag : Nat) (c : Cmd) (n : Nat) (s : State) : State := finishR0 d tag stValue (pOff c.pkt n) s

/-! STOCK_SET, STOCK_GET, STOCK_DISCARD. -/

/-- Store the entries of a STOCK_SET, or refuse them (R83–R85, R93). The Interpreter dispatches one command in 16 FCLK cycles
(R77), so a cycle holds one such request (DEDUCED, entry 90). -/
def stockStore (d tag : Nat) (es : List Bytes) (s : State) : State :=
  match firstFormFault es with
  | some (i, o) => finish d tag stValue 0 i o 0 none s
  | none =>
    if stockFrozen s d then finishSt d tag stPending 4 s
    else
      let a := area s d
      let t := layEntries a.entries es
      let new := t.length - a.entries.length
      let want := new - (512 - a.entries.length)
      let (granted, s) := stockGrant [(d, want)] s
      if !granted.contains d then
        finish d tag stNoCredit 1 new 0 0 none (raise (doorSource d 1) (setNotice d 0 s))
      else
        finish d tag stDone 0 t.length new 0 none
          (setArea d { a with entries := t, passed := false, checkVer := 0, mods := a.mods + 1 } s)

/-- STOCK_SET. -/
def execStockSet (d : DoorId) (tag : Nat) (hostIn : Option Bytes) (s : State) : Host.Outcome State Fault Refusal :=
  .next (live s (dispatch d.val tag 0x10 fun c s =>
    let p := c.pkt
    if !pktPtr p then stockStore d.val tag [slice p 16 32] s
    else
      let n := pLe p 0 2
      let most := if d = 2 then 512 else 1024
      if !pointersOk d.val p then finishSt d.val tag stPointer 0 s
      else if n = 0 ∨ most < n then finishR0 d.val tag stLength (32 * most) s
      else if pktInLen p ≠ 32 * n then finishR0 d.val tag stLength (32 * n) s
      else match cmdInput s d.val c hostIn with
        | none => finishSt d.val tag stPointer 0 s
        | some bs => stockStore d.val tag (splitEntries n bs) s))

/-- The status record of a door's Stock (Table 5-5). -/
def stockRecord (s : State) (d : Nat) : Bytes :=
  let a := area s d
  let (pend, target) := match s.stock.apply with | some x => if x.door = d then (1, x.target) else (0, 0) | none => (0, 0)
  leBytes 2 a.entries.length ++ leBytes 1 (b2n a.passed) ++ leBytes 1 pend ++ leBytes 4 a.checkVer ++ leBytes 8 target
    ++ leBytes 8 a.lastEpoch ++ leBytes 1 a.lastResult ++ List.replicate 7 0#8

/-- A Stock entry as 32 bytes (Table 5-2). -/
def entryBytes (e : Nat × (Nat × Bytes)) : Bytes :=
  leBytes 1 (e.1 / 65536) ++ leBytes 1 e.2.1 ++ leBytes 2 (e.1 % 65536) ++ leBytes 4 0 ++ fitBytes 24 e.2.2

/-- STOCK_GET. -/
def execStockGet (d : DoorId) (tag : Nat) (s : State) : Host.Outcome State Fault Refusal :=
  .next (live s (dispatch d.val tag 0x11 fun c s =>
    let p := c.pkt
    let who := if pByte p 0 = 0xFF then d.val else pByte p 0
    let first := pLe p 2 2
    let count := pLe p 4 2
    if !pointersOk d.val p then finishSt d.val tag stPointer 0 s
    else if 3 < who then badValue d.val tag c 0 s
    else if 2560 < count then badValue d.val tag c 4 s
    else if d ≠ 3 ∧ who ≠ d.val then finishSt d.val tag stNotOwner 0 s
    else
      let all := (area s who).entries
      let es := (all.drop first).take count
      let out := stockRecord s who ++ (es.map entryBytes).flatten
      match lengthBad p 0 out.length with
      | some n => finishR0 d.val tag stLength n s
      | none => finish d.val tag stDone 0 es.length all.length 0 (some out) s))

/-- STOCK_DISCARD (R96). -/
def execStockDiscard (d : DoorId) (tag : Nat) (s : State) : Host.Outcome State Fault Refusal :=
  .next (live s (dispatch d.val tag 0x14 fun _ s =>
    if stockFrozen s d.val then finishSt d.val tag stPending 4 s
    else
      let a := area s d.val
      finishR0 d.val tag stDone a.entries.length
        (setArea d.val { a with entries := [], passed := false, checkVer := 0, mods := a.mods + 1 } s)))

/-! Consistency checks (R86, Table 5-4). -/

/-- Owner of a port. -/
def portOwner (s : State) (q : Nat) : Option Nat := (port s q).owner

/-- The part is a 2C: lanes 4–7 of each end are fused off (R14). -/
def is2C (s : State) : Bool := fld s.fuses.bin 0 2 == 2

/-- Slots per epoch at a slot time and epoch length (R149). -/
def slotsIn (t k : Nat) : Nat := if t = 0 then 0 else 2 ^ k / t

/-- Settings at fault under each check, in a resulting bank `b` for the Stock entries `es` of door `d`. -/
def checkOwners (s : State) (d : Nat) (es : Table (Nat × Bytes)) : List Nat :=
  if d = 3 then []
  else (es.filter fun e =>
    let (cs, qs) := entryNames (e.1 / 65536) (e.1 % 65536) e.2.1 e.2.2
    !(cs.all fun c => mayUse (chan s c).owner d) || !(qs.all fun q => mayUse (portOwner s q) d)).map (·.1)

def checkGrants (s : State) (d : Nat) (es : Table (Nat × Bytes)) : List Nat :=
  if d = 3 then []
  else (es.filter fun e =>
    let k := e.1 / 65536
    k == kArrangement || k == kEpochLen || ((k == kBind || k == kSwitch) && !bitAt (door s d).grant 2)).map (·.1)

def checkFused (s : State) (b : Bank) : List Nat :=
  if is2C s then
    ((List.range 16).filter fun q => portEnable b q && (portLanes b q).any fun l => decide (4 ≤ l)).flatMap
      fun q => [setKey kPort q, setKey kArrangement (q / 8)]
  else []

def checkArrangement (b : Bank) : List Nat :=
  ((List.range 16).filter fun q => portEnable b q &&
    (!portExists b q || vb (portVal b q) 9 != (portRow b q).2.2.1
      || (vb (portVal b q) 16 ||| vb (portVal b q) 17) / 2 ^ (portRow b q).2.1 != 0)).flatMap
    fun q => [setKey kPort q, setKey kArrangement (q / 8)]

def checkMapPorts (b : Bank) : List Nat :=
  (List.range 8).flatMap fun w =>
    match mapOf b w with
    | none => []
    | some (d, _) =>
      (if portExists b w then [] else [setKey kMap w, setKey kArrangement 0])
        ++ (if portExists b (8 + d) then [] else [setKey kMap w, setKey kArrangement 1])

def checkMapMode (b : Bank) : List Nat :=
  (List.range 8).flatMap fun w =>
    match mapOf b w with
    | none => []
    | some (d, m) => if m = portProt b (8 + d) then [] else [setKey kMap w, setKey kPort (8 + d)]

/-- A channel's slots are not both EMPTY. -/
def keyed (s : State) (c : Nat) : Bool := (chan s c).cur.state != ksEmpty || (chan s c).nxt.state != ksEmpty

def checkBindings (s : State) (b : Bank) : List Nat :=
  let bs := boundChannels b
  let unmapped := (bs.filter fun e => !mappedPair b e.2.wet e.2.dry).flatMap fun e =>
    setKey kBind e.1 :: (if e.2.wet = 0xFF then [setKey kArrangement 1] else [setKey kMap e.2.wet])
  let rules := ((bankKind b kPolicy).filter fun e => vb e.2 11 == 2 && (bindOf b (vle e.2 24 2)).isNone).flatMap
    fun e => [setKey kPolicy e.1, setKey kBind (vle e.2 24 2)]
  let dec := bs.filter fun e => e.2.dir == 1
  let same := fun (x y : Nat × Bind) => x.1 != y.1 && x.2.dry == y.2.dry &&
    (if isCal b x.2.dry then bindPi x.2 == bindPi y.2 else x.2.sci == y.2.sci)
  let dup := (dec.filter fun e => dec.any (same e)).flatMap fun e =>
    setKey kBind e.1 :: (if isCal b e.2.dry == isCal (liveBank s) e.2.dry then [] else [setKey kPort (8 + e.2.dry)])
  let changed := (bs.filter fun e => keyed s e.1 &&
    match bindOf (liveBank s) e.1 with
    | none => false
    | some o => o.dir != e.2.dir || o.suite != e.2.suite || o.sci != e.2.sci || o.sciOpt != e.2.sciOpt).map
      fun e => setKey kBind e.1
  unmapped ++ rules ++ dup ++ changed

def checkSwitches (s : State) (es : Table (Nat × Bytes)) : List Nat :=
  (es.filter fun e => e.1 / 65536 == kSwitch && (chan s (e.1 % 65536)).nxt.state != ksLoaded).map (·.1)

/-- Existing Calender dry ports of a bank (R152). -/
def calPorts (b : Bank) : List Nat := (List.range 8).filter fun d => isCal b d && portExists b (8 + d)

/-- Settings that take part in each failure of check 9, staged deletions included (R152): row 0 not live; no MARK row; the
sum of the rows; no LATENCY; a carrier that is not bound so. -/
def checkRasters (b : Bank) (es : Table (Nat × Bytes)) : List Nat :=
  (calPorts b).flatMap fun d =>
    let rows := rasterRows b d
    let live := rows.map fun r => setKey kRaster (d * 1024 + r.1)
    let staged := (es.filter fun e => e.1 / 65536 == kRaster && e.1 % 65536 / 1024 == d).map (·.1)
    let total := (rows.map fun r => r.2.2).foldl (· + ·) 0
    let carrier := fun c dir => match bindOf b c with | some x => x.dir == dir && x.dry == d | none => false
    let fault := fun (bad : Bool) (keys : List Nat) => if bad then keys ++ [setKey kPort (8 + d), setKey kArrangement 1] else []
    fault (rows.all fun r => r.1 != 0) [setKey kRaster (d * 1024)]
      ++ fault (rows.all fun r => r.2.1 != 2) (live ++ staged)
      ++ fault (slotsIn (slotT b d) (bankK b) < total) (setKey kEpochLen 0 :: live)
      ++ (if latVal b d == [] then fault true [setKey kLatency d]
          else fault (!carrier (latTx b d) 0) [setKey kLatency d, setKey kBind (latTx b d)]
            ++ fault (!carrier (latRx b d) 1) [setKey kLatency d, setKey kBind (latRx b d)])

def checkCapacity (b : Bank) : List Nat :=
  let bs := boundChannels b
  (if 57344 < (bs.map fun e => e.2.quota).foldl (· + ·) 0 then bs.map fun e => setKey kBind e.1 else [])
    ++ (calPorts b).flatMap fun d =>
      if latLatency b d < 1060 + 5 * slotT b d then [setKey kLatency d, setKey kPort (8 + d), setKey kArrangement 1] else []

/-- The entry a failed check reports: the first of the Stock at fault, else the first setting at fault (R86). -/
def faultEntry (es : Table (Nat × Bytes)) (keys : List Nat) : Nat :=
  match es.find? fun e => keys.contains e.1 with
  | some e => e.1
  | none => (leastOf keys).getD 0

/-- The first check that fails: status, number and entry (Table 5-4). -/
def stockVerdict (s : State) (d : Nat) (es : Table (Nat × Bytes)) : Option (Nat × Nat × Nat) :=
  let b := overlay (liveBank s) es
  let checks : List (Nat × Nat × List Nat) :=
    [(1, stNotOwner, checkOwners s d es), (2, stNotGranted, checkGrants s d es), (3, stFusedLane, checkFused s b),
     (4, stStock, checkArrangement b), (5, stStock, checkMapPorts b), (6, stStock, checkMapMode b),
     (7, stStock, checkBindings s b), (8, stStock, checkSwitches s es), (9, stStock, checkRasters b es),
     (10, stOverCapacity, checkCapacity b)]
  (checks.find? fun c => !c.2.2.isEmpty).map fun c => (c.2.1, c.1, faultEntry es c.2.2)

/-- STOCK_CHECK: the checks begin at dispatch, on the state as it stands then (R86, R248). -/
def execStockCheck (d : DoorId) (tag : Nat) (s : State) : Host.Outcome State Fault Refusal :=
  .next (live s (dispatch d.val tag 0x12 fun _ s =>
    if stockFrozen s d.val then finishSt d.val tag stPending 4 s
    else
      let a := area s d.val
      let s1 := setArea d.val { a with passed := false, checkVer := 0 } s
      if a.entries.isEmpty then finishSt d.val tag stDoneNote 1 s1
      else
        let (st, n, e) := (stockVerdict s1 d.val a.entries).getD (0, 0, 0)
        modCmd d.val tag (fun c => { c with aux := [a.mods, s1.stock.liveVer, a.entries.length, st, n, e] }) s1))

/-- STOCK_CHECK_END: the outcome; a pass is recorded with the LIVE_VER of the dispatch unless the Stock changed (R86). -/
def execStockCheckEnd (d : DoorId) (tag : Nat) (s : State) : Host.Outcome State Fault Refusal :=
  .next (live s fun s =>
    match findCmd s d.val tag with
    | none => s
    | some c =>
      match c.opcode, c.stage, c.aux with
      | 0x12, .running, [mods, ver, n, st, num, e] =>
        if st ≠ 0 then finish d.val tag st num (e / 65536 + e % 65536 * 2 ^ 16) 0 0 none s
        else
          let a := area s d.val
          let s1 := if a.mods = mods then setArea d.val { a with passed := true, checkVer := ver } s else s
          finish d.val tag stDone 0 ver n 0 none s1
      | _, _, _ => s)

/-! Applies (R89, R90, R94, R95). -/

/-- T_prep in PCLK cycles: 1,000 + 16 n FCLK cycles (R90). -/
def prepTime (n : Nat) : Nat := 2 * (1000 + 16 * n)

/-- The first boundary that falls at least T_prep from now (R90). -/
def earliestBoundary (s : State) (n : Nat) : Nat :=
  let len := 2 ^ s.epoch.k
  let left := len - s.epoch.count
  s.epoch.boundaries + 1 + (prepTime n - left + len - 1) / len

/-- Frames admitted under the bank that is not active are still in the paper machine. -/
def oldBankInUse (s : State) : Bool := s.mach.frames.any fun f => f.bank != s.stock.active

def setApply (a : Option Apply) (s : State) : State := { s with stock := { s.stock with apply := a } }

/-- STOCK_APPLY (R89, R90). -/
def execStockApply (d : DoorId) (tag : Nat) (s : State) : Host.Outcome State Fault Refusal :=
  .next (live s (dispatch d.val tag 0x13 fun c s =>
    let a := area s d.val
    let target := pLe c.pkt 0 8
    let first := earliestBoundary s a.entries.length
    match s.stock.apply with
    | some x => finish d.val tag stApplyPending 0 (x.target % 2 ^ 32) (x.target / 2 ^ 32) 0 none s
    | none =>
      if !a.passed then finishSt d.val tag stUnchecked 0 s
      else if a.checkVer ≠ s.stock.liveVer then finishR0 d.val tag stStale s.stock.liveVer s
      else if target ≠ 0 ∧ (target < first ∨ s.epoch.boundaries + 65536 < target) then
        finish d.val tag stEpoch 0 (first % 2 ^ 32) (first / 2 ^ 32) 0 none s
      else
        deferCmd d.val tag stDelayedEpoch (setApply (some
          { door := d.val, tag := tag, target := if target = 0 then first else target, earliest := decide (target = 0),
            waitRelease := oldBankInUse s }) s)))

/-- SHADOW_LOADED: the bank that is not active is loaded from the Stock and the active bank (R90). -/
def execShadowLoaded (s : State) : Host.Outcome State Fault Refusal :=
  .next (live s fun s =>
    match s.stock.apply with
    | some a =>
      if a.waitRelease then s
      else setApply (some { a with shadow := some (overlay (liveBank s) (area s a.door).entries) }) s
    | none => s)

/-- APPLY_RELEASE_TIME: the last frame of the old bank has left; the earliest boundary is worked out again (R90). -/
def execApplyReleaseTime (s : State) : Host.Outcome State Fault Refusal :=
  .next (live s fun s =>
    match s.stock.apply with
    | some a =>
      if !a.waitRelease || oldBankInUse s then s
      else
        let first := earliestBoundary s (area s a.door).entries.length
        if a.earliest then setApply (some { a with waitRelease := false, target := max a.target first }) s
        else if a.target < first then
          let s1 := setArea a.door { area s a.door with lastResult := 4 } (setApply none s)
          finish a.door a.tag stEpoch 0 (first % 2 ^ 32) (first / 2 ^ 32) 0 none s1
        else setApply (some { a with waitRelease := false }) s
    | none => s)

/-- Cancel the pending Apply: LAST_APPLY_RESULT and source 81 (R94, R95); the command's own reply is the caller's. -/
def cancelApply (result : Nat) (s : State) : State :=
  match s.stock.apply with
  | none => s
  | some a => raise 81 (setArea a.door { area s a.door with lastResult := result } (setApply none s))

/-- A ZEROISE cancels the pending Apply (R94). -/
def zeroiseCancels (s : State) : State :=
  match s.stock.apply with
  | none => s
  | some a => finishSt a.door a.tag stCancelled 0 (cancelApply 3 s)

end Sys2Proof.Machine
end

