-- ==== Sys2Proof/Machine/Keys.lean ====
section
/-! DEFINITION. The key engine: loading, retiring and querying channel keys, ZEROISE, the vault, KE slots and their
operations, messages, commits and timeouts (R167–R193, R244–R252). -/

namespace Sys2Proof.Machine

def keFlags : Nat := keyeBase + 0x004

/-! The vault (R176). -/

def vaultAt (s : State) (n : Nat) : Vault := tget {} s.keys.vault n

def setVault (n : Nat) (v : Vault) (s : State) : State := { s with keys := { s.keys with vault := tset {} s.keys.vault n v } }

/-- A vault entry holds something. -/
def vaultFull (s : State) (n : Nat) : Bool := (vaultAt s n).key != []

/-- Another door owns a full entry. -/
def vaultBarred (s : State) (d n : Nat) : Bool := d != 3 && vaultFull s n && (vaultAt s n).owner != d

/-- V0: HKDF-SHA-384 of KEK_SEED with an empty salt and info "LPKW" (R176). -/
def deriveV0 (seed : Bytes) : Bytes :=
  fitBytes 32 (hkdf384 [] seed [0x4C#8, 0x50#8, 0x4B#8, 0x57#8] 32)

/-- The AES-256 key of a key-encryption entry, where it holds one. -/
def kekKey (s : State) (n : Nat) : Option Bytes :=
  if n = 0 then some s.keys.v0
  else if vaultFull s n && !(vaultAt s n).p384 then some (vaultAt s n).key else none


/-! The units and their counters. -/

/-- The operations waiting and running on a unit: 0 EC, 1 lattice, 2 hash. -/
def unitQueue (s : State) (u : Nat) : List (Nat × Nat) := tget [] s.keys.units u

def setUnit (u : Nat) (l : List (Nat × Nat)) (s : State) : State :=
  { s with keys := { s.keys with units := tset [] s.keys.units u l } }

/-- Count an operation completed on a unit: OPS_EC, OPS_LAT, OPS_HASH wrap. -/
def opsCount (u : Nat) (s : State) : State :=
  let a := keyeBase + 0x018 + 4 * u
  setReg a (reg s a + 1#32) s

/-- A command joins the queue of its unit; one that waits for it is deferred (R180). -/
def joinUnit (d tag u : Nat) (aux : List Nat) (input : Bytes) (s : State) : State :=
  let q := unitQueue s u
  let s1 := setUnit u (q ++ [(d, tag)]) (modCmd d tag (fun c => { c with aux := aux, input := input }) s)
  if q.isEmpty then s1 else deferCmd d tag stDelayedEngine s1

/-- A new serial number, for a key or a KE slot's opening. -/
def takeSerial (s : State) : Nat × State := (s.keys.nextKid, { s with keys := { s.keys with nextKid := s.keys.nextKid + 1 } })

/-! SA_LOAD (R170, R177, R249). -/

/-- Where a value in a command's input is at fault: its offset with bit 31 set (R242). -/
def badInput (d tag o : Nat) (s : State) : State := finishR0 d tag stValue (2 ^ 31 + o) s

/-- The bytes of the blob that SA_LOAD takes (R249). -/
def blobLen (r : Bytes) : Nat :=
  let fmt := bitAt (byteAt r 3) 1
  let chanDest := byteAt r 2 == 0
  let saltZero := (nonZero r 24 36).isEmpty
  if !fmt then 40
  else if (chanDest && saltZero) || (!chanDest && bitAt (byteAt r 3) 2) then 56 else 40

/-- The first value of an SA_LOAD record that is out of its range (R249, R7). -/
def saRecordFault (s : State) (r : Bytes) : Option Nat :=
  let dest := byteAt r 2
  let idx := leAt r 0 2
  let fl := byteAt r 3
  let unused := fun lo hi => if dest = 1 then nonZero r lo hi else []
  leastOf (viol (if dest = 1 then !(inRange idx 1 15) else 8191 < idx) 0 ++ viol (1 < dest) 2
    ++ viol (fld fl 3 5 != 0 || (dest == 0 && bitAt fl 2)) 3 ++ viol (15 < byteAt r 4) 4
    ++ viol (if dest = 1 then byteAt r 5 != 0 else 3 < byteAt r 5) 5 ++ nonZero r 6 8
    ++ unused 8 12 ++ unused 12 16 ++ unused 16 24 ++ unused 24 36
    ++ viol (dest == 0 && !(inRange (leAt r 16 8) 1 (pnLimit s idx))) 16
    ++ nonZero r 36 40 ++ nonZero r (40 + blobLen r) 96)

/-- The unwrapped key of an SA_LOAD record, or the DETAIL of 0x49 (R177, R249). -/
def saUnwrap (s : State) (r : Bytes) : Sum Nat Bytes :=
  let fmt := b2n (bitAt (byteAt r 3) 1)
  let p384 := byteAt r 2 == 1 && bitAt (byteAt r 3) 2
  let saltZero := (nonZero r 24 36).isEmpty
  let want := if p384 then 48 else if byteAt r 2 = 0 ∧ fmt = 1 ∧ saltZero = true then 44 else 32
  match kekKey s (byteAt r 4) with
  | none => .inl 3
  | some k =>
    match keyUnwrap fmt k (slice r 40 (blobLen r)) with
    | none => .inl 1
    | some bs =>
      if bs.length ≠ want then .inl 2
      else if p384 && !(inRange (beNat bs) 1 (p384N - 1)) then .inl 4
      else .inr bs

/-- A key laid into a channel's next slot, in state LOADED (R170). -/
def loadNext (c an ssci life startPn : Nat) (key salt : Bytes) (s : State) : State :=
  let (kid, s1) := takeSerial s
  let k : KeySlot := { state := ksLoaded, kid := kid, an := an, key := key, salt := salt, ssci := ssci,
                       lifetime := life, startPn := startPn, pn := startPn }
  let fresh := bindOf (liveBank s) c == none && (chan s c).cur.state == ksEmpty && (chan s c).nxt.state == ksEmpty
  modChan c (fun x => { x with nxt := k, lastDir := if fresh then 0 else x.lastDir }) s1

/-- The cases of R170 that stop a load of a channel: status and DETAIL. A draining encrypt slot is told apart by
`chanWaits`. -/
def loadCase (s : State) (c an : Nat) (replace : Bool) : Option (Nat × Nat) :=
  let x := chan s c
  if applyNamesChan s c then some (stPending, 2)
  else if holdsKey s x.cur && x.cur.an == an then some (stAn, 0)
  else if x.nxt.state = ksLoaded ∧ replace = false then some (stPending, 1)
  else none

/-- The next slot of an encrypt channel is DRAINING (R170, R171). -/
def chanWaits (s : State) (c : Nat) : Bool := (chan s c).nxt.state == ksDraining && chanDir s c == 0

/-- A command waits on an encrypt DRAINING slot. -/
def waitDrain (c d tag : Nat) (input : Bytes) (s : State) : State :=
  let s1 := modCmd d tag (fun x => { x with input := input, aux := [c], committed := x.opcode == 0x21 }) s
  deferCmd d tag stDelayedEngine { s1 with keys := { s1.keys with waits := s1.keys.waits ++ [(c, d, tag)] } }

/-- An unwrap that failed: 0x49 with its reason; an integrity failure is counted and raises WRAP_FAIL (R177). -/
def wrapFailed (d tag why : Nat) (s : State) : State :=
  let s1 := if why = 1 then raise 165 (orReg keFlags 1 (incReg (keyeBase + 0x024) s)) else s
  finishSt d tag stWrap why s1

/-- An unwrapped key enters a channel's next slot (R170). -/
def loadChannel (d tag : Nat) (r bs : Bytes) (s : State) : State :=
  let c := leAt r 0 2
  let salt := if bs.length = 44 then bs.drop 32 else slice r 24 12
  let s1 := loadNext c (byteAt r 5) (leAt r 8 4) (leAt r 12 4) (leAt r 16 8) (bs.take 32) salt s
  finishR0 d tag stDone (leNat (kcv (bs.take 32))) (takeChan c d s1)

/-- An unwrapped key enters a vault entry (R176). -/
def loadVault (d tag : Nat) (r bs : Bytes) (s : State) : State :=
  let p384 := bitAt (byteAt r 3) 2
  finishR0 d tag stDone (if p384 then 0 else leNat (kcv bs))
    (setVault (leAt r 0 2) { key := bs, p384 := p384, owner := d } s)

/-- The ownership checks of an SA_LOAD, and the cases of R170 and R176 that stop it: status and DETAIL (Table 12-5). -/
def loadStops (s : State) (d : Nat) (r : Bytes) : Option (Nat × Nat) :=
  let idx := leAt r 0 2
  let kek := byteAt r 4
  let isChan := byteAt r 2 == 0
  let barred := if isChan then !mayUse (chan s idx).owner d else vaultBarred s d idx
  if barred || (kek != 0 && vaultBarred s d kek) then some (stNotOwner, 0)
  else if isChan then loadCase s idx (byteAt r 5) (bitAt (byteAt r 3) 0)
  else if vaultFull s idx && !bitAt (byteAt r 3) 0 then some (stPending, 1) else none

/-- An SA_LOAD that may go on does; one for a draining encrypt channel waits (R170). -/
def loadGo (d tag : Nat) (r : Bytes) (go : State → State) (s : State) : State :=
  match loadStops s d r with
  | some (st, det) => finishSt d tag st det s
  | none => if byteAt r 2 == 0 && chanWaits s (leAt r 0 2) then waitDrain (leAt r 0 2) d tag r s else go s

/-- An SA_LOAD asks the hash unit to unwrap its blob (R180). -/
def loadAsk (d tag : Nat) (r : Bytes) (s : State) : State := loadGo d tag r (joinUnit d tag 2 [] r) s

/-- The blob of an SA_LOAD has been unwrapped: its checks run again, then the key is written (R177). -/
def loadDone (d tag : Nat) (r : Bytes) (s : State) : State :=
  loadGo d tag r (fun s =>
    match saUnwrap s r with
    | .inl why => wrapFailed d tag why s
    | .inr bs => if byteAt r 2 = 0 then loadChannel d tag r bs s else loadVault d tag r bs s) s

/-- SA_LOAD after its input has been read: values, ownership, then the load. -/
def saLoadRecord (d tag : Nat) (r : Bytes) (s : State) : State :=
  match saRecordFault s r with
  | some o => badInput d tag o s
  | none => loadAsk d tag r s

/-- SA_LOAD. -/
def execSaLoad (d : DoorId) (tag : Nat) (hostIn : Option Bytes) (s : State) : Host.Outcome State Fault Refusal :=
  .next (live s (dispatch d.val tag 0x20 fun c s =>
    withIo d.val tag c 96 0 (fun s =>
      match cmdInput s d.val c hostIn with
      | none => finishSt d.val tag stPointer 0 s
      | some r => saLoadRecord d.val tag r s) s))

/-! SA_RETIRE (R171). -/

/-- SA_RETIRE NEXT of a channel whose checks of values and ownership have passed. `drained` counts the slot whose drain
the command has waited for. -/
def retireNext (c d tag drained : Nat) (s : State) : State :=
  if applyNamesChan s c then finishSt d tag stPending 2 s
  else if chanWaits s c then waitDrain c d tag [] s
  else
    let n := if (chan s c).nxt.state = ksEmpty then drained else 1
    finishR0 d tag stDone n (bumpLiveVer (modChan c (fun x => { x with nxt := {} }) s))

/-- SA_RETIRE ALL of such a channel: it waits only while a draining slot still holds frames. -/
def retireAll (c d tag drained : Nat) (s : State) : State :=
  if applyNamesChan s c then finishSt d tag stPending 2 s
  else if (bindOf (liveBank s) c).isSome then finishSt d tag stBound 0 s
  else if chanWaits s c && drainBusy s c then waitDrain c d tag [] s
  else
    let x := chan s c
    let n := b2n (x.cur.state != ksEmpty) + (if x.nxt.state = ksEmpty then drained else 1)
    finishR0 d tag stDone n (bumpLiveVer (modChan c (fun x =>
      { x with cur := {}, nxt := {}, endCause := 0, owner := none }) s))

/-- The checks of values and ownership of an SA_RETIRE. -/
def retireWith (d tag : Nat) (f : Nat → State → State) (c : Cmd) (s : State) : State :=
  let n := pLe c.pkt 0 2
  if 8191 < n then badValue d tag c 0 s
  else if 1 < pByte c.pkt 2 then badValue d tag c 2 s
  else if !mayUse (chan s n).owner d then finishSt d tag stNotOwner 0 s
  else f n s

/-- SA_RETIRE with SCOPE NEXT, or with a scope out of range. -/
def execSaRetireNext (d : DoorId) (tag : Nat) (s : State) : Host.Outcome State Fault Refusal :=
  .next (live s (dispatchIf d.val tag 0x21 (fun c => pByte c.pkt 2 != 1)
    (retireWith d.val tag fun n => retireNext n d.val tag 0)))

/-- SA_RETIRE with SCOPE ALL. -/
def execSaRetireAll (d : DoorId) (tag : Nat) (s : State) : Host.Outcome State Fault Refusal :=
  .next (live s (dispatchIf d.val tag 0x21 (fun c => pByte c.pkt 2 == 1)
    (retireWith d.val tag fun n => retireAll n d.val tag 0)))

/-- Resume the commands that wait on a channel, in dispatch order, once its next slot no longer drains (R170, R171). -/
def resumeWaits (c : Nat) (s : State) : State :=
  if chanWaits s c && drainBusy s c then s
  else
    let mine := s.keys.waits.filter fun w => w.1 == c
    let s1 := { s with keys := { s.keys with waits := s.keys.waits.filter fun w => w.1 != c } }
    mine.foldl (fun x w =>
      match findCmd x w.2.1 w.2.2 with
      | none => x
      | some k =>
        if k.opcode = 0x20 then loadAsk w.2.1 w.2.2 k.input x
        else if pByte k.pkt 2 = 1 then retireAll c w.2.1 w.2.2 1 x
        else retireNext c w.2.1 w.2.2 1 x) s1

/-- KEY_DRAIN_EMPTY: the DRAINING slot of an encrypt channel empties when its frames have left (R172); a decrypt slot
whose grace is over empties when the frames dealt to it have been released. -/
def execKeyDrainEmpty (c : Fin 8192) (s : State) : Host.Outcome State Fault Refusal :=
  .next (live s fun s =>
    let x := chan s c.val
    if x.nxt.state ≠ ksDraining then s
    else if chanDir s c.val = 0 then
      if drainBusy s c.val then s else resumeWaits c.val (setChan c.val { x with nxt := {} } s)
    else if x.nxt.graceOver && !kidBusy s x.nxt.kid then setChan c.val { x with nxt := {} } s else s)

/-- RX_GRACE_END: the grace of a decrypt channel's DRAINING slot is over; the slot empties once the frames dealt to it
have been released (R172). -/
def execRxGraceEnd (c : Fin 8192) (s : State) : Host.Outcome State Fault Refusal :=
  .next (live s fun s =>
    let x := chan s c.val
    let grace := match bindOf (liveBank s) c.val with | some b => b.grace | none => 0
    if x.nxt.state ≠ ksDraining ∨ chanDir s c.val = 0 ∨ nowP s - x.nxt.demotedT < grace * 1250000 then s
    else if kidBusy s x.nxt.kid then setChan c.val { x with nxt := { x.nxt with graceOver := true } } s
    else setChan c.val { x with nxt := {} } s)

/-- KEY_AGING of a current key by its lifetime or its packet numbers, once per key (R173). -/
def execKeyAging (c : Fin 8192) (s : State) : Host.Outcome State Fault Refusal :=
  .next (live s fun s =>
    let x := chan s c.val
    let k := x.cur
    let old := k.lifetime != 0 && decide (7 * k.lifetime * 1250000000 ≤ 8 * (nowP s - k.promotedT))
    let pn := if chanDir s c.val = 0 then k.pn else k.h
    if k.state = ksCurrent ∧ k.aged = false ∧ (old = true ∨ 7 * pnLimit s c.val < 8 * pn) then
      raise 161 (setChan c.val { x with cur := { k with aged := true } } s)
    else s)

/-! SA_QUERY (R245, Table 9-2). -/

/-- Whole seconds of lifetime left of a slot. -/
def secondsLeft (s : State) (k : KeySlot) : Nat :=
  if k.lifetime = 0 then 0xFFFFFFFF
  else if k.state = ksCurrent ∨ k.state = ksEnded then
    (k.lifetime * 1250000000 - (nowP s - k.promotedT)) / 1250000000
  else k.lifetime

/-- A channel's record (Table 9-2). -/
def chanRecord (s : State) (c : Nat) : Bytes :=
  let x := chan s c
  let dir := chanDir s c
  let window := match bindOf (liveBank s) c with | some b => b.window | none => 0
  let pn := fun (k : KeySlot) => if dir = 0 then k.pn else k.h
  leBytes 2 c ++ leBytes 1 (match x.owner with | some o => o | none => 0xFF)
    ++ leBytes 1 (b2n (bindOf (liveBank s) c).isSome + 2 * dir + 4 * b2n (applyNamesChan s c)
        + 8 * b2n (isCarrier (liveBank s) c))
    ++ leBytes 1 x.cur.state ++ leBytes 1 x.cur.an ++ leBytes 1 x.nxt.state ++ leBytes 1 x.nxt.an
    ++ leBytes 8 (pn x.cur) ++ leBytes 8 (if dir = 0 then 0 else lowestPn x.cur window) ++ leBytes 8 (pn x.nxt)
    ++ leBytes 4 (secondsLeft s x.cur) ++ leBytes 4 x.nxt.lifetime ++ slotKcv s x.cur ++ slotKcv s x.nxt
    ++ leBytes 2 x.endCause ++ List.replicate 14 0#8

/-- The first channel of a range that a door does not own; door 3 reads every one (R245). -/
def notOwned (s : State) (d first count : Nat) : Option Nat :=
  if d = 3 then none
  else ((List.range count).map fun i => first + i).find? fun c => (chan s c).owner != some d

/-- SA_QUERY. -/
def execSaQuery (d : DoorId) (tag : Nat) (s : State) : Host.Outcome State Fault Refusal :=
  .next (live s (dispatch d.val tag 0x22 fun c s =>
    let first := pLe c.pkt 0 2
    let count := pLe c.pkt 2 2
    withIo d.val tag c 0 (64 * count) (fun s =>
      if 8191 < first then badValue d.val tag c 0 s
      else if !(inRange count 1 (if d = 2 then 256 else 1024)) then badValue d.val tag c 2 s
      else if 8192 < first + count then badValue d.val tag c 0 s
      else match notOwned s d.val first count with
        | some n => finishR0 d.val tag stNotOwner n s
        | none =>
          let out := ((List.range count).map fun i => chanRecord s (first + i)).flatten
          finish d.val tag stDone 0 count 0 0 (some out) s) s))

/-! KE slots (R181, R182, R185). -/

def keSlot (s : State) (k : Nat) : KeSlot := tget {} s.keys.ke k

def setKe (k : Nat) (x : KeSlot) (s : State) : State := { s with keys := { s.keys with ke := tset {} s.keys.ke k x } }

/-- KE slots in state FREE. -/
def keFree (s : State) : Nat := ((List.range 16).filter fun k => (keSlot s k).state == 0).length

/-- State of a slot as commands find it: an expiry that an operation holds back has taken effect for them (R185). -/
def keState (x : KeSlot) : Nat := if x.expired then 2 else x.state

/-- Another door owns a slot that is not FREE (R182). -/
def keBarred (s : State) (d k : Nat) : Bool := d != 3 && (keSlot s k).state != 0 && (keSlot s k).owner != d

/-- An operation already dispatched still runs on the opening of a slot with this serial number. -/
def serialRuns (s : State) (n : Nat) : Bool :=
  (List.range 3).any fun u => (unitQueue s u).any fun q =>
    match findCmd s q.1 q.2 with
    | some c => c.aux.getD 1 0 == n && n != 0
    | none => false

/-- An operation already dispatched still runs on the slot. -/
def keRuns (s : State) (k : Nat) : Bool := serialRuns s (keSlot s k).serial

/-- The slot is abandoned: its secrets, keys and outputs are cleared (R185). -/
def keAbandon (k : Nat) (s : State) : State :=
  let x := keSlot s k
  raise 163 (orReg keFlags 2 (setKe k { state := 2, owner := x.owner, serial := x.serial } s))

/-- KE_OPEN. -/
def execKeOpen (d : DoorId) (tag : Nat) (s : State) : Host.Outcome State Fault Refusal :=
  .next (live s (dispatch d.val tag 0x30 fun c s =>
    let t := pLe c.pkt 0 2
    if !(inRange t 1 600) then badValue d.val tag c 0 s
    else match (List.range 16).find? fun k => (keSlot s k).state == 0 with
      | none => finishSt d.val tag stNoKeSlot 0 s
      | some k =>
        let (n, s1) := takeSerial s
        finishR0 d.val tag stDone k
          (setKe k { state := 1, owner := d.val, timeout := t, opened := nowP s, serial := n } s1)))

/-- The timeout of a slot has passed: TIMEOUT seconds since KE_OPEN (R185). -/
def keOver (s : State) (x : KeSlot) : Bool := decide (x.timeout * 1250000000 ≤ nowP s - x.opened)

/-- KE_TIMEOUT: at expiry the slot is abandoned, after the operations already dispatched on it (R185). -/
def execKeTimeout (k : Fin 16) (s : State) : Host.Outcome State Fault Refusal :=
  .next (live s fun s =>
    if (keSlot s k.val).state ≠ 1 ∨ keOver s (keSlot s k.val) = false then s
    else if keRuns s k.val then setKe k.val { keSlot s k.val with expired := true } s
    else keAbandon k.val s)

/-- Whole seconds left before a slot's timeout. -/
def keLeft (s : State) (x : KeSlot) : Nat :=
  if keState x = 1 then (x.timeout * 1250000000 - (nowP s - x.opened)) / 1250000000 else 0

/-- The slot record (R181). -/
def keRecord (s : State) (x : KeSlot) : Bytes :=
  let outs := ((List.range 4).map fun i => b2n (tget [] x.outs i != []) * 2 ^ (4 + i)).foldl (· + ·) 0
  leBytes 1 (keState x)
    ++ leBytes 1 (b2n x.ec.isSome + 2 * b2n x.dk.isSome + 4 * b2n x.zEc.isSome + 8 * b2n x.kPq.isSome + outs)
    ++ leBytes 1 x.owner ++ [0#8] ++ leBytes 4 (keLeft s x)

/-! KE_STEP (R180–R183, R250, R251, Table 12-7). -/

def stepOp (c : Cmd) : Nat := pByte c.pkt 1
def stepSlot (c : Cmd) : Nat := pByte c.pkt 0
def stepArg (c : Cmd) : Nat := pByte c.pkt 2
def stepTranscript (c : Cmd) : Bool := bitAt (pByte c.pkt 3) 0
def stepReplace (c : Cmd) : Bool := bitAt (pByte c.pkt 3) 1

/-- A row of Table 12-7: whether it needs a slot (verifications take one with TRANSCRIPT), the range of ARG, the range of
input lengths and the output space. VAULT_WRAP's and MSG_RECV's output is told after ownership. -/
structure StepRow where
  slot : Bool
  verify : Bool := false
  argLo : Nat := 0
  argHi : Nat := 0
  inLo : Nat := 0
  inHi : Nat := 0
  out : Nat := 0
  deriving DecidableEq, Repr

/-- Table 12-7. -/
def stepRow (op : Nat) (transcript : Bool) (d : Nat) : Option StepRow :=
  let big := if d = 2 then 16384 else 1048576
  match op with
  | 0x00 => some { slot := true, out := 8 }
  | 0x01 => some { slot := true, out := 97 }
  | 0x02 => some { slot := true, inLo := 97, inHi := 97 }
  | 0x03 => some { slot := true, out := 1568 }
  | 0x04 => some { slot := true, inLo := 1568, inHi := 1568, out := 1568 }
  | 0x05 => some { slot := true, inLo := 1568, inHi := 1568 }
  | 0x06 => some { slot := true, inLo := 1, inHi := big }
  | 0x07 => some { slot := true, argHi := 3, inHi := 64 }
  | 0x08 => some { slot := true, argLo := 1, argHi := 15, out := 96 }
  | 0x10 => some { slot := false, inHi := big, out := 48 }
  | 0x11 => some { slot := transcript, verify := true, inLo := 193, inHi := if transcript then 193 else big }
  | 0x12 => some { slot := transcript, verify := true, inLo := 7219, inHi := if transcript then 7219 else big }
  | 0x13 => some { slot := false, argLo := 1, argHi := 15, out := 97 }
  | 0x14 => some { slot := false, argLo := 1, argHi := 15 }
  | 0x15 => some { slot := false, argHi := 7, inLo := 1, inHi := 450 }
  | 0x16 => some { slot := false, argHi := 7 }
  | _ => none

/-- The opcodes of Table 9-5. -/
def stepKnown (op : Nat) : Bool := decide (op ≤ 8) || inRange op 0x10 0x16

/-- The first parameter at fault of a KE_STEP. -/
def stepValueFault (c : Cmd) (r : StepRow) : Option Nat :=
  let slot := stepSlot c
  let op := stepOp c
  if (if r.slot then 15 < slot else slot != 0xFF) then some 0
  else if !(inRange (stepArg c) r.argLo r.argHi) then some 2
  else if (stepTranscript c && !r.verify) || (stepReplace c && op != 0x13) then some 3
  else none

/-- Does ownership bar a door from what a KE_STEP names (R182, R176, R187, R188)? -/
def stepBarred (s : State) (d : Nat) (c : Cmd) (r : StepRow) : Bool :=
  let arg := stepArg c
  let op := stepOp c
  (r.slot && keBarred s d (stepSlot c))
    || ((op == 0x08 || op == 0x13 || op == 0x14) && vaultBarred s d arg)
    || (op == 0x15 && !mayUse (portOwner s (8 + arg)) d)
    || (op == 0x16 && d != 3 && portOwner s (8 + arg) != some d)

/-- The input of a command, read after its checks: where it cannot be read, 0x47 (R242). -/
def withInput (d tag : Nat) (c : Cmd) (hostIn : Option Bytes) (f : Bytes → State → State) (s : State) : State :=
  match cmdInput s d c hostIn with
  | none => finishSt d tag stPointer 0 s
  | some bs => f bs s

/-- The checks of a KE_STEP up to ownership, then `f`. -/
def keStep (d tag : Nat) (f : State → State) (c : Cmd) (s : State) : State :=
  if !pointersOk d c.pkt then finishSt d tag stPointer 0 s
  else match stepRow (stepOp c) (stepTranscript c) d with
    | none => badValue d tag c 1 s
    | some r =>
      let n := pktInLen c.pkt
      if !inRange n r.inLo r.inHi then finishR0 d tag stLength r.inHi s
      else if pktOutLen c.pkt < r.out then finishR0 d tag stLength r.out s
      else match stepValueFault c r with
        | some o => badValue d tag c o s
        | none =>
          if stepBarred s d c r then finishSt d tag stNotOwner 0 s else f s

/-- A KE_STEP on a slot: it must be OPEN and its inputs present; then its input is read and the operation joins its unit
(R182, R242). -/
def keSlotStep (d tag u : Nat) (c : Cmd) (hostIn : Option Bytes) (present : KeSlot → Bool) (s : State) : State :=
  let x := keSlot s (stepSlot c)
  if keState x ≠ 1 ∨ present x = false then finishSt d tag stKeState (keState x) s
  else withInput d tag c hostIn (joinUnit d tag u [stepSlot c, x.serial]) s

/-- A KE_STEP that needs no slot: its input is read and the operation joins its unit. -/
def keFreeStep (d tag u : Nat) (c : Cmd) (hostIn : Option Bytes) (s : State) : State :=
  withInput d tag c hostIn (joinUnit d tag u [0xFF, 0]) s

/-- A dispatched KE_STEP of one operation. -/
def stepIs (op : Nat) (c : Cmd) : Bool := stepOp c == op

/-- KE_STEP STATUS, or with an operation that does not exist. -/
def execKeStatus (d : DoorId) (tag : Nat) (s : State) : Host.Outcome State Fault Refusal :=
  .next (live s (dispatchIf d.val tag 0x31 (fun c => stepOp c == 0 || !stepKnown (stepOp c)) fun c s =>
    keStep d.val tag (fun s =>
      finish d.val tag stDone 0 8 0 0 (some (keRecord s (keSlot s (stepSlot c)))) s) c s))

/-- KE_STEP EC_KEYGEN. -/
def execEcKeygen (d : DoorId) (tag : Nat) (s : State) : Host.Outcome State Fault Refusal :=
  .next (live s (dispatchIf d.val tag 0x31 (stepIs 1) fun c =>
    keStep d.val tag (keSlotStep d.val tag 0 c none fun _ => true) c))

/-- KE_STEP EC_DH needs the ephemeral key. -/
def execEcDh (d : DoorId) (tag : Nat) (hostIn : Option Bytes) (s : State) : Host.Outcome State Fault Refusal :=
  .next (live s (dispatchIf d.val tag 0x31 (stepIs 2) fun c =>
    keStep d.val tag (keSlotStep d.val tag 0 c hostIn fun x => x.ec.isSome) c))

/-- KE_STEP KEM_KEYGEN. -/
def execKemKeygen (d : DoorId) (tag : Nat) (s : State) : Host.Outcome State Fault Refusal :=
  .next (live s (dispatchIf d.val tag 0x31 (stepIs 3) fun c =>
    keStep d.val tag (keSlotStep d.val tag 1 c none fun _ => true) c))

/-- KE_STEP KEM_ENCAPS. -/
def execKemEncaps (d : DoorId) (tag : Nat) (hostIn : Option Bytes) (s : State) : Host.Outcome State Fault Refusal :=
  .next (live s (dispatchIf d.val tag 0x31 (stepIs 4) fun c =>
    keStep d.val tag (keSlotStep d.val tag 1 c hostIn fun _ => true) c))

/-- KE_STEP KEM_DECAPS needs the decapsulation key. -/
def execKemDecaps (d : DoorId) (tag : Nat) (hostIn : Option Bytes) (s : State) : Host.Outcome State Fault Refusal :=
  .next (live s (dispatchIf d.val tag 0x31 (stepIs 5) fun c =>
    keStep d.val tag (keSlotStep d.val tag 1 c hostIn fun x => x.dk.isSome) c))

/-- KE_STEP TRANSCRIPT. -/
def execTranscript (d : DoorId) (tag : Nat) (hostIn : Option Bytes) (s : State) : Host.Outcome State Fault Refusal :=
  .next (live s (dispatchIf d.val tag 0x31 (stepIs 6) fun c =>
    keStep d.val tag (keSlotStep d.val tag 2 c hostIn fun _ => true) c))

/-- KE_STEP DERIVE needs both secrets (R183). -/
def execDerive (d : DoorId) (tag : Nat) (hostIn : Option Bytes) (s : State) : Host.Outcome State Fault Refusal :=
  .next (live s (dispatchIf d.val tag 0x31 (stepIs 7) fun c =>
    keStep d.val tag (keSlotStep d.val tag 2 c hostIn fun x => x.zEc.isSome && x.kPq.isSome) c))

/-- KE_STEP SIGN: the vault entry must hold a P-384 key (R251). -/
def execSign (d : DoorId) (tag : Nat) (s : State) : Host.Outcome State Fault Refusal :=
  .next (live s (dispatchIf d.val tag 0x31 (stepIs 8) fun c =>
    keStep d.val tag (fun s =>
      let x := keSlot s (stepSlot c)
      if keState x = 1 ∧ (vaultAt s (stepArg c)).p384 = false then finishSt d.val tag stKeState 0x10 s
      else keSlotStep d.val tag 0 c none (fun _ => true) s) c))

/-- KE_STEP SHA384. -/
def execSha384 (d : DoorId) (tag : Nat) (hostIn : Option Bytes) (s : State) : Host.Outcome State Fault Refusal :=
  .next (live s (dispatchIf d.val tag 0x31 (stepIs 0x10) fun c =>
    keStep d.val tag (keFreeStep d.val tag 2 c hostIn) c))

/-- KE_STEP ECDSA_VERIFY. -/
def execEcdsaVerify (d : DoorId) (tag : Nat) (hostIn : Option Bytes) (s : State) : Host.Outcome State Fault Refusal :=
  .next (live s (dispatchIf d.val tag 0x31 (stepIs 0x11) fun c =>
    keStep d.val tag (fun s =>
      if stepTranscript c then keSlotStep d.val tag 0 c hostIn (fun _ => true) s
      else keFreeStep d.val tag 0 c hostIn s) c))

/-- KE_STEP MLDSA_VERIFY. -/
def execMldsaVerify (d : DoorId) (tag : Nat) (hostIn : Option Bytes) (s : State) : Host.Outcome State Fault Refusal :=
  .next (live s (dispatchIf d.val tag 0x31 (stepIs 0x12) fun c =>
    keStep d.val tag (fun s =>
      if stepTranscript c then keSlotStep d.val tag 1 c hostIn (fun _ => true) s
      else keFreeStep d.val tag 1 c hostIn s) c))

/-- KE_STEP VAULT_KEYGEN: a full entry needs REPLACE (R176). -/
def execVaultKeygen (d : DoorId) (tag : Nat) (s : State) : Host.Outcome State Fault Refusal :=
  .next (live s (dispatchIf d.val tag 0x31 (stepIs 0x13) fun c =>
    keStep d.val tag (fun s =>
      if vaultFull s (stepArg c) && !stepReplace c then finishSt d.val tag stPending 1 s
      else keFreeStep d.val tag 0 c none s) c))

/-- KE_STEP VAULT_WRAP: its output length follows the entry's kind, told after ownership (R178, R242, R251). -/
def execVaultWrap (d : DoorId) (tag : Nat) (s : State) : Host.Outcome State Fault Refusal :=
  .next (live s (dispatchIf d.val tag 0x31 (stepIs 0x14) fun c =>
    keStep d.val tag (fun s =>
      let need := if (vaultAt s (stepArg c)).p384 then 56 else 40
      if !vaultFull s (stepArg c) then finishSt d.val tag stKeState 0x10 s
      else if pktOutLen c.pkt < need then finishR0 d.val tag stLength need s
      else keFreeStep d.val tag 2 c none s) c))

/-- KE_STEP MSG_SEND (R187). -/
def execMsgSend (d : DoorId) (tag : Nat) (hostIn : Option Bytes) (s : State) : Host.Outcome State Fault Refusal :=
  .next (live s (dispatchIf d.val tag 0x31 (stepIs 0x15) fun c =>
    keStep d.val tag (fun s =>
      let q := stepArg c
      if !isCal (liveBank s) q then finishSt d.val tag stNotCalender 0 s
      else if 16 ≤ (cal s q).sendq.length then finishSt d.val tag stQueueFull 0 s
      else withInput d.val tag c hostIn (fun bs s =>
        finishSt d.val tag stDone 0 (modCal q (fun x => { x with sendq := x.sendq ++ [bs] }) s)) s) c))

/-- KE_STEP MSG_RECV (R188): RES1 reports the messages dropped since the last one. -/
def execMsgRecv (d : DoorId) (tag : Nat) (s : State) : Host.Outcome State Fault Refusal :=
  .next (live s (dispatchIf d.val tag 0x31 (stepIs 0x16) fun c =>
    keStep d.val tag (fun s =>
      let q := stepArg c
      let x := cal s q
      match x.recvq with
      | [] => finish d.val tag stDoneNote 0x44 0 x.dropped 0 none (setCal q { x with dropped := 0 } s)
      | (m, isOpen) :: rest =>
        if pktOutLen c.pkt < m.length then finishR0 d.val tag stLength m.length s
        else finish d.val tag stDone 0 (m.length + (if isOpen then 2 ^ 31 else 0)) x.dropped 0 (some m)
          (setCal q { x with recvq := rest, dropped := 0 } s)) c))

/-! Results of the operations (R181, R183). -/

/-- What an operation on a slot answers: the slot after it, or the way it fails. -/
inductive StepResult where
  /-- DONE with output data. -/
  | done (x : KeSlot) (out : Option Bytes)
  /-- DONE_NOTE with a DETAIL; nothing changes. -/
  | note (detail : Nat)
  /-- 0x67 with a DETAIL. -/
  | state (detail : Nat)
  deriving DecidableEq, Repr

/-- The transcript hash of a slot. -/
def transcriptHash (x : KeSlot) : Bytes := fitBytes 48 (sha384 x.transcript)

/-- The verdict of a signature check. -/
def verdict (x : KeSlot) (v : Option Bool) : StepResult :=
  match v with
  | none => .note 0x40
  | some true => .done x none
  | some false => .note 0x41

/-- The result of an operation with the slot `x` it names, its input and the run's random supply. -/
def stepResult (s : State) (c : Cmd) (x : KeSlot) : StepResult :=
  let bs := c.input
  let rnd := Config.freeBytes s.freeCtr
  match stepOp c with
  | 0x01 =>
    let sc := p384Scalar (rnd 48)
    .done { x with ec := some sc } (some (p384Public sc))
  | 0x02 =>
    match x.ec with
    | none => .state (keState x)
    | some sc =>
      match p384Dh sc bs with
      | none => .note 0x40
      | some z => .done { x with zEc := some (fitBytes 48 z), ec := none } none
  | 0x03 =>
    let k := mlkemKeygen (rnd 64)
    .done { x with dk := some k.2 } (some (fitBytes 1568 k.1))
  | 0x04 =>
    match mlkemEncaps bs (rnd 32) with
    | none => .note 0x40
    | some r => .done { x with kPq := some (fitBytes 32 r.2) } (some (fitBytes 1568 r.1))
  | 0x05 =>
    match x.dk with
    | none => .state (keState x)
    | some dk => .done { x with kPq := some (fitBytes 32 (mlkemDecaps dk bs)), dk := none } none
  | 0x06 => .done { x with transcript := x.transcript ++ bs } none
  | 0x07 =>
    match x.zEc, x.kPq with
    | some z, some k =>
      .done { x with outs := tset [] x.outs (stepArg c) (fitBytes 44 (hkdf384 (transcriptHash x) (z ++ k) bs 44)) } none
    | _, _ => .state (keState x)
  | 0x08 =>
    let v := vaultAt s (stepArg c)
    if v.p384 then .done x (some (p384Sign v.key (transcriptHash x) (p384Scalar (rnd 48)))) else .state 0x10
  | 0x10 => .done x (some (fitBytes 48 (sha384 bs)))
  | 0x11 =>
    let digest := if stepTranscript c then transcriptHash x else fitBytes 48 (sha384 (bs.drop 193))
    verdict x (p384Verify (bs.take 97) (slice bs 97 96) digest)
  | 0x12 =>
    let msg := if stepTranscript c then transcriptHash x else bs.drop 7219
    verdict x (some (mldsaVerify (bs.take 2592) (slice bs 2592 4627) msg))
  | _ => .done x none

/-- VAULT_KEYGEN and VAULT_WRAP at their completion (R176, R178). -/
def vaultStep (d tag : Nat) (c : Cmd) (s : State) : State :=
  let n := stepArg c
  if stepOp c = 0x13 then
    if vaultFull s n && !stepReplace c then finishSt d tag stPending 1 s
    else
      let sc := p384Scalar (Config.freeBytes s.freeCtr 48)
      finish d tag stDone 0 97 0 0 (some (p384Public sc))
        (freeNext (setVault n { key := sc, p384 := true, owner := d } s))
  else if !vaultFull s n then finishSt d tag stKeState 0x10 s
  else
    let v := vaultAt s n
    let out := fitBytes (if v.p384 then 56 else 40) (keyWrap s.keys.v0 v.key)
    finish d tag stDone 0 out.length 0 0 (some out) s

/-- The slot that a KE_STEP was dispatched on, as it finds it at its completion: the slot it names, or what that slot held
when it was freed meanwhile. -/
def stepOn (s : State) (c : Cmd) : KeSlot :=
  let x := keSlot s (c.aux.headD 0xFF)
  let n := c.aux.getD 1 0
  if x.serial = n then x else ((s.keys.closed.find? fun y => y.serial == n).getD {})

/-- Write that slot back. -/
def stepBack (c : Cmd) (y : KeSlot) (s : State) : State :=
  let k := c.aux.headD 0xFF
  if c.aux.getD 1 0 = 0 then s
  else if (keSlot s k).serial = y.serial then setKe k y s
  else { s with keys := { s.keys with closed := updWhere s.keys.closed (fun x => x.serial == y.serial) (fun _ => y) } }

/-- A KE_STEP completes on its unit: outputs are delivered and the slot changes (R181, R185). -/
def keStepDone (d tag : Nat) (c : Cmd) (s : State) : State :=
  match stepResult s c (stepOn s c) with
  | .note det => finishSt d tag stDoneNote det s
  | .state det => finishSt d tag stKeState det s
  | .done y out =>
    let s1 := freeNext (stepBack c y s)
    match out with
    | some bs => finish d tag stDone 0 bs.length 0 0 (some bs) s1
    | none => finishSt d tag stDone 0 s1

/-- A slot whose timeout has passed is abandoned once no operation runs on it (R185). -/
def keExpire (k : Nat) (s : State) : State :=
  if (keSlot s k).expired && !keRuns s k then keAbandon k s else s

/-- What an operation leaves behind it: expiries that waited for it follow (R185), and a freed slot's contents that no
operation works on are gone. -/
def keSettle (s : State) : State :=
  let s1 := (List.range 16).foldl (fun x k => keExpire k x) s
  { s1 with keys := { s1.keys with closed := s1.keys.closed.filter fun y => serialRuns s1 y.serial } }

/-- A slot becomes FREE. An expiry that an operation holds back is reported; the operation goes on with what the slot held
(R184, R185, R189). -/
def keFreed (k : Nat) (s : State) : State :=
  let x := keSlot s k
  let s1 := if keRuns s k then { s with keys := { s.keys with closed := s.keys.closed ++ [x] } } else s
  let s2 := setKe k {} s1
  if x.expired then raise 163 (orReg keFlags 2 s2) else s2

/-! KE_CLOSE (R184, R252). -/

/-- A field of a pair record at fault: its offset in the record (Table 12-6, R249). -/
def pairFault (s : State) (r : Bytes) : Option Nat :=
  let dest := byteAt r 1
  let idx := leAt r 2 2
  let unused := fun lo hi => if dest = 1 then nonZero r lo hi else []
  leastOf (viol (3 < byteAt r 0) 0 ++ viol (1 < dest) 1
    ++ viol (if dest = 1 then !(inRange idx 1 15) else 8191 < idx) 2 ++ viol (1 < byteAt r 4) 4
    ++ viol (if dest = 1 then byteAt r 5 != 0 else 3 < byteAt r 5) 5 ++ nonZero r 6 8
    ++ unused 8 12 ++ unused 12 16 ++ unused 16 24
    ++ viol (dest == 0 && !(inRange (leAt r 16 8) 1 (pnLimit s idx))) 16)

/-- An SA_LOAD dispatched earlier is filling this destination: a commit finds it filled (chapter 9, Edges). -/
def loadQueued (s : State) (dest idx : Nat) : Bool :=
  (unitQueue s 2).any fun q =>
    match findCmd s q.1 q.2 with
    | some c => c.opcode == 0x20 && byteAt c.input 2 == dest && leAt c.input 0 2 == idx
    | none => false

/-- The check of one pair: status and low DETAIL bits (R184, R252). -/
def pairCheck (s : State) (d : Nat) (x : KeSlot) (r : Bytes) : Option (Nat × Nat) :=
  let idx := leAt r 2 2
  let replace := bitAt (byteAt r 4) 0
  let isChan := byteAt r 1 == 0
  let taken := !replace && loadQueued s (byteAt r 1) idx
  if isChan && d != 3 && !bitAt (door s d).grant 2 then some (stNotGranted, 0)
  else if (if isChan then !mayUse (chan s idx).owner d else vaultBarred s d idx) then some (stNotOwner, 0)
  else if tget [] x.outs (byteAt r 0) = [] then some (stKeState, 1)
  else if isChan then
    match loadCase s idx (byteAt r 5) replace with
    | some e => some e
    | none => if taken then some (stPending, 1) else if chanWaits s idx then some (stPending, 3) else none
  else if (vaultFull s idx && !replace) || taken then some (stPending, 1) else none

/-- Write one pair of a commit. -/
def commitPair (d : Nat) (x : KeSlot) (r : Bytes) (s : State) : State :=
  let out := tget [] x.outs (byteAt r 0)
  let idx := leAt r 2 2
  if byteAt r 1 = 0 then
    modChan idx (fun y => { y with owner := if y.owner = none then some d else y.owner })
      (loadNext idx (byteAt r 5) (leAt r 8 4) (leAt r 12 4) (leAt r 16 8) (out.take 32) (out.drop 32) s)
  else setVault idx { key := out.take 32, p384 := false, owner := d } s

/-- The first pair of a list with a value at fault: its index, and the offset in the input. A second pair of one destination
is at fault at its INDEX (R242, R252). -/
def pairsFault (s : State) (rs : List Bytes) : Option (Nat × Nat) :=
  rs.zipIdx.findSome? fun (r, i) =>
    let again := (rs.take i).any fun e => byteAt e 1 == byteAt r 1 && leAt e 2 2 == leAt r 2 2
    match pairFault s r with
    | some o => some (i, 24 * i + o)
    | none => if again then some (i, 24 * i + 2) else none

/-- The first pair of a list that its destination refuses: its index, status and DETAIL (R184). -/
def pairsRefused (s : State) (d : Nat) (x : KeSlot) (rs : List Bytes) : Option (Nat × Nat × Nat) :=
  rs.zipIdx.findSome? fun (r, i) => (pairCheck s d x r).map fun e => (i, e.1, e.2)

/-- The pairs of a KE_CLOSE input. -/
def splitPairs : Nat → Bytes → List Bytes
  | 0, _ => []
  | n + 1, b => b.take 24 :: splitPairs n (b.drop 24)

/-- KE_CLOSE with its pairs read: all are written, or none. -/
def closeCommit (d tag k : Nat) (rs : List Bytes) (s : State) : State :=
  let x := keSlot s k
  match pairsRefused s d x rs with
  | some (i, st, det) => finishSt d tag st (16 * i + det) s
  | none =>
    let owns := rs.any fun r => byteAt r 1 == 0 && (chan s (leAt r 2 2)).owner == none
    let s1 := rs.foldl (fun y r => commitPair d x r y) s
    let s2 := if owns then bumpLiveVer s1 else s1
    finishR0 d tag stDone rs.length (keFreed k s2)

/-- KE_CLOSE with the values of its packet in range, and its pairs where its input can be read: the checks of R252 in their
order. -/
def closeSlot (d tag k : Nat) (pairs : Option (List Bytes)) (s : State) : State :=
  match pairs.bind (pairsFault s) with
  | some (i, o) => finish d tag stValue (16 * i) (2 ^ 31 + o) 0 0 none s
  | none =>
    if keBarred s d k then finishSt d tag stNotOwner 0 s
    else if keState (keSlot s k) = 0 then finishSt d tag stKeState 0 s
    else if keState (keSlot s k) = 2 then finishSt d tag stDoneNote 0x42 (keFreed k s)
    else match pairs with
      | none => finishSt d tag stPointer 0 s
      | some rs => closeCommit d tag k rs s

/-- KE_CLOSE. -/
def execKeClose (d : DoorId) (tag : Nat) (hostIn : Option Bytes) (s : State) : Host.Outcome State Fault Refusal :=
  .next (live s (dispatch d.val tag 0x32 fun c s =>
    let k := pByte c.pkt 0
    let n := pByte c.pkt 1
    let shape := if n = 0 then !pktPtr c.pkt else pktPtr c.pkt && pktInLen c.pkt == 24 * n
    if !pointersOk d.val c.pkt then finishSt d.val tag stPointer 0 s
    else if !shape then finishR0 d.val tag stLength (24 * n) s
    else if 15 < k then badValue d.val tag c 0 s
    else if 4 < n then badValue d.val tag c 1 s
    else
      let pairs := if n = 0 then some [] else (cmdInput s d.val c hostIn).map (splitPairs n)
      closeSlot d.val tag k pairs s))

/-! ZEROISE (R189–R191). -/

/-- Channels that may hold anything. -/
def listedChans (s : State) : List Nat := s.keys.chans.map (·.1)

/-- The effect of a ZEROISE on a list of channels, the KE slots and the vault entries that tests select, and its three
counts (R189, R190). -/
def zeroise (cs : List Nat) (ke : KeSlot → Bool) (va : Vault → Bool) (s : State) : State × Nat × Nat × Nat :=
  let held := (cs.filter fun c => holdsKey s (chan s c).cur || holdsKey s (chan s c).nxt).length
  let kes := (List.range 16).filter fun k => (keSlot s k).state != 0 && ke (keSlot s k)
  let vs := ((List.range 15).map (· + 1)).filter fun n => vaultFull s n && va (vaultAt s n)
  let s1 := cs.foldl (fun x c => dropChanFrames c (clearChan c x)) s
  let s2 := kes.foldl (fun x k => keFreed k x) s1
  let s3 := vs.foldl (fun x n => setVault n {} x) s2
  (cs.foldl (fun x c => resumeWaits c x) s3, held, kes.length, vs.length)

/-- A ZEROISE completes: LIVE_VER, the pending Apply where the scope reaches it, source 164 and the reply (R87, R94,
R192). -/
def zeroiseEnd (d tag : Nat) (cancels : Bool) (r : State × Nat × Nat × Nat) : State :=
  let (s, n, k, v) := r
  let s1 := bumpLiveVer (if cancels then zeroiseCancels s else s)
  finish d tag stDone 0 n k v none (raise 164 s1)

/-- The parameter checks of a ZEROISE, then `f`. -/
def zeroiseWith (d tag : Nat) (f : Nat → State → State) (c : Cmd) (s : State) : State :=
  let scope := pByte c.pkt 0
  let n := pLe c.pkt 2 2
  if 3 < scope then badValue d tag c 0 s
  else if (if scope = 0 then 8191 < n else n != 0) then badValue d tag c 2 s
  else if 2 ≤ scope ∧ d ≠ 3 then finishSt d tag stNotGranted 1 s
  else f n s

def zeroiseScope (k : Nat) (c : Cmd) : Bool := pByte c.pkt 0 == k

/-- ZEROISE of scope 0, or of a scope out of range. -/
def execZeroiseChannel (d : DoorId) (tag : Nat) (s : State) : Host.Outcome State Fault Refusal :=
  .next (live s (dispatchIf d.val tag 0x23 (fun c => zeroiseScope 0 c || decide (3 < pByte c.pkt 0))
    (zeroiseWith d.val tag fun n s =>
      if d ≠ 3 ∧ (chan s n).owner ≠ some d.val then finishSt d.val tag stNotOwner 0 s
      else zeroiseEnd d.val tag (applyNamesChan s n) (zeroise [n] (fun _ => false) (fun _ => false) s))))

/-- ZEROISE of scope 1: every channel, KE slot and vault entry that the door owns. -/
def execZeroiseOwned (d : DoorId) (tag : Nat) (s : State) : Host.Outcome State Fault Refusal :=
  .next (live s (dispatchIf d.val tag 0x23 (zeroiseScope 1)
    (zeroiseWith d.val tag fun _ s =>
      let cs := (listedChans s).filter fun c => (chan s c).owner == some d.val
      zeroiseEnd d.val tag (cs.any (applyNamesChan s))
        (zeroise cs (fun k => k.owner == d.val) (fun v => v.owner == d.val) s))))

/-- ZEROISE of scope 2: every KE slot. -/
def execZeroiseKe (d : DoorId) (tag : Nat) (s : State) : Host.Outcome State Fault Refusal :=
  .next (live s (dispatchIf d.val tag 0x23 (zeroiseScope 2)
    (zeroiseWith d.val tag fun _ s =>
      zeroiseEnd d.val tag false (zeroise [] (fun _ => true) (fun _ => false) s))))

/-- Both message queues of every dry port are emptied. -/
def clearMessages (s : State) : State :=
  (List.range 8).foldl (fun x q => modCal q (fun c => { c with sendq := [], recvq := [] }) x) s

/-- ZEROISE of scope 3: every channel, KE slot and vault entry, and the message queues. -/
def execZeroiseDevice (d : DoorId) (tag : Nat) (s : State) : Host.Outcome State Fault Refusal :=
  .next (live s (dispatchIf d.val tag 0x23 (zeroiseScope 3)
    (zeroiseWith d.val tag fun _ s =>
      zeroiseEnd d.val tag true (zeroise (listedChans s) (fun _ => true) (fun _ => true) (clearMessages s)))))

/-! The KEYE registers (R193). -/

/-- Two bits of each of sixteen objects as a word. -/
def pairsWord (f : Nat → Nat) : Nat := ((List.range 16).map fun i => f i * 4 ^ i).foldl (· + ·) 0

/-- The value a KEYE register reads as. -/
def keyePeek (o : Nat) (s : State) : Word :=
  match o with
  | 0x000 => w32 (b2n (!(unitQueue s 0).isEmpty) + 2 * b2n (!(unitQueue s 1).isEmpty)
      + 4 * b2n (!(unitQueue s 2).isEmpty) + 8 * b2n s.keys.v0Ready + 16 * keFree s)
  | 0x008 => w32 (((List.range 15).map fun i =>
      b2n (vaultFull s (i + 1)) * 2 ^ (i + 1) + b2n (vaultAt s (i + 1)).p384 * 2 ^ (i + 17)).foldl (· + ·) 0)
  | 0x00C => w32 (pairsWord fun k => (keSlot s k).state)
  | 0x010 => w32 (pairsWord fun k => (keSlot s k).owner % 4)
  | 0x014 => w32 (pairsWord fun n => if n = 0 then 0 else (vaultAt s n).owner % 4)
  | _ => reg s (keyeBase + o)

/-- The side effect of a read of a KEYE register. -/
def keyeReadEffect (o : Nat) (s : State) : State := readClears (keyeBase + o) s

/-- A software write of a KEYE register. -/
def keyeWrite (o : Nat) (v : Word) (s : State) : State := writeTyped (keyeBase + o) false v s

end Sys2Proof.Machine
end

