-- ==== Sys2Proof/Machine/Pair.lean ====
section
/-! DEFINITION. The sentinel pair's registers, its watchdog, and how a class S fault stops it (R283–R299, R304, R434). -/

namespace Sys2Proof.Machine

def pairBase : Nat := 0x40090000
def pairEvents : Nat := pairBase + 0x004
def pairCtrl : Nat := pairBase + 0x008
def pairLast : Nat := pairBase + 0x01C
def pairCounts : Nat := pairBase + 0x028

def setPair (p : Pair) (s : State) : State := { s with pair := p }

def modPair (f : Pair → Pair) (s : State) : State := setPair (f s.pair) s

/-- The pair is in Solo, with one copy marked failed (R299). -/
def solo (s : State) : Bool := s.pair.mode == 2

/-! The watchdog (R294). -/

/-- Milliseconds left, rounded down; while the boot ROM runs, and in its halt, it keeps reloading. -/
def wdogLeft (s : State) : Nat :=
  match s.pair.wdogPaused with
  | some n => n
  | none =>
    if s.idn.booting || s.idn.halted then rfld s (pairBase + 0x010) 0 16
    else (s.pair.wdogTaken * 1250000 - (nowP s - s.pair.wdogStart)) / 1250000

/-- Reload the watchdog with the TIMEOUT in force; it runs. -/
def wdogReload (s : State) : State :=
  modPair (fun p => { p with wdogTaken := rfld s (pairBase + 0x010) 0 16, wdogStart := nowP s, wdogPaused := none,
                             wdogWarned := false }) s

/-- The watchdog pauses. -/
def wdogPause (s : State) : State := modPair (fun p => { p with wdogPaused := some (wdogLeft s) }) s

/-- A write of 0x6B1D to KICK.KEY reloads the watchdog; one that pauses stays paused at the full timeout. -/
def pairKick (v : Word) (s : State) : State :=
  if wfld v 0 16 ≠ 0x6B1D then s
  else match s.pair.wdogPaused with
    | none => wdogReload s
    | some _ => modPair (fun p => { p with wdogPaused := some (rfld s (pairBase + 0x010) 0 16) }) s

/-! Class S faults (R295, R434). -/

/-- One more class S fault, saturating. -/
def countClassS (s : State) : State :=
  let w := reg s pairCounts
  setReg pairCounts (wsetFld w 0 16 (satInc 16 (wfld w 0 16))) s

/-- A restart of the pair begins: the sentinel memories are zeroed (R298). -/
def beginZeroing (s : State) : State :=
  setReg pairLast (wsetFld (reg s pairLast) 10 2 2) (modPair (fun p => { p with handling := .zeroing }) s)

/-- A class S fault stops both copies and begins its handling; one met while they are stopped changes only the outcome
Solo (R295, R434). -/
def stopPair (code kind regNo : Nat) (addr : Word) (s : State) : State :=
  let s1 := raise 181 (countClassS s)
  if s.pair.handling ≠ .run then
    modPair (fun p => { p with noSolo := true }) (setReg pairLast (wsetFld (reg s1 pairLast) 0 8 code) s1)
  else
    let s2 := setRegN pairLast (code + kind * 2 ^ 12 + (if kind = 1 then regNo else 0) * 2 ^ 16) s1
    let s3 := setReg (pairBase + 0x020) s.pair.commit.pc s2
    let s4 := if kind = 0 then setReg (pairBase + 0x024) addr s3 else s3
    let s5 := modPair (fun p => { p with
      handling := .bist, noSolo := false, halted := false, chkHalted := false, haltWanted := false, resyncWanted := false,
      chk := none, lag := 0, queue := [], ovf := false, mode := if p.mode = 3 then 0 else p.mode })
      { wdogPause s4 with core := { s.core with waiting := false } }
    if code = 0x22 then beginZeroing s5 else s5

/-! Registers (R304). -/

/-- A mode request awaits a checkpoint (R292). Replay mode leads back to Tight mode, so that a request for Loose mode waits in
it. -/
def reqPending (s : State) : Bool := !solo s && (if s.pair.mode = 1 then !rbit s pairCtrl 0 else rbit s pairCtrl 0)

/-- The value a PAIR register reads as. -/
def pairPeek (o : Nat) (s : State) : Word :=
  let p := s.pair
  match o with
  | 0x000 => w32 (p.mode + 4 * b2n p.mainB + 8 * b2n p.failedA + 16 * b2n p.failedB + 32 * b2n p.brk
      + 64 * b2n p.dbgSeen + 128 * b2n (reqPending s))
  | 0x014 => 0#32
  | 0x018 => w32 (wdogLeft s)
  | _ => reg s (pairBase + o)

/-- The side effect of a read of a PAIR register. -/
def pairReadEffect (o : Nat) (s : State) : State := readClears (pairBase + o) s

/-- A software write of a PAIR register: a value outside a field's range is ignored; MODE_REQ is ignored in Solo; CTRL.LOCK
never returns to 0 (R292, R304). -/
def pairWrite (o : Nat) (v : Word) (s : State) : State :=
  let locked := rbit s pairCtrl 31
  match o with
  | 0x008 =>
    let old := reg s pairCtrl
    let req := if locked || solo s then wbit old 0 else wbit v 0
    setRegN pairCtrl (b2n req + b2n (locked || wbit v 31) * 2 ^ 31) s
  | 0x00C => if wfld v 0 20 < 256 then s else writeTyped (pairBase + o) locked v s
  | 0x010 => if wfld v 0 16 < 10 then s else writeTyped (pairBase + o) locked v s
  | 0x014 => pairKick v s
  | _ => writeTyped (pairBase + o) locked v s

end Sys2Proof.Machine
end

