-- ==== Sys2Proof/Machine/Layers.lean ====
section
/-! DEFINITION. The compositor and the trust stage: pixel formats, the eight layers, STC surfaces, blending, the budget
governor, the reuse store, the checks of the host window, the seal (R348–R365). -/

namespace Sys2Proof.Machine

/-- Field [lo + len - 1 : lo] of a CMP register. -/
def cfld (s : State) (o lo len : Nat) : Nat := rfld s (cmpBase + o) lo len

/-- Bit `i` of a CMP register. -/
def cbit (s : State) (o i : Nat) : Bool := rbit s (cmpBase + o) i

def modPanel (f : Panel → Panel) (s : State) : State := { s with panel := f s.panel }

/-! Pixels (Tables 17-1, 17-2). A pixel is ARGB8888, B in bits 7:0. -/

/-- A byte of Panel RAM; beyond its end a value of the part's own. -/
def prByte (s : State) (off : Nat) : Byte :=
  if off < panelSize then mget s (panelRam + off) else Config.panelBeyond off

/-- A little-endian value of `n` bytes of Panel RAM. -/
def prLe (s : State) (off n : Nat) : Nat := leNat ((List.range n).map fun i => prByte s (off + i))

def argb (a r g b : Nat) : Nat := b + g * 2 ^ 8 + r * 2 ^ 16 + a * 2 ^ 24

/-- Entry k of the palette, modulo 1,024 (R350). -/
def palette (s : State) (k : Nat) : Nat := (reg s (cmpBase + 0x1000 + 4 * (k % 1024))).toNat

/-- Bytes of a pixel in formats 0 to 3. -/
def fmtBytes (fmt : Nat) : Nat := match fmt with | 0 => 4 | 3 => 1 | _ => 2

/-- A 5-bit and a 6-bit channel as 8 bits. -/
def from5 (v : Nat) : Nat := v * 8 + v / 4
def from6 (v : Nat) : Nat := v * 4 + v / 16

/-- A stored pixel value as ARGB8888; I8 through the palette from `pal` (Table 17-2). -/
def toArgb (s : State) (fmt pal v : Nat) : Nat :=
  match fmt with
  | 0 => v
  | 1 => argb 255 (from5 (fld v 11 5)) (from6 (fld v 5 6)) (from5 (fld v 0 5))
  | 2 => argb (if bitAt v 15 then 255 else 0) (from5 (fld v 10 5)) (from5 (fld v 5 5)) (from5 (fld v 0 5))
  | _ => palette s (pal + v)

/-- An 8-bit channel as `n` bits. -/
def toBits (n v : Nat) : Nat := (v * (2 ^ n - 1) + 127) / 255

/-- An ARGB8888 pixel in formats 0 to 2 (Table 17-2). -/
def fromArgb (fmt p : Nat) : Nat :=
  let a := fld p 24 8
  let r := fld p 16 8
  let g := fld p 8 8
  let b := fld p 0 8
  match fmt with
  | 0 => p
  | 1 => toBits 5 b + toBits 6 g * 2 ^ 5 + toBits 5 r * 2 ^ 11
  | _ => toBits 5 b + toBits 5 g * 2 ^ 5 + toBits 5 r * 2 ^ 10 + (if 128 ≤ a then 2 ^ 15 else 0)

/-! Blending (R350, R361). -/

/-- A layer pixel's effective alpha. -/
def effAlpha (ap ag : Nat) : Nat := (ap * ag + 127) / 255

/-- An EXACT blend of one channel. -/
def blendExact (a c d : Nat) : Nat := (a * c + (255 - a) * d + 127) / 255

/-- A trimmed blend of one channel. -/
def blendTrim (a c d : Nat) : Nat :=
  let a1 := (a * 16 + 127) / 255
  (a1 * c + (16 - a1) * d + 8) / 16

/-- A layer pixel blended over an RGB888 pixel. -/
def blendPx (trim : Bool) (ag p d : Nat) : Nat :=
  let a := effAlpha (fld p 24 8) ag
  let f := if trim then blendTrim a else blendExact a
  argb 0 (f (fld p 16 8) (fld d 16 8)) (f (fld p 8 8) (fld d 8 8)) (f (fld p 0 8) (fld d 0 8))

/-! STC surfaces (R354–R356). -/

/-- KIND and data offset of the block of a surface that holds a pixel. -/
def stcBlock (s : State) (surf sw u v : Nat) : Nat × Nat :=
  let w := prLe s (surf + 4 * (v / 8 * (sw / 8) + u / 8)) 4
  (fld w 0 2, fld w 2 19 * 4)

/-- Are a PALRUN block's runs from an offset in order: within Panel RAM, indexes below `n`, a total of 64? -/
def runsOk (s : State) (n : Nat) : Nat → Nat → Nat → Bool
  | 0, _, _ => false
  | k + 1, off, total =>
    if total = 64 then true
    else if 64 < total ∨ panelSize ≤ off then false
    else
      let b := (prByte s off).toNat
      if n ≤ b % 16 then false else runsOk s n k (off + 1) (total + b / 16 + 1)

/-- The colour index of pixel `p` in the runs from an offset. -/
def runIndex (s : State) : Nat → Nat → Nat → Nat
  | 0, _, _ => 0
  | k + 1, off, p =>
    let b := (prByte s off).toNat
    if p < b / 16 + 1 then b % 16 else runIndex s k (off + 1) (p - (b / 16 + 1))

/-- Colours of a PALRUN block. -/
def palN (s : State) (off : Nat) : Nat := (prByte s off).toNat % 16 + 1

/-- A block is damaged (R356). -/
def stcDamaged (s : State) (kind off : Nat) : Bool :=
  match kind with
  | 0 => decide (panelSize < off + 256)
  | 1 => decide (panelSize < off + 1 + 4 * palN s off) || !runsOk s (palN s off) 65 (off + 1 + 4 * palN s off) 0
  | 2 => decide (panelSize < off + 64) || (List.range 4).any fun q => fld (prLe s (off + 16 * q) 8) 60 4 != 0
  | _ => true

/-- Pixel (x, y) of a FIXED4 block (R355). -/
def fixed4 (s : State) (off x y : Nat) : Nat :=
  let sub := prLe s (off + 16 * (y / 4 * 2 + x / 4)) 16
  let i := fld sub (64 + 4 * (y % 4 * 4 + x % 4)) 4
  let mix := fun (e0 e1 : Nat) => (e0 * (15 - i) + e1 * i + 7) / 15
  let al := fun (lo : Nat) => fld sub lo 6 * 4 + fld sub lo 6 / 16
  argb (mix (al 0) (al 30)) (mix (fld sub 6 8) (fld sub 36 8)) (mix (fld sub 14 8) (fld sub 44 8))
    (mix (fld sub 22 8) (fld sub 52 8))

/-- A pixel of an STC surface; a damaged block's pixels are transparent. -/
def stcPixel (s : State) (surf sw u v : Nat) : Nat :=
  let b := stcBlock s surf sw u v
  if stcDamaged s b.1 b.2 then 0
  else match b.1 with
    | 0 => prLe s (b.2 + 4 * (v % 8 * 8 + u % 8)) 4
    | 1 => prLe s (b.2 + 1 + 4 * runIndex s 64 (b.2 + 1 + 4 * palN s b.2) (v % 8 * 8 + u % 8)) 4
    | _ => fixed4 s b.2 (u % 8) (v % 8)

/-! Bitmap windows (R353). -/

/-- A layer block's surface and window. -/
structure Win where
  mode : Nat
  fmt : Nat
  alpha : Nat
  pal : Nat
  surf : Nat
  stride : Nat
  sw : Nat
  sh : Nat
  x : Nat
  y : Nat
  w : Nat
  h : Nat
  srcX : Nat
  srcY : Nat
  sx : Nat
  sy : Nat
  deriving DecidableEq, Repr

/-- The layer block at a CMP offset. -/
def winAt (s : State) (o : Nat) : Win :=
  { mode := cfld s o 2 2, fmt := cfld s o 4 3, alpha := cfld s o 8 8, pal := cfld s o 16 10
    surf := cfld s (o + 4) 2 19 * 4, stride := cfld s (o + 8) 2 14 * 4
    sw := cfld s (o + 0xC) 0 11, sh := cfld s (o + 0xC) 16 11
    x := cfld s (o + 0x10) 0 11, y := cfld s (o + 0x10) 16 11, w := cfld s (o + 0x14) 0 11, h := cfld s (o + 0x14) 16 11
    srcX := cfld s (o + 0x18) 0 11, srcY := cfld s (o + 0x18) 16 11
    sx := cfld s (o + 0x1C) 0 16, sy := cfld s (o + 0x1C) 16 16 }

/-- A window is scaled (R353). -/
def Win.scaled (w : Win) : Bool := !(w.sx == 0x100 && w.sy == 0x100)

/-- The surface holds no pixel at all, or is an STC surface whose sides are no multiples of 8. -/
def Win.hollow (w : Win) : Bool :=
  w.sw == 0 || w.sh == 0 || (w.fmt == 4 && (w.sw % 8 != 0 || w.sh % 8 != 0))

/-- A surface position, the last column or row beyond it (R353). -/
def Win.clampU (w : Win) (u : Nat) : Nat := if u < w.sw then u else w.sw - 1
def Win.clampV (w : Win) (v : Nat) : Nat := if v < w.sh then v else w.sh - 1

/-- The surface's pixel at a position, expanded to ARGB8888. -/
def surfPixel (s : State) (w : Win) (u v : Nat) : Nat :=
  let u := w.clampU u
  let v := w.clampV v
  if w.hollow then Config.emptyPixel u v % 2 ^ 32
  else if w.fmt = 4 then stcPixel s w.surf w.sw u v
  else toArgb s w.fmt w.pal (prLe s (w.surf + v * w.stride + u * fmtBytes w.fmt) (fmtBytes w.fmt))

/-- The four corners of bilinear sampling at output pixel (i, j): position and weight (R353). -/
def corners (w : Win) (i j : Nat) : List (Nat × Nat × Nat) :=
  let u := w.srcX * 256 + i * w.sx
  let v := w.srcY * 256 + j * w.sy
  let fx := u % 256
  let fy := v % 256
  [(u / 256, v / 256, (256 - fx) * (256 - fy)), (u / 256 + 1, v / 256, fx * (256 - fy)),
   (u / 256, v / 256 + 1, (256 - fx) * fy), (u / 256 + 1, v / 256 + 1, fx * fy)].filter fun c => c.2.2 != 0

/-- EXACT sampling of output pixel (i, j). -/
def sampleExact (s : State) (w : Win) (i j : Nat) : Nat :=
  let ps := (corners w i j).map fun c => (surfPixel s w c.1 c.2.1, c.2.2)
  let ch := fun lo => (ps.foldl (fun t p => t + p.2 * fld p.1 lo 8) 0 + 32768) / 65536
  argb (ch 24) (ch 16) (ch 8) (ch 0)

/-- Where trimmed sampling takes the pixel of output position (i, j). -/
def nearest (w : Win) (i j : Nat) : Nat × Nat :=
  ((w.srcX * 256 + i * w.sx + 128) / 256, (w.srcY * 256 + j * w.sy + 128) / 256)

/-- Trimmed sampling of output pixel (i, j). -/
def sampleTrim (s : State) (w : Win) (i j : Nat) : Nat := surfPixel s w (nearest w i j).1 (nearest w i j).2

/-- Output pixel (i, j) reads a damaged STC block. -/
def sampleDamaged (s : State) (w : Win) (trim : Bool) (i j : Nat) : Bool :=
  w.fmt == 4 && !w.hollow &&
    (if trim then [nearest w i j] else (corners w i j).map fun c => (c.1, c.2.1)).any fun q =>
      let b := stcBlock s w.surf w.sw (w.clampU q.1) (w.clampV q.2)
      stcDamaged s b.1 b.2

/-! A line's work. -/

/-- Groups of 8 pixels. -/
def groups8 (n : Nat) : Nat := (n + 7) / 8

/-- Delivered cycles that runs cost (Table 17-7a). -/
def opsCost (l : List Run) : Nat := l.foldl (fun t o => t + o.setup + o.per * groups8 o.px.length) 0

/-- A colour of a tile or sprite: value 0 is transparent (R351). -/
def palColour (s : State) (base bank p : Nat) (bpp8 : Bool) : Nat :=
  if p = 0 then 0 else palette s (if bpp8 then base + p else base + bank * 16 + p)

/-- The pixel value at an index of packed pixel data, 4 or 8 bits each, left pixel low. -/
def packed (s : State) (off i : Nat) (bpp8 : Bool) : Nat :=
  if bpp8 then (prByte s (off + i)).toNat else (prByte s (off + i / 2)).toNat / 16 ^ (i % 2) % 16

/-- Screen pixel (x, y) of tile plane L1 or L2, whose registers begin at `o` (R351). -/
def tilePixel (s : State) (o x y : Nat) : Nat :=
  let px := (x + cfld s o 0 9) % 512
  let py := (y + cfld s o 16 9) % 512
  let e := prLe s (cfld s (o + 8) 2 19 * 4 + 2 * (py / 8 * 64 + px / 8)) 2
  let tx := if bitAt e 10 then 7 - px % 8 else px % 8
  let ty := if bitAt e 11 then 7 - py % 8 else py % 8
  let bpp8 := cbit s (o + 4) 1
  let tile := cfld s (o + 0xC) 2 19 * 4 + fld e 0 10 * (if bpp8 then 64 else 32)
  palColour s (cfld s (o + 4) 16 10) (fld e 12 4) (packed s tile (ty * 8 + tx) bpp8) bpp8

/-- A tile plane on a line. -/
def tileLayer (s : State) (o y hact : Nat) : Option LayerWork :=
  if !cbit s (o + 4) 0 then none
  else
    let px := (List.range hact).map fun x => tilePixel s o x y
    let run := fun (trim : Bool) =>
      { per := if trim then 4 else 6, alpha := cfld s (o + 4) 8 8, trim := trim, px := px : Run }
    some { mode := cfld s (o + 4) 2 2, exact := [run false], trimd := [run true] }

/-- A sprite's entry words (Table 17-3). -/
def sprite (s : State) (n : Nat) : Nat := prLe s (cfld s 0x034 3 18 * 8 + 8 * n) 8

def spriteSize (e : Nat) : Nat := 8 * 2 ^ fld e 28 2

/-- An enabled sprite covers line `y`. -/
def spriteCovers (e y : Nat) : Bool :=
  let top := toSigned 12 (fld e 16 12)
  bitAt e 15 && decide (top ≤ (y : Int)) && decide ((y : Int) < top + (spriteSize e : Nat))

/-- The sprites drawn on a line, lowest number first, and whether further ones cover it (R352). -/
def spritesOn (s : State) (y : Nat) : List Nat × Bool :=
  let l := ((List.range 128).map (sprite s)).filter fun e => spriteCovers e y
  (l.take 32, decide (32 < l.length))

/-- A sprite's pixel at screen column `x` of line `y`. -/
def spritePixel (s : State) (e x y : Nat) : Nat :=
  let size := spriteSize e
  let i := ((x : Int) - toSigned 12 (fld e 0 12)).toNat
  let j := ((y : Int) - toSigned 12 (fld e 16 12)).toNat
  let i := if bitAt e 30 then size - 1 - i else i
  let j := if bitAt e 31 then size - 1 - j else j
  let bpp8 := bitAt e 51
  palColour s (cfld s 0x030 16 10) (fld e 52 4) (packed s (fld e 32 19 * 4) (j * size + i) bpp8) bpp8

/-- A sprite's run on a line. -/
def spriteRun (s : State) (y hact : Nat) (trim : Bool) (e : Nat) : Run :=
  let left := toSigned 12 (fld e 0 12)
  let lo := (clampInt 0 hact left).toNat
  let hi := (clampInt 0 hact (left + (spriteSize e : Nat))).toNat
  { setup := 8, per := if trim then 4 else 6, x0 := lo, alpha := fld e 56 8, trim := trim
    px := (List.range (hi - lo)).map fun i => spritePixel s e (lo + i) y }

/-- L3 on a line: the sprite of the highest number is drawn first, so that a lower number lies in front (R352). -/
def spriteLayer (s : State) (y hact : Nat) : Option LayerWork :=
  if !cbit s 0x030 0 then none
  else
    let es := (spritesOn s y).1.reverse
    if es.isEmpty then none
    else some { mode := cfld s 0x030 2 2, exact := es.map (spriteRun s y hact false), trimd := es.map (spriteRun s y hact true) }

/-- A bitmap window on a line, its columns limited to [lo, hi). -/
def winLayer (s : State) (o y lo hi : Nat) : Option LayerWork :=
  let w := winAt s o
  let x0 := max w.x lo
  let x1 := min (w.x + w.w) hi
  if !cbit s o 0 || !(decide (w.y ≤ y) && decide (y < w.y + w.h)) || decide (x1 ≤ x0) then none
  else
    let stc := if w.fmt = 4 then 2 else 0
    let cols := (List.range (x1 - x0)).map fun i => x0 + i - w.x
    let run := fun (trim : Bool) =>
      { per := (if trim then 4 else if w.scaled then 12 else 6) + stc, x0 := x0, alpha := w.alpha, trim := trim
        px := cols.map fun i => if trim then sampleTrim s w i (y - w.y) else sampleExact s w i (y - w.y)
        bad := if w.fmt = 4 then cols.map fun i => sampleDamaged s w trim i (y - w.y) else [] : Run }
    some { mode := w.mode, exact := [run false], trimd := [run true] }

/-- L6 on a line: inside the deckle, with the host window open (R357). Whether it is valid is known when the line is sent. -/
def hostLayer (s : State) (y hact : Nat) : Option LayerWork :=
  if cbit s 0x008 1 && decide (cfld s 0x424 0 11 ≤ y) && decide (y ≤ cfld s 0x424 16 11) then
    (winLayer s 0x400 y (cfld s 0x420 0 11) (min hact (cfld s 0x420 16 11 + 1))).map fun l => { l with host := true }
  else none

/-- The layers L1 to L6 that show on line `y`; none while the compositor is off (R348). -/
def lineLayers (s : State) (y : Nat) : List LayerWork :=
  let hact := s.panel.live.hact
  if !cbit s 0x008 0 then []
  else [tileLayer s 0x010 y hact, tileLayer s 0x020 y hact, spriteLayer s y hact, winLayer s 0x040 y 0 hact,
        winLayer s 0x060 y 0 hact, hostLayer s y hact].filterMap id

/-! The budget governor (R363, R364). -/

/-- Eighths of the compositor's cycles removed at present (Table 2-10, R33). -/
def removedEighths (s : State) : Nat :=
  max (if s.clk.droop then 4 else 0) (match s.clk.throttle with | 0 => 0 | 1 => 1 | 2 => 2 | _ => 4)

/-- F, the FCLK cycles of a line. -/
def lineCycles (s : State) : Nat :=
  let t := s.panel.live
  s.clk.pxdivLive * (t.hact + t.hfp + t.hsw + t.hbp) / 8

/-- The spans of a line that different ratios govern: each ratio in force with the FCLK cycle, counted from the compose
start, at which it began. A change whose moment is not given falls at the line's end. -/
def spans (f : Nat) : Nat → List Nat → List Nat → List (Nat × Nat)
  | _, [], _ => []
  | t, e :: r, times => (t, e) :: spans f (min f (max t (times.headD f))) r times.tail

/-- The FCLK cycles elapsed once `used` cycles have been delivered, and the eighths removed at that moment. -/
def elapsed : List (Nat × Nat) → Nat → Nat × Nat
  | [], used => (used, 0)
  | [(t, e)], used => (t + (used * 8 + (7 - e)) / (8 - e), e)
  | (t, e) :: (t', e') :: r, used =>
    let n := (t' - t) * (8 - e) / 8
    if used < n then (t + (used * 8 + (7 - e)) / (8 - e), e) else elapsed ((t', e') :: r) (used - n)

/-- The cycles delivered up to the line start. -/
def deliveredBy (f : Nat) : List (Nat × Nat) → Nat
  | [] => f
  | [(t, e)] => (f - t) * (8 - e) / 8
  | (t, e) :: (t', e') :: r => (t' - t) * (8 - e) / 8 + deliveredBy f ((t', e') :: r)

/-- The cost of layers that follow: EXACT ones EXACT, the others trimmed. -/
def laterCost (l : List LayerWork) : Nat :=
  l.foldl (fun t x => t + opsCost (if x.mode = 0 then x.exact else x.trimd)) 0

/-- Decide each layer in turn: which work it does, and whether any was trimmed (R363). `used` cycles have been delivered,
`tail` is the cost after the last layer. D and r are taken before each layer. -/
def govern (f : Nat) (sp : List (Nat × Nat)) (tail : Nat) : Nat → List LayerWork → List Run × Bool
  | _, [] => ([], false)
  | used, l :: r =>
    let d := f - (elapsed sp used).1
    let exact := l.mode == 0 || decide (opsCost l.exact + laterCost r + tail ≤ d * (8 - (elapsed sp used).2) / 8)
    let ops := if exact then l.exact else l.trimd
    let rest := govern f sp tail (used + opsCost ops) r
    (ops ++ rest.1, !exact || rest.2)

/-- Pixels put over a line from a column on, by a rule of the pixel and the one below it. -/
def overRun (f : Nat → Nat → Nat) : Nat → List Nat → List Nat → List Nat
  | _, _, [] => []
  | 0, p :: ps, d :: ds => f p d :: overRun f 0 ps ds
  | 0, [], ds => ds
  | x + 1, ps, d :: ds => d :: overRun f x ps ds

/-- A line while it is composed: cycles used, its pixels, whether the budget ran out, whether a damaged block was met. -/
structure Draft where
  used : Nat
  px : List Nat
  ovr : Bool := false
  bad : Bool := false

/-- Draw one run as far as the budget goes (R364). -/
def drawRun (budget : Nat) (a : Draft) (o : Run) : Draft :=
  let start := a.used + o.setup
  let want := groups8 o.px.length
  let got := if budget < start then 0 else min want ((budget - start) / o.per)
  { used := min budget (start + o.per * want)
    px := overRun (blendPx o.trim o.alpha) o.x0 (o.px.take (8 * got)) a.px
    ovr := a.ovr || decide (budget < start + o.per * want)
    bad := a.bad || (o.bad.take (8 * got)).any id }

/-- L0 alone: the backdrop across a line. -/
def backdropLine (s : State) : List Nat := List.replicate s.panel.live.hact (cfld s 0x00C 0 24)

/-- A line as L0–L6 give it under a list of work and a budget. -/
def composeLine (backdrop : List Nat) (ops : List Run) (budget : Nat) : Draft :=
  ops.foldl (drawRun budget) { used := min budget 64, px := backdrop, ovr := decide (budget < 64) }

/-- A line with every layer EXACT and no limit (R365). -/
def exactLine (backdrop : List Nat) (layers : List LayerWork) : List Nat :=
  (layers.flatMap (·.exact)).foldl (fun px o => overRun (blendPx false o.alpha) o.x0 o.px px) backdrop

/-! The reuse store (R362). -/

/-- Is line `y` in the reuse band? -/
def inBand (s : State) (y : Nat) : Bool :=
  decide (cfld s 0x124 0 11 ≤ y) && decide (y < cfld s 0x124 0 11 + cfld s 0x124 16 11)

/-- Where the reuse store holds line `y`. -/
def reuseOff (s : State) (y : Nat) : Nat :=
  cfld s 0x128 2 19 * 4 + (y - cfld s 0x124 0 11) * s.panel.live.hact * 3

/-- The compositor writes a byte: within Panel RAM and outside the protection range only. -/
def storeByte (off : Nat) (b : Byte) (s : State) : State :=
  if panelSize ≤ off ∨ inRange off (cfld s 0x480 0 21) (cfld s 0x484 0 21) = true then s else mset (panelRam + off) b s

def storePixels (off : Nat) (px : List Nat) (s : State) : State :=
  match px with
  | [] => s
  | p :: r => storePixels (off + 3) r
      (storeByte (off + 2) (BitVec.ofNat 8 (p / 2 ^ 16)) (storeByte (off + 1) (BitVec.ofNat 8 (p / 2 ^ 8))
        (storeByte off (BitVec.ofNat 8 p) s)))

/-- The reuse store holds line `y` of the previous frame and nothing of R362 has changed since its compose start. -/
def storeSame (s : State) (y serial : Nat) : Bool :=
  match s.panel.lines.find? fun e => e.1 == y with
  | some (_, fr, c) => fr + 1 == serial && c == s.panel.chg
  | none => false

/-! The host window's checks (R358). -/

/-- First and last byte of a surface span; none for an empty surface. -/
def span (surf stride w h bpp : Nat) : Option (Nat × Nat) :=
  if w = 0 ∨ h = 0 then none else some (surf, surf + stride * (h - 1) + w * bpp - 1)

/-- A span lies inside the protection range. -/
def inProt (s : State) (p : Option (Nat × Nat)) : Bool :=
  match p with
  | none => true
  | some (lo, hi) => decide (cfld s 0x480 0 21 ≤ lo) && decide (hi ≤ cfld s 0x484 0 21)

/-- The deckle and a rectangle of the screen intersect. -/
def deckleMeets (s : State) (x y w h : Nat) : Bool :=
  let x0 := cfld s 0x420 0 11
  let x1 := cfld s 0x420 16 11
  let y0 := cfld s 0x424 0 11
  let y1 := cfld s 0x424 16 11
  decide (x0 ≤ x1) && decide (y0 ≤ y1) && decide (max x x0 < min (x + w) (x1 + 1)) && decide (max y y0 < min (y + h) (y1 + 1))

def heartSize (s : State) : Nat := 8 * 2 ^ cfld s 0x470 1 2

/-- L7's registers as a window, unscaled and without global alpha (R359). -/
def trustWin (s : State) : Win :=
  { mode := 0, fmt := cfld s 0x430 4 3, alpha := 255, pal := cfld s 0x430 16 10, surf := cfld s 0x434 2 19 * 4
    stride := cfld s 0x438 2 14 * 4, sw := cfld s 0x440 0 11, sh := cfld s 0x440 16 11
    x := cfld s 0x43C 0 11, y := cfld s 0x43C 16 11, w := cfld s 0x440 0 11, h := cfld s 0x440 16 11
    srcX := 0, srcY := 0, sx := 0x100, sy := 0x100 }

/-- Checks (a) to (d) of R358. -/
def cfgOk (s : State) : Bool :=
  let w := winAt s 0x400
  let t := trustWin s
  let n := heartSize s
  let a := match span w.surf w.stride w.sw w.sh (fmtBytes w.fmt) with
    | none => true
    | some (lo, hi) => decide (hi < panelSize) && (decide (hi < cfld s 0x480 0 21) || decide (cfld s 0x484 0 21 < lo)
        || decide (cfld s 0x484 0 21 < cfld s 0x480 0 21))
  let b := !deckleMeets s (cfld s 0x450 0 11) (cfld s 0x450 16 11) (cfld s 0x454 0 8) (cfld s 0x454 16 7)
    && !(cbit s 0x470 0 && deckleMeets s (cfld s 0x474 0 11) (cfld s 0x474 16 11) n n)
  let c := inProt s (span t.surf t.stride t.sw t.sh (fmtBytes t.fmt))
  let image := fun off => inProt s (some (off, off + n * n * 4 - 1))
  let base := cfld s 0x458 2 19 * 4
  a && b && c && image (cfld s 0x478 2 19 * 4) && image (cfld s 0x47C 2 19 * 4)
    && inProt s (some (base, base + 16 * cfld s 0x454 0 8 * cfld s 0x454 16 7 - 1))

/-- Make the checks: one that fails hides L6 for the frame; a change from valid to invalid sets CFG_REJECT and raises
source 61. -/
def checkCfg (s : State) : State :=
  let ok := cfgOk s
  let s1 := modPanel (fun p => { p with cfgValid := ok, l6Ok := p.l6Ok && ok }) s
  if s.panel.cfgValid && !ok then raise 61 (putBit (cmpBase + 0x004) 4 true s1) else s1

/-! The trust stage (R359, R360). -/

/-- A rectangle of the screen holds line `y`. -/
def rows (y top h : Nat) : Bool := decide (top ≤ y) && decide (y < top + h)

/-- What the trust stage reads for line `y` during the line before it, with the registers of its compose start. -/
def trustRow (s : State) (y : Nat) : TrustRow :=
  let hact := s.panel.live.hact
  let t := trustWin s
  let n := heartSize s
  let hx := cfld s 0x474 0 11
  let hy := cfld s 0x474 16 11
  let img := cfld s (if s.panel.heart / cfld s 0x470 8 8 % 2 = 0 then 0x478 else 0x47C) 2 19 * 4
  let sx := cfld s 0x450 0 11
  let sy := cfld s 0x450 16 11
  let w := cfld s 0x454 0 8
  let h := cfld s 0x454 16 7
  { l7 := (t.x, if cbit s 0x430 0 && rows y t.y t.h then
      (List.range (min t.w (hact - t.x))).map fun i => surfPixel s t i (y - t.y) else [])
    heart := (hx, if cbit s 0x470 0 && rows y hy n then
      (List.range (min n (hact - hx))).map fun i => prLe s (img + 4 * ((y - hy) * n + i)) 4 else [])
    image := (sx, if cbit s 0x45C 8 && rows y sy h then
      (List.range 4).map fun k => (List.range (min w (hact - sx))).map fun i =>
        prLe s (cfld s 0x458 2 19 * 4 + k * w * h * 4 + 4 * ((y - sy) * w + i)) 4 % 2 ^ 24 else []) }

/-- L7, the heartbeat and the seal of state `k` over a composed line (R359). -/
def trustOver (k : Nat) (r : TrustRow) (px : List Nat) : List Nat :=
  let a := overRun (blendPx false 255) r.l7.1 r.l7.2 px
  let b := overRun (blendPx false 255) r.heart.1 r.heart.2 a
  overRun (fun p _ => p) r.image.1 (r.image.2.getD k []) b

/-- The seal state of Table 17-5. -/
def sealState (s : State) : Nat :=
  if s.pair.handling != .run || s.pair.halted || decide (cfld s 0x45C 0 8 ≤ s.panel.sealCount) then 3
  else if s.pair.dbgSeen || (!solo s && s.pair.mode == 3) then 2
  else if solo s || s.pair.mode == 2 then 1
  else 0

/-- A frame start sets the seal state; STOPPED by the timeout alone sets SEAL_TIMEOUT (R360). -/
def sealFrame (s : State) : State :=
  if s.faults.bist then s
  else
    let k := sealState s
    let timeout := k == 3 && s.panel.sealSt != 3 && s.pair.handling == .run && !s.pair.halted
    let s1 := modPanel (fun p => { p with sealSt := k, sealCount := satInc 8 p.sealCount }) s
    let s2 := if timeout then putBit (cmpBase + 0x004) 5 true s1 else s1
    raiseIf (k != s.panel.sealSt) 60 s2

/-! What the panel balls show (R329, R330, R335). -/

/-- The levels of HSYNC, VSYNC and DE under the polarities in force (R335). -/
def syncLevels (out : Nat) (hs vs de : Bool) : Bool × Bool × Bool :=
  (hs == bitAt out 2, vs == bitAt out 3, de != bitAt out 4)

/-- The balls in the blanking state: the selected group at rest, the other at 0 or powered down. -/
def blankBalls (out : Nat) : PanelBalls :=
  let y := syncLevels out false false false
  if bitAt out 0 then { lvds := .steady } else { hsync := y.1, vsync := y.2.1, de := y.2.2 }

/-- The raster stops (R333): scanning and the Line Sequencer end where they are, and the selected group enters the blanking
state. -/
def rasterOff (s : State) : State :=
  let s1 := modPanel (fun p => { p with
    running := false, hblank := false, motionOpen := false, lsActive := false, work := none, rates := [] }) s
  if s.panel.running then emit (.panelIdle (blankBalls s.panel.live.out)) s1 else s1

/-- The ratio of removed cycles may have changed: the line under composition takes note (R363). -/
def noteRate (s : State) : State :=
  if s.panel.work.isSome && s.panel.rates.getLast? != some (removedEighths s) then
    modPanel (fun p => { p with rates := p.rates ++ [removedEighths s] }) s
  else s

/-! CMP registers (R370). -/

/-- The value of a CMP register lies outside a field's range: the write is ignored. -/
def cmpBad (o : Nat) (v : Word) : Bool :=
  let mode3 := wfld v 2 2 == 3
  let step := fun n => !inRange n 0x40 0x400
  match o with
  | 0x014 => mode3
  | 0x024 => mode3
  | 0x030 => mode3
  | 0x040 => mode3 || decide (4 < wfld v 4 3)
  | 0x060 => mode3 || decide (4 < wfld v 4 3)
  | 0x400 => mode3 || decide (3 < wfld v 4 3)
  | 0x05C => step (wfld v 0 16) || step (wfld v 16 16)
  | 0x07C => step (wfld v 0 16) || step (wfld v 16 16)
  | 0x41C => step (wfld v 0 16) || step (wfld v 16 16)
  | 0x100 => !inRange (wfld v 0 11) 16 1024
  | 0x430 => !(wfld v 4 3 == 0 || wfld v 4 3 == 2 || wfld v 4 3 == 3)
  | 0x454 => !inRange (wfld v 0 8) 1 128 || !inRange (wfld v 16 7) 1 64
  | 0x45C => wfld v 0 8 == 0
  | 0x470 => wfld v 8 8 == 0
  | _ => false

/-- A write of 0x5EA1 to SEAL_KICK.KEY restarts the count (R360). -/
def sealKick (v : Word) (s : State) : State :=
  if wfld v 0 16 = 0x5EA1 then modPanel (fun p => { p with sealCount := 0 }) s else s

/-- A write of a CMP register by the sentinel or the Line Sequencer. A change of a value marks every line and is motion
(R344, R362). CTRL.LOCK never returns to 0. -/
def cmpWrite (o : Nat) (v : Word) (s : State) : State :=
  if o = 0x460 then sealKick v s
  else if cmpBad o v then s
  else
    let a := cmpBase + o
    let lock := rbit s (cmpBase + 0x008) 31
    let v1 := if o = 0x008 ∧ lock = true then wsetBit v 31 true else v
    let s1 := writeTyped a lock v1 s
    if reg s1 a = reg s a then s1
    else panelChange (modPanel (fun p => { p with motion := p.motion || p.motionOpen }) s1)

/-- The value a CMP register reads as. -/
def cmpPeek (o : Nat) (s : State) : Word :=
  match o with
  | 0x000 => w32 (s.panel.sealSt + 4 * b2n s.panel.trimmed + 8 * b2n s.panel.reused)
  | _ => reg s (cmpBase + o)

/-- The side effect of a read of a CMP register. -/
def cmpReadEffect (o : Nat) (s : State) : State := readClears (cmpBase + o) s

/-- SEAL_KICK. -/
def execSealKick (v : Word) (s : State) : Host.Outcome State Fault Refusal := .next (live s (cmpWrite 0x460 v))

end Sys2Proof.Machine
end

