-- ==== Sys2Proof/Machine/Blitter.lean ====
section
/-! DEFINITION. The Blitter: jobs, their order, their pixels, their completion; PANEL_POST; the BLT registers (R256,
R366–R370). -/

namespace Sys2Proof.Machine

def bltBase : Nat := 0x40070000
def pnlBase : Nat := 0x40050000

/-! Spans and order (R366). -/

/-- Destination and source spans of a job. -/
def dstSpan (j : BltJob) : Option (Nat × Nat) := span j.dst j.dstride j.w j.h (fmtBytes j.dfmt)

def srcSpan (j : BltJob) : Option (Nat × Nat) :=
  if j.fill ∨ j.input.isSome = true then none else span j.src j.sstride j.w j.h (fmtBytes j.sfmt)

/-- Two spans overlap. -/
def spansMeet (a b : Option (Nat × Nat)) : Bool :=
  match a, b with
  | some (al, ah), some (bl, bh) => decide (al ≤ bh) && decide (bl ≤ ah)
  | _, _ => false

/-- An unfinished earlier job holds a later one. -/
def jobHolds (early late : BltJob) : Bool :=
  spansMeet (dstSpan early) (srcSpan late) || spansMeet (dstSpan early) (dstSpan late)
    || spansMeet (srcSpan early) (dstSpan late)

/-- The job that runs on a unit. -/
def bltUnit (s : State) (u : Nat) : Option BltJob := tget none s.panel.units u

def setBltUnit (u : Nat) (j : Option BltJob) (s : State) : State :=
  modPanel (fun p => { p with units := tset none p.units u j }) s

/-- The jobs that run. -/
def runningJobs (s : State) : List BltJob := [bltUnit s 0, bltUnit s 1].filterMap id

/-- The unit a job would start on. -/
def freeUnit (s : State) : Option Nat :=
  if (bltUnit s 0).isNone then some 0 else if (bltUnit s 1).isNone then some 1 else none

/-- The head of the queue may start, on a line start where it waits for the beam; PANEL_POSTs run one at a time (R256,
R366, R369). -/
def mayStart (s : State) (at? : Option Nat) : Option (BltJob × Nat) :=
  match s.panel.queue, freeUnit s with
  | j :: _, some u =>
    let beam := if j.beam then at? == some j.startLine else at?.isNone
    if beam && !(runningJobs s).any (fun r => jobHolds r j || (r.input.isSome && j.input.isSome)) then some (j, u) else none
  | _, _ => none

/-- A job as it starts: the time, and DEAD as it stands (R367). -/
def jobBegun (s : State) (j : BltJob) : BltJob := { j with start := nowP s, idle := rfld s (bltBase + 0x008) 0 10 }

/-- Start the head of the queue where it may; a PANEL_POST that waited for an entry takes the one that is free. -/
def startJob (at? : Option Nat) (s : State) : State :=
  match mayStart s at? with
  | none => s
  | some (j, u) =>
    modPanel (fun p => { p with queue := p.queue.drop 1 ++ p.postWait.take 1, postWait := p.postWait.drop 1 })
      (setBltUnit u (some (jobBegun s j)) s)

/-- BLT_JOB_START. -/
def execBltJobStart (s : State) : Host.Outcome State Fault Refusal := .next (live s (startJob none))

/-! Bursts and their time (R367). -/

/-- The aligned 64-byte blocks that `n` bytes from `off` touch. -/
def rowBlocks (off n : Nat) : Nat := if n = 0 then 0 else (off + n - 1) / 64 - off / 64 + 1

/-- The bursts of a job: each row's source blocks, where its source is Panel RAM, and its destination blocks. -/
def jobBursts (q : BltJob) : Nat :=
  ((List.range q.h).map fun j =>
    (if q.fill || q.input.isSome then 0 else rowBlocks (q.src + j * q.sstride) (q.w * fmtBytes q.sfmt))
      + rowBlocks (q.dst + j * q.dstride) (q.w * fmtBytes q.dfmt)).foldl (· + ·) 0

/-- The least time of a job in PCLK cycles, 2 to an FCLK cycle: 16 FCLK cycles at its start, then 4 and DEAD for each
burst. -/
def jobTime (q : BltJob) : Nat := 2 * (16 + jobBursts q * (4 + q.idle))

/-- A job's last write can have taken effect; one whose PANEL_POST was discarded writes no more. -/
def jobOver (s : State) (q : BltJob) : Bool := q.dead || decide (jobTime q ≤ nowP s - q.start)

/-! Pixels (R367). -/

/-- The source value of a job's pixel (i, j). -/
def jobSource (s : State) (q : BltJob) (i j : Nat) : Nat :=
  let n := fmtBytes q.sfmt
  match q.input with
  | some bs => leAt bs (j * q.sstride + i * n) n
  | none => prLe s (q.src + j * q.sstride + i * n) n

/-- The value written for a job's pixel (i, j). -/
def jobValue (s : State) (q : BltJob) (i j : Nat) : Nat :=
  if q.fill then (if q.dfmt = 3 then q.colour % 256 else fromArgb q.dfmt q.colour)
  else
    let v := jobSource s q i j
    if q.dfmt = 3 then v else fromArgb q.dfmt (toArgb s q.sfmt q.pal v)

/-- A byte a PANEL_POST writes: never inside the protection range (R358). -/
def postByte (off : Nat) (b : Byte) (s : State) : State :=
  if inRange off (cfld s 0x480 0 21) (cfld s 0x484 0 21) then s else agentWrite (panelRam + off) [b] s

def postBytes (off : Nat) (bs : Bytes) (s : State) : State :=
  match bs with
  | [] => s
  | b :: r => postBytes (off + 1) r (postByte off b s)

/-- Write pixel number `k` of a job, in row order. -/
def jobPixel (q : BltJob) (s : State) (k : Nat) : State :=
  let n := fmtBytes q.dfmt
  let i := k % q.w
  let j := k / q.w
  let bs := leBytes n (jobValue s q i j)
  let off := q.dst + j * q.dstride + i * n
  if q.input.isSome then postBytes off bs s else agentWrite (panelRam + off) bs s

/-- Write the first `k` pixels of a job. -/
def jobPixels (q : BltJob) (k : Nat) (s : State) : State := (List.range k).foldl (jobPixel q) s

/-- The completion of a job on a unit, not before its bursts have taken their time (R366, R367, R369). -/
def jobDone (u : Nat) (s : State) : State :=
  match bltUnit s u with
  | none => s
  | some q =>
    if !jobOver s q then s else
    let s1 := if q.dead then s else jobPixels q (q.w * q.h) s
    let jobs := bltBase + 0x040
    let s2 := setReg jobs (reg s1 jobs + 1#32) (setBltUnit u none s1)
    let s3 := if q.input.isSome then s2 else modPanel (fun p => { p with lastTag := q.tag }) s2
    let s4 := if q.wm then setRegN (pnlBase + 0x020) (q.wmLine + 2 ^ 31) s3 else s3
    let s5 := if q.irq then raise 64 (putBit (bltBase + 0x004) 0 true s4) else s4
    match q.post with
    | none => s5
    | some (d, tag, clipped) =>
      if q.dead then s5
      else finish d tag (if clipped then stDoneNote else stDone) (if clipped then 0x50 else 0) (q.w * q.h) 0 0 none s5

/-- BLT_JOB_DONE. -/
def execBltJobDone (u : Fin 2) (s : State) : Host.Outcome State Fault Refusal := .next (live s (jobDone u.val))

/-! GO (R368). -/

/-- The job the registers spell. -/
def goJob (s : State) : BltJob :=
  let f := fun o lo len => rfld s (bltBase + o) lo len
  let b := fun i => rbit s (bltBase + 0x010) i
  { fill := f 0x010 0 2 == 0, sfmt := f 0x010 4 3, dfmt := f 0x010 8 3, irq := b 12, wm := b 13, beam := b 14
    tag := f 0x010 16 8, src := f 0x014 0 21, sstride := f 0x018 0 16, dst := f 0x01C 0 21, dstride := f 0x020 0 16
    w := f 0x024 0 11, h := f 0x024 16 11, colour := f 0x028 0 32, startLine := f 0x02C 0 11, wmLine := f 0x02C 16 11
    pal := f 0x034 0 10 }

/-- A surface of a job breaks the alignment rules. -/
def misaligned (base stride w fmt : Nat) : Bool :=
  base % fmtBytes fmt != 0 || stride % fmtBytes fmt != 0 || decide (stride < w * fmtBytes fmt)

def beyondRam (p : Option (Nat × Nat)) : Bool := match p with | some (_, hi) => decide (panelSize ≤ hi) | none => false

/-- Why a GO is refused; 0 where it is not. A format code above 3 has no pixel size, so only its own check applies. -/
def goWhy (s : State) (j : BltJob) : Nat :=
  let fmtBad := decide (3 < j.dfmt) || (!j.fill && (decide (3 < j.sfmt) || (j.dfmt == 3 && j.sfmt != 3)))
  let known := decide (j.dfmt ≤ 3) && (j.fill || decide (j.sfmt ≤ 3))
  if known && (misaligned j.dst j.dstride j.w j.dfmt || (!j.fill && misaligned j.src j.sstride j.w j.sfmt)) then 1
  else if known && (beyondRam (dstSpan j) || beyondRam (srcSpan j)) then 2
  else if fmtBad then 3
  else if spansMeet (srcSpan j) (dstSpan j) then 4
  else if 16 ≤ s.panel.queue.length then 5
  else 0

/-- A write of 1 to GO queues the job as set, or refuses it. -/
def bltGo (v : Word) (s : State) : State :=
  if wbit v 0 then
    let j := goJob s
    let why := goWhy s j
    if why = 0 then modPanel (fun p => { p with queue := p.queue ++ [j] }) s
    else raise 65 (orReg (bltBase + 0x004) (if why = 5 then 6 else 2) (modPanel (fun p => { p with why := why }) s))
  else s

/-- BLT_GO. -/
def execBltGo (v : Word) (s : State) : Host.Outcome State Fault Refusal := .next (live s (bltGo v))

/-! BLT registers. -/

/-- The value a BLT register reads as. -/
def bltPeek (o : Nat) (s : State) : Word :=
  match o with
  | 0x000 =>
    let p := s.panel
    let wait := match p.queue with | j :: _ => j.beam | [] => false
    w32 (p.queue.length + (runningJobs s).length * 2 ^ 5 + p.lastTag * 2 ^ 8 + b2n wait * 2 ^ 16 + p.why * 2 ^ 28)
  | _ => reg s (bltBase + o)

/-- A software write of a BLT register: a value outside a field's range is ignored. -/
def bltWrite (o : Nat) (v : Word) (s : State) : State :=
  match o with
  | 0x010 => if 1 < wfld v 0 2 then s else writeTyped (bltBase + o) false v s
  | 0x024 => if wfld v 0 11 = 0 ∨ wfld v 16 11 = 0 then s else writeTyped (bltBase + o) false v s
  | 0x030 => bltGo v s
  | _ => writeTyped (bltBase + o) false v s

/-! PANEL_POST (R256, R358). -/

/-- The first parameter of a PANEL_POST that is outside its values: its parameter byte. -/
def postBad (s : State) (p : Bytes) : Option Nat :=
  let w := pLe p 4 2
  let fmt := pByte p 8
  let stride := pLe p 10 2
  if !inRange w 1 1280 then some 4
  else if !inRange (pLe p 6 2) 1 800 then some 6
  else if 3 < fmt ∨ (fmt ≠ 3 ∧ cfld s 0x400 4 3 = 3) then some 8
  else if stride % 4 ≠ 0 ∨ stride < w * fmtBytes fmt then some 10
  else none

/-- The input length a PANEL_POST must have; none where its parameters give none. -/
def postLen (p : Bytes) : Option Nat :=
  if 3 < pByte p 8 ∨ pLe p 6 2 = 0 then none
  else some (pLe p 10 2 * (pLe p 6 2 - 1) + pLe p 4 2 * fmtBytes (pByte p 8))

/-- The input length is wrong: RES0 gives the exact or the largest one. -/
def postLenBad (d : Nat) (p : Bytes) : Option Nat :=
  match postLen p with
  | none => none
  | some n => if maxDescLen d < n then some (maxDescLen d) else if pktInLen p ≠ n then some n else none

/-- The job of a PANEL_POST: the part of its rectangle that lies on the surface. -/
def postJob (s : State) (d tag : Nat) (p : Bytes) (bs : Bytes) : BltJob :=
  let win := winAt s 0x400
  let x := pLe p 0 2
  let y := pLe p 2 2
  let w := min (pLe p 4 2) (win.sw - x)
  let h := min (pLe p 6 2) (win.sh - y)
  let some? := decide (0 < w) && decide (0 < h)
  { sfmt := pByte p 8, dfmt := win.fmt, sstride := pLe p 10 2, dst := win.surf + y * win.stride + x * fmtBytes win.fmt
    dstride := win.stride, w := if some? then w else 0, h := if some? then h else 0, pal := win.pal, input := some bs
    post := some (d, tag, w != pLe p 4 2 || h != pLe p 6 2) }

/-- A job enters the queue; one that finds it full waits for an entry. -/
def queuePost (j : BltJob) (s : State) : State :=
  modPanel (fun p => if p.queue.length < 16 then { p with queue := p.queue ++ [j] }
                     else { p with postWait := p.postWait ++ [j] }) s

/-- PANEL_POST. -/
def execPanelPost (d : DoorId) (tag : Nat) (hostIn : Option Bytes) (s : State) : Host.Outcome State Fault Refusal :=
  .next (live s (dispatch d.val tag 0x60 fun c s0 =>
    let s := checkCfg s0
    if !pointersOk d.val c.pkt then finishSt d.val tag stPointer 0 s
    else match postLenBad d.val c.pkt with
    | some n => finishR0 d.val tag stLength n s
    | none => match postBad s c.pkt with
      | some n => badValue d.val tag c n s
      | none =>
        if !s.panel.cfgValid || !cbit s 0x008 1 then finishSt d.val tag stClosed 0 s
        else match cmdInput s d.val c hostIn with
          | none => finishSt d.val tag stPointer 0 s
          | some bs => queuePost (postJob s d.val tag c.pkt bs) s))

/-! Discard (R201): a PANEL_POST that has ended writes no more; of a running one some pixels, how many is open, stay. -/

/-- The job serves a command that has ended. -/
def jobOrphan (s : State) (j : BltJob) : Bool :=
  match j.post with
  | some (d, tag, _) => !j.dead && (findCmd s d tag).isNone
  | none => false

def killJob (s : State) (j : BltJob) : BltJob := if jobOrphan s j then { j with dead := true } else j

/-- A running job whose command has ended: the pixels it has written so far. -/
def cutJob (s : State) (u : Nat) : State :=
  match bltUnit s u with
  | some j =>
    if jobOrphan s j then
      setBltUnit u (some { j with dead := true }) (freeNext (jobPixels j (freeVal s % (j.w * j.h + 1)) s))
    else s
  | none => s

/-- Jobs of ended commands write no more pixels. -/
def purgeBlt (s : State) : State :=
  let s1 := cutJob (cutJob s 0) 1
  modPanel (fun p => { p with queue := p.queue.map (killJob s1), postWait := p.postWait.map (killJob s1) }) s1

end Sys2Proof.Machine
end

