-- ==== Sys2Proof/Machine/Reset.lean ====
section
/-! DEFINITION. What a cold or warm reset clears and what it keeps (R25, R26, Table 2-5). -/

namespace Sys2Proof.Machine

def clkBase : Nat := 0x400A0000

/-- CLK.RCAUSE, held in the Loft. -/
def rcauseAddr : Nat := clkBase + 0x004

/-- Set a cause's bit in CLK.RCAUSE. -/
def setCause (bit : Nat) (s : State) : State := putBit rcauseAddr bit true s

/-- Is a register address held in the Loft, so that resets keep it? -/
def keptReg (a : Nat) : Bool := a == rcauseAddr || inRange a 0x400E0000 0x400EFFFF

/-! A burn that a reset meets (R39). -/

/-- The value of one blown bit more (Table 3-3). -/
def blowBit (i : Nat) (f : FuseBits) : FuseBits :=
  let put := fun (m k : Nat) => m ||| 2 ^ k
  if i < 64 then { f with svn := put f.svn i }
  else if i < 448 then { f with khEc := put f.khEc (i - 64) }
  else if i < 832 then { f with khPq := put f.khPq (i - 448) }
  else if i = 832 then { f with lock := true }
  else f

/-- A burn that a reset cuts short leaves its bit 0 or 1, a free value (R39). -/
def burnCut (s : State) : State :=
  match s.fuses.burn with
  | none => s
  | some i =>
    let b := if freeVal s % 2 = 1 then blowBit i s.fuses.blown else s.fuses.blown
    freeNext { s with fuses := { s.fuses with blown := b, burn := none } }

/-- What goes idle on the transmit lanes as a reset begins (R25, Table 6-4). -/
def lanesIdle (s : State) : List Out :=
  ((List.range 16).filter fun q => lineOf s q != .electricalIdle).map fun q => .line q .electricalIdle

/-- Everything outside the Loft at its reset value, with a reset in progress. Kept are the Loft, CLK.RCAUSE, the fuses, the
NAND's contents, the pads' sleep states, the waiting commands and the record of outputs; a device in SLEEP or OFF stays there
(R25, Table 2-5). A cold reset locks the PLL anew. A burn in progress is cut short (R39). TAP_ACTIVE is cleared by a cold
reset only (Table 3-2). The transmit lanes are idle from the first cycle on. -/
def clearAll (cold : Bool) (s0 : State) : State :=
  let s := burnCut s0
  { State.reset with
    pending := s.pending, out := lanesIdle s ++ s.out, freeCtr := s.freeCtr
    regs := s.regs.filter fun e => keptReg e.1
    loft := s.loft, fuses := s.fuses, nand := s.nand
    idn := { tap := if cold then false else s.idn.tap }
    pins := { pads := s.pins.pads }
    clk := { held := true, cold := cold, pllLock := !cold && s.clk.pllLock, refclkOk := s.clk.refclkOk
             pstate := match s.clk.pstate with | .sleep => .sleep | .off => .off | _ => .run } }

/-- A reset cause begins to act: it starts a reset, or joins the one that is held, which becomes or stays cold where
any cause is cold; its bit of CLK.RCAUSE is set (R25, R26). -/
def resetCause (cold : Bool) (bit : Nat) (s : State) : State :=
  let c := cold || (s.clk.held && s.clk.cold)
  let hold := s.clk.thermHold
  let s1 := clearAll c s
  setCause bit { s1 with clk := { s1.clk with thermHold := hold } }

end Sys2Proof.Machine
end

