-- ==== Sys2Proof/Machine/Audio.lean ====
section
/-! DEFINITION. Audio: sample boundaries, tone voices, the sample player, the host stream, the mixer, the equaliser, the
sinks, silence detection, the AUD registers (R257, R372–R388). -/

namespace Sys2Proof.Machine

def audBase : Nat := 0x40040000
def audFlags : Nat := audBase + 0x004

def modAudio (f : Audio → Audio) (s : State) : State := { s with audio := f s.audio }

/-- ACLK runs (R372). -/
def aclkRuns (s : State) : Bool := rbit s (clkBase + 0x010) 1 && s.clk.pstate != .nap

/-- A register's value in force since the last boundary (R373). -/
def aud (s : State) (o : Nat) : Word := tget (w32 (regSpec (audBase + o)).reset) s.audio.live (audBase + o)

def afld (s : State) (o lo len : Nat) : Nat := wfld (aud s o) lo len

/-- Set a bit of AUD.FLAGS and raise a source (R388). -/
def audEvent (bit source : Nat) (s : State) : State := raise source (putBit audFlags bit true s)

/-- 24-bit saturation (R379). -/
def sat24 (i : Int) : Int := clampInt (-8388608) 8388607 i

/-- Saturate a sink's value; a clamp that changes it sets SATk (R379, R380). -/
def satSink (k : Nat) (i : Int) (s : State) : Int × State :=
  (sat24 i, if sat24 i = i then s else audEvent (4 + k) (72 + k) s)

/-! Tone voices (R374, R375). -/

/-- 8,388,607 × sin(2πi ÷ 1,024), rounded, for i from 0 to 256. -/
def sineQuarter : List Nat :=
  [0, 51472, 102941, 154407, 205867, 257319, 308761, 360192, 411609, 463011, 514396, 565761, 617104, 668425, 719720, 770988]
  ++ [822227, 873435, 924611, 975751, 1026855, 1077920, 1128945, 1179927, 1230864, 1281756, 1332599, 1383391, 1434132, 1484819, 1535450, 1586023]
  ++ [1636536, 1686988, 1737376, 1787699, 1837954, 1888140, 1938256, 1988298, 2038265, 2088156, 2137968, 2187699, 2237349, 2286913, 2336392, 2385783]
  ++ [2435084, 2484293, 2533409, 2582430, 2631353, 2680177, 2728900, 2777521, 2826037, 2874446, 2922747, 2970939, 3019018, 3066984, 3114834, 3162567]
  ++ [3210181, 3257674, 3305044, 3352290, 3399410, 3446402, 3493264, 3539994, 3586592, 3633054, 3679379, 3725566, 3771613, 3817517, 3863278, 3908894]
  ++ [3954362, 3999681, 4044850, 4089867, 4134729, 4179436, 4223986, 4268376, 4312606, 4356673, 4400577, 4444314, 4487885, 4531286, 4574517, 4617576]
  ++ [4660460, 4703170, 4745702, 4788055, 4830229, 4872220, 4914028, 4955651, 4997087, 5038336, 5079394, 5120261, 5160936, 5201416, 5241701, 5281788]
  ++ [5321676, 5361364, 5400850, 5440132, 5479210, 5518082, 5556746, 5595200, 5633444, 5671476, 5709294, 5746898, 5784285, 5821454, 5858404, 5895133]
  ++ [5931641, 5967925, 6003985, 6039818, 6075424, 6110801, 6145949, 6180865, 6215548, 6249997, 6284211, 6318188, 6351927, 6385428, 6418687, 6451706]
  ++ [6484481, 6517012, 6549298, 6581337, 6613128, 6644671, 6675963, 6707004, 6737792, 6768327, 6798607, 6828631, 6858398, 6887906, 6917156, 6946144]
  ++ [6974872, 7003337, 7031538, 7059474, 7087145, 7114548, 7141684, 7168551, 7195148, 7221474, 7247529, 7273310, 7298818, 7324051, 7349008, 7373688]
  ++ [7398091, 7422215, 7446060, 7469624, 7492908, 7515909, 7538627, 7561061, 7583211, 7605075, 7626653, 7647944, 7668946, 7689660, 7710085, 7730219]
  ++ [7750062, 7769614, 7788873, 7807838, 7826510, 7844887, 7862969, 7880754, 7898243, 7915435, 7932328, 7948923, 7965219, 7981214, 7996910, 8012304]
  ++ [8027396, 8042187, 8056674, 8070858, 8084739, 8098315, 8111586, 8124551, 8137211, 8149564, 8161611, 8173350, 8184782, 8195905, 8206720, 8217226]
  ++ [8227422, 8237309, 8246886, 8256152, 8265107, 8273751, 8282084, 8290104, 8297813, 8305209, 8312293, 8319063, 8325521, 8331665, 8337495, 8343011]
  ++ [8348214, 8353102, 8357675, 8361934, 8365878, 8369507, 8372821, 8375819, 8378503, 8380870, 8382923, 8384659, 8386081, 8387186, 8387975, 8388449]
  ++ [8388607]

/-- T[i] of Table 18-1, by the symmetries of the sine. -/
def sine (i : Nat) : Int :=
  let q := fun j => (sineQuarter.getD j 0 : Int)
  match i / 256 with
  | 0 => q i
  | 1 => q (512 - i)
  | 2 => -q (i - 512)
  | _ => -q (1024 - i)

def voice (s : State) (n : Nat) : Voice := tget {} s.audio.voices n

def setVoice (n : Nat) (v : Voice) (s : State) : State :=
  modAudio (fun a => { a with voices := tset {} a.voices n v }) s

def fullScale : Int := 8388607

/-- The waveform value of a voice (Table 18-1). -/
def waveform (wave duty : Nat) (v : Voice) : Int :=
  let p : Int := (fld v.phase 8 24 : Nat)
  match wave with
  | 0 => if fld v.phase 24 8 < duty then fullScale else -fullScale
  | 1 => if p < 8388608 then 2 * p - 8388608 else 3 * 8388608 - 1 - 2 * p
  | 2 => toSigned 24 (fld v.phase 8 24)
  | 3 => sine (fld v.phase 22 10)
  | _ => if v.lfsr % 2 = 1 then fullScale else -fullScale

/-- One step of the 23-bit LFSR with feedback x^23 + x^18 + 1. -/
def lfsrStep (l : Nat) : Nat := l * 2 % 2 ^ 23 + (if bitAt l 22 == bitAt l 17 then 0 else 1)

/-- The phase of a voice at a boundary: PRST sets it to 0, otherwise it advances by PINC; a carry steps the LFSR. -/
def phaseStep (pinc : Nat) (reset : Bool) (v : Voice) : Voice :=
  if reset then { v with phase := 0 }
  else
    let t := v.phase + pinc
    { v with phase := t % 2 ^ 32, lfsr := if 2 ^ 32 ≤ t then lfsrStep v.lfsr else v.lfsr }

/-- A rise at a rate to a target, and a fall; rate 0 takes one step. -/
def rise (l rate target : Nat) : Nat := if rate = 0 ∨ target ≤ l + rate then target else l + rate
def fall (l rate target : Nat) : Nat := if rate = 0 ∨ l ≤ target + rate then target else l - rate

/-- A change of KEY (R375). -/
def keyStep (key : Bool) (v : Voice) : Voice :=
  if key = v.key then v else { v with key := key, env := if key then 1 else 4 }

/-- One step of the envelope (Table 18-2). -/
def envStep (atk dec sus rel : Nat) (v : Voice) : Voice :=
  let decay := fun (v : Voice) =>
    let l := fall v.level dec sus
    { v with level := l, env := if l = sus then 3 else 2 }
  match v.env with
  | 1 =>
    let l := rise v.level atk 0xFFFF
    { v with level := l, env := if l = 0xFFFF then (if sus = 0xFFFF then 3 else 2) else 1 }
  | 2 => decay v
  | 3 => if sus < v.level then decay v else { v with level := rise v.level atk sus }
  | 4 =>
    let l := fall v.level rel 0
    { v with level := l, env := if l = 0 then 0 else 4 }
  | _ => { v with level := 0 }

/-- Advance voice `n` by one sample. -/
def voiceStep (n : Nat) (s : State) : State :=
  let o := 0x040 + 0x20 * n
  let v0 := voice s n
  let v1 := keyStep (wbit (aud s (o + 0x10)) 0) (phaseStep (afld s o 0 32) (s.audio.prst.contains n) v0)
  let v2 := envStep (afld s (o + 0x8) 0 16) (afld s (o + 0x8) 16 16) (afld s (o + 0xC) 0 16) (afld s (o + 0xC) 16 16) v1
  let s1 := setVoice n v2 s
  if v1.env = 4 ∧ v2.env = 0 then audEvent 2 70 s1 else s1

/-- A voice's output x. -/
def voiceOut (s : State) (n : Nat) : Int :=
  let o := 0x040 + 0x20 * n
  let v := voice s n
  (waveform (afld s (o + 4) 0 3) (afld s (o + 4) 8 8) v * (v.level : Int) + 32768) / 65536

/-! The sample player (R376, R377). -/

def spCtrl : Nat := audBase + 0x0D0

/-- A RUN write of 1 is ignored: an odd START of 16-bit samples, a loop start at or past the end, a span beyond Panel
RAM. -/
def spBad (s : State) (bits16 : Bool) : Bool :=
  let start := rfld s (audBase + 0x0C0) 0 21
  let len := rfld s (audBase + 0x0C4) 0 22
  (bits16 && start % 2 == 1) || decide (len ≤ rfld s (audBase + 0x0C8) 0 21)
    || decide (panelSize < start + len * (if bits16 then 2 else 1))

/-- A write of SP_CTRL. -/
def spWrite (v : Word) (s : State) : State :=
  let run := wbit v 0
  if run && spBad s (wbit v 1) then writeTyped spCtrl false (wsetBit v 0 (rbit s spCtrl 0)) s
  else modAudio (fun a => { a with spWrite := some run }) (writeTyped spCtrl false v s)

/-- Bytes of a sample. -/
def spWidth (s : State) : Nat := if wbit (aud s 0x0D0) 1 then 2 else 1

/-- The Panel RAM offset of the sample at an index. -/
def spOff (s : State) (k : Nat) : Nat := afld s 0x0C0 0 21 + spWidth s * k

/-! The player's buffer (R377): 64-byte bursts, each an aligned block of Panel RAM, read ahead in the order of play. -/

/-- The burst of the block that holds an offset, as Panel RAM stands. -/
def readBurst (s : State) (off : Nat) (byLoop : Bool) : Burst :=
  let a := off / 64 * 64
  { off := a, byLoop := byLoop, data := (List.range 64).map fun i => prByte s (a + i) }

/-- The burst that play comes to after one at `off`: the next block, or from the block of the last sample the loop start. -/
def nextBurst (s : State) (off : Nat) : Option Burst :=
  if off + 64 < spOff s (afld s 0x0C4 0 22) then some (readBurst s (off + 64) false)
  else if wbit (aud s 0x0D0) 2 then some (readBurst s (spOff s (afld s 0x0C8 0 21)) true)
  else none

/-- Up to `n` further bursts at the buffer's end. -/
def refill (s : State) : Nat → List Burst → List Burst
  | 0, l => l
  | n + 1, l =>
    match l.getLast? with
    | none => l
    | some b => match nextBurst s b.off with
      | none => l
      | some b' => refill s n (l ++ [b'])

def Burst.holds (off : Nat) (b : Burst) : Bool := inRange off b.off (b.off + 63)

/-- The buffer as play comes to an offset: bursts before it are done with, a block not held is read, and where no more than
128 bytes remain the buffer is filled. -/
def spBuffer (s : State) (off : Nat) (l : List Burst) : List Burst :=
  let held := l.dropWhile fun b => !b.holds off
  let l1 := if held.isEmpty then [readBurst s off false] else held
  if 64 * l1.length ≤ 128 + off % 64 then refill s (4 - l1.length) l1 else l1

/-- A byte of the buffer; one it does not hold comes from Panel RAM. -/
def bufByte (s : State) (l : List Burst) (off : Nat) : Byte :=
  match l.find? fun b => b.holds off with
  | some b => b.data.getD (off % 64) 0
  | none => prByte s off

/-- The player's sample at an index, out of a buffer. -/
def spSample (s : State) (l : List Burst) (k : Nat) : Int :=
  let v := leNat ((List.range (spWidth s)).map fun i => bufByte s l (spOff s k + i))
  if spWidth s = 2 then toSigned 16 v * 2 ^ 8 else toSigned 8 v * 2 ^ 16

/-- The buffer once play has taken the loop: what it holds before the loop start is done with. -/
def loopBuffer (l : List Burst) : List Burst :=
  match l.dropWhile fun b => !b.byLoop with
  | [] => []
  | b :: r => { b with byLoop := false } :: r

/-- The waiting RUN write acts. -/
def spApply (s : State) : State :=
  match s.audio.spWrite with
  | none => s
  | some true => modAudio (fun a => { a with spWrite := none, spRun := true, spPos := 0, spBuf := [] }) s
  | some false => modAudio (fun a => { a with spWrite := none, spRun := false }) s

/-- One step of the player: its output and the state after. -/
def spStep (s : State) : Int × State :=
  let len := afld s 0x0C4 0 22
  let out := fun (s : State) =>
    let k := s.audio.spPos / 65536
    let l := spBuffer s (spOff s k) s.audio.spBuf
    (spSample s l k, modAudio (fun a => { a with spPos := a.spPos + afld s 0x0CC 0 32, spBuf := l }) s)
  if !s.audio.spRun then (0, s)
  else if s.audio.spPos / 65536 < len then out s
  else if wbit (aud s 0x0D0) 2 then
    let back : Int := (s.audio.spPos : Int) - ((len : Int) - (afld s 0x0C8 0 21 : Nat)) * 65536
    let s1 := putBit audFlags 1 true (modAudio (fun a => { a with spPos := back.toNat, spBuf := loopBuffer a.spBuf }) s)
    out (raiseIf (wbit (aud s 0x0D0) 3) 69 s1)
  else (0, audEvent 0 68 (putBit spCtrl 0 false (modAudio (fun a => { a with spRun := false }) s)))

/-! The host stream (R257, R378). -/

/-- The door that owns the stream. -/
def streamOwner (s : State) : Option Nat := s.audio.stream.head?.map (·.door)

/-- The queue has emptied. -/
def streamDry (s : State) : State := audEvent 3 71 s

/-- One sample of the stream: its value and the state after; the last sample of a block forms its reply. -/
def streamStep (s : State) : Int × State :=
  match s.audio.stream with
  | [] => (0, modAudio (fun a => { a with gap := satInc 32 a.gap }) s)
  | b :: r =>
    let gap := if b.pos = 0 then (if s.audio.lastDoor = some b.door then s.audio.gap else 0) else b.gap
    let x := toSigned 16 (leAt b.data b.pos 2) * 2 ^ 8
    let b1 := { b with pos := b.pos + 2, gap := gap }
    let s1 := modAudio (fun a => { a with stream := b1 :: r, lastDoor := some b.door, gap := 0 }) s
    if b1.pos < b.data.length then (x, s1)
    else
      let s2 := finish b.door b.tag stDone 0 (b.data.length / 2) gap 0 none (modAudio (fun a => { a with stream := r }) s1)
      (x, if r.isEmpty then streamDry s2 else s2)

/-- HOST_EN has been cleared: the block that plays completes short, the others are refused. -/
def streamStop (s : State) : State :=
  if s.audio.stream.isEmpty then s
  else
    let s1 := s.audio.stream.foldl (fun x b =>
      if b.pos = 0 then finishSt b.door b.tag stClosed 0 x
      else finish b.door b.tag stDone 0 (b.pos / 2) b.gap 0 none x) s
    streamDry (modAudio (fun a => { a with stream := [] }) s1)

/-- Blocks of ended commands are not played on; a queue that this empties is dry (R378, recovery). -/
def purgeAudio (s : State) : State :=
  let l := s.audio.stream.filter fun b => (findCmd s b.door b.tag).isSome
  let s1 := modAudio (fun a => { a with stream := l }) s
  if l.isEmpty && !s.audio.stream.isEmpty then streamDry s1 else s1

/-- AUDIO_STREAM (R257). -/
def execAudioStream (d : DoorId) (tag : Nat) (hostIn : Option Bytes) (s : State) : Host.Outcome State Fault Refusal :=
  .next (live s (dispatch d.val tag 0x61 fun c s =>
    let top := if d.val = 2 then 16384 else 65536
    let n := pktInLen c.pkt
    if !pointersOk d.val c.pkt then finishSt d.val tag stPointer 0 s
    else if !inRange n 2 top || n % 2 != 0 then finishR0 d.val tag stLength top s
    else if !wbit (aud s 0x008) 0 then finishSt d.val tag stClosed 0 s
    else if (match streamOwner s with | some o => o != d.val | none => false) then finishSt d.val tag stStreamBusy 0 s
    else if 4 ≤ s.audio.stream.length then finishSt d.val tag stQueueFull 0 s
    else match cmdInput s d.val c hostIn with
      | none => finishSt d.val tag stPointer 0 s
      | some bs => modAudio (fun a => { a with stream := a.stream ++ [{ door := d.val, tag := tag, data := bs }] }) s))

/-! Mixer and equaliser (R379–R381). -/

def sink (s : State) (k : Nat) : Sink := tget {} s.audio.sinks k

def modSink (k : Nat) (f : Sink → Sink) (s : State) : State :=
  modAudio (fun a => { a with sinks := tset {} a.sinks k (f (tget {} a.sinks k)) }) s

/-- The mix of sink `k` before saturation. -/
def mixSum (s : State) (k : Nat) (xs : List Int) : Int :=
  let gain := fun (i : Nat) => (afld s (0x100 + 0x20 * k + 4 * i) 0 16 : Int)
  ((xs.mapIdx fun i x => x * gain i).foldl (· + ·) 0 + 8192) / 16384

/-- Coefficient `c` of section `j` in the live set: b0 is 1.0 and the others 0 until a commit. -/
def coef (z : Sink) (j c : Nat) : Int := toSigned 24 (tget (if c = 0 then 0x400000 else 0) z.coefs (5 * j + c))

/-- The COMMIT and CLR writes that wait act. -/
def eqApply (k : Nat) (s : State) : State :=
  let z := sink s k
  let o := 0x200 + 0x100 * k
  let s1 := if z.clr then modSink k (fun z => { z with clr := false, secs := [] }) s else s
  if z.commit then
    let cs := (List.range 30).map fun i => (i, afld s (o + 0x10 + 4 * i) 0 24)
    audEvent 11 79 (modSink k (fun z => { z with
      commit := false, secEn := afld s o 0 6
      coefs := cs.foldl (fun t e => tset (if e.1 % 5 = 0 then 0x400000 else 0) t e.1 e.2) [] }) s1)
  else s1

/-- One section in direct form I; a disabled one passes its input and keeps its state (R380). -/
def eqSection (k j : Nat) (x : Int) (s : State) : Int × State :=
  let z := sink s k
  if !bitAt z.secEn j then (x, s)
  else
    let q := tget {} z.secs j
    let c := coef z j
    let sum := c 0 * x + c 1 * q.x1 + c 2 * q.x2 - c 3 * q.y1 - c 4 * q.y2
    let y := satSink k ((sum + 2 ^ 21) / 2 ^ 22) s
    (y.1, modSink k (fun z => { z with secs := tset {} z.secs j { x1 := x, x2 := q.x1, y1 := y.1, y2 := q.y1 } }) y.2)

/-- All six sections of a sink in order. -/
def equalise (k : Nat) (x : Int) (s : State) : Int × State :=
  (List.range 6).foldl (fun (a : Int × State) j => eqSection k j a.1 a.2) (x, s)

/-! Sinks (R382–R384). -/

/-- Every sink is held in its reset state: the boot ROM has halted, or BIST_FAILED (Table 18-4). -/
def audioHeld (s : State) : Bool := s.idn.halted || s.faults.bist

/-- Silence detection and the enable ball of a sink for its sample `y` (R384). -/
def silence (k : Nat) (y : Int) (s : State) : State :=
  let cfg := 0x180 + 0x10 * k
  let mode := afld s cfg 0 2
  let z := sink s k
  let quiet := decide (y.natAbs ≤ afld s (cfg + 4) 0 15 * 256)
  let start := if mode = 2 ∧ z.mode ≠ 2 then 0 else z.silent
  let n := if quiet then (if start < 65535 * 50 then start + 1 else start) else 0
  let s1 := modSink k (fun z => { z with silent := n, mode := mode }) s
  if audioHeld s ∨ mode = 0 then modSink k (fun z => { z with en := false }) s1
  else if mode = 1 then modSink k (fun z => { z with en := true }) s1
  else if z.en && decide (afld s (cfg + 4) 16 16 * 50 ≤ n) then
    audEvent (6 + k) (74 + k) (modSink k (fun z => { z with en := false }) s1)
  else if !z.en && !quiet then audEvent (8 + k) (76 + k) (modSink k (fun z => { z with en := true }) s1)
  else s1

/-- One PWM period of S0: its level and the errors after it (R382). -/
def pwmStep (y e1 e2 : Int) : Nat × Int × Int :=
  let u := (y + 8388608) * 50 + 2 * e1 - e2
  let q := clampInt 0 50 ((u + 8388608) / 16777216)
  (q.toNat, clampInt (-67108864) 67108864 (u - q * 16777216), e1)

/-- The five periods of a sample. -/
def pwmSample (y : Int) : Nat → Int → Int → List Nat × Int × Int
  | 0, e1, e2 => ([], e1, e2)
  | n + 1, e1, e2 =>
    let p := pwmStep y e1 e2
    let r := pwmSample y n p.2.1 p.2.2
    (p.1 :: r.1, r.2.1, r.2.2)

/-- AUD_PWM_P in cycle `c` of a period of level `q`; AUD_PWM_N is its complement. -/
def pwmHigh (q c : Nat) : Bool := decide ((50 - q) / 2 ≤ c) && decide (c < (50 - q) / 2 + q)

/-- The 24 bits of a slot, most significant first; 0 where it is off. -/
def slotBits (y : Int) (on : Bool) : List Bool :=
  (List.range 24).map fun i => on && bitAt (ofSigned 24 y) (23 - i)

/-- AUD_SD in each BCLK of a frame (R383, Table 18-3). -/
def s1Frame (cfg : Word) (y : Int) : List Bool :=
  if wbit cfg 2 then
    [false] ++ (List.range 4).flatMap (fun k => slotBits y (wbit cfg (4 + k)) ++ List.replicate 8 false)
      ++ List.replicate 121 false
  else (List.range 2).flatMap fun k => [false] ++ slotBits y (wbit cfg (4 + k))

/-- AUD_FS in each BCLK of a frame. -/
def s1Fs (cfg : Word) : List Bool :=
  if wbit cfg 2 then [true] ++ List.replicate 249 false else List.replicate 25 false ++ List.replicate 25 true

/-- AUD_PWM_P and AUD_PWM_N through a sample of five periods. -/
def pwmBalls (levels : List Nat) : List (Bool × Bool) :=
  levels.flatMap fun q => (List.range 50).map fun c => (pwmHigh q c, !pwmHigh q c)

/-- Hand the samples to the sinks: the quantiser's errors stay 0 while S0 is off (R382), S1's frame, MCLK and the enable balls
as they are (R383, R384). -/
def sinksOut (y0 y1 : Int) (s : State) : State :=
  let z := sink s 0
  let ctrl := aud s 0x008
  let cfg := aud s 0x190
  let on0 := wbit ctrl 1 && z.en && !audioHeld s
  let on1 := wbit ctrl 2 && !audioHeld s
  let p := pwmSample y0 5 z.e1 z.e2
  emit (.audio {
      pwm := if on0 then pwmBalls p.1 else []
      mclk := wbit cfg 8 && !audioHeld s
      bclk := if on1 then (if wbit cfg 2 then 1 else 5) else 0
      fs := if on1 then s1Fs cfg else []
      sd := if on1 then s1Frame cfg y1 else []
      en0 := z.en, en1 := (sink s 1).en })
    (modSink 0 (fun z => { z with e1 := if on0 then p.2.1 else 0, e2 := if on0 then p.2.2 else 0 }) s)

/-! The sample boundary (R372, R373). -/

/-- Writes take effect: the register values, RUN, COMMIT, CLR; a stream whose HOST_EN is 0 stops. -/
def audioApply (s : State) : State :=
  let s1 := modAudio (fun a => { a with live := s.regs.filter fun e => inRange e.1 audBase (audBase + 0xFFFF) }) s
  let s2 := eqApply 1 (eqApply 0 (spApply s1))
  if wbit (aud s2 0x008) 0 then s2 else streamStop s2

/-- The samples counted: SAMPLES wraps, TICK counts its period. -/
def countSample (s : State) : State :=
  let period := afld s 0x010 0 16
  let t := s.audio.tick + 1
  let s1 := modAudio (fun a => { a with samples := (a.samples + 1) % 2 ^ 32, tick := if period ≤ t then 0 else t }) s
  if 0 < period ∧ period ≤ t then audEvent 10 78 s1 else s1

/-- One sample boundary. -/
def sampleBoundary (s : State) : State :=
  let s1 := (List.range 4).foldl (fun x n => voiceStep n x) (audioApply s)
  let s2 := modAudio (fun a => { a with prst := [] }) s1
  let sp := spStep s2
  let st := streamStep sp.2
  let xs := (List.range 4).map (voiceOut st.2) ++ [sp.1, st.1]
  let m0 := satSink 0 (mixSum st.2 0 xs) st.2
  let m1 := satSink 1 (mixSum m0.2 1 xs) m0.2
  let y0 := equalise 0 m0.1 m1.2
  let y1 := equalise 1 m1.1 y0.2
  countSample (sinksOut y0.1 y1.1 (silence 1 y1.1 (silence 0 y0.1 y1.2)))

/-- SAMPLE_BOUNDARY. -/
def execSampleBoundary (s : State) : Host.Outcome State Fault Refusal :=
  .next (live s fun s => if aclkRuns s then sampleBoundary s else s)

/-- ACLK starts: SAMPLES restarts, the LFSRs are seeded (R372, Table 18-1). -/
def audioStart (s : State) : State :=
  (List.range 4).foldl (fun x n => setVoice n { voice x n with lfsr := 1 } x)
    (modAudio (fun a => { a with samples := 0, tick := 0 }) s)

/-- ACLK stops, or the sinks are held: the audio balls are low (Table 18-4). -/
def audioStop (s : State) : State :=
  emit (.audio {}) ((List.range 2).foldl (fun x k => modSink k (fun z => { z with en := false, e1 := 0, e2 := 0 }) x) s)

/-! AUD registers (R387). -/

/-- The value a register is written with: a field outside its range keeps what it has. -/
def audFit (o : Nat) (old v : Word) : Word :=
  let keep := fun (bad : Bool) (lo len : Nat) (v : Word) => if bad then wsetFld v lo len (wfld old lo len) else v
  if inRange o 0x040 0x0BF ∧ o % 0x20 = 0x04 then keep (decide (4 < wfld v 0 3)) 0 3 v
  else match o with
  | 0x0C4 => keep (!inRange (wfld v 0 22) 1 2097152) 0 22 v
  | 0x0CC => keep (!inRange v.toNat 0x100 0x40000) 0 32 v
  | 0x180 => keep (wfld v 0 2 == 3) 0 2 v
  | 0x190 => keep (wfld v 0 2 == 3) 0 2 v
  | 0x184 => keep (wfld v 16 16 == 0) 16 16 v
  | 0x194 => keep (wfld v 16 16 == 0) 16 16 v
  | _ => v

/-- A software write of an AUD register; the write-only bits wait for the boundary. -/
def audWrite (o : Nat) (v : Word) (s : State) : State :=
  let s1 := writeTyped (audBase + o) false (audFit o (reg s (audBase + o)) v) s
  if inRange o 0x040 0x0BF ∧ o % 0x20 = 0x10 then
    if wbit v 1 then
      let n := (o - 0x040) / 0x20
      modAudio (fun a => { a with prst := if a.prst.contains n then a.prst else a.prst ++ [n] }) s1
    else s1
  else if o = 0x0D0 then spWrite v s
  else if o = 0x200 ∨ o = 0x300 then
    modSink ((o - 0x200) / 0x100) (fun z => { z with commit := z.commit || wbit v 8, clr := z.clr || wbit v 9 }) s1
  else s1

/-- The value an AUD register reads as. -/
def audPeek (o : Nat) (s : State) : Word :=
  let a := s.audio
  let act := (List.range 4).foldl (fun t n => t + b2n ((voice s n).env != 0) * 2 ^ n) 0
  match o with
  | 0x000 => w32 (b2n (aclkRuns s) + act * 2 + b2n a.spRun * 2 ^ 5 + b2n (streamOwner s).isSome * 2 ^ 6
      + (streamOwner s).getD 0 * 2 ^ 7 + b2n (sink s 0).en * 2 ^ 9 + b2n (sink s 1).en * 2 ^ 10
      + b2n (sink s 0).commit * 2 ^ 11 + b2n (sink s 1).commit * 2 ^ 12)
  | 0x00C => w32 a.samples
  | 0x0D4 => w32 (a.spPos / 65536 % 2 ^ 21)
  | _ =>
    if inRange o 0x040 0x0BF ∧ o % 0x20 = 0x14 then
      let v := voice s ((o - 0x040) / 0x20)
      w32 (v.level + v.env * 2 ^ 16)
    else reg s (audBase + o)

/-- VOICE_KEY: a write of a voice's KEY register. -/
def execVoiceKey (n : Fin 4) (v : Word) (s : State) : Host.Outcome State Fault Refusal :=
  .next (live s (audWrite (0x050 + 0x20 * n.val) v))

/-- PRST: a write of a voice's KEY register. -/
def execPrst (n : Fin 4) (v : Word) (s : State) : Host.Outcome State Fault Refusal :=
  .next (live s (audWrite (0x050 + 0x20 * n.val) v))

/-- SP_RUN: a write of SP_CTRL. -/
def execSpRun (v : Word) (s : State) : Host.Outcome State Fault Refusal := .next (live s (audWrite 0x0D0 v))

/-- EQ_COMMIT: a write of a sink's EQ_CTRL. -/
def execEqCommit (k : Fin 2) (v : Word) (s : State) : Host.Outcome State Fault Refusal :=
  .next (live s (audWrite (0x200 + 0x100 * k.val) v))

/-- EQ_CLR: a write of a sink's EQ_CTRL. -/
def execEqClr (k : Fin 2) (v : Word) (s : State) : Host.Outcome State Fault Refusal :=
  .next (live s (audWrite (0x200 + 0x100 * k.val) v))

end Sys2Proof.Machine
end

