-- ==== Sys2Proof/Machine/Boundary.lean ====
section
/-! DEFINITION. The boundary register: its cells, and what they drive the covered balls with (R427–R429, Tables 20-1 to
20-4). -/

namespace Sys2Proof.Machine

/-- A ball that the boundary register covers. -/
inductive Ball where
  | spiSck | spiCs | spiIo (n : Nat) | irq2 | sysrst | rstout | perst (door : Nat)
  | gp (n : Nat) | nce (n : Nat) | nrb (n : Nat) | nwp | nvsel | ndq (n : Nat) | ndqs (n : Nat) | nre (n : Nat) | nwe | ncle
  | nale | fanPwm (n : Nat) | tach (n : Nat) | gate (n : Nat) | hall (n : Nat) | trip | aud (n : Nat) | pnl (n : Nat)
  deriving DecidableEq, Repr

/-- The covered balls in ball order. -/
def boundaryBalls : List Ball :=
  [.spiSck, .spiCs] ++ (List.range 4).map .spiIo ++ [.irq2, .sysrst, .rstout, .perst 0, .perst 1]
    ++ (List.range 16).map (fun n => .gp (32 + n)) ++ [.nce 1, .nrb 0, .nrb 1, .nwp, .nvsel]
    ++ (List.range 16).map (fun n => .gp (16 + n)) ++ (List.range 8).map .ndq ++ [.ndqs 0, .ndqs 1, .nre 0, .nre 1]
    ++ [.nwe, .ncle, .nale, .nce 0]
    ++ (List.range 16).map .gp ++ [.fanPwm 0, .tach 0, .fanPwm 1, .tach 1, .fanPwm 2, .tach 2]
    ++ (List.range 6).map .gate ++ (List.range 3).map .hall ++ [.trip] ++ (List.range 8).map .aud ++ (List.range 28).map .pnl

/-- A ball's cells: has it an input cell, has it an output and a control cell? -/
def ballCells (b : Ball) : Bool × Bool :=
  match b with
  | .gp _ | .spiIo _ | .ndq _ | .ndqs _ => (true, true)
  | .spiSck | .spiCs | .sysrst | .nrb _ | .nvsel | .tach _ | .hall _ | .trip | .perst _ => (true, false)
  | _ => (false, true)

/-- The number of cells of a ball. -/
def cellCount (b : Ball) : Nat := b2n (ballCells b).1 + 2 * b2n (ballCells b).2

/-- What the cells drive their balls with, from ball `bs` on. -/
def bsrDrives (trip : Bool) (cells : List Bool) (bs : List Ball) : List Nat :=
  match bs with
  | [] => []
  | b :: r =>
    let k := b2n (ballCells b).1
    let rest := bsrDrives trip (cells.drop (cellCount b)) r
    if (ballCells b).2 then
      let v := if cells.getD (k + 1) false then b2n (cells.getD k false) else 2
      (match b with | .gate _ => if trip then 0 else v | _ => v) :: rest
    else rest

/-- The drives of the covered outputs under the selected instruction; none where it leaves them to their functions. -/
def tapDrives (s : State) : Option (List Nat) :=
  match s.tap.ir with
  | 0x00 => some (bsrDrives s.fans.tripIn s.tap.bsr boundaryBalls)
  | 0x04 => some (bsrDrives s.fans.tripIn s.tap.bsr boundaryBalls)
  | 0x03 => some ((boundaryBalls.filter fun b => (ballCells b).2).map fun _ => 2)
  | _ => none

/-- Send out what the balls are driven with. -/
def tapEmit (s : State) : State :=
  match tapDrives s with
  | none => s
  | some l => emit (.boundary l) s

/-- An edge of FAN3_TRIP_N changes what the cells drive the gate balls with (R429). -/
def tripDrives (s : State) : State := if s.tap.ir = 0x00 ∨ s.tap.ir = 0x04 then tapEmit s else s

end Sys2Proof.Machine
end

