-- ==== Sys2Proof/Machine/Timers.lean ====
section
/-! DEFINITION. Timers TM0–TM7 (R324–R328). -/

namespace Sys2Proof.Machine

def tmrBase : Nat := 0x40010000

/-- Address of a register of timer `n`. -/
def tmrAddr (n o : Nat) : Nat := tmrBase + 0x040 + 0x20 * n + o

/-- Is timer `n` enabled? -/
def tmrEn (s : State) (n : Nat) : Bool := rbit s (tmrBase + 0x004) n

/-- CFG.SRC of timer `n`. -/
def tmrSrc (s : State) (n : Nat) : Nat := rfld s (tmrAddr n 0x00) 0 3

/-- COUNT of timer `n`. -/
def tmrCountOf (s : State) (n : Nat) : Nat := rfld s (tmrAddr n 0x10) 0 16

def setPrescaler (n k : Nat) (s : State) : State := { s with tmr := tset {} s.tmr n { pre := k } }

/-- Copy RELOAD_P and CMP_P into the live values. -/
def tmrLoadLive (n : Nat) (s : State) : State :=
  setRegN (tmrAddr n 0x18) (rfld s (tmrAddr n 0x08) 0 16 + rfld s (tmrAddr n 0x0C) 0 16 * 2 ^ 16) s

/-- The wrap of timer `n`, its cascade left out (R326). -/
def tmrWrap (n : Nat) (s : State) : State :=
  let s1 := setRegN (tmrAddr n 0x10) 0 (tmrLoadLive n s)
  let s2 := raise (16 + 2 * n) (putBit tmrBase (2 * n) true s1)
  if rbit s2 (tmrAddr n 0x00) 3 then putBit (tmrBase + 0x004) n false s2 else s2

/-- A counter that has become equal to its live CMP sets its MATCH flag and raises its source (R326). -/
def tmrMatch (n : Nat) (s : State) : State :=
  let cmp := rfld s (tmrAddr n 0x18) 16 16
  if tmrCountOf s n = cmp ∧ cmp ≤ rfld s (tmrAddr n 0x18) 0 16 then
    raise (17 + 2 * n) (putBit tmrBase (2 * n + 1) true s)
  else s

/-- One count of timer `n`; a wrap counts one for the timer above where its SRC is 5 (R326). -/
def tmrCount : Nat → Nat → State → State
  | 0, _, s => s
  | fuel + 1, n, s =>
    if tmrCountOf s n = rfld s (tmrAddr n 0x18) 0 16 then
      let s1 := tmrMatch n (tmrWrap n s)
      if n < 7 ∧ tmrSrc s1 (n + 1) = 5 ∧ tmrEn s1 (n + 1) then tmrCount fuel (n + 1) s1 else s1
    else tmrMatch n (setRegN (tmrAddr n 0x10) ((tmrCountOf s n + 1) % 2 ^ 16) s)

/-- The TMn_IN pin of timer `n`, GP(8 + n), has its fixed function; otherwise the timer sees its input low (R404). -/
def tmrPin (s : State) (n : Nat) : Bool := rbit s 0x40020050 (8 + n)

/-- PXCLK runs: its gate is open and the device is not in NAP (R28). -/
def pxclkRuns (s : State) : Bool := rbit s 0x400A0010 0 && s.clk.pstate != .nap

/-- Does this event count for timer `n` by its SRC (R324)? A pin without its fixed function gives no edge, and a gated PXCLK
no panel line start. -/
def tmrSees (s : State) (ev : TimerEvent) (n : Nat) : Bool :=
  tmrEn s n && match ev with
    | .tick => tmrSrc s n == 0
    | .edge m rising => m.val == n && tmrPin s n && (tmrSrc s n == (if rising then 1 else 2) || tmrSrc s n == 3)
    | .line => tmrSrc s n == 4 && pxclkRuns s

/-- An event reaches timer `n`: a TCLK tick passes its prescaler first (R324). -/
def tmrEvent (ev : TimerEvent) (s : State) (n : Nat) : State :=
  if tmrSees s ev n then
    match ev with
    | .tick =>
      let p := (tget {} s.tmr n).pre
      if p < rfld s (tmrAddr n 0x04) 0 16 then setPrescaler n (p + 1) s
      else tmrCount 8 n (setPrescaler n 0 s)
    | _ => tmrCount 8 n s
  else s

/-- Timer `n` starts: the preloads go live and the prescaler restarts (R325). -/
def tmrStart (n : Nat) (s : State) : State := setPrescaler n 0 (tmrLoadLive n s)

/-- EN takes a new value; every bit that changes from 0 to 1 starts its timer (R325). -/
def tmrSetEn (v : Nat) (s : State) : State :=
  let s1 := (List.range 8).foldl (fun x n => if bitAt v n && !tmrEn s n then tmrStart n x else x) s
  setRegN (tmrBase + 0x004) (v % 256) s1

/-- A write of START: GO bits set EN bits, STOP bits clear them (Table 15-6). -/
def tmrStartWrite (go stop : Nat) (s : State) : State :=
  tmrSetEn (((reg s (tmrBase + 0x004)).toNat ||| go) &&& (255 - stop)) s

/-- Timers above `n` that a run of SRC 5 joins to it without a break (R327). -/
def tmrChain (s : State) : Nat → Nat → List Nat
  | 0, _ => []
  | fuel + 1, n => if n < 7 ∧ tmrSrc s (n + 1) = 5 then (n + 1) :: tmrChain s fuel (n + 1) else []

/-- A read of COUNT latches the counts of the timers joined above (R327). -/
def tmrLatch (n : Nat) (s : State) : State :=
  (tmrChain s 8 n).foldl (fun x m => setRegN (tmrAddr m 0x14) (tmrCountOf s m) x) s

/-- A software write of a TMR register (R325, R328). -/
def tmrWrite (o : Nat) (v : Word) (s : State) : State :=
  if o = 0x004 then tmrSetEn (wfld v 0 8) s
  else if o = 0x008 then tmrStartWrite (wfld v 0 8) (wfld v 8 8) s
  else if inRange o 0x040 0x13F then
    let n := (o - 0x040) / 0x20
    let k := (o - 0x040) % 0x20
    if k = 0x00 then
      if tmrEn s n ∨ wfld v 0 3 ≥ 6 ∨ (n = 0 ∧ wfld v 0 3 = 5) then s else writeTyped (tmrBase + o) false v s
    else if k = 0x04 ∨ k = 0x10 then
      if tmrEn s n then s else writeTyped (tmrBase + o) false v s
    else writeTyped (tmrBase + o) false v s
  else writeTyped (tmrBase + o) false v s

/-- The side effect of a read of a TMR register. -/
def tmrReadEffect (o : Nat) (s : State) : State :=
  if inRange o 0x040 0x13F && (o - 0x040) % 0x20 == 0x10 then tmrLatch ((o - 0x040) / 0x20) s else s

/-- The level of TMn_OUT (R326). -/
def tmrOut (s : State) (n : Nat) : Bool :=
  let c := tmrAddr n 0x00
  rbit s c 4 && ((decide (tmrCountOf s n < rfld s (tmrAddr n 0x18) 16 16)) ^^ rbit s c 5)

/-- TIMER_EN (R325). -/
def execTimerEn (v : Word) (s : State) : Host.Outcome State Fault Refusal :=
  .next (live s (tmrWrite 0x004 v))

/-- TIMER_GO: the GO bits of a START write (R325). -/
def execTimerGo (v : Word) (s : State) : Host.Outcome State Fault Refusal :=
  .next (live s (tmrStartWrite (wfld v 0 8) 0))

/-- TIMER_STOP: the STOP bits of a START write (R328). -/
def execTimerStop (v : Word) (s : State) : Host.Outcome State Fault Refusal :=
  .next (live s (tmrStartWrite 0 (wfld v 8 8)))

/-- TIMER_COUNT: one countable event; every timer that selects it counts (R324, R326). -/
def execTimerCount (ev : TimerEvent) (s : State) : Host.Outcome State Fault Refusal :=
  .next (live s fun s => (List.range 8).foldl (tmrEvent ev) s)

/-- TIMER_COUNT_READ (R327). -/
def execTimerCountRead (n : Fin 8) (s : State) : Host.Outcome State Fault Refusal :=
  .next (live s fun s => tmrLatch n.val (emit (.readData (tmrCountOf s n.val)) s))

end Sys2Proof.Machine
end

