-- ==== Sys2Proof/Machine/Pins.lean ====
section
/-! DEFINITION. General pins: levels and edges, outputs, fixed functions, sleep states, locks (R391, R404–R411). -/

namespace Sys2Proof.Machine

def gpioBase : Nat := 0x40020000

def setPins (p : Pins) (s : State) : State := { s with pins := p }

/-- Address of a bank register of GPIO: the register's first offset and the bank. -/
def gpioAddr (o b : Nat) : Nat := gpioBase + o + 4 * b

/-- Bit of a pin in a bank register. -/
def gpBit (s : State) (o n : Nat) : Bool := rbit s (gpioAddr o (n / 16)) (n % 16)

/-- A pin's PINCFG. -/
def pinCfg (s : State) (n : Nat) : Word := reg s (gpioBase + 0x100 + 4 * n)

/-- A pin is resolved (R391). -/
def gpResolved (s : State) (n : Nat) : Bool := !gpBit s 0x070 n

/-- IN of a bank: the levels of its resolved pins (R407). -/
def inWord (s : State) (b : Nat) : Word :=
  w32 (fld s.pins.level (16 * b) 16) &&& ~~~(reg s (gpioAddr 0x070 b))

/-- A pin locked by its bank's lock sequence (R409). -/
def gpLocked (s : State) (n : Nat) : Bool := gpBit s 0x080 n

/-- Pins take their sleep states: NAP with NAP_SLEEP, or the fault state entered by BIST_FAILED (R408). -/
def pinsAsleep (s : State) : Bool :=
  (s.clk.pstate == .nap && rbit s (gpioBase + 0x090) 0) || (s.fault.mode == 2 && s.faults.bist)

/-- What a general pin's set-up drives: 0 low, 1 high, 2 high impedance, 3 pull-down, 4 pull-up (R406, Table 19-9). A timer's
output pin with its fixed function carries TMn_OUT; an I2C pin is released between transactions (R404, R410). -/
def pinDrive (s : State) (n : Nat) : Nat :=
  let c := pinCfg s n
  let pull := match wfld c 0 2 with | 1 => 3 | 2 => 4 | _ => 2
  if gpBit s 0x050 n && inRange n 16 23 then b2n (tmrOut s (n - 16))
  else if gpBit s 0x040 n then
    if gpBit s 0x010 n then (if wbit c 2 then pull else 1) else 0
  else pull

/-- What a pin drives in its sleep state, `now` being its drive at entry (R408). -/
def pinSleep (s : State) (n now : Nat) : Nat :=
  let c := pinCfg s n
  match wfld c 5 3 with
  | 0 => 0
  | 1 => 1
  | 2 => now
  | 4 => (match wfld c 0 2 with | 1 => 3 | 2 => 4 | _ => 2)
  | _ => 2

/-- Drives of all pins. -/
def allDrives (s : State) : List Nat := (List.range 48).map (pinDrive s)

/-- What a pin's ball is driven with now. -/
def pinBall (s : State) (n : Nat) : Nat :=
  match s.pins.pads with
  | [] => if pinsAsleep s then pinSleep s n (s.pins.held.getD n 2) else pinDrive s n
  | p => p.getD n 2

/-- Remember the drives at entry to a sleep state. -/
def pinsHold (s : State) : State := setPins { s.pins with held := allDrives s } s

/-- The pads latch their sleep states at entry to SLEEP. -/
def padsLatch (s : State) : State :=
  setPins { s.pins with pads := (List.range 48).map fun n => pinSleep s n (pinBall s n) } s

/-- Some pin has FUNC and OE both 1 (R405). -/
def pinConflict (s : State) : Bool :=
  (List.range 3).any fun b => reg s (gpioAddr 0x040 b) &&& reg s (gpioAddr 0x050 b) != 0#32

/-- After a write: the conflict of R405 is undefined. -/
def pinSettle (s : State) : State := if pinConflict s then { s with undef := true } else s

/-- Write the unlocked bits of OE or FUNC of a bank. -/
def lockedWrite (a b : Nat) (v : Word) (s : State) : State :=
  let free := w32 (regSpec a).lk &&& ~~~(reg s (gpioAddr 0x080 b))
  pinSettle (setReg a ((reg s a &&& ~~~free) ||| (v &&& free)) s)

/-- Set or clear OUT bits of a bank (R406). -/
def outSet (b : Nat) (m : Word) (s : State) : State :=
  let a := gpioAddr 0x010 b
  setReg a (reg s a ||| (m &&& 0xFFFF#32)) s

def outClear (b : Nat) (m : Word) (s : State) : State :=
  let a := gpioAddr 0x010 b
  setReg a (reg s a &&& ~~~(m &&& 0xFFFF#32)) s

/-- A module select drives its pin's OUT bit (R115, R406). -/
def outBit (n : Nat) (high : Bool) (s : State) : State := putBit (gpioAddr 0x010 (n / 16)) (n % 16) high s

/-- A write of LOCKb advances its sequence: 0x5A, 0xA5, then a mask (R409). -/
def lockWrite (b : Nat) (v : Word) (s : State) : State :=
  let toward := fun k => setPins { s.pins with lockSeq := tset 0 s.pins.lockSeq b k } s
  match tget 0 s.pins.lockSeq b with
  | 2 => setReg (gpioAddr 0x080 b) (reg s (gpioAddr 0x080 b) ||| (v &&& 0xFFFF#32)) (toward 0)
  | 1 => if v = 0xA5#32 then toward 2 else if v = 0x5A#32 then toward 1 else toward 0
  | _ => if v = 0x5A#32 then toward 1 else toward 0

/-- The value a GPIO register reads as. -/
def gpioPeek (o : Nat) (s : State) : Word :=
  match o with
  | 0x000 => inWord s 0
  | 0x004 => inWord s 1
  | 0x008 => inWord s 2
  | _ => reg s (gpioBase + o)

/-- A software write of a GPIO register (R411): a value outside a field's range is ignored. -/
def gpioWrite (o : Nat) (v : Word) (s : State) : State :=
  let b := o % 0x10 / 4
  if o % 0x10 = 0xC ∧ o < 0x090 then s
  else if inRange o 0x020 0x02B then outSet b v s
  else if inRange o 0x030 0x03B then outClear b v s
  else if inRange o 0x040 0x05B then lockedWrite (gpioBase + o) b v s
  else if inRange o 0x080 0x08B then lockWrite b v s
  else if inRange o 0x0A0 0x0AF then
    if wfld v 0 2 = 3 then s else writeTyped (gpioBase + o) (gpLocked s (2 * ((o - 0x0A0) / 4))) v s
  else if inRange o 0x100 0x1BF then
    if wfld v 0 2 = 3 ∨ 4 < wfld v 5 3 then s else writeTyped (gpioBase + o) (gpLocked s ((o - 0x100) / 4)) v s
  else writeTyped (gpioBase + o) false v s

/-- A detected edge: the level changes, the flag is set where EDGE selects it, and IRQ raises the bank's source (R407). -/
def gpioEdge (n : Nat) (rising : Bool) (s : State) : State :=
  if gpResolved s n && (bitAt s.pins.level n != rising) then
    let lv := if rising then s.pins.level + 2 ^ n else s.pins.level - 2 ^ n
    let s1 := setPins { s.pins with level := lv } s
    let c := pinCfg s n
    if bitAt (wfld c 8 2) (if rising then 0 else 1) then
      raiseIf (wbit c 10) (32 + n / 16) (putBit (gpioAddr 0x060 (n / 16)) (n % 16) true s1)
    else s1
  else s

/-- GPIO_EDGE. -/
def execGpioEdge (n : Fin 48) (rising : Bool) (s : State) : Host.Outcome State Fault Refusal :=
  .next (live s (gpioEdge n.val rising))

/-- OUTSET. -/
def execOutset (b : Fin 3) (v : Word) (s : State) : Host.Outcome State Fault Refusal := .next (live s (outSet b.val v))

/-- OUTCLR. -/
def execOutclr (b : Fin 3) (v : Word) (s : State) : Host.Outcome State Fault Refusal := .next (live s (outClear b.val v))

/-- LOCK_SEQUENCE. -/
def execLockSequence (b : Fin 3) (v : Word) (s : State) : Host.Outcome State Fault Refusal :=
  .next (live s (lockWrite b.val v))

/-- A general pin is resolved at a level: not an edge (R391). -/
def gpResolve (n : Nat) (high : Bool) (s : State) : State :=
  if gpResolved s n then s
  else
    let lv := s.pins.level - (if bitAt s.pins.level n then 2 ^ n else 0) + (if high then 2 ^ n else 0)
    putBit (gpioAddr 0x070 (n / 16)) (n % 16) false (setPins { s.pins with level := lv } s)

end Sys2Proof.Machine
end

