-- ==== Sys2Proof/Machine/Fans.lean ====
section
/-! DEFINITION. Fans, tachometers, the fan watchdog and the three-phase drive (R391–R403). -/

namespace Sys2Proof.Machine

def fanBase : Nat := 0x40030000
def fanFlags : Nat := fanBase + 0x004
def fanCtrl : Nat := fanBase + 0x008

def setFans (f : Fans) (s : State) : State := { s with fans := f }

/-! Tachometers (R393, R394). -/

def tach (s : State) (n : Nat) : Tach := tget {} s.fans.tach n

def setTach (n : Nat) (t : Tach) (s : State) : State := setFans { s.fans with tach := tset {} s.fans.tach n t } s

/-- Address of a tachometer register. -/
def tachAddr (n o : Nat) : Nat := fanBase + 0x040 + 0x10 * n + o

/-- TCLK ticks since a PCLK time: one tick is 125 PCLK cycles (Table 2-2). -/
def ticksSince (s : State) (t : Nat) : Nat := (nowP s - t) / 125

/-- P: the larger of PERIOD and the ticks since the last accepted edge, saturating. -/
def tachP (s : State) (n : Nat) : Nat :=
  let e := match (tach s n).edge with | some t => ticksSince s t | none => 0
  min 0xFFFFFF (max (rfld s (tachAddr n 0) 0 24) e)

/-- RPM. -/
def tachRpm (s : State) (n : Nat) : Nat :=
  let p := tachP s n
  if p = 0xFFFFFF then 0 else min 65535 (600000000 / (p * (rfld s (tachAddr n 8) 0 2 + 1)))

/-- Duty in force on a channel. -/
def applied (s : State) (n : Nat) : Nat := rfld s (fanBase + 0x030 + 4 * n) 0 9

def tachSlow (s : State) (n : Nat) : Bool := decide (rfld s (tachAddr n 0xC) 0 24 < tachP s n)

/-- The slowness of a channel counts toward a fault. -/
def slowCounts (s : State) (n : Nat) : Bool := tachSlow s n && rbit s (tachAddr n 8) 2 && decide (0 < applied s n)

/-- A change of a channel from `was`: a break in the slowness ends its fault and restarts the count. -/
def tachSettle (was : State) (n : Nat) (s : State) : State :=
  if slowCounts was n && slowCounts s n then s else setTach n { tach s n with faulted := false, mark := nowP s } s

/-- PCLK time from which a channel has been slow without a break: its last break, or the first tick in which the time since
the last edge exceeded LIM_PER. -/
def slowSince (s : State) (n : Nat) : Nat :=
  let lim := rfld s (tachAddr n 0xC) 0 24
  let t := tach s n
  if lim < rfld s (tachAddr n 0) 0 24 then t.mark
  else match t.edge with
    | some e => max t.mark (e + (lim + 1) * 125)
    | none => t.mark

/-- The channel has been slow for LIM_TIME. -/
def slowLong (s : State) (n : Nat) : Bool :=
  slowCounts s n && decide (rfld s (tachAddr n 8) 16 16 * 1250000 ≤ nowP s - slowSince s n)

/-- An accepted falling edge. -/
def tachEdge (n : Nat) (s : State) : State :=
  let s1 := match (tach s n).edge with
    | some t => setRegN (tachAddr n 0) (min 0xFFFFFF (ticksSince s t)) s
    | none => s
  tachSettle s n (setTach n { tach s1 n with edge := some (nowP s) } s1)

/-- TACH_EDGE: an unresolved input counts no edges. -/
def execTachEdge (n : Fin 3) (s : State) : Host.Outcome State Fault Refusal :=
  .next (live s fun s => if bitAt s.fans.resolved n.val then tachEdge n.val s else s)

/-- FAN_FAULT: a channel slow for LIM_TIME without a break; once per fault. -/
def execFanFault (n : Fin 4) (s : State) : Host.Outcome State Fault Refusal :=
  .next (live s fun s =>
    if slowLong s n.val && !(tach s n.val).faulted then
      raise (36 + n.val) (putBit fanFlags n.val true (setTach n.val { tach s n.val with faulted := true } s))
    else s)

/-! The table and the modes (R395, R396). -/

/-- Point `i` of the table: temperature and duty. -/
def tablePoint (s : State) (i : Nat) : Int × Nat :=
  let w := reg s (fanBase + 0x080 + 4 * i)
  (toSigned 8 (wfld w 0 8), wfld w 16 9)

/-- The temperatures are strictly ascending. -/
def tableAscends (s : State) : Bool := (List.range 7).all fun i => decide ((tablePoint s i).1 < (tablePoint s (i + 1)).1)

/-- The duty the table gives at a temperature (R395). -/
def tableDutyAt (s : State) (t : Int) : Nat :=
  if !tableAscends s then 400
  else if t ≤ (tablePoint s 0).1 then (tablePoint s 0).2
  else if (tablePoint s 7).1 ≤ t then (tablePoint s 7).2
  else
    match (List.range 7).find? fun i => decide ((tablePoint s i).1 ≤ t) && decide (t < (tablePoint s (i + 1)).1) with
    | none => 400
    | some i =>
      let (t0, d0) := tablePoint s i
      let (t1, d1) := tablePoint s (i + 1)
      ((d0 : Int) + (((d1 : Int) - d0) * (t - t0)).fdiv (t1 - t0)).toNat

/-- FAN_TABLE_EVAL. -/
def execFanTableEval (s : State) : Host.Outcome State Fault Refusal :=
  .next (live s fun s => setFans { s.fans with tableDuty := tableDutyAt s s.clk.hotTemp, tableBad := !tableAscends s } s)

def fanManual (s : State) : Bool := rbit s fanCtrl 0

/-- The duty a channel's next period takes (R396). -/
def dutyWanted (s : State) (n : Nat) : Nat :=
  let d := rfld s (fanBase + 0x020 + 4 * n) 0 9
  if !fanManual s then s.fans.tableDuty
  else if rbit s fanCtrl 1 then max d s.fans.tableDuty
  else d

/-! The fan watchdog (R396). -/

/-- Milliseconds left, rounded down. -/
def fanLeft (s : State) : Nat :=
  match s.fans.wdog with
  | some (n, t) => (n * 1250000 - (nowP s - t)) / 1250000
  | none => s.fans.left

/-- The watchdog starts with TIMEOUT. -/
def fanWdogStart (s : State) : State := setFans { s.fans with wdog := some (rfld s (fanBase + 0x010) 0 16, nowP s) } s

/-- The watchdog stops. -/
def fanWdogStop (s : State) : State := setFans { s.fans with wdog := none, left := fanLeft s } s

/-- A write of KICK: 0xFA5E reloads. -/
def fanKick (v : Word) (s : State) : State :=
  if wfld v 0 16 ≠ 0xFA5E then s
  else if fanManual s then fanWdogStart s
  else setFans { s.fans with left := rfld s (fanBase + 0x010) 0 16 } s

/-- FAN_KICK. -/
def execFanKick (v : Word) (s : State) : Host.Outcome State Fault Refusal := .next (live s (fanKick v))

/-- A write of CTRL: a 1 in MANUAL starts the watchdog; LOCK never returns to 0 (R402). -/
def fanCtrlWrite (v : Word) (s : State) : State :=
  let lock := rbit s fanCtrl 31 || wbit v 31
  let s1 := putBit fanCtrl 31 lock (writeTyped fanCtrl false v s)
  if wbit v 0 then fanWdogStart s1 else fanWdogStop s1

/-- MANUAL: a write of FAN.CTRL. -/
def execManual (v : Word) (s : State) : Host.Outcome State Fault Refusal := .next (live s (fanCtrlWrite v))

/-- The timeout taken at the watchdog's start has passed. -/
def fanExpired (s : State) : Bool :=
  match s.fans.wdog with
  | some (n, t) => decide (n * 1250000 ≤ nowP s - t)
  | none => false

/-- FAN_TAKEOVER: the watchdog expires in MANUAL. -/
def execFanTakeover (s : State) : Host.Outcome State Fault Refusal :=
  .next (live s fun s =>
    if fanManual s && fanExpired s then
      raise 43 (putBit fanFlags 6 true (setFans { s.fans with wdog := none, left := 0 } (putBit fanCtrl 0 false s)))
    else s)

/-- Entry to the fault state by BIST_FAILED clears MANUAL at once (R212). -/
def fanAuto (s : State) : State := if fanManual s then fanWdogStop (putBit fanCtrl 0 false s) else s

/-! The three-phase drive (R397–R401). -/

/-- The Hall code in force: unresolved inputs read 0. -/
def hallCode (s : State) : Nat := s.fans.hall

def hallValid (code : Nat) : Bool := inRange code 1 6

/-- PWM phase and return phase of a code, phases A, B, C as 0, 1, 2; DIR exchanges them (Table 19-3). -/
def hallStep (code : Nat) (dir : Bool) : Option (Nat × Nat) :=
  let row := match code with
    | 5 => some (0, 1)
    | 1 => some (0, 2)
    | 3 => some (1, 2)
    | 2 => some (1, 0)
    | 6 => some (2, 0)
    | 4 => some (2, 1)
    | _ => none
  if dir then row.map fun p => (p.2, p.1) else row

/-! The gate outputs: AH, AL, BH, BL, CH, CL as 0 to 5. -/

/-- TCLK ticks since release. -/
def tickNow (s : State) : Nat := nowP s / 125

/-- The tick of the PWM period: it is 400 ticks long. -/
def pwmTick (s : State) : Nat := min 399 (tickNow s - s.fans.pwmAt)

/-- The ticks of a PWM period, first and past the last, in which gate `g`'s command is true (R397, R399). -/
def gateRun (s : State) (g : Nat) : Nat × Nat :=
  if s.fans.f3 ≠ 2 then (0, 0)
  else match hallStep (hallCode s) s.fans.dir with
    | none => (0, 0)
    | some (p, r) =>
      let q := applied s 3
      if g = 2 * p then (0, q)
      else if g = 2 * p + 1 then (if s.fans.comp then (q, 400) else (0, 0))
      else if g = 2 * r + 1 then (0, 400)
      else (0, 0)

/-- The tick from which a gate's command is true in the present run of this period. -/
def gateRise (s : State) (g : Nat) : Nat :=
  let a := (gateRun s g).1
  let f := s.fans.gateFrom.getD g 0
  if a = 0 then f else max (s.fans.pwmAt + a) f

/-- Since when each gate's command has been true at tick `c` of the period; none where it is false. -/
def gateSince (s : State) (c : Nat) : List (Option Nat) :=
  (List.range 6).map fun g =>
    let run := gateRun s g
    if run.1 ≤ c ∧ c < run.2 then some (gateRise s g) else none

/-- The ticks of this period from now on in which gate `g` is high: it rises DEAD ticks after its command and falls with it
(R398). -/
def gateHigh (s : State) (g : Nat) : Nat × Nat :=
  let lo := max (pwmTick s) (gateRise s g + s.fans.dead - s.fans.pwmAt)
  if lo < (gateRun s g).2 then (lo, (gateRun s g).2) else (0, 0)

/-- The drive has changed: a command that was true before (`was`) and still is has been so all along, one that has become
true rises now. While it was and is out of RUN the gates stay low. -/
def gateSettle (was : List (Option Nat)) (s : State) : State :=
  if was.all (·.isNone) && s.fans.f3 != 2 then s
  else
    let on := gateSince s (pwmTick s)
    let s1 := setFans { s.fans with
      gateFrom := (List.range 6).map fun g => if (on.getD g none).isSome then (was.getD g none).getD (tickNow s) else 0 } s
    emit (.gates ((List.range 6).map (gateHigh s1))) s1

/-- The drive changes state (R400). -/
def f3To (st : Nat) (s : State) : State :=
  if s.fans.f3 = st then setFans { s.fans with arm := false } s
  else gateSettle (gateSince s (pwmTick s)) (raise 44 (setFans { s.fans with f3 := st, arm := false } s))

/-- An invalid code met in RUN (R399). -/
def hallErr (s : State) : State := raise 42 (putBit fanFlags 7 true s)

/-- A filtered Hall code takes effect; a falling FAN3_HA is FAN3's tachometer edge (R393, R397, R399). -/
def hallChange (code : Nat) (s : State) : State :=
  let m := code &&& fld s.fans.resolved 3 3
  let old := s.fans.hall
  if m = old then s
  else
    let s1 := setFans { s.fans with hall := m } s
    let s2 := if bitAt old 0 && !bitAt m 0 then tachEdge 3 s1 else s1
    gateSettle (gateSince s (pwmTick s)) (if s.fans.f3 = 2 ∧ hallValid m = false then hallErr s2 else s2)

/-- HALL_CHANGE. -/
def execHallChange (code : Fin 8) (s : State) : Host.Outcome State Fault Refusal := .next (live s (hallChange code.val))

/-- FAN3_TRIP: the trip latches in every state, and overrides the gates' boundary cells (R401, R429). -/
def execFan3Trip (s : State) : Host.Outcome State Fault Refusal :=
  .next (live s fun s =>
    tripDrives (f3To 0 (raise 40 (putBit fanFlags 4 true (setFans { s.fans with tripIn := true } s)))))

/-- F3_TRIP_RELEASE. -/
def execF3TripRelease (s : State) : Host.Outcome State Fault Refusal :=
  .next (live s fun s =>
    if s.fans.tripIn && bitAt s.fans.resolved 6 then
      tripDrives (raiseIf (s.fans.f3 == 0) 41 (setFans { s.fans with tripIn := false } s))
    else s)

/-- A write of F3CMD, judged against the state before it (R400). -/
def f3Command (v : Word) (s : State) : State :=
  match s.fans.f3 with
  | 0 =>
    let s1 := if wbit v 0 then
        (if s.fans.tripIn then putBit fanFlags 5 true s else f3To 1 s)
      else s
    if wbit v 1 then putBit fanFlags 8 true s1 else s1
  | 1 => if wbit v 1 then setFans { s.fans with arm := true } s else s
  | _ => if wbit v 2 then f3To 1 s else s

/-- F3_CLR. -/
def execF3Clr (s : State) : Host.Outcome State Fault Refusal := .next (live s (f3Command 1#32))

/-- F3_ARM. -/
def execF3Arm (s : State) : Host.Outcome State Fault Refusal := .next (live s (f3Command 2#32))

/-- F3_DISARM. -/
def execF3Disarm (s : State) : Host.Outcome State Fault Refusal := .next (live s (f3Command 4#32))

/-- The duties, DIR, COMP and DEAD that a PWM period takes (R392, R397, R398). -/
def pwmTake (s : State) : State :=
  let s1 := (List.range 4).foldl (fun x n => tachSettle s n (setRegN (fanBase + 0x030 + 4 * n) (dutyWanted s n) x)) s
  setFans { s1.fans with
    dir := rbit s fanCtrl 2, comp := rbit s fanCtrl 3, dead := rfld s (fanBase + 0x01C) 0 6, pwmAt := tickNow s } s1

/-- PWM_PERIOD_START: the period takes its set-up, and an ARM brings the drive to RUN (R392, R397, R398, R400). -/
def pwmStart (s : State) : State :=
  let s1 := pwmTake s
  let s2 := emit (.fanPwm ((List.range 3).map (applied s1))) s1
  if s2.fans.arm ∧ s2.fans.f3 = 1 then
    let s3 := f3To 2 s2
    if hallValid (hallCode s3) then s3 else hallErr s3
  else gateSettle (gateSince s 399) s2

/-- PWM_PERIOD_START. -/
def execPwmPeriodStart (s : State) : Host.Outcome State Fault Refusal := .next (live s pwmStart)

/-! Resolution of inputs (R391). -/

/-- Mark an input of the fan block resolved. -/
def fanResolve (i : Nat) (f : Fans → Fans) (s : State) : State :=
  if bitAt s.fans.resolved i then s else setFans (f { s.fans with resolved := s.fans.resolved + 2 ^ i }) s

/-- INPUT_RESOLVED: the input is read through its receiver from now on; resolution itself is no edge. -/
def execInputResolved (i : InputPin) (high : Bool) (s : State) : Host.Outcome State Fault Refusal :=
  .next (live s fun s =>
    match i with
    | .gp n => gpResolve n.val high s
    | .tach n => fanResolve n.val id s
    | .hall n =>
      if bitAt s.fans.resolved (3 + n.val) then s
      else
        let s1 := fanResolve (3 + n.val) id s
        if high then hallChange (s.fans.hall + 2 ^ n.val) s1 else s1
    | .trip => if bitAt s.fans.resolved 6 then s else tripDrives (fanResolve 6 (fun f => { f with tripIn := !high }) s))

/-! FAN registers (R402). -/

/-- The value a FAN register reads as. -/
def fanPeek (o : Nat) (s : State) : Word :=
  match o with
  | 0x000 => w32 (b2n (fanManual s) + 2 * b2n s.fans.tableBad
      + ((List.range 4).map fun n => b2n (tachSlow s n) * 2 ^ (2 + n)).foldl (· + ·) 0
      + s.fans.f3 * 2 ^ 6 + b2n s.fans.tripIn * 2 ^ 8 + hallCode s * 2 ^ 9 + s.fans.tableDuty * 2 ^ 16)
  | 0x014 => w32 (fanLeft s)
  | _ =>
    if inRange o 0x040 0x07F && o % 0x10 == 4 then w32 (tachRpm s ((o - 0x040) / 0x10))
    else reg s (fanBase + o)

/-- Is a value within a FAN register's stated ranges? -/
def fanInRange (o : Nat) (v : Word) : Bool :=
  if o = 0x010 then inRange (wfld v 0 16) 10 10000
  else if o = 0x01C then wfld v 0 6 != 0
  else if inRange o 0x020 0x02F then wfld v 0 9 ≤ 400
  else if inRange o 0x040 0x07F && o % 0x10 == 8 then wfld v 16 16 != 0
  else if inRange o 0x040 0x07F && o % 0x10 == 0xC then inRange (wfld v 0 24) 1 16777214
  else if inRange o 0x080 0x09F then wfld v 16 9 ≤ 400
  else true

/-- A software write of a FAN register. -/
def fanWrite (o : Nat) (v : Word) (s : State) : State :=
  match o with
  | 0x008 => fanCtrlWrite v s
  | 0x00C => fanKick v s
  | 0x018 => f3Command v s
  | _ =>
    if !fanInRange o v then s
    else
      let s1 := writeTyped (fanBase + o) (rbit s fanCtrl 31) v s
      if inRange o 0x040 0x07F then tachSettle s ((o - 0x040) / 0x10) s1 else s1

end Sys2Proof.Machine
end

