-- ==== Sys2Proof/Machine/Modules.lean ====
section
/-! DEFINITION. I2C controllers and MODULE_XFER (R113–R115, R255, R410). -/

namespace Sys2Proof.Machine

def i2cCtl (s : State) (n : Nat) : I2cCtl := tget {} s.i2c n

def setI2c (n : Nat) (c : I2cCtl) (s : State) : State := { s with i2c := tset {} s.i2c n c }

/-- Controller `n` is enabled: both of its pins have FUNC 1 and are not in their sleep states (R408, R410). -/
def i2cEnabled (s : State) (n : Nat) : Bool := gpBit s 0x050 (2 * n) && gpBit s 0x050 (2 * n + 1) && !pinsAsleep s

/-- The select lines before a transaction for a port (R115): the line held for another port is driven high, the port's own
is driven low. -/
def selectFor (n : Nat) (x : I2cXfer) (s : State) : State :=
  let c := i2cCtl s n
  if c.last = x.port ∧ c.sel = x.select then s
  else
    let s1 := if c.sel = 255 then s else outBit c.sel true s
    let s2 := if x.select = 255 then s1 else outBit x.select false s1
    setI2c n { c with last := x.port, sel := x.select } s2

/-- A transfer ends with a DETAIL: source 104 + n (R115). -/
def xferNote (n : Nat) (x : I2cXfer) (detail count : Nat) (data : Option Bytes) (s : State) : State :=
  finish x.door x.tag stDoneNote detail count 0 0 data (raise (104 + n) s)

/-- A transaction as the bus carries it (R113): a write is an offset write followed by the data; a read is an offset write, a
repeated START and a read. -/
def busBits (x : I2cXfer) : List I2cBit :=
  let b := fun n => I2cBit.byte (BitVec.ofNat 8 n)
  let tail := if x.write then x.data.map .byte else [.restart, b (2 * x.addr + 1), .read x.len]
  [.start, b (2 * x.addr), b x.off] ++ tail ++ [.stop]

/-- Put something on the bus of controller `n`. -/
def busSend (n : Nat) (l : List I2cBit) (s : State) : State :=
  emit (.i2c n ((reg s (gpioBase + 0x0A0 + 4 * n)).toNat % 4) l) s

/-- The head of a controller's queue starts, and its command is past its commit point (Table 10-2); a disabled controller
completes it with BUS_DISABLED (R255). -/
def i2cStart : Nat → Nat → State → State
  | 0, _, s => s
  | fuel + 1, n, s =>
    let c := i2cCtl s n
    if c.running then s
    else match c.queue with
      | [] => s
      | x :: rest =>
        if !i2cEnabled s n then i2cStart fuel n (xferNote n x 0x14 0 none (setI2c n { c with queue := rest } s))
        else
          let s1 := modCmd x.door x.tag (fun y => { y with committed := true }) (selectFor n x s)
          busSend n (busBits x) (setI2c n { i2cCtl s1 n with running := true } s1)

/-- Start what can start. -/
def i2cPump (n : Nat) (s : State) : State := i2cStart ((i2cCtl s n).queue.length + 1) n s

/-- MODULE_XFER's pointer and length checks (R255). -/
def xferLength (c : Cmd) : Option Nat :=
  let n := pByte c.pkt 3
  if pByte c.pkt 1 = 1 then (if pktInLen c.pkt ≠ n then some n else if pktOutLen c.pkt ≠ 0 then some 0 else none)
  else lengthBad c.pkt 0 n

/-- MODULE_XFER (R114, R255). -/
def execModuleXfer (d : DoorId) (tag : Nat) (hostIn : Option Bytes) (s : State) : Host.Outcome State Fault Refusal :=
  .next (live s (dispatch d.val tag 0x54 fun c s =>
    let q := pByte c.pkt 0
    let op := pByte c.pkt 1
    let len := pByte c.pkt 3
    let p := port s q
    if !pointersOk d.val c.pkt then finishSt d.val tag stPointer 0 s
    else match (if 1 < op then none else xferLength c) with
      | some n => finishR0 d.val tag stLength n s
      | none =>
        if 15 < q then badValue d.val tag c 0 s
        else if 1 < op then badValue d.val tag c 1 s
        else if !(inRange len 1 128) then badValue d.val tag c 3 s
        else if !mayUse p.owner d.val then finishSt d.val tag stNotOwner 0 s
        else if p.ctrl = 0 then finishSt d.val tag stNoModule 0 s
        else match cmdInput s d.val c hostIn with
          | none => finishSt d.val tag stPointer 0 s
          | some bs =>
            let n := p.ctrl - 1
            let x : I2cXfer := { door := d.val, tag := tag, port := q, addr := p.addr, select := p.select,
                                 write := op == 1, off := pByte c.pkt 2, len := len, data := bs }
            i2cPump n (setI2c n { i2cCtl s n with queue := (i2cCtl s n).queue ++ [x] } s)))

/-- The running transaction of a controller ends with `k` data bytes transferred, `data` those of a read. After a bus timeout
nine SCL pulses and a STOP come before the next one (R113). -/
def i2cEnd (n : Nat) (detail : Option Nat) (k : Nat) (data : Bytes) (s : State) : State :=
  let c := i2cCtl s n
  match c.queue with
  | [] => s
  | x :: rest =>
    if !c.running then s
    else
      let s1 := setI2c n { c with queue := rest, running := false } s
      let m := min k x.len
      let out := if x.write || m == 0 then none else some (fitBytes m data)
      let s2 := if !i2cEnabled s n then xferNote n x 0x14 0 none s1
        else match detail with
          | some dt => xferNote n x dt m out (if dt = 0x12 then busSend n [.pulses 9, .stop] s1 else s1)
          | none => finish x.door x.tag stDone 0 x.len 0 0 (if x.write then none else some (fitBytes x.len data)) s1
      i2cPump n s2

/-- I2C_TRANSACTION_DONE (R114). -/
def execI2cTransactionDone (n : Fin 4) (r : I2cResult) (s : State) : Host.Outcome State Fault Refusal :=
  .next (live s fun s =>
    match r.how with
    | .ok => i2cEnd n.val none r.count r.data s
    | .addressNack => i2cEnd n.val (some 0x10) 0 [] s
    | .dataNack => i2cEnd n.val (some 0x11) r.count r.data s
    | .lost => i2cEnd n.val (some 0x13) r.count r.data s)

/-- I2C_BUS_TIMEOUT: SCL held low for 25 ms (R113). -/
def execI2cBusTimeout (n : Fin 4) (count : Nat) (data : Bytes) (s : State) : Host.Outcome State Fault Refusal :=
  .next (live s (i2cEnd n.val (some 0x12) count data))

/-- Transfers whose command has ended leave their controller. One that has started is past its commit point and runs on
(R201). -/
def purgeI2c (s : State) : State :=
  (List.range 4).foldl (fun x n =>
    let c := i2cCtl x n
    let stays := fun t => (findCmd x t.door t.tag).isSome
    let keep := if c.running then c.queue.take 1 ++ (c.queue.drop 1).filter stays else c.queue.filter stays
    setI2c n { c with queue := keep } x) s

end Sys2Proof.Machine
end

