-- ==== Sys2Proof/Machine/Bch.lean ====
section
/-! DEFINITION. The NAND's codewords and page columns, and the BCH code over GF(2^14) that protects them (R218–R220). -/

namespace Sys2Proof.Machine

/-! The field GF(2^14), elements as polynomials over GF(2) with the coefficient of x^i in bit i (R219). -/

/-- Multiplication by x modulo x^14 + x^5 + x^3 + x + 1. -/
def gfDouble (a : Nat) : Nat := if a < 8192 then 2 * a else (2 * a) ^^^ 0x402B

/-- A product of field elements. -/
def gfMul (a b : Nat) : Nat :=
  ((List.range 14).foldl (fun (p : Nat × Nat) i => (if b.testBit i then p.1 ^^^ p.2 else p.1, gfDouble p.2)) (0, a)).1

/-- A power of a field element. -/
def gfPow (a : Nat) : Nat → Nat
  | 0 => 1
  | n + 1 => gfMul (gfPow a n) a

def gfSquare (a : Nat) : Nat := gfMul a a

/-- The inverse of a non-zero element: its power 2^14 − 2. -/
def gfInv (a : Nat) : Nat :=
  ((List.range 13).foldl (fun (p : Nat × Nat) _ => let q := gfSquare p.2; (gfMul p.1 q, q)) (1, a)).1

/-- α^n, α being x. -/
def gfAlpha (n : Nat) : Nat := (List.range n).foldl (fun a _ => gfDouble a) 1

/-! The generator (R219). Polynomials over the field are lists of coefficients, lowest degree first. -/

/-- The conjugates of an element: its distinct powers 2^i. -/
def conjugates (a : Nat) : List Nat :=
  ((List.range 14).foldl (fun (p : List Nat × Nat) _ => (if p.1.contains p.2 then p.1 else p.1 ++ [p.2], gfSquare p.2)) ([], a)).1

/-- A polynomial times (x + c). -/
def gfPolyRoot (p : List Nat) (c : Nat) : List Nat :=
  List.zipWith (· ^^^ ·) (0 :: p) (p.map (gfMul c) ++ [0])

/-- The minimal polynomial of an element over GF(2), coefficient of x^i in bit i. -/
def minPoly (a : Nat) : Nat :=
  ((conjugates a).foldl gfPolyRoot [1]).foldr (fun c n => 2 * n + c) 0

/-- A product of polynomials over GF(2). -/
def clMul (a b : Nat) : Nat :=
  ((List.range (b.log2 + 1)).foldl (fun (p : Nat × Nat) i => (if b.testBit i then p.1 ^^^ p.2 else p.1, 2 * p.2)) (0, a)).1

/-- The minimal polynomials of α^1 to α^144, each once: an even power shares that of half its exponent. -/
def bchMins : List Nat := ((List.range 72).map fun i => minPoly (gfAlpha (2 * i + 1))).eraseDups

/-- The generator polynomial: the least common multiple of those minimal polynomials, which are irreducible. -/
@[irreducible] def bchGen : Nat := bchMins.foldl clMul 1

/-- One bit of a dividend, the highest first, enters the remainder of a division by `g` of degree `d`. -/
def divBit (g d r : Nat) (b : Bool) : Nat :=
  let t := 2 * r + b2n b
  if t.testBit d then t ^^^ g else t

/-- One byte of a dividend, most significant bit first. -/
def divByte (g d r : Nat) (b : Byte) : Nat :=
  (List.range 8).foldl (fun r i => divBit g d r (b.toNat.testBit (7 - i))) r

/-- The remainder of a bit string, its first bit the highest coefficient, divided by the generator. -/
def bchRem (bs : Bytes) : Nat := bs.foldl (divByte bchGen bchGen.log2) 0

/-- The 126 parity bytes of a message of 1,028 bytes (R219). -/
@[irreducible] def bchParity (msg : Bytes) : Bytes := beBytes 126 (bchRem (msg ++ List.replicate 126 0#8))

/-- A codeword: 1,024 data bytes, 4 metadata bytes and the parity (R218). -/
def codeword (data meta4 : Bytes) : Bytes :=
  let msg := fitBytes 1024 data ++ fitBytes 4 meta4
  msg ++ bchParity msg

/-! Decoding: at most 72 inverted bits are found (R219). -/

/-- The value of a remainder at a field element. -/
def remAt (r a : Nat) : Nat :=
  (List.range 1008).foldr (fun i s => gfMul s a ^^^ (if r.testBit i then 1 else 0)) 0

/-- The state of the search for the error locator: connection polynomials `c` and `b`, lengths, and the last discrepancy. -/
structure Locator where
  c : List Nat := [1]
  b : List Nat := [1]
  len : Nat := 0
  gap : Nat := 1
  last : Nat := 1
  deriving DecidableEq, Repr

/-- A sum of polynomials. -/
def gfPolyAdd : List Nat → List Nat → List Nat
  | [], q => q
  | p, [] => p
  | a :: p, b :: q => (a ^^^ b) :: gfPolyAdd p q

/-- One more syndrome, the `n`-th, is taken in; `syn` holds the syndromes up to it, the newest first. -/
def locate (n : Nat) (syn : List Nat) (l : Locator) : Locator :=
  let d := (List.zipWith gfMul l.c syn).foldl (· ^^^ ·) 0
  if d = 0 then { l with gap := l.gap + 1 }
  else
    let k := gfMul d (gfInv l.last)
    let c := gfPolyAdd l.c (List.replicate l.gap 0 ++ l.b.map (gfMul k))
    if 2 * l.len ≤ n then { c := c, b := l.c, len := n + 1 - l.len, gap := 1, last := d }
    else { l with c := c, gap := l.gap + 1 }

/-- The error locator of a list of syndromes. -/
def locator (syns : List Nat) : Locator :=
  (syns.foldl (fun (p : Nat × List Nat × Locator) s =>
    let seen := s :: p.2.1
    (p.1 + 1, seen, locate p.1 seen p.2.2)) (0, [], {})).2.2

/-- Exponents of the shortened code's 9,232 positions at whose inverse a polynomial is 0. -/
def rootsOf (c : List Nat) : List Nat :=
  let inv := gfInv 2
  ((List.range 9232).foldl (fun (p : List Nat × Nat) e =>
    (if c.foldr (fun k v => gfMul v p.2 ^^^ k) 0 = 0 then e :: p.1 else p.1, gfMul p.2 inv)) ([], 1)).1

/-- A codeword with the coefficients of the exponents `es` inverted. -/
def flipExps (raw : Bytes) (es : List Nat) : Bytes :=
  beBytes 1154 (es.foldl (fun v e => v ^^^ 2 ^ e) (beNat raw))

/-- A codeword as read, decoded: the message and how many bits were corrected; none where more than 72 bits are wrong. -/
@[irreducible] def bchDecode (raw : Bytes) : Option (Bytes × Nat) :=
  if bchParity (raw.take 1028) = raw.drop 1028 then some (raw.take 1028, 0)
  else
    let r := bchRem raw
    let l := locator ((List.range 144).map fun j => remAt r (gfAlpha (j + 1)))
    let es := rootsOf l.c
    let fixed := flipExps raw es
    if l.len ≤ 72 ∧ es.length = l.len ∧ bchRem fixed = 0 then some (fixed.take 1028, l.len) else none

/-- Zero bits of a string. -/
def zeroBits (bs : Bytes) : Nat := bs.foldl (fun n b => n + ((List.range 8).filter fun i => !b.toNat.testBit i).length) 0

/-- What a reading of a codeword delivers: its 1,024 data bytes and the bits corrected. One with at most 8 zero bits is
erased, and delivers 0xFF (R219). -/
def cwRead (raw : Bytes) : Option (Bytes × Nat) :=
  if zeroBits raw ≤ 8 then some (List.replicate 1024 0xFF#8, 0)
  else (bchDecode raw).map fun p => (p.1.take 1024, p.2)

/-- A codeword as the device returns it, with bits inverted: bit `p` of the string in column order, most significant first. -/
def cwNoise (raw : Bytes) (bits : List Nat) : Bytes := flipExps raw (bits.map (9231 - ·))

/-- A codeword is read, and once more where it fails to decode (R220). -/
def cwFetch (raw : Bytes) (first again : List Nat) : Option (Bytes × Nat) :=
  match cwRead (cwNoise raw first) with
  | some r => some r
  | none => cwRead (cwNoise raw again)

/-- The columns of a page of `n` codewords with `spare` spare bytes, `cws` being those written, in order: a column that no
codeword fills is left at 0xFF (R218). -/
def pageColumns (n spare : Nat) (cws : List Bytes) : Bytes :=
  let bs := (cws.take n).flatten
  bs ++ List.replicate (n * 1024 + spare - bs.length) 0xFF#8

/-- The spare area holds a page of `n` codewords (R218). -/
def spareOk (n spare : Nat) : Bool := decide (n * 130 ≤ spare)

end Sys2Proof.Machine
end

