-- ==== Sys2Proof/Machine/Fuses.lean ====
section
/-! DEFINITION. Fuses and the IDN registers (R35–R40). -/

namespace Sys2Proof.Machine

def idnBase : Nat := 0x400B0000
def bootStat : Nat := idnBase + 0x01C
def fpStat : Nat := idnBase + 0x0F8

/-- The octets of a 384-bit fuse field: bit b of byte k is bit 8k + b of its map (Table 3-3). -/
def fuseOctets (m : Nat) : Bytes := leBytes 48 m

/-- SVN_FLOOR: the index of the highest blown bit plus 1, 0 where none is blown. -/
def svnFloor (m : Nat) : Nat := if m % 2 ^ 64 = 0 then 0 else Nat.log2 (m % 2 ^ 64) + 1

/-- IDKEY_PRIV, a P-384 private scalar, and IDKEY_PUB, X then Y of the matching public key (Table 3-1). -/
def idkeyPriv : Bytes := p384Scalar Config.fuseIdkeyPriv
def idkeyPub : Bytes := (p384Public idkeyPriv).drop 1

/-- KEK_SEED. -/
def kekSeed : Bytes := fitBytes 32 Config.fuseKekSeed

/-- LOT: six characters of 36 (R37). -/
def lotField : Nat := Config.fuseLot % 36 ^ 6

/-- IDN.WAFERDIE: WAFER 1 to 25, DIEX and DIEY (R37, Table 3-2). -/
def waferDie : Nat := Config.fuseWaferDie % 25 + 1 + Config.fuseWaferDie / 25 % 65536 * 2 ^ 8

/-- TEST_DATE: years from 2000, month 1 to 12, day 1 to 31 (R37). -/
def testDate : Nat :=
  Config.fuseTestDate % 31 + 1 + (Config.fuseTestDate / 31 % 12 + 1) * 2 ^ 5 + Config.fuseTestDate / 372 % 128 * 2 ^ 9

/-- IDN.PROV. -/
def provWord (s : State) : Nat :=
  let f := s.fuses.sensed
  b2n f.lock + 2 * b2n (f.khEc == 0) + 4 * b2n (f.khPq == 0) + svnFloor f.svn * 2 ^ 8

/-- Start a burn, or refuse it (R39). -/
def fpkeyWrite (v : Word) (s : State) : State :=
  let i := rfld s (idnBase + 0x0F0) 0 10
  if rbit s (idnBase + 0x0FC) 0 ∨ wfld v 0 16 ≠ 0xF05E then s
  else if s.fuses.burn.isSome ∨ 832 < i ∨ (64 ≤ i ∧ s.fuses.sensed.lock = true) then putBit fpStat 2 true s
  else { s with fuses := { s.fuses with burn := some i } }

/-- FPKEY (R39). -/
def execFpkey (key : Word) (s : State) : Host.Outcome State Fault Refusal := .next (live s (fpkeyWrite key))

/-- FUSE_BURN_DONE: the bit is blown, BUSY clears and DONE sets (R39). -/
def execFuseBurnDone (s : State) : Host.Outcome State Fault Refusal :=
  .next (live s fun s =>
    match s.fuses.burn with
    | none => s
    | some i => putBit fpStat 1 true { s with fuses := { s.fuses with blown := blowBit i s.fuses.blown, burn := none } })

/-- The fuses are sensed (R36). -/
def senseFuses (s : State) : State := { s with fuses := { s.fuses with sensed := s.fuses.blown } }

/-- The value an IDN register reads as. -/
def idnPeek (o : Nat) (s : State) : Word :=
  let word := fun (bs : Bytes) (lo : Nat) => w32 (leAt bs (o - lo) 4)
  match o with
  | 0x000 => 0x9640#32
  | 0x004 => 0xB0#32
  | 0x008 => w32 lotField
  | 0x00C => w32 waferDie
  | 0x010 => w32 testDate
  | 0x014 => w32 (s.fuses.bin % 256)
  | 0x018 => w32 (provWord s)
  | 0x01C => wsetBit (reg s bootStat) 4 s.idn.tap
  | 0x0F4 => 0#32
  | 0x0F8 => wsetBit (reg s fpStat) 0 s.fuses.burn.isSome
  | _ =>
    if inRange o 0x030 0x05F then word (fuseOctets s.fuses.sensed.khEc) 0x030
    else if inRange o 0x060 0x08F then word (fuseOctets s.fuses.sensed.khPq) 0x060
    else if inRange o 0x090 0x0EF then word idkeyPub 0x090
    else reg s (idnBase + o)

/-- A software write of an IDN register: FPLOCK stays set until the next reset. -/
def idnWrite (o : Nat) (v : Word) (s : State) : State :=
  match o with
  | 0x0F4 => fpkeyWrite v s
  | 0x0FC => if wbit v 0 then putBit (idnBase + o) 0 true s else s
  | _ => writeTyped (idnBase + o) (rbit s (idnBase + 0x0FC) 0) v s

end Sys2Proof.Machine
end

