-- ==== Sys2Proof/Machine/Flash.lean ====
section
/-! DEFINITION. The NAND as the Vat uses it: geometry, blocks and their wear, pages and their codewords, programs, reads and
erases, retirement and the moving of live data (R216–R222, R227–R235). -/

namespace Sys2Proof.Machine

def vatBase : Nat := 0x40080000

def modNand (f : Nand → Nand) (s : State) : State := { s with nand := f s.nand }
def modVat (f : Vat → Vat) (s : State) : State := { s with vat := f s.vat }

/-! Geometry (Table 11-1). -/

/-- Sectors in a page. -/
def pageSectors (g : Geom) : Nat := 2 ^ g.page

/-- Pages in a block. -/
def ppb (g : Geom) : Nat := 2 ^ g.ppbLog2

/-- Blocks of the device. -/
def allBlocks (g : Geom) : Nat := (if g.twoCe then 2 else 1) * (g.luns + 1) * g.blocks

/-- Page `p` may be programmed: every page on SLC, lower pages on MLC (R228). -/
def pageUsable (mlc : Bool) (lower : List Nat) (p : Nat) : Bool := !mlc || bitAt (lower.getD (p / 32) 0) (p % 32)

/-- The pages of a block that may be programmed, in order. -/
def usablePages (mlc : Bool) (lower : List Nat) (g : Geom) : List Nat := (List.range (ppb g)).filter (pageUsable mlc lower)

/-- Pages that a block takes per erase. -/
def pagesPer (mlc : Bool) (lower : List Nat) (g : Geom) : Nat := (usablePages mlc lower g).length

def blockPages (s : State) : Nat := pagesPer s.nand.geom.mlc s.nand.lower s.nand.geom

/-- The map that VAT.LOWERMAP0–31 holds. -/
def lowerRegs (s : State) : List Nat := (List.range 32).map fun i => (reg s (vatBase + 0x080 + 4 * i)).toNat

/-! Blocks. -/

def blk (s : State) (b : Nat) : Blk := tget {} s.nand.blks b

def modBlk (b : Nat) (f : Blk → Blk) (s : State) : State :=
  modNand (fun n => { n with blks := tset {} n.blks b (f (tget {} n.blks b)) }) s

/-- The block of a page's location, which is its page number plus 1. -/
def locBlk (g : Geom) (l : Nat) : Nat := (l - 1) / ppb g

/-- Sectors whose contents lie in a block. -/
def liveIn (s : State) (b : Nat) : List Nat :=
  (s.nand.loc.filter fun e => locBlk s.nand.geom e.2 == b).map (·.1)

/-- The block that pages of a kind go to: 0 data, 1 KEYWRAP, 2 journal, 3 and 4 the copies of the bad-block table. -/
def headOf (n : Nand) (kind : Nat) : Option Nat :=
  match kind with
  | 0 => n.openBlk
  | 1 => n.poolBlk
  | 2 => n.jrnBlk
  | 3 => n.tabA
  | _ => n.tabB

def setHeadOf (kind : Nat) (b : Option Nat) (n : Nand) : Nand :=
  match kind with
  | 0 => { n with openBlk := b }
  | 1 => { n with poolBlk := b }
  | 2 => { n with jrnBlk := b }
  | 3 => { n with tabA := b }
  | _ => { n with tabB := b }

/-- The block has a use beside the sectors that lie in it: it is being filled, holds the journal, is filled by a move, or
holds pages of the running command. -/
def blkHeld (s : State) (b : Nat) : Bool :=
  let g := s.nand.geom
  (List.range 5).any (fun k => headOf s.nand k == some b) || s.nand.jrn.contains b
    || [s.vat.reloc, s.vat.level].any (fun m => match m with | some x => x.dst == b | none => false)
    || match s.vat.ops with
       | [] => false
       | o :: _ => o.pages.any fun p => p.1 / ppb g == b

/-- A block is free: erased, good, in no pool and not in use. -/
def blkFree (s : State) (b : Nat) : Bool :=
  let x := blk s b
  x.used == 0 && !x.retired && !x.torn && !s.nand.pool.contains b && !blkHeld s b

def freeBlks (s : State) : List Nat := (List.range (allBlocks s.nand.geom)).filter (blkFree s)

/-- The block of a list with the least value of a measure, the first where several share it. -/
def leastBy (f : Nat → Nat) : List Nat → Option Nat
  | [] => none
  | b :: r => match leastBy f r with
    | none => some b
    | some c => if f c < f b then some c else some b

def goodBlks (s : State) : List Nat := (List.range (allBlocks s.nand.geom)).filter fun b => !(blk s b).retired

def retiredCount (s : State) : Nat := ((s.nand.blks.filter fun e => e.2.retired)).length

def eraseMax (s : State) : Nat := ((goodBlks s).map fun b => (blk s b).erases).foldl max 0

def eraseMin (s : State) : Nat :=
  match leastBy (fun b => (blk s b).erases) (goodBlks s) with | some b => (blk s b).erases | none => 0

/-- Good blocks beyond those that live data and the KEYWRAP pool need (R231). -/
def spareBlks (s : State) : Nat :=
  let per := blockPages s * pageSectors s.nand.geom
  let need := if per = 0 then 0 else (s.nand.loc.length + per - 1) / per
  (goodBlks s).length - need - 8

/-- The Store is worn: READ_ONLY and source 149 (R231). -/
def wornOut (s : State) : State := raise 149 (modVat (fun v => { v with st := 4 }) s)

/-- The Store is worn or nearly so: sources 148 and 149 as the spare blocks pass 32 and 8 (R231). -/
def settleSpare (before : Nat) (s : State) : State :=
  let now := spareBlks s
  let s1 := raiseIf (32 ≤ before && now < 32) 148 s
  if s1.vat.st = 3 ∧ now < 8 then wornOut s1 else s1

/-- The same where a mount or a format finds few spare blocks. -/
def noteSpare (s : State) : State := settleSpare 32 s

/-- A block has been erased. -/
def erased (b : Nat) (s : State) : State :=
  modBlk b (fun x => { x with erases := x.erases + 1, reads := 0, used := 0, queued := false, torn := false }) s

/-- Erase a block. -/
def eraseBlk (b : Nat) (s : State) : State := erased b (emit (.nand (.erase b)) s)

/-- Count a page programmed; `host` for commands and commit records. -/
def countPage (host : Bool) (s : State) : State :=
  let s1 := setReg (vatBase + 0x030) (reg s (vatBase + 0x030) + 1#32) s
  if host then setReg (vatBase + 0x02C) (reg s1 (vatBase + 0x02C) + 1#32) s1 else s1

/-! Sectors and their codewords (R218, R220, R222). -/

def sectorKey (r n : Nat) : Nat := r * 2 ^ 24 + n

/-- Is a sector of the KEYWRAP ream? -/
def isKw (key : Nat) : Bool := key / 2 ^ 24 == 2

/-- A sector's 4,096 bytes; one never written, or erased, reads 0xFF (R222). -/
def sectorBytes (s : State) (key : Nat) : Bytes :=
  match tget [] s.nand.data key with | [] => List.replicate 4096 0xFF#8 | b => b

/-- Bytes [off, off + n) of what a function gives sector by sector. -/
def rangeOf (f : Nat → Bytes) (off n : Nat) : Bytes :=
  let first := off / 4096
  let last := (off + n + 4095) / 4096
  slice ((List.range (last - first)).map fun i => f (first + i)).flatten (off - first * 4096) n

/-- Bytes of a ream from an offset, as they were written. -/
def reamRead (s : State) (r off n : Nat) : Bytes := rangeOf (fun k => sectorBytes s (sectorKey r k)) off n

/-- The four codewords of a sector. What their metadata bytes hold is open: free values, by serial number. -/
def sectorCws (m : Nat) (bs : Bytes) : List Bytes :=
  (List.range 4).map fun i => codeword (slice bs (1024 * i) 1024) (Config.freeBytes (m + i) 4)

/-- What a reading of a sector delivers, codeword by codeword; `base` is the place of its first codeword in what is read. A
sector that lies nowhere needs no reading. -/
def sectorOut (s : State) (key : Nat) (errs : List CwErr) (base : Nat) : List (Option (Bytes × Nat)) :=
  if tget 0 s.nand.loc key = 0 then List.replicate 4 (some (List.replicate 1024 0xFF#8, 0))
  else (sectorCws (tget 0 s.nand.meta4 key) (sectorBytes s key)).zipIdx.map fun (cw, i) =>
    match errs.find? fun e => e.cw == base + i with
    | some e => cwFetch cw e.first e.again
    | none => cwFetch cw [] []

/-- The bytes delivered: zeros for a lost codeword (R220). -/
def delivered4 (outs : List (Option (Bytes × Nat))) : Bytes :=
  (outs.map fun o => match o with | some r => r.1 | none => List.replicate 1024 0#8).flatten

/-- Sectors of one page, each with what its reading delivers. -/
def pageOut (s : State) (keys : List Nat) (errs : List CwErr) : List (Nat × List (Option (Bytes × Nat))) :=
  keys.zipIdx.map fun (k, j) => (k, sectorOut s k errs (4 * j))

/-- Set or erase a sector: its contents, location and metadata. -/
def putSector (key : Nat) (bs : Bytes) (loc m : Nat) (s : State) : State :=
  modNand (fun n => { n with data := tset [] n.data key bs, loc := tset 0 n.loc key loc, meta4 := tset 0 n.meta4 key m }) s

/-! Programs (R218, R228, R235). -/

/-- Program the next page of a block: its page number. -/
def programIn (b : Nat) (cws : List Bytes) (s : State) : Nat × State :=
  let g := s.nand.geom
  let p := (usablePages g.mlc s.nand.lower g).getD (blk s b).used 0
  (b * ppb g + p, emit (.nand (.program b p (pageColumns (4 * pageSectors g) g.spare cws)))
    (modBlk b (fun x => { x with used := x.used + 1 }) s))

/-- A block has an unused page. -/
def hasRoom (s : State) (b : Nat) : Bool :=
  let x := blk s b
  decide (x.used < blockPages s) && !x.retired && !x.torn

/-- Blocks that pages of a kind may go to. -/
def kindBlks (kind : Nat) (s : State) : List Nat :=
  if kind = 1 then s.nand.pool.filter fun b => !(blk s b).retired else (goodBlks s).filter fun b => !s.nand.pool.contains b

/-- Erased ones among them. -/
def emptyBlks (kind : Nat) (s : State) : List Nat :=
  if kind = 1 then (kindBlks 1 s).filter fun b => (blk s b).used == 0 && !(blk s b).torn && !blkHeld s b else freeBlks s

/-- Ones that hold nothing of use, or whose erase was cut short: to be erased before use (R227). -/
def deadBlks (kind : Nat) (s : State) : List Nat :=
  (kindBlks kind s).filter fun b =>
    ((blk s b).used != 0 || (blk s b).torn) && !blkHeld s b && (liveIn s b).isEmpty

/-- A fresh block for new pages of a kind: the free one with the lowest erase count (R235); with none free, one that holds
nothing of use is erased for it. -/
def takeBlk (kind : Nat) (s : State) : Option (Nat × State) :=
  match leastBy (fun b => (blk s b).erases) (emptyBlks kind s) with
  | some b => some (b, s)
  | none => (leastBy (fun b => (blk s b).erases) (deadBlks kind s)).map fun b => (b, eraseBlk b s)

/-- The block of a kind becomes `b`; the journal's blocks are remembered. -/
def fillBlk (kind b : Nat) (s : State) : State :=
  modNand (fun n =>
    let m := setHeadOf kind (some b) n
    if kind = 2 ∧ m.jrn.contains b = false then { m with jrn := m.jrn ++ [b] } else m) s

/-- Program a page of a kind, in a fresh block where its block is full. -/
def programRaw (kind : Nat) (cws : List Bytes) (s : State) : Option (Nat × State) :=
  match (headOf s.nand kind).filter (hasRoom s) with
  | some b => some (programIn b cws s)
  | none => (takeBlk kind s).map fun p => programIn p.1 cws (fillBlk kind p.1 p.2)

/-- Program a page of sectors: its page number and the serial number of its metadata. -/
def programSecs (kind : Nat) (secs : List Bytes) (s : State) : Option (Nat × Nat × State) :=
  let cws := (secs.zipIdx.map fun (bs, j) => sectorCws (s.freeCtr + 4 * j) bs).flatten
  (programRaw kind cws { s with freeCtr := s.freeCtr + 4 * secs.length }).map fun p => (p.1, s.freeCtr, p.2)

/-- Sectors just programmed into page `a` take that place. -/
def placeSecs (keys : List Nat) (secs : List Bytes) (a m : Nat) (s : State) : State :=
  (keys.zip secs).zipIdx.foldl (fun x e => putSector e.1.1 e.1.2 (a + 1) (m + 4 * e.2) x) s

/-- Copy sectors into pages elsewhere; where no block can be had they stay. -/
def moveSectors : Nat → List Nat → State → State
  | 0, _, s => s
  | n + 1, keys, s =>
    match keys with
    | [] => s
    | k :: _ =>
      let here := (keys.take (pageSectors s.nand.geom)).filter fun x => isKw x == isKw k
      let secs := here.map (sectorBytes s)
      match programSecs (if isKw k then 1 else 0) secs s with
      | none => s
      | some (a, m, s1) => moveSectors n (keys.drop here.length) (placeSecs here secs a m (countPage false s1))

/-- The Vat keeps a block to copy into: where fewer than two are to be had, the block with the least live data is emptied
and erased (R229, R235). -/
def reclaim (kind : Nat) (s : State) : State :=
  if 2 ≤ (emptyBlks kind s).length + (deadBlks kind s).length then s
  else
    let room := blockPages s * pageSectors s.nand.geom
    let full := (kindBlks kind s).filter fun b =>
      !blkHeld s b && !(liveIn s b).isEmpty && decide ((liveIn s b).length < room)
    match leastBy (fun b => (liveIn s b).length) full with
    | none => s
    | some b =>
      let keys := liveIn s b
      let s1 := moveSectors keys.length keys s
      if (liveIn s1 b).isEmpty then eraseBlk b s1 else s1

/-- Make room for a page of a kind. -/
def makeRoom (kind : Nat) (s : State) : State :=
  match (headOf s.nand kind).filter (hasRoom s) with
  | some _ => s
  | none => reclaim kind s

/-- A page of the Vat's own: one codeword, whose contents are open. -/
def programOwn (kind : Nat) (s : State) : Option (Nat × State) :=
  let cw := codeword (Config.freeBytes s.freeCtr 1024) (Config.freeBytes (s.freeCtr + 1) 4)
  programRaw kind [cw] (makeRoom kind { s with freeCtr := s.freeCtr + 2 })

/-- The same, done and counted. -/
def writeOwn (kind : Nat) (s : State) : State :=
  match programOwn kind s with
  | none => s
  | some (_, s1) => countPage false s1

/-- Both copies of the bad-block table are written anew (R230). -/
def writeTables (s : State) : State := if s.nand.formatted then writeOwn 4 (writeOwn 3 s) else s

/-- A checkpoint: at most 16 pages, how many being open; the journal before it is of no more use (Table 11-5). -/
def vatCheckpoint (s : State) : State :=
  freeNext ((List.range (freeVal s % 17)).foldl (fun x _ => writeOwn 2 x)
    (modNand (fun n => { n with journal := 0, jrn := [] }) s))

/-! Retirement and reads (R220, R230, R232–R234). -/

/-- No block that `b` was being filled as stays so. -/
def closeBlk (b : Nat) (s : State) : State :=
  modNand (fun n => (List.range 5).foldl (fun m k => if headOf m k = some b then setHeadOf k none m else m)
    { n with jrn := n.jrn.filter fun x => x != b }) s

/-- A command's sector offset, and the sectors that it writes: those of its input, or the log's last sector with its new
record. -/
def opSecs (c : Cmd) (o : VatOp) (tail : Bytes) : List Bytes :=
  if c.opcode = 0x43 then [tail ++ o.record ++ List.replicate (4096 - tail.length - o.record.length) 0xFF#8]
  else (List.range (c.input.length / 4096)).map fun i => slice c.input (4096 * i) 4096

/-- Pages of a kind for a command, by its ream: KEYWRAP has its own pool (R232). -/
def pageKind (c : Cmd) : Nat := if c.opcode = 0x41 ∧ pByte c.pkt 0 = 2 then 1 else 0

/-- The record place's sector before it: the bytes it already holds. -/
def logTailBytes (s : State) (o : VatOp) : Bytes :=
  if 4096 < s.nand.logFill + o.record.length then []
  else (sectorBytes s (sectorKey 3 s.nand.logTail)).take s.nand.logFill

/-- The sectors of page `i` of a command. -/
def pageSecs (s : State) (c : Cmd) (o : VatOp) (i : Nat) : List Bytes :=
  let m := pageSectors s.nand.geom
  ((opSecs c o (logTailBytes s o)).drop (i * m)).take m

/-- Pages of the running command that lie in a retired block are programmed again elsewhere (R230). -/
def redoPages (b : Nat) (s : State) : State :=
  match s.vat.ops with
  | [] => s
  | o :: r =>
    match findCmd s o.door o.tag with
    | none => s
    | some c =>
      let done := o.pages.zipIdx.foldl (fun (x : List (Nat × Nat) × State) e =>
        if e.1.1 / ppb s.nand.geom = b then
          match programSecs (pageKind c) (pageSecs s c o e.2) x.2 with
          | none => (x.1 ++ [e.1], x.2)
          | some (a, m, s1) => (x.1 ++ [(a, m)], countPage true s1)
        else (x.1 ++ [e.1], x.2)) ([], s)
      modVat (fun v => { v with ops := { o with pages := done.1 } :: r }) done.2

/-- Another block joins the pool for a retired one (R232). -/
def refillPool (b : Nat) (s : State) : State :=
  if s.nand.pool.contains b then
    let s1 := modNand (fun n => { n with pool := n.pool.filter fun p => p != b }) s
    match takeBlk 0 s1 with
    | none => s1
    | some (p, s2) => modNand (fun n => { n with pool := n.pool ++ [p] }) s2
  else s

/-- A block is retired: source 146. Where `move` holds its live data is copied to good blocks, and pages of the running
command are programmed elsewhere (R230). -/
def retireBlk (move : Bool) (b : Nat) (s : State) : State :=
  let before := spareBlks s
  let s1 := refillPool b (closeBlk b (modBlk b (fun x => { x with retired := true, queued := false, torn := false }) s))
  let keys := liveIn s1 b
  let s2 := if move then redoPages b (moveSectors keys.length keys s1) else s1
  settleSpare before (raise 146 (writeTables s2))

/-- What a read of a page met, codeword by codeword (R220), with the threshold of R234 and the limit of R233. -/
def readMet (b : Nat) (outs : List (Option Nat)) (s : State) : State :=
  let thresh := rfld s (vatBase + 0x00C) 0 7
  let limit := (reg s (vatBase + 0x010)).toNat
  let mended := (outs.filterMap id).filter fun k => k != 0
  let lost := (outs.filter fun o => o.isNone).length
  let s1 := (List.range mended.length).foldl (fun x _ => incReg (vatBase + 0x024) x) s
  let s2 := (List.range lost).foldl (fun x _ => raise 145 (incReg (vatBase + 0x028) x)) s1
  let s3 := modBlk b (fun x => { x with reads := x.reads + 1, ues := x.ues + lost
                                        queued := x.queued || lost != 0 || decide (limit ≤ x.reads + 1) }) s2
  let s4 := if mended.any fun k => decide (thresh ≤ k) then raise 147 (modBlk b (fun x => { x with queued := true }) s3) else s3
  if 2 ≤ (blk s4 b).ues && !(blk s4 b).retired then retireBlk true b s4 else s4

/-- The bits corrected in each codeword of a page that has been read. -/
def outBits (l : List (Nat × List (Option (Bytes × Nat)))) : List (Option Nat) :=
  (l.map fun e => e.2.map fun o => o.map (·.2)).flatten

/-- Sectors of a ream that lie somewhere, those of one page together. -/
def pageGroups (s : State) (r : Nat) (secs : List Nat) : List (List Nat) :=
  let at_ := fun k => tget 0 s.nand.loc (sectorKey r k)
  (secs.filter fun k => at_ k != 0).foldr (fun k l =>
    match l with
    | [] => [[k]]
    | g :: rest => if g.head?.map at_ = some (at_ k) then (k :: g) :: rest else [k] :: g :: rest) []

/-- The first `n` bytes of a ream from sector `first` on, read for the boot ROM: the bytes delivered, whether a codeword was
lost, and the state after its page reads. -/
def bootFetch (r first n : Nat) (errs : List CwErr) (s : State) : Bytes × Bool × State :=
  let secs := (List.range ((n + 4095) / 4096)).map (first + ·)
  let out := fun k => sectorOut s (sectorKey r k) errs (4 * (k - first))
  let outs := secs.map out
  let lost := (outs.flatten.take ((n + 1023) / 1024)).any fun o => o.isNone
  let s1 := (pageGroups s r secs).foldl (fun x g =>
    match g with
    | [] => x
    | k :: _ => readMet (locBlk s.nand.geom (tget 0 s.nand.loc (sectorKey r k)))
        ((g.map fun i => (out i).map fun o => o.map (·.2)).flatten) x) s
  ((outs.map delivered4).flatten.take n, lost, s1)

/-! Reams (Table 11-2). -/

def reamSectors (s : State) (r : Nat) : Nat :=
  match r with
  | 0 => 512
  | 1 => 512
  | 2 => 64
  | 3 => 16384
  | 4 => 2048
  | 5 => s.nand.user * 256
  | _ => 0

/-- Pool blocks that hold no live sector are erased at once; one whose erase fails is retired (R232). -/
def sweepPool (fails : List Nat) (s : State) : State :=
  s.nand.pool.foldl (fun x b =>
    if (blk x b).used != 0 && (liveIn x b).isEmpty then
      if fails.contains b then retireBlk false b x else eraseBlk b (closeBlk b x)
    else x) s

end Sys2Proof.Machine
end

