-- ==== Sys2Proof/Machine/Store.lean ====
section
/-! DEFINITION. The Store: formats, Store commands and the order they run in, the AUDIT log, background work, the mount and
the VAT registers (R216–R240, Table 12-8). -/

namespace Sys2Proof.Machine

/-! Formats (R221, R226). -/

/-- USER in MiB for a logical capacity in bytes; none where the format fails. -/
def userSize (l : Nat) : Option Nat :=
  if l < 309 * 2 ^ 18 then none else some (min (l - 305 * 2 ^ 18) (16079 * 2 ^ 18) / 2 ^ 20)

/-- Logical capacity (R221). -/
def logicalCap (good per pageBytes : Nat) : Nat := (good - (16 + (good * 7 + 99) / 100)) * (per * pageBytes)

/-- The NAND without anything the Store held: its blocks, their wear and the bad ones stay. -/
def emptied (n : Nand) : Nand := { geom := n.geom, blks := n.blks }

/-- The first eight good blocks of a list become the KEYWRAP pool, those that are not erased being erased first; one whose
erase fails is retired. -/
def formatPool (fails : List Nat) : List Nat → Nat → State → State
  | [], _, s => s
  | _, 0, s => s
  | b :: r, n + 1, s =>
    let join := fun x => formatPool fails r n (modNand (fun y => { y with pool := y.pool ++ [b] }) x)
    if (blk s b).used = 0 ∧ (blk s b).torn = false then join s
    else if fails.contains b then
      formatPool fails r (n + 1) (raise 146 (modBlk b (fun x => { x with retired := true, torn := false }) (emit (.nand (.erase b)) s)))
    else join (eraseBlk b s)

/-- A format ends: the bad blocks of a first one are recorded, every ream reads as erased, USER is set, the bad-block table and
the anchor are written. It answers whether it succeeded; failing, it leaves the Store BLANK (R221, R226, Table 11-9). -/
def formatNow (lower : List Nat) (r : NandResult) (s : State) : Bool × State :=
  let n := s.nand
  let marks := if n.formatted then [] else r.bad.filter fun b => decide (b < allBlocks n.geom)
  let s1 := modNand emptied (marks.foldl (fun x b => modBlk b (fun y => { y with retired := true }) x) s)
  let per := pagesPer n.geom.mlc lower n.geom
  match userSize (logicalCap (goodBlks s1).length per (4096 * pageSectors n.geom)) with
  | none => (false, raise 144 (modVat (fun v => { v with st := 2 }) s1))
  | some u =>
    let s2 := modNand (fun x => { x with formatted := true, lower := lower, user := u }) s1
    let s3 := writeOwn 3 (writeTables (formatPool r.fails (goodBlks s2) 8 s2))
    (true, noteSpare (raise 144 (raise 152 (modVat (fun v => { v with st := 3 }) s3))))

/-! The queue of Store commands (R224). -/

def setHead (o : VatOp) (s : State) : State :=
  modVat (fun v => { v with ops := match v.ops with | [] => [] | _ :: r => o :: r }) s

/-- The first command leaves the queue. -/
def dropHead (s : State) : State := modVat (fun v => { v with ops := v.ops.drop 1 }) s

/-- The running command ends with a reply and leaves the queue. -/
def vatFinish (o : VatOp) (status detail r0 r1 r2 : Nat) (data : Option Bytes) (s : State) : State :=
  finish o.door o.tag status detail r0 r1 r2 data (dropHead s)

def storeReam (c : Cmd) : Nat := pByte c.pkt 0
def storeOff (c : Cmd) : Nat := pLe c.pkt 4 4
def storeLen (c : Cmd) : Nat := pLe c.pkt 8 4
def storeSeq (c : Cmd) : Nat := pLe c.pkt 4 8
def storeSanitise (c : Cmd) : Bool := c.opcode == 0x42 && bitAt (pByte c.pkt 1) 0

/-- Commands that write. -/
def storeWrites (op : Nat) : Bool := op == 0x41 || op == 0x42 || op == 0x43 || op == 0x45

/-! AUDIT records (R237–R239, Table 11-6). -/

/-- The genesis value: PREV of record 0. -/
def genesis : Bytes := fitBytes 48 (sha384 ([0x4C#8, 0x50#8, 0x41#8, 0x55#8] ++ idkeyPub))

def hashOr (b : Bytes) : Bytes := if b = [] then genesis else b

/-- A record without its hash; `aux` holds the boundary count, RTC and GEN of the dispatch. -/
def recordBody (s : State) (d : Nat) (c : Cmd) : Bytes :=
  let n := c.input.length
  let p := (n + 3) / 4 * 4
  [0x4C#8, 0x50#8, 0x41#8, 0x52#8] ++ leBytes 2 (80 + p + 48) ++ leBytes 1 d ++ leBytes 1 (pByte c.pkt 1)
    ++ leBytes 8 s.nand.nextSeq ++ leBytes 8 (c.aux.getD 0 0) ++ leBytes 4 (c.aux.getD 1 0) ++ leBytes 2 (c.aux.getD 2 0)
    ++ leBytes 2 n ++ hashOr s.nand.lastHash ++ fitBytes p c.input

/-- A new sector is needed for a record of `n` bytes. -/
def needsSector (s : State) (n : Nat) : Bool := decide (4096 < s.nand.logFill + n)

/-- The sector a record of `n` bytes goes to, and its place there. -/
def recordPlace (s : State) (n : Nat) : Nat × Nat :=
  if needsSector s n then ((if s.nand.nextSeq = 0 ∧ s.nand.logUsed = 0 then 0 else (s.nand.logTail + 1) % 16384), 0)
  else (s.nand.logTail, s.nand.logFill)

/-- Lay a finished record into the log, in the page programmed for it (R237, R238). -/
def appendRecord (r : Bytes) (page : Nat × Nat) (s : State) : State :=
  let (sec, off) := recordPlace s r.length
  let key := sectorKey 3 sec
  let fresh := off == 0
  let old := if fresh then [] else (sectorBytes s key).take off
  let used := s.nand.logUsed + b2n fresh
  let bs := old ++ r ++ List.replicate (4096 - off - r.length) 0xFF#8
  let s1 := modNand (fun n => { n with
    log := n.log ++ [{ seq := n.nextSeq, sector := sec, off := off, bytes := r }], nextSeq := n.nextSeq + 1
    lastHash := r.drop (r.length - 48), logTail := sec, logFill := off + r.length, logUsed := used })
    (putSector key bs (page.1 + 1) page.2 s)
  raiseIf (fresh && used == 14336) 150 s1

/-- LOG_TRIM to `to`: records below it go, and sectors that hold only such records are freed (R238). -/
def trimLog (toward : Nat) (s : State) : Nat × State :=
  let n := s.nand
  if toward ≤ n.baseSeq then (0, s)
  else
    let keep := n.log.filter fun r => decide (toward ≤ r.seq)
    let gone := (n.log.filter fun r => decide (r.seq < toward)).map (·.sector)
    let free := gone.eraseDups.filter fun x => !(keep.any fun r => r.sector == x)
    let prev := match keep.head? with | some r => slice r.bytes 32 48 | none => n.lastHash
    let s1 := free.foldl (fun x k => putSector (sectorKey 3 k) [] 0 0 x) s
    (free.length, modVat (fun v => { v with auditFull := v.auditFull && free.isEmpty }) (modNand (fun x => { x with
      log := keep, baseSeq := toward, basePrev := prev, logUsed := x.logUsed - free.length
      logFill := if keep.isEmpty then 4096 else x.logFill }) s1))

/-- The whole records from `from_` that fit into `space` bytes. -/
def takeLogRecs : List LogRec → Nat → List LogRec
  | [], _ => []
  | r :: rest, space => if r.bytes.length ≤ space then r :: takeLogRecs rest (space - r.bytes.length) else []

/-- The records a LOG_READ would return. -/
def logWanted (s : State) (c : Cmd) : List LogRec :=
  takeLogRecs (s.nand.log.filter fun r => decide (storeSeq c ≤ r.seq)) (pktOutLen c.pkt)

/-- REAM_INFO (Table 11-8): an empty log shows the genesis value as its last hash. -/
def reamInfo (s : State) (r : Nat) : Bytes :=
  let audit := r == 3
  let used := if audit then s.nand.logUsed else (s.nand.loc.filter fun e => e.1 / 2 ^ 24 == r).length
  leBytes 1 r ++ leBytes 1 s.vat.st ++ [0#8, 0#8] ++ leBytes 4 (reamSectors s r) ++ leBytes 4 used
    ++ leBytes 4 (freeBlks s).length ++ leBytes 4 (retiredCount s) ++ leBytes 4 (eraseMax s) ++ leBytes 4 (eraseMin s)
    ++ leBytes 4 0
    ++ (if audit then leBytes 8 s.nand.baseSeq ++ leBytes 8 s.nand.nextSeq ++ hashOr s.nand.basePrev
          ++ hashOr (if s.nand.log.isEmpty then [] else s.nand.lastHash)
        else List.replicate 112 0#8)

/-! Running a command. -/

/-- A sector as the running command's reads delivered it; one that needed no reading as it is. -/
def gotSector (s : State) (o : VatOp) (r k : Nat) : Bytes :=
  match tget [] o.got k with | [] => sectorBytes s (sectorKey r k) | b => b

/-- STORE_READ ends (Table 11-3): lost codewords that the range meets are counted. -/
def endRead (o : VatOp) (c : Cmd) (s : State) : State :=
  let off := storeOff c
  let n := storeLen c
  let lost := o.lost.filter fun k => decide (off < (k + 1) * 1024) && decide (k * 1024 < off + n)
  let bs := rangeOf (gotSector s o (storeReam c)) off n
  match leastOf lost with
  | none => vatFinish o stDone 0 n 0 0 (some bs) s
  | some k => vatFinish o stDoneNote 0x30 n lost.length (max off (k * 1024)) (some bs) s

/-- LOG_READ ends: whole records before the first damaged one (R239). -/
def endLogRead (o : VatOp) (c : Cmd) (s : State) : State :=
  let rs := logWanted s c
  let hurt := fun (r : LogRec) => o.lost.any fun k =>
    decide (r.sector * 4096 + r.off < (k + 1) * 1024) && decide (k * 1024 < r.sector * 4096 + r.off + r.bytes.length)
  let good := rs.takeWhile fun r => !hurt r
  let next := match good.getLast? with | some r => r.seq + 1 | none => max (storeSeq c) s.nand.baseSeq
  let out := (good.map fun r => slice (gotSector s o 3 r.sector) r.off r.bytes.length).flatten
  if good.length < rs.length then vatFinish o stDoneNote 0x30 good.length (next % 2 ^ 32) (next % 2 ^ 32) (some out) s
  else if storeSeq c < s.nand.baseSeq then vatFinish o stDoneNote 0x31 good.length (next % 2 ^ 32) 0 (some out) s
  else vatFinish o stDone 0 good.length (next % 2 ^ 32) 0 (some out) s

/-- Begin a STORE_READ: sectors never written need no NAND read. -/
def beginRead (o : VatOp) (c : Cmd) (s : State) : State :=
  let first := storeOff c / 4096
  let secs := (List.range ((storeOff c + storeLen c + 4095) / 4096 - first)).map (first + ·)
  match pageGroups s (storeReam c) secs with
  | [] => endRead o c s
  | l => setHead { o with phase := .reads l } s

/-- Begin a LOG_READ (Table 11-3). -/
def beginLogRead (o : VatOp) (c : Cmd) (s : State) : State :=
  let ahead := (s.nand.log.filter fun r => decide (storeSeq c ≤ r.seq)).head?
  if s.nand.nextSeq ≤ storeSeq c then
    vatFinish o stDoneNote 0x32 0 (s.nand.nextSeq % 2 ^ 32) 0 (some []) s
  else match ahead with
    | some r =>
      if pktOutLen c.pkt < r.bytes.length then vatFinish o stLength 0 r.bytes.length 0 0 none s
      else setHead { o with phase := .reads (pageGroups s 3 ((logWanted s c).map (·.sector)).eraseDups) } s
    | none => endLogRead o c s

/-- The record of a LOG_APPEND would need a new sector, and none is free (R238). -/
def appendFull (s : State) (c : Cmd) : Bool :=
  needsSector s (80 + (pktInLen c.pkt + 3) / 4 * 4 + 48) && decide (16384 ≤ s.nand.logUsed)

/-- Begin a LOG_APPEND: the KEYE hash unit computes the record's hash. -/
def beginAppend (o : VatOp) (c : Cmd) (s : State) : State :=
  let q := unitQueue s 2
  setUnit 2 (q ++ [(o.door, o.tag)]) (setHead { o with phase := .hash, record := recordBody s o.door c } s)

/-- A format begins, with the lower-page map as it now is (R226). -/
def beginFormat (o : VatOp) (s : State) : State :=
  modVat (fun v => { v with st := 5 })
    (setHead { o with phase := .format (lowerRegs s) s.vat.st } (deferCmd o.door o.tag stDelayedStore s))

/-- Start the command at the head of the queue: the checks of Table 12-8 that follow its turn, the reading of its input last
(R242). -/
def startOp (o : VatOp) (c : Cmd) (s : State) : State :=
  let op := c.opcode
  if op = 0x45 ∧ s.nand.nextSeq < storeSeq c then vatFinish o stRange 0 0 0 0 none s
  else if s.vat.st = 0 then vatFinish o stStoreAbsent 0 0 0 0 none s
  else if op = 0x47 then beginFormat o s
  else if storeWrites op && s.vat.st == 4 then vatFinish o stStoreWorn 0 0 0 0 none s
  else if op == 0x43 && appendFull s c then
    vatFinish o stReamFull 0 0 0 0 none (raiseIf (!s.vat.auditFull) 151 (modVat (fun v => { v with auditFull := true }) s))
  else if o.unread then vatFinish o stPointer 0 0 0 0 none s
  else if storeWrites op && s.vat.st == 2 then beginFormat o s
  else if op = 0x40 then beginRead o c s
  else if op = 0x41 then
    let m := pageSectors s.nand.geom
    setHead { o with phase := .data ((storeLen c / 4096 + m - 1) / m) } s
  else if op = 0x42 then
    setHead { o with phase := if storeSanitise c then .erases s.nand.pool false else .commit } s
  else if op = 0x43 then beginAppend o c s
  else if op = 0x44 then beginLogRead o c s
  else if op = 0x45 then setHead { o with phase := .commit } s
  else vatFinish o stDone 0 144 0 0 (some (reamInfo s (storeReam c))) s

/-! NAND operations and their turns (R224, R229, R236). -/

/-- A block is queued for relocation, or being relocated. -/
def relocQueued (s : State) : Bool := s.vat.reloc.isSome || s.nand.blks.any fun e => e.2.queued && !e.2.retired

/-- With few blocks free, relocation and foreground operations alternate, and it is relocation's turn (R236). -/
def relocDue (s : State) : Bool :=
  s.vat.fgLast && s.vat.st == 3 && s.fault.mode != 2 && relocQueued s && decide ((freeBlks s).length < 64)

/-- A NAND operation of the running command begins. -/
def vatBegin (s : State) : State := modVat (fun v => { v with busy := true }) s

/-- The running command finds no block for a page: the Store is worn out (R231). -/
def noBlock (o : VatOp) (s : State) : State := vatFinish o stStoreWorn 0 0 0 0 none (wornOut s)

/-- Begin the next NAND operation of the running command. -/
def beginNand (o : VatOp) (c : Cmd) (s : State) : State :=
  match o.phase with
  | .waiting => s
  | .hash => s
  | .format _ _ => vatBegin s
  | .reads _ => vatBegin s
  | .data _ =>
    match programSecs (pageKind c) (pageSecs s c o o.pages.length) (makeRoom (pageKind c) s) with
    | none => noBlock o s
    | some (a, m, s1) => vatBegin (setHead { o with pages := o.pages ++ [(a, m)] } s1)
  | .erases [] _ => vatBegin s
  | .erases (_ :: _) true => vatBegin s
  | .erases (b :: _) false => vatBegin (modBlk b (fun x => { x with torn := true }) (emit (.nand (.erase b)) s))
  | .commit =>
    match programOwn 2 s with
    | none => noBlock o s
    | some (_, s1) => vatBegin s1

/-- Start commands until one has a NAND operation to wait for. -/
def vatPump : Nat → State → State
  | 0, s => s
  | n + 1, s =>
    if s.vat.st = 1 ∨ s.vat.stopping = true ∨ s.vat.busy = true then s
    else match s.vat.ops with
      | [] => s
      | o :: _ =>
        match findCmd s o.door o.tag with
        | none => vatPump n (dropHead s)
        | some c =>
          if o.phase = .waiting then vatPump n (startOp o c s)
          else if o.phase = .hash ∨ relocDue s = true then s
          else vatPump n (beginNand o c s)

/-- Fuel enough for every queued command. -/
def pump (s : State) : State := vatPump (3 * s.vat.ops.length + 1) s

/-- A Store command whose dispatch checks have passed joins the Vat's queue (R224); `input` is none where it could not be
read. -/
def joinVat (d tag : Nat) (input : Option Bytes) (aux : List Nat) (s : State) : State :=
  let waits := !s.vat.ops.isEmpty || s.vat.st == 1
  let s1 := modVat (fun v => { v with ops := v.ops ++ [{ door := d, tag := tag, unread := input.isNone }] })
    (modCmd d tag (fun c => { c with input := input.getD [], aux := aux }) s)
  pump (if waits then deferCmd d tag stDelayedStore s1 else s1)

/-! Dispatch checks (Table 12-8). -/

/-- The range of a command lies in its ream, in multiples of `unit` (R222). -/
def rangeBad (s : State) (c : Cmd) (unit : Nat) : Bool :=
  storeOff c % unit != 0 || storeLen c % unit != 0 || decide (reamSectors s (storeReam c) * 4096 < storeOff c + storeLen c)

def mostStore (d : Nat) : Nat := if d = 2 then 16384 else 1048576

/-- The checks of STORE_READ and STORE_WRITE from 0x48 to 0x38, then `f`. -/
def storeRange (d tag unit : Nat) (c : Cmd) (f : State → State) (s : State) : State :=
  if 5 < storeReam c then badValue d tag c 0 s
  else if !(inRange (storeLen c) 4 (mostStore d)) then badValue d tag c 8 s
  else if rangeBad s c unit then finishR0 d tag stRange (reamSectors s (storeReam c) * 4096) s
  else if storeReam c = 3 then finishSt d tag stLogOnly 0 s
  else f s

/-- STORE_READ. -/
def execStoreRead (d : DoorId) (tag : Nat) (s : State) : Host.Outcome State Fault Refusal :=
  .next (live s (dispatch d.val tag 0x40 fun c s =>
    withIo d.val tag c 0 (storeLen c) (storeRange d.val tag 4 c (joinVat d.val tag (some []) [])) s))

/-- STORE_WRITE. -/
def execStoreWrite (d : DoorId) (tag : Nat) (hostIn : Option Bytes) (s : State) : Host.Outcome State Fault Refusal :=
  .next (live s (dispatch d.val tag 0x41 fun c s =>
    withIo d.val tag c (storeLen c) 0 (storeRange d.val tag 4096 c fun s =>
      joinVat d.val tag (cmdInput s d.val c hostIn) [] s) s))

/-- STORE_ERASE (R222, R232, R253). -/
def execStoreErase (d : DoorId) (tag : Nat) (s : State) : Host.Outcome State Fault Refusal :=
  .next (live s (dispatch d.val tag 0x42 fun c s =>
    let whole := storeReam c == 2 && storeOff c == 0 && storeLen c == 262144
    if 5 < storeReam c then badValue d.val tag c 0 s
    else if storeSanitise c && !whole then badValue d.val tag c 1 s
    else if rangeBad s c 4096 then finishR0 d.val tag stRange (reamSectors s (storeReam c) * 4096) s
    else if storeReam c = 3 then finishSt d.val tag stLogOnly 0 s
    else if storeSanitise c && d != 3 then finishSt d.val tag stNotGranted 1 s
    else joinVat d.val tag (some []) [] s))

/-- LOG_APPEND. -/
def execLogAppend (d : DoorId) (tag : Nat) (hostIn : Option Bytes) (s : State) : Host.Outcome State Fault Refusal :=
  .next (live s (dispatch d.val tag 0x43 fun c s =>
    if !pointersOk d.val c.pkt then finishSt d.val tag stPointer 0 s
    else if !(inRange (pktInLen c.pkt) 1 1024) then finishR0 d.val tag stLength 1024 s
    else if 5 < storeReam c then badValue d.val tag c 0 s
    else if storeReam c ≠ 3 then finishSt d.val tag stLogOnly 0 s
    else joinVat d.val tag (cmdInput s d.val c hostIn) [s.epoch.boundaries, s.loft.rtcSec, s.fault.gen] s))

/-- LOG_READ. -/
def execLogRead (d : DoorId) (tag : Nat) (s : State) : Host.Outcome State Fault Refusal :=
  .next (live s (dispatch d.val tag 0x44 fun c s =>
    withIo d.val tag c 0 0 (fun s =>
      if 5 < storeReam c then badValue d.val tag c 0 s
      else if storeReam c ≠ 3 then finishSt d.val tag stLogOnly 0 s
      else joinVat d.val tag (some []) [] s) s))

/-- LOG_TRIM. -/
def execLogTrim (d : DoorId) (tag : Nat) (s : State) : Host.Outcome State Fault Refusal :=
  .next (live s (dispatch d.val tag 0x45 fun c s =>
    if 5 < storeReam c then badValue d.val tag c 0 s
    else if storeReam c ≠ 3 then finishSt d.val tag stLogOnly 0 s
    else if d ≠ 3 then finishSt d.val tag stNotGranted 1 s
    else joinVat d.val tag (some []) [] s))

/-- REAM_INFO. -/
def execReamInfo (d : DoorId) (tag : Nat) (s : State) : Host.Outcome State Fault Refusal :=
  .next (live s (dispatch d.val tag 0x46 fun c s =>
    withIo d.val tag c 0 144 (fun s =>
      if 5 < storeReam c then badValue d.val tag c 0 s else joinVat d.val tag (some []) [] s) s))

/-- STORE_FORMAT. -/
def execStoreFormat (d : DoorId) (tag : Nat) (s : State) : Host.Outcome State Fault Refusal :=
  .next (live s (dispatch d.val tag 0x47 fun _ s =>
    if d ≠ 3 then finishSt d.val tag stNotGranted 1 s else joinVat d.val tag (some []) [] s))

/-! Completion of NAND operations (R224–R227, R230, R232). -/

/-- A journal commit record has been programmed; every 256th is followed by a checkpoint. -/
def commitPage (s : State) : State :=
  let s1 := modNand (fun x => { x with journal := x.journal + 1, orphan := false }) (countPage true s)
  if s1.nand.journal < 256 then s1 else vatCheckpoint s1

/-- The effect of a writing command at its commit point (R225); `fails` are pool blocks whose erase fails then. -/
def commitOp (o : VatOp) (c : Cmd) (fails : List Nat) (s : State) : State :=
  let before := spareBlks s
  let s1 := commitPage s
  let r := storeReam c
  let first := storeOff c / 4096
  let n := storeLen c / 4096
  let m := pageSectors s.nand.geom
  match c.opcode with
  | 0x41 =>
    let s2 := (List.range n).foldl (fun x i =>
      let p := o.pages.getD (i / m) (0, 0)
      putSector (sectorKey r (first + i)) (slice c.input (4096 * i) 4096) (p.1 + 1) (p.2 + 4 * (i % m)) x) s1
    vatFinish o stDone 0 n 0 0 none (settleSpare before (sweepPool fails s2))
  | 0x42 =>
    let mapped := ((List.range n).filter fun i => tget 0 s1.nand.loc (sectorKey r (first + i)) != 0).length
    let s2 := (List.range n).foldl (fun x i => putSector (sectorKey r (first + i)) [] 0 0 x) s1
    vatFinish o stDone 0 mapped 0 0 none (sweepPool fails s2)
  | 0x43 =>
    let q := s1.nand.nextSeq
    vatFinish o stDone 0 (q % 2 ^ 32) (q / 2 ^ 32) 0 none (settleSpare before (appendRecord o.record (o.pages.headD (0, 0)) s1))
  | _ =>
    let (k, s2) := trimLog (storeSeq c) s1
    vatFinish o stDone 0 k 0 0 none s2

/-- A format has ended: the command that asked for it completes, the one that caused it runs, or both fail (R226,
R253). -/
def formatDone (o : VatOp) (c : Cmd) (lower : List Nat) (r : NandResult) (s : State) : State :=
  let (ok, s1) := formatNow lower r s
  if !ok then vatFinish o stStoreAbsent 0 0 0 0 none s1
  else if c.opcode = 0x47 then vatFinish o stDone 0 s1.nand.user 0 0 none s1
  else setHead { o with phase := .waiting } s1

/-- A page of sectors has been read for the running command. -/
def readDone (o : VatOp) (c : Cmd) (g : List Nat) (rest : List (List Nat)) (r : NandResult) (s : State) : State :=
  let ream := storeReam c
  let outs := pageOut s (g.map (sectorKey ream)) r.errs
  let lost := (g.zip outs).flatMap fun e => (e.2.2.zipIdx.filter fun x => x.1.isNone).map fun x => e.1 * 4 + x.2
  let got := (g.zip outs).foldl (fun t e => tset [] t e.1 (delivered4 e.2.2)) o.got
  let o1 := { o with phase := .reads rest, lost := o.lost ++ lost, got := got }
  let at_ := tget 0 s.nand.loc (sectorKey ream (g.headD 0))
  let s1 := readMet (locBlk s.nand.geom at_) (outBits outs) (setHead o1 s)
  if rest.isEmpty then (if c.opcode = 0x40 then endRead o1 c s1 else endLogRead o1 c s1) else s1

/-- A block's erase, or its reading back, has ended for SANITISE (R232): it is read back as erased where no codeword holds more
than 8 zero bits; one that fails is retired where it stands. -/
def eraseDone (b : Nat) (check : Bool) (r : NandResult) (s : State) : Bool × State :=
  if check then (true, if 8 < r.zeros then retireBlk false b s else s)
  else if r.failed then (true, retireBlk false b s)
  else (false, erased b (closeBlk b s))

/-- The page just programmed for the running command failed: its block is retired, and the page is programmed again
elsewhere (R230). -/
def pageFailed (o : VatOp) (s : State) : State :=
  match o.pages.getLast? with
  | none => s
  | some p => retireBlk true (p.1 / ppb s.nand.geom) (setHead { o with pages := o.pages.dropLast } s)

/-- The NAND operation of the running command completes. -/
def opDone (o : VatOp) (c : Cmd) (r : NandResult) (s : State) : State :=
  match o.phase with
  | .waiting => s
  | .hash => s
  | .format lower _ => formatDone o c lower r s
  | .reads [] => if c.opcode = 0x40 then endRead o c s else endLogRead o c s
  | .reads (g :: rest) => readDone o c g rest r s
  | .data n =>
    let s1 := countPage true s
    if r.failed then pageFailed o s1
    else setHead { o with phase := if n ≤ 1 then .commit else .data (n - 1) } (modNand (fun x => { x with orphan := true }) s1)
  | .erases [] _ => setHead { o with phase := .commit } s
  | .erases (b :: rest) check =>
    let (ends, s1) := eraseDone b check r s
    setHead { o with phase := if !ends then .erases (b :: rest) true else if rest.isEmpty then .commit else .erases rest false } s1
  | .commit =>
    if r.failed then
      match s.nand.jrnBlk with
      | none => s
      | some b => retireBlk true b (countPage true s)
    else commitOp o c r.fails s

/-- The NAND operation of a command that a recovery has ended completes: nothing follows it (R212, R229). -/
def lostDone (o : VatOp) (r : NandResult) (s : State) : State :=
  match o.phase with
  | .data _ =>
    let s1 := countPage true (modNand (fun x => { x with orphan := true }) s)
    if r.failed then pageFailed o s1 else s1
  | .erases (b :: _) false => (eraseDone b false r s).2
  | .commit => countPage true s
  | _ => s

/-- The Vat has reached a journal-consistent point on the way into SLEEP: it writes a checkpoint and drives NWP_N low
(R229, Table 11-5). -/
def vatRest (s : State) : State :=
  if s.vat.wp then
    modVat (fun v => { v with wp := false }) (if s.vat.st = 3 ∨ s.vat.st = 4 then vatCheckpoint s else s)
  else s

/-- VAT_OP_DONE: the NAND operation of the running command completes (R224). -/
def vatOpDone (r : NandResult) (s : State) : State :=
  if !s.vat.busy then s
  else match s.vat.ops with
    | [] => modVat (fun v => { v with busy := false }) s
    | o :: _ =>
      let s1 := modVat (fun v => { v with busy := false, fgLast := true }) s
      let s2 := match findCmd s o.door o.tag with
        | some c => opDone o c r s1
        | none => dropHead (lostDone o r s1)
      if s2.vat.stopping then vatRest s2 else s2

/-- NCLK runs: CLK.GATE.NCLK_EN (Table 2-7). Without it no NAND operation comes to its end. -/
def nclkRuns (s : State) : Bool := rbit s (clkBase + 0x010) 2

/-- VAT_OP_DONE. -/
def execVatOpDone (r : NandResult) (s : State) : Host.Outcome State Fault Refusal :=
  .next (live s fun s => if nclkRuns s then pump (vatOpDone r s) else s)

/-- The KEYE hash unit has hashed a record: its page is programmed next (R237). -/
def vatHashDone (d tag : Nat) (s : State) : State :=
  match s.vat.ops with
  | o :: _ =>
    if o.door = d ∧ o.tag = tag ∧ o.phase = .hash then
      pump (setHead { o with phase := .data 1, record := o.record ++ fitBytes 48 (sha384 o.record) } s)
    else s
  | [] => s

/-- A format whose command a recovery has ended is abandoned: the Store is as before it. -/
def dropFormat (s : State) : State :=
  match s.vat.ops with
  | o :: r =>
    match o.phase, findCmd s o.door o.tag with
    | .format _ before, none => modVat (fun v => { v with st := before, busy := false, ops := r }) s
    | _, _ => s
  | [] => s

/-- Store commands that a recovery has ended leave the Vat; a NAND operation in progress runs to its end (R229). -/
def purgeVat (s : State) : State :=
  let s1 := dropFormat s
  let stays := fun (o : VatOp) => (findCmd s1 o.door o.tag).isSome
  let ops := if s1.vat.busy then s1.vat.ops.take 1 ++ (s1.vat.ops.drop 1).filter stays else s1.vat.ops.filter stays
  pump (modVat (fun v => { v with ops := ops }) s1)

/-- SLEEP is being entered (R229): no new operation starts, and an erase in progress is aborted with RESET; its block is erased
again before use. -/
def vatStop (s : State) : State :=
  let s1 := modVat (fun v => { v with stopping := true }) s
  let aborts := match s.vat.ops with
    | o :: _ => (match o.phase with | .erases (_ :: _) false => true | _ => false)
    | [] => false
  if s.vat.busy && aborts then vatRest (modVat (fun v => { v with busy := false }) (emit (.nand .reset) s1))
  else if s.vat.busy then s1
  else vatRest s1

/-- The Vat has come to its journal-consistent point. -/
def vatAtPoint (s : State) : Bool := s.vat.stopping && !s.vat.busy

/-! Background work (R230, R233–R236). It is no part of what the Vat does in the fault state (R212). -/

/-- The Vat may do background work: no foreground command waits; relocation may also where its turn has come (R236). -/
def vatIdle (reloc : Bool) (s : State) : Bool :=
  nclkRuns s && (s.vat.st == 3) && !s.vat.stopping && !s.vat.busy && s.fault.mode != 2
    && (s.vat.ops.isEmpty || (reloc && relocDue s))

/-- The page that the patrol reads next: the first with live data from its place on. -/
def patrolPage (s : State) : Option Nat :=
  let pages := s.nand.loc.map fun e => e.2 - 1
  match leastBy id (pages.filter fun p => decide (s.vat.patrol ≤ p)) with
  | some p => some p
  | none => leastBy id pages

/-- Sectors that lie in a page. -/
def inPage (s : State) (p : Nat) : List Nat := (s.nand.loc.filter fun e => e.2 == p + 1).map (·.1)

/-- RETENTION_PATROL: the next written page is read (R234). -/
def execRetentionPatrol (r : NandResult) (s : State) : Host.Outcome State Fault Refusal :=
  .next (live s fun s =>
    let idle := nclkRuns s && !s.vat.stopping && s.fault.mode != 2 && s.vat.ops.isEmpty && (s.vat.st == 3 || s.vat.st == 4)
    if !idle then s
    else match patrolPage s with
      | none => s
      | some p => readMet (p / ppb s.nand.geom) (outBits (pageOut s (inPage s p) r.errs))
          (modVat (fun v => { v with patrol := p + 1 }) s))

/-- One page of a move is read and programmed in the block being filled. What is copied is what the reading delivers. It
answers the block it filled, none where the move cannot go on; a block whose program fails is retired. -/
def movePage (m : Move) (keys : List Nat) (r : NandResult) (s : State) : Option Nat × State :=
  let outs := pageOut s keys r.errs
  let s1 := readMet m.src (outBits outs) s
  if (blk s1 m.src).retired then (none, s1)
  else
    let kind := if s1.nand.pool.contains m.src then 1 else 0
    let room := if hasRoom s1 m.dst then some (m.dst, s1) else takeBlk kind s1
    match room with
    | none => (none, s1)
    | some (b, s2) =>
      let secs := outs.map fun e => delivered4 e.2
      let cws := (secs.zipIdx.map fun (bs, j) => sectorCws (s2.freeCtr + 4 * j) bs).flatten
      let (a, s3) := programIn b cws { s2 with freeCtr := s2.freeCtr + 4 * secs.length }
      let s4 := countPage false s3
      if r.failed then (none, retireBlk true b s4) else (some b, placeSecs keys secs a s2.freeCtr s4)

/-- A move's next step: its next page, or at its end the erase of the block it has emptied. It answers the move as it goes on,
and whether it has come to its end. -/
def moveStep (m : Move) (r : NandResult) (s : State) : Option Move × Bool × State :=
  match liveIn s m.src with
  | [] => (none, true, if r.failed then retireBlk true m.src s else eraseBlk m.src (closeBlk m.src s))
  | k :: _ =>
    let (b, s1) := movePage m (inPage s (tget 0 s.nand.loc k - 1)) r s
    (b.map fun d => { m with dst := d }, false, s1)

/-- One page of relocation: the move under way goes on, or that of a queued block to a fresh block begins (R230). -/
def relocStep (r : NandResult) (s : State) : State :=
  let next := (List.range (allBlocks s.nand.geom)).find? fun b => (blk s b).queued && !(blk s b).retired
  let start := match s.vat.reloc with
    | some m => some (m, s)
    | none => next.bind fun b =>
      (takeBlk (if s.nand.pool.contains b then 1 else 0) s).map fun p => ({ src := b, dst := p.1 }, p.2)
  match start with
  | none => pump (modVat (fun v => { v with fgLast := false }) s)
  | some (m, s1) =>
    let (m1, ends, s2) := moveStep m r (modVat (fun v => { v with fgLast := false }) s1)
    let s3 := modVat (fun v => { v with reloc := m1 }) s2
    pump (if ends then incReg (vatBase + 0x034) s3 else s3)

/-- One page of a levelling move; throttling pauses it (R235). -/
def levelStep (r : NandResult) (s : State) : State :=
  match s.vat.level with
  | none => s
  | some m =>
    if s.clk.throttle = 0 then
      let (m1, _, s1) := moveStep m r s
      modVat (fun v => { v with level := m1 }) s1
    else s

/-- BACKGROUND_RELOCATE: one page of a background move is copied, or the block it has emptied is erased; relocation goes before
levelling (R230, R235, R236; DESIGN CHOICE, entry 81). -/
def execBackgroundRelocate (r : NandResult) (s : State) : Host.Outcome State Fault Refusal :=
  .next (live s fun s =>
    if !vatIdle true s then s
    else if relocQueued s then relocStep r s
    else levelStep r s)

/-- Where static levelling begins: the block with live data and the lowest erase count moves into a free block with the highest
count, where the spread exceeds DELTA; KEYWRAP's blocks move within their pool (R232, R235). -/
def levelStart (s : State) : Option Move :=
  if eraseMax s - eraseMin s ≤ rfld s (vatBase + 0x014) 0 16 then none
  else
    let cold := leastBy (fun b => (blk s b).erases) ((goodBlks s).filter fun b => !(liveIn s b).isEmpty)
    let top := eraseMax s
    cold.bind fun b =>
      (leastBy (fun p => top - (blk s p).erases) (emptyBlks (if s.nand.pool.contains b then 1 else 0) s)).map fun p =>
        { src := b, dst := p }

/-- STATIC_LEVELLING: a levelling move begins, which BACKGROUND_RELOCATE carries out page by page; throttling pauses it
(R235). -/
def execStaticLevelling (s : State) : Host.Outcome State Fault Refusal :=
  .next (live s fun s =>
    if !vatIdle false s || s.clk.throttle != 0 || s.vat.level.isSome then s
    else modVat (fun v => { v with level := levelStart s }) s)

/-! The mount (R216–R218). -/

/-- Is a parameter page within Table 11-1? -/
def pageKnown (p : ParamPage) : Bool :=
  !p.bus16 && [4096, 8192, 16384].contains p.pageBytes && [64, 128, 256, 512, 1024].contains p.pagesPerBlock
    && inRange p.targets 1 2 && inRange p.luns 1 4 && inRange p.blocks 256 16384 && inRange p.cellBits 1 2

/-- The geometry of a device within Table 11-1. -/
def geomOf (p : ParamPage) : Geom :=
  { page := p.pageBytes.log2 - 12, spare := p.spare, ppbLog2 := p.pagesPerBlock.log2, twoCe := p.targets == 2
    luns := p.luns - 1, blocks := p.blocks, mlc := p.cellBits == 2 }

/-- The interface that VAT.CTRL.IF_REQ asks for (R216): SET FEATURES, and ZQ CALIBRATION LONG for NV-DDR3. -/
def ifRequest (want : Bool) (s : State) : State :=
  let drive := rfld s (vatBase + 0x004) 1 3
  if s.vat.st = 0 ∨ s.vat.st = 1 then s
  else if want then
    if s.vat.ddrOk then
      emit (.nand .zqCal) (emit (.nand (.features true s.vat.ddrMode drive)) (modVat (fun v => { v with nvddr3 := true }) s))
    else s
  else emit (.nand (.features false s.vat.asyncMax drive)) (modVat (fun v => { v with nvddr3 := false, asyncMode := v.asyncMax }) s)

/-- The Store's state after a mount. A request for NV-DDR3 written while it ran is met at its end. -/
def mountStore (a : MountAnswer) (s : State) : State :=
  let absent := fun (r : Nat) => raise 154 (modVat (fun v => { v with st := 0, reason := r }) s)
  let s1 := match a with
    | .absent r => absent r.val
    | .found p =>
      if !pageKnown p then absent 4
      else if !spareOk (p.pageBytes / 1024) p.spare then absent 5
      else
        let g := geomOf p
        let known := s.nand.formatted && s.nand.geom == g
        let base := if known then s else { s with nand := { geom := g } }
        let s2 := raiseIf base.nand.orphan 153 (modNand (fun n => { n with orphan := false }) base)
        let s3 := modVat (fun v => { v with
          st := if known then 3 else 2, reason := 0, asyncMax := p.asyncMax.val, ddrOk := p.ddr.isSome && !Config.nvsel18
          ddrMode := (p.ddr.map (·.val)).getD 0, wp := !v.stopping }) s2
        let s4 := if known then noteSpare s3 else s3
        let s5 := if s4.vat.st = 4 then s4 else raise 144 s4
        if rbit s5 (vatBase + 0x004) 0 then ifRequest true s5 else s5
  pump s1

/-! Registers (R240). -/

/-- A NAND operation is in progress: one of the running command, or those of a mount. -/
def vatBusy (s : State) : Bool := s.vat.busy || (s.vat.st == 1 && nclkRuns s)

/-- The value a VAT register reads as. -/
def vatPeek (o : Nat) (s : State) : Word :=
  let g := s.nand.geom
  let up := decide (2 ≤ s.vat.st)
  match o with
  | 0x000 => w32 (s.vat.st + s.vat.reason * 2 ^ 4 + b2n (vatBusy s) * 2 ^ 8 + b2n s.vat.nvddr3 * 2 ^ 9
      + s.vat.asyncMode * 2 ^ 10 + b2n (up && g.mlc) * 2 ^ 13 + b2n (s.clk.throttle != 0) * 2 ^ 14)
  | 0x008 => if up then w32 (g.page + g.ppbLog2 * 2 ^ 2 + b2n g.twoCe * 2 ^ 6 + g.luns * 2 ^ 7 + g.blocks * 2 ^ 16) else 0#32
  | 0x018 => if up then w32 (freeBlks s).length else 0#32
  | 0x01C => if up then w32 (eraseMax s) else 0#32
  | 0x020 => if up then w32 (eraseMin s) else 0#32
  | 0x038 => if up then w32 (retiredCount s) else 0#32
  | _ => reg s (vatBase + o)

/-- The side effect of a read of a VAT register. -/
def vatReadEffect (o : Nat) (s : State) : State := readClears (vatBase + o) s

/-- A software write of a VAT register. -/
def vatWrite (o : Nat) (v : Word) (s : State) : State :=
  let a := vatBase + o
  let locked := rbit s (vatBase + 0x004) 31
  match o with
  | 0x004 =>
    let s1 := putBit a 31 (locked || wbit v 31) (writeTyped a locked v s)
    ifRequest (wbit v 0) s1
  | 0x00C => if inRange (wfld v 0 7) 1 72 && wfld v 16 16 != 0 then writeTyped a locked v s else s
  | 0x010 => if inRange v.toNat 1000 10000000 then writeTyped a locked v s else s
  | 0x014 => if wfld v 0 16 < 16 then s else writeTyped a locked v s
  | _ => writeTyped a locked v s

/-- VAT_IF_REQ: a write of VAT.CTRL (R216). -/
def execVatIfReq (v : Word) (s : State) : Host.Outcome State Fault Refusal := .next (live s (vatWrite 0x004 v))

end Sys2Proof.Machine
end

