-- ==== Sys2Proof/Machine/Faults.lean ====
section
/-! DEFINITION. Faults: their detection, what a recovery discards and keeps, the fault state and the fault record
(R194–R215). -/

namespace Sys2Proof.Machine

def setFaults (f : Faults → Faults) (s : State) : State := { s with faults := f s.faults }

/-- Record a fault (Table 10-5): its code, the GEN after it, the boundary count and where it was found. -/
def recordFault (code unit : Nat) (s : State) : State :=
  let w := code + s.fault.gen * 2 ^ 16
  setFaults (fun f => { f with
    last := w, lastEpoch := s.epoch.boundaries, lastUnit := unit
    first := if f.first = 0 then w else f.first, firstUnit := if f.first = 0 then unit else f.firstUnit }) s

/-! What is discarded (R196–R203). -/

def countFrame (s : State) : State := setFaults (fun f => { f with discFrames := satInc 64 f.discFrames }) s

/-- A frame in flight is discarded: in its channel's DROP_FAULT, or in FAULT_DISCARD of its ingress port (R197). -/
def faultFrame (f : Sheet) (s : State) : State :=
  countFrame (match f.chan with
    | some _ => discardChan f 8 s
    | none => cntAdd (faultDiscardCnt f.port) 1 (discardFrm f s))

/-- A frame still arriving in cells is discarded (R198). -/
def faultReasm (d : Nat) (s : State) : State :=
  match (cal s d).pend with
  | none => s
  | some _ => countFrame (cntAdd (faultDiscardCnt (8 + d)) 1 (modCal d (fun c => { c with pend := none }) s))

/-- Every frame in flight is discarded; sequence and reorder state restarts empty (R197, R207). -/
def discardFrames (s : State) : State :=
  let s1 := (s.mach.frames.filter fun f => !begun f).foldl (fun x f => faultFrame f x) s
  let s2 := (List.range 8).foldl (fun x d => faultReasm d x) s1
  let s3 := (s2.keys.chans.map (·.1)).foldl (fun x c => modChan c (fun y => { y with seq := 0 }) x) s2
  { s3 with mach := { s3.mach with bypassSeq := [] } }

/-- The frame in transmission on a port whose Reel failed ends with an error and a corrupted FCS (R197). -/
def abortSending (q : Nat) (s : State) : State :=
  match s.mach.frames.find? fun f => f.stage == .sending && f.egress == q with
  | none => s
  | some f => portClose q (countFrame (cntAdd (faultDiscardCnt q) 1 (sendOut q f.result false (lineChange q (removeFrm f.id) s))))

/-- The commit point of a command has passed (Table 10-2): a LANE_SERVICE that runs was dispatched. -/
def pastCommit (c : Cmd) : Bool := c.stage == .running && (c.committed || c.opcode == 0x72)

/-- The commands of a door that are in flight. -/
def inFlight (s : State) (d : Nat) : List Cmd :=
  (door s d).cmds.filter fun c => c.stage != .replied && !pastCommit c

/-- A command in flight ends with DISCARDED_FAULT (R201, R202). -/
def faultCmd (code d : Nat) (c : Cmd) (s : State) : State :=
  finish d c.tag stDiscardedFault code c.gen s.epoch.boundaries 0 none
    (setFaults (fun f => { f with discCmds := f.discCmds + 1 }) s)

/-- Operations whose command has ended leave the key engine's units. -/
def purgeUnits (s : State) : State :=
  let keep := fun (x : State) (q : Nat × Nat) => (findCmd x q.1 q.2).isSome
  let s1 := (List.range 3).foldl (fun x u => setUnit u ((unitQueue x u).filter (keep x)) x) s
  keSettle { s1 with keys := { s1.keys with waits := s1.keys.waits.filter fun w => keep s1 w.2 } }

/-- Operations of ended commands leave every engine. -/
def purgeEngines (s : State) : State := purgeAudio (purgeBlt (purgeI2c (purgeVat (purgeUnits s))))

/-- Every command in flight ends. -/
def discardCmds (code : Nat) (s : State) : State :=
  purgeEngines ((List.range 4).foldl (fun x d => (inFlight x d).foldl (fun y c => faultCmd code d c y) x) s)

/-- GEN increases, and NOTICE.GEN_CHANGED is set on every door (R205). -/
def bumpGen (s : State) : State :=
  let s1 := { s with fault := { s.fault with gen := (s.fault.gen + 1) % 2 ^ 16 } }
  (List.range 4).foldl (fun x d => setNotice d 3 x) s1

/-! Recoveries and the fault state (R208–R212). -/

/-- Entry to the fault state for a cause of class F, which is recorded behind the fault that led to it, where `note` records
one (R194, R211). -/
def enterFault (code : Nat) (bist : Bool) (note : State → State) (s : State) : State :=
  let s1 := note (bumpGen { s with fault := { s.fault with mode := 2 } })
  let s2 := setFaults (fun f => { f with discCmds := 0, discFrames := 0, bist := bist }) (recordFault code 0 s1)
  let s3 := discardFrames (discardCmds code (cancelApply 2 s2))
  raise 179 (raise 164 (zeroise (listedChans s3) (fun _ => true) (fun _ => true) (clearMessages s3)).1)

/-- Steps 2 to 4 of a recovery (Table 10-4). -/
def runRecovery (code : Nat) (s : State) : State :=
  discardFrames (discardCmds code (raise 177 (cancelApply 2 s)))

/-- Recoveries that began within the last second. -/
def recentRecoveries (s : State) : List Nat := s.faults.begun.filter fun t => decide (nowP s - t < 1250000000)

/-- A fault starts a recovery, restarts the one that runs, or leads to the fault state (R201, R210). -/
def startRecovery (code unit : Nat) (s : State) : State :=
  if s.fault.mode = 2 then recordFault code unit s
  else if s.fault.mode = 1 then
    if 3 ≤ s.faults.restarts then enterFault 0x33 false (recordFault code unit) s
    else runRecovery code (recordFault code unit (setFaults (fun f => { f with restarts := f.restarts + 1 }) s))
  else if 7 ≤ (recentRecoveries s).length then enterFault 0x32 false (recordFault code unit) s
  else
    let s1 := bumpLiveVer (bumpGen { s with fault := { s.fault with mode := 1 } })
    let s2 := setFaults (fun f => { f with
      recoveries := satInc 32 f.recoveries, restarts := 0, discCmds := 0, discFrames := 0
      begun := recentRecoveries s ++ [nowP s] }) s1
    runRecovery code (recordFault code unit s2)

/-- A class S fault: a recovery and the pair handling (R194, R209). -/
def classS (code kind regNo : Nat) (addr : Word) (s : State) : State :=
  stopPair code kind regNo addr (startRecovery code 0 s)

/-- Both copies of a channel's state word are lost: keys, packet numbers and replay state are cleared (R196). -/
def loseChan (c : Nat) (s : State) : State :=
  raise 180 (modChan c (fun x => { x with endCause := 3 }) (clearChan c s))

/-- A lane's self-check failed: it is left FAILED, and the commands that wait on it complete (R130, R131). -/
def failLane (i : Nat) (s : State) : State :=
  let l := lane s i
  let s1 := laneTo i 5 (setLane i {} s)
  let s2 := laneReplies i 0 l.removes s1
  laneReplies i 0x20 (l.restore ++ l.restoreNext) s2

/-- The egress or ingress port of a Headbox or Reel fault. -/
def stagePort (stage dir p : Nat) : Nat :=
  if (stage = 6) = (dir = 0) then 8 + p else p

/-- STAGE_WATCHDOG: a frame slot held for 1 ms after admission, unless the Couch holds the frame for want of a lane
(Table 10-1). -/
def execStageWatchdog (dir : Fin 2) (slot : Fin 1024) (s : State) : Host.Outcome State Fault Refusal :=
  .next (live s fun s =>
    match s.mach.frames.find? fun f => f.slot == some slot.val && frmDir f == dir.val with
    | none => s
    | some f =>
      if nowP s < f.time + 1250000 ∨ (f.stage = .couch ∧ (lanesInService s).isEmpty = true) then s
      else startRecovery 0x15 (slot.val + 1024 * dir.val) s)

/-- RECOVERY_END (Table 10-4, step 5). -/
def execRecoveryEnd (s : State) : Host.Outcome State Fault Refusal :=
  .next (live s fun s =>
    if s.fault.mode = 1 then
      raise 178 (setFaults (fun f => { f with restarts := 0 }) { s with fault := { s.fault with mode := 0 } })
    else s)

/-- A word of the fault record (Table 10-5). -/
def faultWord (s : State) (o : Nat) : Nat :=
  let f := s.faults
  match o with
  | 0x00 => s.fault.gen + s.fault.mode * 2 ^ 16
  | 0x04 => f.last
  | 0x08 => f.lastEpoch % 2 ^ 32
  | 0x0C => f.lastEpoch / 2 ^ 32
  | 0x10 => f.recoveries
  | 0x14 => f.discCmds
  | 0x18 => f.discFrames % 2 ^ 32
  | 0x1C => f.discFrames / 2 ^ 32
  | 0x20 => f.first
  | 0x24 => f.lastUnit
  | 0x28 => f.firstUnit
  | _ => 0

end Sys2Proof.Machine
end

