-- ==== Sys2Proof/Machine/Commands.lean ====
section
/-! DEFINITION. The door commands, statistics, telemetry subscriptions and the officer's commands (R73–R76, R245–R247,
R254, Tables 12-2, 12-3, 12-9, 12-10, 12-12). -/

namespace Sys2Proof.Machine

/-! Door commands (Table 12-2). -/

/-- NOP. -/
def execDoorNop (d : DoorId) (tag : Nat) (s : State) : Host.Outcome State Fault Refusal :=
  .next (live s (dispatch d.val tag 0x00 fun _ s => finishSt d.val tag stDone 0 s))

/-- CLK.STATUS.PSTATE (Table 2-7). -/
def pstateCode : PState → Nat
  | .run => 0
  | .dim => 1
  | .nap => 2
  | .sleep => 3
  | .off => 3

/-- The pending Apply's boundary; 0 where none is pending. -/
def applyTarget (s : State) : Nat := match s.stock.apply with | some a => a.target | none => 0

/-- The GET_STATUS record (Table 12-3). -/
def statusRecord (s : State) (d : Nat) : Bytes :=
  fitBytes 64 (leBytes 2 0x9640 ++ leBytes 1 0xB0 ++ leBytes 1 s.fuses.bin ++ leBytes 2 s.fault.gen ++ leBytes 1 d
    ++ leBytes 1 (b2n (doorSession s d) + 2 * b2n (doorOpen s d)) ++ leBytes 8 s.epoch.boundaries
    ++ leBytes 4 s.stock.liveVer ++ leBytes 4 (faultWord s 0) ++ leBytes 4 s.faults.last ++ leBytes 4 s.faults.recoveries
    ++ leBytes 4 (feltFree s) ++ leBytes 4 (lanesWord s) ++ leBytes 8 (applyTarget s) ++ leBytes 2 s.pool.sharedFree
    ++ leBytes 2 (stockSharedFree s) ++ leBytes 1 (keFree s) ++ leBytes 1 s.vat.st ++ leBytes 1 (pstateCode s.clk.pstate)
    ++ leBytes 1 (ofSigned 8 s.clk.hotTemp) ++ leBytes 1 s.clk.throttle)

/-- GET_STATUS (R247). -/
def execGetStatus (d : DoorId) (tag : Nat) (s : State) : Host.Outcome State Fault Refusal :=
  .next (live s (dispatch d.val tag 0x02 fun c s =>
    if pktPtr c.pkt then
      withIo d.val tag c 0 64 (fun s => finish d.val tag stDone 0 64 0 0 (some (statusRecord s d.val)) s) s
    else finish d.val tag stDone 0 (faultWord s 0) s.stock.liveVer (b2n s.stock.apply.isSome + keFree s * 2 ^ 8) none s))

/-- A forced claim ends the old session: the replies of its commands that are not yet delivered are dropped, those still to
come when they are formed (R76). -/
def dropSession (d tag : Nat) (s : State) : State :=
  let x := door s d
  let old := fun r : Reply => r.endsCmd || r.interim
  let gone := x.replies.filter old
  let s1 := gone.foldl (fun y r => poolReturn d r.pool y) s
  let headGone := match x.replies with | r :: _ => old r && !x.windowRead | [] => false
  modDoor d (fun y => windowLoad { y with
    replies := y.replies.filter fun r => !old r,
    window := if headGone then none else y.window,
    cmds := (y.cmds.filter fun c => c.stage != .replied).map fun c => if c.tag == tag then c else { c with dropped := true } }) s1

/-- DOOR_CLAIM (R76). -/
def execDoorClaim (d : DoorId) (tag : Nat) (s : State) : Host.Outcome State Fault Refusal :=
  .next (live s (dispatch d.val tag 0x03 fun c s =>
    let force := bitAt (pByte c.pkt 0) 0
    let held := (door s d.val).session
    if d = 3 then finishSt 3 tag stDoneNote 0x02 s
    else if held && !force then finishSt d.val tag stClaimed 0 s
    else
      let s1 := if held then dropSession d.val tag s else s
      finishR0 d.val tag stDone (b2n held) (modDoor d.val (fun x => { x with session := true }) s1)))

/-- DOOR_RELEASE. -/
def execDoorRelease (d : DoorId) (tag : Nat) (s : State) : Host.Outcome State Fault Refusal :=
  .next (live s (dispatch d.val tag 0x04 fun _ s =>
    if d = 3 then finishSt 3 tag stDoneNote 0x02 s
    else finishSt d.val tag stDone 0 (modDoor d.val (fun x => { x with session := false }) s)))

/-- IDLE_SETUP (R246): the new period governs the moderation period that starts after its final reply. -/
def execIdleSetup (d : DoorId) (tag : Nat) (s : State) : Host.Outcome State Fault Refusal :=
  .next (live s (dispatch d.val tag 0x05 fun c s =>
    if d = 3 then finishSt 3 tag stDoneNote 0x02 s
    else finishR0 d.val tag stDone (door s d.val).modPeriod
      (modDoor d.val (fun x => { x with modPeriod := pLe c.pkt 0 2 }) s)))

/-! Statistics (R116, R117, R140, R141, R166, R198, R245). -/

/-- Counters 24–29 of a port read 0 while its PROT is 0 (R166). -/
def portCounter (s : State) (q i : Nat) : Nat :=
  if inRange i 24 29 && !(decide (8 ≤ q) && isCal (liveBank s) (q - 8)) then 0
  else if i = 30 then portStatus s q + (if q < 8 then 0 else calStatus s (q - 8)) * 2 ^ 32
  else cnt s (portCnt q i)

/-- A port's statistics window: 256 bytes. -/
def portWindow (s : State) (q : Nat) : Bytes := ((List.range 32).map fun i => leBytes 8 (portCounter s q i)).flatten

/-- A channel's statistics window: 128 bytes. -/
def chanWindow (s : State) (c : Nat) : Bytes := ((List.range 16).map fun i => leBytes 8 (cnt s (chanCnt c i))).flatten

/-- PORT_STATS. -/
def execPortStats (d : DoorId) (tag : Nat) (s : State) : Host.Outcome State Fault Refusal :=
  .next (live s (dispatch d.val tag 0x50 fun c s =>
    withIo d.val tag c 0 256 (fun s =>
      let q := pByte c.pkt 0
      if 15 < q then badValue d.val tag c 0 s
      else if d ≠ 3 ∧ portOwner s q ≠ some d.val then finishR0 d.val tag stNotOwner q s
      else finish d.val tag stDone 0 256 0 0 (some (portWindow s q)) s) s))

/-- CHAN_STATS. -/
def execChanStats (d : DoorId) (tag : Nat) (s : State) : Host.Outcome State Fault Refusal :=
  .next (live s (dispatch d.val tag 0x51 fun c s =>
    let first := pLe c.pkt 0 2
    let count := pLe c.pkt 2 2
    withIo d.val tag c 0 (128 * count) (fun s =>
      if 8191 < first then badValue d.val tag c 0 s
      else if !(inRange count 1 (if d = 2 then 128 else 1024)) then badValue d.val tag c 2 s
      else if 8192 < first + count then badValue d.val tag c 0 s
      else match notOwned s d.val first count with
        | some n => finishR0 d.val tag stNotOwner n s
        | none =>
          let out := ((List.range count).map fun i => chanWindow s (first + i)).flatten
          finish d.val tag stDone 0 count 0 0 (some out) s) s))

/-- Clear every counter whose address lies in a window of `n` bytes. -/
def clearWindow (a n : Nat) (s : State) : State :=
  { s with stats := s.stats.filter fun e => !(decide (a ≤ e.1) && decide (e.1 < a + n)) }

def clearPortCounters (q : Nat) (s : State) : State := clearWindow (portCnt q 0) 0x100 s
def clearChanCounters (c : Nat) (s : State) : State := clearWindow (chanCnt c 0) 0x80 s

/-- COUNTER_CLEAR: a port, a channel, or every object the door owns. -/
def execCounterClear (d : DoorId) (tag : Nat) (s : State) : Host.Outcome State Fault Refusal :=
  .next (live s (dispatch d.val tag 0x52 fun c s =>
    let n := pLe c.pkt 2 2
    match pByte c.pkt 0 with
    | 0 =>
      if 15 < n then badValue d.val tag c 2 s
      else if d ≠ 3 ∧ portOwner s n ≠ some d.val then finishSt d.val tag stNotOwner 0 s
      else finishR0 d.val tag stDone 1 (clearPortCounters n s)
    | 1 =>
      if 8191 < n then badValue d.val tag c 2 s
      else if d ≠ 3 ∧ (chan s n).owner ≠ some d.val then finishSt d.val tag stNotOwner 0 s
      else finishR0 d.val tag stDone 1 (clearChanCounters n s)
    | 2 =>
      if n ≠ 0 then badValue d.val tag c 2 s
      else
        let qs := (List.range 16).filter fun q => portOwner s q == some d.val
        let cs := (listedChans s).filter fun c => (chan s c).owner == some d.val
        finishR0 d.val tag stDone (qs.length + cs.length)
          (cs.foldl (fun x c => clearChanCounters c x) (qs.foldl (fun x q => clearPortCounters q x) s))
    | _ => badValue d.val tag c 0 s))

/-! Telemetry (R254). -/

/-- TEL_SUBSCRIBE. -/
def execTelSubscribe (d : DoorId) (tag : Nat) (s : State) : Host.Outcome State Fault Refusal :=
  .next (live s (dispatch d.val tag 0x53 fun c s =>
    let period := pLe c.pkt 0 2
    let items := fld (pByte c.pkt 2) 0 5
    if 1000 < period then badValue d.val tag c 0 s
    else if period ≠ 0 ∧ items = 0 then badValue d.val tag c 2 s
    else finishR0 d.val tag stDone (door s d.val).telPeriod
      (modDoor d.val (fun x => { x with
        telPeriod := period, telItems := if period = 0 then 0 else items, telNext := nowP s + period * 1250000 }) s)))

/-- Reading of sensor `i`, as a byte. -/
def tsByte (s : State) (i : Nat) : Nat := ofSigned 8 (s.clk.temps.getD i 0)

/-- Reading of rail `r`, in mV. -/
def railMv (s : State) (r : Nat) : Nat := s.clk.rails.getD r 0 % 65536

/-- The words of a telemetry item (Table 12-10). -/
def telWords (s : State) (item : Nat) : Nat × Nat × Nat :=
  match item with
  | 0 => (tsByte s 0 + tsByte s 1 * 2 ^ 8 + tsByte s 2 * 2 ^ 16 + tsByte s 3 * 2 ^ 24,
          tsByte s 4 + tsByte s 5 * 2 ^ 8 + s.clk.hotSensor * 2 ^ 16 + s.clk.throttle * 2 ^ 20, 0)
  | 1 => (railMv s 0 + railMv s 1 * 2 ^ 16, railMv s 2 + railMv s 3 * 2 ^ 16, railMv s 4)
  | 2 => (railMv s 5 + railMv s 6 * 2 ^ 16, railMv s 7, 0)
  | 3 => (feltFree s, slotsWord s, lanesWord s)
  | _ => (faultWord s 0, s.stock.liveVer, s.faults.recoveries)

/-- TELEMETRY_PERIOD: a period has ended, one unsolicited reply for each selected item. -/
def execTelemetryPeriod (d : DoorId) (s : State) : Host.Outcome State Fault Refusal :=
  .next (live s fun s =>
    let x := door s d.val
    if x.telPeriod = 0 ∨ nowP s < x.telNext then s
    else ((List.range 5).filter fun i => bitAt x.telItems i).foldl (fun y i =>
      let (a, b, c) := telWords s i
      unsolicited d.val 0x53 i a b c y)
        (modDoor d.val (fun y => { y with telNext := y.telNext + y.telPeriod * 1250000 }) s))

/-! Officer commands (Table 12-12). -/

/-- A door's grant word takes a new value (R73). -/
def setGrant (d w : Nat) (s : State) : State :=
  let old := (door s d).grant
  let s1 := modDoor d (fun x => { x with grant := w }) s
  let s2 := if w = old then s1 else setNotice d 4 s1
  if bitAt w 0 = bitAt old 0 then s2 else raise (doorSource d 0) (evcSettle d s2)

/-- GRANT_SET (R73). -/
def execGrantSet (tag : Nat) (s : State) : Host.Outcome State Fault Refusal :=
  .next (live s (dispatch 3 tag 0x70 fun c s =>
    let d := pByte c.pkt 0
    let w := pLe c.pkt 4 4
    if 2 < d then badValue 3 tag c 0 s
    else if bitAt w 7 ∨ fld w 14 18 ≠ 0 then badValue 3 tag c 4 s
    else setGrant d w (finishR0 3 tag stDone (door s d).grant s)))

/-- An owner as OWNER_SET shows it. -/
def ownerCode (o : Option Nat) : Nat := o.getD 0xFF

/-- An object of OWNER_SET's kinds: its owner, and what stops the move. -/
def ownerNow (s : State) (kind n : Nat) : Nat :=
  match kind with
  | 0 => ownerCode (chan s n).owner
  | 1 => ownerCode (portOwner s n)
  | 2 => (vaultAt s n).owner
  | _ => (keSlot s n).owner

/-- OWNER_SET's status and DETAIL where the object's state refuses the move. -/
def ownerRefused (s : State) (kind n : Nat) : Option (Nat × Nat) :=
  match kind with
  | 0 => if applyNamesChan s n then some (stPending, 2) else none
  | 1 => if applyNamesPort s n then some (stPending, 2) else none
  | 2 => if vaultFull s n then none else some (stKeState, 0x10)
  | _ => if keState (keSlot s n) = 1 then none else some (stKeState, keState (keSlot s n))

/-- Give an object a new owner. -/
def setOwner (kind n o : Nat) (s : State) : State :=
  let opt := if o = 0xFF then none else some o
  match kind with
  | 0 => modChan n (fun x => { x with owner := opt }) s
  | 1 => setPort n { port s n with owner := opt } s
  | 2 => setVault n { vaultAt s n with owner := o } s
  | _ => setKe n { keSlot s n with owner := o } s

/-- The valid INDEX range of a kind. -/
def ownerIndexOk (kind n : Nat) : Bool :=
  match kind with
  | 0 => decide (n ≤ 8191)
  | 1 => decide (n ≤ 15)
  | 2 => inRange n 1 15
  | _ => decide (n ≤ 15)

/-- OWNER_SET (R74, R87, R93). -/
def execOwnerSet (tag : Nat) (s : State) : Host.Outcome State Fault Refusal :=
  .next (live s (dispatch 3 tag 0x71 fun c s =>
    let kind := pByte c.pkt 0
    let o := pByte c.pkt 1
    let n := pLe c.pkt 2 2
    if 3 < kind then badValue 3 tag c 0 s
    else if 3 < o ∧ o ≠ 0xFF then badValue 3 tag c 1 s
    else if !ownerIndexOk kind n then badValue 3 tag c 2 s
    else match ownerRefused s kind n with
      | some (st, dt) => finishSt 3 tag st dt s
      | none =>
        let old := ownerNow s kind n
        if old = o then finish 3 tag stDoneNote 0x02 old 0 0 none s
        else finishR0 3 tag stDone old (bumpLiveVer (setOwner kind n o s))))

/-- MODULE_ASSIGN (R114): CONTROLLER 0xFF assigns none. -/
def execModuleAssign (tag : Nat) (s : State) : Host.Outcome State Fault Refusal :=
  .next (live s (dispatch 3 tag 0x73 fun c s =>
    let q := pByte c.pkt 0
    let k := pByte c.pkt 1
    let a := pByte c.pkt 2
    let sel := pByte c.pkt 3
    if 15 < q then badValue 3 tag c 0 s
    else if 3 < k ∧ k ≠ 0xFF then badValue 3 tag c 1 s
    else if k = 0xFF ∧ a ≠ 0 ∨ k ≠ 0xFF ∧ inRange a 0x08 0x77 = false then badValue 3 tag c 2 s
    else if k = 0xFF ∧ sel ≠ 0 ∨ k ≠ 0xFF ∧ 47 < sel ∧ sel ≠ 0xFF then badValue 3 tag c 3 s
    else
      let p := port s q
      let prev := (if p.ctrl = 0 then 0xFF else p.ctrl - 1) + p.addr * 2 ^ 8 + p.select * 2 ^ 16
      finishR0 3 tag stDone prev
        (setPort q { p with ctrl := if k = 0xFF then 0 else k + 1, addr := a, select := sel } s)))

end Sys2Proof.Machine
end

