-- ==== Sys2Proof/Machine/Identity.lean ====
section
/-! DEFINITION. IDENTIFY, the key engine's completions, and the boot ROM, which runs in one step once the Vat has mounted
(R40–R48, R180). -/

namespace Sys2Proof.Machine

/-! IDENTIFY (R48). -/

/-- IDENTIFY: the command joins the EC unit. -/
def execIdentify (d : DoorId) (tag : Nat) (hostIn : Option Bytes) (s : State) : Host.Outcome State Fault Refusal :=
  .next (live s (dispatch d.val tag 0x01 fun c s =>
    withIo d.val tag c 32 304 (fun s =>
      match cmdInput s d.val c hostIn with
      | none => finishSt d.val tag stPointer 0 s
      | some nonce => joinUnit d.val tag 0 [] nonce s) s))

/-- Bytes 0–207 of the identity record (Table 3-7). -/
def identityBody (s : State) (nonce : Bytes) : Bytes :=
  let bs := (reg s bootStat).toNat
  let wd := waferDie
  let flags := b2n (bitAt bs 1) + 2 * b2n (bitAt bs 2) + 4 * b2n s.idn.tap + 8 * b2n (solo s) + 16 * b2n (bitAt bs 3)
  let slot := if s.idn.digest = [] then 0xFF else bs % 2
  [0x4C#8, 0x50#8, 0x49#8, 0x44#8] ++ leBytes 2 1 ++ leBytes 2 0x9640 ++ leBytes 1 0xB0 ++ leBytes 1 s.fuses.bin
    ++ leBytes 1 (wd % 32) ++ leBytes 1 (fld wd 8 8) ++ leBytes 1 (fld wd 16 8) ++ leBytes 1 (provWord s % 8)
    ++ leBytes 2 testDate ++ leBytes 4 lotField ++ leBytes 1 slot ++ leBytes 1 flags
    ++ leBytes 1 (svnFloor s.fuses.sensed.svn) ++ [0#8] ++ leBytes 4 (reg s (idnBase + 0x020)).toNat
    ++ leBytes 4 (reg s (idnBase + 0x024)).toNat ++ fitBytes 32 nonce ++ fitBytes 48 s.idn.digest ++ idkeyPub

/-- The signed record is delivered; the signature's per-message secret is a free value. -/
def identityDone (d tag : Nat) (c : Cmd) (s : State) : State :=
  let body := identityBody s c.input
  let sig := p384Sign idkeyPriv (sha384 body) (p384Scalar (Config.freeBytes s.freeCtr 48))
  finish d tag stDone 0 304 0 0 (some (body ++ sig)) (freeNext s)

/-! The units (R180). -/

/-- The oldest operation of a unit completes. -/
def unitDone (u : Nat) (s : State) : State :=
  match unitQueue s u with
  | [] => s
  | q :: rest =>
    let s1 := opsCount u (setUnit u rest s)
    let s2 := match findCmd s1 q.1 q.2 with
      | none => s1
      | some c =>
        if c.opcode = 0x01 then identityDone q.1 q.2 c s1
        else if c.opcode = 0x20 then loadDone q.1 q.2 c.input s1
        else if c.opcode = 0x43 then vatHashDone q.1 q.2 s1
        else if stepOp c = 0x13 ∨ stepOp c = 0x14 then vaultStep q.1 q.2 c s1
        else keStepDone q.1 q.2 c s1
    keSettle s2

/-- KEYE_OP_DONE. -/
def execKeyeOpDone (u : Fin 3) (s : State) : Host.Outcome State Fault Refusal := .next (live s (unitDone u.val))

/-! Boot image headers (R42–R44). -/

/-- A field of a header. -/
def hdr (h : Bytes) (o n : Nat) : Nat := leAt h o n

def hdrPayLen (h : Bytes) : Nat := hdr h 0x20 4

/-- Segment `i`: destination, payload offset and length. -/
def hdrSeg (h : Bytes) (i : Nat) : Nat × Nat × Nat :=
  (hdr h (0x60 + 16 * i) 4, hdr h (0x64 + 16 * i) 4, hdr h (0x68 + 16 * i) 4)

def hdrSegs (h : Bytes) : List (Nat × Nat × Nat) := (List.range (hdr h 0x1C 2)).map (hdrSeg h)

/-- A segment is aligned, within one loadable region and within the payload. -/
def segOk (pay : Nat) (g : Nat × Nat × Nat) : Bool :=
  let (d, o, n) := g
  let within := fun lo hi => decide (lo ≤ d) && decide (d + n ≤ hi + 1)
  d % 4 == 0 && n % 4 == 0 && decide (o + n ≤ pay)
    && (within 0x10000000 0x1001FFFF || within 0x20000000 0x2001EFFF || within 0x30000000 0x300FFFFF)

/-- Two segments have no byte in common. -/
def segApart (a b : Nat × Nat × Nat) : Bool := decide (a.1 + a.2.2 ≤ b.1) || decide (b.1 + b.2.2 ≤ a.1)

def segsApart : List (Nat × Nat × Nat) → Bool
  | [] => true
  | a :: r => r.all (segApart a) && segsApart r

/-- ENTRY is a multiple of 4 within a loaded ITCM segment. -/
def entryOk (h : Bytes) : Bool :=
  let e := hdr h 0x18 4
  e % 4 == 0 && (hdrSegs h).any fun g => inRange g.1 0x10000000 0x1001FFFF && decide (g.1 ≤ e) && decide (e < g.1 + g.2.2)

/-- Every reserved byte and bit of a header is 0. -/
def hdrReservedZero (h : Bytes) : Bool :=
  let z := fun o n => (slice h o n).all (· == 0#8)
  let n := hdr h 0x1C 2
  byteAt h 0x0B ≤ 1 && z 0x1E 2 && z 0x24 12 && (List.range 8).all (fun i => if i < n then z (0x6C + 16 * i) 4 else z (0x60 + 16 * i) 16)
    && z 0xE0 32 && z 0x1DF3 525

/-- Check 2 of Table 3-5. It names no check of SVN's range: a header whose SVN exceeds 64 passes it (DESIGN CHOICE, entry
74). -/
def hdrFormed (h : Bytes) : Bool :=
  slice h 0 4 == [0x4C#8, 0x50#8, 0x42#8, 0x49#8] && hdr h 4 2 == 1 && hdr h 6 2 == 0x2000 && inRange (hdr h 0x1C 2) 1 8
    && hdrPayLen h % 4 == 0 && decide (hdrPayLen h ≤ 1306624) && (hdrSegs h).all (segOk (hdrPayLen h)) && segsApart (hdrSegs h)
    && entryOk h && hdrReservedZero h

/-- Both key hashes are blank, or exactly one is (R40). -/
def khBlank (m : Nat) : Bool := m == 0
def unprovisioned (s : State) : Bool := khBlank s.fuses.sensed.khEc && khBlank s.fuses.sensed.khPq
def partialKeys (s : State) : Bool := khBlank s.fuses.sensed.khEc != khBlank s.fuses.sensed.khPq

/-- Checks 1 to 7 of Table 3-5: the result code of the first that fails. -/
def slotFault (s : State) (h : Bytes) (lost : Bool) : Option Nat :=
  let signed := h.take 0xB80
  let ecpub := slice h 0x100 96
  let pqpub := slice h 0x160 2592
  let sha := fun b => sha384 b
  if lost then some 0x2
  else if !hdrFormed h then some 0x3
  else if hdr h 8 2 ≠ 0x9640 ∨ 0xB0 < byteAt h 0x0A then some 0x4
  else if unprovisioned s && !bitAt (byteAt h 0x0B) 0 then some 0xD
  else if !unprovisioned s && (sha ecpub != fuseOctets s.fuses.sensed.khEc || sha pqpub != fuseOctets s.fuses.sensed.khPq) then
    some 0x5
  else if p384Verify (0x04#8 :: ecpub) (slice h 0xB80 96) (sha signed) ≠ some true then some 0x6
  else if mldsaVerify pqpub (slice h 0xBE0 4627) signed = false then some 0x7
  else if hdr h 0x0C 4 < svnFloor s.fuses.sensed.svn then some 0x8
  else none

/-! The boot (R41, R45, R46). -/

/-- A candidate: its slot, its header as read, and what the reading of its payload meets. -/
structure Candidate where
  slot : Nat
  hdr : Bytes
  errs : List CwErr
  deriving DecidableEq, Repr

/-- The payload of a candidate is read: its bytes, the result code of check 8 or 9 where one fails, and the state after the
reads. -/
def loadPayload (c : Candidate) (s : State) : Bytes × Option Nat × State :=
  let (pay, lost, s1) := bootFetch c.slot 2 (hdrPayLen c.hdr) c.errs s
  (pay, if lost then some 0x9 else if sha384 pay ≠ slice c.hdr 0x30 48 then some 0xA else none, s1)

/-- BOOTSTAT, IMGVER and IMGSVN as the ROM leaves them. -/
def setBoot (slot : Nat) (fell unprov halted : Bool) (ra rb ver svn : Nat) (s : State) : State :=
  let v := slot + 2 * b2n fell + 4 * b2n unprov + 8 * b2n halted + ra * 2 ^ 8 + rb * 2 ^ 12
  setRegN bootStat v (setRegN (idnBase + 0x020) ver (setRegN (idnBase + 0x024) svn s))

/-- Registers that the halt puts at their reset values: the general pins' outputs, functions and set-ups, the panel's output
set-up, and audio's. Pins that a lock keeps as they are through a restart of the pair are put in their reset state too (R46
over R409; DESIGN CHOICE, entry 73). -/
def haltResets (a : Nat) : Bool :=
  inRange a 0x40020010 0x40020018 || inRange a 0x40020040 0x40020048 || inRange a 0x40020050 0x40020058
    || inRange a 0x40020100 0x400201BC || a == pnlBase + 0x00C || inRange a 0x40040000 0x4004FFFF

/-- The general pins, the panel and the audio sinks go to their reset state, and the fans follow their table (R46). -/
def haltPins (s : State) : State :=
  fanAuto (audioStop (modAudio (fun a => { a with live := [] })
    (rasterOff (modPanel (fun p => { p with live := { p.live with out := 0 } })
      (clrReg (pnlBase + 0x008) 1 { s with regs := s.regs.filter fun e => !haltResets e.1 })))))

/-- No slot boots: the halt of R46. -/
def romHalt (fell : Bool) (ra rb : Nat) (s : State) : State :=
  let s1 := haltPins (setBoot 0 fell false true ra rb 0 0 s)
  setGrant 2 0x311 (setGrant 1 0 (setGrant 0 0 { s1 with idn := { s1.idn with halted := true, digest := [] } }))

/-- Registers whose values the ROM's last instructions leave unstated are free values. -/
def romRegisters (s : State) (entry : Nat) : Core :=
  let f := fun i => Config.freeNat (s.freeCtr + i)
  let stat := f 0 % 16 + f 1 % 4 * 2 ^ 4
  { d := (List.range 15).foldl (fun t i => tset 0#32 t (i + 1) (w32 (f (2 + i)))) (tset 0#32 [] 0 (idnPeek 0x01C s))
    a := tset 0#32 ((List.range 7).foldl (fun t i => tset 0#32 t i (w32 (f (20 + i)))) []) 7 0x2001F000#32
    ac := (List.range 4).foldl (fun t i => tset 0 t i (toSigned 56 (f (30 + i)))) []
    lk := w32 (f 40), stat := w32 stat, pc := w32 entry
    cctl := s.core.cctl, cycle := s.core.cycle, cycleh := s.core.cycleh }

/-- The image of a slot runs: its segments are loaded, the top of DTCM is zeroed, and the core stands at ENTRY. -/
def romJump (cand : Candidate) (pay : Bytes) (fell : Bool) (ra rb : Nat) (s : State) : State :=
  let h := cand.hdr
  let s1 := (hdrSegs h).foldl (fun x g => mwrite g.1 (slice pay g.2.1 g.2.2) x) s
  let s2 := { s1 with mem := s1.mem.filter fun e => !(inRange e.1 0x2001F000 0x2001FFFF) }
  let s3 := setBoot cand.slot fell (unprovisioned s) false ra rb (hdr h 0x10 4) (hdr h 0x0C 4) s2
  let c := romRegisters s3 (hdr h 0x18 4)
  wdogReload { s3 with
    core := c, freeCtr := s3.freeCtr + 41, pair := { s3.pair with commit := c }
    idn := { s3.idn with halted := false, digest := sha384 (h.take 0xB80) } }

/-- Step 6: the candidates `first`, then `second` where there is one, are loaded in turn; `put` lays the two codes out as
A and B. -/
def romLoad (first : Candidate) (second : Option Candidate) (other : Nat) (put : Nat → Nat → Nat × Nat) (s : State) : State :=
  match loadPayload first s with
  | (pay, none, s1) => let (a, b) := put 0x1 other; romJump first pay false a b s1
  | (_, some c1, s1) =>
    match second with
    | none => let (a, b) := put c1 other; romHalt false a b s1
    | some next =>
      match loadPayload next s1 with
      | (pay, none, s2) => let (a, b) := put c1 0x1; romJump next pay true a b s2
      | (_, some c2, s2) => let (a, b) := put c1 c2; romHalt true a b s2

/-- The boot ROM from its first instruction to the jump or the halt (R41). -/
def romRun (b : BootReads) (s0 : State) : State :=
  let s := { s0 with idn := { s0.idn with booting := false } }
  if s.vat.st = 0 then romHalt false 0xE 0xE s
  else if partialKeys s then romHalt false 0xC 0xC s
  else
    let (ha, lostA, s1) := bootFetch 0 0 8192 b.hdrA (modVat (fun v => { v with asyncMode := v.asyncMax }) s)
    let (hb, lostB, s2) := bootFetch 1 0 8192 b.hdrB s1
    let ca : Candidate := { slot := 0, hdr := ha, errs := b.payA }
    let cb : Candidate := { slot := 1, hdr := hb, errs := b.payB }
    let ab := fun (x y : Nat) => (x, y)
    let ba := fun (x y : Nat) => (y, x)
    match slotFault s2 ha lostA, slotFault s2 hb lostB with
    | some x, some y => romHalt false x y s2
    | none, some y => romLoad ca none y ab s2
    | some x, none => romLoad cb none x ba s2
    | none, none => if hdr ha 0x14 4 < hdr hb 0x14 4 then romLoad cb (some ca) 0xB ba s2 else romLoad ca (some cb) 0xB ab s2

/-- The sentinel pair starts the boot ROM: it waits while the Vat mounts (R41, R45). A restart of the pair ends the halt of R46
with it (R298; DESIGN CHOICE, entry 75). -/
def romStart (b : BootReads) (s : State) : State :=
  let s1 := { s with idn := { s.idn with booting := true, halted := false } }
  if s.vat.st = 1 then s1 else romRun b s1

/-- VAT_MOUNT_DONE (R217): the mount ends; the boot ROM goes on where it waits for it. -/
def execVatMountDone (a : MountAnswer) (boot : BootReads) (s : State) : Host.Outcome State Fault Refusal :=
  .next (live s fun s =>
    if s.vat.st ≠ 1 ∨ nclkRuns s = false then s
    else
      let s1 := mountStore a s
      if s1.idn.booting && sentinelRuns s1 then romRun boot s1 else s1)

end Sys2Proof.Machine
end

