-- ==== Sys2Proof/Machine/Loft.lean ====
section
/-! DEFINITION. The Loft: crystal, write queue, RTC, edge latches, tamper inputs, power button and wake
(R315–R323). -/

namespace Sys2Proof.Machine

def loftBase : Nat := 0x400E0000

/-- Change the Loft's own state. -/
def modLoft (f : Loft → Loft) (s : State) : State := { s with loft := f s.loft }

/-- Raise a Loft source, or keep it for the release while the core cannot take it (R318). -/
def loftRaise (n : Nat) (s : State) : State :=
  if s.clk.held then modLoft (fun l => { l with latched := if l.latched.contains n then l.latched else l.latched ++ [n] }) s
  else raise n s

/-- Bit `n` of LOFT.WAKE. -/
def wakeBit (s : State) (n : Nat) : Bool := rbit s (loftBase + 0x00C) n

/-- A wake-capable source that is no edge occurs while PWR_EN is low (R322). -/
def wakeNote (n : Nat) (s : State) : State :=
  if !s.loft.pwrEn && wakeBit s n then modLoft (fun l => { l with wakeHeld := true }) s else s

/-- An edge latch holds an edge whose source's bit is set in WAKE; the press that forced off does not count (R322). -/
def wakeEdge (s : State) : Bool :=
  let e := reg s (loftBase + 0x004)
  (List.range 8).any (fun i => wbit e i && wakeBit s (2 + i))
    || (wbit e 8 && wakeBit s 11 && !s.loft.forcedPress)

/-! The RTC's count of crystal cycles (R317). -/

/-- The crystal runs: its cycles reach the RTC, the tamper sampler, the button's timing and the write queue (R315, R316). -/
def crystalRuns (s : State) : Bool := s.loft.xtalRun && s.clk.pstate != .off

/-- CAL.TRIM, signed. -/
def trim (s : State) : Int := toSigned 10 (rfld s (loftBase + 0x024) 0 10)

/-- What the first `x` cycles of a span of 2^20 crystal cycles count: with TRIM c > 0 the last c of them go uncounted, with
c < 0 the last |c| count twice (R317; which of the span's cycles: DESIGN CHOICE, entry 91). -/
def spanCounts (c : Int) (x : Nat) : Nat :=
  if 0 ≤ c then min x (2 ^ 20 - c.toNat) else x + (x - (2 ^ 20 - (-c).toNat))

/-- What `k` crystal cycles count, from `pos` cycles into a span. -/
def rtcCounts (c : Int) (pos k : Nat) : Nat :=
  (pos + k) / 2 ^ 20 * spanCounts c (2 ^ 20) + spanCounts c ((pos + k) % 2 ^ 20) - spanCounts c pos

/-- The crystal cycles to the end of the second: the fewest that make RTC_SUB reach 32,768. -/
def cyclesLeft (s : State) : Nat :=
  let left := 32768 - s.loft.rtcSub
  let k := fun i => left + i - 512
  k (((List.range 1025).find? fun i => decide (left ≤ rtcCounts (trim s) s.loft.xtalPos (k i))).getD 512)

/-- The crystal cycles that have passed since RTC_SUB was last brought up to date: a free number, short of the second's end,
for nothing in the root domain determines them (R20). -/
def cyclesPassed (s : State) : Nat := if crystalRuns s then freeVal s % max 1 (cyclesLeft s) else 0

/-- RTC_SUB and the place in the span after `k` crystal cycles. -/
def countCrystal (k : Nat) (s : State) : State :=
  modLoft (fun l => { l with
    rtcSub := l.rtcSub + rtcCounts (trim s) l.xtalPos k, xtalPos := (l.xtalPos + k) % 2 ^ 20 }) s

/-- The RTC's second becomes `sec`, and the alarm is compared with it (R317). -/
def setSeconds (sec sub : Nat) (s : State) : State :=
  let s1 := modLoft (fun l => { l with rtcSec := sec % 2 ^ 32, rtcSub := sub }) s
  if rbit s (loftBase + 0x008) 0 && (reg s (loftBase + 0x020)).toNat == sec % 2 ^ 32 then
    wakeNote 0 (if s1.clk.held then s1 else raise 0 s1)
  else s1

/-- A queued write of a Loft register takes effect on the bits of its mask (R316, Table 15-5). A write outside a field's range
is ignored. -/
def loftApply (o : Nat) (m v0 : Word) (s : State) : State :=
  let v := (v0 &&& m) ||| (reg s (loftBase + o) &&& ~~~ m)
  if o = 0x01C then setSeconds v0.toNat 0 s
  else if o = 0x008 then
    if wfld v 4 4 = 0 ∨ wfld v 8 4 < 4 then s else writeTyped (loftBase + o) false v s
  else if o = 0x024 then
    if wfld v 0 10 = 0x200 then s else writeTyped (loftBase + o) false v s
  else writeTyped (loftBase + o) false v s

/-- A write from SCLK into bits of a Loft register enters the 4-entry queue, or is discarded where it is full (R316). -/
def loftQueue (o : Nat) (m v : Word) (s : State) : State :=
  if s.loft.wq.length < 4 then modLoft (fun l => { l with wq := l.wq ++ [{ offset := o, mask := m, value := v }] }) s
  else putBit (loftBase + 0x028) 5 true s

/-- A word write of a Loft register. -/
def loftWrite (o : Nat) (v : Word) (s : State) : State := loftQueue o 0xFFFFFFFF#32 v s

/-- The value a Loft register reads as (Table 15-5). -/
def loftPeek (o : Nat) (s : State) : Word :=
  let l := s.loft
  if o = 0x000 then
    w32 (b2n l.xtalRun + b2n (!l.wq.isEmpty) * 2 + b2n l.btn * 4
      + ((l.tstate.zipIdx.map fun p => p.1 * 2 ^ (4 + 2 * p.2)).foldl (· + ·) 0))
  else if o = 0x010 then w32 (countCrystal (cyclesPassed s) s).loft.rtcSub
  else if o = 0x014 then w32 l.rtcSecL
  else if o = 0x018 then w32 l.rtcSec
  else if o = 0x01C then 0#32
  else reg s (loftBase + o)

/-- A read of RTC_SUB latches RTC_SEC; it brings the count up to date (R317). -/
def loftReadEffect (o : Nat) (s : State) : State :=
  if o = 0x010 then
    freeNext (modLoft (fun l => { l with rtcSecL := l.rtcSec }) (countCrystal (cyclesPassed s) s))
  else s

/-- LOFT_RESET: VDD_AON rises (R315). -/
def execLoftReset (s : State) : Host.Outcome State Fault Refusal :=
  let s1 := clearAll true s
  .next (setRegN rcauseAddr 1 { s1 with regs := [], loft := {}, clk := { s1.clk with pstate := .run } })

/-- VDD_AON_REMOVAL: the device is OFF, and the Loft loses its state (R28). -/
def execVddAonRemoval (s : State) : Host.Outcome State Fault Refusal :=
  let s1 := clearAll true s
  .next (setRegN rcauseAddr 0
    { s1 with regs := [], loft := { pwrEn := false }, clk := { s1.clk with pstate := .off } })

/-- XTAL_START: 64 consecutive crystal cycles have been seen; until then the RTC, the sampler and the timing stand still (R315;
DESIGN CHOICE, entry 91). A crystal that has stopped does not start again in SLEEP. -/
def execXtalStart (s : State) : Host.Outcome State Fault Refusal :=
  .next (if s.clk.pstate = .off ∨ (s.clk.pstate = .sleep ∧ s.loft.xtalDead = true) then s
    else modLoft (fun l => { l with xtalRun := true, xtalDead := false }) s)

/-- XTAL_FAIL: the monitor on TCLK found no crystal cycle in 1,000 ticks (R315); it runs only while the core is
powered and not held in reset. -/
def execXtalFail (s : State) : Host.Outcome State Fault Refusal :=
  .next (live s fun s =>
    raise 14 (putBit (loftBase + 0x028) 4 true (modLoft (fun l => { l with xtalRun := false, xtalDead := true }) s)))

/-- LOFT_WRITE_APPLY: the oldest queued write takes effect (R316). -/
def execLoftWriteApply (s : State) : Host.Outcome State Fault Refusal :=
  .next (match s.loft.wq with
    | [] => s
    | w :: r => if crystalRuns s then loftApply w.offset w.mask w.value (modLoft (fun l => { l with wq := r }) s) else s)

/-- RTC_SECOND: the crystal cycles to the end of the second have passed (R317). -/
def execRtcSecond (s : State) : Host.Outcome State Fault Refusal :=
  .next (if crystalRuns s = false then s
    else
      let s0 := countCrystal (cyclesLeft s) s
      let s1 := setSeconds (s.loft.rtcSec + 1) (s0.loft.rtcSub - 32768) s0
      if rbit s (loftBase + 0x008) 1 && !s.clk.held then raise 1 s1 else s1)

/-- RTC_SET: the write enters the Loft's queue and sets the RTC when it takes effect (R316, R317). -/
def execRtcSet (sec : Word) (s : State) : Host.Outcome State Fault Refusal :=
  .next (live s (loftWrite 0x01C sec))

/-- RTC_SUB_READ (R317). -/
def execRtcSubRead (s : State) : Host.Outcome State Fault Refusal :=
  .next (live s fun s => loftReadEffect 0x010 (emit (.readData (loftPeek 0x010 s).toNat) s))

/-- Record the time of a change of input `n` (TTIMEn, R319). -/
def stampTamper (n : Nat) (s : State) : State := setRegN (loftBase + 0x030 + 4 * n) s.loft.rtcSec s

/-- TAMPER_EDGE: an edge on a resolved tamper input is latched, stamped and raised (R318, R319). -/
def execTamperEdge (n : Fin 4) (rising : Bool) (s : State) : Host.Outcome State Fault Refusal :=
  .next (if s.clk.pstate = .off ∨ s.loft.tstate.getD n.val 2 = 2 then s
    else
      let bit := if rising then 4 + n.val else n.val
      loftRaise (2 + bit) (stampTamper n.val (putBit (loftBase + 0x004) bit true s)))

/-- PWRBTN_EDGE: a falling edge of the button is latched for wake only (R318). -/
def execPwrbtnEdge (s : State) : Host.Outcome State Fault Refusal :=
  .next (if s.clk.pstate = .off then s
    else putBit (loftBase + 0x004) 8 true (modLoft (fun l => { l with forcedPress := false }) s))

/-- Replace an element of a list by its index. -/
def listSet {α : Type} (l : List α) (i : Nat) (v : α) : List α := setAt l i v

/-- TAMPER_SAMPLE: from INDETERMINATE an input resolves after four consecutive samples on one side of the band; a
resolved input follows each sample outside the band and holds its state within it (R319). -/
def execTamperSample (n : Fin 4) (level : BandLevel) (s : State) : Host.Outcome State Fault Refusal :=
  .next (if crystalRuns s = false then s
    else
      let st := s.loft.tstate.getD n.val 2
      let side := match level with | .above => 0 | .below => 1 | .within => 2
      let move := fun s => stampTamper n.val (modLoft (fun l =>
        { l with tstate := listSet l.tstate n.val side, streak := listSet l.streak n.val (2, 0) }) s)
      if st = 2 then
        let (side0, k) := s.loft.streak.getD n.val (2, 0)
        let k' := if side = 2 then 0 else if side = side0 then k + 1 else 1
        if k' = 4 then
          if side = 1 then wakeNote (2 + n.val) (loftRaise (2 + n.val) (move s)) else move s
        else modLoft (fun l => { l with streak := listSet l.streak n.val (side, k') }) s
      else if side = 2 ∨ side = st then s else move s)

/-- PWRBTN_PRESS: a debounced change of the button (R321). -/
def execPwrbtnPress (pressed : Bool) (s : State) : Host.Outcome State Fault Refusal :=
  .next (if crystalRuns s = false ∨ s.loft.btn = pressed then s
    else
      let s1 := modLoft (fun l => { l with btn := pressed, longDone := false }) s
      if s.clk.held then s1 else raise (if pressed then 11 else 12) s1)

/-- PWRBTN_LONG: the button has been held LONG_S seconds; once a press (R321). -/
def execPwrbtnLong (s : State) : Host.Outcome State Fault Refusal :=
  .next (if s.loft.btn && !s.loft.longDone && crystalRuns s then
      let s1 := modLoft (fun l => { l with longDone := true }) s
      if s.clk.held then s1 else raise 13 s1
    else s)

/-- FORCED_OFF: PWR_EN falls at once; to the core it is a removal of its rails (R321). -/
def execForcedOff (s : State) : Host.Outcome State Fault Refusal :=
  .next (if s.loft.btn && rbit s (loftBase + 0x008) 2 && s.loft.pwrEn && crystalRuns s then
      let s1 := clearAll true s
      putBit (loftBase + 0x028) 6 true
        (modLoft (fun l => { l with pwrEn := false, forcedPress := true, wakeHeld := false })
          { s1 with clk := { s1.clk with pstate := .sleep } })
    else s)

/-- PWR_EN_RISE: after the minimum low time, a latched and enabled edge or a wake source raises PWR_EN; the next release
sets SLEEP_EXIT (R322). A stopped crystal never counts the minimum low time (R315). -/
def execPwrEnRise (s : State) : Host.Outcome State Fault Refusal :=
  .next (if !s.loft.pwrEn && s.clk.pstate == .sleep && crystalRuns s && (s.loft.wakeHeld || wakeEdge s) then
      modLoft (fun l => { l with pwrEn := true, wakeHeld := false, sleepExit := true }) s
    else s)

/-- At release (step 5 of Table 2-6) inputs still INDETERMINATE are reported once for the Loft reset, and edges caught
while the core was unpowered are presented to the EVC (R318, R319). -/
def loftRelease (s : State) : State :=
  let ind := (List.range 4).filter fun n => s.loft.tstate.getD n 2 == 2 && !s.loft.indetDone.getD n false
  let s1 := ind.foldl (fun x n => raise 10 (putBit (loftBase + 0x028) n true
    (modLoft (fun l => { l with indetDone := listSet l.indetDone n true }) x))) s
  let s2 := raiseAll s.loft.latched s1
  modLoft (fun l => { l with latched := [] }) s2

end Sys2Proof.Machine
end

