-- ==== Sys2Proof/Machine/Tel.lean ====
section
/-! DEFINITION. Temperature sensors and voltage monitors (R389, R390). -/

namespace Sys2Proof.Machine

def telBase : Nat := 0x400D0000

/-- Calibration holds a sensor's last reading (R389). -/
def newTemps (s : State) (temps : List Int) : List Int :=
  (List.range 6).map fun i => if bitAt s.clk.cal i then s.clk.temps.getD i 0 else temps.getD i 0

/-- The hottest of the readings, the lowest index where readings tie. -/
def hottest (temps : List Int) : Nat × Int :=
  (List.range 6).foldl (fun (b : Nat × Int) i => if b.2 < temps.getD i 0 then (i, temps.getD i 0) else b) (0, temps.getD 0 0)

/-- LOW and HIGH of rail `r`. -/
def vlim (s : State) (r : Nat) : Nat × Nat :=
  let w := reg s (telBase + 0x060 + 4 * r)
  (wfld w 0 16, wfld w 16 16)

/-- Bits of the enabled rails that a test holds for. -/
def railBits (s : State) (p : Nat → Bool) : Nat :=
  ((List.range 8).map fun r => b2n (rbit s (telBase + 0x008) r && p r) * 2 ^ r).foldl (· + ·) 0

/-- The monitors' part of a sampling round: the last results, the flags and the count (Table 19-1a). -/
def telSample (rails : List Nat) (s : State) : State :=
  let lowBits := railBits s fun r => decide (rails.getD r 0 < (vlim s r).1)
  let highBits := railBits s fun r => decide ((vlim s r).2 < rails.getD r 0)
  let s1 := setRegN telBase (lowBits * 2 ^ 8 + highBits * 2 ^ 16) s
  let s2 := orReg (telBase + 0x004) (lowBits + highBits * 2 ^ 8) s1
  setReg (telBase + 0x088) (reg s2 (telBase + 0x088) + 1#32) s2

/-- SENSOR_CAL: a sensor calibrates until the next sampling round (R389). -/
def execSensorCal (sensor : Fin 6) (s : State) : Host.Outcome State Fault Refusal :=
  .next (live s fun s => { s with clk := { s.clk with cal := 2 ^ sensor.val } })

/-- The value a TEL register reads as. -/
def telPeek (o : Nat) (s : State) : Word :=
  match o with
  | 0x000 => w32 ((reg s telBase).toNat + s.clk.cal)
  | 0x080 => w32 (((List.range 4).map fun d => b2n ((door s d).telPeriod != 0) * 2 ^ d).foldl (· + ·) 0)
  | 0x084 => w32 s.pool.telemDropped
  | _ =>
    if inRange o 0x010 0x027 then w32 (ofSigned 8 (s.clk.temps.getD ((o - 0x010) / 4) 0))
    else if inRange o 0x040 0x05F then w32 (s.clk.rails.getD ((o - 0x040) / 4) 0 % 65536)
    else reg s (telBase + o)

/-- The side effect of a read of a TEL register. -/
def telReadEffect (o : Nat) (s : State) : State :=
  if o = 0x084 then { s with pool := { s.pool with telemDropped := 0 } } else readClears (telBase + o) s

/-- A software write of a TEL register. -/
def telWrite (o : Nat) (v : Word) (s : State) : State := writeTyped (telBase + o) false v s

end Sys2Proof.Machine
end

