-- ==== Sys2Proof/Machine/Root.lean ====
section
/-! DEFINITION. One root: resets and their release, power states, throttling and droop, the CLK registers (chapter 2). -/

namespace Sys2Proof.Machine

def modClk (f : Clk → Clk) (s : State) : State := { s with clk := f s.clk }

/-! Resets (R25–R27, Tables 2-5, 2-6). -/

/-- A low of a reset input starts a reset or not by its length; between 50 ns and the minimum it is not promised which
(R25). -/
def lowActs (min ns : Nat) (act : State → State) (s : State) : State :=
  if s.clk.pstate = .off ∨ ns < 50 then s
  else if min ≤ ns then act s
  else if freeVal s % 2 = 1 then act (freeNext s) else freeNext s

/-- COLD_RESET: PORST_N low. -/
def execColdReset (lowNs : Nat) (s : State) : Host.Outcome State Fault Refusal :=
  .next (lowActs 10000 lowNs (resetCause true 2) s)

/-- WARM_RESET: SYSRST_N low. -/
def execWarmReset (lowNs : Nat) (s : State) : Host.Outcome State Fault Refusal :=
  .next (lowActs 1000 lowNs (resetCause false 3) s)

/-- CORE_SUPERVISOR_RESET: VDD_CORE below 0.845 V. -/
def execCoreSupervisorReset (lowNs : Nat) (s : State) : Host.Outcome State Fault Refusal :=
  .next (lowActs 50 lowNs (resetCause true 1) s)

/-- CLK_LOSS: REFCLK or the PLL's lock is lost; REFCLK may be stopped in SLEEP and OFF (R17). -/
def execClkLoss (s : State) : Host.Outcome State Fault Refusal :=
  .next (match s.clk.pstate with
    | .sleep => s
    | .off => s
    | _ => modClk (fun c => { c with refclkOk := false }) (resetCause true 6 s))

/-- A write of CLK.SWRST (R27); it ends the fault state only where a running sentinel makes it (R213). -/
def swrstWrite (v : Word) (s : State) : State :=
  if wfld v 0 16 = 0xA5C3 ∧ (s.fault.mode = 2 → sentinelRuns s = true) then resetCause false 4 s else s

/-- SWRST. -/
def execSwrst (key : Word) (s : State) : Host.Outcome State Fault Refusal := .next (live s (swrstWrite key))

/-- Where the yielding clocks stand at a root beat, which release falls on: 250 FCLK and 125 SCLK cycles a beat; how many
beats have passed since the PLL locked is open (R18, R32). -/
def beatPositions (s : State) : State :=
  let b := freeVal s
  freeNext (modClk (fun c => { c with fpos := 250 * b % 8, spos := 125 * b % 8, sphase := 0 }) s)

/-- RESET_RELEASE: the last cause has ended; fuses are sensed, memories are zero, V0 is derived, the pair starts the boot
ROM and the lanes run their tests (Table 2-6). -/
def execResetRelease (s : State) : Host.Outcome State Fault Refusal :=
  .next (if s.clk.held && s.loft.pwrEn && !s.clk.thermHold && s.clk.pstate != .off then
    let s1 := if s.loft.sleepExit then setCause 7 (modLoft (fun l => { l with sleepExit := false }) s) else s
    let s2 := beatPositions (senseFuses { s1 with clk := { s1.clk with held := false, cold := false, pstate := .run, pllLock := true, refclkOk := true } })
    let s3 := { s2 with
      keys := { s2.keys with v0 := deriveV0 kekSeed, v0Ready := true }
      pins := { s2.pins with pads := [] }
      idn := { s2.idn with booting := true } }
    loftRelease (wdogReload s3)
  else s)

/-! Power states (R28–R31). -/

/-- A pending divisor takes effect. -/
def pxdivApply (s : State) : State :=
  match s.clk.pxdivPend with
  | some n => modClk (fun c => { c with pxdivPend := none, pxdivLive := n }) s
  | none => s

/-- NAP is entered when the core waits, NAP is requested, the device is in DIM and no unmasked event is pending (R29). -/
def napSettle (s : State) : State :=
  if s.clk.pstate == .dim && s.clk.napWanted && !s.clk.psBusy && s.core.waiting && !sentinelPending s then
    let s1 := if rbit s (gpioBase + 0x090) 0 then pinsHold s else s
    rasterOff (audioStop (pxdivApply (modClk (fun c => { c with pstate := .nap }) s1)))
  else s

/-- NAP ends in DIM. -/
def napExit (s : State) : State :=
  if s.clk.pstate = .nap then
    let s1 := modClk (fun c => { c with pstate := .dim }) s
    if aclkRuns s1 then audioStart s1 else s1
  else s

/-- The Vat goes to its journal-consistent point for SLEEP (R31). -/
def sleepBegin (s : State) : State := vatStop s

/-- DIM is reached: the lanes power down, and the requested state goes on from there (R29, R30). -/
def dimReached (s : State) : State :=
  let s1 := portsDim (modClk (fun c => { c with pstate := .dim, dimWanted := false, draining := false, psBusy := c.sleepWanted }) s)
  if s1.clk.sleepWanted then sleepBegin s1 else napSettle s1

/-- A write of CLK.PSREQ (R29). A request for the current state has no effect: in DIM a request for DIM leaves a request for
NAP that waits as it is. -/
def psreqWrite (v : Word) (s : State) : State :=
  let n := wfld v 0 3
  if s.clk.psBusy ∨ 3 < n then s
  else
    let s1 := setRegN (clkBase + 0x00C) n s
    match s.clk.pstate, n with
    | .run, 0 => s1
    | .run, _ => modClk (fun c => { c with psBusy := true, dimWanted := true, napWanted := n == 2, sleepWanted := n == 3 }) s1
    | .dim, 1 => s1
    | _, 0 => modClk (fun c => { c with psBusy := true, runWanted := true, napWanted := false }) (napExit s1)
    | _, 1 => napExit (modClk (fun c => { c with napWanted := false }) s1)
    | _, 2 => napSettle (modClk (fun c => { c with napWanted := true }) s1)
    | _, _ => sleepBegin (modClk (fun c => { c with psBusy := true, sleepWanted := true, napWanted := false }) s1)

/-- PSREQ_RUN. -/
def execPsreqRun (s : State) : Host.Outcome State Fault Refusal := .next (live s (psreqWrite 0#32))

/-- PSREQ_DIM. -/
def execPsreqDim (s : State) : Host.Outcome State Fault Refusal := .next (live s (psreqWrite 1#32))

/-- PSREQ_NAP. -/
def execPsreqNap (s : State) : Host.Outcome State Fault Refusal := .next (live s (psreqWrite 2#32))

/-- PSREQ_SLEEP. -/
def execPsreqSleep (s : State) : Host.Outcome State Fault Refusal := .next (live s (psreqWrite 3#32))

/-- The drain of DIM runs: admission has stopped at the first boundary after the request (R30). -/
def dimDraining (s : State) : Bool := s.clk.dimWanted && s.clk.draining

/-- Dry ports with a frame of which only some cells were admitted. -/
def pendingPorts (s : State) : List Nat := (List.range 8).filter fun d => (cal s d).pend.isSome

/-- DIM_DRAIN_END: every admitted frame has left or been discarded, those of which only some cells came included. -/
def execDimDrainEnd (s : State) : Host.Outcome State Fault Refusal :=
  .next (live s fun s => if dimDraining s && s.mach.frames.isEmpty && (pendingPorts s).isEmpty then dimReached s else s)

/-- A frame that the drain does not finish: DIM_DISCARD of its ingress port; one in transmission ends with an error. -/
def dimDiscard (f : Sheet) (s : State) : State :=
  let s1 := if f.stage = .sending then sendOut f.egress f.result false s else s
  cntAdd (portCnt f.port 15) 1 (discardFrm f s1)

/-- A frame whose cells did not all come before the drain's end: DIM_DISCARD of its dry port. -/
def dimPending (d : Nat) (s : State) : State :=
  cntAdd (portCnt (8 + d) 15) 1 (modCal d (fun c => { c with pend := none }) s)

/-- DIM_DRAIN_TIMEOUT: 500 µs after the boundary. -/
def execDimDrainTimeout (s : State) : Host.Outcome State Fault Refusal :=
  .next (live s fun s =>
    if dimDraining s && decide (s.clk.drainFrom + 625000 ≤ nowP s) then
      dimReached ((pendingPorts s).foldl (fun x d => dimPending d x) (s.mach.frames.foldl (fun x f => dimDiscard f x) s))
    else s)

/-- DIM_EXIT_DONE: the lanes of every enabled port are powered up and set (R29). -/
def execDimExitDone (s : State) : Host.Outcome State Fault Refusal :=
  .next (live s fun s =>
    if s.clk.runWanted && s.clk.pstate == .dim && (List.range 16).all (fun q => (port s q).state != psDim) then
      modClk (fun c => { c with pstate := .run, psBusy := false, runWanted := false, admitFrom := true }) s
    else s)

/-- SLEEP_ENTRY_DONE: with the Vat at its point, the core is held in cold reset and PWR_EN falls (R31); the pads keep their
sleep states (R408). -/
def execSleepEntryDone (s : State) : Host.Outcome State Fault Refusal :=
  .next (live s fun s =>
    if s.clk.sleepWanted && s.clk.pstate != .run && vatAtPoint s then
      modLoft (fun l => { l with pwrEn := false })
        (clearAll true (modClk (fun c => { c with pstate := .sleep }) (padsLatch s)))
    else s)

/-! Throttling, droop and the thermal trip (R32–R34). -/

/-- Tmax of the part's grade (Table 3-1's BIN, R13). -/
def tmax (s : State) : Int := if fld s.fuses.bin 2 2 = 2 then 105 else 95

/-- Temperatures at which a level is entered and left (Table 2-10). -/
def levelEnter (t : Int) (l : Nat) : Int := match l with | 1 => t - 5 | 2 => t - 2 | _ => t
def levelLeave (t : Int) (l : Nat) : Int := match l with | 1 => t - 7 | 2 => t - 4 | _ => t - 2

/-- The highest level that a temperature enters. -/
def levelFor (t hot : Int) : Nat :=
  if levelEnter t 3 ≤ hot then 3 else if levelEnter t 2 ≤ hot then 2 else if levelEnter t 1 ≤ hot then 1 else 0

/-- The level after levels have been left one by one. -/
def levelDown (t hot : Int) : Nat → Nat
  | 0 => 0
  | l + 1 => if hot < levelLeave t (l + 1) then levelDown t hot l else l + 1

/-- The throttle level after a sample. -/
def newLevel (s : State) (hot : Int) : Nat := max (levelFor (tmax s) hot) (levelDown (tmax s) hot s.clk.throttle)

/-- Any sensor at 115 °C or more: a cold reset, which is held (R34). -/
def thermalTrip (s : State) : State := modClk (fun c => { c with thermHold := true }) (resetCause true 5 s)

/-- A sampling round while a reset is held: a trip joins the reset, and its hold ends when every sensor reads below 105 °C; in
SLEEP and OFF nothing is sampled (R25, R34). -/
def heldSample (temps : List Int) (s : State) : State :=
  if s.loft.pwrEn = false ∨ s.clk.pstate = .off then s
  else if (List.range 6).any (fun i => decide (115 ≤ temps.getD i 0)) then thermalTrip s
  else if (List.range 6).all (fun i => decide (temps.getD i 0 < 105)) then modClk (fun c => { c with thermHold := false }) s
  else s

/-- TELEMETRY_SAMPLE: sensors and monitors are sampled; any sensor at 115 °C or more trips, and the trip's hold ends when
every sensor reads below 105 °C (R34). -/
def execTelemetrySample (temps : List Int) (rails : List Nat) (s : State) : Host.Outcome State Fault Refusal :=
  .next (
    if s.clk.held then heldSample temps s
    else
      let ts := newTemps s temps
      let (i, hot) := hottest ts
      let rs := (List.range 8).map fun r => rails.getD r 0
      let s1 := telSample rs (modClk (fun c => { c with
        temps := ts, rails := rs, hotSensor := i, hotTemp := hot, cal := 0, throttle := newLevel s hot }) s)
      let s2 := noteRate s1
      if 115 ≤ hot then thermalTrip s2 else s2)

/-- DROOP_START (R33). -/
def execDroopStart (s : State) : Host.Outcome State Fault Refusal :=
  .next (live s fun s =>
    if s.clk.droop then s
    else noteRate (setRegN (clkBase + 0x01C) (satInc 16 (reg s (clkBase + 0x01C)).toNat)
      (modClk (fun c => { c with droop := true }) s)))

/-- DROOP_END. -/
def execDroopEnd (s : State) : Host.Outcome State Fault Refusal :=
  .next (live s fun s => noteRate (modClk (fun c => { c with droop := false }) s))

/-! Registers (Table 2-7). -/

/-- A write of CLK.PXDIV (R21). -/
def pxdivWrite (v : Word) (s : State) : State :=
  let n := wfld v 0 10
  if inRange n 20 1000 then
    let s1 := setRegN (clkBase + 0x014) n s
    if pxclkRuns s then modClk (fun c => { c with pxdivPend := some n }) s1
    else modClk (fun c => { c with pxdivPend := none, pxdivLive := n }) s1
  else s

/-- PXDIV. -/
def execPxdiv (v : Word) (s : State) : Host.Outcome State Fault Refusal := .next (live s (pxdivWrite v))

/-- A write of CLK.GATE: gating PXCLK stops the raster and lets a pending divisor take effect at once (R21, R333); ungating
ACLK restarts the sample count, gating it lets the audio balls go to their reset state (R372). -/
def gateWrite (v : Word) (s : State) : State :=
  let s1 := writeTyped (clkBase + 0x010) false v s
  let s2 := if aclkRuns s1 = aclkRuns s then s1 else if aclkRuns s1 then audioStart s1 else audioStop s1
  if wbit v 0 then s2 else pxdivApply (rasterOff s2)

/-- CLK_GATE. -/
def execClkGate (v : Word) (s : State) : Host.Outcome State Fault Refusal := .next (live s (gateWrite v))

/-- The value a CLK register reads as. -/
def clkPeek (o : Nat) (s : State) : Word :=
  let c := s.clk
  match o with
  | 0x000 => w32 (b2n c.pllLock + b2n c.refclkOk * 2 + c.throttle * 2 ^ 2 + b2n c.droop * 2 ^ 4 + pstateCode c.pstate * 2 ^ 5 + b2n c.psBusy * 2 ^ 8
      + b2n c.pxdivPend.isSome * 2 ^ 9)
  | 0x008 => 0#32
  | 0x018 => w32 (c.hotSensor + ofSigned 8 c.hotTemp * 2 ^ 8)
  | _ => reg s (clkBase + o)

/-- The side effect of a read of a CLK register. -/
def clkReadEffect (o : Nat) (s : State) : State := readClears (clkBase + o) s

/-- A software write of a CLK register. -/
def clkWrite (o : Nat) (v : Word) (s : State) : State :=
  match o with
  | 0x008 => swrstWrite v s
  | 0x00C => psreqWrite v s
  | 0x010 => gateWrite v s
  | 0x014 => pxdivWrite v s
  | _ => writeTyped (clkBase + o) false v s

end Sys2Proof.Machine
end

