-- ==== Sys2Proof/Machine/Raster.lean ====
section
/-! DEFINITION. The panel raster: timing, line and frame starts, composition ahead of the beam, the Line Sequencer,
signatures, the freeze detector, the trust-region check, the Dandy check, the PNL registers (R329–R347, R365). -/

namespace Sys2Proof.Machine

def pnlFlags : Nat := pnlBase + 0x004
def pnlCtrl : Nat := pnlBase + 0x008

/-- Set a bit of PNL.FLAGS. -/
def pnlFlag (i : Nat) (s : State) : State := putBit pnlFlags i true s

/-- Set a bit of CMP.FLAGS and raise a source. -/
def cmpEvent (i n : Nat) (s : State) : State := raise n (putBit (cmpBase + 0x004) i true s)

/-! Timing (R331, R332). -/

def Timing.htot (t : Timing) : Nat := t.hact + t.hfp + t.hsw + t.hbp
def Timing.vtot (t : Timing) : Nat := t.vact + t.vfp + t.vsw + t.vbp
/-- The line of the vertical sync start. -/
def Timing.vsync (t : Timing) : Nat := t.vact + t.vfp

/-- The sum limits of Table 16-1. -/
def Timing.ok (t : Timing) : Bool :=
  decide (8 ≤ t.hfp + t.hsw + t.hbp) && decide (t.htot ≤ 4096) && decide (t.vtot ≤ 2048)

/-- The timingShadow set. -/
def timingShadow (s : State) : Timing :=
  let f := fun o lo len => rfld s (pnlBase + o) lo len
  { hact := f 0x010 0 12, hfp := f 0x010 16 12, hsw := f 0x014 0 10, hbp := f 0x014 16 10, vact := f 0x018 0 11
    vfp := f 0x018 16 10, vsw := f 0x01C 0 10, vbp := f 0x01C 16 10, out := f 0x00C 0 6 }

/-- A pending timingShadow set at the vertical sync start. -/
def applyTiming (s : State) : State :=
  if !s.panel.timingPend then s
  else
    let s1 := modPanel (fun p => { p with timingPend := false }) s
    if (timingShadow s).ok then
      raise 55 (pnlFlag 9 (panelChange (modPanel (fun p => { p with live := timingShadow s, line := (timingShadow s).vsync }) s1)))
    else pnlFlag 10 s1

/-! What the balls show. -/

/-- The seven bit slots of the four LVDS data pairs and of the clock pair for one pixel (R336, Table 16-2). -/
def lvdsSlots (out px : Nat) (hs vs de : Bool) : List (List Bool) :=
  let r := fun i => bitAt px (16 + i)
  let g := fun i => bitAt px (8 + i)
  let b := fun i => bitAt px i
  let y := syncLevels out hs vs de
  let clk := [true, true, false, false, false, true, true]
  if bitAt out 1 then
    [[g 2, r 7, r 6, r 5, r 4, r 3, r 2], [b 3, b 2, g 7, g 6, g 5, g 4, g 3], [y.2.2, y.2.1, y.1, b 7, b 6, b 5, b 4],
     [false, b 1, b 0, g 1, g 0, r 1, r 0], clk]
  else
    [[g 0, r 5, r 4, r 3, r 2, r 1, r 0], [b 1, b 0, g 5, g 4, g 3, g 2, g 1], [y.2.2, y.2.1, y.1, b 5, b 4, b 3, b 2],
     [false, b 7, b 6, g 7, g 6, r 7, r 6], clk]

/-- The balls in one pixel clock with the syncs and DE active or not, for a pixel of the active area; outside DE the colours
are 0 (R335, R336). -/
def clockBalls (out px : Nat) (hs vs de : Bool) : PanelBalls :=
  let px := if de then px else 0
  if bitAt out 0 then { lvds := .slots (lvdsSlots out px hs vs de) }
  else
    let y := syncLevels out hs vs de
    { rgb := px, hsync := y.1, vsync := y.2.1, de := y.2.2, pclk := if bitAt out 5 then .falling else .rising }

/-- VSYNC is active on line `y` (R331). -/
def vsyncLine (t : Timing) (y : Nat) : Bool := decide (t.vsync ≤ y) && decide (y < t.vsync + t.vsw)

/-- A line of pixel clocks: the active position, the front porch, horizontal sync, the back porch (R331). DE is active over
the pixels `px` of an active line, on a blanking line nowhere. -/
def lineClocks (t : Timing) (y : Nat) (px : List Nat) : List (Nat × PanelBalls) :=
  let b := fun p hs de => clockBalls t.out p hs (vsyncLine t y) de
  (if y < t.vact then px.map fun p => (1, b p false true) else [(t.hact, b 0 false false)])
    ++ [(t.hfp, b 0 false false), (t.hsw, b 0 true false), (t.hbp, b 0 false false)]

/-! Composition ahead of the beam (R337, R362–R365). -/

/-- Active line `y` enters composition, with the registers and Panel RAM as they stand. -/
def composeStart (y : Nat) (s : State) : State :=
  let serial := s.panel.frame + (if y = 0 then 1 else 0)
  let off := reuseOff s y
  modPanel (fun p => { p with
    rates := [removedEighths s]
    work := some {
      line := y, serial := serial, chg := p.chg, cycles := lineCycles s, backdrop := backdropLine s
      layers := lineLayers s y, sprLimit := cbit s 0x008 0 && cbit s 0x030 0 && (spritesOn s y).2
      store := if inBand s y then some (off, (List.range p.live.hact).map fun x => prLe s (off + 3 * x) 3) else none
      same := storeSame s y serial, trust := trustRow s y } }) s

/-- What a finished line leaves: whether it was trimmed, reused or overran; its cycles; the line noted in the reuse band. -/
def lineDone (w : LineWork) (trimmed reused late : Bool) (used : Nat) (s : State) : State :=
  let s1 := setRegN (cmpBase + 0x130) used (setRegN (cmpBase + 0x12C) w.cycles
    (modPanel (fun p => { p with trimmed := trimmed, reused := reused }) s))
  if late then incReg (cmpBase + 0x120) (cmpEvent 0 56 s1) else s1

/-- The reuse band holds line `w` as of its compose start. -/
def noteStored (w : LineWork) (s : State) : State :=
  modPanel (fun p => { p with lines := tset (0, 0) p.lines w.line (w.serial, w.chg) }) s

/-- A reused line: the stored pixels, as many groups as the budget lets be read (R362). -/
def reuseLine (w : LineWork) (stored : List Nat) (budget : Nat) (s : State) : List Nat × State :=
  let want := groups8 stored.length
  (overRun (fun p _ => p) 0 (stored.take (8 * min want (budget - 64))) w.backdrop,
    lineDone w false true (decide (budget < 64 + want)) (min budget (64 + want)) (noteStored w s))

/-- The reuse store takes a line composed in the band, as far as the budget lets it. -/
def reuseStore (w : LineWork) (off budget : Nat) (d : Draft) (s : State) : State :=
  let want := groups8 w.backdrop.length
  let got := min want (budget - d.used)
  let s1 := storePixels off (d.px.take (8 * got)) s
  if d.ovr ∨ got < want then s1 else noteStored w s1

/-- Every Nth composed line is sampled by the Dandy unit (R365). -/
def dandySample (w : LineWork) (layers : List LayerWork) (px : List Nat) (s : State) : State :=
  let n := s.panel.dandyN + 1
  let s1 := modPanel (fun p => { p with dandyN := n }) s
  if cbit s 0x100 16 && n % cfld s 0x100 0 11 == 0 then
    modPanel (fun p => { p with dandy := p.dandy ++
      [{ line := w.line, chg := w.chg, exact := exactLine w.backdrop layers, sent := px }] }) s1
  else s1

/-- A line composed anew: the governor's decisions, the pixels, the flags, the reuse store, the Dandy sample. -/
def newLine (w : LineWork) (layers : List LayerWork) (sp : List (Nat × Nat)) (s : State) : List Nat × State :=
  let budget := deliveredBy w.cycles sp
  let tail := if w.store.isSome then groups8 w.backdrop.length else 0
  let plan := govern w.cycles sp tail 64 layers
  let d := composeLine w.backdrop plan.1 budget
  let s1 := raiseIf (d.bad) 58 (if d.bad then putBit (cmpBase + 0x004) 2 true s else s)
  let s2 := if w.sprLimit then cmpEvent 1 57 s1 else s1
  let s3 := dandySample w layers d.px s2
  let s4 := match w.store with
    | some (off, _) => reuseStore w off budget d s3
    | none => s3
  (d.px, lineDone w plan.2 false (d.ovr || decide (budget < d.used + tail)) (min budget (d.used + tail)) s4)

/-- The line under composition as it stands at its line start, `times` being the cycles at which the ratio of removed cycles
changed. L6 is left out of a frame in which a check of R358 failed; the compositor is held after BIST_FAILED. -/
def composeEnd (w : LineWork) (times : List Nat) (s : State) : List Nat × State :=
  let sp := spans w.cycles 0 s.panel.rates times
  if s.faults.bist then (w.backdrop, s)
  else
    let layers := w.layers.filter fun l => !l.host || s.panel.l6Ok
    match w.store with
    | some (_, stored) =>
      if w.same && !layers.isEmpty && layers.all (fun l => l.mode == 2) then
        reuseLine w stored (deliveredBy w.cycles sp) s
      else newLine w layers sp s
    | none => newLine w layers sp s

/-! Line starts. -/

/-- One pixel in the signatures (R343). -/
def crcPixel (c px : Nat) : Nat :=
  crcByte 0xEDB88320 (crcByte 0xEDB88320 (crcByte 0xEDB88320 c (fld px 16 8)) (fld px 8 8)) (fld px 0 8)

/-- The columns of a line that lie in the trust region. -/
def trustColumns (s : State) (y : Nat) (px : List Nat) : List Nat :=
  let x0 := rfld s (pnlBase + 0x038) 0 11
  let x1 := rfld s (pnlBase + 0x038) 16 11
  if decide (rfld s (pnlBase + 0x03C) 0 11 ≤ y) && decide (y ≤ rfld s (pnlBase + 0x03C) 16 11) then
    (px.take (x1 + 1)).drop x0
  else []

/-- The output stage sends active line `y` with the trust stage's pixels over it, unless that is held too (R337, R348, R359,
R364). -/
def sendLine (y : Nat) (times : List Nat) (s : State) : State :=
  let w := s.panel.work.getD { line := y, backdrop := backdropLine s }
  let r := composeEnd w times s
  let px := if s.faults.bist then r.1 else trustOver s.panel.sealSt w.trust r.1
  let trust := trustColumns s y px
  emit (.panelLine y (lineClocks s.panel.live y px)) (modPanel (fun q => { q with
    work := none, rates := []
    fcrc := px.foldl crcPixel q.fcrc, tcrc := trust.foldl crcPixel q.tcrc, tany := q.tany || !trust.isEmpty }) r.2)

/-- A blanking line leaves (R331). -/
def sendBlank (s : State) : State :=
  emit (.panelLine s.panel.line (lineClocks s.panel.live s.panel.line [])) s

/-- A frame start (Table 16-4, R358, R360). -/
def scanStart (s : State) : State :=
  let s1 := modPanel (fun p => { p with l6Ok := true }) (raise 48 (pnlFlag 0 s))
  let s2 := sealFrame s1
  let s3 := if s.faults.bist then s2 else checkCfg s2
  modPanel (fun p => { p with frame := p.frame + 1, fcrc := 0xFFFFFFFF, tcrc := 0xFFFFFFFF, tany := false }) s3

/-- The freeze detector's comparison (R344). -/
def freezeCheck (sig : Nat) (s : State) : State :=
  let p := s.panel
  let s1 := modPanel (fun q => { q with prevSig := some sig, lastMotion := p.motion }) s
  if !rbit s pnlCtrl 2 then s1
  else if p.prevSig = some sig then
    if p.motion then
      let c := satInc 8 p.frzCount
      let s2 := modPanel (fun q => { q with frzCount := c }) s1
      if !p.frozen && decide (rfld s (pnlBase + 0x028) 0 8 ≤ c) then
        raise 51 (pnlFlag 3 (modPanel (fun q => { q with frozen := true }) s2))
      else s2
    else s1
  else
    let s2 := modPanel (fun q => { q with frzCount := 0, frozen := false }) s1
    if p.frozen then raise 52 (pnlFlag 4 s2) else s2

/-- The trust-region check (R345). -/
def trustCheck (sig : Nat) (s : State) : State :=
  if rbit s pnlCtrl 3 && sig != (reg s (pnlBase + 0x040)).toNat then
    raise 53 (incReg (pnlBase + 0x048) (pnlFlag 5 s))
  else s

/-- The line start of line VACT: signatures, FRAMES and the checks (R343). -/
def scanEnd (s : State) : State :=
  let p := s.panel
  let fsig := p.fcrc ^^^ 0xFFFFFFFF
  let tsig := if p.tany then p.tcrc ^^^ 0xFFFFFFFF else 0
  let frames := pnlBase + 0x034
  let s1 := setRegN (pnlBase + 0x044) tsig (setRegN (pnlBase + 0x030) fsig (setReg frames (reg s frames + 1#32) s))
  trustCheck tsig (freezeCheck fsig (modPanel (fun q => { q with heart := q.heart + 1 }) s1))

/-- The watermark line (R342). -/
def wmarkCheck (s : State) : State :=
  if rbit s (pnlBase + 0x020) 31 && rfld s (pnlBase + 0x020) 0 11 == s.panel.line then raise 50 (pnlFlag 2 s) else s

/-- The Line Sequencer entry at its position: END, LINE, TARGET offset and DATA (Table 16-3). -/
def lsEntry (s : State) (off : Nat) : Bool × Nat × Nat × Nat :=
  let w := prLe s off 8
  (bitAt w 15, fld w 0 11, 4 * fld w 16 14, fld w 32 32)

/-- From an offset on, does an entry of line `l` remain to be executed? -/
def lsRemains (s : State) (l : Nat) : Nat → Nat → Nat → Bool
  | 0, _, _ => false
  | k + 1, off, srv =>
    let e := lsEntry s off
    if e.1 || decide (s.panel.live.vtot ≤ e.2.1) || decide (e.2.1 < srv) || decide (l < e.2.1) then false
    else if e.2.1 = l then true
    else lsRemains s l k (off + 8) e.2.1

/-- The window of line `l` closes: entries of it that remain are late (R340). -/
def lsClose (l : Nat) (s : State) : State :=
  if s.panel.lsActive && lsRemains s l 262144 s.panel.lsPos s.panel.lsSrv then raise 54 (pnlFlag 8 s) else s

/-- The motion window opens at line 0's compose start and closes at line VACT − 1's (R344). -/
def motionWindow (y : Nat) (s : State) : State :=
  let s1 := if y = 0 then modPanel (fun p => { p with motionOpen := true, motion := cbit s 0x470 0 }) s else s
  if y + 1 = s.panel.live.vact then modPanel (fun p => { p with motionOpen := false }) s1 else s1

/-- What every line start does once the line number stands: the watermark, the window and composition of the next line,
jobs that wait for the beam. -/
def lineCommon (s : State) : State :=
  let t := s.panel.live
  let y := (s.panel.line + 1) % t.vtot
  let s1 := lsClose y (wmarkCheck s)
  let s2 := if y < t.vact then composeStart y (motionWindow y s1) else s1
  startJob (some s.panel.line) (startJob (some s.panel.line) s2)

/-- A line start while the raster runs (R331). -/
def lineStart (times : List Nat) (s : State) : State :=
  let t := s.panel.live
  let n := (s.panel.line + 1) % t.vtot
  let s1 := modPanel (fun p => { p with line := n, hblank := false }) s
  let s2 := if n = t.vsync then sendBlank (raise 49 (pnlFlag 1 (applyTiming (pxdivApply s1))))
    else if n = 0 then sendLine 0 times (scanStart s1)
    else if n < t.vact then sendLine n times s1
    else if n = t.vact then sendBlank (scanEnd s1)
    else sendBlank s1
  lineCommon s2

/-- LINE_START: a line start, `times` being the FCLK cycles, counted from its compose start, at which the ratio of removed
cycles changed while the line that now leaves was composed. The raster stops here once EN is 0 (R333). -/
def execLineStart (times : List Nat) (s : State) : Host.Outcome State Fault Refusal :=
  .next (live s fun s =>
    if !s.panel.running then s
    else if !rbit s pnlCtrl 0 then rasterOff s
    else lineStart times s)

/-- RASTER_START: with EN set and PXCLK running the raster starts at line VACT, unless its live timing fails the sum limits.
A set that still waits for a vertical sync start goes on waiting (R332, R333). -/
def execRasterStart (s : State) : Host.Outcome State Fault Refusal :=
  .next (live s fun s =>
    if s.panel.running || !rbit s pnlCtrl 0 || !pxclkRuns s then s
    else if s.panel.live.ok then
      lineCommon (sendBlank (panelChange (modPanel (fun p => { p with
        running := true, line := p.live.vact, hblank := false, heart := 0, frame := p.frame + 1, lines := [], dandyN := 0
        dandy := [], motion := false }) s)))
    else pnlFlag 10 (modPanel (fun p => { p with timingPend := false }) s))

/-! The Line Sequencer (R340, R341). -/

/-- The list restarts: LS_BASE and LS_EN take effect. -/
def lsRestart (s : State) : State :=
  modPanel (fun p => { p with
    lsActive := rbit s pnlCtrl 1, lsPos := rfld s (pnlBase + 0x024) 3 18 * 8, lsOpen := 0, lsSrv := 0
    lsTotal := p.lsCount, lsCount := 0 }) s

/-- ACTIVE_END: the window of the line after the next one opens; at line VTOT − 2 the list restarts. -/
def execActiveEnd (s : State) : Host.Outcome State Fault Refusal :=
  .next (live s fun s =>
    let p := s.panel
    if !p.running || p.hblank then s
    else
      let s1 := modPanel (fun q => { q with hblank := true }) s
      if p.line + 2 = p.live.vtot then lsRestart s1
      else modPanel (fun q => { q with lsOpen := (p.line + 2) % p.live.vtot }) s1)

/-- One entry: END or a line beyond the frame idles the sequencer, a line before the one served stops it, an entry whose
window is not open waits, any other is executed; the trust range is denied. -/
def lsStep (s : State) : State :=
  let p := s.panel
  let e := lsEntry s p.lsPos
  if !p.lsActive then s
  else if e.1 || decide (p.live.vtot ≤ e.2.1) then modPanel (fun q => { q with lsActive := false }) s
  else if e.2.1 < p.lsSrv then raise 54 (pnlFlag 6 (modPanel (fun q => { q with lsActive := false }) s))
  else if p.lsOpen < e.2.1 then s
  else
    let s1 := modPanel (fun q => { q with
      lsPos := q.lsPos + 8, lsSrv := e.2.1, lsCount := q.lsCount + 1, lsLast := e.2.1 }) s
    if inRange e.2.2.1 0x400 0x4FF then raise 54 (pnlFlag 7 s1) else cmpWrite e.2.2.1 (w32 e.2.2.2) s1

/-- LS_ENTRY_WRITE. -/
def execLsEntryWrite (s : State) : Host.Outcome State Fault Refusal := .next (live s lsStep)

/-! The Dandy check (R365). -/

/-- The largest channel difference of two lines: difference and column of its first occurrence. -/
def worstDiff : Nat → List Nat → List Nat → Nat × Nat
  | x, a :: as, b :: bs =>
    let ch := fun lo => if fld a lo 8 < fld b lo 8 then fld b lo 8 - fld a lo 8 else fld a lo 8 - fld b lo 8
    let d := max (ch 16) (max (ch 8) (ch 0))
    let r := worstDiff (x + 1) as bs
    if d < r.1 then r else (d, x)
  | _, _, _ => (0, 0)

/-- One more in a wrapping count. -/
def cmpCount (o : Nat) (s : State) : State := setReg (cmpBase + o) (reg s (cmpBase + o) + 1#32) s

/-- DANDY_DONE: the oldest sample is compared with the line sent, or skipped where something changed meanwhile. -/
def execDandyDone (s : State) : Host.Outcome State Fault Refusal :=
  .next (live s fun s =>
    match s.panel.dandy with
    | [] => s
    | q :: r =>
      let s1 := modPanel (fun p => { p with dandy := r }) s
      if q.chg ≠ s.panel.chg then cmpCount 0x110 s1
      else
        let w := worstDiff 0 q.exact q.sent
        let s2 := cmpCount 0x108 s1
        let s3 := if 0 < w.1 then cmpCount 0x10C s2 else s2
        let s4 := if cfld s 0x104 0 8 < w.1 then setRegN (cmpBase + 0x104) (w.1 + w.2 * 2 ^ 8 + q.line * 2 ^ 19) s3 else s3
        if cfld s 0x100 24 8 < w.1 then cmpEvent 3 59 s4 else s4)

/-! PNL registers (R347). -/

/-- The value a PNL register reads as. -/
def pnlPeek (o : Nat) (s : State) : Word :=
  let p := s.panel
  let t := p.live
  match o with
  | 0x000 => w32 (p.line + b2n (decide (t.vact ≤ p.line)) * 2 ^ 11 + b2n p.hblank * 2 ^ 12 + b2n p.running * 2 ^ 13
      + b2n p.timingPend * 2 ^ 14 + b2n p.lsActive * 2 ^ 15 + b2n p.frozen * 2 ^ 16)
  | 0x02C => w32 (p.frzCount + b2n p.lastMotion * 2 ^ 8)
  | 0x04C => w32 (p.lsLast + p.lsTotal % 2 ^ 16 * 2 ^ 16)
  | 0x060 => w32 (t.hact + t.hfp * 2 ^ 16)
  | 0x064 => w32 (t.hsw + t.hbp * 2 ^ 16)
  | 0x068 => w32 (t.vact + t.vfp * 2 ^ 16)
  | 0x06C => w32 (t.vsw + t.vbp * 2 ^ 16)
  | _ => reg s (pnlBase + o)

/-- The side effect of a read of a PNL register. -/
def pnlReadEffect (o : Nat) (s : State) : State := readClears (pnlBase + o) s

/-- The value of a PNL register lies outside a field's range: the write is ignored. -/
def pnlBad (o : Nat) (v : Word) : Bool :=
  let f := fun n hi => !inRange n 1 hi
  match o with
  | 0x010 => f (wfld v 0 12) 1280 || f (wfld v 16 12) 1023
  | 0x014 => f (wfld v 0 10) 1023 || f (wfld v 16 10) 1023
  | 0x018 => f (wfld v 0 11) 800 || f (wfld v 16 10) 1023
  | 0x01C => f (wfld v 0 10) 1023 || f (wfld v 16 10) 1023
  | 0x028 => wfld v 0 8 == 0
  | _ => false

/-- A software write of a PNL register. The timingShadow set goes live at once while the raster is stopped (R332). Clearing
FRZ_EN clears COUNT and FROZEN (R344). -/
def pnlWrite (o : Nat) (v : Word) (s : State) : State :=
  if pnlBad o v then s
  else
    let lock := rbit s pnlCtrl 31
    let s1 := writeTyped (pnlBase + o) lock (if o = 0x008 ∧ lock = true then wsetBit v 31 true else v) s
    if inRange o 0x00C 0x01C then
      if s.panel.running then modPanel (fun p => { p with timingPend := true }) s1
      else
        let s2 := modPanel (fun p => { p with live := timingShadow s1, timingPend := false }) s1
        if blankBalls s.panel.live.out = blankBalls s2.panel.live.out then s2
        else emit (.panelIdle (blankBalls s2.panel.live.out)) s2
    else if o = 0x008 ∧ rbit s pnlCtrl 2 = true ∧ rbit s1 pnlCtrl 2 = false then
      modPanel (fun p => { p with frzCount := 0, frozen := false }) s1
    else s1

end Sys2Proof.Machine
end

