-- ==== Sys2Proof/Machine/Bus.lean ====
section
/-! DEFINITION. The sentinel address space: which accesses each region permits, loads and stores of memory, registers and
statistics windows, the bit space, register commands (R4–R9, R61, R117, R261, R262, R267, R268). -/

namespace Sys2Proof.Machine

/-! Access rules (Table 13-3). -/

/-- A region of the sentinel address space. -/
inductive Region where
  | rom | itcm | dtcm | sram | block | panelRam | rings | window | unmapped
  deriving DecidableEq, Repr

/-- The region of an address. -/
def regionOf (a : Nat) : Region :=
  if a < 0x10000 then .rom
  else if inRange a 0x10000000 0x1001FFFF then .itcm
  else if inRange a 0x20000000 0x2001FFFF then .dtcm
  else if inRange a 0x30000000 0x300FFFFF then .sram
  else if inRange a 0x40000000 0x400FFFFF then .block
  else if inRange a 0x60000000 0x601FFFFF then .panelRam
  else if inRange a 0x70000000 0x70001FFF then .rings
  else if inRange a 0x80000000 0x801FFFFF then .window
  else .unmapped

/-- DETAIL of the BUSERR that a read or write of `n` bytes raises; none where it is permitted (R261, R262). -/
def accessFault (write : Bool) (a n : Nat) : Option Nat :=
  if a % n ≠ 0 then some 1
  else match regionOf a with
    | .unmapped => some 2
    | .rom => if write then some 3 else none
    | .block => if n = 4 then none else some 5
    | .window => if write then some 3 else if n = 4 then none else some 5
    | _ => none

/-- DETAIL of the BUSERR that a fetch raises. -/
def fetchFault (a : Nat) : Option Nat :=
  if a % 4 ≠ 0 then some 1
  else match regionOf a with
    | .rom => none
    | .itcm => none
    | .sram => none
    | .unmapped => some 2
    | _ => some 4

/-! Registers of the sixteen blocks (Table 14-10). -/

/-- The value a register reads as, before any side effect. -/
def regPeek (s : State) (a : Nat) : Word :=
  let o := a % 0x10000
  match a / 0x10000 % 16 with
  | 0 => evcPeek o s
  | 1 => reg s a
  | 2 => gpioPeek o s
  | 3 => fanPeek o s
  | 4 => audPeek o s
  | 5 => pnlPeek o s
  | 6 => cmpPeek o s
  | 7 => bltPeek o s
  | 8 => vatPeek o s
  | 9 => pairPeek o s
  | 10 => clkPeek o s
  | 11 => idnPeek o s
  | 12 => doorPeek 3 o s
  | 13 => telPeek o s
  | 14 => loftPeek o s
  | _ => keyePeek o s

/-- The side effect of a read of a register. -/
def regReadEffect (a : Nat) (s : State) : State :=
  let o := a % 0x10000
  match a / 0x10000 % 16 with
  | 0 => evcReadEffect o s
  | 1 => tmrReadEffect o s
  | 5 => pnlReadEffect o s
  | 6 => cmpReadEffect o s
  | 8 => vatReadEffect o s
  | 9 => pairReadEffect o s
  | 10 => clkReadEffect o s
  | 12 => doorReadEffect 3 o s
  | 13 => telReadEffect o s
  | 14 => loftReadEffect o s
  | 15 => keyeReadEffect o s
  | _ => s

/-- A software write of a register. -/
def regWrite (a : Nat) (v : Word) (s : State) : State :=
  let o := a % 0x10000
  match a / 0x10000 % 16 with
  | 0 => evcWrite o v s
  | 1 => tmrWrite o v s
  | 2 => gpioWrite o v s
  | 3 => fanWrite o v s
  | 4 => audWrite o v s
  | 5 => pnlWrite o v s
  | 6 => cmpWrite o v s
  | 7 => bltWrite o v s
  | 8 => vatWrite o v s
  | 9 => pairWrite o v s
  | 10 => clkWrite o v s
  | 11 => idnWrite o v s
  | 12 => doorWrite 3 o v s
  | 13 => telWrite o v s
  | 14 => loftWrite o v s
  | _ => keyeWrite o v s

/-! Statistics windows (R117, R140, R142, R214). -/

/-- The 64-bit counter whose low word is at an address of the window. -/
def statCounter (s : State) (a : Nat) : Nat :=
  let o := a - 0x80000000
  if o < 0x1000 then portCounter s (o / 0x100) (o % 0x100 / 8)
  else cnt s a

/-- A word of the window that stands by itself: the port status word, machine status, fault record. -/
def statWord (s : State) (a : Nat) : Option Nat :=
  let o := a - 0x80000000
  if o < 0x1000 then
    if o % 0x100 / 8 = 30 then some (portCounter s (o / 0x100) 30 / (if o % 8 = 4 then 2 ^ 32 else 1)) else none
  else if inRange o 0x1000 0x1FFF then
    match o - 0x1000 with
    | 0x18 => some (feltFree s)
    | 0x1C => some (slotsWord s)
    | 0x20 => some (lanesWord s)
    | _ => none
  else if inRange o 0x2000 0x2FFF then some (faultWord s (o - 0x2000))
  else none

/-- A word read from the statistics window. -/
def statPeek (s : State) (a : Nat) : Word :=
  match statWord s a with
  | some w => w32 w
  | none => if a % 8 = 4 then w32 (tget 0 s.latched (a - 4)) else w32 (statCounter s a)

/-- A read of a counter's low word latches its high word. -/
def statLatch (a : Nat) (s : State) : State :=
  if (statWord s a).isSome ∨ a % 8 = 4 then s else { s with latched := tset 0 s.latched a (statCounter s a / 2 ^ 32) }

/-! Loads and stores. -/

/-- One byte of memory as a load sees it. -/
def memByte (s : State) (a : Nat) : Byte := if a < 0x10000 then Config.bootRom a else mget s a

/-- The value a permitted load of `n` bytes returns. -/
def loadVal (s : State) (a n : Nat) : Nat :=
  match regionOf a with
  | .block => (regPeek s a).toNat
  | .window => (statPeek s a).toNat
  | _ => leNat ((List.range n).map fun i => memByte s (a + i))

/-- The side effect of a permitted load. -/
def loadEffect (a : Nat) (s : State) : State :=
  match regionOf a with
  | .block => regReadEffect a s
  | .window => statLatch a s
  | _ => s

/-- A permitted store of `n` bytes. -/
def storeVal (a n v : Nat) (s : State) : State :=
  match regionOf a with
  | .block => regWrite a (w32 v) s
  | _ => agentWrite a (leBytes n v) s

/-! The bit space (R267, R268). -/

/-- What a bit address reaches (Table 13-5). -/
inductive BitPlace where
  | general (addr bit : Nat)
  | pending (source : Nat)
  | mask (source : Nat)
  /-- A bit of one of the first three registers of a block. -/
  | block (addr bit : Nat)
  | none
  deriving DecidableEq, Repr

def bitPlace (b : Nat) : BitPlace :=
  if b < 0x200 then .general (0x2001FFC0 + b / 8) (b % 8)
  else if b < 0x300 then .pending (b - 0x200)
  else if b < 0x400 then .mask (b - 0x300)
  else if inRange b 0x600 0xBFF then
    let k := b - 0x600
    .block (0x40000000 + k / 96 * 0x10000 + 4 * (k % 96 / 32)) (k % 32)
  else .none

/-- The value of a bit of the bit space; a read has no side effect. -/
def bitRead (s : State) (b : Nat) : Bool :=
  match bitPlace b with
  | .general a i => bitAt (mget s a).toNat i
  | .pending n => bitAt (evcPend s 0) n
  | .mask n => evcMasked s n
  | .block a i => wbit (regPeek s a) i
  | .none => false

/-- Is the lock of a block in force (R5)? -/
def blockLocked (s : State) (block : Nat) : Bool :=
  match block with
  | 3 => rbit s fanCtrl 31
  | 5 => rbit s pnlCtrl 31
  | 6 => rbit s (cmpBase + 0x008) 31
  | 8 => rbit s (vatBase + 0x004) 31
  | 9 => rbit s pairCtrl 31
  | 11 => rbit s (idnBase + 0x0FC) 0
  | _ => false

/-- Write a stored bit of a block's register: only that bit changes; a Loft register's bit waits in the Loft's queue (R316).
A register whose write does more is written with its other stored bits as they stand. -/
def storedBit (a i : Nat) (v : Bool) (s : State) : State :=
  if (a = fanCtrl ∨ a = vatBase + 0x004) ∧ i ≠ 0 then putBit a i (v || (i == 31 && rbit s a 31)) s
  else if a / 0x10000 = 0x400E then loftQueue (a % 0x10000) (w32 (2 ^ i)) (w32 (b2n v * 2 ^ i)) s
  else
    let p := regSpec a
    regWrite a (wsetBit (reg s a &&& w32 (p.rw ||| p.lk)) i v) s

/-- A bit write to a block's register (Table 13-6): the bit's type decides. -/
def blockBitWrite (a i : Nat) (v : Bool) (s : State) : State :=
  let p := regSpec a
  if bitAt p.rw i || (bitAt p.lk i && !blockLocked s (a / 0x10000 % 16)) then storedBit a i v s
  else if v then s
  else if bitAt p.w1c i then regWrite a ((reg s a &&& w32 (p.rw ||| p.lk)) ||| w32 (2 ^ i)) s
  else if bitAt p.rc i then putBit a i false s
  else s

/-- Set or clear a bit of the bit space. -/
def bitWrite (b : Nat) (v : Bool) (s : State) : State :=
  match bitPlace b with
  | .general a i =>
    let w := (mget s a).toNat
    mset a (BitVec.ofNat 8 (w - (if bitAt w i then 2 ^ i else 0) + (if v then 2 ^ i else 0))) s
  | .pending n => if v then swSet n s else swClr n s
  | .mask n => putBit (evcBase + 0x220 + 4 * (n / 32)) (n % 32) v s
  | .block a i => blockBitWrite a i v s
  | .none => s

/-! Register commands. -/

/-- A word write by the sentinel into a block, or by the host of door 0 or 1 into BAR0; any other address and any other
alignment has no effect here (R9, R61). -/
def registerWrite (who : EvcTarget) (a v : Word) (s : State) : State :=
  if a.toNat % 4 ≠ 0 then s
  else match who with
    | .sentinel => if regionOf a.toNat = .block then regWrite a.toNat v s else s
    | .door0 => doorWrite 0 a.toNat v s
    | .door1 => doorWrite 1 a.toNat v s

/-- REGISTER_WRITE. -/
def execRegisterWrite (who : EvcTarget) (a v : Word) (s : State) : Host.Outcome State Fault Refusal :=
  done (live s (registerWrite who a v))

/-- A word read by the sentinel, or by the host of door 0 or 1 from BAR0: its value, then its side effect. -/
def registerRead (who : EvcTarget) (a : Word) (s : State) : State :=
  if a.toNat % 4 ≠ 0 then s
  else match who with
    | .sentinel =>
      if regionOf a.toNat = .block ∨ regionOf a.toNat = .window then
        loadEffect a.toNat (emit (.readData (loadVal s a.toNat 4)) s)
      else s
    | .door0 => doorReadEffect 0 a.toNat (emit (.readData (doorPeek 0 a.toNat s).toNat) s)
    | .door1 => doorReadEffect 1 a.toNat (emit (.readData (doorPeek 1 a.toNat s).toNat) s)

/-- RC_READ. -/
def execRcRead (who : EvcTarget) (a : Word) (s : State) : Host.Outcome State Fault Refusal :=
  .next (live s (registerRead who a))

/-- COUNTER_LATCH_READ: the sentinel reads a word of the statistics window (R117). -/
def execCounterLatchRead (a : Word) (s : State) : Host.Outcome State Fault Refusal :=
  .next (live s (registerRead .sentinel a))

/-- The lock bit of a block: its register and place (R5). -/
def lockBit (b : LockBlock) : Nat × Nat :=
  match b with
  | .idn => (idnBase + 0x0FC, 0)
  | .vat => (vatBase + 0x004, 31)
  | .pair => (pairCtrl, 31)
  | .panel => (pnlCtrl, 31)
  | .compositor => (cmpBase + 0x008, 31)
  | .fan => (fanCtrl, 31)

/-- BLOCK_LOCK: a write of 1 to a block's lock bit. -/
def execBlockLock (b : LockBlock) (s : State) : Host.Outcome State Fault Refusal :=
  .next (live s (storedBit (lockBit b).1 (lockBit b).2 true))

end Sys2Proof.Machine
end

