-- ==== Sys2Proof/Machine/Balls.lean ====
section
/-! DEFINITION. The ball grid: what each of the 1,444 balls carries (R412, R413, Tables 20-1 to 20-5). -/

namespace Sys2Proof.Machine

/-- The supplies. -/
inductive Supply where
  | core | aon | sd | sdh | pll | ioA | ioN | ioP | vss
  deriving DecidableEq, Repr

/-- A signal ball: one that the boundary register covers, or another. In a pair `neg` tells _N from _P; LVDS pair 4 is the
clock's. -/
inductive Signal where
  | covered (b : Ball)
  | lane (dry tx neg : Bool) (n : Nat)
  | cal (dry : Bool)
  | lxtalIn | lxtalOut | tamp (n : Nat) | pwrbtn | pwrEn
  | pcie (door : Nat) (tx neg : Bool) (n : Nat)
  | pcieRef (door : Nat) (neg : Bool)
  | refclk (neg : Bool)
  | tck | tms | tdi | tdo | trst | porst | tmode
  | lvds (pair : Nat) (neg : Bool)
  deriving DecidableEq, Repr

/-- What a ball carries. -/
inductive BallUse where
  | signal (s : Signal)
  | supply (v : Supply)
  | nc
  deriving DecidableEq, Repr

/-- The letters of row `i`, 1 to 38 (Table 20-1). -/
def rowLetters (i : Nat) : String :=
  let l := ["A", "B", "C", "D", "E", "F", "G", "H", "J", "K", "L", "M", "N", "P", "T", "U", "V", "W", "Y"]
  if i ≤ 19 then l.getD (i - 1) "" else "A" ++ l.getD (i - 20) ""

/-- The lane whose row this is (Table 20-2). -/
def laneRow (row : Nat) : Option Nat := if 9 ≤ row ∧ row ≤ 30 ∧ row % 3 = 0 then some ((row - 9) / 3) else none

/-- SerDes balls (Table 20-2). -/
def serdesAt (row col : Nat) : Option Signal :=
  match laneRow row, col with
  | some n, 1 => some (.lane false true false n)
  | some n, 2 => some (.lane false true true n)
  | some n, 4 => some (.lane false false false n)
  | some n, 5 => some (.lane false false true n)
  | some n, 38 => some (.lane true true false n)
  | some n, 37 => some (.lane true true true n)
  | some n, 35 => some (.lane true false false n)
  | some n, 34 => some (.lane true false true n)
  | none, 3 => if row = 8 then some (.cal false) else none
  | none, 36 => if row = 8 then some (.cal true) else none
  | _, _ => none

/-- PCIe lane balls of rows A and C: lane `k` from column 8 + 3k on door 0, from 21 + 3k on door 1 (Table 20-3). -/
def pcieAt (tx : Bool) (col : Nat) : Option Signal :=
  let at? := fun (door c0 : Nat) =>
    if c0 ≤ col ∧ col < c0 + 12 ∧ (col - c0) % 3 < 2 then some (Signal.pcie door tx ((col - c0) % 3 == 1) ((col - c0) / 3)) else none
  match at? 0 8 with
  | some x => some x
  | none => at? 1 21

/-- The covered ball number `n` of a run of balls from column `c0` on. -/
def runAt (c0 : Nat) (l : List Ball) (col : Nat) : Option Signal :=
  if c0 ≤ col then (l[col - c0]?).map .covered else none

/-- North signal balls (Table 20-3). -/
def northAt (row col : Nat) : Option Signal :=
  let at? := fun (c0 : Nat) (l : List Signal) => if c0 ≤ col then l[col - c0]? else none
  match row with
  | 1 => if col = 1 then some .lxtalIn else if col = 2 then some .lxtalOut
      else if 33 ≤ col then runAt 33 ([.spiSck, .spiCs] ++ (List.range 4).map .spiIo) col else pcieAt true col
  | 2 => if col ≤ 4 then some (.tamp (col - 1)) else at? 33 [.covered .irq2, .tck, .tms, .tdi, .tdo, .trst]
  | 3 => if col = 1 then some .pwrbtn else if col = 2 then some .pwrEn
      else if 33 ≤ col then at? 33 [.porst, .covered .sysrst, .covered .rstout, .tmode] else pcieAt false col
  | 5 => match col with
    | 8 => some (.pcieRef 0 false)
    | 9 => some (.pcieRef 0 true)
    | 19 => some (.refclk false)
    | 20 => some (.refclk true)
    | 30 => some (.pcieRef 1 false)
    | 31 => some (.pcieRef 1 true)
    | _ => none
  | 7 => if col = 8 then some (.covered (.perst 0)) else if col = 30 then some (.covered (.perst 1)) else none
  | _ => none

/-- South signal balls (Table 20-4): rows AY, AW, AV, AU, AT. -/
def southAt (row col : Nat) : Option Signal :=
  let gps := fun (n : Nat) => (List.range 16).map fun i => Ball.gp (n + i)
  match row with
  | 38 => runAt 6 ((List.range 28).map .pnl) col
  | 37 =>
    if 22 ≤ col then
      (if col = 24 then none else runAt 22 ([.aud 0, .aud 1, .aud 0] ++ (List.range 6).map fun n => .aud (n + 2)) col)
    else if 6 ≤ col ∧ col ≤ 19 ∧ col % 3 ≠ 2 then some (.lvds ((col - 6) / 3) (col % 3 == 1))
    else none
  | 36 =>
    if col ≤ 21 then runAt 6 (gps 0) col
    else runAt 23 ([.fanPwm 0, .tach 0, .fanPwm 1, .tach 1, .fanPwm 2, .tach 2] ++ (List.range 6).map .gate
      ++ (List.range 3).map .hall ++ [.trip]) col
  | 35 =>
    if col ≤ 21 then runAt 6 (gps 16) col
    else runAt 23 ((List.range 8).map .ndq ++ [.ndqs 0, .ndqs 1, .nre 0, .nre 1, .nwe, .ncle, .nale, .nce 0]) col
  | 34 =>
    if col ≤ 21 then runAt 6 (gps 32) col
    else runAt 23 [.nce 1, .nrb 0, .nrb 1, .nwp, .nvsel] col
  | _ => none

/-- The signal of a ball, where it is a signal ball. -/
def signalAt (row col : Nat) : Option Signal :=
  match serdesAt row col with
  | some x => some x
  | none => match northAt row col with
    | some x => some x
    | none => southAt row col

/-- Supply, ground and unconnected balls: the first matching rule decides (Table 20-5). -/
def supplyAt (row col : Nat) : BallUse :=
  let within := fun (lo hi : Nat) => decide (lo ≤ col) && decide (col ≤ hi)
  let side := decide (8 ≤ row) && decide (row ≤ 31)
  let edge := within 1 5 || within 34 38
  if side && edge && (laneRow row).isSome && (col == 3 || col == 36) then .supply .vss
  else if side && edge && row % 3 == 2 then
    (if within 1 2 || within 37 38 then .supply .sdh else .supply .sd)
  else if side && edge && row % 3 == 1 then .supply .vss
  else if side && (col == 6 || col == 33) then .supply .sd
  else if side && (col == 7 || col == 32) then .supply .vss
  else if side && within 8 31 then (if (row + col) % 2 = 0 then .supply .core else .supply .vss)
  else if (row == 1 || row == 3) && within 3 4 then .supply .aon
  else if row == 5 && [7, 10, 17, 18, 21, 22, 29, 32].contains col then .supply .pll
  else if (row == 3 && within 37 38) || (row == 4 && within 33 38) || (row == 35 && col == 22) || (row == 36 && col == 22)
      || (row == 37 && (col == 21 || col == 24 || within 31 38)) then .supply .ioA
  else if row == 34 && within 28 35 then .supply .ioN
  else if (row == 37 && [8, 11, 14, 17, 20].contains col) || (row == 38 && (within 1 5 || within 34 35)) then .supply .ioP
  else if (row == 6 || row == 7 || row == 32) && within 8 31 then .supply .core
  else if row == 7 && (within 1 7 || within 32 38) then .nc
  else .supply .vss

/-- What the ball of a row and column carries. -/
def ballAt (row col : Nat) : BallUse :=
  match signalAt row col with
  | some x => .signal x
  | none => supplyAt row col

/-- All balls in ball order: rows by index, columns 1 to 38 within a row. -/
def allBalls : List BallUse :=
  (List.range 38).flatMap fun r => (List.range 38).map fun c => ballAt (r + 1) (c + 1)

/-- The balls of the grid that the boundary register covers, in ball order (R428). -/
def coveredBalls : List Ball := allBalls.filterMap fun b => match b with | .signal (.covered x) => some x | _ => none

end Sys2Proof.Machine
end

