-- ==== Sys2Proof/Machine/Flags.lean ====
section
/-! DEFINITION. The flags of STAT and every computation of them (Tables 13-2 and 13-8), results included. -/

namespace Sys2Proof.Machine

/-! STAT (Table 13-2). -/

def stC (st : Word) : Bool := wbit st 0
def stZ (st : Word) : Bool := wbit st 1
def stN (st : Word) : Bool := wbit st 2
def stV (st : Word) : Bool := wbit st 3
def stFrac (st : Word) : Bool := wbit st 5
def stHandler (st : Word) : Bool := wbit st 12

/-- STAT as a write leaves it: reserved bits read 0 (R260). -/
def statMask (v : Word) : Word := v &&& 0x1FBF#32

/-- Z and N from a result. -/
def flagsZN (r st : Word) : Word := wsetBit (wsetBit st 1 (r == 0#32)) 2 r.msb

/-- C, Z, N and V. -/
def flagsAll (r : Word) (c v : Bool) (st : Word) : Word := wsetBit (wsetBit (flagsZN r st) 0 c) 3 v

/-- Z and N from the result, V = 0, C unchanged. -/
def flagsLogic (r st : Word) : Word := wsetBit (flagsZN r st) 3 false

/-- The sum a + b + c, c being 0 or 1, and its flags. -/
def addFlags (a b : Word) (c : Nat) (st : Word) : Word × Word :=
  let r := a + b + w32 c
  (r, flagsAll r (decide (2 ^ 32 ≤ a.toNat + b.toNat + c)) (decide (r.toInt ≠ a.toInt + b.toInt + (c : Int))) st)

/-- The difference a − b − c and its flags; C is the borrow. -/
def subFlags (a b : Word) (c : Nat) (st : Word) : Word × Word :=
  let r := a - b - w32 c
  (r, flagsAll r (decide (a.toNat < b.toNat + c)) (decide (r.toInt ≠ a.toInt - b.toInt - (c : Int))) st)

/-- A logical result and its flags. -/
def logicFlags (r st : Word) : Word × Word := (r, flagsLogic r st)

/-- A result whose flags are Z and N only. -/
def znFlags (r st : Word) : Word × Word := (r, flagsZN r st)

/-! Shifts and rotates by 0 to 31: the last bit shifted out goes to C, which a count of 0 leaves. -/

/-- A shift's result, its last bit shifted out, and its count. -/
def shiftFlags (r : Word) (last : Bool) (n : Nat) (st : Word) : Word × Word :=
  (r, if n = 0 then flagsLogic r st else wsetBit (flagsLogic r st) 0 last)

def shlFlags (a : Word) (n : Nat) (st : Word) : Word × Word := shiftFlags (a <<< n) (wbit a (32 - n)) n st
def shrFlags (a : Word) (n : Nat) (st : Word) : Word × Word := shiftFlags (a >>> n) (wbit a (n - 1)) n st
def sarFlags (a : Word) (n : Nat) (st : Word) : Word × Word := shiftFlags (a.sshiftRight n) (wbit a (n - 1)) n st
def rorFlags (a : Word) (n : Nat) (st : Word) : Word × Word := shiftFlags (a.rotateRight n) (wbit a (n - 1)) n st

/-! Products and divisions (R272). -/

/-- Bits 63:32 of a product of integers. -/
def highWord (p : Int) : Word := BitVec.ofInt 32 (p / (2 ^ 32 : Nat))

/-- V shows a divide by zero, or the overflow of −2^31 by −1. -/
def divFlags (r : Word) (v : Bool) (st : Word) : Word × Word := (r, wsetBit (flagsZN r st) 3 v)

def divuFlags (a b st : Word) : Word × Word :=
  if b = 0#32 then divFlags 0xFFFFFFFF#32 true st else divFlags (a / b) false st

def remuFlags (a b st : Word) : Word × Word :=
  if b = 0#32 then divFlags a true st else divFlags (a % b) false st

/-- DIVS and REMS overflow. -/
def divOverflow (a b : Word) : Bool := a == 0x80000000#32 && b == 0xFFFFFFFF#32

def divsFlags (a b st : Word) : Word × Word :=
  if b = 0#32 then divFlags 0xFFFFFFFF#32 true st
  else divFlags (BitVec.ofInt 32 (a.toInt.tdiv b.toInt)) (divOverflow a b) st

def remsFlags (a b st : Word) : Word × Word :=
  if b = 0#32 then divFlags a true st
  else divFlags (BitVec.ofInt 32 (a.toInt.tmod b.toInt)) (divOverflow a b) st

/-- Leading zero bits, 0 to 32. -/
def clz (a : Word) : Nat := ((List.range 32).find? fun i => wbit a (31 - i)).getD 32

/-- The bytes in reverse order. -/
def bswap (a : Word) : Word := w32 (leNat (leBytes 4 a.toNat).reverse)

/-! Conditions of Bcc (COND 0 to 14). -/

/-- Does the condition hold? -/
def condHolds (cond : Nat) (st : Word) : Bool :=
  match cond with
  | 0 => stZ st
  | 1 => !stZ st
  | 2 => stC st
  | 3 => !stC st
  | 4 => stN st
  | 5 => !stN st
  | 6 => stV st
  | 7 => !stV st
  | 8 => !stC st && !stZ st
  | 9 => stC st || stZ st
  | 10 => stN st == stV st
  | 11 => stN st != stV st
  | 12 => !stZ st && stN st == stV st
  | 13 => stZ st || stN st != stV st
  | _ => true

/-! Accumulators (R273). -/

/-- A clamp to `w` bits two's complement, and whether it changed the value. -/
def satTo (w : Nat) (i : Int) : Int × Bool :=
  let r := clampInt (-((2 ^ (w - 1) : Nat) : Int)) ((2 ^ (w - 1) : Nat) - 1) i
  (r, decide (r ≠ i))

/-- The half of a word that an H field names, taken as signed. -/
def half (w : Word) (high : Bool) : Int := toSigned 16 (w.toNat / (if high then 2 ^ 16 else 1))

/-- The product of two halves, doubled where STAT.FRAC is 1. -/
def macProduct (a b : Word) (h1 h2 : Bool) (st : Word) : Int :=
  half a h1 * half b h2 * (if stFrac st then 2 else 1)

/-- STAT.SAT is set by a clamp that changes a value, and stays. -/
def flagSat (sat : Bool) (st : Word) : Word := if sat then wsetBit st 4 true else st

end Sys2Proof.Machine
end

