-- ==== Sys2Proof/Machine/Operands.lean ====
section
/-! DEFINITION. The Karpol core's registers, addressing modes, loads, stores, pushes and bit accesses, as one copy's
instruction makes them (R259–R268, R288). -/

namespace Sys2Proof.Machine

def modCore (f : Core → Core) (s : State) : State := { s with core := f s.core }

/-! Outputs that are compared (Table 14-2). In Loose mode each copy folds its own into a signature (R289); in Tight mode the
checker, on the same data, makes the same. -/

/-- Fold an output of the copy in `core` into its signature. -/
def foldOut (o : List Nat) (s : State) : State :=
  if s.pair.mode = 1 then
    modPair (fun p =>
      if p.asChk then { p with sigChk := Config.signatureFold p.sigChk o }
      else { p with sigMain := Config.signatureFold p.sigMain o }) s
  else s

/-- The outputs: a fetch's address; a data access with its size, direction and written value; a bit access with the written
value where there is one; a register's number, as the debugger counts them, and value; WAIT, CHKPT and an exception's vector. -/
def outFetch (a : Word) : State → State := foldOut [0, a.toNat]
def outData (a n : Nat) (w : Option Nat) : State → State := foldOut ([1, a, n] ++ w.toList)
def outBitOp (b : Nat) (w : Option Bool) : State → State := foldOut ([2, b] ++ w.toList.map b2n)
def outReg (r : Nat) (v : Word) : State → State := foldOut [3, r, v.toNat]
def outAcc (i : Nat) (v : Int) : State → State := foldOut [4, i, ofSigned 56 v]
def outWait : State → State := foldOut [5]
def outChkpt : State → State := foldOut [6]
def outEntry (n : Nat) : State → State := foldOut [7, n]

/-! Registers (Table 13-1). -/

def dreg (s : State) (i : Fin 16) : Word := tget 0#32 s.core.d i.val
def areg (s : State) (i : Fin 8) : Word := tget 0#32 s.core.a i.val
def acc (s : State) (i : Fin 4) : Int := tget 0 s.core.ac i.val
def setD (i : Fin 16) (v : Word) (s : State) : State :=
  outReg i.val v (modCore (fun c => { c with d := tset 0#32 c.d i.val v }) s)
def setA (i : Fin 8) (v : Word) (s : State) : State :=
  outReg (16 + i.val) v (modCore (fun c => { c with a := tset 0#32 c.a i.val v }) s)
def setAcc (i : Fin 4) (v : Int) (s : State) : State :=
  outAcc i.val v (modCore (fun c => { c with ac := tset 0 c.ac i.val v }) s)
def setLk (v : Word) (s : State) : State := outReg 24 v (modCore (fun c => { c with lk := v }) s)
def setStat (v : Word) (s : State) : State := outReg 25 v (modCore (fun c => { c with stat := v }) s)
def setPc (v : Word) (s : State) : State := modCore (fun c => { c with pc := v }) s

/-- STAT written by MTC or POP: no interrupt is taken at the boundary directly after (R278). -/
def loadStat (v : Word) (s : State) : State :=
  outReg 25 (statMask v) (modCore (fun c => { c with stat := statMask v, shadow := true }) s)

/-- The address of the following instruction. -/
def nextPc (s : State) : Word := s.core.pc + 4#32

/-- Go on to the following instruction. -/
def kNext (s : State) : State := setPc (nextPc s) s

/-- What an instruction comes to: a state, or an exception with vector, DETAIL and EADDR, which leaves no other effect
(R275). -/
inductive KRes where
  | ok (s : State)
  /-- As `ok`, where the instruction opened the first Loose interval and stands before it. -/
  | opened (s : State)
  /-- As `ok`, where the boundary behind the instruction is a checkpoint of Loose mode. -/
  | chkpt (s : State)
  /-- As `ok`, where the pair halts at the boundary behind the instruction. -/
  | halt (s : State)
  | exc (vec detail : Nat) (eaddr : Word)

/-- UNDEF (vector 1). -/
def kUndef (s : State) : KRes := .exc 1 0 s.core.pc

/-! Accesses. In Loose and Replay mode the main copy records what it reads, and the checker takes the recorded values and
makes no access (R288, R302). -/

/-- Add an entry to the replay queue. In Replay mode recording stops when it is full (R302); in Loose mode the main copy has
waited for room (R288). -/
def record (e : Replay) (s : State) : State :=
  if s.pair.mode = 1 then modPair (fun p => { p with queue := p.queue ++ [e] }) s
  else if s.pair.mode = 3 ∧ s.pair.ovf = false then
    if 256 ≤ s.pair.queue.length then raise 189 (orReg pairEvents 0x40 (modPair (fun p => { p with ovf := true }) s))
    else modPair (fun p => { p with queue := p.queue ++ [e] }) s
  else s

/-- A value read: by the checker from the replay queue, by the main copy with its side effect and on record. -/
def kTake (v : Word) (effect : State → State) (s : State) : Word × State :=
  if s.pair.asChk then
    match s.pair.queue with
    | .load x :: r => (x, modPair (fun p => { p with queue := r }) s)
    | _ => (v, s)
  else (v, record (.load v) (effect s))

/-! The D-cache and its write buffer (R263). Both follow the main copy's accesses, and give no access another effect. -/

/-- A load from sentinel SRAM that misses fills its line; of two lines of a set which one gives way is open. -/
def dcacheLoad (a : Nat) (s : State) : State :=
  let l := a / 32
  if regionOf a ≠ .sram ∨ wbit s.core.cctl 1 = false ∨ s.pair.dcache.contains l = true then s
  else
    match s.pair.dcache.filter fun e => e % 256 == l % 256 with
    | [x, y] =>
      let out := if freeVal s % 2 = 1 then x else y
      freeNext (modPair (fun p => { p with dcache := (p.dcache.filter fun e => e != out) ++ [l] }) s)
    | _ => modPair (fun p => { p with dcache := p.dcache ++ [l] }) s

/-- A store to sentinel SRAM passes through the write buffer; where it is full, its oldest word goes first. -/
def bufferStore (a : Nat) (s : State) : State :=
  if regionOf a = .sram then
    modPair (fun p => { p with wbuf := (if 4 ≤ p.wbuf.length then p.wbuf.drop 1 else p.wbuf) ++ [a / 4 * 4] }) s
  else s

/-- A permitted load of `n` bytes. -/
def takeLoad (a n : Nat) (s : State) : Word × State :=
  kTake (w32 (loadVal s a n)) (fun x => dcacheLoad a (loadEffect a x)) (outData a n none s)

/-- A permitted store of `n` bytes; the checker's reaches nothing. -/
def putStore (a n v : Nat) (s : State) : State :=
  let s1 := outData a n (some v) s
  if s1.pair.asChk then s1 else bufferStore a (storeVal a n v s1)

/-- Load `n` bytes: BUSERR, or the value goes on to `k`. -/
def kLoad (a : Word) (n : Nat) (k : Word → State → KRes) (s : State) : KRes :=
  match accessFault false a.toNat n with
  | some d => .exc 2 d a
  | none => let (v, s1) := takeLoad a.toNat n s; k v s1

/-- Store `n` bytes: BUSERR, or go on with `k`. -/
def kStore (a : Word) (n : Nat) (v : Word) (k : State → KRes) (s : State) : KRes :=
  match accessFault true a.toNat n with
  | some d => .exc 2 d a
  | none => k (putStore a.toNat n v.toNat s)

/-! Addressing modes (Table 13-4). -/

def sext16 (d : BitVec 16) : Word := d.signExtend 32

/-- The effective address of an access of `n` bytes, and the base register's update. -/
def eaOf (m : AMode) (n : Nat) (s : State) : Option (Word × Option (Fin 8 × Word)) :=
  match m with
  | .disp an d => some (areg s an + sext16 d, none)
  | .postInc an => some (areg s an, some (an, areg s an + w32 n))
  | .preDec an => some (areg s an - w32 n, some (an, areg s an - w32 n))
  | .index an dm sh => some (areg s an + (dreg s dm <<< sh.val), none)
  | .postDisp an d => some (areg s an, some (an, areg s an + sext16 d))
  | .pcRel d => some (s.core.pc + sext16 d, none)
  | .reserved => none

/-- Update the base register, where the mode does. -/
def baseUpdate (u : Option (Fin 8 × Word)) (s : State) : State :=
  match u with
  | some (an, v) => setA an v s
  | none => s

/-- A parity error of a cache line that an access met: it is refilled, and counted (R287). -/
def cacheErr (s : State) : State := raise 184 (orReg pairEvents 4 (incReg (pairBase + 0x030) s))

/-- A corrected word of a sentinel memory (R293). -/
def memCe (s : State) : State := raise 185 (orReg pairEvents 8 (incReg (pairBase + 0x02C) s))

/-- What a load met: a parity error of the D-cache line, which is refilled, and a corrected memory word; both are counted
(R287, R293). -/
def loadMet (met : LoadMet) (a : Nat) (s : State) : State :=
  if s.pair.asChk then s
  else
    let g := regionOf a
    let s1 := if met.parity && g == .sram && wbit s.core.cctl 1 then cacheErr s else s
    if met.corrected && (g == .itcm || g == .dtcm || g == .sram) then memCe s1 else s1

/-- A load: its value goes to a register by `put` after the base register's update, so that it remains where both are one
(R264). -/
def kLoadTo (m : AMode) (n : Nat) (met : LoadMet) (put : Word → State → State) (s : State) : KRes :=
  match eaOf m n s with
  | none => kUndef s
  | some (ea, u) => kLoad ea n (fun v s1 => .ok (kNext (put v (baseUpdate u (loadMet met ea.toNat s1))))) s

/-- A store of the low `n` bytes of a value. -/
def kStoreFrom (m : AMode) (n : Nat) (v : Word) (s : State) : KRes :=
  match eaOf m n s with
  | none => kUndef s
  | some (ea, u) => kStore ea n v (fun s1 => .ok (kNext (baseUpdate u s1))) s

/-! The A7 stack (R265, R266). -/

/-- Push a word: STACK where A7 + 4 lies above STKLIM. -/
def kPush (v : Word) (k : State → KRes) (s : State) : KRes :=
  if s.core.stklim.toNat < (areg s 7).toNat + 4 then .exc 3 0 s.core.pc
  else kStore (areg s 7) 4 v (fun s1 => k (setA 7 (areg s 7 + 4#32) s1)) s

/-- Pop a word; it is not checked. -/
def kPop (k : Word → State → KRes) (s : State) : KRes :=
  kLoad (areg s 7 - 4#32) 4 (fun v s1 => k v (setA 7 (areg s 7 - 4#32) s1)) s

/-- Go to an address: BUSERR, DETAIL 1, where it is no multiple of 4. -/
def kJump (a : Word) (s : State) : KRes := if a.toNat % 4 ≠ 0 then .exc 2 1 a else .ok (setPc a s)

/-! Bit accesses (R267, R268). -/

/-- The bit address a bit instruction names. -/
def bitAddr (b : BitRef) (s : State) : Nat :=
  match b with
  | .direct n => n.toNat
  | .indexed dm n => ((dreg s dm).toNat + n.toNat) % 4096

/-- Read a bit. -/
def takeBit (b : Nat) (s : State) : Bool × State :=
  let (v, s1) := kTake (w32 (b2n (bitRead s b))) id (outBitOp b none s)
  (wbit v 0, s1)

/-- Write a bit; the checker's write reaches nothing. -/
def putBitAt (b : Nat) (v : Bool) (s : State) : State :=
  let s1 := outBitOp b (some v) s
  if s1.pair.asChk then s1 else bitWrite b v s1

end Sys2Proof.Machine
end

