-- ==== Sys2Proof/Machine/Karpol.lean ====
section
/-! DEFINITION. How a Karpol core runs: exception and interrupt entry, lockup, waiting, checkpoints and the commit set, one
instruction of the main copy, and the checker behind it in Loose and Replay mode (R274–R280, R286–R292, R300–R302). A Karpol
command stands for the instruction that the core executes at its PC. -/

namespace Sys2Proof.Machine

/-- A class S fault; a device in NAP leaves it, since the core no longer waits (R29). -/
def classSFault (code kind regNo : Nat) (addr : Word) (s : State) : State := napExit (classS code kind regNo addr s)

/-! Exception entry (R274–R276, R280). -/

/-- Lockup: the core issues nothing further. -/
def kLockup (s : State) : State := modCore (fun c => { c with lockup := true }) s

/-- One push of exception entry; STKLIM is not checked. None where it is a BUSERR. -/
def entryPush (v : Word) (s : State) : Option State :=
  match accessFault true (areg s 7).toNat 4 with
  | some _ => none
  | none => some (setA 7 (areg s 7 + 4#32) (putStore (areg s 7).toNat 4 v.toNat s))

/-- Step 3 of an entry: the PC takes the handler's address from the vector. -/
def entryVector (n : Nat) (s : State) : State :=
  let a := (s.core.vbase + w32 (4 * n)).toNat
  match accessFault false a 4 with
  | some _ => kLockup s
  | none =>
    let (h, s1) := takeLoad a 4 s
    match fetchFault h.toNat with
    | some _ => kLockup s1
    | none => setPc h s1

/-- Step 2 writes STAT, and ECAUSE and EADDR where it marks an exception; the entry's vector is an output too (Table
14-2). -/
def entryMark (n : Nat) (mark : Core → Core) (s : State) : State :=
  let s1 := outEntry n (modCore mark s)
  let c := s1.core
  if n < 16 then outReg 36 c.eaddr (outReg 35 c.ecause (outReg 25 c.stat s1)) else outReg 25 c.stat s1

/-- Exception entry through vector `n` with return address `ret`; `mark` is step 2. -/
def kEnter (n : Nat) (ret : Word) (mark : Core → Core) (s : State) : State :=
  match entryPush s.core.stat s with
  | none => kLockup s
  | some s1 =>
    match entryPush ret s1 with
    | none => kLockup s1
    | some s2 => entryVector n (entryMark n mark s2)

/-- Step 2 for vectors 1–5: handler mode, IE = 0, ECAUSE and EADDR. -/
def markExc (n detail : Nat) (eaddr : Word) (c : Core) : Core :=
  { c with stat := wsetBit (wsetBit c.stat 12 true) 7 false, ecause := w32 (n + detail * 2 ^ 8), eaddr := eaddr }

/-- Step 2 for an interrupt at level `p`: handler mode, IL = p. -/
def markIrq (p : Nat) (c : Core) : Core := { c with stat := wsetFld (wsetBit c.stat 12 true) 8 4 p, shadow := false }

/-- The return address of vectors 1–5: TRAP and BREAK push the following instruction's (Table 13-13a). -/
def excReturn (n : Nat) (s : State) : Word := if n = 4 ∨ n = 5 then nextPc s else s.core.pc

/-- Entry of a synchronous exception raised by the instruction at the PC. -/
def kExcept (n detail : Nat) (eaddr : Word) (s : State) : State :=
  kEnter n (excReturn n s) (markExc n detail eaddr) s

/-- The level of an interrupt that R277 permits now, outside the shadow of EI, MTC STAT and POP STAT (R277, R278). -/
def irqDue (s : State) : Option Nat :=
  match sigLevel s with
  | none => none
  | some p => if coreIE s && decide (coreIL s < p) then some p else none

/-- Entry of an interrupt at level `p` after `k` instructions: vector 16 + p, the PC as return address, and a moderation
period of whole TCLK ticks from the next tick on (R276, R277, R288, R313). -/
def kInterrupt (p k : Nat) (s : State) : State :=
  let s1 := kEnter (16 + p) s.core.pc (markIrq p) (record (.irq p k) s)
  let period := rfld s (evcBase + 0x008) 0 16
  if period = 0 then s1
  else { s1 with evc := { s1.evc with modHold := true, modEnd := max s1.evc.modEnd ((nowP s / 125 + 1 + period) * 125) } }

/-! Fetches (R261, R263). -/

/-- The I-cache line of an address is filled where sentinel SRAM is fetched with the cache on; of the two lines of a set
which one gives way is open. -/
def icacheFill (a : Nat) (s : State) : State :=
  let l := a / 32
  if regionOf a ≠ .sram ∨ wbit s.core.cctl 0 = false ∨ (s.pair.icache.find? fun e => e.1 == l).isSome then s
  else
    let set := s.pair.icache.filter fun e => e.1 % 256 == l % 256
    let put := fun (t : Table Bytes) => tins t l (mread s (32 * l) 32)
    match set with
    | [x, y] =>
      let out := if freeVal s % 2 = 1 then x.1 else y.1
      freeNext (modPair (fun p => { p with icache := put (tdel p.icache out) }) s)
    | _ => modPair (fun p => { p with icache := put p.icache }) s

/-- The word a fetch at an address gives, once its line is filled. -/
def fetchWord (s : State) (a : Nat) : Word :=
  match (if wbit s.core.cctl 0 then s.pair.icache.find? (fun e => e.1 == a / 32) else none) with
  | some e => w32 (leAt e.2 (a % 32) 4)
  | none => w32 (loadVal s a 4)

/-! Checkpoints (R289, R290, R292). -/

/-- The Loose interval that begins at a checkpoint: nothing is recorded, and both signatures restart (R289). -/
def freshInterval (s : State) : State :=
  modPair (fun p => { p with since := 0, issued := 0, lag := 0, queue := [], sigMain := 0, sigChk := 0 }) s

/-- A passed checkpoint: the commit set takes the main copy's state. -/
def checkpoint (s : State) : State :=
  modPair (fun p => { p with commit := s.core })
    (freshInterval (setRegN (pairBase + 0x034) ((reg s (pairBase + 0x034)).toNat + 1) s))

/-- Tight mode's CHKPT opens the first Loose interval where Loose mode is requested (R292): the checker, with caches like the
main copy's (R283), follows it from here. -/
def openLoose (s : State) : State :=
  modPair (fun p => { p with mode := 1, commit := s.core, chk := some s.core, chkIcache := p.icache }) (freshInterval s)

/-- Tight comparison resumes: the checker is two cycles behind on the same data again (R292). -/
def closeLoose (s : State) : State := modPair (fun p => { p with mode := 0, chk := none, chkIcache := [] }) s

/-! Halts (R301). -/

/-- The pair halts at an instruction boundary; a lockup ends. -/
def kHalt (s : State) : State :=
  wdogPause (modPair (fun p => { p with halted := true, haltWanted := false })
    (modCore (fun c => { c with lockup := false }) s))

/-- Is there an enabled breakpoint at an address? -/
def bpAt (s : State) (pc : Word) : Bool := s.pair.bps.any fun e => e.2.2 && e.2.1 == pc

/-! One instruction. -/

/-- How a copy's instruction ended. -/
inductive KEnd where
  | retired
  /-- Retired, and it opened the first Loose interval, which begins behind it. -/
  | opened
  /-- Retired, and a checkpoint of Loose mode, or a halt of the pair, follows at the boundary. -/
  | chkpt | halt
  /-- An exception whose instruction had no effect (R275). -/
  | faulted
  deriving DecidableEq, Repr

/-- The copy whose registers stand in `core` executes an instruction: the fetch, then its effect, then what exception it
raises. -/
def kIssue (e : State → KRes) (s0 : State) : State × KEnd :=
  let s := outFetch s0.core.pc (modCore (fun c => { c with shadow := false }) s0)
  let pc := s.core.pc
  match fetchFault pc.toNat with
  | some d => (kExcept 2 d pc s, .faulted)
  | none =>
    let s1 := icacheFill pc.toNat s
    match e s1 with
    | .ok s2 => (s2, .retired)
    | .opened s2 => (s2, .opened)
    | .chkpt s2 => (s2, .chkpt)
    | .halt s2 => (s2, .halt)
    | .exc n d a => (kExcept n d a s1, if n = 4 ∨ n = 5 then .retired else .faulted)

/-- One more instruction that the checker is to execute. -/
def countIssued (s : State) : State := modPair (fun p => { p with issued := p.issued + 1, lag := p.lag + 1 }) s

/-- After the main copy's instruction: a reset that it caused leaves the reset state; a core that waits has not retired; in
Tight mode and in Solo the commit set follows; in Loose and Replay mode the checker has one instruction more to execute, and
in Loose mode one that retired counts towards GAP. -/
def kRetire (r : State × KEnd) : State :=
  let s := r.1
  if s.clk.held then { s with core := {}, pair := {} }
  else if s.core.waiting || s.core.lockup || r.2 == .opened then s
  else if s.pair.mode = 1 then
    let s1 := countIssued s
    if r.2 = .faulted then s1 else modPair (fun p => { p with since := p.since + 1 }) s1
  else if s.pair.mode = 3 then if s.pair.ovf then s else countIssued s
  else modPair (fun p => { p with commit := s.core }) s

/-- After an interrupt entry: a reset that a push caused leaves the reset state; the commit set follows outside Loose and
Replay mode. -/
def kEntryCommit (s : State) : State :=
  if s.clk.held then { s with core := {}, pair := {} }
  else if s.core.lockup || s.pair.mode = 1 || s.pair.mode = 3 then s
  else modPair (fun p => { p with commit := s.core }) s

/-! The checker in Loose and Replay mode (R288, R302). -/

/-- Run a step of the checker: its registers and its I-cache stand in the main copy's place meanwhile. -/
def asChecker (f : State → State) (s : State) : State :=
  match s.pair.chk with
  | none => s
  | some c =>
    let s1 := f { s with core := c, pair := { s.pair with asChk := true, icache := s.pair.chkIcache } }
    { s1 with core := s.core
              pair := { s1.pair with asChk := false, chk := some s1.core, icache := s.pair.icache, chkIcache := s1.pair.icache } }

/-- Instructions that the checker has executed since the last checkpoint, or since Replay mode began. -/
def chkCount (s : State) : Nat := s.pair.issued - s.pair.lag

/-- The checker enters the interrupts recorded for the boundary at which it stands. -/
def chkEntries (fuel : Nat) (s : State) : State :=
  match fuel, s.pair.queue with
  | n + 1, .irq p k :: r =>
    if k = chkCount s then
      chkEntries n (asChecker (fun x => kEnter (16 + p) x.core.pc (markIrq p) x) (modPair (fun q => { q with queue := r }) s))
    else s
  | _, _ => s

/-- The checker executes one recorded instruction. -/
def chkStep (decode : Word → State → KRes) (s : State) : State :=
  let s1 := asChecker (fun x =>
    if x.core.lockup then x
    else
      let x1 := icacheFill x.core.pc.toNat x
      (kIssue (decode (fetchWord x1 x.core.pc.toNat)) x).1) s
  chkEntries s1.pair.queue.length (modPair (fun p => { p with lag := p.lag - 1, chkSkip := false }) s1)

/-- In Loose mode the checker executes up to `n` of the instructions it has to; it never runs ahead (R288). -/
def chkSteps (decode : Word → State → KRes) (n : Nat) (s : State) : State :=
  match n with
  | 0 => s
  | k + 1 => if s.pair.chk.isNone || s.pair.lag = 0 then s else chkSteps decode k (chkStep decode s)

/-- Room in the replay queue for what one instruction or entry records: a WAIT's completion, an interrupt and its vector. -/
def roomFor : Nat := 253

/-- In Loose mode the main copy waits while the queue is full (R288). -/
def chkRoom (decode : Word → State → KRes) (fuel : Nat) (s : State) : State :=
  match fuel with
  | 0 => s
  | k + 1 => if s.pair.queue.length ≤ roomFor then s else chkRoom decode k (chkSteps decode 1 s)

/-- At a checkpoint the main copy has waited for the checker, and the signatures are compared: they agree, or it is a
PAIR_MISMATCH of KIND 2 (R289). -/
def comparePair (decode : Word → State → KRes) (pass : State → State) (s : State) : State :=
  let s1 := chkSteps decode s.pair.lag (chkEntries s.pair.queue.length s)
  if s1.pair.sigMain = s1.pair.sigChk then pass (checkpoint s1) else classSFault 0x21 2 0 0#32 s1

/-- A checkpoint of R289 or R290, at which a request for Tight mode takes effect (R292). -/
def looseCheckpoint (decode : Word → State → KRes) (s : State) : State :=
  comparePair decode (fun x => if rbit x pairCtrl 0 then x else closeLoose x) s

/-- The pair halts; in Loose mode it makes an implicit checkpoint (R301). -/
def haltPair (decode : Word → State → KRes) (s : State) : State :=
  if s.pair.mode = 1 then comparePair decode kHalt s else kHalt s

/-- The checker stands at an enabled breakpoint from which it has not just resumed. -/
def chkAtBp (s : State) : Bool :=
  match s.pair.chk with
  | some c => bpAt s c.pc && !s.pair.chkSkip
  | none => false

/-- The checker runs on: it executes the recorded instructions, and halts at a breakpoint, or where recording stopped. -/
def chkFollow (decode : Word → State → KRes) (fuel : Nat) (s : State) : State :=
  match fuel with
  | 0 => s
  | n + 1 =>
    if s.pair.chk.isNone || s.pair.chkHalted then s
    else if s.pair.lag = 0 then
      if s.pair.ovf then modPair (fun p => { p with chkHalted := true }) s else s
    else if chkAtBp s then modPair (fun p => { p with chkHalted := true }) s
    else chkFollow decode n (chkStep decode s)

end Sys2Proof.Machine
end

