-- ==== Sys2Proof/Machine/KarpolAlu.lean ====
section
/-! DEFINITION. ALU, address-register and multiply-accumulate instructions (Tables 13-10, 13-11, 13-12, R270, R272,
R273): what each does to the copy that executes it. -/

namespace Sys2Proof.Machine

/-- A D register takes the result of an operation, STAT its flags. -/
def kAlu (dd : Fin 16) (f : Word → Word × Word) (s : State) : KRes :=
  let r := f s.core.stat
  .ok (kNext (setStat r.2 (setD dd r.1 s)))

/-- STAT takes the flags of an operation. -/
def kFlags (f : Word → Word × Word) (s : State) : KRes := .ok (kNext (setStat (f s.core.stat).2 s))

/-- A D register takes a value, and no flag changes. -/
def kMove (dd : Fin 16) (v : Word) (s : State) : KRes := .ok (kNext (setD dd v s))

/-- An A register takes a value. -/
def kMoveA (an : Fin 8) (v : Word) (s : State) : KRes := .ok (kNext (setA an v s))

/-! Register format (Table 13-10). -/

def kAdd (dd a b : Fin 16) (s : State) : KRes := kAlu dd (addFlags (dreg s a) (dreg s b) 0) s
def kAddc (dd a b : Fin 16) (s : State) : KRes := kAlu dd (addFlags (dreg s a) (dreg s b) (b2n (stC s.core.stat))) s
def kSub (dd a b : Fin 16) (s : State) : KRes := kAlu dd (subFlags (dreg s a) (dreg s b) 0) s
def kSubc (dd a b : Fin 16) (s : State) : KRes := kAlu dd (subFlags (dreg s a) (dreg s b) (b2n (stC s.core.stat))) s
def kAnd (dd a b : Fin 16) (s : State) : KRes := kAlu dd (logicFlags (dreg s a &&& dreg s b)) s
def kOr (dd a b : Fin 16) (s : State) : KRes := kAlu dd (logicFlags (dreg s a ||| dreg s b)) s
def kXor (dd a b : Fin 16) (s : State) : KRes := kAlu dd (logicFlags (dreg s a ^^^ dreg s b)) s
def kAndn (dd a b : Fin 16) (s : State) : KRes := kAlu dd (logicFlags (dreg s a &&& ~~~(dreg s b))) s
def kCmp (a b : Fin 16) (s : State) : KRes := kFlags (subFlags (dreg s a) (dreg s b) 0) s
def kTst (a b : Fin 16) (s : State) : KRes := kFlags (logicFlags (dreg s a &&& dreg s b)) s
def kMov (dd a : Fin 16) (s : State) : KRes := kMove dd (dreg s a) s
def kNot (dd a : Fin 16) (s : State) : KRes := kAlu dd (logicFlags (~~~(dreg s a))) s
def kNeg (dd a : Fin 16) (s : State) : KRes := kAlu dd (subFlags 0#32 (dreg s a) 0) s
def kMin (dd a b : Fin 16) (s : State) : KRes :=
  kAlu dd (znFlags (if (dreg s a).toInt ≤ (dreg s b).toInt then dreg s a else dreg s b)) s
def kMax (dd a b : Fin 16) (s : State) : KRes :=
  kAlu dd (znFlags (if (dreg s a).toInt ≤ (dreg s b).toInt then dreg s b else dreg s a)) s
def kMinu (dd a b : Fin 16) (s : State) : KRes :=
  kAlu dd (znFlags (if (dreg s a).toNat ≤ (dreg s b).toNat then dreg s a else dreg s b)) s
def kMaxu (dd a b : Fin 16) (s : State) : KRes :=
  kAlu dd (znFlags (if (dreg s a).toNat ≤ (dreg s b).toNat then dreg s b else dreg s a)) s

/-- The count of a shift by a register: bits 4:0. -/
def shCount (s : State) (b : Fin 16) : Nat := (dreg s b).toNat % 32

def kShl (dd a b : Fin 16) (s : State) : KRes := kAlu dd (shlFlags (dreg s a) (shCount s b)) s
def kShr (dd a b : Fin 16) (s : State) : KRes := kAlu dd (shrFlags (dreg s a) (shCount s b)) s
def kSar (dd a b : Fin 16) (s : State) : KRes := kAlu dd (sarFlags (dreg s a) (shCount s b)) s
def kRor (dd a b : Fin 16) (s : State) : KRes := kAlu dd (rorFlags (dreg s a) (shCount s b)) s
def kShli (dd a : Fin 16) (sh : Fin 32) (s : State) : KRes := kAlu dd (shlFlags (dreg s a) sh.val) s
def kShri (dd a : Fin 16) (sh : Fin 32) (s : State) : KRes := kAlu dd (shrFlags (dreg s a) sh.val) s
def kSari (dd a : Fin 16) (sh : Fin 32) (s : State) : KRes := kAlu dd (sarFlags (dreg s a) sh.val) s
def kRori (dd a : Fin 16) (sh : Fin 32) (s : State) : KRes := kAlu dd (rorFlags (dreg s a) sh.val) s

def kMul (dd a b : Fin 16) (s : State) : KRes := kAlu dd (znFlags (dreg s a * dreg s b)) s
def kMulh (dd a b : Fin 16) (s : State) : KRes :=
  kAlu dd (znFlags (highWord ((dreg s a).toInt * (dreg s b).toInt))) s
def kMulhu (dd a b : Fin 16) (s : State) : KRes :=
  kAlu dd (znFlags (w32 ((dreg s a).toNat * (dreg s b).toNat / 2 ^ 32))) s
def kDivu (dd a b : Fin 16) (s : State) : KRes := kAlu dd (divuFlags (dreg s a) (dreg s b)) s
def kDivs (dd a b : Fin 16) (s : State) : KRes := kAlu dd (divsFlags (dreg s a) (dreg s b)) s
def kRemu (dd a b : Fin 16) (s : State) : KRes := kAlu dd (remuFlags (dreg s a) (dreg s b)) s
def kRems (dd a b : Fin 16) (s : State) : KRes := kAlu dd (remsFlags (dreg s a) (dreg s b)) s
def kSextb (dd a : Fin 16) (s : State) : KRes := kAlu dd (znFlags (((dreg s a).setWidth 8).signExtend 32)) s
def kSexth (dd a : Fin 16) (s : State) : KRes := kAlu dd (znFlags (((dreg s a).setWidth 16).signExtend 32)) s
def kZextb (dd a : Fin 16) (s : State) : KRes := kAlu dd (znFlags (dreg s a &&& 0xFF#32)) s
def kZexth (dd a : Fin 16) (s : State) : KRes := kAlu dd (znFlags (dreg s a &&& 0xFFFF#32)) s
def kClz (dd a : Fin 16) (s : State) : KRes := kAlu dd (znFlags (w32 (clz (dreg s a)))) s
def kBswap (dd a : Fin 16) (s : State) : KRes := kAlu dd (znFlags (bswap (dreg s a))) s

/-! Immediate format and address registers (Table 13-11). -/

def kAddi (dd a : Fin 16) (imm : BitVec 16) (s : State) : KRes := kAlu dd (addFlags (dreg s a) (sext16 imm) 0) s
def kAndi (dd a : Fin 16) (imm : BitVec 16) (s : State) : KRes := kAlu dd (logicFlags (dreg s a &&& imm.setWidth 32)) s
def kOri (dd a : Fin 16) (imm : BitVec 16) (s : State) : KRes := kAlu dd (logicFlags (dreg s a ||| imm.setWidth 32)) s
def kXori (dd a : Fin 16) (imm : BitVec 16) (s : State) : KRes := kAlu dd (logicFlags (dreg s a ^^^ imm.setWidth 32)) s
def kCmpi (a : Fin 16) (imm : BitVec 16) (s : State) : KRes := kFlags (subFlags (dreg s a) (sext16 imm) 0) s
def kMovi (dd : Fin 16) (imm : BitVec 16) (s : State) : KRes := kMove dd (sext16 imm) s
def kMovhi (dd : Fin 16) (imm : BitVec 16) (s : State) : KRes :=
  kMove dd (imm ++ (dreg s dd).setWidth 16) s
def kLea (an am : Fin 8) (imm : BitVec 16) (s : State) : KRes := kMoveA an (areg s am + sext16 imm) s
def kMova (an : Fin 8) (dm : Fin 16) (s : State) : KRes := kMoveA an (dreg s dm) s
def kMovd (dm : Fin 16) (am : Fin 8) (s : State) : KRes := kMove dm (areg s am) s
def kAdda (an am : Fin 8) (dm : Fin 16) (s : State) : KRes := kMoveA an (areg s am + dreg s dm) s
def kSuba (an am : Fin 8) (dm : Fin 16) (s : State) : KRes := kMoveA an (areg s am - dreg s dm) s
def kAddas (an am : Fin 8) (dm : Fin 16) (s : State) : KRes := kMoveA an (areg s am + (dreg s dm <<< 2)) s
def kCmpa (an am : Fin 8) (s : State) : KRes := kFlags (subFlags (areg s an) (areg s am) 0) s
def kMovaa (an am : Fin 8) (s : State) : KRes := kMoveA an (areg s am) s
def kLeapc (an : Fin 8) (imm : BitVec 16) (s : State) : KRes := kMoveA an (s.core.pc + sext16 imm) s

/-! MAC group (R273). -/

/-- An accumulator takes a value clamped to 56 bits. -/
def kAcc (ac : Fin 4) (v : Int) (s : State) : KRes :=
  let r := satTo 56 v
  .ok (kNext (setStat (flagSat r.2 s.core.stat) (setAcc ac r.1 s)))

def kMac (ac : Fin 4) (a b : Fin 16) (h1 h2 : Bool) (s : State) : KRes :=
  kAcc ac (acc s ac + macProduct (dreg s a) (dreg s b) h1 h2 s.core.stat) s
def kMsu (ac : Fin 4) (a b : Fin 16) (h1 h2 : Bool) (s : State) : KRes :=
  kAcc ac (acc s ac - macProduct (dreg s a) (dreg s b) h1 h2 s.core.stat) s
def kMpy (ac : Fin 4) (a b : Fin 16) (h1 h2 : Bool) (s : State) : KRes :=
  .ok (kNext (setAcc ac (macProduct (dreg s a) (dreg s b) h1 h2 s.core.stat) s))
def kRdac (dd : Fin 16) (ac : Fin 4) (sh : Fin 32) (s : State) : KRes :=
  let r := satTo 32 (acc s ac / (2 ^ sh.val : Nat))
  .ok (kNext (setStat (flagSat r.2 s.core.stat) (setD dd (BitVec.ofInt 32 r.1) s)))
def kWrac (ac : Fin 4) (a : Fin 16) (sh : Fin 32) (s : State) : KRes :=
  if 24 < sh.val then kUndef s else .ok (kNext (setAcc ac ((dreg s a).toInt * (2 ^ sh.val : Nat)) s))
def kClrac (ac : Fin 4) (s : State) : KRes := .ok (kNext (setAcc ac 0 s))
def kAddac (ac acs : Fin 4) (s : State) : KRes := kAcc ac (acc s ac + acc s acs) s

end Sys2Proof.Machine
end

