-- ==== Sys2Proof/Machine/KarpolFlow.lean ====
section
/-! DEFINITION. Loads and stores, flow, stack, bit and system instructions (Tables 13-11, 13-12, R263–R268, R277–R281): what
each does to the copy that executes it. -/

namespace Sys2Proof.Machine

/-! Loads and stores (R264). -/

def kLdW (dt : Fin 16) (ea : AMode) (met : LoadMet) (s : State) : KRes := kLoadTo ea 4 met (setD dt) s
def kLdH (dt : Fin 16) (ea : AMode) (met : LoadMet) (s : State) : KRes :=
  kLoadTo ea 2 met (fun v => setD dt ((v.setWidth 16).signExtend 32)) s
def kLdHu (dt : Fin 16) (ea : AMode) (met : LoadMet) (s : State) : KRes :=
  kLoadTo ea 2 met (fun v => setD dt (v &&& 0xFFFF#32)) s
def kLdB (dt : Fin 16) (ea : AMode) (met : LoadMet) (s : State) : KRes :=
  kLoadTo ea 1 met (fun v => setD dt ((v.setWidth 8).signExtend 32)) s
def kLdBu (dt : Fin 16) (ea : AMode) (met : LoadMet) (s : State) : KRes :=
  kLoadTo ea 1 met (fun v => setD dt (v &&& 0xFF#32)) s
def kStW (dt : Fin 16) (ea : AMode) (s : State) : KRes := kStoreFrom ea 4 (dreg s dt) s
def kStH (dt : Fin 16) (ea : AMode) (s : State) : KRes := kStoreFrom ea 2 (dreg s dt) s
def kStB (dt : Fin 16) (ea : AMode) (s : State) : KRes := kStoreFrom ea 1 (dreg s dt) s
def kLda (ar : Fin 8) (ea : AMode) (met : LoadMet) (s : State) : KRes := kLoadTo ea 4 met (setA ar) s
def kSta (ar : Fin 8) (ea : AMode) (s : State) : KRes := kStoreFrom ea 4 (areg s ar) s

/-! Flow. -/

/-- The target of a branch: PC + 4 × sext(DISP). -/
def branchTarget {n : Nat} (d : BitVec n) (s : State) : Word := s.core.pc + (d.signExtend 32 <<< 2)

def kBcc (cond : Fin 16) (disp : BitVec 22) (s : State) : KRes :=
  if cond.val = 15 then kUndef s
  else .ok (if condHolds cond.val s.core.stat then setPc (branchTarget disp s) s else kNext s)
def kBal (disp : BitVec 26) (s : State) : KRes := .ok (setPc (branchTarget disp s) (setLk (nextPc s) s))
def kCall (disp : BitVec 26) (s : State) : KRes := kPush (nextPc s) (fun s1 => .ok (setPc (branchTarget disp s) s1)) s
def kJmp (an : Fin 8) (s : State) : KRes := kJump (areg s an) s
def kCallr (an : Fin 8) (s : State) : KRes := kPush (nextPc s) (kJump (areg s an)) s
def kBalr (an : Fin 8) (s : State) : KRes := kJump (areg s an) (setLk (nextPc s) s)
def kJlk (s : State) : KRes := kJump s.core.lk s

/-! PUSH and POP: register 0–15 D, 16–23 A, 24 LK, 25 STAT. -/

/-- The value of a register by its REG number; none for an undefined one. -/
def stackReg (r : Fin 32) (s : State) : Option Word :=
  if r.val < 16 then some (tget 0#32 s.core.d r.val)
  else if r.val < 24 then some (tget 0#32 s.core.a (r.val - 16))
  else if r.val = 24 then some s.core.lk
  else if r.val = 25 then some s.core.stat
  else none

/-- Load a register by its REG number; STAT as MTC STAT does. -/
def setStackReg (r : Fin 32) (v : Word) (s : State) : State :=
  if r.val < 16 then outReg r.val v (modCore (fun c => { c with d := tset 0#32 c.d r.val v }) s)
  else if r.val < 24 then outReg r.val v (modCore (fun c => { c with a := tset 0#32 c.a (r.val - 16) v }) s)
  else if r.val = 24 then setLk v s
  else loadStat v s

def kPushI (r : Fin 32) (s : State) : KRes :=
  match stackReg r s with
  | none => kUndef s
  | some v => kPush v (fun s1 => .ok (kNext s1)) s
def kPopI (r : Fin 32) (s : State) : KRes :=
  match stackReg r s with
  | none => kUndef s
  | some _ => kPop (fun v s1 => .ok (kNext (setStackReg r v s1))) s

/-! Test-bit branches and bit instructions (R268). -/

/-- Branch on a test of a bit; `w` is what the bit becomes where the branch is taken. -/
def kTestBit (want : Bool) (w : Option Bool) (disp : BitVec 14) (b : BitVec 12) (s : State) : KRes :=
  let (v, s1) := takeBit b.toNat s
  if v = want then
    .ok (setPc (branchTarget disp s) (match w with | some x => putBitAt b.toNat x s1 | none => s1))
  else .ok (kNext s1)

def kTbs (disp : BitVec 14) (b : BitVec 12) (s : State) : KRes := kTestBit true none disp b s
def kTbc (disp : BitVec 14) (b : BitVec 12) (s : State) : KRes := kTestBit false none disp b s
def kTbsc (disp : BitVec 14) (b : BitVec 12) (s : State) : KRes := kTestBit true (some false) disp b s
def kTbcs (disp : BitVec 14) (b : BitVec 12) (s : State) : KRes := kTestBit false (some true) disp b s

/-- A bit write. -/
def kBitPut (b : BitRef) (v : Bool) (s : State) : KRes := .ok (kNext (putBitAt (bitAddr b s) v s))

/-- C becomes a function of itself and a bit. -/
def kBitC (b : BitRef) (f : Bool → Bool → Bool) (s : State) : KRes :=
  let (v, s1) := takeBit (bitAddr b s) s
  .ok (kNext (setStat (wsetBit s1.core.stat 0 (f (stC s1.core.stat) v)) s1))

def kBset (b : BitRef) (s : State) : KRes := kBitPut b true s
def kBclr (b : BitRef) (s : State) : KRes := kBitPut b false s
def kBflip (b : BitRef) (s : State) : KRes :=
  let (v, s1) := takeBit (bitAddr b s) s
  .ok (kNext (putBitAt (bitAddr b s) (!v) s1))
def kBst (b : BitRef) (s : State) : KRes := kBitPut b (stC s.core.stat) s
def kBld (b : BitRef) (s : State) : KRes := kBitC b (fun _ v => v) s
def kBand (b : BitRef) (s : State) : KRes := kBitC b (fun c v => c && v) s
def kBor (b : BitRef) (s : State) : KRes := kBitC b (fun c v => c || v) s
def kBxor (b : BitRef) (s : State) : KRes := kBitC b (fun c v => c != v) s

/-- C becomes a value. -/
def kSetC (v : Bool) (s : State) : KRes := .ok (kNext (setStat (wsetBit s.core.stat 0 v) s))

def kCset (s : State) : KRes := kSetC true s
def kCclr (s : State) : KRes := kSetC false s
def kCflip (s : State) : KRes := kSetC (!stC s.core.stat) s

/-! System instructions. -/

def kNop (s : State) : KRes := .ok (kNext s)

/-- WAIT completes: NAP ends, and an interrupt that R277 permits is taken with the instruction after WAIT as its return
address (R29, R278). -/
def waitDone (s : State) : State :=
  let irq := irqDue (modCore (fun c => { c with waiting := true }) s)
  let s1 := kNext (modCore (fun c => { c with waiting := false }) (record .wait (napExit s)))
  match irq with
  | some p => kInterrupt p (s.pair.issued + 1) s1
  | none => s1

def kWait (s0 : State) : KRes :=
  let s := outWait s0
  if s.pair.asChk then
    .ok (kNext (match s.pair.queue with
      | .wait :: r => modPair (fun p => { p with queue := r }) s
      | _ => s))
  else if sentinelPending s then .ok (waitDone s)
  else .ok (napSettle (modCore (fun c => { c with waiting := true }) s))

/-- BRK: BREAK, or a debug halt: of the checker in Replay mode, where the main copy goes on, of the pair in Break mode, where
the checker comes to the same boundary (R274, R301, R302). -/
def kBrk (s : State) : KRes :=
  if s.pair.mode = 3 then
    .ok (kNext (if s.pair.asChk then modPair (fun p => { p with chkHalted := true }) s else s))
  else if s.pair.brk then (if s.pair.asChk then .ok (kNext s) else .halt (kNext s))
  else .exc 5 0 s.core.pc
def kTrap (imm : Byte) (s : State) : KRes := .exc 4 imm.toNat s.core.pc

def kReti (s : State) : KRes :=
  if stHandler s.core.stat then
    kPop (fun v s1 => if v.toNat % 4 ≠ 0 then .exc 2 1 v
      else kPop (fun st s2 => .ok (setPc v (setStat (statMask st) s2))) s1) s
  else kUndef s
def kRet (s : State) : KRes := kPop kJump s

def kEi (s : State) : KRes :=
  .ok (kNext (modCore (fun c => { c with shadow := true }) (setStat (wsetBit s.core.stat 7 true) s)))
def kDi (s : State) : KRes := .ok (kNext (setStat (wsetBit s.core.stat 7 false) s))

/-- CHKPT: a checkpoint in Loose mode; in Tight mode it only opens a Loose interval that has been requested; else no effect
(R289, R292, R299). -/
def kChkpt (s : State) : KRes :=
  let s1 := kNext (outChkpt s)
  if s.pair.asChk || solo s then .ok s1
  else if s.pair.mode = 1 then .chkpt s1
  else if s.pair.mode = 0 ∧ rbit s pairCtrl 0 = true then .opened (openLoose s1)
  else .ok s1

/-! Control registers (Table 13-13). -/

/-- The value of a control register; none for an unlisted one. -/
def crRead (cr : Nat) (c : Core) : Option Word :=
  match cr with
  | 0 => some c.stat
  | 1 => some c.vbase
  | 2 => some c.stklim
  | 3 => some c.ecause
  | 4 => some c.eaddr
  | 5 => some (w32 c.cycle)
  | 6 => some c.cycleh
  | 7 => some c.cctl
  | _ => none

/-- A read of CYCLE latches CYCLEH. -/
def crReadEffect (cr : Nat) (c : Core) : Core := if cr = 5 then { c with cycleh := w32 (c.cycle / 2 ^ 32) } else c

/-- CCTL: a cache whose bit is cleared or set is left empty. The D-cache follows the main copy. -/
def cctlWrite (v : Word) (s : State) : State :=
  let s1 := modCore (fun c => { c with cctl := v &&& 3#32 }) s
  modPair (fun p => { p with
    icache := if wbit v 0 && wbit s.core.cctl 0 then p.icache else []
    dcache := if wbit v 1 && wbit s.core.cctl 1 || p.asChk then p.dcache else [] }) s1

/-- A write of a control register; read-only ones ignore it. -/
def crWrite (cr : Nat) (v : Word) (s : State) : State :=
  match cr with
  | 0 => loadStat v s
  | 1 => outReg 33 (v &&& 0xFFFFFF80#32) (modCore (fun c => { c with vbase := v &&& 0xFFFFFF80#32 }) s)
  | 2 => outReg 34 (v &&& 0xFFFFFFFC#32) (modCore (fun c => { c with stklim := v &&& 0xFFFFFFFC#32 }) s)
  | 7 => outReg 39 (v &&& 3#32) (cctlWrite v s)
  | _ => s

/-- MFC. The checker takes CYCLE, and what a read of it latches, as the main copy read them (DESIGN CHOICE, entry 93). -/
def kMfc (dd : Fin 16) (cr : Byte) (s : State) : KRes :=
  match crRead cr.toNat s.core with
  | none => kUndef s
  | some v =>
    if cr = 5#8 then
      let (v, s1) := kTake v id s
      let (h, s2) := kTake (w32 (s.core.cycle / 2 ^ 32)) id s1
      .ok (kNext (setD dd v (outReg 38 h (modCore (fun c => { c with cycleh := h }) s2))))
    else .ok (kNext (setD dd v s))
def kMtc (cr : Byte) (a : Fin 16) (s : State) : KRes :=
  match crRead cr.toNat s.core with
  | none => kUndef s
  | some _ => .ok (kNext (crWrite cr.toNat (dreg s a) s))

def kIinv (s : State) : KRes := .ok (kNext (modPair (fun p => { p with icache := [] }) s))
def kIinvl (an : Fin 8) (s : State) : KRes :=
  .ok (kNext (modPair (fun p => { p with icache := tdel p.icache ((areg s an).toNat / 32) }) s))

end Sys2Proof.Machine
end

