-- ==== Sys2Proof/Machine/KarpolDecode.lean ====
section
/-! DEFINITION. The encoding of Karpol instructions (R269, Tables 13-7 to 13-12), and the instruction a word names. -/

namespace Sys2Proof.Machine

/-! Fields. -/

def fD (w : Word) (lo : Nat) : Fin 16 := Fin.ofNat 16 (wfld w lo 4)
def fA (w : Word) (lo : Nat) : Fin 8 := Fin.ofNat 8 (wfld w lo 3)
def f5 (w : Word) (lo : Nat) : Fin 32 := Fin.ofNat 32 (wfld w lo 5)
def f2 (w : Word) (lo : Nat) : Fin 4 := Fin.ofNat 4 (wfld w lo 2)
def fImm (w : Word) : BitVec 16 := BitVec.ofNat 16 w.toNat
def fBit (w : Word) : BitVec 12 := BitVec.ofNat 12 w.toNat

/-- An instruction whose zero fields are zero. -/
def zeroed (zero : Bool) (i : Instr) : Option Instr := if zero then some i else none

/-- Are bits [lo + len - 1 : lo] 0? -/
def fZero (w : Word) (lo len : Nat) : Bool := wfld w lo len == 0

/-! The groups of Table 13-7. -/

def decodeAlu (w : Word) : Option Instr :=
  let dd := fD w 22
  let a := fD w 18
  let b := fD w 14
  let sh := f5 w 9
  let z := fZero w 6 3
  let r3 := fun (c : Fin 16 → Fin 16 → Fin 16 → Instr) => zeroed (z && fZero w 9 5) (c dd a b)
  let r2 := fun (c : Fin 16 → Fin 16 → Instr) => zeroed (z && fZero w 9 5 && fZero w 14 4) (c dd a)
  let cmp := fun (c : Fin 16 → Fin 16 → Instr) => zeroed (z && fZero w 9 5 && fZero w 22 4) (c a b)
  let shi := fun (c : Fin 16 → Fin 16 → Fin 32 → Instr) => zeroed (z && fZero w 14 4) (c dd a sh)
  match wfld w 0 6 with
  | 0x01 => r3 .kAdd
  | 0x02 => r3 .kAddc
  | 0x03 => r3 .kSub
  | 0x04 => r3 .kSubc
  | 0x05 => r3 .kAnd
  | 0x06 => r3 .kOr
  | 0x07 => r3 .kXor
  | 0x08 => r3 .kAndn
  | 0x09 => cmp .kCmp
  | 0x0A => cmp .kTst
  | 0x0B => r2 .kMov
  | 0x0C => r2 .kNot
  | 0x0D => r2 .kNeg
  | 0x0E => r3 .kMin
  | 0x0F => r3 .kMax
  | 0x10 => r3 .kShl
  | 0x11 => r3 .kShr
  | 0x12 => r3 .kSar
  | 0x13 => r3 .kRor
  | 0x14 => shi .kShli
  | 0x15 => shi .kShri
  | 0x16 => shi .kSari
  | 0x17 => shi .kRori
  | 0x18 => r3 .kMul
  | 0x19 => r3 .kMulh
  | 0x1A => r3 .kMulhu
  | 0x1B => r3 .kDivu
  | 0x1C => r3 .kDivs
  | 0x1D => r3 .kRemu
  | 0x1E => r3 .kRems
  | 0x1F => r2 .kSextb
  | 0x20 => r2 .kSexth
  | 0x21 => r2 .kZextb
  | 0x22 => r2 .kZexth
  | 0x23 => r2 .kClz
  | 0x24 => r2 .kBswap
  | 0x25 => r3 .kMinu
  | 0x26 => r3 .kMaxu
  | _ => none

def decodeImm (w : Word) : Option Instr :=
  let dd := fD w 22
  let a := fD w 18
  let z := fZero w 16 2
  match wfld w 26 6 with
  | 0x01 => zeroed z (.kAddi dd a (fImm w))
  | 0x02 => zeroed z (.kAndi dd a (fImm w))
  | 0x03 => zeroed z (.kOri dd a (fImm w))
  | 0x04 => zeroed z (.kXori dd a (fImm w))
  | 0x05 => zeroed (z && fZero w 22 4) (.kCmpi a (fImm w))
  | 0x06 => zeroed (z && fZero w 18 4) (.kMovi dd (fImm w))
  | 0x07 => zeroed (z && fZero w 18 4) (.kMovhi dd (fImm w))
  | _ => none

def decodeAddr (w : Word) : Option Instr :=
  let an := fA w 22
  let am := fA w 19
  let dm := fD w 15
  let z := fZero w 25 1 && fZero w 4 11
  match wfld w 0 4 with
  | 0 => zeroed (z && fZero w 19 3) (.kMova an dm)
  | 1 => zeroed (z && fZero w 22 3) (.kMovd dm am)
  | 2 => zeroed z (.kAdda an am dm)
  | 3 => zeroed z (.kSuba an am dm)
  | 4 => zeroed (z && fZero w 15 4) (.kCmpa an am)
  | 5 => zeroed (z && fZero w 15 4) (.kMovaa an am)
  | 6 => zeroed z (.kAddas an am dm)
  | _ => none

/-- The addressing mode of a load or store (Table 13-4). -/
def decodeMode (w : Word) : AMode :=
  let an := fA w 19
  match wfld w 16 3 with
  | 0 => .disp an (fImm w)
  | 1 => if fZero w 0 16 then .postInc an else .reserved
  | 2 => if fZero w 0 16 then .preDec an else .reserved
  | 3 => if fZero w 0 10 then .index an (fD w 12) (f2 w 10) else .reserved
  | 4 => .postDisp an (fImm w)
  | 5 => if fZero w 19 3 then .pcRel (fImm w) else .reserved
  | _ => .reserved

def decodeMem (w : Word) : Option Instr :=
  let ea := decodeMode w
  let dt := fD w 22
  let ok := ea != .reserved
  match wfld w 26 6 with
  | 0x10 => zeroed ok (.kLdW dt ea {})
  | 0x11 => zeroed ok (.kLdH dt ea {})
  | 0x12 => zeroed ok (.kLdHu dt ea {})
  | 0x13 => zeroed ok (.kLdB dt ea {})
  | 0x14 => zeroed ok (.kLdBu dt ea {})
  | 0x15 => zeroed ok (.kStW dt ea)
  | 0x16 => zeroed ok (.kStH dt ea)
  | 0x17 => zeroed ok (.kStB dt ea)
  | 0x18 => zeroed (ok && fZero w 25 1) (.kLda (fA w 22) ea {})
  | 0x19 => zeroed (ok && fZero w 25 1) (.kSta (fA w 22) ea)
  | _ => none

def decodeJump (w : Word) : Option Instr :=
  let an := fA w 19
  let z := fZero w 0 19
  match wfld w 22 4 with
  | 0 => zeroed z (.kJmp an)
  | 1 => zeroed z (.kCallr an)
  | 2 => zeroed z (.kBalr an)
  | 3 => zeroed (z && fZero w 19 3) .kJlk
  | _ => none

def decodeBit (w : Word) : Option Instr :=
  let ind := wbit w 21
  let ref : BitRef := if ind then .indexed (fD w 17) (fBit w) else .direct (fBit w)
  let z := fZero w 12 5 && (ind || fZero w 17 4)
  let none3 := fZero w 0 22
  match wfld w 22 4 with
  | 0 => zeroed z (.kBset ref)
  | 1 => zeroed z (.kBclr ref)
  | 2 => zeroed z (.kBflip ref)
  | 3 => zeroed z (.kBld ref)
  | 4 => zeroed z (.kBst ref)
  | 5 => zeroed z (.kBand ref)
  | 6 => zeroed z (.kBor ref)
  | 7 => zeroed z (.kBxor ref)
  | 8 => zeroed none3 .kCset
  | 9 => zeroed none3 .kCclr
  | 10 => zeroed none3 .kCflip
  | _ => none

def decodeMac (w : Word) : Option Instr :=
  let ac := f2 w 20
  let a := fD w 16
  let b := fD w 12
  let sh := f5 w 5
  let mac := fun (c : Fin 4 → Fin 16 → Fin 16 → Bool → Bool → Instr) => zeroed (fZero w 0 10) (c ac a b (wbit w 11) (wbit w 10))
  match wfld w 22 4 with
  | 0 => mac .kMac
  | 1 => mac .kMsu
  | 2 => mac .kMpy
  | 3 => zeroed (fZero w 10 6 && fZero w 0 5) (.kRdac a ac sh)
  | 4 => zeroed (fZero w 10 6 && fZero w 0 5 && decide (sh.val ≤ 24)) (.kWrac ac a sh)
  | 5 => zeroed (fZero w 0 20) (.kClrac ac)
  | 6 => zeroed (fZero w 5 15 && fZero w 0 3) (.kAddac ac (f2 w 3))
  | _ => none

def decodeStack (w : Word) : Option Instr :=
  let r := f5 w 17
  let z := fZero w 0 17 && decide (r.val ≤ 25)
  match wfld w 22 4 with
  | 0 => zeroed z (.kPush r)
  | 1 => zeroed z (.kPop r)
  | _ => none

def decodeSys (w : Word) : Option Instr :=
  let plain := fZero w 0 22
  let cr : Byte := BitVec.ofNat 8 w.toNat
  let crOk := fZero w 20 2 && fZero w 8 8 && decide (cr.toNat ≤ 7)
  match wfld w 22 4 with
  | 0 => zeroed plain .kNop
  | 1 => zeroed plain .kWait
  | 2 => zeroed plain .kBrk
  | 3 => zeroed (fZero w 8 14) (.kTrap cr)
  | 4 => zeroed plain .kReti
  | 5 => zeroed plain .kRet
  | 6 => zeroed plain .kEi
  | 7 => zeroed plain .kDi
  | 8 => zeroed plain .kChkpt
  | 9 => zeroed crOk (.kMfc (fD w 16) cr)
  | 10 => zeroed crOk (.kMtc cr (fD w 16))
  | 11 => zeroed plain .kIinv
  | 12 => zeroed (fZero w 0 19) (.kIinvl (fA w 19))
  | _ => none

/-- The instruction a word names; none for an undefined word, which raises UNDEF (R269). -/
def decodeWord (w : Word) : Option Instr :=
  match wfld w 26 6 with
  | 0x00 => decodeAlu w
  | 0x08 => zeroed (fZero w 25 1 && fZero w 16 3) (.kLea (fA w 22) (fA w 19) (fImm w))
  | 0x09 => decodeAddr w
  | 0x0A => zeroed (fZero w 25 1 && fZero w 16 6) (.kLeapc (fA w 22) (fImm w))
  | 0x20 => zeroed (wfld w 22 4 != 15) (.kBcc (fD w 22) (BitVec.ofNat 22 w.toNat))
  | 0x21 => some (.kBal (BitVec.ofNat 26 w.toNat))
  | 0x22 => some (.kCall (BitVec.ofNat 26 w.toNat))
  | 0x23 => decodeJump w
  | 0x24 => some (.kTbs (BitVec.ofNat 14 (wfld w 12 14)) (fBit w))
  | 0x25 => some (.kTbc (BitVec.ofNat 14 (wfld w 12 14)) (fBit w))
  | 0x26 => some (.kTbsc (BitVec.ofNat 14 (wfld w 12 14)) (fBit w))
  | 0x27 => some (.kTbcs (BitVec.ofNat 14 (wfld w 12 14)) (fBit w))
  | 0x28 => decodeMac w
  | 0x2A => decodeBit w
  | 0x30 => decodeStack w
  | 0x3E => decodeSys w
  | m => if inRange m 1 7 then decodeImm w else if inRange m 0x10 0x19 then decodeMem w else none

/-! The encoder. -/

/-- A major opcode. -/
def encMajor (m : Nat) (rest : Nat) : Option Word := some (w32 (m * 2 ^ 26 + rest))

/-- ALU, register format. -/
def encAlu (funct : Nat) (dd a b : Fin 16) (sh : Nat) : Option Word :=
  encMajor 0 (dd.val * 2 ^ 22 + a.val * 2 ^ 18 + b.val * 2 ^ 14 + sh * 2 ^ 9 + funct)

/-- ALU, immediate format. -/
def encImm (m : Nat) (dd a : Fin 16) (imm : BitVec 16) : Option Word :=
  encMajor m (dd.val * 2 ^ 22 + a.val * 2 ^ 18 + imm.toNat)

/-- Address registers. -/
def encAddr (sub : Nat) (an am : Fin 8) (dm : Fin 16) : Option Word :=
  encMajor 0x09 (an.val * 2 ^ 22 + am.val * 2 ^ 19 + dm.val * 2 ^ 15 + sub)

/-- Fields An, MODE and DISP of an addressing mode. -/
def encMode (m : AMode) : Nat :=
  match m with
  | .disp an d => an.val * 2 ^ 19 + d.toNat
  | .postInc an => an.val * 2 ^ 19 + 1 * 2 ^ 16
  | .preDec an => an.val * 2 ^ 19 + 2 * 2 ^ 16
  | .index an dm sh => an.val * 2 ^ 19 + 3 * 2 ^ 16 + dm.val * 2 ^ 12 + sh.val * 2 ^ 10
  | .postDisp an d => an.val * 2 ^ 19 + 4 * 2 ^ 16 + d.toNat
  | .pcRel d => 5 * 2 ^ 16 + d.toNat
  | .reserved => 6 * 2 ^ 16

/-- Loads and stores. -/
def encMem (m t : Nat) (ea : AMode) : Option Word := encMajor m (t * 2 ^ 22 + encMode ea)

/-- Bit instructions. -/
def encBit (sub : Nat) (b : BitRef) : Option Word :=
  match b with
  | .direct n => encMajor 0x2A (sub * 2 ^ 22 + n.toNat)
  | .indexed dm n => encMajor 0x2A (sub * 2 ^ 22 + 2 ^ 21 + dm.val * 2 ^ 17 + n.toNat)

/-- Test-bit branches. -/
def encTest (m : Nat) (d : BitVec 14) (b : BitVec 12) : Option Word := encMajor m (d.toNat * 2 ^ 12 + b.toNat)

/-- MAC group. -/
def encMac (sub : Nat) (ac : Fin 4) (a b : Fin 16) (low : Nat) : Option Word :=
  encMajor 0x28 (sub * 2 ^ 22 + ac.val * 2 ^ 20 + a.val * 2 ^ 16 + b.val * 2 ^ 12 + low)

/-- Fields H1 and H2. -/
def encHalves (h1 h2 : Bool) : Nat := b2n h1 * 2 ^ 11 + b2n h2 * 2 ^ 10

/-- System group. -/
def encSys (sub low : Nat) : Option Word := encMajor 0x3E (sub * 2 ^ 22 + low)

/-- The word of a Karpol instruction; none for any other command. -/
def encodeWord (i : Instr) : Option Word :=
  match i with
  | .kAdd dd a b => encAlu 0x01 dd a b 0
  | .kAddc dd a b => encAlu 0x02 dd a b 0
  | .kSub dd a b => encAlu 0x03 dd a b 0
  | .kSubc dd a b => encAlu 0x04 dd a b 0
  | .kAnd dd a b => encAlu 0x05 dd a b 0
  | .kOr dd a b => encAlu 0x06 dd a b 0
  | .kXor dd a b => encAlu 0x07 dd a b 0
  | .kAndn dd a b => encAlu 0x08 dd a b 0
  | .kCmp a b => encAlu 0x09 0 a b 0
  | .kTst a b => encAlu 0x0A 0 a b 0
  | .kMov dd a => encAlu 0x0B dd a 0 0
  | .kNot dd a => encAlu 0x0C dd a 0 0
  | .kNeg dd a => encAlu 0x0D dd a 0 0
  | .kMin dd a b => encAlu 0x0E dd a b 0
  | .kMax dd a b => encAlu 0x0F dd a b 0
  | .kShl dd a b => encAlu 0x10 dd a b 0
  | .kShr dd a b => encAlu 0x11 dd a b 0
  | .kSar dd a b => encAlu 0x12 dd a b 0
  | .kRor dd a b => encAlu 0x13 dd a b 0
  | .kShli dd a sh => encAlu 0x14 dd a 0 sh.val
  | .kShri dd a sh => encAlu 0x15 dd a 0 sh.val
  | .kSari dd a sh => encAlu 0x16 dd a 0 sh.val
  | .kRori dd a sh => encAlu 0x17 dd a 0 sh.val
  | .kMul dd a b => encAlu 0x18 dd a b 0
  | .kMulh dd a b => encAlu 0x19 dd a b 0
  | .kMulhu dd a b => encAlu 0x1A dd a b 0
  | .kDivu dd a b => encAlu 0x1B dd a b 0
  | .kDivs dd a b => encAlu 0x1C dd a b 0
  | .kRemu dd a b => encAlu 0x1D dd a b 0
  | .kRems dd a b => encAlu 0x1E dd a b 0
  | .kSextb dd a => encAlu 0x1F dd a 0 0
  | .kSexth dd a => encAlu 0x20 dd a 0 0
  | .kZextb dd a => encAlu 0x21 dd a 0 0
  | .kZexth dd a => encAlu 0x22 dd a 0 0
  | .kClz dd a => encAlu 0x23 dd a 0 0
  | .kBswap dd a => encAlu 0x24 dd a 0 0
  | .kMinu dd a b => encAlu 0x25 dd a b 0
  | .kMaxu dd a b => encAlu 0x26 dd a b 0
  | .kAddi dd a imm => encImm 0x01 dd a imm
  | .kAndi dd a imm => encImm 0x02 dd a imm
  | .kOri dd a imm => encImm 0x03 dd a imm
  | .kXori dd a imm => encImm 0x04 dd a imm
  | .kCmpi a imm => encImm 0x05 0 a imm
  | .kMovi dd imm => encImm 0x06 dd 0 imm
  | .kMovhi dd imm => encImm 0x07 dd 0 imm
  | .kLea an am imm => encMajor 0x08 (an.val * 2 ^ 22 + am.val * 2 ^ 19 + imm.toNat)
  | .kMova an dm => encAddr 0 an 0 dm
  | .kMovd dm am => encAddr 1 0 am dm
  | .kAdda an am dm => encAddr 2 an am dm
  | .kSuba an am dm => encAddr 3 an am dm
  | .kCmpa an am => encAddr 4 an am 0
  | .kMovaa an am => encAddr 5 an am 0
  | .kAddas an am dm => encAddr 6 an am dm
  | .kLeapc an imm => encMajor 0x0A (an.val * 2 ^ 22 + imm.toNat)
  | .kLdW dt ea _ => encMem 0x10 dt.val ea
  | .kLdH dt ea _ => encMem 0x11 dt.val ea
  | .kLdHu dt ea _ => encMem 0x12 dt.val ea
  | .kLdB dt ea _ => encMem 0x13 dt.val ea
  | .kLdBu dt ea _ => encMem 0x14 dt.val ea
  | .kStW dt ea => encMem 0x15 dt.val ea
  | .kStH dt ea => encMem 0x16 dt.val ea
  | .kStB dt ea => encMem 0x17 dt.val ea
  | .kLda ar ea _ => encMem 0x18 ar.val ea
  | .kSta ar ea => encMem 0x19 ar.val ea
  | .kBcc cond disp => encMajor 0x20 (cond.val * 2 ^ 22 + disp.toNat)
  | .kBal disp => encMajor 0x21 disp.toNat
  | .kCall disp => encMajor 0x22 disp.toNat
  | .kJmp an => encMajor 0x23 (0 * 2 ^ 22 + an.val * 2 ^ 19)
  | .kCallr an => encMajor 0x23 (1 * 2 ^ 22 + an.val * 2 ^ 19)
  | .kBalr an => encMajor 0x23 (2 * 2 ^ 22 + an.val * 2 ^ 19)
  | .kJlk => encMajor 0x23 (3 * 2 ^ 22)
  | .kPush r => encMajor 0x30 (r.val * 2 ^ 17)
  | .kPop r => encMajor 0x30 (2 ^ 22 + r.val * 2 ^ 17)
  | .kTbs disp b => encTest 0x24 disp b
  | .kTbc disp b => encTest 0x25 disp b
  | .kTbsc disp b => encTest 0x26 disp b
  | .kTbcs disp b => encTest 0x27 disp b
  | .kBset b => encBit 0 b
  | .kBclr b => encBit 1 b
  | .kBflip b => encBit 2 b
  | .kBld b => encBit 3 b
  | .kBst b => encBit 4 b
  | .kBand b => encBit 5 b
  | .kBor b => encBit 6 b
  | .kBxor b => encBit 7 b
  | .kCset => encMajor 0x2A (8 * 2 ^ 22)
  | .kCclr => encMajor 0x2A (9 * 2 ^ 22)
  | .kCflip => encMajor 0x2A (10 * 2 ^ 22)
  | .kMac ac a b h1 h2 => encMac 0 ac a b (encHalves h1 h2)
  | .kMsu ac a b h1 h2 => encMac 1 ac a b (encHalves h1 h2)
  | .kMpy ac a b h1 h2 => encMac 2 ac a b (encHalves h1 h2)
  | .kRdac dd ac sh => encMac 3 ac dd 0 (sh.val * 2 ^ 5)
  | .kWrac ac a sh => encMac 4 ac a 0 (sh.val * 2 ^ 5)
  | .kClrac ac => encMac 5 ac 0 0 0
  | .kAddac ac acs => encMac 6 ac 0 0 (acs.val * 2 ^ 3)
  | .kNop => encSys 0 0
  | .kWait => encSys 1 0
  | .kBrk => encSys 2 0
  | .kTrap imm => encSys 3 imm.toNat
  | .kReti => encSys 4 0
  | .kRet => encSys 5 0
  | .kEi => encSys 6 0
  | .kDi => encSys 7 0
  | .kChkpt => encSys 8 0
  | .kMfc dd cr => encSys 9 (dd.val * 2 ^ 16 + cr.toNat)
  | .kMtc cr a => encSys 10 (a.val * 2 ^ 16 + cr.toNat)
  | .kIinv => encSys 11 0
  | .kIinvl an => encSys 12 (an.val * 2 ^ 19)
  | _ => none

end Sys2Proof.Machine
end

