-- ==== Sys2Proof/Machine/KarpolRun.lean ====
section
/-! DEFINITION. A Karpol command: the main copy executes the instruction it names, if the pair is at a boundary where it may;
then the checker follows in Replay mode. One meaning for each instruction. -/

namespace Sys2Proof.Machine

/-- The effect of a Karpol instruction. -/
def kEffect (i : Instr) : State → KRes :=
  match i with
  | .kAdd dd a b => kAdd dd a b
  | .kAddc dd a b => kAddc dd a b
  | .kSub dd a b => kSub dd a b
  | .kSubc dd a b => kSubc dd a b
  | .kAnd dd a b => kAnd dd a b
  | .kOr dd a b => kOr dd a b
  | .kXor dd a b => kXor dd a b
  | .kAndn dd a b => kAndn dd a b
  | .kCmp a b => kCmp a b
  | .kTst a b => kTst a b
  | .kMov dd a => kMov dd a
  | .kNot dd a => kNot dd a
  | .kNeg dd a => kNeg dd a
  | .kMin dd a b => kMin dd a b
  | .kMax dd a b => kMax dd a b
  | .kShl dd a b => kShl dd a b
  | .kShr dd a b => kShr dd a b
  | .kSar dd a b => kSar dd a b
  | .kRor dd a b => kRor dd a b
  | .kShli dd a sh => kShli dd a sh
  | .kShri dd a sh => kShri dd a sh
  | .kSari dd a sh => kSari dd a sh
  | .kRori dd a sh => kRori dd a sh
  | .kMul dd a b => kMul dd a b
  | .kMulh dd a b => kMulh dd a b
  | .kMulhu dd a b => kMulhu dd a b
  | .kDivu dd a b => kDivu dd a b
  | .kDivs dd a b => kDivs dd a b
  | .kRemu dd a b => kRemu dd a b
  | .kRems dd a b => kRems dd a b
  | .kSextb dd a => kSextb dd a
  | .kSexth dd a => kSexth dd a
  | .kZextb dd a => kZextb dd a
  | .kZexth dd a => kZexth dd a
  | .kClz dd a => kClz dd a
  | .kBswap dd a => kBswap dd a
  | .kMinu dd a b => kMinu dd a b
  | .kMaxu dd a b => kMaxu dd a b
  | .kAddi dd a imm => kAddi dd a imm
  | .kAndi dd a imm => kAndi dd a imm
  | .kOri dd a imm => kOri dd a imm
  | .kXori dd a imm => kXori dd a imm
  | .kCmpi a imm => kCmpi a imm
  | .kMovi dd imm => kMovi dd imm
  | .kMovhi dd imm => kMovhi dd imm
  | .kLea an am imm => kLea an am imm
  | .kMova an dm => kMova an dm
  | .kMovd dm am => kMovd dm am
  | .kAdda an am dm => kAdda an am dm
  | .kSuba an am dm => kSuba an am dm
  | .kCmpa an am => kCmpa an am
  | .kMovaa an am => kMovaa an am
  | .kAddas an am dm => kAddas an am dm
  | .kLeapc an imm => kLeapc an imm
  | .kLdW dt ea met => kLdW dt ea met
  | .kLdH dt ea met => kLdH dt ea met
  | .kLdHu dt ea met => kLdHu dt ea met
  | .kLdB dt ea met => kLdB dt ea met
  | .kLdBu dt ea met => kLdBu dt ea met
  | .kStW dt ea => kStW dt ea
  | .kStH dt ea => kStH dt ea
  | .kStB dt ea => kStB dt ea
  | .kLda ar ea met => kLda ar ea met
  | .kSta ar ea => kSta ar ea
  | .kBcc cond disp => kBcc cond disp
  | .kBal disp => kBal disp
  | .kCall disp => kCall disp
  | .kJmp an => kJmp an
  | .kCallr an => kCallr an
  | .kBalr an => kBalr an
  | .kJlk => kJlk
  | .kPush r => kPushI r
  | .kPop r => kPopI r
  | .kTbs disp b => kTbs disp b
  | .kTbc disp b => kTbc disp b
  | .kTbsc disp b => kTbsc disp b
  | .kTbcs disp b => kTbcs disp b
  | .kBset b => kBset b
  | .kBclr b => kBclr b
  | .kBflip b => kBflip b
  | .kBld b => kBld b
  | .kBst b => kBst b
  | .kBand b => kBand b
  | .kBor b => kBor b
  | .kBxor b => kBxor b
  | .kCset => kCset
  | .kCclr => kCclr
  | .kCflip => kCflip
  | .kMac ac a b h1 h2 => kMac ac a b h1 h2
  | .kMsu ac a b h1 h2 => kMsu ac a b h1 h2
  | .kMpy ac a b h1 h2 => kMpy ac a b h1 h2
  | .kRdac dd ac sh => kRdac dd ac sh
  | .kWrac ac a sh => kWrac ac a sh
  | .kClrac ac => kClrac ac
  | .kAddac ac acs => kAddac ac acs
  | .kNop => kNop
  | .kWait => kWait
  | .kBrk => kBrk
  | .kTrap imm => kTrap imm
  | .kReti => kReti
  | .kRet => kRet
  | .kEi => kEi
  | .kDi => kDi
  | .kChkpt => kChkpt
  | .kMfc dd cr => kMfc dd cr
  | .kMtc cr a => kMtc cr a
  | .kIinv => kIinv
  | .kIinvl an => kIinvl an
  | _ => kUndef

/-- The effect of a word. -/
def wordEffect (w : Word) : State → KRes :=
  match decodeWord w with
  | some i => kEffect i
  | none => kUndef

/-- The checker follows the main copy. How far behind it stays in Loose mode is open (R288). -/
def chkRun (s : State) : State :=
  if s.pair.mode = 3 then chkFollow wordEffect (s.pair.lag + 1) (chkEntries s.pair.queue.length s)
  else if s.pair.mode = 1 then
    freeNext (chkSteps wordEffect (freeVal s % (s.pair.lag + 1)) (chkEntries s.pair.queue.length s))
  else s

/-- In Loose mode the main copy goes on when the replay queue has room. -/
def waitRoom (s : State) : State := if s.pair.mode = 1 then chkRoom wordEffect (s.pair.lag + 1) s else s

/-- The core issues instructions: the sentinel runs, the boot ROM has ended in an image, and the core neither waits nor is
locked up. -/
def coreIssues (s : State) : Bool :=
  sentinelRuns s && !s.idn.booting && !s.idn.halted && !s.core.waiting && !s.core.lockup

/-- An implicit checkpoint is due at this boundary (R290). -/
def gapDue (s : State) : Bool := s.pair.mode == 1 && decide (rfld s (pairBase + 0x00C) 0 20 ≤ s.pair.since)

/-- An interrupt is due at this boundary (R277, R278). -/
def irqNow (s : State) : Bool := !s.core.shadow && (irqDue s).isSome

/-- The next thing at this boundary is the instruction at the PC. -/
def kReady (s : State) : Bool := coreIssues s && !gapDue s && !irqNow s

/-- The pair halts at an enabled breakpoint at the PC, unless it has just resumed from it (R301). -/
def atBp (s : State) : Bool := s.pair.brk && bpAt s s.core.pc && !s.pair.skip

/-- The boundary behind an instruction of the main copy: the checker follows, or a checkpoint of Loose mode or a halt is made
(R289, R301). A reset that the instruction caused has left the reset state. -/
def boundary (r : State × KEnd) : State :=
  let s := kRetire r
  if s.clk.held then s
  else match r.2 with
    | .chkpt => looseCheckpoint wordEffect s
    | .halt => haltPair wordEffect s
    | _ => chkRun s

/-- The main copy executes an instruction. -/
def kRun (e : State → KRes) (s : State) : State :=
  if !kReady s then s
  else if atBp s then haltPair wordEffect s
  else boundary (kIssue e (waitRoom (modPair (fun p => { p with skip := false }) s)))

/-- ADD. -/
def execKAdd (dd a b : Fin 16) (s : State) : Host.Outcome State Fault Refusal := done (live s (kRun (kAdd dd a b)))
/-- ADDC. -/
def execKAddc (dd a b : Fin 16) (s : State) : Host.Outcome State Fault Refusal := done (live s (kRun (kAddc dd a b)))
/-- SUB. -/
def execKSub (dd a b : Fin 16) (s : State) : Host.Outcome State Fault Refusal := done (live s (kRun (kSub dd a b)))
/-- SUBC. -/
def execKSubc (dd a b : Fin 16) (s : State) : Host.Outcome State Fault Refusal := done (live s (kRun (kSubc dd a b)))
/-- AND. -/
def execKAnd (dd a b : Fin 16) (s : State) : Host.Outcome State Fault Refusal := done (live s (kRun (kAnd dd a b)))
/-- OR. -/
def execKOr (dd a b : Fin 16) (s : State) : Host.Outcome State Fault Refusal := done (live s (kRun (kOr dd a b)))
/-- XOR. -/
def execKXor (dd a b : Fin 16) (s : State) : Host.Outcome State Fault Refusal := done (live s (kRun (kXor dd a b)))
/-- ANDN. -/
def execKAndn (dd a b : Fin 16) (s : State) : Host.Outcome State Fault Refusal := done (live s (kRun (kAndn dd a b)))
/-- CMP. -/
def execKCmp (a b : Fin 16) (s : State) : Host.Outcome State Fault Refusal := done (live s (kRun (kCmp a b)))
/-- TST. -/
def execKTst (a b : Fin 16) (s : State) : Host.Outcome State Fault Refusal := done (live s (kRun (kTst a b)))
/-- MOV. -/
def execKMov (dd a : Fin 16) (s : State) : Host.Outcome State Fault Refusal := done (live s (kRun (kMov dd a)))
/-- NOT. -/
def execKNot (dd a : Fin 16) (s : State) : Host.Outcome State Fault Refusal := done (live s (kRun (kNot dd a)))
/-- NEG. -/
def execKNeg (dd a : Fin 16) (s : State) : Host.Outcome State Fault Refusal := done (live s (kRun (kNeg dd a)))
/-- MIN. -/
def execKMin (dd a b : Fin 16) (s : State) : Host.Outcome State Fault Refusal := done (live s (kRun (kMin dd a b)))
/-- MAX. -/
def execKMax (dd a b : Fin 16) (s : State) : Host.Outcome State Fault Refusal := done (live s (kRun (kMax dd a b)))
/-- SHL. -/
def execKShl (dd a b : Fin 16) (s : State) : Host.Outcome State Fault Refusal := done (live s (kRun (kShl dd a b)))
/-- SHR. -/
def execKShr (dd a b : Fin 16) (s : State) : Host.Outcome State Fault Refusal := done (live s (kRun (kShr dd a b)))
/-- SAR. -/
def execKSar (dd a b : Fin 16) (s : State) : Host.Outcome State Fault Refusal := done (live s (kRun (kSar dd a b)))
/-- ROR. -/
def execKRor (dd a b : Fin 16) (s : State) : Host.Outcome State Fault Refusal := done (live s (kRun (kRor dd a b)))
/-- SHLI. -/
def execKShli (dd a : Fin 16) (sh : Fin 32) (s : State) : Host.Outcome State Fault Refusal :=
  done (live s (kRun (kShli dd a sh)))
/-- SHRI. -/
def execKShri (dd a : Fin 16) (sh : Fin 32) (s : State) : Host.Outcome State Fault Refusal :=
  done (live s (kRun (kShri dd a sh)))
/-- SARI. -/
def execKSari (dd a : Fin 16) (sh : Fin 32) (s : State) : Host.Outcome State Fault Refusal :=
  done (live s (kRun (kSari dd a sh)))
/-- RORI. -/
def execKRori (dd a : Fin 16) (sh : Fin 32) (s : State) : Host.Outcome State Fault Refusal :=
  done (live s (kRun (kRori dd a sh)))
/-- MUL. -/
def execKMul (dd a b : Fin 16) (s : State) : Host.Outcome State Fault Refusal := done (live s (kRun (kMul dd a b)))
/-- MULH. -/
def execKMulh (dd a b : Fin 16) (s : State) : Host.Outcome State Fault Refusal := done (live s (kRun (kMulh dd a b)))
/-- MULHU. -/
def execKMulhu (dd a b : Fin 16) (s : State) : Host.Outcome State Fault Refusal := done (live s (kRun (kMulhu dd a b)))
/-- DIVU. -/
def execKDivu (dd a b : Fin 16) (s : State) : Host.Outcome State Fault Refusal := done (live s (kRun (kDivu dd a b)))
/-- DIVS. -/
def execKDivs (dd a b : Fin 16) (s : State) : Host.Outcome State Fault Refusal := done (live s (kRun (kDivs dd a b)))
/-- REMU. -/
def execKRemu (dd a b : Fin 16) (s : State) : Host.Outcome State Fault Refusal := done (live s (kRun (kRemu dd a b)))
/-- REMS. -/
def execKRems (dd a b : Fin 16) (s : State) : Host.Outcome State Fault Refusal := done (live s (kRun (kRems dd a b)))
/-- SEXTB. -/
def execKSextb (dd a : Fin 16) (s : State) : Host.Outcome State Fault Refusal := done (live s (kRun (kSextb dd a)))
/-- SEXTH. -/
def execKSexth (dd a : Fin 16) (s : State) : Host.Outcome State Fault Refusal := done (live s (kRun (kSexth dd a)))
/-- ZEXTB. -/
def execKZextb (dd a : Fin 16) (s : State) : Host.Outcome State Fault Refusal := done (live s (kRun (kZextb dd a)))
/-- ZEXTH. -/
def execKZexth (dd a : Fin 16) (s : State) : Host.Outcome State Fault Refusal := done (live s (kRun (kZexth dd a)))
/-- CLZ. -/
def execKClz (dd a : Fin 16) (s : State) : Host.Outcome State Fault Refusal := done (live s (kRun (kClz dd a)))
/-- BSWAP. -/
def execKBswap (dd a : Fin 16) (s : State) : Host.Outcome State Fault Refusal := done (live s (kRun (kBswap dd a)))
/-- MINU. -/
def execKMinu (dd a b : Fin 16) (s : State) : Host.Outcome State Fault Refusal := done (live s (kRun (kMinu dd a b)))
/-- MAXU. -/
def execKMaxu (dd a b : Fin 16) (s : State) : Host.Outcome State Fault Refusal := done (live s (kRun (kMaxu dd a b)))
/-- ADDI. -/
def execKAddi (dd a : Fin 16) (imm : BitVec 16) (s : State) : Host.Outcome State Fault Refusal :=
  done (live s (kRun (kAddi dd a imm)))
/-- ANDI. -/
def execKAndi (dd a : Fin 16) (imm : BitVec 16) (s : State) : Host.Outcome State Fault Refusal :=
  done (live s (kRun (kAndi dd a imm)))
/-- ORI. -/
def execKOri (dd a : Fin 16) (imm : BitVec 16) (s : State) : Host.Outcome State Fault Refusal :=
  done (live s (kRun (kOri dd a imm)))
/-- XORI. -/
def execKXori (dd a : Fin 16) (imm : BitVec 16) (s : State) : Host.Outcome State Fault Refusal :=
  done (live s (kRun (kXori dd a imm)))
/-- CMPI. -/
def execKCmpi (a : Fin 16) (imm : BitVec 16) (s : State) : Host.Outcome State Fault Refusal :=
  done (live s (kRun (kCmpi a imm)))
/-- MOVI. -/
def execKMovi (dd : Fin 16) (imm : BitVec 16) (s : State) : Host.Outcome State Fault Refusal :=
  done (live s (kRun (kMovi dd imm)))
/-- MOVHI. -/
def execKMovhi (dd : Fin 16) (imm : BitVec 16) (s : State) : Host.Outcome State Fault Refusal :=
  done (live s (kRun (kMovhi dd imm)))
/-- LEA. -/
def execKLea (an am : Fin 8) (imm : BitVec 16) (s : State) : Host.Outcome State Fault Refusal :=
  done (live s (kRun (kLea an am imm)))
/-- MOVA. -/
def execKMova (an : Fin 8) (dm : Fin 16) (s : State) : Host.Outcome State Fault Refusal :=
  done (live s (kRun (kMova an dm)))
/-- MOVD. -/
def execKMovd (dm : Fin 16) (am : Fin 8) (s : State) : Host.Outcome State Fault Refusal :=
  done (live s (kRun (kMovd dm am)))
/-- ADDA. -/
def execKAdda (an am : Fin 8) (dm : Fin 16) (s : State) : Host.Outcome State Fault Refusal :=
  done (live s (kRun (kAdda an am dm)))
/-- SUBA. -/
def execKSuba (an am : Fin 8) (dm : Fin 16) (s : State) : Host.Outcome State Fault Refusal :=
  done (live s (kRun (kSuba an am dm)))
/-- CMPA. -/
def execKCmpa (an am : Fin 8) (s : State) : Host.Outcome State Fault Refusal := done (live s (kRun (kCmpa an am)))
/-- MOVAA. -/
def execKMovaa (an am : Fin 8) (s : State) : Host.Outcome State Fault Refusal := done (live s (kRun (kMovaa an am)))
/-- ADDAS. -/
def execKAddas (an am : Fin 8) (dm : Fin 16) (s : State) : Host.Outcome State Fault Refusal :=
  done (live s (kRun (kAddas an am dm)))
/-- LEAPC. -/
def execKLeapc (an : Fin 8) (imm : BitVec 16) (s : State) : Host.Outcome State Fault Refusal :=
  done (live s (kRun (kLeapc an imm)))
/-- LD_W. -/
def execKLdW (dt : Fin 16) (ea : AMode) (met : LoadMet) (s : State) : Host.Outcome State Fault Refusal :=
  done (live s (kRun (kLdW dt ea met)))
/-- LD_H. -/
def execKLdH (dt : Fin 16) (ea : AMode) (met : LoadMet) (s : State) : Host.Outcome State Fault Refusal :=
  done (live s (kRun (kLdH dt ea met)))
/-- LD_HU. -/
def execKLdHu (dt : Fin 16) (ea : AMode) (met : LoadMet) (s : State) : Host.Outcome State Fault Refusal :=
  done (live s (kRun (kLdHu dt ea met)))
/-- LD_B. -/
def execKLdB (dt : Fin 16) (ea : AMode) (met : LoadMet) (s : State) : Host.Outcome State Fault Refusal :=
  done (live s (kRun (kLdB dt ea met)))
/-- LD_BU. -/
def execKLdBu (dt : Fin 16) (ea : AMode) (met : LoadMet) (s : State) : Host.Outcome State Fault Refusal :=
  done (live s (kRun (kLdBu dt ea met)))
/-- ST_W. -/
def execKStW (dt : Fin 16) (ea : AMode) (s : State) : Host.Outcome State Fault Refusal :=
  done (live s (kRun (kStW dt ea)))
/-- ST_H. -/
def execKStH (dt : Fin 16) (ea : AMode) (s : State) : Host.Outcome State Fault Refusal :=
  done (live s (kRun (kStH dt ea)))
/-- ST_B. -/
def execKStB (dt : Fin 16) (ea : AMode) (s : State) : Host.Outcome State Fault Refusal :=
  done (live s (kRun (kStB dt ea)))
/-- LDA. -/
def execKLda (ar : Fin 8) (ea : AMode) (met : LoadMet) (s : State) : Host.Outcome State Fault Refusal :=
  done (live s (kRun (kLda ar ea met)))
/-- STA. -/
def execKSta (ar : Fin 8) (ea : AMode) (s : State) : Host.Outcome State Fault Refusal :=
  done (live s (kRun (kSta ar ea)))
/-- BCC. -/
def execKBcc (cond : Fin 16) (disp : BitVec 22) (s : State) : Host.Outcome State Fault Refusal :=
  done (live s (kRun (kBcc cond disp)))
/-- BAL. -/
def execKBal (disp : BitVec 26) (s : State) : Host.Outcome State Fault Refusal := done (live s (kRun (kBal disp)))
/-- CALL. -/
def execKCall (disp : BitVec 26) (s : State) : Host.Outcome State Fault Refusal := done (live s (kRun (kCall disp)))
/-- JMP. -/
def execKJmp (an : Fin 8) (s : State) : Host.Outcome State Fault Refusal := done (live s (kRun (kJmp an)))
/-- CALLR. -/
def execKCallr (an : Fin 8) (s : State) : Host.Outcome State Fault Refusal := done (live s (kRun (kCallr an)))
/-- BALR. -/
def execKBalr (an : Fin 8) (s : State) : Host.Outcome State Fault Refusal := done (live s (kRun (kBalr an)))
/-- JLK. -/
def execKJlk (s : State) : Host.Outcome State Fault Refusal := done (live s (kRun kJlk))
/-- PUSH. -/
def execKPush (r : Fin 32) (s : State) : Host.Outcome State Fault Refusal := done (live s (kRun (kPushI r)))
/-- POP. -/
def execKPop (r : Fin 32) (s : State) : Host.Outcome State Fault Refusal := done (live s (kRun (kPopI r)))
/-- TBS. -/
def execKTbs (disp : BitVec 14) (b : BitVec 12) (s : State) : Host.Outcome State Fault Refusal :=
  done (live s (kRun (kTbs disp b)))
/-- TBC. -/
def execKTbc (disp : BitVec 14) (b : BitVec 12) (s : State) : Host.Outcome State Fault Refusal :=
  done (live s (kRun (kTbc disp b)))
/-- TBSC. -/
def execKTbsc (disp : BitVec 14) (b : BitVec 12) (s : State) : Host.Outcome State Fault Refusal :=
  done (live s (kRun (kTbsc disp b)))
/-- TBCS. -/
def execKTbcs (disp : BitVec 14) (b : BitVec 12) (s : State) : Host.Outcome State Fault Refusal :=
  done (live s (kRun (kTbcs disp b)))
/-- BSET. -/
def execKBset (b : BitRef) (s : State) : Host.Outcome State Fault Refusal := done (live s (kRun (kBset b)))
/-- BCLR. -/
def execKBclr (b : BitRef) (s : State) : Host.Outcome State Fault Refusal := done (live s (kRun (kBclr b)))
/-- BFLIP. -/
def execKBflip (b : BitRef) (s : State) : Host.Outcome State Fault Refusal := done (live s (kRun (kBflip b)))
/-- BLD. -/
def execKBld (b : BitRef) (s : State) : Host.Outcome State Fault Refusal := done (live s (kRun (kBld b)))
/-- BST. -/
def execKBst (b : BitRef) (s : State) : Host.Outcome State Fault Refusal := done (live s (kRun (kBst b)))
/-- BAND. -/
def execKBand (b : BitRef) (s : State) : Host.Outcome State Fault Refusal := done (live s (kRun (kBand b)))
/-- BOR. -/
def execKBor (b : BitRef) (s : State) : Host.Outcome State Fault Refusal := done (live s (kRun (kBor b)))
/-- BXOR. -/
def execKBxor (b : BitRef) (s : State) : Host.Outcome State Fault Refusal := done (live s (kRun (kBxor b)))
/-- CSET. -/
def execKCset (s : State) : Host.Outcome State Fault Refusal := done (live s (kRun kCset))
/-- CCLR. -/
def execKCclr (s : State) : Host.Outcome State Fault Refusal := done (live s (kRun kCclr))
/-- CFLIP. -/
def execKCflip (s : State) : Host.Outcome State Fault Refusal := done (live s (kRun kCflip))
/-- MAC. -/
def execKMac (ac : Fin 4) (a b : Fin 16) (h1 h2 : Bool) (s : State) : Host.Outcome State Fault Refusal :=
  done (live s (kRun (kMac ac a b h1 h2)))
/-- MSU. -/
def execKMsu (ac : Fin 4) (a b : Fin 16) (h1 h2 : Bool) (s : State) : Host.Outcome State Fault Refusal :=
  done (live s (kRun (kMsu ac a b h1 h2)))
/-- MPY. -/
def execKMpy (ac : Fin 4) (a b : Fin 16) (h1 h2 : Bool) (s : State) : Host.Outcome State Fault Refusal :=
  done (live s (kRun (kMpy ac a b h1 h2)))
/-- RDAC. -/
def execKRdac (dd : Fin 16) (ac : Fin 4) (sh : Fin 32) (s : State) : Host.Outcome State Fault Refusal :=
  done (live s (kRun (kRdac dd ac sh)))
/-- WRAC. -/
def execKWrac (ac : Fin 4) (a : Fin 16) (sh : Fin 32) (s : State) : Host.Outcome State Fault Refusal :=
  done (live s (kRun (kWrac ac a sh)))
/-- CLRAC. -/
def execKClrac (ac : Fin 4) (s : State) : Host.Outcome State Fault Refusal := done (live s (kRun (kClrac ac)))
/-- ADDAC. -/
def execKAddac (ac acs : Fin 4) (s : State) : Host.Outcome State Fault Refusal := done (live s (kRun (kAddac ac acs)))
/-- KARPOL_NOP. -/
def execKNop (s : State) : Host.Outcome State Fault Refusal := done (live s (kRun kNop))
/-- WAIT. -/
def execKWait (s : State) : Host.Outcome State Fault Refusal := done (live s (kRun kWait))
/-- BRK. -/
def execKBrk (s : State) : Host.Outcome State Fault Refusal := done (live s (kRun kBrk))
/-- TRAP. -/
def execKTrap (imm : Byte) (s : State) : Host.Outcome State Fault Refusal := done (live s (kRun (kTrap imm)))
/-- RETI. -/
def execKReti (s : State) : Host.Outcome State Fault Refusal := done (live s (kRun kReti))
/-- RET. -/
def execKRet (s : State) : Host.Outcome State Fault Refusal := done (live s (kRun kRet))
/-- EI. -/
def execKEi (s : State) : Host.Outcome State Fault Refusal := done (live s (kRun kEi))
/-- DI. -/
def execKDi (s : State) : Host.Outcome State Fault Refusal := done (live s (kRun kDi))
/-- CHKPT. -/
def execKChkpt (s : State) : Host.Outcome State Fault Refusal := done (live s (kRun kChkpt))
/-- MFC. -/
def execKMfc (dd : Fin 16) (cr : Byte) (s : State) : Host.Outcome State Fault Refusal :=
  done (live s (kRun (kMfc dd cr)))
/-- MTC. -/
def execKMtc (cr : Byte) (a : Fin 16) (s : State) : Host.Outcome State Fault Refusal := done (live s (kRun (kMtc cr a)))
/-- IINV. -/
def execKIinv (s : State) : Host.Outcome State Fault Refusal := done (live s (kRun kIinv))
/-- IINVL. -/
def execKIinvl (an : Fin 8) (s : State) : Host.Outcome State Fault Refusal := done (live s (kRun (kIinvl an)))

/-- The pair is formed again from the main copy, in Tight mode (R303). -/
def resync (s : State) : State :=
  let s1 := modCore (fun c => { c with lockup := false }) s
  wdogReload (modPair (fun p => { p with
    ovf := false, icache := [], dcache := [], commit := s1.core
    halted := false, chkHalted := false, haltWanted := false, resyncWanted := false }) (closeLoose (freshInterval s1)))

/-- WAIT_COMPLETE: a request pending and unmasked for the sentinel ends the WAIT; a halt that waits for the boundary follows
(R278, R288, R301). -/
def waitComplete (s : State) : State :=
  if sentinelRuns s && s.core.waiting && !s.idn.booting && !s.idn.halted && sentinelPending s then
    let s1 := boundary (waitDone (waitRoom s), .retired)
    if s1.pair.resyncWanted then resync s1 else if s1.pair.haltWanted then haltPair wordEffect s1 else s1
  else s

/-- WAIT_COMPLETE. -/
def execKWaitComplete (s : State) : Host.Outcome State Fault Refusal := done (live s waitComplete)

/-- An interrupt that is due at this boundary is entered (R277). -/
def interruptEntry (s : State) : State :=
  if coreIssues s && !gapDue s && !s.core.shadow then
    match irqDue s with
    | none => s
    | some p =>
      let x := waitRoom s
      chkRun (kEntryCommit (kInterrupt p x.pair.issued x))
  else s

/-- INTERRUPT_ENTRY. -/
def execInterruptEntry (s : State) : Host.Outcome State Fault Refusal := done (live s interruptEntry)

/-- GAP_CHECKPOINT: the implicit checkpoint of R290, at an instruction boundary. -/
def execGapCheckpoint (s : State) : Host.Outcome State Fault Refusal :=
  .next (live s fun s =>
    if coreIssues s && gapDue s then raise 186 (orReg pairEvents 0x10 (looseCheckpoint wordEffect s)) else s)

end Sys2Proof.Machine
end

