-- ==== Sys2Proof/Machine/PairRun.lean ====
section
/-! DEFINITION. The sentinel pair's events: faults and their outcome, the watchdog, the scrubber, mode requests (R286–R299,
R434). -/

namespace Sys2Proof.Machine

/-! Class S faults (R194, R295). -/

/-- A parity error of a cache line that an access met: the line is invalidated in both copies and refilled from sentinel SRAM,
and the error is counted (R287). -/
def lineError (data : Bool) (a : Nat) (s : State) : State :=
  if regionOf a ≠ .sram ∨ wbit s.core.cctl (b2n data) = false then s
  else if data then cacheErr (dcacheLoad a (modPair (fun p => { p with dcache := p.dcache.filter fun e => e != a / 32 }) s))
  else
    cacheErr (icacheFill a (modPair (fun p => { p with
      icache := tdel p.icache (a / 32), chkIcache := tdel p.chkIcache (a / 32) }) s))

/-- The read of the load that a mismatch met takes effect (R286). -/
def caughtRead (a : Option Word) (s : State) : State :=
  match a with
  | none => s
  | some x => if s.pair.mode = 0 ∧ accessFault false x.toNat 4 = none then loadEffect x.toNat s else s

/-- FAULT_DETECTED (R194, R196, R197, R214). -/
def faultDetected (f : FaultEvent) (s : State) : State :=
  match f with
  | .feltLinkUe => startRecovery 0x11 0 s
  | .stageParity stage dir p =>
    let unit := stage.val + 8 * dir.val + (if stage.val = 0 ∨ stage.val = 6 then p.val * 16 else 0)
    let s1 := startRecovery 0x12 unit s
    if stage.val = 6 then abortSending (stagePort 6 dir.val p.val) s1 else s1
  | .pressLane l => startRecovery 0x13 l.val (failLane l.val s)
  | .chanStateUe c =>
    let s1 := startRecovery 0x14 0 (loseChan c.val s)
    resumeWaits c.val s1
  | .interpParity => startRecovery 0x16 0 s
  | .keyeCheck => startRecovery 0x17 0 (orReg keFlags 8 s)
  | .pairMismatch kind regNo addr read =>
    if solo s ∨ s.pair.mode = 3 ∨ s.pair.handling ≠ .run then s
    else classSFault 0x21 kind.val regNo.toNat addr (caughtRead read s)
  | .sntMemUe => classSFault 0x22 3 0 0#32 s
  | .cacheParity data a => lineError data a.toNat s
  | .memCorrected a =>
    let g := regionOf a.toNat
    if g = .itcm ∨ g = .dtcm ∨ g = .sram then memCe s else s

/-- FAULT_DETECTED. -/
def execFaultDetected (f : FaultEvent) (s : State) : Host.Outcome State Fault Refusal := .next (live s (faultDetected f))

/-! The watchdog (R294). -/

/-- PCLK cycles since the last reload, while the watchdog runs. -/
def wdogElapsed (s : State) : Nat := nowP s - s.pair.wdogStart

/-- The watchdog counts: nothing pauses it, and the boot ROM and its halt are not reloading it. -/
def wdogCounts (s : State) : Bool := s.pair.wdogPaused.isNone && !s.idn.booting && !s.idn.halted

/-- WDOG_WARN: 7/8 of the timeout has passed. -/
def execWdogWarn (s : State) : Host.Outcome State Fault Refusal :=
  .next (live s fun s =>
    if wdogCounts s && !s.pair.wdogWarned && decide (s.pair.wdogTaken * 1250000 * 7 ≤ 8 * wdogElapsed s) then
      raise 187 (orReg pairEvents 0x20 (modPair (fun p => { p with wdogWarned := true }) s))
    else s)

/-- SNT_WATCHDOG: the timeout has passed. -/
def execSntWatchdog (s : State) : Host.Outcome State Fault Refusal :=
  .next (live s fun s =>
    if wdogCounts s && decide (s.pair.wdogTaken * 1250000 ≤ wdogElapsed s) then classSFault 0x23 3 0 0#32 s else s)

/-- PAIR_KICK: a write of PAIR.KICK. -/
def execPairKick (v : Word) (s : State) : Host.Outcome State Fault Refusal := .next (live s (pairWrite 0x014 v))

/-- MODE_REQ: a write of PAIR.CTRL (R292). -/
def execModeReq (v : Word) (s : State) : Host.Outcome State Fault Refusal := .next (live s (pairWrite 0x008 v))

/-! The scrubber (R293). -/


/-- What is found in one word. -/
def scrubFound (f : ScrubFind) (s : State) : State :=
  match f with
  | .clean => s
  | .corrected => memCe s
  | .uncorrectable => classSFault 0x22 3 0 0#32 s

/-- The scrubber moves on by one word of each memory; a completed pass of sentinel SRAM is counted. -/
def scrubNext (s : State) : State :=
  let s1 := modPair (fun p => { p with scrubTcm := (p.scrubTcm + 1) % 16384, scrubSram := (p.scrubSram + 1) % 131072 }) s
  if s.pair.scrubSram = 131071 then setRegN (pairBase + 0x038) ((reg s1 (pairBase + 0x038)).toNat + 1) s1 else s1

/-- SENTINEL_SCRUB. -/
def execSentinelScrub (itcm dtcm sram : ScrubFind) (s : State) : Host.Outcome State Fault Refusal :=
  .next (live s fun s => scrubNext (scrubFound sram (scrubFound dtcm (scrubFound itcm s))))

/-! Outcomes (R296–R298, R434). -/

/-- PAIR.LAST.OUTCOME. -/
def setOutcome (n : Nat) (s : State) : State := setReg pairLast (wsetFld (reg s pairLast) 10 2 n) s

/-- The pair runs again, in Tight mode or in Solo, with empty caches: the watchdog is reloaded. -/
def pairRuns (s : State) : State :=
  wdogReload (modPair (fun p => { p with
    handling := .run, noSolo := false, icache := [], dcache := [], wbuf := [], chk := none, chkIcache := []
    mode := if p.mode = 2 then 2 else 0 }) (freshInterval s))

/-- Solo: the surviving copy takes the commit set and resumes; the boot ROM goes on where it ran (R297). -/
def soloResume (boot : BootReads) (s : State) : State :=
  let s1 := pairRuns (modCore (fun c => { s.pair.commit with cycle := c.cycle, cycleh := s.pair.commit.cycleh }) (setOutcome 1 s))
  let s2 := raise 182 (orReg pairEvents 1 s1)
  if s2.idn.booting && s2.vat.st != 1 then romRun boot s2 else s2

/-- One copy is marked failed, and the other is main: Solo, until the next cold or warm reset (R296, R299). -/
def markFailed (aFails : Bool) (s : State) : State :=
  modPair (fun p => { p with failedA := p.failedA || aFails, failedB := p.failedB || !aFails, mainB := aFails, mode := 2 }) s

/-- The outcome of a BIST in which one copy of two passed (R296, R434). -/
def oneCopy (aFails : Bool) (boot : BootReads) (s : State) : State :=
  let s1 := markFailed aFails s
  if s1.pair.noSolo then beginZeroing s1 else soloResume boot s1

/-- Another restart after both copies passed, saturating. -/
def countTransient (s : State) : State :=
  let w := reg s pairCounts
  setReg pairCounts (wsetFld w 16 16 (satInc 16 (wfld w 16 16))) s

/-- No copy can continue: the copies that were tested failed (R304), and the fault state follows with BIST_FAILED (R210,
R212). In the fault state already, it is recorded as a fault in its own right. -/
def bistFailed (s : State) : State :=
  let s1 := setOutcome 3 (modPair (fun p => { p with failedA := true, failedB := true }) s)
  let s2 := if s.fault.mode = 2 then setFaults (fun f => { f with bist := true }) (recordFault 0x31 0 s1)
    else enterFault 0x31 true id s1
  audioStop (pinsHold (fanAuto s2))

/-- The outcome of a BIST. In Solo only the survivor is tested (R296). -/
def bistOutcome (passA passB : Bool) (boot : BootReads) (s : State) : State :=
  let a := passA && !s.pair.failedA
  let b := passB && !s.pair.failedB
  let s1 := setReg pairLast (wsetFld (wsetFld (reg s pairLast) 8 1 (b2n a)) 9 1 (b2n b)) s
  if solo s then (if a || b then beginZeroing s1 else bistFailed s1)
  else if a && b then beginZeroing (countTransient s1)
  else if a || b then oneCopy (!a) boot s1
  else bistFailed s1

/-- BIST_DONE. -/
def execBistDone (passA passB : Bool) (boot : BootReads) (s : State) : Host.Outcome State Fault Refusal :=
  .next (live s fun s => if s.pair.handling = .bist ∧ s.faults.bist = false then bistOutcome passA passB boot s else s)

/-- A byte of ITCM, DTCM or sentinel SRAM. -/
def sentinelMem (a : Nat) : Bool :=
  inRange a 0x10000000 0x1001FFFF || inRange a 0x20000000 0x2001FFFF || inRange a 0x30000000 0x300FFFFF

/-- The restart of the pair: zeroed memories, a core at reset, door 3 and the EVC's sentinel target reset, then the boot ROM
(R282, R298). -/
def restart (boot : BootReads) (s : State) : State :=
  let s1 := { s with mem := s.mem.filter fun e => !sentinelMem e.1, core := {}, panel := { s.panel with sealCount := 255 } }
  let s2 := pairRuns (modPair (fun p => { p with commit := {} }) s1)
  let s3 := setEvcStack 0 [] (doorResetCore 3 s2)
  romStart boot (raise 183 (orReg pairEvents 2 s3))

/-- RESTART_ZERO_DONE. -/
def execRestartZeroDone (boot : BootReads) (s : State) : Host.Outcome State Fault Refusal :=
  .next (live s fun s => if s.pair.handling = .zeroing then restart boot s else s)

end Sys2Proof.Machine
end

