-- ==== Sys2Proof/Machine/Debug.lean ====
section
/-! DEFINITION. The test access port and the debugger behind it: boundary scan, identity, debug commands in Break mode and in
Replay mode (R300–R303, R427–R429). -/

namespace Sys2Proof.Machine

/-! Debug commands (Tables 14-6, 14-7). -/

/-- The result of a debug command: its code, its data where it read any, and the state after it. -/
structure DbgOut where
  res : Nat
  data : Option Word := none
  st : State

/-- OK, BUSY, BUSERR, NOT_HALTED, REFUSED. -/
def dbgOk (s : State) : DbgOut := { res := 0, st := s }
def dbgFail (n : Nat) (s : State) : DbgOut := { res := n, st := s }

/-- An operand value that Table 14-7 does not list: no effect, and an open result. -/
def dbgOpen (s : State) : DbgOut := { res := freeVal s % 16, st := freeNext s }

/-- The pair is stopped by a class S fault or by BIST_FAILED: no copy can be commanded. -/
def pairStopped (s : State) : Bool := s.pair.handling != .run || (s.fault.mode == 2 && s.faults.bist)

/-- BUS_READ. -/
def dbgBusRead (a : Word) (s : State) : DbgOut :=
  match accessFault false a.toNat 4 with
  | some _ => dbgFail 2 s
  | none => { res := 0, data := some (w32 (loadVal s a.toNat 4)), st := loadEffect a.toNat s }

/-- BUS_WRITE: matching lines of the caches of both copies are invalidated. -/
def dbgBusWrite (a v : Word) (s : State) : DbgOut :=
  match accessFault true a.toNat 4 with
  | some _ => dbgFail 2 s
  | none =>
    let l := a.toNat / 32
    dbgOk (modPair (fun p => { p with
      icache := tdel p.icache l, chkIcache := tdel p.chkIcache l, dcache := p.dcache.filter fun e => e != l })
      (storeVal a.toNat 4 v.toNat s))

/-- The copy that ADDR[8] names is halted. -/
def copyHalted (a : Word) (s : State) : Bool :=
  if wbit a 8 then (if s.pair.mode = 3 then s.pair.chkHalted else s.pair.halted && !solo s) else s.pair.halted

/-- A core's register by its debug number; none for an unlisted one. -/
def dbgReg (n : Nat) (c : Core) : Option Word :=
  if n < 16 then some (tget 0#32 c.d n)
  else if n < 24 then some (tget 0#32 c.a (n - 16))
  else if n = 24 then some c.lk
  else if n = 25 then some c.stat
  else if n = 26 then some c.pc
  else if inRange n 32 39 then crRead (n - 32) c
  else if inRange n 40 47 then
    let v := tget 0 c.ac ((n - 40) / 2)
    some (BitVec.ofInt 32 (if n % 2 = 0 then v else v / (2 ^ 32 : Nat)))
  else none

/-- An accumulator with its low word, or its bits 55:32, replaced. -/
def accPart (v : Int) (high : Bool) (w : Word) : Int :=
  let m := ofSigned 56 v
  toSigned 56 (if high then m % 2 ^ 32 + w.toNat % 2 ^ 24 * 2 ^ 32 else m / 2 ^ 32 * 2 ^ 32 + w.toNat)

/-- Write a register by its debug number into the copy in `core`. -/
def dbgSetReg (n : Nat) (v : Word) (s : State) : State :=
  if n < 16 then modCore (fun c => { c with d := tset 0#32 c.d n v }) s
  else if n < 24 then modCore (fun c => { c with a := tset 0#32 c.a (n - 16) v }) s
  else if n = 24 then setLk v s
  else if n = 25 then setStat (statMask v) s
  else if n = 26 then setPc (v &&& 0xFFFFFFFC#32) s
  else if n = 32 then setStat (statMask v) s
  else if inRange n 33 39 then crWrite (n - 32) v s
  else if inRange n 40 47 then
    modCore (fun c => { c with ac := tset 0 c.ac ((n - 40) / 2) (accPart (tget 0 c.ac ((n - 40) / 2)) (n % 2 == 1) v) }) s
  else s

/-- REG_READ: of CYCLE it latches CYCLEH, as every read does. -/
def dbgRegRead (a : Word) (s : State) : DbgOut :=
  let n := wfld a 0 8
  if copyHalted a s = false then dbgFail 3 s
  else
    let chk := wbit a 8 && s.pair.mode == 3
    match dbgReg n (if chk then s.pair.chk.getD {} else s.core) with
    | none => dbgOpen s
    | some v =>
      let f := modCore (crReadEffect (if n = 37 then 5 else 0))
      { res := 0, data := some v, st := if chk then asChecker f s else f s }

/-- REG_WRITE: of ADDR[7:0], in both copies in Break mode, in the checker in Replay mode. -/
def dbgRegWrite (a v : Word) (s : State) : DbgOut :=
  let n := wfld a 0 8
  if (if s.pair.mode = 3 then s.pair.chkHalted else s.pair.halted) = false then dbgFail 3 s
  else if (dbgReg n s.core).isNone then dbgOpen s
  else if s.pair.mode = 3 then dbgOk (asChecker (dbgSetReg n v) s)
  else
    let s1 := dbgSetReg n v s
    dbgOk (modPair (fun p => { p with commit := s1.core, chk := p.chk.map fun _ => s1.core }) s1)

/-- HALT: of the pair in Break mode, of the checker in Replay mode; a core in WAIT halts when the WAIT has completed. -/
def dbgHalt (s : State) : DbgOut :=
  if pairStopped s then dbgFail 1 s
  else if s.pair.mode = 3 then dbgOk (modPair (fun p => { p with chkHalted := true }) s)
  else if s.pair.brk = false then dbgFail 4 s
  else if s.pair.halted then dbgOk s
  else if s.core.waiting then dbgOk (modPair (fun p => { p with haltWanted := true }) s)
  else dbgOk (haltPair wordEffect s)

/-- The main copy runs again after a halt; the boot ROM goes on where it ran. -/
def unhalt (boot : BootReads) (s : State) : State :=
  let s1 := wdogReload (modPair (fun p => { p with halted := false, skip := true }) s)
  if s1.idn.booting && s1.vat.st != 1 then romRun boot s1 else s1

/-- RESUME. -/
def dbgResume (boot : BootReads) (s : State) : DbgOut :=
  if pairStopped s then dbgFail 1 s
  else if s.pair.mode = 3 then
    dbgOk (chkRun (if s.pair.chkHalted then modPair (fun p => { p with chkHalted := false, chkSkip := true }) s else s))
  else dbgOk (if s.pair.halted then unhalt boot s
    else modPair (fun p => { p with haltWanted := false }) s)

/-- The halted pair executes one instruction, fetched at the PC, and halts again; a WAIT that does not complete at once halts
when it does. -/
def stepMain (s : State) : State :=
  let s1 := icacheFill s.core.pc.toNat s
  let s2 := boundary (kIssue (wordEffect (fetchWord s1 s.core.pc.toNat)) (modPair (fun p => { p with halted := false }) s1))
  if s2.clk.held || s2.pair.halted then s2
  else if s2.core.waiting then wdogReload (modPair (fun p => { p with haltWanted := true }) s2)
  else haltPair wordEffect s2

/-- STEP. -/
def dbgStep (s : State) : DbgOut :=
  if pairStopped s then dbgFail 1 s
  else if s.pair.mode = 3 then
    if s.pair.chkHalted = false then dbgFail 3 s
    else if s.pair.lag = 0 then dbgFail 1 s
    else dbgOk (modPair (fun p => { p with chkHalted := true }) (chkStep wordEffect s))
  else if s.pair.halted then dbgOk (stepMain s)
  else dbgFail 3 s

/-- Replay mode begins: from Tight mode the checker stands where the main copy does, from Loose mode where it has come to; a
halted pair leaves its checker halted. -/
def beginReplay (s : State) : State :=
  let was := s.pair.halted
  let s0 := if s.pair.mode = 1 then s
    else modPair (fun p => { p with chk := some { s.core with waiting := false }, chkIcache := p.icache }) (freshInterval s)
  let s1 := modPair (fun p => { p with
    mode := 3, brk := false, ovf := false, halted := false, chkHalted := was, haltWanted := false }) s0
  if was then wdogReload s1 else s1

/-- SET_MODE: 0 no debug, 1 Break mode, 2 Replay mode. -/
def dbgSetMode (v : Word) (s : State) : DbgOut :=
  let m := wfld v 0 2
  if pairStopped s then dbgFail 1 s
  else if m = 3 then dbgOpen s
  else if s.pair.mode = 3 then (if m = 2 then dbgOk s else dbgFail 4 s)
  else if m = 2 then (if solo s then dbgFail 4 s else dbgOk (beginReplay s))
  else dbgOk (modPair (fun p => { p with brk := m == 1 }) s)

/-- RESYNC: a core in WAIT is resynchronised when the WAIT has completed. -/
def dbgResync (s : State) : DbgOut :=
  if pairStopped s then dbgFail 1 s
  else if solo s then dbgFail 4 s
  else if s.core.waiting then dbgOk (modPair (fun p => { p with resyncWanted := true }) s)
  else dbgOk (resync s)

/-- BREAKPOINT. -/
def dbgBreakpoint (a v : Word) (s : State) : DbgOut :=
  dbgOk (modPair (fun p => { p with bps := tset (0#32, false) p.bps (wfld v 0 2) (a, wbit v 2) }) s)

/-- What a debug command does. -/
def dbgCommand (cmd : Nat) (a v : Word) (boot : BootReads) (s : State) : DbgOut :=
  match cmd with
  | 1 => dbgBusRead a s
  | 2 => dbgBusWrite a v s
  | 3 => dbgRegRead a s
  | 4 => dbgRegWrite a v s
  | 5 => dbgHalt s
  | 6 => dbgResume boot s
  | 7 => dbgStep s
  | 8 => dbgSetMode v s
  | 9 => dbgResync s
  | 10 => dbgBreakpoint a v s
  | _ => dbgOpen s

/-- Update-DR of DBG_ACCESS: NONE does nothing; an executed command sets DBG_SEEN, raises source 188 and leaves its result to
be captured (R300). The TAP outlives a reset that a command causes. -/
def dbgUpdate (cmd : Nat) (a v : Word) (boot : BootReads) (s : State) : State :=
  if cmd = 0 ∨ s.clk.held then s
  else
    let s1 := raise 188 (modPair (fun p => { p with dbgSeen := true }) s)
    let r := dbgCommand cmd a v boot s1
    { r.st with tap := { r.st.tap with cmd := cmd, res := r.res, addr := a, data := r.data.getD v } }

/-! What the boundary register captures (R428). -/

/-- The Vat leaves every NAND pin at high impedance: VDDIO_N disagrees with NVSEL (R24). -/
def nandHighZ (s : State) : Bool := s.vat.reason == 1

/-- Parallel panel ball `n` (R0–R7, G0–G7, B0–B7, HSYNC, VSYNC, DE, PCLK) while its group is idle or in the blanking state
(R329, R330); while it scans, its level at the capture is open. -/
def panelBall (s : State) (n : Nat) : Option Bool :=
  if s.panel.running && !bitAt s.panel.live.out 0 then none
  else
    let b := blankBalls s.panel.live.out
    match n with
    | 24 => some b.hsync
    | 25 => some b.vsync
    | 26 => some b.de
    | _ => some false

/-- Audio ball `n` (PWM_P, PWM_N, EN0, MCLK, BCLK, FS, SD, EN1): an enable ball's level; any other is low while its sink is
off, and its level within a sample is open while it is on (Table 18-4). -/
def audioBall (s : State) (n : Nat) : Option Bool :=
  let sink := fun k => tget {} s.audio.sinks k
  let quiet := !aclkRuns s || audioHeld s
  if n = 2 then some (sink 0).en
  else if n = 7 then some (sink 1).en
  else
    let off := if n < 2 then !wbit (aud s 0x008) 1 || !(sink 0).en
      else if n = 3 then !wbit (aud s 0x190) 8
      else !wbit (aud s 0x008) 2
    if quiet || off then some false else none

/-- Gate output `g` is high now. -/
def gateBall (s : State) (g : Nat) : Bool :=
  let high := gateHigh s g
  decide (high.1 ≤ pwmTick s) && decide (pwmTick s < high.2)

/-- FANn_PWM drives low now; in a reset it is released (R392). -/
def fanLow (s : State) (n : Nat) : Bool := !s.clk.held && decide (applied s n ≤ pwmTick s)

/-- An output's driver: on, but open in a cold reset, for a part of which PORST_N is low or VDD_CORE not up (R419). -/
def outDriver (s : State) : Option Bool := if s.clk.held && s.clk.cold then none else some true

/-- What a ball's cells capture: input, output and control, where the state holds it. -/
def ballCapture (s : State) (b : Ball) : Option Bool × Option Bool × Option Bool :=
  match b with
  | .gp n =>
    let d := pinBall s n
    let fixed := gpBit s 0x050 n
    let timer := inRange n 16 23
    (some (bitAt s.pins.level n), if fixed then (if timer then some (tmrOut s (n - 16)) else none) else some (gpBit s 0x010 n),
      if fixed && !timer then none else some (decide (d < 2)))
  | .rstout => (none, some (!s.clk.held), outDriver s)
  | .nwp => (none, if nandHighZ s then none else some s.vat.wp, if nandHighZ s then some false else outDriver s)
  | .nce _ | .ndq _ | .ndqs _ | .nre _ | .nwe | .ncle | .nale => (none, none, if nandHighZ s then some false else none)
  | .nvsel => (some Config.nvsel18, none, none)
  | .perst d => (some (!(door s d).perst), none, none)
  | .trip => (some (!s.fans.tripIn), none, none)
  | .hall n => (some (bitAt s.fans.hall n), none, none)
  | .aud n => (none, audioBall s n, outDriver s)
  | .fanPwm n => (none, some false, some (fanLow s n))
  | .gate g => (none, some (gateBall s g), some true)
  | .irq2 => (none, some false, some ((door s 2).irq2))
  | .pnl n => (none, panelBall s n, outDriver s)
  | _ => (none, none, none)

/-- The captured cells; one the state does not hold is open. -/
def bsrCapture (s : State) : List Bool :=
  let cells : List (Option Bool) := boundaryBalls.flatMap fun b =>
    let (i, o, c) := ballCapture s b
    (if (ballCells b).1 then [i] else []) ++ (if (ballCells b).2 then [o, c] else [])
  cells.mapIdx fun k v => v.getD (Config.freeNat (s.freeCtr + k) % 2 == 1)

/-! The TAP. -/

/-- The TAP has its supplies outside SLEEP and OFF. -/
def tapOn (s : State) : Bool := s.clk.pstate != .sleep && s.clk.pstate != .off

/-- Select an instruction: the TAP has left Test-Logic-Reset. -/
def tapSelect (ir : Nat) (s : State) : State :=
  tapEmit { s with tap := { s.tap with ir := ir }, idn := { s.idn with tap := true } }

/-- The `n` low bits of a number, bit 0 first. -/
def bitList (n v : Nat) : List Bool := (List.range n).map (bitAt v)

/-- The number whose bits are given, bit 0 first. -/
def bitNat : List Bool → Nat
  | [] => 0
  | b :: r => b2n b + 2 * bitNat r

/-- Shift `tdi` through a data register that captured `cap`: the bits shifted out go to TDO. -/
def tapShift (cap tdi : List Bool) (s : State) : State := emit (.tdo ((cap ++ tdi).take tdi.length)) s

/-- What the register holds after the shift. -/
def shifted (cap tdi : List Bool) : List Bool := (cap ++ tdi).drop tdi.length

/-- IDCODE of a B0 part. -/
def idcode : Nat := 0xB9640D77

/-- The captured debug register (Table 14-6). -/
def dbgCapture (s : State) : List Bool :=
  bitList 72 (s.tap.cmd + s.tap.res * 2 ^ 4 + s.tap.addr.toNat * 2 ^ 8 + s.tap.data.toNat * 2 ^ 40)

/-- A scan of the boundary register. -/
def scanBoundary (tdi : List Bool) (s : State) : State :=
  let cap := bsrCapture s
  let s1 := tapShift cap tdi { s with freeCtr := s.freeCtr + 311 }
  tapEmit { s1 with tap := { s1.tap with bsr := shifted cap tdi } }

/-- A scan of the debug register: Update-DR executes the command it then holds. -/
def scanDebug (tdi : List Bool) (boot : BootReads) (s : State) : State :=
  let cap := dbgCapture s
  let r := bitNat (shifted cap tdi)
  dbgUpdate (fld r 0 4) (w32 (fld r 8 32)) (w32 (fld r 40 32)) boot (tapShift cap tdi s)

/-- A TAP instruction: it is selected, then, where there are bits to shift, its data register is scanned once. -/
def tapRun (ir : Nat) (tdi : List Bool) (scan : State → State) (s : State) : State :=
  if tapOn s = false then s
  else
    let s1 := tapSelect ir s
    if tdi = [] then s1 else scan s1

/-- EXTEST. -/
def execExtest (tdi : List Bool) (s : State) : Host.Outcome State Fault Refusal :=
  .next (tapRun 0x00 tdi (scanBoundary tdi) s)

/-- SAMPLE_PRELOAD. -/
def execSamplePreload (tdi : List Bool) (s : State) : Host.Outcome State Fault Refusal :=
  .next (tapRun 0x01 tdi (scanBoundary tdi) s)

/-- IDCODE. -/
def execIdcode (tdi : List Bool) (s : State) : Host.Outcome State Fault Refusal :=
  .next (tapRun 0x02 tdi (tapShift (bitList 32 idcode) tdi) s)

/-- HIGHZ. -/
def execHighz (tdi : List Bool) (s : State) : Host.Outcome State Fault Refusal :=
  .next (tapRun 0x03 tdi (tapShift [false] tdi) s)

/-- CLAMP. -/
def execClamp (tdi : List Bool) (s : State) : Host.Outcome State Fault Refusal :=
  .next (tapRun 0x04 tdi (tapShift [false] tdi) s)

/-- BYPASS. -/
def execBypass (tdi : List Bool) (s : State) : Host.Outcome State Fault Refusal :=
  .next (tapRun 0xFF tdi (tapShift [false] tdi) s)

/-- DBG_ACCESS. -/
def execDbgAccess (tdi : List Bool) (boot : BootReads) (s : State) : Host.Outcome State Fault Refusal :=
  done (tapRun 0x20 tdi (scanDebug tdi boot) s)

/-- TAP_RESET: the TAP is in Test-Logic-Reset and selects IDCODE. -/
def execTapReset (s : State) : Host.Outcome State Fault Refusal :=
  .next (if tapOn s then { s with tap := { s.tap with ir := 0x02 } } else s)

/-- A debug command: with DBG_ACCESS selected, one scan of all 72 bits that writes it; the result of the command before is
shifted out. -/
def dbgScan (cmd : Nat) (a v : Word) (boot : BootReads) (s : State) : State :=
  if tapOn s = false ∨ s.tap.ir ≠ 0x20 then s
  else dbgUpdate cmd a v boot (emit (.tdo (dbgCapture s)) s)

/-- BUS_READ. -/
def execBusRead (addr : Word) (s : State) : Host.Outcome State Fault Refusal := .next (dbgScan 1 addr 0#32 {} s)

/-- BUS_WRITE. -/
def execBusWrite (addr data : Word) (s : State) : Host.Outcome State Fault Refusal := done (dbgScan 2 addr data {} s)

/-- REG_READ. -/
def execRegRead (addr : Word) (s : State) : Host.Outcome State Fault Refusal := .next (dbgScan 3 addr 0#32 {} s)

/-- REG_WRITE. -/
def execRegWrite (addr data : Word) (s : State) : Host.Outcome State Fault Refusal := .next (dbgScan 4 addr data {} s)

/-- HALT. -/
def execDbgHalt (s : State) : Host.Outcome State Fault Refusal := .next (dbgScan 5 0#32 0#32 {} s)

/-- RESUME. -/
def execDbgResume (boot : BootReads) (s : State) : Host.Outcome State Fault Refusal :=
  done (dbgScan 6 0#32 0#32 boot s)

/-- STEP. -/
def execDbgStep (s : State) : Host.Outcome State Fault Refusal := done (dbgScan 7 0#32 0#32 {} s)

/-- SET_MODE. -/
def execSetMode (data : Word) (s : State) : Host.Outcome State Fault Refusal := .next (dbgScan 8 0#32 data {} s)

/-- RESYNC. -/
def execDbgResync (s : State) : Host.Outcome State Fault Refusal := .next (dbgScan 9 0#32 0#32 {} s)

/-- BREAKPOINT. -/
def execDbgBreakpoint (addr data : Word) (s : State) : Host.Outcome State Fault Refusal :=
  .next (dbgScan 10 addr data {} s)

end Sys2Proof.Machine
end

