-- ==== Sys2Proof/Machine/Epoch.lean ====
section
/-! DEFINITION. The epoch boundary: the bank swap of a pending Apply, key changeover and rollover, ports and lanes that
wait for a boundary (R74, R88, R91, R92, R107, R129, R142, R149, R172, R174). -/

namespace Sys2Proof.Machine

/-- The counter wraps: the boundary count increases, and what counts per epoch starts again (R88, R142, R149). -/
def epochWrap (s : State) : State :=
  let m := { s.mach with onset := false, cal := [] }
  let s1 := { s with epoch := { s.epoch with boundaries := (s.epoch.boundaries + 1) % 2 ^ 64, count := 0,
                                              base := s.epoch.base + 2 ^ s.epoch.k }, mach := m }
  (List.range 8).foldl (fun x d => setCal d { cal s d with slots := 0 } x) s1

/-- KEY_SWITCH entries promote their channels' next keys; the number that found nothing to promote (R172). -/
def applySwitches (es : Table (Nat × Bytes)) (s : State) : State × Nat :=
  (es.filter fun e => e.1 / 65536 == kSwitch).foldl (fun (x : State × Nat) e =>
    let c := e.1 % 65536
    if (chan x.1 c).nxt.state = ksLoaded then (promote c x.1, x.2) else (x.1, x.2 + 1)) (s, 0)

/-- A live MAP of a bank names port `q`. -/
def mapNames (b : Bank) (q : Nat) : Bool :=
  if q < 8 then (mapOf b q).isSome else (List.range 8).any fun w => match mapOf b w with | some (d, _) => 8 + d == q | none => false

/-- Ownership after an Apply: named channels that no door owns become the applying door's; unmapped ports become unowned,
other named unowned ports become the door's (R74). -/
def applyOwners (d : Nat) (old new : Bank) (es : Table (Nat × Bytes)) (s : State) : State :=
  let named := (es.filter fun e => e.2.1 == 0).map fun e => entryNames (e.1 / 65536) (e.1 % 65536) e.2.1 e.2.2
  let s1 := (named.flatMap (·.1)).foldl (fun x c =>
    if (chan x c).owner = none then modChan c (fun y => { y with owner := some d }) x else x) s
  let ports := named.flatMap (·.2)
  (List.range 16).foldl (fun x q =>
    let p := port x q
    if mapNames old q && !mapNames new q then setPort q { p with owner := none } x
    else if p.owner = none ∧ ports.contains q = true then setPort q { p with owner := some d } x
    else x) s1

/-- The direction of each binding an Apply sets is the channel's last one (Table 9-2). -/
def applyDirs (es : Table (Nat × Bytes)) (s : State) : State :=
  (es.filter fun e => e.1 / 65536 == kBind && e.2.1 == 0).foldl (fun x e =>
    modChan (e.1 % 65536) (fun y => { y with lastDir := vb e.2.2 8 }) x) s

/-- A dry port that an Apply makes Calender starts with no cell sync and no HOLD run out; a frame pending from an earlier
time goes, what waits in its message queues stays (R160, R163, R164). -/
def calBegin (d : Nat) (s : State) : State :=
  modCal d (fun c => { c with rxSync := false, peerSync := false, markSeen := false, holdExpired := false, openTx := false,
                              good := 0, bad := 0 }) (dropPending d s)

/-- The effect of a bank swap on a dry port's Calender state: a change of its status bits, which were `was`, raises CAL_STATE
(R166); frames that a shorter LATENCY makes late are sent (R91, R161). -/
def calSwap (old new : Bank) (d was : Nat) (s : State) : State :=
  let s1 := calUpdate d was (if !isCal old d && isCal new d then calBegin d s else s)
  sendLate d s1.mach.frames.length s1

/-- The banks swap: every staged table at once, and what follows (R91, R92). -/
def swapBanks (a : Apply) (s : State) : State :=
  let ar := area s a.door
  let es := ar.entries
  let old := liveBank s
  let new := a.shadow.getD (overlay old es)
  let st := if s.stock.active = 0 then { s.stock with bank1 := new, active := 1, apply := none }
    else { s.stock with bank0 := new, active := 0, apply := none }
  let s1 := { s with stock := st, epoch := { s.epoch with k := bankK new } }
  let (s2, missed) := applySwitches es (applyDirs es (applyOwners a.door old new es s1))
  let s3 := (List.range 8).foldl (fun x d => calSwap old new d (calStatus s d) x) (portsSwap old new s2)
  let s4 := setArea a.door { ar with entries := [], passed := false, checkVer := 0, mods := ar.mods + 1,
                                     lastEpoch := s.epoch.boundaries, lastResult := 1 } (bumpLiveVer s3)
  finish a.door a.tag stDone 0 es.length s4.stock.liveVer missed none (raise 80 s4)

/-- The pending Apply takes effect on its boundary. -/
def applyBoundary (s : State) : State :=
  match s.stock.apply with
  | some a => if !a.waitRelease && a.target == s.epoch.boundaries then swapBanks a s else s
  | none => s

/-- Admission stops at the first boundary after a request for DIM, and resumes at the first after PSTATE reads RUN
(R29, R30). -/
def admitBoundary (s : State) : State :=
  if s.clk.dimWanted then { s with clk := { s.clk with admitStopped := true, draining := true, drainFrom := nowP s, admitFrom := false } }
  else if s.clk.admitFrom then { s with clk := { s.clk with admitStopped := false, admitFrom := false } }
  else s

/-- EPOCH_BOUNDARY (R88, R91). -/
def execEpochBoundary (s : State) : Host.Outcome State Fault Refusal :=
  .next (live s fun s => admitBoundary (lanesBoundary (rolloverAll (portsCarry (applyBoundary (epochWrap s))))))

end Sys2Proof.Machine
end

