-- ==== Sys2Proof/Machine/Dispatch.lean ====
section
/-! DEFINITION. One arm per command, each a direct call of its meaning. -/

namespace Sys2Proof.Machine

def exec (i : Instr) (s : State) : Host.Outcome State Fault Refusal :=
  match i with
  | .coldReset lowNs => Sys2Proof.Machine.execColdReset lowNs s
  | .warmReset lowNs => Sys2Proof.Machine.execWarmReset lowNs s
  | .coreSupervisorReset lowNs => Sys2Proof.Machine.execCoreSupervisorReset lowNs s
  | .clkLoss => Sys2Proof.Machine.execClkLoss s
  | .resetRelease => Sys2Proof.Machine.execResetRelease s
  | .loftReset => Sys2Proof.Machine.execLoftReset s
  | .swrst key => Sys2Proof.Machine.execSwrst key s
  | .pxdiv v => Sys2Proof.Machine.execPxdiv v s
  | .clkGate v => Sys2Proof.Machine.execClkGate v s
  | .psreqRun => Sys2Proof.Machine.execPsreqRun s
  | .psreqDim => Sys2Proof.Machine.execPsreqDim s
  | .psreqNap => Sys2Proof.Machine.execPsreqNap s
  | .psreqSleep => Sys2Proof.Machine.execPsreqSleep s
  | .dimDrainEnd => Sys2Proof.Machine.execDimDrainEnd s
  | .dimDrainTimeout => Sys2Proof.Machine.execDimDrainTimeout s
  | .dimExitDone => Sys2Proof.Machine.execDimExitDone s
  | .sleepEntryDone => Sys2Proof.Machine.execSleepEntryDone s
  | .pwrEnRise => Sys2Proof.Machine.execPwrEnRise s
  | .droopStart => Sys2Proof.Machine.execDroopStart s
  | .droopEnd => Sys2Proof.Machine.execDroopEnd s
  | .telemetrySample temps rails => Sys2Proof.Machine.execTelemetrySample temps rails s
  | .sensorCal sensor => Sys2Proof.Machine.execSensorCal sensor s
  | .fpkey key => Sys2Proof.Machine.execFpkey key s
  | .fuseBurnDone => Sys2Proof.Machine.execFuseBurnDone s
  | .blockLock b => Sys2Proof.Machine.execBlockLock b s
  | .vatMountDone a boot => Sys2Proof.Machine.execVatMountDone a boot s
  | .commandPacket ps => Sys2Proof.Machine.execCommandPacket ps s
  | .cmdTail d v => Sys2Proof.Machine.execCmdTail d v s
  | .rplHead d v => Sys2Proof.Machine.execRplHead d v s
  | .ringEnable d => Sys2Proof.Machine.execRingEnable d s
  | .ringDisable d => Sys2Proof.Machine.execRingDisable d s
  | .replyDeliver d => Sys2Proof.Machine.execReplyDeliver d s
  | .idleHint d v => Sys2Proof.Machine.execIdleHint d v s
  | .moderationExpiry d => Sys2Proof.Machine.execModerationExpiry d s
  | .sentinelModerationEnd => Sys2Proof.Machine.execSentinelModerationEnd s
  | .doorReset d key => Sys2Proof.Machine.execDoorReset d key s
  | .doorResetDone d => Sys2Proof.Machine.execDoorResetDone d s
  | .pcieLinkUp d => Sys2Proof.Machine.execPcieLinkUp d s
  | .pcieLinkDown d why => Sys2Proof.Machine.execPcieLinkDown d why s
  | .pciePerst d => Sys2Proof.Machine.execPciePerst d s
  | .writeCmd data => Sys2Proof.Machine.execWriteCmd data s
  | .writeCmdQ data => Sys2Proof.Machine.execWriteCmdQ data s
  | .readStatus bytes => Sys2Proof.Machine.execReadStatus bytes s
  | .readReply bytes => Sys2Proof.Machine.execReadReply bytes s
  | .readReplyQ bytes => Sys2Proof.Machine.execReadReplyQ bytes s
  | .readData offset bytes => Sys2Proof.Machine.execReadData offset bytes s
  | .readDataQ offset bytes => Sys2Proof.Machine.execReadDataQ offset bytes s
  | .readNotice bytes => Sys2Proof.Machine.execReadNotice bytes s
  | .writeNoticeMask data => Sys2Proof.Machine.execWriteNoticeMask data s
  | .spiEvcClaim p => Sys2Proof.Machine.execSpiEvcClaim p s
  | .spiEvcComplete data => Sys2Proof.Machine.execSpiEvcComplete data s
  | .spiIdleHint => Sys2Proof.Machine.execSpiIdleHint s
  | .resetEnable => Sys2Proof.Machine.execResetEnable s
  | .spiDoorReset => Sys2Proof.Machine.execSpiDoorReset s
  | .doorNop d tag => Sys2Proof.Machine.execDoorNop d tag s
  | .identify d tag hostIn => Sys2Proof.Machine.execIdentify d tag hostIn s
  | .getStatus d tag => Sys2Proof.Machine.execGetStatus d tag s
  | .doorClaim d tag => Sys2Proof.Machine.execDoorClaim d tag s
  | .doorRelease d tag => Sys2Proof.Machine.execDoorRelease d tag s
  | .idleSetup d tag => Sys2Proof.Machine.execIdleSetup d tag s
  | .stockSet d tag hostIn => Sys2Proof.Machine.execStockSet d tag hostIn s
  | .stockGet d tag => Sys2Proof.Machine.execStockGet d tag s
  | .stockCheck d tag => Sys2Proof.Machine.execStockCheck d tag s
  | .stockCheckEnd d tag => Sys2Proof.Machine.execStockCheckEnd d tag s
  | .stockApply d tag => Sys2Proof.Machine.execStockApply d tag s
  | .stockDiscard d tag => Sys2Proof.Machine.execStockDiscard d tag s
  | .shadowLoaded => Sys2Proof.Machine.execShadowLoaded s
  | .applyReleaseTime => Sys2Proof.Machine.execApplyReleaseTime s
  | .epochBoundary => Sys2Proof.Machine.execEpochBoundary s
  | .portLanesSet q signal cdr => Sys2Proof.Machine.execPortLanesSet q signal cdr s
  | .signalChange q signal cdr => Sys2Proof.Machine.execSignalChange q signal cdr s
  | .lockLoss q signal cdr => Sys2Proof.Machine.execLockLoss q signal cdr s
  | .remoteFaultRx q => Sys2Proof.Machine.execRemoteFaultRx q s
  | .portUp q => Sys2Proof.Machine.execPortUp q s
  | .frameAdmit fs => Sys2Proof.Machine.execFrameAdmit fs s
  | .macFrameEnd q => Sys2Proof.Machine.execMacFrameEnd q s
  | .wireCheck dir => Sys2Proof.Machine.execWireCheck dir s
  | .couchDeal dir => Sys2Proof.Machine.execCouchDeal dir s
  | .pressDone lane felt => Sys2Proof.Machine.execPressDone lane felt s
  | .dryerRelease q => Sys2Proof.Machine.execDryerRelease q s
  | .egressSelect q => Sys2Proof.Machine.execEgressSelect q s
  | .reelStart q felt => Sys2Proof.Machine.execReelStart q felt s
  | .frameTxEnd q => Sys2Proof.Machine.execFrameTxEnd q s
  | .feltScrub felt => Sys2Proof.Machine.execFeltScrub felt s
  | .laneServiceRemove tag => Sys2Proof.Machine.execLaneServiceRemove tag s
  | .laneServiceRestore tag => Sys2Proof.Machine.execLaneServiceRestore tag s
  | .laneDrained lane => Sys2Proof.Machine.execLaneDrained lane s
  | .laneKatDone lane pass => Sys2Proof.Machine.execLaneKatDone lane pass s
  | .calenderSlot x => Sys2Proof.Machine.execCalenderSlot x s
  | .cellReceive d => Sys2Proof.Machine.execCellReceive d s
  | .syncTimeout d => Sys2Proof.Machine.execSyncTimeout d s
  | .holdExpire d => Sys2Proof.Machine.execHoldExpire d s
  | .calRelease d => Sys2Proof.Machine.execCalRelease d s
  | .saLoad d tag hostIn => Sys2Proof.Machine.execSaLoad d tag hostIn s
  | .saRetireNext d tag => Sys2Proof.Machine.execSaRetireNext d tag s
  | .saRetireAll d tag => Sys2Proof.Machine.execSaRetireAll d tag s
  | .saQuery d tag => Sys2Proof.Machine.execSaQuery d tag s
  | .zeroiseChannel d tag => Sys2Proof.Machine.execZeroiseChannel d tag s
  | .zeroiseOwned d tag => Sys2Proof.Machine.execZeroiseOwned d tag s
  | .zeroiseKe d tag => Sys2Proof.Machine.execZeroiseKe d tag s
  | .zeroiseDevice d tag => Sys2Proof.Machine.execZeroiseDevice d tag s
  | .keyDrainEmpty c => Sys2Proof.Machine.execKeyDrainEmpty c s
  | .rxGraceEnd c => Sys2Proof.Machine.execRxGraceEnd c s
  | .keOpen d tag => Sys2Proof.Machine.execKeOpen d tag s
  | .keStatus d tag => Sys2Proof.Machine.execKeStatus d tag s
  | .ecKeygen d tag => Sys2Proof.Machine.execEcKeygen d tag s
  | .ecDh d tag hostIn => Sys2Proof.Machine.execEcDh d tag hostIn s
  | .kemKeygen d tag => Sys2Proof.Machine.execKemKeygen d tag s
  | .kemEncaps d tag hostIn => Sys2Proof.Machine.execKemEncaps d tag hostIn s
  | .kemDecaps d tag hostIn => Sys2Proof.Machine.execKemDecaps d tag hostIn s
  | .transcript d tag hostIn => Sys2Proof.Machine.execTranscript d tag hostIn s
  | .derive d tag hostIn => Sys2Proof.Machine.execDerive d tag hostIn s
  | .sign d tag => Sys2Proof.Machine.execSign d tag s
  | .sha384 d tag hostIn => Sys2Proof.Machine.execSha384 d tag hostIn s
  | .ecdsaVerify d tag hostIn => Sys2Proof.Machine.execEcdsaVerify d tag hostIn s
  | .mldsaVerify d tag hostIn => Sys2Proof.Machine.execMldsaVerify d tag hostIn s
  | .vaultKeygen d tag => Sys2Proof.Machine.execVaultKeygen d tag s
  | .vaultWrap d tag => Sys2Proof.Machine.execVaultWrap d tag s
  | .msgSend d tag hostIn => Sys2Proof.Machine.execMsgSend d tag hostIn s
  | .msgRecv d tag => Sys2Proof.Machine.execMsgRecv d tag s
  | .keClose d tag hostIn => Sys2Proof.Machine.execKeClose d tag hostIn s
  | .keyeOpDone u => Sys2Proof.Machine.execKeyeOpDone u s
  | .keTimeout k => Sys2Proof.Machine.execKeTimeout k s
  | .faultDetected f => Sys2Proof.Machine.execFaultDetected f s
  | .stageWatchdog dir slot => Sys2Proof.Machine.execStageWatchdog dir slot s
  | .recoveryEnd => Sys2Proof.Machine.execRecoveryEnd s
  | .storeRead d tag => Sys2Proof.Machine.execStoreRead d tag s
  | .storeWrite d tag hostIn => Sys2Proof.Machine.execStoreWrite d tag hostIn s
  | .storeErase d tag => Sys2Proof.Machine.execStoreErase d tag s
  | .logAppend d tag hostIn => Sys2Proof.Machine.execLogAppend d tag hostIn s
  | .logRead d tag => Sys2Proof.Machine.execLogRead d tag s
  | .logTrim d tag => Sys2Proof.Machine.execLogTrim d tag s
  | .reamInfo d tag => Sys2Proof.Machine.execReamInfo d tag s
  | .storeFormat d tag => Sys2Proof.Machine.execStoreFormat d tag s
  | .vatOpDone r => Sys2Proof.Machine.execVatOpDone r s
  | .retentionPatrol r => Sys2Proof.Machine.execRetentionPatrol r s
  | .backgroundRelocate r => Sys2Proof.Machine.execBackgroundRelocate r s
  | .staticLevelling => Sys2Proof.Machine.execStaticLevelling s
  | .vatIfReq v => Sys2Proof.Machine.execVatIfReq v s
  | .portStats d tag => Sys2Proof.Machine.execPortStats d tag s
  | .chanStats d tag => Sys2Proof.Machine.execChanStats d tag s
  | .counterClear d tag => Sys2Proof.Machine.execCounterClear d tag s
  | .telSubscribe d tag => Sys2Proof.Machine.execTelSubscribe d tag s
  | .telemetryPeriod d => Sys2Proof.Machine.execTelemetryPeriod d s
  | .moduleXfer d tag hostIn => Sys2Proof.Machine.execModuleXfer d tag hostIn s
  | .i2cTransactionDone n r => Sys2Proof.Machine.execI2cTransactionDone n r s
  | .i2cBusTimeout n count data => Sys2Proof.Machine.execI2cBusTimeout n count data s
  | .panelPost d tag hostIn => Sys2Proof.Machine.execPanelPost d tag hostIn s
  | .audioStream d tag hostIn => Sys2Proof.Machine.execAudioStream d tag hostIn s
  | .grantSet tag => Sys2Proof.Machine.execGrantSet tag s
  | .ownerSet tag => Sys2Proof.Machine.execOwnerSet tag s
  | .moduleAssign tag => Sys2Proof.Machine.execModuleAssign tag s
  | .kAdd dd a b => Sys2Proof.Machine.execKAdd dd a b s
  | .kAddc dd a b => Sys2Proof.Machine.execKAddc dd a b s
  | .kSub dd a b => Sys2Proof.Machine.execKSub dd a b s
  | .kSubc dd a b => Sys2Proof.Machine.execKSubc dd a b s
  | .kAnd dd a b => Sys2Proof.Machine.execKAnd dd a b s
  | .kOr dd a b => Sys2Proof.Machine.execKOr dd a b s
  | .kXor dd a b => Sys2Proof.Machine.execKXor dd a b s
  | .kAndn dd a b => Sys2Proof.Machine.execKAndn dd a b s
  | .kCmp a b => Sys2Proof.Machine.execKCmp a b s
  | .kTst a b => Sys2Proof.Machine.execKTst a b s
  | .kMov dd a => Sys2Proof.Machine.execKMov dd a s
  | .kNot dd a => Sys2Proof.Machine.execKNot dd a s
  | .kNeg dd a => Sys2Proof.Machine.execKNeg dd a s
  | .kMin dd a b => Sys2Proof.Machine.execKMin dd a b s
  | .kMax dd a b => Sys2Proof.Machine.execKMax dd a b s
  | .kShl dd a b => Sys2Proof.Machine.execKShl dd a b s
  | .kShr dd a b => Sys2Proof.Machine.execKShr dd a b s
  | .kSar dd a b => Sys2Proof.Machine.execKSar dd a b s
  | .kRor dd a b => Sys2Proof.Machine.execKRor dd a b s
  | .kShli dd a sh => Sys2Proof.Machine.execKShli dd a sh s
  | .kShri dd a sh => Sys2Proof.Machine.execKShri dd a sh s
  | .kSari dd a sh => Sys2Proof.Machine.execKSari dd a sh s
  | .kRori dd a sh => Sys2Proof.Machine.execKRori dd a sh s
  | .kMul dd a b => Sys2Proof.Machine.execKMul dd a b s
  | .kMulh dd a b => Sys2Proof.Machine.execKMulh dd a b s
  | .kMulhu dd a b => Sys2Proof.Machine.execKMulhu dd a b s
  | .kDivu dd a b => Sys2Proof.Machine.execKDivu dd a b s
  | .kDivs dd a b => Sys2Proof.Machine.execKDivs dd a b s
  | .kRemu dd a b => Sys2Proof.Machine.execKRemu dd a b s
  | .kRems dd a b => Sys2Proof.Machine.execKRems dd a b s
  | .kSextb dd a => Sys2Proof.Machine.execKSextb dd a s
  | .kSexth dd a => Sys2Proof.Machine.execKSexth dd a s
  | .kZextb dd a => Sys2Proof.Machine.execKZextb dd a s
  | .kZexth dd a => Sys2Proof.Machine.execKZexth dd a s
  | .kClz dd a => Sys2Proof.Machine.execKClz dd a s
  | .kBswap dd a => Sys2Proof.Machine.execKBswap dd a s
  | .kMinu dd a b => Sys2Proof.Machine.execKMinu dd a b s
  | .kMaxu dd a b => Sys2Proof.Machine.execKMaxu dd a b s
  | .kAddi dd a imm => Sys2Proof.Machine.execKAddi dd a imm s
  | .kAndi dd a imm => Sys2Proof.Machine.execKAndi dd a imm s
  | .kOri dd a imm => Sys2Proof.Machine.execKOri dd a imm s
  | .kXori dd a imm => Sys2Proof.Machine.execKXori dd a imm s
  | .kCmpi a imm => Sys2Proof.Machine.execKCmpi a imm s
  | .kMovi dd imm => Sys2Proof.Machine.execKMovi dd imm s
  | .kMovhi dd imm => Sys2Proof.Machine.execKMovhi dd imm s
  | .kLea an am imm => Sys2Proof.Machine.execKLea an am imm s
  | .kMova an dm => Sys2Proof.Machine.execKMova an dm s
  | .kMovd dm am => Sys2Proof.Machine.execKMovd dm am s
  | .kAdda an am dm => Sys2Proof.Machine.execKAdda an am dm s
  | .kSuba an am dm => Sys2Proof.Machine.execKSuba an am dm s
  | .kCmpa an am => Sys2Proof.Machine.execKCmpa an am s
  | .kMovaa an am => Sys2Proof.Machine.execKMovaa an am s
  | .kAddas an am dm => Sys2Proof.Machine.execKAddas an am dm s
  | .kLeapc an imm => Sys2Proof.Machine.execKLeapc an imm s
  | .kLdW dt ea met => Sys2Proof.Machine.execKLdW dt ea met s
  | .kLdH dt ea met => Sys2Proof.Machine.execKLdH dt ea met s
  | .kLdHu dt ea met => Sys2Proof.Machine.execKLdHu dt ea met s
  | .kLdB dt ea met => Sys2Proof.Machine.execKLdB dt ea met s
  | .kLdBu dt ea met => Sys2Proof.Machine.execKLdBu dt ea met s
  | .kStW dt ea => Sys2Proof.Machine.execKStW dt ea s
  | .kStH dt ea => Sys2Proof.Machine.execKStH dt ea s
  | .kStB dt ea => Sys2Proof.Machine.execKStB dt ea s
  | .kLda ar ea met => Sys2Proof.Machine.execKLda ar ea met s
  | .kSta ar ea => Sys2Proof.Machine.execKSta ar ea s
  | .kBcc cond disp => Sys2Proof.Machine.execKBcc cond disp s
  | .kBal disp => Sys2Proof.Machine.execKBal disp s
  | .kCall disp => Sys2Proof.Machine.execKCall disp s
  | .kJmp an => Sys2Proof.Machine.execKJmp an s
  | .kCallr an => Sys2Proof.Machine.execKCallr an s
  | .kBalr an => Sys2Proof.Machine.execKBalr an s
  | .kJlk => Sys2Proof.Machine.execKJlk s
  | .kPush r => Sys2Proof.Machine.execKPush r s
  | .kPop r => Sys2Proof.Machine.execKPop r s
  | .kTbs disp b => Sys2Proof.Machine.execKTbs disp b s
  | .kTbc disp b => Sys2Proof.Machine.execKTbc disp b s
  | .kTbsc disp b => Sys2Proof.Machine.execKTbsc disp b s
  | .kTbcs disp b => Sys2Proof.Machine.execKTbcs disp b s
  | .kBset b => Sys2Proof.Machine.execKBset b s
  | .kBclr b => Sys2Proof.Machine.execKBclr b s
  | .kBflip b => Sys2Proof.Machine.execKBflip b s
  | .kBld b => Sys2Proof.Machine.execKBld b s
  | .kBst b => Sys2Proof.Machine.execKBst b s
  | .kBand b => Sys2Proof.Machine.execKBand b s
  | .kBor b => Sys2Proof.Machine.execKBor b s
  | .kBxor b => Sys2Proof.Machine.execKBxor b s
  | .kCset => Sys2Proof.Machine.execKCset s
  | .kCclr => Sys2Proof.Machine.execKCclr s
  | .kCflip => Sys2Proof.Machine.execKCflip s
  | .kMac ac a b h1 h2 => Sys2Proof.Machine.execKMac ac a b h1 h2 s
  | .kMsu ac a b h1 h2 => Sys2Proof.Machine.execKMsu ac a b h1 h2 s
  | .kMpy ac a b h1 h2 => Sys2Proof.Machine.execKMpy ac a b h1 h2 s
  | .kRdac dd ac sh => Sys2Proof.Machine.execKRdac dd ac sh s
  | .kWrac ac a sh => Sys2Proof.Machine.execKWrac ac a sh s
  | .kClrac ac => Sys2Proof.Machine.execKClrac ac s
  | .kAddac ac acs => Sys2Proof.Machine.execKAddac ac acs s
  | .kNop => Sys2Proof.Machine.execKNop s
  | .kWait => Sys2Proof.Machine.execKWait s
  | .kWaitComplete => Sys2Proof.Machine.execKWaitComplete s
  | .kBrk => Sys2Proof.Machine.execKBrk s
  | .kTrap imm => Sys2Proof.Machine.execKTrap imm s
  | .kReti => Sys2Proof.Machine.execKReti s
  | .kRet => Sys2Proof.Machine.execKRet s
  | .kEi => Sys2Proof.Machine.execKEi s
  | .kDi => Sys2Proof.Machine.execKDi s
  | .kChkpt => Sys2Proof.Machine.execKChkpt s
  | .kMfc dd cr => Sys2Proof.Machine.execKMfc dd cr s
  | .kMtc cr a => Sys2Proof.Machine.execKMtc cr a s
  | .kIinv => Sys2Proof.Machine.execKIinv s
  | .kIinvl an => Sys2Proof.Machine.execKIinvl an s
  | .interruptEntry => Sys2Proof.Machine.execInterruptEntry s
  | .gapCheckpoint => Sys2Proof.Machine.execGapCheckpoint s
  | .modeReq v => Sys2Proof.Machine.execModeReq v s
  | .pairKick v => Sys2Proof.Machine.execPairKick v s
  | .wdogWarn => Sys2Proof.Machine.execWdogWarn s
  | .sntWatchdog => Sys2Proof.Machine.execSntWatchdog s
  | .sentinelScrub itcm dtcm sram => Sys2Proof.Machine.execSentinelScrub itcm dtcm sram s
  | .bistDone passA passB boot => Sys2Proof.Machine.execBistDone passA passB boot s
  | .restartZeroDone boot => Sys2Proof.Machine.execRestartZeroDone boot s
  | .extest tdi => Sys2Proof.Machine.execExtest tdi s
  | .samplePreload tdi => Sys2Proof.Machine.execSamplePreload tdi s
  | .idcode tdi => Sys2Proof.Machine.execIdcode tdi s
  | .highz tdi => Sys2Proof.Machine.execHighz tdi s
  | .clamp tdi => Sys2Proof.Machine.execClamp tdi s
  | .bypass tdi => Sys2Proof.Machine.execBypass tdi s
  | .dbgAccess tdi boot => Sys2Proof.Machine.execDbgAccess tdi boot s
  | .tapReset => Sys2Proof.Machine.execTapReset s
  | .busRead addr => Sys2Proof.Machine.execBusRead addr s
  | .busWrite addr data => Sys2Proof.Machine.execBusWrite addr data s
  | .regRead addr => Sys2Proof.Machine.execRegRead addr s
  | .regWrite addr data => Sys2Proof.Machine.execRegWrite addr data s
  | .dbgHalt => Sys2Proof.Machine.execDbgHalt s
  | .dbgResume boot => Sys2Proof.Machine.execDbgResume boot s
  | .dbgStep => Sys2Proof.Machine.execDbgStep s
  | .setMode data => Sys2Proof.Machine.execSetMode data s
  | .dbgResync => Sys2Proof.Machine.execDbgResync s
  | .dbgBreakpoint addr data => Sys2Proof.Machine.execDbgBreakpoint addr data s
  | .evcClaim t => Sys2Proof.Machine.execEvcClaim t s
  | .evcComplete t v => Sys2Proof.Machine.execEvcComplete t v s
  | .swset v => Sys2Proof.Machine.execSwset v s
  | .swclr v => Sys2Proof.Machine.execSwclr v s
  | .xtalStart => Sys2Proof.Machine.execXtalStart s
  | .xtalFail => Sys2Proof.Machine.execXtalFail s
  | .loftWriteApply => Sys2Proof.Machine.execLoftWriteApply s
  | .rtcSecond => Sys2Proof.Machine.execRtcSecond s
  | .rtcSet sec => Sys2Proof.Machine.execRtcSet sec s
  | .rtcSubRead => Sys2Proof.Machine.execRtcSubRead s
  | .tamperEdge n rising => Sys2Proof.Machine.execTamperEdge n rising s
  | .pwrbtnEdge => Sys2Proof.Machine.execPwrbtnEdge s
  | .tamperSample n level => Sys2Proof.Machine.execTamperSample n level s
  | .pwrbtnPress pressed => Sys2Proof.Machine.execPwrbtnPress pressed s
  | .pwrbtnLong => Sys2Proof.Machine.execPwrbtnLong s
  | .forcedOff => Sys2Proof.Machine.execForcedOff s
  | .timerEn v => Sys2Proof.Machine.execTimerEn v s
  | .timerGo v => Sys2Proof.Machine.execTimerGo v s
  | .timerStop v => Sys2Proof.Machine.execTimerStop v s
  | .timerCount ev => Sys2Proof.Machine.execTimerCount ev s
  | .timerCountRead n => Sys2Proof.Machine.execTimerCountRead n s
  | .rasterStart => Sys2Proof.Machine.execRasterStart s
  | .lineStart times => Sys2Proof.Machine.execLineStart times s
  | .activeEnd => Sys2Proof.Machine.execActiveEnd s
  | .lsEntryWrite => Sys2Proof.Machine.execLsEntryWrite s
  | .sealKick v => Sys2Proof.Machine.execSealKick v s
  | .dandyDone => Sys2Proof.Machine.execDandyDone s
  | .bltGo v => Sys2Proof.Machine.execBltGo v s
  | .bltJobStart => Sys2Proof.Machine.execBltJobStart s
  | .bltJobDone u => Sys2Proof.Machine.execBltJobDone u s
  | .sampleBoundary => Sys2Proof.Machine.execSampleBoundary s
  | .voiceKey n v => Sys2Proof.Machine.execVoiceKey n v s
  | .prst n v => Sys2Proof.Machine.execPrst n v s
  | .spRun v => Sys2Proof.Machine.execSpRun v s
  | .eqCommit k v => Sys2Proof.Machine.execEqCommit k v s
  | .eqClr k v => Sys2Proof.Machine.execEqClr k v s
  | .fanTableEval => Sys2Proof.Machine.execFanTableEval s
  | .tachEdge n => Sys2Proof.Machine.execTachEdge n s
  | .fanFault n => Sys2Proof.Machine.execFanFault n s
  | .manual v => Sys2Proof.Machine.execManual v s
  | .fanKick v => Sys2Proof.Machine.execFanKick v s
  | .fanTakeover => Sys2Proof.Machine.execFanTakeover s
  | .hallChange code => Sys2Proof.Machine.execHallChange code s
  | .fan3Trip => Sys2Proof.Machine.execFan3Trip s
  | .f3TripRelease => Sys2Proof.Machine.execF3TripRelease s
  | .f3Clr => Sys2Proof.Machine.execF3Clr s
  | .f3Arm => Sys2Proof.Machine.execF3Arm s
  | .f3Disarm => Sys2Proof.Machine.execF3Disarm s
  | .inputResolved pin high => Sys2Proof.Machine.execInputResolved pin high s
  | .gpioEdge n rising => Sys2Proof.Machine.execGpioEdge n rising s
  | .outset b v => Sys2Proof.Machine.execOutset b v s
  | .outclr b v => Sys2Proof.Machine.execOutclr b v s
  | .lockSequence b v => Sys2Proof.Machine.execLockSequence b v s
  | .counterLatchRead a => Sys2Proof.Machine.execCounterLatchRead a s
  | .rcRead who a => Sys2Proof.Machine.execRcRead who a s
  | .registerWrite who a v => Sys2Proof.Machine.execRegisterWrite who a v s
  | .vddAonRemoval => Sys2Proof.Machine.execVddAonRemoval s
  | .keyAging c => Sys2Proof.Machine.execKeyAging c s
  | .pwmPeriodStart => Sys2Proof.Machine.execPwmPeriodStart s

end Sys2Proof.Machine
end

