-- ==== Sys2Proof/Machine/Tick.lean ====
section
/-! DEFINITION. One FCLK cycle, which an empty queue lets pass: the yielding clocks' positions and removed cycles, the core's
CYCLE, the epoch counter (R18, R32, R33, R88, R281). -/

namespace Sys2Proof.Machine

/-- Is a yielding clock's cycle at a position removed, `n` in 8 cycles being removed (R32)? -/
def cycleRemoved (n pos : Nat) : Bool :=
  match n with
  | 0 => false
  | 1 => pos == 7
  | 2 => pos == 3 || pos == 7
  | _ => pos % 2 == 1

/-- Cycles in 8 that the compositor's FCLK loses: the larger of throttling and droop (Table 2-10, R33). -/
def fclkLost (s : State) : Nat :=
  if s.clk.droop then 4 else match s.clk.throttle with | 0 => 0 | 1 => 1 | 2 => 2 | _ => 4

/-- Cycles in 8 that SCLK loses. -/
def sclkLost (s : State) : Nat := if s.clk.droop then 4 else if s.clk.throttle = 3 then 2 else 0

/-- One more removed cycle in a count of CLK. -/
def countLost (o : Nat) (s : State) : State := incReg (clkBase + o) s

/-- An FCLK cycle of the compositor and the Blitter. -/
def tickFclk (s : State) : State :=
  let s1 := if cycleRemoved (fclkLost s) s.clk.fpos then countLost 0x020 s else s
  modClk (fun c => { c with fpos := (c.fpos + 1) % 8 }) s1

/-- A delivered SCLK cycle counts in the cores' CYCLE; in NAP their clock is gated (R29). -/
def countCycle (s : State) : State :=
  if s.clk.pstate = .nap then s
  else
    let f := fun (c : Core) => { c with cycle := (c.cycle + 1) % 2 ^ 64 }
    modPair (fun p => { p with chk := p.chk.map f }) (modCore f s)

/-- Half of an SCLK cycle; its first half decides whether it is delivered. A delivered cycle takes the oldest word of the write
buffers (DESIGN CHOICE, entry 56). -/
def tickSclk (s : State) : State :=
  if s.clk.sphase = 0 then
    let s1 := if cycleRemoved (sclkLost s) s.clk.spos then countLost 0x024 s
      else modPair (fun p => { p with wbuf := p.wbuf.drop 1 }) (countCycle s)
    modClk (fun c => { c with sphase := 1 }) s1
  else modClk (fun c => { c with sphase := 0, spos := (c.spos + 1) % 8 }) s

/-- The epoch counter runs to its last value; the wrap is the boundary's. -/
def tickEpoch (s : State) : State :=
  { s with epoch := { s.epoch with count := min (s.epoch.count + 2) (2 ^ s.epoch.k - 1) } }

/-- One FCLK cycle outside a reset. -/
def tick (s : State) : State := live s fun s => tickEpoch (tickSclk (tickFclk s))

end Sys2Proof.Machine
end

