-- ==== Sys2Proof/Safety.lean ====
section
/-! DEFINITION. What counts as safe: the canonical form of memory, a core that stands as the manual allows, and runs that
meet no fault. -/

namespace Sys2Proof.Machine

/-- The canonical form of memory: addresses strictly rising, no byte listed that equals what an unlisted address reads
as. -/
def Memory.wf (m : List Host.Cell) : Bool := tableWf 0#8 0 m

/-- A core register set as the manual allows it: PC and STKLIM multiples of 4, reserved bits of STAT, VBASE and CCTL 0
(R259, R260, R274, R281). -/
def Core.wf (c : Core) : Bool :=
  c.pc.toNat % 4 == 0 && statMask c.stat == c.stat && c.vbase.toNat % 128 == 0 && c.stklim.toNat % 4 == 0
    && decide (c.cctl.toNat < 4)

/-- Every form that a step keeps: memory and the doors' table are canonical, every copy of the core stands as the manual
allows, the boundary register has its 311 cells (R25, R259, R260, R428). -/
def State.wf (s : State) : Bool :=
  Memory.wf s.mem && s.core.wf && s.pair.commit.wf && (match s.pair.chk with | some c => c.wf | none => true)
    && decide (s.tap.bsr.length = 311) && tableWf {} 0 s.doors

/-- A safe outcome: the machine goes on. -/
def isNext (o : Host.Outcome State Fault Refusal) : Bool :=
  match o with
  | .next _ => true
  | .fault _ => false
  | .refused _ => false

end Sys2Proof.Machine
end

