-- ==== Sys2Proof/WellFormed.lean ====
section
/-! DEFINITION. Which commands are well formed: those whose operands the manual's encodings and formats can spell. Every
meaning is total all the same: an ill-formed Karpol instruction raises UNDEF. -/

namespace Sys2Proof

/-- A readable addressing mode (Table 13-4). -/
def AMode.wellFormed (m : AMode) : Bool := m != .reserved

/-- A mount's answer: an absence reason that the parameter page does not show (R217), or the page. -/
def MountAnswer.wellFormed (m : MountAnswer) : Bool :=
  match m with
  | .absent r => [1, 2, 3, 6].contains r.val
  | .found _ => true

/-- Is a command well formed? -/
def wellFormed (i : Instr) : Bool :=
  match i with
  | .kBcc cond _ => cond.val != 15
  | .kPush r => decide (r.val ≤ 25)
  | .kPop r => decide (r.val ≤ 25)
  | .kWrac _ _ sh => decide (sh.val ≤ 24)
  | .kMfc _ cr => decide (cr.toNat ≤ 7)
  | .kMtc cr _ => decide (cr.toNat ≤ 7)
  | .kLdW _ ea _ => ea.wellFormed
  | .kLdH _ ea _ => ea.wellFormed
  | .kLdHu _ ea _ => ea.wellFormed
  | .kLdB _ ea _ => ea.wellFormed
  | .kLdBu _ ea _ => ea.wellFormed
  | .kStW _ ea => ea.wellFormed
  | .kStH _ ea => ea.wellFormed
  | .kStB _ ea => ea.wellFormed
  | .kLda _ ea _ => ea.wellFormed
  | .kSta _ ea => ea.wellFormed
  | .commandPacket ps => (ps.all fun p => p.2.length == 64) && decide (ps.map fun p => p.1).Nodup
  | .telemetrySample temps rails => temps.length == 6 && rails.length == 8
  | .vatMountDone a _ => a.wellFormed
  | .vatOpDone r => r.errs.all fun e => decide (e.cw < 16) && (e.first ++ e.again).all fun b => decide (b < 9232)
  | _ => true

end Sys2Proof
end

