-- ==== Sys2Proof/Certificates/Slice0/Obligations.lean ====
section
/-! DEFINITION. The statements for the provers, and the words of the manual they are stated in. -/

namespace Sys2Proof.Spec

open Sys2Proof.Machine

/-! Karpol: an instruction of the main copy. -/

/-- The main copy executes the instruction at its PC: the sentinel runs outside a reset, no interrupt and no implicit
checkpoint is due first, no breakpoint stands there, the PC can be fetched from, and the pair is in Tight mode or in Solo. -/
structure Runs (s : State) : Prop where
  held : s.clk.held = false
  undef : s.undef = false
  ready : kReady s = true
  bp : atBp s = false
  fetch : fetchFault s.core.pc.toNat = none
  mode : s.pair.mode = 0 ∨ s.pair.mode = 2
  main : s.pair.asChk = false

/-- The state in which the instruction has been fetched: a line of the I-cache may be filled, and what held interrupts or a
breakpoint off for one instruction no longer does (R263, R278, R301). -/
def fetched (s : State) : State :=
  icacheFill s.core.pc.toNat (modCore (fun c => { c with shadow := false }) (modPair (fun p => { p with skip := false }) s))

/-- `x` with the core the instruction leaves, which in Tight mode and in Solo is the commit set too (R289). -/
def retired (x : State) (c : Core) : State := { x with core := c, pair := { x.pair with commit := c } }

/-- As `Runs`, in Loose mode, with room in the replay queue (R288). -/
structure RunsLoose (s : State) : Prop where
  held : s.clk.held = false
  undef : s.undef = false
  ready : kReady s = true
  bp : atBp s = false
  fetch : fetchFault s.core.pc.toNat = none
  mode : s.pair.mode = 1
  main : s.pair.asChk = false
  room : s.pair.queue.length ≤ 253

/-- As `fetched`, where the fetch's address is one of the outputs that the main copy's signature takes (R289). -/
def looseFetched (s : State) : State :=
  icacheFill s.core.pc.toNat
    (outFetch s.core.pc (modCore (fun c => { c with shadow := false }) (modPair (fun p => { p with skip := false }) s)))

/-- `x` with the core the instruction leaves in Loose mode: one more instruction counts since the checkpoint, the checker has
one more to execute, and it follows as far as it comes (R288–R290). -/
def looseRetired (x : State) (c : Core) : State :=
  chkRun { x with core := c, pair := { x.pair with
    since := x.pair.since + 1, issued := x.pair.issued + 1, lag := x.pair.lag + 1 } }

/-- The core after an instruction that goes on to the next. -/
def next (s : State) : Core := { s.core with pc := s.core.pc + 4#32, shadow := false }

/-- `next s` with another register D[i], A[i], accumulator or STAT. -/
def nextD (s : State) (i : Fin 16) (v : Word) : Core := { next s with d := tset 0#32 s.core.d i.val v }
def nextA (s : State) (i : Fin 8) (v : Word) : Core := { next s with a := tset 0#32 s.core.a i.val v }
def nextAcc (s : State) (i : Fin 4) (v : Int) : Core := { next s with ac := tset 0 s.core.ac i.val v }

/-- STAT with flags changed; `none` leaves a flag as it is (Table 13-2). -/
def put (i : Nat) (b : Option Bool) (st : Word) : Word := match b with | some x => wsetBit st i x | none => st
def flags (st : Word) (c z n v : Option Bool) : Word := put 3 v (put 0 c (put 2 n (put 1 z st)))

/-- A 32-bit result with Z and N, its other flags as given (Table 13-8). -/
def result (st r : Word) (c v : Option Bool) : Word × Word := (r, flags st c (some (r == 0#32)) (some r.msb) v)

def sum (st a b : Word) (c : Nat) : Word × Word :=
  result st (a + b + w32 c) (some (decide (2 ^ 32 ≤ a.toNat + b.toNat + c)))
    (some (decide ((a + b + w32 c).toInt ≠ a.toInt + b.toInt + (c : Int))))
def diff (st a b : Word) (c : Nat) : Word × Word :=
  result st (a - b - w32 c) (some (decide (a.toNat < b.toNat + c)))
    (some (decide ((a - b - w32 c).toInt ≠ a.toInt - b.toInt - (c : Int))))
/-- V = 0, C unchanged. -/
def logic (st r : Word) : Word × Word := result st r none (some false)
/-- V and C unchanged. -/
def zn (st r : Word) : Word × Word := result st r none none
/-- C is the last bit shifted out; a count of 0 leaves it. -/
def shift (st r : Word) (last : Bool) (n : Nat) : Word × Word :=
  result st r (if n = 0 then none else some last) (some false)
/-- V shows a divide by zero or an overflow; C unchanged. -/
def division (st r : Word) (v : Bool) : Word × Word := result st r none (some v)

/-- The result of an instruction that writes D[dd] and the flags (Tables 13-10, 13-11): dd, the result and STAT. -/
def alu (s : State) : Instr → Option (Fin 16 × Word × Word)
  | .kAdd dd a b => some (dd, sum s.core.stat (dreg s a) (dreg s b) 0)
  | .kAddc dd a b => some (dd, sum s.core.stat (dreg s a) (dreg s b) (b2n (wbit s.core.stat 0)))
  | .kSub dd a b => some (dd, diff s.core.stat (dreg s a) (dreg s b) 0)
  | .kSubc dd a b => some (dd, diff s.core.stat (dreg s a) (dreg s b) (b2n (wbit s.core.stat 0)))
  | .kNeg dd a => some (dd, diff s.core.stat 0#32 (dreg s a) 0)
  | .kAddi dd a imm => some (dd, sum s.core.stat (dreg s a) (imm.signExtend 32) 0)
  | .kAnd dd a b => some (dd, logic s.core.stat (dreg s a &&& dreg s b))
  | .kOr dd a b => some (dd, logic s.core.stat (dreg s a ||| dreg s b))
  | .kXor dd a b => some (dd, logic s.core.stat (dreg s a ^^^ dreg s b))
  | .kAndn dd a b => some (dd, logic s.core.stat (dreg s a &&& ~~~(dreg s b)))
  | .kNot dd a => some (dd, logic s.core.stat (~~~(dreg s a)))
  | .kAndi dd a imm => some (dd, logic s.core.stat (dreg s a &&& imm.setWidth 32))
  | .kOri dd a imm => some (dd, logic s.core.stat (dreg s a ||| imm.setWidth 32))
  | .kXori dd a imm => some (dd, logic s.core.stat (dreg s a ^^^ imm.setWidth 32))
  | .kMin dd a b => some (dd, zn s.core.stat (if (dreg s a).toInt ≤ (dreg s b).toInt then dreg s a else dreg s b))
  | .kMax dd a b => some (dd, zn s.core.stat (if (dreg s a).toInt ≤ (dreg s b).toInt then dreg s b else dreg s a))
  | .kMinu dd a b => some (dd, zn s.core.stat (if (dreg s a).toNat ≤ (dreg s b).toNat then dreg s a else dreg s b))
  | .kMaxu dd a b => some (dd, zn s.core.stat (if (dreg s a).toNat ≤ (dreg s b).toNat then dreg s b else dreg s a))
  | .kSextb dd a => some (dd, zn s.core.stat (((dreg s a).setWidth 8).signExtend 32))
  | .kSexth dd a => some (dd, zn s.core.stat (((dreg s a).setWidth 16).signExtend 32))
  | .kZextb dd a => some (dd, zn s.core.stat (dreg s a &&& 0xFF#32))
  | .kZexth dd a => some (dd, zn s.core.stat (dreg s a &&& 0xFFFF#32))
  | .kClz dd a => some (dd, zn s.core.stat (w32 (clz (dreg s a))))
  | .kBswap dd a => some (dd, zn s.core.stat (bswap (dreg s a)))
  | .kShl dd a b =>
    let n := (dreg s b).toNat % 32
    some (dd, shift s.core.stat (dreg s a <<< n) (wbit (dreg s a) (32 - n)) n)
  | .kShr dd a b =>
    let n := (dreg s b).toNat % 32
    some (dd, shift s.core.stat (dreg s a >>> n) (wbit (dreg s a) (n - 1)) n)
  | .kSar dd a b =>
    let n := (dreg s b).toNat % 32
    some (dd, shift s.core.stat ((dreg s a).sshiftRight n) (wbit (dreg s a) (n - 1)) n)
  | .kRor dd a b =>
    let n := (dreg s b).toNat % 32
    some (dd, shift s.core.stat ((dreg s a).rotateRight n) (wbit (dreg s a) (n - 1)) n)
  | .kShli dd a n => some (dd, shift s.core.stat (dreg s a <<< n.val) (wbit (dreg s a) (32 - n.val)) n.val)
  | .kShri dd a n => some (dd, shift s.core.stat (dreg s a >>> n.val) (wbit (dreg s a) (n.val - 1)) n.val)
  | .kSari dd a n => some (dd, shift s.core.stat ((dreg s a).sshiftRight n.val) (wbit (dreg s a) (n.val - 1)) n.val)
  | .kRori dd a n => some (dd, shift s.core.stat ((dreg s a).rotateRight n.val) (wbit (dreg s a) (n.val - 1)) n.val)
  | .kMul dd a b => some (dd, zn s.core.stat (dreg s a * dreg s b))
  | .kMulh dd a b =>
    some (dd, zn s.core.stat (BitVec.ofInt 32 ((dreg s a).toInt * (dreg s b).toInt / (2 ^ 32 : Nat))))
  | .kMulhu dd a b => some (dd, zn s.core.stat (w32 ((dreg s a).toNat * (dreg s b).toNat / 2 ^ 32)))
  | .kDivu dd a b =>
    some (dd, if dreg s b = 0#32 then division s.core.stat 0xFFFFFFFF#32 true
      else division s.core.stat (dreg s a / dreg s b) false)
  | .kRemu dd a b =>
    some (dd, if dreg s b = 0#32 then division s.core.stat (dreg s a) true
      else division s.core.stat (dreg s a % dreg s b) false)
  | .kDivs dd a b =>
    some (dd, if dreg s b = 0#32 then division s.core.stat 0xFFFFFFFF#32 true
      else if dreg s a = 0x80000000#32 ∧ dreg s b = 0xFFFFFFFF#32 then division s.core.stat 0x80000000#32 true
      else division s.core.stat (BitVec.ofInt 32 ((dreg s a).toInt.tdiv (dreg s b).toInt)) false)
  | .kRems dd a b =>
    some (dd, if dreg s b = 0#32 then division s.core.stat (dreg s a) true
      else if dreg s a = 0x80000000#32 ∧ dreg s b = 0xFFFFFFFF#32 then division s.core.stat 0#32 true
      else division s.core.stat (BitVec.ofInt 32 ((dreg s a).toInt.tmod (dreg s b).toInt)) false)
  | _ => none

/-- STAT after an instruction that only compares (Tables 13-10, 13-11). -/
def compare (s : State) : Instr → Option Word
  | .kCmp a b => some (diff s.core.stat (dreg s a) (dreg s b) 0).2
  | .kCmpi a imm => some (diff s.core.stat (dreg s a) (imm.signExtend 32) 0).2
  | .kTst a b => some (logic s.core.stat (dreg s a &&& dreg s b)).2
  | .kCmpa an am => some (diff s.core.stat (areg s an) (areg s am) 0).2
  | _ => none

/-- The core after an instruction that moves a value or computes an address: no flag changes. -/
def move (s : State) : Instr → Option Core
  | .kMov dd a => some (nextD s dd (dreg s a))
  | .kMovi dd imm => some (nextD s dd (imm.signExtend 32))
  | .kMovhi dd imm => some (nextD s dd (imm ++ (dreg s dd).setWidth 16))
  | .kMovd dm am => some (nextD s dm (areg s am))
  | .kLea an am imm => some (nextA s an (areg s am + imm.signExtend 32))
  | .kMova an dm => some (nextA s an (dreg s dm))
  | .kAdda an am dm => some (nextA s an (areg s am + dreg s dm))
  | .kSuba an am dm => some (nextA s an (areg s am - dreg s dm))
  | .kAddas an am dm => some (nextA s an (areg s am + (dreg s dm <<< 2)))
  | .kMovaa an am => some (nextA s an (areg s am))
  | .kLeapc an imm => some (nextA s an (s.core.pc + imm.signExtend 32))
  | _ => none

/-- STAT with SAT set where a clamp changed a value (R273). -/
def sat (b : Bool) (st : Word) : Word := if b then wsetBit st 4 true else st

/-- The product of two halves of D registers, doubled where FRAC is 1 (R273). -/
def product (s : State) (a b : Fin 16) (h1 h2 : Bool) : Int :=
  half (dreg s a) h1 * half (dreg s b) h2 * (if wbit s.core.stat 5 then 2 else 1)

/-- An accumulator clamped to 56 bits. -/
def clamped (s : State) (ac : Fin 4) (v : Int) : Core :=
  { nextAcc s ac (clampInt (-(2 : Int) ^ 55) ((2 : Int) ^ 55 - 1) v) with
    stat := sat (decide (clampInt (-(2 : Int) ^ 55) ((2 : Int) ^ 55 - 1) v ≠ v)) s.core.stat }

/-- The core after a multiply-accumulate instruction (R273). -/
def mac (s : State) : Instr → Option Core
  | .kMac ac a b h1 h2 => some (clamped s ac (acc s ac + product s a b h1 h2))
  | .kMsu ac a b h1 h2 => some (clamped s ac (acc s ac - product s a b h1 h2))
  | .kMpy ac a b h1 h2 => some (nextAcc s ac (product s a b h1 h2))
  | .kRdac dd ac sh =>
    let v := acc s ac / (2 ^ sh.val : Nat)
    let r := clampInt (-(2 : Int) ^ 31) ((2 : Int) ^ 31 - 1) v
    some { nextD s dd (BitVec.ofInt 32 r) with stat := sat (decide (r ≠ v)) s.core.stat }
  | .kWrac ac a sh => if sh.val ≤ 24 then some (nextAcc s ac ((dreg s a).toInt * (2 ^ sh.val : Nat))) else none
  | .kClrac ac => some (nextAcc s ac 0)
  | .kAddac ac acs => some (clamped s ac (acc s ac + acc s acs))
  | _ => none

/-! Karpol: loads, stores and the stack. -/

/-- The base register after an addressing mode that updates it (Table 13-4). -/
def based (u : Option (Fin 8 × Word)) (c : Core) : Core :=
  match u with
  | some (an, v) => { c with a := tset 0#32 c.a an.val v }
  | none => c

/-- A load: its mode, its width in bytes, what it met, and the value its register takes (R264). -/
def load : Instr → Option (AMode × Nat × LoadMet × (Word → Core → Core))
  | .kLdW dt ea met => some (ea, 4, met, fun v c => { c with d := tset 0#32 c.d dt.val v })
  | .kLdH dt ea met => some (ea, 2, met, fun v c => { c with d := tset 0#32 c.d dt.val ((v.setWidth 16).signExtend 32) })
  | .kLdHu dt ea met => some (ea, 2, met, fun v c => { c with d := tset 0#32 c.d dt.val (v &&& 0xFFFF#32) })
  | .kLdB dt ea met => some (ea, 1, met, fun v c => { c with d := tset 0#32 c.d dt.val ((v.setWidth 8).signExtend 32) })
  | .kLdBu dt ea met => some (ea, 1, met, fun v c => { c with d := tset 0#32 c.d dt.val (v &&& 0xFF#32) })
  | .kLda ar ea met => some (ea, 4, met, fun v c => { c with a := tset 0#32 c.a ar.val v })
  | _ => none

/-- A store: its mode, its width in bytes and the register it stores. -/
def store (s : State) : Instr → Option (AMode × Nat × Word)
  | .kStW dt ea => some (ea, 4, dreg s dt)
  | .kStH dt ea => some (ea, 2, dreg s dt)
  | .kStB dt ea => some (ea, 1, dreg s dt)
  | .kSta ar ea => some (ea, 4, areg s ar)
  | _ => none

/-- The target of a branch: PC + 4 × sext(DISP). -/
def target {n : Nat} (s : State) (d : BitVec n) : Word := s.core.pc + (d.signExtend 32 <<< 2)

/-- What an instruction pushes, and the PC after it (R265, R266). -/
def push (s : State) : Instr → Option (Word × Word)
  | .kPush r =>
    if r.val < 16 then some (tget 0#32 s.core.d r.val, s.core.pc + 4#32)
    else if r.val < 24 then some (tget 0#32 s.core.a (r.val - 16), s.core.pc + 4#32)
    else if r.val = 24 then some (s.core.lk, s.core.pc + 4#32)
    else if r.val = 25 then some (s.core.stat, s.core.pc + 4#32)
    else none
  | .kCall disp => some (s.core.pc + 4#32, target s disp)
  | .kCallr an => if (areg s an).toNat % 4 = 0 then some (s.core.pc + 4#32, areg s an) else none
  | _ => none

/-- The core after a pop of `v`; A7 has come down by 4 before (R265, R266). -/
def pop (s : State) (v : Word) : Instr → Option Core
  | .kPop r =>
    let c := nextA s 7 (areg s 7 - 4#32)
    if r.val < 16 then some { c with d := tset 0#32 c.d r.val v }
    else if r.val < 24 then some { c with a := tset 0#32 c.a (r.val - 16) v }
    else if r.val = 24 then some { c with lk := v }
    else if r.val = 25 then some { c with stat := v &&& 0x1FBF#32, shadow := true }
    else none
  | .kRet => if v.toNat % 4 = 0 then some { nextA s 7 (areg s 7 - 4#32) with pc := v } else none
  | _ => none

/-- An address of on-die memory or ROM, where a read has no side effect. -/
def plain (a : Nat) : Prop := regionOf a ≠ .block ∧ regionOf a ≠ .window

/-! Karpol: flow, bits and system instructions. -/

/-- The conditions of Bcc (Table 13-9). -/
def condition (st : Word) (cond : Nat) : Bool :=
  let c := wbit st 0
  let z := wbit st 1
  let n := wbit st 2
  let v := wbit st 3
  [z, !z, c, !c, n, !n, v, !v, !c && !z, c || z, n == v, n != v, !z && n == v, z || n != v, true].getD cond false

/-- The address a bit instruction names: BIT, or BIT + D[Dm] modulo 4,096 (R267, R268). -/
def bitOf (s : State) : BitRef → Nat
  | .direct n => n.toNat
  | .indexed dm n => ((dreg s dm).toNat + n.toNat) % 4096

/-- The carry becomes a value. -/
def carry (s : State) (b : Bool) : Core := { next s with stat := wsetBit s.core.stat 0 b }

/-- The core after an instruction that reaches no more than the core and reads no more than a bit. -/
def flow (s : State) : Instr → Option Core
  | .kBcc cond disp =>
    if cond.val = 15 then none
    else some { next s with pc := if condition s.core.stat cond.val then target s disp else s.core.pc + 4#32 }
  | .kBal disp => some { next s with lk := s.core.pc + 4#32, pc := target s disp }
  | .kJmp an => if (areg s an).toNat % 4 = 0 then some { next s with pc := areg s an } else none
  | .kBalr an =>
    if (areg s an).toNat % 4 = 0 then some { next s with lk := s.core.pc + 4#32, pc := areg s an } else none
  | .kJlk => if s.core.lk.toNat % 4 = 0 then some { next s with pc := s.core.lk } else none
  | .kTbs disp b => some { next s with pc := if bitRead (fetched s) b.toNat then target s disp else s.core.pc + 4#32 }
  | .kTbc disp b => some { next s with pc := if bitRead (fetched s) b.toNat then s.core.pc + 4#32 else target s disp }
  | .kBld b => some (carry s (bitRead (fetched s) (bitOf s b)))
  | .kBand b => some (carry s (wbit s.core.stat 0 && bitRead (fetched s) (bitOf s b)))
  | .kBor b => some (carry s (wbit s.core.stat 0 || bitRead (fetched s) (bitOf s b)))
  | .kBxor b => some (carry s (wbit s.core.stat 0 != bitRead (fetched s) (bitOf s b)))
  | .kCset => some (carry s true)
  | .kCclr => some (carry s false)
  | .kCflip => some (carry s (!wbit s.core.stat 0))
  | .kNop => some (next s)
  | .kEi => some { next s with stat := wsetBit s.core.stat 7 true, shadow := true }
  | .kDi => some { next s with stat := wsetBit s.core.stat 7 false }
  | _ => none

/-- A bit instruction that writes: the bit's address, its new value, and the PC after it (R268). -/
def bitPut (s : State) : Instr → Option (Nat × Bool × Word)
  | .kBset b => some (bitOf s b, true, s.core.pc + 4#32)
  | .kBclr b => some (bitOf s b, false, s.core.pc + 4#32)
  | .kBflip b => some (bitOf s b, !bitRead (fetched s) (bitOf s b), s.core.pc + 4#32)
  | .kBst b => some (bitOf s b, wbit s.core.stat 0, s.core.pc + 4#32)
  | .kTbsc disp b => if bitRead (fetched s) b.toNat then some (b.toNat, false, target s disp) else none
  | .kTbcs disp b => if bitRead (fetched s) b.toNat then none else some (b.toNat, true, target s disp)
  | _ => none

/-- A bit that is no register bit: general storage, an event's pending or mask bit, or none at all (Table 13-5). -/
def unblocked (b : Nat) : Bool :=
  match bitPlace b with
  | .block _ _ => false
  | _ => true

/-- The control register `cr` of a core (Table 13-13). -/
def control (c : Core) (cr : Nat) : Option Word :=
  match cr with
  | 0 => some c.stat
  | 1 => some c.vbase
  | 2 => some c.stklim
  | 3 => some c.ecause
  | 4 => some c.eaddr
  | 5 => some (w32 c.cycle)
  | 6 => some c.cycleh
  | 7 => some c.cctl
  | _ => none

/-- The core after MTC to a control register: read-only ones and unlisted bits do not change (Table 13-13). -/
def controlled (s : State) (cr : Nat) (v : Word) : Core :=
  match cr with
  | 0 => { next s with stat := v &&& 0x1FBF#32, shadow := true }
  | 1 => { next s with vbase := v &&& 0xFFFFFF80#32 }
  | 2 => { next s with stklim := v &&& 0xFFFFFFFC#32 }
  | 7 => { next s with cctl := v &&& 3#32 }
  | _ => next s

/-! Karpol: exceptions and interrupts (R274–R277). -/

/-- The exception an instruction raises: its vector, its DETAIL and EADDR (Tables 13-13a, 13-14). -/
def trap (s : State) : Instr → Option (Nat × Nat × Word)
  | .kTrap imm => some (4, imm.toNat, s.core.pc)
  | .kBrk => if s.pair.brk then none else some (5, 0, s.core.pc)
  | .kBcc cond _ => if cond.val = 15 then some (1, 0, s.core.pc) else none
  | .kWrac _ _ sh => if 24 < sh.val then some (1, 0, s.core.pc) else none
  | .kMfc _ cr => if 7 < cr.toNat then some (1, 0, s.core.pc) else none
  | .kMtc cr _ => if 7 < cr.toNat then some (1, 0, s.core.pc) else none
  | .kPush r =>
    if 25 < r.val then some (1, 0, s.core.pc)
    else if s.core.stklim.toNat < (areg s 7).toNat + 4 then some (3, 0, s.core.pc) else none
  | .kPop r => if 25 < r.val then some (1, 0, s.core.pc) else none
  | .kCall _ => if s.core.stklim.toNat < (areg s 7).toNat + 4 then some (3, 0, s.core.pc) else none
  | .kCallr _ => if s.core.stklim.toNat < (areg s 7).toNat + 4 then some (3, 0, s.core.pc) else none
  | .kReti => if wbit s.core.stat 12 then none else some (1, 0, s.core.pc)
  | .kJmp an => if (areg s an).toNat % 4 = 0 then none else some (2, 1, areg s an)
  | .kBalr an => if (areg s an).toNat % 4 = 0 then none else some (2, 1, areg s an)
  | .kJlk => if s.core.lk.toNat % 4 = 0 then none else some (2, 1, s.core.lk)
  | i =>
    match load i with
    | some (m, n, _, _) =>
      match eaOf m n s with
      | none => some (1, 0, s.core.pc)
      | some (ea, _) => (accessFault false ea.toNat n).map fun d => (2, d, ea)
    | none =>
      match store s i with
      | some (m, n, _) =>
        match eaOf m n s with
        | none => some (1, 0, s.core.pc)
        | some (ea, _) => (accessFault true ea.toNat n).map fun d => (2, d, ea)
      | none => none

/-- The return address of an exception: TRAP and BREAK return behind the instruction (Table 13-13a). -/
def returns (s : State) (n : Nat) : Word := if n = 4 ∨ n = 5 then s.core.pc + 4#32 else s.core.pc

/-- `x` with a value stored in memory, by way of the write buffer where it goes to sentinel SRAM (R263). -/
def stored (a n v : Nat) (x : State) : State := bufferStore a (agentWrite a (leBytes n v) x)

/-- `x` with STAT and then a return address pushed at A7, which is the caller's A7 (R274). -/
def pushed (x : State) (ret : Word) : State :=
  stored (areg x 7 + 4#32).toNat 4 ret.toNat (stored (areg x 7).toNat 4 x.core.stat.toNat x)

/-- The handler of a vector as memory holds it after the pushes. -/
def handler (x : State) (n : Nat) (ret : Word) : Word :=
  w32 (loadVal (pushed x ret) (x.core.vbase + w32 (4 * n)).toNat 4)

/-- `x` after the pushes and the vector's read. -/
def entered (x : State) (n : Nat) (ret : Word) : State := dcacheLoad (x.core.vbase + w32 (4 * n)).toNat (pushed x ret)

/-- An entry finds its way: both pushes go to memory, the vector is read from memory, and the handler can be fetched from. -/
structure Enters (x : State) (n : Nat) (ret : Word) : Prop where
  first : accessFault true (areg x 7).toNat 4 = none ∧ regionOf (areg x 7).toNat ≠ .block
  second : accessFault true (areg x 7 + 4#32).toNat 4 = none ∧ regionOf (areg x 7 + 4#32).toNat ≠ .block
  vector : accessFault false (x.core.vbase + w32 (4 * n)).toNat 4 = none ∧ plain (x.core.vbase + w32 (4 * n)).toNat
  code : fetchFault (handler x n ret).toNat = none

/-- The core in the handler of an exception: A7 up by 8, handler mode with interrupts off, the cause recorded (R274). -/
def trapped (s : State) (n detail : Nat) (eaddr : Word) : Core :=
  { s.core with
    a := tset 0#32 (tset 0#32 s.core.a 7 (areg s 7 + 4#32)) 7 (areg s 7 + 4#32 + 4#32)
    stat := wsetBit (wsetBit s.core.stat 12 true) 7 false
    ecause := w32 (n + detail * 2 ^ 8)
    eaddr := eaddr
    pc := handler (fetched s) n (returns s n)
    shadow := false }

/-- The core in the handler of an interrupt at level `p`: A7 up by 8, handler mode, IL = p (R276, R277). -/
def interrupted (s : State) (p : Nat) : Core :=
  { s.core with
    a := tset 0#32 (tset 0#32 s.core.a 7 (areg s 7 + 4#32)) 7 (areg s 7 + 4#32 + 4#32)
    stat := wsetFld (wsetBit s.core.stat 12 true) 8 4 p
    pc := handler s (16 + p) s.core.pc
    shadow := false }

/-! The doors: dispatch and final replies. -/

/-- `s` once the Interpreter has dispatched door `d`'s command `tag`: the command runs, the round robin goes on (R77). -/
def taken (s : State) (d tag : Nat) : State :=
  { modCmd d tag (fun c => { c with stage := .running }) s with pool := { s.pool with rr := (d + 1) % 4 } }

/-- The Interpreter dispatches command `c` of door `d`, of a tag and an opcode, now: it is the door's oldest waiting command,
no fence holds it, no ready door stands before it in turn, and no fault state keeps it from being served (R77, R212). -/
structure Takes (s : State) (d tag op : Nat) (c : Cmd) : Prop where
  held : s.clk.held = false
  head : headWaiting (door s d) = some c
  tag : c.tag = tag
  op : c.opcode = op
  sentinel : d = 3 → sentinelRuns s = true
  fence : fenceBlocked (door s d) c = false
  turn : rrReaches s d = true
  served : stateRefuses s d c = false

/-- The data descriptor of a command passes the checks of R242 for `i` bytes of input and at least `o` bytes of output. -/
structure Room (d : Nat) (c : Cmd) (i o : Nat) : Prop where
  ptrs : pointersOk d c.pkt = true
  input : pktInLen c.pkt = i
  output : o ≤ pktOutLen c.pkt

/-- The final reply a command gets (Table 4-6). -/
def reply (s : State) (c : Cmd) (status detail r0 r1 r2 : Nat) (data : Option Bytes) : Reply :=
  { tag := c.tag, status := status, gen := s.fault.gen, opcode := c.opcode, detail := detail, epoch := s.epoch.boundaries
    res0 := r0 % 2 ^ 32, res1 := r1 % 2 ^ 32, res2 := r2 % 2 ^ 32, data := data, quiet := pktQuiet c.pkt, pool := c.pool
    endsCmd := true }

/-- The area of a door's Stock after its entries changed (R84, R86). -/
def restocked (s : State) (d : Nat) (es : Table (Nat × Bytes)) : State :=
  setArea d { area s d with entries := es, passed := false, checkVer := 0, mods := (area s d).mods + 1 } s

/-! The key engine. -/

/-- A command joins the queue of a unit; where others stand before it, it is deferred for the engine (R70, R180). -/
def joined (s : State) (d tag u : Nat) (aux : List Nat) (input : Bytes) : State :=
  let x := setUnit u (unitQueue s u ++ [(d, tag)]) (modCmd d tag (fun c => { c with aux := aux, input := input }) s)
  if unitQueue s u = [] then x else deferCmd d tag 0x11 x

/-- A KE_STEP of operation `op` passes the checks of R242 and its row of Table 12-7, its door may use what it names, and `bs`
is its input. -/
structure StepOk (s : State) (d op : Nat) (c : Cmd) (hostIn : Option Bytes) (bs : Bytes) (r : StepRow) : Prop where
  code : stepOp c = op
  ptrs : pointersOk d c.pkt = true
  row : stepRow op (stepTranscript c) d = some r
  lo : r.inLo ≤ pktInLen c.pkt
  hi : pktInLen c.pkt ≤ r.inHi
  out : r.out ≤ pktOutLen c.pkt
  values : stepValueFault c r = none
  owner : stepBarred s d c r = false
  input : cmdInput s d c hostIn = some bs

/-- What an operation needs in its slot (R182, R183). -/
def present (op : Nat) (x : KeSlot) : Bool :=
  match op with
  | 0x02 => x.ec.isSome
  | 0x05 => x.dk.isSome
  | 0x07 => x.zEc.isSome && x.kPq.isSome
  | _ => true

/-- KE slots whose timeout passed while an operation ran on them are abandoned (R185); what a freed slot held for an operation
that has ended is gone. -/
def expire (s : State) : State :=
  let x := (List.range 16).foldl (fun x k => keExpire k x) s
  { x with keys := { x.keys with closed := x.keys.closed.filter fun y => serialRuns x y.serial } }

/-- A channel loaded by SA_LOAD record `r` with key and salt (R170, R249, Table 9-3). -/
def loaded (s : State) (c : Nat) (r key salt : Bytes) : State :=
  let x := chan s c
  let fresh := bindOf (liveBank s) c == none && x.cur.state == 0 && x.nxt.state == 0
  setChan c { x with
      nxt := { state := 1, kid := s.keys.nextKid, an := byteAt r 5, key := key, salt := salt, ssci := leAt r 8 4,
               lifetime := leAt r 12 4, startPn := leAt r 16 8, pn := leAt r 16 8 }
      lastDir := if fresh then 0 else x.lastDir }
    { s with keys := { s.keys with nextKid := s.keys.nextKid + 1 } }

/-! The paper machine. -/

/-- `s` with the FEC words of a frame counted at its port (Table 6-6). -/
def fecCounted (s : State) (x : RxFrame) : State :=
  if portFec (liveBank s) x.port = 0 then s
  else cntAdd (portCnt x.port 12) x.fecSymbols
    (cntAdd (portCnt x.port 11) x.fecUncorrected (cntAdd (portCnt x.port 10) x.fecCorrected s))

/-- A frame just admitted (R119). -/
def admitted (s : State) (x : RxFrame) (i : Nat) : Sheet :=
  { id := s.mach.nextId, port := x.port, slot := some i, bank := s.stock.active, boundary := s.epoch.boundaries
    count := s.epoch.count, time := nowP s, bytes := x.bytes, coding := x.coding
    maxFrame := portMaxFrame (liveBank s) x.port
    stage := if x.port.val < 8 ∧ mapOf (liveBank s) x.port = none then .unmapped else .headbox }

/-- `s` with frame `f` taken into the paper machine. -/
def takenIn (s : State) (f : Sheet) : State :=
  { s with mach := { s.mach with frames := s.mach.frames ++ [f], nextId := s.mach.nextId + 1 } }

/-- Wire finds that frame `f` is channel `c`'s, toward egress port `e` in class `k`, with `n` bytes to store: by a PROTECT
rule of the policy map, or by the SCI of its SecTAG (R121, R123, R145). -/
def bound (s : State) (f : Sheet) (c e k n : Nat) : Prop :=
  let b := bankOf s f.bank
  (f.port < 8 ∧ ∃ v x, policyHit b f = some v ∧ vb v 11 = 2 ∧ c = vle v 24 2 ∧ bindOf b c = some x ∧ x.dir = 0 ∧
    x.wet = f.port ∧ e = 8 + x.dry ∧ k = x.cls ∧ n = f.bytes.length + 32) ∨
  (8 ≤ f.port ∧ beAt f.bytes 12 2 = 0x88E5 ∧ isCal b (f.port - 8) = false ∧ secTagOk f.bytes = true ∧
    ∃ x, sciLookup b (f.port - 8) (readSecTag f.bytes).sci = some (c, x) ∧ e = x.wet ∧ k = x.cls ∧ n = f.bytes.length)

/-- A discard that waits for the end of the frame's reception (R119). -/
def atEnd (s : State) (f : Sheet) (x : State) : State := if f.ended then x else s

/-- The oldest frame of a stage and a direction. -/
def oldest (s : State) (st : FStage) (dir : Nat) : Option Sheet :=
  s.mach.frames.find? fun f => f.stage == st && frmDir f == dir

/-! The Store. -/

/-- A range of a ream: its size, its offset and its length are multiples of `unit` and it lies in the ream (R222). -/
def InReam (s : State) (c : Cmd) (unit : Nat) : Prop :=
  pLe c.pkt 4 4 % unit = 0 ∧ pLe c.pkt 8 4 % unit = 0 ∧ pLe c.pkt 4 4 + pLe c.pkt 8 4 ≤ reamSectors s (pByte c.pkt 0) * 4096

/-- Door `d`'s Store command `c` passes the checks of its dispatch (Table 12-8); `bs` is its input data. -/
def StoreOk (s : State) (d : Nat) (tag : Nat) (c : Cmd) (hostIn : Option Bytes) (bs : Bytes) : Prop :=
  let r := pByte c.pkt 0
  let n := pLe c.pkt 8 4
  let sized := 4 ≤ n ∧ n ≤ (if d = 2 then 16384 else 1048576)
  findCmd s d tag = some c ∧ match c.opcode with
  | 0x40 => Room d c 0 n ∧ sized ∧ r ∈ [0, 1, 2, 4, 5] ∧ InReam s c 4 ∧ bs = []
  | 0x41 => Room d c n 0 ∧ sized ∧ r ∈ [0, 1, 2, 4, 5] ∧ InReam s c 4096 ∧ cmdInput (taken s d tag) d c hostIn = some bs
  | 0x42 => r ∈ [0, 1, 2, 4, 5] ∧ InReam s c 4096 ∧ bs = [] ∧
      (bitAt (pByte c.pkt 1) 0 = true → d = 3 ∧ r = 2 ∧ pLe c.pkt 4 4 = 0 ∧ n = 262144)
  | 0x43 => pointersOk d c.pkt = true ∧ 1 ≤ pktInLen c.pkt ∧ pktInLen c.pkt ≤ 1024 ∧ r = 3 ∧
      cmdInput (taken s d tag) d c hostIn = some bs
  | 0x44 => Room d c 0 0 ∧ r = 3 ∧ bs = []
  | 0x45 => d = 3 ∧ r = 3 ∧ bs = []
  | 0x46 => Room d c 0 144 ∧ r ≤ 5 ∧ bs = []
  | 0x47 => d = 3 ∧ bs = []
  | _ => False

/-- What a LOG_APPEND keeps of its dispatch: boundary count, RTC and generation (R237). -/
def storeAux (s : State) (c : Cmd) : List Nat :=
  if c.opcode = 0x43 then [s.epoch.boundaries, s.loft.rtcSec, s.fault.gen] else []

/-- `s` with door `d`'s command `tag` in the Vat's queue, as `o`. -/
def inVat (s : State) (d tag : Nat) (c : Cmd) (bs : Bytes) (o : VatOp) : State :=
  let y := modCmd d tag (fun z => { z with input := bs, aux := storeAux s c }) (taken s d tag)
  { y with vat := { y.vat with ops := y.vat.ops ++ [o] } }

/-- The Store has nothing to do and is ready. -/
def StoreIdle (s : State) : Prop := s.vat.st = 3 ∧ s.vat.stopping = false ∧ s.vat.busy = false ∧ s.vat.ops = []

/-- The running command's next NAND operation begins as `f` says, unless it is relocation's turn (R236). -/
def turn (y : State) (f : State → State) : State := if relocDue y then y else f y

/-- A NAND operation is in progress. -/
def busied (y : State) : State := { y with vat := { y.vat with busy := true } }

/-- The running command finds no block for a page: STORE_WORN, and the Store is READ_ONLY (R231). -/
def noRoom (d tag : Nat) (y : State) : State :=
  finish d tag 0x27 0 0 0 0 none (dropHead (raise 149 { y with vat := { y.vat with st := 4 } }))

/-- The commit record of the running command is programmed (R225). -/
def recorded (d tag : Nat) (y : State) : State :=
  match programOwn 2 y with
  | none => noRoom d tag y
  | some (_, x) => busied x

/-! Panel and audio. -/

/-- `s` with the Panel Engine's state changed. -/
def panelled (f : Panel → Panel) (s : State) : State := { s with panel := f s.panel }

/-- A MODULE_XFER of door `d` passes its checks (R114, R255). -/
def XferOk (s : State) (d : Nat) (c : Cmd) (hostIn : Option Bytes) (tag : Nat) (bs : Bytes) : Prop :=
  pointersOk d c.pkt = true ∧ pByte c.pkt 0 ≤ 15 ∧ pByte c.pkt 1 ≤ 1 ∧ 1 ≤ pByte c.pkt 3 ∧ pByte c.pkt 3 ≤ 128 ∧
  (pByte c.pkt 1 = 1 → pktInLen c.pkt = pByte c.pkt 3 ∧ pktOutLen c.pkt = 0) ∧
  (pByte c.pkt 1 = 0 → pktInLen c.pkt = 0 ∧ pByte c.pkt 3 ≤ pktOutLen c.pkt) ∧
  mayUse (port s (pByte c.pkt 0)).owner d = true ∧ cmdInput (taken s d tag) d c hostIn = some bs

/-! The whole block. -/

/-! Timers. -/

/-- The 16-bit register of timer `n` at offset `o` of its registers (Table 15-6). -/
def timerReg (s : State) (n o : Nat) : Nat := rfld s (0x40010040 + 0x20 * n + o) 0 16

/-- Timer `n` is enabled and counts `ev` (R324): ticks with SRC 0, the edges its SRC names on its fixed-function pin, panel line
starts with SRC 4 while PXCLK runs. -/
def timerSees (s : State) (ev : TimerEvent) (n : Nat) : Bool :=
  let src := rfld s (0x40010040 + 0x20 * n) 0 3
  rbit s 0x40010004 n && match ev with
    | .tick => src == 0
    | .edge m up => m.val == n && rbit s 0x40020050 (8 + n) && (src == 3 || src == if up then 1 else 2)
    | .line => src == 4 && pxclkRuns s

/-- Timer `n`'s live RELOAD and CMP (LIVE) stand in `t` as the preloads of `s`. -/
def liveLoaded (s t : State) (n : Nat) : Prop :=
  timerReg t n 0x18 = timerReg s n 0x08 ∧ rfld t (0x40010058 + 0x20 * n) 16 16 = timerReg s n 0x0C

/-- Timer `m` is joined to timer `k` below it by an unbroken run of SRC 5 (R327). -/
def chainedTo (s : State) (k m : Nat) : Prop :=
  k < m ∧ ∀ j : Nat, k < j → j ≤ m → rfld s (0x40010040 + 0x20 * j) 0 3 = 5

/-- `t` is `s` with the timers' enables set to `on` (R325): a timer that starts takes its preloads and restarts its prescaler;
the others keep theirs; no other register changes, COUNT and FLAGS among them, nor memory, the core or the doors. -/
def Enabled (s t : State) (on : Nat → Bool) : Prop :=
  (∀ n : Nat, n < 8 → rbit t 0x40010004 n = on n ∧
    (on n = true → rbit s 0x40010004 n = false → liveLoaded s t n ∧ (tget {} t.tmr n).pre = 0) ∧
    ((on n = false ∨ rbit s 0x40010004 n = true) →
      reg t (0x40010058 + 0x20 * n) = reg s (0x40010058 + 0x20 * n) ∧ tget {} t.tmr n = tget {} s.tmr n)) ∧
  (∀ a : Nat, a ≠ 0x40010004 → (∀ n : Nat, n < 8 → a ≠ 0x40010058 + 0x20 * n) → reg t a = reg s a) ∧
  t.mem = s.mem ∧ t.core = s.core ∧ t.doors = s.doors

/-- Timer `k`, alone enabled, counted once from `s` to `t` (R326). Below its live RELOAD the count goes up by one and meets CMP
where it becomes equal to it; at RELOAD it wraps to 0, loads its preloads, sets its WRAP flag and, with ONESHOT, stops. -/
def Counted (s t : State) (k : Nat) : Prop :=
  (timerReg s k 0x10 ≠ timerReg s k 0x18 →
    timerReg t k 0x10 = (timerReg s k 0x10 + 1) % 2 ^ 16 ∧
    reg t (0x40010058 + 0x20 * k) = reg s (0x40010058 + 0x20 * k) ∧
    rbit t 0x40010000 (2 * k) = rbit s 0x40010000 (2 * k) ∧
    rbit t 0x40010000 (2 * k + 1) = (rbit s 0x40010000 (2 * k + 1) ||
      (timerReg t k 0x10 == rfld s (0x40010058 + 0x20 * k) 16 16 &&
        decide (rfld s (0x40010058 + 0x20 * k) 16 16 ≤ timerReg s k 0x18))) ∧
    reg t 0x40010004 = reg s 0x40010004) ∧
  (timerReg s k 0x10 = timerReg s k 0x18 →
    timerReg t k 0x10 = 0 ∧ liveLoaded s t k ∧ rbit t 0x40010000 (2 * k) = true ∧
    rbit t 0x40010000 (2 * k + 1) = (rbit s 0x40010000 (2 * k + 1) || timerReg s k 0x0C == 0) ∧
    rbit t 0x40010004 k = (rbit s 0x40010004 k && !rbit s (0x40010040 + 0x20 * k) 3)) ∧
  t.mem = s.mem ∧ t.core = s.core

/-- A Karpol instruction as its word spells it: what a load meets on its way is no part of the word. -/
def asWord : Instr → Instr
  | .kLdW dt ea _ => .kLdW dt ea {}
  | .kLdH dt ea _ => .kLdH dt ea {}
  | .kLdHu dt ea _ => .kLdHu dt ea {}
  | .kLdB dt ea _ => .kLdB dt ea {}
  | .kLdBu dt ea _ => .kLdBu dt ea {}
  | .kLda ar ea _ => .kLda ar ea {}
  | i => i

/-- The commands that act while a reset is held: causes of a reset and its release, sampling of the sensors, the Loft's events
and the test access port. -/
def actsInReset : Instr → Bool
  | .coldReset _ | .warmReset _ | .coreSupervisorReset _ | .clkLoss | .resetRelease | .telemetrySample _ _ => true
  | .loftReset | .vddAonRemoval | .xtalStart | .loftWriteApply | .rtcSecond | .tamperEdge _ _ | .pwrbtnEdge => true
  | .tamperSample _ _ | .pwrbtnPress _ | .pwrbtnLong | .forcedOff | .pwrEnRise => true
  | .extest _ | .samplePreload _ | .idcode _ | .highz _ | .clamp _ | .bypass _ | .dbgAccess _ _ | .tapReset => true
  | .busRead _ | .busWrite _ _ | .regRead _ | .regWrite _ _ | .dbgHalt | .dbgResume _ | .dbgStep | .setMode _ => true
  | .dbgResync | .dbgBreakpoint _ _ => true
  | _ => false

end Sys2Proof.Spec

open Sys2Proof Sys2Proof.Machine

/-- An ALU instruction writes its result to D[dd] and its flags to STAT, goes on to the next instruction, and changes nothing
else but what every instruction does to the pair. -/
def Obligations.KarpolAluResults : Prop :=
  ∀ (s : State) (i : Instr) (dd : Fin 16) (r : Word × Word), Spec.Runs s → Spec.alu s i = some (dd, r) →
    exec i s = .next (Spec.retired (Spec.fetched s) { Spec.nextD s dd r.1 with stat := r.2 })

def Obligations.KarpolCompareFlags : Prop :=
  ∀ (s : State) (i : Instr) (st : Word), Spec.Runs s → Spec.compare s i = some st →
    exec i s = .next (Spec.retired (Spec.fetched s) { Spec.next s with stat := st })

def Obligations.KarpolMoves : Prop :=
  ∀ (s : State) (i : Instr) (c : Core), Spec.Runs s → Spec.move s i = some c →
    exec i s = .next (Spec.retired (Spec.fetched s) c)

def Obligations.KarpolAccumulators : Prop :=
  ∀ (s : State) (i : Instr) (c : Core), Spec.Runs s → Spec.mac s i = some c →
    exec i s = .next (Spec.retired (Spec.fetched s) c)

/-- A load takes its value from the address its mode gives, after the mode's update of the base register, so that the value
stays where both are one register; the read has its side effect, and what it met is counted. -/
def Obligations.KarpolLoads : Prop :=
  ∀ (s : State) (i : Instr) (m : AMode) (n : Nat) (met : LoadMet) (take : Word → Core → Core) (ea : Word)
    (u : Option (Fin 8 × Word)),
    Spec.Runs s → Spec.load i = some (m, n, met, take) → eaOf m n s = some (ea, u) → accessFault false ea.toNat n = none →
    exec i s = .next (Spec.retired (loadMet met ea.toNat (dcacheLoad ea.toNat (loadEffect ea.toNat (Spec.fetched s))))
      (take (w32 (loadVal (Spec.fetched s) ea.toNat n)) (Spec.based u (Spec.next s))))

/-- A store writes the low bytes of its register at the address its mode gives, least significant first, and updates the
mode's base register; to a register of a block it is a write of that register. -/
def Obligations.KarpolStores : Prop :=
  ∀ (s : State) (i : Instr) (m : AMode) (n : Nat) (v ea : Word) (u : Option (Fin 8 × Word)),
    Spec.Runs s → Spec.store s i = some (m, n, v) → eaOf m n s = some (ea, u) → accessFault true ea.toNat n = none →
    (regionOf ea.toNat ≠ .block →
      exec i s = .next (Spec.retired (Spec.stored ea.toNat n v.toNat (Spec.fetched s)) (Spec.based u (Spec.next s)))) ∧
    (regionOf ea.toNat = .block →
      exec i s = done (boundary (kNext (baseUpdate u (regWrite ea.toNat v (Spec.fetched s))), .retired)))

/-- PUSH and POP, with the stack limit (R259, R276, Table 13-14). -/
def Obligations.KarpolStack : Prop :=
  (∀ (s : State) (i : Instr) (v pc : Word), Spec.Runs s → Spec.push s i = some (v, pc) →
     (areg s 7).toNat + 4 ≤ s.core.stklim.toNat → accessFault true (areg s 7).toNat 4 = none →
     regionOf (areg s 7).toNat ≠ .block →
     exec i s = .next (Spec.retired (Spec.stored (areg s 7).toNat 4 v.toNat (Spec.fetched s))
       { Spec.nextA s 7 (areg s 7 + 4#32) with pc := pc })) ∧
  ((∀ (s : State) (i : Instr) (c : Core), Spec.Runs s →
     accessFault false (areg s 7 - 4#32).toNat 4 = none → Spec.plain (areg s 7 - 4#32).toNat →
     Spec.pop s (w32 (loadVal (Spec.fetched s) (areg s 7 - 4#32).toNat 4)) i = some c →
     exec i s = .next (Spec.retired (dcacheLoad (areg s 7 - 4#32).toNat (Spec.fetched s)) c)) ∧
   (∀ s : State, Spec.Runs s → wbit s.core.stat 12 = true →
     accessFault false (areg s 7 - 4#32).toNat 4 = none → Spec.plain (areg s 7 - 4#32).toNat →
     accessFault false (areg s 7 - 4#32 - 4#32).toNat 4 = none → Spec.plain (areg s 7 - 4#32 - 4#32).toNat →
     loadVal (Spec.fetched s) (areg s 7 - 4#32).toNat 4 % 4 = 0 →
     exec .kReti s = .next (Spec.retired
       (dcacheLoad (areg s 7 - 4#32 - 4#32).toNat (dcacheLoad (areg s 7 - 4#32).toNat (Spec.fetched s))) { s.core with
       a := tset 0#32 (tset 0#32 s.core.a 7 (areg s 7 - 4#32)) 7 (areg s 7 - 4#32 - 4#32)
       pc := w32 (loadVal (Spec.fetched s) (areg s 7 - 4#32).toNat 4)
       stat := w32 (loadVal (Spec.fetched s) (areg s 7 - 4#32 - 4#32).toNat 4) &&& 0x1FBF#32
       shadow := false })))

/-- Branches and jumps, bit tests, carry instructions, NOP, EI and DI change the core alone. -/
def Obligations.KarpolFlow : Prop :=
  ∀ (s : State) (i : Instr) (c : Core), Spec.Runs s → Spec.flow s i = some c →
    exec i s = .next (Spec.retired (Spec.fetched s) c)

/-- A bit instruction that writes changes its bit and the PC; TBSC and TBCS that do not branch only go on. -/
def Obligations.KarpolBitWrites : Prop :=
  (∀ (s : State) (i : Instr) (b : Nat) (v : Bool) (pc : Word), Spec.Runs s → Spec.bitPut s i = some (b, v, pc) →
    Spec.unblocked b = true →
    exec i s = .next (Spec.retired (bitWrite b v (Spec.fetched s)) { Spec.next s with pc := pc })) ∧
  (∀ (s : State) (disp : BitVec 14) (b : BitVec 12), Spec.Runs s → bitRead (Spec.fetched s) b.toNat = false →
    exec (.kTbsc disp b) s = .next (Spec.retired (Spec.fetched s) (Spec.next s))) ∧
  (∀ (s : State) (disp : BitVec 14) (b : BitVec 12), Spec.Runs s → bitRead (Spec.fetched s) b.toNat = true →
    exec (.kTbcs disp b) s = .next (Spec.retired (Spec.fetched s) (Spec.next s)))

/-- WAIT, BRK in Break mode, CHKPT, MFC, MTC, IINV and IINVL. -/
def Obligations.KarpolSystem : Prop :=
  ∀ s : State, Spec.Runs s →
    (sentinelPending (Spec.fetched s) = false →
      exec .kWait s = .next (napSettle { Spec.fetched s with core := { s.core with waiting := true, shadow := false } })) ∧
    (sentinelPending (Spec.fetched s) = true → s.clk.pstate ≠ .nap →
      irqDue { Spec.fetched s with core := { s.core with waiting := true, shadow := false } } = none →
      exec .kWait s = .next (Spec.retired (Spec.fetched s) (Spec.next s))) ∧
    (s.pair.brk = true → exec .kBrk s = .next (kHalt (Spec.retired (Spec.fetched s) (Spec.next s)))) ∧
    ((s.pair.mode = 2 ∨ rbit s pairCtrl 0 = false) →
      exec .kChkpt s = .next (Spec.retired (Spec.fetched s) (Spec.next s))) ∧
    (s.pair.mode = 0 → rbit s pairCtrl 0 = true →
      exec .kChkpt s = .next (freeNext (openLoose { Spec.fetched s with core := Spec.next s }))) ∧
    (∀ (dd : Fin 16) (cr : Byte) (v : Word), Spec.control s.core cr.toNat = some v →
      exec (.kMfc dd cr) s = .next (Spec.retired (Spec.fetched s) { Spec.nextD s dd v with
        cycleh := if cr = 5#8 then w32 (s.core.cycle / 2 ^ 32) else s.core.cycleh })) ∧
    (∀ (cr : Byte) (a : Fin 16), cr.toNat ≤ 6 →
      exec (.kMtc cr a) s = .next (Spec.retired (Spec.fetched s) (Spec.controlled s cr.toNat (dreg s a)))) ∧
    (∀ a : Fin 16, exec (.kMtc 7#8 a) s = .next (Spec.retired
      { Spec.fetched s with pair := { (Spec.fetched s).pair with
          icache := if wbit (dreg s a) 0 && wbit s.core.cctl 0 then (Spec.fetched s).pair.icache else []
          dcache := if wbit (dreg s a) 1 && wbit s.core.cctl 1 then s.pair.dcache else [] } }
      (Spec.controlled s 7 (dreg s a)))) ∧
    exec .kIinv s = .next (Spec.retired { Spec.fetched s with pair := { (Spec.fetched s).pair with icache := [] } } (Spec.next s)) ∧
    (∀ an : Fin 8, exec (.kIinvl an) s = .next (Spec.retired { Spec.fetched s with
      pair := { (Spec.fetched s).pair with icache := tdel (Spec.fetched s).pair.icache ((areg s an).toNat / 32) } } (Spec.next s)))

/-- Exceptions, their entry, and lockup (R274, R277, R279, R280). -/
def Obligations.KarpolTraps : Prop :=
  (∀ (s : State) (i : Instr) (n d : Nat) (a : Word), Spec.Runs s → Spec.trap s i = some (n, d, a) →
     Spec.Enters (Spec.fetched s) n (Spec.returns s n) →
     exec i s = .next (Spec.retired (Spec.entered (Spec.fetched s) n (Spec.returns s n)) (Spec.trapped s n d a))) ∧
  (∀ (s : State) (i : Instr) (n d : Nat) (a : Word), Spec.Runs s → Spec.trap s i = some (n, d, a) →
     accessFault true (areg s 7).toNat 4 ≠ none →
     exec i s = .next { Spec.fetched s with core := { s.core with shadow := false, lockup := true } })

/-- Between instructions, in Tight mode and in Solo: an interrupt is entered, a WAIT ends with nothing to take, and a breakpoint
at the PC halts the pair, which then waits at it (R277, R278, R301). In Loose mode (R288–R292) an instruction of the main copy
takes effect at once and on record, the commit set stays, and its outputs are folded into its signature; a checkpoint compares
the signatures. How far the checker follows at a boundary is the model's choice (entry 94); `done` is a next state unless an
undefined pin function was selected (R405). -/
def Obligations.KarpolBoundaries : Prop :=
  (∀ s : State, s.clk.held = false → s.undef = false → (s.pair.mode = 0 ∨ s.pair.mode = 2) → s.pair.asChk = false →
    (∀ p : Nat, coreIssues s = true → s.core.shadow = false → irqDue s = some p →
      Spec.Enters s (16 + p) s.core.pc → rfld s (evcBase + 0x008) 0 16 = 0 →
      exec .interruptEntry s = .next (Spec.retired (Spec.entered s (16 + p) s.core.pc) (Spec.interrupted s p))) ∧
    (sentinelRuns s = true → s.core.waiting = true → s.idn.booting = false → s.idn.halted = false → s.core.lockup = false →
      sentinelPending s = true → s.clk.pstate ≠ .nap → irqDue s = none → s.pair.haltWanted = false → s.pair.resyncWanted = false →
      exec .kWaitComplete s = .next (Spec.retired s { s.core with waiting := false, pc := s.core.pc + 4#32 })) ∧
    (kReady s = true → atBp s = true → exec .kNop s = .next (kHalt s) ∧ exec .kNop (kHalt s) = .next (kHalt s))) ∧
  (∀ s : State, Spec.RunsLoose s →
    (∀ (i : Instr) (dd : Fin 16) (r : Word × Word), Spec.alu s i = some (dd, r) →
      exec i s = done (Spec.looseRetired (outReg 25 r.2 (outReg dd.val r.1 (Spec.looseFetched s)))
        { Spec.nextD s dd r.1 with stat := r.2 })) ∧
    (∀ (i : Instr) (st : Word), Spec.compare s i = some st →
      exec i s = done (Spec.looseRetired (outReg 25 st (Spec.looseFetched s)) { Spec.next s with stat := st })) ∧
    (∀ (dt : Fin 16) (m : AMode) (ea v : Word), eaOf m 4 s = some (ea, none) → accessFault false ea.toNat 4 = none →
      Spec.plain ea.toNat → v = w32 (loadVal (Spec.looseFetched s) ea.toNat 4) →
      exec (.kLdW dt m {}) s = done (Spec.looseRetired (outReg dt.val v (record (.load v) (dcacheLoad ea.toNat
        (outData ea.toNat 4 none (Spec.looseFetched s))))) (Spec.nextD s dt v))) ∧
    (∀ (dt : Fin 16) (m : AMode) (ea : Word), eaOf m 4 s = some (ea, none) → accessFault true ea.toNat 4 = none →
      regionOf ea.toNat ≠ .block →
      exec (.kStW dt m) s = done (Spec.looseRetired (Spec.stored ea.toNat 4 (dreg s dt).toNat
        (outData ea.toNat 4 (some (dreg s dt).toNat) (Spec.looseFetched s))) (Spec.next s))) ∧
    (∃ x, exec .kChkpt s = done (looseCheckpoint wordEffect x) ∧ x.core = Spec.next s ∧ x.mem = s.mem ∧ x.pair.mode = 1 ∧
      x.pair.commit = s.pair.commit ∧ x.pair.chk = s.pair.chk ∧ x.pair.queue = s.pair.queue ∧ x.pair.lag = s.pair.lag + 1)) ∧
  (∀ s : State, s.clk.held = false → coreIssues s = true → gapDue s = true → s.pair.lag = 0 → s.pair.queue = [] →
    (s.pair.sigMain = s.pair.sigChk → rbit s pairCtrl 0 = true →
      exec .gapCheckpoint s = .next (raise 186 (orReg pairEvents 0x10 (checkpoint s)))) ∧
    (s.pair.sigMain = s.pair.sigChk → rbit s pairCtrl 0 = false →
      exec .gapCheckpoint s = .next (raise 186 (orReg pairEvents 0x10 (closeLoose (checkpoint s))))) ∧
    (s.pair.sigMain ≠ s.pair.sigChk →
      exec .gapCheckpoint s = .next (raise 186 (orReg pairEvents 0x10 (classSFault 0x21 2 0 0#32 s)))))

/-- A final reply of a command on doors 0, 1 and 3: output data is written first, then the reply joins its door's queue (R57, R60,
R69); delivery of the oldest formed reply into a reply ring and the end of a moderation period (R62, R63, R71, R78, R79). -/
def Obligations.Replies : Prop :=
  (∀ (s : State) (d tag status detail r0 r1 r2 : Nat) (data : Option Bytes) (c : Cmd), d ≠ 2 → findCmd s d tag = some c →
     (c.dropped = false →
       finish d tag status detail r0 r1 r2 data s =
         modDoor d (fun x => { x with replies := x.replies ++ [Spec.reply s c status detail r0 r1 r2 data] })
           (modCmd d tag (fun x => { x with stage := .replied })
             (match data with
               | none => s
               | some bs => if d = 3 then deviceWrite (pktOutAddr c.pkt) bs s
                 else { s with out := .hostWrite d (pktOutAddr c.pkt) bs :: s.out }))) ∧
     (c.dropped = true → finish d tag status detail r0 r1 r2 data s = poolReturn d c.pool
       (modDoor d (fun x => { x with cmds := x.cmds.filter fun y => !(y.tag == tag && y.stage != .replied) }) s))) ∧
  (∀ (s : State) (d : DoorId), s.clk.held = false →
     (∀ (r : Reply) (rest : List Reply) (i : Nat), d.val < 2 → (door s d).replies = r :: rest → (door s d).ringEnable = true →
       (door s d).linkUp = true → (door s d).resetPend = false → i = (door s d).rplTail % 2 ^ (door s d).rringLog2 →
       (i + 1) % 2 ^ (door s d).rringLog2 ≠ (door s d).rplHead % 2 ^ (door s d).rringLog2 →
       exec (.replyDeliver d) s = .next ((if r.quiet then id else doorInterrupt d 0) (delivered d r
         (modDoor d (fun x => { x with
             replies := rest, rplTail := (i + 1) % 2 ^ x.rringLog2
             phase := if (i + 1) % 2 ^ x.rringLog2 = 0 then !x.phase else x.phase })
           { s with out := .hostWrite d ((door s d).rringBase + 32 * i) (replyBytes r (door s d).phase) :: s.out })))) ∧
     ((door s d).replies = [] → exec (.replyDeliver d) s = .next s) ∧
     (d ≠ 2 → (door s d).modRunning = true → (door s d).modEnd ≤ nowP s → (door s d).held = [] → exec (.moderationExpiry d) s =
       .next (modDoor d (fun x => { x with modRunning := false, held := [] }) s)) ∧
     (d = 2 → (door s d).modRunning = true → (door s d).modEnd ≤ nowP s → exec (.moderationExpiry d) s =
       .next (irq2Settle (modDoor 2 (fun x => { x with modRunning := false, held := [] }) s))) ∧
     (∀ v : Nat, d.val < 2 → (door s d).modRunning = true → (door s d).modEnd ≤ nowP s → (door s d).held = [v] → msixMasked (door s d) v = false →
       exec (.moderationExpiry d) s = .next (modDoor d (fun x => { x with
           held := [], idle := false, modRunning := decide (x.modPeriod ≠ 0), modEnd := nowP s + x.modPeriod * 125
           pba := if bitAt x.pba v then x.pba - 2 ^ v else x.pba }) { s with out := .msix d v :: s.out })) ∧
     (∀ v : Nat, d.val < 2 → (door s d).modRunning = true → (door s d).modEnd ≤ nowP s → (door s d).held = [v] → msixMasked (door s d) v = true →
       exec (.moderationExpiry d) s = .next (modDoor d (fun x => { x with
           held := [], modRunning := false, pba := if bitAt x.pba v then x.pba else x.pba + 2 ^ v }) s)) ∧
     ((door s d).modRunning = false ∨ nowP s < (door s d).modEnd → exec (.moderationExpiry d) s = .next s))

/-- The 32 bytes of a reply (R60, Table 4-6). -/
def Obligations.ReplyLayout : Prop :=
  ∀ (r : Reply) (phase : Bool), (replyBytes r phase).length = 32 ∧
    leAt (replyBytes r phase) 0 2 = r.tag % 2 ^ 16 ∧ leAt (replyBytes r phase) 2 1 = r.status % 2 ^ 8 ∧
    leAt (replyBytes r phase) 3 1 = b2n phase + 2 * b2n r.interim + 4 * b2n r.unsol + 8 * b2n r.data.isSome ∧
    leAt (replyBytes r phase) 4 2 = r.gen % 2 ^ 16 ∧ leAt (replyBytes r phase) 6 1 = r.opcode % 2 ^ 8 ∧
    leAt (replyBytes r phase) 7 1 = r.detail % 2 ^ 8 ∧ leAt (replyBytes r phase) 8 8 = r.epoch % 2 ^ 64 ∧
    leAt (replyBytes r phase) 16 4 = r.res0 % 2 ^ 32 ∧ leAt (replyBytes r phase) 20 4 = r.res1 % 2 ^ 32 ∧
    leAt (replyBytes r phase) 24 4 = r.res2 % 2 ^ 32 ∧
    leAt (replyBytes r phase) 28 4 = crc32c ((replyBytes r phase).take 28) % 2 ^ 32

/-- NOP, IDENTIFY, GET_STATUS, DOOR_CLAIM, DOOR_RELEASE and IDLE_SETUP (Table 12-2, R76, R246); PORT_STATS, CHAN_STATS,
COUNTER_CLEAR, TEL_SUBSCRIBE and the telemetry period (R245, R254, Tables 12-9, 12-10). -/
def Obligations.DoorAndStatistics : Prop :=
  (∀ (s : State) (d : DoorId) (tag : Nat) (c : Cmd), let x := Spec.taken s d tag
     (Spec.Takes s d tag 0x00 c → exec (.doorNop d tag) s = .next (finishSt d tag 0x00 0 x)) ∧
     (∀ (hostIn : Option Bytes) (nonce : Bytes), Spec.Takes s d tag 0x01 c → Spec.Room d c 32 304 →
       cmdInput x d c hostIn = some nonce → exec (.identify d tag hostIn) s =
         .next (Spec.joined x d tag 0 [] nonce)) ∧
     (Spec.Takes s d tag 0x02 c → pktPtr c.pkt = false → exec (.getStatus d tag) s = .next
       (finish d tag 0x00 0 (s.fault.gen + s.fault.mode * 2 ^ 16) s.stock.liveVer
         ((if s.stock.apply.isSome then 1 else 0) + keFree s * 2 ^ 8) none x)) ∧
     (Spec.Takes s d tag 0x02 c → pktPtr c.pkt = true → Spec.Room d c 0 64 →
       exec (.getStatus d tag) s = .next (finish d tag 0x00 0 64 0 0 (some (statusRecord x d)) x)) ∧
     (Spec.Takes s d tag 0x03 c → d ≠ 3 → (door x d).session = false → exec (.doorClaim d tag) s =
       .next (finishR0 d tag 0x00 0 (modDoor d (fun y => { y with session := true }) x))) ∧
     (Spec.Takes s d tag 0x03 c → d ≠ 3 → (door x d).session = true → bitAt (pByte c.pkt 0) 0 = false →
       exec (.doorClaim d tag) s = .next (finishSt d tag 0x62 0 x)) ∧
     (Spec.Takes s d tag 0x03 c → d ≠ 3 → (door x d).session = true → bitAt (pByte c.pkt 0) 0 = true →
       exec (.doorClaim d tag) s =
         .next (finishR0 d tag 0x00 1 (modDoor d (fun y => { y with session := true }) (dropSession d tag x)))) ∧
     (Spec.Takes s d tag 0x04 c → d ≠ 3 → exec (.doorRelease d tag) s =
       .next (finishSt d tag 0x00 0 (modDoor d (fun y => { y with session := false }) x))) ∧
     (Spec.Takes s d tag 0x05 c → d ≠ 3 → exec (.idleSetup d tag) s = .next
       (finishR0 d tag 0x00 (door x d).modPeriod (modDoor d (fun y => { y with modPeriod := pLe c.pkt 0 2 }) x)))) ∧
  (∀ (s : State) (d : DoorId) (tag : Nat) (c : Cmd), let x := Spec.taken s d tag
     (Spec.Takes s d tag 0x50 c → Spec.Room d c 0 256 → pByte c.pkt 0 ≤ 15 →
       (d = 3 ∨ (port s (pByte c.pkt 0)).owner = some d.val) →
       exec (.portStats d tag) s = .next (finish d tag 0x00 0 256 0 0 (some (portWindow x (pByte c.pkt 0))) x)) ∧
     (Spec.Takes s d tag 0x50 c → Spec.Room d c 0 256 → pByte c.pkt 0 ≤ 15 → d ≠ 3 →
       (port s (pByte c.pkt 0)).owner ≠ some d.val →
       exec (.portStats d tag) s = .next (finishR0 d tag 0x31 (pByte c.pkt 0) x)) ∧
     (∀ first count : Nat, Spec.Takes s d tag 0x51 c → Spec.Room d c 0 (128 * count) → first = pLe c.pkt 0 2 →
       count = pLe c.pkt 2 2 → 1 ≤ count → count ≤ (if d = 2 then 128 else 1024) → first ≤ 8191 → first + count ≤ 8192 →
       (∀ n : Nat, first ≤ n → n < first + count → d = 3 ∨ (chan s n).owner = some d.val) →
       exec (.chanStats d tag) s =
         .next (finish d tag 0x00 0 count 0 0 (some ((List.range count).map fun i => chanWindow x (first + i)).flatten) x)) ∧
     (Spec.Takes s d tag 0x52 c → pByte c.pkt 0 = 0 → pLe c.pkt 2 2 ≤ 15 →
       (d = 3 ∨ (port s (pLe c.pkt 2 2)).owner = some d.val) →
       exec (.counterClear d tag) s = .next (finishR0 d tag 0x00 1 (clearWindow (portCnt (pLe c.pkt 2 2) 0) 0x100 x))) ∧
     (Spec.Takes s d tag 0x52 c → pByte c.pkt 0 = 1 → pLe c.pkt 2 2 ≤ 8191 →
       (d = 3 ∨ (chan s (pLe c.pkt 2 2)).owner = some d.val) →
       exec (.counterClear d tag) s = .next (finishR0 d tag 0x00 1 (clearWindow (chanCnt (pLe c.pkt 2 2) 0) 0x80 x))) ∧
     (∀ period items : Nat, Spec.Takes s d tag 0x53 c → period = pLe c.pkt 0 2 → items = fld (pByte c.pkt 2) 0 5 →
       period ≤ 1000 → (period ≠ 0 → items ≠ 0) →
       exec (.telSubscribe d tag) s = .next (finishR0 d tag 0x00 (door x d).telPeriod
         (modDoor d (fun y => { y with
           telPeriod := period, telItems := if period = 0 then 0 else items, telNext := nowP s + period * 1250000 }) x))) ∧
     (s.clk.held = false → (door s d).telPeriod = 0 ∨ nowP s < (door s d).telNext → exec (.telemetryPeriod d) s = .next s) ∧
     (∀ i : Nat, s.clk.held = false → (door s d).telPeriod ≠ 0 → (door s d).telNext ≤ nowP s → i < 5 → (door s d).telItems = 2 ^ i →
       exec (.telemetryPeriod d) s =
         .next (unsolicited d 0x53 i (telWords s i).1 (telWords s i).2.1 (telWords s i).2.2
           (modDoor d (fun y => { y with telNext := y.telNext + y.telPeriod * 1250000 }) s))))

/-- GRANT_SET, OWNER_SET and MODULE_ASSIGN of the officer's door (R73, R74, R114, Table 12-12). -/
def Obligations.OfficerCommands : Prop :=
  ∀ (s : State) (tag : Nat) (c : Cmd), let x := Spec.taken s 3 tag
    (∀ d w : Nat, Spec.Takes s 3 tag 0x70 c → d = pByte c.pkt 0 → w = pLe c.pkt 4 4 → d ≤ 2 → bitAt w 7 = false →
      fld w 14 18 = 0 →
      (w = (door x d).grant → exec (.grantSet tag) s = .next (modDoor d (fun y => { y with grant := w })
        (finishR0 3 tag 0x00 w x))) ∧
      (w ≠ (door x d).grant → exec (.grantSet tag) s = .next
        ((fun y => if bitAt w 0 = bitAt (door x d).grant 0 then y else raise (112 + 8 * d) (evcSettle d y))
          (setNotice d 4 (modDoor d (fun y => { y with grant := w }) (finishR0 3 tag 0x00 (door x d).grant x)))))) ∧
    (∀ kind o n : Nat, Spec.Takes s 3 tag 0x71 c → kind = pByte c.pkt 0 → o = pByte c.pkt 1 → n = pLe c.pkt 2 2 →
      kind ≤ 3 → (o ≤ 3 ∨ o = 0xFF) → ownerIndexOk kind n = true → ownerRefused x kind n = none →
      (ownerNow x kind n = o → exec (.ownerSet tag) s = .next (finish 3 tag 0x01 0x02 o 0 0 none x)) ∧
      (ownerNow x kind n ≠ o → exec (.ownerSet tag) s =
        .next (finishR0 3 tag 0x00 (ownerNow x kind n) (bumpLiveVer (setOwner kind n o x))))) ∧
    (∀ q k a sel : Nat, Spec.Takes s 3 tag 0x73 c → q = pByte c.pkt 0 → k = pByte c.pkt 1 → a = pByte c.pkt 2 →
      sel = pByte c.pkt 3 → q ≤ 15 → k ≤ 3 → 0x08 ≤ a → a ≤ 0x77 → (sel ≤ 47 ∨ sel = 0xFF) →
      exec (.moduleAssign tag) s = .next (finishR0 3 tag 0x00
        ((if (port s q).ctrl = 0 then 0xFF else (port s q).ctrl - 1) + (port s q).addr * 2 ^ 8 + (port s q).select * 2 ^ 16)
        (setPort q { port s q with ctrl := k + 1, addr := a, select := sel } x)))

/-- STOCK_SET, STOCK_GET, STOCK_CHECK and its end, and STOCK_APPLY (R83–R86, R89, R90). -/
def Obligations.StockCommands : Prop :=
  ∀ (s : State) (d : DoorId) (tag : Nat) (c : Cmd), let x := Spec.taken s d tag
    (∀ (hostIn : Option Bytes) (t : Table (Nat × Bytes)), Spec.Takes s d tag 0x10 c → pktPtr c.pkt = false →
      entryFault (slice c.pkt 16 32) = none → (∀ a ∈ s.stock.apply, a.door ≠ d) →
      t = layEntries (area s d).entries [slice c.pkt 16 32] →
      (t.length - (area s d).entries.length) - (512 - (area s d).entries.length) ≤ stockSharedFree s →
      exec (.stockSet d tag hostIn) s =
        .next (finish d tag 0x00 0 t.length (t.length - (area s d).entries.length) 0 none (Spec.restocked x d t))) ∧
    (∀ n : Nat, Spec.Takes s d tag 0x11 c → pByte c.pkt 0 = d → pLe c.pkt 4 2 = n → n ≤ 2560 →
      Spec.Room d c 0 (32 + 32 * min n ((area s d).entries.length - pLe c.pkt 2 2)) →
      exec (.stockGet d tag) s = .next (finish d tag 0x00 0 (min n ((area s d).entries.length - pLe c.pkt 2 2))
        (area s d).entries.length 0
        (some (stockRecord s d ++ ((((area s d).entries.drop (pLe c.pkt 2 2)).take n).map entryBytes).flatten)) x)) ∧
    (Spec.Takes s d tag 0x12 c → (∀ a ∈ s.stock.apply, a.door ≠ d) → (area s d).entries = [] →
      exec (.stockCheck d tag) s =
        .next (finishSt d tag 0x01 1 (setArea d { area s d with passed := false, checkVer := 0 } x))) ∧
    (∀ v : Nat × Nat × Nat, Spec.Takes s d tag 0x12 c → (∀ a ∈ s.stock.apply, a.door ≠ d) → (area s d).entries ≠ [] →
      v = (stockVerdict (setArea d { area s d with passed := false, checkVer := 0 } x) d (area s d).entries).getD (0, 0, 0) →
      exec (.stockCheck d tag) s = .next (modCmd d tag (fun y => { y with
          aux := [(area s d).mods, s.stock.liveVer, (area s d).entries.length, v.1, v.2.1, v.2.2] })
        (setArea d { area s d with passed := false, checkVer := 0 } x))) ∧
    (∀ mods ver n st num e : Nat, s.clk.held = false → findCmd s d tag = some c → c.opcode = 0x12 → c.stage = .running →
      c.aux = [mods, ver, n, st, num, e] →
      (st = 0 → (area s d).mods = mods → exec (.stockCheckEnd d tag) s =
        .next (finish d tag 0x00 0 ver n 0 none (setArea d { area s d with passed := true, checkVer := ver } s))) ∧
      (st = 0 → (area s d).mods ≠ mods → exec (.stockCheckEnd d tag) s = .next (finish d tag 0x00 0 ver n 0 none s)) ∧
      (st ≠ 0 → exec (.stockCheckEnd d tag) s =
        .next (finish d tag st num (e / 65536 + e % 65536 * 2 ^ 16) 0 0 none s))) ∧
    (∀ first target : Nat, Spec.Takes s d tag 0x13 c → s.stock.apply = none → (area s d).passed = true →
      (area s d).checkVer = s.stock.liveVer → first = earliestBoundary s (area s d).entries.length →
      target = pLe c.pkt 0 8 → (target ≠ 0 → first ≤ target ∧ target ≤ s.epoch.boundaries + 65536) →
      exec (.stockApply d tag) s = .next (deferCmd d tag 0x10 (setApply (some
        { door := d, tag := tag, target := if target = 0 then first else target, earliest := decide (target = 0),
          waitRelease := s.mach.frames.any fun f => f.bank != s.stock.active }) x)))

/-- STOCK_DISCARD (R96): the door's Stock is empty, its entries are the pool's, its check state is NONE, nothing else of the
staged or live settings changes. -/
def Obligations.StockDiscard : Prop :=
  ∀ (s : State) (d : DoorId) (tag : Nat) (c : Cmd), Spec.Takes s d tag 0x14 c → (∀ a ∈ s.stock.apply, a.door ≠ d) →
    exec (.stockDiscard d tag) s = .next (finishR0 d tag 0x00 (area s d).entries.length
      (Spec.restocked (Spec.taken s d tag) d [])) ∧
    (∀ x : State, exec (.stockDiscard d tag) s = .next x →
      (area x d).entries = [] ∧ (area x d).passed = false ∧ (area x d).checkVer = 0 ∧ stockSharedFree s ≤ stockSharedFree x ∧
      x.stock.liveVer = s.stock.liveVer ∧ x.stock.bank0 = s.stock.bank0 ∧ x.stock.bank1 = s.stock.bank1 ∧
      x.stock.active = s.stock.active ∧ x.stock.apply = s.stock.apply ∧ x.ports = s.ports ∧ x.keys = s.keys ∧
      ∀ e : Nat, e ≠ d → area x e = area s e)

/-- R248: a frozen Stock's check is refused and changes nothing of the Stock; another door's check goes on; STOCK_GET beyond
the entries gives the record alone. -/
def Obligations.StockFrozen : Prop :=
  ∀ (s : State) (d : DoorId) (tag : Nat) (c : Cmd), let x := Spec.taken s d tag
    (∀ a, Spec.Takes s d tag 0x12 c → s.stock.apply = some a → a.door = d →
      exec (.stockCheck d tag) s = .next (finishSt d tag 0x61 4 x) ∧ (finishSt d tag 0x61 4 x).stock = s.stock) ∧
    (∀ a, Spec.Takes s d tag 0x12 c → s.stock.apply = some a → a.door ≠ d →
      ∃ t, exec (.stockCheck d tag) s = .next t ∧
        ((area s d).entries ≠ [] → (area t d).passed = false ∧ (area t d).checkVer = 0) ∧
        ∀ v, exec (.stockCheck d tag) { s with stock := { s.stock with apply := none } } = .next v →
          t.doors = v.doors ∧ t.stock.areas = v.stock.areas) ∧
    (Spec.Takes s d tag 0x11 c → pByte c.pkt 0 = d → pLe c.pkt 4 2 ≤ 2560 → (area s d).entries.length ≤ pLe c.pkt 2 2 →
      Spec.Room d c 0 32 →
      exec (.stockGet d tag) s =
        .next (finish d tag 0x00 0 0 (area s d).entries.length 0 (some (stockRecord s d)) x))

/-- The shadow bank's load, the release time and the epoch boundary (R88, R90, R91); at the boundary of a pending Apply the staged
bank is live, the door's Stock is empty with the result recorded, and LIVE_VER is one more (R91, R92). -/
def Obligations.Applies : Prop :=
  (∀ s : State, s.clk.held = false →
     (∀ a, s.stock.apply = some a → a.waitRelease = false → exec .shadowLoaded s = .next { s with stock := { s.stock with
       apply := some { a with shadow := some (overlay (liveBank s) (area s a.door).entries) } } }) ∧
     (∀ a, s.stock.apply = some a → a.waitRelease = true → (∀ f ∈ s.mach.frames, f.bank = s.stock.active) →
       a.earliest = true → exec .applyReleaseTime s = .next { s with stock := { s.stock with apply := some { a with
         waitRelease := false, target := max a.target (earliestBoundary s (area s a.door).entries.length) } } }) ∧
     (∀ a, s.stock.apply = some a → a.waitRelease = true → (∀ f ∈ s.mach.frames, f.bank = s.stock.active) →
       a.earliest = false → a.target < earliestBoundary s (area s a.door).entries.length →
       exec .applyReleaseTime s = .next (finish a.door a.tag 0x65 0
         (earliestBoundary s (area s a.door).entries.length % 2 ^ 32)
         (earliestBoundary s (area s a.door).entries.length / 2 ^ 32) 0 none
         { s with stock := { s.stock with apply := none, areas := (setArea a.door { area s a.door with lastResult := 4 } s).stock.areas } })) ∧
     (s.stock.apply = none → ∃ t, exec .epochBoundary s = .next t ∧ t.stock = s.stock ∧ t.mach.onset = false ∧
       t.epoch = { s.epoch with
         boundaries := (s.epoch.boundaries + 1) % 2 ^ 64, count := 0, base := s.epoch.base + 2 ^ s.epoch.k })) ∧
  (∀ (s : State) (a : Apply), s.clk.held = false → s.stock.apply = some a → a.waitRelease = false →
     a.target = (s.epoch.boundaries + 1) % 2 ^ 64 → ∃ t, exec .epochBoundary s = .next t ∧
       liveBank t = a.shadow.getD (overlay (liveBank s) (area s a.door).entries) ∧ t.stock.active ≠ s.stock.active ∧
       t.stock.apply = none ∧ t.stock.liveVer = (s.stock.liveVer + 1) % 2 ^ 32 ∧ t.epoch.boundaries = a.target ∧
       t.epoch.k = bankK (liveBank t) ∧ (area t a.door).entries = [] ∧ (area t a.door).lastResult = 1 ∧
       (area t a.door).lastEpoch = a.target ∧ ∀ e, e ≠ a.door → area t e = area s e)

/-- What a claim returns (R308, R310): the deliverable request of the highest level, the lowest source where levels are equal,
and for the sentinel no level below STAT.IL; claims through EVC_CLAIM and the door 2 instruction. -/
def Obligations.ClaimsReturnTheBest : Prop :=
  (∀ (s : State) (t : Nat),
     (∀ n : Nat, deliverable s t n = true ↔ bitAt (evcPend s t) n = true ∧ (t = 0 → evcMasked s n = false) ∧
       (∀ e ∈ (evcStack s t).head?, e.2 < srcLevel s n) ∧ (t ≠ 0 → doorOpen s (t - 1) = true)) ∧
     (∀ n : Nat, claimed s t = some n → n < 256 ∧ deliverable s t n = true ∧ (t = 0 → coreIL s ≤ srcLevel s n) ∧
       ∀ m : Nat, m < 256 → deliverable s t m = true →
         srcLevel s m < srcLevel s n ∨ (srcLevel s m = srcLevel s n ∧ n ≤ m)) ∧
     (claimed s t = none → ∀ m : Nat, m < 256 → deliverable s t m = true → t = 0 ∧ srcLevel s m < coreIL s)) ∧
  (∀ s : State, s.clk.held = false →
     (∀ (t : EvcTarget) (i n : Nat), i = evcTargetIdx t → claimed s i = some n → exec (.evcClaim t) s =
       .next (evcSettleTarget i (setEvcStack i ((n, srcLevel s n) :: evcStack s i)
         (unpend i n { s with out := .readData n :: s.out })))) ∧
     (∀ (t : EvcTarget), claimed s (evcTargetIdx t) = none → exec (.evcClaim t) s =
       .next (incReg (evcBase + 0x01C) (putBit (evcBase + 0x004) 4 true { s with out := .readData 0x3FF :: s.out }))) ∧
     exec (.spiEvcClaim .chosen) s = .next (modDoor 2 (fun y => { y with spiClaim := some (claimed s 3) }) s) ∧
     (∀ (n bytes : Nat) (x : State), (door s 2).spiClaim = some (some n) →
       x = modDoor 2 (fun y => { y with lastSpi := 0x0E, spiClaim := none })
         { s with out := .spiData ((leBytes 2 n).take bytes) :: s.out } →
       (2 ≤ bytes → exec (.spiEvcClaim (.csRise bytes)) s =
         .next (evcSettleTarget 3 (setEvcStack 3 ((n, srcLevel s n) :: evcStack s 3) (unpend 3 n x)))) ∧
       (bytes < 2 → exec (.spiEvcClaim (.csRise bytes)) s = .next x)) ∧
     (∀ bytes : Nat, 2 ≤ bytes → (door s 2).spiClaim = some none → exec (.spiEvcClaim (.csRise bytes)) s =
       .next (incReg (evcBase + 0x01C) (putBit (evcBase + 0x004) 4 true
         (modDoor 2 (fun y => { y with lastSpi := 0x0E, spiClaim := none })
           { s with out := .spiData (leBytes 2 0x3FF) :: s.out })))))

/-- Completions through EVC_COMPLETE and the door 2 instruction (R311): the top entry is popped and a door is signalled where
a request is deliverable; 0x3FF does nothing; no pending bit changes. -/
def Obligations.Completions : Prop :=
  ∀ s : State, s.clk.held = false →
    (∀ t : EvcTarget, exec (.evcComplete t 0x3FF#10) s = .next s) ∧
    (∀ (t : EvcTarget) (v : BitVec 10) (i l : Nat) (r : List (Nat × Nat)), i = evcTargetIdx t → v ≠ 0x3FF#10 →
      evcStack s i = (v.toNat, l) :: r → ∃ x : State, exec (.evcComplete t v) s = .next x ∧
        x = (if i = 0 then setEvcStack i r s else evcResignal (i - 1) (setEvcStack i r s)) ∧
        ∀ j : Nat, evcPend x j = evcPend s j) ∧
    (∀ (data : Bytes) (l : Nat) (r : List (Nat × Nat)), data.length = 2 → leAt data 0 2 < 0x3FF →
      evcStack s 3 = (leAt data 0 2, l) :: r → exec (.spiEvcComplete data) s =
        .next (evcResignal 2 (setEvcStack 3 r (modDoor 2 (fun y => { y with lastSpi := 0x0F, spiClaim := none }) s))))

/-- A completion of any other vector, through EVC_COMPLETE or the door 2 instruction, is a stack fault (R312): the stack is
empty, the vectors and the target are recorded, the target's bit and source 176 are raised, a door is signalled again. -/
def Obligations.StackFaults : Prop :=
  (∀ (s : State) (t : EvcTarget) (v : BitVec 10) (i expected : Nat), s.clk.held = false → i = evcTargetIdx t → v ≠ 0x3FF#10 →
    expected = ((evcStack s i).head?.map Prod.fst).getD 0x3FF → (∀ e ∈ (evcStack s i).head?, e.1 ≠ v.toNat) →
    exec (.evcComplete t v) s = .next ((if i = 0 then id else evcResignal (i - 1))
      (raise 176 (putBit (evcBase + 0x004) i true
        (setRegN (evcBase + 0x018) (expected + v.toNat * 2 ^ 10 + i * 2 ^ 20) (setEvcStack i [] s)))))) ∧
  (∀ (s : State) (data : Bytes) (v expected : Nat), s.clk.held = false → data.length = 2 → v = leAt data 0 2 → v < 0x3FF →
    expected = ((evcStack s 3).head?.map Prod.fst).getD 0x3FF → (∀ e ∈ (evcStack s 3).head?, e.1 ≠ v) →
    exec (.spiEvcComplete data) s = .next (evcResignal 2 (raise 176 (putBit (evcBase + 0x004) 3 true
      (setRegN (evcBase + 0x018) (expected + v * 2 ^ 10 + 3 * 2 ^ 20) (setEvcStack 3 []
        (modDoor 2 (fun y => { y with lastSpi := 0x0F, spiClaim := none }) s)))))))

/-- An occurrence sets the source's pending bit for every target it is routed to, merging with one that is set, and changes
nothing of any other source, of any stack or of any register (R307); SWSET, SWCLR, the end of the sentinel's moderation (R313). -/
def Obligations.EventSources : Prop :=
  (∀ (s : State) (n t m : Nat), t < 4 →
     bitAt (evcPend (raise n s) t) m = (bitAt (evcPend s t) m || (m == n && srcTargets s n t)) ∧
     evcStack (raise n s) t = evcStack s t ∧ (raise n s).regs = s.regs ∧ (raise n s).mem = s.mem ∧ (raise n s).core = s.core) ∧
  (∀ (s : State) (v : Word), s.clk.held = false →
     (192 ≤ v.toNat % 256 → exec (.swset v) s = .next (raise (v.toNat % 256) s)) ∧
     (v.toNat % 256 < 192 → exec (.swset v) s = .next s ∧ exec (.swclr v) s = .next s) ∧
     (∀ n : Nat, n = v.toNat % 256 → 192 ≤ n → exec (.swclr v) s =
       .next (evcSettle 2 (evcSettle 1 (evcSettle 0 (unpend 3 n (unpend 2 n (unpend 1 n (unpend 0 n s)))))))) ∧
     (s.evc.modEnd ≤ nowP s → exec .sentinelModerationEnd s = .next { s with evc := { s.evc with modHold := false } }) ∧
     (nowP s < s.evc.modEnd → exec .sentinelModerationEnd s = .next s))

/-- A packet at a front end (Table 4-10, R69, R71): it is refused by the CRC or the sequence check, or accepted with an entry of the
door's floor; ring doorbells and ring control of doors 0 and 1, and of door 3 where it has them (R61–R63, R79). -/
def Obligations.PacketsAndRings : Prop :=
  (∀ (s : State) (d : DoorId) (b p : Bytes) (y : State), s.clk.held = false → mayFetch s d = true → p = fetchBytes s d b →
     y = consumePkt d s →
     (d ≠ 3 → pktCrcComputed p ≠ pktCrc p →
       exec (.commandPacket [(d, b)]) s = .next (refusePkt d p 0x40 (pktCrcComputed p) y)) ∧
     ((d ≠ 3 → pktCrcComputed p = pktCrc p) → pktSeq p ≠ (door y d).expectSeq →
       exec (.commandPacket [(d, b)]) s = .next (refusePkt d p 0x45 (door y d).expectSeq y)) ∧
     (∀ z : State, (d ≠ 3 → pktCrcComputed p = pktCrc p) → pktSeq p = (door y d).expectSeq →
       z = modDoor d (fun x => { x with expectSeq := (x.expectSeq + 1) % 2 ^ 32 }) y →
       (d = 2 → pktCont p = false ∧ collecting (door z 2) = none) →
       (∀ st r0 : Nat, startFault z d p = some (st, r0) → exec (.commandPacket [(d, b)]) s = .next (refusePkt d p st r0 z)) ∧
       (startFault z d p = none → (door z d).floorUsed < 32 → exec (.commandPacket [(d, b)]) s =
         .next (modDoor d (fun x => { x with cmds := x.cmds ++ [{
             tag := pktTag p, opcode := pktOpcode p, flags := pktFlags p, pkt := p, gen := s.fault.gen,
             stage := if d = 2 ∧ pktInLen p ≠ 0 then .collecting (pktInLen p) else .waiting }] })
           (modDoor d (fun x => { x with floorUsed := x.floorUsed + 1 }) z))))) ∧
  (∀ (s : State) (d : DoorId) (v : Word), s.clk.held = false →
     (d ≠ 2 → exec (.cmdTail d v) s = .next (modDoor d (fun x => { x with cmdTail := v.toNat % 2 ^ 12, idle := false }) s)) ∧
     (d ≠ 2 → exec (.rplHead d v) s = .next (modDoor d (fun x => { x with rplHead := v.toNat % 2 ^ 12, idle := false }) s)) ∧
     (d.val < 2 → (door s d).ringEnable = false → exec (.ringEnable d) s = .next (modDoor d (fun x => { x with
       ringEnable := true, cmdHead := 0, cmdTail := 0, rplHead := 0, rplTail := 0, phase := true }) s)) ∧
     (d.val < 2 → exec (.ringDisable d) s = .next (modDoor d (fun x => { x with ringEnable := false }) s)) ∧
     (d ≠ 2 → wbit v 0 = true → exec (.idleHint d v) s =
       .next (raise (112 + 8 * d.val + 7) (modDoor d (fun x => { x with idle := true }) s))) ∧
     (d ≠ 2 → wbit v 0 = false → exec (.idleHint d v) s = .next s))

/-- Door resets: each cause of R64 and R81, what a reset empties, what it keeps, and its end. -/
def Obligations.DoorResets : Prop :=
  ∀ (s : State) (d : DoorId), s.clk.held = false → tableWf {} 0 s.doors = true →
    (d.val < 2 → ∀ i ∈ [Instr.doorReset d 0xC1EA#32, .pcieLinkDown d .linkDown, .pcieLinkDown d .hotReset,
        .pcieLinkDown d .ringAccess, .pcieLinkDown d .functionReset, .pcieLinkDown d .d3hot, .pciePerst d],
      ∃ x, exec i s = .next x ∧ (door x d).resetPend = true ∧ (door x d).replies = [] ∧ (door x d).session = false ∧
        (door x d).expectSeq = 0 ∧ (door x d).ringEnable = false ∧ (door x d).cmdHead = 0 ∧ (door x d).cmdTail = 0 ∧
        (door x d).rplHead = 0 ∧ (door x d).rplTail = 0 ∧ (door x d).notice = 0 ∧ (∀ c ∈ (door x d).cmds, c.dropped = true) ∧
        (door x d).grant = (door s d).grant ∧ x.stock = s.stock ∧ x.fault = s.fault ∧
        ∀ e : Nat, e ≠ d.val → (door x e).cmds = (door s e).cmds ∧ (door x e).replies = (door s e).replies ∧
          (door x e).session = (door s e).session ∧ (door x e).expectSeq = (door s e).expectSeq) ∧
    (d.val < 2 → (door s d).linkUp = false → exec (.pcieLinkUp d) s =
      .next (raise (112 + 8 * d.val + 3) (modDoor d (fun x => { x with linkUp := true, perst := false }) s))) ∧
    ((door s 2).lastSpi = 0x66 → ∃ x, exec .spiDoorReset s = .next x ∧ (door x 2).resetPend = true ∧
      (door x 2).replies = [] ∧ (door x 2).spiQueue = [] ∧ (door x 2).window = none ∧ (door x 2).session = false) ∧
    ((door s 2).lastSpi ≠ 0x66 → exec .spiDoorReset s = .next (modDoor 2 (fun x => { x with lastSpi := 0x99, spiClaim := none }) s)) ∧
    ((door s d).resetPend = true → exec (.doorResetDone d) s =
      .next (setNotice d 5 (modDoor d (fun x => { x with resetPend := false }) s)))

/-- The SPI instructions of door 2 (Table 4-9, R65, R66, R79, R81). -/
def Obligations.SpiInstructions : Prop :=
  ∀ s : State, s.clk.held = false →
    (∀ i ∈ [(Instr.writeCmd, 0x02), (.writeCmdQ, 0x32)], ∀ data : Bytes, data.length = 64 →
      ((door s 2).spiQueue.length < 8 → ∃ x, exec (i.1 data) s = .next x ∧ (door x 2).spiQueue = (door s 2).spiQueue ++ [data] ∧
        (door x 2).idle = false ∧ (door x 2).overrun = (door s 2).overrun ∧ (door x 2).lastSpi = i.2 ∧ x.out = s.out) ∧
      (8 ≤ (door s 2).spiQueue.length → ∃ x, exec (i.1 data) s = .next x ∧ (door x 2).spiQueue = (door s 2).spiQueue ∧
        (door x 2).overrun = true)) ∧
    (∀ n : Nat, 4 ≤ n → ∃ x, exec (.readStatus n) s = .next x ∧ (door x 2).overrun = false ∧
      x.out = .spiData (leBytes 4 (spiStatus s)) :: s.out) ∧
    (∀ i ∈ [(Instr.readReply, 0x0B), (.readReplyQ, 0x6B)], ∀ n : Nat,
      (∀ (r : Reply) (rest : List Reply), 32 ≤ n → (door s 2).replies = r :: rest → ∃ x, exec (i.1 n) s = .next x ∧
        (door x 2).replies = rest ∧ x.out = .spiData (replyBytes r false) :: s.out) ∧
      (32 ≤ n → (door s 2).replies = [] → ∃ x, exec (i.1 n) s = .next x ∧ (door x 2).replies = [] ∧
        x.out = .spiData (List.replicate 32 0#8) :: s.out) ∧
      (n < 32 → ∃ x, exec (i.1 n) s = .next x ∧ (door x 2).replies = (door s 2).replies)) ∧
    (∀ i ∈ [(Instr.readData, 0x0C), (.readDataQ, 0x6C)], ∀ (o n : Nat) (w : Bytes), (door s 2).window.getD [] = w →
      exec (i.1 o n) s = .next (modDoor 2 (fun x => { x with lastSpi := i.2, spiClaim := none }) { s with
        out := .spiData (((w.drop o).take n) ++ List.replicate (n - (w.length - o)) 0#8) :: s.out })) ∧
    (∀ n : Nat, 4 ≤ n → ∃ x, exec (.readNotice n) s = .next x ∧ (door x 2).notice = 0 ∧
      x.out = .spiData (leBytes 4 (door s 2).notice) :: s.out) ∧
    (∀ data : Bytes, data.length = 4 → ∃ x, exec (.writeNoticeMask data) s = .next x ∧
      (door x 2).noticeMask = leNat data % 128 ∧ (door x 2).notice = (door s 2).notice) ∧
    (∃ x, exec .spiIdleHint s = .next x ∧ (door x 2).lastSpi = 0xB9 ∧ x.regs = s.regs ∧
      x = irq2Settle (raise 135 (modDoor 2 (fun y => { y with idle := true })
        (modDoor 2 (fun y => { y with lastSpi := 0xB9, spiClaim := none }) s)))) ∧
    exec .resetEnable s = .next (modDoor 2 (fun x => { x with lastSpi := 0x66, spiClaim := none }) s)

/-- SA_LOAD, SA_RETIRE and SA_QUERY (R170, R171, R176, R177, R245, R249). -/
def Obligations.KeyCommands : Prop :=
  ∀ (s : State) (d : DoorId) (tag : Nat) (c : Cmd), let x := Spec.taken s d tag
    (∀ (hostIn : Option Bytes) (r : Bytes), Spec.Takes s d tag 0x20 c → Spec.Room d c 96 0 →
      cmdInput x d c hostIn = some r → saRecordFault x r = none → loadStops x d r = none →
      (byteAt r 2 = 0 → chanWaits x (leAt r 0 2) = false) →
      exec (.saLoad d tag hostIn) s = .next (Spec.joined x d tag 2 [] r)) ∧
    (∀ (hostIn : Option Bytes) (r : Bytes) (o : Nat), Spec.Takes s d tag 0x20 c → Spec.Room d c 96 0 →
      cmdInput x d c hostIn = some r → saRecordFault x r = some o →
      exec (.saLoad d tag hostIn) s = .next (finishR0 d tag 0x48 (2 ^ 31 + o) x)) ∧
    (∀ n : Nat, Spec.Takes s d tag 0x21 c → n = pLe c.pkt 0 2 → n ≤ 8191 → pByte c.pkt 2 = 0 →
      mayUse (chan s n).owner d = true → applyNamesChan s n = false → chanWaits s n = false →
      exec (.saRetireNext d tag) s = .next (finishR0 d tag 0x00 (if (chan s n).nxt.state = 0 then 0 else 1)
        (bumpLiveVer (setChan n { chan s n with nxt := {} } x)))) ∧
    (∀ n : Nat, Spec.Takes s d tag 0x21 c → n = pLe c.pkt 0 2 → n ≤ 8191 → pByte c.pkt 2 = 1 →
      mayUse (chan s n).owner d = true → applyNamesChan s n = false → bindOf (liveBank s) n = none → chanWaits s n = false →
      exec (.saRetireAll d tag) s = .next (finishR0 d tag 0x00
        ((if (chan s n).cur.state = 0 then 0 else 1) + (if (chan s n).nxt.state = 0 then 0 else 1))
        (bumpLiveVer (setChan n { chan s n with cur := {}, nxt := {}, endCause := 0, owner := none } x)))) ∧
    (∀ first count : Nat, Spec.Takes s d tag 0x22 c → Spec.Room d c 0 (64 * count) → first = pLe c.pkt 0 2 →
      count = pLe c.pkt 2 2 → 1 ≤ count → count ≤ (if d = 2 then 256 else 1024) → first ≤ 8191 → first + count ≤ 8192 →
      (∀ n : Nat, first ≤ n → n < first + count → d = 3 ∨ (chan s n).owner = some d.val) →
      exec (.saQuery d tag) s =
        .next (finish d tag 0x00 0 count 0 0 (some ((List.range count).map fun i => chanRecord x (first + i)).flatten) x))

/-- The ends of a drain and of a grace, key aging and the timeout of a KE slot (R172, R173, R185); KE_OPEN and KE_CLOSE
(R181, R184, R252). -/
def Obligations.KeySlotsAndEvents : Prop :=
  (∀ (s : State) (c : Fin 8192) (k : Fin 16), s.clk.held = false →
     ((chan s c).nxt.state = 3 → chanDir s c = 0 → drainBusy s c = false →
       exec (.keyDrainEmpty c) s = .next (resumeWaits c (setChan c { chan s c with nxt := {} } s))) ∧
     (∀ b : Bind, bindOf (liveBank s) c = some b → b.grace * 1250000 ≤ nowP s - (chan s c).nxt.demotedT →
       (chan s c).nxt.state = 3 → chanDir s c ≠ 0 → kidBusy s (chan s c).nxt.kid = false →
       exec (.rxGraceEnd c) s = .next (setChan c { chan s c with nxt := {} } s)) ∧
     (∀ b : Bind, bindOf (liveBank s) c = some b → nowP s - (chan s c).nxt.demotedT < b.grace * 1250000 →
       exec (.rxGraceEnd c) s = .next s) ∧
     ((chan s c).cur.state = 2 → (chan s c).cur.aged = false → (chan s c).cur.lifetime ≠ 0 →
       7 * (chan s c).cur.lifetime * 1250000000 ≤ 8 * (nowP s - (chan s c).cur.promotedT) →
       exec (.keyAging c) s = .next (raise 161 (setChan c { chan s c with cur := { (chan s c).cur with aged := true } } s))) ∧
     ((chan s c).cur.aged = true → exec (.keyAging c) s = .next s) ∧
     ((keSlot s k).state = 1 → nowP s - (keSlot s k).opened < (keSlot s k).timeout * 1250000000 →
       exec (.keTimeout k) s = .next s) ∧
     ((keSlot s k).state = 1 → (keSlot s k).timeout * 1250000000 ≤ nowP s - (keSlot s k).opened → keRuns s k = false → exec (.keTimeout k) s = .next (raise 163 (orReg keFlags 2
       (setKe k { state := 2, owner := (keSlot s k).owner, serial := (keSlot s k).serial } s)))) ∧
     ((keSlot s k).state = 1 → (keSlot s k).timeout * 1250000000 ≤ nowP s - (keSlot s k).opened → keRuns s k = true →
       exec (.keTimeout k) s = .next (setKe k { keSlot s k with expired := true } s))) ∧
  (∀ (s : State) (d : DoorId) (tag : Nat) (c : Cmd), let x := Spec.taken s d tag
     (∀ t k : Nat, Spec.Takes s d tag 0x30 c → t = pLe c.pkt 0 2 → 1 ≤ t → t ≤ 600 → k < 16 → (keSlot s k).state = 0 →
       (∀ j : Nat, j < k → (keSlot s j).state ≠ 0) → exec (.keOpen d tag) s = .next (finishR0 d tag 0x00 k
         (setKe k { state := 1, owner := d, timeout := t, opened := nowP s, serial := s.keys.nextKid }
           { x with keys := { s.keys with nextKid := s.keys.nextKid + 1 } }))) ∧
     (Spec.Takes s d tag 0x30 c → 1 ≤ pLe c.pkt 0 2 → pLe c.pkt 0 2 ≤ 600 → (∀ j : Nat, j < 16 → (keSlot s j).state ≠ 0) →
       exec (.keOpen d tag) s = .next (finishSt d tag 0x23 0 x)) ∧
     (∀ (hostIn : Option Bytes) (k : Nat), Spec.Takes s d tag 0x32 c → pktPtr c.pkt = false → k = pByte c.pkt 0 → k ≤ 15 →
       pByte c.pkt 1 = 0 → keBarred s d k = false → keRuns s k = false → (keSlot s k).expired = false →
       ((keSlot s k).state = 1 → exec (.keClose d tag hostIn) s = .next (finishR0 d tag 0x00 0 (setKe k {} x))) ∧
       ((keSlot s k).state = 2 → exec (.keClose d tag hostIn) s = .next (finishSt d tag 0x01 0x42 (setKe k {} x)))) ∧
     (∀ (hostIn : Option Bytes) (k : Nat), Spec.Takes s d tag 0x32 c → pktPtr c.pkt = false → k = pByte c.pkt 0 → k ≤ 15 →
       pByte c.pkt 1 = 0 → keBarred s d k = false → keRuns s k = true → (keSlot s k).expired = true →
       exec (.keClose d tag hostIn) s = .next (finishSt d tag 0x01 0x42 (raise 163 (orReg keFlags 2
         (setKe k {} { x with keys := { s.keys with closed := s.keys.closed ++ [keSlot s k] } }))))) ∧
     (∀ (hostIn : Option Bytes) (bs : Bytes) (k n : Nat), Spec.Takes s d tag 0x32 c → pktPtr c.pkt = true →
       pointersOk d c.pkt = true → k = pByte c.pkt 0 → k ≤ 15 → n = pByte c.pkt 1 → 1 ≤ n → n ≤ 4 → pktInLen c.pkt = 24 * n →
       keBarred s d k = false → keState (keSlot s k) = 1 → cmdInput x d c hostIn = some bs →
       pairsFault x (splitPairs n bs) = none → pairsRefused x d (keSlot s k) (splitPairs n bs) = none →
       (∀ r ∈ splitPairs n bs, byteAt r 1 = 0 → (chan s (leAt r 2 2)).owner ≠ none) →
       exec (.keClose d tag hostIn) s = .next (finishR0 d tag 0x00 n
         (keFreed k ((splitPairs n bs).foldl (fun y r => commitPair d (keSlot s k) r y) x)))))

/-- KE_STEP: an operation whose inputs stand in its slot joins its unit; STATUS, MSG_SEND and MSG_RECV complete at once
(R180–R182, R187, R188, Table 12-7). -/
def Obligations.KeSteps : Prop :=
  ∀ (s : State) (d : DoorId) (tag : Nat) (c : Cmd) (hostIn : Option Bytes) (bs : Bytes) (r : StepRow),
    let x := Spec.taken s d tag
    Spec.Takes s d tag 0x31 c →
    (∀ e ∈ [(0x01, Instr.ecKeygen d tag, 0, some []), (0x02, .ecDh d tag hostIn, 0, hostIn),
        (0x03, .kemKeygen d tag, 1, some []), (0x04, .kemEncaps d tag hostIn, 1, hostIn),
        (0x05, .kemDecaps d tag hostIn, 1, hostIn), (0x06, .transcript d tag hostIn, 2, hostIn),
        (0x07, .derive d tag hostIn, 2, hostIn), (0x08, .sign d tag, 0, some [])],
      Spec.StepOk x d e.1 c e.2.2.2 bs r → (e.1 = 0x08 → (vaultAt s (stepArg c)).p384 = true) →
      keState (keSlot s (stepSlot c)) = 1 →
      (Spec.present e.1 (keSlot s (stepSlot c)) = true →
        exec e.2.1 s = .next (Spec.joined x d tag e.2.2.1 [stepSlot c, (keSlot s (stepSlot c)).serial] bs)) ∧
      (Spec.present e.1 (keSlot s (stepSlot c)) = false → exec e.2.1 s = .next (finishSt d tag 0x67 1 x))) ∧
    (Spec.StepOk x d 0x00 c (some []) bs r → exec (.keStatus d tag) s =
      .next (finish d tag 0x00 0 8 0 0 (some (keRecord x (keSlot s (stepSlot c)))) x)) ∧
    (Spec.StepOk x d 0x10 c hostIn bs r → exec (.sha384 d tag hostIn) s = .next (Spec.joined x d tag 2 [0xFF, 0] bs)) ∧
    (∀ e ∈ [(0x11, Instr.ecdsaVerify d tag hostIn, 0), (0x12, .mldsaVerify d tag hostIn, 1)],
      Spec.StepOk x d e.1 c hostIn bs r →
      (stepTranscript c = false → exec e.2.1 s = .next (Spec.joined x d tag e.2.2 [0xFF, 0] bs)) ∧
      (stepTranscript c = true → keState (keSlot s (stepSlot c)) = 1 →
        exec e.2.1 s = .next (Spec.joined x d tag e.2.2 [stepSlot c, (keSlot s (stepSlot c)).serial] bs))) ∧
    (Spec.StepOk x d 0x13 c (some []) bs r → (vaultFull s (stepArg c) = false ∨ stepReplace c = true) →
      exec (.vaultKeygen d tag) s = .next (Spec.joined x d tag 0 [0xFF, 0] bs)) ∧
    (Spec.StepOk x d 0x13 c (some []) bs r → vaultFull s (stepArg c) = true → stepReplace c = false →
      exec (.vaultKeygen d tag) s = .next (finishSt d tag 0x61 1 x)) ∧
    (Spec.StepOk x d 0x14 c (some []) bs r → vaultFull s (stepArg c) = true →
      (if (vaultAt s (stepArg c)).p384 then 56 else 40) ≤ pktOutLen c.pkt →
      exec (.vaultWrap d tag) s = .next (Spec.joined x d tag 2 [0xFF, 0] bs)) ∧
    (∀ q : Nat, Spec.StepOk x d 0x15 c hostIn bs r → q = stepArg c → isCal (liveBank s) q = true → (cal s q).sendq.length < 16 →
      exec (.msgSend d tag hostIn) s =
        .next (finishSt d tag 0x00 0 (setCal q { cal s q with sendq := (cal s q).sendq ++ [bs] } x))) ∧
    (∀ (q : Nat) (m : Bytes) (o : Bool) (rest : List (Bytes × Bool)), Spec.StepOk x d 0x16 c (some []) bs r → q = stepArg c →
      (cal s q).recvq = (m, o) :: rest → m.length ≤ pktOutLen c.pkt → exec (.msgRecv d tag) s =
        .next (finish d tag 0x00 0 (m.length + (if o then 2 ^ 31 else 0)) (cal s q).dropped 0 (some m)
          (setCal q { cal s q with recvq := rest, dropped := 0 } x))) ∧
    (∀ q : Nat, Spec.StepOk x d 0x16 c (some []) bs r → q = stepArg c → (cal s q).recvq = [] → exec (.msgRecv d tag) s =
      .next (finish d tag 0x01 0x44 0 (cal s q).dropped 0 none (setCal q { cal s q with dropped := 0 } x)))

/-- KEYE_OP_DONE (R170, R176, R177, R180–R183): the unit's oldest operation ends, its slot takes the result and the door its
output; an SA_LOAD's blob has been unwrapped. -/
def Obligations.KeCompletions : Prop :=
  (∀ (s : State) (u : Fin 3) (d tag : Nat) (rest : List (Nat × Nat)) (c : Cmd) (x : State) (k : Nat) (y : KeSlot),
    s.clk.held = false → unitQueue s u = (d, tag) :: rest → findCmd s d tag = some c → c.opcode = 0x31 →
    x = opsCount u (setUnit u rest s) → k = c.aux.headD 0xFF → y = keSlot s k → c.aux = [k, y.serial] → y.state = 1 →
    y.serial ≠ 0 →
    (∀ sc z : Bytes, stepOp c = 0x02 → y.ec = some sc → p384Dh sc c.input = some z → exec (.keyeOpDone u) s =
      .next (Spec.expire (finishSt d tag 0x00 0 (freeNext (setKe k { y with zEc := some (fitBytes 48 z), ec := none } x))))) ∧
    (∀ sc : Bytes, stepOp c = 0x02 → y.ec = some sc → p384Dh sc c.input = none →
      exec (.keyeOpDone u) s = .next (Spec.expire (finishSt d tag 0x01 0x40 x))) ∧
    (∀ r : Bytes × Bytes, stepOp c = 0x04 → mlkemEncaps c.input (Config.freeBytes s.freeCtr 32) = some r →
      exec (.keyeOpDone u) s = .next (Spec.expire (finish d tag 0x00 0 1568 0 0 (some (fitBytes 1568 r.1))
        (freeNext (setKe k { y with kPq := some (fitBytes 32 r.2) } x))))) ∧
    (∀ dk : Bytes, stepOp c = 0x05 → y.dk = some dk → exec (.keyeOpDone u) s = .next (Spec.expire (finishSt d tag 0x00 0
      (freeNext (setKe k { y with kPq := some (fitBytes 32 (mlkemDecaps dk c.input)), dk := none } x))))) ∧
    (stepOp c = 0x06 → exec (.keyeOpDone u) s = .next (Spec.expire (finishSt d tag 0x00 0
      (freeNext (setKe k { y with transcript := y.transcript ++ c.input } x))))) ∧
    (∀ z q out : Bytes, stepOp c = 0x07 → y.zEc = some z → y.kPq = some q →
      out = fitBytes 44 (hkdf384 (fitBytes 48 (sha384 y.transcript)) (z ++ q) c.input 44) →
      exec (.keyeOpDone u) s = .next (Spec.expire (finishSt d tag 0x00 0
        (freeNext (setKe k { y with outs := tset [] y.outs (stepArg c) out } x)))))) ∧
  (∀ (s : State) (d tag : Nat) (rest : List (Nat × Nat)) (c : Cmd) (x : State) (n : Nat) (r : Bytes),
    s.clk.held = false → unitQueue s 2 = (d, tag) :: rest → findCmd s d tag = some c → c.opcode = 0x20 →
    x = opsCount 2 (setUnit 2 rest s) → r = c.input → n = leAt r 0 2 → loadStops x d r = none →
    (∀ bs : Bytes, byteAt r 2 = 0 → chanWaits x n = false → saUnwrap x r = .inr bs →
      exec (.keyeOpDone 2) s = .next (Spec.expire (finishR0 d tag 0x00 (leNat (kcv (bs.take 32))) (takeChan n d
        (Spec.loaded x n r (bs.take 32) (if bs.length = 44 then bs.drop 32 else slice r 24 12)))))) ∧
    (∀ bs : Bytes, byteAt r 2 = 1 → saUnwrap x r = .inr bs → exec (.keyeOpDone 2) s = .next (Spec.expire (finishR0 d tag 0x00
      (if bitAt (byteAt r 3) 2 then 0 else leNat (kcv bs))
      (setVault n { key := bs, p384 := bitAt (byteAt r 3) 2, owner := d } x)))) ∧
    ((byteAt r 2 = 0 → chanWaits x n = false) → saUnwrap x r = .inl 1 → exec (.keyeOpDone 2) s =
      .next (Spec.expire (finishSt d tag 0x49 1 (raise 165 (orReg keFlags 1 (incReg (keyeBase + 0x024) x)))))))

/-- ZEROISE of each scope (R87, R94, R189–R192). -/
def Obligations.Zeroise : Prop :=
  ∀ (s : State) (d : DoorId) (tag : Nat) (c : Cmd), let x := Spec.taken s d tag
    (∀ n : Nat, Spec.Takes s d tag 0x23 c → pByte c.pkt 0 = 0 → n = pLe c.pkt 2 2 → n ≤ 8191 →
      (d = 3 ∨ (chan s n).owner = some d.val) → applyNamesChan s n = false →
      exec (.zeroiseChannel d tag) s = .next (finish d tag 0x00 0
        (if holdsKey s (chan s n).cur || holdsKey s (chan s n).nxt then 1 else 0) 0 0 none
        (raise 164 (bumpLiveVer (resumeWaits n (dropChanFrames n (clearChan n x))))))) ∧
    (∀ cs : List Nat, Spec.Takes s d tag 0x23 c → pByte c.pkt 0 = 1 → pLe c.pkt 2 2 = 0 → s.stock.apply = none →
      cs = (s.keys.chans.map (·.1)).filter (fun n => (chan s n).owner == some d.val) →
      ∃ z n k v, (z, n, k, v) = zeroise cs (fun y => y.owner == d.val) (fun y => y.owner == d.val) x ∧
        exec (.zeroiseOwned d tag) s = .next (finish d tag 0x00 0 n k v none (raise 164 (bumpLiveVer z))) ∧
        k = ((List.range 16).filter fun j => (keSlot s j).state != 0 && (keSlot s j).owner == d.val).length ∧
        (∀ j : Nat, j < 16 → (keSlot s j).state ≠ 0 → (keSlot s j).owner ≠ d.val → keSlot z j = keSlot s j)) ∧
    (Spec.Takes s 3 tag 0x23 c → d = 3 → pByte c.pkt 0 = 2 → pLe c.pkt 2 2 = 0 → ∃ z n,
      z = ((List.range 16).filter fun j => (keSlot s j).state != 0).foldl (fun y j => keFreed j y) x ∧
      n = ((List.range 16).filter fun j => (keSlot s j).state != 0).length ∧
      exec (.zeroiseKe d tag) s = .next (finish d tag 0x00 0 0 n 0 none (raise 164 (bumpLiveVer z)))) ∧
    (Spec.Takes s 3 tag 0x23 c → d = 3 → pByte c.pkt 0 = 3 → pLe c.pkt 2 2 = 0 → ∃ z n k v,
      (z, n, k, v) = zeroise (s.keys.chans.map (·.1)) (fun _ => true) (fun _ => true) (clearMessages x) ∧
      exec (.zeroiseDevice d tag) s = .next (finish d tag 0x00 0 n k v none (raise 164 (bumpLiveVer (zeroiseCancels z)))))

/-- The Headbox and the MAC (R102, R109, R119, R198): what becomes of a frame whose first byte crosses and of a frame whose
last byte has been received. -/
def Obligations.FrameReception : Prop :=
  ∀ s : State, s.clk.held = false →
    (∀ (x : RxFrame) (p : Port) (e : Bool), p = port s x.port →
      e = (x.coding || (portFec (liveBank s) x.port != 0 && x.fecUncorrected != 0)) →
      (portLoop (liveBank s) x.port = false → received s x = some ({ x with coding := e }, s)) ∧
      (portLoop (liveBank s) x.port = true → p.looped = [] → exec (.frameAdmit [x]) s = .next s) ∧
      (∀ (bytes : Bytes) (ok : Bool) (r : List (Bytes × Bool)), portLoop (liveBank s) x.port = true →
        p.looped = (bytes, ok) :: r →
        received s x = some ({ x with bytes := bytes, coding := e || !ok }, setPort x.port { p with looped := r } s))) ∧
    (∀ (x f : RxFrame) (q : Nat) (p : Port) (z y : State), received s x = some (f, z) → q = x.port → p = port z q →
      y = Spec.fecCounted z f →
      (s.fault.mode = 2 ∨ p.state ∉ [3, 4, 5] → exec (.frameAdmit [x]) s = .next z) ∧
      (s.fault.mode ≠ 2 → p.state ∈ [3, 4, 5] →
        (s.clk.draining = true → exec (.frameAdmit [x]) s = .next (cntAdd (portCnt q 15) 1 y)) ∧
        (s.clk.draining = false → p.carrying = false → exec (.frameAdmit [x]) s = .next (cntAdd (portCnt q 14) 1 y)) ∧
        (s.clk.draining = false → p.carrying = true → s.clk.admitStopped = true →
          exec (.frameAdmit [x]) s = .next (cntAdd (portCnt q 15) 1 y)) ∧
        (s.clk.draining = false → p.carrying = true → s.clk.admitStopped = false →
          (s.fault.mode = 1 → exec (.frameAdmit [x]) s = .next (cntAdd (faultDiscardCnt q) 1
            { y with faults := { y.faults with discFrames := satInc 64 y.faults.discFrames } })) ∧
          (s.fault.mode ≠ 1 → pickSlot y (q / 8) = none → exec (.frameAdmit [x]) s = .next (dropPort q 21 y)) ∧
          (∀ i : Nat, s.fault.mode ≠ 1 → pickSlot y (q / 8) = some i →
            exec (.frameAdmit [x]) s = .next (freeNext (Spec.takenIn y (Spec.admitted y f i))))))) ∧
    (∀ (x y : RxFrame) (t u : State), x.port.val < y.port.val → exec (.frameAdmit [x]) s = .next t →
      exec (.frameAdmit [y]) t = .next u →
      exec (.frameAdmit [x, y]) s = .next u ∧ exec (.frameAdmit [y, x]) s = .next u) ∧
    (∀ (q : PortId) (f : Sheet) (n : Nat), s.mach.frames.find? (fun f => f.port == q.val && !f.ended) = some f →
      n = f.bytes.length →
      (f.coding = true → exec (.macFrameEnd q) s = .next (cntAdd (portCnt q 5) 1 (discardFrm f s))) ∧
      (f.coding = false → n < 64 → exec (.macFrameEnd q) s = .next (cntAdd (portCnt q 3) 1 (discardFrm f s))) ∧
      (f.coding = false → 64 ≤ n → f.maxFrame < n →
        exec (.macFrameEnd q) s = .next (cntAdd (portCnt q 4) 1 (discardFrm f s))) ∧
      (f.coding = false → 64 ≤ n → n ≤ f.maxFrame → crc32 (f.bytes.take (n - 4)) ≠ leAt f.bytes (n - 4) 4 →
        exec (.macFrameEnd q) s = .next (cntAdd (portCnt q 2) 1 (discardFrm f s))) ∧
      (∀ y : State, f.coding = false → 64 ≤ n → n ≤ f.maxFrame → crc32 (f.bytes.take (n - 4)) = leAt f.bytes (n - 4) 4 →
        y = (if beAt f.bytes 12 2 = 0x8808 then cntAdd (portCnt q 6) 1 s else s) →
        (f.stage = .unmapped → exec (.macFrameEnd q) s = .next (cntAdd (portCnt q 7) 1 (discardFrm f y))) ∧
        (f.stage ≠ .unmapped → exec (.macFrameEnd q) s = .next (modFrm f.id (fun x => { x with ended := true })
          (cntAdd (portCnt q 1) n (cntAdd (portCnt q 0) 1 y))))))

/-- Wire's decisions (R10, R121–R125, R146). -/
def Obligations.WireDecisions : Prop :=
  ∀ (s : State) (dir : Fin 2) (f : Sheet) (b : Bank), s.clk.held = false → Spec.oldest s .headbox dir = some f →
    b = bankOf s f.bank →
    (∀ i : Nat, f.port < 8 → ((policyHit b f = none ∧ i = 17) ∨ (∃ v, policyHit b f = some v ∧ vb v 11 = 0 ∧ i = 16) ∨
        (∃ v, policyHit b f = some v ∧ vb v 11 = 2 ∧ bindOf b (vle v 24 2) = none ∧ i = 16)) →
      exec (.wireCheck dir) s = .next (Spec.atEnd s f (discardPort f i s))) ∧
    (8 ≤ f.port → beAt f.bytes 12 2 = 0x88E5 → isCal b (f.port - 8) = false → (secTagOk f.bytes = false ∨
        sciLookup b (f.port - 8) (readSecTag f.bytes).sci = none) →
      exec (.wireCheck dir) s = .next (Spec.atEnd s f (discardPort f 22 s))) ∧
    (8 ≤ f.port → beAt f.bytes 12 2 = 0x88B5 → isCal b (f.port - 8) = true →
      exec (.wireCheck dir) s = .next (modFrm f.id (fun x => { x with stage := .cell }) s)) ∧
    (∀ c e k n g : Nat, Spec.bound s f c e k n → g = (n + 255) / 256 →
      (egressCarries s f e = false →
        exec (.wireCheck dir) s = .next (Spec.atEnd s f (discardDown false { f with egress := e } s))) ∧
      (egressCarries s f e = true → quotaOf s f c < chanCharge s c + g →
        exec (.wireCheck dir) s = .next (Spec.atEnd s f (dropChan c 2 (discardFrm f s)))) ∧
      (egressCarries s f e = true → chanCharge s c + g ≤ quotaOf s f c → f.port < 8 → classLimit s e k ≠ 0 →
        classLimit s e k < classCharge s e k + g →
        exec (.wireCheck dir) s = .next (Spec.atEnd s f (dropChan c 3 (discardFrm f s)))) ∧
      (egressCarries s f e = true → chanCharge s c + g ≤ quotaOf s f c →
        (f.port < 8 → classLimit s e k = 0 ∨ classCharge s e k + g ≤ classLimit s e k) → exec (.wireCheck dir) s =
          .next (modFrm f.id (fun x => { x with stage := .couch, chan := some c, egress := e, cls := k, granules := g }) s))) ∧
    (∀ (v : Bytes) (e k g : Nat), policyHit b f = some v → vb v 11 = 1 → k = vb v 23 → g = (f.bytes.length + 255) / 256 →
      ((f.port < 8 ∧ ∃ d x, mapOf b f.port = some (d, x) ∧ isCal b d = false ∧ e = 8 + d) ∨
        (8 ≤ f.port ∧ beAt f.bytes 12 2 ≠ 0x88E5 ∧ beAt f.bytes 12 2 ≠ 0x88B5 ∧ e = vb v 26 ∧ portExists (liveBank s) e = true)) →
      (egressCarries s f e = false →
        exec (.wireCheck dir) s = .next (Spec.atEnd s f (discardDown false { f with egress := e } s))) ∧
      (egressCarries s f e = true → ((f.port < 8 ∧ classLimit s e k ≠ 0 ∧ classLimit s e k < classCharge s e k + g) ∨
          256 < bypassCharge s e + g) → exec (.wireCheck dir) s = .next (Spec.atEnd s f (discardPort f 20 s))) ∧
      (egressCarries s f e = true → (f.port < 8 → classLimit s e k = 0 ∨ classCharge s e k + g ≤ classLimit s e k) →
        bypassCharge s e + g ≤ 256 → exec (.wireCheck dir) s =
          .next (modFrm f.id (fun x => { x with stage := .couch, bypass := true, egress := e, cls := k, granules := g }) s)))

/-- The Couch (R126–R129, R144, R148, R169, R175). -/
def Obligations.CouchDeals : Prop :=
  ∀ (s : State) (dir : Fin 2) (f : Sheet), s.clk.held = false → Spec.oldest s .couch dir = some f →
    (f.chan = none → exec (.couchDeal dir) s =
      .next (passCouch { f with stage := .dryer, verified := true, result := f.bytes.take (f.bytes.length - 4) } s)) ∧
    (∀ (c : Nat) (x : Bind) (y : State), f.chan = some c → bindOf (bankOf s f.bank) c = some x → y = rebind c s →
      (dir = 0 → isCal (bankOf s f.bank) x.dry = true → (chan s (latTx (calBank s x.dry) x.dry)).cur.state = 2 →
        (pickLane y (chan y c).lanes = none → exec (.couchDeal dir) s = .next y) ∧
        (∀ i : Nat, pickLane y (chan y c).lanes = some i → exec (.couchDeal dir) s = .next
          (passCouch { f with stage := .dryer, verified := true, result := f.bytes.take (f.bytes.length - 4) } y))) ∧
      (dir = 0 → isCal (bankOf s f.bank) x.dry = true → (chan s (latTx (calBank s x.dry) x.dry)).cur.state ≠ 2 →
        exec (.couchDeal dir) s = .next (Spec.atEnd s f (discardChan f 5 s))) ∧
      (dir = 0 → isCal (bankOf s f.bank) x.dry = false → encSlot (chan s c) f.boundary = none →
        exec (.couchDeal dir) s = .next (Spec.atEnd s f (discardChan f 5 s))) ∧
      (∀ (w : Bool) (k : KeySlot), dir = 0 → isCal (bankOf s f.bank) x.dry = false → encSlot (chan s c) f.boundary = some w →
        k = slotOf (chan y c) w →
        (pickLane y (chan y c).lanes = none → exec (.couchDeal dir) s = .next y) ∧
        (∀ i : Nat, pickLane y (chan y c).lanes = some i → exec (.couchDeal dir) s = .next (assignPn c w (passCouch
          { f with stage := .press, lane := i, pn := some k.pn, kid := k.kid, verified := true,
                   result := macsecSeal x k k.pn (f.bytes.take (f.bytes.length - 4)) } y)))) ∧
      (dir = 1 → decSlot (chan s c) ((readSecTag f.bytes).tci % 4) = none →
        exec (.couchDeal dir) s = .next (Spec.atEnd s f (discardChan f 5 s))) ∧
      (∀ (w : Bool) (k : KeySlot) (t : SecTag) (pn : Nat), dir = 1 → t = readSecTag f.bytes →
        decSlot (chan s c) (t.tci % 4) = some w → k = slotOf (chan s c) w →
        pn = (if x.suite = 0 then t.pn else recoverPn t.pn (lowestPn k x.window)) →
        (pn = 0 → exec (.couchDeal dir) s = .next (Spec.atEnd s f (discardPort f 22 s))) ∧
        (pn ≠ 0 → x.replay = true → replayBad k x.window pn = true →
          exec (.couchDeal dir) s = .next (Spec.atEnd s f (discardChan f 6 s))) ∧
        (∀ i : Nat, pn ≠ 0 → (x.replay = false ∨ replayBad k x.window pn = false) → pickLane y (chan y c).lanes = some i →
          exec (.couchDeal dir) s = .next (passCouch { f with
            stage := .press, lane := i, pn := some pn, kid := k.kid, verified := (macsecOpen x k pn f.bytes).isSome,
            result := (macsecOpen x k pn f.bytes).getD [] } y))))

/-- From a Press lane to the line (R116, R124, R127, R128, R132, R134, R135, R137, R138). -/
def Obligations.FramesLeave : Prop :=
  ∀ (s : State) (r : FeltRead) (q : PortId), s.clk.held = false →
    (∀ (i : LaneId) (f : Sheet) (rest : List Sheet), laneQueue s i = f :: rest →
      (r.uncorrectable = false → exec (.pressDone i r) s =
        .next (modFrm f.id (fun x => { x with stage := .dryer }) (cntAdd feltCeCnt r.corrected s))) ∧
      (r.uncorrectable = true → exec (.pressDone i r) s =
        .next (raise 82 (cntAdd feltUeCnt 1 (dropPort f.egress 23 (discardFrm f (cntAdd feltCeCnt r.corrected s))))))) ∧
    (∀ (c : Fin 8192) (f : Sheet) (pn : Nat) (x : Bind) (k : KeySlot),
      s.mach.frames.find? (fun f => (f.stage == .press || f.stage == .dryer || f.stage == .held) && f.chan == some c.val) = some f →
      f.stage = .dryer → f.ended = true → f.pn = some pn → bindOf (bankOf s f.bank) c = some x →
      k = slotOf (chan s c) ((chan s c).nxt.kid == f.kid) →
      (f.port < 8 → exec (.dryerRelease (.channel c)) s = .next (enqueue f s)) ∧
      (8 ≤ f.port → f.port < 16 → f.verified = false → exec (.dryerRelease (.channel c)) s = .next (discardChan f 7 s)) ∧
      (8 ≤ f.port → f.port < 16 → f.verified = true → x.replay = true → k.kid = f.kid → replayBad k x.window pn = true →
        exec (.dryerRelease (.channel c)) s = .next (discardChan f 6 s)) ∧
      (8 ≤ f.port → f.port < 16 → f.verified = true → (x.replay = false ∨ k.kid ≠ f.kid ∨ replayBad k x.window pn = false) →
        exec (.dryerRelease (.channel c)) s = .next (enqueue f (acceptPn c f.kid pn s)))) ∧
    (∀ f : Sheet, s.mach.frames.find? (fun f => (f.stage == .press || f.stage == .dryer || f.stage == .held) && (f.bypass && f.port == q.val)) = some f →
      f.stage = .dryer → f.ended = true → f.chan = none → exec (.dryerRelease (.bypass q)) s = .next (enqueue f s)) ∧
    (∀ (f : Sheet) (rest : List Sheet) (k : Nat) (g : Egress), egressFree s q = true →
      drr 1024 (classWeight s q) (fun k => (frameQueue s q k).head?.map lineLength) 64 (egressOf s q) = some (k, g) →
      k ∈ [1, 2, 3] → frameQueue s q k = f :: rest → exec (.egressSelect q) s =
        .next (setEgress q (drrSpend g k (lineLength f) rest.isEmpty) (modFrm f.id (fun x => { x with stage := .chosen }) s))) ∧
    (∀ f : Sheet, s.mach.frames.find? (fun f => f.stage == .chosen && f.egress == q.val) = some f →
      ((port s q).carrying = false → exec (.reelStart q r) s = .next (discardDown true f s)) ∧
      ((port s q).carrying = true → r.uncorrectable = false → exec (.reelStart q r) s =
        .next (sendOut q (wireFrame f.result) true
          (lineChange q (modFrm f.id (fun x => { x with stage := .sending })) (cntAdd feltCeCnt r.corrected s)))) ∧
      ((port s q).carrying = true → r.uncorrectable = true → exec (.reelStart q r) s =
        .next (raise 82 (cntAdd feltUeCnt 1 (dropPort f.egress 23 (discardFrm f (cntAdd feltCeCnt r.corrected s))))))) ∧
    (∀ (f : Sheet) (n : Nat) (y : State), s.mach.frames.find? (fun f => f.stage == .sending && f.egress == q.val) = some f →
      n = (wireFrame f.result).length → y = cntAdd (portCnt q 9) n (cntAdd (portCnt q 8) 1 (lineChange q (removeFrm f.id) s)) →
      f.late = false →
      (∀ c : Nat, f.chan = some c →
        exec (.frameTxEnd q) s = .next (portClose q (cntAdd (chanCnt c 1) n (cntAdd (chanCnt c 0) 1 y)))) ∧
      (f.chan = none → exec (.frameTxEnd q) s =
        .next (portClose q (cntAdd (portCnt f.port 19) n (cntAdd (portCnt f.port 18) 1 y))))) ∧
    (∀ (bytes : Bytes) (p : Port), p = port s q →
      (portLoop (liveBank s) q = false → sendOut q bytes true s = emit (.frame q bytes true) s) ∧
      (portLoop (liveBank s) q = true →
        sendOut q bytes true s = setPort q { p with looped := p.looped ++ [(bytes, true)] } s)) ∧
    (∀ y : State, y = cntAdd feltCeCnt r.corrected
        { s with mach := { s.mach with scrub := (s.mach.scrub + 1) % 65536 } } →
      (s.clk.pstate ≠ .run → exec (.feltScrub r) s = .next s) ∧
      (s.clk.pstate = .run → exec (.feltScrub r) s = .next ((if s.mach.scrub = 65535 then cntAdd scrubCnt 1 else id)
        (if r.uncorrectable then cntAdd feltUeCnt 1 y else y))))

/-- LANE_SERVICE, the end of a drain and of a known-answer test (R130, R131, Table 7-3); the states of a port (R108, R109, R111,
Table 6-4). -/
def Obligations.LanesAndPorts : Prop :=
  (∀ (s : State) (i : LaneId) (l : PLane), s.clk.held = false → l = lane s i →
     (∀ (tag : Nat) (c : Cmd) (x : State), Spec.Takes s 3 tag 0x72 c → pByte c.pkt 0 = i → x = Spec.taken s 3 tag →
       (pByte c.pkt 1 = 0 →
         (l.state = 0 → 1 < ((List.range 8).filter fun j => (lane s j).state == 0).length →
           exec (.laneServiceRemove tag) s = .next (laneTo i 1 (setLane i { l with removes := l.removes ++ [(3, tag)] } x))) ∧
         (l.state = 0 → ((List.range 8).filter fun j => (lane s j).state == 0).length ≤ 1 →
           exec (.laneServiceRemove tag) s = .next (finish 3 tag 0x22 0 0 0 0 none x)) ∧
         (l.state = 1 →
           exec (.laneServiceRemove tag) s = .next (setLane i { l with removes := l.removes ++ [(3, tag)] } x)) ∧
         (l.state = 2 ∨ l.state = 5 → exec (.laneServiceRemove tag) s = .next (finish 3 tag 0x00 0 l.state 0 0 none x)) ∧
         (l.state = 3 ∨ l.state = 4 → exec (.laneServiceRemove tag) s = .next (finish 3 tag 0x00 0 2 0 0 none
           (laneReplies i 0x22 l.restore (laneTo i 2 (setLane i { l with restore := [] } x)))))) ∧
       (pByte c.pkt 1 = 1 →
         (l.state = 2 ∨ l.state = 5 → exec (.laneServiceRestore tag) s = .next (setLane i
           { lane (laneTo i 3 x) i with restore := [(3, tag)] } (laneTo i 3 x))) ∧
         (l.state = 1 → exec (.laneServiceRestore tag) s =
           .next (setLane i { l with restoreNext := l.restoreNext ++ [(3, tag)] } x)) ∧
         (l.state = 0 ∨ l.state = 3 ∨ l.state = 4 →
           exec (.laneServiceRestore tag) s = .next (finish 3 tag 0x01 0x21 l.state 0 0 none x)))) ∧
     (∀ y : State, l.state = 1 → laneQueue s i = [] →
       y = laneReplies i 0 l.removes (laneTo i 2 (setLane i { l with removes := [], restoreNext := [] } s)) →
       exec (.laneDrained i) s = .next (if l.restoreNext = [] then y
         else setLane i { lane (laneTo i 3 y) i with restore := l.restoreNext } (laneTo i 3 y))) ∧
     (s.clk.pstate ≠ .run → ∀ pass : Bool, exec (.laneKatDone i pass) s = .next s) ∧
     (s.clk.pstate = .run → l.state = 3 → exec (.laneKatDone i true) s = .next (laneTo i 4 s)) ∧
     (s.clk.pstate = .run → l.state = 3 → exec (.laneKatDone i false) s =
       .next (laneReplies i 0x20 l.restore (laneTo i 5 (setLane i { l with restore := [] } s))))) ∧
  (∀ (s : State) (q : PortId) (signal : Bool) (cdr : Byte) (p : Port) (t : Nat), s.clk.held = false → p = port s q →
     t = (if signal then 3 else 2) →
     (p.state = 1 ∨ (p.state = 6 ∧ s.clk.runWanted = true) →
       exec (.portLanesSet q signal cdr) s = .next (portCdr q cdr.toNat (portTo q t s))) ∧
     (p.state = 2 ∨ p.state = 3 → exec (.signalChange q signal cdr) s = .next (portCdr q cdr.toNat (portTo q t s))) ∧
     (p.state = 5 ∨ p.state = 4 → exec (.lockLoss q signal cdr) s = .next (portCdr q cdr.toNat (portTo q t s))) ∧
     (p.state = 5 ∨ p.state = 3 → exec (.remoteFaultRx q) s = .next (portCdr q 0xFF (portTo q 4 s))) ∧
     (p.state = 3 ∨ p.state = 4 → exec (.portUp q) s = .next (portCdr q 0xFF (portTo q 5 s))) ∧
     (∀ (st : Nat) (p1 : Port), st ≠ p.state →
       p1 = { p with state := st, carrying := false, cdr := if st ∈ [0, 1, 6] then 0 else p.cdr
                     looped := if st ∈ [0, 1, 6] then [] else p.looped, closing := p.closing && st != 0 } →
       (q.val < 8 → portTo q st s = raise (88 + q) ((if p.state = 5 ∧ st ≠ 6 then cntAdd (portCnt q 13) 1 else id)
         (lineChange q (setPort q p1) s))) ∧
       (8 ≤ q.val → portTo q st s = raise (88 + q) ((if p.state = 5 ∧ st ≠ 6 then cntAdd (portCnt q 13) 1 else id)
         (lineChange q (calChange (q - 8) fun x => if p.state = 5 then loseSync (q - 8) (setPort q p1 x)
           else setPort q p1 x) s)))))

/-- What a Calender port sends (R149, R153–R159, R164, R165), the ends of its sync and of a hold (R163, R164), what it does with a
received cell and at a release moment (R159–R161, R163). -/
def Obligations.CalenderPorts : Prop :=
  (∀ (s : State) (d : Fin 8) (v : CalSlot) (b : Bank) (k c : Nat) (y : State), s.clk.held = false →
     v.d = d → b = calBank s d → isCal b d = true → k = (cal s d).slots → c = latTx b d →
     y = setCal d { cal s d with slots := k + 1 } s →
     (slotsPerEpoch s d ≤ k → exec (.calenderSlot v) s = .next s) ∧
     (k < slotsPerEpoch s d →
       ((port s (8 + d)).state ≠ 5 ∨ s.fault.mode ≠ 0 ∨ rasterType b d k = 0 ∨ egressFree s (8 + d) = false) →
       exec (.calenderSlot v) s = .next y) ∧
     (k < slotsPerEpoch s d → (port s (8 + d)).state = 5 → s.fault.mode = 0 → egressFree s (8 + d) = true →
       contFrame s d = none →
       (rasterType b d k ≠ 0 → (chan s c).cur.state = 2 → laneReady y c = false →
         exec (.calenderSlot v) s = .next (calChange d (rebind c) y)) ∧
       (rasterType b d k = 2 → (chan s c).cur.state = 2 → laneReady y c = true →
         exec (.calenderSlot v) s = .next (calChange d (fun x =>
           let z := modCal d (fun w => { w with openTx := false }) (rebind c x)
           sendProtected d c false (cellPlain 2 1 (markBody z d k)) z) y)) ∧
       (rasterType b d k = 1 → (chan s c).cur.state = 2 → laneReady y c = true → (cal s d).sendq = [] →
         (cal s d).hold = true → exec (.calenderSlot v) s = .next (calChange d (fun x =>
           sendProtected d c false (cellPlain 0 0 []) (modCal d (fun w => { w with openTx := false }) (rebind c x))) y)) ∧
       (∀ (m : Bytes) (rest : List Bytes), rasterType b d k = 1 → (chan s c).cur.state = 2 → laneReady y c = true →
         (cal s d).sendq = m :: rest → exec (.calenderSlot v) s = .next (calChange d (fun x =>
           modCal d (fun w => { w with sendq := w.sendq.drop 1 }) (sendProtected d c false
             (cellPlain 2 2 (beBytes 2 m.length ++ m)) (modCal d (fun w => { w with openTx := false }) (rebind c x)))) y)) ∧
       (rasterType b d k = 1 → (chan s c).cur.state ≠ 2 → (cal s d).sendq = [] →
         (∀ f ∈ s.mach.frames, f.stage = .queued → f.egress ≠ 8 + d.val) → exec (.calenderSlot v) s =
           .next (calChange d (fun x => sendCell d (cellHead x d 0x80 0 ++ cellPlain 0 0 [] ++ List.replicate 16 0#8)
             (modCal d (fun w => { w with openTx := true }) x)) y)))) ∧
  (∀ (s : State) (d : Fin 8), s.clk.held = false →
     ((cal s d).okAt + latSync (liveBank s) d * 1250 ≤ nowP s → exec (.syncTimeout d) s =
       .next (calChange d (fun x => setCal d { cal x d with rxSync := false, good := 0 } x) s)) ∧
     (nowP s < (cal s d).okAt + latSync (liveBank s) d * 1250 → exec (.syncTimeout d) s = .next s) ∧
     ((cal s d).hold = false ∨ nowP s < (cal s d).holdFrom + latHold (liveBank s) d * 12500 → exec (.holdExpire d) s = .next s) ∧
     (∀ z : State, (cal s d).hold = true → (cal s d).holdFrom + latHold (liveBank s) d * 12500 ≤ nowP s → z = calChange d (fun x => setCal d { cal x d with holdExpired := true } x) s →
       exec (.holdExpire d) s = .next ((z.mach.frames.filter fun f => f.stage == .queued && f.egress == 8 + d.val &&
         f.sent == 0 && frmCal s f).foldl (fun x f => discardChan f 4 x) z))) ∧
  (∀ (s : State) (d : Fin 8), s.clk.held = false →
     (∀ (f : Sheet) (cm : Nat) (y : State), s.mach.frames.find? (fun f => f.stage == .cell && f.port == 8 + d.val && f.ended) = some f →
       cm = byteAt f.bytes 15 → y = removeFrm f.id s →
       (f.bytes.length ≠ 500 ∨ byteAt f.bytes 14 ≠ 1 →
         exec (.cellReceive d) s = .next (calChange d (cellBad d (decide (128 ≤ cm)) false) y)) ∧
       (f.bytes.length = 500 → byteAt f.bytes 14 = 1 → 128 ≤ cm →
         exec (.cellReceive d) s = .next (calChange d (openCell d f) y)) ∧
       (∀ (c : Nat), f.bytes.length = 500 → byteAt f.bytes 14 = 1 → cm < 128 → c = latRx (bankOf s f.bank) d →
         (decSlot (chan s c) (cm % 4) = none →
           exec (.cellReceive d) s = .next (calChange d (fun x => cellBad d false false (rebind c x)) y)) ∧
         (∀ (w : Bool) (k : KeySlot) (pn : Nat) (iv : Bytes), decSlot (chan s c) (cm % 4) = some w → k = slotOf (chan s c) w →
           pn = beAt f.bytes 16 8 → iv = xorBytes (fitBytes 12 k.salt) (beBytes 4 k.ssci ++ beBytes 8 pn) →
           (pn < k.startPn ∨ pn ≤ k.h →
             exec (.cellReceive d) s = .next (calChange d (fun x => cellBad d false false (rebind c x)) y)) ∧
           (k.startPn ≤ pn → k.h < pn → laneReady s c = false → exec (.cellReceive d) s = .next (rebind c s)) ∧
           (k.startPn ≤ pn → k.h < pn → laneReady s c = true →
             gcmOpen k.key iv (f.bytes.take 24) (slice f.bytes 24 456) (slice f.bytes 480 16) = none →
             exec (.cellReceive d) s = .next (calChange d (fun x => cellBad d false false (rebind c x)) y)) ∧
           (∀ (p : Bytes) (pend : Option Nat), k.startPn ≤ pn → k.h < pn → laneReady s c = true →
             gcmOpen k.key iv (f.bytes.take 24) (slice f.bytes 24 456) (slice f.bytes 480 16) = some p →
             pend = (cal s d).pend.map (·.pi) →
             (fld cm 2 5 ≠ 0 ∨ plainOk (fitBytes 456 p) pend = false → exec (.cellReceive d) s =
               .next (calChange d (fun x => cellBad d false true (syncGood d (rebind c x))) y)) ∧
             (fld cm 2 5 = 0 → plainOk (fitBytes 456 p) pend = true → exec (.cellReceive d) s =
               .next (calChange d (fun x => syncGood d (modCal d (fun z => { z with bad := 0 })
                 (cellContent d f.bank k.kid f.time (pn == k.h + 1 || (k.h == 0 && pn == k.startPn)) (fitBytes 456 p) pend
                   (acceptPn c k.kid pn (cntAdd (portCnt (8 + d) 25) 1 (rebind c x)))))) y)))))) ∧
     (nextHeld s d = none → (cal s d).pend = none → exec (.calRelease d) s = .next s) ∧
     (∀ r : Reasm, nextHeld s d = none → (cal s d).pend = some r → exec (.calRelease d) s =
       .next (if baseOf d r + (latencyOf s d s.stock.active : Int) ≤ (nowP s : Int) then
         setCal d { cal s d with pend := some { r with late := true } } s else s)) ∧
     (∀ f : Sheet, nextHeld s d = some f → (cal s d).pend = none → (nowP s : Int) < dueOf s f →
       exec (.calRelease d) s = .next s) ∧
     (∀ (f : Sheet) (y : State), nextHeld s d = some f → (cal s d).pend = none → dueOf s f ≤ (nowP s : Int) →
       y = enqueue { f with late := f.late || decide (dueOf s f + 1 < (nowP s : Int)) || !egressFree s f.egress } s →
       (∀ g ∈ heldFirst y d, g.late = false ∧ (nowP y : Int) ≤ dueOf y g + 1) → exec (.calRelease d) s = .next y))

/-- Store commands join the Vat's queue in the order of their dispatch, and one that waits is deferred (R70, R224); what each begins
with on an idle Store, where it is not relocation's turn (R217, R220, R222, R225, R226, R231, R232, R236–R239). -/
def Obligations.StoreCommandsStart : Prop :=
  (∀ (s : State) (d : DoorId) (tag op : Nat) (i : Instr) (c : Cmd) (hostIn : Option Bytes) (bs : Bytes),
     (op, i) ∈ [(0x40, Instr.storeRead d tag), (0x41, .storeWrite d tag hostIn), (0x42, .storeErase d tag),
       (0x43, .logAppend d tag hostIn), (0x44, .logRead d tag), (0x45, .logTrim d tag), (0x46, .reamInfo d tag),
       (0x47, .storeFormat d tag)] →
     Spec.Takes s d tag op c → Spec.StoreOk s d tag c hostIn bs →
     (s.vat.st = 1 ∨ (s.vat.busy = true ∧ s.vat.ops ≠ []) ∨
       ∃ o rest, s.vat.ops = o :: rest ∧ o.phase = .hash ∧ findCmd s o.door o.tag ≠ none) →
     exec i s = .next (deferCmd d tag 0x12 (Spec.inVat s d tag c bs { door := d, tag := tag }))) ∧
  (∀ (s : State) (d : DoorId) (tag : Nat) (c : Cmd) (hostIn : Option Bytes) (bs : Bytes) (o : VatOp) (m : Nat) (y : State)
      (z : Cmd), Spec.StoreIdle s → Spec.StoreOk s d tag c hostIn bs → o = { door := d, tag := tag } →
     m = pageSectors s.nand.geom → y = Spec.inVat s d tag c bs o →
     z = { c with stage := .running, input := bs, aux := Spec.storeAux s c } →
     (∀ (first last : Nat) (l : List (List Nat)), Spec.Takes s d tag 0x40 c → first = pLe c.pkt 4 4 / 4096 →
       last = (pLe c.pkt 4 4 + pLe c.pkt 8 4 + 4095) / 4096 →
       l = pageGroups s (pByte c.pkt 0) ((List.range (last - first)).map (first + ·)) →
       (l ≠ [] → exec (.storeRead d tag) s =
         .next (Spec.turn (Spec.inVat s d tag c bs { o with phase := .reads l }) Spec.busied)) ∧
       (l = [] → exec (.storeRead d tag) s = .next (finish d tag 0x00 0 (pLe c.pkt 8 4) 0 0
         (some (reamRead s (pByte c.pkt 0) (pLe c.pkt 4 4) (pLe c.pkt 8 4))) { y with vat := s.vat }))) ∧
     (∀ (w : State) (o1 : VatOp), Spec.Takes s d tag 0x41 c → o1 = { o with phase := .data ((pLe c.pkt 8 4 / 4096 + m - 1) / m) } →
       w = Spec.inVat s d tag c bs o1 →
       (relocDue w = true → exec (.storeWrite d tag hostIn) s = .next w) ∧
       (relocDue w = false → programSecs (pageKind z) (pageSecs w z o1 0) (makeRoom (pageKind z) w) = none →
         exec (.storeWrite d tag hostIn) s = .next (Spec.noRoom d tag w)) ∧
       (∀ (a k : Nat) (x : State), relocDue w = false →
         programSecs (pageKind z) (pageSecs w z o1 0) (makeRoom (pageKind z) w) = some (a, k, x) →
         exec (.storeWrite d tag hostIn) s = .next (Spec.busied (setHead { o1 with pages := [(a, k)] } x)))) ∧
     (Spec.Takes s d tag 0x42 c → bitAt (pByte c.pkt 1) 0 = false → exec (.storeErase d tag) s =
       .next (Spec.turn (Spec.inVat s d tag c bs { o with phase := .commit }) (Spec.recorded d tag))) ∧
     (∀ (b : Nat) (rest : List Nat), Spec.Takes s d tag 0x42 c → bitAt (pByte c.pkt 1) 0 = true → s.nand.pool = b :: rest →
       exec (.storeErase d tag) s = .next (Spec.turn (Spec.inVat s d tag c bs { o with phase := .erases (b :: rest) false })
         fun w => Spec.busied (modBlk b (fun x => { x with torn := true }) (emit (.nand (.erase b)) w)))) ∧
     (∀ (r : Bytes) (n : Nat), Spec.Takes s d tag 0x43 c → r = recordBody s d z → n = 80 + (pktInLen c.pkt + 3) / 4 * 4 + 48 →
       (s.nand.logFill + n ≤ 4096 ∨ s.nand.logUsed < 16384 → exec (.logAppend d tag hostIn) s =
         .next (setUnit 2 (unitQueue s 2 ++ [(d.val, tag)]) (Spec.inVat s d tag c bs { o with phase := .hash, record := r }))) ∧
       (4096 < s.nand.logFill + n → 16384 ≤ s.nand.logUsed → exec (.logAppend d tag hostIn) s =
         .next (finish d tag 0x25 0 0 0 0 none (dropHead (raiseIf (!s.vat.auditFull) 151
           { y with vat := { y.vat with auditFull := true } }))))) ∧
     (Spec.Takes s d tag 0x44 c → s.nand.nextSeq ≤ pLe c.pkt 4 8 → exec (.logRead d tag) s =
       .next (finish d tag 0x01 0x32 0 (s.nand.nextSeq % 2 ^ 32) 0 (some []) { y with vat := s.vat })) ∧
     (Spec.Takes s d tag 0x44 c → pLe c.pkt 4 8 < s.nand.nextSeq → pLe c.pkt 4 8 < s.nand.baseSeq →
       (s.nand.log.filter fun e => decide (pLe c.pkt 4 8 ≤ e.seq)) = [] → exec (.logRead d tag) s =
       .next (finish d tag 0x01 0x31 0 (s.nand.baseSeq % 2 ^ 32) 0 (some []) { y with vat := s.vat })) ∧
     (∀ (r : LogRec) (rest : List LogRec), Spec.Takes s d tag 0x44 c → pLe c.pkt 4 8 < s.nand.nextSeq →
       (s.nand.log.filter fun e => decide (pLe c.pkt 4 8 ≤ e.seq)) = r :: rest →
       (pktOutLen c.pkt < r.bytes.length → exec (.logRead d tag) s =
         .next (finish d tag 0x41 0 r.bytes.length 0 0 none { y with vat := s.vat })) ∧
       (r.bytes.length ≤ pktOutLen c.pkt → exec (.logRead d tag) s = .next (Spec.turn (Spec.inVat s d tag c bs
         { o with phase := .reads (pageGroups s 3 ((takeLogRecs (r :: rest) (pktOutLen c.pkt)).map (·.sector)).eraseDups) })
         Spec.busied))) ∧
     (Spec.Takes s d tag 0x45 c → pLe c.pkt 4 8 ≤ s.nand.nextSeq → exec (.logTrim d tag) s =
       .next (Spec.turn (Spec.inVat s d tag c bs { o with phase := .commit }) (Spec.recorded d tag))) ∧
     (Spec.Takes s d tag 0x45 c → s.nand.nextSeq < pLe c.pkt 4 8 → exec (.logTrim d tag) s =
       .next (finish d tag 0x4A 0 0 0 0 none { y with vat := s.vat })) ∧
     (Spec.Takes s d tag 0x46 c → exec (.reamInfo d tag) s =
       .next (finish d tag 0x00 0 144 0 0 (some (reamInfo s (pByte c.pkt 0))) { y with vat := s.vat })) ∧
     (∀ w : State, Spec.Takes s d tag 0x47 c → w = deferCmd d tag 0x12 y → exec (.storeFormat d tag) s = .next { w with
       vat := { w.vat with st := 5, busy := true, ops := [{ o with phase := .format (lowerRegs y) 3 }] } }))

/-- The end of a NAND operation of the running command (R220, R225–R227, R230, R232, R237–R239, R253); patrol, relocation, levelling,
the interface request and the mount (R216–R218, R230, R233–R236). -/
def Obligations.StoreOperationsEnd : Prop :=
  (∀ (s : State) (r : NandResult) (o : VatOp) (rest : List VatOp) (c : Cmd) (x : State),
     s.clk.held = false → rbit s 0x400A0010 2 = true → s.vat.busy = true → s.vat.stopping = false → s.vat.ops = o :: rest →
     findCmd s o.door o.tag = some c → x = { s with vat := { s.vat with busy := false, fgLast := true } } →
     (∀ (g : List Nat) (l : List (List Nat)) (outs : List (Nat × List (Option (Bytes × Nat)))) (o1 : VatOp) (y : State),
       o.phase = .reads (g :: l) → outs = pageOut s (g.map (sectorKey (pByte c.pkt 0))) r.errs →
       o1 = { o with
         phase := .reads l
         lost := o.lost ++ (g.zip outs).flatMap fun e =>
           (e.2.2.zipIdx.filter fun v => v.1.isNone).map fun v => e.1 * 4 + v.2
         got := (g.zip outs).foldl (fun t e => tset [] t e.1 (delivered4 e.2.2)) o.got } →
       y = readMet ((tget 0 s.nand.loc (sectorKey (pByte c.pkt 0) (g.headD 0)) - 1) / ppb s.nand.geom) (outBits outs)
         (setHead o1 x) →
       (l ≠ [] → exec (.vatOpDone r) s = .next (pump y)) ∧
       (l = [] → exec (.vatOpDone r) s = .next (pump ((if c.opcode = 0x40 then endRead o1 c else endLogRead o1 c) y)))) ∧
     (∀ n : Nat, o.phase = .data n →
       (∀ p : Nat × Nat, r.failed = true → o.pages.getLast? = some p → exec (.vatOpDone r) s =
         .next (pump (retireBlk true (p.1 / ppb s.nand.geom) (setHead { o with pages := o.pages.dropLast } (countPage true x))))) ∧
       (∀ y : State, r.failed = false → y = countPage true x → exec (.vatOpDone r) s = .next (pump
         (setHead { o with phase := if n ≤ 1 then .commit else .data (n - 1) } { y with nand := { y.nand with orphan := true } })))) ∧
     (∀ (b : Nat) (l : List Nat) (o1 : VatOp), o1 = { o with phase := if l = [] then .commit else .erases l false } →
       (o.phase = .erases (b :: l) false → r.failed = false → exec (.vatOpDone r) s =
         .next (pump (setHead { o with phase := .erases (b :: l) true } (erased b (closeBlk b x))))) ∧
       (o.phase = .erases (b :: l) false → r.failed = true →
         exec (.vatOpDone r) s = .next (pump (setHead o1 (retireBlk false b x)))) ∧
       (o.phase = .erases (b :: l) true → r.zeros ≤ 8 → exec (.vatOpDone r) s = .next (pump (setHead o1 x))) ∧
       (o.phase = .erases (b :: l) true → 8 < r.zeros →
         exec (.vatOpDone r) s = .next (pump (setHead o1 (retireBlk false b x))))) ∧
     (∀ b : Nat, o.phase = .commit → r.failed = true → s.nand.jrnBlk = some b →
       exec (.vatOpDone r) s = .next (pump (retireBlk true b (countPage true x)))) ∧
     (∀ y : State, o.phase = .commit → r.failed = false → y = commitPage x →
       (c.opcode = 0x42 → exec (.vatOpDone r) s = .next (pump (vatFinish o 0x00 0
         ((List.range (pLe c.pkt 8 4 / 4096)).filter fun i =>
           tget 0 y.nand.loc (sectorKey (pByte c.pkt 0) (pLe c.pkt 4 4 / 4096 + i)) != 0).length 0 0 none
         (sweepPool r.fails ((List.range (pLe c.pkt 8 4 / 4096)).foldl (fun x i =>
           putSector (sectorKey (pByte c.pkt 0) (pLe c.pkt 4 4 / 4096 + i)) [] 0 0 x) y))))) ∧
       (c.opcode = 0x41 → exec (.vatOpDone r) s = .next (pump (vatFinish o 0x00 0 (pLe c.pkt 8 4 / 4096) 0 0 none
         (settleSpare (spareBlks x) (sweepPool r.fails ((List.range (pLe c.pkt 8 4 / 4096)).foldl (fun x i =>
           let p := o.pages.getD (i / pageSectors s.nand.geom) (0, 0)
           putSector (sectorKey (pByte c.pkt 0) (pLe c.pkt 4 4 / 4096 + i)) (slice c.input (4096 * i) 4096) (p.1 + 1)
             (p.2 + 4 * (i % pageSectors s.nand.geom)) x) y)))))) ∧
       (c.opcode = 0x43 → exec (.vatOpDone r) s = .next (pump (vatFinish o 0x00 0 (y.nand.nextSeq % 2 ^ 32)
         (y.nand.nextSeq / 2 ^ 32) 0 none (settleSpare (spareBlks x) (appendRecord o.record (o.pages.headD (0, 0)) y))))) ∧
       (c.opcode = 0x45 → exec (.vatOpDone r) s = .next (pump (vatFinish o 0x00 0 (trimLog (pLe c.pkt 4 8) y).1 0 0 none
         (trimLog (pLe c.pkt 4 8) y).2)))) ∧
     (∀ (lower : List Nat) (k : Nat) (y : State), o.phase = .format lower k →
       ((true, y) = formatNow lower r x → c.opcode = 0x47 →
         exec (.vatOpDone r) s = .next (pump (vatFinish o 0x00 0 y.nand.user 0 0 none y))) ∧
       ((true, y) = formatNow lower r x → c.opcode ≠ 0x47 →
         exec (.vatOpDone r) s = .next (pump (setHead { o with phase := .waiting } y))) ∧
       ((false, y) = formatNow lower r x → exec (.vatOpDone r) s = .next (pump (vatFinish o 0x26 0 0 0 0 none y))))) ∧
  (∀ (s : State) (r : NandResult), s.clk.held = false →
     (∀ p : Nat, rbit s 0x400A0010 2 = true → s.vat.stopping = false → s.fault.mode ≠ 2 → s.vat.ops = [] →
       (s.vat.st = 3 ∨ s.vat.st = 4) → patrolPage s = some p → exec (.retentionPatrol r) s =
         .next (readMet (p / ppb s.nand.geom) (outBits (pageOut s (inPage s p) r.errs))
           { s with vat := { s.vat with patrol := p + 1 } })) ∧
     (∀ (m : Move) (x : State) (a : Option Move) (z : State), vatIdle true s = true → relocQueued s = true →
       (s.vat.reloc = some m ∧ x = s ∨ s.vat.reloc = none ∧ ∃ b t, m = { src := b, dst := t } ∧
         ((List.range (allBlocks s.nand.geom)).find? fun b => (blk s b).queued && !(blk s b).retired) = some b ∧
         takeBlk (if s.nand.pool.contains b then 1 else 0) s = some (t, x)) →
       ((a, true, z) = moveStep m r { x with vat := { x.vat with fgLast := false } } → exec (.backgroundRelocate r) s =
         .next (pump (incReg 0x40080034 { z with vat := { z.vat with reloc := a } }))) ∧
       ((a, false, z) = moveStep m r { x with vat := { x.vat with fgLast := false } } → exec (.backgroundRelocate r) s =
         .next (pump { z with vat := { z.vat with reloc := a } }))) ∧
     (∀ (m : Move) (a : Option Move) (e : Bool) (z : State), vatIdle true s = true → relocQueued s = false →
       s.vat.level = some m → (a, e, z) = moveStep m r s →
       (s.clk.throttle = 0 →
         exec (.backgroundRelocate r) s = .next { z with vat := { z.vat with level := a } }) ∧
       (s.clk.throttle ≠ 0 → exec (.backgroundRelocate r) s = .next s)) ∧
     (vatIdle false s = true → s.clk.throttle = 0 → s.vat.level = none →
       exec .staticLevelling s = .next { s with vat := { s.vat with level := levelStart s } }) ∧
     (∀ b t : Nat, (reg s 0x40080014).toNat % 2 ^ 16 < eraseMax s - eraseMin s →
       leastBy (fun b => (blk s b).erases) ((goodBlks s).filter fun b => !(liveIn s b).isEmpty) = some b →
       leastBy (fun p => eraseMax s - (blk s p).erases) (emptyBlks (if s.nand.pool.contains b then 1 else 0) s) = some t →
       levelStart s = some { src := b, dst := t }) ∧
     (s.clk.throttle ≠ 0 → exec .staticLevelling s = .next s) ∧
     (∀ m : Move, liveIn s m.src = [] →
       (r.failed = false → moveStep m r s = (none, true, eraseBlk m.src (closeBlk m.src s))) ∧
       (r.failed = true → moveStep m r s = (none, true, retireBlk true m.src s))) ∧
     (∀ (m : Move) (k : Nat) (l keys : List Nat) (outs : List (Nat × List (Option (Bytes × Nat)))) (x : State)
         (secs : List Bytes) (a : Nat) (z : State), liveIn s m.src = k :: l → keys = inPage s (tget 0 s.nand.loc k - 1) →
       outs = pageOut s keys r.errs → x = readMet m.src (outBits outs) s → (blk x m.src).retired = false →
       hasRoom x m.dst = true → secs = outs.map (fun e => delivered4 e.2) → r.failed = false →
       (a, z) = programIn m.dst (secs.zipIdx.map fun (bs, j) => sectorCws (x.freeCtr + 4 * j) bs).flatten
         { x with freeCtr := x.freeCtr + 4 * secs.length } →
       moveStep m r s = (some m, false, placeSecs keys secs a x.freeCtr (countPage false z))) ∧
     (∀ (v : Word) (l : Bool) (y : State) (k : Nat), l = rbit s 0x40080004 31 →
       y = putBit 0x40080004 31 (l || wbit v 31) (writeTyped 0x40080004 l v s) → k = rfld y 0x40080004 1 3 →
       (s.vat.st = 0 ∨ s.vat.st = 1 → exec (.vatIfReq v) s = .next y) ∧
       (1 < s.vat.st → wbit v 0 = false → exec (.vatIfReq v) s = .next (emit (.nand (.features false s.vat.asyncMax k))
         { y with vat := { s.vat with nvddr3 := false, asyncMode := s.vat.asyncMax } })) ∧
       (1 < s.vat.st → wbit v 0 = true → s.vat.ddrOk = true → exec (.vatIfReq v) s = .next (emit (.nand .zqCal)
         (emit (.nand (.features true s.vat.ddrMode k)) { y with vat := { s.vat with nvddr3 := true } }))) ∧
       (wbit v 0 = true → s.vat.ddrOk = false → exec (.vatIfReq v) s = .next y)) ∧
     (∀ (a : MountAnswer) (boot : BootReads), s.vat.st ≠ 1 → exec (.vatMountDone a boot) s = .next s) ∧
     (∀ (a : MountAnswer) (k : Nat), (∃ i : Fin 7, a = .absent i ∧ k = i) ∨
         (∃ p, a = .found p ∧ pageKnown p = false ∧ k = 4) ∨
         (∃ p, a = .found p ∧ pageKnown p = true ∧ spareOk (p.pageBytes / 1024) p.spare = false ∧ k = 5) →
       mountStore a s = pump (raise 154 { s with vat := { s.vat with st := 0, reason := k } })) ∧
     (∀ (a : MountAnswer) (boot : BootReads), s.vat.st = 1 → rbit s 0x400A0010 2 = true →
       (mountStore a s).idn.booting = false → exec (.vatMountDone a boot) s = .next (mountStore a s)) ∧
     (∀ (a : MountAnswer) (boot : BootReads), s.vat.st = 1 → rbit s 0x400A0010 2 = true → (mountStore a s).idn.booting = true →
       sentinelRuns (mountStore a s) = true → exec (.vatMountDone a boot) s = .next (romRun boot (mountStore a s))))

/-- MODULE_XFER and the ends of a transaction (R113–R115, R255). -/
def Obligations.ModuleTransfers : Prop :=
  (∀ (s : State) (d : DoorId) (tag : Nat) (c : Cmd) (hostIn : Option Bytes) (bs : Bytes) (p : Port) (n : Nat) (x : State)
      (t : I2cXfer), Spec.Takes s d tag 0x54 c → Spec.XferOk s d c hostIn tag bs → p = port s (pByte c.pkt 0) →
    n = p.ctrl - 1 → x = Spec.taken s d tag →
    t = { door := d, tag := tag, port := pByte c.pkt 0, addr := p.addr, select := p.select, write := pByte c.pkt 1 == 1
          off := pByte c.pkt 2, len := pByte c.pkt 3, data := bs } →
    (p.ctrl = 0 → exec (.moduleXfer d tag hostIn) s = .next (finish d tag 0x36 0 0 0 0 none x)) ∧
    (p.ctrl ≠ 0 → (i2cCtl s n).running = true → exec (.moduleXfer d tag hostIn) s =
      .next (setI2c n { i2cCtl s n with queue := (i2cCtl s n).queue ++ [t] } x)) ∧
    (p.ctrl ≠ 0 → (i2cCtl s n).running = false → (i2cCtl s n).queue = [] → i2cEnabled s n = true → t.select = 255 →
      (i2cCtl s n).sel = 255 → exec (.moduleXfer d tag hostIn) s =
        .next (emit (.i2c n ((reg s (gpioBase + 0x0A0 + 4 * n)).toNat % 4)
            ([.start, .byte (BitVec.ofNat 8 (2 * t.addr)), .byte (BitVec.ofNat 8 t.off)]
              ++ (if t.write then bs.map .byte else [.restart, .byte (BitVec.ofNat 8 (2 * t.addr + 1)), .read t.len]) ++ [.stop]))
          (modCmd d tag (fun z => { z with committed := true })
            (setI2c n { queue := [t], running := true, last := t.port, sel := 255 } x)))) ∧
    (tableWf {} 0 s.i2c = true → p.ctrl ≠ 0 → (i2cCtl s n).running = false → (i2cCtl s n).queue = [] →
      i2cEnabled s n = false →
      exec (.moduleXfer d tag hostIn) s = .next (finish d tag 0x01 0x14 0 0 0 none
        (raise (104 + n) (setI2c n { i2cCtl s n with queue := [] } (setI2c n { i2cCtl s n with queue := [t] } x)))))) ∧
  (∀ (s : State) (n : Fin 4) (k : Nat) (bs : Bytes) (t : I2cXfer) (rest : List I2cXfer) (m : Nat) (out : Option Bytes) (y : State),
    s.clk.held = false → (i2cCtl s n).queue = t :: rest → (i2cCtl s n).running = true → i2cEnabled s n = true →
    m = min k t.len → out = (if t.write = true ∨ m = 0 then none else some (fitBytes m bs)) →
    y = setI2c n { i2cCtl s n with queue := rest, running := false } s →
    exec (.i2cTransactionDone n ⟨.ok, k, bs⟩) s = .next (i2cPump n (finish t.door t.tag 0x00 0 t.len 0 0
      (if t.write then none else some (fitBytes t.len bs)) y)) ∧
    exec (.i2cTransactionDone n ⟨.addressNack, k, bs⟩) s =
      .next (i2cPump n (finish t.door t.tag 0x01 0x10 0 0 0 none (raise (104 + n) y))) ∧
    exec (.i2cTransactionDone n ⟨.dataNack, k, bs⟩) s =
      .next (i2cPump n (finish t.door t.tag 0x01 0x11 m 0 0 out (raise (104 + n) y))) ∧
    exec (.i2cTransactionDone n ⟨.lost, k, bs⟩) s =
      .next (i2cPump n (finish t.door t.tag 0x01 0x13 m 0 0 out (raise (104 + n) y))) ∧
    exec (.i2cBusTimeout n k bs) s = .next (i2cPump n (finish t.door t.tag 0x01 0x12 m 0 0 out (raise (104 + n)
      (emit (.i2c n ((reg s (gpioBase + 0x0A0 + 4 * n)).toNat % 4) [.pulses 9, .stop]) y)))))

/-- PANEL_POST, the Blitter's jobs and the kick of the seal (R256, R358, R360, R366–R369). -/
def Obligations.PanelJobs : Prop :=
  (∀ (s : State) (d : DoorId) (tag : Nat) (c : Cmd) (hostIn : Option Bytes) (bs : Bytes) (x : State),
    Spec.Takes s d tag 0x60 c → pointersOk d c.pkt = true → postLenBad d c.pkt = none → x = checkCfg (Spec.taken s d tag) →
    postBad x c.pkt = none →
    (x.panel.cfgValid = false ∨ rbit x 0x40060008 1 = false →
      exec (.panelPost d tag hostIn) s = .next (finishSt d tag 0x39 0 x)) ∧
    (x.panel.cfgValid = true → rbit x 0x40060008 1 = true → cmdInput x d c hostIn = some bs → s.panel.queue.length < 16 →
      exec (.panelPost d tag hostIn) s =
        .next (Spec.panelled (fun p => { p with queue := p.queue ++ [postJob x d tag c.pkt bs] }) x))) ∧
  (∀ (s : State) (v : Word) (j : BltJob), s.clk.held = false → j = goJob s →
    (wbit v 0 = false → exec (.bltGo v) s = .next s) ∧
    (wbit v 0 = true → goWhy s j = 0 →
      exec (.bltGo v) s = .next (Spec.panelled (fun p => { p with queue := p.queue ++ [j] }) s)) ∧
    (∀ y : Nat, wbit v 0 = true → y = goWhy s j → y ≠ 0 → exec (.bltGo v) s =
      .next (raise 65 (orReg 0x40070004 (if y = 5 then 6 else 2) (Spec.panelled (fun p => { p with why := y }) s)))) ∧
    (wfld v 0 16 = 0x5EA1 → exec (.sealKick v) s = .next (Spec.panelled (fun p => { p with sealCount := 0 }) s)) ∧
    (wfld v 0 16 ≠ 0x5EA1 → exec (.sealKick v) s = .next s)) ∧
  (∀ (s : State) (j : BltJob) (rest : List BltJob) (u : Nat), s.clk.held = false → s.panel.queue = j :: rest →
    s.panel.postWait = [] → freeUnit s = some u → j.beam = false → (∀ r ∈ runningJobs s, jobHolds r j = false ∧
      (r.input = none ∨ j.input = none)) → exec .bltJobStart s = .next (Spec.panelled (fun p => { p with queue := rest })
        (Spec.panelled (fun p =>
          { p with units := tset none p.units u (some { j with start := nowP s, idle := rfld s 0x40070008 0 10 }) }) s))) ∧
  (∀ (s : State) (u : Fin 2) (q : BltJob), s.clk.held = false → bltUnit s u = some q → q.dead = false →
    nowP s - q.start < 2 * (16 + jobBursts q * (4 + q.idle)) → exec (.bltJobDone u) s = .next s) ∧
  (∀ (s : State) (u : Fin 2) (q : BltJob) (y : State), s.clk.held = false → bltUnit s u = some q → q.dead = false →
    2 * (16 + jobBursts q * (4 + q.idle)) ≤ nowP s - q.start →
    y = (fun z => setReg 0x40070040 (reg z 0x40070040 + 1#32) (setBltUnit u none z))
      ((List.range (q.w * q.h)).foldl (jobPixel q) s) →
    (q.post = none → q.input = none → q.wm = false → q.irq = false →
      exec (.bltJobDone u) s = .next (Spec.panelled (fun p => { p with lastTag := q.tag }) y)) ∧
    (q.post = none → q.input = none → q.wm = true → q.irq = true → exec (.bltJobDone u) s =
      .next (raise 64 (putBit 0x40070004 0 true (setRegN 0x40050020 (q.wmLine + 2 ^ 31)
        (Spec.panelled (fun p => { p with lastTag := q.tag }) y))))) ∧
    (∀ (d tag : Nat) (clip : Bool), q.post = some (d, tag, clip) → q.input ≠ none → q.wm = false → q.irq = false →
      exec (.bltJobDone u) s = .next (finish d tag (if clip then 0x01 else 0x00) (if clip then 0x50 else 0) (q.w * q.h) 0 0 none y)))

/-- The raster's line starts, the Line Sequencer and the Dandy check (R331–R333, R337, R340, R341, R343, R365). -/
def Obligations.RasterEvents : Prop :=
  ∀ s : State, s.clk.held = false →
    (∀ times : List Nat, s.panel.running = false → exec (.lineStart times) s = .next s) ∧
    (∀ times : List Nat, s.panel.running = true → rbit s 0x40050008 0 = false → exec (.lineStart times) s = .next
      (emit (.panelIdle (blankBalls s.panel.live.out)) (Spec.panelled (fun p => { p with
        running := false, hblank := false, motionOpen := false, lsActive := false, work := none, rates := [] }) s))) ∧
    (∀ (times : List Nat) (n : Nat) (t : Timing) (y : State), s.panel.running = true → rbit s 0x40050008 0 = true →
      t = s.panel.live → n = (s.panel.line + 1) % (t.vact + t.vfp + t.vsw + t.vbp) →
      y = Spec.panelled (fun p => { p with line := n, hblank := false }) s →
      (n = t.vact + t.vfp → exec (.lineStart times) s =
        .next (lineCommon (sendBlank (raise 49 (putBit 0x40050004 1 true (applyTiming (pxdivApply y))))))) ∧
      (n ≠ t.vact + t.vfp → n = 0 → exec (.lineStart times) s = .next (lineCommon (sendLine 0 times (scanStart y)))) ∧
      (n ≠ 0 → n < t.vact → exec (.lineStart times) s = .next (lineCommon (sendLine n times y))) ∧
      (n ≠ t.vact + t.vfp → n ≠ 0 → n = t.vact → exec (.lineStart times) s = .next (lineCommon (sendBlank (scanEnd y)))) ∧
      (n ≠ t.vact + t.vfp → t.vact < n → exec (.lineStart times) s = .next (lineCommon (sendBlank y)))) ∧
    (∀ (t : Timing) (b : Nat → Bool → Bool → PanelBalls) (v : Bool), t = s.panel.live →
      v = (decide (t.vact + t.vfp ≤ s.panel.line) && decide (s.panel.line < t.vact + t.vfp + t.vsw)) →
      b = (fun px hs de => clockBalls t.out px hs v de) →
      (t.vact ≤ s.panel.line → sendBlank s = emit (.panelLine s.panel.line
        [(t.hact, b 0 false false), (t.hfp, b 0 false false), (t.hsw, b 0 true false), (t.hbp, b 0 false false)]) s) ∧
      (∀ px hs, bitAt t.out 0 = false → (b px hs false).rgb = 0 ∧ (b px hs true).rgb = px ∧
        (∀ de, (b px hs de).hsync = (hs == bitAt t.out 2) ∧ (b px hs de).vsync = (v == bitAt t.out 3) ∧
          (b px hs de).de = (de != bitAt t.out 4) ∧
          (b px hs de).pclk = (if bitAt t.out 5 then .falling else .rising)))) ∧
    ((s.panel.running = true ∨ rbit s 0x40050008 0 = false) → exec .rasterStart s = .next s) ∧
    (∀ t : Timing, s.panel.running = false → rbit s 0x40050008 0 = true → pxclkRuns s = true → t = s.panel.live →
      (t.ok = false → exec .rasterStart s =
        .next (putBit 0x40050004 10 true (Spec.panelled (fun p => { p with timingPend := false }) s))) ∧
      (t.ok = true → exec .rasterStart s = .next (lineCommon (sendBlank (Spec.panelled (fun p => { p with
        running := true, line := t.vact, hblank := false, heart := 0, frame := p.frame + 1
        lines := [], dandyN := 0, dandy := [], motion := false, chg := p.chg + 1 }) s))))) ∧
    (s.panel.running = true → s.panel.hblank = false →
      (s.panel.line + 2 = s.panel.live.vtot → exec .activeEnd s = .next (lsRestart
        (Spec.panelled (fun p => { p with hblank := true }) s))) ∧
      (s.panel.line + 2 ≠ s.panel.live.vtot → exec .activeEnd s = .next (Spec.panelled (fun p => { p with
        hblank := true, lsOpen := (p.line + 2) % p.live.vtot }) s))) ∧
    (∀ (last : Bool) (line target value : Nat), lsEntry s s.panel.lsPos = (last, line, target, value) →
      (s.panel.lsActive = false → exec .lsEntryWrite s = .next s) ∧
      (s.panel.lsActive = true → (last = true ∨ s.panel.live.vtot ≤ line) →
        exec .lsEntryWrite s = .next (Spec.panelled (fun p => { p with lsActive := false }) s)) ∧
      (s.panel.lsActive = true → last = false → line < s.panel.live.vtot → line < s.panel.lsSrv → exec .lsEntryWrite s =
        .next (raise 54 (putBit 0x40050004 6 true (Spec.panelled (fun p => { p with lsActive := false }) s)))) ∧
      (s.panel.lsActive = true → last = false → line < s.panel.live.vtot → s.panel.lsSrv ≤ line → s.panel.lsOpen < line →
        exec .lsEntryWrite s = .next s) ∧
      (∀ y : State, s.panel.lsActive = true → last = false → line < s.panel.live.vtot → s.panel.lsSrv ≤ line →
        line ≤ s.panel.lsOpen → y = Spec.panelled (fun p => { p with
          lsPos := p.lsPos + 8, lsSrv := line, lsCount := p.lsCount + 1, lsLast := line }) s →
        (0x400 ≤ target → target ≤ 0x4FF → exec .lsEntryWrite s = .next (raise 54 (putBit 0x40050004 7 true y))) ∧
        (target < 0x400 ∨ 0x4FF < target → exec .lsEntryWrite s = .next (cmpWrite target (w32 value) y)))) ∧
    (∀ (q : Dandy) (r : List Dandy) (y : State), s.panel.dandy = q :: r →
      y = Spec.panelled (fun p => { p with dandy := r }) s →
      (q.chg ≠ s.panel.chg → exec .dandyDone s = .next (setReg 0x40060110 (reg s 0x40060110 + 1#32) y)) ∧
      (q.chg = s.panel.chg → (worstDiff 0 q.exact q.sent).1 = 0 →
        exec .dandyDone s = .next (setReg 0x40060108 (reg s 0x40060108 + 1#32) y)))

/-- AUDIO_STREAM, the sample boundary, the audio balls, and the write-only bits that wait for the boundary (R257, R372–R374, R376,
R380, R382–R384, R387). -/
def Obligations.AudioEvents : Prop :=
  (∀ (s : State) (d : DoorId) (tag : Nat) (c : Cmd) (hostIn : Option Bytes) (bs : Bytes) (x : State), x = Spec.taken s d tag →
    Spec.Takes s d tag 0x61 c → pointersOk d c.pkt = true → 2 ≤ pktInLen c.pkt → pktInLen c.pkt % 2 = 0 →
    pktInLen c.pkt ≤ (if d = 2 then 16384 else 65536) →
    (wbit (aud s 8) 0 = false → exec (.audioStream d tag hostIn) s = .next (finishSt d tag 0x39 0 x)) ∧
    (∀ b ∈ s.audio.stream.head?, wbit (aud s 8) 0 = true → b.door ≠ d.val →
      exec (.audioStream d tag hostIn) s = .next (finishSt d tag 0x6A 0 x)) ∧
    (wbit (aud s 8) 0 = true → (∀ b ∈ s.audio.stream.head?, b.door = d.val) → 4 ≤ s.audio.stream.length →
      exec (.audioStream d tag hostIn) s = .next (finishSt d tag 0x24 0 x)) ∧
    (wbit (aud s 8) 0 = true → (∀ b ∈ s.audio.stream.head?, b.door = d.val) → s.audio.stream.length < 4 →
      cmdInput x d c hostIn = some bs → exec (.audioStream d tag hostIn) s =
        .next { x with audio := { x.audio with stream := x.audio.stream ++ [{ door := d, tag := tag, data := bs }] } })) ∧
  (∀ s : State, s.clk.held = false →
    (aclkRuns s = false → exec .sampleBoundary s = .next s) ∧
    (aclkRuns s = true → ∃ t : State, exec .sampleBoundary s = .next t ∧ t.audio.samples = (s.audio.samples + 1) % 2 ^ 32 ∧
      t.audio.prst = [] ∧ t.audio.live = s.regs.filter (fun e => decide (0x40040000 ≤ e.1 ∧ e.1 ≤ 0x4004FFFF)) ∧
      (tableWf {} 0 s.audio.voices = true → ∀ n : Nat, n < 4 → (voice t n).phase =
        if n ∈ s.audio.prst then 0 else ((voice s n).phase + (reg s (0x40040040 + 0x20 * n)).toNat) % 2 ^ 32)) ∧
    (∀ (y0 y1 : Int) (b : AudioBalls), (sinksOut y0 y1 s).out = .audio b :: s.out →
      (b.en0 = (sink s 0).en ∧ b.en1 = (sink s 1).en) ∧
      ((wbit (aud s 8) 1 = false ∨ (sink s 0).en = false) → b.pwm = [] ∧ (tableWf {} 0 s.audio.sinks = true →
        (sink (sinksOut y0 y1 s) 0).e1 = 0 ∧ (sink (sinksOut y0 y1 s) 0).e2 = 0)) ∧
      (wbit (aud s 8) 1 = true → (sink s 0).en = true → audioHeld s = false →
        b.pwm.length = 250 ∧ ∀ e ∈ b.pwm, e.2 = !e.1) ∧
      (wbit (aud s 8) 2 = false → b.bclk = 0 ∧ b.fs = [] ∧ b.sd = []) ∧
      (wbit (aud s 8) 2 = true → audioHeld s = false →
        (wbit (aud s 0x190) 2 = false → b.bclk = 5 ∧ b.sd.length = 50 ∧
          b.fs = List.replicate 25 false ++ List.replicate 25 true) ∧
        (wbit (aud s 0x190) 2 = true → b.bclk = 1 ∧ b.sd.length = 250 ∧ b.fs = true :: List.replicate 249 false))) ∧
    (∀ (v : Word) (n : Fin 4) (y : State), y = writeTyped (0x40040050 + 0x20 * n.val) false v s →
      (wbit v 1 = false → exec (.voiceKey n v) s = .next y ∧ exec (.prst n v) s = .next y) ∧
      (wbit v 1 = true → n.val ∉ s.audio.prst →
        exec (.prst n v) s = .next { y with audio := { y.audio with prst := y.audio.prst ++ [n.val] } })) ∧
    (∀ v : Word, (wbit v 0 = false ∨ spBad s (wbit v 1) = false) → exec (.spRun v) s =
      .next ((fun z : State => { z with audio := { z.audio with spWrite := some (wbit v 0) } })
        (writeTyped 0x400400D0 false v s))) ∧
    (∀ (v : Word) (k : Fin 2), ∃ y : State, y = writeTyped (0x40040200 + 0x100 * k.val) false v s ∧
      exec (.eqCommit k v) s = .next (modSink k (fun z => { z with commit := z.commit || wbit v 8, clr := z.clr || wbit v 9 }) y) ∧
      exec (.eqClr k v) s = .next (modSink k (fun z => { z with commit := z.commit || wbit v 8, clr := z.clr || wbit v 9 }) y)))

/-- General pins: outputs, the lock sequence, edges and the resolution of inputs (R391, R406, R407, R409); fans, tachometers, the fan
watchdog and the three-phase drive (R392–R401). -/
def Obligations.PinsAndFans : Prop :=
  (∀ s : State, s.clk.held = false →
     (∀ (b : Fin 3) (v : Word) (a : Nat), a = 0x40020010 + 4 * b.val →
       exec (.outset b v) s = .next (setReg a (reg s a ||| (v &&& 0xFFFF#32)) s) ∧
       exec (.outclr b v) s = .next (setReg a (reg s a &&& ~~~(v &&& 0xFFFF#32)) s)) ∧
     (∀ (b : Fin 3) (v : Word) (k a : Nat) (toward : Nat → State), k = tget 0 s.pins.lockSeq b → a = 0x40020080 + 4 * b.val →
       toward = (fun j => { s with pins := { s.pins with lockSeq := tset 0 s.pins.lockSeq b j } }) →
       (k < 2 → v = 0x5A#32 → exec (.lockSequence b v) s = .next (toward 1)) ∧
       (k = 1 → v = 0xA5#32 → exec (.lockSequence b v) s = .next (toward 2)) ∧
       (k = 0 → v ≠ 0x5A#32 → exec (.lockSequence b v) s = .next (toward 0)) ∧
       (k = 1 → v ≠ 0x5A#32 → v ≠ 0xA5#32 → exec (.lockSequence b v) s = .next (toward 0)) ∧
       (k = 2 → exec (.lockSequence b v) s = .next (setReg a (reg s a ||| (v &&& 0xFFFF#32)) (toward 0)))) ∧
     (∀ (n : Fin 48) (rising : Bool) (c : Word) (y : State), c = reg s (0x40020100 + 4 * n.val) →
       y = { s with pins := { s.pins with
         level := if rising then s.pins.level + 2 ^ n.val else s.pins.level - 2 ^ n.val } } →
       (bitAt s.pins.level n = rising ∨ rbit s (0x40020070 + 4 * (n.val / 16)) (n.val % 16) = true →
         exec (.gpioEdge n rising) s = .next s) ∧
       (bitAt s.pins.level n ≠ rising → rbit s (0x40020070 + 4 * (n.val / 16)) (n.val % 16) = false →
         wbit c (if rising then 8 else 9) = false → exec (.gpioEdge n rising) s = .next y) ∧
       (bitAt s.pins.level n ≠ rising → rbit s (0x40020070 + 4 * (n.val / 16)) (n.val % 16) = false →
         wbit c (if rising then 8 else 9) = true → exec (.gpioEdge n rising) s = .next
           (raiseIf (wbit c 10) (32 + n.val / 16) (putBit (0x40020060 + 4 * (n.val / 16)) (n.val % 16) true y)))) ∧
     (∀ (n : Fin 48) (high : Bool), rbit s (0x40020070 + 4 * (n.val / 16)) (n.val % 16) = true → bitAt s.pins.level n = false →
       exec (.inputResolved (.gp n) high) s = .next (putBit (0x40020070 + 4 * (n.val / 16)) (n.val % 16) false
         { s with pins := { s.pins with level := s.pins.level + (if high then 2 ^ n.val else 0) } })) ∧
     (∀ (n : Fin 3) (high : Bool), bitAt s.fans.resolved n = false → exec (.inputResolved (.tach n) high) s =
       .next { s with fans := { s.fans with resolved := s.fans.resolved + 2 ^ n.val } }) ∧
     (∀ n : Fin 3, bitAt s.fans.resolved (3 + n.val) = false → exec (.inputResolved (.hall n) false) s =
       .next { s with fans := { s.fans with resolved := s.fans.resolved + 2 ^ (3 + n.val) } }) ∧
     (∀ high : Bool, bitAt s.fans.resolved 6 = false → exec (.inputResolved .trip high) s =
       .next (tripDrives { s with fans := { s.fans with resolved := s.fans.resolved + 2 ^ 6, tripIn := !high } }))) ∧
  (∀ (s : State) (fans : (Fans → Fans) → State → State), s.clk.held = false → fans = (fun f x => { x with fans := f x.fans }) →
     (∀ n : Fin 3, bitAt s.fans.resolved n = false → exec (.tachEdge n) s = .next s) ∧
     (∀ (n : Fin 3) (t : Nat), bitAt s.fans.resolved n = true → (tach s n).edge = some t →
       exec (.tachEdge n) s = .next (tachSettle s n (setTach n { tach s n with edge := some (nowP s) }
         (setRegN (0x40030040 + 0x10 * n.val) (min 0xFFFFFF ((nowP s - t) / 125)) s)))) ∧
     (∀ n : Fin 4, slowCounts s n = true → (tach s n).faulted = false →
       rfld s (0x40030048 + 0x10 * n.val) 16 16 * 1250000 ≤ nowP s - slowSince s n → exec (.fanFault n) s =
       .next (raise (36 + n.val) (putBit 0x40030004 n true (setTach n { tach s n with faulted := true } s)))) ∧
     (∀ n : Fin 4, (slowCounts s n = false ∨ (tach s n).faulted = true ∨
       nowP s - slowSince s n < rfld s (0x40030048 + 0x10 * n.val) 16 16 * 1250000) → exec (.fanFault n) s = .next s) ∧
     exec .fanTableEval s =
       .next (fans (fun f => { f with tableDuty := tableDutyAt s s.clk.hotTemp, tableBad := !tableAscends s }) s) ∧
     (∀ v : Word, wfld v 0 16 ≠ 0xFA5E → exec (.fanKick v) s = .next s) ∧
     (∀ v : Word, wfld v 0 16 = 0xFA5E → rbit s 0x40030008 0 = true → exec (.fanKick v) s =
       .next (fans (fun f => { f with wdog := some (rfld s 0x40030010 0 16, nowP s) }) s)) ∧
     (∀ v : Word, wfld v 0 16 = 0xFA5E → rbit s 0x40030008 0 = false → exec (.fanKick v) s =
       .next (fans (fun f => { f with left := rfld s 0x40030010 0 16 }) s)) ∧
     (∀ (v : Word) (y : State),
       y = putBit 0x40030008 31 (rbit s 0x40030008 31 || wbit v 31) (writeTyped 0x40030008 false v s) →
       (wbit v 0 = true → exec (.manual v) s =
         .next (fans (fun f => { f with wdog := some (rfld y 0x40030010 0 16, nowP y) }) y)) ∧
       (wbit v 0 = false → exec (.manual v) s = .next (fans (fun f => { f with wdog := none, left := fanLeft y }) y))) ∧
     (∀ m t : Nat, rbit s 0x40030008 0 = true → s.fans.wdog = some (m, t) → m * 1250000 ≤ nowP s - t →
       exec .fanTakeover s = .next (raise 43 (putBit 0x40030004 6 true
         (fans (fun f => { f with wdog := none, left := 0 }) (putBit 0x40030008 0 false s))))) ∧
     (rbit s 0x40030008 0 = false → exec .fanTakeover s = .next s) ∧
     (∀ (c : Fin 8) (m : Nat) (y : State), m = c.val &&& fld s.fans.resolved 3 3 → m ≠ s.fans.hall →
       y = fans (fun f => { f with hall := m }) s → (bitAt s.fans.hall 0 = false ∨ bitAt m 0 = true) →
       (s.fans.f3 = 2 → (m = 0 ∨ m = 7) → exec (.hallChange c) s =
         .next (gateSettle (gateSince s (pwmTick s)) (raise 42 (putBit 0x40030004 7 true y)))) ∧
       (s.fans.f3 = 2 → 1 ≤ m → m ≤ 6 → exec (.hallChange c) s = .next (gateSettle (gateSince s (pwmTick s)) y)) ∧
       (s.fans.f3 ≠ 2 → exec (.hallChange c) s = .next y)) ∧
     (∀ y : State, y = raise 40 (putBit 0x40030004 4 true (fans (fun f => { f with tripIn := true }) s)) →
       (s.fans.f3 ≠ 0 → exec .fan3Trip s = .next (tripDrives (gateSettle (gateSince y (pwmTick y))
         (raise 44 (fans (fun f => { f with f3 := 0, arm := false }) y))))) ∧
       (s.fans.f3 = 0 → exec .fan3Trip s = .next (tripDrives (fans (fun f => { f with arm := false }) y)))) ∧
     (s.fans.tripIn = true → bitAt s.fans.resolved 6 = true → exec .f3TripRelease s =
       .next (tripDrives (raiseIf (s.fans.f3 == 0) 41 (fans (fun f => { f with tripIn := false }) s)))) ∧
     (s.fans.f3 = 0 → s.fans.tripIn = false →
       exec .f3Clr s = .next (raise 44 (fans (fun f => { f with f3 := 1, arm := false }) s))) ∧
     (s.fans.f3 = 0 → s.fans.tripIn = true → exec .f3Clr s = .next (putBit 0x40030004 5 true s)) ∧
     (s.fans.f3 = 0 → exec .f3Arm s = .next (putBit 0x40030004 8 true s)) ∧
     (s.fans.f3 = 1 → exec .f3Arm s = .next (fans (fun f => { f with arm := true }) s)) ∧
     (s.fans.f3 = 2 → exec .f3Disarm s = .next (gateSettle (gateSince s (pwmTick s))
       (raise 44 (fans (fun f => { f with f3 := 1, arm := false }) s)))) ∧
     (∀ y z : State, y = fans (fun f => { f with
         dir := rbit s 0x40030008 2, comp := rbit s 0x40030008 3, dead := rfld s 0x4003001C 0 6, pwmAt := nowP s / 125 })
         ((List.range 4).foldl (fun x n => tachSettle s n (setRegN (0x40030030 + 4 * n) (dutyWanted s n) x)) s) →
       z = { y with out := .fanPwm [applied y 0, applied y 1, applied y 2] :: y.out } →
       (s.fans.arm = false → exec .pwmPeriodStart s = .next (gateSettle (gateSince s 399) z)) ∧
       (s.fans.arm = true → s.fans.f3 = 1 → 1 ≤ s.fans.hall → s.fans.hall ≤ 6 → exec .pwmPeriodStart s =
         .next (gateSettle (gateSince z (pwmTick z)) (raise 44 (fans (fun f => { f with f3 := 2, arm := false }) z)))))) ∧
  (∀ (s : State) (was : List (Option Nat)),
     (s.fans.f3 ≠ 2 → (∀ o ∈ was, o = none) → gateSettle was s = s) ∧
     (s.fans.f3 ≠ 2 → (∃ o ∈ was, o ≠ none) → (gateSettle was s).out = .gates (List.replicate 6 (0, 0)) :: s.out) ∧
     (s.fans.f3 = 2 → (s.fans.hall = 0 ∨ 7 ≤ s.fans.hall) →
       (gateSettle was s).out = .gates (List.replicate 6 (0, 0)) :: s.out) ∧
     (∀ p r : Nat, s.fans.f3 = 2 → hallStep s.fans.hall s.fans.dir = some (p, r) →
       gateRun s (2 * p) = (0, applied s 3) ∧ gateRun s (2 * r + 1) = (0, 400) ∧ gateRun s (2 * r) = (0, 0) ∧
       gateRun s (2 * p + 1) = if s.fans.comp then (applied s 3, 400) else (0, 0)) ∧
     (∀ g : Nat, (gateHigh s g).1 < (gateHigh s g).2 →
       gateRise s g + s.fans.dead ≤ s.fans.pwmAt + (gateHigh s g).1 ∧ (gateHigh s g).2 = (gateRun s g).2) ∧
     (∀ leg c : Nat, ¬ (((gateHigh s (2 * leg)).1 ≤ c ∧ c < (gateHigh s (2 * leg)).2) ∧
       (gateHigh s (2 * leg + 1)).1 ≤ c ∧ c < (gateHigh s (2 * leg + 1)).2)))

/-- Fuse burns (R39), block locks (R5), the commands of faults (R194–R197, R208–R210, R214); what a fault does: it restarts the recovery
that runs, starts one, or where it is the eighth within a second or the fourth restart, leads to the fault state (R201, R205,
R208–R211). -/
def Obligations.FaultsAndRecoveries : Prop :=
  (∀ s : State, s.clk.held = false →
     (∀ (v : Word) (i : Nat), i = rfld s 0x400B00F0 0 10 →
       (rbit s 0x400B00FC 0 = true ∨ wfld v 0 16 ≠ 0xF05E → exec (.fpkey v) s = .next s) ∧
       (rbit s 0x400B00FC 0 = false → wfld v 0 16 = 0xF05E →
         (s.fuses.burn ≠ none ∨ 832 < i ∨ (64 ≤ i ∧ s.fuses.sensed.lock = true)) →
         exec (.fpkey v) s = .next (putBit 0x400B00F8 2 true s)) ∧
       (rbit s 0x400B00FC 0 = false → wfld v 0 16 = 0xF05E → s.fuses.burn = none → i ≤ 832 →
         (i < 64 ∨ s.fuses.sensed.lock = false) →
         exec (.fpkey v) s = .next { s with fuses := { s.fuses with burn := some i } })) ∧
     (∀ i : Nat, s.fuses.burn = some i → exec .fuseBurnDone s = .next (putBit 0x400B00F8 1 true
       { s with fuses := { s.fuses with blown := blowBit i s.fuses.blown, burn := none } })) ∧
     (s.fuses.burn = none → exec .fuseBurnDone s = .next s) ∧
     (∃ t : State, exec (.blockLock .idn) s = .next t ∧ rbit t 0x400B00FC 0 = true) ∧
     (∃ t : State, exec (.blockLock .vat) s = .next t ∧ rbit t 0x40080004 31 = true) ∧
     (∃ t : State, exec (.blockLock .pair) s = .next t ∧ rbit t 0x40090008 31 = true) ∧
     (∃ t : State, exec (.blockLock .panel) s = .next t ∧ rbit t 0x40050008 31 = true) ∧
     (∃ t : State, exec (.blockLock .compositor) s = .next t ∧ rbit t 0x40060008 31 = true) ∧
     (∃ t : State, exec (.blockLock .fan) s = .next t ∧ rbit t 0x40030008 31 = true) ∧
     exec (.faultDetected .feltLinkUe) s = .next (startRecovery 0x11 0 s) ∧
     (∀ (l : LaneId), exec (.faultDetected (.pressLane l)) s = .next (startRecovery 0x13 l (failLane l s))) ∧
     (∀ c : Fin 8192, exec (.faultDetected (.chanStateUe c)) s = .next (resumeWaits c (startRecovery 0x14 0 (loseChan c s)))) ∧
     exec (.faultDetected .interpParity) s = .next (startRecovery 0x16 0 s) ∧
     exec (.faultDetected .keyeCheck) s = .next (startRecovery 0x17 0 (orReg keFlags 8 s)) ∧
     exec (.faultDetected .sntMemUe) s = .next (napExit (stopPair 0x22 3 0 0#32 (startRecovery 0x22 0 s))) ∧
     (∀ a : Word, (regionOf a.toNat ∈ [.itcm, .dtcm, .sram] → exec (.faultDetected (.memCorrected a)) s = .next (memCe s)) ∧
       (regionOf a.toNat ∉ [.itcm, .dtcm, .sram] → exec (.faultDetected (.memCorrected a)) s = .next s) ∧
       (regionOf a.toNat = .sram → wbit s.core.cctl 1 = true → exec (.faultDetected (.cacheParity true a)) s =
         .next (cacheErr (dcacheLoad a.toNat { s with pair := { s.pair with
           dcache := s.pair.dcache.filter fun e => e != a.toNat / 32 } }))) ∧
       (∀ data : Bool, (regionOf a.toNat ≠ .sram ∨ wbit s.core.cctl (if data then 1 else 0) = false) →
         exec (.faultDetected (.cacheParity data a)) s = .next s)) ∧
     (∀ (dir : Fin 2) (i : Fin 1024) (f : Sheet), s.mach.frames.find? (fun f => f.slot == some i.val && frmDir f == dir.val) = some f →
       (nowP s < f.time + 1250000 → exec (.stageWatchdog dir i) s = .next s) ∧
       (f.time + 1250000 ≤ nowP s → f.stage ≠ .couch →
         exec (.stageWatchdog dir i) s = .next (startRecovery 0x15 (i.val + 1024 * dir.val) s))) ∧
     (s.fault.mode ≠ 1 → exec .recoveryEnd s = .next s) ∧
     (s.fault.mode = 1 → exec .recoveryEnd s = .next (raise 178
       { s with fault := { s.fault with mode := 0 }, faults := { s.faults with restarts := 0 } }))) ∧
  (∀ (s : State) (code unit : Nat) (rec : State → State), rec = recordFault code unit →
     (s.fault.mode = 2 → startRecovery code unit s = rec s) ∧
     (s.fault.mode = 1 → s.faults.restarts < 3 → startRecovery code unit s = discardFrames (discardCmds code (raise 177
       (cancelApply 2 (rec { s with faults := { s.faults with restarts := s.faults.restarts + 1 } }))))) ∧
     (s.fault.mode = 1 → 3 ≤ s.faults.restarts → (startRecovery code unit s).fault.mode = 2 ∧
       (startRecovery code unit s).faults.last = 0x33 + (s.fault.gen + 1) % 2 ^ 16 * 2 ^ 16) ∧
     (s.fault.mode = 0 → (s.faults.begun.filter fun t => decide (nowP s - t < 1250000000)).length < 7 →
       (startRecovery code unit s).fault.mode = 1 ∧
       (startRecovery code unit s).fault.gen = (s.fault.gen + 1) % 2 ^ 16 ∧
       (startRecovery code unit s).faults.recoveries = satInc 32 s.faults.recoveries ∧
       (startRecovery code unit s).faults.last = code + (s.fault.gen + 1) % 2 ^ 16 * 2 ^ 16 ∧
       (startRecovery code unit s).faults.lastUnit = unit) ∧
     (s.fault.mode = 0 → 7 ≤ (s.faults.begun.filter fun t => decide (nowP s - t < 1250000000)).length →
       (startRecovery code unit s).fault.mode = 2 ∧ (startRecovery code unit s).fault.gen = (s.fault.gen + 1) % 2 ^ 16 ∧
       (startRecovery code unit s).faults.last = 0x32 + (s.fault.gen + 1) % 2 ^ 16 * 2 ^ 16 ∧
       (s.faults.first = 0 → code ≠ 0 →
         (startRecovery code unit s).faults.first = code + (s.fault.gen + 1) % 2 ^ 16 * 2 ^ 16)))

/-- Reset causes (R17, R25–R27): the least low times, what a cause sets and clears, and RESET_RELEASE (R36, Table 2-6); while a reset
is held, every command but those that act in a reset finds nothing to act on (R25). -/
def Obligations.ResetEvents : Prop :=
  ((∀ (s : State) (ns : Nat), s.clk.pstate ≠ .off →
     (10000 ≤ ns → exec (.coldReset ns) s = .next (resetCause true 2 s)) ∧
     (1000 ≤ ns → exec (.warmReset ns) s = .next (resetCause false 3 s)) ∧
     (50 ≤ ns → exec (.coreSupervisorReset ns) s = .next (resetCause true 1 s)) ∧
     (ns < 50 → exec (.coldReset ns) s = .next s ∧ exec (.warmReset ns) s = .next s ∧
       exec (.coreSupervisorReset ns) s = .next s)) ∧
   (∀ s : State, s.clk.pstate ≠ .off → s.clk.pstate ≠ .sleep → ∃ t : State, t = resetCause true 6 s ∧
     exec .clkLoss s = .next { t with clk := { t.clk with refclkOk := false } }) ∧
   (∀ (s : State) (key : Word), s.clk.held = false →
     (wfld key 0 16 = 0xA5C3 → (s.fault.mode ≠ 2 ∨ sentinelRuns s = true) →
       exec (.swrst key) s = .next (resetCause false 4 s)) ∧
     (wfld key 0 16 ≠ 0xA5C3 ∨ (s.fault.mode = 2 ∧ sentinelRuns s = false) → exec (.swrst key) s = .next s)) ∧
   (∀ (s : State) (cold : Bool) (b : Nat) (t : State), b < 8 → t = resetCause cold b s →
     ((s.regs.map (·.1)).Nodup → rbit t 0x400A0004 b = true) ∧
     t.clk.held = true ∧ t.clk.cold = (cold || (s.clk.held && s.clk.cold)) ∧ t.mem = [] ∧ t.core = {} ∧ t.doors = [] ∧ t.stats = [] ∧ t.evc = {} ∧ t.keys = {} ∧ t.pair = {} ∧ t.stock = {} ∧
     t.mach = {} ∧ t.tap = {} ∧ t.loft = s.loft ∧ t.nand = s.nand ∧ t.pending = s.pending) ∧
   (∀ s : State, (s.clk.held = false ∨ s.loft.pwrEn = false ∨ s.clk.thermHold = true) → exec .resetRelease s = .next s) ∧
   (∀ s : State, s.clk.held = true → s.loft.pwrEn = true → s.clk.thermHold = false → s.clk.pstate ≠ .off →
     ∃ t : State, exec .resetRelease s = .next t ∧ t.clk.held = false ∧ t.clk.pstate = .run ∧ t.clk.pllLock = true ∧
       t.fuses.sensed = s.fuses.blown ∧ t.idn.booting = true ∧ t.keys.v0 = deriveV0 kekSeed ∧ t.core = s.core ∧
       t.mem = s.mem)) ∧
  (∀ (i : Instr) (s : State), s.clk.held = true → s.undef = false → Spec.actsInReset i = false → exec i s = .next s)

/-- Power states, throttling, droop, clocks and sensors (R21, R29–R34, R389, R390). -/
def Obligations.PowerAndClocks : Prop :=
  ∀ (s : State) (clk : (Clk → Clk) → State → State), s.clk.held = false → clk = (fun f x => { x with clk := f x.clk }) →
    (s.clk.psBusy = true → exec .psreqRun s = .next s ∧ exec .psreqDim s = .next s ∧ exec .psreqNap s = .next s ∧
      exec .psreqSleep s = .next s) ∧
    (s.clk.psBusy = false → s.clk.pstate = .run →
      exec .psreqRun s = .next (setRegN 0x400A000C 0 s) ∧
      exec .psreqDim s = .next (clk (fun c => { c with psBusy := true, dimWanted := true, napWanted := false, sleepWanted := false })
        (setRegN 0x400A000C 1 s)) ∧
      exec .psreqNap s = .next (clk (fun c => { c with psBusy := true, dimWanted := true, napWanted := true, sleepWanted := false })
        (setRegN 0x400A000C 2 s)) ∧
      exec .psreqSleep s = .next (clk (fun c => { c with psBusy := true, dimWanted := true, napWanted := false, sleepWanted := true })
        (setRegN 0x400A000C 3 s))) ∧
    (s.clk.psBusy = false → s.clk.pstate = .dim → exec .psreqRun s =
        .next (clk (fun c => { c with psBusy := true, runWanted := true, napWanted := false }) (setRegN 0x400A000C 0 s)) ∧
      exec .psreqDim s = .next (setRegN 0x400A000C 1 s)) ∧
    ((s.clk.dimWanted = false ∨ s.clk.draining = false ∨ s.mach.frames ≠ [] ∨ (∃ d < 8, (cal s d).pend ≠ none)) →
      exec .dimDrainEnd s = .next s) ∧
    (s.clk.dimWanted = true → s.clk.draining = true → s.mach.frames = [] → (∀ d < 8, (cal s d).pend = none) →
      s.clk.sleepWanted = true → exec .dimDrainEnd s = .next (vatStop
        (portsDim (clk (fun c => { c with pstate := .dim, dimWanted := false, draining := false, psBusy := true }) s)))) ∧
    (s.clk.dimWanted = false ∨ s.clk.draining = false ∨ nowP s < s.clk.drainFrom + 625000 →
      exec .dimDrainTimeout s = .next s) ∧
    (∀ t : State, s.clk.dimWanted = true → s.clk.draining = true → s.clk.drainFrom + 625000 ≤ nowP s → t = s.mach.frames.foldl (fun x f =>
        cntAdd (portCnt f.port 15) 1 (discardFrm f (if f.stage = .sending then sendOut f.egress f.result false x else x))) s →
      exec .dimDrainTimeout s = .next (dimReached (((List.range 8).filter fun d => (cal s d).pend.isSome).foldl (fun x d =>
        cntAdd (portCnt (8 + d) 15) 1 (setCal d { cal x d with pend := none } x)) t))) ∧
    (s.clk.runWanted = true → s.clk.pstate = .dim → (∀ q : Nat, q < 16 → (port s q).state ≠ 6) →
      exec .dimExitDone s =
        .next (clk (fun c => { c with pstate := .run, psBusy := false, runWanted := false, admitFrom := true }) s)) ∧
    ((s.vat.stopping = false ∨ s.vat.busy = true) → exec .sleepEntryDone s = .next s) ∧
    (s.clk.sleepWanted = true → s.clk.pstate ≠ .run → s.clk.pstate ≠ .off → s.vat.stopping = true → s.vat.busy = false → ∃ t : State, exec .sleepEntryDone s = .next t ∧
      t.clk.pstate = .sleep ∧ t.clk.held = true ∧ t.loft = { s.loft with pwrEn := false } ∧ t.mem = [] ∧ t.core = {}) ∧
    (∀ (temps : List Int) (rails : List Nat) (ts : List Int) (k : Nat) (h : Int) (y : State), ts = newTemps s temps →
      (k, h) = hottest ts → y = telSample ((List.range 8).map fun r => rails.getD r 0) (clk (fun c => { c with
        temps := ts, rails := (List.range 8).map fun r => rails.getD r 0, hotSensor := k, hotTemp := h, cal := 0,
        throttle := newLevel s h }) s) →
      (h < 115 → exec (.telemetrySample temps rails) s = .next (noteRate y)) ∧
      (115 ≤ h → exec (.telemetrySample temps rails) s = .next (clk (fun c => { c with thermHold := true })
        (resetCause true 5 (noteRate y))))) ∧
    (∀ (temps : List Int) (rails : List Nat) (z : State), z = clk (fun c => { c with held := true }) s →
      s.loft.pwrEn = true → s.clk.pstate ≠ .off →
      ((∃ i < 6, 115 ≤ temps.getD i 0) → exec (.telemetrySample temps rails) z =
        .next (clk (fun c => { c with thermHold := true }) (resetCause true 5 z))) ∧
      ((∀ i < 6, temps.getD i 0 < 105) → exec (.telemetrySample temps rails) z =
        .next (clk (fun c => { c with thermHold := false }) z)) ∧
      ((∀ i < 6, temps.getD i 0 < 115) → (∃ i < 6, 105 ≤ temps.getD i 0) → exec (.telemetrySample temps rails) z = .next z)) ∧
    (∀ i : Fin 6, exec (.sensorCal i) s = .next (clk (fun c => { c with cal := 2 ^ i.val }) s)) ∧
    (s.clk.droop = false → exec .droopStart s = .next (noteRate (setRegN 0x400A001C
      (min 65535 ((reg s 0x400A001C).toNat + 1)) (clk (fun c => { c with droop := true }) s)))) ∧
    exec .droopEnd s = .next (noteRate (clk (fun c => { c with droop := false }) s)) ∧
    (∀ (v : Word) (n : Nat), n = wfld v 0 10 →
      ((n < 20 ∨ 1000 < n) → exec (.pxdiv v) s = .next s) ∧
      (20 ≤ n → n ≤ 1000 → pxclkRuns s = true →
        exec (.pxdiv v) s = .next (clk (fun c => { c with pxdivPend := some n }) (setRegN 0x400A0014 n s))) ∧
      (20 ≤ n → n ≤ 1000 → s.clk.pstate = .nap → exec (.pxdiv v) s =
        .next (clk (fun c => { c with pxdivPend := none, pxdivLive := n }) (setRegN 0x400A0014 n s)))) ∧
    (∀ (v : Word) (y : State), y = writeTyped 0x400A0010 false v s → aclkRuns y = aclkRuns s →
      (wbit v 0 = true → exec (.clkGate v) s = .next y) ∧
      (wbit v 0 = false → exec (.clkGate v) s = .next (pxdivApply (rasterOff y))))

/-- The Loft (R28, R315–R322). -/
def Obligations.LoftEvents : Prop :=
  ∀ (s : State) (loft : (Loft → Loft) → State → State), loft = (fun f x => { x with loft := f x.loft }) →
    (∃ t : State, exec .loftReset s = .next t ∧ t.loft = {} ∧ t.clk.held = true ∧ t.clk.pstate = .run ∧
      reg t 0x400A0004 = 1#32 ∧ t.mem = [] ∧ t.fuses.sensed = s.fuses.sensed) ∧
    (∃ t : State, exec .vddAonRemoval s = .next t ∧ t.clk.pstate = .off ∧ t.loft.pwrEn = false ∧ t.clk.held = true ∧
      t.mem = []) ∧
    (s.clk.pstate ≠ .off → (s.clk.pstate ≠ .sleep ∨ s.loft.xtalDead = false) → exec .xtalStart s = .next (loft (fun l => { l with xtalRun := true, xtalDead := false }) s)) ∧
    (s.clk.held = false → exec .xtalFail s = .next (raise 14 (putBit 0x400E0028 4 true
      (loft (fun l => { l with xtalRun := false, xtalDead := true }) s)))) ∧
    (s.loft.wq = [] → exec .loftWriteApply s = .next s) ∧
    (∀ (w : LoftWrite) (r : List LoftWrite), s.loft.wq = w :: r →
      (s.loft.xtalRun = true → s.clk.pstate ≠ .off →
        exec .loftWriteApply s = .next (loftApply w.offset w.mask w.value (loft (fun l => { l with wq := r }) s))) ∧
      (s.loft.xtalRun = false → exec .loftWriteApply s = .next s)) ∧
    (s.loft.xtalRun = false → exec .rtcSecond s = .next s) ∧
    (∀ y : State, y = loft (fun l => { l with
        rtcSec := (s.loft.rtcSec + 1) % 2 ^ 32, rtcSub := 0, xtalPos := (l.xtalPos + (32768 - l.rtcSub)) % 2 ^ 20 }) s →
      rfld s 0x400E0024 0 10 = 0 → s.loft.xtalPos < 2 ^ 20 → s.loft.rtcSub < 32768 →
      s.loft.xtalRun = true → s.clk.pstate ≠ .off → rbit s 0x400E0008 0 = false →
      (rbit s 0x400E0008 1 = true → s.clk.held = false → exec .rtcSecond s = .next (raise 1 y)) ∧
      ((rbit s 0x400E0008 1 = false ∨ s.clk.held = true) → exec .rtcSecond s = .next y)) ∧
    (∀ v : Word, s.clk.held = false →
      (s.loft.wq.length < 4 → exec (.rtcSet v) s = .next (loft (fun l => { l with wq := l.wq ++ [{ offset := 0x01C, mask := 0xFFFFFFFF#32, value := v }] }) s)) ∧
      (4 ≤ s.loft.wq.length → exec (.rtcSet v) s = .next (putBit 0x400E0028 5 true s))) ∧
    (s.clk.held = false → s.loft.xtalRun = false → s.loft.xtalPos < 2 ^ 20 → exec .rtcSubRead s =
      .next (freeNext (loft (fun l => { l with rtcSecL := l.rtcSec }) (emit (.readData (s.loft.rtcSub % 2 ^ 32)) s)))) ∧
    (s.clk.held = false → s.loft.xtalRun = true → s.clk.pstate ≠ .off → rfld s 0x400E0024 0 10 = 0 →
      s.loft.xtalPos < 2 ^ 20 → s.loft.rtcSub < 32768 → ∃ k : Nat, s.loft.rtcSub + k < 32768 ∧ exec .rtcSubRead s =
        .next (freeNext (loft (fun l => { l with
            rtcSub := l.rtcSub + k, xtalPos := (l.xtalPos + k) % 2 ^ 20, rtcSecL := l.rtcSec })
          (emit (.readData (s.loft.rtcSub + k)) s)))) ∧
    (∀ (n : Fin 4) (rising : Bool), s.clk.pstate ≠ .off → s.loft.tstate.getD n 2 ≠ 2 → exec (.tamperEdge n rising) s =
      .next (loftRaise (2 + (if rising then 4 + n.val else n.val)) (setRegN (0x400E0030 + 4 * n.val) s.loft.rtcSec
        (putBit 0x400E0004 (if rising then 4 + n.val else n.val) true s)))) ∧
    (s.clk.pstate ≠ .off → exec .pwrbtnEdge s =
      .next (putBit 0x400E0004 8 true (loft (fun l => { l with forcedPress := false }) s))) ∧
    (∀ (n : Fin 4) (level : BandLevel) (st side : Nat), s.clk.pstate ≠ .off → s.loft.xtalRun = true →
      st = s.loft.tstate.getD n 2 → side = (match level with | .above => 0 | .below => 1 | .within => 2) →
      (st ≠ 2 → (side = 2 ∨ side = st) → exec (.tamperSample n level) s = .next s) ∧
      (st ≠ 2 → side ≠ 2 → side ≠ st → exec (.tamperSample n level) s =
        .next (setRegN (0x400E0030 + 4 * n.val) s.loft.rtcSec (loft (fun l => { l with
          tstate := listSet l.tstate n side, streak := listSet l.streak n (2, 0) }) s))) ∧
      (st = 2 → side = 2 → exec (.tamperSample n level) s =
        .next (loft (fun l => { l with streak := listSet l.streak n (2, 0) }) s))) ∧
    (∀ pressed : Bool, s.clk.pstate ≠ .off → s.loft.xtalRun = true → s.loft.btn ≠ pressed → s.clk.held = false →
      exec (.pwrbtnPress pressed) s = .next (raise (if pressed then 11 else 12)
        (loft (fun l => { l with btn := pressed, longDone := false }) s))) ∧
    (s.loft.btn = true → s.loft.longDone = false → crystalRuns s = true → s.clk.held = false →
      exec .pwrbtnLong s = .next (raise 13 (loft (fun l => { l with longDone := true }) s))) ∧
    (s.loft.btn = true → rbit s 0x400E0008 2 = true → s.loft.pwrEn = true → crystalRuns s = true →
      ∃ t : State, exec .forcedOff s = .next t ∧ t.loft.pwrEn = false ∧ t.clk.held = true ∧ t.clk.pstate = .sleep ∧
        rbit t 0x400E0028 6 = true ∧ t.mem = []) ∧
    (s.loft.pwrEn = false → s.clk.pstate = .sleep → s.loft.xtalRun = true → s.loft.wakeHeld = true →
      exec .pwrEnRise s = .next (loft (fun l => { l with pwrEn := true, wakeHeld := false, sleepExit := true }) s))

/-- Timers (R324–R328) and register commands (R9, R61, R117). -/
def Obligations.TimersAndRegisters : Prop :=
  ∀ s : State, s.clk.held = false →
    (∀ (v : Word) (en : Nat) (y : State), en = wfld v 0 8 → y = (List.range 8).foldl (fun x n =>
        if bitAt en n && !rbit s 0x40010004 n then tmrStart n x else x) s →
      exec (.timerEn v) s = .next (setRegN 0x40010004 (en % 256) y)) ∧
    (∀ v : Word, (∀ n : Nat, n < 8 → wbit v n = true → rbit s 0x40010004 n = true) →
      exec (.timerGo v) s = .next (setRegN 0x40010004
        ((((reg s 0x40010004).toNat ||| wfld v 0 8) &&& 255) % 256) s)) ∧
    (∀ v : Word, exec (.timerStop v) s = .next (setRegN 0x40010004
        (((reg s 0x40010004).toNat &&& (255 - wfld v 8 8)) % 256) s)) ∧
    (∀ ev : TimerEvent, (∀ n : Nat, n < 8 → rbit s 0x40010004 n = false) → exec (.timerCount ev) s = .next s) ∧
    (∀ (k : Fin 8) (c : Nat), (∀ n : Nat, n < 8 → (rbit s 0x40010004 n = true ↔ n = k.val)) → tmrSrc s k = 4 → pxclkRuns s = true →
      c = tmrCountOf s k → c ≠ rfld s (0x40010058 + 0x20 * k.val) 0 16 →
      exec (.timerCount .line) s = .next (tmrMatch k (setRegN (0x40010050 + 0x20 * k.val) ((c + 1) % 2 ^ 16) s))) ∧
    (∀ k : Fin 8, (k.val = 7 ∨ tmrSrc s (k.val + 1) ≠ 5) →
      exec (.timerCountRead k) s = .next (emit (.readData (rfld s (0x40010050 + 0x20 * k.val) 0 16)) s)) ∧
    (∀ (who : EvcTarget) (a v : Word), a.toNat % 4 ≠ 0 →
      exec (.registerWrite who a v) s = (if s.undef then .fault .undefinedPinFunction else .next s) ∧
      exec (.rcRead who a) s = .next s ∧ exec (.counterLatchRead a) s = .next s) ∧
    (∀ (a v : Word), a.toNat % 4 = 0 → 0x40000000 ≤ a.toNat → a.toNat ≤ 0x400FFFFF →
      exec (.rcRead .sentinel a) s = .next (regReadEffect a.toNat (emit (.readData (regPeek s a.toNat).toNat) s)) ∧
      ((regWrite a.toNat v s).undef = false →
        exec (.registerWrite .sentinel a v) s = .next (regWrite a.toNat v s))) ∧
    (∀ (a : Word), a.toNat % 8 = 0 → 0x80100000 ≤ a.toNat → a.toNat ≤ 0x801FFFFF → exec (.counterLatchRead a) s =
      .next { s with out := .readData (cnt s a.toNat % 2 ^ 32) :: s.out
                     latched := tset 0 s.latched a.toNat (cnt s a.toNat / 2 ^ 32) })

/-- Each timer command and each register command completes, and what it leaves: the enables, live values and prescalers (R325),
a count and a wrap (R324, R326), the latches of a chain (R327); the value read, what the read clears or latches and what a
write stores, by the sentinel (R4, R9, R117) and by a host over its door (R61). An access at no multiple of 4 is ignored. -/
def Obligations.TimerAndRegisterCommands : Prop :=
  ∀ s : State, s.clk.held = false → (s.regs.map (·.1)).Nodup → (s.tmr.map (·.1)).Nodup →
    (∀ v : Word,
      (∃ t : State, exec (.timerEn v) s = .next t ∧ Spec.Enabled s t (fun n => wbit v n)) ∧
      (∃ t : State, exec (.timerGo v) s = .next t ∧ Spec.Enabled s t (fun n => rbit s 0x40010004 n || wbit v n)) ∧
      (∃ t : State, exec (.timerStop v) s = .next t ∧ Spec.Enabled s t (fun n => rbit s 0x40010004 n && !wbit v (n + 8)))) ∧
    (∀ (ev : TimerEvent) (k : Fin 8), (∀ n : Nat, n < 8 → n ≠ k.val → rbit s 0x40010004 n = false) →
      (Spec.timerSees s ev k = false → exec (.timerCount ev) s = .next s) ∧
      (Spec.timerSees s ev k = true →
        (ev = .tick → (tget {} s.tmr k).pre < Spec.timerReg s k 0x04 →
          exec (.timerCount ev) s = .next { s with tmr := tset {} s.tmr k { pre := (tget {} s.tmr k).pre + 1 } }) ∧
        (ev = .tick → Spec.timerReg s k 0x04 ≤ (tget {} s.tmr k).pre →
          ∃ t : State, exec (.timerCount ev) s = .next t ∧ Spec.Counted s t k ∧ (tget {} t.tmr k).pre = 0) ∧
        (ev ≠ .tick → ∃ t : State, exec (.timerCount ev) s = .next t ∧ Spec.Counted s t k ∧ t.tmr = s.tmr))) ∧
    (∀ k : Fin 8, ∃ t : State, exec (.timerCountRead k) s = .next t ∧
      t.out = .readData (Spec.timerReg s k 0x10) :: s.out ∧
      (∀ m : Nat, m < 8 →
        (Spec.chainedTo s k m → Spec.timerReg t m 0x14 = Spec.timerReg s m 0x10) ∧
        (¬ Spec.chainedTo s k m → Spec.timerReg t m 0x14 = Spec.timerReg s m 0x14)) ∧
      (∀ a : Nat, (∀ m : Nat, m < 8 → a ≠ 0x40010054 + 0x20 * m) → reg t a = reg s a) ∧
      t.mem = s.mem ∧ t.core = s.core ∧ t.tmr = s.tmr) ∧
    (∀ a v : Word, a.toNat % 4 = 0 →
      (0x40000000 ≤ a.toNat → a.toNat ≤ 0x400FFFFF →
        exec (.rcRead .sentinel a) s = .next (regReadEffect a.toNat (emit (.readData (regPeek s a.toNat).toNat) s)) ∧
        exec (.counterLatchRead a) s = .next (regReadEffect a.toNat (emit (.readData (regPeek s a.toNat).toNat) s)) ∧
        ((regWrite a.toNat v s).undef = false →
          exec (.registerWrite .sentinel a v) s = .next (regWrite a.toNat v s))) ∧
      (a.toNat < 0x40000000 →
        exec (.rcRead .sentinel a) s = .next s ∧ (s.undef = false → exec (.registerWrite .sentinel a v) s = .next s)) ∧
      exec (.rcRead .door0 a) s =
        .next (doorReadEffect 0 a.toNat (emit (.readData (doorPeek 0 a.toNat s).toNat) s)) ∧
      exec (.rcRead .door1 a) s =
        .next (doorReadEffect 1 a.toNat (emit (.readData (doorPeek 1 a.toNat s).toNat) s)) ∧
      ((doorWrite 0 a.toNat v s).undef = false → exec (.registerWrite .door0 a v) s = .next (doorWrite 0 a.toNat v s)) ∧
      ((doorWrite 1 a.toNat v s).undef = false → exec (.registerWrite .door1 a v) s = .next (doorWrite 1 a.toNat v s)) ∧
      (0x80000000 ≤ a.toNat → a.toNat ≤ 0x801FFFFF →
        exec (.counterLatchRead a) s = .next (statLatch a.toNat (emit (.readData (statPeek s a.toNat).toNat) s)))) ∧
    (∀ (who : EvcTarget) (a v : Word), a.toNat % 4 ≠ 0 →
      exec (.rcRead who a) s = .next s ∧ exec (.counterLatchRead a) s = .next s ∧
      (s.undef = false → exec (.registerWrite who a v) s = .next s))

/-- The pair's watchdog, scrubber, modes and outcomes (R292–R299, R434). -/
def Obligations.PairEvents : Prop :=
  ∀ (s : State) (pair : (Pair → Pair) → State → State), s.clk.held = false → pair = (fun f x => { x with pair := f x.pair }) →
    (∀ e : Nat, e = nowP s - s.pair.wdogStart → s.pair.wdogPaused = none → s.idn.booting = false → s.idn.halted = false →
      (s.pair.wdogWarned = false → s.pair.wdogTaken * 1250000 * 7 ≤ 8 * e → exec .wdogWarn s =
        .next (raise 187 (orReg 0x40090004 0x20 (pair (fun p => { p with wdogWarned := true }) s)))) ∧
      (8 * e < s.pair.wdogTaken * 1250000 * 7 → exec .wdogWarn s = .next s) ∧
      (s.pair.wdogTaken * 1250000 ≤ e → exec .sntWatchdog s =
        .next (napExit (stopPair 0x23 3 0 0#32 (startRecovery 0x23 0 s)))) ∧
      (e < s.pair.wdogTaken * 1250000 → exec .sntWatchdog s = .next s)) ∧
    (∀ v : Word,
      (wfld v 0 16 ≠ 0x6B1D → exec (.pairKick v) s = .next s) ∧
      (∀ n, wfld v 0 16 = 0x6B1D → s.pair.wdogPaused = some n → exec (.pairKick v) s = .next (pair (fun p => { p with
        wdogPaused := some (rfld s 0x40090010 0 16) }) s)) ∧
      (wfld v 0 16 = 0x6B1D → s.pair.wdogPaused = none → exec (.pairKick v) s = .next (pair (fun p => { p with
        wdogTaken := rfld s 0x40090010 0 16, wdogStart := nowP s, wdogPaused := none, wdogWarned := false }) s)) ∧
      (rbit s 0x40090008 31 = false → solo s = false →
        exec (.modeReq v) s = .next (setRegN 0x40090008 (b2n (wbit v 0) + b2n (wbit v 31) * 2 ^ 31) s)) ∧
      (rbit s 0x40090008 31 = true ∨ solo s = true → exec (.modeReq v) s = .next (setRegN 0x40090008
        (b2n (rbit s 0x40090008 0) + b2n (rbit s 0x40090008 31 || wbit v 31) * 2 ^ 31) s))) ∧
    (∀ y : State, y = pair (fun p => { p with
        scrubTcm := (p.scrubTcm + 1) % 16384, scrubSram := (p.scrubSram + 1) % 131072 }) s →
      (s.pair.scrubSram ≠ 131071 → exec (.sentinelScrub .clean .clean .clean) s = .next y) ∧
      (s.pair.scrubSram = 131071 → exec (.sentinelScrub .clean .clean .clean) s =
        .next (setRegN 0x40090038 ((reg s 0x40090038).toNat + 1) y))) ∧
    (∀ (a b : Bool) (boot : BootReads), (s.pair.handling ≠ .bist ∨ s.faults.bist = true) →
      exec (.bistDone a b boot) s = .next s) ∧
    (∀ (boot : BootReads) (y : State), s.pair.handling = .bist → s.faults.bist = false → s.pair.failedA = false →
      s.pair.failedB = false → solo s = false →
      (y = setReg 0x4009001C (wsetFld (wsetFld (reg s 0x4009001C) 8 1 1) 9 1 1) s →
        exec (.bistDone true true boot) s = .next (beginZeroing (countTransient y))) ∧
      (y = setReg 0x4009001C (wsetFld (wsetFld (reg s 0x4009001C) 8 1 0) 9 1 1) s → s.pair.noSolo = false →
        exec (.bistDone false true boot) s = .next (soloResume boot (pair (fun p => { p with
          failedA := true, mainB := true, mode := 2 }) y))) ∧
      (y = setReg 0x4009001C (wsetFld (wsetFld (reg s 0x4009001C) 8 1 1) 9 1 0) s → s.pair.noSolo = true →
        exec (.bistDone true false boot) s = .next (beginZeroing (pair (fun p => { p with
          failedB := true, mainB := false, mode := 2 }) y))) ∧
      (y = setReg 0x4009001C (wsetFld (wsetFld (reg s 0x4009001C) 8 1 0) 9 1 0) s →
        exec (.bistDone false false boot) s = .next (bistFailed y))) ∧
    (∀ boot : BootReads, s.pair.handling = .zeroing → exec (.restartZeroDone boot) s = .next (restart boot s)) ∧
    (∀ boot : BootReads, s.pair.handling ≠ .zeroing → exec (.restartZeroDone boot) s = .next s)

/-- The boundary register's balls and cells (R412, R413, R428); the test access port (R427–R429): what an instruction shifts out, and
where it has no supplies; debug commands (R300–R303,
Tables 14-6, 14-7): each result and its effect. -/
def Obligations.DebugAndTest : Prop :=
  (boundaryBalls = coveredBalls ∧ (boundaryBalls.map cellCount).sum = 311) ∧
  (∀ (s : State) (tdi : List Bool) (sel : Nat → State), s.clk.pstate = .run →
     sel = (fun ir => { s with tap := { s.tap with ir := ir }, idn := { s.idn with tap := true } }) →
     exec .tapReset s = .next { s with tap := { s.tap with ir := 0x02 } } ∧
     exec (.idcode []) s = .next (sel 0x02) ∧
     (tdi.length = 32 → exec (.idcode tdi) s =
       .next (emit (.tdo ((List.range 32).map (bitAt 0xB9640D77))) (sel 0x02))) ∧
     (tdi ≠ [] → exec (.bypass tdi) s = .next (emit (.tdo ((false :: tdi).take tdi.length)) (sel 0xFF))) ∧
     (∃ t : State, exec (.highz []) s = .next t ∧ t.tap.ir = 0x03 ∧ t.out = .boundary ((boundaryBalls.filter fun b =>
       (ballCells b).2).map fun _ => 2) :: s.out) ∧
     (∃ t : State, exec (.clamp []) s = .next t ∧ t.tap.ir = 0x04 ∧
       t.out = .boundary (bsrDrives s.fans.tripIn s.tap.bsr boundaryBalls) :: s.out) ∧
     (∃ t : State, exec (.extest []) s = .next t ∧ t.tap.ir = 0x00 ∧
       t.out = .boundary (bsrDrives s.fans.tripIn s.tap.bsr boundaryBalls) :: s.out) ∧
     (tdi.length = 311 → ∃ t : State, exec (.extest tdi) s = .next t ∧ t.tap.bsr = tdi ∧
       t.out.head? = some (.boundary (bsrDrives s.fans.tripIn tdi boundaryBalls))) ∧
     (tdi.length = 311 → ∃ t : State, exec (.samplePreload tdi) s = .next t ∧ t.tap.bsr = tdi ∧ t.tap.ir = 0x01 ∧
       t.core = s.core ∧ t.regs = s.regs ∧ t.mem = s.mem) ∧
     (∀ (boot : BootReads), s.undef = false → exec (.dbgAccess [] boot) s = .next (sel 0x20)) ∧
     (∀ i : Instr, i ∈ [.extest tdi, .samplePreload tdi, .idcode tdi, .highz tdi, .clamp tdi, .bypass tdi,
       .tapReset] → exec i { s with clk := { s.clk with pstate := .sleep } } = .next { s with clk := { s.clk with pstate := .sleep } })) ∧
  (∀ (s : State) (a v : Word) (boot : BootReads) (y : State) (ends : Nat → Word → Word → Nat → State → Host.Outcome State Fault Refusal),
     s.clk.held = false → tapOn s = true → s.tap.ir = 0x20 → s.undef = false →
     y = raise 188 ((fun x : State => { x with pair := { x.pair with dbgSeen := true } }) (emit (.tdo (dbgCapture s)) s)) →
     ends = (fun cmd a v res t => .next { t with tap := { t.tap with cmd := cmd, res := res, addr := a, data := v } }) →
     (accessFault false a.toNat 4 = none →
       exec (.busRead a) s = ends 1 a (w32 (loadVal y a.toNat 4)) 0 (loadEffect a.toNat y)) ∧
     (accessFault false a.toNat 4 ≠ none → exec (.busRead a) s = ends 1 a 0#32 2 y) ∧
     (accessFault true a.toNat 4 ≠ none → exec (.busWrite a v) s = ends 2 a v 2 y) ∧
     (∀ t : State, accessFault true a.toNat 4 = none → t = storeVal a.toNat 4 v.toNat y → t.undef = false →
       exec (.busWrite a v) s = ends 2 a v 0 { t with pair := { t.pair with
         icache := tdel t.pair.icache (a.toNat / 32), chkIcache := tdel t.pair.chkIcache (a.toNat / 32)
         dcache := t.pair.dcache.filter fun e => e != a.toNat / 32 } }) ∧
     (copyHalted a s = false → exec (.regRead a) s = ends 3 a 0#32 3 y) ∧
     ((if s.pair.mode = 3 then s.pair.chkHalted else s.pair.halted) = false → exec (.regWrite a v) s = ends 4 a v 3 y) ∧
     (∀ n : Fin 16, s.pair.halted = true → a = BitVec.ofNat 32 n.val →
       exec (.regRead a) s = ends 3 a (tget 0#32 s.core.d n) 0 y) ∧
     (∀ (n : Fin 16) (c : Core), s.pair.halted = true → s.pair.mode ≠ 3 → a = BitVec.ofNat 32 n.val →
       c = { s.core with d := tset 0#32 s.core.d n v } →
       exec (.regWrite a v) s = ends 4 a v 0 { y with core := c, pair := { y.pair with
         commit := c, chk := y.pair.chk.map fun _ => c } }) ∧
     (∀ n : Fin 16, s.pair.chkHalted = true → s.pair.mode = 3 → a = BitVec.ofNat 32 n.val →
       exec (.regWrite a v) s = ends 4 a v 0 (asChecker (fun x => { x with core := { x.core with
         d := tset 0#32 x.core.d n v } }) y)) ∧
     (s.pair.handling ≠ .run → exec .dbgHalt s = ends 5 0#32 0#32 1 y ∧ exec (.dbgResume boot) s = ends 6 0#32 0#32 1 y ∧
       exec .dbgStep s = ends 7 0#32 0#32 1 y ∧ exec (.setMode v) s = ends 8 0#32 v 1 y ∧
       exec .dbgResync s = ends 9 0#32 0#32 1 y) ∧
     (pairStopped s = false → s.pair.mode ≠ 3 →
       (s.pair.brk = false → exec .dbgHalt s = ends 5 0#32 0#32 4 y) ∧
       (s.pair.brk = true → s.pair.halted = false → s.core.waiting = false → exec .dbgHalt s =
         ends 5 0#32 0#32 0 (haltPair wordEffect y)) ∧
       (s.pair.mode ≠ 1 → haltPair wordEffect y = kHalt y) ∧
       (s.pair.halted = true → s.idn.booting = false →
         exec (.dbgResume boot) s = ends 6 0#32 0#32 0 (unhalt boot y)) ∧
       (s.pair.halted = false → exec .dbgStep s = ends 7 0#32 0#32 3 y) ∧
       (s.pair.halted = true → (stepMain y).undef = false → exec .dbgStep s = ends 7 0#32 0#32 0 (stepMain y)) ∧
       (wfld v 0 2 = 1 → exec (.setMode v) s = ends 8 0#32 v 0 { y with pair := { y.pair with brk := true } }) ∧
       (wfld v 0 2 = 0 → exec (.setMode v) s = ends 8 0#32 v 0 { y with pair := { y.pair with brk := false } }) ∧
       (solo s = true → exec .dbgResync s = ends 9 0#32 0#32 4 y) ∧
       (solo s = false → s.core.waiting = false → exec .dbgResync s = ends 9 0#32 0#32 0 (resync y))) ∧
     exec (.dbgBreakpoint a v) s = ends 10 a v 0 { y with pair := { y.pair with
       bps := tset (0#32, false) y.pair.bps (wfld v 0 2) (a, wbit v 2) } })

/-- A step runs the command at the front of the queue on the state with the queue's rest; on an empty queue one FCLK cycle
passes (the model's own choice, entry 2 of the log). -/
def Obligations.StepRunsFrontCommand : Prop :=
  (∀ (s : State) (c : Instr), step { s with pending := c :: s.pending } = exec c s) ∧
  (∀ s : State, s.pending = [] → step s = .next (tick s))

/-- Every command answers a next state, but for the one stop the manual leaves (R405); the queue of waiting commands is a
command's business only as its front. -/
def Obligations.CommandsComplete : Prop :=
  (∀ (i : Instr) (s : State), (∃ t, exec i s = .next t) ∨ exec i s = .fault .undefinedPinFunction) ∧
  (∀ s t : State, s.wf = true → step s = .next t → t.pending = s.pending.tail)

/-- The state after power-on: every form that steps keep holds, the core stands as R282 says, a cold reset is held. -/
def Obligations.ResetState : Prop :=
  State.reset.wf = true ∧ State.reset.core.pc = 0#32 ∧ State.reset.core.stat = 0#32 ∧ State.reset.core.lk = 0#32 ∧
  (∀ n : Nat, tget 0#32 State.reset.core.d n = 0#32 ∧ tget 0#32 State.reset.core.a n = 0#32 ∧
    tget 0 State.reset.core.ac n = 0) ∧
  State.reset.clk.held = true ∧ State.reset.pending = [] ∧ (∀ a : Nat, mget State.reset a = 0#8)

/-- Every step keeps every form: memory and the doors' table stay canonical, PC and STKLIM multiples of 4, the reserved bits of
STAT, VBASE and CCTL 0, the boundary register 311 bits long. -/
def Obligations.StepKeepsForm : Prop :=
  ∀ s t : State, s.wf = true → step s = .next t → t.wf = true

/-- No step clears a blown fuse bit (R39). -/
def Obligations.FusesStayBlown : Prop :=
  ∀ s t : State, s.wf = true → step s = .next t →
    (∀ i : Nat, s.fuses.blown.svn.testBit i = true → t.fuses.blown.svn.testBit i = true) ∧
    (∀ i : Nat, s.fuses.blown.khEc.testBit i = true → t.fuses.blown.khEc.testBit i = true) ∧
    (∀ i : Nat, s.fuses.blown.khPq.testBit i = true → t.fuses.blown.khPq.testBit i = true) ∧
    (s.fuses.blown.lock = true → t.fuses.blown.lock = true)

/-- Every word that names a Karpol instruction is that instruction's encoding, and every well-formed Karpol instruction is what
its encoding names (R269, Tables 13-9 to 13-16). -/
def Obligations.KarpolWords : Prop :=
  (∀ (i : Instr) (w : Word), wellFormed i = true → encodeWord i = some w → decodeWord w = some (Spec.asWord i)) ∧
  (∀ (i : Instr) (w : Word), decodeWord w = some i → encodeWord i = some w ∧ wellFormed i = true)

/-- The types of register fields (R4–R6): what a write and a read of a register do to each of its bits; memory: a byte written
reads back, every other byte reads as before, and the canonical form is kept. -/
def Obligations.RegistersAndMemory : Prop :=
  (∀ (s : State) (a i : Nat) (locked : Bool) (v : Word), (s.regs.map (·.1)).Nodup → i < 32 →
     (bitAt (regSpec a).w1c i = false → (bitAt (regSpec a).rw i = true ∨ (bitAt (regSpec a).lk i = true ∧ locked = false)) →
       rbit (writeTyped a locked v s) a i = wbit v i) ∧
     (bitAt (regSpec a).rw i = false → (bitAt (regSpec a).lk i = false ∨ locked = true) →
       rbit (writeTyped a locked v s) a i = (rbit s a i && !(bitAt (regSpec a).w1c i && wbit v i))) ∧
     rbit (readClears a s) a i = (if bitAt (regSpec a).rc i then bitAt (regSpec a).reset i else rbit s a i) ∧
     (∀ b : Nat, b ≠ a → reg (writeTyped a locked v s) b = reg s b ∧ reg (readClears a s) b = reg s b) ∧
     (writeTyped a locked v s).mem = s.mem ∧ (writeTyped a locked v s).core = s.core ∧ (readClears a s).mem = s.mem) ∧
  (∀ (s : State) (a : Nat) (bs : Bytes), Memory.wf s.mem = true →
     Memory.wf (agentWrite a bs s).mem = true ∧
     (∀ k : Nat, k < bs.length → mget (agentWrite a bs s) (a + k) = bs.getD k 0#8) ∧
     (∀ x : Nat, (x < a ∨ a + bs.length ≤ x) → mget (agentWrite a bs s) x = mget s x))
end

