-- ==== Sys2Proof/Laws/Frames.lean ====
section
/-! SUPPORT. What the shared operations can change, each said once: every field that an equation does not name stays. -/

namespace Sys2Proof.Machine

set_option Elab.async false

/-- Storing a register changes the register table alone. -/
theorem setReg_frame (a : Nat) (v : Word) (s : State) : setReg a v s = { s with regs := (setReg a v s).regs } := rfl

/-- A message sent or held pending changes the doors and the record of outputs. -/
theorem sendMsix_frame (d v : Nat) (s : State) :
    sendMsix d v s = { s with doors := (sendMsix d v s).doors, out := (sendMsix d v s).out } := by
  unfold sendMsix
  extract_lets x
  split <;> rfl

/-- Delivery of events changes pending bits, doors and the record of outputs. -/
theorem doorInterrupt_frame (d v : Nat) (s : State) :
    doorInterrupt d v s = { s with doors := (doorInterrupt d v s).doors, out := (doorInterrupt d v s).out } := by
  unfold doorInterrupt
  extract_lets x
  split
  · rfl
  · exact sendMsix_frame d v s

theorem irq2Settle_frame (s : State) : irq2Settle s = { s with doors := (irq2Settle s).doors } := by
  unfold irq2Settle
  extract_lets x
  split
  · split
    · rfl
    · split <;> rfl
  · rfl

theorem evcSignal_frame (d p : Nat) (s : State) :
    evcSignal d p s = { s with doors := (evcSignal d p s).doors, out := (evcSignal d p s).out } := by
  unfold evcSignal
  split
  · rw [irq2Settle_frame]
  · exact doorInterrupt_frame _ _ _

theorem evcSettle_frame (d : Nat) (s : State) : evcSettle d s =
    { s with evc := (evcSettle d s).evc, doors := (evcSettle d s).doors, out := (evcSettle d s).out } := by
  unfold evcSettle
  split
  · by_cases h : d = 2
    · rw [if_pos h, irq2Settle_frame]; rfl
    · rw [if_neg h]; rfl
  · extract_lets p
    split
    · rw [evcSignal_frame]; rfl
    · split
      · rw [irq2Settle_frame]
      · rfl

theorem pendTarget_frame (n t : Nat) (s : State) : pendTarget n t s = { s with evc := (pendTarget n t s).evc } := by
  unfold pendTarget
  split <;> rfl

/-- An event's occurrence changes the Event Controller, the doors and the record of outputs (R307, R309). -/
theorem raise_frame (n : Nat) (s : State) :
    raise n s = { s with evc := (raise n s).evc, doors := (raise n s).doors, out := (raise n s).out } := by
  have hf : ∀ (s0 x : State) (d : Nat), (∃ e o w, x = { s0 with evc := e, doors := o, out := w }) →
      ∃ e o w, (if srcTargets s n (d + 1) then evcSettle d x else x) = { s0 with evc := e, doors := o, out := w } := by
    intro s0 x d ⟨e, o, w, hx⟩
    split
    · rw [evcSettle_frame, hx]; exact ⟨_, _, _, rfl⟩
    · exact ⟨e, o, w, hx⟩
  have h0 : ∃ e o w, pendTarget n 3 (pendTarget n 2 (pendTarget n 1 (pendTarget n 0 s))) = { s with evc := e, doors := o, out := w } := by
    rw [pendTarget_frame, pendTarget_frame n 2, pendTarget_frame n 1, pendTarget_frame n 0]
    exact ⟨_, _, _, rfl⟩
  obtain ⟨e, o, w, h⟩ := hf s _ 2 (hf s _ 1 (hf s _ 0 h0))
  have : raise n s = { s with evc := e, doors := o, out := w } := h
  rw [this]

theorem readClears_frame (a : Nat) (s : State) : readClears a s = { s with regs := (readClears a s).regs } := by
  unfold readClears
  extract_lets p
  split <;> rfl

theorem evcSettleTarget_frame (t : Nat) (s : State) : evcSettleTarget t s =
    { s with evc := (evcSettleTarget t s).evc, doors := (evcSettleTarget t s).doors, out := (evcSettleTarget t s).out } := by
  unfold evcSettleTarget
  split
  · rfl
  · exact evcSettle_frame _ _

theorem claimTake_frame (t : Nat) (v : Option Nat) (s : State) : claimTake t v s =
    { s with regs := (claimTake t v s).regs, evc := (claimTake t v s).evc, doors := (claimTake t v s).doors,
             out := (claimTake t v s).out } := by
  unfold claimTake
  split
  · rw [evcSettleTarget_frame]; rfl
  · rfl

theorem claim_frame (t : Nat) (s : State) : claim t s =
    { s with regs := (claim t s).regs, evc := (claim t s).evc, doors := (claim t s).doors, out := (claim t s).out } :=
  claimTake_frame t (claimed s t) s

theorem tmrLatch_frame (n : Nat) (s : State) : tmrLatch n s = { s with regs := (tmrLatch n s).regs } := by
  have hf : ∀ (l : List Nat) (x : State), l.foldl (fun x m => setRegN (tmrAddr m 0x14) (tmrCountOf s m) x) x =
      { x with regs := (l.foldl (fun x m => setRegN (tmrAddr m 0x14) (tmrCountOf s m) x) x).regs } := by
    intro l
    induction l with
    | nil => exact fun _ => rfl
    | cons b r ih => intro x; rw [List.foldl_cons, ih]; rfl
  exact hf _ s

/-- A read changes registers that clear or latch by it, and nothing of a core or of the pair. -/
theorem loadEffect_frame (a : Nat) (s : State) : ∃ regs evc doors out freeCtr pool loft latched,
    loadEffect a s = { s with regs := regs, evc := evc, doors := doors, out := out, freeCtr := freeCtr, pool := pool,
                              loft := loft, latched := latched } := by
  suffices h : loadEffect a s = { s with
      regs := (loadEffect a s).regs, evc := (loadEffect a s).evc, doors := (loadEffect a s).doors, out := (loadEffect a s).out
      freeCtr := (loadEffect a s).freeCtr, pool := (loadEffect a s).pool, loft := (loadEffect a s).loft
      latched := (loadEffect a s).latched } from ⟨_, _, _, _, _, _, _, _, h⟩
  unfold loadEffect
  split
  · unfold regReadEffect
    extract_lets o
    split
    · unfold evcReadEffect
      split
      · rw [claim_frame]
      · rw [readClears_frame]
    · unfold tmrReadEffect
      split
      · rw [tmrLatch_frame]
      · rfl
    · unfold pnlReadEffect; rw [readClears_frame]
    · unfold cmpReadEffect; rw [readClears_frame]
    · unfold vatReadEffect; rw [readClears_frame]
    · unfold pairReadEffect; rw [readClears_frame]
    · unfold clkReadEffect; rw [readClears_frame]
    · unfold doorReadEffect
      split
      · rw [claim_frame]
      · rfl
    · unfold telReadEffect
      split
      · rfl
      · rw [readClears_frame]
    · unfold loftReadEffect
      split
      · rfl
      · rfl
    · unfold keyeReadEffect; rw [readClears_frame]
    · rfl
  · unfold statLatch
    split <;> rfl
  · rfl

/-- A write of memory changes memory alone. -/
theorem mwrite_frame (a : Nat) (bs : Bytes) (s : State) : mwrite a bs s = { s with mem := (mwrite a bs s).mem } := by
  induction bs generalizing a s with
  | nil => rfl
  | cons b r ih => unfold mwrite; rw [ih]; rfl

/-- A store changes memory, and tells the panel of a change of its RAM (R362). -/
theorem agentWrite_frame (a : Nat) (bs : Bytes) (s : State) :
    agentWrite a bs s = { s with mem := (agentWrite a bs s).mem, panel := (agentWrite a bs s).panel } := by
  unfold agentWrite
  rw [mwrite_frame]
  split <;> rfl

/-- A fill of the I-cache changes the cache, and uses a free value where a line gives way (R263). -/
theorem icacheFill_frame (a : Nat) (s : State) : icacheFill a s =
    { s with pair := { s.pair with icache := (icacheFill a s).pair.icache }, freeCtr := (icacheFill a s).freeCtr } := by
  unfold icacheFill
  extract_lets l ws put out
  clear_value ws
  split
  · rfl
  · split <;> rfl

/-- Folding an output changes a signature (R289). -/
theorem foldOut_frame (o : List Nat) (s : State) : foldOut o s =
    { s with pair := { s.pair with sigMain := (foldOut o s).pair.sigMain, sigChk := (foldOut o s).pair.sigChk } } := by
  unfold foldOut
  split
  · unfold modPair
    dsimp only
    split <;> rfl
  · rfl

/-- Outside Loose mode no output is folded. -/
theorem foldOut_of_mode {o : List Nat} {s : State} (h : s.pair.mode ≠ 1) : foldOut o s = s := if_neg h

/-- A fill of the D-cache changes the cache, and uses a free value where a line gives way. -/
theorem dcacheLoad_frame (a : Nat) (s : State) : dcacheLoad a s =
    { s with pair := { s.pair with dcache := (dcacheLoad a s).pair.dcache }, freeCtr := (dcacheLoad a s).freeCtr } := by
  unfold dcacheLoad
  extract_lets l out
  split
  · rfl
  · split <;> rfl

/-- A store to sentinel SRAM changes the write buffer. -/
theorem bufferStore_frame (a : Nat) (s : State) :
    bufferStore a s = { s with pair := { s.pair with wbuf := (bufferStore a s).pair.wbuf } } := by
  unfold bufferStore
  split <;> rfl

/-- An error that was met changes registers and raises an event. -/
theorem metError_frame (n k r : Nat) (s : State) : ∃ g e o w,
    raise n (orReg pairEvents k (incReg r s)) = { s with regs := g, evc := e, doors := o, out := w } := by
  rw [raise_frame]
  exact ⟨_, _, _, _, rfl⟩

/-- What a load met changes registers and raises events (R287, R293). -/
theorem loadMet_frame (met : LoadMet) (a : Nat) (s : State) : loadMet met a s =
    { s with regs := (loadMet met a s).regs, evc := (loadMet met a s).evc, doors := (loadMet met a s).doors,
             out := (loadMet met a s).out } := by
  have h1 : ∀ (c : Bool) (f : State → State) (x : State), (∀ y, ∃ g e o w, f y = { y with regs := g, evc := e, doors := o, out := w }) →
      ∃ g e o w, (if c then f x else x) = { x with regs := g, evc := e, doors := o, out := w } := by
    intro c f x hf
    split
    · exact hf x
    · exact ⟨_, _, _, _, rfl⟩
  have : ∃ g e o w, loadMet met a s = { s with regs := g, evc := e, doors := o, out := w } := by
    unfold loadMet
    split
    · exact ⟨_, _, _, _, rfl⟩
    · extract_lets g s1
      obtain ⟨_, _, _, _, h2⟩ := h1 (met.parity && g == .sram && wbit s.core.cctl 1) cacheErr s (metError_frame _ _ _)
      have h3 : s1 = _ := h2
      obtain ⟨_, _, _, _, h4⟩ := h1 (met.corrected && (g == .itcm || g == .dtcm || g == .sram)) memCe s1 (metError_frame _ _ _)
      rw [h4, h3]
      exact ⟨_, _, _, _, rfl⟩
  obtain ⟨_, _, _, _, h⟩ := this
  rw [h]

/-- The state in which an instruction's effect begins: its fetch has been put out, and its line is filled. -/
theorem fetched_pc (s : State) : (outFetch s.core.pc (modCore (fun c => { c with shadow := false }) s)).core.pc = s.core.pc := by
  unfold outFetch
  rw [foldOut_frame]
  rfl

/-- An issue of an instruction that comes to a state. -/
theorem kIssue_ok {e : State → KRes} {s x : State} (hf : fetchFault s.core.pc.toNat = none)
    (hx : e (icacheFill s.core.pc.toNat (outFetch s.core.pc (modCore (fun c => { c with shadow := false }) s))) = .ok x) :
    kIssue e s = (x, .retired) := by
  unfold kIssue
  extract_lets s1 pc s2
  have hp : pc = s.core.pc := fetched_pc s
  have h1 : fetchFault pc.toNat = none := hp ▸ hf
  have h2 : e s2 = .ok x := by rw [← hx]; exact congrArg (fun w => e (icacheFill (BitVec.toNat w) s1)) hp
  rw [h1]
  dsimp only
  rw [h2]

/-- An issue of an instruction that raises an exception. -/
theorem kIssue_exc {e : State → KRes} {s : State} {n d : Nat} {a : Word} (hf : fetchFault s.core.pc.toNat = none)
    (hx : e (icacheFill s.core.pc.toNat (outFetch s.core.pc (modCore (fun c => { c with shadow := false }) s))) = .exc n d a) :
    kIssue e s = (kExcept n d a (icacheFill s.core.pc.toNat (outFetch s.core.pc (modCore (fun c => { c with shadow := false }) s))),
      if n = 4 ∨ n = 5 then .retired else .faulted) := by
  unfold kIssue
  extract_lets s1 pc s2
  have hp : pc = s.core.pc := fetched_pc s
  have h1 : fetchFault pc.toNat = none := hp ▸ hf
  have hs : icacheFill s.core.pc.toNat s1 = s2 := congrArg (fun w => icacheFill (BitVec.toNat w) s1) hp.symm
  have h2 : e s2 = .exc n d a := by rw [← hs]; exact hx
  rw [h1]
  dsimp only
  rw [h2]
  exact congrArg (fun y => (kExcept n d a y, _)) hs.symm

/-- An instruction retires outside Replay mode: the commit set follows, or in Loose mode the counts. -/
theorem kRetire_ok {x : State} (h1 : x.clk.held = false) (h2 : x.core.waiting = false) (h3 : x.core.lockup = false)
    (h4 : x.pair.mode ≠ 3) : kRetire (x, .retired) =
      { x with pair := if x.pair.mode = 1 then
          { x.pair with since := x.pair.since + 1, issued := x.pair.issued + 1, lag := x.pair.lag + 1 }
        else { x.pair with commit := x.core } } := by
  unfold kRetire
  extract_lets y y1
  have e1 : y = x := rfl
  have e2 : y1 = countIssued x := rfl
  clear_value y y1
  subst e1 e2
  rw [if_neg (by rw [h1]; decide), if_neg (by simp [h2, h3])]
  by_cases hm1 : y.pair.mode = 1
  · rw [if_pos hm1, if_neg (by simp), if_pos hm1]; rfl
  · rw [if_neg hm1, if_neg h4, if_neg hm1]; rfl

/-- A locked-up core stays as it is. -/
theorem kRetire_lockup {x : State} {k : KEnd} (h1 : x.clk.held = false) (h3 : x.core.lockup = true) :
    kRetire (x, k) = x := by
  unfold kRetire
  rw [if_neg (by simp [h1]), if_pos (by simp [h3])]

end Sys2Proof.Machine
end

