-- ==== Sys2Proof/Laws/Tables.lean ====
section
/-! SUPPORT. Sparse tables: reading what was set, and the canonical form, which every operation on a table keeps. -/

namespace Sys2Proof.Machine

set_option Elab.async false

variable {α : Type}

/-! Reading. -/

theorem tget_tdel_ne (d : α) (t : Table α) {i j : Nat} (h : j ≠ i) : tget d (tdel t i) j = tget d t j := by
  induction t with
  | nil => rfl
  | cons e r ih =>
    obtain ⟨k, v⟩ := e
    by_cases hk : k = i
    · subst hk; simp [tdel, tget, Ne.symm h]
    · simp [tdel, tget, hk, ih]

theorem tget_tins_same (d : α) (t : Table α) (i : Nat) (v : α) : tget d (tins t i v) i = v := by
  induction t with
  | nil => simp [tins, tget]
  | cons e r ih =>
    obtain ⟨k, u⟩ := e
    by_cases h1 : i < k
    · simp [tins, tget, h1]
    · by_cases h2 : i = k
      · simp [tins, tget, h2]
      · simp [tins, tget, h1, h2, Ne.symm h2, ih]

theorem tget_tins_ne (d : α) (t : Table α) {i j : Nat} (v : α) (h : j ≠ i) : tget d (tins t i v) j = tget d t j := by
  induction t with
  | nil => simp [tins, tget, Ne.symm h]
  | cons e r ih =>
    obtain ⟨k, u⟩ := e
    by_cases h1 : i < k
    · simp [tins, tget, h1, Ne.symm h]
    · by_cases h2 : i = k
      · subst h2; simp [tins, tget, Ne.symm h]
      · simp [tins, tget, h1, h2, ih]

/-- Setting one index of a table leaves every other index as it was. -/
theorem tget_tset_ne [DecidableEq α] (d : α) (t : Table α) {i j : Nat} (v : α) (h : j ≠ i) :
    tget d (tset d t i v) j = tget d t j := by
  unfold tset
  split
  · exact tget_tdel_ne d t h
  · exact tget_tins_ne d t v h

/-! The canonical form. -/

theorem tableWf_mono [DecidableEq α] {d : α} {t : Table α} {lo hi : Nat} (h : lo ≤ hi) (w : tableWf d hi t = true) :
    tableWf d lo t = true := by
  cases t with
  | nil => rfl
  | cons e r => obtain ⟨k, v⟩ := e; simp [tableWf] at w ⊢; exact ⟨⟨by omega, w.1.2⟩, w.2⟩

/-- Below the bound of a canonical table every index reads as the default. -/
theorem tget_below [DecidableEq α] {d : α} {t : Table α} {lo i : Nat} (w : tableWf d lo t = true) (h : i < lo) :
    tget d t i = d := by
  induction t generalizing lo with
  | nil => rfl
  | cons e r ih =>
    obtain ⟨k, v⟩ := e
    simp [tableWf] at w
    have hk : k ≠ i := by omega
    simp [tget, hk, ih w.2 (by omega)]

theorem tableWf_tins [DecidableEq α] {d : α} {t : Table α} {lo i : Nat} {v : α} (w : tableWf d lo t = true) (h : lo ≤ i)
    (hv : v ≠ d) : tableWf d lo (tins t i v) = true := by
  induction t generalizing lo with
  | nil => simp [tins, tableWf, h, hv]
  | cons e r ih =>
    obtain ⟨k, u⟩ := e
    simp [tableWf] at w
    by_cases h1 : i < k
    · simp [tins, tableWf, h1, h, hv, w.1.2, w.2] <;> omega
    · by_cases h2 : i = k
      · subst h2; simp [tins, tableWf, h, hv, w.2]
      · simp [tins, tableWf, h1, h2, w.1.1, w.1.2, ih w.2 (by omega)]

theorem tableWf_tdel [DecidableEq α] {d : α} {t : Table α} {lo : Nat} (i : Nat) (w : tableWf d lo t = true) :
    tableWf d lo (tdel t i) = true := by
  induction t generalizing lo with
  | nil => rfl
  | cons e r ih =>
    obtain ⟨k, u⟩ := e
    simp [tableWf] at w
    by_cases h1 : k = i
    · simp only [tdel, h1, if_true]; exact tableWf_mono (by omega) w.2
    · simp [tdel, h1, tableWf, w.1.1, w.1.2, ih w.2]

/-- Setting an index keeps the canonical form. -/
theorem tableWf_tset [DecidableEq α] {d : α} {t : Table α} (i : Nat) (v : α) (w : tableWf d 0 t = true) :
    tableWf d 0 (tset d t i v) = true := by
  unfold tset
  split
  · exact tableWf_tdel i w
  · exact tableWf_tins w (Nat.zero_le i) ‹_›

theorem tableWf_filter [DecidableEq α] {d : α} {t : Table α} {lo : Nat} (p : Nat × α → Bool) (w : tableWf d lo t = true) :
    tableWf d lo (t.filter p) = true := by
  induction t generalizing lo with
  | nil => rfl
  | cons e r ih =>
    obtain ⟨k, u⟩ := e
    simp [tableWf] at w
    by_cases hp : p (k, u) = true
    · simp [List.filter, hp, tableWf, w.1.1, w.1.2, ih w.2]
    · simp only [List.filter, hp]; exact ih (tableWf_mono (by omega) w.2)

theorem tget_tdel_same [DecidableEq α] {d : α} {t : Table α} {lo : Nat} (i : Nat) (w : tableWf d lo t = true) :
    tget d (tdel t i) i = d := by
  induction t generalizing lo with
  | nil => rfl
  | cons e r ih =>
    obtain ⟨k, u⟩ := e
    simp [tableWf] at w
    by_cases h1 : k = i
    · subst h1; simp only [tdel, if_true]; exact tget_below w.2 (by omega)
    · simp [tdel, tget, h1, ih w.2]

/-- In a canonical table an index that has been set reads as the value set. -/
theorem tget_tset_same [DecidableEq α] {d : α} {t : Table α} (i : Nat) (v : α) (w : tableWf d 0 t = true) :
    tget d (tset d t i v) i = v := by
  unfold tset
  split
  · rename_i h; rw [tget_tdel_same i w, h]
  · exact tget_tins_same d t i v

end Sys2Proof.Machine
end

