-- ==== Sys2Proof/Laws/Words.lean ====
section
/-! SUPPORT. The bits of a word with a field replaced, and STAT words whose reserved bits read 0: every computation of flags keeps
them so. -/

namespace Sys2Proof.Machine

set_option Elab.async false

/-! Fields. -/

/-- A number as the parts above, of and below a field. -/
theorem field_split (n lo len : Nat) :
    n = 2 ^ (lo + len) * (n / 2 ^ (lo + len)) + (2 ^ lo * fld n lo len + n % 2 ^ lo) := by
  have h1 := Nat.div_add_mod n (2 ^ lo)
  have h2 := Nat.div_add_mod (n / 2 ^ lo) (2 ^ len)
  rw [Nat.div_div_eq_div_mul, ← Nat.pow_add] at h2
  have h4 : 2 ^ lo * (2 ^ len * (n / 2 ^ (lo + len)) + n / 2 ^ lo % 2 ^ len) + n % 2 ^ lo = n := by rw [h2, h1]
  rw [Nat.mul_add, ← Nat.mul_assoc, ← Nat.pow_add] at h4
  simp only [fld]
  omega

theorem fld_part_lt (v lo len x : Nat) : 2 ^ lo * (v % 2 ^ len) + x % 2 ^ lo < 2 ^ (lo + len) := by
  have h1 : v % 2 ^ len < 2 ^ len := Nat.mod_lt _ (Nat.two_pow_pos _)
  have h2 : x % 2 ^ lo < 2 ^ lo := Nat.mod_lt _ (Nat.two_pow_pos _)
  have h3 : 2 ^ lo * (v % 2 ^ len + 1) ≤ 2 ^ lo * 2 ^ len := Nat.mul_le_mul_left _ h1
  rw [Nat.mul_add, ← Nat.pow_add] at h3
  omega

/-- The number whose field is replaced. -/
theorem wsetFld_nat (n lo len v : Nat) :
    n - fld n lo len * 2 ^ lo + v % 2 ^ len * 2 ^ lo =
      2 ^ (lo + len) * (n / 2 ^ (lo + len)) + (2 ^ lo * (v % 2 ^ len) + n % 2 ^ lo) := by
  have h := field_split n lo len
  rw [Nat.mul_comm (fld n lo len), Nat.mul_comm (v % 2 ^ len)]
  omega

/-- The bits of a word with a field replaced. -/
theorem getLsbD_wsetFld {w : Word} {lo len v i : Nat} (hl : lo + len ≤ 32) :
    (wsetFld w lo len v).getLsbD i =
      if lo ≤ i ∧ i < lo + len then v.testBit (i - lo) else w.getLsbD i := by
  have hm : ∀ (a : Nat), (2 ^ (lo + len) * (w.toNat / 2 ^ (lo + len)) + (2 ^ lo * (a % 2 ^ len) + w.toNat % 2 ^ lo)).testBit i
      = if i < lo then w.toNat.testBit i else if i < lo + len then a.testBit (i - lo) else w.toNat.testBit i := by
    intro a
    rw [Nat.testBit_two_pow_mul_add _ (fld_part_lt _ _ _ _)]
    by_cases h1 : i < lo + len
    · rw [if_pos h1, Nat.testBit_two_pow_mul_add _ (Nat.mod_lt _ (Nat.two_pow_pos _))]
      by_cases h2 : i < lo
      · simp [h2, Nat.testBit_mod_two_pow]
      · have : i - lo < len := by omega
        simp [h2, h1, Nat.testBit_mod_two_pow, this]
    · have h2 : ¬ i < lo := by omega
      rw [if_neg h1, if_neg h2, if_neg h1, Nat.testBit_div_two_pow]
      congr 1; omega
  by_cases hi : i < 32
  · simp only [wsetFld, wfld, wsetFld_nat, BitVec.getLsbD_ofNat, hi, decide_true, Bool.true_and, hm]
    simp only [BitVec.getLsbD]
    by_cases h1 : i < lo
    · rw [if_pos h1, if_neg (by omega)]
    · by_cases h2 : i < lo + len
      · rw [if_neg h1, if_pos h2, if_pos ⟨by omega, h2⟩]
      · rw [if_neg h1, if_neg h2, if_neg (by omega)]
  · rw [BitVec.getLsbD_of_ge _ _ (by omega), if_neg (by omega), BitVec.getLsbD_of_ge _ _ (by omega)]

/-- The bits of a word with one bit set or cleared. -/
theorem getLsbD_wsetBit {w : Word} {k i : Nat} {b : Bool} (hk : k < 32) :
    (wsetBit w k b).getLsbD i = if i = k then b else w.getLsbD i := by
  unfold wsetBit
  rw [getLsbD_wsetFld (by omega)]
  by_cases h : i = k
  · subst h
    rw [if_pos ⟨Nat.le_refl _, by omega⟩, if_pos rfl]
    cases b <;> simp
  · rw [if_neg (by omega), if_neg h]

/-- A STAT word whose reserved bits read 0 (R260). -/
def StatOk (st : Word) : Prop := statMask st = st

theorem statOk_iff {st : Word} : StatOk st ↔ ∀ i, i < 32 → (0x1FBF#32).getLsbD i = false → st.getLsbD i = false := by
  constructor
  · intro h i _ hm
    rw [← h, statMask, BitVec.getLsbD_and, hm, Bool.and_false]
  · intro h
    apply BitVec.eq_of_getLsbD_eq
    intro i hi
    rw [statMask, BitVec.getLsbD_and]
    cases hm : (0x1FBF#32).getLsbD i
    · rw [Bool.and_false, h i hi hm]
    · rw [Bool.and_true]

theorem statOk_mask (v : Word) : StatOk (statMask v) := by
  unfold StatOk statMask
  rw [BitVec.and_assoc, BitVec.and_self]

theorem statOk_wsetBit {st : Word} {k : Nat} {b : Bool} (h : StatOk st) (hk : k < 32)
    (hm : (0x1FBF#32).getLsbD k = true) : StatOk (wsetBit st k b) := by
  rw [statOk_iff] at h ⊢
  intro i hi h0
  rw [getLsbD_wsetBit hk]
  split
  · subst i; rw [hm] at h0; exact absurd h0 (by decide)
  · exact h i hi h0

theorem statOk_level {st : Word} {p : Nat} (h : StatOk st) : StatOk (wsetFld st 8 4 p) := by
  rw [statOk_iff] at h ⊢
  intro i hi h0
  rw [getLsbD_wsetFld (by decide)]
  split
  · next hr =>
    have : i = 8 ∨ i = 9 ∨ i = 10 ∨ i = 11 := by omega
    rcases this with rfl | rfl | rfl | rfl <;> exact absurd h0 (by decide)
  · exact h i hi h0

/-! Flag computations. -/

theorem statOk_flagsZN {r st : Word} (h : StatOk st) : StatOk (flagsZN r st) :=
  statOk_wsetBit (statOk_wsetBit h (by decide) (by decide)) (by decide) (by decide)

theorem statOk_flagsAll {r st : Word} {c v : Bool} (h : StatOk st) : StatOk (flagsAll r c v st) :=
  statOk_wsetBit (statOk_wsetBit (statOk_flagsZN h) (by decide) (by decide)) (by decide) (by decide)

theorem statOk_flagsLogic {r st : Word} (h : StatOk st) : StatOk (flagsLogic r st) :=
  statOk_wsetBit (statOk_flagsZN h) (by decide) (by decide)

theorem statOk_addFlags {a b st : Word} {c : Nat} (h : StatOk st) : StatOk (addFlags a b c st).2 := statOk_flagsAll h

theorem statOk_subFlags {a b st : Word} {c : Nat} (h : StatOk st) : StatOk (subFlags a b c st).2 := statOk_flagsAll h

theorem statOk_logicFlags {r st : Word} (h : StatOk st) : StatOk (logicFlags r st).2 := statOk_flagsLogic h

theorem statOk_znFlags {r st : Word} (h : StatOk st) : StatOk (znFlags r st).2 := statOk_flagsZN h

theorem statOk_shiftFlags {r st : Word} {l : Bool} {n : Nat} (h : StatOk st) : StatOk (shiftFlags r l n st).2 := by
  unfold shiftFlags
  dsimp only
  split
  · exact statOk_flagsLogic h
  · exact statOk_wsetBit (statOk_flagsLogic h) (by decide) (by decide)

theorem statOk_shlFlags {a st : Word} {n : Nat} (h : StatOk st) : StatOk (shlFlags a n st).2 := statOk_shiftFlags h
theorem statOk_shrFlags {a st : Word} {n : Nat} (h : StatOk st) : StatOk (shrFlags a n st).2 := statOk_shiftFlags h
theorem statOk_sarFlags {a st : Word} {n : Nat} (h : StatOk st) : StatOk (sarFlags a n st).2 := statOk_shiftFlags h
theorem statOk_rorFlags {a st : Word} {n : Nat} (h : StatOk st) : StatOk (rorFlags a n st).2 := statOk_shiftFlags h

theorem statOk_divFlags {r st : Word} {v : Bool} (h : StatOk st) : StatOk (divFlags r v st).2 :=
  statOk_wsetBit (statOk_flagsZN h) (by decide) (by decide)

theorem statOk_divuFlags {a b st : Word} (h : StatOk st) : StatOk (divuFlags a b st).2 := by
  unfold divuFlags; split <;> exact statOk_divFlags h
theorem statOk_remuFlags {a b st : Word} (h : StatOk st) : StatOk (remuFlags a b st).2 := by
  unfold remuFlags; split <;> exact statOk_divFlags h
theorem statOk_divsFlags {a b st : Word} (h : StatOk st) : StatOk (divsFlags a b st).2 := by
  unfold divsFlags; split <;> exact statOk_divFlags h
theorem statOk_remsFlags {a b st : Word} (h : StatOk st) : StatOk (remsFlags a b st).2 := by
  unfold remsFlags; split <;> exact statOk_divFlags h

theorem statOk_flagSat {b : Bool} {st : Word} (h : StatOk st) : StatOk (flagSat b st) := by
  unfold flagSat
  split
  · exact statOk_wsetBit h (by decide) (by decide)
  · exact h

end Sys2Proof.Machine
end

