-- ==== Sys2Proof/Laws/Keeps.lean ====
section
/-! SUPPORT. What no command may spoil, as one predicate: the queue of waiting commands stays, blown fuses stay blown, memory
keeps its canonical form, the cores' registers keep their reserved bits and alignment, the boundary register its 311 cells, and the
table of doors its canonical form.
The files Keeps<Module> show it kept by every function of the model, module by module. -/

namespace Sys2Proof.Machine

set_option Elab.async false

/-- Every fuse bit blown in `a` is blown in `b` (R39). -/
structure FuseLe (a b : FuseBits) : Prop where
  svn : ∀ i, a.svn.testBit i = true → b.svn.testBit i = true
  khEc : ∀ i, a.khEc.testBit i = true → b.khEc.testBit i = true
  khPq : ∀ i, a.khPq.testBit i = true → b.khPq.testBit i = true
  lock : a.lock = true → b.lock = true

theorem FuseLe.refl (a : FuseBits) : FuseLe a a := ⟨fun _ h => h, fun _ h => h, fun _ h => h, fun h => h⟩

/-- The waiting commands are `p`, the fuse bits of `a` are blown, and everything that has a form to keep has it. -/
structure Keeps (p : List Instr) (a : FuseBits) (s : State) : Prop where
  pending : s.pending = p
  fuses : FuseLe a s.fuses.blown
  bsr : s.tap.bsr.length = 311
  mem : Memory.wf s.mem = true
  core : s.core.wf = true
  commit : s.pair.commit.wf = true
  chk : ∀ c, s.pair.chk = some c → c.wf = true
  doors : tableWf {} 0 s.doors = true

/-- A state that keeps all of it, rebuilt with other fields changed. -/
theorem mkKeeps {p : List Instr} {a : FuseBits} {s : State} {pending : List Instr} {out : List Out} {freeCtr : Nat} {regs : Table Word} {mem : List Host.Cell} {undef :
    Bool} {clk : Clk} {evc : Evc} {core : Core} {pair : Pair} {epoch : Epoch} {fault : FaultSt} {idn : Idn} {doors
    : Table Door} {pool : Pool} {loft : Loft} {tmr : Table Tmr} {pins : Pins} {i2c : Table I2cCtl} {tap : Tap}
    {fans : Fans} {fuses : Fuses} {nand : Nand} {vat : Vat} {stock : Stock} {ports : Table Port} {mach : Mach}
    {keys : Keys} {faults : Faults} {panel : Panel} {audio : Audio} {stats : Table Nat} {latched : Table Nat}
    (h1 : pending = s.pending) (h2 : fuses.blown = s.fuses.blown) (h3 : tap.bsr = s.tap.bsr) (h4 : mem = s.mem)
    (h5 : core = s.core) (h6 : pair.commit = s.pair.commit) (h7 : pair.chk = s.pair.chk) (h : Keeps p a s)
    (h8 : doors = s.doors := by rfl) :
    Keeps p a ⟨pending, out, freeCtr, regs, mem, undef, clk, evc, core, pair, epoch, fault, idn, doors, pool, loft, tmr,
    pins, i2c, tap, fans, fuses, nand, vat, stock, ports, mach, keys, faults, panel, audio, stats, latched⟩ := by
  subst h1 h4 h5 h8
  exact ⟨h.pending, h2 ▸ h.fuses, h3 ▸ h.bsr, h.mem, h.core, h6 ▸ h.commit, fun c e => h.chk c (h7 ▸ e), h.doors⟩

theorem foldl_keeps {p : List Instr} {a : FuseBits} {β : Type} {f : State → β → State} {l : List β} {s : State}
    (hf : ∀ x b, Keeps p a x → Keeps p a (f x b)) (h : Keeps p a s) : Keeps p a (l.foldl f s) := by
  induction l generalizing s with
  | nil => exact h
  | cons b r ih => exact ih (hf s b h)

theorem keeps_ite_app {p : List Instr} {a : FuseBits} {c : Prop} [Decidable c] {f g : State → State} {s : State}
    (hf : Keeps p a (f s)) (hg : Keeps p a (g s)) : Keeps p a ((if c then f else g) s) := by
  split
  · exact hf
  · exact hg

theorem keeps_ite {p : List Instr} {a : FuseBits} {c : Prop} [Decidable c] {s t : State}
    (hs : c → Keeps p a s) (ht : ¬c → Keeps p a t) : Keeps p a (if c then s else t) := by
  split
  · exact hs ‹_›
  · exact ht ‹_›

theorem keeps_id {p : List Instr} {a : FuseBits} {s : State} (h : Keeps p a s) : Keeps p a (id s) := h

/-- The parts of a core's form. -/
theorem core_wf_iff {c : Core} : c.wf = true ↔ c.pc.toNat % 4 = 0 ∧ StatOk c.stat ∧ c.vbase.toNat % 128 = 0
    ∧ c.stklim.toNat % 4 = 0 ∧ c.cctl.toNat < 4 := by
  simp [Core.wf, StatOk, and_assoc]

theorem Keeps.pc {p : List Instr} {a : FuseBits} {s : State} (h : Keeps p a s) : s.core.pc.toNat % 4 = 0 :=
  (core_wf_iff.1 h.core).1

theorem Keeps.stat {p : List Instr} {a : FuseBits} {s : State} (h : Keeps p a s) : StatOk s.core.stat :=
  (core_wf_iff.1 h.core).2.1

/-- A core of the right form with a new PC. -/
theorem wf_pc {c : Core} {v : Word} (h : c.wf = true) (hv : v.toNat % 4 = 0) : ({ c with pc := v } : Core).wf = true :=
  core_wf_iff.2 ⟨hv, (core_wf_iff.1 h).2⟩

/-- A core of the right form with a new STAT. -/
theorem wf_stat {c : Core} {v : Word} (h : c.wf = true) (hv : StatOk v) : ({ c with stat := v } : Core).wf = true :=
  core_wf_iff.2 ⟨(core_wf_iff.1 h).1, hv, (core_wf_iff.1 h).2.2⟩

/-- A state that comes second in a pair. -/
theorem keeps_snd {α : Type} {p : List Instr} {a : FuseBits} {r : α × State} {x : α} {s : State} (e : r = (x, s))
    (h : Keeps p a r.2) : Keeps p a s := by
  rw [e] at h; exact h

/-- A state that comes first in a pair. -/
theorem keeps_fst {α : Type} {p : List Instr} {a : FuseBits} {r : State × α} {x : α} {s : State} (e : r = (s, x))
    (h : Keeps p a r.1) : Keeps p a s := by
  rw [e] at h; exact h

theorem keeps_mk_snd {α : Type} {p : List Instr} {a : FuseBits} {x : α} {s : State} (h : Keeps p a s) : Keeps p a (x, s).2 := h

theorem keeps_mk_fst {α : Type} {p : List Instr} {a : FuseBits} {x : α} {s : State} (h : Keeps p a s) : Keeps p a (s, x).1 := h

/-- The state of an outcome keeps it, where there is one. -/
def OutKeeps (p : List Instr) (a : FuseBits) : Host.Outcome State Fault Refusal → Prop
  | .next s => Keeps p a s
  | .fault _ => True
  | .refused _ => True

theorem next_keeps {p : List Instr} {a : FuseBits} {s : State} (h : Keeps p a s) : OutKeeps p a (.next s) := h

end Sys2Proof.Machine
end

