-- ==== Sys2Proof/Laws/KeepsOps.lean ====
section
/-! SUPPORT. What no command may spoil is kept by the functions of Machine/Ops.lean. -/

namespace Sys2Proof.Machine

set_option Elab.async false

variable {q0 : List Instr} {fz : FuseBits} {s : State}

theorem done_keeps (h : Keeps q0 fz s) : OutKeeps q0 fz (done s) := by
  unfold done
  split
  · trivial
  · exact h

theorem live_keeps {f : State → State}
    (hf : ∀ x, Keeps q0 fz x → Keeps q0 fz (f x)) (h : Keeps q0 fz s) : Keeps q0 fz (live s f) := by
  unfold live
  split
  · exact h
  · exact hf s h

theorem freeNext_keeps (h : Keeps q0 fz s) : Keeps q0 fz (freeNext s) := mkKeeps rfl rfl rfl rfl rfl rfl rfl h

theorem emit_keeps {o : Out} (h : Keeps q0 fz s) : Keeps q0 fz (emit o s) := mkKeeps rfl rfl rfl rfl rfl rfl rfl h

theorem setReg_keeps {a : Nat} {v : Word} (h : Keeps q0 fz s) : Keeps q0 fz (setReg a v s) :=
  mkKeeps rfl rfl rfl rfl rfl rfl rfl h

theorem orReg_keeps {a m : Nat} (h : Keeps q0 fz s) : Keeps q0 fz (orReg a m s) := mkKeeps rfl rfl rfl rfl rfl rfl rfl h

theorem clrReg_keeps {a m : Nat} (h : Keeps q0 fz s) : Keeps q0 fz (clrReg a m s) := mkKeeps rfl rfl rfl rfl rfl rfl rfl h

theorem putBit_keeps {a i : Nat} {b : Bool} (h : Keeps q0 fz s) : Keeps q0 fz (putBit a i b s) :=
  mkKeeps rfl rfl rfl rfl rfl rfl rfl h

theorem setRegN_keeps {a v : Nat} (h : Keeps q0 fz s) : Keeps q0 fz (setRegN a v s) := mkKeeps rfl rfl rfl rfl rfl rfl rfl h

theorem incReg_keeps {a : Nat} (h : Keeps q0 fz s) : Keeps q0 fz (incReg a s) := mkKeeps rfl rfl rfl rfl rfl rfl rfl h

theorem writeTyped_keeps {a : Nat} {locked : Bool} {v : Word} (h : Keeps q0 fz s) : Keeps q0 fz (writeTyped a locked v s) :=
  mkKeeps rfl rfl rfl rfl rfl rfl rfl h

theorem readClears_keeps {a : Nat} (h : Keeps q0 fz s) :
    Keeps q0 fz (readClears a s) := by
  unfold readClears
  with_reducible repeat' first
    | assumption | apply foldl_keeps | (extract_lets; fail_if_success done) | apply keeps_ite <;> intro _ | split
    | apply setReg_keeps | refine mkKeeps rfl rfl rfl rfl rfl rfl rfl ?_
    | intro _

theorem mset_keeps {x : Nat} {b : Byte} (h : Keeps q0 fz s) :
    Keeps q0 fz (mset x b s) :=
  { h with mem := tableWf_tset x b h.mem }

theorem mwrite_keeps {x : Nat} {bs : Bytes} (h : Keeps q0 fz s) :
    Keeps q0 fz (mwrite x bs s) := by
  induction bs generalizing x s with
  | nil => exact h
  | cons b r ih => exact ih (mset_keeps h)

theorem mwriteN_keeps {a n v : Nat} (h : Keeps q0 fz s) : Keeps q0 fz (mwriteN a n v s) := mwrite_keeps h

theorem panelChange_keeps (h : Keeps q0 fz s) : Keeps q0 fz (panelChange s) := mkKeeps rfl rfl rfl rfl rfl rfl rfl h

theorem agentWrite_keeps {a : Nat} {bs : Bytes} (h : Keeps q0 fz s) :
    Keeps q0 fz (agentWrite a bs s) := by
  unfold agentWrite
  with_reducible repeat' first
    | assumption | apply foldl_keeps | (extract_lets; fail_if_success done) | apply keeps_ite <;> intro _ | split
    | apply mwrite_keeps | apply panelChange_keeps | refine mkKeeps rfl rfl rfl rfl rfl rfl rfl ?_
    | intro _

theorem deviceWrite_keeps {a : Nat} {bs : Bytes} (h : Keeps q0 fz s) :
    Keeps q0 fz (deviceWrite a bs s) := by
  unfold deviceWrite
  with_reducible repeat' first
    | assumption | apply foldl_keeps | (extract_lets; fail_if_success done) | apply keeps_ite <;> intro _ | split
    | apply agentWrite_keeps | refine mkKeeps rfl rfl rfl rfl rfl rfl rfl ?_
    | intro _

theorem setDoor_keeps {d : Nat} {x : Door} (h : Keeps q0 fz s) :
    Keeps q0 fz (setDoor d x s) :=
  { h with doors := tableWf_tset d x h.doors }

theorem modDoor_keeps {d : Nat} {f : Door → Door} (h : Keeps q0 fz s) : Keeps q0 fz (modDoor d f s) := setDoor_keeps h

theorem setEvcPend_keeps {t v : Nat} (h : Keeps q0 fz s) : Keeps q0 fz (setEvcPend t v s) :=
  mkKeeps rfl rfl rfl rfl rfl rfl rfl h

theorem setEvcStack_keeps {t : Nat} {v : List (Nat × Nat)} (h : Keeps q0 fz s) : Keeps q0 fz (setEvcStack t v s) :=
  mkKeeps rfl rfl rfl rfl rfl rfl rfl h

theorem sendMsix_keeps {d v : Nat} (h : Keeps q0 fz s) :
    Keeps q0 fz (sendMsix d v s) := by
  unfold sendMsix
  with_reducible repeat' first
    | assumption | apply foldl_keeps | (extract_lets; fail_if_success done) | apply keeps_ite <;> intro _ | split
    | apply emit_keeps | apply setDoor_keeps | refine mkKeeps rfl rfl rfl rfl rfl rfl rfl ?_
    | intro _

theorem doorInterrupt_keeps {d v : Nat} (h : Keeps q0 fz s) :
    Keeps q0 fz (doorInterrupt d v s) := by
  unfold doorInterrupt
  with_reducible repeat' first
    | assumption | apply foldl_keeps | (extract_lets; fail_if_success done) | apply keeps_ite <;> intro _ | split
    | apply setDoor_keeps | apply sendMsix_keeps | refine mkKeeps rfl rfl rfl rfl rfl rfl rfl ?_
    | intro _

theorem irq2Settle_keeps (h : Keeps q0 fz s) :
    Keeps q0 fz (irq2Settle s) := by
  unfold irq2Settle
  with_reducible repeat' first
    | assumption | apply foldl_keeps | (extract_lets; fail_if_success done) | apply keeps_ite <;> intro _ | split
    | apply setDoor_keeps | refine mkKeeps rfl rfl rfl rfl rfl rfl rfl ?_
    | intro _

theorem evcSignal_keeps {d p : Nat} (h : Keeps q0 fz s) :
    Keeps q0 fz (evcSignal d p s) := by
  unfold evcSignal
  with_reducible repeat' first
    | assumption | apply foldl_keeps | (extract_lets; fail_if_success done) | apply keeps_ite <;> intro _ | split
    | apply doorInterrupt_keeps | apply irq2Settle_keeps | refine mkKeeps rfl rfl rfl rfl rfl rfl rfl ?_
    | intro _

theorem setLastSig_keeps {d v : Nat} (h : Keeps q0 fz s) : Keeps q0 fz (setLastSig d v s) :=
  mkKeeps rfl rfl rfl rfl rfl rfl rfl h

theorem evcSettle_keeps {d : Nat} (h : Keeps q0 fz s) :
    Keeps q0 fz (evcSettle d s) := by
  unfold evcSettle
  split
  · exact keeps_ite_app (irq2Settle_keeps (setLastSig_keeps h)) (setLastSig_keeps h)
  · extract_lets
    split
    · exact evcSignal_keeps (setLastSig_keeps h)
    · split
      · exact irq2Settle_keeps h
      · exact h

theorem evcResignal_keeps {d : Nat} (h : Keeps q0 fz s) :
    Keeps q0 fz (evcResignal d s) := by
  unfold evcResignal
  split
  · exact keeps_ite_app (irq2Settle_keeps (setLastSig_keeps h)) (setLastSig_keeps h)
  · exact evcSignal_keeps (setLastSig_keeps h)

theorem pendTarget_keeps {n t : Nat} (h : Keeps q0 fz s) :
    Keeps q0 fz (pendTarget n t s) := by
  unfold pendTarget
  with_reducible repeat' first
    | assumption | apply foldl_keeps | (extract_lets; fail_if_success done) | apply keeps_ite <;> intro _ | split
    | apply setEvcPend_keeps | refine mkKeeps rfl rfl rfl rfl rfl rfl rfl ?_
    | intro _

theorem raise_keeps {n : Nat} (h : Keeps q0 fz s) :
    Keeps q0 fz (raise n s) := by
  have hf : ∀ d x, Keeps q0 fz x → Keeps q0 fz (if srcTargets s n (d + 1) then evcSettle d x else x) := by
    intro d x hx
    split
    · exact evcSettle_keeps hx
    · exact hx
  exact hf _ _ (hf _ _ (hf _ _ (pendTarget_keeps (pendTarget_keeps (pendTarget_keeps (pendTarget_keeps h))))))

theorem raiseIf_keeps {b : Bool} {n : Nat} (h : Keeps q0 fz s) :
    Keeps q0 fz (raiseIf b n s) := by
  unfold raiseIf
  with_reducible repeat' first
    | assumption | apply foldl_keeps | (extract_lets; fail_if_success done) | apply keeps_ite <;> intro _ | split
    | apply raise_keeps | refine mkKeeps rfl rfl rfl rfl rfl rfl rfl ?_
    | intro _

theorem raiseAll_keeps {l : List Nat} (h : Keeps q0 fz s) :
    Keeps q0 fz (raiseAll l s) := by
  unfold raiseAll
  with_reducible repeat' first
    | assumption | apply foldl_keeps | (extract_lets; fail_if_success done) | apply keeps_ite <;> intro _ | split
    | apply raise_keeps | refine mkKeeps rfl rfl rfl rfl rfl rfl rfl ?_
    | intro _

theorem unpend_keeps {t n : Nat} (h : Keeps q0 fz s) : Keeps q0 fz (unpend t n s) := mkKeeps rfl rfl rfl rfl rfl rfl rfl h

theorem setNotice_keeps {d bit : Nat} (h : Keeps q0 fz s) :
    Keeps q0 fz (setNotice d bit s) := by
  unfold setNotice
  with_reducible repeat' first
    | assumption | apply foldl_keeps | (extract_lets; fail_if_success done) | apply keeps_ite <;> intro _ | split
    | apply setDoor_keeps | apply doorInterrupt_keeps | apply irq2Settle_keeps
    | refine mkKeeps rfl rfl rfl rfl rfl rfl rfl ?_
    | intro _

end Sys2Proof.Machine
end

