-- ==== Sys2Proof/Laws/KeepsBank.lean ====
section
/-! SUPPORT. What no command may spoil is kept by the functions of Machine/Bank.lean. -/

namespace Sys2Proof.Machine

set_option Elab.async false

variable {q0 : List Instr} {fz : FuseBits} {s : State}

theorem setArea_keeps {d : Nat} {a : StockArea} (h : Keeps q0 fz s) : Keeps q0 fz (setArea d a s) :=
  mkKeeps rfl rfl rfl rfl rfl rfl rfl h

theorem bumpLiveVer_keeps (h : Keeps q0 fz s) : Keeps q0 fz (bumpLiveVer s) := mkKeeps rfl rfl rfl rfl rfl rfl rfl h

end Sys2Proof.Machine
end

