-- ==== Sys2Proof/Laws/KeepsFelt.lean ====
section
/-! SUPPORT. What no command may spoil is kept by the functions of Machine/Felt.lean. -/

namespace Sys2Proof.Machine

set_option Elab.async false

variable {q0 : List Instr} {fz : FuseBits} {s : State}

theorem cntAdd_keeps {a n : Nat} (h : Keeps q0 fz s) : Keeps q0 fz (cntAdd a n s) := mkKeeps rfl rfl rfl rfl rfl rfl rfl h

theorem cntClr_keeps {a : Nat} (h : Keeps q0 fz s) : Keeps q0 fz (cntClr a s) := mkKeeps rfl rfl rfl rfl rfl rfl rfl h

theorem dropOnset_keeps (h : Keeps q0 fz s) :
    Keeps q0 fz (dropOnset s) := by
  unfold dropOnset
  with_reducible repeat' first
    | assumption | apply foldl_keeps | (extract_lets; fail_if_success done) | apply keeps_ite <;> intro _ | split
    | apply raise_keeps | refine mkKeeps rfl rfl rfl rfl rfl rfl rfl ?_
    | intro _

theorem dropPort_keeps {q i : Nat} (h : Keeps q0 fz s) : Keeps q0 fz (dropPort q i s) :=
  dropOnset_keeps (mkKeeps rfl rfl rfl rfl rfl rfl rfl h)

theorem dropChan_keeps {c i : Nat} (h : Keeps q0 fz s) : Keeps q0 fz (dropChan c i s) :=
  dropOnset_keeps (mkKeeps rfl rfl rfl rfl rfl rfl rfl h)

theorem setFrames_keeps {l : List Sheet} (h : Keeps q0 fz s) : Keeps q0 fz (setFrames l s) :=
  mkKeeps rfl rfl rfl rfl rfl rfl rfl h

theorem modFrm_keeps {id : Nat} {f : Sheet → Sheet} (h : Keeps q0 fz s) : Keeps q0 fz (modFrm id f s) :=
  mkKeeps rfl rfl rfl rfl rfl rfl rfl h

theorem setEgress_keeps {e : Nat} {x : Egress} (h : Keeps q0 fz s) :
    Keeps q0 fz (setEgress e x s) := by
  unfold setEgress
  with_reducible repeat' first
    | assumption | apply foldl_keeps | (extract_lets; fail_if_success done) | apply keeps_ite <;> intro _ | split
    | refine mkKeeps rfl rfl rfl rfl rfl rfl rfl ?_
    | intro _

theorem creditSettle_keeps {e k : Nat} (h : Keeps q0 fz s) :
    Keeps q0 fz (creditSettle e k s) := by
  unfold creditSettle
  with_reducible repeat' first
    | assumption | apply foldl_keeps | (extract_lets; fail_if_success done) | apply keeps_ite <;> intro _ | split
    | apply setEgress_keeps | refine mkKeeps rfl rfl rfl rfl rfl rfl rfl ?_
    | intro _

theorem removeFrm_keeps {id : Nat} (h : Keeps q0 fz s) :
    Keeps q0 fz (removeFrm id s) := by
  unfold removeFrm
  with_reducible repeat' first
    | assumption | apply foldl_keeps | (extract_lets; fail_if_success done) | apply keeps_ite <;> intro _ | split
    | apply setFrames_keeps | apply creditSettle_keeps | refine mkKeeps rfl rfl rfl rfl rfl rfl rfl ?_
    | intro _

theorem discardFrm_keeps {f : Sheet} (h : Keeps q0 fz s) :
    Keeps q0 fz (discardFrm f s) := by
  unfold discardFrm
  with_reducible repeat' first
    | assumption | apply foldl_keeps | (extract_lets; fail_if_success done) | apply keeps_ite <;> intro _ | split
    | apply cntAdd_keeps | apply removeFrm_keeps | refine mkKeeps rfl rfl rfl rfl rfl rfl rfl ?_
    | intro _

theorem discardChan_keeps {f : Sheet} {i : Nat} (h : Keeps q0 fz s) :
    Keeps q0 fz (discardChan f i s) := by
  unfold discardChan
  with_reducible repeat' first
    | assumption | apply foldl_keeps | (extract_lets; fail_if_success done) | apply keeps_ite <;> intro _ | split
    | apply dropChan_keeps | apply discardFrm_keeps | refine mkKeeps rfl rfl rfl rfl rfl rfl rfl ?_
    | intro _

theorem discardPort_keeps {f : Sheet} {i : Nat} (h : Keeps q0 fz s) : Keeps q0 fz (discardPort f i s) :=
  dropPort_keeps (discardFrm_keeps h)

theorem discardDown_keeps {afterWire : Bool} {f : Sheet} (h : Keeps q0 fz s) :
    Keeps q0 fz (discardDown afterWire f s) := by
  unfold discardDown
  with_reducible repeat' first
    | assumption | apply foldl_keeps | (extract_lets; fail_if_success done) | apply keeps_ite <;> intro _ | split
    | apply cntAdd_keeps | apply dropChan_keeps | apply discardFrm_keeps | refine mkKeeps rfl rfl rfl rfl rfl rfl rfl ?_
    | intro _

theorem setLane_keeps {i : Nat} {l : PLane} (h : Keeps q0 fz s) : Keeps q0 fz (setLane i l s) :=
  mkKeeps rfl rfl rfl rfl rfl rfl rfl h

theorem laneTo_keeps {i st : Nat} (h : Keeps q0 fz s) : Keeps q0 fz (laneTo i st s) :=
  raise_keeps (mkKeeps rfl rfl rfl rfl rfl rfl rfl h)

theorem setPort_keeps {q : Nat} {p : Port} (h : Keeps q0 fz s) : Keeps q0 fz (setPort q p s) :=
  mkKeeps rfl rfl rfl rfl rfl rfl rfl h

theorem lineChange_keeps {q : Nat} {f : State → State} (hf : ∀ x0, Keeps q0 fz x0 → Keeps q0 fz (f x0)) (h : Keeps q0 fz s) :
    Keeps q0 fz (lineChange q f s) := by
  unfold lineChange
  with_reducible repeat' first
    | assumption | apply foldl_keeps | (extract_lets; fail_if_success done) | apply keeps_ite <;> intro _ | split
    | apply hf | apply emit_keeps | refine mkKeeps rfl rfl rfl rfl rfl rfl rfl ?_
    | intro _

theorem sendOut_keeps {q : Nat} {bytes : Bytes} {ok : Bool} (h : Keeps q0 fz s) :
    Keeps q0 fz (sendOut q bytes ok s) := by
  unfold sendOut
  with_reducible repeat' first
    | assumption | apply foldl_keeps | (extract_lets; fail_if_success done) | apply keeps_ite <;> intro _ | split
    | apply setPort_keeps | apply emit_keeps | refine mkKeeps rfl rfl rfl rfl rfl rfl rfl ?_
    | intro _

theorem setCal_keeps {d : Nat} {c : CalPort} (h : Keeps q0 fz s) : Keeps q0 fz (setCal d c s) :=
  mkKeeps rfl rfl rfl rfl rfl rfl rfl h

theorem modCal_keeps {d : Nat} {f : CalPort → CalPort} (h : Keeps q0 fz s) : Keeps q0 fz (modCal d f s) :=
  mkKeeps rfl rfl rfl rfl rfl rfl rfl h

theorem calSettle_keeps {d : Nat} (h : Keeps q0 fz s) :
    Keeps q0 fz (calSettle d s) := by
  unfold calSettle
  with_reducible repeat' first
    | assumption | apply foldl_keeps | (extract_lets; fail_if_success done) | apply keeps_ite <;> intro _ | split
    | apply cntAdd_keeps | apply setCal_keeps | refine mkKeeps rfl rfl rfl rfl rfl rfl rfl ?_
    | intro _

theorem calUpdate_keeps {d was : Nat} (h : Keeps q0 fz s) :
    Keeps q0 fz (calUpdate d was s) := by
  unfold calUpdate
  with_reducible repeat' first
    | assumption | apply foldl_keeps | (extract_lets; fail_if_success done) | apply keeps_ite <;> intro _ | split
    | apply calSettle_keeps | apply raiseIf_keeps | refine mkKeeps rfl rfl rfl rfl rfl rfl rfl ?_
    | intro _

theorem calChange_keeps {d : Nat} {f : State → State} (hf : ∀ x0, Keeps q0 fz x0 → Keeps q0 fz (f x0)) (h : Keeps q0 fz s) :
    Keeps q0 fz (calChange d f s) := by
  unfold calChange
  with_reducible repeat' first
    | assumption | apply foldl_keeps | (extract_lets; fail_if_success done) | apply keeps_ite <;> intro _ | split
    | apply hf | apply calUpdate_keeps | refine mkKeeps rfl rfl rfl rfl rfl rfl rfl ?_
    | intro _

theorem loseSync_keeps {d : Nat} (h : Keeps q0 fz s) :
    Keeps q0 fz (loseSync d s) := by
  unfold loseSync
  with_reducible repeat' first
    | assumption | apply foldl_keeps | (extract_lets; fail_if_success done) | apply keeps_ite <;> intro _ | split
    | apply modCal_keeps | refine mkKeeps rfl rfl rfl rfl rfl rfl rfl ?_
    | intro _

theorem portCal_keeps {q : Nat} {lose : Bool} {f : State → State} (hf : ∀ x0, Keeps q0 fz x0 → Keeps q0 fz (f x0)) (h : Keeps q0 fz s) :
    Keeps q0 fz (portCal q lose f s) := by
  unfold portCal
  with_reducible repeat' first
    | assumption | apply foldl_keeps | (extract_lets; fail_if_success done) | apply keeps_ite <;> intro _ | split
    | apply hf | apply calChange_keeps | apply loseSync_keeps | refine mkKeeps rfl rfl rfl rfl rfl rfl rfl ?_
    | intro _

theorem portTo_keeps {q st : Nat} (h : Keeps q0 fz s) :
    Keeps q0 fz (portTo q st s) := by
  unfold portTo
  with_reducible repeat' first
    | assumption | apply foldl_keeps | (extract_lets; fail_if_success done) | apply keeps_ite <;> intro _ | split
    | apply lineChange_keeps | apply portCal_keeps | apply setPort_keeps | apply cntAdd_keeps | apply raise_keeps
    | refine mkKeeps rfl rfl rfl rfl rfl rfl rfl ?_
    | intro _

theorem portClose_keeps {q : Nat} (h : Keeps q0 fz s) :
    Keeps q0 fz (portClose q s) := by
  unfold portClose
  with_reducible repeat' first
    | assumption | apply foldl_keeps | (extract_lets; fail_if_success done) | apply keeps_ite <;> intro _ | split
    | apply portTo_keeps | refine mkKeeps rfl rfl rfl rfl rfl rfl rfl ?_
    | intro _

end Sys2Proof.Machine
end

