-- ==== Sys2Proof/Laws/KeepsChannels.lean ====
section
/-! SUPPORT. What no command may spoil is kept by the functions of Machine/Channels.lean. -/

namespace Sys2Proof.Machine

set_option Elab.async false

variable {q0 : List Instr} {fz : FuseBits} {s : State}

theorem setChan_keeps {c : Nat} {x : Chan} (h : Keeps q0 fz s) : Keeps q0 fz (setChan c x s) :=
  mkKeeps rfl rfl rfl rfl rfl rfl rfl h

theorem modChan_keeps {c : Nat} {f : Chan → Chan} (h : Keeps q0 fz s) : Keeps q0 fz (modChan c f s) :=
  mkKeeps rfl rfl rfl rfl rfl rfl rfl h

theorem pnAging_keeps {c : Nat} {which : Bool} {n : Nat} (h : Keeps q0 fz s) :
    Keeps q0 fz (pnAging c which n s) := by
  unfold pnAging
  with_reducible repeat' first
    | assumption | apply foldl_keeps | (extract_lets; fail_if_success done) | apply keeps_ite <;> intro _ | split
    | apply raise_keeps | apply setChan_keeps | refine mkKeeps rfl rfl rfl rfl rfl rfl rfl ?_
    | intro _

theorem pnEnd_keeps {c : Nat} {which : Bool} (h : Keeps q0 fz s) : Keeps q0 fz (pnEnd c which s) :=
  mkKeeps rfl rfl rfl rfl rfl rfl rfl h

theorem assignPn_keeps {c : Nat} {which : Bool} (h : Keeps q0 fz s) :
    Keeps q0 fz (assignPn c which s) := by
  unfold assignPn
  with_reducible repeat' first
    | assumption | apply foldl_keeps | (extract_lets; fail_if_success done) | apply keeps_ite <;> intro _ | split
    | apply setChan_keeps | apply pnAging_keeps | apply pnEnd_keeps | refine mkKeeps rfl rfl rfl rfl rfl rfl rfl ?_
    | intro _

theorem acceptPn_keeps {c kid pn : Nat} (h : Keeps q0 fz s) :
    Keeps q0 fz (acceptPn c kid pn s) := by
  unfold acceptPn
  with_reducible repeat' first
    | assumption | apply foldl_keeps | (extract_lets; fail_if_success done) | apply keeps_ite <;> intro _ | split
    | apply setChan_keeps | apply pnAging_keeps | apply pnEnd_keeps | refine mkKeeps rfl rfl rfl rfl rfl rfl rfl ?_
    | intro _

theorem promote_keeps {c : Nat} (h : Keeps q0 fz s) : Keeps q0 fz (promote c s) := mkKeeps rfl rfl rfl rfl rfl rfl rfl h

theorem rollover_keeps {c : Nat} (h : Keeps q0 fz s) :
    Keeps q0 fz (rollover c s) := by
  unfold rollover
  with_reducible repeat' first
    | assumption | apply foldl_keeps | (extract_lets; fail_if_success done) | apply keeps_ite <;> intro _ | split
    | apply orReg_keeps | apply raise_keeps | apply setChan_keeps | apply promote_keeps
    | refine mkKeeps rfl rfl rfl rfl rfl rfl rfl ?_
    | intro _

theorem rolloverAll_keeps (h : Keeps q0 fz s) :
    Keeps q0 fz (rolloverAll s) := by
  unfold rolloverAll
  with_reducible repeat' first
    | assumption | apply foldl_keeps | (extract_lets; fail_if_success done) | apply keeps_ite <;> intro _ | split
    | apply rollover_keeps | refine mkKeeps rfl rfl rfl rfl rfl rfl rfl ?_
    | intro _

theorem clearChan_keeps {c : Nat} (h : Keeps q0 fz s) : Keeps q0 fz (clearChan c s) := mkKeeps rfl rfl rfl rfl rfl rfl rfl h

theorem dropChanFrames_keeps {c : Nat} (h : Keeps q0 fz s) :
    Keeps q0 fz (dropChanFrames c s) := by
  unfold dropChanFrames
  with_reducible repeat' first
    | assumption | apply foldl_keeps | (extract_lets; fail_if_success done) | apply keeps_ite <;> intro _ | split
    | apply discardChan_keeps | refine mkKeeps rfl rfl rfl rfl rfl rfl rfl ?_
    | intro _

theorem takeChan_keeps {c d : Nat} (h : Keeps q0 fz s) :
    Keeps q0 fz (takeChan c d s) := by
  unfold takeChan
  with_reducible repeat' first
    | assumption | apply foldl_keeps | (extract_lets; fail_if_success done) | apply keeps_ite <;> intro _ | split
    | apply bumpLiveVer_keeps | apply modChan_keeps | refine mkKeeps rfl rfl rfl rfl rfl rfl rfl ?_
    | intro _

end Sys2Proof.Machine
end

