-- ==== Sys2Proof/Laws/KeepsEvents.lean ====
section
/-! SUPPORT. What no command may spoil is kept by the functions of Machine/Events.lean. -/

namespace Sys2Proof.Machine

set_option Elab.async false

variable {q0 : List Instr} {fz : FuseBits} {s : State}

theorem evcSettleTarget_keeps {t : Nat} (h : Keeps q0 fz s) :
    Keeps q0 fz (evcSettleTarget t s) := by
  unfold evcSettleTarget
  with_reducible repeat' first
    | assumption | apply foldl_keeps | (extract_lets; fail_if_success done) | apply keeps_ite <;> intro _ | split
    | apply evcSettle_keeps | refine mkKeeps rfl rfl rfl rfl rfl rfl rfl ?_
    | intro _

theorem claimTake_keeps {t : Nat} {v : Option Nat} (h : Keeps q0 fz s) :
    Keeps q0 fz (claimTake t v s) := by
  unfold claimTake
  with_reducible repeat' first
    | assumption | apply foldl_keeps | (extract_lets; fail_if_success done) | apply keeps_ite <;> intro _ | split
    | apply evcSettleTarget_keeps | apply setEvcStack_keeps | apply unpend_keeps | apply incReg_keeps
    | apply putBit_keeps | refine mkKeeps rfl rfl rfl rfl rfl rfl rfl ?_
    | intro _

theorem claim_keeps {t : Nat} (h : Keeps q0 fz s) :
    Keeps q0 fz (claim t s) := by
  unfold claim
  with_reducible repeat' first
    | assumption | apply foldl_keeps | (extract_lets; fail_if_success done) | apply keeps_ite <;> intro _ | split
    | apply claimTake_keeps | refine mkKeeps rfl rfl rfl rfl rfl rfl rfl ?_
    | intro _

theorem stackFault_keeps {t v : Nat} (h : Keeps q0 fz s) :
    Keeps q0 fz (stackFault t v s) := by
  unfold stackFault
  with_reducible repeat' first
    | assumption | apply foldl_keeps | (extract_lets; fail_if_success done) | apply keeps_ite <;> intro _ | split
    | apply putBit_keeps | apply setRegN_keeps | apply setEvcStack_keeps | apply evcResignal_keeps | apply raise_keeps
    | refine mkKeeps rfl rfl rfl rfl rfl rfl rfl ?_
    | intro _

theorem complete_keeps {t v : Nat} (h : Keeps q0 fz s) :
    Keeps q0 fz (complete t v s) := by
  unfold complete
  with_reducible repeat' first
    | assumption | apply foldl_keeps | (extract_lets; fail_if_success done) | apply keeps_ite <;> intro _ | split
    | apply setEvcStack_keeps | apply evcResignal_keeps | apply stackFault_keeps
    | refine mkKeeps rfl rfl rfl rfl rfl rfl rfl ?_
    | intro _

theorem swSet_keeps {v : Nat} (h : Keeps q0 fz s) :
    Keeps q0 fz (swSet v s) := by
  unfold swSet
  with_reducible repeat' first
    | assumption | apply foldl_keeps | (extract_lets; fail_if_success done) | apply keeps_ite <;> intro _ | split
    | apply raise_keeps | refine mkKeeps rfl rfl rfl rfl rfl rfl rfl ?_
    | intro _

theorem swClr_keeps {v : Nat} (h : Keeps q0 fz s) :
    Keeps q0 fz (swClr v s) := by
  unfold swClr
  with_reducible repeat' first
    | assumption | apply foldl_keeps | (extract_lets; fail_if_success done) | apply keeps_ite <;> intro _ | split
    | apply evcSettle_keeps | apply unpend_keeps | refine mkKeeps rfl rfl rfl rfl rfl rfl rfl ?_
    | intro _

theorem evcClearTarget_keeps {t : Nat} (h : Keeps q0 fz s) :
    Keeps q0 fz (evcClearTarget t s) := by
  unfold evcClearTarget
  with_reducible repeat' first
    | assumption | apply foldl_keeps | (extract_lets; fail_if_success done) | apply keeps_ite <;> intro _ | split
    | apply setEvcPend_keeps | apply setEvcStack_keeps | apply evcSettleTarget_keeps
    | refine mkKeeps rfl rfl rfl rfl rfl rfl rfl ?_
    | intro _

theorem evcReadEffect_keeps {o : Nat} (h : Keeps q0 fz s) :
    Keeps q0 fz (evcReadEffect o s) := by
  unfold evcReadEffect
  with_reducible repeat' first
    | assumption | apply foldl_keeps | (extract_lets; fail_if_success done) | apply keeps_ite <;> intro _ | split
    | apply readClears_keeps | apply claim_keeps | refine mkKeeps rfl rfl rfl rfl rfl rfl rfl ?_
    | intro _

theorem srcCfgWrite_keeps {n : Nat} {v : Word} (h : Keeps q0 fz s) :
    Keeps q0 fz (srcCfgWrite n v s) := by
  unfold srcCfgWrite
  with_reducible repeat' first
    | assumption | apply foldl_keeps | (extract_lets; fail_if_success done) | apply keeps_ite <;> intro _ | split
    | apply writeTyped_keeps | apply evcSettle_keeps | apply unpend_keeps
    | refine mkKeeps rfl rfl rfl rfl rfl rfl rfl ?_
    | intro _

theorem evcWrite_keeps {o : Nat} {v : Word} (h : Keeps q0 fz s) :
    Keeps q0 fz (evcWrite o v s) := by
  unfold evcWrite
  with_reducible repeat' first
    | assumption | apply foldl_keeps | (extract_lets; fail_if_success done) | apply keeps_ite <;> intro _ | split
    | apply writeTyped_keeps | apply complete_keeps | apply swSet_keeps | apply swClr_keeps | apply srcCfgWrite_keeps
    | refine mkKeeps rfl rfl rfl rfl rfl rfl rfl ?_
    | intro _

theorem execEvcClaim_keeps {t : EvcTarget} (h : Keeps q0 fz s) : OutKeeps q0 fz (execEvcClaim t s) :=
  next_keeps (live_keeps (fun _ hx => claim_keeps (emit_keeps hx)) h)

theorem execEvcComplete_keeps {t : EvcTarget} {v : BitVec 10} (h : Keeps q0 fz s) : OutKeeps q0 fz (execEvcComplete t v s) :=
  next_keeps (live_keeps (fun _ hx => complete_keeps hx) h)

theorem execSwset_keeps {v : Word} (h : Keeps q0 fz s) : OutKeeps q0 fz (execSwset v s) :=
  next_keeps (live_keeps (fun _ hx => evcWrite_keeps hx) h)

theorem execSwclr_keeps {v : Word} (h : Keeps q0 fz s) : OutKeeps q0 fz (execSwclr v s) :=
  next_keeps (live_keeps (fun _ hx => evcWrite_keeps hx) h)

theorem spiDone_keeps {code : Nat} (h : Keeps q0 fz s) : Keeps q0 fz (spiDone code s) := modDoor_keeps h

theorem execSpiEvcClaim_keeps {p : SpiClaim} (h : Keeps q0 fz s) :
    OutKeeps q0 fz (execSpiEvcClaim p s) := by
  unfold execSpiEvcClaim
  with_reducible repeat' first
    | assumption | apply foldl_keeps | (extract_lets; fail_if_success done) | apply keeps_ite <;> intro _ | split
    | apply next_keeps | apply next_keeps | apply live_keeps | apply modDoor_keeps | apply spiDone_keeps
    | apply emit_keeps | apply claimTake_keeps | refine mkKeeps rfl rfl rfl rfl rfl rfl rfl ?_
    | intro _

theorem execSpiEvcComplete_keeps {data : Bytes} (h : Keeps q0 fz s) :
    OutKeeps q0 fz (execSpiEvcComplete data s) := by
  unfold execSpiEvcComplete
  with_reducible repeat' first
    | assumption | apply foldl_keeps | (extract_lets; fail_if_success done) | apply keeps_ite <;> intro _ | split
    | apply live_keeps | apply complete_keeps | apply spiDone_keeps | apply next_keeps
    | refine mkKeeps rfl rfl rfl rfl rfl rfl rfl ?_
    | intro _

theorem execSentinelModerationEnd_keeps (h : Keeps q0 fz s) :
    OutKeeps q0 fz (execSentinelModerationEnd s) :=
  next_keeps (live_keeps (fun _ hx => keeps_ite (fun _ => hx) fun _ => mkKeeps rfl rfl rfl rfl rfl rfl rfl hx) h)

end Sys2Proof.Machine
end

