-- ==== Sys2Proof/Laws/KeepsDoors.lean ====
section
/-! SUPPORT. What no command may spoil is kept by the functions of Machine/Doors.lean. -/

namespace Sys2Proof.Machine

set_option Elab.async false

variable {q0 : List Instr} {fz : FuseBits} {s : State}

theorem poolReturn_keeps {d : Nat} {k : PoolKind} (h : Keeps q0 fz s) :
    Keeps q0 fz (poolReturn d k s) := by
  unfold poolReturn
  with_reducible repeat' first
    | assumption | apply foldl_keeps | (extract_lets; fail_if_success done) | apply keeps_ite <;> intro _ | split
    | apply modDoor_keeps | refine mkKeeps rfl rfl rfl rfl rfl rfl rfl ?_
    | intro _

theorem poolTake_keeps {d : Nat} {k : PoolKind} {y : State}
    (e : poolTake d s = some (k, y)) (h : Keeps q0 fz s) : Keeps q0 fz y := by
  unfold poolTake at e
  split at e
  · cases e; exact modDoor_keeps h
  · split at e
    · cases e; exact mkKeeps rfl rfl rfl rfl rfl rfl rfl h
    · cases e

theorem pushReply_keeps {d : Nat} {r : Reply} (h : Keeps q0 fz s) :
    Keeps q0 fz (pushReply d r s) := by
  unfold pushReply
  with_reducible repeat' first
    | assumption | apply foldl_keeps | (extract_lets; fail_if_success done) | apply keeps_ite <;> intro _ | split
    | apply modDoor_keeps | apply irq2Settle_keeps | refine mkKeeps rfl rfl rfl rfl rfl rfl rfl ?_
    | intro _

theorem modCmd_keeps {d tag : Nat} {f : Cmd → Cmd} (h : Keeps q0 fz s) : Keeps q0 fz (modCmd d tag f s) := modDoor_keeps h

theorem removeCmd_keeps {d : Nat} {p : Cmd → Bool} (h : Keeps q0 fz s) : Keeps q0 fz (removeCmd d p s) := modDoor_keeps h

theorem writeOutput_keeps {d : Nat} {c : Cmd} {data : Bytes} (h : Keeps q0 fz s) :
    Keeps q0 fz (writeOutput d c data s) := by
  unfold writeOutput
  with_reducible repeat' first
    | assumption | apply foldl_keeps | (extract_lets; fail_if_success done) | apply keeps_ite <;> intro _ | split
    | apply deviceWrite_keeps | apply emit_keeps | refine mkKeeps rfl rfl rfl rfl rfl rfl rfl ?_
    | intro _

theorem finish_keeps {d tag status detail r0 r1 r2 : Nat} {data : Option Bytes} (h : Keeps q0 fz s) :
    Keeps q0 fz (finish d tag status detail r0 r1 r2 data s) := by
  unfold finish
  with_reducible repeat' first
    | assumption | apply foldl_keeps | (extract_lets; fail_if_success done) | apply keeps_ite <;> intro _ | split
    | apply poolReturn_keeps | apply pushReply_keeps | apply modCmd_keeps | apply removeCmd_keeps
    | apply writeOutput_keeps | refine mkKeeps rfl rfl rfl rfl rfl rfl rfl ?_
    | intro _

theorem finishSt_keeps {d tag status detail : Nat} (h : Keeps q0 fz s) : Keeps q0 fz (finishSt d tag status detail s) :=
  finish_keeps h

theorem finishR0_keeps {d tag status r0 : Nat} (h : Keeps q0 fz s) : Keeps q0 fz (finishR0 d tag status r0 s) :=
  finish_keeps h

theorem deferCmd_keeps {d tag status : Nat} (h : Keeps q0 fz s) :
    Keeps q0 fz (deferCmd d tag status s) := by
  unfold deferCmd
  with_reducible repeat' first
    | assumption | apply foldl_keeps | (extract_lets; fail_if_success done) | apply keeps_ite <;> intro _ | split
    | apply pushReply_keeps | apply modCmd_keeps | refine mkKeeps rfl rfl rfl rfl rfl rfl rfl ?_
    | intro _

theorem unsolicited_keeps {d opcode detail r0 r1 r2 : Nat}
    (h : Keeps q0 fz s) : Keeps q0 fz (unsolicited d opcode detail r0 r1 r2 s) := by
  unfold unsolicited
  split
  · exact setNotice_keeps (mkKeeps rfl rfl rfl rfl rfl rfl rfl h)
  · exact pushReply_keeps (poolTake_keeps (by assumption) h)

theorem refusePkt_keeps {d : Nat} {p : Bytes} {status r0 : Nat} (h : Keeps q0 fz s) :
    Keeps q0 fz (refusePkt d p status r0 s) := by
  unfold refusePkt
  with_reducible repeat' first
    | assumption | apply foldl_keeps | (extract_lets; fail_if_success done) | apply keeps_ite <;> intro _ | split
    | apply raise_keeps | apply setNotice_keeps | apply pushReply_keeps | refine mkKeeps rfl rfl rfl rfl rfl rfl rfl ?_
    | intro _

theorem continuePkt_keeps {p : Bytes} (h : Keeps q0 fz s) :
    Keeps q0 fz (continuePkt p s) := by
  unfold continuePkt
  with_reducible repeat' first
    | assumption | apply foldl_keeps | (extract_lets; fail_if_success done) | apply keeps_ite <;> intro _ | split
    | apply modCmd_keeps | apply finishR0_keeps | apply refusePkt_keeps | refine mkKeeps rfl rfl rfl rfl rfl rfl rfl ?_
    | intro _

theorem checkPkt_keeps {d : Nat} {p : Bytes} (h : Keeps q0 fz s) :
    Keeps q0 fz (checkPkt d p s).1 := by
  unfold checkPkt
  with_reducible repeat' first
    | assumption | apply foldl_keeps | (extract_lets; fail_if_success done) | apply keeps_ite <;> intro _ | split
    | apply modDoor_keeps | apply finishR0_keeps | apply refusePkt_keeps | apply continuePkt_keeps | apply keeps_mk_fst
    | refine mkKeeps rfl rfl rfl rfl rfl rfl rfl ?_
    | intro _

theorem acceptPkt_keeps {d : Nat} {p : Bytes} {k : PoolKind}
    (h : Keeps q0 fz s) : Keeps q0 fz (acceptPkt d p k s) := by
  unfold acceptPkt
  extract_lets
  exact modDoor_keeps h

theorem grantPool_keeps {reqs : List (Nat × Bytes)}
    (h : Keeps q0 fz s) : Keeps q0 fz (grantPool reqs s) := by
  unfold grantPool
  extract_lets onFloor floorReqs sharedReqs s1 contested ordered winners s2
  have h1 : Keeps q0 fz s1 := by
    refine foldl_keeps (fun x b hx => ?_) h
    split
    · exact acceptPkt_keeps (poolTake_keeps (by assumption) hx)
    · exact hx
  have h2 : Keeps q0 fz s2 := by
    refine foldl_keeps (fun x b hx => ?_) h1
    split
    · exact acceptPkt_keeps (poolTake_keeps (by assumption) hx)
    · exact refusePkt_keeps hx
  split
  · exact mkKeeps rfl rfl rfl rfl rfl rfl rfl h2
  · exact h2

theorem consumePkt_keeps {d : Nat} (h : Keeps q0 fz s) : Keeps q0 fz (consumePkt d s) := modDoor_keeps h

theorem frontEnd_keeps {acc : State × List (Nat × Bytes)} {q : DoorId × Bytes}
    (h : Keeps q0 fz acc.1) : Keeps q0 fz (frontEnd acc q).1 := by
  unfold frontEnd
  split
  extract_lets d
  split
  · split
    have h1 := keeps_fst (by assumption) (checkPkt_keeps (consumePkt_keeps h))
    split
    · exact h1
    · exact h1
  · exact h

theorem execCommandPacket_keeps {ps : List (DoorId × Bytes)}
    (h : Keeps q0 fz s) : OutKeeps q0 fz (execCommandPacket ps s) := by
  refine next_keeps (live_keeps (fun s h => ?_) h)
  have hf : ∀ (l : List (DoorId × Bytes)) acc, Keeps q0 fz acc.1 → Keeps q0 fz (l.foldl frontEnd acc).1 := by
    intro l
    induction l with
    | nil => exact fun _ ha => ha
    | cons b r ih => exact fun acc ha => ih _ (frontEnd_keeps ha)
  exact grantPool_keeps (hf _ (s, []) h)

theorem dispatchIf_keeps {d tag op : Nat} {p : Cmd → Bool} {f : Cmd → State → State} (hf : ∀ x0 x1, Keeps q0 fz x1 → Keeps q0 fz (f x0 x1)) (h : Keeps q0 fz s) :
    Keeps q0 fz (dispatchIf d tag op p f s) := by
  unfold dispatchIf
  with_reducible repeat' first
    | assumption | apply foldl_keeps | (extract_lets; fail_if_success done) | apply keeps_ite <;> intro _ | split
    | apply hf | apply modCmd_keeps | apply finishSt_keeps | apply deferCmd_keeps
    | refine mkKeeps rfl rfl rfl rfl rfl rfl rfl ?_
    | intro _

theorem dispatch_keeps {d tag op : Nat} {f : Cmd → State → State} (hf : ∀ x0 x1, Keeps q0 fz x1 → Keeps q0 fz (f x0 x1)) (h : Keeps q0 fz s) :
    Keeps q0 fz (dispatch d tag op f s) := by
  unfold dispatch
  with_reducible repeat' first
    | assumption | apply foldl_keeps | (extract_lets; fail_if_success done) | apply keeps_ite <;> intro _ | split
    | apply hf | apply dispatchIf_keeps | refine mkKeeps rfl rfl rfl rfl rfl rfl rfl ?_
    | intro _

theorem delivered_keeps {d : Nat} {r : Reply} (h : Keeps q0 fz s) :
    Keeps q0 fz (delivered d r s) := by
  unfold delivered
  with_reducible repeat' first
    | assumption | apply foldl_keeps | (extract_lets; fail_if_success done) | apply keeps_ite <;> intro _ | split
    | apply modDoor_keeps | apply poolReturn_keeps | refine mkKeeps rfl rfl rfl rfl rfl rfl rfl ?_
    | intro _

theorem deliverReply_keeps {d : Nat} (h : Keeps q0 fz s) :
    Keeps q0 fz (deliverReply d s) := by
  unfold deliverReply
  with_reducible repeat' first
    | assumption | apply foldl_keeps | (extract_lets; fail_if_success done) | apply keeps_ite <;> intro _ | split
    | apply emit_keeps | apply mwrite_keeps | apply modDoor_keeps | apply doorInterrupt_keeps | apply raise_keeps
    | apply delivered_keeps | refine mkKeeps rfl rfl rfl rfl rfl rfl rfl ?_
    | intro _

theorem execReplyDeliver_keeps {d : DoorId} (h : Keeps q0 fz s) : OutKeeps q0 fz (execReplyDeliver d s) :=
  next_keeps (live_keeps (fun _ hx => deliverReply_keeps hx) h)

theorem cmdTailWrite_keeps {d : Nat} {v : Word} (h : Keeps q0 fz s) : Keeps q0 fz (cmdTailWrite d v s) := modDoor_keeps h

theorem rplHeadWrite_keeps {d : Nat} {v : Word} (h : Keeps q0 fz s) : Keeps q0 fz (rplHeadWrite d v s) := modDoor_keeps h

theorem idleHint_keeps {d : Nat} (h : Keeps q0 fz s) :
    Keeps q0 fz (idleHint d s) := by
  unfold idleHint
  with_reducible repeat' first
    | assumption | apply foldl_keeps | (extract_lets; fail_if_success done) | apply keeps_ite <;> intro _ | split
    | apply raise_keeps | apply modDoor_keeps | apply irq2Settle_keeps | refine mkKeeps rfl rfl rfl rfl rfl rfl rfl ?_
    | intro _

theorem idleHintWrite_keeps {d : Nat} {v : Word} (h : Keeps q0 fz s) :
    Keeps q0 fz (idleHintWrite d v s) := by
  unfold idleHintWrite
  with_reducible repeat' first
    | assumption | apply foldl_keeps | (extract_lets; fail_if_success done) | apply keeps_ite <;> intro _ | split
    | apply idleHint_keeps | refine mkKeeps rfl rfl rfl rfl rfl rfl rfl ?_
    | intro _

theorem ringEnable_keeps {d : Nat} (h : Keeps q0 fz s) :
    Keeps q0 fz (ringEnable d s) := by
  unfold ringEnable
  with_reducible repeat' first
    | assumption | apply foldl_keeps | (extract_lets; fail_if_success done) | apply keeps_ite <;> intro _ | split
    | apply modDoor_keeps | refine mkKeeps rfl rfl rfl rfl rfl rfl rfl ?_
    | intro _

theorem ringDisable_keeps {d : Nat} (h : Keeps q0 fz s) :
    Keeps q0 fz (ringDisable d s) := by
  unfold ringDisable
  with_reducible repeat' first
    | assumption | apply foldl_keeps | (extract_lets; fail_if_success done) | apply keeps_ite <;> intro _ | split
    | apply modDoor_keeps | apply ringEnable_keeps | refine mkKeeps rfl rfl rfl rfl rfl rfl rfl ?_
    | intro _

theorem execCmdTail_keeps {d : DoorId} {v : Word} (h : Keeps q0 fz s) :
    OutKeeps q0 fz (execCmdTail d v s) := by
  unfold execCmdTail
  with_reducible repeat' first
    | assumption | apply foldl_keeps | (extract_lets; fail_if_success done) | apply keeps_ite <;> intro _ | split
    | apply live_keeps | apply cmdTailWrite_keeps | apply next_keeps | refine mkKeeps rfl rfl rfl rfl rfl rfl rfl ?_
    | intro _

theorem execRplHead_keeps {d : DoorId} {v : Word} (h : Keeps q0 fz s) :
    OutKeeps q0 fz (execRplHead d v s) := by
  unfold execRplHead
  with_reducible repeat' first
    | assumption | apply foldl_keeps | (extract_lets; fail_if_success done) | apply keeps_ite <;> intro _ | split
    | apply live_keeps | apply rplHeadWrite_keeps | apply next_keeps | refine mkKeeps rfl rfl rfl rfl rfl rfl rfl ?_
    | intro _

theorem execRingEnable_keeps {d : DoorId} (h : Keeps q0 fz s) : OutKeeps q0 fz (execRingEnable d s) :=
  next_keeps (live_keeps (fun _ hx => ringEnable_keeps hx) h)

theorem execRingDisable_keeps {d : DoorId} (h : Keeps q0 fz s) : OutKeeps q0 fz (execRingDisable d s) :=
  next_keeps (live_keeps (fun _ hx => ringDisable_keeps hx) h)

theorem execIdleHint_keeps {d : DoorId} {v : Word} (h : Keeps q0 fz s) :
    OutKeeps q0 fz (execIdleHint d v s) := by
  unfold execIdleHint
  with_reducible repeat' first
    | assumption | apply foldl_keeps | (extract_lets; fail_if_success done) | apply keeps_ite <;> intro _ | split
    | apply live_keeps | apply idleHintWrite_keeps | apply next_keeps | refine mkKeeps rfl rfl rfl rfl rfl rfl rfl ?_
    | intro _

theorem moderationExpiry_keeps {d : Nat} (h : Keeps q0 fz s) :
    Keeps q0 fz (moderationExpiry d s) := by
  unfold moderationExpiry
  with_reducible repeat' first
    | assumption | apply foldl_keeps | (extract_lets; fail_if_success done) | apply keeps_ite <;> intro _ | split
    | apply setDoor_keeps | apply modDoor_keeps | apply sendMsix_keeps | apply irq2Settle_keeps
    | refine mkKeeps rfl rfl rfl rfl rfl rfl rfl ?_
    | intro _

theorem execModerationExpiry_keeps {d : DoorId} (h : Keeps q0 fz s) : OutKeeps q0 fz (execModerationExpiry d s) :=
  next_keeps (live_keeps (fun _ hx => moderationExpiry_keeps hx) h)

theorem doorResetCore_keeps {d : Nat} (h : Keeps q0 fz s) :
    Keeps q0 fz (doorResetCore d s) := by
  unfold doorResetCore
  with_reducible repeat' first
    | assumption | apply foldl_keeps | (extract_lets; fail_if_success done) | apply keeps_ite <;> intro _ | split
    | apply modDoor_keeps | apply irq2Settle_keeps | apply evcClearTarget_keeps | apply poolReturn_keeps
    | apply ringEnable_keeps | refine mkKeeps rfl rfl rfl rfl rfl rfl rfl ?_
    | intro _

theorem startDoorReset_keeps {d : Nat} (h : Keeps q0 fz s) :
    Keeps q0 fz (startDoorReset d s) := by
  unfold startDoorReset
  with_reducible repeat' first
    | assumption | apply foldl_keeps | (extract_lets; fail_if_success done) | apply keeps_ite <;> intro _ | split
    | apply modDoor_keeps | apply raise_keeps | apply doorResetCore_keeps
    | refine mkKeeps rfl rfl rfl rfl rfl rfl rfl ?_
    | intro _

theorem doorResetWrite_keeps {d : Nat} {v : Word} (h : Keeps q0 fz s) :
    Keeps q0 fz (doorResetWrite d v s) := by
  unfold doorResetWrite
  with_reducible repeat' first
    | assumption | apply foldl_keeps | (extract_lets; fail_if_success done) | apply keeps_ite <;> intro _ | split
    | apply startDoorReset_keeps | refine mkKeeps rfl rfl rfl rfl rfl rfl rfl ?_
    | intro _

theorem execDoorReset_keeps {d : DoorId} {key : Word} (h : Keeps q0 fz s) :
    OutKeeps q0 fz (execDoorReset d key s) := by
  unfold execDoorReset
  with_reducible repeat' first
    | assumption | apply foldl_keeps | (extract_lets; fail_if_success done) | apply keeps_ite <;> intro _ | split
    | apply live_keeps | apply doorResetWrite_keeps | apply next_keeps | refine mkKeeps rfl rfl rfl rfl rfl rfl rfl ?_
    | intro _

theorem execDoorResetDone_keeps {d : DoorId} (h : Keeps q0 fz s) :
    OutKeeps q0 fz (execDoorResetDone d s) := by
  unfold execDoorResetDone
  with_reducible repeat' first
    | assumption | apply foldl_keeps | (extract_lets; fail_if_success done) | apply keeps_ite <;> intro _ | split
    | apply live_keeps | apply modDoor_keeps | apply setNotice_keeps | apply next_keeps
    | refine mkKeeps rfl rfl rfl rfl rfl rfl rfl ?_
    | intro _

theorem execPcieLinkUp_keeps {d : DoorId} (h : Keeps q0 fz s) :
    OutKeeps q0 fz (execPcieLinkUp d s) := by
  unfold execPcieLinkUp
  with_reducible repeat' first
    | assumption | apply foldl_keeps | (extract_lets; fail_if_success done) | apply keeps_ite <;> intro _ | split
    | apply live_keeps | apply modDoor_keeps | apply raise_keeps | apply next_keeps
    | refine mkKeeps rfl rfl rfl rfl rfl rfl rfl ?_
    | intro _

theorem linkFalls_keeps {d : Nat} (h : Keeps q0 fz s) :
    Keeps q0 fz (linkFalls d s) := by
  unfold linkFalls
  with_reducible repeat' first
    | assumption | apply foldl_keeps | (extract_lets; fail_if_success done) | apply keeps_ite <;> intro _ | split
    | apply modDoor_keeps | apply raise_keeps | refine mkKeeps rfl rfl rfl rfl rfl rfl rfl ?_
    | intro _

theorem execPcieLinkDown_keeps {d : DoorId} {why : LinkDownCause} (h : Keeps q0 fz s) :
    OutKeeps q0 fz (execPcieLinkDown d why s) := by
  unfold execPcieLinkDown
  with_reducible repeat' first
    | assumption | apply foldl_keeps | (extract_lets; fail_if_success done) | apply keeps_ite <;> intro _ | split
    | apply live_keeps | apply emit_keeps | apply startDoorReset_keeps | apply linkFalls_keeps | apply next_keeps
    | refine mkKeeps rfl rfl rfl rfl rfl rfl rfl ?_
    | intro _

theorem execPciePerst_keeps {d : DoorId} (h : Keeps q0 fz s) :
    OutKeeps q0 fz (execPciePerst d s) := by
  unfold execPciePerst
  with_reducible repeat' first
    | assumption | apply foldl_keeps | (extract_lets; fail_if_success done) | apply keeps_ite <;> intro _ | split
    | apply live_keeps | apply modDoor_keeps | apply startDoorReset_keeps | apply linkFalls_keeps | apply next_keeps
    | refine mkKeeps rfl rfl rfl rfl rfl rfl rfl ?_
    | intro _

theorem spiWriteCmd_keeps {code : Nat} {data : Bytes} (h : Keeps q0 fz s) :
    Keeps q0 fz (spiWriteCmd code data s) := by
  unfold spiWriteCmd
  with_reducible repeat' first
    | assumption | apply foldl_keeps | (extract_lets; fail_if_success done) | apply keeps_ite <;> intro _ | split
    | apply modDoor_keeps | apply raise_keeps | apply spiDone_keeps | refine mkKeeps rfl rfl rfl rfl rfl rfl rfl ?_
    | intro _

theorem execWriteCmd_keeps {data : Bytes} (h : Keeps q0 fz s) : OutKeeps q0 fz (execWriteCmd data s) :=
  next_keeps (live_keeps (fun _ hx => spiWriteCmd_keeps hx) h)

theorem execWriteCmdQ_keeps {data : Bytes} (h : Keeps q0 fz s) : OutKeeps q0 fz (execWriteCmdQ data s) :=
  next_keeps (live_keeps (fun _ hx => spiWriteCmd_keeps hx) h)

theorem execReadStatus_keeps {bytes : Nat} (h : Keeps q0 fz s) :
    OutKeeps q0 fz (execReadStatus bytes s) := by
  unfold execReadStatus
  with_reducible repeat' first
    | assumption | apply foldl_keeps | (extract_lets; fail_if_success done) | apply keeps_ite <;> intro _ | split
    | apply live_keeps | apply emit_keeps | apply modDoor_keeps | apply complete_keeps | apply spiDone_keeps
    | apply next_keeps | refine mkKeeps rfl rfl rfl rfl rfl rfl rfl ?_
    | intro _

theorem spiConsume_keeps (h : Keeps q0 fz s) :
    Keeps q0 fz (spiConsume s) := by
  unfold spiConsume
  with_reducible repeat' first
    | assumption | apply foldl_keeps | (extract_lets; fail_if_success done) | apply keeps_ite <;> intro _ | split
    | apply setDoor_keeps | apply irq2Settle_keeps | apply delivered_keeps
    | refine mkKeeps rfl rfl rfl rfl rfl rfl rfl ?_
    | intro _

theorem spiReadReply_keeps {code bytes : Nat} (h : Keeps q0 fz s) :
    Keeps q0 fz (spiReadReply code bytes s) := by
  unfold spiReadReply
  with_reducible repeat' first
    | assumption | apply foldl_keeps | (extract_lets; fail_if_success done) | apply keeps_ite <;> intro _ | split
    | apply emit_keeps | apply modDoor_keeps | apply spiDone_keeps | apply spiConsume_keeps
    | refine mkKeeps rfl rfl rfl rfl rfl rfl rfl ?_
    | intro _

theorem execReadReply_keeps {bytes : Nat} (h : Keeps q0 fz s) : OutKeeps q0 fz (execReadReply bytes s) :=
  next_keeps (live_keeps (fun _ hx => spiReadReply_keeps hx) h)

theorem execReadReplyQ_keeps {bytes : Nat} (h : Keeps q0 fz s) : OutKeeps q0 fz (execReadReplyQ bytes s) :=
  next_keeps (live_keeps (fun _ hx => spiReadReply_keeps hx) h)

theorem spiReadData_keeps {code offset bytes : Nat} (h : Keeps q0 fz s) : Keeps q0 fz (spiReadData code offset bytes s) :=
  spiDone_keeps (mkKeeps rfl rfl rfl rfl rfl rfl rfl h)

theorem execReadData_keeps {offset bytes : Nat} (h : Keeps q0 fz s) : OutKeeps q0 fz (execReadData offset bytes s) :=
  next_keeps (live_keeps (fun _ hx => spiReadData_keeps hx) h)

theorem execReadDataQ_keeps {offset bytes : Nat} (h : Keeps q0 fz s) : OutKeeps q0 fz (execReadDataQ offset bytes s) :=
  next_keeps (live_keeps (fun _ hx => spiReadData_keeps hx) h)

theorem execReadNotice_keeps {bytes : Nat} (h : Keeps q0 fz s) :
    OutKeeps q0 fz (execReadNotice bytes s) := by
  unfold execReadNotice
  with_reducible repeat' first
    | assumption | apply foldl_keeps | (extract_lets; fail_if_success done) | apply keeps_ite <;> intro _ | split
    | apply live_keeps | apply emit_keeps | apply modDoor_keeps | apply irq2Settle_keeps | apply spiDone_keeps
    | apply next_keeps | refine mkKeeps rfl rfl rfl rfl rfl rfl rfl ?_
    | intro _

theorem execWriteNoticeMask_keeps {data : Bytes} (h : Keeps q0 fz s) :
    OutKeeps q0 fz (execWriteNoticeMask data s) := by
  unfold execWriteNoticeMask
  with_reducible repeat' first
    | assumption | apply foldl_keeps | (extract_lets; fail_if_success done) | apply keeps_ite <;> intro _ | split
    | apply live_keeps | apply modDoor_keeps | apply irq2Settle_keeps | apply spiDone_keeps | apply next_keeps
    | refine mkKeeps rfl rfl rfl rfl rfl rfl rfl ?_
    | intro _

theorem execSpiIdleHint_keeps (h : Keeps q0 fz s) : OutKeeps q0 fz (execSpiIdleHint s) :=
  next_keeps (live_keeps (fun _ hx => idleHint_keeps (spiDone_keeps hx)) h)

theorem execResetEnable_keeps (h : Keeps q0 fz s) : OutKeeps q0 fz (execResetEnable s) :=
  next_keeps (live_keeps (fun _ hx => spiDone_keeps hx) h)

theorem execSpiDoorReset_keeps (h : Keeps q0 fz s) :
    OutKeeps q0 fz (execSpiDoorReset s) := by
  unfold execSpiDoorReset
  with_reducible repeat' first
    | assumption | apply foldl_keeps | (extract_lets; fail_if_success done) | apply keeps_ite <;> intro _ | split
    | apply live_keeps | apply spiDone_keeps | apply startDoorReset_keeps | apply next_keeps
    | refine mkKeeps rfl rfl rfl rfl rfl rfl rfl ?_
    | intro _

theorem doorReadEffect_keeps {d o : Nat} (h : Keeps q0 fz s) :
    Keeps q0 fz (doorReadEffect d o s) := by
  unfold doorReadEffect
  with_reducible repeat' first
    | assumption | apply foldl_keeps | (extract_lets; fail_if_success done) | apply keeps_ite <;> intro _ | split
    | apply claim_keeps | refine mkKeeps rfl rfl rfl rfl rfl rfl rfl ?_
    | intro _

theorem msixWrite_keeps {d o : Nat} {v : Word} (h : Keeps q0 fz s) :
    Keeps q0 fz (msixWrite d o v s) := by
  unfold msixWrite
  with_reducible repeat' first
    | assumption | apply foldl_keeps | (extract_lets; fail_if_success done) | apply keeps_ite <;> intro _ | split
    | apply modDoor_keeps | apply doorInterrupt_keeps | refine mkKeeps rfl rfl rfl rfl rfl rfl rfl ?_
    | intro _

theorem noticeMaskWrite_keeps {d m : Nat} (h : Keeps q0 fz s) :
    Keeps q0 fz (noticeMaskWrite d m s) := by
  unfold noticeMaskWrite
  with_reducible repeat' first
    | assumption | apply foldl_keeps | (extract_lets; fail_if_success done) | apply keeps_ite <;> intro _ | split
    | apply setDoor_keeps | apply doorInterrupt_keeps | refine mkKeeps rfl rfl rfl rfl rfl rfl rfl ?_
    | intro _

theorem doorWrite_keeps {d o : Nat} {v : Word} (h : Keeps q0 fz s) :
    Keeps q0 fz (doorWrite d o v s) := by
  unfold doorWrite
  with_reducible repeat' first
    | assumption | apply foldl_keeps | (extract_lets; fail_if_success done) | apply keeps_ite <;> intro _ | split
    | apply ringEnable_keeps | apply modDoor_keeps | apply ringDisable_keeps | apply cmdTailWrite_keeps
    | apply rplHeadWrite_keeps | apply idleHintWrite_keeps | apply doorResetWrite_keeps | apply noticeMaskWrite_keeps
    | apply complete_keeps | apply msixWrite_keeps | refine mkKeeps rfl rfl rfl rfl rfl rfl rfl ?_
    | intro _

end Sys2Proof.Machine
end

