-- ==== Sys2Proof/Laws/KeepsPaperMachine.lean ====
section
/-! SUPPORT. What no command may spoil is kept by the functions of Machine/PaperMachine.lean. -/

namespace Sys2Proof.Machine

set_option Elab.async false

variable {q0 : List Instr} {fz : FuseBits} {s : State}

theorem admitReceived_keeps {x : RxFrame} (h : Keeps q0 fz s) :
    Keeps q0 fz (admitReceived s x) := by
  unfold admitReceived
  with_reducible repeat' first
    | assumption | apply foldl_keeps | (extract_lets; fail_if_success done) | apply keeps_ite <;> intro _ | split
    | apply cntAdd_keeps | apply dropPort_keeps | apply freeNext_keeps | refine mkKeeps rfl rfl rfl rfl rfl rfl rfl ?_
    | intro _

theorem received_keeps {f : RxFrame} {y : State} {x : RxFrame} (e : received s x = some (f, y)) (h : Keeps q0 fz s) :
    Keeps q0 fz y := by
  unfold received at e
  dsimp only at e
  split at e
  · split at e
    · cases e
    · cases e; exact setPort_keeps h
  · cases e; exact h

theorem admitFrame_keeps {x : RxFrame} (h : Keeps q0 fz s) : Keeps q0 fz (admitFrame s x) := by
  unfold admitFrame
  split
  · exact h
  · rename_i f y e
    exact admitReceived_keeps (received_keeps e h)

theorem execFrameAdmit_keeps {fs : List RxFrame} (h : Keeps q0 fz s) :
    OutKeeps q0 fz (execFrameAdmit fs s) := by
  unfold execFrameAdmit
  with_reducible repeat' first
    | assumption | apply foldl_keeps | (extract_lets; fail_if_success done) | apply keeps_ite <;> intro _ | split
    | apply live_keeps | apply admitFrame_keeps | apply next_keeps | refine mkKeeps rfl rfl rfl rfl rfl rfl rfl ?_
    | intro _

theorem frameEnd_keeps {q : Nat} (h : Keeps q0 fz s) :
    Keeps q0 fz (frameEnd q s) := by
  unfold frameEnd
  with_reducible repeat' first
    | assumption | apply foldl_keeps | (extract_lets; fail_if_success done) | apply keeps_ite <;> intro _ | split
    | apply cntAdd_keeps | apply modFrm_keeps | apply discardFrm_keeps | refine mkKeeps rfl rfl rfl rfl rfl rfl rfl ?_
    | intro _

theorem execMacFrameEnd_keeps {q : PortId} (h : Keeps q0 fz s) : OutKeeps q0 fz (execMacFrameEnd q s) :=
  next_keeps (live_keeps (fun _ hx => frameEnd_keeps hx) h)

theorem wireCheck_keeps {dir : Nat} (h : Keeps q0 fz s) :
    Keeps q0 fz (wireCheck dir s) := by
  unfold wireCheck
  with_reducible repeat' first
    | assumption | apply foldl_keeps | (extract_lets; fail_if_success done) | apply keeps_ite <;> intro _ | split
    | apply dropChan_keeps | apply modFrm_keeps | apply discardFrm_keeps | apply discardPort_keeps
    | apply discardDown_keeps | refine mkKeeps rfl rfl rfl rfl rfl rfl rfl ?_
    | intro _

theorem execWireCheck_keeps {dir : Fin 2} (h : Keeps q0 fz s) : OutKeeps q0 fz (execWireCheck dir s) :=
  next_keeps (live_keeps (fun _ hx => wireCheck_keeps hx) h)

theorem rebind_keeps {c : Nat} (h : Keeps q0 fz s) :
    Keeps q0 fz (rebind c s) := by
  unfold rebind
  with_reducible repeat' first
    | assumption | apply foldl_keeps | (extract_lets; fail_if_success done) | apply keeps_ite <;> intro _ | split
    | apply modChan_keeps | refine mkKeeps rfl rfl rfl rfl rfl rfl rfl ?_
    | intro _

theorem numberFrame_keeps {f : Sheet} (h : Keeps q0 fz s) :
    Keeps q0 fz (numberFrame f s).1 := by
  unfold numberFrame
  split
  · exact keeps_mk_fst (modChan_keeps h)
  · exact mkKeeps rfl rfl rfl rfl rfl rfl rfl h

theorem passCouch_keeps {f : Sheet} (h : Keeps q0 fz s) : Keeps q0 fz (passCouch f s) := modFrm_keeps (numberFrame_keeps h)

theorem dealEncrypt_keeps {f : Sheet} {c : Nat} {x : Bind} (h : Keeps q0 fz s) :
    Keeps q0 fz (dealEncrypt f c x s) := by
  unfold dealEncrypt
  with_reducible repeat' first
    | assumption | apply foldl_keeps | (extract_lets; fail_if_success done) | apply keeps_ite <;> intro _ | split
    | apply discardChan_keeps | apply assignPn_keeps | apply rebind_keeps | apply passCouch_keeps
    | refine mkKeeps rfl rfl rfl rfl rfl rfl rfl ?_
    | intro _

theorem dealDecrypt_keeps {f : Sheet} {c : Nat} {x : Bind} (h : Keeps q0 fz s) :
    Keeps q0 fz (dealDecrypt f c x s) := by
  unfold dealDecrypt
  with_reducible repeat' first
    | assumption | apply foldl_keeps | (extract_lets; fail_if_success done) | apply keeps_ite <;> intro _ | split
    | apply discardChan_keeps | apply discardPort_keeps | apply rebind_keeps | apply passCouch_keeps
    | refine mkKeeps rfl rfl rfl rfl rfl rfl rfl ?_
    | intro _

theorem dealCells_keeps {f : Sheet} {c : Nat} {x : Bind} (h : Keeps q0 fz s) :
    Keeps q0 fz (dealCells f c x s) := by
  unfold dealCells
  with_reducible repeat' first
    | assumption | apply foldl_keeps | (extract_lets; fail_if_success done) | apply keeps_ite <;> intro _ | split
    | apply rebind_keeps | apply passCouch_keeps | apply discardChan_keeps
    | refine mkKeeps rfl rfl rfl rfl rfl rfl rfl ?_
    | intro _

theorem couchDeal_keeps {dir : Nat} (h : Keeps q0 fz s) :
    Keeps q0 fz (couchDeal dir s) := by
  unfold couchDeal
  with_reducible repeat' first
    | assumption | apply foldl_keeps | (extract_lets; fail_if_success done) | apply keeps_ite <;> intro _ | split
    | apply passCouch_keeps | apply discardChan_keeps | apply dealDecrypt_keeps | apply dealCells_keeps
    | apply dealEncrypt_keeps | refine mkKeeps rfl rfl rfl rfl rfl rfl rfl ?_
    | intro _

theorem execCouchDeal_keeps {dir : Fin 2} (h : Keeps q0 fz s) :
    OutKeeps q0 fz (execCouchDeal dir s) := by
  unfold execCouchDeal
  with_reducible repeat' first
    | assumption | apply foldl_keeps | (extract_lets; fail_if_success done) | apply keeps_ite <;> intro _ | split
    | apply next_keeps | apply next_keeps | apply live_keeps | apply couchDeal_keeps
    | refine mkKeeps rfl rfl rfl rfl rfl rfl rfl ?_
    | intro _

theorem feltCe_keeps {r : FeltRead} (h : Keeps q0 fz s) : Keeps q0 fz (feltCe r s) := mkKeeps rfl rfl rfl rfl rfl rfl rfl h

theorem feltUe_keeps {f : Sheet} (h : Keeps q0 fz s) :
    Keeps q0 fz (feltUe f s) := by
  unfold feltUe
  with_reducible repeat' first
    | assumption | apply foldl_keeps | (extract_lets; fail_if_success done) | apply keeps_ite <;> intro _ | split
    | apply raise_keeps | apply cntAdd_keeps | apply dropPort_keeps | apply discardFrm_keeps
    | refine mkKeeps rfl rfl rfl rfl rfl rfl rfl ?_
    | intro _

theorem pressDone_keeps {i : Nat} {r : FeltRead} (h : Keeps q0 fz s) :
    Keeps q0 fz (pressDone i r s) := by
  unfold pressDone
  with_reducible repeat' first
    | assumption | apply foldl_keeps | (extract_lets; fail_if_success done) | apply keeps_ite <;> intro _ | split
    | apply modFrm_keeps | apply feltCe_keeps | apply feltUe_keeps | refine mkKeeps rfl rfl rfl rfl rfl rfl rfl ?_
    | intro _

theorem execPressDone_keeps {lane : LaneId} {felt : FeltRead} (h : Keeps q0 fz s) :
    OutKeeps q0 fz (execPressDone lane felt s) := next_keeps (live_keeps (fun _ hx => pressDone_keeps hx) h)

theorem enqueue_keeps {f : Sheet} (h : Keeps q0 fz s) :
    Keeps q0 fz (enqueue f s) := by
  unfold enqueue
  with_reducible repeat' first
    | assumption | apply foldl_keeps | (extract_lets; fail_if_success done) | apply keeps_ite <;> intro _ | split
    | apply setFrames_keeps | apply removeFrm_keeps | apply discardChan_keeps | apply discardPort_keeps
    | refine mkKeeps rfl rfl rfl rfl rfl rfl rfl ?_
    | intro _

theorem dryerRelease_keeps {q : DryerQueue} (h : Keeps q0 fz s) :
    Keeps q0 fz (dryerRelease q s) := by
  unfold dryerRelease
  with_reducible repeat' first
    | assumption | apply foldl_keeps | (extract_lets; fail_if_success done) | apply keeps_ite <;> intro _ | split
    | apply discardChan_keeps | apply acceptPn_keeps | apply enqueue_keeps
    | refine mkKeeps rfl rfl rfl rfl rfl rfl rfl ?_
    | intro _

theorem execDryerRelease_keeps {q : DryerQueue} (h : Keeps q0 fz s) : OutKeeps q0 fz (execDryerRelease q s) :=
  next_keeps (live_keeps (fun _ hx => dryerRelease_keeps hx) h)

theorem egressSelect_keeps {e : Nat} (h : Keeps q0 fz s) :
    Keeps q0 fz (egressSelect e s) := by
  unfold egressSelect
  with_reducible repeat' first
    | assumption | apply foldl_keeps | (extract_lets; fail_if_success done) | apply keeps_ite <;> intro _ | split
    | apply modFrm_keeps | apply setEgress_keeps | refine mkKeeps rfl rfl rfl rfl rfl rfl rfl ?_
    | intro _

theorem execEgressSelect_keeps {q : PortId} (h : Keeps q0 fz s) : OutKeeps q0 fz (execEgressSelect q s) :=
  next_keeps (live_keeps (fun _ hx => egressSelect_keeps hx) h)

theorem reelStart_keeps {e : Nat} {r : FeltRead} (h : Keeps q0 fz s) :
    Keeps q0 fz (reelStart e r s) := by
  unfold reelStart
  with_reducible repeat' first
    | assumption | apply foldl_keeps | (extract_lets; fail_if_success done) | apply keeps_ite <;> intro _ | split
    | apply discardDown_keeps | apply feltUe_keeps | apply feltCe_keeps | apply sendOut_keeps | apply lineChange_keeps
    | apply modFrm_keeps | refine mkKeeps rfl rfl rfl rfl rfl rfl rfl ?_
    | intro _

theorem execReelStart_keeps {q : PortId} {felt : FeltRead} (h : Keeps q0 fz s) :
    OutKeeps q0 fz (execReelStart q felt s) := by
  unfold execReelStart
  with_reducible repeat' first
    | assumption | apply foldl_keeps | (extract_lets; fail_if_success done) | apply keeps_ite <;> intro _ | split
    | apply next_keeps | apply next_keeps | apply live_keeps | apply reelStart_keeps
    | refine mkKeeps rfl rfl rfl rfl rfl rfl rfl ?_
    | intro _

theorem countSent_keeps {f : Sheet} {n : Nat} (h : Keeps q0 fz s) :
    Keeps q0 fz (countSent f n s) := by
  unfold countSent
  with_reducible repeat' first
    | assumption | apply foldl_keeps | (extract_lets; fail_if_success done) | apply keeps_ite <;> intro _ | split
    | apply cntAdd_keeps | refine mkKeeps rfl rfl rfl rfl rfl rfl rfl ?_
    | intro _

theorem frameTxEnd_keeps {e : Nat} (h : Keeps q0 fz s) :
    Keeps q0 fz (frameTxEnd e s) := by
  unfold frameTxEnd
  with_reducible repeat' first
    | assumption | apply foldl_keeps | (extract_lets; fail_if_success done) | apply keeps_ite <;> intro _ | split
    | apply cntAdd_keeps | apply lineChange_keeps | apply removeFrm_keeps | apply countSent_keeps
    | apply portClose_keeps | refine mkKeeps rfl rfl rfl rfl rfl rfl rfl ?_
    | intro _

theorem execFrameTxEnd_keeps {q : PortId} (h : Keeps q0 fz s) :
    OutKeeps q0 fz (execFrameTxEnd q s) := by
  unfold execFrameTxEnd
  with_reducible repeat' first
    | assumption | apply foldl_keeps | (extract_lets; fail_if_success done) | apply keeps_ite <;> intro _ | split
    | apply next_keeps | apply next_keeps | apply live_keeps | apply frameTxEnd_keeps
    | refine mkKeeps rfl rfl rfl rfl rfl rfl rfl ?_
    | intro _

theorem onPclk_keeps {f : State → State} (hf : ∀ x0, Keeps q0 fz x0 → Keeps q0 fz (f x0)) (h : Keeps q0 fz s) :
    Keeps q0 fz (onPclk f s) := by
  unfold onPclk
  with_reducible repeat' first
    | assumption | apply foldl_keeps | (extract_lets; fail_if_success done) | apply keeps_ite <;> intro _ | split
    | apply hf | refine mkKeeps rfl rfl rfl rfl rfl rfl rfl ?_
    | intro _

theorem feltScrub_keeps {r : FeltRead} (h : Keeps q0 fz s) :
    Keeps q0 fz (feltScrub r s) := by
  unfold feltScrub
  with_reducible repeat' first
    | assumption | apply foldl_keeps | (extract_lets; fail_if_success done) | apply keeps_ite <;> intro _ | split
    | apply cntAdd_keeps | apply feltCe_keeps | refine mkKeeps rfl rfl rfl rfl rfl rfl rfl ?_
    | intro _

theorem execFeltScrub_keeps {felt : FeltRead} (h : Keeps q0 fz s) :
    OutKeeps q0 fz (execFeltScrub felt s) := by
  unfold execFeltScrub
  with_reducible repeat' first
    | assumption | apply foldl_keeps | (extract_lets; fail_if_success done) | apply keeps_ite <;> intro _ | split
    | apply next_keeps | apply next_keeps | apply live_keeps | apply onPclk_keeps | apply feltScrub_keeps
    | refine mkKeeps rfl rfl rfl rfl rfl rfl rfl ?_
    | intro _

theorem laneReply_keeps {i : Nat} {detail : Nat} {c : Nat × Nat} (h : Keeps q0 fz s) :
    Keeps q0 fz (laneReply i detail c s) := finish_keeps h

theorem laneReplies_keeps {i detail : Nat} {cs : List (Nat × Nat)} (h : Keeps q0 fz s) :
    Keeps q0 fz (laneReplies i detail cs s) := by
  unfold laneReplies
  with_reducible repeat' first
    | assumption | apply foldl_keeps | (extract_lets; fail_if_success done) | apply keeps_ite <;> intro _ | split
    | apply laneReply_keeps | refine mkKeeps rfl rfl rfl rfl rfl rfl rfl ?_
    | intro _

theorem laneTest_keeps {i : Nat} {who : List (Nat × Nat)} (h : Keeps q0 fz s) :
    Keeps q0 fz (laneTest i who s) := by
  unfold laneTest
  with_reducible repeat' first
    | assumption | apply foldl_keeps | (extract_lets; fail_if_success done) | apply keeps_ite <;> intro _ | split
    | apply setLane_keeps | apply laneTo_keeps | refine mkKeeps rfl rfl rfl rfl rfl rfl rfl ?_
    | intro _

theorem laneOut_keeps {i : Nat} (h : Keeps q0 fz s) :
    Keeps q0 fz (laneOut i s) := by
  unfold laneOut
  with_reducible repeat' first
    | assumption | apply foldl_keeps | (extract_lets; fail_if_success done) | apply keeps_ite <;> intro _ | split
    | apply laneReplies_keeps | apply laneTo_keeps | apply setLane_keeps | apply laneTest_keeps
    | refine mkKeeps rfl rfl rfl rfl rfl rfl rfl ?_
    | intro _

theorem laneRemove_keeps {i : Nat} {c : Nat × Nat} (h : Keeps q0 fz s) :
    Keeps q0 fz (laneRemove i c s) := by
  unfold laneRemove
  with_reducible repeat' first
    | assumption | apply foldl_keeps | (extract_lets; fail_if_success done) | apply keeps_ite <;> intro _ | split
    | apply finish_keeps | apply laneTo_keeps | apply setLane_keeps | apply laneReply_keeps | apply laneReplies_keeps
    | apply keeps_mk_snd | apply keeps_mk_fst | refine mkKeeps rfl rfl rfl rfl rfl rfl rfl ?_
    | intro _

theorem laneRestore_keeps {i : Nat} {c : Nat × Nat} (h : Keeps q0 fz s) :
    Keeps q0 fz (laneRestore i c s) := by
  unfold laneRestore
  with_reducible repeat' first
    | assumption | apply foldl_keeps | (extract_lets; fail_if_success done) | apply keeps_ite <;> intro _ | split
    | apply laneTest_keeps | apply setLane_keeps | apply laneReply_keeps
    | refine mkKeeps rfl rfl rfl rfl rfl rfl rfl ?_
    | intro _

theorem laneService_keeps {want : Nat} {tag : Nat} {f : Nat → State → State} (hf : ∀ x0 x1, Keeps q0 fz x1 → Keeps q0 fz (f x0 x1)) (h : Keeps q0 fz s) :
    Keeps q0 fz (laneService want tag f s) := by
  unfold laneService
  with_reducible repeat' first
    | assumption | apply foldl_keeps | (extract_lets; fail_if_success done) | apply keeps_ite <;> intro _ | split
    | apply hf | apply finishR0_keeps | apply dispatchIf_keeps | refine mkKeeps rfl rfl rfl rfl rfl rfl rfl ?_
    | intro _

theorem execLaneServiceRemove_keeps {tag : Nat} (h : Keeps q0 fz s) :
    OutKeeps q0 fz (execLaneServiceRemove tag s) := by
  unfold execLaneServiceRemove
  with_reducible repeat' first
    | assumption | apply foldl_keeps | (extract_lets; fail_if_success done) | apply keeps_ite <;> intro _ | split
    | apply next_keeps | apply next_keeps | apply live_keeps | apply laneService_keeps | apply laneRemove_keeps
    | refine mkKeeps rfl rfl rfl rfl rfl rfl rfl ?_
    | intro _

theorem execLaneServiceRestore_keeps {tag : Nat} (h : Keeps q0 fz s) :
    OutKeeps q0 fz (execLaneServiceRestore tag s) := by
  unfold execLaneServiceRestore
  with_reducible repeat' first
    | assumption | apply foldl_keeps | (extract_lets; fail_if_success done) | apply keeps_ite <;> intro _ | split
    | apply next_keeps | apply next_keeps | apply live_keeps | apply laneService_keeps | apply laneRestore_keeps
    | refine mkKeeps rfl rfl rfl rfl rfl rfl rfl ?_
    | intro _

theorem execLaneDrained_keeps {lane : LaneId} (h : Keeps q0 fz s) :
    OutKeeps q0 fz (execLaneDrained lane s) := by
  unfold execLaneDrained
  with_reducible repeat' first
    | assumption | apply foldl_keeps | (extract_lets; fail_if_success done) | apply keeps_ite <;> intro _ | split
    | apply next_keeps | apply next_keeps | apply live_keeps | apply laneOut_keeps
    | refine mkKeeps rfl rfl rfl rfl rfl rfl rfl ?_
    | intro _

theorem laneKat_keeps {i : Nat} {pass : Bool} (h : Keeps q0 fz s) :
    Keeps q0 fz (laneKat i pass s) := by
  unfold laneKat
  with_reducible repeat' first
    | assumption | apply foldl_keeps | (extract_lets; fail_if_success done) | apply keeps_ite <;> intro _ | split
    | apply laneTo_keeps | apply laneReplies_keeps | apply setLane_keeps
    | refine mkKeeps rfl rfl rfl rfl rfl rfl rfl ?_
    | intro _

theorem execLaneKatDone_keeps {lane : LaneId} {pass : Bool} (h : Keeps q0 fz s) :
    OutKeeps q0 fz (execLaneKatDone lane pass s) := by
  unfold execLaneKatDone
  with_reducible repeat' first
    | assumption | apply foldl_keeps | (extract_lets; fail_if_success done) | apply keeps_ite <;> intro _ | split
    | apply next_keeps | apply next_keeps | apply live_keeps | apply onPclk_keeps | apply laneKat_keeps
    | refine mkKeeps rfl rfl rfl rfl rfl rfl rfl ?_
    | intro _

theorem lanesBoundary_keeps (h : Keeps q0 fz s) :
    Keeps q0 fz (lanesBoundary s) := by
  unfold lanesBoundary
  with_reducible repeat' first
    | assumption | apply foldl_keeps | (extract_lets; fail_if_success done) | apply keeps_ite <;> intro _ | split
    | apply foldl_keeps | apply laneReplies_keeps | apply laneTo_keeps | apply setLane_keeps
    | refine mkKeeps rfl rfl rfl rfl rfl rfl rfl ?_
    | intro _

end Sys2Proof.Machine
end

