-- ==== Sys2Proof/Laws/KeepsCalender.lean ====
section
/-! SUPPORT. What no command may spoil is kept by the functions of Machine/Calender.lean. -/

namespace Sys2Proof.Machine

set_option Elab.async false

variable {q0 : List Instr} {fz : FuseBits} {s : State}

theorem putRecord_keeps {d k kid : Nat} {f : Sheet} {room : Nat} (h : Keeps q0 fz s) :
    Keeps q0 fz (putRecord d k kid f room s).2 := by
  unfold putRecord
  with_reducible repeat' first
    | assumption | apply foldl_keeps | (extract_lets; fail_if_success done) | apply keeps_ite <;> intro _ | split
    | apply modFrm_keeps | apply removeFrm_keeps | apply countSent_keeps | apply keeps_mk_snd
    | refine mkKeeps rfl rfl rfl rfl rfl rfl rfl ?_
    | intro _

theorem nextCellFrame_keeps {d : Nat} {f : Sheet} {y : State}
    (e : nextCellFrame d s = some (f, y)) (h : Keeps q0 fz s) : Keeps q0 fz y := by
  unfold nextCellFrame at e
  dsimp only at e
  split at e
  · cases e
  · split at e
    · cases e
    · split at e
      · cases e
      · cases e; exact setEgress_keeps h

theorem fillBody_keeps {d k kid : Nat} {more : Bool} {fuel room : Nat} {felt : List FeltRead} (h : Keeps q0 fz s) :
    Keeps q0 fz (fillBody d k kid more fuel room felt s).2 := by
  induction fuel generalizing room felt s with
  | zero => exact h
  | succ n ih =>
    unfold fillBody
    split
    · exact h
    · split
      · exact ih (putRecord_keeps h)
      · split
        · exact h
        · rename_i f y e
          have hy : Keeps q0 fz y := by
            split at e
            · exact nextCellFrame_keeps e h
            · cases e
          split
          · exact ih (feltUe_keeps (feltCe_keeps h))
          · refine ih (putRecord_keeps ?_)
            split
            · exact feltCe_keeps hy
            · exact hy

theorem sendCell_keeps {d : Nat} {bytes : Bytes} (h : Keeps q0 fz s) :
    Keeps q0 fz (sendCell d bytes s) := by
  unfold sendCell
  with_reducible repeat' first
    | assumption | apply foldl_keeps | (extract_lets; fail_if_success done) | apply keeps_ite <;> intro _ | split
    | apply sendOut_keeps | apply cntAdd_keeps | refine mkKeeps rfl rfl rfl rfl rfl rfl rfl ?_
    | intro _

theorem sendProtected_keeps {d c : Nat} {which : Bool} {plain : Bytes} (h : Keeps q0 fz s) :
    Keeps q0 fz (sendProtected d c which plain s) := sendCell_keeps (assignPn_keeps h)

theorem sendOpen_keeps {d : Nat} {plain : Bytes} (h : Keeps q0 fz s) : Keeps q0 fz (sendOpen d plain s) := sendCell_keeps h

theorem popMessage_keeps {d : Nat} (h : Keeps q0 fz s) : Keeps q0 fz (popMessage d s) :=
  mkKeeps rfl rfl rfl rfl rfl rfl rfl h

theorem openSlot_keeps {d ty : Nat} (h : Keeps q0 fz s) :
    Keeps q0 fz (openSlot d ty s) := by
  unfold openSlot
  with_reducible repeat' first
    | assumption | apply foldl_keeps | (extract_lets; fail_if_success done) | apply keeps_ite <;> intro _ | split
    | apply discardChan_keeps | apply modCal_keeps | apply sendOpen_keeps | apply popMessage_keeps
    | refine mkKeeps rfl rfl rfl rfl rfl rfl rfl ?_
    | intro _

theorem keyedSlot_keeps {d k ty c : Nat} {which : Bool} {felt : List FeltRead} {s0 : State} (h : Keeps q0 fz s0) :
    Keeps q0 fz (keyedSlot d k ty c which felt s0) := by
  unfold keyedSlot
  with_reducible repeat' first
    | assumption | apply foldl_keeps | (extract_lets; fail_if_success done) | apply keeps_ite <;> intro _ | split
    | apply rebind_keeps | apply modCal_keeps | apply sendProtected_keeps | apply popMessage_keeps
    | apply fillBody_keeps | refine keeps_snd (by assumption) ?_ | refine keeps_fst (by assumption) ?_
    | refine mkKeeps rfl rfl rfl rfl rfl rfl rfl ?_
    | intro _

theorem calSlot_keeps {d : Nat} {felt : List FeltRead} (h : Keeps q0 fz s) :
    Keeps q0 fz (calSlot d felt s) := by
  unfold calSlot
  with_reducible repeat' first
    | assumption | apply foldl_keeps | (extract_lets; fail_if_success done) | apply keeps_ite <;> intro _ | split
    | apply modCal_keeps | apply discardChan_keeps | apply calChange_keeps | apply openSlot_keeps
    | apply keyedSlot_keeps | refine mkKeeps rfl rfl rfl rfl rfl rfl rfl ?_
    | intro _

theorem execCalenderSlot_keeps {x : CalSlot} (h : Keeps q0 fz s) :
    OutKeeps q0 fz (execCalenderSlot x s) := by
  unfold execCalenderSlot
  with_reducible repeat' first
    | assumption | apply foldl_keeps | (extract_lets; fail_if_success done) | apply keeps_ite <;> intro _ | split
    | apply next_keeps | apply next_keeps | apply live_keeps | apply calSlot_keeps
    | refine mkKeeps rfl rfl rfl rfl rfl rfl rfl ?_
    | intro _

theorem dropPending_keeps {d : Nat} (h : Keeps q0 fz s) :
    Keeps q0 fz (dropPending d s) := by
  unfold dropPending
  with_reducible repeat' first
    | assumption | apply foldl_keeps | (extract_lets; fail_if_success done) | apply keeps_ite <;> intro _ | split
    | apply dropPort_keeps | apply dropChan_keeps | apply modCal_keeps | refine mkKeeps rfl rfl rfl rfl rfl rfl rfl ?_
    | intro _

theorem sendLate_keeps {d a0 : Nat} (h : Keeps q0 fz s) :
    Keeps q0 fz (sendLate d a0 s) := by
  induction a0 generalizing d s with
  | zero =>
    simp only [sendLate]; assumption
  | succ n ih =>
    unfold sendLate
    with_reducible repeat' first
      | assumption | apply foldl_keeps | (extract_lets; fail_if_success done) | apply keeps_ite <;> intro _ | split
      | apply ih | apply enqueue_keeps | refine mkKeeps rfl rfl rfl rfl rfl rfl rfl ?_
      | intro _

theorem completeFrame_keeps {d bank : Nat} {r : Reasm} (h : Keeps q0 fz s) :
    Keeps q0 fz (completeFrame d bank r s) := by
  unfold completeFrame
  with_reducible repeat' first
    | assumption | apply foldl_keeps | (extract_lets; fail_if_success done) | apply keeps_ite <;> intro _ | split
    | apply dropPort_keeps | apply dropChan_keeps | apply sendLate_keeps
    | refine mkKeeps rfl rfl rfl rfl rfl rfl rfl ?_
    | intro _

theorem takeRecords_keeps {d bank kid time : Nat} {rs : List Rec}
    (h : Keeps q0 fz s) : Keeps q0 fz (takeRecords d bank kid time rs s) := by
  refine foldl_keeps (fun x r hx => ?_) h
  dsimp only
  split
  · exact hx
  · split
    · exact completeFrame_keeps (modCal_keeps hx)
    · exact modCal_keeps hx

theorem messageArrives_keeps {d : Nat} {m : Bytes} {isOpen : Bool} (h : Keeps q0 fz s) :
    Keeps q0 fz (messageArrives d m isOpen s) := by
  unfold messageArrives
  with_reducible repeat' first
    | assumption | apply foldl_keeps | (extract_lets; fail_if_success done) | apply keeps_ite <;> intro _ | split
    | apply raise_keeps | apply modCal_keeps | apply unsolicited_keeps | refine mkKeeps rfl rfl rfl rfl rfl rfl rfl ?_
    | intro _

theorem syncBad_keeps {d : Nat} (h : Keeps q0 fz s) : Keeps q0 fz (syncBad d s) := mkKeeps rfl rfl rfl rfl rfl rfl rfl h

theorem syncGood_keeps {d : Nat} (h : Keeps q0 fz s) : Keeps q0 fz (syncGood d s) := mkKeeps rfl rfl rfl rfl rfl rfl rfl h

theorem cellBad_keeps {d : Nat} {isOpen step3 : Bool} (h : Keeps q0 fz s) :
    Keeps q0 fz (cellBad d isOpen step3 s) := by
  unfold cellBad
  with_reducible repeat' first
    | assumption | apply foldl_keeps | (extract_lets; fail_if_success done) | apply keeps_ite <;> intro _ | split
    | apply cntAdd_keeps | apply modCal_keeps | apply dropPending_keeps | apply syncBad_keeps
    | refine mkKeeps rfl rfl rfl rfl rfl rfl rfl ?_
    | intro _

theorem cellContent_keeps {d bank kid time : Nat} {inSeq : Bool} {p : Bytes} {pend : Option Nat} (h : Keeps q0 fz s) :
    Keeps q0 fz (cellContent d bank kid time inSeq p pend s) := by
  unfold cellContent
  with_reducible repeat' first
    | assumption | apply foldl_keeps | (extract_lets; fail_if_success done) | apply keeps_ite <;> intro _ | split
    | apply modCal_keeps | apply dropPending_keeps | apply takeRecords_keeps | apply messageArrives_keeps
    | refine mkKeeps rfl rfl rfl rfl rfl rfl rfl ?_
    | intro _

theorem protectedCell_keeps {d : Nat} {f : Sheet} (h : Keeps q0 fz s) :
    Keeps q0 fz (protectedCell d f s) := by
  unfold protectedCell
  with_reducible repeat' first
    | assumption | apply foldl_keeps | (extract_lets; fail_if_success done) | apply keeps_ite <;> intro _ | split
    | apply cntAdd_keeps | apply modCal_keeps | apply acceptPn_keeps | apply syncGood_keeps | apply cellBad_keeps
    | apply cellContent_keeps | refine mkKeeps rfl rfl rfl rfl rfl rfl rfl ?_
    | intro _

theorem openCell_keeps {d : Nat} {f : Sheet} (h : Keeps q0 fz s) :
    Keeps q0 fz (openCell d f s) := by
  unfold openCell
  with_reducible repeat' first
    | assumption | apply foldl_keeps | (extract_lets; fail_if_success done) | apply keeps_ite <;> intro _ | split
    | apply cntAdd_keeps | apply modCal_keeps | apply messageArrives_keeps
    | refine mkKeeps rfl rfl rfl rfl rfl rfl rfl ?_
    | intro _

theorem cellReceive_keeps {d : Nat} (h : Keeps q0 fz s) :
    Keeps q0 fz (cellReceive d s) := by
  unfold cellReceive
  with_reducible repeat' first
    | assumption | apply foldl_keeps | (extract_lets; fail_if_success done) | apply keeps_ite <;> intro _ | split
    | apply rebind_keeps | apply calChange_keeps | apply cellBad_keeps | apply openCell_keeps
    | apply protectedCell_keeps | apply removeFrm_keeps | refine mkKeeps rfl rfl rfl rfl rfl rfl rfl ?_
    | intro _

theorem execCellReceive_keeps {d : Fin 8} (h : Keeps q0 fz s) :
    OutKeeps q0 fz (execCellReceive d s) := by
  unfold execCellReceive
  with_reducible repeat' first
    | assumption | apply foldl_keeps | (extract_lets; fail_if_success done) | apply keeps_ite <;> intro _ | split
    | apply next_keeps | apply next_keeps | apply live_keeps | apply cellReceive_keeps
    | refine mkKeeps rfl rfl rfl rfl rfl rfl rfl ?_
    | intro _

theorem execSyncTimeout_keeps {d : Fin 8} (h : Keeps q0 fz s) :
    OutKeeps q0 fz (execSyncTimeout d s) := by
  unfold execSyncTimeout
  with_reducible repeat' first
    | assumption | apply foldl_keeps | (extract_lets; fail_if_success done) | apply keeps_ite <;> intro _ | split
    | apply live_keeps | apply calChange_keeps | apply loseSync_keeps | apply next_keeps
    | refine mkKeeps rfl rfl rfl rfl rfl rfl rfl ?_
    | intro _

theorem holdExpire_keeps {d : Nat} (h : Keeps q0 fz s) :
    Keeps q0 fz (holdExpire d s) := by
  unfold holdExpire
  with_reducible repeat' first
    | assumption | apply foldl_keeps | (extract_lets; fail_if_success done) | apply keeps_ite <;> intro _ | split
    | apply discardChan_keeps | apply modCal_keeps | apply calChange_keeps
    | refine mkKeeps rfl rfl rfl rfl rfl rfl rfl ?_
    | intro _

theorem execHoldExpire_keeps {d : Fin 8} (h : Keeps q0 fz s) : OutKeeps q0 fz (execHoldExpire d s) :=
  next_keeps (live_keeps (fun _ hx => holdExpire_keeps hx) h)

theorem pendLate_keeps {d : Nat} (h : Keeps q0 fz s) :
    Keeps q0 fz (pendLate d s) := by
  unfold pendLate
  with_reducible repeat' first
    | assumption | apply foldl_keeps | (extract_lets; fail_if_success done) | apply keeps_ite <;> intro _ | split
    | apply modCal_keeps | refine mkKeeps rfl rfl rfl rfl rfl rfl rfl ?_
    | intro _

theorem calRelease_keeps {d : Nat} (h : Keeps q0 fz s) :
    Keeps q0 fz (calRelease d s) := by
  unfold calRelease
  with_reducible repeat' first
    | assumption | apply foldl_keeps | (extract_lets; fail_if_success done) | apply keeps_ite <;> intro _ | split
    | apply pendLate_keeps | apply sendLate_keeps | apply enqueue_keeps
    | refine mkKeeps rfl rfl rfl rfl rfl rfl rfl ?_
    | intro _

theorem execCalRelease_keeps {d : Fin 8} (h : Keeps q0 fz s) : OutKeeps q0 fz (execCalRelease d s) :=
  next_keeps (live_keeps (fun _ hx => calRelease_keeps hx) h)

end Sys2Proof.Machine
end

