-- ==== Sys2Proof/Laws/KeepsPorts.lean ====
section
/-! SUPPORT. What no command may spoil is kept by the functions of Machine/Ports.lean. -/

namespace Sys2Proof.Machine

set_option Elab.async false

variable {q0 : List Instr} {fz : FuseBits} {s : State}

theorem portCdr_keeps {q : Nat} {cdr : Nat} (h : Keeps q0 fz s) : Keeps q0 fz (portCdr q cdr s) :=
  mkKeeps rfl rfl rfl rfl rfl rfl rfl h

theorem portLocked_keeps {q : Nat} (h : Keeps q0 fz s) : Keeps q0 fz (portLocked q s) :=
  mkKeeps rfl rfl rfl rfl rfl rfl rfl h

theorem execPortLanesSet_keeps {q : PortId} {signal : Bool} {cdr : Byte} (h : Keeps q0 fz s) :
    OutKeeps q0 fz (execPortLanesSet q signal cdr s) := by
  unfold execPortLanesSet
  with_reducible repeat' first
    | assumption | apply foldl_keeps | (extract_lets; fail_if_success done) | apply keeps_ite <;> intro _ | split
    | apply live_keeps | apply portTo_keeps | apply portCdr_keeps | apply next_keeps
    | refine mkKeeps rfl rfl rfl rfl rfl rfl rfl ?_
    | intro _

theorem execSignalChange_keeps {q : PortId} {signal : Bool} {cdr : Byte} (h : Keeps q0 fz s) :
    OutKeeps q0 fz (execSignalChange q signal cdr s) := by
  unfold execSignalChange
  with_reducible repeat' first
    | assumption | apply foldl_keeps | (extract_lets; fail_if_success done) | apply keeps_ite <;> intro _ | split
    | apply live_keeps | apply portTo_keeps | apply portCdr_keeps | apply next_keeps
    | refine mkKeeps rfl rfl rfl rfl rfl rfl rfl ?_
    | intro _

theorem execLockLoss_keeps {q : PortId} {signal : Bool} {cdr : Byte} (h : Keeps q0 fz s) :
    OutKeeps q0 fz (execLockLoss q signal cdr s) := by
  unfold execLockLoss
  with_reducible repeat' first
    | assumption | apply foldl_keeps | (extract_lets; fail_if_success done) | apply keeps_ite <;> intro _ | split
    | apply live_keeps | apply portTo_keeps | apply portCdr_keeps | apply next_keeps
    | refine mkKeeps rfl rfl rfl rfl rfl rfl rfl ?_
    | intro _

theorem execRemoteFaultRx_keeps {q : PortId} (h : Keeps q0 fz s) :
    OutKeeps q0 fz (execRemoteFaultRx q s) := by
  unfold execRemoteFaultRx
  with_reducible repeat' first
    | assumption | apply foldl_keeps | (extract_lets; fail_if_success done) | apply keeps_ite <;> intro _ | split
    | apply live_keeps | apply portTo_keeps | apply portLocked_keeps | apply next_keeps
    | refine mkKeeps rfl rfl rfl rfl rfl rfl rfl ?_
    | intro _

theorem execPortUp_keeps {q : PortId} (h : Keeps q0 fz s) :
    OutKeeps q0 fz (execPortUp q s) := by
  unfold execPortUp
  with_reducible repeat' first
    | assumption | apply foldl_keeps | (extract_lets; fail_if_success done) | apply keeps_ite <;> intro _ | split
    | apply live_keeps | apply portTo_keeps | apply portLocked_keeps | apply next_keeps
    | refine mkKeeps rfl rfl rfl rfl rfl rfl rfl ?_
    | intro _

theorem portsCarry_keeps (h : Keeps q0 fz s) :
    Keeps q0 fz (portsCarry s) := by
  unfold portsCarry
  with_reducible repeat' first
    | assumption | apply foldl_keeps | (extract_lets; fail_if_success done) | apply keeps_ite <;> intro _ | split
    | apply setPort_keeps | apply portCal_keeps | refine mkKeeps rfl rfl rfl rfl rfl rfl rfl ?_
    | intro _

theorem portDisable_keeps {q : Nat} (h : Keeps q0 fz s) :
    Keeps q0 fz (portDisable q s) := by
  unfold portDisable
  with_reducible repeat' first
    | assumption | apply foldl_keeps | (extract_lets; fail_if_success done) | apply keeps_ite <;> intro _ | split
    | apply portCal_keeps | apply setPort_keeps | apply portTo_keeps | refine mkKeeps rfl rfl rfl rfl rfl rfl rfl ?_
    | intro _

theorem portSwap_keeps {old new : Bank} {q : Nat} (h : Keeps q0 fz s) :
    Keeps q0 fz (portSwap old new s q) := by
  unfold portSwap
  with_reducible repeat' first
    | assumption | apply foldl_keeps | (extract_lets; fail_if_success done) | apply keeps_ite <;> intro _ | split
    | apply portDisable_keeps | apply setPort_keeps | apply portTo_keeps
    | refine mkKeeps rfl rfl rfl rfl rfl rfl rfl ?_
    | intro _

theorem portsSwap_keeps {old new : Bank} (h : Keeps q0 fz s) :
    Keeps q0 fz (portsSwap old new s) := by
  unfold portsSwap
  with_reducible repeat' first
    | assumption | apply foldl_keeps | (extract_lets; fail_if_success done) | apply keeps_ite <;> intro _ | split
    | apply portSwap_keeps | refine mkKeeps rfl rfl rfl rfl rfl rfl rfl ?_
    | intro _

theorem portsDim_keeps (h : Keeps q0 fz s) :
    Keeps q0 fz (portsDim s) := by
  unfold portsDim
  with_reducible repeat' first
    | assumption | apply foldl_keeps | (extract_lets; fail_if_success done) | apply keeps_ite <;> intro _ | split
    | apply foldl_keeps | apply portTo_keeps | apply portClose_keeps | refine mkKeeps rfl rfl rfl rfl rfl rfl rfl ?_
    | intro _

end Sys2Proof.Machine
end

