-- ==== Sys2Proof/Laws/KeepsStock.lean ====
section
/-! SUPPORT. What no command may spoil is kept by the functions of Machine/Stock.lean. -/

namespace Sys2Proof.Machine

set_option Elab.async false

variable {q0 : List Instr} {fz : FuseBits} {s : State}

theorem stockGrant_keeps {reqs : List (Nat × Nat)} (h : Keeps q0 fz s) : Keeps q0 fz (stockGrant reqs s).2 := by
  unfold stockGrant
  extract_lets free shared ordered won contested granted
  split
  · exact mkKeeps rfl rfl rfl rfl rfl rfl rfl h
  · exact h

theorem withIo_keeps {d tag : Nat} {c : Cmd} {inWant outNeed : Nat} {f : State → State} (hf : ∀ x0, Keeps q0 fz x0 → Keeps q0 fz (f x0)) (h : Keeps q0 fz s) :
    Keeps q0 fz (withIo d tag c inWant outNeed f s) := by
  unfold withIo
  with_reducible repeat' first
    | assumption | apply foldl_keeps | (extract_lets; fail_if_success done) | apply keeps_ite <;> intro _ | split
    | apply hf | apply finishSt_keeps | apply finishR0_keeps | refine mkKeeps rfl rfl rfl rfl rfl rfl rfl ?_
    | intro _

theorem badValue_keeps {d tag : Nat} {c : Cmd} {n : Nat} (h : Keeps q0 fz s) : Keeps q0 fz (badValue d tag c n s) :=
  finishR0_keeps h

theorem stockStore_keeps {d tag : Nat} {es : List Bytes} (h : Keeps q0 fz s) :
    Keeps q0 fz (stockStore d tag es s) := by
  unfold stockStore
  with_reducible repeat' first
    | assumption | apply foldl_keeps | (extract_lets; fail_if_success done) | apply keeps_ite <;> intro _ | split
    | apply finish_keeps | apply finishSt_keeps | apply stockGrant_keeps | apply raise_keeps | apply setNotice_keeps
    | apply setArea_keeps | refine keeps_snd (by assumption) ?_ | refine keeps_fst (by assumption) ?_
    | refine mkKeeps rfl rfl rfl rfl rfl rfl rfl ?_
    | intro _

theorem execStockSet_keeps {d : DoorId} {tag : Nat} {hostIn : Option Bytes} (h : Keeps q0 fz s) :
    OutKeeps q0 fz (execStockSet d tag hostIn s) := by
  unfold execStockSet
  with_reducible repeat' first
    | assumption | apply foldl_keeps | (extract_lets; fail_if_success done) | apply keeps_ite <;> intro _ | split
    | apply live_keeps | apply finishSt_keeps | apply finishR0_keeps | apply dispatch_keeps | apply stockStore_keeps
    | apply next_keeps | refine mkKeeps rfl rfl rfl rfl rfl rfl rfl ?_
    | intro _

theorem execStockGet_keeps {d : DoorId} {tag : Nat} (h : Keeps q0 fz s) :
    OutKeeps q0 fz (execStockGet d tag s) := by
  unfold execStockGet
  with_reducible repeat' first
    | assumption | apply foldl_keeps | (extract_lets; fail_if_success done) | apply keeps_ite <;> intro _ | split
    | apply live_keeps | apply finish_keeps | apply finishSt_keeps | apply finishR0_keeps | apply dispatch_keeps
    | apply badValue_keeps | apply next_keeps | refine mkKeeps rfl rfl rfl rfl rfl rfl rfl ?_
    | intro _

theorem execStockDiscard_keeps {d : DoorId} {tag : Nat} (h : Keeps q0 fz s) :
    OutKeeps q0 fz (execStockDiscard d tag s) := by
  unfold execStockDiscard
  with_reducible repeat' first
    | assumption | apply foldl_keeps | (extract_lets; fail_if_success done) | apply keeps_ite <;> intro _ | split
    | apply live_keeps | apply setArea_keeps | apply finishSt_keeps | apply finishR0_keeps | apply dispatch_keeps
    | apply next_keeps | refine mkKeeps rfl rfl rfl rfl rfl rfl rfl ?_
    | intro _

theorem execStockCheck_keeps {d : DoorId} {tag : Nat} (h : Keeps q0 fz s) :
    OutKeeps q0 fz (execStockCheck d tag s) := by
  unfold execStockCheck
  with_reducible repeat' first
    | assumption | apply foldl_keeps | (extract_lets; fail_if_success done) | apply keeps_ite <;> intro _ | split
    | apply live_keeps | apply setArea_keeps | apply modCmd_keeps | apply finishSt_keeps | apply dispatch_keeps
    | apply next_keeps | refine mkKeeps rfl rfl rfl rfl rfl rfl rfl ?_
    | intro _

theorem execStockCheckEnd_keeps {d : DoorId} {tag : Nat} (h : Keeps q0 fz s) :
    OutKeeps q0 fz (execStockCheckEnd d tag s) := by
  unfold execStockCheckEnd
  with_reducible repeat' first
    | assumption | apply foldl_keeps | (extract_lets; fail_if_success done) | apply keeps_ite <;> intro _ | split
    | apply live_keeps | apply setArea_keeps | apply finish_keeps | apply next_keeps
    | refine mkKeeps rfl rfl rfl rfl rfl rfl rfl ?_
    | intro _

theorem setApply_keeps {a : Option Apply} (h : Keeps q0 fz s) : Keeps q0 fz (setApply a s) :=
  mkKeeps rfl rfl rfl rfl rfl rfl rfl h

theorem execStockApply_keeps {d : DoorId} {tag : Nat} (h : Keeps q0 fz s) :
    OutKeeps q0 fz (execStockApply d tag s) := by
  unfold execStockApply
  with_reducible repeat' first
    | assumption | apply foldl_keeps | (extract_lets; fail_if_success done) | apply keeps_ite <;> intro _ | split
    | apply live_keeps | apply finish_keeps | apply finishSt_keeps | apply finishR0_keeps | apply deferCmd_keeps
    | apply dispatch_keeps | apply setApply_keeps | apply next_keeps | refine mkKeeps rfl rfl rfl rfl rfl rfl rfl ?_
    | intro _

theorem execShadowLoaded_keeps (h : Keeps q0 fz s) :
    OutKeeps q0 fz (execShadowLoaded s) := by
  unfold execShadowLoaded
  with_reducible repeat' first
    | assumption | apply foldl_keeps | (extract_lets; fail_if_success done) | apply keeps_ite <;> intro _ | split
    | apply live_keeps | apply setApply_keeps | apply next_keeps | refine mkKeeps rfl rfl rfl rfl rfl rfl rfl ?_
    | intro _

theorem execApplyReleaseTime_keeps (h : Keeps q0 fz s) :
    OutKeeps q0 fz (execApplyReleaseTime s) := by
  unfold execApplyReleaseTime
  with_reducible repeat' first
    | assumption | apply foldl_keeps | (extract_lets; fail_if_success done) | apply keeps_ite <;> intro _ | split
    | apply live_keeps | apply setArea_keeps | apply finish_keeps | apply setApply_keeps | apply next_keeps
    | refine mkKeeps rfl rfl rfl rfl rfl rfl rfl ?_
    | intro _

theorem cancelApply_keeps {result : Nat} (h : Keeps q0 fz s) :
    Keeps q0 fz (cancelApply result s) := by
  unfold cancelApply
  with_reducible repeat' first
    | assumption | apply foldl_keeps | (extract_lets; fail_if_success done) | apply keeps_ite <;> intro _ | split
    | apply raise_keeps | apply setArea_keeps | apply setApply_keeps | refine mkKeeps rfl rfl rfl rfl rfl rfl rfl ?_
    | intro _

theorem zeroiseCancels_keeps (h : Keeps q0 fz s) :
    Keeps q0 fz (zeroiseCancels s) := by
  unfold zeroiseCancels
  with_reducible repeat' first
    | assumption | apply foldl_keeps | (extract_lets; fail_if_success done) | apply keeps_ite <;> intro _ | split
    | apply finishSt_keeps | apply cancelApply_keeps | refine mkKeeps rfl rfl rfl rfl rfl rfl rfl ?_
    | intro _

end Sys2Proof.Machine
end

