-- ==== Sys2Proof/Laws/KeepsKeys.lean ====
section
/-! SUPPORT. What no command may spoil is kept by the functions of Machine/Keys.lean. -/

namespace Sys2Proof.Machine

set_option Elab.async false

variable {q0 : List Instr} {fz : FuseBits} {s : State}

theorem setVault_keeps {n : Nat} {v : Vault} (h : Keeps q0 fz s) : Keeps q0 fz (setVault n v s) :=
  mkKeeps rfl rfl rfl rfl rfl rfl rfl h

theorem setUnit_keeps {u : Nat} {l : List (Nat × Nat)} (h : Keeps q0 fz s) : Keeps q0 fz (setUnit u l s) :=
  mkKeeps rfl rfl rfl rfl rfl rfl rfl h

theorem opsCount_keeps {u : Nat} (h : Keeps q0 fz s) : Keeps q0 fz (opsCount u s) := mkKeeps rfl rfl rfl rfl rfl rfl rfl h

theorem joinUnit_keeps {d tag u : Nat} {aux : List Nat} {input : Bytes} (h : Keeps q0 fz s) :
    Keeps q0 fz (joinUnit d tag u aux input s) := by
  unfold joinUnit
  with_reducible repeat' first
    | assumption | apply foldl_keeps | (extract_lets; fail_if_success done) | apply keeps_ite <;> intro _ | split
    | apply modCmd_keeps | apply deferCmd_keeps | apply setUnit_keeps | refine mkKeeps rfl rfl rfl rfl rfl rfl rfl ?_
    | intro _

theorem takeSerial_keeps (h : Keeps q0 fz s) : Keeps q0 fz (takeSerial s).2 := mkKeeps rfl rfl rfl rfl rfl rfl rfl h

theorem badInput_keeps {d tag o : Nat} (h : Keeps q0 fz s) : Keeps q0 fz (badInput d tag o s) := finishR0_keeps h

theorem loadNext_keeps {c an ssci life startPn : Nat} {key salt : Bytes} (h : Keeps q0 fz s) :
    Keeps q0 fz (loadNext c an ssci life startPn key salt s) := by
  unfold loadNext
  with_reducible repeat' first
    | assumption | apply foldl_keeps | (extract_lets; fail_if_success done) | apply keeps_ite <;> intro _ | split
    | apply modChan_keeps | apply takeSerial_keeps | refine keeps_snd (by assumption) ?_
    | refine keeps_fst (by assumption) ?_ | refine mkKeeps rfl rfl rfl rfl rfl rfl rfl ?_
    | intro _

theorem waitDrain_keeps {c d tag : Nat} {input : Bytes} (h : Keeps q0 fz s) :
    Keeps q0 fz (waitDrain c d tag input s) := by
  unfold waitDrain
  with_reducible repeat' first
    | assumption | apply foldl_keeps | (extract_lets; fail_if_success done) | apply keeps_ite <;> intro _ | split
    | apply modCmd_keeps | apply deferCmd_keeps | refine mkKeeps rfl rfl rfl rfl rfl rfl rfl ?_
    | intro _

theorem wrapFailed_keeps {d tag why : Nat} (h : Keeps q0 fz s) :
    Keeps q0 fz (wrapFailed d tag why s) := by
  unfold wrapFailed
  with_reducible repeat' first
    | assumption | apply foldl_keeps | (extract_lets; fail_if_success done) | apply keeps_ite <;> intro _ | split
    | apply orReg_keeps | apply incReg_keeps | apply raise_keeps | apply finishSt_keeps
    | refine mkKeeps rfl rfl rfl rfl rfl rfl rfl ?_
    | intro _

theorem loadChannel_keeps {d tag : Nat} {r bs : Bytes} (h : Keeps q0 fz s) :
    Keeps q0 fz (loadChannel d tag r bs s) := by
  unfold loadChannel
  with_reducible repeat' first
    | assumption | apply foldl_keeps | (extract_lets; fail_if_success done) | apply keeps_ite <;> intro _ | split
    | apply loadNext_keeps | apply finishR0_keeps | apply takeChan_keeps
    | refine mkKeeps rfl rfl rfl rfl rfl rfl rfl ?_
    | intro _

theorem loadVault_keeps {d tag : Nat} {r bs : Bytes} (h : Keeps q0 fz s) :
    Keeps q0 fz (loadVault d tag r bs s) := by
  unfold loadVault
  with_reducible repeat' first
    | assumption | apply foldl_keeps | (extract_lets; fail_if_success done) | apply keeps_ite <;> intro _ | split
    | apply finishR0_keeps | apply setVault_keeps | refine mkKeeps rfl rfl rfl rfl rfl rfl rfl ?_
    | intro _

theorem loadGo_keeps {d tag : Nat} {r : Bytes} {go : State → State} (hgo : ∀ x0, Keeps q0 fz x0 → Keeps q0 fz (go x0)) (h : Keeps q0 fz s) :
    Keeps q0 fz (loadGo d tag r go s) := by
  unfold loadGo
  with_reducible repeat' first
    | assumption | apply foldl_keeps | (extract_lets; fail_if_success done) | apply keeps_ite <;> intro _ | split
    | apply hgo | apply finishSt_keeps | apply waitDrain_keeps | refine mkKeeps rfl rfl rfl rfl rfl rfl rfl ?_
    | intro _

theorem loadAsk_keeps {d tag : Nat} {r : Bytes} (h : Keeps q0 fz s) :
    Keeps q0 fz (loadAsk d tag r s) := by
  unfold loadAsk
  with_reducible repeat' first
    | assumption | apply foldl_keeps | (extract_lets; fail_if_success done) | apply keeps_ite <;> intro _ | split
    | apply loadGo_keeps | apply joinUnit_keeps | refine mkKeeps rfl rfl rfl rfl rfl rfl rfl ?_
    | intro _

theorem loadDone_keeps {d tag : Nat} {r : Bytes} (h : Keeps q0 fz s) :
    Keeps q0 fz (loadDone d tag r s) := by
  unfold loadDone
  with_reducible repeat' first
    | assumption | apply foldl_keeps | (extract_lets; fail_if_success done) | apply keeps_ite <;> intro _ | split
    | apply loadGo_keeps | apply wrapFailed_keeps | apply loadChannel_keeps | apply loadVault_keeps
    | refine mkKeeps rfl rfl rfl rfl rfl rfl rfl ?_
    | intro _

theorem saLoadRecord_keeps {d tag : Nat} {r : Bytes} (h : Keeps q0 fz s) :
    Keeps q0 fz (saLoadRecord d tag r s) := by
  unfold saLoadRecord
  with_reducible repeat' first
    | assumption | apply foldl_keeps | (extract_lets; fail_if_success done) | apply keeps_ite <;> intro _ | split
    | apply badInput_keeps | apply loadAsk_keeps | refine mkKeeps rfl rfl rfl rfl rfl rfl rfl ?_
    | intro _

theorem execSaLoad_keeps {d : DoorId} {tag : Nat} {hostIn : Option Bytes} (h : Keeps q0 fz s) :
    OutKeeps q0 fz (execSaLoad d tag hostIn s) := by
  unfold execSaLoad
  with_reducible repeat' first
    | assumption | apply foldl_keeps | (extract_lets; fail_if_success done) | apply keeps_ite <;> intro _ | split
    | apply live_keeps | apply finishSt_keeps | apply dispatch_keeps | apply withIo_keeps | apply saLoadRecord_keeps
    | apply next_keeps | refine mkKeeps rfl rfl rfl rfl rfl rfl rfl ?_
    | intro _

theorem retireNext_keeps {c d tag drained : Nat} (h : Keeps q0 fz s) :
    Keeps q0 fz (retireNext c d tag drained s) := by
  unfold retireNext
  with_reducible repeat' first
    | assumption | apply foldl_keeps | (extract_lets; fail_if_success done) | apply keeps_ite <;> intro _ | split
    | apply bumpLiveVer_keeps | apply modChan_keeps | apply finishSt_keeps | apply finishR0_keeps
    | apply waitDrain_keeps | refine mkKeeps rfl rfl rfl rfl rfl rfl rfl ?_
    | intro _

theorem retireAll_keeps {c d tag drained : Nat} (h : Keeps q0 fz s) :
    Keeps q0 fz (retireAll c d tag drained s) := by
  unfold retireAll
  with_reducible repeat' first
    | assumption | apply foldl_keeps | (extract_lets; fail_if_success done) | apply keeps_ite <;> intro _ | split
    | apply bumpLiveVer_keeps | apply modChan_keeps | apply finishSt_keeps | apply finishR0_keeps
    | apply waitDrain_keeps | refine mkKeeps rfl rfl rfl rfl rfl rfl rfl ?_
    | intro _

theorem retireWith_keeps {d tag : Nat} {f : Nat → State → State} {c : Cmd} (hf : ∀ x0 x1, Keeps q0 fz x1 → Keeps q0 fz (f x0 x1)) (h : Keeps q0 fz s) :
    Keeps q0 fz (retireWith d tag f c s) := by
  unfold retireWith
  with_reducible repeat' first
    | assumption | apply foldl_keeps | (extract_lets; fail_if_success done) | apply keeps_ite <;> intro _ | split
    | apply hf | apply finishSt_keeps | apply badValue_keeps | refine mkKeeps rfl rfl rfl rfl rfl rfl rfl ?_
    | intro _

theorem execSaRetireNext_keeps {d : DoorId} {tag : Nat} (h : Keeps q0 fz s) :
    OutKeeps q0 fz (execSaRetireNext d tag s) := by
  unfold execSaRetireNext
  with_reducible repeat' first
    | assumption | apply foldl_keeps | (extract_lets; fail_if_success done) | apply keeps_ite <;> intro _ | split
    | apply live_keeps | apply dispatchIf_keeps | apply retireNext_keeps | apply retireWith_keeps | apply next_keeps
    | refine mkKeeps rfl rfl rfl rfl rfl rfl rfl ?_
    | intro _

theorem execSaRetireAll_keeps {d : DoorId} {tag : Nat} (h : Keeps q0 fz s) :
    OutKeeps q0 fz (execSaRetireAll d tag s) := by
  unfold execSaRetireAll
  with_reducible repeat' first
    | assumption | apply foldl_keeps | (extract_lets; fail_if_success done) | apply keeps_ite <;> intro _ | split
    | apply live_keeps | apply dispatchIf_keeps | apply dispatch_keeps | apply retireAll_keeps | apply retireWith_keeps
    | apply next_keeps | refine mkKeeps rfl rfl rfl rfl rfl rfl rfl ?_
    | intro _

theorem resumeWaits_keeps {c : Nat} (h : Keeps q0 fz s) : Keeps q0 fz (resumeWaits c s) := by
  unfold resumeWaits
  refine keeps_ite (fun _ => h) fun _ => foldl_keeps (fun x w hx => ?_) (mkKeeps rfl rfl rfl rfl rfl rfl rfl h)
  split
  · exact hx
  · exact keeps_ite (fun _ => loadAsk_keeps hx) fun _ => keeps_ite (fun _ => retireAll_keeps hx) fun _ => retireNext_keeps hx

theorem execKeyDrainEmpty_keeps {c : Fin 8192} (h : Keeps q0 fz s) :
    OutKeeps q0 fz (execKeyDrainEmpty c s) := by
  unfold execKeyDrainEmpty
  with_reducible repeat' first
    | assumption | apply foldl_keeps | (extract_lets; fail_if_success done) | apply keeps_ite <;> intro _ | split
    | apply live_keeps | apply setChan_keeps | apply resumeWaits_keeps | apply next_keeps
    | refine mkKeeps rfl rfl rfl rfl rfl rfl rfl ?_
    | intro _

theorem execRxGraceEnd_keeps {c : Fin 8192} (h : Keeps q0 fz s) :
    OutKeeps q0 fz (execRxGraceEnd c s) := by
  unfold execRxGraceEnd
  with_reducible repeat' first
    | assumption | apply foldl_keeps | (extract_lets; fail_if_success done) | apply keeps_ite <;> intro _ | split
    | apply live_keeps | apply setChan_keeps | apply next_keeps | refine mkKeeps rfl rfl rfl rfl rfl rfl rfl ?_
    | intro _

theorem execKeyAging_keeps {c : Fin 8192} (h : Keeps q0 fz s) :
    OutKeeps q0 fz (execKeyAging c s) := by
  unfold execKeyAging
  with_reducible repeat' first
    | assumption | apply foldl_keeps | (extract_lets; fail_if_success done) | apply keeps_ite <;> intro _ | split
    | apply live_keeps | apply raise_keeps | apply setChan_keeps | apply next_keeps
    | refine mkKeeps rfl rfl rfl rfl rfl rfl rfl ?_
    | intro _

theorem execSaQuery_keeps {d : DoorId} {tag : Nat} (h : Keeps q0 fz s) :
    OutKeeps q0 fz (execSaQuery d tag s) := by
  unfold execSaQuery
  with_reducible repeat' first
    | assumption | apply foldl_keeps | (extract_lets; fail_if_success done) | apply keeps_ite <;> intro _ | split
    | apply live_keeps | apply finish_keeps | apply finishR0_keeps | apply dispatch_keeps | apply withIo_keeps
    | apply badValue_keeps | apply next_keeps | refine mkKeeps rfl rfl rfl rfl rfl rfl rfl ?_
    | intro _

theorem setKe_keeps {k : Nat} {x : KeSlot} (h : Keeps q0 fz s) : Keeps q0 fz (setKe k x s) :=
  mkKeeps rfl rfl rfl rfl rfl rfl rfl h

theorem keAbandon_keeps {k : Nat} (h : Keeps q0 fz s) :
    Keeps q0 fz (keAbandon k s) := by
  unfold keAbandon
  with_reducible repeat' first
    | assumption | apply foldl_keeps | (extract_lets; fail_if_success done) | apply keeps_ite <;> intro _ | split
    | apply orReg_keeps | apply raise_keeps | apply setKe_keeps | refine mkKeeps rfl rfl rfl rfl rfl rfl rfl ?_
    | intro _

theorem execKeOpen_keeps {d : DoorId} {tag : Nat} (h : Keeps q0 fz s) :
    OutKeeps q0 fz (execKeOpen d tag s) := by
  unfold execKeOpen
  with_reducible repeat' first
    | assumption | apply foldl_keeps | (extract_lets; fail_if_success done) | apply keeps_ite <;> intro _ | split
    | apply live_keeps | apply finishSt_keeps | apply finishR0_keeps | apply dispatch_keeps | apply badValue_keeps
    | apply takeSerial_keeps | apply setKe_keeps | refine keeps_snd (by assumption) ?_
    | refine keeps_fst (by assumption) ?_ | apply next_keeps | refine mkKeeps rfl rfl rfl rfl rfl rfl rfl ?_
    | intro _

theorem execKeTimeout_keeps {k : Fin 16} (h : Keeps q0 fz s) :
    OutKeeps q0 fz (execKeTimeout k s) := by
  unfold execKeTimeout
  with_reducible repeat' first
    | assumption | apply foldl_keeps | (extract_lets; fail_if_success done) | apply keeps_ite <;> intro _ | split
    | apply live_keeps | apply setKe_keeps | apply keAbandon_keeps | apply next_keeps
    | refine mkKeeps rfl rfl rfl rfl rfl rfl rfl ?_
    | intro _

theorem withInput_keeps {d tag : Nat} {c : Cmd} {hostIn : Option Bytes} {f : Bytes → State → State} (hf : ∀ b0 x0, Keeps q0 fz x0 → Keeps q0 fz (f b0 x0)) (h : Keeps q0 fz s) :
    Keeps q0 fz (withInput d tag c hostIn f s) := by
  unfold withInput
  with_reducible repeat' first
    | assumption | apply foldl_keeps | (extract_lets; fail_if_success done) | apply keeps_ite <;> intro _ | split
    | apply hf | apply finishSt_keeps | refine mkKeeps rfl rfl rfl rfl rfl rfl rfl ?_
    | intro _

theorem keStep_keeps {d tag : Nat} {f : State → State} {c : Cmd} (hf : ∀ x0, Keeps q0 fz x0 → Keeps q0 fz (f x0)) (h : Keeps q0 fz s) :
    Keeps q0 fz (keStep d tag f c s) := by
  unfold keStep
  with_reducible repeat' first
    | assumption | apply foldl_keeps | (extract_lets; fail_if_success done) | apply keeps_ite <;> intro _ | split
    | apply hf | apply finishSt_keeps | apply badValue_keeps | apply finishR0_keeps
    | refine mkKeeps rfl rfl rfl rfl rfl rfl rfl ?_
    | intro _

theorem keSlotStep_keeps {d tag u : Nat} {c : Cmd} {hostIn : Option Bytes} {present : KeSlot → Bool} (h : Keeps q0 fz s) :
    Keeps q0 fz (keSlotStep d tag u c hostIn present s) := by
  unfold keSlotStep
  with_reducible repeat' first
    | assumption | apply foldl_keeps | (extract_lets; fail_if_success done) | apply keeps_ite <;> intro _ | split
    | apply finishSt_keeps | apply withInput_keeps | apply joinUnit_keeps
    | refine mkKeeps rfl rfl rfl rfl rfl rfl rfl ?_
    | intro _

theorem keFreeStep_keeps {d tag u : Nat} {c : Cmd} {hostIn : Option Bytes} (h : Keeps q0 fz s) :
    Keeps q0 fz (keFreeStep d tag u c hostIn s) := by
  unfold keFreeStep
  with_reducible repeat' first
    | assumption | apply foldl_keeps | (extract_lets; fail_if_success done) | apply keeps_ite <;> intro _ | split
    | apply withInput_keeps | apply joinUnit_keeps | refine mkKeeps rfl rfl rfl rfl rfl rfl rfl ?_
    | intro _

theorem execKeStatus_keeps {d : DoorId} {tag : Nat} (h : Keeps q0 fz s) :
    OutKeeps q0 fz (execKeStatus d tag s) := by
  unfold execKeStatus
  with_reducible repeat' first
    | assumption | apply foldl_keeps | (extract_lets; fail_if_success done) | apply keeps_ite <;> intro _ | split
    | apply live_keeps | apply finish_keeps | apply dispatchIf_keeps | apply keStep_keeps | apply next_keeps
    | refine mkKeeps rfl rfl rfl rfl rfl rfl rfl ?_
    | intro _

theorem execEcKeygen_keeps {d : DoorId} {tag : Nat} (h : Keeps q0 fz s) :
    OutKeeps q0 fz (execEcKeygen d tag s) := by
  unfold execEcKeygen
  with_reducible repeat' first
    | assumption | apply foldl_keeps | (extract_lets; fail_if_success done) | apply keeps_ite <;> intro _ | split
    | apply live_keeps | apply dispatchIf_keeps | apply keStep_keeps | apply keSlotStep_keeps | apply next_keeps
    | refine mkKeeps rfl rfl rfl rfl rfl rfl rfl ?_
    | intro _

theorem execEcDh_keeps {d : DoorId} {tag : Nat} {hostIn : Option Bytes} (h : Keeps q0 fz s) :
    OutKeeps q0 fz (execEcDh d tag hostIn s) := by
  unfold execEcDh
  with_reducible repeat' first
    | assumption | apply foldl_keeps | (extract_lets; fail_if_success done) | apply keeps_ite <;> intro _ | split
    | apply live_keeps | apply dispatchIf_keeps | apply keStep_keeps | apply keSlotStep_keeps | apply next_keeps
    | refine mkKeeps rfl rfl rfl rfl rfl rfl rfl ?_
    | intro _

theorem execKemKeygen_keeps {d : DoorId} {tag : Nat} (h : Keeps q0 fz s) :
    OutKeeps q0 fz (execKemKeygen d tag s) := by
  unfold execKemKeygen
  with_reducible repeat' first
    | assumption | apply foldl_keeps | (extract_lets; fail_if_success done) | apply keeps_ite <;> intro _ | split
    | apply live_keeps | apply dispatchIf_keeps | apply keStep_keeps | apply keSlotStep_keeps | apply next_keeps
    | refine mkKeeps rfl rfl rfl rfl rfl rfl rfl ?_
    | intro _

theorem execKemEncaps_keeps {d : DoorId} {tag : Nat} {hostIn : Option Bytes} (h : Keeps q0 fz s) :
    OutKeeps q0 fz (execKemEncaps d tag hostIn s) := by
  unfold execKemEncaps
  with_reducible repeat' first
    | assumption | apply foldl_keeps | (extract_lets; fail_if_success done) | apply keeps_ite <;> intro _ | split
    | apply live_keeps | apply dispatchIf_keeps | apply keStep_keeps | apply keSlotStep_keeps | apply next_keeps
    | refine mkKeeps rfl rfl rfl rfl rfl rfl rfl ?_
    | intro _

theorem execKemDecaps_keeps {d : DoorId} {tag : Nat} {hostIn : Option Bytes} (h : Keeps q0 fz s) :
    OutKeeps q0 fz (execKemDecaps d tag hostIn s) := by
  unfold execKemDecaps
  with_reducible repeat' first
    | assumption | apply foldl_keeps | (extract_lets; fail_if_success done) | apply keeps_ite <;> intro _ | split
    | apply live_keeps | apply dispatchIf_keeps | apply keStep_keeps | apply keSlotStep_keeps | apply next_keeps
    | refine mkKeeps rfl rfl rfl rfl rfl rfl rfl ?_
    | intro _

theorem execTranscript_keeps {d : DoorId} {tag : Nat} {hostIn : Option Bytes} (h : Keeps q0 fz s) :
    OutKeeps q0 fz (execTranscript d tag hostIn s) := by
  unfold execTranscript
  with_reducible repeat' first
    | assumption | apply foldl_keeps | (extract_lets; fail_if_success done) | apply keeps_ite <;> intro _ | split
    | apply live_keeps | apply dispatchIf_keeps | apply keStep_keeps | apply keSlotStep_keeps | apply next_keeps
    | refine mkKeeps rfl rfl rfl rfl rfl rfl rfl ?_
    | intro _

theorem execDerive_keeps {d : DoorId} {tag : Nat} {hostIn : Option Bytes} (h : Keeps q0 fz s) :
    OutKeeps q0 fz (execDerive d tag hostIn s) := by
  unfold execDerive
  with_reducible repeat' first
    | assumption | apply foldl_keeps | (extract_lets; fail_if_success done) | apply keeps_ite <;> intro _ | split
    | apply live_keeps | apply dispatchIf_keeps | apply keStep_keeps | apply keSlotStep_keeps | apply next_keeps
    | refine mkKeeps rfl rfl rfl rfl rfl rfl rfl ?_
    | intro _

theorem execSign_keeps {d : DoorId} {tag : Nat} (h : Keeps q0 fz s) :
    OutKeeps q0 fz (execSign d tag s) := by
  unfold execSign
  with_reducible repeat' first
    | assumption | apply foldl_keeps | (extract_lets; fail_if_success done) | apply keeps_ite <;> intro _ | split
    | apply live_keeps | apply finishSt_keeps | apply dispatchIf_keeps | apply keStep_keeps | apply keSlotStep_keeps
    | apply next_keeps | refine mkKeeps rfl rfl rfl rfl rfl rfl rfl ?_
    | intro _

theorem execSha384_keeps {d : DoorId} {tag : Nat} {hostIn : Option Bytes} (h : Keeps q0 fz s) :
    OutKeeps q0 fz (execSha384 d tag hostIn s) := by
  unfold execSha384
  with_reducible repeat' first
    | assumption | apply foldl_keeps | (extract_lets; fail_if_success done) | apply keeps_ite <;> intro _ | split
    | apply next_keeps | apply next_keeps | apply live_keeps | apply dispatchIf_keeps | apply keStep_keeps
    | apply keFreeStep_keeps | refine mkKeeps rfl rfl rfl rfl rfl rfl rfl ?_
    | intro _

theorem execEcdsaVerify_keeps {d : DoorId} {tag : Nat} {hostIn : Option Bytes} (h : Keeps q0 fz s) :
    OutKeeps q0 fz (execEcdsaVerify d tag hostIn s) := by
  unfold execEcdsaVerify
  with_reducible repeat' first
    | assumption | apply foldl_keeps | (extract_lets; fail_if_success done) | apply keeps_ite <;> intro _ | split
    | apply next_keeps | apply next_keeps | apply live_keeps | apply dispatchIf_keeps | apply keStep_keeps
    | apply keSlotStep_keeps | apply keFreeStep_keeps | refine mkKeeps rfl rfl rfl rfl rfl rfl rfl ?_
    | intro _

theorem execMldsaVerify_keeps {d : DoorId} {tag : Nat} {hostIn : Option Bytes} (h : Keeps q0 fz s) :
    OutKeeps q0 fz (execMldsaVerify d tag hostIn s) := by
  unfold execMldsaVerify
  with_reducible repeat' first
    | assumption | apply foldl_keeps | (extract_lets; fail_if_success done) | apply keeps_ite <;> intro _ | split
    | apply next_keeps | apply next_keeps | apply live_keeps | apply dispatchIf_keeps | apply keStep_keeps
    | apply keSlotStep_keeps | apply keFreeStep_keeps | refine mkKeeps rfl rfl rfl rfl rfl rfl rfl ?_
    | intro _

theorem execVaultKeygen_keeps {d : DoorId} {tag : Nat} (h : Keeps q0 fz s) :
    OutKeeps q0 fz (execVaultKeygen d tag s) := by
  unfold execVaultKeygen
  with_reducible repeat' first
    | assumption | apply foldl_keeps | (extract_lets; fail_if_success done) | apply keeps_ite <;> intro _ | split
    | apply next_keeps | apply next_keeps | apply live_keeps | apply dispatchIf_keeps | apply keStep_keeps
    | apply finishSt_keeps | apply keFreeStep_keeps | refine mkKeeps rfl rfl rfl rfl rfl rfl rfl ?_
    | intro _

theorem execVaultWrap_keeps {d : DoorId} {tag : Nat} (h : Keeps q0 fz s) :
    OutKeeps q0 fz (execVaultWrap d tag s) := by
  unfold execVaultWrap
  with_reducible repeat' first
    | assumption | apply foldl_keeps | (extract_lets; fail_if_success done) | apply keeps_ite <;> intro _ | split
    | apply next_keeps | apply next_keeps | apply live_keeps | apply dispatchIf_keeps | apply keStep_keeps
    | apply finishSt_keeps | apply finishR0_keeps | apply keFreeStep_keeps
    | refine mkKeeps rfl rfl rfl rfl rfl rfl rfl ?_
    | intro _

theorem execMsgSend_keeps {d : DoorId} {tag : Nat} {hostIn : Option Bytes} (h : Keeps q0 fz s) :
    OutKeeps q0 fz (execMsgSend d tag hostIn s) := by
  unfold execMsgSend
  with_reducible repeat' first
    | assumption | apply foldl_keeps | (extract_lets; fail_if_success done) | apply keeps_ite <;> intro _ | split
    | apply next_keeps | apply next_keeps | apply live_keeps | apply dispatchIf_keeps | apply keStep_keeps
    | apply finishSt_keeps | apply withInput_keeps | apply modCal_keeps
    | refine mkKeeps rfl rfl rfl rfl rfl rfl rfl ?_
    | intro _

theorem execMsgRecv_keeps {d : DoorId} {tag : Nat} (h : Keeps q0 fz s) :
    OutKeeps q0 fz (execMsgRecv d tag s) := by
  unfold execMsgRecv
  with_reducible repeat' first
    | assumption | apply foldl_keeps | (extract_lets; fail_if_success done) | apply keeps_ite <;> intro _ | split
    | apply live_keeps | apply setCal_keeps | apply finish_keeps | apply finishR0_keeps | apply dispatchIf_keeps
    | apply keStep_keeps | apply next_keeps | refine mkKeeps rfl rfl rfl rfl rfl rfl rfl ?_
    | intro _

theorem vaultStep_keeps {d tag : Nat} {c : Cmd} (h : Keeps q0 fz s) :
    Keeps q0 fz (vaultStep d tag c s) := by
  unfold vaultStep
  with_reducible repeat' first
    | assumption | apply foldl_keeps | (extract_lets; fail_if_success done) | apply keeps_ite <;> intro _ | split
    | apply freeNext_keeps | apply finish_keeps | apply finishSt_keeps | apply delivered_keeps | apply setVault_keeps
    | refine mkKeeps rfl rfl rfl rfl rfl rfl rfl ?_
    | intro _

theorem stepBack_keeps {c : Cmd} {y : KeSlot} (h : Keeps q0 fz s) :
    Keeps q0 fz (stepBack c y s) := by
  unfold stepBack
  with_reducible repeat' first
    | assumption | apply foldl_keeps | (extract_lets; fail_if_success done) | apply keeps_ite <;> intro _ | split
    | apply setKe_keeps | refine mkKeeps rfl rfl rfl rfl rfl rfl rfl ?_
    | intro _

theorem keStepDone_keeps {d tag : Nat} {c : Cmd} (h : Keeps q0 fz s) :
    Keeps q0 fz (keStepDone d tag c s) := by
  unfold keStepDone
  with_reducible repeat' first
    | assumption | apply foldl_keeps | (extract_lets; fail_if_success done) | apply keeps_ite <;> intro _ | split
    | apply finishSt_keeps | apply done_keeps | apply freeNext_keeps | apply stepBack_keeps | apply finish_keeps
    | refine mkKeeps rfl rfl rfl rfl rfl rfl rfl ?_
    | intro _

theorem keExpire_keeps {k : Nat} (h : Keeps q0 fz s) :
    Keeps q0 fz (keExpire k s) := by
  unfold keExpire
  with_reducible repeat' first
    | assumption | apply foldl_keeps | (extract_lets; fail_if_success done) | apply keeps_ite <;> intro _ | split
    | apply keAbandon_keeps | refine mkKeeps rfl rfl rfl rfl rfl rfl rfl ?_
    | intro _

theorem keSettle_keeps (h : Keeps q0 fz s) :
    Keeps q0 fz (keSettle s) := by
  unfold keSettle
  with_reducible repeat' first
    | assumption | apply foldl_keeps | (extract_lets; fail_if_success done) | apply keeps_ite <;> intro _ | split
    | apply foldl_keeps | apply keExpire_keeps | refine mkKeeps rfl rfl rfl rfl rfl rfl rfl ?_
    | intro _

theorem keFreed_keeps {k : Nat} (h : Keeps q0 fz s) :
    Keeps q0 fz (keFreed k s) := by
  unfold keFreed
  with_reducible repeat' first
    | assumption | apply foldl_keeps | (extract_lets; fail_if_success done) | apply keeps_ite <;> intro _ | split
    | apply setKe_keeps | apply raise_keeps | apply orReg_keeps | refine mkKeeps rfl rfl rfl rfl rfl rfl rfl ?_
    | intro _

theorem commitPair_keeps {d : Nat} {x : KeSlot} {r : Bytes} (h : Keeps q0 fz s) :
    Keeps q0 fz (commitPair d x r s) := by
  unfold commitPair
  with_reducible repeat' first
    | assumption | apply foldl_keeps | (extract_lets; fail_if_success done) | apply keeps_ite <;> intro _ | split
    | apply modChan_keeps | apply setVault_keeps | apply loadNext_keeps | refine mkKeeps rfl rfl rfl rfl rfl rfl rfl ?_
    | intro _

theorem closeCommit_keeps {d tag k : Nat} {rs : List Bytes} (h : Keeps q0 fz s) :
    Keeps q0 fz (closeCommit d tag k rs s) := by
  unfold closeCommit
  with_reducible repeat' first
    | assumption | apply foldl_keeps | (extract_lets; fail_if_success done) | apply keeps_ite <;> intro _ | split
    | apply finishSt_keeps | apply commitPair_keeps | apply bumpLiveVer_keeps | apply finishR0_keeps
    | apply keFreed_keeps | refine mkKeeps rfl rfl rfl rfl rfl rfl rfl ?_
    | intro _

theorem closeSlot_keeps {d tag k : Nat} {pairs : Option (List Bytes)} (h : Keeps q0 fz s) :
    Keeps q0 fz (closeSlot d tag k pairs s) := by
  unfold closeSlot
  with_reducible repeat' first
    | assumption | apply foldl_keeps | (extract_lets; fail_if_success done) | apply keeps_ite <;> intro _ | split
    | apply finish_keeps | apply finishSt_keeps | apply keFreed_keeps | apply closeCommit_keeps
    | refine mkKeeps rfl rfl rfl rfl rfl rfl rfl ?_
    | intro _

theorem execKeClose_keeps {d : DoorId} {tag : Nat} {hostIn : Option Bytes} (h : Keeps q0 fz s) :
    OutKeeps q0 fz (execKeClose d tag hostIn s) := by
  unfold execKeClose
  with_reducible repeat' first
    | assumption | apply foldl_keeps | (extract_lets; fail_if_success done) | apply keeps_ite <;> intro _ | split
    | apply next_keeps | apply next_keeps | apply live_keeps | apply dispatch_keeps | apply finishSt_keeps
    | apply finishR0_keeps | apply badValue_keeps | apply closeSlot_keeps
    | refine mkKeeps rfl rfl rfl rfl rfl rfl rfl ?_
    | intro _

theorem zeroise_keeps {cs : List Nat} {ke : KeSlot → Bool} {va : Vault → Bool} (h : Keeps q0 fz s) :
    Keeps q0 fz (zeroise cs ke va s).1 := by
  unfold zeroise
  with_reducible repeat' first
    | assumption | apply foldl_keeps | (extract_lets; fail_if_success done) | apply keeps_ite <;> intro _ | split
    | apply clearChan_keeps | apply dropChanFrames_keeps | apply setVault_keeps | apply resumeWaits_keeps
    | apply keFreed_keeps | apply keeps_mk_fst | refine mkKeeps rfl rfl rfl rfl rfl rfl rfl ?_
    | intro _

theorem zeroiseEnd_keeps {d tag : Nat} {cancels : Bool} {r : State × Nat × Nat × Nat}
    (h : Keeps q0 fz r.1) : Keeps q0 fz (zeroiseEnd d tag cancels r) := by
  obtain ⟨s, n, k, v⟩ := r
  unfold zeroiseEnd
  refine finish_keeps (raise_keeps (bumpLiveVer_keeps ?_))
  split
  · exact zeroiseCancels_keeps h
  · exact h

theorem zeroiseWith_keeps {d tag : Nat} {f : Nat → State → State} {c : Cmd} (hf : ∀ x0 x1, Keeps q0 fz x1 → Keeps q0 fz (f x0 x1)) (h : Keeps q0 fz s) :
    Keeps q0 fz (zeroiseWith d tag f c s) := by
  unfold zeroiseWith
  with_reducible repeat' first
    | assumption | apply foldl_keeps | (extract_lets; fail_if_success done) | apply keeps_ite <;> intro _ | split
    | apply hf | apply finishSt_keeps | apply badValue_keeps | refine mkKeeps rfl rfl rfl rfl rfl rfl rfl ?_
    | intro _

theorem execZeroiseChannel_keeps {d : DoorId} {tag : Nat} (h : Keeps q0 fz s) :
    OutKeeps q0 fz (execZeroiseChannel d tag s) := by
  unfold execZeroiseChannel
  with_reducible repeat' first
    | assumption | apply foldl_keeps | (extract_lets; fail_if_success done) | apply keeps_ite <;> intro _ | split
    | apply live_keeps | apply finishSt_keeps | apply dispatchIf_keeps | apply zeroise_keeps | apply zeroiseEnd_keeps
    | apply zeroiseWith_keeps | refine keeps_snd (by assumption) ?_ | refine keeps_fst (by assumption) ?_
    | apply next_keeps | refine mkKeeps rfl rfl rfl rfl rfl rfl rfl ?_
    | intro _

theorem execZeroiseOwned_keeps {d : DoorId} {tag : Nat} (h : Keeps q0 fz s) :
    OutKeeps q0 fz (execZeroiseOwned d tag s) := by
  unfold execZeroiseOwned
  with_reducible repeat' first
    | assumption | apply foldl_keeps | (extract_lets; fail_if_success done) | apply keeps_ite <;> intro _ | split
    | apply live_keeps | apply dispatchIf_keeps | apply zeroise_keeps | apply zeroiseEnd_keeps
    | apply zeroiseWith_keeps | refine keeps_snd (by assumption) ?_ | refine keeps_fst (by assumption) ?_
    | apply next_keeps | refine mkKeeps rfl rfl rfl rfl rfl rfl rfl ?_
    | intro _

theorem execZeroiseKe_keeps {d : DoorId} {tag : Nat} (h : Keeps q0 fz s) :
    OutKeeps q0 fz (execZeroiseKe d tag s) := by
  unfold execZeroiseKe
  with_reducible repeat' first
    | assumption | apply foldl_keeps | (extract_lets; fail_if_success done) | apply keeps_ite <;> intro _ | split
    | apply live_keeps | apply dispatchIf_keeps | apply zeroise_keeps | apply zeroiseEnd_keeps
    | apply zeroiseWith_keeps | refine keeps_snd (by assumption) ?_ | refine keeps_fst (by assumption) ?_
    | apply next_keeps | refine mkKeeps rfl rfl rfl rfl rfl rfl rfl ?_
    | intro _

theorem clearMessages_keeps (h : Keeps q0 fz s) :
    Keeps q0 fz (clearMessages s) := by
  unfold clearMessages
  with_reducible repeat' first
    | assumption | apply foldl_keeps | (extract_lets; fail_if_success done) | apply keeps_ite <;> intro _ | split
    | apply modCal_keeps | refine mkKeeps rfl rfl rfl rfl rfl rfl rfl ?_
    | intro _

theorem execZeroiseDevice_keeps {d : DoorId} {tag : Nat} (h : Keeps q0 fz s) :
    OutKeeps q0 fz (execZeroiseDevice d tag s) := by
  unfold execZeroiseDevice
  with_reducible repeat' first
    | assumption | apply foldl_keeps | (extract_lets; fail_if_success done) | apply keeps_ite <;> intro _ | split
    | apply live_keeps | apply dispatchIf_keeps | apply zeroise_keeps | apply zeroiseEnd_keeps
    | apply zeroiseWith_keeps | apply clearMessages_keeps | refine keeps_snd (by assumption) ?_
    | refine keeps_fst (by assumption) ?_ | apply next_keeps | refine mkKeeps rfl rfl rfl rfl rfl rfl rfl ?_
    | intro _

theorem keyeReadEffect_keeps {o : Nat} (h : Keeps q0 fz s) : Keeps q0 fz (keyeReadEffect o s) := readClears_keeps h

theorem keyeWrite_keeps {o : Nat} {v : Word} (h : Keeps q0 fz s) : Keeps q0 fz (keyeWrite o v s) :=
  mkKeeps rfl rfl rfl rfl rfl rfl rfl h

end Sys2Proof.Machine
end

