-- ==== Sys2Proof/Laws/KeepsPair.lean ====
section
/-! SUPPORT. What no command may spoil is kept by the functions of Machine/Pair.lean. -/

namespace Sys2Proof.Machine

set_option Elab.async false

variable {q0 : List Instr} {fz : FuseBits} {s : State}

theorem setPair_keeps {p : Pair} (hc : p.commit.wf = true)
    (hk : ∀ c, p.chk = some c → c.wf = true) (h : Keeps q0 fz s) : Keeps q0 fz (setPair p s) :=
  { h with commit := hc, chk := hk }

theorem modPair_keeps {f : Pair → Pair}
    (hc : (f s.pair).commit = s.pair.commit) (hk : (f s.pair).chk = s.pair.chk) (h : Keeps q0 fz s) :
    Keeps q0 fz (modPair f s) :=
  setPair_keeps (hc ▸ h.commit) (fun c e => h.chk c (hk ▸ e)) h

theorem wdogReload_keeps (h : Keeps q0 fz s) : Keeps q0 fz (wdogReload s) := mkKeeps rfl rfl rfl rfl rfl rfl rfl h

theorem wdogPause_keeps (h : Keeps q0 fz s) : Keeps q0 fz (wdogPause s) := mkKeeps rfl rfl rfl rfl rfl rfl rfl h

theorem pairKick_keeps {v : Word} (h : Keeps q0 fz s) :
    Keeps q0 fz (pairKick v s) := by
  unfold pairKick
  refine keeps_ite (fun _ => h) fun _ => ?_
  split
  · exact wdogReload_keeps h
  · exact modPair_keeps rfl rfl h

theorem countClassS_keeps (h : Keeps q0 fz s) : Keeps q0 fz (countClassS s) := mkKeeps rfl rfl rfl rfl rfl rfl rfl h

theorem beginZeroing_keeps (h : Keeps q0 fz s) : Keeps q0 fz (beginZeroing s) :=
  setReg_keeps (mkKeeps rfl rfl rfl rfl rfl rfl rfl h)

theorem stopPair_keeps {code kind regNo : Nat} {addr : Word}
    (h : Keeps q0 fz s) : Keeps q0 fz (stopPair code kind regNo addr s) := by
  unfold stopPair
  extract_lets s1 s2 s3 s4 _ _ s5
  have h1 : Keeps q0 fz s1 := raise_keeps (countClassS_keeps h)
  have h4 : Keeps q0 fz s4 := by
    have h3 : Keeps q0 fz s3 := setReg_keeps (setRegN_keeps h1)
    dsimp only [s4]
    split
    · exact setReg_keeps h3
    · exact h3
  have h5 : Keeps q0 fz s5 := by
    have hw := wdogPause_keeps h4
    refine setPair_keeps hw.commit (fun c e => ?_) ?_
    · dsimp only at e; cases e
    · exact ⟨hw.pending, hw.fuses, hw.bsr, hw.mem, h.core, hw.commit, hw.chk, hw.doors⟩
  split
  · exact modPair_keeps rfl rfl (setReg_keeps h1)
  · split
    · exact beginZeroing_keeps h5
    · exact h5

theorem pairReadEffect_keeps {o : Nat} (h : Keeps q0 fz s) : Keeps q0 fz (pairReadEffect o s) := readClears_keeps h

theorem pairWrite_keeps {o : Nat} {v : Word} (h : Keeps q0 fz s) :
    Keeps q0 fz (pairWrite o v s) := by
  unfold pairWrite
  with_reducible repeat' first
    | assumption | apply foldl_keeps | (extract_lets; fail_if_success done) | apply keeps_ite <;> intro _ | split
    | apply setRegN_keeps | apply writeTyped_keeps | apply pairKick_keeps
    | refine mkKeeps rfl rfl rfl rfl rfl rfl rfl ?_
    | intro _

end Sys2Proof.Machine
end

