-- ==== Sys2Proof/Laws/KeepsLayers.lean ====
section
/-! SUPPORT. What no command may spoil is kept by the functions of Machine/Layers.lean. -/

namespace Sys2Proof.Machine

set_option Elab.async false

variable {q0 : List Instr} {fz : FuseBits} {s : State}

theorem modPanel_keeps {f : Panel → Panel} (h : Keeps q0 fz s) : Keeps q0 fz (modPanel f s) :=
  mkKeeps rfl rfl rfl rfl rfl rfl rfl h

theorem storeByte_keeps {off : Nat} {b : Byte} (h : Keeps q0 fz s) :
    Keeps q0 fz (storeByte off b s) := by
  unfold storeByte
  with_reducible repeat' first
    | assumption | apply foldl_keeps | (extract_lets; fail_if_success done) | apply keeps_ite <;> intro _ | split
    | apply mset_keeps | refine mkKeeps rfl rfl rfl rfl rfl rfl rfl ?_
    | intro _

theorem storePixels_keeps {off : Nat} {px : List Nat} (h : Keeps q0 fz s) :
    Keeps q0 fz (storePixels off px s) := by
  induction px generalizing off s with
  | nil => exact h
  | cons b r ih => exact ih (storeByte_keeps (storeByte_keeps (storeByte_keeps h)))

theorem checkCfg_keeps (h : Keeps q0 fz s) :
    Keeps q0 fz (checkCfg s) := by
  unfold checkCfg
  with_reducible repeat' first
    | assumption | apply foldl_keeps | (extract_lets; fail_if_success done) | apply keeps_ite <;> intro _ | split
    | apply putBit_keeps | apply raise_keeps | apply modPanel_keeps | refine mkKeeps rfl rfl rfl rfl rfl rfl rfl ?_
    | intro _

theorem sealFrame_keeps (h : Keeps q0 fz s) :
    Keeps q0 fz (sealFrame s) := by
  unfold sealFrame
  with_reducible repeat' first
    | assumption | apply foldl_keeps | (extract_lets; fail_if_success done) | apply keeps_ite <;> intro _ | split
    | apply putBit_keeps | apply raiseIf_keeps | apply modPanel_keeps | refine mkKeeps rfl rfl rfl rfl rfl rfl rfl ?_
    | intro _

theorem rasterOff_keeps (h : Keeps q0 fz s) :
    Keeps q0 fz (rasterOff s) := by
  unfold rasterOff
  with_reducible repeat' first
    | assumption | apply foldl_keeps | (extract_lets; fail_if_success done) | apply keeps_ite <;> intro _ | split
    | apply modPanel_keeps | apply emit_keeps | refine mkKeeps rfl rfl rfl rfl rfl rfl rfl ?_
    | intro _

theorem noteRate_keeps (h : Keeps q0 fz s) :
    Keeps q0 fz (noteRate s) := by
  unfold noteRate
  with_reducible repeat' first
    | assumption | apply foldl_keeps | (extract_lets; fail_if_success done) | apply keeps_ite <;> intro _ | split
    | apply modPanel_keeps | refine mkKeeps rfl rfl rfl rfl rfl rfl rfl ?_
    | intro _

theorem sealKick_keeps {v : Word} (h : Keeps q0 fz s) :
    Keeps q0 fz (sealKick v s) := by
  unfold sealKick
  with_reducible repeat' first
    | assumption | apply foldl_keeps | (extract_lets; fail_if_success done) | apply keeps_ite <;> intro _ | split
    | apply modPanel_keeps | refine mkKeeps rfl rfl rfl rfl rfl rfl rfl ?_
    | intro _

theorem cmpWrite_keeps {o : Nat} {v : Word} (h : Keeps q0 fz s) :
    Keeps q0 fz (cmpWrite o v s) := by
  unfold cmpWrite
  with_reducible repeat' first
    | assumption | apply foldl_keeps | (extract_lets; fail_if_success done) | apply keeps_ite <;> intro _ | split
    | apply writeTyped_keeps | apply panelChange_keeps | apply modPanel_keeps | apply sealKick_keeps
    | refine mkKeeps rfl rfl rfl rfl rfl rfl rfl ?_
    | intro _

theorem cmpReadEffect_keeps {o : Nat} (h : Keeps q0 fz s) : Keeps q0 fz (cmpReadEffect o s) := readClears_keeps h

theorem execSealKick_keeps {v : Word} (h : Keeps q0 fz s) : OutKeeps q0 fz (execSealKick v s) :=
  next_keeps (live_keeps (fun _ hx => cmpWrite_keeps hx) h)

end Sys2Proof.Machine
end

