-- ==== Sys2Proof/Laws/KeepsBlitter.lean ====
section
/-! SUPPORT. What no command may spoil is kept by the functions of Machine/Blitter.lean. -/

namespace Sys2Proof.Machine

set_option Elab.async false

variable {q0 : List Instr} {fz : FuseBits} {s : State}

theorem setBltUnit_keeps {u : Nat} {j : Option BltJob} (h : Keeps q0 fz s) : Keeps q0 fz (setBltUnit u j s) :=
  mkKeeps rfl rfl rfl rfl rfl rfl rfl h

theorem startJob_keeps {at? : Option Nat} (h : Keeps q0 fz s) :
    Keeps q0 fz (startJob at? s) := by
  unfold startJob
  with_reducible repeat' first
    | assumption | apply foldl_keeps | (extract_lets; fail_if_success done) | apply keeps_ite <;> intro _ | split
    | apply modPanel_keeps | apply setBltUnit_keeps | refine mkKeeps rfl rfl rfl rfl rfl rfl rfl ?_
    | intro _

theorem execBltJobStart_keeps (h : Keeps q0 fz s) : OutKeeps q0 fz (execBltJobStart s) :=
  next_keeps (live_keeps (fun _ hx => startJob_keeps hx) h)

theorem postByte_keeps {off : Nat} {b : Byte} (h : Keeps q0 fz s) :
    Keeps q0 fz (postByte off b s) := by
  unfold postByte
  with_reducible repeat' first
    | assumption | apply foldl_keeps | (extract_lets; fail_if_success done) | apply keeps_ite <;> intro _ | split
    | apply agentWrite_keeps | refine mkKeeps rfl rfl rfl rfl rfl rfl rfl ?_
    | intro _

theorem postBytes_keeps {off : Nat} {bs : Bytes} (h : Keeps q0 fz s) :
    Keeps q0 fz (postBytes off bs s) := by
  induction bs generalizing off s with
  | nil => exact h
  | cons b r ih => exact ih (postByte_keeps h)

theorem jobPixel_keeps {q : BltJob} {k : Nat} (h : Keeps q0 fz s) :
    Keeps q0 fz (jobPixel q s k) := by
  unfold jobPixel
  with_reducible repeat' first
    | assumption | apply foldl_keeps | (extract_lets; fail_if_success done) | apply keeps_ite <;> intro _ | split
    | apply agentWrite_keeps | apply postBytes_keeps | refine mkKeeps rfl rfl rfl rfl rfl rfl rfl ?_
    | intro _

theorem jobPixels_keeps {q : BltJob} {k : Nat} (h : Keeps q0 fz s) :
    Keeps q0 fz (jobPixels q k s) := by
  unfold jobPixels
  with_reducible repeat' first
    | assumption | apply foldl_keeps | (extract_lets; fail_if_success done) | apply keeps_ite <;> intro _ | split
    | apply jobPixel_keeps | refine mkKeeps rfl rfl rfl rfl rfl rfl rfl ?_
    | intro _

theorem jobDone_keeps {u : Nat} (h : Keeps q0 fz s) :
    Keeps q0 fz (jobDone u s) := by
  unfold jobDone
  with_reducible repeat' first
    | assumption | apply foldl_keeps | (extract_lets; fail_if_success done) | apply keeps_ite <;> intro _ | split
    | apply setReg_keeps | apply putBit_keeps | apply setRegN_keeps | apply raise_keeps | apply finish_keeps
    | apply modPanel_keeps | apply setBltUnit_keeps | apply jobPixels_keeps
    | refine mkKeeps rfl rfl rfl rfl rfl rfl rfl ?_
    | intro _

theorem execBltJobDone_keeps {u : Fin 2} (h : Keeps q0 fz s) : OutKeeps q0 fz (execBltJobDone u s) :=
  next_keeps (live_keeps (fun _ hx => jobDone_keeps hx) h)

theorem bltGo_keeps {v : Word} (h : Keeps q0 fz s) :
    Keeps q0 fz (bltGo v s) := by
  unfold bltGo
  with_reducible repeat' first
    | assumption | apply foldl_keeps | (extract_lets; fail_if_success done) | apply keeps_ite <;> intro _ | split
    | apply orReg_keeps | apply raise_keeps | apply modPanel_keeps | refine mkKeeps rfl rfl rfl rfl rfl rfl rfl ?_
    | intro _

theorem execBltGo_keeps {v : Word} (h : Keeps q0 fz s) : OutKeeps q0 fz (execBltGo v s) :=
  next_keeps (live_keeps (fun _ hx => bltGo_keeps hx) h)

theorem bltWrite_keeps {o : Nat} {v : Word} (h : Keeps q0 fz s) :
    Keeps q0 fz (bltWrite o v s) := by
  unfold bltWrite
  with_reducible repeat' first
    | assumption | apply foldl_keeps | (extract_lets; fail_if_success done) | apply keeps_ite <;> intro _ | split
    | apply writeTyped_keeps | apply bltGo_keeps | refine mkKeeps rfl rfl rfl rfl rfl rfl rfl ?_
    | intro _

theorem queuePost_keeps {j : BltJob} (h : Keeps q0 fz s) : Keeps q0 fz (queuePost j s) :=
  mkKeeps rfl rfl rfl rfl rfl rfl rfl h

theorem execPanelPost_keeps {d : DoorId} {tag : Nat} {hostIn : Option Bytes} (h : Keeps q0 fz s) :
    OutKeeps q0 fz (execPanelPost d tag hostIn s) := by
  unfold execPanelPost
  with_reducible repeat' first
    | assumption | apply foldl_keeps | (extract_lets; fail_if_success done) | apply keeps_ite <;> intro _ | split
    | apply live_keeps | apply finishSt_keeps | apply finishR0_keeps | apply dispatch_keeps | apply badValue_keeps
    | apply checkCfg_keeps | apply queuePost_keeps | apply next_keeps | refine mkKeeps rfl rfl rfl rfl rfl rfl rfl ?_
    | intro _

theorem cutJob_keeps {u : Nat} (h : Keeps q0 fz s) :
    Keeps q0 fz (cutJob s u) := by
  unfold cutJob
  with_reducible repeat' first
    | assumption | apply foldl_keeps | (extract_lets; fail_if_success done) | apply keeps_ite <;> intro _ | split
    | apply freeNext_keeps | apply setBltUnit_keeps | apply jobPixels_keeps
    | refine mkKeeps rfl rfl rfl rfl rfl rfl rfl ?_
    | intro _

theorem purgeBlt_keeps (h : Keeps q0 fz s) :
    Keeps q0 fz (purgeBlt s) := by
  unfold purgeBlt
  with_reducible repeat' first
    | assumption | apply foldl_keeps | (extract_lets; fail_if_success done) | apply keeps_ite <;> intro _ | split
    | apply modPanel_keeps | apply cutJob_keeps | refine mkKeeps rfl rfl rfl rfl rfl rfl rfl ?_
    | intro _

end Sys2Proof.Machine
end

