-- ==== Sys2Proof/Laws/KeepsReset.lean ====
section
/-! SUPPORT. What no command may spoil is kept by the functions of Machine/Reset.lean. -/

namespace Sys2Proof.Machine

set_option Elab.async false

variable {q0 : List Instr} {fz : FuseBits} {s : State}

theorem setCause_keeps {bit : Nat} (h : Keeps q0 fz s) : Keeps q0 fz (setCause bit s) :=
  mkKeeps rfl rfl rfl rfl rfl rfl rfl h

theorem fuseLe_blowBit (i : Nat) (f : FuseBits) : FuseLe f (blowBit i f) := by
  have hp : ∀ m k j, Nat.testBit m j = true → Nat.testBit (m ||| 2 ^ k) j = true := by
    intro m k j hj
    rw [Nat.testBit_or, hj, Bool.true_or]
  unfold blowBit
  extract_lets put
  split
  · exact { FuseLe.refl f with svn := hp _ _ }
  · split
    · exact { FuseLe.refl f with khEc := hp _ _ }
    · split
      · exact { FuseLe.refl f with khPq := hp _ _ }
      · split
        · exact { FuseLe.refl f with lock := fun _ => rfl }
        · exact FuseLe.refl f

theorem FuseLe.trans {a b c : FuseBits} (h1 : FuseLe a b) (h2 : FuseLe b c) : FuseLe a c :=
  ⟨fun i h => h2.svn i (h1.svn i h), fun i h => h2.khEc i (h1.khEc i h), fun i h => h2.khPq i (h1.khPq i h),
    fun h => h2.lock (h1.lock h)⟩

theorem burnCut_keeps (h : Keeps q0 fz s) :
    Keeps q0 fz (burnCut s) := by
  unfold burnCut
  split
  · exact h
  · next i _ =>
    refine freeNext_keeps { h with fuses := ?_ }
    dsimp only
    split
    · exact h.fuses.trans (fuseLe_blowBit i _)
    · exact h.fuses

theorem clearAll_keeps {cold : Bool} {s0 : State} (h : Keeps q0 fz s0) :
    Keeps q0 fz (clearAll cold s0) :=
  have h1 := burnCut_keeps h
  ⟨h1.pending, h1.fuses, List.length_replicate, rfl, (by decide : State.reset.core.wf = true), (by decide : State.reset.pair.commit.wf = true),
    (fun c (e : none = some c) => nomatch e), rfl⟩

theorem resetCause_keeps {cold : Bool} {bit : Nat} (h : Keeps q0 fz s) :
    Keeps q0 fz (resetCause cold bit s) := by
  unfold resetCause
  with_reducible repeat' first
    | assumption | apply foldl_keeps | (extract_lets; fail_if_success done) | apply keeps_ite <;> intro _ | split
    | apply setCause_keeps | apply clearAll_keeps | refine mkKeeps rfl rfl rfl rfl rfl rfl rfl ?_
    | intro _

end Sys2Proof.Machine
end

