-- ==== Sys2Proof/Laws/KeepsAudio.lean ====
section
/-! SUPPORT. What no command may spoil is kept by the functions of Machine/Audio.lean. -/

namespace Sys2Proof.Machine

set_option Elab.async false

variable {q0 : List Instr} {fz : FuseBits} {s : State}

theorem modAudio_keeps {f : Audio → Audio} (h : Keeps q0 fz s) : Keeps q0 fz (modAudio f s) :=
  mkKeeps rfl rfl rfl rfl rfl rfl rfl h

theorem audEvent_keeps {bit source : Nat} (h : Keeps q0 fz s) : Keeps q0 fz (audEvent bit source s) :=
  raise_keeps (mkKeeps rfl rfl rfl rfl rfl rfl rfl h)

theorem satSink_keeps {k : Nat} {i : Int} (h : Keeps q0 fz s) :
    Keeps q0 fz (satSink k i s).2 := by
  unfold satSink
  with_reducible repeat' first
    | assumption | apply foldl_keeps | (extract_lets; fail_if_success done) | apply keeps_ite <;> intro _ | split
    | apply audEvent_keeps | apply keeps_mk_snd | refine mkKeeps rfl rfl rfl rfl rfl rfl rfl ?_
    | intro _

theorem setVoice_keeps {n : Nat} {v : Voice} (h : Keeps q0 fz s) : Keeps q0 fz (setVoice n v s) :=
  mkKeeps rfl rfl rfl rfl rfl rfl rfl h

theorem voiceStep_keeps {n : Nat} (h : Keeps q0 fz s) :
    Keeps q0 fz (voiceStep n s) := by
  unfold voiceStep
  with_reducible repeat' first
    | assumption | apply foldl_keeps | (extract_lets; fail_if_success done) | apply keeps_ite <;> intro _ | split
    | apply audEvent_keeps | apply setVoice_keeps | refine mkKeeps rfl rfl rfl rfl rfl rfl rfl ?_
    | intro _

theorem spWrite_keeps {v : Word} (h : Keeps q0 fz s) :
    Keeps q0 fz (spWrite v s) := by
  unfold spWrite
  with_reducible repeat' first
    | assumption | apply foldl_keeps | (extract_lets; fail_if_success done) | apply keeps_ite <;> intro _ | split
    | apply writeTyped_keeps | apply modAudio_keeps | refine mkKeeps rfl rfl rfl rfl rfl rfl rfl ?_
    | intro _

theorem spApply_keeps (h : Keeps q0 fz s) :
    Keeps q0 fz (spApply s) := by
  unfold spApply
  with_reducible repeat' first
    | assumption | apply foldl_keeps | (extract_lets; fail_if_success done) | apply keeps_ite <;> intro _ | split
    | apply modAudio_keeps | apply spWrite_keeps | refine mkKeeps rfl rfl rfl rfl rfl rfl rfl ?_
    | intro _

theorem spStep_keeps (h : Keeps q0 fz s) :
    Keeps q0 fz (spStep s).2 := by
  unfold spStep
  with_reducible repeat' first
    | assumption | apply foldl_keeps | (extract_lets; fail_if_success done) | apply keeps_ite <;> intro _ | split
    | apply putBit_keeps | apply raiseIf_keeps | apply modAudio_keeps | apply audEvent_keeps | apply keeps_mk_snd
    | refine mkKeeps rfl rfl rfl rfl rfl rfl rfl ?_
    | intro _

theorem streamDry_keeps (h : Keeps q0 fz s) : Keeps q0 fz (streamDry s) := audEvent_keeps h

theorem streamStep_keeps (h : Keeps q0 fz s) :
    Keeps q0 fz (streamStep s).2 := by
  unfold streamStep
  with_reducible repeat' first
    | assumption | apply foldl_keeps | (extract_lets; fail_if_success done) | apply keeps_ite <;> intro _ | split
    | apply finish_keeps | apply modAudio_keeps | apply streamDry_keeps | apply keeps_mk_snd
    | refine mkKeeps rfl rfl rfl rfl rfl rfl rfl ?_
    | intro _

theorem streamStop_keeps (h : Keeps q0 fz s) :
    Keeps q0 fz (streamStop s) := by
  unfold streamStop
  with_reducible repeat' first
    | assumption | apply foldl_keeps | (extract_lets; fail_if_success done) | apply keeps_ite <;> intro _ | split
    | apply finish_keeps | apply finishSt_keeps | apply modAudio_keeps | apply streamDry_keeps
    | refine mkKeeps rfl rfl rfl rfl rfl rfl rfl ?_
    | intro _

theorem purgeAudio_keeps (h : Keeps q0 fz s) : Keeps q0 fz (purgeAudio s) := by
  unfold purgeAudio
  extract_lets l s1
  have h1 : Keeps q0 fz s1 := mkKeeps rfl rfl rfl rfl rfl rfl rfl h
  exact keeps_ite (fun _ => streamDry_keeps h1) fun _ => h1

theorem execAudioStream_keeps {d : DoorId} {tag : Nat} {hostIn : Option Bytes} (h : Keeps q0 fz s) :
    OutKeeps q0 fz (execAudioStream d tag hostIn s) := by
  unfold execAudioStream
  with_reducible repeat' first
    | assumption | apply foldl_keeps | (extract_lets; fail_if_success done) | apply keeps_ite <;> intro _ | split
    | apply live_keeps | apply finishSt_keeps | apply finishR0_keeps | apply dispatch_keeps | apply modAudio_keeps
    | apply next_keeps | refine mkKeeps rfl rfl rfl rfl rfl rfl rfl ?_
    | intro _

theorem modSink_keeps {k : Nat} {f : Sink → Sink} (h : Keeps q0 fz s) : Keeps q0 fz (modSink k f s) :=
  mkKeeps rfl rfl rfl rfl rfl rfl rfl h

theorem eqApply_keeps {k : Nat} (h : Keeps q0 fz s) :
    Keeps q0 fz (eqApply k s) := by
  unfold eqApply
  with_reducible repeat' first
    | assumption | apply foldl_keeps | (extract_lets; fail_if_success done) | apply keeps_ite <;> intro _ | split
    | apply audEvent_keeps | apply modSink_keeps | refine mkKeeps rfl rfl rfl rfl rfl rfl rfl ?_
    | intro _

theorem eqSection_keeps {k j : Nat} {x : Int} (h : Keeps q0 fz s) :
    Keeps q0 fz (eqSection k j x s).2 := by
  unfold eqSection
  with_reducible repeat' first
    | assumption | apply foldl_keeps | (extract_lets; fail_if_success done) | apply keeps_ite <;> intro _ | split
    | apply satSink_keeps | apply modSink_keeps | refine keeps_snd (by assumption) ?_
    | refine keeps_fst (by assumption) ?_ | apply keeps_mk_snd | refine mkKeeps rfl rfl rfl rfl rfl rfl rfl ?_
    | intro _

theorem equalise_keeps {k : Nat} {x : Int} (h : Keeps q0 fz s) :
    Keeps q0 fz (equalise k x s).2 := by
  have hf : ∀ (l : List Nat) (a : Int × State), Keeps q0 fz a.2 →
      Keeps q0 fz (l.foldl (fun a j => eqSection k j a.1 a.2) a).2 := by
    intro l
    induction l with
    | nil => exact fun _ ha => ha
    | cons b r ih => exact fun a ha => ih _ (eqSection_keeps ha)
  exact hf _ (x, s) h

theorem silence_keeps {k : Nat} {y : Int} (h : Keeps q0 fz s) :
    Keeps q0 fz (silence k y s) := by
  unfold silence
  with_reducible repeat' first
    | assumption | apply foldl_keeps | (extract_lets; fail_if_success done) | apply keeps_ite <;> intro _ | split
    | apply audEvent_keeps | apply modSink_keeps | refine mkKeeps rfl rfl rfl rfl rfl rfl rfl ?_
    | intro _

theorem sinksOut_keeps {y0 y1 : Int} (h : Keeps q0 fz s) : Keeps q0 fz (sinksOut y0 y1 s) :=
  emit_keeps (mkKeeps rfl rfl rfl rfl rfl rfl rfl h)

theorem audioApply_keeps (h : Keeps q0 fz s) :
    Keeps q0 fz (audioApply s) := by
  unfold audioApply
  with_reducible repeat' first
    | assumption | apply foldl_keeps | (extract_lets; fail_if_success done) | apply keeps_ite <;> intro _ | split
    | apply live_keeps | apply modAudio_keeps | apply spApply_keeps | apply streamStop_keeps | apply eqApply_keeps
    | refine mkKeeps rfl rfl rfl rfl rfl rfl rfl ?_
    | intro _

theorem countSample_keeps (h : Keeps q0 fz s) :
    Keeps q0 fz (countSample s) := by
  unfold countSample
  with_reducible repeat' first
    | assumption | apply foldl_keeps | (extract_lets; fail_if_success done) | apply keeps_ite <;> intro _ | split
    | apply modAudio_keeps | apply audEvent_keeps | refine mkKeeps rfl rfl rfl rfl rfl rfl rfl ?_
    | intro _

theorem sampleBoundary_keeps (h : Keeps q0 fz s) :
    Keeps q0 fz (sampleBoundary s) := by
  unfold sampleBoundary
  with_reducible repeat' first
    | assumption | apply foldl_keeps | (extract_lets; fail_if_success done) | apply keeps_ite <;> intro _ | split
    | apply modAudio_keeps | apply satSink_keeps | apply voiceStep_keeps | apply spStep_keeps | apply streamStep_keeps
    | apply equalise_keeps | apply silence_keeps | apply sinksOut_keeps | apply audioApply_keeps
    | apply countSample_keeps | refine keeps_snd (by assumption) ?_ | refine keeps_fst (by assumption) ?_
    | refine mkKeeps rfl rfl rfl rfl rfl rfl rfl ?_
    | intro _

theorem execSampleBoundary_keeps (h : Keeps q0 fz s) :
    OutKeeps q0 fz (execSampleBoundary s) := by
  unfold execSampleBoundary
  with_reducible repeat' first
    | assumption | apply foldl_keeps | (extract_lets; fail_if_success done) | apply keeps_ite <;> intro _ | split
    | apply live_keeps | apply sampleBoundary_keeps | apply next_keeps | refine mkKeeps rfl rfl rfl rfl rfl rfl rfl ?_
    | intro _

theorem audioStart_keeps (h : Keeps q0 fz s) :
    Keeps q0 fz (audioStart s) := by
  unfold audioStart
  with_reducible repeat' first
    | assumption | apply foldl_keeps | (extract_lets; fail_if_success done) | apply keeps_ite <;> intro _ | split
    | apply modAudio_keeps | apply setVoice_keeps | refine mkKeeps rfl rfl rfl rfl rfl rfl rfl ?_
    | intro _

theorem audioStop_keeps (h : Keeps q0 fz s) :
    Keeps q0 fz (audioStop s) := by
  unfold audioStop
  with_reducible repeat' first
    | assumption | apply foldl_keeps | (extract_lets; fail_if_success done) | apply keeps_ite <;> intro _ | split
    | apply emit_keeps | apply modSink_keeps | refine mkKeeps rfl rfl rfl rfl rfl rfl rfl ?_
    | intro _

theorem audWrite_keeps {o : Nat} {v : Word} (h : Keeps q0 fz s) :
    Keeps q0 fz (audWrite o v s) := by
  unfold audWrite
  with_reducible repeat' first
    | assumption | apply foldl_keeps | (extract_lets; fail_if_success done) | apply keeps_ite <;> intro _ | split
    | apply writeTyped_keeps | apply modAudio_keeps | apply spWrite_keeps | apply modSink_keeps
    | refine mkKeeps rfl rfl rfl rfl rfl rfl rfl ?_
    | intro _

theorem execVoiceKey_keeps {n : Fin 4} {v : Word} (h : Keeps q0 fz s) : OutKeeps q0 fz (execVoiceKey n v s) :=
  next_keeps (live_keeps (fun _ hx => audWrite_keeps hx) h)

theorem execPrst_keeps {n : Fin 4} {v : Word} (h : Keeps q0 fz s) : OutKeeps q0 fz (execPrst n v s) :=
  next_keeps (live_keeps (fun _ hx => audWrite_keeps hx) h)

theorem execSpRun_keeps {v : Word} (h : Keeps q0 fz s) : OutKeeps q0 fz (execSpRun v s) :=
  next_keeps (live_keeps (fun _ hx => audWrite_keeps hx) h)

theorem execEqCommit_keeps {k : Fin 2} {v : Word} (h : Keeps q0 fz s) : OutKeeps q0 fz (execEqCommit k v s) :=
  next_keeps (live_keeps (fun _ hx => audWrite_keeps hx) h)

theorem execEqClr_keeps {k : Fin 2} {v : Word} (h : Keeps q0 fz s) : OutKeeps q0 fz (execEqClr k v s) :=
  next_keeps (live_keeps (fun _ hx => audWrite_keeps hx) h)

end Sys2Proof.Machine
end

