-- ==== Sys2Proof/Laws/KeepsPins.lean ====
section
/-! SUPPORT. What no command may spoil is kept by the functions of Machine/Pins.lean. -/

namespace Sys2Proof.Machine

set_option Elab.async false

variable {q0 : List Instr} {fz : FuseBits} {s : State}

theorem setPins_keeps {p : Pins} (h : Keeps q0 fz s) : Keeps q0 fz (setPins p s) := mkKeeps rfl rfl rfl rfl rfl rfl rfl h

theorem pinsHold_keeps (h : Keeps q0 fz s) : Keeps q0 fz (pinsHold s) := mkKeeps rfl rfl rfl rfl rfl rfl rfl h

theorem padsLatch_keeps (h : Keeps q0 fz s) : Keeps q0 fz (padsLatch s) := mkKeeps rfl rfl rfl rfl rfl rfl rfl h

theorem pinSettle_keeps (h : Keeps q0 fz s) :
    Keeps q0 fz (pinSettle s) := by
  unfold pinSettle
  with_reducible repeat' first
    | assumption | apply foldl_keeps | (extract_lets; fail_if_success done) | apply keeps_ite <;> intro _ | split
    | refine mkKeeps rfl rfl rfl rfl rfl rfl rfl ?_
    | intro _

theorem lockedWrite_keeps {a b : Nat} {v : Word} (h : Keeps q0 fz s) : Keeps q0 fz (lockedWrite a b v s) :=
  pinSettle_keeps (mkKeeps rfl rfl rfl rfl rfl rfl rfl h)

theorem outSet_keeps {b : Nat} {m : Word} (h : Keeps q0 fz s) : Keeps q0 fz (outSet b m s) :=
  mkKeeps rfl rfl rfl rfl rfl rfl rfl h

theorem outClear_keeps {b : Nat} {m : Word} (h : Keeps q0 fz s) : Keeps q0 fz (outClear b m s) :=
  mkKeeps rfl rfl rfl rfl rfl rfl rfl h

theorem outBit_keeps {n : Nat} {high : Bool} (h : Keeps q0 fz s) : Keeps q0 fz (outBit n high s) :=
  mkKeeps rfl rfl rfl rfl rfl rfl rfl h

theorem lockWrite_keeps {b : Nat} {v : Word} (h : Keeps q0 fz s) :
    Keeps q0 fz (lockWrite b v s) := by
  unfold lockWrite
  with_reducible repeat' first
    | assumption | apply foldl_keeps | (extract_lets; fail_if_success done) | apply keeps_ite <;> intro _ | split
    | apply setReg_keeps | apply setPins_keeps | refine mkKeeps rfl rfl rfl rfl rfl rfl rfl ?_
    | intro _

theorem gpioWrite_keeps {o : Nat} {v : Word} (h : Keeps q0 fz s) :
    Keeps q0 fz (gpioWrite o v s) := by
  unfold gpioWrite
  with_reducible repeat' first
    | assumption | apply foldl_keeps | (extract_lets; fail_if_success done) | apply keeps_ite <;> intro _ | split
    | apply writeTyped_keeps | apply lockedWrite_keeps | apply outSet_keeps | apply outClear_keeps
    | apply lockWrite_keeps | refine mkKeeps rfl rfl rfl rfl rfl rfl rfl ?_
    | intro _

theorem gpioEdge_keeps {n : Nat} {rising : Bool} (h : Keeps q0 fz s) :
    Keeps q0 fz (gpioEdge n rising s) := by
  unfold gpioEdge
  with_reducible repeat' first
    | assumption | apply foldl_keeps | (extract_lets; fail_if_success done) | apply keeps_ite <;> intro _ | split
    | apply putBit_keeps | apply raiseIf_keeps | apply setPins_keeps | refine mkKeeps rfl rfl rfl rfl rfl rfl rfl ?_
    | intro _

theorem execGpioEdge_keeps {n : Fin 48} {rising : Bool} (h : Keeps q0 fz s) : OutKeeps q0 fz (execGpioEdge n rising s) :=
  next_keeps (live_keeps (fun _ hx => gpioEdge_keeps hx) h)

theorem execOutset_keeps {b : Fin 3} {v : Word} (h : Keeps q0 fz s) : OutKeeps q0 fz (execOutset b v s) :=
  next_keeps (live_keeps (fun _ hx => outSet_keeps hx) h)

theorem execOutclr_keeps {b : Fin 3} {v : Word} (h : Keeps q0 fz s) : OutKeeps q0 fz (execOutclr b v s) :=
  next_keeps (live_keeps (fun _ hx => outClear_keeps hx) h)

theorem execLockSequence_keeps {b : Fin 3} {v : Word} (h : Keeps q0 fz s) : OutKeeps q0 fz (execLockSequence b v s) :=
  next_keeps (live_keeps (fun _ hx => lockWrite_keeps hx) h)

theorem gpResolve_keeps {n : Nat} {high : Bool} (h : Keeps q0 fz s) :
    Keeps q0 fz (gpResolve n high s) := by
  unfold gpResolve
  with_reducible repeat' first
    | assumption | apply foldl_keeps | (extract_lets; fail_if_success done) | apply keeps_ite <;> intro _ | split
    | apply putBit_keeps | apply setPins_keeps | refine mkKeeps rfl rfl rfl rfl rfl rfl rfl ?_
    | intro _

end Sys2Proof.Machine
end

