-- ==== Sys2Proof/Laws/KeepsFans.lean ====
section
/-! SUPPORT. What no command may spoil is kept by the functions of Machine/Fans.lean. -/

namespace Sys2Proof.Machine

set_option Elab.async false

variable {q0 : List Instr} {fz : FuseBits} {s : State}

theorem setFans_keeps {f : Fans} (h : Keeps q0 fz s) : Keeps q0 fz (setFans f s) := mkKeeps rfl rfl rfl rfl rfl rfl rfl h

theorem setTach_keeps {n : Nat} {t : Tach} (h : Keeps q0 fz s) : Keeps q0 fz (setTach n t s) :=
  mkKeeps rfl rfl rfl rfl rfl rfl rfl h

theorem tapEmit_keeps (h : Keeps q0 fz s) :
    Keeps q0 fz (tapEmit s) := by
  unfold tapEmit
  with_reducible repeat' first
    | assumption | apply foldl_keeps | (extract_lets; fail_if_success done) | apply keeps_ite <;> intro _ | split
    | apply emit_keeps | refine mkKeeps rfl rfl rfl rfl rfl rfl rfl ?_
    | intro _

theorem tripDrives_keeps (h : Keeps q0 fz s) : Keeps q0 fz (tripDrives s) :=
  keeps_ite (fun _ => tapEmit_keeps h) (fun _ => h)

theorem tachSettle_keeps {was : State} {n : Nat} (h : Keeps q0 fz s) :
    Keeps q0 fz (tachSettle was n s) := by
  unfold tachSettle
  with_reducible repeat' first
    | assumption | apply foldl_keeps | (extract_lets; fail_if_success done) | apply keeps_ite <;> intro _ | split
    | apply setTach_keeps | refine mkKeeps rfl rfl rfl rfl rfl rfl rfl ?_
    | intro _

theorem tachEdge_keeps {n : Nat} (h : Keeps q0 fz s) :
    Keeps q0 fz (tachEdge n s) := by
  unfold tachEdge
  with_reducible repeat' first
    | assumption | apply foldl_keeps | (extract_lets; fail_if_success done) | apply keeps_ite <;> intro _ | split
    | apply setRegN_keeps | apply setTach_keeps | apply tachSettle_keeps | refine mkKeeps rfl rfl rfl rfl rfl rfl rfl ?_
    | intro _

theorem execTachEdge_keeps {n : Fin 3} (h : Keeps q0 fz s) :
    OutKeeps q0 fz (execTachEdge n s) := by
  unfold execTachEdge
  with_reducible repeat' first
    | assumption | apply foldl_keeps | (extract_lets; fail_if_success done) | apply keeps_ite <;> intro _ | split
    | apply live_keeps | apply tachEdge_keeps | apply next_keeps | refine mkKeeps rfl rfl rfl rfl rfl rfl rfl ?_
    | intro _

theorem execFanFault_keeps {n : Fin 4} (h : Keeps q0 fz s) :
    OutKeeps q0 fz (execFanFault n s) := by
  unfold execFanFault
  with_reducible repeat' first
    | assumption | apply foldl_keeps | (extract_lets; fail_if_success done) | apply keeps_ite <;> intro _ | split
    | apply live_keeps | apply putBit_keeps | apply raise_keeps | apply setTach_keeps | apply next_keeps
    | refine mkKeeps rfl rfl rfl rfl rfl rfl rfl ?_
    | intro _

theorem execFanTableEval_keeps (h : Keeps q0 fz s) : OutKeeps q0 fz (execFanTableEval s) :=
  next_keeps (live_keeps (fun _ hx => setFans_keeps hx) h)

theorem fanWdogStart_keeps (h : Keeps q0 fz s) : Keeps q0 fz (fanWdogStart s) := mkKeeps rfl rfl rfl rfl rfl rfl rfl h

theorem fanWdogStop_keeps (h : Keeps q0 fz s) : Keeps q0 fz (fanWdogStop s) := mkKeeps rfl rfl rfl rfl rfl rfl rfl h

theorem fanKick_keeps {v : Word} (h : Keeps q0 fz s) :
    Keeps q0 fz (fanKick v s) := by
  unfold fanKick
  with_reducible repeat' first
    | assumption | apply foldl_keeps | (extract_lets; fail_if_success done) | apply keeps_ite <;> intro _ | split
    | apply setFans_keeps | apply fanWdogStart_keeps | refine mkKeeps rfl rfl rfl rfl rfl rfl rfl ?_
    | intro _

theorem execFanKick_keeps {v : Word} (h : Keeps q0 fz s) : OutKeeps q0 fz (execFanKick v s) :=
  next_keeps (live_keeps (fun _ hx => fanKick_keeps hx) h)

theorem fanCtrlWrite_keeps {v : Word} (h : Keeps q0 fz s) :
    Keeps q0 fz (fanCtrlWrite v s) := by
  unfold fanCtrlWrite
  with_reducible repeat' first
    | assumption | apply foldl_keeps | (extract_lets; fail_if_success done) | apply keeps_ite <;> intro _ | split
    | apply putBit_keeps | apply writeTyped_keeps | apply fanWdogStart_keeps | apply fanWdogStop_keeps
    | refine mkKeeps rfl rfl rfl rfl rfl rfl rfl ?_
    | intro _

theorem execManual_keeps {v : Word} (h : Keeps q0 fz s) : OutKeeps q0 fz (execManual v s) :=
  next_keeps (live_keeps (fun _ hx => fanCtrlWrite_keeps hx) h)

theorem execFanTakeover_keeps (h : Keeps q0 fz s) :
    OutKeeps q0 fz (execFanTakeover s) := by
  unfold execFanTakeover
  with_reducible repeat' first
    | assumption | apply foldl_keeps | (extract_lets; fail_if_success done) | apply keeps_ite <;> intro _ | split
    | apply live_keeps | apply putBit_keeps | apply raise_keeps | apply setFans_keeps | apply next_keeps
    | refine mkKeeps rfl rfl rfl rfl rfl rfl rfl ?_
    | intro _

theorem fanAuto_keeps (h : Keeps q0 fz s) :
    Keeps q0 fz (fanAuto s) := by
  unfold fanAuto
  with_reducible repeat' first
    | assumption | apply foldl_keeps | (extract_lets; fail_if_success done) | apply keeps_ite <;> intro _ | split
    | apply putBit_keeps | apply fanWdogStop_keeps | refine mkKeeps rfl rfl rfl rfl rfl rfl rfl ?_
    | intro _

theorem gateSettle_keeps {was : List (Option Nat)} (h : Keeps q0 fz s) : Keeps q0 fz (gateSettle was s) :=
  keeps_ite (fun _ => h) (fun _ => emit_keeps (setFans_keeps h))

theorem f3To_keeps {st : Nat} (h : Keeps q0 fz s) :
    Keeps q0 fz (f3To st s) := by
  unfold f3To
  with_reducible repeat' first
    | assumption | apply foldl_keeps | (extract_lets; fail_if_success done) | apply keeps_ite <;> intro _ | split
    | apply raise_keeps | apply setFans_keeps | apply gateSettle_keeps | refine mkKeeps rfl rfl rfl rfl rfl rfl rfl ?_
    | intro _

theorem hallErr_keeps (h : Keeps q0 fz s) : Keeps q0 fz (hallErr s) := raise_keeps (mkKeeps rfl rfl rfl rfl rfl rfl rfl h)

theorem hallChange_keeps {code : Nat} (h : Keeps q0 fz s) :
    Keeps q0 fz (hallChange code s) := by
  unfold hallChange
  with_reducible repeat' first
    | assumption | apply foldl_keeps | (extract_lets; fail_if_success done) | apply keeps_ite <;> intro _ | split
    | apply setFans_keeps | apply tachEdge_keeps | apply hallErr_keeps | apply gateSettle_keeps | refine mkKeeps rfl rfl rfl rfl rfl rfl rfl ?_
    | intro _

theorem execHallChange_keeps {code : Fin 8} (h : Keeps q0 fz s) : OutKeeps q0 fz (execHallChange code s) :=
  next_keeps (live_keeps (fun _ hx => hallChange_keeps hx) h)

theorem execFan3Trip_keeps (h : Keeps q0 fz s) :
    OutKeeps q0 fz (execFan3Trip s) := by
  unfold execFan3Trip
  with_reducible repeat' first
    | assumption | apply foldl_keeps | (extract_lets; fail_if_success done) | apply keeps_ite <;> intro _ | split
    | apply live_keeps | apply putBit_keeps | apply raise_keeps | apply setFans_keeps | apply f3To_keeps
    | apply next_keeps | apply tripDrives_keeps | refine mkKeeps rfl rfl rfl rfl rfl rfl rfl ?_
    | intro _

theorem execF3TripRelease_keeps (h : Keeps q0 fz s) :
    OutKeeps q0 fz (execF3TripRelease s) := by
  unfold execF3TripRelease
  with_reducible repeat' first
    | assumption | apply foldl_keeps | (extract_lets; fail_if_success done) | apply keeps_ite <;> intro _ | split
    | apply live_keeps | apply raiseIf_keeps | apply setFans_keeps | apply next_keeps
    | apply tripDrives_keeps | refine mkKeeps rfl rfl rfl rfl rfl rfl rfl ?_
    | intro _

theorem f3Command_keeps {v : Word} (h : Keeps q0 fz s) :
    Keeps q0 fz (f3Command v s) := by
  unfold f3Command
  with_reducible repeat' first
    | assumption | apply foldl_keeps | (extract_lets; fail_if_success done) | apply keeps_ite <;> intro _ | split
    | apply putBit_keeps | apply setFans_keeps | apply f3To_keeps | refine mkKeeps rfl rfl rfl rfl rfl rfl rfl ?_
    | intro _

theorem execF3Clr_keeps (h : Keeps q0 fz s) : OutKeeps q0 fz (execF3Clr s) :=
  next_keeps (live_keeps (fun _ hx => f3Command_keeps hx) h)

theorem execF3Arm_keeps (h : Keeps q0 fz s) : OutKeeps q0 fz (execF3Arm s) :=
  next_keeps (live_keeps (fun _ hx => f3Command_keeps hx) h)

theorem execF3Disarm_keeps (h : Keeps q0 fz s) : OutKeeps q0 fz (execF3Disarm s) :=
  next_keeps (live_keeps (fun _ hx => f3Command_keeps hx) h)

theorem pwmTake_keeps (h : Keeps q0 fz s) :
    Keeps q0 fz (pwmTake s) := by
  unfold pwmTake
  with_reducible repeat' first
    | assumption | apply foldl_keeps | (extract_lets; fail_if_success done) | apply keeps_ite <;> intro _ | split
    | apply setRegN_keeps | apply setFans_keeps | apply tachSettle_keeps
    | refine mkKeeps rfl rfl rfl rfl rfl rfl rfl ?_
    | intro _

theorem pwmStart_keeps (h : Keeps q0 fz s) :
    Keeps q0 fz (pwmStart s) := by
  unfold pwmStart
  with_reducible repeat' first
    | assumption | apply foldl_keeps | (extract_lets; fail_if_success done) | apply keeps_ite <;> intro _ | split
    | apply emit_keeps | apply pwmTake_keeps | apply gateSettle_keeps | apply f3To_keeps | apply hallErr_keeps
    | refine mkKeeps rfl rfl rfl rfl rfl rfl rfl ?_
    | intro _

theorem execPwmPeriodStart_keeps (h : Keeps q0 fz s) : OutKeeps q0 fz (execPwmPeriodStart s) :=
  next_keeps (live_keeps (fun _ hx => pwmStart_keeps hx) h)

theorem fanResolve_keeps {i : Nat} {f : Fans → Fans} (h : Keeps q0 fz s) :
    Keeps q0 fz (fanResolve i f s) := by
  unfold fanResolve
  with_reducible repeat' first
    | assumption | apply foldl_keeps | (extract_lets; fail_if_success done) | apply keeps_ite <;> intro _ | split
    | apply setFans_keeps | refine mkKeeps rfl rfl rfl rfl rfl rfl rfl ?_
    | intro _

theorem execInputResolved_keeps {i : InputPin} {high : Bool} (h : Keeps q0 fz s) :
    OutKeeps q0 fz (execInputResolved i high s) := by
  unfold execInputResolved
  with_reducible repeat' first
    | assumption | apply foldl_keeps | (extract_lets; fail_if_success done) | apply keeps_ite <;> intro _ | split
    | apply live_keeps | apply gpResolve_keeps | apply hallChange_keeps | apply fanResolve_keeps | apply next_keeps
    | apply tripDrives_keeps | refine mkKeeps rfl rfl rfl rfl rfl rfl rfl ?_
    | intro _

theorem fanWrite_keeps {o : Nat} {v : Word} (h : Keeps q0 fz s) :
    Keeps q0 fz (fanWrite o v s) := by
  unfold fanWrite
  with_reducible repeat' first
    | assumption | apply foldl_keeps | (extract_lets; fail_if_success done) | apply keeps_ite <;> intro _ | split
    | apply writeTyped_keeps | apply tachSettle_keeps | apply fanKick_keeps | apply fanCtrlWrite_keeps
    | apply f3Command_keeps | refine mkKeeps rfl rfl rfl rfl rfl rfl rfl ?_
    | intro _

end Sys2Proof.Machine
end

