-- ==== Sys2Proof/Laws/KeepsModules.lean ====
section
/-! SUPPORT. What no command may spoil is kept by the functions of Machine/Modules.lean. -/

namespace Sys2Proof.Machine

set_option Elab.async false

variable {q0 : List Instr} {fz : FuseBits} {s : State}

theorem setI2c_keeps {n : Nat} {c : I2cCtl} (h : Keeps q0 fz s) : Keeps q0 fz (setI2c n c s) :=
  mkKeeps rfl rfl rfl rfl rfl rfl rfl h

theorem selectFor_keeps {n : Nat} {x : I2cXfer} (h : Keeps q0 fz s) :
    Keeps q0 fz (selectFor n x s) := by
  unfold selectFor
  with_reducible repeat' first
    | assumption | apply foldl_keeps | (extract_lets; fail_if_success done) | apply keeps_ite <;> intro _ | split
    | apply outBit_keeps | apply setI2c_keeps | refine mkKeeps rfl rfl rfl rfl rfl rfl rfl ?_
    | intro _

theorem xferNote_keeps {n : Nat} {x : I2cXfer} {detail count : Nat} {data : Option Bytes} (h : Keeps q0 fz s) :
    Keeps q0 fz (xferNote n x detail count data s) := finish_keeps (raise_keeps h)

theorem busSend_keeps {n : Nat} {l : List I2cBit} (h : Keeps q0 fz s) :
    Keeps q0 fz (busSend n l s) := by
  unfold busSend
  with_reducible repeat' first
    | assumption | apply foldl_keeps | (extract_lets; fail_if_success done) | apply keeps_ite <;> intro _ | split
    | apply emit_keeps | refine mkKeeps rfl rfl rfl rfl rfl rfl rfl ?_
    | intro _

theorem i2cStart_keeps {a0 a1 : Nat} (h : Keeps q0 fz s) :
    Keeps q0 fz (i2cStart a0 a1 s) := by
  induction a0 generalizing a1 s with
  | zero =>
    simp only [i2cStart]; assumption
  | succ n ih =>
    unfold i2cStart
    with_reducible repeat' first
      | assumption | apply foldl_keeps | (extract_lets; fail_if_success done) | apply keeps_ite <;> intro _ | split
      | apply ih | apply xferNote_keeps | apply setI2c_keeps | apply modCmd_keeps | apply selectFor_keeps
      | apply busSend_keeps | refine mkKeeps rfl rfl rfl rfl rfl rfl rfl ?_
      | intro _

theorem i2cPump_keeps {n : Nat} (h : Keeps q0 fz s) : Keeps q0 fz (i2cPump n s) := i2cStart_keeps h

theorem execModuleXfer_keeps {d : DoorId} {tag : Nat} {hostIn : Option Bytes} (h : Keeps q0 fz s) :
    OutKeeps q0 fz (execModuleXfer d tag hostIn s) := by
  unfold execModuleXfer
  with_reducible repeat' first
    | assumption | apply foldl_keeps | (extract_lets; fail_if_success done) | apply keeps_ite <;> intro _ | split
    | apply live_keeps | apply finishSt_keeps | apply finishR0_keeps | apply dispatch_keeps | apply badValue_keeps
    | apply setI2c_keeps | apply i2cPump_keeps | apply next_keeps | refine mkKeeps rfl rfl rfl rfl rfl rfl rfl ?_
    | intro _

theorem i2cEnd_keeps {n : Nat} {detail : Option Nat} {k : Nat} {data : Bytes} (h : Keeps q0 fz s) :
    Keeps q0 fz (i2cEnd n detail k data s) := by
  unfold i2cEnd
  with_reducible repeat' first
    | assumption | apply foldl_keeps | (extract_lets; fail_if_success done) | apply keeps_ite <;> intro _ | split
    | apply setI2c_keeps | apply xferNote_keeps | apply busSend_keeps | apply finish_keeps | apply i2cPump_keeps
    | refine mkKeeps rfl rfl rfl rfl rfl rfl rfl ?_
    | intro _

theorem execI2cTransactionDone_keeps {n : Fin 4} {r : I2cResult} (h : Keeps q0 fz s) :
    OutKeeps q0 fz (execI2cTransactionDone n r s) := by
  unfold execI2cTransactionDone
  with_reducible repeat' first
    | assumption | apply foldl_keeps | (extract_lets; fail_if_success done) | apply keeps_ite <;> intro _ | split
    | apply live_keeps | apply i2cEnd_keeps | apply next_keeps | refine mkKeeps rfl rfl rfl rfl rfl rfl rfl ?_
    | intro _

theorem execI2cBusTimeout_keeps {n : Fin 4} {count : Nat} {data : Bytes} (h : Keeps q0 fz s) :
    OutKeeps q0 fz (execI2cBusTimeout n count data s) := next_keeps (live_keeps (fun _ hx => i2cEnd_keeps hx) h)

theorem purgeI2c_keeps (h : Keeps q0 fz s) :
    Keeps q0 fz (purgeI2c s) := by
  unfold purgeI2c
  with_reducible repeat' first
    | assumption | apply foldl_keeps | (extract_lets; fail_if_success done) | apply keeps_ite <;> intro _ | split
    | apply setI2c_keeps | apply i2cPump_keeps | refine mkKeeps rfl rfl rfl rfl rfl rfl rfl ?_
    | intro _

end Sys2Proof.Machine
end

