-- ==== Sys2Proof/Laws/KeepsFuses.lean ====
section
/-! SUPPORT. What no command may spoil is kept by the functions of Machine/Fuses.lean. -/

namespace Sys2Proof.Machine

set_option Elab.async false

variable {q0 : List Instr} {fz : FuseBits} {s : State}

theorem fpkeyWrite_keeps {v : Word} (h : Keeps q0 fz s) :
    Keeps q0 fz (fpkeyWrite v s) := by
  unfold fpkeyWrite
  with_reducible repeat' first
    | assumption | apply foldl_keeps | (extract_lets; fail_if_success done) | apply keeps_ite <;> intro _ | split
    | apply putBit_keeps | refine mkKeeps rfl rfl rfl rfl rfl rfl rfl ?_
    | intro _

theorem execFpkey_keeps {key : Word} (h : Keeps q0 fz s) : OutKeeps q0 fz (execFpkey key s) :=
  next_keeps (live_keeps (fun _ hx => fpkeyWrite_keeps hx) h)

theorem execFuseBurnDone_keeps (h : Keeps q0 fz s) :
    OutKeeps q0 fz (execFuseBurnDone s) := by
  refine next_keeps (live_keeps (fun s h => ?_) h)
  split
  · exact h
  · next i _ => exact putBit_keeps { h with fuses := h.fuses.trans (fuseLe_blowBit i _) }

theorem senseFuses_keeps (h : Keeps q0 fz s) : Keeps q0 fz (senseFuses s) := mkKeeps rfl rfl rfl rfl rfl rfl rfl h

theorem idnWrite_keeps {o : Nat} {v : Word} (h : Keeps q0 fz s) :
    Keeps q0 fz (idnWrite o v s) := by
  unfold idnWrite
  with_reducible repeat' first
    | assumption | apply foldl_keeps | (extract_lets; fail_if_success done) | apply keeps_ite <;> intro _ | split
    | apply putBit_keeps | apply writeTyped_keeps | apply fpkeyWrite_keeps
    | refine mkKeeps rfl rfl rfl rfl rfl rfl rfl ?_
    | intro _

end Sys2Proof.Machine
end

