-- ==== Sys2Proof/Laws/KeepsFlash.lean ====
section
/-! SUPPORT. What no command may spoil is kept by the functions of Machine/Flash.lean. -/

namespace Sys2Proof.Machine

set_option Elab.async false

variable {q0 : List Instr} {fz : FuseBits} {s : State}

/-- A fold that carries a state in a pair. -/
theorem foldl_snd_keeps {α β : Type} {f : α × State → β → α × State} {l : List β} {x : α × State}
    (hf : ∀ x b, Keeps q0 fz x.2 → Keeps q0 fz (f x b).2) (h : Keeps q0 fz x.2) : Keeps q0 fz (l.foldl f x).2 := by
  induction l generalizing x with
  | nil => exact h
  | cons b r ih => exact ih (hf x b h)

theorem modNand_keeps {f : Nand → Nand} (h : Keeps q0 fz s) : Keeps q0 fz (modNand f s) :=
  mkKeeps rfl rfl rfl rfl rfl rfl rfl h

theorem modVat_keeps {f : Vat → Vat} (h : Keeps q0 fz s) : Keeps q0 fz (modVat f s) := mkKeeps rfl rfl rfl rfl rfl rfl rfl h

theorem modBlk_keeps {b : Nat} {f : Blk → Blk} (h : Keeps q0 fz s) : Keeps q0 fz (modBlk b f s) :=
  mkKeeps rfl rfl rfl rfl rfl rfl rfl h

theorem putSector_keeps {key loc m : Nat} {bs : Bytes} (h : Keeps q0 fz s) : Keeps q0 fz (putSector key bs loc m s) :=
  modNand_keeps h

theorem wornOut_keeps (h : Keeps q0 fz s) : Keeps q0 fz (wornOut s) := raise_keeps (modVat_keeps h)

theorem settleSpare_keeps {before : Nat} (h : Keeps q0 fz s) : Keeps q0 fz (settleSpare before s) := by
  unfold settleSpare
  extract_lets now s1
  have h1 : Keeps q0 fz s1 := raiseIf_keeps h
  exact keeps_ite (fun _ => wornOut_keeps h1) fun _ => h1

theorem noteSpare_keeps (h : Keeps q0 fz s) : Keeps q0 fz (noteSpare s) := settleSpare_keeps h

theorem erased_keeps {b : Nat} (h : Keeps q0 fz s) : Keeps q0 fz (erased b s) := modBlk_keeps h

theorem eraseBlk_keeps {b : Nat} (h : Keeps q0 fz s) : Keeps q0 fz (eraseBlk b s) := erased_keeps (emit_keeps h)

theorem countPage_keeps {host : Bool} (h : Keeps q0 fz s) : Keeps q0 fz (countPage host s) := by
  unfold countPage
  extract_lets s1
  have h1 : Keeps q0 fz s1 := setReg_keeps h
  exact keeps_ite (fun _ => setReg_keeps h1) fun _ => h1

theorem programIn_keeps {b : Nat} {cws : List Bytes} (h : Keeps q0 fz s) : Keeps q0 fz (programIn b cws s).2 := by
  unfold programIn
  extract_lets g p
  exact emit_keeps (modBlk_keeps h)

theorem takeBlk_keeps {kind : Nat} {p : Nat × State} (e : takeBlk kind s = some p) (h : Keeps q0 fz s) :
    Keeps q0 fz p.2 := by
  unfold takeBlk at e
  split at e
  · exact Option.some.inj e ▸ h
  · obtain ⟨b, -, rfl⟩ := Option.map_eq_some_iff.1 e
    exact eraseBlk_keeps h

theorem fillBlk_keeps {kind b : Nat} (h : Keeps q0 fz s) : Keeps q0 fz (fillBlk kind b s) := modNand_keeps h

theorem programRaw_keeps {kind : Nat} {cws : List Bytes} {p : Nat × State} (e : programRaw kind cws s = some p)
    (h : Keeps q0 fz s) : Keeps q0 fz p.2 := by
  unfold programRaw at e
  split at e
  · exact Option.some.inj e ▸ programIn_keeps h
  · obtain ⟨t, ht, rfl⟩ := Option.map_eq_some_iff.1 e
    exact programIn_keeps (fillBlk_keeps (takeBlk_keeps ht h))

theorem programSecs_keeps {kind : Nat} {secs : List Bytes} {p : Nat × Nat × State} (e : programSecs kind secs s = some p)
    (h : Keeps q0 fz s) : Keeps q0 fz p.2.2 := by
  unfold programSecs at e
  obtain ⟨t, ht, rfl⟩ := Option.map_eq_some_iff.1 e
  have hk : Keeps q0 fz t.2 := programRaw_keeps ht (mkKeeps rfl rfl rfl rfl rfl rfl rfl h)
  exact hk

theorem placeSecs_keeps {keys : List Nat} {secs : List Bytes} {a m : Nat} (h : Keeps q0 fz s) :
    Keeps q0 fz (placeSecs keys secs a m s) := foldl_keeps (fun _ _ hx => putSector_keeps hx) h

theorem moveSectors_keeps {n : Nat} {keys : List Nat} (h : Keeps q0 fz s) : Keeps q0 fz (moveSectors n keys s) := by
  induction n generalizing keys s with
  | zero => exact h
  | succ n ih =>
    unfold moveSectors
    split
    · exact h
    · extract_lets here secs
      split
      · exact h
      · exact ih (placeSecs_keeps (countPage_keeps (programSecs_keeps (by assumption) h)))

theorem reclaim_keeps {kind : Nat} (h : Keeps q0 fz s) : Keeps q0 fz (reclaim kind s) := by
  unfold reclaim
  refine keeps_ite (fun _ => h) fun _ => ?_
  extract_lets room full
  split
  · exact h
  · extract_lets keys s1
    have h1 : Keeps q0 fz s1 := moveSectors_keeps h
    exact keeps_ite (fun _ => eraseBlk_keeps h1) fun _ => h1

theorem makeRoom_keeps {kind : Nat} (h : Keeps q0 fz s) : Keeps q0 fz (makeRoom kind s) := by
  unfold makeRoom
  split
  · exact h
  · exact reclaim_keeps h

theorem programOwn_keeps {kind : Nat} {p : Nat × State} (e : programOwn kind s = some p) (h : Keeps q0 fz s) :
    Keeps q0 fz p.2 := programRaw_keeps e (makeRoom_keeps (mkKeeps rfl rfl rfl rfl rfl rfl rfl h))

theorem writeOwn_keeps {kind : Nat} (h : Keeps q0 fz s) : Keeps q0 fz (writeOwn kind s) := by
  unfold writeOwn
  split
  · exact h
  · exact countPage_keeps (programOwn_keeps (by assumption) h)

theorem writeTables_keeps (h : Keeps q0 fz s) : Keeps q0 fz (writeTables s) :=
  keeps_ite (fun _ => writeOwn_keeps (writeOwn_keeps h)) fun _ => h

theorem vatCheckpoint_keeps (h : Keeps q0 fz s) : Keeps q0 fz (vatCheckpoint s) :=
  freeNext_keeps (foldl_keeps (fun _ _ hx => writeOwn_keeps hx) (modNand_keeps h))

theorem closeBlk_keeps {b : Nat} (h : Keeps q0 fz s) : Keeps q0 fz (closeBlk b s) := modNand_keeps h

theorem redoPages_keeps {b : Nat} (h : Keeps q0 fz s) : Keeps q0 fz (redoPages b s) := by
  unfold redoPages
  split
  · exact h
  · split
    · exact h
    · refine modVat_keeps (foldl_snd_keeps (fun x e hx => ?_) h)
      split
      · split
        · exact hx
        · rename_i e
          have hk := programSecs_keeps e hx
          exact keeps_mk_snd (countPage_keeps hk)
      · exact hx

theorem refillPool_keeps {b : Nat} (h : Keeps q0 fz s) : Keeps q0 fz (refillPool b s) := by
  unfold refillPool
  refine keeps_ite (fun _ => ?_) fun _ => h
  extract_lets s1
  have h1 : Keeps q0 fz s1 := modNand_keeps h
  split
  · exact h1
  · exact modNand_keeps (takeBlk_keeps (by assumption) h1)

theorem retireBlk_keeps {move : Bool} {b : Nat} (h : Keeps q0 fz s) : Keeps q0 fz (retireBlk move b s) := by
  unfold retireBlk
  extract_lets before s1 keys s2
  have h1 : Keeps q0 fz s1 := refillPool_keeps (closeBlk_keeps (modBlk_keeps h))
  have h2 : Keeps q0 fz s2 := keeps_ite (fun _ => redoPages_keeps (moveSectors_keeps h1)) fun _ => h1
  exact settleSpare_keeps (raise_keeps (writeTables_keeps h2))

theorem readMet_keeps {b : Nat} {outs : List (Option Nat)} (h : Keeps q0 fz s) : Keeps q0 fz (readMet b outs s) := by
  unfold readMet
  extract_lets thresh limit mended lost s1 s2 s3 s4
  have h1 : Keeps q0 fz s1 := foldl_keeps (fun _ _ hx => incReg_keeps hx) h
  have h2 : Keeps q0 fz s2 := foldl_keeps (fun _ _ hx => raise_keeps (incReg_keeps hx)) h1
  have h3 : Keeps q0 fz s3 := modBlk_keeps h2
  have h4 : Keeps q0 fz s4 := keeps_ite (fun _ => raise_keeps (modBlk_keeps h3)) fun _ => h3
  exact keeps_ite (fun _ => retireBlk_keeps h4) fun _ => h4

theorem bootFetch_keeps {r first n : Nat} {errs : List CwErr} (h : Keeps q0 fz s) :
    Keeps q0 fz (bootFetch r first n errs s).2.2 := by
  unfold bootFetch
  extract_lets secs out outs lost s1
  refine foldl_keeps (fun x g hx => ?_) h
  split
  · exact hx
  · exact readMet_keeps hx

theorem sweepPool_keeps {fails : List Nat} (h : Keeps q0 fz s) : Keeps q0 fz (sweepPool fails s) :=
  foldl_keeps (fun _ _ hx => keeps_ite (fun _ => keeps_ite (fun _ => retireBlk_keeps hx)
    fun _ => eraseBlk_keeps (closeBlk_keeps hx)) fun _ => hx) h

end Sys2Proof.Machine
end

