-- ==== Sys2Proof/Laws/KeepsStore.lean ====
section
/-! SUPPORT. What no command may spoil is kept by the functions of Machine/Store.lean. -/

namespace Sys2Proof.Machine

set_option Elab.async false

variable {q0 : List Instr} {fz : FuseBits} {s : State}

theorem formatPool_keeps {fails a0 : List Nat} {a1 : Nat} (h : Keeps q0 fz s) : Keeps q0 fz (formatPool fails a0 a1 s) := by
  induction a0 generalizing a1 s with
  | nil => exact h
  | cons b r ih =>
    cases a1 with
    | zero => exact h
    | succ n =>
      exact keeps_ite (fun _ => ih (modNand_keeps h)) fun _ =>
        keeps_ite (fun _ => ih (raise_keeps (modBlk_keeps (emit_keeps h)))) fun _ => ih (modNand_keeps (eraseBlk_keeps h))

theorem formatNow_keeps {lower : List Nat} {r : NandResult} (h : Keeps q0 fz s) : Keeps q0 fz (formatNow lower r s).2 := by
  unfold formatNow
  extract_lets n marks s1 per
  have h1 : Keeps q0 fz s1 := modNand_keeps (foldl_keeps (fun _ _ hx => modBlk_keeps hx) h)
  split
  · exact raise_keeps (modVat_keeps h1)
  · extract_lets s2 s3
    have h2 : Keeps q0 fz s2 := modNand_keeps h1
    have h3 : Keeps q0 fz s3 := writeOwn_keeps (writeTables_keeps (formatPool_keeps h2))
    exact noteSpare_keeps (raise_keeps (raise_keeps (modVat_keeps h3)))

theorem setHead_keeps {o : VatOp} (h : Keeps q0 fz s) : Keeps q0 fz (setHead o s) := modVat_keeps h

theorem dropHead_keeps (h : Keeps q0 fz s) : Keeps q0 fz (dropHead s) := modVat_keeps h

theorem vatFinish_keeps {o : VatOp} {status detail r0 r1 r2 : Nat} {data : Option Bytes} (h : Keeps q0 fz s) :
    Keeps q0 fz (vatFinish o status detail r0 r1 r2 data s) := finish_keeps (dropHead_keeps h)

theorem appendRecord_keeps {r : Bytes} {page : Nat × Nat} (h : Keeps q0 fz s) :
    Keeps q0 fz (appendRecord r page s) := by
  unfold appendRecord
  with_reducible repeat' first
    | assumption | apply foldl_keeps | (extract_lets; fail_if_success done) | apply keeps_ite <;> intro _ | split
    | apply modNand_keeps | apply putSector_keeps | apply raiseIf_keeps | apply keeps_mk_snd | apply keeps_mk_fst
    | refine keeps_snd (by assumption) ?_ | refine keeps_fst (by assumption) ?_
    | refine mkKeeps rfl rfl rfl rfl rfl rfl rfl ?_
    | intro _

theorem trimLog_keeps {toward : Nat} (h : Keeps q0 fz s) :
    Keeps q0 fz (trimLog toward s).2 := by
  unfold trimLog
  with_reducible repeat' first
    | assumption | apply foldl_keeps | (extract_lets; fail_if_success done) | apply keeps_ite <;> intro _ | split
    | apply putSector_keeps | apply modVat_keeps | apply modNand_keeps | apply keeps_mk_snd
    | refine mkKeeps rfl rfl rfl rfl rfl rfl rfl ?_
    | intro _

theorem endRead_keeps {o : VatOp} {c : Cmd} (h : Keeps q0 fz s) :
    Keeps q0 fz (endRead o c s) := by
  unfold endRead
  with_reducible repeat' first
    | assumption | apply foldl_keeps | (extract_lets; fail_if_success done) | apply keeps_ite <;> intro _ | split
    | apply vatFinish_keeps | refine mkKeeps rfl rfl rfl rfl rfl rfl rfl ?_
    | intro _

theorem endLogRead_keeps {o : VatOp} {c : Cmd} (h : Keeps q0 fz s) :
    Keeps q0 fz (endLogRead o c s) := by
  unfold endLogRead
  with_reducible repeat' first
    | assumption | apply foldl_keeps | (extract_lets; fail_if_success done) | apply keeps_ite <;> intro _ | split
    | apply vatFinish_keeps | refine mkKeeps rfl rfl rfl rfl rfl rfl rfl ?_
    | intro _

theorem beginRead_keeps {o : VatOp} {c : Cmd} (h : Keeps q0 fz s) :
    Keeps q0 fz (beginRead o c s) := by
  unfold beginRead
  with_reducible repeat' first
    | assumption | apply foldl_keeps | (extract_lets; fail_if_success done) | apply keeps_ite <;> intro _ | split
    | apply setHead_keeps | apply endRead_keeps | refine mkKeeps rfl rfl rfl rfl rfl rfl rfl ?_
    | intro _

theorem beginLogRead_keeps {o : VatOp} {c : Cmd} (h : Keeps q0 fz s) : Keeps q0 fz (beginLogRead o c s) := by
  unfold beginLogRead
  extract_lets ahead
  refine keeps_ite (fun _ => vatFinish_keeps h) fun _ => ?_
  cases ahead with
  | none => exact endLogRead_keeps h
  | some r => exact keeps_ite (fun _ => vatFinish_keeps h) fun _ => setHead_keeps h

theorem beginAppend_keeps {o : VatOp} {c : Cmd} (h : Keeps q0 fz s) : Keeps q0 fz (beginAppend o c s) :=
  setUnit_keeps (setHead_keeps h)

theorem beginFormat_keeps {o : VatOp} (h : Keeps q0 fz s) : Keeps q0 fz (beginFormat o s) :=
  modVat_keeps (setHead_keeps (deferCmd_keeps h))

theorem startOp_keeps {o : VatOp} {c : Cmd} (h : Keeps q0 fz s) : Keeps q0 fz (startOp o c s) := by
  unfold startOp
  extract_lets op
  have hv : ∀ {st d r0 r1 r2 : Nat} {b : Option Bytes}, Keeps q0 fz (vatFinish o st d r0 r1 r2 b s) := vatFinish_keeps h
  have hb : Keeps q0 fz (beginFormat o s) := beginFormat_keeps h
  have hs : ∀ x : VatOp, Keeps q0 fz (setHead x s) := fun _ => setHead_keeps h
  refine keeps_ite (fun _ => hv) fun _ => ?_
  refine keeps_ite (fun _ => hv) fun _ => ?_
  refine keeps_ite (fun _ => hb) fun _ => ?_
  refine keeps_ite (fun _ => hv) fun _ => ?_
  refine keeps_ite (fun _ => vatFinish_keeps (raiseIf_keeps (modVat_keeps h))) fun _ => ?_
  refine keeps_ite (fun _ => hv) fun _ => ?_
  refine keeps_ite (fun _ => hb) fun _ => ?_
  refine keeps_ite (fun _ => beginRead_keeps h) fun _ => ?_
  refine keeps_ite (fun _ => hs _) fun _ => ?_
  refine keeps_ite (fun _ => hs _) fun _ => ?_
  refine keeps_ite (fun _ => beginAppend_keeps h) fun _ => ?_
  refine keeps_ite (fun _ => beginLogRead_keeps h) fun _ => ?_
  exact keeps_ite (fun _ => hs _) fun _ => hv

theorem vatBegin_keeps (h : Keeps q0 fz s) : Keeps q0 fz (vatBegin s) := modVat_keeps h

theorem noBlock_keeps {o : VatOp} (h : Keeps q0 fz s) : Keeps q0 fz (noBlock o s) := vatFinish_keeps (wornOut_keeps h)

theorem beginNand_keeps {o : VatOp} {c : Cmd} (h : Keeps q0 fz s) : Keeps q0 fz (beginNand o c s) := by
  unfold beginNand
  have hv : Keeps q0 fz (vatBegin s) := vatBegin_keeps h
  split
  · exact h
  · exact h
  · exact hv
  · exact hv
  · split
    · exact noBlock_keeps h
    · rename_i e
      have hk := programSecs_keeps e (makeRoom_keeps h)
      exact vatBegin_keeps (setHead_keeps hk)
  · exact hv
  · exact hv
  · exact vatBegin_keeps (modBlk_keeps (emit_keeps h))
  · split
    · exact noBlock_keeps h
    · rename_i e
      have hk := programOwn_keeps e h
      exact vatBegin_keeps hk

theorem vatPump_keeps {n : Nat} (h : Keeps q0 fz s) : Keeps q0 fz (vatPump n s) := by
  induction n generalizing s with
  | zero => exact h
  | succ n ih =>
    unfold vatPump
    refine keeps_ite (fun _ => h) fun _ => ?_
    split
    · exact h
    · split
      · exact ih (dropHead_keeps h)
      · exact keeps_ite (fun _ => ih (startOp_keeps h)) fun _ => keeps_ite (fun _ => h) fun _ => ih (beginNand_keeps h)

theorem pump_keeps (h : Keeps q0 fz s) : Keeps q0 fz (pump s) := vatPump_keeps h

theorem joinVat_keeps {d tag : Nat} {input : Option Bytes} {aux : List Nat} (h : Keeps q0 fz s) :
    Keeps q0 fz (joinVat d tag input aux s) := by
  unfold joinVat
  with_reducible repeat' first
    | assumption | apply foldl_keeps | (extract_lets; fail_if_success done) | apply keeps_ite <;> intro _ | split
    | apply modVat_keeps | apply modCmd_keeps | apply pump_keeps | apply deferCmd_keeps
    | refine mkKeeps rfl rfl rfl rfl rfl rfl rfl ?_
    | intro _

theorem storeRange_keeps {d tag unit : Nat} {c : Cmd} {f : State → State} (hf : ∀ x0, Keeps q0 fz x0 → Keeps q0 fz (f x0)) (h : Keeps q0 fz s) :
    Keeps q0 fz (storeRange d tag unit c f s) := by
  unfold storeRange
  with_reducible repeat' first
    | assumption | apply foldl_keeps | (extract_lets; fail_if_success done) | apply keeps_ite <;> intro _ | split
    | apply hf | apply finishSt_keeps | apply finishR0_keeps | apply badValue_keeps
    | refine mkKeeps rfl rfl rfl rfl rfl rfl rfl ?_
    | intro _

theorem execStoreRead_keeps {d : DoorId} {tag : Nat} (h : Keeps q0 fz s) :
    OutKeeps q0 fz (execStoreRead d tag s) := by
  unfold execStoreRead
  with_reducible repeat' first
    | assumption | apply foldl_keeps | (extract_lets; fail_if_success done) | apply keeps_ite <;> intro _ | split
    | apply live_keeps | apply dispatch_keeps | apply withIo_keeps | apply joinVat_keeps | apply storeRange_keeps
    | apply next_keeps | refine mkKeeps rfl rfl rfl rfl rfl rfl rfl ?_
    | intro _

theorem execStoreWrite_keeps {d : DoorId} {tag : Nat} {hostIn : Option Bytes} (h : Keeps q0 fz s) :
    OutKeeps q0 fz (execStoreWrite d tag hostIn s) := by
  unfold execStoreWrite
  with_reducible repeat' first
    | assumption | apply foldl_keeps | (extract_lets; fail_if_success done) | apply keeps_ite <;> intro _ | split
    | apply live_keeps | apply finishSt_keeps | apply dispatch_keeps | apply withIo_keeps | apply joinVat_keeps
    | apply storeRange_keeps | apply next_keeps | refine mkKeeps rfl rfl rfl rfl rfl rfl rfl ?_
    | intro _

theorem execStoreErase_keeps {d : DoorId} {tag : Nat} (h : Keeps q0 fz s) :
    OutKeeps q0 fz (execStoreErase d tag s) := by
  unfold execStoreErase
  with_reducible repeat' first
    | assumption | apply foldl_keeps | (extract_lets; fail_if_success done) | apply keeps_ite <;> intro _ | split
    | apply live_keeps | apply finishSt_keeps | apply finishR0_keeps | apply dispatch_keeps | apply badValue_keeps
    | apply joinVat_keeps | apply next_keeps | refine mkKeeps rfl rfl rfl rfl rfl rfl rfl ?_
    | intro _

theorem execLogAppend_keeps {d : DoorId} {tag : Nat} {hostIn : Option Bytes} (h : Keeps q0 fz s) :
    OutKeeps q0 fz (execLogAppend d tag hostIn s) := by
  unfold execLogAppend
  with_reducible repeat' first
    | assumption | apply foldl_keeps | (extract_lets; fail_if_success done) | apply keeps_ite <;> intro _ | split
    | apply live_keeps | apply finishSt_keeps | apply finishR0_keeps | apply dispatch_keeps | apply badValue_keeps
    | apply joinVat_keeps | apply next_keeps | refine mkKeeps rfl rfl rfl rfl rfl rfl rfl ?_
    | intro _

theorem execLogRead_keeps {d : DoorId} {tag : Nat} (h : Keeps q0 fz s) :
    OutKeeps q0 fz (execLogRead d tag s) := by
  unfold execLogRead
  with_reducible repeat' first
    | assumption | apply foldl_keeps | (extract_lets; fail_if_success done) | apply keeps_ite <;> intro _ | split
    | apply live_keeps | apply finishSt_keeps | apply dispatch_keeps | apply withIo_keeps | apply badValue_keeps
    | apply joinVat_keeps | apply next_keeps | refine mkKeeps rfl rfl rfl rfl rfl rfl rfl ?_
    | intro _

theorem execLogTrim_keeps {d : DoorId} {tag : Nat} (h : Keeps q0 fz s) :
    OutKeeps q0 fz (execLogTrim d tag s) := by
  unfold execLogTrim
  with_reducible repeat' first
    | assumption | apply foldl_keeps | (extract_lets; fail_if_success done) | apply keeps_ite <;> intro _ | split
    | apply live_keeps | apply finishSt_keeps | apply dispatch_keeps | apply badValue_keeps | apply joinVat_keeps
    | apply next_keeps | refine mkKeeps rfl rfl rfl rfl rfl rfl rfl ?_
    | intro _

theorem execReamInfo_keeps {d : DoorId} {tag : Nat} (h : Keeps q0 fz s) :
    OutKeeps q0 fz (execReamInfo d tag s) := by
  unfold execReamInfo
  with_reducible repeat' first
    | assumption | apply foldl_keeps | (extract_lets; fail_if_success done) | apply keeps_ite <;> intro _ | split
    | apply live_keeps | apply dispatch_keeps | apply withIo_keeps | apply badValue_keeps | apply joinVat_keeps
    | apply next_keeps | refine mkKeeps rfl rfl rfl rfl rfl rfl rfl ?_
    | intro _

theorem execStoreFormat_keeps {d : DoorId} {tag : Nat} (h : Keeps q0 fz s) :
    OutKeeps q0 fz (execStoreFormat d tag s) := by
  unfold execStoreFormat
  with_reducible repeat' first
    | assumption | apply foldl_keeps | (extract_lets; fail_if_success done) | apply keeps_ite <;> intro _ | split
    | apply live_keeps | apply finishSt_keeps | apply dispatch_keeps | apply joinVat_keeps | apply next_keeps
    | refine mkKeeps rfl rfl rfl rfl rfl rfl rfl ?_
    | intro _

theorem commitPage_keeps (h : Keeps q0 fz s) :
    Keeps q0 fz (commitPage s) := by
  unfold commitPage
  with_reducible repeat' first
    | assumption | apply foldl_keeps | (extract_lets; fail_if_success done) | apply keeps_ite <;> intro _ | split
    | apply modNand_keeps | apply countPage_keeps | apply vatCheckpoint_keeps
    | refine mkKeeps rfl rfl rfl rfl rfl rfl rfl ?_
    | intro _

theorem commitOp_keeps {o : VatOp} {c : Cmd} {fails : List Nat} (h : Keeps q0 fz s) : Keeps q0 fz (commitOp o c fails s) := by
  unfold commitOp
  extract_lets before s1 r first n m
  have h1 : Keeps q0 fz s1 := commitPage_keeps h
  have hp : ∀ (l : List Nat) (k : Nat → Nat) (b : Nat → Bytes) (x y : Nat → Nat),
      Keeps q0 fz (l.foldl (fun t i => putSector (k i) (b i) (x i) (y i) t) s1) :=
    fun _ _ _ _ _ => foldl_keeps (fun _ _ hx => putSector_keeps hx) h1
  split
  · exact vatFinish_keeps (settleSpare_keeps (sweepPool_keeps (hp _ _ _ _ _)))
  · exact vatFinish_keeps (sweepPool_keeps (hp _ _ _ _ _))
  · exact vatFinish_keeps (settleSpare_keeps (appendRecord_keeps h1))
  · split
    exact vatFinish_keeps (keeps_snd (by assumption) (trimLog_keeps h1))

theorem formatDone_keeps {o : VatOp} {c : Cmd} {lower : List Nat} {r : NandResult} (h : Keeps q0 fz s) :
    Keeps q0 fz (formatDone o c lower r s) := by
  unfold formatDone
  split
  rename_i e
  have h1 := keeps_snd e (formatNow_keeps h)
  exact keeps_ite (fun _ => vatFinish_keeps h1) fun _ => keeps_ite (fun _ => vatFinish_keeps h1) fun _ => setHead_keeps h1

theorem readDone_keeps {o : VatOp} {c : Cmd} {g : List Nat} {rest : List (List Nat)} {r : NandResult} (h : Keeps q0 fz s) :
    Keeps q0 fz (readDone o c g rest r s) := by
  unfold readDone
  with_reducible repeat' first
    | assumption | apply foldl_keeps | (extract_lets; fail_if_success done) | apply keeps_ite <;> intro _ | split
    | apply foldl_keeps | apply readMet_keeps | apply setHead_keeps | apply endRead_keeps | apply endLogRead_keeps
    | apply keeps_mk_snd | apply keeps_mk_fst | refine mkKeeps rfl rfl rfl rfl rfl rfl rfl ?_
    | intro _

theorem eraseDone_keeps {b : Nat} {check : Bool} {r : NandResult} (h : Keeps q0 fz s) :
    Keeps q0 fz (eraseDone b check r s).2 := by
  unfold eraseDone
  with_reducible repeat' first
    | assumption | apply foldl_keeps | (extract_lets; fail_if_success done) | apply keeps_ite <;> intro _ | split
    | apply retireBlk_keeps | apply erased_keeps | apply closeBlk_keeps | apply keeps_mk_snd
    | refine mkKeeps rfl rfl rfl rfl rfl rfl rfl ?_
    | intro _

theorem pageFailed_keeps {o : VatOp} (h : Keeps q0 fz s) : Keeps q0 fz (pageFailed o s) := by
  unfold pageFailed
  split
  · exact h
  · exact retireBlk_keeps (setHead_keeps h)

theorem opDone_keeps {o : VatOp} {c : Cmd} {r : NandResult} (h : Keeps q0 fz s) : Keeps q0 fz (opDone o c r s) := by
  unfold opDone
  split
  · exact h
  · exact h
  · exact formatDone_keeps h
  · exact keeps_ite (fun _ => endRead_keeps h) fun _ => endLogRead_keeps h
  · exact readDone_keeps h
  · exact keeps_ite (fun _ => pageFailed_keeps (countPage_keeps h)) fun _ => setHead_keeps (modNand_keeps (countPage_keeps h))
  · exact setHead_keeps h
  · split
    exact setHead_keeps (keeps_snd (by assumption) (eraseDone_keeps h))
  · refine keeps_ite (fun _ => ?_) fun _ => commitOp_keeps h
    split
    · exact h
    · exact retireBlk_keeps (countPage_keeps h)

theorem lostDone_keeps {o : VatOp} {r : NandResult} (h : Keeps q0 fz s) :
    Keeps q0 fz (lostDone o r s) := by
  unfold lostDone
  with_reducible repeat' first
    | assumption | apply foldl_keeps | (extract_lets; fail_if_success done) | apply keeps_ite <;> intro _ | split
    | apply countPage_keeps | apply modNand_keeps | apply pageFailed_keeps | apply eraseDone_keeps
    | apply commit_keeps | apply keeps_mk_snd | refine mkKeeps rfl rfl rfl rfl rfl rfl rfl ?_
    | intro _

theorem vatRest_keeps (h : Keeps q0 fz s) :
    Keeps q0 fz (vatRest s) := by
  unfold vatRest
  with_reducible repeat' first
    | assumption | apply foldl_keeps | (extract_lets; fail_if_success done) | apply keeps_ite <;> intro _ | split
    | apply modVat_keeps | apply vatCheckpoint_keeps | refine mkKeeps rfl rfl rfl rfl rfl rfl rfl ?_
    | intro _

theorem vatOpDone_keeps {r : NandResult} (h : Keeps q0 fz s) : Keeps q0 fz (vatOpDone r s) := by
  unfold vatOpDone
  refine keeps_ite (fun _ => h) fun _ => ?_
  split
  · exact modVat_keeps h
  · extract_lets s1 s2
    have h1 : Keeps q0 fz s1 := modVat_keeps h
    have h2 : Keeps q0 fz s2 := by
      show Keeps q0 fz (match findCmd s _ _ with | some c => _ | none => _)
      split
      · exact opDone_keeps h1
      · exact dropHead_keeps (lostDone_keeps h1)
    exact keeps_ite (fun _ => vatRest_keeps h2) fun _ => h2

theorem execVatOpDone_keeps {r : NandResult} (h : Keeps q0 fz s) :
    OutKeeps q0 fz (execVatOpDone r s) := by
  unfold execVatOpDone
  with_reducible repeat' first
    | assumption | apply foldl_keeps | (extract_lets; fail_if_success done) | apply keeps_ite <;> intro _ | split
    | apply live_keeps | apply pump_keeps | apply vatOpDone_keeps | apply next_keeps
    | refine mkKeeps rfl rfl rfl rfl rfl rfl rfl ?_
    | intro _

theorem vatHashDone_keeps {d tag : Nat} (h : Keeps q0 fz s) :
    Keeps q0 fz (vatHashDone d tag s) := by
  unfold vatHashDone
  with_reducible repeat' first
    | assumption | apply foldl_keeps | (extract_lets; fail_if_success done) | apply keeps_ite <;> intro _ | split
    | apply pump_keeps | apply setHead_keeps | apply record_keeps | refine mkKeeps rfl rfl rfl rfl rfl rfl rfl ?_
    | intro _

theorem dropFormat_keeps (h : Keeps q0 fz s) :
    Keeps q0 fz (dropFormat s) := by
  unfold dropFormat
  with_reducible repeat' first
    | assumption | apply foldl_keeps | (extract_lets; fail_if_success done) | apply keeps_ite <;> intro _ | split
    | apply modVat_keeps | refine mkKeeps rfl rfl rfl rfl rfl rfl rfl ?_
    | intro _

theorem purgeVat_keeps (h : Keeps q0 fz s) :
    Keeps q0 fz (purgeVat s) := by
  unfold purgeVat
  with_reducible repeat' first
    | assumption | apply foldl_keeps | (extract_lets; fail_if_success done) | apply keeps_ite <;> intro _ | split
    | apply dropFormat_keeps | apply pump_keeps | apply modVat_keeps | refine mkKeeps rfl rfl rfl rfl rfl rfl rfl ?_
    | intro _

theorem vatStop_keeps (h : Keeps q0 fz s) :
    Keeps q0 fz (vatStop s) := by
  unfold vatStop
  with_reducible repeat' first
    | assumption | apply foldl_keeps | (extract_lets; fail_if_success done) | apply keeps_ite <;> intro _ | split
    | apply modVat_keeps | apply vatRest_keeps | apply emit_keeps | refine mkKeeps rfl rfl rfl rfl rfl rfl rfl ?_
    | intro _

theorem execRetentionPatrol_keeps {r : NandResult} (h : Keeps q0 fz s) :
    OutKeeps q0 fz (execRetentionPatrol r s) := by
  unfold execRetentionPatrol
  with_reducible repeat' first
    | assumption | apply foldl_keeps | (extract_lets; fail_if_success done) | apply keeps_ite <;> intro _ | split
    | apply live_keeps | apply modVat_keeps | apply readMet_keeps | apply next_keeps
    | refine mkKeeps rfl rfl rfl rfl rfl rfl rfl ?_
    | intro _

theorem movePage_keeps {m : Move} {keys : List Nat} {r : NandResult} (h : Keeps q0 fz s) :
    Keeps q0 fz (movePage m keys r s).2 := by
  unfold movePage
  extract_lets outs s1 kind room secs
  have h1 : Keeps q0 fz s1 := readMet_keeps h
  rw [apply_ite Prod.snd]
  refine keeps_ite (fun _ => h1) fun _ => ?_
  have hr : ∀ p, room = some p → Keeps q0 fz p.2 := fun p e => by
    unfold room at e
    split at e
    · exact Option.some.inj e ▸ h1
    · exact takeBlk_keeps e h1
  clear_value room
  cases room with
  | none => exact h1
  | some p =>
    have h2 : Keeps q0 fz p.2 := hr p rfl
    obtain ⟨b, s2⟩ := p
    have h3 : ∀ k cws, Keeps q0 fz (countPage false (programIn b cws { s2 with freeCtr := k }).2) :=
      fun _ _ => countPage_keeps (programIn_keeps (mkKeeps rfl rfl rfl rfl rfl rfl rfl h2))
    dsimp only
    split
    · exact retireBlk_keeps (h3 _ _)
    · exact placeSecs_keeps (h3 _ _)

theorem moveStep_keeps {m : Move} {r : NandResult} (h : Keeps q0 fz s) : Keeps q0 fz (moveStep m r s).2.2 := by
  unfold moveStep
  split
  · exact keeps_ite (fun _ => retireBlk_keeps h) fun _ => eraseBlk_keeps (closeBlk_keeps h)
  · split
    exact keeps_snd (by assumption) (movePage_keeps h)

theorem relocStep_keeps {r : NandResult} (h : Keeps q0 fz s) : Keeps q0 fz (relocStep r s) := by
  unfold relocStep
  extract_lets next start
  have hs : ∀ p, start = some p → Keeps q0 fz p.2 := fun p e => by
    unfold start at e
    split at e
    · exact Option.some.inj e ▸ h
    · obtain ⟨b, -, e⟩ := Option.bind_eq_some_iff.1 e
      obtain ⟨t, ht, rfl⟩ := Option.map_eq_some_iff.1 e
      exact takeBlk_keeps ht h
  clear_value start
  cases start with
  | none => exact pump_keeps (modVat_keeps h)
  | some p =>
    have h1 : Keeps q0 fz p.2 := hs p rfl
    obtain ⟨m, s1⟩ := p
    have h2 := moveStep_keeps (m := m) (r := r) (modVat_keeps (f := fun v => { v with fgLast := false }) h1)
    dsimp only
    generalize moveStep m r (modVat (fun v => { v with fgLast := false }) s1) = y at h2 ⊢
    obtain ⟨m1, ends, s2⟩ := y
    exact pump_keeps (keeps_ite (fun _ => incReg_keeps (modVat_keeps h2)) fun _ => modVat_keeps h2)

theorem levelStep_keeps {r : NandResult} (h : Keeps q0 fz s) : Keeps q0 fz (levelStep r s) := by
  unfold levelStep
  split
  · exact h
  · rename_i m _
    exact keeps_ite (fun _ => modVat_keeps (moveStep_keeps (m := m) h)) fun _ => h

theorem execBackgroundRelocate_keeps {r : NandResult} (h : Keeps q0 fz s) :
    OutKeeps q0 fz (execBackgroundRelocate r s) :=
  next_keeps (live_keeps (fun _ h => keeps_ite (fun _ => h) fun _ =>
    keeps_ite (fun _ => relocStep_keeps h) fun _ => levelStep_keeps h) h)

theorem execStaticLevelling_keeps (h : Keeps q0 fz s) : OutKeeps q0 fz (execStaticLevelling s) :=
  next_keeps (live_keeps (fun _ h => keeps_ite (fun _ => h) fun _ => modVat_keeps h) h)

theorem ifRequest_keeps {want : Bool} (h : Keeps q0 fz s) : Keeps q0 fz (ifRequest want s) := by
  unfold ifRequest
  exact keeps_ite (fun _ => h) fun _ => keeps_ite
    (fun _ => keeps_ite (fun _ => emit_keeps (emit_keeps (modVat_keeps h))) fun _ => h)
    fun _ => emit_keeps (modVat_keeps h)

theorem mountStore_keeps {a : MountAnswer} (h : Keeps q0 fz s) : Keeps q0 fz (mountStore a s) := by
  unfold mountStore
  extract_lets absent s1
  have ha : ∀ r, Keeps q0 fz (absent r) := fun _ => raise_keeps (modVat_keeps h)
  refine pump_keeps ?_
  unfold s1
  split
  · exact ha _
  · refine keeps_ite (fun _ => ha _) fun _ => keeps_ite (fun _ => ha _) fun _ => ?_
    extract_lets g known base s2 s3 s4 s5
    have hb : Keeps q0 fz base := keeps_ite (fun _ => h) fun _ => mkKeeps rfl rfl rfl rfl rfl rfl rfl h
    have h2 : Keeps q0 fz s2 := raiseIf_keeps (modNand_keeps hb)
    have h3 : Keeps q0 fz s3 := modVat_keeps h2
    have h4 : Keeps q0 fz s4 := keeps_ite (fun _ => noteSpare_keeps h3) fun _ => h3
    have h5 : Keeps q0 fz s5 := keeps_ite (fun _ => h4) fun _ => raise_keeps h4
    exact keeps_ite (fun _ => ifRequest_keeps h5) fun _ => h5

theorem vatReadEffect_keeps {o : Nat} (h : Keeps q0 fz s) : Keeps q0 fz (vatReadEffect o s) := readClears_keeps h

theorem vatWrite_keeps {o : Nat} {v : Word} (h : Keeps q0 fz s) :
    Keeps q0 fz (vatWrite o v s) := by
  unfold vatWrite
  with_reducible repeat' first
    | assumption | apply foldl_keeps | (extract_lets; fail_if_success done) | apply keeps_ite <;> intro _ | split
    | apply putBit_keeps | apply writeTyped_keeps | apply ifRequest_keeps
    | refine mkKeeps rfl rfl rfl rfl rfl rfl rfl ?_
    | intro _

theorem execVatIfReq_keeps {v : Word} (h : Keeps q0 fz s) : OutKeeps q0 fz (execVatIfReq v s) :=
  next_keeps (live_keeps (fun _ hx => vatWrite_keeps hx) h)

end Sys2Proof.Machine
end

