-- ==== Sys2Proof/Laws/KeepsFaults.lean ====
section
/-! SUPPORT. What no command may spoil is kept by the functions of Machine/Faults.lean. -/

namespace Sys2Proof.Machine

set_option Elab.async false

variable {q0 : List Instr} {fz : FuseBits} {s : State}

theorem setFaults_keeps {f : Faults → Faults} (h : Keeps q0 fz s) : Keeps q0 fz (setFaults f s) :=
  mkKeeps rfl rfl rfl rfl rfl rfl rfl h

theorem recordFault_keeps {code unit : Nat} (h : Keeps q0 fz s) : Keeps q0 fz (recordFault code unit s) :=
  mkKeeps rfl rfl rfl rfl rfl rfl rfl h

theorem countFrame_keeps (h : Keeps q0 fz s) : Keeps q0 fz (countFrame s) := mkKeeps rfl rfl rfl rfl rfl rfl rfl h

theorem faultFrame_keeps {f : Sheet} (h : Keeps q0 fz s) :
    Keeps q0 fz (faultFrame f s) := by
  unfold faultFrame
  with_reducible repeat' first
    | assumption | apply foldl_keeps | (extract_lets; fail_if_success done) | apply keeps_ite <;> intro _ | split
    | apply cntAdd_keeps | apply discardFrm_keeps | apply discardChan_keeps | apply countFrame_keeps
    | refine mkKeeps rfl rfl rfl rfl rfl rfl rfl ?_
    | intro _

theorem faultReasm_keeps {d : Nat} (h : Keeps q0 fz s) :
    Keeps q0 fz (faultReasm d s) := by
  unfold faultReasm
  with_reducible repeat' first
    | assumption | apply foldl_keeps | (extract_lets; fail_if_success done) | apply keeps_ite <;> intro _ | split
    | apply cntAdd_keeps | apply modCal_keeps | apply countFrame_keeps | refine mkKeeps rfl rfl rfl rfl rfl rfl rfl ?_
    | intro _

theorem discardFrames_keeps (h : Keeps q0 fz s) :
    Keeps q0 fz (discardFrames s) := by
  unfold discardFrames
  with_reducible repeat' first
    | assumption | apply foldl_keeps | (extract_lets; fail_if_success done) | apply keeps_ite <;> intro _ | split
    | apply modChan_keeps | apply faultFrame_keeps | apply faultReasm_keeps
    | refine mkKeeps rfl rfl rfl rfl rfl rfl rfl ?_
    | intro _

theorem abortSending_keeps {q : Nat} (h : Keeps q0 fz s) :
    Keeps q0 fz (abortSending q s) := by
  unfold abortSending
  with_reducible repeat' first
    | assumption | apply foldl_keeps | (extract_lets; fail_if_success done) | apply keeps_ite <;> intro _ | split
    | apply portClose_keeps | apply countFrame_keeps | apply cntAdd_keeps | apply sendOut_keeps
    | apply lineChange_keeps | apply removeFrm_keeps | refine mkKeeps rfl rfl rfl rfl rfl rfl rfl ?_
    | intro _

theorem faultCmd_keeps {code d : Nat} {c : Cmd} (h : Keeps q0 fz s) : Keeps q0 fz (faultCmd code d c s) :=
  finish_keeps (mkKeeps rfl rfl rfl rfl rfl rfl rfl h)

theorem purgeUnits_keeps (h : Keeps q0 fz s) : Keeps q0 fz (purgeUnits s) := by
  unfold purgeUnits
  extract_lets keep s1
  have h1 : Keeps q0 fz s1 := foldl_keeps (fun _ _ hx => setUnit_keeps hx) h
  exact keSettle_keeps (mkKeeps rfl rfl rfl rfl rfl rfl rfl h1)

theorem purgeEngines_keeps (h : Keeps q0 fz s) :
    Keeps q0 fz (purgeEngines s) := by
  unfold purgeEngines
  with_reducible repeat' first
    | assumption | apply foldl_keeps | (extract_lets; fail_if_success done) | apply keeps_ite <;> intro _ | split
    | apply purgeBlt_keeps | apply purgeAudio_keeps | apply purgeI2c_keeps | apply purgeVat_keeps
    | apply purgeUnits_keeps | refine mkKeeps rfl rfl rfl rfl rfl rfl rfl ?_
    | intro _

theorem discardCmds_keeps {code : Nat} (h : Keeps q0 fz s) :
    Keeps q0 fz (discardCmds code s) := by
  unfold discardCmds
  with_reducible repeat' first
    | assumption | apply foldl_keeps | (extract_lets; fail_if_success done) | apply keeps_ite <;> intro _ | split
    | apply faultCmd_keeps | apply purgeEngines_keeps | refine mkKeeps rfl rfl rfl rfl rfl rfl rfl ?_
    | intro _

theorem bumpGen_keeps (h : Keeps q0 fz s) :
    Keeps q0 fz (bumpGen s) := by
  unfold bumpGen
  with_reducible repeat' first
    | assumption | apply foldl_keeps | (extract_lets; fail_if_success done) | apply keeps_ite <;> intro _ | split
    | apply setNotice_keeps | refine mkKeeps rfl rfl rfl rfl rfl rfl rfl ?_
    | intro _

theorem enterFault_keeps {code : Nat} {bist : Bool} {note : State → State} (hnote : ∀ x0, Keeps q0 fz x0 → Keeps q0 fz (note x0)) (h : Keeps q0 fz s) :
    Keeps q0 fz (enterFault code bist note s) := by
  unfold enterFault
  extract_lets _ s1 s2 s3
  have h1 : Keeps q0 fz s1 := hnote _ (bumpGen_keeps (mkKeeps rfl rfl rfl rfl rfl rfl rfl h))
  have h2 : Keeps q0 fz s2 := setFaults_keeps (recordFault_keeps h1)
  have h3 : Keeps q0 fz s3 := discardFrames_keeps (discardCmds_keeps (cancelApply_keeps h2))
  exact raise_keeps (raise_keeps (zeroise_keeps (clearMessages_keeps h3)))

theorem runRecovery_keeps {code : Nat} (h : Keeps q0 fz s) :
    Keeps q0 fz (runRecovery code s) := by
  unfold runRecovery
  with_reducible repeat' first
    | assumption | apply foldl_keeps | (extract_lets; fail_if_success done) | apply keeps_ite <;> intro _ | split
    | apply raise_keeps | apply cancelApply_keeps | apply discardFrames_keeps | apply discardCmds_keeps
    | refine mkKeeps rfl rfl rfl rfl rfl rfl rfl ?_
    | intro _

theorem startRecovery_keeps {code unit : Nat} (h : Keeps q0 fz s) :
    Keeps q0 fz (startRecovery code unit s) := by
  unfold startRecovery
  with_reducible repeat' first
    | assumption | apply foldl_keeps | (extract_lets; fail_if_success done) | apply keeps_ite <;> intro _ | split
    | apply bumpLiveVer_keeps | apply setFaults_keeps | apply recordFault_keeps | apply bumpGen_keeps
    | apply enterFault_keeps | apply runRecovery_keeps | refine mkKeeps rfl rfl rfl rfl rfl rfl rfl ?_
    | intro _

theorem classS_keeps {code kind regNo : Nat} {addr : Word} (h : Keeps q0 fz s) :
    Keeps q0 fz (classS code kind regNo addr s) := stopPair_keeps (startRecovery_keeps h)

theorem loseChan_keeps {c : Nat} (h : Keeps q0 fz s) :
    Keeps q0 fz (loseChan c s) := by
  unfold loseChan
  with_reducible repeat' first
    | assumption | apply foldl_keeps | (extract_lets; fail_if_success done) | apply keeps_ite <;> intro _ | split
    | apply raise_keeps | apply modChan_keeps | apply clearChan_keeps | apply complete_keeps
    | refine mkKeeps rfl rfl rfl rfl rfl rfl rfl ?_
    | intro _

theorem failLane_keeps {i : Nat} (h : Keeps q0 fz s) :
    Keeps q0 fz (failLane i s) := by
  unfold failLane
  with_reducible repeat' first
    | assumption | apply foldl_keeps | (extract_lets; fail_if_success done) | apply keeps_ite <;> intro _ | split
    | apply laneTo_keeps | apply setLane_keeps | apply laneReplies_keeps
    | refine mkKeeps rfl rfl rfl rfl rfl rfl rfl ?_
    | intro _

theorem execStageWatchdog_keeps {dir : Fin 2} {slot : Fin 1024} (h : Keeps q0 fz s) :
    OutKeeps q0 fz (execStageWatchdog dir slot s) := by
  unfold execStageWatchdog
  with_reducible repeat' first
    | assumption | apply foldl_keeps | (extract_lets; fail_if_success done) | apply keeps_ite <;> intro _ | split
    | apply live_keeps | apply startRecovery_keeps | apply next_keeps | refine mkKeeps rfl rfl rfl rfl rfl rfl rfl ?_
    | intro _

theorem execRecoveryEnd_keeps (h : Keeps q0 fz s) :
    OutKeeps q0 fz (execRecoveryEnd s) := by
  unfold execRecoveryEnd
  with_reducible repeat' first
    | assumption | apply foldl_keeps | (extract_lets; fail_if_success done) | apply keeps_ite <;> intro _ | split
    | apply live_keeps | apply raise_keeps | apply setFaults_keeps | apply next_keeps
    | refine mkKeeps rfl rfl rfl rfl rfl rfl rfl ?_
    | intro _

end Sys2Proof.Machine
end

