-- ==== Sys2Proof/Laws/KeepsCommands.lean ====
section
/-! SUPPORT. What no command may spoil is kept by the functions of Machine/Commands.lean. -/

namespace Sys2Proof.Machine

set_option Elab.async false

variable {q0 : List Instr} {fz : FuseBits} {s : State}

theorem execDoorNop_keeps {d : DoorId} {tag : Nat} (h : Keeps q0 fz s) :
    OutKeeps q0 fz (execDoorNop d tag s) :=
  next_keeps (live_keeps (fun _ hx => dispatch_keeps (fun _ _ hy => finishSt_keeps hy) hx) h)

theorem execGetStatus_keeps {d : DoorId} {tag : Nat} (h : Keeps q0 fz s) :
    OutKeeps q0 fz (execGetStatus d tag s) := by
  unfold execGetStatus
  with_reducible repeat' first
    | assumption | apply foldl_keeps | (extract_lets; fail_if_success done) | apply keeps_ite <;> intro _ | split
    | apply live_keeps | apply claim_keeps | apply finish_keeps | apply dispatch_keeps | apply delivered_keeps
    | apply withIo_keeps | apply next_keeps | refine mkKeeps rfl rfl rfl rfl rfl rfl rfl ?_
    | intro _

theorem dropSession_keeps {d tag : Nat} (h : Keeps q0 fz s) :
    Keeps q0 fz (dropSession d tag s) := by
  unfold dropSession
  with_reducible repeat' first
    | assumption | apply foldl_keeps | (extract_lets; fail_if_success done) | apply keeps_ite <;> intro _ | split
    | apply modDoor_keeps | apply poolReturn_keeps | refine mkKeeps rfl rfl rfl rfl rfl rfl rfl ?_
    | intro _

theorem execDoorClaim_keeps {d : DoorId} {tag : Nat} (h : Keeps q0 fz s) :
    OutKeeps q0 fz (execDoorClaim d tag s) := by
  unfold execDoorClaim
  with_reducible repeat' first
    | assumption | apply foldl_keeps | (extract_lets; fail_if_success done) | apply keeps_ite <;> intro _ | split
    | apply live_keeps | apply modDoor_keeps | apply finishSt_keeps | apply finishR0_keeps | apply dispatch_keeps
    | apply dropSession_keeps | apply next_keeps | refine mkKeeps rfl rfl rfl rfl rfl rfl rfl ?_
    | intro _

theorem execDoorRelease_keeps {d : DoorId} {tag : Nat} (h : Keeps q0 fz s) :
    OutKeeps q0 fz (execDoorRelease d tag s) := by
  unfold execDoorRelease
  with_reducible repeat' first
    | assumption | apply foldl_keeps | (extract_lets; fail_if_success done) | apply keeps_ite <;> intro _ | split
    | apply live_keeps | apply modDoor_keeps | apply finishSt_keeps | apply dispatch_keeps | apply next_keeps
    | refine mkKeeps rfl rfl rfl rfl rfl rfl rfl ?_
    | intro _

theorem execIdleSetup_keeps {d : DoorId} {tag : Nat} (h : Keeps q0 fz s) :
    OutKeeps q0 fz (execIdleSetup d tag s) := by
  unfold execIdleSetup
  with_reducible repeat' first
    | assumption | apply foldl_keeps | (extract_lets; fail_if_success done) | apply keeps_ite <;> intro _ | split
    | apply live_keeps | apply modDoor_keeps | apply finishSt_keeps | apply finishR0_keeps | apply dispatch_keeps
    | apply next_keeps | refine mkKeeps rfl rfl rfl rfl rfl rfl rfl ?_
    | intro _

theorem execPortStats_keeps {d : DoorId} {tag : Nat} (h : Keeps q0 fz s) :
    OutKeeps q0 fz (execPortStats d tag s) := by
  unfold execPortStats
  with_reducible repeat' first
    | assumption | apply foldl_keeps | (extract_lets; fail_if_success done) | apply keeps_ite <;> intro _ | split
    | apply live_keeps | apply finish_keeps | apply finishR0_keeps | apply dispatch_keeps | apply withIo_keeps
    | apply badValue_keeps | apply next_keeps | refine mkKeeps rfl rfl rfl rfl rfl rfl rfl ?_
    | intro _

theorem execChanStats_keeps {d : DoorId} {tag : Nat} (h : Keeps q0 fz s) :
    OutKeeps q0 fz (execChanStats d tag s) := by
  unfold execChanStats
  with_reducible repeat' first
    | assumption | apply foldl_keeps | (extract_lets; fail_if_success done) | apply keeps_ite <;> intro _ | split
    | apply live_keeps | apply finish_keeps | apply finishR0_keeps | apply dispatch_keeps | apply withIo_keeps
    | apply badValue_keeps | apply next_keeps | refine mkKeeps rfl rfl rfl rfl rfl rfl rfl ?_
    | intro _

theorem clearWindow_keeps {a n : Nat} (h : Keeps q0 fz s) : Keeps q0 fz (clearWindow a n s) :=
  mkKeeps rfl rfl rfl rfl rfl rfl rfl h

theorem clearPortCounters_keeps {q : Nat} (h : Keeps q0 fz s) : Keeps q0 fz (clearPortCounters q s) :=
  mkKeeps rfl rfl rfl rfl rfl rfl rfl h

theorem clearChanCounters_keeps {c : Nat} (h : Keeps q0 fz s) : Keeps q0 fz (clearChanCounters c s) :=
  mkKeeps rfl rfl rfl rfl rfl rfl rfl h

theorem execCounterClear_keeps {d : DoorId} {tag : Nat} (h : Keeps q0 fz s) :
    OutKeeps q0 fz (execCounterClear d tag s) := by
  unfold execCounterClear
  with_reducible repeat' first
    | assumption | apply foldl_keeps | (extract_lets; fail_if_success done) | apply keeps_ite <;> intro _ | split
    | apply live_keeps | apply finishSt_keeps | apply finishR0_keeps | apply dispatch_keeps | apply badValue_keeps
    | apply clearPortCounters_keeps | apply clearChanCounters_keeps | apply next_keeps
    | refine mkKeeps rfl rfl rfl rfl rfl rfl rfl ?_
    | intro _

theorem execTelSubscribe_keeps {d : DoorId} {tag : Nat} (h : Keeps q0 fz s) :
    OutKeeps q0 fz (execTelSubscribe d tag s) := by
  unfold execTelSubscribe
  with_reducible repeat' first
    | assumption | apply foldl_keeps | (extract_lets; fail_if_success done) | apply keeps_ite <;> intro _ | split
    | apply live_keeps | apply modDoor_keeps | apply finishR0_keeps | apply dispatch_keeps | apply badValue_keeps
    | apply next_keeps | refine mkKeeps rfl rfl rfl rfl rfl rfl rfl ?_
    | intro _

theorem execTelemetryPeriod_keeps {d : DoorId} (h : Keeps q0 fz s) :
    OutKeeps q0 fz (execTelemetryPeriod d s) := by
  unfold execTelemetryPeriod
  with_reducible repeat' first
    | assumption | apply foldl_keeps | (extract_lets; fail_if_success done) | apply keeps_ite <;> intro _ | split
    | apply live_keeps | apply modDoor_keeps | apply unsolicited_keeps | apply next_keeps | refine mkKeeps rfl rfl rfl rfl rfl rfl rfl ?_
    | intro _

theorem setGrant_keeps {d w : Nat} (h : Keeps q0 fz s) :
    Keeps q0 fz (setGrant d w s) := by
  unfold setGrant
  with_reducible repeat' first
    | assumption | apply foldl_keeps | (extract_lets; fail_if_success done) | apply keeps_ite <;> intro _ | split
    | apply modDoor_keeps | apply evcSettle_keeps | apply raise_keeps | apply setNotice_keeps
    | refine mkKeeps rfl rfl rfl rfl rfl rfl rfl ?_
    | intro _

theorem execGrantSet_keeps {tag : Nat} (h : Keeps q0 fz s) :
    OutKeeps q0 fz (execGrantSet tag s) := by
  unfold execGrantSet
  with_reducible repeat' first
    | assumption | apply foldl_keeps | (extract_lets; fail_if_success done) | apply keeps_ite <;> intro _ | split
    | apply live_keeps | apply finishR0_keeps | apply dispatch_keeps | apply badValue_keeps | apply setGrant_keeps
    | apply next_keeps | refine mkKeeps rfl rfl rfl rfl rfl rfl rfl ?_
    | intro _

theorem setOwner_keeps {kind n o : Nat} (h : Keeps q0 fz s) :
    Keeps q0 fz (setOwner kind n o s) := by
  unfold setOwner
  with_reducible repeat' first
    | assumption | apply foldl_keeps | (extract_lets; fail_if_success done) | apply keeps_ite <;> intro _ | split
    | apply setPort_keeps | apply modChan_keeps | apply setVault_keeps | apply setKe_keeps
    | refine mkKeeps rfl rfl rfl rfl rfl rfl rfl ?_
    | intro _

theorem execOwnerSet_keeps {tag : Nat} (h : Keeps q0 fz s) :
    OutKeeps q0 fz (execOwnerSet tag s) := by
  unfold execOwnerSet
  with_reducible repeat' first
    | assumption | apply foldl_keeps | (extract_lets; fail_if_success done) | apply keeps_ite <;> intro _ | split
    | apply live_keeps | apply bumpLiveVer_keeps | apply finish_keeps | apply finishSt_keeps | apply finishR0_keeps
    | apply dispatch_keeps | apply badValue_keeps | apply setOwner_keeps | apply next_keeps
    | refine mkKeeps rfl rfl rfl rfl rfl rfl rfl ?_
    | intro _

theorem execModuleAssign_keeps {tag : Nat} (h : Keeps q0 fz s) :
    OutKeeps q0 fz (execModuleAssign tag s) := by
  unfold execModuleAssign
  with_reducible repeat' first
    | assumption | apply foldl_keeps | (extract_lets; fail_if_success done) | apply keeps_ite <;> intro _ | split
    | apply live_keeps | apply setPort_keeps | apply finishR0_keeps | apply dispatch_keeps | apply badValue_keeps
    | apply next_keeps | refine mkKeeps rfl rfl rfl rfl rfl rfl rfl ?_
    | intro _

end Sys2Proof.Machine
end

