-- ==== Sys2Proof/Laws/KeepsIdentity.lean ====
section
/-! SUPPORT. What no command may spoil is kept by the functions of Machine/Identity.lean. -/

namespace Sys2Proof.Machine

set_option Elab.async false

variable {q0 : List Instr} {fz : FuseBits} {s : State}

theorem execIdentify_keeps {d : DoorId} {tag : Nat} {hostIn : Option Bytes} (h : Keeps q0 fz s) :
    OutKeeps q0 fz (execIdentify d tag hostIn s) := by
  unfold execIdentify
  with_reducible repeat' first
    | assumption | apply foldl_keeps | (extract_lets; fail_if_success done) | apply keeps_ite <;> intro _ | split
    | apply live_keeps | apply finishSt_keeps | apply dispatch_keeps | apply withIo_keeps | apply joinUnit_keeps
    | apply next_keeps | refine mkKeeps rfl rfl rfl rfl rfl rfl rfl ?_
    | intro _

theorem identityDone_keeps {d tag : Nat} {c : Cmd} (h : Keeps q0 fz s) :
    Keeps q0 fz (identityDone d tag c s) := by
  unfold identityDone
  with_reducible repeat' first
    | assumption | apply foldl_keeps | (extract_lets; fail_if_success done) | apply keeps_ite <;> intro _ | split
    | apply freeNext_keeps | apply finish_keeps | refine mkKeeps rfl rfl rfl rfl rfl rfl rfl ?_
    | intro _

theorem unitDone_keeps {u : Nat} (h : Keeps q0 fz s) :
    Keeps q0 fz (unitDone u s) := by
  unfold unitDone
  with_reducible repeat' first
    | assumption | apply foldl_keeps | (extract_lets; fail_if_success done) | apply keeps_ite <;> intro _ | split
    | apply opsCount_keeps | apply setUnit_keeps | apply identityDone_keeps | apply loadDone_keeps
    | apply vatHashDone_keeps | apply vaultStep_keeps | apply keStepDone_keeps | apply keSettle_keeps
    | apply keeps_mk_snd | apply keeps_mk_fst | refine mkKeeps rfl rfl rfl rfl rfl rfl rfl ?_
    | intro _

theorem execKeyeOpDone_keeps {u : Fin 3} (h : Keeps q0 fz s) : OutKeeps q0 fz (execKeyeOpDone u s) :=
  next_keeps (live_keeps (fun _ hx => unitDone_keeps hx) h)

theorem setBoot_keeps {slot : Nat} {fell unprov halted : Bool} {ra rb ver svn : Nat} (h : Keeps q0 fz s) :
    Keeps q0 fz (setBoot slot fell unprov halted ra rb ver svn s) := by
  unfold setBoot
  with_reducible repeat' first
    | assumption | apply foldl_keeps | (extract_lets; fail_if_success done) | apply keeps_ite <;> intro _ | split
    | apply setRegN_keeps | refine mkKeeps rfl rfl rfl rfl rfl rfl rfl ?_
    | intro _

theorem haltPins_keeps (h : Keeps q0 fz s) : Keeps q0 fz (haltPins s) := by
  unfold haltPins
  exact fanAuto_keeps (audioStop_keeps (modAudio_keeps (rasterOff_keeps (modPanel_keeps (clrReg_keeps
    (mkKeeps rfl rfl rfl rfl rfl rfl rfl h))))))

theorem romHalt_keeps {fell : Bool} {ra rb : Nat} (h : Keeps q0 fz s) :
    Keeps q0 fz (romHalt fell ra rb s) := by
  unfold romHalt
  with_reducible repeat' first
    | assumption | apply foldl_keeps | (extract_lets; fail_if_success done) | apply keeps_ite <;> intro _ | split
    | apply setGrant_keeps | apply setBoot_keeps | apply haltPins_keeps | refine mkKeeps rfl rfl rfl rfl rfl rfl rfl ?_
    | intro _

theorem entry_aligned {b : Bytes} {lost : Bool} (e : slotFault s b lost = none) : (w32 (hdr b 0x18 4)).toNat % 4 = 0 := by
  unfold slotFault at e
  dsimp only at e
  split at e
  · cases e
  · split at e
    · cases e
    · next hf =>
      have hf : hdrFormed b = true := by simpa using hf
      have he : entryOk b = true := by
        unfold hdrFormed at hf
        simp only [Bool.and_eq_true] at hf
        exact hf.1.2
      unfold entryOk at he
      simp only [Bool.and_eq_true, beq_iff_eq] at he
      have h4 : hdr b 0x18 4 % 4 = 0 := he.1
      simp only [w32, BitVec.toNat_ofNat]
      omega

theorem loadPayload_keeps {c : Candidate} (h : Keeps q0 fz s) : Keeps q0 fz (loadPayload c s).2.2 := by
  have hk := bootFetch_keeps (r := c.slot) (first := 2) (n := hdrPayLen c.hdr) (errs := c.errs) h
  unfold loadPayload
  generalize bootFetch c.slot 2 (hdrPayLen c.hdr) c.errs s = y at hk ⊢
  exact hk

theorem romRegisters_wf {entry : Nat} (hs : s.core.wf = true) (he : (w32 entry).toNat % 4 = 0) :
    (romRegisters s entry).wf = true := by
  rw [core_wf_iff]
  refine ⟨he, ?_, (by decide : (0#32).toNat % 128 = 0), (by decide : (0x2001FEC0#32).toNat % 4 = 0), (core_wf_iff.1 hs).2.2.2.2⟩
  have hb : ∀ f0 f1 : Nat, StatOk (w32 (f0 % 16 + f1 % 4 * 2 ^ 4)) := by
    intro f0 f1
    have h64 : ∀ n < 64, StatOk (w32 n) := by unfold StatOk; decide
    exact h64 _ (by omega)
  exact hb _ _

theorem romJump_keeps {cand : Candidate} {pay : Bytes} {fell : Bool} {ra rb : Nat}
    (he : (w32 (hdr cand.hdr 0x18 4)).toNat % 4 = 0) (h : Keeps q0 fz s) : Keeps q0 fz (romJump cand pay fell ra rb s) := by
  unfold romJump
  extract_lets hd s1 s2 s3 c
  have h1 : Keeps q0 fz s1 := foldl_keeps (fun x g hx => mwrite_keeps hx) h
  have h2 : Keeps q0 fz s2 := { h1 with mem := tableWf_filter _ h1.mem }
  have h3 : Keeps q0 fz s3 := setBoot_keeps h2
  have hc : c.wf = true := romRegisters_wf h3.core he
  exact wdogReload_keeps { h3 with core := hc, commit := hc }

theorem romLoad_keeps {first : Candidate} {second : Option Candidate} {other : Nat} {put : Nat → Nat → Nat × Nat}
    (h1 : (w32 (hdr first.hdr 0x18 4)).toNat % 4 = 0)
    (h2 : ∀ c, second = some c → (w32 (hdr c.hdr 0x18 4)).toNat % 4 = 0) (h : Keeps q0 fz s) :
    Keeps q0 fz (romLoad first second other put s) := by
  unfold romLoad
  have hk := loadPayload_keeps (c := first) h
  split
  · rename_i e
    rw [e] at hk
    exact romJump_keeps h1 hk
  · rename_i e
    rw [e] at hk
    split
    · exact romHalt_keeps hk
    · rename_i next
      have hn := loadPayload_keeps (c := next) hk
      split
      · rename_i e2
        rw [e2] at hn
        exact romJump_keeps (h2 _ rfl) hn
      · rename_i e2
        rw [e2] at hn
        exact romHalt_keeps hn

theorem romRun_keeps {b : BootReads} {s0 : State} (h : Keeps q0 fz s0) : Keeps q0 fz (romRun b s0) := by
  unfold romRun
  extract_lets _ s
  have hs : Keeps q0 fz s := mkKeeps rfl rfl rfl rfl rfl rfl rfl h
  refine keeps_ite (fun _ => romHalt_keeps hs) fun _ => keeps_ite (fun _ => romHalt_keeps hs) fun _ => ?_
  have h1 := bootFetch_keeps (r := 0) (first := 0) (n := 8192) (errs := b.hdrA)
    (modVat_keeps (f := fun v => { v with asyncMode := v.asyncMax }) hs)
  split
  rename_i ha lostA s1 e1
  rw [e1] at h1
  have h2 := bootFetch_keeps (r := 1) (first := 0) (n := 8192) (errs := b.hdrB) h1
  split
  rename_i hb lostB s2 e2
  rw [e2] at h2
  extract_lets ca cb ab ba
  split
  · exact romHalt_keeps h2
  · rename_i ea _
    exact romLoad_keeps (entry_aligned ea) (fun _ e => nomatch e) h2
  · rename_i eb
    exact romLoad_keeps (entry_aligned eb) (fun _ e => nomatch e) h2
  · rename_i ea eb
    exact keeps_ite (fun _ => romLoad_keeps (entry_aligned eb) (fun c e => by cases e; exact entry_aligned ea) h2)
      fun _ => romLoad_keeps (entry_aligned ea) (fun c e => by cases e; exact entry_aligned eb) h2

theorem romStart_keeps {b : BootReads} (h : Keeps q0 fz s) :
    Keeps q0 fz (romStart b s) := by
  unfold romStart
  with_reducible repeat' first
    | assumption | apply foldl_keeps | (extract_lets; fail_if_success done) | apply keeps_ite <;> intro _ | split
    | apply romRun_keeps | refine mkKeeps rfl rfl rfl rfl rfl rfl rfl ?_
    | intro _

theorem execVatMountDone_keeps {a : MountAnswer} {boot : BootReads} (h : Keeps q0 fz s) :
    OutKeeps q0 fz (execVatMountDone a boot s) := by
  unfold execVatMountDone
  with_reducible repeat' first
    | assumption | apply foldl_keeps | (extract_lets; fail_if_success done) | apply keeps_ite <;> intro _ | split
    | apply live_keeps | apply mountStore_keeps | apply romRun_keeps | apply next_keeps
    | refine mkKeeps rfl rfl rfl rfl rfl rfl rfl ?_
    | intro _

end Sys2Proof.Machine
end

