-- ==== Sys2Proof/Laws/KeepsLoft.lean ====
section
/-! SUPPORT. What no command may spoil is kept by the functions of Machine/Loft.lean. -/

namespace Sys2Proof.Machine

set_option Elab.async false

variable {q0 : List Instr} {fz : FuseBits} {s : State}

theorem modLoft_keeps {f : Loft → Loft} (h : Keeps q0 fz s) : Keeps q0 fz (modLoft f s) :=
  mkKeeps rfl rfl rfl rfl rfl rfl rfl h

theorem loftRaise_keeps {n : Nat} (h : Keeps q0 fz s) :
    Keeps q0 fz (loftRaise n s) := by
  unfold loftRaise
  with_reducible repeat' first
    | assumption | apply foldl_keeps | (extract_lets; fail_if_success done) | apply keeps_ite <;> intro _ | split
    | apply raise_keeps | apply modLoft_keeps | refine mkKeeps rfl rfl rfl rfl rfl rfl rfl ?_
    | intro _

theorem wakeNote_keeps {n : Nat} (h : Keeps q0 fz s) :
    Keeps q0 fz (wakeNote n s) := by
  unfold wakeNote
  with_reducible repeat' first
    | assumption | apply foldl_keeps | (extract_lets; fail_if_success done) | apply keeps_ite <;> intro _ | split
    | apply modLoft_keeps | refine mkKeeps rfl rfl rfl rfl rfl rfl rfl ?_
    | intro _

theorem countCrystal_keeps {k : Nat} (h : Keeps q0 fz s) :
    Keeps q0 fz (countCrystal k s) := by
  unfold countCrystal
  with_reducible repeat' first
    | assumption | apply foldl_keeps | (extract_lets; fail_if_success done) | apply keeps_ite <;> intro _ | split
    | apply modLoft_keeps | refine mkKeeps rfl rfl rfl rfl rfl rfl rfl ?_
    | intro _

theorem setSeconds_keeps {sec sub : Nat} (h : Keeps q0 fz s) :
    Keeps q0 fz (setSeconds sec sub s) := by
  unfold setSeconds
  with_reducible repeat' first
    | assumption | apply foldl_keeps | (extract_lets; fail_if_success done) | apply keeps_ite <;> intro _ | split
    | apply modLoft_keeps | apply wakeNote_keeps | apply raise_keeps | refine mkKeeps rfl rfl rfl rfl rfl rfl rfl ?_
    | intro _

theorem loftApply_keeps {o : Nat} {m v0 : Word} (h : Keeps q0 fz s) :
    Keeps q0 fz (loftApply o m v0 s) := by
  unfold loftApply
  with_reducible repeat' first
    | assumption | apply foldl_keeps | (extract_lets; fail_if_success done) | apply keeps_ite <;> intro _ | split
    | apply setSeconds_keeps | apply writeTyped_keeps | refine mkKeeps rfl rfl rfl rfl rfl rfl rfl ?_
    | intro _

theorem loftQueue_keeps {o : Nat} {m v : Word} (h : Keeps q0 fz s) :
    Keeps q0 fz (loftQueue o m v s) := by
  unfold loftQueue
  with_reducible repeat' first
    | assumption | apply foldl_keeps | (extract_lets; fail_if_success done) | apply keeps_ite <;> intro _ | split
    | apply modLoft_keeps | apply putBit_keeps | refine mkKeeps rfl rfl rfl rfl rfl rfl rfl ?_
    | intro _

theorem loftWrite_keeps {o : Nat} {v : Word} (h : Keeps q0 fz s) :
    Keeps q0 fz (loftWrite o v s) := by
  unfold loftWrite
  with_reducible repeat' first
    | assumption | apply foldl_keeps | (extract_lets; fail_if_success done) | apply keeps_ite <;> intro _ | split
    | apply loftQueue_keeps | refine mkKeeps rfl rfl rfl rfl rfl rfl rfl ?_
    | intro _

theorem loftReadEffect_keeps {o : Nat} (h : Keeps q0 fz s) :
    Keeps q0 fz (loftReadEffect o s) := by
  unfold loftReadEffect
  with_reducible repeat' first
    | assumption | apply foldl_keeps | (extract_lets; fail_if_success done) | apply keeps_ite <;> intro _ | split
    | apply freeNext_keeps | apply modLoft_keeps | apply countCrystal_keeps
    | refine mkKeeps rfl rfl rfl rfl rfl rfl rfl ?_
    | intro _

theorem execLoftReset_keeps (h : Keeps q0 fz s) :
    OutKeeps q0 fz (execLoftReset s) := by
  unfold execLoftReset
  with_reducible repeat' first
    | assumption | apply foldl_keeps | (extract_lets; fail_if_success done) | apply keeps_ite <;> intro _ | split
    | apply setRegN_keeps | apply clearAll_keeps | apply next_keeps | refine mkKeeps rfl rfl rfl rfl rfl rfl rfl ?_
    | intro _

theorem execVddAonRemoval_keeps (h : Keeps q0 fz s) :
    OutKeeps q0 fz (execVddAonRemoval s) := by
  unfold execVddAonRemoval
  with_reducible repeat' first
    | assumption | apply foldl_keeps | (extract_lets; fail_if_success done) | apply keeps_ite <;> intro _ | split
    | apply setRegN_keeps | apply clearAll_keeps | apply next_keeps | refine mkKeeps rfl rfl rfl rfl rfl rfl rfl ?_
    | intro _

theorem execXtalStart_keeps (h : Keeps q0 fz s) :
    OutKeeps q0 fz (execXtalStart s) := by
  unfold execXtalStart
  with_reducible repeat' first
    | assumption | apply foldl_keeps | (extract_lets; fail_if_success done) | apply keeps_ite <;> intro _ | split
    | apply modLoft_keeps | apply next_keeps | refine mkKeeps rfl rfl rfl rfl rfl rfl rfl ?_
    | intro _

theorem execXtalFail_keeps (h : Keeps q0 fz s) :
    OutKeeps q0 fz (execXtalFail s) := by
  unfold execXtalFail
  with_reducible repeat' first
    | assumption | apply foldl_keeps | (extract_lets; fail_if_success done) | apply keeps_ite <;> intro _ | split
    | apply live_keeps | apply putBit_keeps | apply raise_keeps | apply modLoft_keeps | apply next_keeps
    | refine mkKeeps rfl rfl rfl rfl rfl rfl rfl ?_
    | intro _

theorem execLoftWriteApply_keeps (h : Keeps q0 fz s) :
    OutKeeps q0 fz (execLoftWriteApply s) := by
  unfold execLoftWriteApply
  with_reducible repeat' first
    | assumption | apply foldl_keeps | (extract_lets; fail_if_success done) | apply keeps_ite <;> intro _ | split
    | apply modLoft_keeps | apply loftApply_keeps | apply next_keeps | refine mkKeeps rfl rfl rfl rfl rfl rfl rfl ?_
    | intro _

theorem execRtcSecond_keeps (h : Keeps q0 fz s) :
    OutKeeps q0 fz (execRtcSecond s) := by
  unfold execRtcSecond
  with_reducible repeat' first
    | assumption | apply foldl_keeps | (extract_lets; fail_if_success done) | apply keeps_ite <;> intro _ | split
    | apply next_keeps | apply next_keeps | apply countCrystal_keeps | apply setSeconds_keeps | apply raise_keeps
    | refine mkKeeps rfl rfl rfl rfl rfl rfl rfl ?_
    | intro _

theorem execRtcSet_keeps {sec : Word} (h : Keeps q0 fz s) : OutKeeps q0 fz (execRtcSet sec s) :=
  next_keeps (live_keeps (fun _ hx => loftWrite_keeps hx) h)

theorem execRtcSubRead_keeps (h : Keeps q0 fz s) : OutKeeps q0 fz (execRtcSubRead s) :=
  next_keeps (live_keeps (fun _ hx => loftReadEffect_keeps (emit_keeps hx)) h)

theorem stampTamper_keeps {n : Nat} (h : Keeps q0 fz s) : Keeps q0 fz (stampTamper n s) :=
  mkKeeps rfl rfl rfl rfl rfl rfl rfl h

theorem execTamperEdge_keeps {n : Fin 4} {rising : Bool} (h : Keeps q0 fz s) :
    OutKeeps q0 fz (execTamperEdge n rising s) := by
  unfold execTamperEdge
  with_reducible repeat' first
    | assumption | apply foldl_keeps | (extract_lets; fail_if_success done) | apply keeps_ite <;> intro _ | split
    | apply putBit_keeps | apply loftRaise_keeps | apply stampTamper_keeps | apply next_keeps
    | refine mkKeeps rfl rfl rfl rfl rfl rfl rfl ?_
    | intro _

theorem execPwrbtnEdge_keeps (h : Keeps q0 fz s) :
    OutKeeps q0 fz (execPwrbtnEdge s) := by
  unfold execPwrbtnEdge
  with_reducible repeat' first
    | assumption | apply foldl_keeps | (extract_lets; fail_if_success done) | apply keeps_ite <;> intro _ | split
    | apply putBit_keeps | apply modLoft_keeps | apply next_keeps | refine mkKeeps rfl rfl rfl rfl rfl rfl rfl ?_
    | intro _

theorem execTamperSample_keeps {n : Fin 4} {level : BandLevel} (h : Keeps q0 fz s) :
    OutKeeps q0 fz (execTamperSample n level s) := by
  unfold execTamperSample
  with_reducible repeat' first
    | assumption | apply foldl_keeps | (extract_lets; fail_if_success done) | apply keeps_ite <;> intro _ | split
    | apply next_keeps | apply next_keeps | apply stampTamper_keeps | apply modLoft_keeps | apply wakeNote_keeps
    | apply loftRaise_keeps | refine keeps_snd (by assumption) ?_ | refine keeps_fst (by assumption) ?_
    | refine mkKeeps rfl rfl rfl rfl rfl rfl rfl ?_
    | intro _

theorem execPwrbtnPress_keeps {pressed : Bool} (h : Keeps q0 fz s) :
    OutKeeps q0 fz (execPwrbtnPress pressed s) := by
  unfold execPwrbtnPress
  with_reducible repeat' first
    | assumption | apply foldl_keeps | (extract_lets; fail_if_success done) | apply keeps_ite <;> intro _ | split
    | apply raise_keeps | apply modLoft_keeps | apply next_keeps | refine mkKeeps rfl rfl rfl rfl rfl rfl rfl ?_
    | intro _

theorem execPwrbtnLong_keeps (h : Keeps q0 fz s) :
    OutKeeps q0 fz (execPwrbtnLong s) := by
  unfold execPwrbtnLong
  with_reducible repeat' first
    | assumption | apply foldl_keeps | (extract_lets; fail_if_success done) | apply keeps_ite <;> intro _ | split
    | apply raise_keeps | apply modLoft_keeps | apply next_keeps | refine mkKeeps rfl rfl rfl rfl rfl rfl rfl ?_
    | intro _

theorem execForcedOff_keeps (h : Keeps q0 fz s) :
    OutKeeps q0 fz (execForcedOff s) := by
  unfold execForcedOff
  with_reducible repeat' first
    | assumption | apply foldl_keeps | (extract_lets; fail_if_success done) | apply keeps_ite <;> intro _ | split
    | apply putBit_keeps | apply clearAll_keeps | apply modLoft_keeps | apply next_keeps
    | refine mkKeeps rfl rfl rfl rfl rfl rfl rfl ?_
    | intro _

theorem execPwrEnRise_keeps (h : Keeps q0 fz s) :
    OutKeeps q0 fz (execPwrEnRise s) := by
  unfold execPwrEnRise
  with_reducible repeat' first
    | assumption | apply foldl_keeps | (extract_lets; fail_if_success done) | apply keeps_ite <;> intro _ | split
    | apply modLoft_keeps | apply next_keeps | refine mkKeeps rfl rfl rfl rfl rfl rfl rfl ?_
    | intro _

theorem loftRelease_keeps (h : Keeps q0 fz s) :
    Keeps q0 fz (loftRelease s) := by
  unfold loftRelease
  with_reducible repeat' first
    | assumption | apply foldl_keeps | (extract_lets; fail_if_success done) | apply keeps_ite <;> intro _ | split
    | apply putBit_keeps | apply raise_keeps | apply raiseAll_keeps | apply modLoft_keeps
    | refine mkKeeps rfl rfl rfl rfl rfl rfl rfl ?_
    | intro _

end Sys2Proof.Machine
end

