-- ==== Sys2Proof/Laws/KeepsTel.lean ====
section
/-! SUPPORT. What no command may spoil is kept by the functions of Machine/Tel.lean. -/

namespace Sys2Proof.Machine

set_option Elab.async false

variable {q0 : List Instr} {fz : FuseBits} {s : State}

theorem telSample_keeps {rails : List Nat} (h : Keeps q0 fz s) :
    Keeps q0 fz (telSample rails s) := by
  unfold telSample
  with_reducible repeat' first
    | assumption | apply foldl_keeps | (extract_lets; fail_if_success done) | apply keeps_ite <;> intro _ | split
    | apply setReg_keeps | apply orReg_keeps | apply setRegN_keeps | refine mkKeeps rfl rfl rfl rfl rfl rfl rfl ?_
    | intro _

theorem execSensorCal_keeps {sensor : Fin 6} (h : Keeps q0 fz s) :
    OutKeeps q0 fz (execSensorCal sensor s) :=
  next_keeps (live_keeps (fun _ hx => mkKeeps rfl rfl rfl rfl rfl rfl rfl hx) h)

theorem telReadEffect_keeps {o : Nat} (h : Keeps q0 fz s) :
    Keeps q0 fz (telReadEffect o s) := by
  unfold telReadEffect
  with_reducible repeat' first
    | assumption | apply foldl_keeps | (extract_lets; fail_if_success done) | apply keeps_ite <;> intro _ | split
    | apply readClears_keeps | refine mkKeeps rfl rfl rfl rfl rfl rfl rfl ?_
    | intro _

theorem telWrite_keeps {o : Nat} {v : Word} (h : Keeps q0 fz s) : Keeps q0 fz (telWrite o v s) :=
  mkKeeps rfl rfl rfl rfl rfl rfl rfl h

end Sys2Proof.Machine
end

