-- ==== Sys2Proof/Laws/KeepsRoot.lean ====
section
/-! SUPPORT. What no command may spoil is kept by the functions of Machine/Root.lean. -/

namespace Sys2Proof.Machine

set_option Elab.async false

variable {q0 : List Instr} {fz : FuseBits} {s : State}

theorem modClk_keeps {f : Clk → Clk} (h : Keeps q0 fz s) : Keeps q0 fz (modClk f s) := mkKeeps rfl rfl rfl rfl rfl rfl rfl h

theorem lowActs_keeps {min ns : Nat} {act : State → State} (hact : ∀ x0, Keeps q0 fz x0 → Keeps q0 fz (act x0)) (h : Keeps q0 fz s) :
    Keeps q0 fz (lowActs min ns act s) := by
  unfold lowActs
  with_reducible repeat' first
    | assumption | apply foldl_keeps | (extract_lets; fail_if_success done) | apply keeps_ite <;> intro _ | split
    | apply hact | apply freeNext_keeps | refine mkKeeps rfl rfl rfl rfl rfl rfl rfl ?_
    | intro _

theorem execColdReset_keeps {lowNs : Nat} (h : Keeps q0 fz s) :
    OutKeeps q0 fz (execColdReset lowNs s) := by
  unfold execColdReset
  with_reducible repeat' first
    | assumption | apply foldl_keeps | (extract_lets; fail_if_success done) | apply keeps_ite <;> intro _ | split
    | apply resetCause_keeps | apply lowActs_keeps | apply next_keeps | refine mkKeeps rfl rfl rfl rfl rfl rfl rfl ?_
    | intro _

theorem execWarmReset_keeps {lowNs : Nat} (h : Keeps q0 fz s) :
    OutKeeps q0 fz (execWarmReset lowNs s) := by
  unfold execWarmReset
  with_reducible repeat' first
    | assumption | apply foldl_keeps | (extract_lets; fail_if_success done) | apply keeps_ite <;> intro _ | split
    | apply resetCause_keeps | apply lowActs_keeps | apply next_keeps | refine mkKeeps rfl rfl rfl rfl rfl rfl rfl ?_
    | intro _

theorem execCoreSupervisorReset_keeps {lowNs : Nat} (h : Keeps q0 fz s) :
    OutKeeps q0 fz (execCoreSupervisorReset lowNs s) := by
  unfold execCoreSupervisorReset
  with_reducible repeat' first
    | assumption | apply foldl_keeps | (extract_lets; fail_if_success done) | apply keeps_ite <;> intro _ | split
    | apply resetCause_keeps | apply lowActs_keeps | apply next_keeps | refine mkKeeps rfl rfl rfl rfl rfl rfl rfl ?_
    | intro _

theorem execClkLoss_keeps (h : Keeps q0 fz s) :
    OutKeeps q0 fz (execClkLoss s) := by
  unfold execClkLoss
  with_reducible repeat' first
    | assumption | apply foldl_keeps | (extract_lets; fail_if_success done) | apply keeps_ite <;> intro _ | split
    | apply resetCause_keeps | apply modClk_keeps | apply next_keeps | refine mkKeeps rfl rfl rfl rfl rfl rfl rfl ?_
    | intro _

theorem swrstWrite_keeps {v : Word} (h : Keeps q0 fz s) :
    Keeps q0 fz (swrstWrite v s) := by
  unfold swrstWrite
  with_reducible repeat' first
    | assumption | apply foldl_keeps | (extract_lets; fail_if_success done) | apply keeps_ite <;> intro _ | split
    | apply resetCause_keeps | refine mkKeeps rfl rfl rfl rfl rfl rfl rfl ?_
    | intro _

theorem execSwrst_keeps {key : Word} (h : Keeps q0 fz s) : OutKeeps q0 fz (execSwrst key s) :=
  next_keeps (live_keeps (fun _ hx => swrstWrite_keeps hx) h)

theorem beatPositions_keeps (h : Keeps q0 fz s) : Keeps q0 fz (beatPositions s) :=
  freeNext_keeps (mkKeeps rfl rfl rfl rfl rfl rfl rfl h)

theorem execResetRelease_keeps (h : Keeps q0 fz s) :
    OutKeeps q0 fz (execResetRelease s) := by
  unfold execResetRelease
  with_reducible repeat' first
    | assumption | apply foldl_keeps | (extract_lets; fail_if_success done) | apply keeps_ite <;> intro _ | split
    | apply wdogReload_keeps | apply setCause_keeps | apply senseFuses_keeps | apply modLoft_keeps
    | apply loftRelease_keeps | apply beatPositions_keeps | apply next_keeps
    | refine mkKeeps rfl rfl rfl rfl rfl rfl rfl ?_
    | intro _

theorem pxdivApply_keeps (h : Keeps q0 fz s) :
    Keeps q0 fz (pxdivApply s) := by
  unfold pxdivApply
  with_reducible repeat' first
    | assumption | apply foldl_keeps | (extract_lets; fail_if_success done) | apply keeps_ite <;> intro _ | split
    | apply modClk_keeps | refine mkKeeps rfl rfl rfl rfl rfl rfl rfl ?_
    | intro _

theorem napSettle_keeps (h : Keeps q0 fz s) :
    Keeps q0 fz (napSettle s) := by
  unfold napSettle
  with_reducible repeat' first
    | assumption | apply foldl_keeps | (extract_lets; fail_if_success done) | apply keeps_ite <;> intro _ | split
    | apply rasterOff_keeps | apply audioStop_keeps | apply pinsHold_keeps | apply modClk_keeps
    | apply pxdivApply_keeps | refine mkKeeps rfl rfl rfl rfl rfl rfl rfl ?_
    | intro _

theorem napExit_keeps (h : Keeps q0 fz s) :
    Keeps q0 fz (napExit s) := by
  unfold napExit
  with_reducible repeat' first
    | assumption | apply foldl_keeps | (extract_lets; fail_if_success done) | apply keeps_ite <;> intro _ | split
    | apply audioStart_keeps | apply modClk_keeps | refine mkKeeps rfl rfl rfl rfl rfl rfl rfl ?_
    | intro _

theorem sleepBegin_keeps (h : Keeps q0 fz s) :
    Keeps q0 fz (sleepBegin s) := by
  unfold sleepBegin
  with_reducible repeat' first
    | assumption | apply foldl_keeps | (extract_lets; fail_if_success done) | apply keeps_ite <;> intro _ | split
    | apply vatStop_keeps | refine mkKeeps rfl rfl rfl rfl rfl rfl rfl ?_
    | intro _

theorem dimReached_keeps (h : Keeps q0 fz s) :
    Keeps q0 fz (dimReached s) := by
  unfold dimReached
  with_reducible repeat' first
    | assumption | apply foldl_keeps | (extract_lets; fail_if_success done) | apply keeps_ite <;> intro _ | split
    | apply portsDim_keeps | apply modClk_keeps | apply napSettle_keeps | apply sleepBegin_keeps
    | refine mkKeeps rfl rfl rfl rfl rfl rfl rfl ?_
    | intro _

theorem psreqWrite_keeps {v : Word} (h : Keeps q0 fz s) :
    Keeps q0 fz (psreqWrite v s) := by
  unfold psreqWrite
  with_reducible repeat' first
    | assumption | apply foldl_keeps | (extract_lets; fail_if_success done) | apply keeps_ite <;> intro _ | split
    | apply setRegN_keeps | apply modClk_keeps | apply napExit_keeps | apply napSettle_keeps | apply sleepBegin_keeps
    | refine mkKeeps rfl rfl rfl rfl rfl rfl rfl ?_
    | intro _

theorem execPsreqRun_keeps (h : Keeps q0 fz s) : OutKeeps q0 fz (execPsreqRun s) :=
  next_keeps (live_keeps (fun _ hx => psreqWrite_keeps hx) h)

theorem execPsreqDim_keeps (h : Keeps q0 fz s) : OutKeeps q0 fz (execPsreqDim s) :=
  next_keeps (live_keeps (fun _ hx => psreqWrite_keeps hx) h)

theorem execPsreqNap_keeps (h : Keeps q0 fz s) : OutKeeps q0 fz (execPsreqNap s) :=
  next_keeps (live_keeps (fun _ hx => psreqWrite_keeps hx) h)

theorem execPsreqSleep_keeps (h : Keeps q0 fz s) : OutKeeps q0 fz (execPsreqSleep s) :=
  next_keeps (live_keeps (fun _ hx => psreqWrite_keeps hx) h)

theorem execDimDrainEnd_keeps (h : Keeps q0 fz s) :
    OutKeeps q0 fz (execDimDrainEnd s) := by
  unfold execDimDrainEnd
  with_reducible repeat' first
    | assumption | apply foldl_keeps | (extract_lets; fail_if_success done) | apply keeps_ite <;> intro _ | split
    | apply live_keeps | apply finish_keeps | apply dimReached_keeps | apply next_keeps
    | refine mkKeeps rfl rfl rfl rfl rfl rfl rfl ?_
    | intro _

theorem dimDiscard_keeps {f : Sheet} (h : Keeps q0 fz s) :
    Keeps q0 fz (dimDiscard f s) := by
  unfold dimDiscard
  with_reducible repeat' first
    | assumption | apply foldl_keeps | (extract_lets; fail_if_success done) | apply keeps_ite <;> intro _ | split
    | apply sendOut_keeps | apply cntAdd_keeps | apply discardFrm_keeps
    | refine mkKeeps rfl rfl rfl rfl rfl rfl rfl ?_
    | intro _

theorem dimPending_keeps {d : Nat} (h : Keeps q0 fz s) :
    Keeps q0 fz (dimPending d s) := by
  unfold dimPending
  with_reducible repeat' first
    | assumption | apply foldl_keeps | (extract_lets; fail_if_success done) | apply keeps_ite <;> intro _ | split
    | apply cntAdd_keeps | apply modCal_keeps | refine mkKeeps rfl rfl rfl rfl rfl rfl rfl ?_
    | intro _

theorem execDimDrainTimeout_keeps (h : Keeps q0 fz s) :
    OutKeeps q0 fz (execDimDrainTimeout s) := by
  unfold execDimDrainTimeout
  with_reducible repeat' first
    | assumption | apply foldl_keeps | (extract_lets; fail_if_success done) | apply keeps_ite <;> intro _ | split
    | apply next_keeps | apply next_keeps | apply live_keeps | apply dimReached_keeps | apply foldl_keeps
    | apply dimPending_keeps | apply dimDiscard_keeps | refine mkKeeps rfl rfl rfl rfl rfl rfl rfl ?_
    | intro _

theorem execDimExitDone_keeps (h : Keeps q0 fz s) :
    OutKeeps q0 fz (execDimExitDone s) := by
  unfold execDimExitDone
  with_reducible repeat' first
    | assumption | apply foldl_keeps | (extract_lets; fail_if_success done) | apply keeps_ite <;> intro _ | split
    | apply live_keeps | apply modClk_keeps | apply next_keeps | refine mkKeeps rfl rfl rfl rfl rfl rfl rfl ?_
    | intro _

theorem execSleepEntryDone_keeps (h : Keeps q0 fz s) :
    OutKeeps q0 fz (execSleepEntryDone s) := by
  unfold execSleepEntryDone
  with_reducible repeat' first
    | assumption | apply foldl_keeps | (extract_lets; fail_if_success done) | apply keeps_ite <;> intro _ | split
    | apply live_keeps | apply clearAll_keeps | apply padsLatch_keeps | apply modLoft_keeps | apply modClk_keeps
    | apply next_keeps | refine mkKeeps rfl rfl rfl rfl rfl rfl rfl ?_
    | intro _

theorem thermalTrip_keeps (h : Keeps q0 fz s) :
    Keeps q0 fz (thermalTrip s) := by
  unfold thermalTrip
  with_reducible repeat' first
    | assumption | apply foldl_keeps | (extract_lets; fail_if_success done) | apply keeps_ite <;> intro _ | split
    | apply modClk_keeps | apply resetCause_keeps | refine mkKeeps rfl rfl rfl rfl rfl rfl rfl ?_
    | intro _

theorem heldSample_keeps {temps : List Int} (h : Keeps q0 fz s) :
    Keeps q0 fz (heldSample temps s) := by
  unfold heldSample
  with_reducible repeat' first
    | assumption | apply foldl_keeps | (extract_lets; fail_if_success done) | apply keeps_ite <;> intro _ | split
    | apply thermalTrip_keeps | apply modClk_keeps | refine mkKeeps rfl rfl rfl rfl rfl rfl rfl ?_
    | intro _

theorem execTelemetrySample_keeps {temps : List Int} {rails : List Nat} (h : Keeps q0 fz s) :
    OutKeeps q0 fz (execTelemetrySample temps rails s) := by
  unfold execTelemetrySample
  with_reducible repeat' first
    | assumption | apply foldl_keeps | (extract_lets; fail_if_success done) | apply keeps_ite <;> intro _ | split
    | apply next_keeps | apply next_keeps | apply heldSample_keeps | apply telSample_keeps | apply modClk_keeps
    | apply noteRate_keeps | apply thermalTrip_keeps
    | refine keeps_snd (by assumption) ?_ | refine keeps_fst (by assumption) ?_
    | refine mkKeeps rfl rfl rfl rfl rfl rfl rfl ?_
    | intro _

theorem execDroopStart_keeps (h : Keeps q0 fz s) :
    OutKeeps q0 fz (execDroopStart s) := by
  unfold execDroopStart
  with_reducible repeat' first
    | assumption | apply foldl_keeps | (extract_lets; fail_if_success done) | apply keeps_ite <;> intro _ | split
    | apply next_keeps | apply next_keeps | apply live_keeps | apply noteRate_keeps | apply setRegN_keeps
    | apply modClk_keeps | refine mkKeeps rfl rfl rfl rfl rfl rfl rfl ?_
    | intro _

theorem execDroopEnd_keeps (h : Keeps q0 fz s) :
    OutKeeps q0 fz (execDroopEnd s) := by
  unfold execDroopEnd
  with_reducible repeat' first
    | assumption | apply foldl_keeps | (extract_lets; fail_if_success done) | apply keeps_ite <;> intro _ | split
    | apply next_keeps | apply next_keeps | apply live_keeps | apply noteRate_keeps | apply modClk_keeps
    | refine mkKeeps rfl rfl rfl rfl rfl rfl rfl ?_
    | intro _

theorem pxdivWrite_keeps {v : Word} (h : Keeps q0 fz s) :
    Keeps q0 fz (pxdivWrite v s) := by
  unfold pxdivWrite
  with_reducible repeat' first
    | assumption | apply foldl_keeps | (extract_lets; fail_if_success done) | apply keeps_ite <;> intro _ | split
    | apply setRegN_keeps | apply modClk_keeps | refine mkKeeps rfl rfl rfl rfl rfl rfl rfl ?_
    | intro _

theorem execPxdiv_keeps {v : Word} (h : Keeps q0 fz s) : OutKeeps q0 fz (execPxdiv v s) :=
  next_keeps (live_keeps (fun _ hx => pxdivWrite_keeps hx) h)

theorem gateWrite_keeps {v : Word} (h : Keeps q0 fz s) :
    Keeps q0 fz (gateWrite v s) := by
  unfold gateWrite
  with_reducible repeat' first
    | assumption | apply foldl_keeps | (extract_lets; fail_if_success done) | apply keeps_ite <;> intro _ | split
    | apply writeTyped_keeps | apply rasterOff_keeps | apply audioStart_keeps | apply audioStop_keeps
    | apply pxdivApply_keeps | refine mkKeeps rfl rfl rfl rfl rfl rfl rfl ?_
    | intro _

theorem execClkGate_keeps {v : Word} (h : Keeps q0 fz s) : OutKeeps q0 fz (execClkGate v s) :=
  next_keeps (live_keeps (fun _ hx => gateWrite_keeps hx) h)

theorem clkReadEffect_keeps {o : Nat} (h : Keeps q0 fz s) : Keeps q0 fz (clkReadEffect o s) := readClears_keeps h

theorem clkWrite_keeps {o : Nat} {v : Word} (h : Keeps q0 fz s) :
    Keeps q0 fz (clkWrite o v s) := by
  unfold clkWrite
  with_reducible repeat' first
    | assumption | apply foldl_keeps | (extract_lets; fail_if_success done) | apply keeps_ite <;> intro _ | split
    | apply writeTyped_keeps | apply swrstWrite_keeps | apply psreqWrite_keeps | apply pxdivWrite_keeps
    | apply gateWrite_keeps | refine mkKeeps rfl rfl rfl rfl rfl rfl rfl ?_
    | intro _

end Sys2Proof.Machine
end

