-- ==== Sys2Proof/Laws/KeepsRaster.lean ====
section
/-! SUPPORT. What no command may spoil is kept by the functions of Machine/Raster.lean. -/

namespace Sys2Proof.Machine

set_option Elab.async false

variable {q0 : List Instr} {fz : FuseBits} {s : State}

theorem pnlFlag_keeps {i : Nat} (h : Keeps q0 fz s) : Keeps q0 fz (pnlFlag i s) := mkKeeps rfl rfl rfl rfl rfl rfl rfl h

theorem cmpEvent_keeps {i n : Nat} (h : Keeps q0 fz s) : Keeps q0 fz (cmpEvent i n s) :=
  raise_keeps (mkKeeps rfl rfl rfl rfl rfl rfl rfl h)

theorem applyTiming_keeps (h : Keeps q0 fz s) :
    Keeps q0 fz (applyTiming s) := by
  unfold applyTiming
  with_reducible repeat' first
    | assumption | apply foldl_keeps | (extract_lets; fail_if_success done) | apply keeps_ite <;> intro _ | split
    | apply live_keeps | apply panelChange_keeps | apply raise_keeps | apply modPanel_keeps | apply pnlFlag_keeps
    | refine mkKeeps rfl rfl rfl rfl rfl rfl rfl ?_
    | intro _

theorem lineDone_keeps {w : LineWork} {trimmed reused late : Bool} {used : Nat} (h : Keeps q0 fz s) :
    Keeps q0 fz (lineDone w trimmed reused late used s) := by
  unfold lineDone
  extract_lets s1
  have h1 : Keeps q0 fz s1 := setRegN_keeps (setRegN_keeps (modPanel_keeps h))
  exact keeps_ite (fun _ => incReg_keeps (cmpEvent_keeps h1)) fun _ => h1

theorem noteStored_keeps {w : LineWork} (h : Keeps q0 fz s) : Keeps q0 fz (noteStored w s) := modPanel_keeps h

theorem reuseLine_keeps {w : LineWork} {stored : List Nat} {budget : Nat} (h : Keeps q0 fz s) :
    Keeps q0 fz (reuseLine w stored budget s).2 := lineDone_keeps (noteStored_keeps h)

theorem reuseStore_keeps {w : LineWork} {off budget : Nat} {d : Draft} (h : Keeps q0 fz s) :
    Keeps q0 fz (reuseStore w off budget d s) := by
  unfold reuseStore
  extract_lets want got s1
  have h1 : Keeps q0 fz s1 := storePixels_keeps h
  exact keeps_ite (fun _ => h1) fun _ => noteStored_keeps h1

theorem dandySample_keeps {w : LineWork} {layers : List LayerWork} {px : List Nat} (h : Keeps q0 fz s) :
    Keeps q0 fz (dandySample w layers px s) := by
  unfold dandySample
  extract_lets n s1
  have h1 : Keeps q0 fz s1 := modPanel_keeps h
  exact keeps_ite (fun _ => modPanel_keeps h1) fun _ => h1

theorem newLine_keeps {w : LineWork} {layers : List LayerWork} {sp : List (Nat × Nat)} (h : Keeps q0 fz s) :
    Keeps q0 fz (newLine w layers sp s).2 := by
  unfold newLine
  extract_lets budget tail plan d s1 s2 s3 s4
  have h1 : Keeps q0 fz s1 := raiseIf_keeps (keeps_ite (fun _ => putBit_keeps h) fun _ => h)
  have h2 : Keeps q0 fz s2 := keeps_ite (fun _ => cmpEvent_keeps h1) fun _ => h1
  have h3 : Keeps q0 fz s3 := dandySample_keeps h2
  have h4 : Keeps q0 fz s4 := by
    show Keeps q0 fz (match w.store with | some (off, _) => reuseStore w off budget d s3 | none => s3)
    split
    · exact reuseStore_keeps h3
    · exact h3
  exact lineDone_keeps h4

theorem composeStart_keeps {y : Nat} (h : Keeps q0 fz s) : Keeps q0 fz (composeStart y s) := by
  unfold composeStart
  extract_lets
  exact modPanel_keeps h

theorem composeEnd_keeps {w : LineWork} {times : List Nat} (h : Keeps q0 fz s) : Keeps q0 fz (composeEnd w times s).2 := by
  unfold composeEnd
  extract_lets sp layers
  rw [apply_ite Prod.snd]
  refine keeps_ite (fun _ => h) fun _ => ?_
  split
  · rw [apply_ite Prod.snd]
    exact keeps_ite (fun _ => reuseLine_keeps h) fun _ => newLine_keeps h
  · exact newLine_keeps h

theorem sendLine_keeps {y : Nat} {times : List Nat} (h : Keeps q0 fz s) : Keeps q0 fz (sendLine y times s) := by
  unfold sendLine
  extract_lets w r px trust
  have hr : Keeps q0 fz r.2 := composeEnd_keeps h
  exact emit_keeps (modPanel_keeps hr)

theorem sendBlank_keeps (h : Keeps q0 fz s) : Keeps q0 fz (sendBlank s) := emit_keeps h

theorem scanStart_keeps (h : Keeps q0 fz s) :
    Keeps q0 fz (scanStart s) := by
  unfold scanStart
  with_reducible repeat' first
    | assumption | apply foldl_keeps | (extract_lets; fail_if_success done) | apply keeps_ite <;> intro _ | split
    | apply raise_keeps | apply modPanel_keeps | apply checkCfg_keeps | apply sealFrame_keeps | apply pnlFlag_keeps
    | refine mkKeeps rfl rfl rfl rfl rfl rfl rfl ?_
    | intro _

theorem freezeCheck_keeps {sig : Nat} (h : Keeps q0 fz s) :
    Keeps q0 fz (freezeCheck sig s) := by
  unfold freezeCheck
  with_reducible repeat' first
    | assumption | apply foldl_keeps | (extract_lets; fail_if_success done) | apply keeps_ite <;> intro _ | split
    | apply raise_keeps | apply modPanel_keeps | apply pnlFlag_keeps | refine mkKeeps rfl rfl rfl rfl rfl rfl rfl ?_
    | intro _

theorem trustCheck_keeps {sig : Nat} (h : Keeps q0 fz s) :
    Keeps q0 fz (trustCheck sig s) := by
  unfold trustCheck
  with_reducible repeat' first
    | assumption | apply foldl_keeps | (extract_lets; fail_if_success done) | apply keeps_ite <;> intro _ | split
    | apply incReg_keeps | apply raise_keeps | apply pnlFlag_keeps | refine mkKeeps rfl rfl rfl rfl rfl rfl rfl ?_
    | intro _

theorem scanEnd_keeps (h : Keeps q0 fz s) :
    Keeps q0 fz (scanEnd s) := by
  unfold scanEnd
  with_reducible repeat' first
    | assumption | apply foldl_keeps | (extract_lets; fail_if_success done) | apply keeps_ite <;> intro _ | split
    | apply setReg_keeps | apply setRegN_keeps | apply modPanel_keeps | apply freezeCheck_keeps
    | apply trustCheck_keeps | refine mkKeeps rfl rfl rfl rfl rfl rfl rfl ?_
    | intro _

theorem wmarkCheck_keeps (h : Keeps q0 fz s) :
    Keeps q0 fz (wmarkCheck s) := by
  unfold wmarkCheck
  with_reducible repeat' first
    | assumption | apply foldl_keeps | (extract_lets; fail_if_success done) | apply keeps_ite <;> intro _ | split
    | apply raise_keeps | apply pnlFlag_keeps | refine mkKeeps rfl rfl rfl rfl rfl rfl rfl ?_
    | intro _

theorem lsClose_keeps {l : Nat} (h : Keeps q0 fz s) :
    Keeps q0 fz (lsClose l s) := by
  unfold lsClose
  with_reducible repeat' first
    | assumption | apply foldl_keeps | (extract_lets; fail_if_success done) | apply keeps_ite <;> intro _ | split
    | apply raise_keeps | apply pnlFlag_keeps | refine mkKeeps rfl rfl rfl rfl rfl rfl rfl ?_
    | intro _

theorem motionWindow_keeps {y : Nat} (h : Keeps q0 fz s) :
    Keeps q0 fz (motionWindow y s) := by
  unfold motionWindow
  with_reducible repeat' first
    | assumption | apply foldl_keeps | (extract_lets; fail_if_success done) | apply keeps_ite <;> intro _ | split
    | apply modPanel_keeps | refine mkKeeps rfl rfl rfl rfl rfl rfl rfl ?_
    | intro _

theorem lineCommon_keeps (h : Keeps q0 fz s) : Keeps q0 fz (lineCommon s) := by
  unfold lineCommon
  extract_lets t y s1 s2
  have h1 : Keeps q0 fz s1 := lsClose_keeps (wmarkCheck_keeps h)
  have h2 : Keeps q0 fz s2 := keeps_ite (fun _ => composeStart_keeps (motionWindow_keeps h1)) fun _ => h1
  exact startJob_keeps (startJob_keeps h2)

theorem lineStart_keeps {times : List Nat} (h : Keeps q0 fz s) : Keeps q0 fz (lineStart times s) := by
  unfold lineStart
  extract_lets t n s1 s2
  have h1 : Keeps q0 fz s1 := modPanel_keeps h
  have h2 : Keeps q0 fz s2 :=
    keeps_ite (fun _ => sendBlank_keeps (raise_keeps (pnlFlag_keeps (applyTiming_keeps (pxdivApply_keeps h1))))) fun _ =>
      keeps_ite (fun _ => sendLine_keeps (scanStart_keeps h1)) fun _ => keeps_ite (fun _ => sendLine_keeps h1) fun _ =>
        keeps_ite (fun _ => sendBlank_keeps (scanEnd_keeps h1)) fun _ => sendBlank_keeps h1
  exact lineCommon_keeps h2

theorem execLineStart_keeps {times : List Nat} (h : Keeps q0 fz s) : OutKeeps q0 fz (execLineStart times s) :=
  next_keeps (live_keeps (fun _ h => keeps_ite (fun _ => h) fun _ => keeps_ite (fun _ => rasterOff_keeps h)
    fun _ => lineStart_keeps h) h)

theorem execRasterStart_keeps (h : Keeps q0 fz s) : OutKeeps q0 fz (execRasterStart s) :=
  next_keeps (live_keeps (fun _ h => keeps_ite (fun _ => h) fun _ =>
    keeps_ite (fun _ => lineCommon_keeps (sendBlank_keeps (panelChange_keeps (modPanel_keeps h))))
      fun _ => pnlFlag_keeps (modPanel_keeps h)) h)

theorem lsRestart_keeps (h : Keeps q0 fz s) : Keeps q0 fz (lsRestart s) := mkKeeps rfl rfl rfl rfl rfl rfl rfl h

theorem execActiveEnd_keeps (h : Keeps q0 fz s) :
    OutKeeps q0 fz (execActiveEnd s) := by
  unfold execActiveEnd
  with_reducible repeat' first
    | assumption | apply foldl_keeps | (extract_lets; fail_if_success done) | apply keeps_ite <;> intro _ | split
    | apply live_keeps | apply modPanel_keeps | apply lsRestart_keeps | apply next_keeps
    | refine mkKeeps rfl rfl rfl rfl rfl rfl rfl ?_
    | intro _

theorem lsStep_keeps (h : Keeps q0 fz s) :
    Keeps q0 fz (lsStep s) := by
  unfold lsStep
  with_reducible repeat' first
    | assumption | apply foldl_keeps | (extract_lets; fail_if_success done) | apply keeps_ite <;> intro _ | split
    | apply raise_keeps | apply modPanel_keeps | apply cmpWrite_keeps | apply pnlFlag_keeps
    | refine mkKeeps rfl rfl rfl rfl rfl rfl rfl ?_
    | intro _

theorem execLsEntryWrite_keeps (h : Keeps q0 fz s) : OutKeeps q0 fz (execLsEntryWrite s) :=
  next_keeps (live_keeps (fun _ hx => lsStep_keeps hx) h)

theorem cmpCount_keeps {o : Nat} (h : Keeps q0 fz s) : Keeps q0 fz (cmpCount o s) := mkKeeps rfl rfl rfl rfl rfl rfl rfl h

theorem execDandyDone_keeps (h : Keeps q0 fz s) :
    OutKeeps q0 fz (execDandyDone s) := by
  unfold execDandyDone
  with_reducible repeat' first
    | assumption | apply foldl_keeps | (extract_lets; fail_if_success done) | apply keeps_ite <;> intro _ | split
    | apply live_keeps | apply setRegN_keeps | apply modPanel_keeps | apply cmpEvent_keeps | apply cmpCount_keeps
    | apply next_keeps | refine mkKeeps rfl rfl rfl rfl rfl rfl rfl ?_
    | intro _

theorem pnlReadEffect_keeps {o : Nat} (h : Keeps q0 fz s) : Keeps q0 fz (pnlReadEffect o s) := readClears_keeps h

theorem pnlWrite_keeps {o : Nat} {v : Word} (h : Keeps q0 fz s) :
    Keeps q0 fz (pnlWrite o v s) := by
  unfold pnlWrite
  with_reducible repeat' first
    | assumption | apply foldl_keeps | (extract_lets; fail_if_success done) | apply keeps_ite <;> intro _ | split
    | apply writeTyped_keeps | apply modPanel_keeps | apply live_keeps | apply emit_keeps
    | refine mkKeeps rfl rfl rfl rfl rfl rfl rfl ?_
    | intro _

end Sys2Proof.Machine
end

