-- ==== Sys2Proof/Laws/KeepsTimers.lean ====
section
/-! SUPPORT. What no command may spoil is kept by the functions of Machine/Timers.lean. -/

namespace Sys2Proof.Machine

set_option Elab.async false

variable {q0 : List Instr} {fz : FuseBits} {s : State}

theorem setPrescaler_keeps {n k : Nat} (h : Keeps q0 fz s) : Keeps q0 fz (setPrescaler n k s) :=
  mkKeeps rfl rfl rfl rfl rfl rfl rfl h

theorem tmrLoadLive_keeps {n : Nat} (h : Keeps q0 fz s) : Keeps q0 fz (tmrLoadLive n s) :=
  mkKeeps rfl rfl rfl rfl rfl rfl rfl h

theorem tmrWrap_keeps {n : Nat} (h : Keeps q0 fz s) :
    Keeps q0 fz (tmrWrap n s) := by
  unfold tmrWrap
  with_reducible repeat' first
    | assumption | apply foldl_keeps | (extract_lets; fail_if_success done) | apply keeps_ite <;> intro _ | split
    | apply live_keeps | apply putBit_keeps | apply setRegN_keeps | apply raise_keeps | apply tmrLoadLive_keeps
    | refine mkKeeps rfl rfl rfl rfl rfl rfl rfl ?_
    | intro _

theorem tmrMatch_keeps {n : Nat} (h : Keeps q0 fz s) :
    Keeps q0 fz (tmrMatch n s) := by
  unfold tmrMatch
  with_reducible repeat' first
    | assumption | apply foldl_keeps | (extract_lets; fail_if_success done) | apply keeps_ite <;> intro _ | split
    | apply putBit_keeps | apply raise_keeps | refine mkKeeps rfl rfl rfl rfl rfl rfl rfl ?_
    | intro _

theorem tmrCount_keeps {k n : Nat} (h : Keeps q0 fz s) :
    Keeps q0 fz (tmrCount k n s) := by
  induction k generalizing n s with
  | zero => exact h
  | succ m ih =>
    unfold tmrCount
    split
    · extract_lets s1
      split
      · exact ih (tmrMatch_keeps (tmrWrap_keeps h))
      · exact tmrMatch_keeps (tmrWrap_keeps h)
    · exact tmrMatch_keeps (setRegN_keeps h)

theorem tmrEvent_keeps {ev : TimerEvent} {n : Nat} (h : Keeps q0 fz s) :
    Keeps q0 fz (tmrEvent ev s n) := by
  unfold tmrEvent
  with_reducible repeat' first
    | assumption | apply foldl_keeps | (extract_lets; fail_if_success done) | apply keeps_ite <;> intro _ | split
    | apply live_keeps | apply setPrescaler_keeps | apply tmrCount_keeps | refine mkKeeps rfl rfl rfl rfl rfl rfl rfl ?_
    | intro _

theorem tmrStart_keeps {n : Nat} (h : Keeps q0 fz s) : Keeps q0 fz (tmrStart n s) :=
  setPrescaler_keeps (mkKeeps rfl rfl rfl rfl rfl rfl rfl h)

theorem tmrSetEn_keeps {v : Nat} (h : Keeps q0 fz s) :
    Keeps q0 fz (tmrSetEn v s) := by
  unfold tmrSetEn
  with_reducible repeat' first
    | assumption | apply foldl_keeps | (extract_lets; fail_if_success done) | apply keeps_ite <;> intro _ | split
    | apply setRegN_keeps | apply tmrStart_keeps | refine mkKeeps rfl rfl rfl rfl rfl rfl rfl ?_
    | intro _

theorem tmrStartWrite_keeps {go stop : Nat} (h : Keeps q0 fz s) : Keeps q0 fz (tmrStartWrite go stop s) := tmrSetEn_keeps h

theorem tmrLatch_keeps {n : Nat} (h : Keeps q0 fz s) :
    Keeps q0 fz (tmrLatch n s) := by
  unfold tmrLatch
  with_reducible repeat' first
    | assumption | apply foldl_keeps | (extract_lets; fail_if_success done) | apply keeps_ite <;> intro _ | split
    | apply setRegN_keeps | refine mkKeeps rfl rfl rfl rfl rfl rfl rfl ?_
    | intro _

theorem tmrWrite_keeps {o : Nat} {v : Word} (h : Keeps q0 fz s) :
    Keeps q0 fz (tmrWrite o v s) := by
  unfold tmrWrite
  with_reducible repeat' first
    | assumption | apply foldl_keeps | (extract_lets; fail_if_success done) | apply keeps_ite <;> intro _ | split
    | apply writeTyped_keeps | apply tmrSetEn_keeps | apply tmrStartWrite_keeps
    | refine mkKeeps rfl rfl rfl rfl rfl rfl rfl ?_
    | intro _

theorem tmrReadEffect_keeps {o : Nat} (h : Keeps q0 fz s) :
    Keeps q0 fz (tmrReadEffect o s) := by
  unfold tmrReadEffect
  with_reducible repeat' first
    | assumption | apply foldl_keeps | (extract_lets; fail_if_success done) | apply keeps_ite <;> intro _ | split
    | apply tmrLatch_keeps | refine mkKeeps rfl rfl rfl rfl rfl rfl rfl ?_
    | intro _

theorem execTimerEn_keeps {v : Word} (h : Keeps q0 fz s) : OutKeeps q0 fz (execTimerEn v s) :=
  next_keeps (live_keeps (fun _ hx => tmrWrite_keeps hx) h)

theorem execTimerGo_keeps {v : Word} (h : Keeps q0 fz s) : OutKeeps q0 fz (execTimerGo v s) :=
  next_keeps (live_keeps (fun _ hx => tmrStartWrite_keeps hx) h)

theorem execTimerStop_keeps {v : Word} (h : Keeps q0 fz s) : OutKeeps q0 fz (execTimerStop v s) :=
  next_keeps (live_keeps (fun _ hx => tmrStartWrite_keeps hx) h)

theorem execTimerCount_keeps {ev : TimerEvent} (h : Keeps q0 fz s) :
    OutKeeps q0 fz (execTimerCount ev s) := by
  unfold execTimerCount
  with_reducible repeat' first
    | assumption | apply foldl_keeps | (extract_lets; fail_if_success done) | apply keeps_ite <;> intro _ | split
    | apply live_keeps | apply tmrEvent_keeps | apply next_keeps | refine mkKeeps rfl rfl rfl rfl rfl rfl rfl ?_
    | intro _

theorem execTimerCountRead_keeps {n : Fin 8} (h : Keeps q0 fz s) : OutKeeps q0 fz (execTimerCountRead n s) :=
  next_keeps (live_keeps (fun _ hx => tmrLatch_keeps (emit_keeps hx)) h)

end Sys2Proof.Machine
end

