-- ==== Sys2Proof/Laws/KeepsBus.lean ====
section
/-! SUPPORT. What no command may spoil is kept by the functions of Machine/Bus.lean. -/

namespace Sys2Proof.Machine

set_option Elab.async false

variable {q0 : List Instr} {fz : FuseBits} {s : State}

theorem regReadEffect_keeps {a : Nat} (h : Keeps q0 fz s) :
    Keeps q0 fz (regReadEffect a s) := by
  unfold regReadEffect
  with_reducible repeat' first
    | assumption | apply foldl_keeps | (extract_lets; fail_if_success done) | apply keeps_ite <;> intro _ | split
    | apply evcReadEffect_keeps | apply doorReadEffect_keeps | apply keyeReadEffect_keeps | apply pairReadEffect_keeps
    | apply cmpReadEffect_keeps | apply vatReadEffect_keeps | apply loftReadEffect_keeps | apply telReadEffect_keeps
    | apply clkReadEffect_keeps | apply pnlReadEffect_keeps | apply tmrReadEffect_keeps
    | refine mkKeeps rfl rfl rfl rfl rfl rfl rfl ?_
    | intro _

theorem regWrite_keeps {a : Nat} {v : Word} (h : Keeps q0 fz s) :
    Keeps q0 fz (regWrite a v s) := by
  unfold regWrite
  with_reducible repeat' first
    | assumption | apply foldl_keeps | (extract_lets; fail_if_success done) | apply keeps_ite <;> intro _ | split
    | apply evcWrite_keeps | apply doorWrite_keeps | apply keyeWrite_keeps | apply pairWrite_keeps
    | apply cmpWrite_keeps | apply bltWrite_keeps | apply audWrite_keeps | apply gpioWrite_keeps | apply fanWrite_keeps
    | apply idnWrite_keeps | apply vatWrite_keeps | apply loftWrite_keeps | apply telWrite_keeps | apply clkWrite_keeps
    | apply pnlWrite_keeps | apply tmrWrite_keeps | refine mkKeeps rfl rfl rfl rfl rfl rfl rfl ?_
    | intro _

theorem statLatch_keeps {a : Nat} (h : Keeps q0 fz s) :
    Keeps q0 fz (statLatch a s) := by
  unfold statLatch
  with_reducible repeat' first
    | assumption | apply foldl_keeps | (extract_lets; fail_if_success done) | apply keeps_ite <;> intro _ | split
    | refine mkKeeps rfl rfl rfl rfl rfl rfl rfl ?_
    | intro _

theorem loadEffect_keeps {a : Nat} (h : Keeps q0 fz s) :
    Keeps q0 fz (loadEffect a s) := by
  unfold loadEffect
  with_reducible repeat' first
    | assumption | apply foldl_keeps | (extract_lets; fail_if_success done) | apply keeps_ite <;> intro _ | split
    | apply regReadEffect_keeps | apply statLatch_keeps | refine mkKeeps rfl rfl rfl rfl rfl rfl rfl ?_
    | intro _

theorem storeVal_keeps {a n v : Nat} (h : Keeps q0 fz s) :
    Keeps q0 fz (storeVal a n v s) := by
  unfold storeVal
  with_reducible repeat' first
    | assumption | apply foldl_keeps | (extract_lets; fail_if_success done) | apply keeps_ite <;> intro _ | split
    | apply agentWrite_keeps | apply regWrite_keeps | refine mkKeeps rfl rfl rfl rfl rfl rfl rfl ?_
    | intro _

theorem storedBit_keeps {a i : Nat} {v : Bool} (h : Keeps q0 fz s) :
    Keeps q0 fz (storedBit a i v s) := by
  unfold storedBit
  with_reducible repeat' first
    | assumption | apply foldl_keeps | (extract_lets; fail_if_success done) | apply keeps_ite <;> intro _ | split
    | apply putBit_keeps | apply loftQueue_keeps | apply regWrite_keeps
    | refine mkKeeps rfl rfl rfl rfl rfl rfl rfl ?_
    | intro _

theorem blockBitWrite_keeps {a i : Nat} {v : Bool} (h : Keeps q0 fz s) :
    Keeps q0 fz (blockBitWrite a i v s) := by
  unfold blockBitWrite
  with_reducible repeat' first
    | assumption | apply foldl_keeps | (extract_lets; fail_if_success done) | apply keeps_ite <;> intro _ | split
    | apply putBit_keeps | apply regWrite_keeps | apply storedBit_keeps | refine mkKeeps rfl rfl rfl rfl rfl rfl rfl ?_
    | intro _

theorem bitWrite_keeps {b : Nat} {v : Bool} (h : Keeps q0 fz s) :
    Keeps q0 fz (bitWrite b v s) := by
  unfold bitWrite
  with_reducible repeat' first
    | assumption | apply foldl_keeps | (extract_lets; fail_if_success done) | apply keeps_ite <;> intro _ | split
    | apply putBit_keeps | apply mset_keeps | apply swSet_keeps | apply swClr_keeps | apply blockBitWrite_keeps
    | refine mkKeeps rfl rfl rfl rfl rfl rfl rfl ?_
    | intro _

theorem registerWrite_keeps {who : EvcTarget} {a v : Word} (h : Keeps q0 fz s) :
    Keeps q0 fz (registerWrite who a v s) := by
  unfold registerWrite
  with_reducible repeat' first
    | assumption | apply foldl_keeps | (extract_lets; fail_if_success done) | apply keeps_ite <;> intro _ | split
    | apply doorWrite_keeps | apply regWrite_keeps | refine mkKeeps rfl rfl rfl rfl rfl rfl rfl ?_
    | intro _

theorem execRegisterWrite_keeps {who : EvcTarget} {a v : Word} (h : Keeps q0 fz s) :
    OutKeeps q0 fz (execRegisterWrite who a v s) := by
  unfold execRegisterWrite
  with_reducible repeat' first
    | assumption | apply foldl_keeps | (extract_lets; fail_if_success done) | apply keeps_ite <;> intro _ | split
    | apply done_keeps | apply live_keeps | apply registerWrite_keeps | apply next_keeps
    | refine mkKeeps rfl rfl rfl rfl rfl rfl rfl ?_
    | intro _

theorem registerRead_keeps {who : EvcTarget} {a : Word} (h : Keeps q0 fz s) :
    Keeps q0 fz (registerRead who a s) := by
  unfold registerRead
  with_reducible repeat' first
    | assumption | apply foldl_keeps | (extract_lets; fail_if_success done) | apply keeps_ite <;> intro _ | split
    | apply emit_keeps | apply doorReadEffect_keeps | apply loadEffect_keeps
    | refine mkKeeps rfl rfl rfl rfl rfl rfl rfl ?_
    | intro _

theorem execRcRead_keeps {who : EvcTarget} {a : Word} (h : Keeps q0 fz s) : OutKeeps q0 fz (execRcRead who a s) :=
  next_keeps (live_keeps (fun _ hx => registerRead_keeps hx) h)

theorem execCounterLatchRead_keeps {a : Word} (h : Keeps q0 fz s) : OutKeeps q0 fz (execCounterLatchRead a s) :=
  next_keeps (live_keeps (fun _ hx => registerRead_keeps hx) h)

theorem execBlockLock_keeps {b : LockBlock} (h : Keeps q0 fz s) : OutKeeps q0 fz (execBlockLock b s) :=
  next_keeps (live_keeps (fun _ hx => storedBit_keeps hx) h)

end Sys2Proof.Machine
end

