-- ==== Sys2Proof/Laws/KeepsOperands.lean ====
section
/-! SUPPORT. What no command may spoil is kept by the functions of Machine/Operands.lean. -/

namespace Sys2Proof.Machine

set_option Elab.async false

variable {q0 : List Instr} {fz : FuseBits} {s : State}

theorem modCore_keeps {f : Core → Core}
    (hf : (f s.core).wf = true) (h : Keeps q0 fz s) : Keeps q0 fz (modCore f s) := { h with core := hf }

theorem foldOut_keeps {o : List Nat} (h : Keeps q0 fz s) : Keeps q0 fz (foldOut o s) := by
  unfold foldOut
  refine keeps_ite (fun _ => modPair_keeps ?_ ?_ h) fun _ => h
  · split <;> rfl
  · split <;> rfl

theorem outFetch_keeps {a : Word} (h : Keeps q0 fz s) : Keeps q0 fz (outFetch a s) := foldOut_keeps h

theorem outData_keeps {a n : Nat} {w : Option Nat} (h : Keeps q0 fz s) : Keeps q0 fz (outData a n w s) := foldOut_keeps h

theorem outBitOp_keeps {b : Nat} {w : Option Bool} (h : Keeps q0 fz s) : Keeps q0 fz (outBitOp b w s) := foldOut_keeps h

theorem outReg_keeps {r : Nat} {v : Word} (h : Keeps q0 fz s) : Keeps q0 fz (outReg r v s) := foldOut_keeps h

theorem outAcc_keeps {i : Nat} {v : Int} (h : Keeps q0 fz s) : Keeps q0 fz (outAcc i v s) := foldOut_keeps h

theorem outWait_keeps (h : Keeps q0 fz s) : Keeps q0 fz (outWait s) := foldOut_keeps h

theorem outChkpt_keeps (h : Keeps q0 fz s) : Keeps q0 fz (outChkpt s) := foldOut_keeps h

theorem outEntry_keeps {n : Nat} (h : Keeps q0 fz s) : Keeps q0 fz (outEntry n s) := foldOut_keeps h

theorem setD_keeps {i : Fin 16} {v : Word} (h : Keeps q0 fz s) : Keeps q0 fz (setD i v s) :=
  outReg_keeps (modCore_keeps h.core h)

theorem setA_keeps {i : Fin 8} {v : Word} (h : Keeps q0 fz s) : Keeps q0 fz (setA i v s) :=
  outReg_keeps (modCore_keeps h.core h)

theorem setAcc_keeps {i : Fin 4} {v : Int} (h : Keeps q0 fz s) : Keeps q0 fz (setAcc i v s) :=
  outAcc_keeps (modCore_keeps h.core h)

theorem setLk_keeps {v : Word} (h : Keeps q0 fz s) : Keeps q0 fz (setLk v s) := outReg_keeps (modCore_keeps h.core h)

theorem setStat_keeps {v : Word} (hv : StatOk v) (h : Keeps q0 fz s) : Keeps q0 fz (setStat v s) :=
  outReg_keeps (modCore_keeps (wf_stat h.core hv) h)

theorem setPc_keeps {v : Word} (hv : v.toNat % 4 = 0)
    (h : Keeps q0 fz s) : Keeps q0 fz (setPc v s) := modCore_keeps (wf_pc h.core hv) h

theorem loadStat_keeps {v : Word} (h : Keeps q0 fz s) : Keeps q0 fz (loadStat v s) :=
  outReg_keeps (modCore_keeps (wf_stat (c := { s.core with shadow := true }) h.core (statOk_mask v)) h)

theorem kNext_keeps (h : Keeps q0 fz s) : Keeps q0 fz (kNext s) := by
  refine setPc_keeps ?_ h
  have h1 := h.pc
  unfold nextPc
  rw [BitVec.toNat_add]
  simp
  omega

/-- The state of an instruction's result keeps it, where the instruction came to one. -/
def KResKeeps (p : List Instr) (a : FuseBits) : KRes → Prop
  | .ok s => Keeps p a s
  | .opened s => Keeps p a s
  | .chkpt s => Keeps p a s
  | .halt s => Keeps p a s
  | .exc _ _ _ => True

theorem ok_keeps {p : List Instr} {a : FuseBits} (h : Keeps p a s) : KResKeeps p a (.ok s) := h

theorem opened_keeps {p : List Instr} {a : FuseBits} (h : Keeps p a s) : KResKeeps p a (.opened s) := h

theorem chkpt_keeps {p : List Instr} {a : FuseBits} (h : Keeps p a s) : KResKeeps p a (.chkpt s) := h

theorem halt_keeps {p : List Instr} {a : FuseBits} (h : Keeps p a s) : KResKeeps p a (.halt s) := h

theorem exc_keeps {p : List Instr} {a : FuseBits} {n d : Nat} {w : Word} : KResKeeps p a (.exc n d w) := trivial

theorem kUndef_keeps (h : Keeps q0 fz s) : KResKeeps q0 fz (kUndef s) := trivial

theorem record_keeps {e : Replay} (h : Keeps q0 fz s) : Keeps q0 fz (record e s) := by
  unfold record
  refine keeps_ite (fun _ => ?_) fun _ => keeps_ite (fun _ => keeps_ite (fun _ => ?_) fun _ => ?_) fun _ => h
  · exact modPair_keeps rfl rfl h
  · exact raise_keeps (orReg_keeps (modPair_keeps rfl rfl h))
  · exact modPair_keeps rfl rfl h

theorem kTake_keeps {v : Word} {effect : State → State} (heffect : ∀ x0, Keeps q0 fz x0 → Keeps q0 fz (effect x0)) (h : Keeps q0 fz s) :
    Keeps q0 fz (kTake v effect s).2 := by
  unfold kTake
  split
  · split
    · refine keeps_mk_snd ?_
      exact modPair_keeps rfl rfl h
    · exact h
  · exact record_keeps (heffect s h)

theorem dcacheLoad_keeps {a : Nat} (h : Keeps q0 fz s) : Keeps q0 fz (dcacheLoad a s) := by
  unfold dcacheLoad
  extract_lets l
  refine keeps_ite (fun _ => h) fun _ => ?_
  split
  · exact freeNext_keeps (modPair_keeps rfl rfl h)
  · exact modPair_keeps rfl rfl h

theorem bufferStore_keeps {a : Nat} (h : Keeps q0 fz s) : Keeps q0 fz (bufferStore a s) := by
  unfold bufferStore
  refine keeps_ite (fun _ => ?_) fun _ => h
  exact modPair_keeps rfl rfl h

theorem takeLoad_keeps {a n : Nat} (h : Keeps q0 fz s) : Keeps q0 fz (takeLoad a n s).2 :=
  kTake_keeps (fun _ hx => dcacheLoad_keeps (loadEffect_keeps hx)) (outData_keeps h)

theorem putStore_keeps {a n v : Nat} (h : Keeps q0 fz s) : Keeps q0 fz (putStore a n v s) := by
  unfold putStore
  extract_lets s1
  have h1 : Keeps q0 fz s1 := outData_keeps h
  exact keeps_ite (fun _ => h1) fun _ => bufferStore_keeps (storeVal_keeps h1)

theorem kLoad_keeps {a : Word} {n : Nat} {k : Word → State → KRes} (hk : ∀ x0 x1, Keeps q0 fz x1 → KResKeeps q0 fz (k x0 x1)) (h : Keeps q0 fz s) :
    KResKeeps q0 fz (kLoad a n k s) := by
  unfold kLoad
  split
  · exact exc_keeps
  · exact hk _ _ (takeLoad_keeps h)

theorem kStore_keeps {a : Word} {n : Nat} {v : Word} {k : State → KRes} (hk : ∀ x0, Keeps q0 fz x0 → KResKeeps q0 fz (k x0)) (h : Keeps q0 fz s) :
    KResKeeps q0 fz (kStore a n v k s) := by
  unfold kStore
  split
  · exact exc_keeps
  · exact hk _ (putStore_keeps h)

theorem baseUpdate_keeps {u : Option (Fin 8 × Word)} (h : Keeps q0 fz s) : Keeps q0 fz (baseUpdate u s) := by
  unfold baseUpdate
  split
  · exact setA_keeps h
  · exact h

theorem cacheErr_keeps (h : Keeps q0 fz s) : Keeps q0 fz (cacheErr s) := raise_keeps (orReg_keeps (incReg_keeps h))

theorem memCe_keeps (h : Keeps q0 fz s) : Keeps q0 fz (memCe s) := raise_keeps (orReg_keeps (incReg_keeps h))

theorem loadMet_keeps {met : LoadMet} {a : Nat} (h : Keeps q0 fz s) : Keeps q0 fz (loadMet met a s) := by
  unfold loadMet
  extract_lets g s1
  have h1 : Keeps q0 fz s1 := keeps_ite (fun _ => cacheErr_keeps h) fun _ => h
  exact keeps_ite (fun _ => h) fun _ => keeps_ite (fun _ => memCe_keeps h1) fun _ => h1

theorem kLoadTo_keeps {m : AMode} {n : Nat} {met : LoadMet} {put : Word → State → State} (hput : ∀ x0 x1, Keeps q0 fz x1 → Keeps q0 fz (put x0 x1)) (h : Keeps q0 fz s) :
    KResKeeps q0 fz (kLoadTo m n met put s) := by
  unfold kLoadTo
  split
  · exact kUndef_keeps h
  · exact kLoad_keeps (fun _ _ hx => ok_keeps (kNext_keeps (hput _ _ (baseUpdate_keeps (loadMet_keeps hx))))) h

theorem kStoreFrom_keeps {m : AMode} {n : Nat} {v : Word} (h : Keeps q0 fz s) :
    KResKeeps q0 fz (kStoreFrom m n v s) := by
  unfold kStoreFrom
  split
  · exact kUndef_keeps h
  · exact kStore_keeps (fun _ hx => ok_keeps (kNext_keeps (baseUpdate_keeps hx))) h

theorem kPush_keeps {v : Word} {k : State → KRes} (hk : ∀ x0, Keeps q0 fz x0 → KResKeeps q0 fz (k x0)) (h : Keeps q0 fz s) :
    KResKeeps q0 fz (kPush v k s) := by
  unfold kPush
  split
  · exact exc_keeps
  · exact kStore_keeps (fun _ hx => hk _ (setA_keeps hx)) h

theorem kPop_keeps {k : Word → State → KRes} (hk : ∀ x0 x1, Keeps q0 fz x1 → KResKeeps q0 fz (k x0 x1)) (h : Keeps q0 fz s) :
    KResKeeps q0 fz (kPop k s) := kLoad_keeps (fun _ _ hx => hk _ _ (setA_keeps hx)) h

theorem kJump_keeps {a : Word} (h : Keeps q0 fz s) :
    KResKeeps q0 fz (kJump a s) := by
  unfold kJump
  split
  · trivial
  · next e => exact ok_keeps (setPc_keeps (by simpa using e) h)

theorem takeBit_keeps {b : Nat} (h : Keeps q0 fz s) : Keeps q0 fz (takeBit b s).2 :=
  kTake_keeps (v := w32 (b2n (bitRead s b))) (fun _ hx => hx) (outBitOp_keeps h)

theorem putBitAt_keeps {b : Nat} {v : Bool} (h : Keeps q0 fz s) : Keeps q0 fz (putBitAt b v s) := by
  unfold putBitAt
  extract_lets s1
  have h1 : Keeps q0 fz s1 := outBitOp_keeps h
  exact keeps_ite (fun _ => h1) fun _ => bitWrite_keeps h1

end Sys2Proof.Machine
end

