-- ==== Sys2Proof/Laws/KeepsKarpol.lean ====
section
/-! SUPPORT. What no command may spoil is kept by the functions of Machine/Karpol.lean. -/

namespace Sys2Proof.Machine

set_option Elab.async false

variable {q0 : List Instr} {fz : FuseBits} {s : State}

theorem classSFault_keeps {code kind regNo : Nat} {addr : Word} (h : Keeps q0 fz s) :
    Keeps q0 fz (classSFault code kind regNo addr s) := by
  unfold classSFault
  with_reducible repeat' first
    | assumption | apply foldl_keeps | (extract_lets; fail_if_success done) | apply keeps_ite <;> intro _ | split
    | apply napExit_keeps | apply classS_keeps | refine mkKeeps rfl rfl rfl rfl rfl rfl rfl ?_
    | intro _

theorem kLockup_keeps (h : Keeps q0 fz s) : Keeps q0 fz (kLockup s) := modCore_keeps h.core h

theorem fetchFault_aligned {a : Nat} (e : fetchFault a = none) : a % 4 = 0 := by
  unfold fetchFault at e
  split at e
  · cases e
  · omega

theorem entryVector_keeps {n : Nat} (h : Keeps q0 fz s) :
    Keeps q0 fz (entryVector n s) := by
  unfold entryVector
  extract_lets a
  split
  · exact kLockup_keeps h
  · split
    have h1 := keeps_snd (by assumption) (takeLoad_keeps h)
    split
    · exact kLockup_keeps h1
    · exact setPc_keeps (fetchFault_aligned (by assumption)) h1

theorem entryPush_keeps {v : Word} {s x : State} (e : entryPush v s = some x)
    (h : Keeps q0 fz s) : Keeps q0 fz x := by
  unfold entryPush at e
  split at e
  · cases e
  · cases e; exact setA_keeps (putStore_keeps h)

theorem entryMark_keeps {n : Nat} {mark : Core → Core} (hm : ∀ c, c.wf = true → (mark c).wf = true) (h : Keeps q0 fz s) :
    Keeps q0 fz (entryMark n mark s) := by
  unfold entryMark
  extract_lets s1 c
  have h1 : Keeps q0 fz s1 := outEntry_keeps (modCore_keeps (hm _ h.core) h)
  exact keeps_ite (fun _ => outReg_keeps (outReg_keeps (outReg_keeps h1))) fun _ => outReg_keeps h1

theorem kEnter_keeps {n : Nat} {ret : Word} {mark : Core → Core}
    (hm : ∀ c, c.wf = true → (mark c).wf = true) (h : Keeps q0 fz s) : Keeps q0 fz (kEnter n ret mark s) := by
  unfold kEnter
  split
  · exact kLockup_keeps h
  · next s1 e1 =>
    have h1 := entryPush_keeps e1 h
    split
    · exact kLockup_keeps h1
    · next s2 e2 => exact entryVector_keeps (entryMark_keeps hm (entryPush_keeps e2 h1))

theorem markExc_wf {n d : Nat} {w : Word} {c : Core} (h : c.wf = true) : (markExc n d w c).wf = true := by
  have hw := core_wf_iff.1 h
  exact core_wf_iff.2 ⟨hw.1, statOk_wsetBit (statOk_wsetBit hw.2.1 (by decide) (by decide)) (by decide) (by decide), hw.2.2⟩

theorem markIrq_wf {p : Nat} {c : Core} (h : c.wf = true) : (markIrq p c).wf = true := by
  have hw := core_wf_iff.1 h
  exact core_wf_iff.2 ⟨hw.1, statOk_level (statOk_wsetBit hw.2.1 (by decide) (by decide)), hw.2.2⟩

theorem kExcept_keeps {n d : Nat} {w : Word} (h : Keeps q0 fz s) : Keeps q0 fz (kExcept n d w s) :=
  kEnter_keeps (fun _ => markExc_wf) h

theorem kInterrupt_keeps {p k : Nat} (h : Keeps q0 fz s) :
    Keeps q0 fz (kInterrupt p k s) := by
  have h1 : Keeps q0 fz (kEnter (16 + p) s.core.pc (markIrq p) (record (.irq p k) s)) :=
    kEnter_keeps (fun _ => markIrq_wf) (record_keeps h)
  exact keeps_ite (fun _ => h1) (fun _ => ⟨h1.pending, h1.fuses, h1.bsr, h1.mem, h1.core, h1.commit, h1.chk, h1.doors⟩)

theorem icacheFill_keeps {a : Nat} (h : Keeps q0 fz s) :
    Keeps q0 fz (icacheFill a s) := by
  unfold icacheFill
  extract_lets l ws put out
  clear_value ws
  split
  · exact h
  · split
    · exact freeNext_keeps (modPair_keeps rfl rfl h)
    · exact modPair_keeps rfl rfl h

theorem freshInterval_keeps (h : Keeps q0 fz s) : Keeps q0 fz (freshInterval s) := modPair_keeps rfl rfl h

theorem commit_keeps {f : Pair → Pair} {c : Core} (hw : c.wf = true)
    (hc : (f s.pair).commit = c) (hk : (f s.pair).chk = s.pair.chk) (h : Keeps q0 fz s) : Keeps q0 fz (modPair f s) :=
  setPair_keeps (hc ▸ hw) (fun c e => h.chk c (hk ▸ e)) h

theorem checkpoint_keeps (h : Keeps q0 fz s) : Keeps q0 fz (checkpoint s) :=
  commit_keeps h.core rfl rfl (freshInterval_keeps (setRegN_keeps h))

theorem openLoose_keeps (h : Keeps q0 fz s) : Keeps q0 fz (openLoose s) :=
  setPair_keeps h.core (fun _ e => by cases e; exact h.core) (freshInterval_keeps h)

theorem closeLoose_keeps (h : Keeps q0 fz s) : Keeps q0 fz (closeLoose s) :=
  setPair_keeps h.commit (fun _ e => nomatch e) h

theorem kHalt_keeps (h : Keeps q0 fz s) : Keeps q0 fz (kHalt s) :=
  wdogPause_keeps (modPair_keeps rfl rfl (modCore_keeps h.core h))

theorem kIssue_keeps {e : State → KRes} {s0 : State}
    (he : ∀ x, Keeps q0 fz x → KResKeeps q0 fz (e x)) (h : Keeps q0 fz s0) : Keeps q0 fz (kIssue e s0).1 := by
  unfold kIssue
  extract_lets s pc s1
  have hs : Keeps q0 fz s := outFetch_keeps (modCore_keeps h.core h)
  split
  · exact kExcept_keeps hs
  · have h1 : Keeps q0 fz s1 := icacheFill_keeps hs
    have h2 := he s1 h1
    split <;> rename_i e2
    all_goals first | exact kExcept_keeps h1 | rwa [e2] at h2

theorem countIssued_keeps (h : Keeps q0 fz s) : Keeps q0 fz (countIssued s) := modPair_keeps rfl rfl h

/-- A reset that an instruction caused leaves the cores and the pair at reset. -/
theorem coreReset_keeps (h : Keeps q0 fz s) :
    Keeps q0 fz { s with core := {}, pair := {} } :=
  ⟨h.pending, h.fuses, h.bsr, h.mem, (by decide : ({} : Core).wf = true), (by decide : ({} : Core).wf = true),
    (fun c e => by dsimp only at e; cases e), h.doors⟩

theorem kRetire_keeps {r : State × KEnd} (h : Keeps q0 fz r.1) : Keeps q0 fz (kRetire r) := by
  unfold kRetire
  extract_lets s s1
  have hs : Keeps q0 fz s := h
  have h1 : Keeps q0 fz s1 := countIssued_keeps hs
  refine keeps_ite (fun _ => coreReset_keeps hs) fun _ => keeps_ite (fun _ => hs) fun _ => keeps_ite (fun _ => ?_) fun _ =>
    keeps_ite (fun _ => keeps_ite (fun _ => hs) fun _ => h1) fun _ => commit_keeps hs.core rfl rfl hs
  exact keeps_ite (fun _ => h1) fun _ => modPair_keeps rfl rfl h1

theorem kEntryCommit_keeps (h : Keeps q0 fz s) :
    Keeps q0 fz (kEntryCommit s) :=
  keeps_ite (fun _ => coreReset_keeps h) (fun _ => keeps_ite (fun _ => h) (fun _ => commit_keeps h.core rfl rfl h))

theorem asChecker_keeps {f : State → State}
    (hf : ∀ x, Keeps q0 fz x → Keeps q0 fz (f x)) (h : Keeps q0 fz s) : Keeps q0 fz (asChecker f s) := by
  unfold asChecker
  split
  · exact h
  · next c hc =>
    have h1 := hf { s with core := c, pair := { s.pair with asChk := true, icache := s.pair.chkIcache } }
      ⟨h.pending, h.fuses, h.bsr, h.mem, h.chk c hc, h.commit, h.chk, h.doors⟩
    exact ⟨h1.pending, h1.fuses, h1.bsr, h1.mem, h.core, h1.commit, (fun x e => by cases e; exact h1.core), h1.doors⟩

theorem chkEntries_keeps {fuel : Nat} (h : Keeps q0 fz s) :
    Keeps q0 fz (chkEntries fuel s) := by
  induction fuel generalizing s with
  | zero => exact h
  | succ m ih =>
    unfold chkEntries
    split
    · next e _ =>
      cases e
      exact keeps_ite (fun _ => ih (asChecker_keeps (fun _ hx => kEnter_keeps (fun _ => markIrq_wf) hx) (modPair_keeps rfl rfl h)))
        (fun _ => h)
    · exact h

theorem chkStep_keeps {decode : Word → State → KRes}
    (hd : ∀ w x, Keeps q0 fz x → KResKeeps q0 fz (decode w x)) (h : Keeps q0 fz s) : Keeps q0 fz (chkStep decode s) :=
  chkEntries_keeps (modPair_keeps rfl rfl
    (asChecker_keeps (fun _ hx => keeps_ite (fun _ => hx) (fun _ => kIssue_keeps (hd _) hx)) h))

theorem chkSteps_keeps {decode : Word → State → KRes} {n : Nat}
    (hd : ∀ w x, Keeps q0 fz x → KResKeeps q0 fz (decode w x)) (h : Keeps q0 fz s) : Keeps q0 fz (chkSteps decode n s) := by
  induction n generalizing s with
  | zero => exact h
  | succ m ih => exact keeps_ite (fun _ => h) fun _ => ih (chkStep_keeps hd h)

theorem chkRoom_keeps {decode : Word → State → KRes} {fuel : Nat}
    (hd : ∀ w x, Keeps q0 fz x → KResKeeps q0 fz (decode w x)) (h : Keeps q0 fz s) : Keeps q0 fz (chkRoom decode fuel s) := by
  induction fuel generalizing s with
  | zero => exact h
  | succ m ih => exact keeps_ite (fun _ => h) fun _ => ih (chkSteps_keeps hd h)

theorem comparePair_keeps {decode : Word → State → KRes} {pass : State → State}
    (hd : ∀ w x, Keeps q0 fz x → KResKeeps q0 fz (decode w x)) (hp : ∀ x, Keeps q0 fz x → Keeps q0 fz (pass x))
    (h : Keeps q0 fz s) : Keeps q0 fz (comparePair decode pass s) := by
  unfold comparePair
  extract_lets s1
  have h1 : Keeps q0 fz s1 := chkSteps_keeps hd (chkEntries_keeps h)
  exact keeps_ite (fun _ => hp _ (checkpoint_keeps h1)) fun _ => classSFault_keeps h1

theorem looseCheckpoint_keeps {decode : Word → State → KRes}
    (hd : ∀ w x, Keeps q0 fz x → KResKeeps q0 fz (decode w x)) (h : Keeps q0 fz s) : Keeps q0 fz (looseCheckpoint decode s) :=
  comparePair_keeps hd (fun _ hx => keeps_ite (fun _ => hx) fun _ => closeLoose_keeps hx) h

theorem haltPair_keeps {decode : Word → State → KRes}
    (hd : ∀ w x, Keeps q0 fz x → KResKeeps q0 fz (decode w x)) (h : Keeps q0 fz s) : Keeps q0 fz (haltPair decode s) :=
  keeps_ite (fun _ => comparePair_keeps hd (fun _ hx => kHalt_keeps hx) h) fun _ => kHalt_keeps h

theorem chkFollow_keeps {decode : Word → State → KRes} {fuel : Nat}
    (hd : ∀ w x, Keeps q0 fz x → KResKeeps q0 fz (decode w x)) (h : Keeps q0 fz s) :
    Keeps q0 fz (chkFollow decode fuel s) := by
  induction fuel generalizing s with
  | zero => exact h
  | succ m ih =>
    exact keeps_ite (fun _ => h) (fun _ => keeps_ite (fun _ => keeps_ite (fun _ => modPair_keeps rfl rfl h) (fun _ => h))
      (fun _ => keeps_ite (fun _ => modPair_keeps rfl rfl h) (fun _ => ih (chkStep_keeps hd h))))

end Sys2Proof.Machine
end

