-- ==== Sys2Proof/Laws/KeepsKarpolAlu.lean ====
section
/-! SUPPORT. What no command may spoil is kept by the functions of Machine/KarpolAlu.lean. -/

namespace Sys2Proof.Machine

set_option Elab.async false

variable {q0 : List Instr} {fz : FuseBits} {s : State}

theorem kAlu_keeps {dd : Fin 16} {f : Word → Word × Word}
    (hf : ∀ st, StatOk st → StatOk (f st).2) (h : Keeps q0 fz s) : KResKeeps q0 fz (kAlu dd f s) :=
  ok_keeps (kNext_keeps (setStat_keeps (hf _ h.stat) (setD_keeps h)))

theorem kFlags_keeps {f : Word → Word × Word}
    (hf : ∀ st, StatOk st → StatOk (f st).2) (h : Keeps q0 fz s) : KResKeeps q0 fz (kFlags f s) :=
  ok_keeps (kNext_keeps (setStat_keeps (hf _ h.stat) h))

theorem kMove_keeps {dd : Fin 16} {v : Word} (h : Keeps q0 fz s) : KResKeeps q0 fz (kMove dd v s) :=
  ok_keeps (kNext_keeps (setD_keeps h))

theorem kMoveA_keeps {an : Fin 8} {v : Word} (h : Keeps q0 fz s) : KResKeeps q0 fz (kMoveA an v s) :=
  ok_keeps (kNext_keeps (setA_keeps h))

theorem kAdd_keeps {dd a b : Fin 16} (h : Keeps q0 fz s) : KResKeeps q0 fz (kAdd dd a b s) :=
  kAlu_keeps (fun _ hs => statOk_addFlags hs) h

theorem kAddc_keeps {dd a b : Fin 16} (h : Keeps q0 fz s) : KResKeeps q0 fz (kAddc dd a b s) :=
  kAlu_keeps (fun _ hs => statOk_addFlags hs) h

theorem kSub_keeps {dd a b : Fin 16} (h : Keeps q0 fz s) : KResKeeps q0 fz (kSub dd a b s) :=
  kAlu_keeps (fun _ hs => statOk_subFlags hs) h

theorem kSubc_keeps {dd a b : Fin 16} (h : Keeps q0 fz s) : KResKeeps q0 fz (kSubc dd a b s) :=
  kAlu_keeps (fun _ hs => statOk_subFlags hs) h

theorem kAnd_keeps {dd a b : Fin 16} (h : Keeps q0 fz s) : KResKeeps q0 fz (kAnd dd a b s) :=
  kAlu_keeps (fun _ hs => statOk_logicFlags hs) h

theorem kOr_keeps {dd a b : Fin 16} (h : Keeps q0 fz s) : KResKeeps q0 fz (kOr dd a b s) :=
  kAlu_keeps (fun _ hs => statOk_logicFlags hs) h

theorem kXor_keeps {dd a b : Fin 16} (h : Keeps q0 fz s) : KResKeeps q0 fz (kXor dd a b s) :=
  kAlu_keeps (fun _ hs => statOk_logicFlags hs) h

theorem kAndn_keeps {dd a b : Fin 16} (h : Keeps q0 fz s) : KResKeeps q0 fz (kAndn dd a b s) :=
  kAlu_keeps (fun _ hs => statOk_logicFlags hs) h

theorem kCmp_keeps {a b : Fin 16} (h : Keeps q0 fz s) : KResKeeps q0 fz (kCmp a b s) :=
  kFlags_keeps (fun _ hs => statOk_subFlags hs) h

theorem kTst_keeps {a b : Fin 16} (h : Keeps q0 fz s) : KResKeeps q0 fz (kTst a b s) :=
  kFlags_keeps (fun _ hs => statOk_logicFlags hs) h

theorem kMov_keeps {dd a : Fin 16} (h : Keeps q0 fz s) : KResKeeps q0 fz (kMov dd a s) := kMove_keeps h

theorem kNot_keeps {dd a : Fin 16} (h : Keeps q0 fz s) : KResKeeps q0 fz (kNot dd a s) :=
  kAlu_keeps (fun _ hs => statOk_logicFlags hs) h

theorem kNeg_keeps {dd a : Fin 16} (h : Keeps q0 fz s) : KResKeeps q0 fz (kNeg dd a s) :=
  kAlu_keeps (fun _ hs => statOk_subFlags hs) h

theorem kMin_keeps {dd a b : Fin 16} (h : Keeps q0 fz s) : KResKeeps q0 fz (kMin dd a b s) :=
  kAlu_keeps (fun _ hs => statOk_znFlags hs) h

theorem kMax_keeps {dd a b : Fin 16} (h : Keeps q0 fz s) : KResKeeps q0 fz (kMax dd a b s) :=
  kAlu_keeps (fun _ hs => statOk_znFlags hs) h

theorem kMinu_keeps {dd a b : Fin 16} (h : Keeps q0 fz s) : KResKeeps q0 fz (kMinu dd a b s) :=
  kAlu_keeps (fun _ hs => statOk_znFlags hs) h

theorem kMaxu_keeps {dd a b : Fin 16} (h : Keeps q0 fz s) : KResKeeps q0 fz (kMaxu dd a b s) :=
  kAlu_keeps (fun _ hs => statOk_znFlags hs) h

theorem kShl_keeps {dd a b : Fin 16} (h : Keeps q0 fz s) : KResKeeps q0 fz (kShl dd a b s) :=
  kAlu_keeps (fun _ hs => statOk_shlFlags hs) h

theorem kShr_keeps {dd a b : Fin 16} (h : Keeps q0 fz s) : KResKeeps q0 fz (kShr dd a b s) :=
  kAlu_keeps (fun _ hs => statOk_shrFlags hs) h

theorem kSar_keeps {dd a b : Fin 16} (h : Keeps q0 fz s) : KResKeeps q0 fz (kSar dd a b s) :=
  kAlu_keeps (fun _ hs => statOk_sarFlags hs) h

theorem kRor_keeps {dd a b : Fin 16} (h : Keeps q0 fz s) : KResKeeps q0 fz (kRor dd a b s) :=
  kAlu_keeps (fun _ hs => statOk_rorFlags hs) h

theorem kShli_keeps {dd a : Fin 16} {sh : Fin 32} (h : Keeps q0 fz s) : KResKeeps q0 fz (kShli dd a sh s) :=
  kAlu_keeps (fun _ hs => statOk_shlFlags hs) h

theorem kShri_keeps {dd a : Fin 16} {sh : Fin 32} (h : Keeps q0 fz s) : KResKeeps q0 fz (kShri dd a sh s) :=
  kAlu_keeps (fun _ hs => statOk_shrFlags hs) h

theorem kSari_keeps {dd a : Fin 16} {sh : Fin 32} (h : Keeps q0 fz s) : KResKeeps q0 fz (kSari dd a sh s) :=
  kAlu_keeps (fun _ hs => statOk_sarFlags hs) h

theorem kRori_keeps {dd a : Fin 16} {sh : Fin 32} (h : Keeps q0 fz s) : KResKeeps q0 fz (kRori dd a sh s) :=
  kAlu_keeps (fun _ hs => statOk_rorFlags hs) h

theorem kMul_keeps {dd a b : Fin 16} (h : Keeps q0 fz s) : KResKeeps q0 fz (kMul dd a b s) :=
  kAlu_keeps (fun _ hs => statOk_znFlags hs) h

theorem kMulh_keeps {dd a b : Fin 16} (h : Keeps q0 fz s) : KResKeeps q0 fz (kMulh dd a b s) :=
  kAlu_keeps (fun _ hs => statOk_znFlags hs) h

theorem kMulhu_keeps {dd a b : Fin 16} (h : Keeps q0 fz s) : KResKeeps q0 fz (kMulhu dd a b s) :=
  kAlu_keeps (fun _ hs => statOk_znFlags hs) h

theorem kDivu_keeps {dd a b : Fin 16} (h : Keeps q0 fz s) : KResKeeps q0 fz (kDivu dd a b s) :=
  kAlu_keeps (fun _ hs => statOk_divuFlags hs) h

theorem kDivs_keeps {dd a b : Fin 16} (h : Keeps q0 fz s) : KResKeeps q0 fz (kDivs dd a b s) :=
  kAlu_keeps (fun _ hs => statOk_divsFlags hs) h

theorem kRemu_keeps {dd a b : Fin 16} (h : Keeps q0 fz s) : KResKeeps q0 fz (kRemu dd a b s) :=
  kAlu_keeps (fun _ hs => statOk_remuFlags hs) h

theorem kRems_keeps {dd a b : Fin 16} (h : Keeps q0 fz s) : KResKeeps q0 fz (kRems dd a b s) :=
  kAlu_keeps (fun _ hs => statOk_remsFlags hs) h

theorem kSextb_keeps {dd a : Fin 16} (h : Keeps q0 fz s) : KResKeeps q0 fz (kSextb dd a s) :=
  kAlu_keeps (fun _ hs => statOk_znFlags hs) h

theorem kSexth_keeps {dd a : Fin 16} (h : Keeps q0 fz s) : KResKeeps q0 fz (kSexth dd a s) :=
  kAlu_keeps (fun _ hs => statOk_znFlags hs) h

theorem kZextb_keeps {dd a : Fin 16} (h : Keeps q0 fz s) : KResKeeps q0 fz (kZextb dd a s) :=
  kAlu_keeps (fun _ hs => statOk_znFlags hs) h

theorem kZexth_keeps {dd a : Fin 16} (h : Keeps q0 fz s) : KResKeeps q0 fz (kZexth dd a s) :=
  kAlu_keeps (fun _ hs => statOk_znFlags hs) h

theorem kClz_keeps {dd a : Fin 16} (h : Keeps q0 fz s) : KResKeeps q0 fz (kClz dd a s) :=
  kAlu_keeps (fun _ hs => statOk_znFlags hs) h

theorem kBswap_keeps {dd a : Fin 16} (h : Keeps q0 fz s) : KResKeeps q0 fz (kBswap dd a s) :=
  kAlu_keeps (fun _ hs => statOk_znFlags hs) h

theorem kAddi_keeps {dd a : Fin 16} {imm : BitVec 16} (h : Keeps q0 fz s) : KResKeeps q0 fz (kAddi dd a imm s) :=
  kAlu_keeps (fun _ hs => statOk_addFlags hs) h

theorem kAndi_keeps {dd a : Fin 16} {imm : BitVec 16} (h : Keeps q0 fz s) : KResKeeps q0 fz (kAndi dd a imm s) :=
  kAlu_keeps (fun _ hs => statOk_logicFlags hs) h

theorem kOri_keeps {dd a : Fin 16} {imm : BitVec 16} (h : Keeps q0 fz s) : KResKeeps q0 fz (kOri dd a imm s) :=
  kAlu_keeps (fun _ hs => statOk_logicFlags hs) h

theorem kXori_keeps {dd a : Fin 16} {imm : BitVec 16} (h : Keeps q0 fz s) : KResKeeps q0 fz (kXori dd a imm s) :=
  kAlu_keeps (fun _ hs => statOk_logicFlags hs) h

theorem kCmpi_keeps {a : Fin 16} {imm : BitVec 16} (h : Keeps q0 fz s) : KResKeeps q0 fz (kCmpi a imm s) :=
  kFlags_keeps (fun _ hs => statOk_subFlags hs) h

theorem kMovi_keeps {dd : Fin 16} {imm : BitVec 16} (h : Keeps q0 fz s) : KResKeeps q0 fz (kMovi dd imm s) := kMove_keeps h

theorem kMovhi_keeps {dd : Fin 16} {imm : BitVec 16} (h : Keeps q0 fz s) : KResKeeps q0 fz (kMovhi dd imm s) := kMove_keeps h

theorem kLea_keeps {an am : Fin 8} {imm : BitVec 16} (h : Keeps q0 fz s) : KResKeeps q0 fz (kLea an am imm s) :=
  kMoveA_keeps h

theorem kMova_keeps {an : Fin 8} {dm : Fin 16} (h : Keeps q0 fz s) : KResKeeps q0 fz (kMova an dm s) := kMoveA_keeps h

theorem kMovd_keeps {dm : Fin 16} {am : Fin 8} (h : Keeps q0 fz s) : KResKeeps q0 fz (kMovd dm am s) := kMove_keeps h

theorem kAdda_keeps {an am : Fin 8} {dm : Fin 16} (h : Keeps q0 fz s) : KResKeeps q0 fz (kAdda an am dm s) := kMoveA_keeps h

theorem kSuba_keeps {an am : Fin 8} {dm : Fin 16} (h : Keeps q0 fz s) : KResKeeps q0 fz (kSuba an am dm s) := kMoveA_keeps h

theorem kAddas_keeps {an am : Fin 8} {dm : Fin 16} (h : Keeps q0 fz s) : KResKeeps q0 fz (kAddas an am dm s) :=
  kMoveA_keeps h

theorem kCmpa_keeps {an am : Fin 8} (h : Keeps q0 fz s) : KResKeeps q0 fz (kCmpa an am s) :=
  kFlags_keeps (fun _ hs => statOk_subFlags hs) h

theorem kMovaa_keeps {an am : Fin 8} (h : Keeps q0 fz s) : KResKeeps q0 fz (kMovaa an am s) := kMoveA_keeps h

theorem kLeapc_keeps {an : Fin 8} {imm : BitVec 16} (h : Keeps q0 fz s) : KResKeeps q0 fz (kLeapc an imm s) := kMoveA_keeps h

theorem kAcc_keeps {ac : Fin 4} {v : Int} (h : Keeps q0 fz s) :
    KResKeeps q0 fz (kAcc ac v s) := by
  unfold kAcc
  with_reducible repeat' first
    | assumption | apply foldl_keeps | (extract_lets; fail_if_success done) | apply keeps_ite <;> intro _ | split
    | apply setAcc_keeps | refine setStat_keeps (statOk_flagSat (Keeps.stat (by assumption))) ?_ | apply kNext_keeps
    | apply ok_keeps | apply chk_keeps | apply exc_keeps | apply kUndef_keeps
    | refine mkKeeps rfl rfl rfl rfl rfl rfl rfl ?_
    | intro _

theorem kMac_keeps {ac : Fin 4} {a b : Fin 16} {h1 h2 : Bool} (h : Keeps q0 fz s) : KResKeeps q0 fz (kMac ac a b h1 h2 s) :=
  kAcc_keeps h

theorem kMsu_keeps {ac : Fin 4} {a b : Fin 16} {h1 h2 : Bool} (h : Keeps q0 fz s) : KResKeeps q0 fz (kMsu ac a b h1 h2 s) :=
  kAcc_keeps h

theorem kMpy_keeps {ac : Fin 4} {a b : Fin 16} {h1 h2 : Bool} (h : Keeps q0 fz s) : KResKeeps q0 fz (kMpy ac a b h1 h2 s) :=
  ok_keeps (kNext_keeps (setAcc_keeps h))

theorem kRdac_keeps {dd : Fin 16} {ac : Fin 4} {sh : Fin 32} (h : Keeps q0 fz s) :
    KResKeeps q0 fz (kRdac dd ac sh s) := by
  unfold kRdac
  with_reducible repeat' first
    | assumption | apply foldl_keeps | (extract_lets; fail_if_success done) | apply keeps_ite <;> intro _ | split
    | apply setD_keeps | refine setStat_keeps (statOk_flagSat (Keeps.stat (by assumption))) ?_ | apply kNext_keeps
    | apply ok_keeps | apply chk_keeps | apply exc_keeps | apply kUndef_keeps
    | refine mkKeeps rfl rfl rfl rfl rfl rfl rfl ?_
    | intro _

theorem kWrac_keeps {ac : Fin 4} {a : Fin 16} {sh : Fin 32} (h : Keeps q0 fz s) :
    KResKeeps q0 fz (kWrac ac a sh s) := by
  unfold kWrac
  with_reducible repeat' first
    | assumption | apply foldl_keeps | (extract_lets; fail_if_success done) | apply keeps_ite <;> intro _ | split
    | apply setAcc_keeps | apply kNext_keeps | apply kUndef_keeps | apply ok_keeps | apply chk_keeps | apply exc_keeps
    | apply kUndef_keeps | refine mkKeeps rfl rfl rfl rfl rfl rfl rfl ?_
    | intro _

theorem kClrac_keeps {ac : Fin 4} (h : Keeps q0 fz s) : KResKeeps q0 fz (kClrac ac s) :=
  ok_keeps (kNext_keeps (setAcc_keeps h))

theorem kAddac_keeps {ac acs : Fin 4} (h : Keeps q0 fz s) : KResKeeps q0 fz (kAddac ac acs s) := kAcc_keeps h

end Sys2Proof.Machine
end

