-- ==== Sys2Proof/Laws/KeepsKarpolFlow.lean ====
section
/-! SUPPORT. What no command may spoil is kept by the functions of Machine/KarpolFlow.lean. -/

namespace Sys2Proof.Machine

set_option Elab.async false

variable {q0 : List Instr} {fz : FuseBits} {s : State}

theorem kLdW_keeps {dt : Fin 16} {ea : AMode} {met : LoadMet} (h : Keeps q0 fz s) :
    KResKeeps q0 fz (kLdW dt ea met s) := by
  unfold kLdW
  with_reducible repeat' first
    | assumption | apply foldl_keeps | (extract_lets; fail_if_success done) | apply keeps_ite <;> intro _ | split
    | apply setD_keeps | apply kLoadTo_keeps | apply ok_keeps | apply chk_keeps | apply exc_keeps | apply kUndef_keeps
    | refine mkKeeps rfl rfl rfl rfl rfl rfl rfl ?_
    | intro _

theorem kLdH_keeps {dt : Fin 16} {ea : AMode} {met : LoadMet} (h : Keeps q0 fz s) :
    KResKeeps q0 fz (kLdH dt ea met s) := by
  unfold kLdH
  with_reducible repeat' first
    | assumption | apply foldl_keeps | (extract_lets; fail_if_success done) | apply keeps_ite <;> intro _ | split
    | apply setD_keeps | apply kLoadTo_keeps | apply ok_keeps | apply chk_keeps | apply exc_keeps | apply kUndef_keeps
    | refine mkKeeps rfl rfl rfl rfl rfl rfl rfl ?_
    | intro _

theorem kLdHu_keeps {dt : Fin 16} {ea : AMode} {met : LoadMet} (h : Keeps q0 fz s) :
    KResKeeps q0 fz (kLdHu dt ea met s) := by
  unfold kLdHu
  with_reducible repeat' first
    | assumption | apply foldl_keeps | (extract_lets; fail_if_success done) | apply keeps_ite <;> intro _ | split
    | apply setD_keeps | apply kLoadTo_keeps | apply ok_keeps | apply chk_keeps | apply exc_keeps | apply kUndef_keeps
    | refine mkKeeps rfl rfl rfl rfl rfl rfl rfl ?_
    | intro _

theorem kLdB_keeps {dt : Fin 16} {ea : AMode} {met : LoadMet} (h : Keeps q0 fz s) :
    KResKeeps q0 fz (kLdB dt ea met s) := by
  unfold kLdB
  with_reducible repeat' first
    | assumption | apply foldl_keeps | (extract_lets; fail_if_success done) | apply keeps_ite <;> intro _ | split
    | apply setD_keeps | apply kLoadTo_keeps | apply ok_keeps | apply chk_keeps | apply exc_keeps | apply kUndef_keeps
    | refine mkKeeps rfl rfl rfl rfl rfl rfl rfl ?_
    | intro _

theorem kLdBu_keeps {dt : Fin 16} {ea : AMode} {met : LoadMet} (h : Keeps q0 fz s) :
    KResKeeps q0 fz (kLdBu dt ea met s) := by
  unfold kLdBu
  with_reducible repeat' first
    | assumption | apply foldl_keeps | (extract_lets; fail_if_success done) | apply keeps_ite <;> intro _ | split
    | apply setD_keeps | apply kLoadTo_keeps | apply ok_keeps | apply chk_keeps | apply exc_keeps | apply kUndef_keeps
    | refine mkKeeps rfl rfl rfl rfl rfl rfl rfl ?_
    | intro _

theorem kStW_keeps {dt : Fin 16} {ea : AMode} (h : Keeps q0 fz s) : KResKeeps q0 fz (kStW dt ea s) := kStoreFrom_keeps h

theorem kStH_keeps {dt : Fin 16} {ea : AMode} (h : Keeps q0 fz s) : KResKeeps q0 fz (kStH dt ea s) := kStoreFrom_keeps h

theorem kStB_keeps {dt : Fin 16} {ea : AMode} (h : Keeps q0 fz s) : KResKeeps q0 fz (kStB dt ea s) := kStoreFrom_keeps h

theorem kLda_keeps {ar : Fin 8} {ea : AMode} {met : LoadMet} (h : Keeps q0 fz s) :
    KResKeeps q0 fz (kLda ar ea met s) := by
  unfold kLda
  with_reducible repeat' first
    | assumption | apply foldl_keeps | (extract_lets; fail_if_success done) | apply keeps_ite <;> intro _ | split
    | apply setA_keeps | apply kLoadTo_keeps | apply ok_keeps | apply chk_keeps | apply exc_keeps | apply kUndef_keeps
    | refine mkKeeps rfl rfl rfl rfl rfl rfl rfl ?_
    | intro _

theorem kSta_keeps {ar : Fin 8} {ea : AMode} (h : Keeps q0 fz s) : KResKeeps q0 fz (kSta ar ea s) := kStoreFrom_keeps h

theorem branchTarget_aligned {n : Nat} {d : BitVec n} (h : s.core.pc.toNat % 4 = 0) :
    (branchTarget d s).toNat % 4 = 0 := by
  unfold branchTarget
  rw [BitVec.toNat_add, BitVec.toNat_shiftLeft, Nat.shiftLeft_eq]
  omega

theorem kBcc_keeps {cond : Fin 16} {disp : BitVec 22}
    (h : Keeps q0 fz s) : KResKeeps q0 fz (kBcc cond disp s) := by
  unfold kBcc
  split
  · trivial
  · refine ok_keeps (keeps_ite (fun _ => ?_) (fun _ => ?_))
    · exact setPc_keeps (branchTarget_aligned h.pc) h
    · exact kNext_keeps h

theorem kBal_keeps {disp : BitVec 26} (h : Keeps q0 fz s) : KResKeeps q0 fz (kBal disp s) :=
  ok_keeps (setPc_keeps (branchTarget_aligned h.pc) (setLk_keeps h))

theorem kCall_keeps {disp : BitVec 26} (h : Keeps q0 fz s) :
    KResKeeps q0 fz (kCall disp s) :=
  kPush_keeps (fun _ hx => ok_keeps (setPc_keeps (branchTarget_aligned h.pc) hx)) h

theorem kJmp_keeps {an : Fin 8} (h : Keeps q0 fz s) : KResKeeps q0 fz (kJmp an s) := kJump_keeps h

theorem kCallr_keeps {an : Fin 8} (h : Keeps q0 fz s) :
    KResKeeps q0 fz (kCallr an s) := by
  unfold kCallr
  with_reducible repeat' first
    | assumption | apply foldl_keeps | (extract_lets; fail_if_success done) | apply keeps_ite <;> intro _ | split
    | apply kPush_keeps | apply kJump_keeps | apply ok_keeps | apply chk_keeps | apply exc_keeps | apply kUndef_keeps
    | refine mkKeeps rfl rfl rfl rfl rfl rfl rfl ?_
    | intro _

theorem kBalr_keeps {an : Fin 8} (h : Keeps q0 fz s) :
    KResKeeps q0 fz (kBalr an s) := by
  unfold kBalr
  with_reducible repeat' first
    | assumption | apply foldl_keeps | (extract_lets; fail_if_success done) | apply keeps_ite <;> intro _ | split
    | apply setLk_keeps | apply kJump_keeps | apply ok_keeps | apply chk_keeps | apply exc_keeps | apply kUndef_keeps
    | refine mkKeeps rfl rfl rfl rfl rfl rfl rfl ?_
    | intro _

theorem kJlk_keeps (h : Keeps q0 fz s) : KResKeeps q0 fz (kJlk s) := kJump_keeps h

theorem setStackReg_keeps {r : Fin 32} {v : Word} (h : Keeps q0 fz s) : Keeps q0 fz (setStackReg r v s) := by
  unfold setStackReg
  refine keeps_ite (fun _ => outReg_keeps ?_) fun _ => keeps_ite (fun _ => outReg_keeps ?_) fun _ =>
    keeps_ite (fun _ => setLk_keeps h) fun _ => loadStat_keeps h
  · exact modCore_keeps h.core h
  · exact modCore_keeps h.core h

theorem kPushI_keeps {r : Fin 32} (h : Keeps q0 fz s) :
    KResKeeps q0 fz (kPushI r s) := by
  unfold kPushI
  with_reducible repeat' first
    | assumption | apply foldl_keeps | (extract_lets; fail_if_success done) | apply keeps_ite <;> intro _ | split
    | apply kNext_keeps | apply kUndef_keeps | apply kPush_keeps | apply ok_keeps | apply chk_keeps | apply exc_keeps
    | apply kUndef_keeps | refine mkKeeps rfl rfl rfl rfl rfl rfl rfl ?_
    | intro _

theorem kPopI_keeps {r : Fin 32} (h : Keeps q0 fz s) :
    KResKeeps q0 fz (kPopI r s) := by
  unfold kPopI
  with_reducible repeat' first
    | assumption | apply foldl_keeps | (extract_lets; fail_if_success done) | apply keeps_ite <;> intro _ | split
    | apply kNext_keeps | apply kUndef_keeps | apply kPop_keeps | apply setStackReg_keeps | apply ok_keeps
    | apply chk_keeps | apply exc_keeps | apply kUndef_keeps | refine mkKeeps rfl rfl rfl rfl rfl rfl rfl ?_
    | intro _

theorem kTestBit_keeps {want : Bool} {w : Option Bool} {disp : BitVec 14}
    {b : BitVec 12} (h : Keeps q0 fz s) : KResKeeps q0 fz (kTestBit want w disp b s) := by
  unfold kTestBit
  split
  have h1 := keeps_snd (by assumption) (takeBit_keeps h)
  split
  · refine ok_keeps (setPc_keeps (branchTarget_aligned h.pc) ?_)
    split
    · exact putBitAt_keeps h1
    · exact h1
  · exact ok_keeps (kNext_keeps h1)

theorem kTbs_keeps {disp : BitVec 14} {b : BitVec 12} (h : Keeps q0 fz s) : KResKeeps q0 fz (kTbs disp b s) :=
  kTestBit_keeps h

theorem kTbc_keeps {disp : BitVec 14} {b : BitVec 12} (h : Keeps q0 fz s) : KResKeeps q0 fz (kTbc disp b s) :=
  kTestBit_keeps h

theorem kTbsc_keeps {disp : BitVec 14} {b : BitVec 12} (h : Keeps q0 fz s) : KResKeeps q0 fz (kTbsc disp b s) :=
  kTestBit_keeps h

theorem kTbcs_keeps {disp : BitVec 14} {b : BitVec 12} (h : Keeps q0 fz s) : KResKeeps q0 fz (kTbcs disp b s) :=
  kTestBit_keeps h

theorem kBitPut_keeps {b : BitRef} {v : Bool} (h : Keeps q0 fz s) : KResKeeps q0 fz (kBitPut b v s) :=
  ok_keeps (kNext_keeps (putBitAt_keeps h))

theorem kBitC_keeps {b : BitRef} {f : Bool → Bool → Bool}
    (h : Keeps q0 fz s) : KResKeeps q0 fz (kBitC b f s) := by
  unfold kBitC
  split
  have h1 := keeps_snd (by assumption) (takeBit_keeps h)
  exact ok_keeps (kNext_keeps (setStat_keeps (statOk_wsetBit h1.stat (by decide) (by decide)) h1))

theorem kBset_keeps {b : BitRef} (h : Keeps q0 fz s) : KResKeeps q0 fz (kBset b s) := kBitPut_keeps h

theorem kBclr_keeps {b : BitRef} (h : Keeps q0 fz s) : KResKeeps q0 fz (kBclr b s) := kBitPut_keeps h

theorem kBflip_keeps {b : BitRef} (h : Keeps q0 fz s) : KResKeeps q0 fz (kBflip b s) := by
  unfold kBflip
  split
  exact ok_keeps (kNext_keeps (putBitAt_keeps (keeps_snd (by assumption) (takeBit_keeps h))))

theorem kBst_keeps {b : BitRef} (h : Keeps q0 fz s) : KResKeeps q0 fz (kBst b s) := kBitPut_keeps h

theorem kBld_keeps {b : BitRef} (h : Keeps q0 fz s) : KResKeeps q0 fz (kBld b s) := kBitC_keeps h

theorem kBand_keeps {b : BitRef} (h : Keeps q0 fz s) : KResKeeps q0 fz (kBand b s) := kBitC_keeps h

theorem kBor_keeps {b : BitRef} (h : Keeps q0 fz s) : KResKeeps q0 fz (kBor b s) := kBitC_keeps h

theorem kBxor_keeps {b : BitRef} (h : Keeps q0 fz s) : KResKeeps q0 fz (kBxor b s) := kBitC_keeps h

theorem kSetC_keeps {v : Bool} (h : Keeps q0 fz s) :
    KResKeeps q0 fz (kSetC v s) :=
  ok_keeps (kNext_keeps (setStat_keeps (statOk_wsetBit h.stat (by decide) (by decide)) h))

theorem kCset_keeps (h : Keeps q0 fz s) : KResKeeps q0 fz (kCset s) := kSetC_keeps h

theorem kCclr_keeps (h : Keeps q0 fz s) : KResKeeps q0 fz (kCclr s) := kSetC_keeps h

theorem kCflip_keeps (h : Keeps q0 fz s) : KResKeeps q0 fz (kCflip s) := kSetC_keeps h

theorem kNop_keeps (h : Keeps q0 fz s) : KResKeeps q0 fz (kNop s) := kNext_keeps h

theorem waitDone_keeps (h : Keeps q0 fz s) :
    Keeps q0 fz (waitDone s) := by
  unfold waitDone
  extract_lets irq s1
  clear_value irq
  have h0 : Keeps q0 fz (record .wait (napExit s)) := record_keeps (napExit_keeps h)
  have h1 : Keeps q0 fz s1 := kNext_keeps (modCore_keeps h0.core h0)
  split
  · exact kInterrupt_keeps h1
  · exact h1

theorem kWait_keeps {s0 : State} (h0 : Keeps q0 fz s0) : KResKeeps q0 fz (kWait s0) := by
  unfold kWait
  extract_lets s
  have h : Keeps q0 fz s := outWait_keeps h0
  split
  · refine ok_keeps (kNext_keeps ?_)
    split
    · exact modPair_keeps rfl rfl h
    · exact h
  · split
    · exact ok_keeps (waitDone_keeps h)
    · exact ok_keeps (napSettle_keeps (modCore_keeps h.core h))

theorem kBrk_keeps (h : Keeps q0 fz s) : KResKeeps q0 fz (kBrk s) := by
  unfold kBrk
  split
  · refine ok_keeps (kNext_keeps (keeps_ite (fun _ => ?_) fun _ => h))
    exact modPair_keeps rfl rfl h
  · split
    · split
      · exact ok_keeps (kNext_keeps h)
      · exact halt_keeps (kNext_keeps h)
    · exact exc_keeps

theorem kTrap_keeps {imm : Byte} (h : Keeps q0 fz s) : KResKeeps q0 fz (kTrap imm s) := trivial

theorem kReti_keeps (h : Keeps q0 fz s) :
    KResKeeps q0 fz (kReti s) := by
  unfold kReti
  split
  · refine kPop_keeps (fun v x hx => ?_) h
    split
    · trivial
    · next hv =>
      refine kPop_keeps (fun st y hy => ok_keeps (setPc_keeps (by simpa using hv) (setStat_keeps (statOk_mask _) hy))) hx
  · trivial

theorem kRet_keeps (h : Keeps q0 fz s) :
    KResKeeps q0 fz (kRet s) := by
  unfold kRet
  with_reducible repeat' first
    | assumption | apply foldl_keeps | (extract_lets; fail_if_success done) | apply keeps_ite <;> intro _ | split
    | apply kPop_keeps | apply kJump_keeps | apply ok_keeps | apply chk_keeps | apply exc_keeps | apply kUndef_keeps
    | refine mkKeeps rfl rfl rfl rfl rfl rfl rfl ?_
    | intro _

theorem kEi_keeps (h : Keeps q0 fz s) : KResKeeps q0 fz (kEi s) := by
  have h1 : Keeps q0 fz (setStat (wsetBit s.core.stat 7 true) s) :=
    setStat_keeps (statOk_wsetBit h.stat (by decide) (by decide)) h
  exact ok_keeps (kNext_keeps (modCore_keeps h1.core h1))

theorem kDi_keeps (h : Keeps q0 fz s) : KResKeeps q0 fz (kDi s) :=
  ok_keeps (kNext_keeps (setStat_keeps (statOk_wsetBit h.stat (by decide) (by decide)) h))

theorem kChkpt_keeps (h : Keeps q0 fz s) : KResKeeps q0 fz (kChkpt s) := by
  unfold kChkpt
  extract_lets s1
  have h1 : Keeps q0 fz s1 := kNext_keeps (outChkpt_keeps h)
  split
  · exact ok_keeps h1
  · split
    · exact chkpt_keeps h1
    · split
      · exact opened_keeps (openLoose_keeps h1)
      · exact ok_keeps h1

theorem cctlWrite_keeps {v : Word} (h : Keeps q0 fz s) : Keeps q0 fz (cctlWrite v s) := by
  unfold cctlWrite
  extract_lets s1
  have hw := core_wf_iff.1 h.core
  have h1 : Keeps q0 fz s1 := by
    refine modCore_keeps (core_wf_iff.2 ⟨hw.1, hw.2.1, hw.2.2.1, hw.2.2.2.1, ?_⟩) h
    dsimp only
    rw [BitVec.toNat_and]
    exact Nat.lt_succ_of_le Nat.and_le_right
  exact modPair_keeps rfl rfl h1



theorem mask_mod {v m : Word} {k : Nat} (hm : m.toNat % 2 ^ k = 0) : (v &&& m).toNat % 2 ^ k = 0 := by
  rw [BitVec.toNat_and]
  apply Nat.eq_of_testBit_eq
  intro i
  rw [Nat.testBit_mod_two_pow, Nat.zero_testBit, Nat.testBit_and]
  by_cases hi : i < k
  · have h0 : m.toNat.testBit i = (m.toNat % 2 ^ k).testBit i := by rw [Nat.testBit_mod_two_pow]; simp [hi]
    rw [h0, hm, Nat.zero_testBit, Bool.and_false, Bool.and_false]
  · simp [hi]

theorem crWrite_keeps {cr : Nat} {v : Word} (h : Keeps q0 fz s) : Keeps q0 fz (crWrite cr v s) := by
  have hw := core_wf_iff.1 h.core
  unfold crWrite
  split
  · exact loadStat_keeps h
  · exact outReg_keeps (modCore_keeps (core_wf_iff.2 ⟨hw.1, hw.2.1, mask_mod (k := 7) (by decide), hw.2.2.2⟩) h)
  · exact outReg_keeps (modCore_keeps (core_wf_iff.2 ⟨hw.1, hw.2.1, hw.2.2.1, mask_mod (k := 2) (by decide), hw.2.2.2.2⟩) h)
  · exact outReg_keeps (cctlWrite_keeps h)
  · exact h

theorem kMfc_keeps {dd : Fin 16} {cr : Byte} (h : Keeps q0 fz s) : KResKeeps q0 fz (kMfc dd cr s) := by
  unfold kMfc
  split
  · trivial
  · split
    · split
      rename_i e1
      have h1 := keeps_snd e1 (kTake_keeps (fun _ hx => hx) h)
      split
      rename_i e2
      have h2 := keeps_snd e2 (kTake_keeps (fun _ hx => hx) h1)
      exact ok_keeps (kNext_keeps (setD_keeps (outReg_keeps (modCore_keeps h2.core h2))))
    · exact ok_keeps (kNext_keeps (setD_keeps h))

theorem kMtc_keeps {cr : Byte} {a : Fin 16} (h : Keeps q0 fz s) :
    KResKeeps q0 fz (kMtc cr a s) := by
  unfold kMtc
  with_reducible repeat' first
    | assumption | apply foldl_keeps | (extract_lets; fail_if_success done) | apply keeps_ite <;> intro _ | split
    | apply kNext_keeps | apply kUndef_keeps | apply crWrite_keeps | apply ok_keeps | apply chk_keeps | apply exc_keeps
    | apply kUndef_keeps | refine mkKeeps rfl rfl rfl rfl rfl rfl rfl ?_
    | intro _

theorem kIinv_keeps (h : Keeps q0 fz s) : KResKeeps q0 fz (kIinv s) := ok_keeps (kNext_keeps (modPair_keeps rfl rfl h))

theorem kIinvl_keeps {an : Fin 8} (h : Keeps q0 fz s) : KResKeeps q0 fz (kIinvl an s) :=
  ok_keeps (kNext_keeps (modPair_keeps rfl rfl h))

end Sys2Proof.Machine
end

