-- ==== Sys2Proof/Laws/KeepsKarpolRun.lean ====
section
/-! SUPPORT. What no command may spoil is kept by the functions of Machine/KarpolRun.lean. -/

namespace Sys2Proof.Machine

set_option Elab.async false

variable {q0 : List Instr} {fz : FuseBits} {s : State}

theorem kEffect_keeps {i : Instr} (h : Keeps q0 fz s) :
    KResKeeps q0 fz (kEffect i s) := by
  cases i with
  | kAdd dd a b => exact kAdd_keeps h
  | kAddc dd a b => exact kAddc_keeps h
  | kSub dd a b => exact kSub_keeps h
  | kSubc dd a b => exact kSubc_keeps h
  | kAnd dd a b => exact kAnd_keeps h
  | kOr dd a b => exact kOr_keeps h
  | kXor dd a b => exact kXor_keeps h
  | kAndn dd a b => exact kAndn_keeps h
  | kCmp a b => exact kCmp_keeps h
  | kTst a b => exact kTst_keeps h
  | kMov dd a => exact kMov_keeps h
  | kNot dd a => exact kNot_keeps h
  | kNeg dd a => exact kNeg_keeps h
  | kMin dd a b => exact kMin_keeps h
  | kMax dd a b => exact kMax_keeps h
  | kShl dd a b => exact kShl_keeps h
  | kShr dd a b => exact kShr_keeps h
  | kSar dd a b => exact kSar_keeps h
  | kRor dd a b => exact kRor_keeps h
  | kShli dd a sh => exact kShli_keeps h
  | kShri dd a sh => exact kShri_keeps h
  | kSari dd a sh => exact kSari_keeps h
  | kRori dd a sh => exact kRori_keeps h
  | kMul dd a b => exact kMul_keeps h
  | kMulh dd a b => exact kMulh_keeps h
  | kMulhu dd a b => exact kMulhu_keeps h
  | kDivu dd a b => exact kDivu_keeps h
  | kDivs dd a b => exact kDivs_keeps h
  | kRemu dd a b => exact kRemu_keeps h
  | kRems dd a b => exact kRems_keeps h
  | kSextb dd a => exact kSextb_keeps h
  | kSexth dd a => exact kSexth_keeps h
  | kZextb dd a => exact kZextb_keeps h
  | kZexth dd a => exact kZexth_keeps h
  | kClz dd a => exact kClz_keeps h
  | kBswap dd a => exact kBswap_keeps h
  | kMinu dd a b => exact kMinu_keeps h
  | kMaxu dd a b => exact kMaxu_keeps h
  | kAddi dd a imm => exact kAddi_keeps h
  | kAndi dd a imm => exact kAndi_keeps h
  | kOri dd a imm => exact kOri_keeps h
  | kXori dd a imm => exact kXori_keeps h
  | kCmpi a imm => exact kCmpi_keeps h
  | kMovi dd imm => exact kMovi_keeps h
  | kMovhi dd imm => exact kMovhi_keeps h
  | kLea an am imm => exact kLea_keeps h
  | kMova an dm => exact kMova_keeps h
  | kMovd dm am => exact kMovd_keeps h
  | kAdda an am dm => exact kAdda_keeps h
  | kSuba an am dm => exact kSuba_keeps h
  | kCmpa an am => exact kCmpa_keeps h
  | kMovaa an am => exact kMovaa_keeps h
  | kAddas an am dm => exact kAddas_keeps h
  | kLeapc an imm => exact kLeapc_keeps h
  | kLdW dt ea met => exact kLdW_keeps h
  | kLdH dt ea met => exact kLdH_keeps h
  | kLdHu dt ea met => exact kLdHu_keeps h
  | kLdB dt ea met => exact kLdB_keeps h
  | kLdBu dt ea met => exact kLdBu_keeps h
  | kStW dt ea => exact kStW_keeps h
  | kStH dt ea => exact kStH_keeps h
  | kStB dt ea => exact kStB_keeps h
  | kLda ar ea met => exact kLda_keeps h
  | kSta ar ea => exact kSta_keeps h
  | kBcc cond disp => exact kBcc_keeps h
  | kBal disp => exact kBal_keeps h
  | kCall disp => exact kCall_keeps h
  | kJmp an => exact kJmp_keeps h
  | kCallr an => exact kCallr_keeps h
  | kBalr an => exact kBalr_keeps h
  | kJlk => exact kJlk_keeps h
  | kPush r => exact kPushI_keeps h
  | kPop r => exact kPopI_keeps h
  | kTbs disp b => exact kTbs_keeps h
  | kTbc disp b => exact kTbc_keeps h
  | kTbsc disp b => exact kTbsc_keeps h
  | kTbcs disp b => exact kTbcs_keeps h
  | kBset b => exact kBset_keeps h
  | kBclr b => exact kBclr_keeps h
  | kBflip b => exact kBflip_keeps h
  | kBld b => exact kBld_keeps h
  | kBst b => exact kBst_keeps h
  | kBand b => exact kBand_keeps h
  | kBor b => exact kBor_keeps h
  | kBxor b => exact kBxor_keeps h
  | kCset => exact kCset_keeps h
  | kCclr => exact kCclr_keeps h
  | kCflip => exact kCflip_keeps h
  | kMac ac a b h1 h2 => exact kMac_keeps h
  | kMsu ac a b h1 h2 => exact kMsu_keeps h
  | kMpy ac a b h1 h2 => exact kMpy_keeps h
  | kRdac dd ac sh => exact kRdac_keeps h
  | kWrac ac a sh => exact kWrac_keeps h
  | kClrac ac => exact kClrac_keeps h
  | kAddac ac acs => exact kAddac_keeps h
  | kNop => exact kNop_keeps h
  | kWait => exact kWait_keeps h
  | kBrk => exact kBrk_keeps h
  | kTrap imm => exact kTrap_keeps h
  | kReti => exact kReti_keeps h
  | kRet => exact kRet_keeps h
  | kEi => exact kEi_keeps h
  | kDi => exact kDi_keeps h
  | kChkpt => exact kChkpt_keeps h
  | kMfc dd cr => exact kMfc_keeps h
  | kMtc cr a => exact kMtc_keeps h
  | kIinv => exact kIinv_keeps h
  | kIinvl an => exact kIinvl_keeps h
  | _ => exact kUndef_keeps h

theorem wordEffect_keeps {w : Word} (h : Keeps q0 fz s) :
    KResKeeps q0 fz (wordEffect w s) := by
  unfold wordEffect
  generalize decodeWord w = o
  cases o
  · exact kUndef_keeps h
  · exact kEffect_keeps h

theorem chkRun_keeps (h : Keeps q0 fz s) : Keeps q0 fz (chkRun s) :=
  keeps_ite (fun _ => chkFollow_keeps (fun _ _ hx => wordEffect_keeps hx) (chkEntries_keeps h)) fun _ =>
    keeps_ite (fun _ => freeNext_keeps (chkSteps_keeps (fun _ _ hx => wordEffect_keeps hx) (chkEntries_keeps h)))
      fun _ => h

theorem waitRoom_keeps (h : Keeps q0 fz s) : Keeps q0 fz (waitRoom s) :=
  keeps_ite (fun _ => chkRoom_keeps (fun _ _ hx => wordEffect_keeps hx) h) fun _ => h

theorem boundary_keeps {r : State × KEnd} (h : Keeps q0 fz r.1) : Keeps q0 fz (boundary r) := by
  unfold boundary
  extract_lets s
  have hs : Keeps q0 fz s := kRetire_keeps h
  refine keeps_ite (fun _ => hs) fun _ => ?_
  split
  · exact looseCheckpoint_keeps (fun _ _ hx => wordEffect_keeps hx) hs
  · exact haltPair_keeps (fun _ _ hx => wordEffect_keeps hx) hs
  · exact chkRun_keeps hs

theorem kRun_keeps {e : State → KRes}
    (he : ∀ x, Keeps q0 fz x → KResKeeps q0 fz (e x)) (h : Keeps q0 fz s) : Keeps q0 fz (kRun e s) := by
  refine keeps_ite (fun _ => h) fun _ => keeps_ite (fun _ => haltPair_keeps (fun _ _ hx => wordEffect_keeps hx) h)
    fun _ => boundary_keeps (kIssue_keeps he (waitRoom_keeps ?_))
  exact modPair_keeps rfl rfl h

theorem execKAdd_keeps {dd a b : Fin 16} (h : Keeps q0 fz s) :
    OutKeeps q0 fz (execKAdd dd a b s) :=
  done_keeps (live_keeps (fun _ hx => kRun_keeps (fun _ hy => kAdd_keeps hy) hx) h)

theorem execKAddc_keeps {dd a b : Fin 16} (h : Keeps q0 fz s) :
    OutKeeps q0 fz (execKAddc dd a b s) :=
  done_keeps (live_keeps (fun _ hx => kRun_keeps (fun _ hy => kAddc_keeps hy) hx) h)

theorem execKSub_keeps {dd a b : Fin 16} (h : Keeps q0 fz s) :
    OutKeeps q0 fz (execKSub dd a b s) :=
  done_keeps (live_keeps (fun _ hx => kRun_keeps (fun _ hy => kSub_keeps hy) hx) h)

theorem execKSubc_keeps {dd a b : Fin 16} (h : Keeps q0 fz s) :
    OutKeeps q0 fz (execKSubc dd a b s) :=
  done_keeps (live_keeps (fun _ hx => kRun_keeps (fun _ hy => kSubc_keeps hy) hx) h)

theorem execKAnd_keeps {dd a b : Fin 16} (h : Keeps q0 fz s) :
    OutKeeps q0 fz (execKAnd dd a b s) :=
  done_keeps (live_keeps (fun _ hx => kRun_keeps (fun _ hy => kAnd_keeps hy) hx) h)

theorem execKOr_keeps {dd a b : Fin 16} (h : Keeps q0 fz s) :
    OutKeeps q0 fz (execKOr dd a b s) :=
  done_keeps (live_keeps (fun _ hx => kRun_keeps (fun _ hy => kOr_keeps hy) hx) h)

theorem execKXor_keeps {dd a b : Fin 16} (h : Keeps q0 fz s) :
    OutKeeps q0 fz (execKXor dd a b s) :=
  done_keeps (live_keeps (fun _ hx => kRun_keeps (fun _ hy => kXor_keeps hy) hx) h)

theorem execKAndn_keeps {dd a b : Fin 16} (h : Keeps q0 fz s) :
    OutKeeps q0 fz (execKAndn dd a b s) :=
  done_keeps (live_keeps (fun _ hx => kRun_keeps (fun _ hy => kAndn_keeps hy) hx) h)

theorem execKCmp_keeps {a b : Fin 16} (h : Keeps q0 fz s) :
    OutKeeps q0 fz (execKCmp a b s) :=
  done_keeps (live_keeps (fun _ hx => kRun_keeps (fun _ hy => kCmp_keeps hy) hx) h)

theorem execKTst_keeps {a b : Fin 16} (h : Keeps q0 fz s) :
    OutKeeps q0 fz (execKTst a b s) :=
  done_keeps (live_keeps (fun _ hx => kRun_keeps (fun _ hy => kTst_keeps hy) hx) h)

theorem execKMov_keeps {dd a : Fin 16} (h : Keeps q0 fz s) :
    OutKeeps q0 fz (execKMov dd a s) :=
  done_keeps (live_keeps (fun _ hx => kRun_keeps (fun _ hy => kMov_keeps hy) hx) h)

theorem execKNot_keeps {dd a : Fin 16} (h : Keeps q0 fz s) :
    OutKeeps q0 fz (execKNot dd a s) :=
  done_keeps (live_keeps (fun _ hx => kRun_keeps (fun _ hy => kNot_keeps hy) hx) h)

theorem execKNeg_keeps {dd a : Fin 16} (h : Keeps q0 fz s) :
    OutKeeps q0 fz (execKNeg dd a s) :=
  done_keeps (live_keeps (fun _ hx => kRun_keeps (fun _ hy => kNeg_keeps hy) hx) h)

theorem execKMin_keeps {dd a b : Fin 16} (h : Keeps q0 fz s) :
    OutKeeps q0 fz (execKMin dd a b s) :=
  done_keeps (live_keeps (fun _ hx => kRun_keeps (fun _ hy => kMin_keeps hy) hx) h)

theorem execKMax_keeps {dd a b : Fin 16} (h : Keeps q0 fz s) :
    OutKeeps q0 fz (execKMax dd a b s) :=
  done_keeps (live_keeps (fun _ hx => kRun_keeps (fun _ hy => kMax_keeps hy) hx) h)

theorem execKShl_keeps {dd a b : Fin 16} (h : Keeps q0 fz s) :
    OutKeeps q0 fz (execKShl dd a b s) :=
  done_keeps (live_keeps (fun _ hx => kRun_keeps (fun _ hy => kShl_keeps hy) hx) h)

theorem execKShr_keeps {dd a b : Fin 16} (h : Keeps q0 fz s) :
    OutKeeps q0 fz (execKShr dd a b s) :=
  done_keeps (live_keeps (fun _ hx => kRun_keeps (fun _ hy => kShr_keeps hy) hx) h)

theorem execKSar_keeps {dd a b : Fin 16} (h : Keeps q0 fz s) :
    OutKeeps q0 fz (execKSar dd a b s) :=
  done_keeps (live_keeps (fun _ hx => kRun_keeps (fun _ hy => kSar_keeps hy) hx) h)

theorem execKRor_keeps {dd a b : Fin 16} (h : Keeps q0 fz s) :
    OutKeeps q0 fz (execKRor dd a b s) :=
  done_keeps (live_keeps (fun _ hx => kRun_keeps (fun _ hy => kRor_keeps hy) hx) h)

theorem execKShli_keeps {dd a : Fin 16} {sh : Fin 32} (h : Keeps q0 fz s) :
    OutKeeps q0 fz (execKShli dd a sh s) :=
  done_keeps (live_keeps (fun _ hx => kRun_keeps (fun _ hy => kShli_keeps hy) hx) h)

theorem execKShri_keeps {dd a : Fin 16} {sh : Fin 32} (h : Keeps q0 fz s) :
    OutKeeps q0 fz (execKShri dd a sh s) :=
  done_keeps (live_keeps (fun _ hx => kRun_keeps (fun _ hy => kShri_keeps hy) hx) h)

theorem execKSari_keeps {dd a : Fin 16} {sh : Fin 32} (h : Keeps q0 fz s) :
    OutKeeps q0 fz (execKSari dd a sh s) :=
  done_keeps (live_keeps (fun _ hx => kRun_keeps (fun _ hy => kSari_keeps hy) hx) h)

theorem execKRori_keeps {dd a : Fin 16} {sh : Fin 32} (h : Keeps q0 fz s) :
    OutKeeps q0 fz (execKRori dd a sh s) :=
  done_keeps (live_keeps (fun _ hx => kRun_keeps (fun _ hy => kRori_keeps hy) hx) h)

theorem execKMul_keeps {dd a b : Fin 16} (h : Keeps q0 fz s) :
    OutKeeps q0 fz (execKMul dd a b s) :=
  done_keeps (live_keeps (fun _ hx => kRun_keeps (fun _ hy => kMul_keeps hy) hx) h)

theorem execKMulh_keeps {dd a b : Fin 16} (h : Keeps q0 fz s) :
    OutKeeps q0 fz (execKMulh dd a b s) :=
  done_keeps (live_keeps (fun _ hx => kRun_keeps (fun _ hy => kMulh_keeps hy) hx) h)

theorem execKMulhu_keeps {dd a b : Fin 16} (h : Keeps q0 fz s) :
    OutKeeps q0 fz (execKMulhu dd a b s) :=
  done_keeps (live_keeps (fun _ hx => kRun_keeps (fun _ hy => kMulhu_keeps hy) hx) h)

theorem execKDivu_keeps {dd a b : Fin 16} (h : Keeps q0 fz s) :
    OutKeeps q0 fz (execKDivu dd a b s) :=
  done_keeps (live_keeps (fun _ hx => kRun_keeps (fun _ hy => kDivu_keeps hy) hx) h)

theorem execKDivs_keeps {dd a b : Fin 16} (h : Keeps q0 fz s) :
    OutKeeps q0 fz (execKDivs dd a b s) :=
  done_keeps (live_keeps (fun _ hx => kRun_keeps (fun _ hy => kDivs_keeps hy) hx) h)

theorem execKRemu_keeps {dd a b : Fin 16} (h : Keeps q0 fz s) :
    OutKeeps q0 fz (execKRemu dd a b s) :=
  done_keeps (live_keeps (fun _ hx => kRun_keeps (fun _ hy => kRemu_keeps hy) hx) h)

theorem execKRems_keeps {dd a b : Fin 16} (h : Keeps q0 fz s) :
    OutKeeps q0 fz (execKRems dd a b s) :=
  done_keeps (live_keeps (fun _ hx => kRun_keeps (fun _ hy => kRems_keeps hy) hx) h)

theorem execKSextb_keeps {dd a : Fin 16} (h : Keeps q0 fz s) :
    OutKeeps q0 fz (execKSextb dd a s) :=
  done_keeps (live_keeps (fun _ hx => kRun_keeps (fun _ hy => kSextb_keeps hy) hx) h)

theorem execKSexth_keeps {dd a : Fin 16} (h : Keeps q0 fz s) :
    OutKeeps q0 fz (execKSexth dd a s) :=
  done_keeps (live_keeps (fun _ hx => kRun_keeps (fun _ hy => kSexth_keeps hy) hx) h)

theorem execKZextb_keeps {dd a : Fin 16} (h : Keeps q0 fz s) :
    OutKeeps q0 fz (execKZextb dd a s) :=
  done_keeps (live_keeps (fun _ hx => kRun_keeps (fun _ hy => kZextb_keeps hy) hx) h)

theorem execKZexth_keeps {dd a : Fin 16} (h : Keeps q0 fz s) :
    OutKeeps q0 fz (execKZexth dd a s) :=
  done_keeps (live_keeps (fun _ hx => kRun_keeps (fun _ hy => kZexth_keeps hy) hx) h)

theorem execKClz_keeps {dd a : Fin 16} (h : Keeps q0 fz s) :
    OutKeeps q0 fz (execKClz dd a s) :=
  done_keeps (live_keeps (fun _ hx => kRun_keeps (fun _ hy => kClz_keeps hy) hx) h)

theorem execKBswap_keeps {dd a : Fin 16} (h : Keeps q0 fz s) :
    OutKeeps q0 fz (execKBswap dd a s) :=
  done_keeps (live_keeps (fun _ hx => kRun_keeps (fun _ hy => kBswap_keeps hy) hx) h)

theorem execKMinu_keeps {dd a b : Fin 16} (h : Keeps q0 fz s) :
    OutKeeps q0 fz (execKMinu dd a b s) :=
  done_keeps (live_keeps (fun _ hx => kRun_keeps (fun _ hy => kMinu_keeps hy) hx) h)

theorem execKMaxu_keeps {dd a b : Fin 16} (h : Keeps q0 fz s) :
    OutKeeps q0 fz (execKMaxu dd a b s) :=
  done_keeps (live_keeps (fun _ hx => kRun_keeps (fun _ hy => kMaxu_keeps hy) hx) h)

theorem execKAddi_keeps {dd a : Fin 16} {imm : BitVec 16} (h : Keeps q0 fz s) :
    OutKeeps q0 fz (execKAddi dd a imm s) :=
  done_keeps (live_keeps (fun _ hx => kRun_keeps (fun _ hy => kAddi_keeps hy) hx) h)

theorem execKAndi_keeps {dd a : Fin 16} {imm : BitVec 16} (h : Keeps q0 fz s) :
    OutKeeps q0 fz (execKAndi dd a imm s) :=
  done_keeps (live_keeps (fun _ hx => kRun_keeps (fun _ hy => kAndi_keeps hy) hx) h)

theorem execKOri_keeps {dd a : Fin 16} {imm : BitVec 16} (h : Keeps q0 fz s) :
    OutKeeps q0 fz (execKOri dd a imm s) :=
  done_keeps (live_keeps (fun _ hx => kRun_keeps (fun _ hy => kOri_keeps hy) hx) h)

theorem execKXori_keeps {dd a : Fin 16} {imm : BitVec 16} (h : Keeps q0 fz s) :
    OutKeeps q0 fz (execKXori dd a imm s) :=
  done_keeps (live_keeps (fun _ hx => kRun_keeps (fun _ hy => kXori_keeps hy) hx) h)

theorem execKCmpi_keeps {a : Fin 16} {imm : BitVec 16} (h : Keeps q0 fz s) :
    OutKeeps q0 fz (execKCmpi a imm s) :=
  done_keeps (live_keeps (fun _ hx => kRun_keeps (fun _ hy => kCmpi_keeps hy) hx) h)

theorem execKMovi_keeps {dd : Fin 16} {imm : BitVec 16} (h : Keeps q0 fz s) :
    OutKeeps q0 fz (execKMovi dd imm s) :=
  done_keeps (live_keeps (fun _ hx => kRun_keeps (fun _ hy => kMovi_keeps hy) hx) h)

theorem execKMovhi_keeps {dd : Fin 16} {imm : BitVec 16} (h : Keeps q0 fz s) :
    OutKeeps q0 fz (execKMovhi dd imm s) :=
  done_keeps (live_keeps (fun _ hx => kRun_keeps (fun _ hy => kMovhi_keeps hy) hx) h)

theorem execKLea_keeps {an am : Fin 8} {imm : BitVec 16} (h : Keeps q0 fz s) :
    OutKeeps q0 fz (execKLea an am imm s) :=
  done_keeps (live_keeps (fun _ hx => kRun_keeps (fun _ hy => kLea_keeps hy) hx) h)

theorem execKMova_keeps {an : Fin 8} {dm : Fin 16} (h : Keeps q0 fz s) :
    OutKeeps q0 fz (execKMova an dm s) :=
  done_keeps (live_keeps (fun _ hx => kRun_keeps (fun _ hy => kMova_keeps hy) hx) h)

theorem execKMovd_keeps {dm : Fin 16} {am : Fin 8} (h : Keeps q0 fz s) :
    OutKeeps q0 fz (execKMovd dm am s) :=
  done_keeps (live_keeps (fun _ hx => kRun_keeps (fun _ hy => kMovd_keeps hy) hx) h)

theorem execKAdda_keeps {an am : Fin 8} {dm : Fin 16} (h : Keeps q0 fz s) :
    OutKeeps q0 fz (execKAdda an am dm s) :=
  done_keeps (live_keeps (fun _ hx => kRun_keeps (fun _ hy => kAdda_keeps hy) hx) h)

theorem execKSuba_keeps {an am : Fin 8} {dm : Fin 16} (h : Keeps q0 fz s) :
    OutKeeps q0 fz (execKSuba an am dm s) :=
  done_keeps (live_keeps (fun _ hx => kRun_keeps (fun _ hy => kSuba_keeps hy) hx) h)

theorem execKCmpa_keeps {an am : Fin 8} (h : Keeps q0 fz s) :
    OutKeeps q0 fz (execKCmpa an am s) :=
  done_keeps (live_keeps (fun _ hx => kRun_keeps (fun _ hy => kCmpa_keeps hy) hx) h)

theorem execKMovaa_keeps {an am : Fin 8} (h : Keeps q0 fz s) :
    OutKeeps q0 fz (execKMovaa an am s) :=
  done_keeps (live_keeps (fun _ hx => kRun_keeps (fun _ hy => kMovaa_keeps hy) hx) h)

theorem execKAddas_keeps {an am : Fin 8} {dm : Fin 16} (h : Keeps q0 fz s) :
    OutKeeps q0 fz (execKAddas an am dm s) :=
  done_keeps (live_keeps (fun _ hx => kRun_keeps (fun _ hy => kAddas_keeps hy) hx) h)

theorem execKLeapc_keeps {an : Fin 8} {imm : BitVec 16} (h : Keeps q0 fz s) :
    OutKeeps q0 fz (execKLeapc an imm s) :=
  done_keeps (live_keeps (fun _ hx => kRun_keeps (fun _ hy => kLeapc_keeps hy) hx) h)

theorem execKLdW_keeps {dt : Fin 16} {ea : AMode} {met : LoadMet} (h : Keeps q0 fz s) :
    OutKeeps q0 fz (execKLdW dt ea met s) :=
  done_keeps (live_keeps (fun _ hx => kRun_keeps (fun _ hy => kLdW_keeps hy) hx) h)

theorem execKLdH_keeps {dt : Fin 16} {ea : AMode} {met : LoadMet} (h : Keeps q0 fz s) :
    OutKeeps q0 fz (execKLdH dt ea met s) :=
  done_keeps (live_keeps (fun _ hx => kRun_keeps (fun _ hy => kLdH_keeps hy) hx) h)

theorem execKLdHu_keeps {dt : Fin 16} {ea : AMode} {met : LoadMet} (h : Keeps q0 fz s) :
    OutKeeps q0 fz (execKLdHu dt ea met s) :=
  done_keeps (live_keeps (fun _ hx => kRun_keeps (fun _ hy => kLdHu_keeps hy) hx) h)

theorem execKLdB_keeps {dt : Fin 16} {ea : AMode} {met : LoadMet} (h : Keeps q0 fz s) :
    OutKeeps q0 fz (execKLdB dt ea met s) :=
  done_keeps (live_keeps (fun _ hx => kRun_keeps (fun _ hy => kLdB_keeps hy) hx) h)

theorem execKLdBu_keeps {dt : Fin 16} {ea : AMode} {met : LoadMet} (h : Keeps q0 fz s) :
    OutKeeps q0 fz (execKLdBu dt ea met s) :=
  done_keeps (live_keeps (fun _ hx => kRun_keeps (fun _ hy => kLdBu_keeps hy) hx) h)

theorem execKStW_keeps {dt : Fin 16} {ea : AMode} (h : Keeps q0 fz s) :
    OutKeeps q0 fz (execKStW dt ea s) :=
  done_keeps (live_keeps (fun _ hx => kRun_keeps (fun _ hy => kStW_keeps hy) hx) h)

theorem execKStH_keeps {dt : Fin 16} {ea : AMode} (h : Keeps q0 fz s) :
    OutKeeps q0 fz (execKStH dt ea s) :=
  done_keeps (live_keeps (fun _ hx => kRun_keeps (fun _ hy => kStH_keeps hy) hx) h)

theorem execKStB_keeps {dt : Fin 16} {ea : AMode} (h : Keeps q0 fz s) :
    OutKeeps q0 fz (execKStB dt ea s) :=
  done_keeps (live_keeps (fun _ hx => kRun_keeps (fun _ hy => kStB_keeps hy) hx) h)

theorem execKLda_keeps {ar : Fin 8} {ea : AMode} {met : LoadMet} (h : Keeps q0 fz s) :
    OutKeeps q0 fz (execKLda ar ea met s) :=
  done_keeps (live_keeps (fun _ hx => kRun_keeps (fun _ hy => kLda_keeps hy) hx) h)

theorem execKSta_keeps {ar : Fin 8} {ea : AMode} (h : Keeps q0 fz s) :
    OutKeeps q0 fz (execKSta ar ea s) :=
  done_keeps (live_keeps (fun _ hx => kRun_keeps (fun _ hy => kSta_keeps hy) hx) h)

theorem execKBcc_keeps {cond : Fin 16} {disp : BitVec 22} (h : Keeps q0 fz s) :
    OutKeeps q0 fz (execKBcc cond disp s) :=
  done_keeps (live_keeps (fun _ hx => kRun_keeps (fun _ hy => kBcc_keeps hy) hx) h)

theorem execKBal_keeps {disp : BitVec 26} (h : Keeps q0 fz s) :
    OutKeeps q0 fz (execKBal disp s) :=
  done_keeps (live_keeps (fun _ hx => kRun_keeps (fun _ hy => kBal_keeps hy) hx) h)

theorem execKCall_keeps {disp : BitVec 26} (h : Keeps q0 fz s) :
    OutKeeps q0 fz (execKCall disp s) :=
  done_keeps (live_keeps (fun _ hx => kRun_keeps (fun _ hy => kCall_keeps hy) hx) h)

theorem execKJmp_keeps {an : Fin 8} (h : Keeps q0 fz s) :
    OutKeeps q0 fz (execKJmp an s) :=
  done_keeps (live_keeps (fun _ hx => kRun_keeps (fun _ hy => kJmp_keeps hy) hx) h)

theorem execKCallr_keeps {an : Fin 8} (h : Keeps q0 fz s) :
    OutKeeps q0 fz (execKCallr an s) :=
  done_keeps (live_keeps (fun _ hx => kRun_keeps (fun _ hy => kCallr_keeps hy) hx) h)

theorem execKBalr_keeps {an : Fin 8} (h : Keeps q0 fz s) :
    OutKeeps q0 fz (execKBalr an s) :=
  done_keeps (live_keeps (fun _ hx => kRun_keeps (fun _ hy => kBalr_keeps hy) hx) h)

theorem execKJlk_keeps (h : Keeps q0 fz s) : OutKeeps q0 fz (execKJlk s) :=
  done_keeps (live_keeps (fun _ hx => kRun_keeps (fun _ hy => kJlk_keeps hy) hx) h)

theorem execKPush_keeps {r : Fin 32} (h : Keeps q0 fz s) :
    OutKeeps q0 fz (execKPush r s) :=
  done_keeps (live_keeps (fun _ hx => kRun_keeps (fun _ hy => kPushI_keeps hy) hx) h)

theorem execKPop_keeps {r : Fin 32} (h : Keeps q0 fz s) :
    OutKeeps q0 fz (execKPop r s) :=
  done_keeps (live_keeps (fun _ hx => kRun_keeps (fun _ hy => kPopI_keeps hy) hx) h)

theorem execKTbs_keeps {disp : BitVec 14} {b : BitVec 12} (h : Keeps q0 fz s) :
    OutKeeps q0 fz (execKTbs disp b s) :=
  done_keeps (live_keeps (fun _ hx => kRun_keeps (fun _ hy => kTbs_keeps hy) hx) h)

theorem execKTbc_keeps {disp : BitVec 14} {b : BitVec 12} (h : Keeps q0 fz s) :
    OutKeeps q0 fz (execKTbc disp b s) :=
  done_keeps (live_keeps (fun _ hx => kRun_keeps (fun _ hy => kTbc_keeps hy) hx) h)

theorem execKTbsc_keeps {disp : BitVec 14} {b : BitVec 12} (h : Keeps q0 fz s) :
    OutKeeps q0 fz (execKTbsc disp b s) :=
  done_keeps (live_keeps (fun _ hx => kRun_keeps (fun _ hy => kTbsc_keeps hy) hx) h)

theorem execKTbcs_keeps {disp : BitVec 14} {b : BitVec 12} (h : Keeps q0 fz s) :
    OutKeeps q0 fz (execKTbcs disp b s) :=
  done_keeps (live_keeps (fun _ hx => kRun_keeps (fun _ hy => kTbcs_keeps hy) hx) h)

theorem execKBset_keeps {b : BitRef} (h : Keeps q0 fz s) :
    OutKeeps q0 fz (execKBset b s) :=
  done_keeps (live_keeps (fun _ hx => kRun_keeps (fun _ hy => kBset_keeps hy) hx) h)

theorem execKBclr_keeps {b : BitRef} (h : Keeps q0 fz s) :
    OutKeeps q0 fz (execKBclr b s) :=
  done_keeps (live_keeps (fun _ hx => kRun_keeps (fun _ hy => kBclr_keeps hy) hx) h)

theorem execKBflip_keeps {b : BitRef} (h : Keeps q0 fz s) :
    OutKeeps q0 fz (execKBflip b s) :=
  done_keeps (live_keeps (fun _ hx => kRun_keeps (fun _ hy => kBflip_keeps hy) hx) h)

theorem execKBld_keeps {b : BitRef} (h : Keeps q0 fz s) :
    OutKeeps q0 fz (execKBld b s) :=
  done_keeps (live_keeps (fun _ hx => kRun_keeps (fun _ hy => kBld_keeps hy) hx) h)

theorem execKBst_keeps {b : BitRef} (h : Keeps q0 fz s) :
    OutKeeps q0 fz (execKBst b s) :=
  done_keeps (live_keeps (fun _ hx => kRun_keeps (fun _ hy => kBst_keeps hy) hx) h)

theorem execKBand_keeps {b : BitRef} (h : Keeps q0 fz s) :
    OutKeeps q0 fz (execKBand b s) :=
  done_keeps (live_keeps (fun _ hx => kRun_keeps (fun _ hy => kBand_keeps hy) hx) h)

theorem execKBor_keeps {b : BitRef} (h : Keeps q0 fz s) :
    OutKeeps q0 fz (execKBor b s) :=
  done_keeps (live_keeps (fun _ hx => kRun_keeps (fun _ hy => kBor_keeps hy) hx) h)

theorem execKBxor_keeps {b : BitRef} (h : Keeps q0 fz s) :
    OutKeeps q0 fz (execKBxor b s) :=
  done_keeps (live_keeps (fun _ hx => kRun_keeps (fun _ hy => kBxor_keeps hy) hx) h)

theorem execKCset_keeps (h : Keeps q0 fz s) :
    OutKeeps q0 fz (execKCset s) :=
  done_keeps (live_keeps (fun _ hx => kRun_keeps (fun _ hy => kCset_keeps hy) hx) h)

theorem execKCclr_keeps (h : Keeps q0 fz s) :
    OutKeeps q0 fz (execKCclr s) :=
  done_keeps (live_keeps (fun _ hx => kRun_keeps (fun _ hy => kCclr_keeps hy) hx) h)

theorem execKCflip_keeps (h : Keeps q0 fz s) :
    OutKeeps q0 fz (execKCflip s) :=
  done_keeps (live_keeps (fun _ hx => kRun_keeps (fun _ hy => kCflip_keeps hy) hx) h)

theorem execKMac_keeps {ac : Fin 4} {a b : Fin 16} {h1 h2 : Bool} (h : Keeps q0 fz s) :
    OutKeeps q0 fz (execKMac ac a b h1 h2 s) :=
  done_keeps (live_keeps (fun _ hx => kRun_keeps (fun _ hy => kMac_keeps hy) hx) h)

theorem execKMsu_keeps {ac : Fin 4} {a b : Fin 16} {h1 h2 : Bool} (h : Keeps q0 fz s) :
    OutKeeps q0 fz (execKMsu ac a b h1 h2 s) :=
  done_keeps (live_keeps (fun _ hx => kRun_keeps (fun _ hy => kMsu_keeps hy) hx) h)

theorem execKMpy_keeps {ac : Fin 4} {a b : Fin 16} {h1 h2 : Bool} (h : Keeps q0 fz s) :
    OutKeeps q0 fz (execKMpy ac a b h1 h2 s) :=
  done_keeps (live_keeps (fun _ hx => kRun_keeps (fun _ hy => kMpy_keeps hy) hx) h)

theorem execKRdac_keeps {dd : Fin 16} {ac : Fin 4} {sh : Fin 32} (h : Keeps q0 fz s) :
    OutKeeps q0 fz (execKRdac dd ac sh s) :=
  done_keeps (live_keeps (fun _ hx => kRun_keeps (fun _ hy => kRdac_keeps hy) hx) h)

theorem execKWrac_keeps {ac : Fin 4} {a : Fin 16} {sh : Fin 32} (h : Keeps q0 fz s) :
    OutKeeps q0 fz (execKWrac ac a sh s) :=
  done_keeps (live_keeps (fun _ hx => kRun_keeps (fun _ hy => kWrac_keeps hy) hx) h)

theorem execKClrac_keeps {ac : Fin 4} (h : Keeps q0 fz s) :
    OutKeeps q0 fz (execKClrac ac s) :=
  done_keeps (live_keeps (fun _ hx => kRun_keeps (fun _ hy => kClrac_keeps hy) hx) h)

theorem execKAddac_keeps {ac acs : Fin 4} (h : Keeps q0 fz s) :
    OutKeeps q0 fz (execKAddac ac acs s) :=
  done_keeps (live_keeps (fun _ hx => kRun_keeps (fun _ hy => kAddac_keeps hy) hx) h)

theorem execKNop_keeps (h : Keeps q0 fz s) : OutKeeps q0 fz (execKNop s) :=
  done_keeps (live_keeps (fun _ hx => kRun_keeps (fun _ hy => kNop_keeps hy) hx) h)

theorem execKWait_keeps (h : Keeps q0 fz s) :
    OutKeeps q0 fz (execKWait s) :=
  done_keeps (live_keeps (fun _ hx => kRun_keeps (fun _ hy => kWait_keeps hy) hx) h)

theorem execKBrk_keeps (h : Keeps q0 fz s) : OutKeeps q0 fz (execKBrk s) :=
  done_keeps (live_keeps (fun _ hx => kRun_keeps (fun _ hy => kBrk_keeps hy) hx) h)

theorem execKTrap_keeps {imm : Byte} (h : Keeps q0 fz s) :
    OutKeeps q0 fz (execKTrap imm s) :=
  done_keeps (live_keeps (fun _ hx => kRun_keeps (fun _ hy => kTrap_keeps hy) hx) h)

theorem execKReti_keeps (h : Keeps q0 fz s) :
    OutKeeps q0 fz (execKReti s) :=
  done_keeps (live_keeps (fun _ hx => kRun_keeps (fun _ hy => kReti_keeps hy) hx) h)

theorem execKRet_keeps (h : Keeps q0 fz s) : OutKeeps q0 fz (execKRet s) :=
  done_keeps (live_keeps (fun _ hx => kRun_keeps (fun _ hy => kRet_keeps hy) hx) h)

theorem execKEi_keeps (h : Keeps q0 fz s) : OutKeeps q0 fz (execKEi s) :=
  done_keeps (live_keeps (fun _ hx => kRun_keeps (fun _ hy => kEi_keeps hy) hx) h)

theorem execKDi_keeps (h : Keeps q0 fz s) : OutKeeps q0 fz (execKDi s) :=
  done_keeps (live_keeps (fun _ hx => kRun_keeps (fun _ hy => kDi_keeps hy) hx) h)

theorem execKChkpt_keeps (h : Keeps q0 fz s) :
    OutKeeps q0 fz (execKChkpt s) :=
  done_keeps (live_keeps (fun _ hx => kRun_keeps (fun _ hy => kChkpt_keeps hy) hx) h)

theorem execKMfc_keeps {dd : Fin 16} {cr : Byte} (h : Keeps q0 fz s) :
    OutKeeps q0 fz (execKMfc dd cr s) :=
  done_keeps (live_keeps (fun _ hx => kRun_keeps (fun _ hy => kMfc_keeps hy) hx) h)

theorem execKMtc_keeps {cr : Byte} {a : Fin 16} (h : Keeps q0 fz s) :
    OutKeeps q0 fz (execKMtc cr a s) :=
  done_keeps (live_keeps (fun _ hx => kRun_keeps (fun _ hy => kMtc_keeps hy) hx) h)

theorem execKIinv_keeps (h : Keeps q0 fz s) :
    OutKeeps q0 fz (execKIinv s) :=
  done_keeps (live_keeps (fun _ hx => kRun_keeps (fun _ hy => kIinv_keeps hy) hx) h)

theorem execKIinvl_keeps {an : Fin 8} (h : Keeps q0 fz s) :
    OutKeeps q0 fz (execKIinvl an s) :=
  done_keeps (live_keeps (fun _ hx => kRun_keeps (fun _ hy => kIinvl_keeps hy) hx) h)

theorem resync_keeps (h : Keeps q0 fz s) : Keeps q0 fz (resync s) := by
  unfold resync
  extract_lets s1
  have h1 : Keeps q0 fz s1 := modCore_keeps h.core h
  refine wdogReload_keeps ?_
  exact commit_keeps h1.core rfl rfl (closeLoose_keeps (freshInterval_keeps h1))

theorem waitComplete_keeps (h : Keeps q0 fz s) : Keeps q0 fz (waitComplete s) := by
  refine keeps_ite (fun _ => ?_) fun _ => h
  have h1 : Keeps q0 fz (boundary (waitDone (waitRoom s), .retired)) := boundary_keeps (waitDone_keeps (waitRoom_keeps h))
  exact keeps_ite (fun _ => resync_keeps h1) fun _ =>
    keeps_ite (fun _ => haltPair_keeps (fun _ _ hx => wordEffect_keeps hx) h1) fun _ => h1

theorem execKWaitComplete_keeps (h : Keeps q0 fz s) :
    OutKeeps q0 fz (execKWaitComplete s) := by
  unfold execKWaitComplete
  with_reducible repeat' first
    | assumption | apply foldl_keeps | (extract_lets; fail_if_success done) | apply keeps_ite <;> intro _ | split
    | apply done_keeps | apply live_keeps | apply waitComplete_keeps | apply next_keeps
    | refine mkKeeps rfl rfl rfl rfl rfl rfl rfl ?_
    | intro _

theorem interruptEntry_keeps (h : Keeps q0 fz s) : Keeps q0 fz (interruptEntry s) := by
  unfold interruptEntry
  refine keeps_ite (fun _ => ?_) fun _ => h
  split
  · exact h
  · exact chkRun_keeps (kEntryCommit_keeps (kInterrupt_keeps (waitRoom_keeps h)))

theorem execInterruptEntry_keeps (h : Keeps q0 fz s) : OutKeeps q0 fz (execInterruptEntry s) :=
  done_keeps (live_keeps (fun _ hx => interruptEntry_keeps hx) h)

theorem execGapCheckpoint_keeps (h : Keeps q0 fz s) : OutKeeps q0 fz (execGapCheckpoint s) :=
  next_keeps (live_keeps (fun _ hx => keeps_ite (fun _ => raise_keeps (orReg_keeps
    (looseCheckpoint_keeps (fun _ _ hy => wordEffect_keeps hy) hx))) fun _ => hx) h)

end Sys2Proof.Machine
end

