-- ==== Sys2Proof/Laws/KeepsPairRun.lean ====
section
/-! SUPPORT. What no command may spoil is kept by the functions of Machine/PairRun.lean. -/

namespace Sys2Proof.Machine

set_option Elab.async false

variable {q0 : List Instr} {fz : FuseBits} {s : State}

theorem lineError_keeps {data : Bool} {a : Nat} (h : Keeps q0 fz s) : Keeps q0 fz (lineError data a s) := by
  refine keeps_ite (fun _ => h) fun _ => keeps_ite (fun _ => cacheErr_keeps (dcacheLoad_keeps ?_)) fun _ =>
    cacheErr_keeps (icacheFill_keeps ?_)
  · exact modPair_keeps rfl rfl h
  · exact modPair_keeps rfl rfl h

theorem caughtRead_keeps {a : Option Word} (h : Keeps q0 fz s) :
    Keeps q0 fz (caughtRead a s) := by
  unfold caughtRead
  with_reducible repeat' first
    | assumption | apply foldl_keeps | (extract_lets; fail_if_success done) | apply keeps_ite <;> intro _ | split
    | apply loadEffect_keeps | refine mkKeeps rfl rfl rfl rfl rfl rfl rfl ?_
    | intro _

theorem faultDetected_keeps {f : FaultEvent} (h : Keeps q0 fz s) : Keeps q0 fz (faultDetected f s) := by
  cases f with
  | feltLinkUe => exact startRecovery_keeps h
  | stageParity stage dir p =>
    exact keeps_ite (fun _ => abortSending_keeps (startRecovery_keeps h)) fun _ => startRecovery_keeps h
  | pressLane l => exact startRecovery_keeps (failLane_keeps h)
  | chanStateUe c => exact resumeWaits_keeps (startRecovery_keeps (loseChan_keeps h))
  | interpParity => exact startRecovery_keeps h
  | keyeCheck => exact startRecovery_keeps (orReg_keeps h)
  | pairMismatch kind regNo addr read =>
    exact keeps_ite (fun _ => h) fun _ => classSFault_keeps (caughtRead_keeps h)
  | sntMemUe => exact classSFault_keeps h
  | cacheParity data a => exact lineError_keeps h
  | memCorrected a => exact keeps_ite (fun _ => memCe_keeps h) fun _ => h

theorem execFaultDetected_keeps {f : FaultEvent} (h : Keeps q0 fz s) : OutKeeps q0 fz (execFaultDetected f s) :=
  next_keeps (live_keeps (fun _ hx => faultDetected_keeps hx) h)

theorem execWdogWarn_keeps (h : Keeps q0 fz s) :
    OutKeeps q0 fz (execWdogWarn s) := by
  unfold execWdogWarn
  with_reducible repeat' first
    | assumption | apply foldl_keeps | (extract_lets; fail_if_success done) | apply keeps_ite <;> intro _ | split
    | apply live_keeps | apply orReg_keeps | apply raise_keeps | refine modPair_keeps rfl rfl ?_ | apply next_keeps
    | refine mkKeeps rfl rfl rfl rfl rfl rfl rfl ?_
    | intro _

theorem execSntWatchdog_keeps (h : Keeps q0 fz s) :
    OutKeeps q0 fz (execSntWatchdog s) := by
  unfold execSntWatchdog
  with_reducible repeat' first
    | assumption | apply foldl_keeps | (extract_lets; fail_if_success done) | apply keeps_ite <;> intro _ | split
    | apply live_keeps | apply classSFault_keeps | apply next_keeps | refine mkKeeps rfl rfl rfl rfl rfl rfl rfl ?_
    | intro _

theorem execPairKick_keeps {v : Word} (h : Keeps q0 fz s) : OutKeeps q0 fz (execPairKick v s) :=
  next_keeps (live_keeps (fun _ hx => pairWrite_keeps hx) h)

theorem execModeReq_keeps {v : Word} (h : Keeps q0 fz s) : OutKeeps q0 fz (execModeReq v s) :=
  next_keeps (live_keeps (fun _ hx => pairWrite_keeps hx) h)

theorem scrubFound_keeps {f : ScrubFind} (h : Keeps q0 fz s) :
    Keeps q0 fz (scrubFound f s) := by
  unfold scrubFound
  with_reducible repeat' first
    | assumption | apply foldl_keeps | (extract_lets; fail_if_success done) | apply keeps_ite <;> intro _ | split
    | apply classSFault_keeps | apply memCe_keeps | refine mkKeeps rfl rfl rfl rfl rfl rfl rfl ?_
    | intro _

theorem scrubNext_keeps (h : Keeps q0 fz s) :
    Keeps q0 fz (scrubNext s) := by
  unfold scrubNext
  with_reducible repeat' first
    | assumption | apply foldl_keeps | (extract_lets; fail_if_success done) | apply keeps_ite <;> intro _ | split
    | apply setRegN_keeps | refine modPair_keeps rfl rfl ?_ | refine mkKeeps rfl rfl rfl rfl rfl rfl rfl ?_
    | intro _

theorem execSentinelScrub_keeps {itcm dtcm sram : ScrubFind} (h : Keeps q0 fz s) :
    OutKeeps q0 fz (execSentinelScrub itcm dtcm sram s) := by
  unfold execSentinelScrub
  with_reducible repeat' first
    | assumption | apply foldl_keeps | (extract_lets; fail_if_success done) | apply keeps_ite <;> intro _ | split
    | apply live_keeps | apply scrubFound_keeps | apply scrubNext_keeps | apply next_keeps
    | refine mkKeeps rfl rfl rfl rfl rfl rfl rfl ?_
    | intro _

theorem setOutcome_keeps {n : Nat} (h : Keeps q0 fz s) : Keeps q0 fz (setOutcome n s) :=
  mkKeeps rfl rfl rfl rfl rfl rfl rfl h

theorem pairRuns_keeps (h : Keeps q0 fz s) : Keeps q0 fz (pairRuns s) := by
  refine wdogReload_keeps (setPair_keeps ?_ (fun _ e => nomatch e) (freshInterval_keeps h))
  exact (freshInterval_keeps h).commit

theorem soloResume_keeps {boot : BootReads} (h : Keeps q0 fz s) : Keeps q0 fz (soloResume boot s) := by
  unfold soloResume
  extract_lets _ s1 s2
  have h1 : Keeps q0 fz s1 := by
    refine pairRuns_keeps (modCore_keeps ?_ (setOutcome_keeps h))
    exact h.commit
  have h2 : Keeps q0 fz s2 := raise_keeps (orReg_keeps h1)
  exact keeps_ite (fun _ => romRun_keeps h2) (fun _ => h2)

theorem markFailed_keeps {aFails : Bool} (h : Keeps q0 fz s) : Keeps q0 fz (markFailed aFails s) := by
  exact modPair_keeps rfl rfl h

theorem oneCopy_keeps {aFails : Bool} {boot : BootReads} (h : Keeps q0 fz s) :
    Keeps q0 fz (oneCopy aFails boot s) := by
  unfold oneCopy
  with_reducible repeat' first
    | assumption | apply foldl_keeps | (extract_lets; fail_if_success done) | apply keeps_ite <;> intro _ | split
    | apply beginZeroing_keeps | apply soloResume_keeps | apply markFailed_keeps
    | refine mkKeeps rfl rfl rfl rfl rfl rfl rfl ?_
    | intro _

theorem countTransient_keeps (h : Keeps q0 fz s) : Keeps q0 fz (countTransient s) := mkKeeps rfl rfl rfl rfl rfl rfl rfl h

theorem bistFailed_keeps (h : Keeps q0 fz s) : Keeps q0 fz (bistFailed s) := by
  unfold bistFailed
  extract_lets s1 s2
  have h1 : Keeps q0 fz s1 := by
    refine setOutcome_keeps ?_
    exact modPair_keeps rfl rfl h
  have h2 : Keeps q0 fz s2 := keeps_ite (fun _ => setFaults_keeps (recordFault_keeps h1)) fun _ =>
    enterFault_keeps (fun _ => id) h1
  exact audioStop_keeps (pinsHold_keeps (fanAuto_keeps h2))

theorem bistOutcome_keeps {passA passB : Bool} {boot : BootReads} (h : Keeps q0 fz s) :
    Keeps q0 fz (bistOutcome passA passB boot s) := by
  unfold bistOutcome
  with_reducible repeat' first
    | assumption | apply foldl_keeps | (extract_lets; fail_if_success done) | apply keeps_ite <;> intro _ | split
    | apply setReg_keeps | apply beginZeroing_keeps | apply oneCopy_keeps | apply countTransient_keeps
    | apply bistFailed_keeps | refine mkKeeps rfl rfl rfl rfl rfl rfl rfl ?_
    | intro _

theorem execBistDone_keeps {passA passB : Bool} {boot : BootReads} (h : Keeps q0 fz s) :
    OutKeeps q0 fz (execBistDone passA passB boot s) := by
  unfold execBistDone
  with_reducible repeat' first
    | assumption | apply foldl_keeps | (extract_lets; fail_if_success done) | apply keeps_ite <;> intro _ | split
    | apply live_keeps | apply bistOutcome_keeps | apply next_keeps | refine mkKeeps rfl rfl rfl rfl rfl rfl rfl ?_
    | intro _

theorem restart_keeps {boot : BootReads} (h : Keeps q0 fz s) : Keeps q0 fz (restart boot s) := by
  unfold restart
  extract_lets _ s1 s2 s3
  have h1 : Keeps q0 fz s1 :=
    ⟨h.pending, h.fuses, h.bsr, tableWf_filter _ h.mem, (by decide : ({} : Core).wf = true), h.commit, h.chk, h.doors⟩
  have h2 : Keeps q0 fz s2 := pairRuns_keeps (commit_keeps (c := {}) (by decide) rfl rfl h1)
  have h3 : Keeps q0 fz s3 := setEvcStack_keeps (doorResetCore_keeps h2)
  exact romStart_keeps (raise_keeps (orReg_keeps h3))

theorem execRestartZeroDone_keeps {boot : BootReads} (h : Keeps q0 fz s) :
    OutKeeps q0 fz (execRestartZeroDone boot s) := by
  unfold execRestartZeroDone
  with_reducible repeat' first
    | assumption | apply foldl_keeps | (extract_lets; fail_if_success done) | apply keeps_ite <;> intro _ | split
    | apply live_keeps | apply restart_keeps | apply next_keeps | refine mkKeeps rfl rfl rfl rfl rfl rfl rfl ?_
    | intro _

end Sys2Proof.Machine
end

