-- ==== Sys2Proof/Laws/KeepsDebug.lean ====
section
/-! SUPPORT. What no command may spoil is kept by the functions of Machine/Debug.lean. -/

namespace Sys2Proof.Machine

set_option Elab.async false

variable {q0 : List Instr} {fz : FuseBits} {s : State}

theorem dbgOk_keeps (h : Keeps q0 fz s) : Keeps q0 fz (dbgOk s).st := mkKeeps rfl rfl rfl rfl rfl rfl rfl h

theorem dbgFail_keeps {n : Nat} (h : Keeps q0 fz s) : Keeps q0 fz (dbgFail n s).st := mkKeeps rfl rfl rfl rfl rfl rfl rfl h

theorem dbgOpen_keeps (h : Keeps q0 fz s) : Keeps q0 fz (dbgOpen s).st := mkKeeps rfl rfl rfl rfl rfl rfl rfl h

theorem dbgBusRead_keeps {a : Word} (h : Keeps q0 fz s) :
    Keeps q0 fz (dbgBusRead a s).st := by
  unfold dbgBusRead
  with_reducible repeat' first
    | assumption | apply foldl_keeps | (extract_lets; fail_if_success done) | apply keeps_ite <;> intro _ | split
    | apply loadEffect_keeps | apply dbgFail_keeps | refine mkKeeps rfl rfl rfl rfl rfl rfl rfl ?_
    | intro _

theorem dbgBusWrite_keeps {a v : Word} (h : Keeps q0 fz s) : Keeps q0 fz (dbgBusWrite a v s).st := by
  unfold dbgBusWrite
  split
  · exact h
  · refine dbgOk_keeps ?_
    exact modPair_keeps rfl rfl (storeVal_keeps h)

theorem crReadEffect_wf {cr : Nat} {c : Core} (h : c.wf = true) : (crReadEffect cr c).wf = true := by
  unfold crReadEffect
  split
  · exact h
  · exact h

theorem dbgSetReg_keeps {n : Nat} {v : Word} (h : Keeps q0 fz s) :
    Keeps q0 fz (dbgSetReg n v s) := by
  unfold dbgSetReg
  refine keeps_ite (fun _ => modCore_keeps h.core h) (fun _ => keeps_ite (fun _ => modCore_keeps h.core h) (fun _ =>
    keeps_ite (fun _ => setLk_keeps h) (fun _ => keeps_ite (fun _ => setStat_keeps (statOk_mask v) h) (fun _ =>
    keeps_ite (fun _ => setPc_keeps (mask_mod (k := 2) (by decide)) h) (fun _ =>
    keeps_ite (fun _ => setStat_keeps (statOk_mask v) h) (fun _ => keeps_ite (fun _ => crWrite_keeps h) (fun _ =>
    keeps_ite (fun _ => modCore_keeps h.core h) (fun _ => h))))))))

theorem dbgRegRead_keeps {a : Word} (h : Keeps q0 fz s) :
    Keeps q0 fz (dbgRegRead a s).st := by
  unfold dbgRegRead
  extract_lets n chk f
  split
  · exact h
  · split
    · exact freeNext_keeps h
    · have hf : ∀ x, Keeps q0 fz x → Keeps q0 fz (f x) := fun _ hx => modCore_keeps (crReadEffect_wf hx.core) hx
      exact keeps_ite (fun _ => asChecker_keeps hf h) (fun _ => hf s h)

theorem dbgRegWrite_keeps {a v : Word} (h : Keeps q0 fz s) : Keeps q0 fz (dbgRegWrite a v s).st := by
  unfold dbgRegWrite
  extract_lets n s1
  have h1 : Keeps q0 fz s1 := dbgSetReg_keeps h
  have h2 : Keeps q0 fz (modPair (fun p => { p with commit := s1.core, chk := p.chk.map fun _ => s1.core }) s1) := by
    refine setPair_keeps h1.core (fun c e => ?_) h1
    obtain ⟨x, -, rfl⟩ := Option.map_eq_some_iff.mp e
    exact h1.core
  clear_value s1
  generalize (if s.pair.mode = 3 then s.pair.chkHalted else s.pair.halted) = b
  cases b with
  | false => exact h
  | true =>
    rw [if_neg (by decide)]
    split
    · exact freeNext_keeps h
    split
    · exact asChecker_keeps (fun _ hx => dbgSetReg_keeps hx) h
    · exact h2

theorem dbgHalt_keeps (h : Keeps q0 fz s) : Keeps q0 fz (dbgHalt s).st := by
  unfold dbgHalt
  split
  · exact h
  split
  · refine dbgOk_keeps ?_
    exact modPair_keeps rfl rfl h
  split
  · exact h
  split
  · exact h
  split
  · refine dbgOk_keeps ?_
    exact modPair_keeps rfl rfl h
  · exact haltPair_keeps (fun _ _ hx => wordEffect_keeps hx) h

theorem unhalt_keeps {boot : BootReads} (h : Keeps q0 fz s) : Keeps q0 fz (unhalt boot s) := by
  unfold unhalt
  extract_lets s1
  have h1 : Keeps q0 fz s1 := by
    refine wdogReload_keeps ?_
    exact modPair_keeps rfl rfl h
  exact keeps_ite (fun _ => romRun_keeps h1) fun _ => h1

theorem dbgResume_keeps {boot : BootReads} (h : Keeps q0 fz s) : Keeps q0 fz (dbgResume boot s).st := by
  unfold dbgResume
  split
  · exact h
  split
  · refine chkRun_keeps (keeps_ite (fun _ => ?_) fun _ => h)
    exact modPair_keeps rfl rfl h
  · refine keeps_ite (fun _ => unhalt_keeps h) fun _ => ?_
    exact modPair_keeps rfl rfl h

theorem stepMain_keeps (h : Keeps q0 fz s) : Keeps q0 fz (stepMain s) := by
  unfold stepMain
  extract_lets s1 s2
  have h1 : Keeps q0 fz s1 := icacheFill_keeps h
  have h2 : Keeps q0 fz s2 := by
    refine boundary_keeps (kIssue_keeps (fun _ hx => wordEffect_keeps hx) ?_)
    exact modPair_keeps rfl rfl h1
  refine keeps_ite (fun _ => h2) fun _ => keeps_ite (fun _ => wdogReload_keeps ?_) fun _ =>
    haltPair_keeps (fun _ _ hx => wordEffect_keeps hx) h2
  exact modPair_keeps rfl rfl h2

theorem dbgStep_keeps (h : Keeps q0 fz s) : Keeps q0 fz (dbgStep s).st := by
  unfold dbgStep
  split
  · exact h
  split
  · split
    · exact h
    split
    · exact h
    · refine dbgOk_keeps ?_
      exact modPair_keeps rfl rfl (chkStep_keeps (fun _ _ hx => wordEffect_keeps hx) h)
  split
  · exact stepMain_keeps h
  · exact h

theorem beginReplay_keeps (h : Keeps q0 fz s) : Keeps q0 fz (beginReplay s) := by
  unfold beginReplay
  extract_lets was _ s0 s1
  have h0 : Keeps q0 fz s0 := by
    refine keeps_ite (fun _ => h) fun _ => setPair_keeps ?_ (fun c e => ?_) (freshInterval_keeps h)
    · exact (freshInterval_keeps h).commit
    · cases e
      exact h.core
  have h1 : Keeps q0 fz s1 := by exact modPair_keeps rfl rfl h0
  exact keeps_ite (fun _ => wdogReload_keeps h1) (fun _ => h1)

theorem dbgSetMode_keeps {v : Word} (h : Keeps q0 fz s) : Keeps q0 fz (dbgSetMode v s).st := by
  unfold dbgSetMode
  extract_lets m
  split
  · exact h
  split
  · exact freeNext_keeps h
  split
  · split
    · exact h
    · exact h
  split
  · split
    · exact h
    · exact beginReplay_keeps h
  · refine dbgOk_keeps ?_
    exact modPair_keeps rfl rfl h

theorem dbgResync_keeps (h : Keeps q0 fz s) : Keeps q0 fz (dbgResync s).st := by
  unfold dbgResync
  split
  · exact h
  split
  · exact h
  split
  · refine dbgOk_keeps ?_
    exact modPair_keeps rfl rfl h
  · exact resync_keeps h

theorem dbgBreakpoint_keeps {a v : Word} (h : Keeps q0 fz s) : Keeps q0 fz (dbgBreakpoint a v s).st :=
  mkKeeps rfl rfl rfl rfl rfl rfl rfl h

theorem dbgCommand_keeps {cmd : Nat} {a v : Word} {boot : BootReads} (h : Keeps q0 fz s) :
    Keeps q0 fz (dbgCommand cmd a v boot s).st := by
  unfold dbgCommand
  with_reducible repeat' first
    | assumption | apply foldl_keeps | (extract_lets; fail_if_success done) | apply keeps_ite <;> intro _ | split
    | apply dbgOpen_keeps | apply dbgBusRead_keeps | apply dbgBusWrite_keeps | apply dbgRegRead_keeps
    | apply dbgRegWrite_keeps | apply dbgHalt_keeps | apply dbgResume_keeps | apply dbgStep_keeps
    | apply dbgSetMode_keeps | apply dbgResync_keeps | apply dbgBreakpoint_keeps
    | refine mkKeeps rfl rfl rfl rfl rfl rfl rfl ?_
    | intro _

theorem dbgUpdate_keeps {cmd : Nat} {a v : Word} {boot : BootReads} (h : Keeps q0 fz s) :
    Keeps q0 fz (dbgUpdate cmd a v boot s) := by
  refine keeps_ite (fun _ => h) fun _ => mkKeeps rfl rfl rfl rfl rfl rfl rfl (dbgCommand_keeps (raise_keeps ?_))
  exact modPair_keeps rfl rfl h

theorem tapSelect_keeps {ir : Nat} (h : Keeps q0 fz s) : Keeps q0 fz (tapSelect ir s) :=
  tapEmit_keeps (mkKeeps rfl rfl rfl rfl rfl rfl rfl h)

theorem tapShift_keeps {cap tdi : List Bool} (h : Keeps q0 fz s) : Keeps q0 fz (tapShift cap tdi s) :=
  mkKeeps rfl rfl rfl rfl rfl rfl rfl h

theorem bsrCapture_length (s : State) : (bsrCapture s).length = 311 := by
  unfold bsrCapture
  rw [List.length_mapIdx, List.length_flatMap]
  have hl : ∀ b, (((if (ballCells b).1 then [(ballCapture s b).1] else [])
      ++ (if (ballCells b).2 then [(ballCapture s b).2.1, (ballCapture s b).2.2] else [])).length) = cellCount b := by
    intro b
    unfold cellCount b2n
    split <;> split <;> rfl
  have hm : (boundaryBalls.map cellCount).sum = 311 := by decide +kernel
  simp only [hl]
  exact hm

theorem shifted_length (cap tdi : List Bool) : (shifted cap tdi).length = cap.length := by
  simp [shifted]

theorem scanBoundary_keeps {tdi : List Bool} (h : Keeps q0 fz s) :
    Keeps q0 fz (scanBoundary tdi s) := by
  unfold scanBoundary
  extract_lets cap s1 _
  have h1 : Keeps q0 fz s1 := tapShift_keeps (mkKeeps rfl rfl rfl rfl rfl rfl rfl h)
  refine tapEmit_keeps ⟨h1.pending, h1.fuses, ?_, h1.mem, h1.core, h1.commit, h1.chk, h1.doors⟩
  exact (shifted_length _ _).trans (bsrCapture_length s)

theorem scanDebug_keeps {tdi : List Bool} {boot : BootReads} (h : Keeps q0 fz s) : Keeps q0 fz (scanDebug tdi boot s) :=
  dbgUpdate_keeps (mkKeeps rfl rfl rfl rfl rfl rfl rfl h)

theorem tapRun_keeps {ir : Nat} {tdi : List Bool} {scan : State → State} (hscan : ∀ x0, Keeps q0 fz x0 → Keeps q0 fz (scan x0)) (h : Keeps q0 fz s) :
    Keeps q0 fz (tapRun ir tdi scan s) := by
  unfold tapRun
  with_reducible repeat' first
    | assumption | apply foldl_keeps | (extract_lets; fail_if_success done) | apply keeps_ite <;> intro _ | split
    | apply hscan | apply tapSelect_keeps | refine mkKeeps rfl rfl rfl rfl rfl rfl rfl ?_
    | intro _

theorem execExtest_keeps {tdi : List Bool} (h : Keeps q0 fz s) : OutKeeps q0 fz (execExtest tdi s) :=
  next_keeps (tapRun_keeps (fun _ hx => scanBoundary_keeps hx) h)

theorem execSamplePreload_keeps {tdi : List Bool} (h : Keeps q0 fz s) : OutKeeps q0 fz (execSamplePreload tdi s) :=
  next_keeps (tapRun_keeps (fun _ hx => scanBoundary_keeps hx) h)

theorem execIdcode_keeps {tdi : List Bool} (h : Keeps q0 fz s) :
    OutKeeps q0 fz (execIdcode tdi s) := by
  unfold execIdcode
  with_reducible repeat' first
    | assumption | apply foldl_keeps | (extract_lets; fail_if_success done) | apply keeps_ite <;> intro _ | split
    | apply tapShift_keeps | apply tapRun_keeps | apply next_keeps | refine mkKeeps rfl rfl rfl rfl rfl rfl rfl ?_
    | intro _

theorem execHighz_keeps {tdi : List Bool} (h : Keeps q0 fz s) :
    OutKeeps q0 fz (execHighz tdi s) := by
  unfold execHighz
  with_reducible repeat' first
    | assumption | apply foldl_keeps | (extract_lets; fail_if_success done) | apply keeps_ite <;> intro _ | split
    | apply tapShift_keeps | apply tapRun_keeps | apply next_keeps | refine mkKeeps rfl rfl rfl rfl rfl rfl rfl ?_
    | intro _

theorem execClamp_keeps {tdi : List Bool} (h : Keeps q0 fz s) :
    OutKeeps q0 fz (execClamp tdi s) := by
  unfold execClamp
  with_reducible repeat' first
    | assumption | apply foldl_keeps | (extract_lets; fail_if_success done) | apply keeps_ite <;> intro _ | split
    | apply tapShift_keeps | apply tapRun_keeps | apply next_keeps | refine mkKeeps rfl rfl rfl rfl rfl rfl rfl ?_
    | intro _

theorem execBypass_keeps {tdi : List Bool} (h : Keeps q0 fz s) :
    OutKeeps q0 fz (execBypass tdi s) := by
  unfold execBypass
  with_reducible repeat' first
    | assumption | apply foldl_keeps | (extract_lets; fail_if_success done) | apply keeps_ite <;> intro _ | split
    | apply tapShift_keeps | apply tapRun_keeps | apply next_keeps | refine mkKeeps rfl rfl rfl rfl rfl rfl rfl ?_
    | intro _

theorem execDbgAccess_keeps {tdi : List Bool} {boot : BootReads} (h : Keeps q0 fz s) :
    OutKeeps q0 fz (execDbgAccess tdi boot s) := by
  unfold execDbgAccess
  with_reducible repeat' first
    | assumption | apply foldl_keeps | (extract_lets; fail_if_success done) | apply keeps_ite <;> intro _ | split
    | apply done_keeps | apply scanDebug_keeps | apply tapRun_keeps | apply next_keeps
    | refine mkKeeps rfl rfl rfl rfl rfl rfl rfl ?_
    | intro _

theorem execTapReset_keeps (h : Keeps q0 fz s) :
    OutKeeps q0 fz (execTapReset s) := by
  unfold execTapReset
  with_reducible repeat' first
    | assumption | apply foldl_keeps | (extract_lets; fail_if_success done) | apply keeps_ite <;> intro _ | split
    | apply next_keeps | refine mkKeeps rfl rfl rfl rfl rfl rfl rfl ?_
    | intro _

theorem dbgScan_keeps {cmd : Nat} {a v : Word} {boot : BootReads} (h : Keeps q0 fz s) :
    Keeps q0 fz (dbgScan cmd a v boot s) := by
  unfold dbgScan
  with_reducible repeat' first
    | assumption | apply foldl_keeps | (extract_lets; fail_if_success done) | apply keeps_ite <;> intro _ | split
    | apply emit_keeps | apply dbgUpdate_keeps | refine mkKeeps rfl rfl rfl rfl rfl rfl rfl ?_
    | intro _

theorem execBusRead_keeps {addr : Word} (h : Keeps q0 fz s) : OutKeeps q0 fz (execBusRead addr s) :=
  next_keeps (dbgScan_keeps h)

theorem execBusWrite_keeps {addr data : Word} (h : Keeps q0 fz s) :
    OutKeeps q0 fz (execBusWrite addr data s) := by
  unfold execBusWrite
  with_reducible repeat' first
    | assumption | apply foldl_keeps | (extract_lets; fail_if_success done) | apply keeps_ite <;> intro _ | split
    | apply done_keeps | apply dbgScan_keeps | apply next_keeps | refine mkKeeps rfl rfl rfl rfl rfl rfl rfl ?_
    | intro _

theorem execRegRead_keeps {addr : Word} (h : Keeps q0 fz s) : OutKeeps q0 fz (execRegRead addr s) :=
  next_keeps (dbgScan_keeps h)

theorem execRegWrite_keeps {addr data : Word} (h : Keeps q0 fz s) : OutKeeps q0 fz (execRegWrite addr data s) :=
  next_keeps (dbgScan_keeps h)

theorem execDbgHalt_keeps (h : Keeps q0 fz s) : OutKeeps q0 fz (execDbgHalt s) := next_keeps (dbgScan_keeps h)

theorem execDbgResume_keeps {boot : BootReads} (h : Keeps q0 fz s) :
    OutKeeps q0 fz (execDbgResume boot s) := by
  unfold execDbgResume
  with_reducible repeat' first
    | assumption | apply foldl_keeps | (extract_lets; fail_if_success done) | apply keeps_ite <;> intro _ | split
    | apply done_keeps | apply dbgScan_keeps | apply next_keeps | refine mkKeeps rfl rfl rfl rfl rfl rfl rfl ?_
    | intro _

theorem execDbgStep_keeps (h : Keeps q0 fz s) :
    OutKeeps q0 fz (execDbgStep s) := by
  unfold execDbgStep
  with_reducible repeat' first
    | assumption | apply foldl_keeps | (extract_lets; fail_if_success done) | apply keeps_ite <;> intro _ | split
    | apply done_keeps | apply dbgScan_keeps | apply next_keeps | refine mkKeeps rfl rfl rfl rfl rfl rfl rfl ?_
    | intro _

theorem execSetMode_keeps {data : Word} (h : Keeps q0 fz s) : OutKeeps q0 fz (execSetMode data s) :=
  next_keeps (dbgScan_keeps h)

theorem execDbgResync_keeps (h : Keeps q0 fz s) : OutKeeps q0 fz (execDbgResync s) := next_keeps (dbgScan_keeps h)

theorem execDbgBreakpoint_keeps {addr data : Word} (h : Keeps q0 fz s) : OutKeeps q0 fz (execDbgBreakpoint addr data s) :=
  next_keeps (dbgScan_keeps h)

end Sys2Proof.Machine
end

