-- ==== Sys2Proof/Laws/KeepsEpoch.lean ====
section
/-! SUPPORT. What no command may spoil is kept by the functions of Machine/Epoch.lean. -/

namespace Sys2Proof.Machine

set_option Elab.async false

variable {q0 : List Instr} {fz : FuseBits} {s : State}

theorem epochWrap_keeps (h : Keeps q0 fz s) :
    Keeps q0 fz (epochWrap s) := by
  unfold epochWrap
  with_reducible repeat' first
    | assumption | apply foldl_keeps | (extract_lets; fail_if_success done) | apply keeps_ite <;> intro _ | split
    | apply setCal_keeps | apply promote_keeps | refine mkKeeps rfl rfl rfl rfl rfl rfl rfl ?_
    | intro _

theorem applySwitches_keeps {es : Table (Nat × Bytes)} (h : Keeps q0 fz s) :
    Keeps q0 fz (applySwitches es s).1 := by
  have hf : ∀ (l : Table (Nat × Bytes)) (x : State × Nat), Keeps q0 fz x.1 →
      Keeps q0 fz (l.foldl (fun (x : State × Nat) e =>
        let c := e.1 % 65536
        if (chan x.1 c).nxt.state = ksLoaded then (promote c x.1, x.2) else (x.1, x.2 + 1)) x).1 := by
    intro l
    induction l with
    | nil => exact fun _ hx => hx
    | cons b r ih =>
      intro x hx
      refine ih _ ?_
      dsimp only
      split
      · exact promote_keeps hx
      · exact hx
  exact hf _ (s, 0) h

theorem applyOwners_keeps {d : Nat} {old new : Bank} {es : Table (Nat × Bytes)} (h : Keeps q0 fz s) :
    Keeps q0 fz (applyOwners d old new es s) := by
  unfold applyOwners
  with_reducible repeat' first
    | assumption | apply foldl_keeps | (extract_lets; fail_if_success done) | apply keeps_ite <;> intro _ | split
    | apply setPort_keeps | apply modChan_keeps | refine mkKeeps rfl rfl rfl rfl rfl rfl rfl ?_
    | intro _

theorem applyDirs_keeps {es : Table (Nat × Bytes)} (h : Keeps q0 fz s) :
    Keeps q0 fz (applyDirs es s) := by
  unfold applyDirs
  with_reducible repeat' first
    | assumption | apply foldl_keeps | (extract_lets; fail_if_success done) | apply keeps_ite <;> intro _ | split
    | apply modChan_keeps | refine mkKeeps rfl rfl rfl rfl rfl rfl rfl ?_
    | intro _

theorem calBegin_keeps {d : Nat} (h : Keeps q0 fz s) :
    Keeps q0 fz (calBegin d s) := by
  unfold calBegin
  with_reducible repeat' first
    | assumption | apply foldl_keeps | (extract_lets; fail_if_success done) | apply keeps_ite <;> intro _ | split
    | apply modCal_keeps | apply dropPending_keeps | refine mkKeeps rfl rfl rfl rfl rfl rfl rfl ?_
    | intro _

theorem calSwap_keeps {old new : Bank} {d was : Nat} (h : Keeps q0 fz s) : Keeps q0 fz (calSwap old new d was s) := by
  unfold calSwap
  extract_lets s1
  have h1 : Keeps q0 fz s1 := calUpdate_keeps (keeps_ite (fun _ => calBegin_keeps h) fun _ => h)
  exact sendLate_keeps h1

theorem swapBanks_keeps {a : Apply} (h : Keeps q0 fz s) : Keeps q0 fz (swapBanks a s) := by
  unfold swapBanks
  extract_lets ar es old new _ st _ s1
  have h1 : Keeps q0 fz s1 := mkKeeps rfl rfl rfl rfl rfl rfl rfl h
  clear_value s1 st new old es ar
  split
  rename_i s2 missed e
  have h2 : Keeps q0 fz s2 := keeps_fst e (applySwitches_keeps (applyDirs_keeps (applyOwners_keeps h1)))
  clear e
  extract_lets s3 s4
  have h3 : Keeps q0 fz s3 := foldl_keeps (fun _ _ hx => calSwap_keeps hx) (portsSwap_keeps h2)
  clear_value s3
  have h4 : Keeps q0 fz s4 := setArea_keeps (bumpLiveVer_keeps h3)
  clear_value s4
  exact finish_keeps (raise_keeps h4)

theorem applyBoundary_keeps (h : Keeps q0 fz s) : Keeps q0 fz (applyBoundary s) := by
  unfold applyBoundary
  split
  · exact keeps_ite (fun _ => swapBanks_keeps h) fun _ => h
  · exact h

theorem admitBoundary_keeps (h : Keeps q0 fz s) :
    Keeps q0 fz (admitBoundary s) := by
  unfold admitBoundary
  with_reducible repeat' first
    | assumption | apply foldl_keeps | (extract_lets; fail_if_success done) | apply keeps_ite <;> intro _ | split
    | refine mkKeeps rfl rfl rfl rfl rfl rfl rfl ?_
    | intro _

theorem execEpochBoundary_keeps (h : Keeps q0 fz s) : OutKeeps q0 fz (execEpochBoundary s) :=
  next_keeps (live_keeps (fun _ hx => admitBoundary_keeps (lanesBoundary_keeps (rolloverAll_keeps (portsCarry_keeps
    (applyBoundary_keeps (epochWrap_keeps hx)))))) h)

end Sys2Proof.Machine
end

