-- ==== Sys2Proof/Laws/KeepsTick.lean ====
section
/-! SUPPORT. What no command may spoil is kept by the functions of Machine/Tick.lean. -/

namespace Sys2Proof.Machine

set_option Elab.async false

variable {q0 : List Instr} {fz : FuseBits} {s : State}

theorem countLost_keeps {o : Nat} (h : Keeps q0 fz s) : Keeps q0 fz (countLost o s) := mkKeeps rfl rfl rfl rfl rfl rfl rfl h

theorem tickFclk_keeps (h : Keeps q0 fz s) :
    Keeps q0 fz (tickFclk s) := by
  unfold tickFclk
  with_reducible repeat' first
    | assumption | apply foldl_keeps | (extract_lets; fail_if_success done) | apply keeps_ite <;> intro _ | split
    | apply delivered_keeps | apply modClk_keeps | apply countLost_keeps | refine mkKeeps rfl rfl rfl rfl rfl rfl rfl ?_
    | intro _

theorem countCycle_keeps (h : Keeps q0 fz s) : Keeps q0 fz (countCycle s) := by
  unfold countCycle
  split
  · exact h
  · extract_lets f
    refine setPair_keeps h.commit (fun c e => ?_) (modCore_keeps h.core h)
    obtain ⟨x, hx, hf⟩ := Option.map_eq_some_iff.1 e
    rw [← hf]
    exact h.chk x hx

theorem tickSclk_keeps (h : Keeps q0 fz s) : Keeps q0 fz (tickSclk s) := by
  unfold tickSclk
  refine keeps_ite (fun _ => modClk_keeps (keeps_ite (fun _ => countLost_keeps h) fun _ => ?_)) fun _ => modClk_keeps h
  exact modPair_keeps rfl rfl (countCycle_keeps h)

theorem tickEpoch_keeps (h : Keeps q0 fz s) : Keeps q0 fz (tickEpoch s) := mkKeeps rfl rfl rfl rfl rfl rfl rfl h

theorem tick_keeps (h : Keeps q0 fz s) :
    Keeps q0 fz (tick s) := by
  unfold tick
  with_reducible repeat' first
    | assumption | apply foldl_keeps | (extract_lets; fail_if_success done) | apply keeps_ite <;> intro _ | split
    | apply live_keeps | apply tickFclk_keeps | apply tickSclk_keeps | apply tickEpoch_keeps
    | refine mkKeeps rfl rfl rfl rfl rfl rfl rfl ?_
    | intro _

end Sys2Proof.Machine
end

