-- ==== Sys2Proof/Laws/State.lean ====
section
/-! SUPPORT. What each named update of a field of State leaves and writes, one lemma a field, so that no proof unfolds an
update; then what is read after a write. -/

namespace Sys2Proof.Machine

set_option Elab.async false


/-! setReg changes `regs` alone. -/

@[simp] theorem setReg_pending (a : Nat) (v : Word) (s : State) : (setReg a v s).pending = s.pending := rfl
@[simp] theorem setReg_out (a : Nat) (v : Word) (s : State) : (setReg a v s).out = s.out := rfl
@[simp] theorem setReg_freeCtr (a : Nat) (v : Word) (s : State) : (setReg a v s).freeCtr = s.freeCtr := rfl
@[simp] theorem setReg_regs (a : Nat) (v : Word) (s : State) : (setReg a v s).regs = tset (w32 (regSpec a).reset) s.regs a v := rfl
@[simp] theorem setReg_mem (a : Nat) (v : Word) (s : State) : (setReg a v s).mem = s.mem := rfl
@[simp] theorem setReg_undef (a : Nat) (v : Word) (s : State) : (setReg a v s).undef = s.undef := rfl
@[simp] theorem setReg_clk (a : Nat) (v : Word) (s : State) : (setReg a v s).clk = s.clk := rfl
@[simp] theorem setReg_evc (a : Nat) (v : Word) (s : State) : (setReg a v s).evc = s.evc := rfl
@[simp] theorem setReg_core (a : Nat) (v : Word) (s : State) : (setReg a v s).core = s.core := rfl
@[simp] theorem setReg_pair (a : Nat) (v : Word) (s : State) : (setReg a v s).pair = s.pair := rfl
@[simp] theorem setReg_epoch (a : Nat) (v : Word) (s : State) : (setReg a v s).epoch = s.epoch := rfl
@[simp] theorem setReg_fault (a : Nat) (v : Word) (s : State) : (setReg a v s).fault = s.fault := rfl
@[simp] theorem setReg_idn (a : Nat) (v : Word) (s : State) : (setReg a v s).idn = s.idn := rfl
@[simp] theorem setReg_doors (a : Nat) (v : Word) (s : State) : (setReg a v s).doors = s.doors := rfl
@[simp] theorem setReg_pool (a : Nat) (v : Word) (s : State) : (setReg a v s).pool = s.pool := rfl
@[simp] theorem setReg_loft (a : Nat) (v : Word) (s : State) : (setReg a v s).loft = s.loft := rfl
@[simp] theorem setReg_tmr (a : Nat) (v : Word) (s : State) : (setReg a v s).tmr = s.tmr := rfl
@[simp] theorem setReg_pins (a : Nat) (v : Word) (s : State) : (setReg a v s).pins = s.pins := rfl
@[simp] theorem setReg_i2c (a : Nat) (v : Word) (s : State) : (setReg a v s).i2c = s.i2c := rfl
@[simp] theorem setReg_tap (a : Nat) (v : Word) (s : State) : (setReg a v s).tap = s.tap := rfl
@[simp] theorem setReg_fans (a : Nat) (v : Word) (s : State) : (setReg a v s).fans = s.fans := rfl
@[simp] theorem setReg_fuses (a : Nat) (v : Word) (s : State) : (setReg a v s).fuses = s.fuses := rfl
@[simp] theorem setReg_nand (a : Nat) (v : Word) (s : State) : (setReg a v s).nand = s.nand := rfl
@[simp] theorem setReg_vat (a : Nat) (v : Word) (s : State) : (setReg a v s).vat = s.vat := rfl
@[simp] theorem setReg_stock (a : Nat) (v : Word) (s : State) : (setReg a v s).stock = s.stock := rfl
@[simp] theorem setReg_ports (a : Nat) (v : Word) (s : State) : (setReg a v s).ports = s.ports := rfl
@[simp] theorem setReg_mach (a : Nat) (v : Word) (s : State) : (setReg a v s).mach = s.mach := rfl
@[simp] theorem setReg_keys (a : Nat) (v : Word) (s : State) : (setReg a v s).keys = s.keys := rfl
@[simp] theorem setReg_faults (a : Nat) (v : Word) (s : State) : (setReg a v s).faults = s.faults := rfl
@[simp] theorem setReg_panel (a : Nat) (v : Word) (s : State) : (setReg a v s).panel = s.panel := rfl
@[simp] theorem setReg_audio (a : Nat) (v : Word) (s : State) : (setReg a v s).audio = s.audio := rfl
@[simp] theorem setReg_stats (a : Nat) (v : Word) (s : State) : (setReg a v s).stats = s.stats := rfl
@[simp] theorem setReg_latched (a : Nat) (v : Word) (s : State) : (setReg a v s).latched = s.latched := rfl

/-! setRegN changes `regs` alone. -/

@[simp] theorem setRegN_pending (a v : Nat) (s : State) : (setRegN a v s).pending = s.pending := rfl
@[simp] theorem setRegN_out (a v : Nat) (s : State) : (setRegN a v s).out = s.out := rfl
@[simp] theorem setRegN_freeCtr (a v : Nat) (s : State) : (setRegN a v s).freeCtr = s.freeCtr := rfl
@[simp] theorem setRegN_regs (a v : Nat) (s : State) : (setRegN a v s).regs = tset (w32 (regSpec a).reset) s.regs a (w32 v) := rfl
@[simp] theorem setRegN_mem (a v : Nat) (s : State) : (setRegN a v s).mem = s.mem := rfl
@[simp] theorem setRegN_undef (a v : Nat) (s : State) : (setRegN a v s).undef = s.undef := rfl
@[simp] theorem setRegN_clk (a v : Nat) (s : State) : (setRegN a v s).clk = s.clk := rfl
@[simp] theorem setRegN_evc (a v : Nat) (s : State) : (setRegN a v s).evc = s.evc := rfl
@[simp] theorem setRegN_core (a v : Nat) (s : State) : (setRegN a v s).core = s.core := rfl
@[simp] theorem setRegN_pair (a v : Nat) (s : State) : (setRegN a v s).pair = s.pair := rfl
@[simp] theorem setRegN_epoch (a v : Nat) (s : State) : (setRegN a v s).epoch = s.epoch := rfl
@[simp] theorem setRegN_fault (a v : Nat) (s : State) : (setRegN a v s).fault = s.fault := rfl
@[simp] theorem setRegN_idn (a v : Nat) (s : State) : (setRegN a v s).idn = s.idn := rfl
@[simp] theorem setRegN_doors (a v : Nat) (s : State) : (setRegN a v s).doors = s.doors := rfl
@[simp] theorem setRegN_pool (a v : Nat) (s : State) : (setRegN a v s).pool = s.pool := rfl
@[simp] theorem setRegN_loft (a v : Nat) (s : State) : (setRegN a v s).loft = s.loft := rfl
@[simp] theorem setRegN_tmr (a v : Nat) (s : State) : (setRegN a v s).tmr = s.tmr := rfl
@[simp] theorem setRegN_pins (a v : Nat) (s : State) : (setRegN a v s).pins = s.pins := rfl
@[simp] theorem setRegN_i2c (a v : Nat) (s : State) : (setRegN a v s).i2c = s.i2c := rfl
@[simp] theorem setRegN_tap (a v : Nat) (s : State) : (setRegN a v s).tap = s.tap := rfl
@[simp] theorem setRegN_fans (a v : Nat) (s : State) : (setRegN a v s).fans = s.fans := rfl
@[simp] theorem setRegN_fuses (a v : Nat) (s : State) : (setRegN a v s).fuses = s.fuses := rfl
@[simp] theorem setRegN_nand (a v : Nat) (s : State) : (setRegN a v s).nand = s.nand := rfl
@[simp] theorem setRegN_vat (a v : Nat) (s : State) : (setRegN a v s).vat = s.vat := rfl
@[simp] theorem setRegN_stock (a v : Nat) (s : State) : (setRegN a v s).stock = s.stock := rfl
@[simp] theorem setRegN_ports (a v : Nat) (s : State) : (setRegN a v s).ports = s.ports := rfl
@[simp] theorem setRegN_mach (a v : Nat) (s : State) : (setRegN a v s).mach = s.mach := rfl
@[simp] theorem setRegN_keys (a v : Nat) (s : State) : (setRegN a v s).keys = s.keys := rfl
@[simp] theorem setRegN_faults (a v : Nat) (s : State) : (setRegN a v s).faults = s.faults := rfl
@[simp] theorem setRegN_panel (a v : Nat) (s : State) : (setRegN a v s).panel = s.panel := rfl
@[simp] theorem setRegN_audio (a v : Nat) (s : State) : (setRegN a v s).audio = s.audio := rfl
@[simp] theorem setRegN_stats (a v : Nat) (s : State) : (setRegN a v s).stats = s.stats := rfl
@[simp] theorem setRegN_latched (a v : Nat) (s : State) : (setRegN a v s).latched = s.latched := rfl

/-! putBit changes `regs` alone. -/

@[simp] theorem putBit_pending (a i : Nat) (b : Bool) (s : State) : (putBit a i b s).pending = s.pending := rfl
@[simp] theorem putBit_out (a i : Nat) (b : Bool) (s : State) : (putBit a i b s).out = s.out := rfl
@[simp] theorem putBit_freeCtr (a i : Nat) (b : Bool) (s : State) : (putBit a i b s).freeCtr = s.freeCtr := rfl
@[simp] theorem putBit_regs (a i : Nat) (b : Bool) (s : State) : (putBit a i b s).regs = tset (w32 (regSpec a).reset) s.regs a (wsetBit (reg s a) i b) := rfl
@[simp] theorem putBit_mem (a i : Nat) (b : Bool) (s : State) : (putBit a i b s).mem = s.mem := rfl
@[simp] theorem putBit_undef (a i : Nat) (b : Bool) (s : State) : (putBit a i b s).undef = s.undef := rfl
@[simp] theorem putBit_clk (a i : Nat) (b : Bool) (s : State) : (putBit a i b s).clk = s.clk := rfl
@[simp] theorem putBit_evc (a i : Nat) (b : Bool) (s : State) : (putBit a i b s).evc = s.evc := rfl
@[simp] theorem putBit_core (a i : Nat) (b : Bool) (s : State) : (putBit a i b s).core = s.core := rfl
@[simp] theorem putBit_pair (a i : Nat) (b : Bool) (s : State) : (putBit a i b s).pair = s.pair := rfl
@[simp] theorem putBit_epoch (a i : Nat) (b : Bool) (s : State) : (putBit a i b s).epoch = s.epoch := rfl
@[simp] theorem putBit_fault (a i : Nat) (b : Bool) (s : State) : (putBit a i b s).fault = s.fault := rfl
@[simp] theorem putBit_idn (a i : Nat) (b : Bool) (s : State) : (putBit a i b s).idn = s.idn := rfl
@[simp] theorem putBit_doors (a i : Nat) (b : Bool) (s : State) : (putBit a i b s).doors = s.doors := rfl
@[simp] theorem putBit_pool (a i : Nat) (b : Bool) (s : State) : (putBit a i b s).pool = s.pool := rfl
@[simp] theorem putBit_loft (a i : Nat) (b : Bool) (s : State) : (putBit a i b s).loft = s.loft := rfl
@[simp] theorem putBit_tmr (a i : Nat) (b : Bool) (s : State) : (putBit a i b s).tmr = s.tmr := rfl
@[simp] theorem putBit_pins (a i : Nat) (b : Bool) (s : State) : (putBit a i b s).pins = s.pins := rfl
@[simp] theorem putBit_i2c (a i : Nat) (b : Bool) (s : State) : (putBit a i b s).i2c = s.i2c := rfl
@[simp] theorem putBit_tap (a i : Nat) (b : Bool) (s : State) : (putBit a i b s).tap = s.tap := rfl
@[simp] theorem putBit_fans (a i : Nat) (b : Bool) (s : State) : (putBit a i b s).fans = s.fans := rfl
@[simp] theorem putBit_fuses (a i : Nat) (b : Bool) (s : State) : (putBit a i b s).fuses = s.fuses := rfl
@[simp] theorem putBit_nand (a i : Nat) (b : Bool) (s : State) : (putBit a i b s).nand = s.nand := rfl
@[simp] theorem putBit_vat (a i : Nat) (b : Bool) (s : State) : (putBit a i b s).vat = s.vat := rfl
@[simp] theorem putBit_stock (a i : Nat) (b : Bool) (s : State) : (putBit a i b s).stock = s.stock := rfl
@[simp] theorem putBit_ports (a i : Nat) (b : Bool) (s : State) : (putBit a i b s).ports = s.ports := rfl
@[simp] theorem putBit_mach (a i : Nat) (b : Bool) (s : State) : (putBit a i b s).mach = s.mach := rfl
@[simp] theorem putBit_keys (a i : Nat) (b : Bool) (s : State) : (putBit a i b s).keys = s.keys := rfl
@[simp] theorem putBit_faults (a i : Nat) (b : Bool) (s : State) : (putBit a i b s).faults = s.faults := rfl
@[simp] theorem putBit_panel (a i : Nat) (b : Bool) (s : State) : (putBit a i b s).panel = s.panel := rfl
@[simp] theorem putBit_audio (a i : Nat) (b : Bool) (s : State) : (putBit a i b s).audio = s.audio := rfl
@[simp] theorem putBit_stats (a i : Nat) (b : Bool) (s : State) : (putBit a i b s).stats = s.stats := rfl
@[simp] theorem putBit_latched (a i : Nat) (b : Bool) (s : State) : (putBit a i b s).latched = s.latched := rfl

/-! orReg changes `regs` alone. -/

@[simp] theorem orReg_pending (a m : Nat) (s : State) : (orReg a m s).pending = s.pending := rfl
@[simp] theorem orReg_out (a m : Nat) (s : State) : (orReg a m s).out = s.out := rfl
@[simp] theorem orReg_freeCtr (a m : Nat) (s : State) : (orReg a m s).freeCtr = s.freeCtr := rfl
@[simp] theorem orReg_mem (a m : Nat) (s : State) : (orReg a m s).mem = s.mem := rfl
@[simp] theorem orReg_undef (a m : Nat) (s : State) : (orReg a m s).undef = s.undef := rfl
@[simp] theorem orReg_clk (a m : Nat) (s : State) : (orReg a m s).clk = s.clk := rfl
@[simp] theorem orReg_evc (a m : Nat) (s : State) : (orReg a m s).evc = s.evc := rfl
@[simp] theorem orReg_core (a m : Nat) (s : State) : (orReg a m s).core = s.core := rfl
@[simp] theorem orReg_pair (a m : Nat) (s : State) : (orReg a m s).pair = s.pair := rfl
@[simp] theorem orReg_epoch (a m : Nat) (s : State) : (orReg a m s).epoch = s.epoch := rfl
@[simp] theorem orReg_fault (a m : Nat) (s : State) : (orReg a m s).fault = s.fault := rfl
@[simp] theorem orReg_idn (a m : Nat) (s : State) : (orReg a m s).idn = s.idn := rfl
@[simp] theorem orReg_doors (a m : Nat) (s : State) : (orReg a m s).doors = s.doors := rfl
@[simp] theorem orReg_pool (a m : Nat) (s : State) : (orReg a m s).pool = s.pool := rfl
@[simp] theorem orReg_loft (a m : Nat) (s : State) : (orReg a m s).loft = s.loft := rfl
@[simp] theorem orReg_tmr (a m : Nat) (s : State) : (orReg a m s).tmr = s.tmr := rfl
@[simp] theorem orReg_pins (a m : Nat) (s : State) : (orReg a m s).pins = s.pins := rfl
@[simp] theorem orReg_i2c (a m : Nat) (s : State) : (orReg a m s).i2c = s.i2c := rfl
@[simp] theorem orReg_tap (a m : Nat) (s : State) : (orReg a m s).tap = s.tap := rfl
@[simp] theorem orReg_fans (a m : Nat) (s : State) : (orReg a m s).fans = s.fans := rfl
@[simp] theorem orReg_fuses (a m : Nat) (s : State) : (orReg a m s).fuses = s.fuses := rfl
@[simp] theorem orReg_nand (a m : Nat) (s : State) : (orReg a m s).nand = s.nand := rfl
@[simp] theorem orReg_vat (a m : Nat) (s : State) : (orReg a m s).vat = s.vat := rfl
@[simp] theorem orReg_stock (a m : Nat) (s : State) : (orReg a m s).stock = s.stock := rfl
@[simp] theorem orReg_ports (a m : Nat) (s : State) : (orReg a m s).ports = s.ports := rfl
@[simp] theorem orReg_mach (a m : Nat) (s : State) : (orReg a m s).mach = s.mach := rfl
@[simp] theorem orReg_keys (a m : Nat) (s : State) : (orReg a m s).keys = s.keys := rfl
@[simp] theorem orReg_faults (a m : Nat) (s : State) : (orReg a m s).faults = s.faults := rfl
@[simp] theorem orReg_panel (a m : Nat) (s : State) : (orReg a m s).panel = s.panel := rfl
@[simp] theorem orReg_audio (a m : Nat) (s : State) : (orReg a m s).audio = s.audio := rfl
@[simp] theorem orReg_stats (a m : Nat) (s : State) : (orReg a m s).stats = s.stats := rfl
@[simp] theorem orReg_latched (a m : Nat) (s : State) : (orReg a m s).latched = s.latched := rfl

/-! clrReg changes `regs` alone. -/

@[simp] theorem clrReg_pending (a m : Nat) (s : State) : (clrReg a m s).pending = s.pending := rfl
@[simp] theorem clrReg_out (a m : Nat) (s : State) : (clrReg a m s).out = s.out := rfl
@[simp] theorem clrReg_freeCtr (a m : Nat) (s : State) : (clrReg a m s).freeCtr = s.freeCtr := rfl
@[simp] theorem clrReg_mem (a m : Nat) (s : State) : (clrReg a m s).mem = s.mem := rfl
@[simp] theorem clrReg_undef (a m : Nat) (s : State) : (clrReg a m s).undef = s.undef := rfl
@[simp] theorem clrReg_clk (a m : Nat) (s : State) : (clrReg a m s).clk = s.clk := rfl
@[simp] theorem clrReg_evc (a m : Nat) (s : State) : (clrReg a m s).evc = s.evc := rfl
@[simp] theorem clrReg_core (a m : Nat) (s : State) : (clrReg a m s).core = s.core := rfl
@[simp] theorem clrReg_pair (a m : Nat) (s : State) : (clrReg a m s).pair = s.pair := rfl
@[simp] theorem clrReg_epoch (a m : Nat) (s : State) : (clrReg a m s).epoch = s.epoch := rfl
@[simp] theorem clrReg_fault (a m : Nat) (s : State) : (clrReg a m s).fault = s.fault := rfl
@[simp] theorem clrReg_idn (a m : Nat) (s : State) : (clrReg a m s).idn = s.idn := rfl
@[simp] theorem clrReg_doors (a m : Nat) (s : State) : (clrReg a m s).doors = s.doors := rfl
@[simp] theorem clrReg_pool (a m : Nat) (s : State) : (clrReg a m s).pool = s.pool := rfl
@[simp] theorem clrReg_loft (a m : Nat) (s : State) : (clrReg a m s).loft = s.loft := rfl
@[simp] theorem clrReg_tmr (a m : Nat) (s : State) : (clrReg a m s).tmr = s.tmr := rfl
@[simp] theorem clrReg_pins (a m : Nat) (s : State) : (clrReg a m s).pins = s.pins := rfl
@[simp] theorem clrReg_i2c (a m : Nat) (s : State) : (clrReg a m s).i2c = s.i2c := rfl
@[simp] theorem clrReg_tap (a m : Nat) (s : State) : (clrReg a m s).tap = s.tap := rfl
@[simp] theorem clrReg_fans (a m : Nat) (s : State) : (clrReg a m s).fans = s.fans := rfl
@[simp] theorem clrReg_fuses (a m : Nat) (s : State) : (clrReg a m s).fuses = s.fuses := rfl
@[simp] theorem clrReg_nand (a m : Nat) (s : State) : (clrReg a m s).nand = s.nand := rfl
@[simp] theorem clrReg_vat (a m : Nat) (s : State) : (clrReg a m s).vat = s.vat := rfl
@[simp] theorem clrReg_stock (a m : Nat) (s : State) : (clrReg a m s).stock = s.stock := rfl
@[simp] theorem clrReg_ports (a m : Nat) (s : State) : (clrReg a m s).ports = s.ports := rfl
@[simp] theorem clrReg_mach (a m : Nat) (s : State) : (clrReg a m s).mach = s.mach := rfl
@[simp] theorem clrReg_keys (a m : Nat) (s : State) : (clrReg a m s).keys = s.keys := rfl
@[simp] theorem clrReg_faults (a m : Nat) (s : State) : (clrReg a m s).faults = s.faults := rfl
@[simp] theorem clrReg_panel (a m : Nat) (s : State) : (clrReg a m s).panel = s.panel := rfl
@[simp] theorem clrReg_audio (a m : Nat) (s : State) : (clrReg a m s).audio = s.audio := rfl
@[simp] theorem clrReg_stats (a m : Nat) (s : State) : (clrReg a m s).stats = s.stats := rfl
@[simp] theorem clrReg_latched (a m : Nat) (s : State) : (clrReg a m s).latched = s.latched := rfl

/-! incReg changes `regs` alone. -/

@[simp] theorem incReg_pending (a : Nat) (s : State) : (incReg a s).pending = s.pending := rfl
@[simp] theorem incReg_out (a : Nat) (s : State) : (incReg a s).out = s.out := rfl
@[simp] theorem incReg_freeCtr (a : Nat) (s : State) : (incReg a s).freeCtr = s.freeCtr := rfl
@[simp] theorem incReg_mem (a : Nat) (s : State) : (incReg a s).mem = s.mem := rfl
@[simp] theorem incReg_undef (a : Nat) (s : State) : (incReg a s).undef = s.undef := rfl
@[simp] theorem incReg_clk (a : Nat) (s : State) : (incReg a s).clk = s.clk := rfl
@[simp] theorem incReg_evc (a : Nat) (s : State) : (incReg a s).evc = s.evc := rfl
@[simp] theorem incReg_core (a : Nat) (s : State) : (incReg a s).core = s.core := rfl
@[simp] theorem incReg_pair (a : Nat) (s : State) : (incReg a s).pair = s.pair := rfl
@[simp] theorem incReg_epoch (a : Nat) (s : State) : (incReg a s).epoch = s.epoch := rfl
@[simp] theorem incReg_fault (a : Nat) (s : State) : (incReg a s).fault = s.fault := rfl
@[simp] theorem incReg_idn (a : Nat) (s : State) : (incReg a s).idn = s.idn := rfl
@[simp] theorem incReg_doors (a : Nat) (s : State) : (incReg a s).doors = s.doors := rfl
@[simp] theorem incReg_pool (a : Nat) (s : State) : (incReg a s).pool = s.pool := rfl
@[simp] theorem incReg_loft (a : Nat) (s : State) : (incReg a s).loft = s.loft := rfl
@[simp] theorem incReg_tmr (a : Nat) (s : State) : (incReg a s).tmr = s.tmr := rfl
@[simp] theorem incReg_pins (a : Nat) (s : State) : (incReg a s).pins = s.pins := rfl
@[simp] theorem incReg_i2c (a : Nat) (s : State) : (incReg a s).i2c = s.i2c := rfl
@[simp] theorem incReg_tap (a : Nat) (s : State) : (incReg a s).tap = s.tap := rfl
@[simp] theorem incReg_fans (a : Nat) (s : State) : (incReg a s).fans = s.fans := rfl
@[simp] theorem incReg_fuses (a : Nat) (s : State) : (incReg a s).fuses = s.fuses := rfl
@[simp] theorem incReg_nand (a : Nat) (s : State) : (incReg a s).nand = s.nand := rfl
@[simp] theorem incReg_vat (a : Nat) (s : State) : (incReg a s).vat = s.vat := rfl
@[simp] theorem incReg_stock (a : Nat) (s : State) : (incReg a s).stock = s.stock := rfl
@[simp] theorem incReg_ports (a : Nat) (s : State) : (incReg a s).ports = s.ports := rfl
@[simp] theorem incReg_mach (a : Nat) (s : State) : (incReg a s).mach = s.mach := rfl
@[simp] theorem incReg_keys (a : Nat) (s : State) : (incReg a s).keys = s.keys := rfl
@[simp] theorem incReg_faults (a : Nat) (s : State) : (incReg a s).faults = s.faults := rfl
@[simp] theorem incReg_panel (a : Nat) (s : State) : (incReg a s).panel = s.panel := rfl
@[simp] theorem incReg_audio (a : Nat) (s : State) : (incReg a s).audio = s.audio := rfl
@[simp] theorem incReg_stats (a : Nat) (s : State) : (incReg a s).stats = s.stats := rfl
@[simp] theorem incReg_latched (a : Nat) (s : State) : (incReg a s).latched = s.latched := rfl

/-! writeTyped changes `regs` alone. -/

@[simp] theorem writeTyped_pending (a : Nat) (locked : Bool) (v : Word) (s : State) : (writeTyped a locked v s).pending = s.pending := rfl
@[simp] theorem writeTyped_out (a : Nat) (locked : Bool) (v : Word) (s : State) : (writeTyped a locked v s).out = s.out := rfl
@[simp] theorem writeTyped_freeCtr (a : Nat) (locked : Bool) (v : Word) (s : State) : (writeTyped a locked v s).freeCtr = s.freeCtr := rfl
@[simp] theorem writeTyped_mem (a : Nat) (locked : Bool) (v : Word) (s : State) : (writeTyped a locked v s).mem = s.mem := rfl
@[simp] theorem writeTyped_undef (a : Nat) (locked : Bool) (v : Word) (s : State) : (writeTyped a locked v s).undef = s.undef := rfl
@[simp] theorem writeTyped_clk (a : Nat) (locked : Bool) (v : Word) (s : State) : (writeTyped a locked v s).clk = s.clk := rfl
@[simp] theorem writeTyped_evc (a : Nat) (locked : Bool) (v : Word) (s : State) : (writeTyped a locked v s).evc = s.evc := rfl
@[simp] theorem writeTyped_core (a : Nat) (locked : Bool) (v : Word) (s : State) : (writeTyped a locked v s).core = s.core := rfl
@[simp] theorem writeTyped_pair (a : Nat) (locked : Bool) (v : Word) (s : State) : (writeTyped a locked v s).pair = s.pair := rfl
@[simp] theorem writeTyped_epoch (a : Nat) (locked : Bool) (v : Word) (s : State) : (writeTyped a locked v s).epoch = s.epoch := rfl
@[simp] theorem writeTyped_fault (a : Nat) (locked : Bool) (v : Word) (s : State) : (writeTyped a locked v s).fault = s.fault := rfl
@[simp] theorem writeTyped_idn (a : Nat) (locked : Bool) (v : Word) (s : State) : (writeTyped a locked v s).idn = s.idn := rfl
@[simp] theorem writeTyped_doors (a : Nat) (locked : Bool) (v : Word) (s : State) : (writeTyped a locked v s).doors = s.doors := rfl
@[simp] theorem writeTyped_pool (a : Nat) (locked : Bool) (v : Word) (s : State) : (writeTyped a locked v s).pool = s.pool := rfl
@[simp] theorem writeTyped_loft (a : Nat) (locked : Bool) (v : Word) (s : State) : (writeTyped a locked v s).loft = s.loft := rfl
@[simp] theorem writeTyped_tmr (a : Nat) (locked : Bool) (v : Word) (s : State) : (writeTyped a locked v s).tmr = s.tmr := rfl
@[simp] theorem writeTyped_pins (a : Nat) (locked : Bool) (v : Word) (s : State) : (writeTyped a locked v s).pins = s.pins := rfl
@[simp] theorem writeTyped_i2c (a : Nat) (locked : Bool) (v : Word) (s : State) : (writeTyped a locked v s).i2c = s.i2c := rfl
@[simp] theorem writeTyped_tap (a : Nat) (locked : Bool) (v : Word) (s : State) : (writeTyped a locked v s).tap = s.tap := rfl
@[simp] theorem writeTyped_fans (a : Nat) (locked : Bool) (v : Word) (s : State) : (writeTyped a locked v s).fans = s.fans := rfl
@[simp] theorem writeTyped_fuses (a : Nat) (locked : Bool) (v : Word) (s : State) : (writeTyped a locked v s).fuses = s.fuses := rfl
@[simp] theorem writeTyped_nand (a : Nat) (locked : Bool) (v : Word) (s : State) : (writeTyped a locked v s).nand = s.nand := rfl
@[simp] theorem writeTyped_vat (a : Nat) (locked : Bool) (v : Word) (s : State) : (writeTyped a locked v s).vat = s.vat := rfl
@[simp] theorem writeTyped_stock (a : Nat) (locked : Bool) (v : Word) (s : State) : (writeTyped a locked v s).stock = s.stock := rfl
@[simp] theorem writeTyped_ports (a : Nat) (locked : Bool) (v : Word) (s : State) : (writeTyped a locked v s).ports = s.ports := rfl
@[simp] theorem writeTyped_mach (a : Nat) (locked : Bool) (v : Word) (s : State) : (writeTyped a locked v s).mach = s.mach := rfl
@[simp] theorem writeTyped_keys (a : Nat) (locked : Bool) (v : Word) (s : State) : (writeTyped a locked v s).keys = s.keys := rfl
@[simp] theorem writeTyped_faults (a : Nat) (locked : Bool) (v : Word) (s : State) : (writeTyped a locked v s).faults = s.faults := rfl
@[simp] theorem writeTyped_panel (a : Nat) (locked : Bool) (v : Word) (s : State) : (writeTyped a locked v s).panel = s.panel := rfl
@[simp] theorem writeTyped_audio (a : Nat) (locked : Bool) (v : Word) (s : State) : (writeTyped a locked v s).audio = s.audio := rfl
@[simp] theorem writeTyped_stats (a : Nat) (locked : Bool) (v : Word) (s : State) : (writeTyped a locked v s).stats = s.stats := rfl
@[simp] theorem writeTyped_latched (a : Nat) (locked : Bool) (v : Word) (s : State) : (writeTyped a locked v s).latched = s.latched := rfl

/-! freeNext changes `freeCtr` alone. -/

@[simp] theorem freeNext_pending (s : State) : (freeNext s).pending = s.pending := rfl
@[simp] theorem freeNext_out (s : State) : (freeNext s).out = s.out := rfl
@[simp] theorem freeNext_freeCtr (s : State) : (freeNext s).freeCtr = s.freeCtr + 1 := rfl
@[simp] theorem freeNext_regs (s : State) : (freeNext s).regs = s.regs := rfl
@[simp] theorem freeNext_mem (s : State) : (freeNext s).mem = s.mem := rfl
@[simp] theorem freeNext_undef (s : State) : (freeNext s).undef = s.undef := rfl
@[simp] theorem freeNext_clk (s : State) : (freeNext s).clk = s.clk := rfl
@[simp] theorem freeNext_evc (s : State) : (freeNext s).evc = s.evc := rfl
@[simp] theorem freeNext_core (s : State) : (freeNext s).core = s.core := rfl
@[simp] theorem freeNext_pair (s : State) : (freeNext s).pair = s.pair := rfl
@[simp] theorem freeNext_epoch (s : State) : (freeNext s).epoch = s.epoch := rfl
@[simp] theorem freeNext_fault (s : State) : (freeNext s).fault = s.fault := rfl
@[simp] theorem freeNext_idn (s : State) : (freeNext s).idn = s.idn := rfl
@[simp] theorem freeNext_doors (s : State) : (freeNext s).doors = s.doors := rfl
@[simp] theorem freeNext_pool (s : State) : (freeNext s).pool = s.pool := rfl
@[simp] theorem freeNext_loft (s : State) : (freeNext s).loft = s.loft := rfl
@[simp] theorem freeNext_tmr (s : State) : (freeNext s).tmr = s.tmr := rfl
@[simp] theorem freeNext_pins (s : State) : (freeNext s).pins = s.pins := rfl
@[simp] theorem freeNext_i2c (s : State) : (freeNext s).i2c = s.i2c := rfl
@[simp] theorem freeNext_tap (s : State) : (freeNext s).tap = s.tap := rfl
@[simp] theorem freeNext_fans (s : State) : (freeNext s).fans = s.fans := rfl
@[simp] theorem freeNext_fuses (s : State) : (freeNext s).fuses = s.fuses := rfl
@[simp] theorem freeNext_nand (s : State) : (freeNext s).nand = s.nand := rfl
@[simp] theorem freeNext_vat (s : State) : (freeNext s).vat = s.vat := rfl
@[simp] theorem freeNext_stock (s : State) : (freeNext s).stock = s.stock := rfl
@[simp] theorem freeNext_ports (s : State) : (freeNext s).ports = s.ports := rfl
@[simp] theorem freeNext_mach (s : State) : (freeNext s).mach = s.mach := rfl
@[simp] theorem freeNext_keys (s : State) : (freeNext s).keys = s.keys := rfl
@[simp] theorem freeNext_faults (s : State) : (freeNext s).faults = s.faults := rfl
@[simp] theorem freeNext_panel (s : State) : (freeNext s).panel = s.panel := rfl
@[simp] theorem freeNext_audio (s : State) : (freeNext s).audio = s.audio := rfl
@[simp] theorem freeNext_stats (s : State) : (freeNext s).stats = s.stats := rfl
@[simp] theorem freeNext_latched (s : State) : (freeNext s).latched = s.latched := rfl

/-! emit changes `out` alone. -/

@[simp] theorem emit_pending (o : Out) (s : State) : (emit o s).pending = s.pending := rfl
@[simp] theorem emit_out (o : Out) (s : State) : (emit o s).out = o :: s.out := rfl
@[simp] theorem emit_freeCtr (o : Out) (s : State) : (emit o s).freeCtr = s.freeCtr := rfl
@[simp] theorem emit_regs (o : Out) (s : State) : (emit o s).regs = s.regs := rfl
@[simp] theorem emit_mem (o : Out) (s : State) : (emit o s).mem = s.mem := rfl
@[simp] theorem emit_undef (o : Out) (s : State) : (emit o s).undef = s.undef := rfl
@[simp] theorem emit_clk (o : Out) (s : State) : (emit o s).clk = s.clk := rfl
@[simp] theorem emit_evc (o : Out) (s : State) : (emit o s).evc = s.evc := rfl
@[simp] theorem emit_core (o : Out) (s : State) : (emit o s).core = s.core := rfl
@[simp] theorem emit_pair (o : Out) (s : State) : (emit o s).pair = s.pair := rfl
@[simp] theorem emit_epoch (o : Out) (s : State) : (emit o s).epoch = s.epoch := rfl
@[simp] theorem emit_fault (o : Out) (s : State) : (emit o s).fault = s.fault := rfl
@[simp] theorem emit_idn (o : Out) (s : State) : (emit o s).idn = s.idn := rfl
@[simp] theorem emit_doors (o : Out) (s : State) : (emit o s).doors = s.doors := rfl
@[simp] theorem emit_pool (o : Out) (s : State) : (emit o s).pool = s.pool := rfl
@[simp] theorem emit_loft (o : Out) (s : State) : (emit o s).loft = s.loft := rfl
@[simp] theorem emit_tmr (o : Out) (s : State) : (emit o s).tmr = s.tmr := rfl
@[simp] theorem emit_pins (o : Out) (s : State) : (emit o s).pins = s.pins := rfl
@[simp] theorem emit_i2c (o : Out) (s : State) : (emit o s).i2c = s.i2c := rfl
@[simp] theorem emit_tap (o : Out) (s : State) : (emit o s).tap = s.tap := rfl
@[simp] theorem emit_fans (o : Out) (s : State) : (emit o s).fans = s.fans := rfl
@[simp] theorem emit_fuses (o : Out) (s : State) : (emit o s).fuses = s.fuses := rfl
@[simp] theorem emit_nand (o : Out) (s : State) : (emit o s).nand = s.nand := rfl
@[simp] theorem emit_vat (o : Out) (s : State) : (emit o s).vat = s.vat := rfl
@[simp] theorem emit_stock (o : Out) (s : State) : (emit o s).stock = s.stock := rfl
@[simp] theorem emit_ports (o : Out) (s : State) : (emit o s).ports = s.ports := rfl
@[simp] theorem emit_mach (o : Out) (s : State) : (emit o s).mach = s.mach := rfl
@[simp] theorem emit_keys (o : Out) (s : State) : (emit o s).keys = s.keys := rfl
@[simp] theorem emit_faults (o : Out) (s : State) : (emit o s).faults = s.faults := rfl
@[simp] theorem emit_panel (o : Out) (s : State) : (emit o s).panel = s.panel := rfl
@[simp] theorem emit_audio (o : Out) (s : State) : (emit o s).audio = s.audio := rfl
@[simp] theorem emit_stats (o : Out) (s : State) : (emit o s).stats = s.stats := rfl
@[simp] theorem emit_latched (o : Out) (s : State) : (emit o s).latched = s.latched := rfl

/-! mset changes `mem` alone. -/

@[simp] theorem mset_pending (a : Nat) (b : Byte) (s : State) : (mset a b s).pending = s.pending := rfl
@[simp] theorem mset_out (a : Nat) (b : Byte) (s : State) : (mset a b s).out = s.out := rfl
@[simp] theorem mset_freeCtr (a : Nat) (b : Byte) (s : State) : (mset a b s).freeCtr = s.freeCtr := rfl
@[simp] theorem mset_regs (a : Nat) (b : Byte) (s : State) : (mset a b s).regs = s.regs := rfl
@[simp] theorem mset_mem (a : Nat) (b : Byte) (s : State) : (mset a b s).mem = tset 0#8 s.mem a b := rfl
@[simp] theorem mset_undef (a : Nat) (b : Byte) (s : State) : (mset a b s).undef = s.undef := rfl
@[simp] theorem mset_clk (a : Nat) (b : Byte) (s : State) : (mset a b s).clk = s.clk := rfl
@[simp] theorem mset_evc (a : Nat) (b : Byte) (s : State) : (mset a b s).evc = s.evc := rfl
@[simp] theorem mset_core (a : Nat) (b : Byte) (s : State) : (mset a b s).core = s.core := rfl
@[simp] theorem mset_pair (a : Nat) (b : Byte) (s : State) : (mset a b s).pair = s.pair := rfl
@[simp] theorem mset_epoch (a : Nat) (b : Byte) (s : State) : (mset a b s).epoch = s.epoch := rfl
@[simp] theorem mset_fault (a : Nat) (b : Byte) (s : State) : (mset a b s).fault = s.fault := rfl
@[simp] theorem mset_idn (a : Nat) (b : Byte) (s : State) : (mset a b s).idn = s.idn := rfl
@[simp] theorem mset_doors (a : Nat) (b : Byte) (s : State) : (mset a b s).doors = s.doors := rfl
@[simp] theorem mset_pool (a : Nat) (b : Byte) (s : State) : (mset a b s).pool = s.pool := rfl
@[simp] theorem mset_loft (a : Nat) (b : Byte) (s : State) : (mset a b s).loft = s.loft := rfl
@[simp] theorem mset_tmr (a : Nat) (b : Byte) (s : State) : (mset a b s).tmr = s.tmr := rfl
@[simp] theorem mset_pins (a : Nat) (b : Byte) (s : State) : (mset a b s).pins = s.pins := rfl
@[simp] theorem mset_i2c (a : Nat) (b : Byte) (s : State) : (mset a b s).i2c = s.i2c := rfl
@[simp] theorem mset_tap (a : Nat) (b : Byte) (s : State) : (mset a b s).tap = s.tap := rfl
@[simp] theorem mset_fans (a : Nat) (b : Byte) (s : State) : (mset a b s).fans = s.fans := rfl
@[simp] theorem mset_fuses (a : Nat) (b : Byte) (s : State) : (mset a b s).fuses = s.fuses := rfl
@[simp] theorem mset_nand (a : Nat) (b : Byte) (s : State) : (mset a b s).nand = s.nand := rfl
@[simp] theorem mset_vat (a : Nat) (b : Byte) (s : State) : (mset a b s).vat = s.vat := rfl
@[simp] theorem mset_stock (a : Nat) (b : Byte) (s : State) : (mset a b s).stock = s.stock := rfl
@[simp] theorem mset_ports (a : Nat) (b : Byte) (s : State) : (mset a b s).ports = s.ports := rfl
@[simp] theorem mset_mach (a : Nat) (b : Byte) (s : State) : (mset a b s).mach = s.mach := rfl
@[simp] theorem mset_keys (a : Nat) (b : Byte) (s : State) : (mset a b s).keys = s.keys := rfl
@[simp] theorem mset_faults (a : Nat) (b : Byte) (s : State) : (mset a b s).faults = s.faults := rfl
@[simp] theorem mset_panel (a : Nat) (b : Byte) (s : State) : (mset a b s).panel = s.panel := rfl
@[simp] theorem mset_audio (a : Nat) (b : Byte) (s : State) : (mset a b s).audio = s.audio := rfl
@[simp] theorem mset_stats (a : Nat) (b : Byte) (s : State) : (mset a b s).stats = s.stats := rfl
@[simp] theorem mset_latched (a : Nat) (b : Byte) (s : State) : (mset a b s).latched = s.latched := rfl

/-! setDoor changes `doors` alone. -/

@[simp] theorem setDoor_pending (d : Nat) (x : Door) (s : State) : (setDoor d x s).pending = s.pending := rfl
@[simp] theorem setDoor_out (d : Nat) (x : Door) (s : State) : (setDoor d x s).out = s.out := rfl
@[simp] theorem setDoor_freeCtr (d : Nat) (x : Door) (s : State) : (setDoor d x s).freeCtr = s.freeCtr := rfl
@[simp] theorem setDoor_regs (d : Nat) (x : Door) (s : State) : (setDoor d x s).regs = s.regs := rfl
@[simp] theorem setDoor_mem (d : Nat) (x : Door) (s : State) : (setDoor d x s).mem = s.mem := rfl
@[simp] theorem setDoor_undef (d : Nat) (x : Door) (s : State) : (setDoor d x s).undef = s.undef := rfl
@[simp] theorem setDoor_clk (d : Nat) (x : Door) (s : State) : (setDoor d x s).clk = s.clk := rfl
@[simp] theorem setDoor_evc (d : Nat) (x : Door) (s : State) : (setDoor d x s).evc = s.evc := rfl
@[simp] theorem setDoor_core (d : Nat) (x : Door) (s : State) : (setDoor d x s).core = s.core := rfl
@[simp] theorem setDoor_pair (d : Nat) (x : Door) (s : State) : (setDoor d x s).pair = s.pair := rfl
@[simp] theorem setDoor_epoch (d : Nat) (x : Door) (s : State) : (setDoor d x s).epoch = s.epoch := rfl
@[simp] theorem setDoor_fault (d : Nat) (x : Door) (s : State) : (setDoor d x s).fault = s.fault := rfl
@[simp] theorem setDoor_idn (d : Nat) (x : Door) (s : State) : (setDoor d x s).idn = s.idn := rfl
@[simp] theorem setDoor_doors (d : Nat) (x : Door) (s : State) : (setDoor d x s).doors = tset {} s.doors d x := rfl
@[simp] theorem setDoor_pool (d : Nat) (x : Door) (s : State) : (setDoor d x s).pool = s.pool := rfl
@[simp] theorem setDoor_loft (d : Nat) (x : Door) (s : State) : (setDoor d x s).loft = s.loft := rfl
@[simp] theorem setDoor_tmr (d : Nat) (x : Door) (s : State) : (setDoor d x s).tmr = s.tmr := rfl
@[simp] theorem setDoor_pins (d : Nat) (x : Door) (s : State) : (setDoor d x s).pins = s.pins := rfl
@[simp] theorem setDoor_i2c (d : Nat) (x : Door) (s : State) : (setDoor d x s).i2c = s.i2c := rfl
@[simp] theorem setDoor_tap (d : Nat) (x : Door) (s : State) : (setDoor d x s).tap = s.tap := rfl
@[simp] theorem setDoor_fans (d : Nat) (x : Door) (s : State) : (setDoor d x s).fans = s.fans := rfl
@[simp] theorem setDoor_fuses (d : Nat) (x : Door) (s : State) : (setDoor d x s).fuses = s.fuses := rfl
@[simp] theorem setDoor_nand (d : Nat) (x : Door) (s : State) : (setDoor d x s).nand = s.nand := rfl
@[simp] theorem setDoor_vat (d : Nat) (x : Door) (s : State) : (setDoor d x s).vat = s.vat := rfl
@[simp] theorem setDoor_stock (d : Nat) (x : Door) (s : State) : (setDoor d x s).stock = s.stock := rfl
@[simp] theorem setDoor_ports (d : Nat) (x : Door) (s : State) : (setDoor d x s).ports = s.ports := rfl
@[simp] theorem setDoor_mach (d : Nat) (x : Door) (s : State) : (setDoor d x s).mach = s.mach := rfl
@[simp] theorem setDoor_keys (d : Nat) (x : Door) (s : State) : (setDoor d x s).keys = s.keys := rfl
@[simp] theorem setDoor_faults (d : Nat) (x : Door) (s : State) : (setDoor d x s).faults = s.faults := rfl
@[simp] theorem setDoor_panel (d : Nat) (x : Door) (s : State) : (setDoor d x s).panel = s.panel := rfl
@[simp] theorem setDoor_audio (d : Nat) (x : Door) (s : State) : (setDoor d x s).audio = s.audio := rfl
@[simp] theorem setDoor_stats (d : Nat) (x : Door) (s : State) : (setDoor d x s).stats = s.stats := rfl
@[simp] theorem setDoor_latched (d : Nat) (x : Door) (s : State) : (setDoor d x s).latched = s.latched := rfl

/-! modDoor changes `doors` alone. -/

@[simp] theorem modDoor_pending (d : Nat) (f : Door → Door) (s : State) : (modDoor d f s).pending = s.pending := rfl
@[simp] theorem modDoor_out (d : Nat) (f : Door → Door) (s : State) : (modDoor d f s).out = s.out := rfl
@[simp] theorem modDoor_freeCtr (d : Nat) (f : Door → Door) (s : State) : (modDoor d f s).freeCtr = s.freeCtr := rfl
@[simp] theorem modDoor_regs (d : Nat) (f : Door → Door) (s : State) : (modDoor d f s).regs = s.regs := rfl
@[simp] theorem modDoor_mem (d : Nat) (f : Door → Door) (s : State) : (modDoor d f s).mem = s.mem := rfl
@[simp] theorem modDoor_undef (d : Nat) (f : Door → Door) (s : State) : (modDoor d f s).undef = s.undef := rfl
@[simp] theorem modDoor_clk (d : Nat) (f : Door → Door) (s : State) : (modDoor d f s).clk = s.clk := rfl
@[simp] theorem modDoor_evc (d : Nat) (f : Door → Door) (s : State) : (modDoor d f s).evc = s.evc := rfl
@[simp] theorem modDoor_core (d : Nat) (f : Door → Door) (s : State) : (modDoor d f s).core = s.core := rfl
@[simp] theorem modDoor_pair (d : Nat) (f : Door → Door) (s : State) : (modDoor d f s).pair = s.pair := rfl
@[simp] theorem modDoor_epoch (d : Nat) (f : Door → Door) (s : State) : (modDoor d f s).epoch = s.epoch := rfl
@[simp] theorem modDoor_fault (d : Nat) (f : Door → Door) (s : State) : (modDoor d f s).fault = s.fault := rfl
@[simp] theorem modDoor_idn (d : Nat) (f : Door → Door) (s : State) : (modDoor d f s).idn = s.idn := rfl
@[simp] theorem modDoor_doors (d : Nat) (f : Door → Door) (s : State) : (modDoor d f s).doors = tset {} s.doors d (f (door s d)) := rfl
@[simp] theorem modDoor_pool (d : Nat) (f : Door → Door) (s : State) : (modDoor d f s).pool = s.pool := rfl
@[simp] theorem modDoor_loft (d : Nat) (f : Door → Door) (s : State) : (modDoor d f s).loft = s.loft := rfl
@[simp] theorem modDoor_tmr (d : Nat) (f : Door → Door) (s : State) : (modDoor d f s).tmr = s.tmr := rfl
@[simp] theorem modDoor_pins (d : Nat) (f : Door → Door) (s : State) : (modDoor d f s).pins = s.pins := rfl
@[simp] theorem modDoor_i2c (d : Nat) (f : Door → Door) (s : State) : (modDoor d f s).i2c = s.i2c := rfl
@[simp] theorem modDoor_tap (d : Nat) (f : Door → Door) (s : State) : (modDoor d f s).tap = s.tap := rfl
@[simp] theorem modDoor_fans (d : Nat) (f : Door → Door) (s : State) : (modDoor d f s).fans = s.fans := rfl
@[simp] theorem modDoor_fuses (d : Nat) (f : Door → Door) (s : State) : (modDoor d f s).fuses = s.fuses := rfl
@[simp] theorem modDoor_nand (d : Nat) (f : Door → Door) (s : State) : (modDoor d f s).nand = s.nand := rfl
@[simp] theorem modDoor_vat (d : Nat) (f : Door → Door) (s : State) : (modDoor d f s).vat = s.vat := rfl
@[simp] theorem modDoor_stock (d : Nat) (f : Door → Door) (s : State) : (modDoor d f s).stock = s.stock := rfl
@[simp] theorem modDoor_ports (d : Nat) (f : Door → Door) (s : State) : (modDoor d f s).ports = s.ports := rfl
@[simp] theorem modDoor_mach (d : Nat) (f : Door → Door) (s : State) : (modDoor d f s).mach = s.mach := rfl
@[simp] theorem modDoor_keys (d : Nat) (f : Door → Door) (s : State) : (modDoor d f s).keys = s.keys := rfl
@[simp] theorem modDoor_faults (d : Nat) (f : Door → Door) (s : State) : (modDoor d f s).faults = s.faults := rfl
@[simp] theorem modDoor_panel (d : Nat) (f : Door → Door) (s : State) : (modDoor d f s).panel = s.panel := rfl
@[simp] theorem modDoor_audio (d : Nat) (f : Door → Door) (s : State) : (modDoor d f s).audio = s.audio := rfl
@[simp] theorem modDoor_stats (d : Nat) (f : Door → Door) (s : State) : (modDoor d f s).stats = s.stats := rfl
@[simp] theorem modDoor_latched (d : Nat) (f : Door → Door) (s : State) : (modDoor d f s).latched = s.latched := rfl

/-! modCmd changes `doors` alone. -/

@[simp] theorem modCmd_pending (d tag : Nat) (f : Cmd → Cmd) (s : State) : (modCmd d tag f s).pending = s.pending := rfl
@[simp] theorem modCmd_out (d tag : Nat) (f : Cmd → Cmd) (s : State) : (modCmd d tag f s).out = s.out := rfl
@[simp] theorem modCmd_freeCtr (d tag : Nat) (f : Cmd → Cmd) (s : State) : (modCmd d tag f s).freeCtr = s.freeCtr := rfl
@[simp] theorem modCmd_regs (d tag : Nat) (f : Cmd → Cmd) (s : State) : (modCmd d tag f s).regs = s.regs := rfl
@[simp] theorem modCmd_mem (d tag : Nat) (f : Cmd → Cmd) (s : State) : (modCmd d tag f s).mem = s.mem := rfl
@[simp] theorem modCmd_undef (d tag : Nat) (f : Cmd → Cmd) (s : State) : (modCmd d tag f s).undef = s.undef := rfl
@[simp] theorem modCmd_clk (d tag : Nat) (f : Cmd → Cmd) (s : State) : (modCmd d tag f s).clk = s.clk := rfl
@[simp] theorem modCmd_evc (d tag : Nat) (f : Cmd → Cmd) (s : State) : (modCmd d tag f s).evc = s.evc := rfl
@[simp] theorem modCmd_core (d tag : Nat) (f : Cmd → Cmd) (s : State) : (modCmd d tag f s).core = s.core := rfl
@[simp] theorem modCmd_pair (d tag : Nat) (f : Cmd → Cmd) (s : State) : (modCmd d tag f s).pair = s.pair := rfl
@[simp] theorem modCmd_epoch (d tag : Nat) (f : Cmd → Cmd) (s : State) : (modCmd d tag f s).epoch = s.epoch := rfl
@[simp] theorem modCmd_fault (d tag : Nat) (f : Cmd → Cmd) (s : State) : (modCmd d tag f s).fault = s.fault := rfl
@[simp] theorem modCmd_idn (d tag : Nat) (f : Cmd → Cmd) (s : State) : (modCmd d tag f s).idn = s.idn := rfl
@[simp] theorem modCmd_pool (d tag : Nat) (f : Cmd → Cmd) (s : State) : (modCmd d tag f s).pool = s.pool := rfl
@[simp] theorem modCmd_loft (d tag : Nat) (f : Cmd → Cmd) (s : State) : (modCmd d tag f s).loft = s.loft := rfl
@[simp] theorem modCmd_tmr (d tag : Nat) (f : Cmd → Cmd) (s : State) : (modCmd d tag f s).tmr = s.tmr := rfl
@[simp] theorem modCmd_pins (d tag : Nat) (f : Cmd → Cmd) (s : State) : (modCmd d tag f s).pins = s.pins := rfl
@[simp] theorem modCmd_i2c (d tag : Nat) (f : Cmd → Cmd) (s : State) : (modCmd d tag f s).i2c = s.i2c := rfl
@[simp] theorem modCmd_tap (d tag : Nat) (f : Cmd → Cmd) (s : State) : (modCmd d tag f s).tap = s.tap := rfl
@[simp] theorem modCmd_fans (d tag : Nat) (f : Cmd → Cmd) (s : State) : (modCmd d tag f s).fans = s.fans := rfl
@[simp] theorem modCmd_fuses (d tag : Nat) (f : Cmd → Cmd) (s : State) : (modCmd d tag f s).fuses = s.fuses := rfl
@[simp] theorem modCmd_nand (d tag : Nat) (f : Cmd → Cmd) (s : State) : (modCmd d tag f s).nand = s.nand := rfl
@[simp] theorem modCmd_vat (d tag : Nat) (f : Cmd → Cmd) (s : State) : (modCmd d tag f s).vat = s.vat := rfl
@[simp] theorem modCmd_stock (d tag : Nat) (f : Cmd → Cmd) (s : State) : (modCmd d tag f s).stock = s.stock := rfl
@[simp] theorem modCmd_ports (d tag : Nat) (f : Cmd → Cmd) (s : State) : (modCmd d tag f s).ports = s.ports := rfl
@[simp] theorem modCmd_mach (d tag : Nat) (f : Cmd → Cmd) (s : State) : (modCmd d tag f s).mach = s.mach := rfl
@[simp] theorem modCmd_keys (d tag : Nat) (f : Cmd → Cmd) (s : State) : (modCmd d tag f s).keys = s.keys := rfl
@[simp] theorem modCmd_faults (d tag : Nat) (f : Cmd → Cmd) (s : State) : (modCmd d tag f s).faults = s.faults := rfl
@[simp] theorem modCmd_panel (d tag : Nat) (f : Cmd → Cmd) (s : State) : (modCmd d tag f s).panel = s.panel := rfl
@[simp] theorem modCmd_audio (d tag : Nat) (f : Cmd → Cmd) (s : State) : (modCmd d tag f s).audio = s.audio := rfl
@[simp] theorem modCmd_stats (d tag : Nat) (f : Cmd → Cmd) (s : State) : (modCmd d tag f s).stats = s.stats := rfl
@[simp] theorem modCmd_latched (d tag : Nat) (f : Cmd → Cmd) (s : State) : (modCmd d tag f s).latched = s.latched := rfl

/-! setEvcPend changes `evc` alone. -/

@[simp] theorem setEvcPend_pending (t v : Nat) (s : State) : (setEvcPend t v s).pending = s.pending := rfl
@[simp] theorem setEvcPend_out (t v : Nat) (s : State) : (setEvcPend t v s).out = s.out := rfl
@[simp] theorem setEvcPend_freeCtr (t v : Nat) (s : State) : (setEvcPend t v s).freeCtr = s.freeCtr := rfl
@[simp] theorem setEvcPend_regs (t v : Nat) (s : State) : (setEvcPend t v s).regs = s.regs := rfl
@[simp] theorem setEvcPend_mem (t v : Nat) (s : State) : (setEvcPend t v s).mem = s.mem := rfl
@[simp] theorem setEvcPend_undef (t v : Nat) (s : State) : (setEvcPend t v s).undef = s.undef := rfl
@[simp] theorem setEvcPend_clk (t v : Nat) (s : State) : (setEvcPend t v s).clk = s.clk := rfl
@[simp] theorem setEvcPend_core (t v : Nat) (s : State) : (setEvcPend t v s).core = s.core := rfl
@[simp] theorem setEvcPend_pair (t v : Nat) (s : State) : (setEvcPend t v s).pair = s.pair := rfl
@[simp] theorem setEvcPend_epoch (t v : Nat) (s : State) : (setEvcPend t v s).epoch = s.epoch := rfl
@[simp] theorem setEvcPend_fault (t v : Nat) (s : State) : (setEvcPend t v s).fault = s.fault := rfl
@[simp] theorem setEvcPend_idn (t v : Nat) (s : State) : (setEvcPend t v s).idn = s.idn := rfl
@[simp] theorem setEvcPend_doors (t v : Nat) (s : State) : (setEvcPend t v s).doors = s.doors := rfl
@[simp] theorem setEvcPend_pool (t v : Nat) (s : State) : (setEvcPend t v s).pool = s.pool := rfl
@[simp] theorem setEvcPend_loft (t v : Nat) (s : State) : (setEvcPend t v s).loft = s.loft := rfl
@[simp] theorem setEvcPend_tmr (t v : Nat) (s : State) : (setEvcPend t v s).tmr = s.tmr := rfl
@[simp] theorem setEvcPend_pins (t v : Nat) (s : State) : (setEvcPend t v s).pins = s.pins := rfl
@[simp] theorem setEvcPend_i2c (t v : Nat) (s : State) : (setEvcPend t v s).i2c = s.i2c := rfl
@[simp] theorem setEvcPend_tap (t v : Nat) (s : State) : (setEvcPend t v s).tap = s.tap := rfl
@[simp] theorem setEvcPend_fans (t v : Nat) (s : State) : (setEvcPend t v s).fans = s.fans := rfl
@[simp] theorem setEvcPend_fuses (t v : Nat) (s : State) : (setEvcPend t v s).fuses = s.fuses := rfl
@[simp] theorem setEvcPend_nand (t v : Nat) (s : State) : (setEvcPend t v s).nand = s.nand := rfl
@[simp] theorem setEvcPend_vat (t v : Nat) (s : State) : (setEvcPend t v s).vat = s.vat := rfl
@[simp] theorem setEvcPend_stock (t v : Nat) (s : State) : (setEvcPend t v s).stock = s.stock := rfl
@[simp] theorem setEvcPend_ports (t v : Nat) (s : State) : (setEvcPend t v s).ports = s.ports := rfl
@[simp] theorem setEvcPend_mach (t v : Nat) (s : State) : (setEvcPend t v s).mach = s.mach := rfl
@[simp] theorem setEvcPend_keys (t v : Nat) (s : State) : (setEvcPend t v s).keys = s.keys := rfl
@[simp] theorem setEvcPend_faults (t v : Nat) (s : State) : (setEvcPend t v s).faults = s.faults := rfl
@[simp] theorem setEvcPend_panel (t v : Nat) (s : State) : (setEvcPend t v s).panel = s.panel := rfl
@[simp] theorem setEvcPend_audio (t v : Nat) (s : State) : (setEvcPend t v s).audio = s.audio := rfl
@[simp] theorem setEvcPend_stats (t v : Nat) (s : State) : (setEvcPend t v s).stats = s.stats := rfl
@[simp] theorem setEvcPend_latched (t v : Nat) (s : State) : (setEvcPend t v s).latched = s.latched := rfl

/-! setEvcStack changes `evc` alone. -/

@[simp] theorem setEvcStack_pending (t : Nat) (v : List (Nat × Nat)) (s : State) : (setEvcStack t v s).pending = s.pending := rfl
@[simp] theorem setEvcStack_out (t : Nat) (v : List (Nat × Nat)) (s : State) : (setEvcStack t v s).out = s.out := rfl
@[simp] theorem setEvcStack_freeCtr (t : Nat) (v : List (Nat × Nat)) (s : State) : (setEvcStack t v s).freeCtr = s.freeCtr := rfl
@[simp] theorem setEvcStack_regs (t : Nat) (v : List (Nat × Nat)) (s : State) : (setEvcStack t v s).regs = s.regs := rfl
@[simp] theorem setEvcStack_mem (t : Nat) (v : List (Nat × Nat)) (s : State) : (setEvcStack t v s).mem = s.mem := rfl
@[simp] theorem setEvcStack_undef (t : Nat) (v : List (Nat × Nat)) (s : State) : (setEvcStack t v s).undef = s.undef := rfl
@[simp] theorem setEvcStack_clk (t : Nat) (v : List (Nat × Nat)) (s : State) : (setEvcStack t v s).clk = s.clk := rfl
@[simp] theorem setEvcStack_core (t : Nat) (v : List (Nat × Nat)) (s : State) : (setEvcStack t v s).core = s.core := rfl
@[simp] theorem setEvcStack_pair (t : Nat) (v : List (Nat × Nat)) (s : State) : (setEvcStack t v s).pair = s.pair := rfl
@[simp] theorem setEvcStack_epoch (t : Nat) (v : List (Nat × Nat)) (s : State) : (setEvcStack t v s).epoch = s.epoch := rfl
@[simp] theorem setEvcStack_fault (t : Nat) (v : List (Nat × Nat)) (s : State) : (setEvcStack t v s).fault = s.fault := rfl
@[simp] theorem setEvcStack_idn (t : Nat) (v : List (Nat × Nat)) (s : State) : (setEvcStack t v s).idn = s.idn := rfl
@[simp] theorem setEvcStack_doors (t : Nat) (v : List (Nat × Nat)) (s : State) : (setEvcStack t v s).doors = s.doors := rfl
@[simp] theorem setEvcStack_pool (t : Nat) (v : List (Nat × Nat)) (s : State) : (setEvcStack t v s).pool = s.pool := rfl
@[simp] theorem setEvcStack_loft (t : Nat) (v : List (Nat × Nat)) (s : State) : (setEvcStack t v s).loft = s.loft := rfl
@[simp] theorem setEvcStack_tmr (t : Nat) (v : List (Nat × Nat)) (s : State) : (setEvcStack t v s).tmr = s.tmr := rfl
@[simp] theorem setEvcStack_pins (t : Nat) (v : List (Nat × Nat)) (s : State) : (setEvcStack t v s).pins = s.pins := rfl
@[simp] theorem setEvcStack_i2c (t : Nat) (v : List (Nat × Nat)) (s : State) : (setEvcStack t v s).i2c = s.i2c := rfl
@[simp] theorem setEvcStack_tap (t : Nat) (v : List (Nat × Nat)) (s : State) : (setEvcStack t v s).tap = s.tap := rfl
@[simp] theorem setEvcStack_fans (t : Nat) (v : List (Nat × Nat)) (s : State) : (setEvcStack t v s).fans = s.fans := rfl
@[simp] theorem setEvcStack_fuses (t : Nat) (v : List (Nat × Nat)) (s : State) : (setEvcStack t v s).fuses = s.fuses := rfl
@[simp] theorem setEvcStack_nand (t : Nat) (v : List (Nat × Nat)) (s : State) : (setEvcStack t v s).nand = s.nand := rfl
@[simp] theorem setEvcStack_vat (t : Nat) (v : List (Nat × Nat)) (s : State) : (setEvcStack t v s).vat = s.vat := rfl
@[simp] theorem setEvcStack_stock (t : Nat) (v : List (Nat × Nat)) (s : State) : (setEvcStack t v s).stock = s.stock := rfl
@[simp] theorem setEvcStack_ports (t : Nat) (v : List (Nat × Nat)) (s : State) : (setEvcStack t v s).ports = s.ports := rfl
@[simp] theorem setEvcStack_mach (t : Nat) (v : List (Nat × Nat)) (s : State) : (setEvcStack t v s).mach = s.mach := rfl
@[simp] theorem setEvcStack_keys (t : Nat) (v : List (Nat × Nat)) (s : State) : (setEvcStack t v s).keys = s.keys := rfl
@[simp] theorem setEvcStack_faults (t : Nat) (v : List (Nat × Nat)) (s : State) : (setEvcStack t v s).faults = s.faults := rfl
@[simp] theorem setEvcStack_panel (t : Nat) (v : List (Nat × Nat)) (s : State) : (setEvcStack t v s).panel = s.panel := rfl
@[simp] theorem setEvcStack_audio (t : Nat) (v : List (Nat × Nat)) (s : State) : (setEvcStack t v s).audio = s.audio := rfl
@[simp] theorem setEvcStack_stats (t : Nat) (v : List (Nat × Nat)) (s : State) : (setEvcStack t v s).stats = s.stats := rfl
@[simp] theorem setEvcStack_latched (t : Nat) (v : List (Nat × Nat)) (s : State) : (setEvcStack t v s).latched = s.latched := rfl

/-! unpend changes `evc` alone. -/

@[simp] theorem unpend_pending (t n : Nat) (s : State) : (unpend t n s).pending = s.pending := rfl
@[simp] theorem unpend_out (t n : Nat) (s : State) : (unpend t n s).out = s.out := rfl
@[simp] theorem unpend_freeCtr (t n : Nat) (s : State) : (unpend t n s).freeCtr = s.freeCtr := rfl
@[simp] theorem unpend_regs (t n : Nat) (s : State) : (unpend t n s).regs = s.regs := rfl
@[simp] theorem unpend_mem (t n : Nat) (s : State) : (unpend t n s).mem = s.mem := rfl
@[simp] theorem unpend_undef (t n : Nat) (s : State) : (unpend t n s).undef = s.undef := rfl
@[simp] theorem unpend_clk (t n : Nat) (s : State) : (unpend t n s).clk = s.clk := rfl
@[simp] theorem unpend_core (t n : Nat) (s : State) : (unpend t n s).core = s.core := rfl
@[simp] theorem unpend_pair (t n : Nat) (s : State) : (unpend t n s).pair = s.pair := rfl
@[simp] theorem unpend_epoch (t n : Nat) (s : State) : (unpend t n s).epoch = s.epoch := rfl
@[simp] theorem unpend_fault (t n : Nat) (s : State) : (unpend t n s).fault = s.fault := rfl
@[simp] theorem unpend_idn (t n : Nat) (s : State) : (unpend t n s).idn = s.idn := rfl
@[simp] theorem unpend_doors (t n : Nat) (s : State) : (unpend t n s).doors = s.doors := rfl
@[simp] theorem unpend_pool (t n : Nat) (s : State) : (unpend t n s).pool = s.pool := rfl
@[simp] theorem unpend_loft (t n : Nat) (s : State) : (unpend t n s).loft = s.loft := rfl
@[simp] theorem unpend_tmr (t n : Nat) (s : State) : (unpend t n s).tmr = s.tmr := rfl
@[simp] theorem unpend_pins (t n : Nat) (s : State) : (unpend t n s).pins = s.pins := rfl
@[simp] theorem unpend_i2c (t n : Nat) (s : State) : (unpend t n s).i2c = s.i2c := rfl
@[simp] theorem unpend_tap (t n : Nat) (s : State) : (unpend t n s).tap = s.tap := rfl
@[simp] theorem unpend_fans (t n : Nat) (s : State) : (unpend t n s).fans = s.fans := rfl
@[simp] theorem unpend_fuses (t n : Nat) (s : State) : (unpend t n s).fuses = s.fuses := rfl
@[simp] theorem unpend_nand (t n : Nat) (s : State) : (unpend t n s).nand = s.nand := rfl
@[simp] theorem unpend_vat (t n : Nat) (s : State) : (unpend t n s).vat = s.vat := rfl
@[simp] theorem unpend_stock (t n : Nat) (s : State) : (unpend t n s).stock = s.stock := rfl
@[simp] theorem unpend_ports (t n : Nat) (s : State) : (unpend t n s).ports = s.ports := rfl
@[simp] theorem unpend_mach (t n : Nat) (s : State) : (unpend t n s).mach = s.mach := rfl
@[simp] theorem unpend_keys (t n : Nat) (s : State) : (unpend t n s).keys = s.keys := rfl
@[simp] theorem unpend_faults (t n : Nat) (s : State) : (unpend t n s).faults = s.faults := rfl
@[simp] theorem unpend_panel (t n : Nat) (s : State) : (unpend t n s).panel = s.panel := rfl
@[simp] theorem unpend_audio (t n : Nat) (s : State) : (unpend t n s).audio = s.audio := rfl
@[simp] theorem unpend_stats (t n : Nat) (s : State) : (unpend t n s).stats = s.stats := rfl
@[simp] theorem unpend_latched (t n : Nat) (s : State) : (unpend t n s).latched = s.latched := rfl

/-! modClk changes `clk` alone. -/

@[simp] theorem modClk_pending (f : Clk → Clk) (s : State) : (modClk f s).pending = s.pending := rfl
@[simp] theorem modClk_out (f : Clk → Clk) (s : State) : (modClk f s).out = s.out := rfl
@[simp] theorem modClk_freeCtr (f : Clk → Clk) (s : State) : (modClk f s).freeCtr = s.freeCtr := rfl
@[simp] theorem modClk_regs (f : Clk → Clk) (s : State) : (modClk f s).regs = s.regs := rfl
@[simp] theorem modClk_mem (f : Clk → Clk) (s : State) : (modClk f s).mem = s.mem := rfl
@[simp] theorem modClk_undef (f : Clk → Clk) (s : State) : (modClk f s).undef = s.undef := rfl
@[simp] theorem modClk_clk (f : Clk → Clk) (s : State) : (modClk f s).clk = f s.clk := rfl
@[simp] theorem modClk_evc (f : Clk → Clk) (s : State) : (modClk f s).evc = s.evc := rfl
@[simp] theorem modClk_core (f : Clk → Clk) (s : State) : (modClk f s).core = s.core := rfl
@[simp] theorem modClk_pair (f : Clk → Clk) (s : State) : (modClk f s).pair = s.pair := rfl
@[simp] theorem modClk_epoch (f : Clk → Clk) (s : State) : (modClk f s).epoch = s.epoch := rfl
@[simp] theorem modClk_fault (f : Clk → Clk) (s : State) : (modClk f s).fault = s.fault := rfl
@[simp] theorem modClk_idn (f : Clk → Clk) (s : State) : (modClk f s).idn = s.idn := rfl
@[simp] theorem modClk_doors (f : Clk → Clk) (s : State) : (modClk f s).doors = s.doors := rfl
@[simp] theorem modClk_pool (f : Clk → Clk) (s : State) : (modClk f s).pool = s.pool := rfl
@[simp] theorem modClk_loft (f : Clk → Clk) (s : State) : (modClk f s).loft = s.loft := rfl
@[simp] theorem modClk_tmr (f : Clk → Clk) (s : State) : (modClk f s).tmr = s.tmr := rfl
@[simp] theorem modClk_pins (f : Clk → Clk) (s : State) : (modClk f s).pins = s.pins := rfl
@[simp] theorem modClk_i2c (f : Clk → Clk) (s : State) : (modClk f s).i2c = s.i2c := rfl
@[simp] theorem modClk_tap (f : Clk → Clk) (s : State) : (modClk f s).tap = s.tap := rfl
@[simp] theorem modClk_fans (f : Clk → Clk) (s : State) : (modClk f s).fans = s.fans := rfl
@[simp] theorem modClk_fuses (f : Clk → Clk) (s : State) : (modClk f s).fuses = s.fuses := rfl
@[simp] theorem modClk_nand (f : Clk → Clk) (s : State) : (modClk f s).nand = s.nand := rfl
@[simp] theorem modClk_vat (f : Clk → Clk) (s : State) : (modClk f s).vat = s.vat := rfl
@[simp] theorem modClk_stock (f : Clk → Clk) (s : State) : (modClk f s).stock = s.stock := rfl
@[simp] theorem modClk_ports (f : Clk → Clk) (s : State) : (modClk f s).ports = s.ports := rfl
@[simp] theorem modClk_mach (f : Clk → Clk) (s : State) : (modClk f s).mach = s.mach := rfl
@[simp] theorem modClk_keys (f : Clk → Clk) (s : State) : (modClk f s).keys = s.keys := rfl
@[simp] theorem modClk_faults (f : Clk → Clk) (s : State) : (modClk f s).faults = s.faults := rfl
@[simp] theorem modClk_panel (f : Clk → Clk) (s : State) : (modClk f s).panel = s.panel := rfl
@[simp] theorem modClk_audio (f : Clk → Clk) (s : State) : (modClk f s).audio = s.audio := rfl
@[simp] theorem modClk_stats (f : Clk → Clk) (s : State) : (modClk f s).stats = s.stats := rfl
@[simp] theorem modClk_latched (f : Clk → Clk) (s : State) : (modClk f s).latched = s.latched := rfl

/-! modCore changes `core` alone. -/

@[simp] theorem modCore_pending (f : Core → Core) (s : State) : (modCore f s).pending = s.pending := rfl
@[simp] theorem modCore_out (f : Core → Core) (s : State) : (modCore f s).out = s.out := rfl
@[simp] theorem modCore_freeCtr (f : Core → Core) (s : State) : (modCore f s).freeCtr = s.freeCtr := rfl
@[simp] theorem modCore_regs (f : Core → Core) (s : State) : (modCore f s).regs = s.regs := rfl
@[simp] theorem modCore_mem (f : Core → Core) (s : State) : (modCore f s).mem = s.mem := rfl
@[simp] theorem modCore_undef (f : Core → Core) (s : State) : (modCore f s).undef = s.undef := rfl
@[simp] theorem modCore_clk (f : Core → Core) (s : State) : (modCore f s).clk = s.clk := rfl
@[simp] theorem modCore_evc (f : Core → Core) (s : State) : (modCore f s).evc = s.evc := rfl
@[simp] theorem modCore_core (f : Core → Core) (s : State) : (modCore f s).core = f s.core := rfl
@[simp] theorem modCore_pair (f : Core → Core) (s : State) : (modCore f s).pair = s.pair := rfl
@[simp] theorem modCore_epoch (f : Core → Core) (s : State) : (modCore f s).epoch = s.epoch := rfl
@[simp] theorem modCore_fault (f : Core → Core) (s : State) : (modCore f s).fault = s.fault := rfl
@[simp] theorem modCore_idn (f : Core → Core) (s : State) : (modCore f s).idn = s.idn := rfl
@[simp] theorem modCore_doors (f : Core → Core) (s : State) : (modCore f s).doors = s.doors := rfl
@[simp] theorem modCore_pool (f : Core → Core) (s : State) : (modCore f s).pool = s.pool := rfl
@[simp] theorem modCore_loft (f : Core → Core) (s : State) : (modCore f s).loft = s.loft := rfl
@[simp] theorem modCore_tmr (f : Core → Core) (s : State) : (modCore f s).tmr = s.tmr := rfl
@[simp] theorem modCore_pins (f : Core → Core) (s : State) : (modCore f s).pins = s.pins := rfl
@[simp] theorem modCore_i2c (f : Core → Core) (s : State) : (modCore f s).i2c = s.i2c := rfl
@[simp] theorem modCore_tap (f : Core → Core) (s : State) : (modCore f s).tap = s.tap := rfl
@[simp] theorem modCore_fans (f : Core → Core) (s : State) : (modCore f s).fans = s.fans := rfl
@[simp] theorem modCore_fuses (f : Core → Core) (s : State) : (modCore f s).fuses = s.fuses := rfl
@[simp] theorem modCore_nand (f : Core → Core) (s : State) : (modCore f s).nand = s.nand := rfl
@[simp] theorem modCore_vat (f : Core → Core) (s : State) : (modCore f s).vat = s.vat := rfl
@[simp] theorem modCore_stock (f : Core → Core) (s : State) : (modCore f s).stock = s.stock := rfl
@[simp] theorem modCore_ports (f : Core → Core) (s : State) : (modCore f s).ports = s.ports := rfl
@[simp] theorem modCore_mach (f : Core → Core) (s : State) : (modCore f s).mach = s.mach := rfl
@[simp] theorem modCore_keys (f : Core → Core) (s : State) : (modCore f s).keys = s.keys := rfl
@[simp] theorem modCore_faults (f : Core → Core) (s : State) : (modCore f s).faults = s.faults := rfl
@[simp] theorem modCore_panel (f : Core → Core) (s : State) : (modCore f s).panel = s.panel := rfl
@[simp] theorem modCore_audio (f : Core → Core) (s : State) : (modCore f s).audio = s.audio := rfl
@[simp] theorem modCore_stats (f : Core → Core) (s : State) : (modCore f s).stats = s.stats := rfl
@[simp] theorem modCore_latched (f : Core → Core) (s : State) : (modCore f s).latched = s.latched := rfl

/-! modPair changes `pair` alone. -/

@[simp] theorem modPair_pending (f : Pair → Pair) (s : State) : (modPair f s).pending = s.pending := rfl
@[simp] theorem modPair_out (f : Pair → Pair) (s : State) : (modPair f s).out = s.out := rfl
@[simp] theorem modPair_freeCtr (f : Pair → Pair) (s : State) : (modPair f s).freeCtr = s.freeCtr := rfl
@[simp] theorem modPair_regs (f : Pair → Pair) (s : State) : (modPair f s).regs = s.regs := rfl
@[simp] theorem modPair_mem (f : Pair → Pair) (s : State) : (modPair f s).mem = s.mem := rfl
@[simp] theorem modPair_undef (f : Pair → Pair) (s : State) : (modPair f s).undef = s.undef := rfl
@[simp] theorem modPair_clk (f : Pair → Pair) (s : State) : (modPair f s).clk = s.clk := rfl
@[simp] theorem modPair_evc (f : Pair → Pair) (s : State) : (modPair f s).evc = s.evc := rfl
@[simp] theorem modPair_core (f : Pair → Pair) (s : State) : (modPair f s).core = s.core := rfl
@[simp] theorem modPair_pair (f : Pair → Pair) (s : State) : (modPair f s).pair = f s.pair := rfl
@[simp] theorem modPair_epoch (f : Pair → Pair) (s : State) : (modPair f s).epoch = s.epoch := rfl
@[simp] theorem modPair_fault (f : Pair → Pair) (s : State) : (modPair f s).fault = s.fault := rfl
@[simp] theorem modPair_idn (f : Pair → Pair) (s : State) : (modPair f s).idn = s.idn := rfl
@[simp] theorem modPair_doors (f : Pair → Pair) (s : State) : (modPair f s).doors = s.doors := rfl
@[simp] theorem modPair_pool (f : Pair → Pair) (s : State) : (modPair f s).pool = s.pool := rfl
@[simp] theorem modPair_loft (f : Pair → Pair) (s : State) : (modPair f s).loft = s.loft := rfl
@[simp] theorem modPair_tmr (f : Pair → Pair) (s : State) : (modPair f s).tmr = s.tmr := rfl
@[simp] theorem modPair_pins (f : Pair → Pair) (s : State) : (modPair f s).pins = s.pins := rfl
@[simp] theorem modPair_i2c (f : Pair → Pair) (s : State) : (modPair f s).i2c = s.i2c := rfl
@[simp] theorem modPair_tap (f : Pair → Pair) (s : State) : (modPair f s).tap = s.tap := rfl
@[simp] theorem modPair_fans (f : Pair → Pair) (s : State) : (modPair f s).fans = s.fans := rfl
@[simp] theorem modPair_fuses (f : Pair → Pair) (s : State) : (modPair f s).fuses = s.fuses := rfl
@[simp] theorem modPair_nand (f : Pair → Pair) (s : State) : (modPair f s).nand = s.nand := rfl
@[simp] theorem modPair_vat (f : Pair → Pair) (s : State) : (modPair f s).vat = s.vat := rfl
@[simp] theorem modPair_stock (f : Pair → Pair) (s : State) : (modPair f s).stock = s.stock := rfl
@[simp] theorem modPair_ports (f : Pair → Pair) (s : State) : (modPair f s).ports = s.ports := rfl
@[simp] theorem modPair_mach (f : Pair → Pair) (s : State) : (modPair f s).mach = s.mach := rfl
@[simp] theorem modPair_keys (f : Pair → Pair) (s : State) : (modPair f s).keys = s.keys := rfl
@[simp] theorem modPair_faults (f : Pair → Pair) (s : State) : (modPair f s).faults = s.faults := rfl
@[simp] theorem modPair_panel (f : Pair → Pair) (s : State) : (modPair f s).panel = s.panel := rfl
@[simp] theorem modPair_audio (f : Pair → Pair) (s : State) : (modPair f s).audio = s.audio := rfl
@[simp] theorem modPair_stats (f : Pair → Pair) (s : State) : (modPair f s).stats = s.stats := rfl
@[simp] theorem modPair_latched (f : Pair → Pair) (s : State) : (modPair f s).latched = s.latched := rfl

/-! modLoft changes `loft` alone. -/

@[simp] theorem modLoft_pending (f : Loft → Loft) (s : State) : (modLoft f s).pending = s.pending := rfl
@[simp] theorem modLoft_out (f : Loft → Loft) (s : State) : (modLoft f s).out = s.out := rfl
@[simp] theorem modLoft_freeCtr (f : Loft → Loft) (s : State) : (modLoft f s).freeCtr = s.freeCtr := rfl
@[simp] theorem modLoft_regs (f : Loft → Loft) (s : State) : (modLoft f s).regs = s.regs := rfl
@[simp] theorem modLoft_mem (f : Loft → Loft) (s : State) : (modLoft f s).mem = s.mem := rfl
@[simp] theorem modLoft_undef (f : Loft → Loft) (s : State) : (modLoft f s).undef = s.undef := rfl
@[simp] theorem modLoft_clk (f : Loft → Loft) (s : State) : (modLoft f s).clk = s.clk := rfl
@[simp] theorem modLoft_evc (f : Loft → Loft) (s : State) : (modLoft f s).evc = s.evc := rfl
@[simp] theorem modLoft_core (f : Loft → Loft) (s : State) : (modLoft f s).core = s.core := rfl
@[simp] theorem modLoft_pair (f : Loft → Loft) (s : State) : (modLoft f s).pair = s.pair := rfl
@[simp] theorem modLoft_epoch (f : Loft → Loft) (s : State) : (modLoft f s).epoch = s.epoch := rfl
@[simp] theorem modLoft_fault (f : Loft → Loft) (s : State) : (modLoft f s).fault = s.fault := rfl
@[simp] theorem modLoft_idn (f : Loft → Loft) (s : State) : (modLoft f s).idn = s.idn := rfl
@[simp] theorem modLoft_doors (f : Loft → Loft) (s : State) : (modLoft f s).doors = s.doors := rfl
@[simp] theorem modLoft_pool (f : Loft → Loft) (s : State) : (modLoft f s).pool = s.pool := rfl
@[simp] theorem modLoft_loft (f : Loft → Loft) (s : State) : (modLoft f s).loft = f s.loft := rfl
@[simp] theorem modLoft_tmr (f : Loft → Loft) (s : State) : (modLoft f s).tmr = s.tmr := rfl
@[simp] theorem modLoft_pins (f : Loft → Loft) (s : State) : (modLoft f s).pins = s.pins := rfl
@[simp] theorem modLoft_i2c (f : Loft → Loft) (s : State) : (modLoft f s).i2c = s.i2c := rfl
@[simp] theorem modLoft_tap (f : Loft → Loft) (s : State) : (modLoft f s).tap = s.tap := rfl
@[simp] theorem modLoft_fans (f : Loft → Loft) (s : State) : (modLoft f s).fans = s.fans := rfl
@[simp] theorem modLoft_fuses (f : Loft → Loft) (s : State) : (modLoft f s).fuses = s.fuses := rfl
@[simp] theorem modLoft_nand (f : Loft → Loft) (s : State) : (modLoft f s).nand = s.nand := rfl
@[simp] theorem modLoft_vat (f : Loft → Loft) (s : State) : (modLoft f s).vat = s.vat := rfl
@[simp] theorem modLoft_stock (f : Loft → Loft) (s : State) : (modLoft f s).stock = s.stock := rfl
@[simp] theorem modLoft_ports (f : Loft → Loft) (s : State) : (modLoft f s).ports = s.ports := rfl
@[simp] theorem modLoft_mach (f : Loft → Loft) (s : State) : (modLoft f s).mach = s.mach := rfl
@[simp] theorem modLoft_keys (f : Loft → Loft) (s : State) : (modLoft f s).keys = s.keys := rfl
@[simp] theorem modLoft_faults (f : Loft → Loft) (s : State) : (modLoft f s).faults = s.faults := rfl
@[simp] theorem modLoft_panel (f : Loft → Loft) (s : State) : (modLoft f s).panel = s.panel := rfl
@[simp] theorem modLoft_audio (f : Loft → Loft) (s : State) : (modLoft f s).audio = s.audio := rfl
@[simp] theorem modLoft_stats (f : Loft → Loft) (s : State) : (modLoft f s).stats = s.stats := rfl
@[simp] theorem modLoft_latched (f : Loft → Loft) (s : State) : (modLoft f s).latched = s.latched := rfl

/-! modPanel changes `panel` alone. -/

@[simp] theorem modPanel_pending (f : Panel → Panel) (s : State) : (modPanel f s).pending = s.pending := rfl
@[simp] theorem modPanel_out (f : Panel → Panel) (s : State) : (modPanel f s).out = s.out := rfl
@[simp] theorem modPanel_freeCtr (f : Panel → Panel) (s : State) : (modPanel f s).freeCtr = s.freeCtr := rfl
@[simp] theorem modPanel_regs (f : Panel → Panel) (s : State) : (modPanel f s).regs = s.regs := rfl
@[simp] theorem modPanel_mem (f : Panel → Panel) (s : State) : (modPanel f s).mem = s.mem := rfl
@[simp] theorem modPanel_undef (f : Panel → Panel) (s : State) : (modPanel f s).undef = s.undef := rfl
@[simp] theorem modPanel_clk (f : Panel → Panel) (s : State) : (modPanel f s).clk = s.clk := rfl
@[simp] theorem modPanel_evc (f : Panel → Panel) (s : State) : (modPanel f s).evc = s.evc := rfl
@[simp] theorem modPanel_core (f : Panel → Panel) (s : State) : (modPanel f s).core = s.core := rfl
@[simp] theorem modPanel_pair (f : Panel → Panel) (s : State) : (modPanel f s).pair = s.pair := rfl
@[simp] theorem modPanel_epoch (f : Panel → Panel) (s : State) : (modPanel f s).epoch = s.epoch := rfl
@[simp] theorem modPanel_fault (f : Panel → Panel) (s : State) : (modPanel f s).fault = s.fault := rfl
@[simp] theorem modPanel_idn (f : Panel → Panel) (s : State) : (modPanel f s).idn = s.idn := rfl
@[simp] theorem modPanel_doors (f : Panel → Panel) (s : State) : (modPanel f s).doors = s.doors := rfl
@[simp] theorem modPanel_pool (f : Panel → Panel) (s : State) : (modPanel f s).pool = s.pool := rfl
@[simp] theorem modPanel_loft (f : Panel → Panel) (s : State) : (modPanel f s).loft = s.loft := rfl
@[simp] theorem modPanel_tmr (f : Panel → Panel) (s : State) : (modPanel f s).tmr = s.tmr := rfl
@[simp] theorem modPanel_pins (f : Panel → Panel) (s : State) : (modPanel f s).pins = s.pins := rfl
@[simp] theorem modPanel_i2c (f : Panel → Panel) (s : State) : (modPanel f s).i2c = s.i2c := rfl
@[simp] theorem modPanel_tap (f : Panel → Panel) (s : State) : (modPanel f s).tap = s.tap := rfl
@[simp] theorem modPanel_fans (f : Panel → Panel) (s : State) : (modPanel f s).fans = s.fans := rfl
@[simp] theorem modPanel_fuses (f : Panel → Panel) (s : State) : (modPanel f s).fuses = s.fuses := rfl
@[simp] theorem modPanel_nand (f : Panel → Panel) (s : State) : (modPanel f s).nand = s.nand := rfl
@[simp] theorem modPanel_vat (f : Panel → Panel) (s : State) : (modPanel f s).vat = s.vat := rfl
@[simp] theorem modPanel_stock (f : Panel → Panel) (s : State) : (modPanel f s).stock = s.stock := rfl
@[simp] theorem modPanel_ports (f : Panel → Panel) (s : State) : (modPanel f s).ports = s.ports := rfl
@[simp] theorem modPanel_mach (f : Panel → Panel) (s : State) : (modPanel f s).mach = s.mach := rfl
@[simp] theorem modPanel_keys (f : Panel → Panel) (s : State) : (modPanel f s).keys = s.keys := rfl
@[simp] theorem modPanel_faults (f : Panel → Panel) (s : State) : (modPanel f s).faults = s.faults := rfl
@[simp] theorem modPanel_panel (f : Panel → Panel) (s : State) : (modPanel f s).panel = f s.panel := rfl
@[simp] theorem modPanel_audio (f : Panel → Panel) (s : State) : (modPanel f s).audio = s.audio := rfl
@[simp] theorem modPanel_stats (f : Panel → Panel) (s : State) : (modPanel f s).stats = s.stats := rfl
@[simp] theorem modPanel_latched (f : Panel → Panel) (s : State) : (modPanel f s).latched = s.latched := rfl

/-! modAudio changes `audio` alone. -/

@[simp] theorem modAudio_pending (f : Audio → Audio) (s : State) : (modAudio f s).pending = s.pending := rfl
@[simp] theorem modAudio_out (f : Audio → Audio) (s : State) : (modAudio f s).out = s.out := rfl
@[simp] theorem modAudio_freeCtr (f : Audio → Audio) (s : State) : (modAudio f s).freeCtr = s.freeCtr := rfl
@[simp] theorem modAudio_regs (f : Audio → Audio) (s : State) : (modAudio f s).regs = s.regs := rfl
@[simp] theorem modAudio_mem (f : Audio → Audio) (s : State) : (modAudio f s).mem = s.mem := rfl
@[simp] theorem modAudio_undef (f : Audio → Audio) (s : State) : (modAudio f s).undef = s.undef := rfl
@[simp] theorem modAudio_clk (f : Audio → Audio) (s : State) : (modAudio f s).clk = s.clk := rfl
@[simp] theorem modAudio_evc (f : Audio → Audio) (s : State) : (modAudio f s).evc = s.evc := rfl
@[simp] theorem modAudio_core (f : Audio → Audio) (s : State) : (modAudio f s).core = s.core := rfl
@[simp] theorem modAudio_pair (f : Audio → Audio) (s : State) : (modAudio f s).pair = s.pair := rfl
@[simp] theorem modAudio_epoch (f : Audio → Audio) (s : State) : (modAudio f s).epoch = s.epoch := rfl
@[simp] theorem modAudio_fault (f : Audio → Audio) (s : State) : (modAudio f s).fault = s.fault := rfl
@[simp] theorem modAudio_idn (f : Audio → Audio) (s : State) : (modAudio f s).idn = s.idn := rfl
@[simp] theorem modAudio_doors (f : Audio → Audio) (s : State) : (modAudio f s).doors = s.doors := rfl
@[simp] theorem modAudio_pool (f : Audio → Audio) (s : State) : (modAudio f s).pool = s.pool := rfl
@[simp] theorem modAudio_loft (f : Audio → Audio) (s : State) : (modAudio f s).loft = s.loft := rfl
@[simp] theorem modAudio_tmr (f : Audio → Audio) (s : State) : (modAudio f s).tmr = s.tmr := rfl
@[simp] theorem modAudio_pins (f : Audio → Audio) (s : State) : (modAudio f s).pins = s.pins := rfl
@[simp] theorem modAudio_i2c (f : Audio → Audio) (s : State) : (modAudio f s).i2c = s.i2c := rfl
@[simp] theorem modAudio_tap (f : Audio → Audio) (s : State) : (modAudio f s).tap = s.tap := rfl
@[simp] theorem modAudio_fans (f : Audio → Audio) (s : State) : (modAudio f s).fans = s.fans := rfl
@[simp] theorem modAudio_fuses (f : Audio → Audio) (s : State) : (modAudio f s).fuses = s.fuses := rfl
@[simp] theorem modAudio_nand (f : Audio → Audio) (s : State) : (modAudio f s).nand = s.nand := rfl
@[simp] theorem modAudio_vat (f : Audio → Audio) (s : State) : (modAudio f s).vat = s.vat := rfl
@[simp] theorem modAudio_stock (f : Audio → Audio) (s : State) : (modAudio f s).stock = s.stock := rfl
@[simp] theorem modAudio_ports (f : Audio → Audio) (s : State) : (modAudio f s).ports = s.ports := rfl
@[simp] theorem modAudio_mach (f : Audio → Audio) (s : State) : (modAudio f s).mach = s.mach := rfl
@[simp] theorem modAudio_keys (f : Audio → Audio) (s : State) : (modAudio f s).keys = s.keys := rfl
@[simp] theorem modAudio_faults (f : Audio → Audio) (s : State) : (modAudio f s).faults = s.faults := rfl
@[simp] theorem modAudio_panel (f : Audio → Audio) (s : State) : (modAudio f s).panel = s.panel := rfl
@[simp] theorem modAudio_audio (f : Audio → Audio) (s : State) : (modAudio f s).audio = f s.audio := rfl
@[simp] theorem modAudio_stats (f : Audio → Audio) (s : State) : (modAudio f s).stats = s.stats := rfl
@[simp] theorem modAudio_latched (f : Audio → Audio) (s : State) : (modAudio f s).latched = s.latched := rfl

/-! modNand changes `nand` alone. -/

@[simp] theorem modNand_pending (f : Nand → Nand) (s : State) : (modNand f s).pending = s.pending := rfl
@[simp] theorem modNand_out (f : Nand → Nand) (s : State) : (modNand f s).out = s.out := rfl
@[simp] theorem modNand_freeCtr (f : Nand → Nand) (s : State) : (modNand f s).freeCtr = s.freeCtr := rfl
@[simp] theorem modNand_regs (f : Nand → Nand) (s : State) : (modNand f s).regs = s.regs := rfl
@[simp] theorem modNand_mem (f : Nand → Nand) (s : State) : (modNand f s).mem = s.mem := rfl
@[simp] theorem modNand_undef (f : Nand → Nand) (s : State) : (modNand f s).undef = s.undef := rfl
@[simp] theorem modNand_clk (f : Nand → Nand) (s : State) : (modNand f s).clk = s.clk := rfl
@[simp] theorem modNand_evc (f : Nand → Nand) (s : State) : (modNand f s).evc = s.evc := rfl
@[simp] theorem modNand_core (f : Nand → Nand) (s : State) : (modNand f s).core = s.core := rfl
@[simp] theorem modNand_pair (f : Nand → Nand) (s : State) : (modNand f s).pair = s.pair := rfl
@[simp] theorem modNand_epoch (f : Nand → Nand) (s : State) : (modNand f s).epoch = s.epoch := rfl
@[simp] theorem modNand_fault (f : Nand → Nand) (s : State) : (modNand f s).fault = s.fault := rfl
@[simp] theorem modNand_idn (f : Nand → Nand) (s : State) : (modNand f s).idn = s.idn := rfl
@[simp] theorem modNand_doors (f : Nand → Nand) (s : State) : (modNand f s).doors = s.doors := rfl
@[simp] theorem modNand_pool (f : Nand → Nand) (s : State) : (modNand f s).pool = s.pool := rfl
@[simp] theorem modNand_loft (f : Nand → Nand) (s : State) : (modNand f s).loft = s.loft := rfl
@[simp] theorem modNand_tmr (f : Nand → Nand) (s : State) : (modNand f s).tmr = s.tmr := rfl
@[simp] theorem modNand_pins (f : Nand → Nand) (s : State) : (modNand f s).pins = s.pins := rfl
@[simp] theorem modNand_i2c (f : Nand → Nand) (s : State) : (modNand f s).i2c = s.i2c := rfl
@[simp] theorem modNand_tap (f : Nand → Nand) (s : State) : (modNand f s).tap = s.tap := rfl
@[simp] theorem modNand_fans (f : Nand → Nand) (s : State) : (modNand f s).fans = s.fans := rfl
@[simp] theorem modNand_fuses (f : Nand → Nand) (s : State) : (modNand f s).fuses = s.fuses := rfl
@[simp] theorem modNand_nand (f : Nand → Nand) (s : State) : (modNand f s).nand = f s.nand := rfl
@[simp] theorem modNand_vat (f : Nand → Nand) (s : State) : (modNand f s).vat = s.vat := rfl
@[simp] theorem modNand_stock (f : Nand → Nand) (s : State) : (modNand f s).stock = s.stock := rfl
@[simp] theorem modNand_ports (f : Nand → Nand) (s : State) : (modNand f s).ports = s.ports := rfl
@[simp] theorem modNand_mach (f : Nand → Nand) (s : State) : (modNand f s).mach = s.mach := rfl
@[simp] theorem modNand_keys (f : Nand → Nand) (s : State) : (modNand f s).keys = s.keys := rfl
@[simp] theorem modNand_faults (f : Nand → Nand) (s : State) : (modNand f s).faults = s.faults := rfl
@[simp] theorem modNand_panel (f : Nand → Nand) (s : State) : (modNand f s).panel = s.panel := rfl
@[simp] theorem modNand_audio (f : Nand → Nand) (s : State) : (modNand f s).audio = s.audio := rfl
@[simp] theorem modNand_stats (f : Nand → Nand) (s : State) : (modNand f s).stats = s.stats := rfl
@[simp] theorem modNand_latched (f : Nand → Nand) (s : State) : (modNand f s).latched = s.latched := rfl

/-! modVat changes `vat` alone. -/

@[simp] theorem modVat_pending (f : Vat → Vat) (s : State) : (modVat f s).pending = s.pending := rfl
@[simp] theorem modVat_out (f : Vat → Vat) (s : State) : (modVat f s).out = s.out := rfl
@[simp] theorem modVat_freeCtr (f : Vat → Vat) (s : State) : (modVat f s).freeCtr = s.freeCtr := rfl
@[simp] theorem modVat_regs (f : Vat → Vat) (s : State) : (modVat f s).regs = s.regs := rfl
@[simp] theorem modVat_mem (f : Vat → Vat) (s : State) : (modVat f s).mem = s.mem := rfl
@[simp] theorem modVat_undef (f : Vat → Vat) (s : State) : (modVat f s).undef = s.undef := rfl
@[simp] theorem modVat_clk (f : Vat → Vat) (s : State) : (modVat f s).clk = s.clk := rfl
@[simp] theorem modVat_evc (f : Vat → Vat) (s : State) : (modVat f s).evc = s.evc := rfl
@[simp] theorem modVat_core (f : Vat → Vat) (s : State) : (modVat f s).core = s.core := rfl
@[simp] theorem modVat_pair (f : Vat → Vat) (s : State) : (modVat f s).pair = s.pair := rfl
@[simp] theorem modVat_epoch (f : Vat → Vat) (s : State) : (modVat f s).epoch = s.epoch := rfl
@[simp] theorem modVat_fault (f : Vat → Vat) (s : State) : (modVat f s).fault = s.fault := rfl
@[simp] theorem modVat_idn (f : Vat → Vat) (s : State) : (modVat f s).idn = s.idn := rfl
@[simp] theorem modVat_doors (f : Vat → Vat) (s : State) : (modVat f s).doors = s.doors := rfl
@[simp] theorem modVat_pool (f : Vat → Vat) (s : State) : (modVat f s).pool = s.pool := rfl
@[simp] theorem modVat_loft (f : Vat → Vat) (s : State) : (modVat f s).loft = s.loft := rfl
@[simp] theorem modVat_tmr (f : Vat → Vat) (s : State) : (modVat f s).tmr = s.tmr := rfl
@[simp] theorem modVat_pins (f : Vat → Vat) (s : State) : (modVat f s).pins = s.pins := rfl
@[simp] theorem modVat_i2c (f : Vat → Vat) (s : State) : (modVat f s).i2c = s.i2c := rfl
@[simp] theorem modVat_tap (f : Vat → Vat) (s : State) : (modVat f s).tap = s.tap := rfl
@[simp] theorem modVat_fans (f : Vat → Vat) (s : State) : (modVat f s).fans = s.fans := rfl
@[simp] theorem modVat_fuses (f : Vat → Vat) (s : State) : (modVat f s).fuses = s.fuses := rfl
@[simp] theorem modVat_nand (f : Vat → Vat) (s : State) : (modVat f s).nand = s.nand := rfl
@[simp] theorem modVat_vat (f : Vat → Vat) (s : State) : (modVat f s).vat = f s.vat := rfl
@[simp] theorem modVat_stock (f : Vat → Vat) (s : State) : (modVat f s).stock = s.stock := rfl
@[simp] theorem modVat_ports (f : Vat → Vat) (s : State) : (modVat f s).ports = s.ports := rfl
@[simp] theorem modVat_mach (f : Vat → Vat) (s : State) : (modVat f s).mach = s.mach := rfl
@[simp] theorem modVat_keys (f : Vat → Vat) (s : State) : (modVat f s).keys = s.keys := rfl
@[simp] theorem modVat_faults (f : Vat → Vat) (s : State) : (modVat f s).faults = s.faults := rfl
@[simp] theorem modVat_panel (f : Vat → Vat) (s : State) : (modVat f s).panel = s.panel := rfl
@[simp] theorem modVat_audio (f : Vat → Vat) (s : State) : (modVat f s).audio = s.audio := rfl
@[simp] theorem modVat_stats (f : Vat → Vat) (s : State) : (modVat f s).stats = s.stats := rfl
@[simp] theorem modVat_latched (f : Vat → Vat) (s : State) : (modVat f s).latched = s.latched := rfl

/-! setFans changes `fans` alone. -/

@[simp] theorem setFans_pending (f : Fans) (s : State) : (setFans f s).pending = s.pending := rfl
@[simp] theorem setFans_out (f : Fans) (s : State) : (setFans f s).out = s.out := rfl
@[simp] theorem setFans_freeCtr (f : Fans) (s : State) : (setFans f s).freeCtr = s.freeCtr := rfl
@[simp] theorem setFans_regs (f : Fans) (s : State) : (setFans f s).regs = s.regs := rfl
@[simp] theorem setFans_mem (f : Fans) (s : State) : (setFans f s).mem = s.mem := rfl
@[simp] theorem setFans_undef (f : Fans) (s : State) : (setFans f s).undef = s.undef := rfl
@[simp] theorem setFans_clk (f : Fans) (s : State) : (setFans f s).clk = s.clk := rfl
@[simp] theorem setFans_evc (f : Fans) (s : State) : (setFans f s).evc = s.evc := rfl
@[simp] theorem setFans_core (f : Fans) (s : State) : (setFans f s).core = s.core := rfl
@[simp] theorem setFans_pair (f : Fans) (s : State) : (setFans f s).pair = s.pair := rfl
@[simp] theorem setFans_epoch (f : Fans) (s : State) : (setFans f s).epoch = s.epoch := rfl
@[simp] theorem setFans_fault (f : Fans) (s : State) : (setFans f s).fault = s.fault := rfl
@[simp] theorem setFans_idn (f : Fans) (s : State) : (setFans f s).idn = s.idn := rfl
@[simp] theorem setFans_doors (f : Fans) (s : State) : (setFans f s).doors = s.doors := rfl
@[simp] theorem setFans_pool (f : Fans) (s : State) : (setFans f s).pool = s.pool := rfl
@[simp] theorem setFans_loft (f : Fans) (s : State) : (setFans f s).loft = s.loft := rfl
@[simp] theorem setFans_tmr (f : Fans) (s : State) : (setFans f s).tmr = s.tmr := rfl
@[simp] theorem setFans_pins (f : Fans) (s : State) : (setFans f s).pins = s.pins := rfl
@[simp] theorem setFans_i2c (f : Fans) (s : State) : (setFans f s).i2c = s.i2c := rfl
@[simp] theorem setFans_tap (f : Fans) (s : State) : (setFans f s).tap = s.tap := rfl
@[simp] theorem setFans_fans (f : Fans) (s : State) : (setFans f s).fans = f := rfl
@[simp] theorem setFans_fuses (f : Fans) (s : State) : (setFans f s).fuses = s.fuses := rfl
@[simp] theorem setFans_nand (f : Fans) (s : State) : (setFans f s).nand = s.nand := rfl
@[simp] theorem setFans_vat (f : Fans) (s : State) : (setFans f s).vat = s.vat := rfl
@[simp] theorem setFans_stock (f : Fans) (s : State) : (setFans f s).stock = s.stock := rfl
@[simp] theorem setFans_ports (f : Fans) (s : State) : (setFans f s).ports = s.ports := rfl
@[simp] theorem setFans_mach (f : Fans) (s : State) : (setFans f s).mach = s.mach := rfl
@[simp] theorem setFans_keys (f : Fans) (s : State) : (setFans f s).keys = s.keys := rfl
@[simp] theorem setFans_faults (f : Fans) (s : State) : (setFans f s).faults = s.faults := rfl
@[simp] theorem setFans_panel (f : Fans) (s : State) : (setFans f s).panel = s.panel := rfl
@[simp] theorem setFans_audio (f : Fans) (s : State) : (setFans f s).audio = s.audio := rfl
@[simp] theorem setFans_stats (f : Fans) (s : State) : (setFans f s).stats = s.stats := rfl
@[simp] theorem setFans_latched (f : Fans) (s : State) : (setFans f s).latched = s.latched := rfl

/-! setTach changes `fans` alone. -/

@[simp] theorem setTach_pending (n : Nat) (t : Tach) (s : State) : (setTach n t s).pending = s.pending := rfl
@[simp] theorem setTach_out (n : Nat) (t : Tach) (s : State) : (setTach n t s).out = s.out := rfl
@[simp] theorem setTach_freeCtr (n : Nat) (t : Tach) (s : State) : (setTach n t s).freeCtr = s.freeCtr := rfl
@[simp] theorem setTach_regs (n : Nat) (t : Tach) (s : State) : (setTach n t s).regs = s.regs := rfl
@[simp] theorem setTach_mem (n : Nat) (t : Tach) (s : State) : (setTach n t s).mem = s.mem := rfl
@[simp] theorem setTach_undef (n : Nat) (t : Tach) (s : State) : (setTach n t s).undef = s.undef := rfl
@[simp] theorem setTach_clk (n : Nat) (t : Tach) (s : State) : (setTach n t s).clk = s.clk := rfl
@[simp] theorem setTach_evc (n : Nat) (t : Tach) (s : State) : (setTach n t s).evc = s.evc := rfl
@[simp] theorem setTach_core (n : Nat) (t : Tach) (s : State) : (setTach n t s).core = s.core := rfl
@[simp] theorem setTach_pair (n : Nat) (t : Tach) (s : State) : (setTach n t s).pair = s.pair := rfl
@[simp] theorem setTach_epoch (n : Nat) (t : Tach) (s : State) : (setTach n t s).epoch = s.epoch := rfl
@[simp] theorem setTach_fault (n : Nat) (t : Tach) (s : State) : (setTach n t s).fault = s.fault := rfl
@[simp] theorem setTach_idn (n : Nat) (t : Tach) (s : State) : (setTach n t s).idn = s.idn := rfl
@[simp] theorem setTach_doors (n : Nat) (t : Tach) (s : State) : (setTach n t s).doors = s.doors := rfl
@[simp] theorem setTach_pool (n : Nat) (t : Tach) (s : State) : (setTach n t s).pool = s.pool := rfl
@[simp] theorem setTach_loft (n : Nat) (t : Tach) (s : State) : (setTach n t s).loft = s.loft := rfl
@[simp] theorem setTach_tmr (n : Nat) (t : Tach) (s : State) : (setTach n t s).tmr = s.tmr := rfl
@[simp] theorem setTach_pins (n : Nat) (t : Tach) (s : State) : (setTach n t s).pins = s.pins := rfl
@[simp] theorem setTach_i2c (n : Nat) (t : Tach) (s : State) : (setTach n t s).i2c = s.i2c := rfl
@[simp] theorem setTach_tap (n : Nat) (t : Tach) (s : State) : (setTach n t s).tap = s.tap := rfl
@[simp] theorem setTach_fuses (n : Nat) (t : Tach) (s : State) : (setTach n t s).fuses = s.fuses := rfl
@[simp] theorem setTach_nand (n : Nat) (t : Tach) (s : State) : (setTach n t s).nand = s.nand := rfl
@[simp] theorem setTach_vat (n : Nat) (t : Tach) (s : State) : (setTach n t s).vat = s.vat := rfl
@[simp] theorem setTach_stock (n : Nat) (t : Tach) (s : State) : (setTach n t s).stock = s.stock := rfl
@[simp] theorem setTach_ports (n : Nat) (t : Tach) (s : State) : (setTach n t s).ports = s.ports := rfl
@[simp] theorem setTach_mach (n : Nat) (t : Tach) (s : State) : (setTach n t s).mach = s.mach := rfl
@[simp] theorem setTach_keys (n : Nat) (t : Tach) (s : State) : (setTach n t s).keys = s.keys := rfl
@[simp] theorem setTach_faults (n : Nat) (t : Tach) (s : State) : (setTach n t s).faults = s.faults := rfl
@[simp] theorem setTach_panel (n : Nat) (t : Tach) (s : State) : (setTach n t s).panel = s.panel := rfl
@[simp] theorem setTach_audio (n : Nat) (t : Tach) (s : State) : (setTach n t s).audio = s.audio := rfl
@[simp] theorem setTach_stats (n : Nat) (t : Tach) (s : State) : (setTach n t s).stats = s.stats := rfl
@[simp] theorem setTach_latched (n : Nat) (t : Tach) (s : State) : (setTach n t s).latched = s.latched := rfl

/-! setPins changes `pins` alone. -/

@[simp] theorem setPins_pending (p : Pins) (s : State) : (setPins p s).pending = s.pending := rfl
@[simp] theorem setPins_out (p : Pins) (s : State) : (setPins p s).out = s.out := rfl
@[simp] theorem setPins_freeCtr (p : Pins) (s : State) : (setPins p s).freeCtr = s.freeCtr := rfl
@[simp] theorem setPins_regs (p : Pins) (s : State) : (setPins p s).regs = s.regs := rfl
@[simp] theorem setPins_mem (p : Pins) (s : State) : (setPins p s).mem = s.mem := rfl
@[simp] theorem setPins_undef (p : Pins) (s : State) : (setPins p s).undef = s.undef := rfl
@[simp] theorem setPins_clk (p : Pins) (s : State) : (setPins p s).clk = s.clk := rfl
@[simp] theorem setPins_evc (p : Pins) (s : State) : (setPins p s).evc = s.evc := rfl
@[simp] theorem setPins_core (p : Pins) (s : State) : (setPins p s).core = s.core := rfl
@[simp] theorem setPins_pair (p : Pins) (s : State) : (setPins p s).pair = s.pair := rfl
@[simp] theorem setPins_epoch (p : Pins) (s : State) : (setPins p s).epoch = s.epoch := rfl
@[simp] theorem setPins_fault (p : Pins) (s : State) : (setPins p s).fault = s.fault := rfl
@[simp] theorem setPins_idn (p : Pins) (s : State) : (setPins p s).idn = s.idn := rfl
@[simp] theorem setPins_doors (p : Pins) (s : State) : (setPins p s).doors = s.doors := rfl
@[simp] theorem setPins_pool (p : Pins) (s : State) : (setPins p s).pool = s.pool := rfl
@[simp] theorem setPins_loft (p : Pins) (s : State) : (setPins p s).loft = s.loft := rfl
@[simp] theorem setPins_tmr (p : Pins) (s : State) : (setPins p s).tmr = s.tmr := rfl
@[simp] theorem setPins_pins (p : Pins) (s : State) : (setPins p s).pins = p := rfl
@[simp] theorem setPins_i2c (p : Pins) (s : State) : (setPins p s).i2c = s.i2c := rfl
@[simp] theorem setPins_tap (p : Pins) (s : State) : (setPins p s).tap = s.tap := rfl
@[simp] theorem setPins_fans (p : Pins) (s : State) : (setPins p s).fans = s.fans := rfl
@[simp] theorem setPins_fuses (p : Pins) (s : State) : (setPins p s).fuses = s.fuses := rfl
@[simp] theorem setPins_nand (p : Pins) (s : State) : (setPins p s).nand = s.nand := rfl
@[simp] theorem setPins_vat (p : Pins) (s : State) : (setPins p s).vat = s.vat := rfl
@[simp] theorem setPins_stock (p : Pins) (s : State) : (setPins p s).stock = s.stock := rfl
@[simp] theorem setPins_ports (p : Pins) (s : State) : (setPins p s).ports = s.ports := rfl
@[simp] theorem setPins_mach (p : Pins) (s : State) : (setPins p s).mach = s.mach := rfl
@[simp] theorem setPins_keys (p : Pins) (s : State) : (setPins p s).keys = s.keys := rfl
@[simp] theorem setPins_faults (p : Pins) (s : State) : (setPins p s).faults = s.faults := rfl
@[simp] theorem setPins_panel (p : Pins) (s : State) : (setPins p s).panel = s.panel := rfl
@[simp] theorem setPins_audio (p : Pins) (s : State) : (setPins p s).audio = s.audio := rfl
@[simp] theorem setPins_stats (p : Pins) (s : State) : (setPins p s).stats = s.stats := rfl
@[simp] theorem setPins_latched (p : Pins) (s : State) : (setPins p s).latched = s.latched := rfl

/-! setI2c changes `i2c` alone. -/

@[simp] theorem setI2c_pending (n : Nat) (c : I2cCtl) (s : State) : (setI2c n c s).pending = s.pending := rfl
@[simp] theorem setI2c_out (n : Nat) (c : I2cCtl) (s : State) : (setI2c n c s).out = s.out := rfl
@[simp] theorem setI2c_freeCtr (n : Nat) (c : I2cCtl) (s : State) : (setI2c n c s).freeCtr = s.freeCtr := rfl
@[simp] theorem setI2c_regs (n : Nat) (c : I2cCtl) (s : State) : (setI2c n c s).regs = s.regs := rfl
@[simp] theorem setI2c_mem (n : Nat) (c : I2cCtl) (s : State) : (setI2c n c s).mem = s.mem := rfl
@[simp] theorem setI2c_undef (n : Nat) (c : I2cCtl) (s : State) : (setI2c n c s).undef = s.undef := rfl
@[simp] theorem setI2c_clk (n : Nat) (c : I2cCtl) (s : State) : (setI2c n c s).clk = s.clk := rfl
@[simp] theorem setI2c_evc (n : Nat) (c : I2cCtl) (s : State) : (setI2c n c s).evc = s.evc := rfl
@[simp] theorem setI2c_core (n : Nat) (c : I2cCtl) (s : State) : (setI2c n c s).core = s.core := rfl
@[simp] theorem setI2c_pair (n : Nat) (c : I2cCtl) (s : State) : (setI2c n c s).pair = s.pair := rfl
@[simp] theorem setI2c_epoch (n : Nat) (c : I2cCtl) (s : State) : (setI2c n c s).epoch = s.epoch := rfl
@[simp] theorem setI2c_fault (n : Nat) (c : I2cCtl) (s : State) : (setI2c n c s).fault = s.fault := rfl
@[simp] theorem setI2c_idn (n : Nat) (c : I2cCtl) (s : State) : (setI2c n c s).idn = s.idn := rfl
@[simp] theorem setI2c_doors (n : Nat) (c : I2cCtl) (s : State) : (setI2c n c s).doors = s.doors := rfl
@[simp] theorem setI2c_pool (n : Nat) (c : I2cCtl) (s : State) : (setI2c n c s).pool = s.pool := rfl
@[simp] theorem setI2c_loft (n : Nat) (c : I2cCtl) (s : State) : (setI2c n c s).loft = s.loft := rfl
@[simp] theorem setI2c_tmr (n : Nat) (c : I2cCtl) (s : State) : (setI2c n c s).tmr = s.tmr := rfl
@[simp] theorem setI2c_pins (n : Nat) (c : I2cCtl) (s : State) : (setI2c n c s).pins = s.pins := rfl
@[simp] theorem setI2c_i2c (n : Nat) (c : I2cCtl) (s : State) : (setI2c n c s).i2c = tset {} s.i2c n c := rfl
@[simp] theorem setI2c_tap (n : Nat) (c : I2cCtl) (s : State) : (setI2c n c s).tap = s.tap := rfl
@[simp] theorem setI2c_fans (n : Nat) (c : I2cCtl) (s : State) : (setI2c n c s).fans = s.fans := rfl
@[simp] theorem setI2c_fuses (n : Nat) (c : I2cCtl) (s : State) : (setI2c n c s).fuses = s.fuses := rfl
@[simp] theorem setI2c_nand (n : Nat) (c : I2cCtl) (s : State) : (setI2c n c s).nand = s.nand := rfl
@[simp] theorem setI2c_vat (n : Nat) (c : I2cCtl) (s : State) : (setI2c n c s).vat = s.vat := rfl
@[simp] theorem setI2c_stock (n : Nat) (c : I2cCtl) (s : State) : (setI2c n c s).stock = s.stock := rfl
@[simp] theorem setI2c_ports (n : Nat) (c : I2cCtl) (s : State) : (setI2c n c s).ports = s.ports := rfl
@[simp] theorem setI2c_mach (n : Nat) (c : I2cCtl) (s : State) : (setI2c n c s).mach = s.mach := rfl
@[simp] theorem setI2c_keys (n : Nat) (c : I2cCtl) (s : State) : (setI2c n c s).keys = s.keys := rfl
@[simp] theorem setI2c_faults (n : Nat) (c : I2cCtl) (s : State) : (setI2c n c s).faults = s.faults := rfl
@[simp] theorem setI2c_panel (n : Nat) (c : I2cCtl) (s : State) : (setI2c n c s).panel = s.panel := rfl
@[simp] theorem setI2c_audio (n : Nat) (c : I2cCtl) (s : State) : (setI2c n c s).audio = s.audio := rfl
@[simp] theorem setI2c_stats (n : Nat) (c : I2cCtl) (s : State) : (setI2c n c s).stats = s.stats := rfl
@[simp] theorem setI2c_latched (n : Nat) (c : I2cCtl) (s : State) : (setI2c n c s).latched = s.latched := rfl

/-! setFaults changes `faults` alone. -/

@[simp] theorem setFaults_pending (f : Faults → Faults) (s : State) : (setFaults f s).pending = s.pending := rfl
@[simp] theorem setFaults_out (f : Faults → Faults) (s : State) : (setFaults f s).out = s.out := rfl
@[simp] theorem setFaults_freeCtr (f : Faults → Faults) (s : State) : (setFaults f s).freeCtr = s.freeCtr := rfl
@[simp] theorem setFaults_regs (f : Faults → Faults) (s : State) : (setFaults f s).regs = s.regs := rfl
@[simp] theorem setFaults_mem (f : Faults → Faults) (s : State) : (setFaults f s).mem = s.mem := rfl
@[simp] theorem setFaults_undef (f : Faults → Faults) (s : State) : (setFaults f s).undef = s.undef := rfl
@[simp] theorem setFaults_clk (f : Faults → Faults) (s : State) : (setFaults f s).clk = s.clk := rfl
@[simp] theorem setFaults_evc (f : Faults → Faults) (s : State) : (setFaults f s).evc = s.evc := rfl
@[simp] theorem setFaults_core (f : Faults → Faults) (s : State) : (setFaults f s).core = s.core := rfl
@[simp] theorem setFaults_pair (f : Faults → Faults) (s : State) : (setFaults f s).pair = s.pair := rfl
@[simp] theorem setFaults_epoch (f : Faults → Faults) (s : State) : (setFaults f s).epoch = s.epoch := rfl
@[simp] theorem setFaults_fault (f : Faults → Faults) (s : State) : (setFaults f s).fault = s.fault := rfl
@[simp] theorem setFaults_idn (f : Faults → Faults) (s : State) : (setFaults f s).idn = s.idn := rfl
@[simp] theorem setFaults_doors (f : Faults → Faults) (s : State) : (setFaults f s).doors = s.doors := rfl
@[simp] theorem setFaults_pool (f : Faults → Faults) (s : State) : (setFaults f s).pool = s.pool := rfl
@[simp] theorem setFaults_loft (f : Faults → Faults) (s : State) : (setFaults f s).loft = s.loft := rfl
@[simp] theorem setFaults_tmr (f : Faults → Faults) (s : State) : (setFaults f s).tmr = s.tmr := rfl
@[simp] theorem setFaults_pins (f : Faults → Faults) (s : State) : (setFaults f s).pins = s.pins := rfl
@[simp] theorem setFaults_i2c (f : Faults → Faults) (s : State) : (setFaults f s).i2c = s.i2c := rfl
@[simp] theorem setFaults_tap (f : Faults → Faults) (s : State) : (setFaults f s).tap = s.tap := rfl
@[simp] theorem setFaults_fans (f : Faults → Faults) (s : State) : (setFaults f s).fans = s.fans := rfl
@[simp] theorem setFaults_fuses (f : Faults → Faults) (s : State) : (setFaults f s).fuses = s.fuses := rfl
@[simp] theorem setFaults_nand (f : Faults → Faults) (s : State) : (setFaults f s).nand = s.nand := rfl
@[simp] theorem setFaults_vat (f : Faults → Faults) (s : State) : (setFaults f s).vat = s.vat := rfl
@[simp] theorem setFaults_stock (f : Faults → Faults) (s : State) : (setFaults f s).stock = s.stock := rfl
@[simp] theorem setFaults_ports (f : Faults → Faults) (s : State) : (setFaults f s).ports = s.ports := rfl
@[simp] theorem setFaults_mach (f : Faults → Faults) (s : State) : (setFaults f s).mach = s.mach := rfl
@[simp] theorem setFaults_keys (f : Faults → Faults) (s : State) : (setFaults f s).keys = s.keys := rfl
@[simp] theorem setFaults_faults (f : Faults → Faults) (s : State) : (setFaults f s).faults = f s.faults := rfl
@[simp] theorem setFaults_panel (f : Faults → Faults) (s : State) : (setFaults f s).panel = s.panel := rfl
@[simp] theorem setFaults_audio (f : Faults → Faults) (s : State) : (setFaults f s).audio = s.audio := rfl
@[simp] theorem setFaults_stats (f : Faults → Faults) (s : State) : (setFaults f s).stats = s.stats := rfl
@[simp] theorem setFaults_latched (f : Faults → Faults) (s : State) : (setFaults f s).latched = s.latched := rfl

/-! setPort changes `ports` alone. -/

@[simp] theorem setPort_pending (q : Nat) (p : Port) (s : State) : (setPort q p s).pending = s.pending := rfl
@[simp] theorem setPort_out (q : Nat) (p : Port) (s : State) : (setPort q p s).out = s.out := rfl
@[simp] theorem setPort_freeCtr (q : Nat) (p : Port) (s : State) : (setPort q p s).freeCtr = s.freeCtr := rfl
@[simp] theorem setPort_regs (q : Nat) (p : Port) (s : State) : (setPort q p s).regs = s.regs := rfl
@[simp] theorem setPort_mem (q : Nat) (p : Port) (s : State) : (setPort q p s).mem = s.mem := rfl
@[simp] theorem setPort_undef (q : Nat) (p : Port) (s : State) : (setPort q p s).undef = s.undef := rfl
@[simp] theorem setPort_clk (q : Nat) (p : Port) (s : State) : (setPort q p s).clk = s.clk := rfl
@[simp] theorem setPort_evc (q : Nat) (p : Port) (s : State) : (setPort q p s).evc = s.evc := rfl
@[simp] theorem setPort_core (q : Nat) (p : Port) (s : State) : (setPort q p s).core = s.core := rfl
@[simp] theorem setPort_pair (q : Nat) (p : Port) (s : State) : (setPort q p s).pair = s.pair := rfl
@[simp] theorem setPort_epoch (q : Nat) (p : Port) (s : State) : (setPort q p s).epoch = s.epoch := rfl
@[simp] theorem setPort_fault (q : Nat) (p : Port) (s : State) : (setPort q p s).fault = s.fault := rfl
@[simp] theorem setPort_idn (q : Nat) (p : Port) (s : State) : (setPort q p s).idn = s.idn := rfl
@[simp] theorem setPort_doors (q : Nat) (p : Port) (s : State) : (setPort q p s).doors = s.doors := rfl
@[simp] theorem setPort_pool (q : Nat) (p : Port) (s : State) : (setPort q p s).pool = s.pool := rfl
@[simp] theorem setPort_loft (q : Nat) (p : Port) (s : State) : (setPort q p s).loft = s.loft := rfl
@[simp] theorem setPort_tmr (q : Nat) (p : Port) (s : State) : (setPort q p s).tmr = s.tmr := rfl
@[simp] theorem setPort_pins (q : Nat) (p : Port) (s : State) : (setPort q p s).pins = s.pins := rfl
@[simp] theorem setPort_i2c (q : Nat) (p : Port) (s : State) : (setPort q p s).i2c = s.i2c := rfl
@[simp] theorem setPort_tap (q : Nat) (p : Port) (s : State) : (setPort q p s).tap = s.tap := rfl
@[simp] theorem setPort_fans (q : Nat) (p : Port) (s : State) : (setPort q p s).fans = s.fans := rfl
@[simp] theorem setPort_fuses (q : Nat) (p : Port) (s : State) : (setPort q p s).fuses = s.fuses := rfl
@[simp] theorem setPort_nand (q : Nat) (p : Port) (s : State) : (setPort q p s).nand = s.nand := rfl
@[simp] theorem setPort_vat (q : Nat) (p : Port) (s : State) : (setPort q p s).vat = s.vat := rfl
@[simp] theorem setPort_stock (q : Nat) (p : Port) (s : State) : (setPort q p s).stock = s.stock := rfl
@[simp] theorem setPort_ports (q : Nat) (p : Port) (s : State) : (setPort q p s).ports = tset {} s.ports q p := rfl
@[simp] theorem setPort_mach (q : Nat) (p : Port) (s : State) : (setPort q p s).mach = s.mach := rfl
@[simp] theorem setPort_keys (q : Nat) (p : Port) (s : State) : (setPort q p s).keys = s.keys := rfl
@[simp] theorem setPort_faults (q : Nat) (p : Port) (s : State) : (setPort q p s).faults = s.faults := rfl
@[simp] theorem setPort_panel (q : Nat) (p : Port) (s : State) : (setPort q p s).panel = s.panel := rfl
@[simp] theorem setPort_audio (q : Nat) (p : Port) (s : State) : (setPort q p s).audio = s.audio := rfl
@[simp] theorem setPort_stats (q : Nat) (p : Port) (s : State) : (setPort q p s).stats = s.stats := rfl
@[simp] theorem setPort_latched (q : Nat) (p : Port) (s : State) : (setPort q p s).latched = s.latched := rfl

/-! cntAdd changes `stats` alone. -/

@[simp] theorem cntAdd_pending (a n : Nat) (s : State) : (cntAdd a n s).pending = s.pending := rfl
@[simp] theorem cntAdd_out (a n : Nat) (s : State) : (cntAdd a n s).out = s.out := rfl
@[simp] theorem cntAdd_freeCtr (a n : Nat) (s : State) : (cntAdd a n s).freeCtr = s.freeCtr := rfl
@[simp] theorem cntAdd_regs (a n : Nat) (s : State) : (cntAdd a n s).regs = s.regs := rfl
@[simp] theorem cntAdd_mem (a n : Nat) (s : State) : (cntAdd a n s).mem = s.mem := rfl
@[simp] theorem cntAdd_undef (a n : Nat) (s : State) : (cntAdd a n s).undef = s.undef := rfl
@[simp] theorem cntAdd_clk (a n : Nat) (s : State) : (cntAdd a n s).clk = s.clk := rfl
@[simp] theorem cntAdd_evc (a n : Nat) (s : State) : (cntAdd a n s).evc = s.evc := rfl
@[simp] theorem cntAdd_core (a n : Nat) (s : State) : (cntAdd a n s).core = s.core := rfl
@[simp] theorem cntAdd_pair (a n : Nat) (s : State) : (cntAdd a n s).pair = s.pair := rfl
@[simp] theorem cntAdd_epoch (a n : Nat) (s : State) : (cntAdd a n s).epoch = s.epoch := rfl
@[simp] theorem cntAdd_fault (a n : Nat) (s : State) : (cntAdd a n s).fault = s.fault := rfl
@[simp] theorem cntAdd_idn (a n : Nat) (s : State) : (cntAdd a n s).idn = s.idn := rfl
@[simp] theorem cntAdd_doors (a n : Nat) (s : State) : (cntAdd a n s).doors = s.doors := rfl
@[simp] theorem cntAdd_pool (a n : Nat) (s : State) : (cntAdd a n s).pool = s.pool := rfl
@[simp] theorem cntAdd_loft (a n : Nat) (s : State) : (cntAdd a n s).loft = s.loft := rfl
@[simp] theorem cntAdd_tmr (a n : Nat) (s : State) : (cntAdd a n s).tmr = s.tmr := rfl
@[simp] theorem cntAdd_pins (a n : Nat) (s : State) : (cntAdd a n s).pins = s.pins := rfl
@[simp] theorem cntAdd_i2c (a n : Nat) (s : State) : (cntAdd a n s).i2c = s.i2c := rfl
@[simp] theorem cntAdd_tap (a n : Nat) (s : State) : (cntAdd a n s).tap = s.tap := rfl
@[simp] theorem cntAdd_fans (a n : Nat) (s : State) : (cntAdd a n s).fans = s.fans := rfl
@[simp] theorem cntAdd_fuses (a n : Nat) (s : State) : (cntAdd a n s).fuses = s.fuses := rfl
@[simp] theorem cntAdd_nand (a n : Nat) (s : State) : (cntAdd a n s).nand = s.nand := rfl
@[simp] theorem cntAdd_vat (a n : Nat) (s : State) : (cntAdd a n s).vat = s.vat := rfl
@[simp] theorem cntAdd_stock (a n : Nat) (s : State) : (cntAdd a n s).stock = s.stock := rfl
@[simp] theorem cntAdd_ports (a n : Nat) (s : State) : (cntAdd a n s).ports = s.ports := rfl
@[simp] theorem cntAdd_mach (a n : Nat) (s : State) : (cntAdd a n s).mach = s.mach := rfl
@[simp] theorem cntAdd_keys (a n : Nat) (s : State) : (cntAdd a n s).keys = s.keys := rfl
@[simp] theorem cntAdd_faults (a n : Nat) (s : State) : (cntAdd a n s).faults = s.faults := rfl
@[simp] theorem cntAdd_panel (a n : Nat) (s : State) : (cntAdd a n s).panel = s.panel := rfl
@[simp] theorem cntAdd_audio (a n : Nat) (s : State) : (cntAdd a n s).audio = s.audio := rfl
@[simp] theorem cntAdd_stats (a n : Nat) (s : State) : (cntAdd a n s).stats = tset 0 s.stats a (satAdd 64 (cnt s a) n) := rfl
@[simp] theorem cntAdd_latched (a n : Nat) (s : State) : (cntAdd a n s).latched = s.latched := rfl

/-! cntClr changes `stats` alone. -/

@[simp] theorem cntClr_pending (a : Nat) (s : State) : (cntClr a s).pending = s.pending := rfl
@[simp] theorem cntClr_out (a : Nat) (s : State) : (cntClr a s).out = s.out := rfl
@[simp] theorem cntClr_freeCtr (a : Nat) (s : State) : (cntClr a s).freeCtr = s.freeCtr := rfl
@[simp] theorem cntClr_regs (a : Nat) (s : State) : (cntClr a s).regs = s.regs := rfl
@[simp] theorem cntClr_mem (a : Nat) (s : State) : (cntClr a s).mem = s.mem := rfl
@[simp] theorem cntClr_undef (a : Nat) (s : State) : (cntClr a s).undef = s.undef := rfl
@[simp] theorem cntClr_clk (a : Nat) (s : State) : (cntClr a s).clk = s.clk := rfl
@[simp] theorem cntClr_evc (a : Nat) (s : State) : (cntClr a s).evc = s.evc := rfl
@[simp] theorem cntClr_core (a : Nat) (s : State) : (cntClr a s).core = s.core := rfl
@[simp] theorem cntClr_pair (a : Nat) (s : State) : (cntClr a s).pair = s.pair := rfl
@[simp] theorem cntClr_epoch (a : Nat) (s : State) : (cntClr a s).epoch = s.epoch := rfl
@[simp] theorem cntClr_fault (a : Nat) (s : State) : (cntClr a s).fault = s.fault := rfl
@[simp] theorem cntClr_idn (a : Nat) (s : State) : (cntClr a s).idn = s.idn := rfl
@[simp] theorem cntClr_doors (a : Nat) (s : State) : (cntClr a s).doors = s.doors := rfl
@[simp] theorem cntClr_pool (a : Nat) (s : State) : (cntClr a s).pool = s.pool := rfl
@[simp] theorem cntClr_loft (a : Nat) (s : State) : (cntClr a s).loft = s.loft := rfl
@[simp] theorem cntClr_tmr (a : Nat) (s : State) : (cntClr a s).tmr = s.tmr := rfl
@[simp] theorem cntClr_pins (a : Nat) (s : State) : (cntClr a s).pins = s.pins := rfl
@[simp] theorem cntClr_i2c (a : Nat) (s : State) : (cntClr a s).i2c = s.i2c := rfl
@[simp] theorem cntClr_tap (a : Nat) (s : State) : (cntClr a s).tap = s.tap := rfl
@[simp] theorem cntClr_fans (a : Nat) (s : State) : (cntClr a s).fans = s.fans := rfl
@[simp] theorem cntClr_fuses (a : Nat) (s : State) : (cntClr a s).fuses = s.fuses := rfl
@[simp] theorem cntClr_nand (a : Nat) (s : State) : (cntClr a s).nand = s.nand := rfl
@[simp] theorem cntClr_vat (a : Nat) (s : State) : (cntClr a s).vat = s.vat := rfl
@[simp] theorem cntClr_stock (a : Nat) (s : State) : (cntClr a s).stock = s.stock := rfl
@[simp] theorem cntClr_ports (a : Nat) (s : State) : (cntClr a s).ports = s.ports := rfl
@[simp] theorem cntClr_mach (a : Nat) (s : State) : (cntClr a s).mach = s.mach := rfl
@[simp] theorem cntClr_keys (a : Nat) (s : State) : (cntClr a s).keys = s.keys := rfl
@[simp] theorem cntClr_faults (a : Nat) (s : State) : (cntClr a s).faults = s.faults := rfl
@[simp] theorem cntClr_panel (a : Nat) (s : State) : (cntClr a s).panel = s.panel := rfl
@[simp] theorem cntClr_audio (a : Nat) (s : State) : (cntClr a s).audio = s.audio := rfl
@[simp] theorem cntClr_stats (a : Nat) (s : State) : (cntClr a s).stats = tset 0 s.stats a 0 := rfl
@[simp] theorem cntClr_latched (a : Nat) (s : State) : (cntClr a s).latched = s.latched := rfl

/-! setFrames changes `mach` alone. -/

@[simp] theorem setFrames_pending (l : List Sheet) (s : State) : (setFrames l s).pending = s.pending := rfl
@[simp] theorem setFrames_out (l : List Sheet) (s : State) : (setFrames l s).out = s.out := rfl
@[simp] theorem setFrames_freeCtr (l : List Sheet) (s : State) : (setFrames l s).freeCtr = s.freeCtr := rfl
@[simp] theorem setFrames_regs (l : List Sheet) (s : State) : (setFrames l s).regs = s.regs := rfl
@[simp] theorem setFrames_mem (l : List Sheet) (s : State) : (setFrames l s).mem = s.mem := rfl
@[simp] theorem setFrames_undef (l : List Sheet) (s : State) : (setFrames l s).undef = s.undef := rfl
@[simp] theorem setFrames_clk (l : List Sheet) (s : State) : (setFrames l s).clk = s.clk := rfl
@[simp] theorem setFrames_evc (l : List Sheet) (s : State) : (setFrames l s).evc = s.evc := rfl
@[simp] theorem setFrames_core (l : List Sheet) (s : State) : (setFrames l s).core = s.core := rfl
@[simp] theorem setFrames_pair (l : List Sheet) (s : State) : (setFrames l s).pair = s.pair := rfl
@[simp] theorem setFrames_epoch (l : List Sheet) (s : State) : (setFrames l s).epoch = s.epoch := rfl
@[simp] theorem setFrames_fault (l : List Sheet) (s : State) : (setFrames l s).fault = s.fault := rfl
@[simp] theorem setFrames_idn (l : List Sheet) (s : State) : (setFrames l s).idn = s.idn := rfl
@[simp] theorem setFrames_doors (l : List Sheet) (s : State) : (setFrames l s).doors = s.doors := rfl
@[simp] theorem setFrames_pool (l : List Sheet) (s : State) : (setFrames l s).pool = s.pool := rfl
@[simp] theorem setFrames_loft (l : List Sheet) (s : State) : (setFrames l s).loft = s.loft := rfl
@[simp] theorem setFrames_tmr (l : List Sheet) (s : State) : (setFrames l s).tmr = s.tmr := rfl
@[simp] theorem setFrames_pins (l : List Sheet) (s : State) : (setFrames l s).pins = s.pins := rfl
@[simp] theorem setFrames_i2c (l : List Sheet) (s : State) : (setFrames l s).i2c = s.i2c := rfl
@[simp] theorem setFrames_tap (l : List Sheet) (s : State) : (setFrames l s).tap = s.tap := rfl
@[simp] theorem setFrames_fans (l : List Sheet) (s : State) : (setFrames l s).fans = s.fans := rfl
@[simp] theorem setFrames_fuses (l : List Sheet) (s : State) : (setFrames l s).fuses = s.fuses := rfl
@[simp] theorem setFrames_nand (l : List Sheet) (s : State) : (setFrames l s).nand = s.nand := rfl
@[simp] theorem setFrames_vat (l : List Sheet) (s : State) : (setFrames l s).vat = s.vat := rfl
@[simp] theorem setFrames_stock (l : List Sheet) (s : State) : (setFrames l s).stock = s.stock := rfl
@[simp] theorem setFrames_ports (l : List Sheet) (s : State) : (setFrames l s).ports = s.ports := rfl
@[simp] theorem setFrames_keys (l : List Sheet) (s : State) : (setFrames l s).keys = s.keys := rfl
@[simp] theorem setFrames_faults (l : List Sheet) (s : State) : (setFrames l s).faults = s.faults := rfl
@[simp] theorem setFrames_panel (l : List Sheet) (s : State) : (setFrames l s).panel = s.panel := rfl
@[simp] theorem setFrames_audio (l : List Sheet) (s : State) : (setFrames l s).audio = s.audio := rfl
@[simp] theorem setFrames_stats (l : List Sheet) (s : State) : (setFrames l s).stats = s.stats := rfl
@[simp] theorem setFrames_latched (l : List Sheet) (s : State) : (setFrames l s).latched = s.latched := rfl

/-! modFrm changes `mach` alone. -/

@[simp] theorem modFrm_pending (i : Nat) (f : Sheet → Sheet) (s : State) : (modFrm i f s).pending = s.pending := rfl
@[simp] theorem modFrm_out (i : Nat) (f : Sheet → Sheet) (s : State) : (modFrm i f s).out = s.out := rfl
@[simp] theorem modFrm_freeCtr (i : Nat) (f : Sheet → Sheet) (s : State) : (modFrm i f s).freeCtr = s.freeCtr := rfl
@[simp] theorem modFrm_regs (i : Nat) (f : Sheet → Sheet) (s : State) : (modFrm i f s).regs = s.regs := rfl
@[simp] theorem modFrm_mem (i : Nat) (f : Sheet → Sheet) (s : State) : (modFrm i f s).mem = s.mem := rfl
@[simp] theorem modFrm_undef (i : Nat) (f : Sheet → Sheet) (s : State) : (modFrm i f s).undef = s.undef := rfl
@[simp] theorem modFrm_clk (i : Nat) (f : Sheet → Sheet) (s : State) : (modFrm i f s).clk = s.clk := rfl
@[simp] theorem modFrm_evc (i : Nat) (f : Sheet → Sheet) (s : State) : (modFrm i f s).evc = s.evc := rfl
@[simp] theorem modFrm_core (i : Nat) (f : Sheet → Sheet) (s : State) : (modFrm i f s).core = s.core := rfl
@[simp] theorem modFrm_pair (i : Nat) (f : Sheet → Sheet) (s : State) : (modFrm i f s).pair = s.pair := rfl
@[simp] theorem modFrm_epoch (i : Nat) (f : Sheet → Sheet) (s : State) : (modFrm i f s).epoch = s.epoch := rfl
@[simp] theorem modFrm_fault (i : Nat) (f : Sheet → Sheet) (s : State) : (modFrm i f s).fault = s.fault := rfl
@[simp] theorem modFrm_idn (i : Nat) (f : Sheet → Sheet) (s : State) : (modFrm i f s).idn = s.idn := rfl
@[simp] theorem modFrm_doors (i : Nat) (f : Sheet → Sheet) (s : State) : (modFrm i f s).doors = s.doors := rfl
@[simp] theorem modFrm_pool (i : Nat) (f : Sheet → Sheet) (s : State) : (modFrm i f s).pool = s.pool := rfl
@[simp] theorem modFrm_loft (i : Nat) (f : Sheet → Sheet) (s : State) : (modFrm i f s).loft = s.loft := rfl
@[simp] theorem modFrm_tmr (i : Nat) (f : Sheet → Sheet) (s : State) : (modFrm i f s).tmr = s.tmr := rfl
@[simp] theorem modFrm_pins (i : Nat) (f : Sheet → Sheet) (s : State) : (modFrm i f s).pins = s.pins := rfl
@[simp] theorem modFrm_i2c (i : Nat) (f : Sheet → Sheet) (s : State) : (modFrm i f s).i2c = s.i2c := rfl
@[simp] theorem modFrm_tap (i : Nat) (f : Sheet → Sheet) (s : State) : (modFrm i f s).tap = s.tap := rfl
@[simp] theorem modFrm_fans (i : Nat) (f : Sheet → Sheet) (s : State) : (modFrm i f s).fans = s.fans := rfl
@[simp] theorem modFrm_fuses (i : Nat) (f : Sheet → Sheet) (s : State) : (modFrm i f s).fuses = s.fuses := rfl
@[simp] theorem modFrm_nand (i : Nat) (f : Sheet → Sheet) (s : State) : (modFrm i f s).nand = s.nand := rfl
@[simp] theorem modFrm_vat (i : Nat) (f : Sheet → Sheet) (s : State) : (modFrm i f s).vat = s.vat := rfl
@[simp] theorem modFrm_stock (i : Nat) (f : Sheet → Sheet) (s : State) : (modFrm i f s).stock = s.stock := rfl
@[simp] theorem modFrm_ports (i : Nat) (f : Sheet → Sheet) (s : State) : (modFrm i f s).ports = s.ports := rfl
@[simp] theorem modFrm_keys (i : Nat) (f : Sheet → Sheet) (s : State) : (modFrm i f s).keys = s.keys := rfl
@[simp] theorem modFrm_faults (i : Nat) (f : Sheet → Sheet) (s : State) : (modFrm i f s).faults = s.faults := rfl
@[simp] theorem modFrm_panel (i : Nat) (f : Sheet → Sheet) (s : State) : (modFrm i f s).panel = s.panel := rfl
@[simp] theorem modFrm_audio (i : Nat) (f : Sheet → Sheet) (s : State) : (modFrm i f s).audio = s.audio := rfl
@[simp] theorem modFrm_stats (i : Nat) (f : Sheet → Sheet) (s : State) : (modFrm i f s).stats = s.stats := rfl
@[simp] theorem modFrm_latched (i : Nat) (f : Sheet → Sheet) (s : State) : (modFrm i f s).latched = s.latched := rfl

/-! setLane changes `mach` alone. -/

@[simp] theorem setLane_pending (i : Nat) (l : PLane) (s : State) : (setLane i l s).pending = s.pending := rfl
@[simp] theorem setLane_out (i : Nat) (l : PLane) (s : State) : (setLane i l s).out = s.out := rfl
@[simp] theorem setLane_freeCtr (i : Nat) (l : PLane) (s : State) : (setLane i l s).freeCtr = s.freeCtr := rfl
@[simp] theorem setLane_regs (i : Nat) (l : PLane) (s : State) : (setLane i l s).regs = s.regs := rfl
@[simp] theorem setLane_mem (i : Nat) (l : PLane) (s : State) : (setLane i l s).mem = s.mem := rfl
@[simp] theorem setLane_undef (i : Nat) (l : PLane) (s : State) : (setLane i l s).undef = s.undef := rfl
@[simp] theorem setLane_clk (i : Nat) (l : PLane) (s : State) : (setLane i l s).clk = s.clk := rfl
@[simp] theorem setLane_evc (i : Nat) (l : PLane) (s : State) : (setLane i l s).evc = s.evc := rfl
@[simp] theorem setLane_core (i : Nat) (l : PLane) (s : State) : (setLane i l s).core = s.core := rfl
@[simp] theorem setLane_pair (i : Nat) (l : PLane) (s : State) : (setLane i l s).pair = s.pair := rfl
@[simp] theorem setLane_epoch (i : Nat) (l : PLane) (s : State) : (setLane i l s).epoch = s.epoch := rfl
@[simp] theorem setLane_fault (i : Nat) (l : PLane) (s : State) : (setLane i l s).fault = s.fault := rfl
@[simp] theorem setLane_idn (i : Nat) (l : PLane) (s : State) : (setLane i l s).idn = s.idn := rfl
@[simp] theorem setLane_doors (i : Nat) (l : PLane) (s : State) : (setLane i l s).doors = s.doors := rfl
@[simp] theorem setLane_pool (i : Nat) (l : PLane) (s : State) : (setLane i l s).pool = s.pool := rfl
@[simp] theorem setLane_loft (i : Nat) (l : PLane) (s : State) : (setLane i l s).loft = s.loft := rfl
@[simp] theorem setLane_tmr (i : Nat) (l : PLane) (s : State) : (setLane i l s).tmr = s.tmr := rfl
@[simp] theorem setLane_pins (i : Nat) (l : PLane) (s : State) : (setLane i l s).pins = s.pins := rfl
@[simp] theorem setLane_i2c (i : Nat) (l : PLane) (s : State) : (setLane i l s).i2c = s.i2c := rfl
@[simp] theorem setLane_tap (i : Nat) (l : PLane) (s : State) : (setLane i l s).tap = s.tap := rfl
@[simp] theorem setLane_fans (i : Nat) (l : PLane) (s : State) : (setLane i l s).fans = s.fans := rfl
@[simp] theorem setLane_fuses (i : Nat) (l : PLane) (s : State) : (setLane i l s).fuses = s.fuses := rfl
@[simp] theorem setLane_nand (i : Nat) (l : PLane) (s : State) : (setLane i l s).nand = s.nand := rfl
@[simp] theorem setLane_vat (i : Nat) (l : PLane) (s : State) : (setLane i l s).vat = s.vat := rfl
@[simp] theorem setLane_stock (i : Nat) (l : PLane) (s : State) : (setLane i l s).stock = s.stock := rfl
@[simp] theorem setLane_ports (i : Nat) (l : PLane) (s : State) : (setLane i l s).ports = s.ports := rfl
@[simp] theorem setLane_keys (i : Nat) (l : PLane) (s : State) : (setLane i l s).keys = s.keys := rfl
@[simp] theorem setLane_faults (i : Nat) (l : PLane) (s : State) : (setLane i l s).faults = s.faults := rfl
@[simp] theorem setLane_panel (i : Nat) (l : PLane) (s : State) : (setLane i l s).panel = s.panel := rfl
@[simp] theorem setLane_audio (i : Nat) (l : PLane) (s : State) : (setLane i l s).audio = s.audio := rfl
@[simp] theorem setLane_stats (i : Nat) (l : PLane) (s : State) : (setLane i l s).stats = s.stats := rfl
@[simp] theorem setLane_latched (i : Nat) (l : PLane) (s : State) : (setLane i l s).latched = s.latched := rfl

/-! setCal changes `mach` alone. -/

@[simp] theorem setCal_pending (d : Nat) (c : CalPort) (s : State) : (setCal d c s).pending = s.pending := rfl
@[simp] theorem setCal_out (d : Nat) (c : CalPort) (s : State) : (setCal d c s).out = s.out := rfl
@[simp] theorem setCal_freeCtr (d : Nat) (c : CalPort) (s : State) : (setCal d c s).freeCtr = s.freeCtr := rfl
@[simp] theorem setCal_regs (d : Nat) (c : CalPort) (s : State) : (setCal d c s).regs = s.regs := rfl
@[simp] theorem setCal_mem (d : Nat) (c : CalPort) (s : State) : (setCal d c s).mem = s.mem := rfl
@[simp] theorem setCal_undef (d : Nat) (c : CalPort) (s : State) : (setCal d c s).undef = s.undef := rfl
@[simp] theorem setCal_clk (d : Nat) (c : CalPort) (s : State) : (setCal d c s).clk = s.clk := rfl
@[simp] theorem setCal_evc (d : Nat) (c : CalPort) (s : State) : (setCal d c s).evc = s.evc := rfl
@[simp] theorem setCal_core (d : Nat) (c : CalPort) (s : State) : (setCal d c s).core = s.core := rfl
@[simp] theorem setCal_pair (d : Nat) (c : CalPort) (s : State) : (setCal d c s).pair = s.pair := rfl
@[simp] theorem setCal_epoch (d : Nat) (c : CalPort) (s : State) : (setCal d c s).epoch = s.epoch := rfl
@[simp] theorem setCal_fault (d : Nat) (c : CalPort) (s : State) : (setCal d c s).fault = s.fault := rfl
@[simp] theorem setCal_idn (d : Nat) (c : CalPort) (s : State) : (setCal d c s).idn = s.idn := rfl
@[simp] theorem setCal_doors (d : Nat) (c : CalPort) (s : State) : (setCal d c s).doors = s.doors := rfl
@[simp] theorem setCal_pool (d : Nat) (c : CalPort) (s : State) : (setCal d c s).pool = s.pool := rfl
@[simp] theorem setCal_loft (d : Nat) (c : CalPort) (s : State) : (setCal d c s).loft = s.loft := rfl
@[simp] theorem setCal_tmr (d : Nat) (c : CalPort) (s : State) : (setCal d c s).tmr = s.tmr := rfl
@[simp] theorem setCal_pins (d : Nat) (c : CalPort) (s : State) : (setCal d c s).pins = s.pins := rfl
@[simp] theorem setCal_i2c (d : Nat) (c : CalPort) (s : State) : (setCal d c s).i2c = s.i2c := rfl
@[simp] theorem setCal_tap (d : Nat) (c : CalPort) (s : State) : (setCal d c s).tap = s.tap := rfl
@[simp] theorem setCal_fans (d : Nat) (c : CalPort) (s : State) : (setCal d c s).fans = s.fans := rfl
@[simp] theorem setCal_fuses (d : Nat) (c : CalPort) (s : State) : (setCal d c s).fuses = s.fuses := rfl
@[simp] theorem setCal_nand (d : Nat) (c : CalPort) (s : State) : (setCal d c s).nand = s.nand := rfl
@[simp] theorem setCal_vat (d : Nat) (c : CalPort) (s : State) : (setCal d c s).vat = s.vat := rfl
@[simp] theorem setCal_stock (d : Nat) (c : CalPort) (s : State) : (setCal d c s).stock = s.stock := rfl
@[simp] theorem setCal_ports (d : Nat) (c : CalPort) (s : State) : (setCal d c s).ports = s.ports := rfl
@[simp] theorem setCal_keys (d : Nat) (c : CalPort) (s : State) : (setCal d c s).keys = s.keys := rfl
@[simp] theorem setCal_faults (d : Nat) (c : CalPort) (s : State) : (setCal d c s).faults = s.faults := rfl
@[simp] theorem setCal_panel (d : Nat) (c : CalPort) (s : State) : (setCal d c s).panel = s.panel := rfl
@[simp] theorem setCal_audio (d : Nat) (c : CalPort) (s : State) : (setCal d c s).audio = s.audio := rfl
@[simp] theorem setCal_stats (d : Nat) (c : CalPort) (s : State) : (setCal d c s).stats = s.stats := rfl
@[simp] theorem setCal_latched (d : Nat) (c : CalPort) (s : State) : (setCal d c s).latched = s.latched := rfl

/-! setEgress changes `mach` alone. -/

@[simp] theorem setEgress_pending (e : Nat) (x : Egress) (s : State) : (setEgress e x s).pending = s.pending := rfl
@[simp] theorem setEgress_out (e : Nat) (x : Egress) (s : State) : (setEgress e x s).out = s.out := rfl
@[simp] theorem setEgress_freeCtr (e : Nat) (x : Egress) (s : State) : (setEgress e x s).freeCtr = s.freeCtr := rfl
@[simp] theorem setEgress_regs (e : Nat) (x : Egress) (s : State) : (setEgress e x s).regs = s.regs := rfl
@[simp] theorem setEgress_mem (e : Nat) (x : Egress) (s : State) : (setEgress e x s).mem = s.mem := rfl
@[simp] theorem setEgress_undef (e : Nat) (x : Egress) (s : State) : (setEgress e x s).undef = s.undef := rfl
@[simp] theorem setEgress_clk (e : Nat) (x : Egress) (s : State) : (setEgress e x s).clk = s.clk := rfl
@[simp] theorem setEgress_evc (e : Nat) (x : Egress) (s : State) : (setEgress e x s).evc = s.evc := rfl
@[simp] theorem setEgress_core (e : Nat) (x : Egress) (s : State) : (setEgress e x s).core = s.core := rfl
@[simp] theorem setEgress_pair (e : Nat) (x : Egress) (s : State) : (setEgress e x s).pair = s.pair := rfl
@[simp] theorem setEgress_epoch (e : Nat) (x : Egress) (s : State) : (setEgress e x s).epoch = s.epoch := rfl
@[simp] theorem setEgress_fault (e : Nat) (x : Egress) (s : State) : (setEgress e x s).fault = s.fault := rfl
@[simp] theorem setEgress_idn (e : Nat) (x : Egress) (s : State) : (setEgress e x s).idn = s.idn := rfl
@[simp] theorem setEgress_doors (e : Nat) (x : Egress) (s : State) : (setEgress e x s).doors = s.doors := rfl
@[simp] theorem setEgress_pool (e : Nat) (x : Egress) (s : State) : (setEgress e x s).pool = s.pool := rfl
@[simp] theorem setEgress_loft (e : Nat) (x : Egress) (s : State) : (setEgress e x s).loft = s.loft := rfl
@[simp] theorem setEgress_tmr (e : Nat) (x : Egress) (s : State) : (setEgress e x s).tmr = s.tmr := rfl
@[simp] theorem setEgress_pins (e : Nat) (x : Egress) (s : State) : (setEgress e x s).pins = s.pins := rfl
@[simp] theorem setEgress_i2c (e : Nat) (x : Egress) (s : State) : (setEgress e x s).i2c = s.i2c := rfl
@[simp] theorem setEgress_tap (e : Nat) (x : Egress) (s : State) : (setEgress e x s).tap = s.tap := rfl
@[simp] theorem setEgress_fans (e : Nat) (x : Egress) (s : State) : (setEgress e x s).fans = s.fans := rfl
@[simp] theorem setEgress_fuses (e : Nat) (x : Egress) (s : State) : (setEgress e x s).fuses = s.fuses := rfl
@[simp] theorem setEgress_nand (e : Nat) (x : Egress) (s : State) : (setEgress e x s).nand = s.nand := rfl
@[simp] theorem setEgress_vat (e : Nat) (x : Egress) (s : State) : (setEgress e x s).vat = s.vat := rfl
@[simp] theorem setEgress_stock (e : Nat) (x : Egress) (s : State) : (setEgress e x s).stock = s.stock := rfl
@[simp] theorem setEgress_ports (e : Nat) (x : Egress) (s : State) : (setEgress e x s).ports = s.ports := rfl
@[simp] theorem setEgress_keys (e : Nat) (x : Egress) (s : State) : (setEgress e x s).keys = s.keys := rfl
@[simp] theorem setEgress_faults (e : Nat) (x : Egress) (s : State) : (setEgress e x s).faults = s.faults := rfl
@[simp] theorem setEgress_panel (e : Nat) (x : Egress) (s : State) : (setEgress e x s).panel = s.panel := rfl
@[simp] theorem setEgress_audio (e : Nat) (x : Egress) (s : State) : (setEgress e x s).audio = s.audio := rfl
@[simp] theorem setEgress_stats (e : Nat) (x : Egress) (s : State) : (setEgress e x s).stats = s.stats := rfl
@[simp] theorem setEgress_latched (e : Nat) (x : Egress) (s : State) : (setEgress e x s).latched = s.latched := rfl

/-! setVault changes `keys` alone. -/

@[simp] theorem setVault_pending (n : Nat) (v : Vault) (s : State) : (setVault n v s).pending = s.pending := rfl
@[simp] theorem setVault_out (n : Nat) (v : Vault) (s : State) : (setVault n v s).out = s.out := rfl
@[simp] theorem setVault_freeCtr (n : Nat) (v : Vault) (s : State) : (setVault n v s).freeCtr = s.freeCtr := rfl
@[simp] theorem setVault_regs (n : Nat) (v : Vault) (s : State) : (setVault n v s).regs = s.regs := rfl
@[simp] theorem setVault_mem (n : Nat) (v : Vault) (s : State) : (setVault n v s).mem = s.mem := rfl
@[simp] theorem setVault_undef (n : Nat) (v : Vault) (s : State) : (setVault n v s).undef = s.undef := rfl
@[simp] theorem setVault_clk (n : Nat) (v : Vault) (s : State) : (setVault n v s).clk = s.clk := rfl
@[simp] theorem setVault_evc (n : Nat) (v : Vault) (s : State) : (setVault n v s).evc = s.evc := rfl
@[simp] theorem setVault_core (n : Nat) (v : Vault) (s : State) : (setVault n v s).core = s.core := rfl
@[simp] theorem setVault_pair (n : Nat) (v : Vault) (s : State) : (setVault n v s).pair = s.pair := rfl
@[simp] theorem setVault_epoch (n : Nat) (v : Vault) (s : State) : (setVault n v s).epoch = s.epoch := rfl
@[simp] theorem setVault_fault (n : Nat) (v : Vault) (s : State) : (setVault n v s).fault = s.fault := rfl
@[simp] theorem setVault_idn (n : Nat) (v : Vault) (s : State) : (setVault n v s).idn = s.idn := rfl
@[simp] theorem setVault_doors (n : Nat) (v : Vault) (s : State) : (setVault n v s).doors = s.doors := rfl
@[simp] theorem setVault_pool (n : Nat) (v : Vault) (s : State) : (setVault n v s).pool = s.pool := rfl
@[simp] theorem setVault_loft (n : Nat) (v : Vault) (s : State) : (setVault n v s).loft = s.loft := rfl
@[simp] theorem setVault_tmr (n : Nat) (v : Vault) (s : State) : (setVault n v s).tmr = s.tmr := rfl
@[simp] theorem setVault_pins (n : Nat) (v : Vault) (s : State) : (setVault n v s).pins = s.pins := rfl
@[simp] theorem setVault_i2c (n : Nat) (v : Vault) (s : State) : (setVault n v s).i2c = s.i2c := rfl
@[simp] theorem setVault_tap (n : Nat) (v : Vault) (s : State) : (setVault n v s).tap = s.tap := rfl
@[simp] theorem setVault_fans (n : Nat) (v : Vault) (s : State) : (setVault n v s).fans = s.fans := rfl
@[simp] theorem setVault_fuses (n : Nat) (v : Vault) (s : State) : (setVault n v s).fuses = s.fuses := rfl
@[simp] theorem setVault_nand (n : Nat) (v : Vault) (s : State) : (setVault n v s).nand = s.nand := rfl
@[simp] theorem setVault_vat (n : Nat) (v : Vault) (s : State) : (setVault n v s).vat = s.vat := rfl
@[simp] theorem setVault_stock (n : Nat) (v : Vault) (s : State) : (setVault n v s).stock = s.stock := rfl
@[simp] theorem setVault_ports (n : Nat) (v : Vault) (s : State) : (setVault n v s).ports = s.ports := rfl
@[simp] theorem setVault_mach (n : Nat) (v : Vault) (s : State) : (setVault n v s).mach = s.mach := rfl
@[simp] theorem setVault_faults (n : Nat) (v : Vault) (s : State) : (setVault n v s).faults = s.faults := rfl
@[simp] theorem setVault_panel (n : Nat) (v : Vault) (s : State) : (setVault n v s).panel = s.panel := rfl
@[simp] theorem setVault_audio (n : Nat) (v : Vault) (s : State) : (setVault n v s).audio = s.audio := rfl
@[simp] theorem setVault_stats (n : Nat) (v : Vault) (s : State) : (setVault n v s).stats = s.stats := rfl
@[simp] theorem setVault_latched (n : Nat) (v : Vault) (s : State) : (setVault n v s).latched = s.latched := rfl

/-! setUnit changes `keys` alone. -/

@[simp] theorem setUnit_pending (u : Nat) (l : List (Nat × Nat)) (s : State) : (setUnit u l s).pending = s.pending := rfl
@[simp] theorem setUnit_out (u : Nat) (l : List (Nat × Nat)) (s : State) : (setUnit u l s).out = s.out := rfl
@[simp] theorem setUnit_freeCtr (u : Nat) (l : List (Nat × Nat)) (s : State) : (setUnit u l s).freeCtr = s.freeCtr := rfl
@[simp] theorem setUnit_regs (u : Nat) (l : List (Nat × Nat)) (s : State) : (setUnit u l s).regs = s.regs := rfl
@[simp] theorem setUnit_mem (u : Nat) (l : List (Nat × Nat)) (s : State) : (setUnit u l s).mem = s.mem := rfl
@[simp] theorem setUnit_undef (u : Nat) (l : List (Nat × Nat)) (s : State) : (setUnit u l s).undef = s.undef := rfl
@[simp] theorem setUnit_clk (u : Nat) (l : List (Nat × Nat)) (s : State) : (setUnit u l s).clk = s.clk := rfl
@[simp] theorem setUnit_evc (u : Nat) (l : List (Nat × Nat)) (s : State) : (setUnit u l s).evc = s.evc := rfl
@[simp] theorem setUnit_core (u : Nat) (l : List (Nat × Nat)) (s : State) : (setUnit u l s).core = s.core := rfl
@[simp] theorem setUnit_pair (u : Nat) (l : List (Nat × Nat)) (s : State) : (setUnit u l s).pair = s.pair := rfl
@[simp] theorem setUnit_epoch (u : Nat) (l : List (Nat × Nat)) (s : State) : (setUnit u l s).epoch = s.epoch := rfl
@[simp] theorem setUnit_fault (u : Nat) (l : List (Nat × Nat)) (s : State) : (setUnit u l s).fault = s.fault := rfl
@[simp] theorem setUnit_idn (u : Nat) (l : List (Nat × Nat)) (s : State) : (setUnit u l s).idn = s.idn := rfl
@[simp] theorem setUnit_doors (u : Nat) (l : List (Nat × Nat)) (s : State) : (setUnit u l s).doors = s.doors := rfl
@[simp] theorem setUnit_pool (u : Nat) (l : List (Nat × Nat)) (s : State) : (setUnit u l s).pool = s.pool := rfl
@[simp] theorem setUnit_loft (u : Nat) (l : List (Nat × Nat)) (s : State) : (setUnit u l s).loft = s.loft := rfl
@[simp] theorem setUnit_tmr (u : Nat) (l : List (Nat × Nat)) (s : State) : (setUnit u l s).tmr = s.tmr := rfl
@[simp] theorem setUnit_pins (u : Nat) (l : List (Nat × Nat)) (s : State) : (setUnit u l s).pins = s.pins := rfl
@[simp] theorem setUnit_i2c (u : Nat) (l : List (Nat × Nat)) (s : State) : (setUnit u l s).i2c = s.i2c := rfl
@[simp] theorem setUnit_tap (u : Nat) (l : List (Nat × Nat)) (s : State) : (setUnit u l s).tap = s.tap := rfl
@[simp] theorem setUnit_fans (u : Nat) (l : List (Nat × Nat)) (s : State) : (setUnit u l s).fans = s.fans := rfl
@[simp] theorem setUnit_fuses (u : Nat) (l : List (Nat × Nat)) (s : State) : (setUnit u l s).fuses = s.fuses := rfl
@[simp] theorem setUnit_nand (u : Nat) (l : List (Nat × Nat)) (s : State) : (setUnit u l s).nand = s.nand := rfl
@[simp] theorem setUnit_vat (u : Nat) (l : List (Nat × Nat)) (s : State) : (setUnit u l s).vat = s.vat := rfl
@[simp] theorem setUnit_stock (u : Nat) (l : List (Nat × Nat)) (s : State) : (setUnit u l s).stock = s.stock := rfl
@[simp] theorem setUnit_ports (u : Nat) (l : List (Nat × Nat)) (s : State) : (setUnit u l s).ports = s.ports := rfl
@[simp] theorem setUnit_mach (u : Nat) (l : List (Nat × Nat)) (s : State) : (setUnit u l s).mach = s.mach := rfl
@[simp] theorem setUnit_faults (u : Nat) (l : List (Nat × Nat)) (s : State) : (setUnit u l s).faults = s.faults := rfl
@[simp] theorem setUnit_panel (u : Nat) (l : List (Nat × Nat)) (s : State) : (setUnit u l s).panel = s.panel := rfl
@[simp] theorem setUnit_audio (u : Nat) (l : List (Nat × Nat)) (s : State) : (setUnit u l s).audio = s.audio := rfl
@[simp] theorem setUnit_stats (u : Nat) (l : List (Nat × Nat)) (s : State) : (setUnit u l s).stats = s.stats := rfl
@[simp] theorem setUnit_latched (u : Nat) (l : List (Nat × Nat)) (s : State) : (setUnit u l s).latched = s.latched := rfl

/-! setKe changes `keys` alone. -/

@[simp] theorem setKe_pending (k : Nat) (x : KeSlot) (s : State) : (setKe k x s).pending = s.pending := rfl
@[simp] theorem setKe_out (k : Nat) (x : KeSlot) (s : State) : (setKe k x s).out = s.out := rfl
@[simp] theorem setKe_freeCtr (k : Nat) (x : KeSlot) (s : State) : (setKe k x s).freeCtr = s.freeCtr := rfl
@[simp] theorem setKe_regs (k : Nat) (x : KeSlot) (s : State) : (setKe k x s).regs = s.regs := rfl
@[simp] theorem setKe_mem (k : Nat) (x : KeSlot) (s : State) : (setKe k x s).mem = s.mem := rfl
@[simp] theorem setKe_undef (k : Nat) (x : KeSlot) (s : State) : (setKe k x s).undef = s.undef := rfl
@[simp] theorem setKe_clk (k : Nat) (x : KeSlot) (s : State) : (setKe k x s).clk = s.clk := rfl
@[simp] theorem setKe_evc (k : Nat) (x : KeSlot) (s : State) : (setKe k x s).evc = s.evc := rfl
@[simp] theorem setKe_core (k : Nat) (x : KeSlot) (s : State) : (setKe k x s).core = s.core := rfl
@[simp] theorem setKe_pair (k : Nat) (x : KeSlot) (s : State) : (setKe k x s).pair = s.pair := rfl
@[simp] theorem setKe_epoch (k : Nat) (x : KeSlot) (s : State) : (setKe k x s).epoch = s.epoch := rfl
@[simp] theorem setKe_fault (k : Nat) (x : KeSlot) (s : State) : (setKe k x s).fault = s.fault := rfl
@[simp] theorem setKe_idn (k : Nat) (x : KeSlot) (s : State) : (setKe k x s).idn = s.idn := rfl
@[simp] theorem setKe_doors (k : Nat) (x : KeSlot) (s : State) : (setKe k x s).doors = s.doors := rfl
@[simp] theorem setKe_pool (k : Nat) (x : KeSlot) (s : State) : (setKe k x s).pool = s.pool := rfl
@[simp] theorem setKe_loft (k : Nat) (x : KeSlot) (s : State) : (setKe k x s).loft = s.loft := rfl
@[simp] theorem setKe_tmr (k : Nat) (x : KeSlot) (s : State) : (setKe k x s).tmr = s.tmr := rfl
@[simp] theorem setKe_pins (k : Nat) (x : KeSlot) (s : State) : (setKe k x s).pins = s.pins := rfl
@[simp] theorem setKe_i2c (k : Nat) (x : KeSlot) (s : State) : (setKe k x s).i2c = s.i2c := rfl
@[simp] theorem setKe_tap (k : Nat) (x : KeSlot) (s : State) : (setKe k x s).tap = s.tap := rfl
@[simp] theorem setKe_fans (k : Nat) (x : KeSlot) (s : State) : (setKe k x s).fans = s.fans := rfl
@[simp] theorem setKe_fuses (k : Nat) (x : KeSlot) (s : State) : (setKe k x s).fuses = s.fuses := rfl
@[simp] theorem setKe_nand (k : Nat) (x : KeSlot) (s : State) : (setKe k x s).nand = s.nand := rfl
@[simp] theorem setKe_vat (k : Nat) (x : KeSlot) (s : State) : (setKe k x s).vat = s.vat := rfl
@[simp] theorem setKe_stock (k : Nat) (x : KeSlot) (s : State) : (setKe k x s).stock = s.stock := rfl
@[simp] theorem setKe_ports (k : Nat) (x : KeSlot) (s : State) : (setKe k x s).ports = s.ports := rfl
@[simp] theorem setKe_mach (k : Nat) (x : KeSlot) (s : State) : (setKe k x s).mach = s.mach := rfl
@[simp] theorem setKe_faults (k : Nat) (x : KeSlot) (s : State) : (setKe k x s).faults = s.faults := rfl
@[simp] theorem setKe_panel (k : Nat) (x : KeSlot) (s : State) : (setKe k x s).panel = s.panel := rfl
@[simp] theorem setKe_audio (k : Nat) (x : KeSlot) (s : State) : (setKe k x s).audio = s.audio := rfl
@[simp] theorem setKe_stats (k : Nat) (x : KeSlot) (s : State) : (setKe k x s).stats = s.stats := rfl
@[simp] theorem setKe_latched (k : Nat) (x : KeSlot) (s : State) : (setKe k x s).latched = s.latched := rfl

/-! setChan changes `keys` alone. -/

@[simp] theorem setChan_pending (c : Nat) (x : Chan) (s : State) : (setChan c x s).pending = s.pending := rfl
@[simp] theorem setChan_out (c : Nat) (x : Chan) (s : State) : (setChan c x s).out = s.out := rfl
@[simp] theorem setChan_freeCtr (c : Nat) (x : Chan) (s : State) : (setChan c x s).freeCtr = s.freeCtr := rfl
@[simp] theorem setChan_regs (c : Nat) (x : Chan) (s : State) : (setChan c x s).regs = s.regs := rfl
@[simp] theorem setChan_mem (c : Nat) (x : Chan) (s : State) : (setChan c x s).mem = s.mem := rfl
@[simp] theorem setChan_undef (c : Nat) (x : Chan) (s : State) : (setChan c x s).undef = s.undef := rfl
@[simp] theorem setChan_clk (c : Nat) (x : Chan) (s : State) : (setChan c x s).clk = s.clk := rfl
@[simp] theorem setChan_evc (c : Nat) (x : Chan) (s : State) : (setChan c x s).evc = s.evc := rfl
@[simp] theorem setChan_core (c : Nat) (x : Chan) (s : State) : (setChan c x s).core = s.core := rfl
@[simp] theorem setChan_pair (c : Nat) (x : Chan) (s : State) : (setChan c x s).pair = s.pair := rfl
@[simp] theorem setChan_epoch (c : Nat) (x : Chan) (s : State) : (setChan c x s).epoch = s.epoch := rfl
@[simp] theorem setChan_fault (c : Nat) (x : Chan) (s : State) : (setChan c x s).fault = s.fault := rfl
@[simp] theorem setChan_idn (c : Nat) (x : Chan) (s : State) : (setChan c x s).idn = s.idn := rfl
@[simp] theorem setChan_doors (c : Nat) (x : Chan) (s : State) : (setChan c x s).doors = s.doors := rfl
@[simp] theorem setChan_pool (c : Nat) (x : Chan) (s : State) : (setChan c x s).pool = s.pool := rfl
@[simp] theorem setChan_loft (c : Nat) (x : Chan) (s : State) : (setChan c x s).loft = s.loft := rfl
@[simp] theorem setChan_tmr (c : Nat) (x : Chan) (s : State) : (setChan c x s).tmr = s.tmr := rfl
@[simp] theorem setChan_pins (c : Nat) (x : Chan) (s : State) : (setChan c x s).pins = s.pins := rfl
@[simp] theorem setChan_i2c (c : Nat) (x : Chan) (s : State) : (setChan c x s).i2c = s.i2c := rfl
@[simp] theorem setChan_tap (c : Nat) (x : Chan) (s : State) : (setChan c x s).tap = s.tap := rfl
@[simp] theorem setChan_fans (c : Nat) (x : Chan) (s : State) : (setChan c x s).fans = s.fans := rfl
@[simp] theorem setChan_fuses (c : Nat) (x : Chan) (s : State) : (setChan c x s).fuses = s.fuses := rfl
@[simp] theorem setChan_nand (c : Nat) (x : Chan) (s : State) : (setChan c x s).nand = s.nand := rfl
@[simp] theorem setChan_vat (c : Nat) (x : Chan) (s : State) : (setChan c x s).vat = s.vat := rfl
@[simp] theorem setChan_stock (c : Nat) (x : Chan) (s : State) : (setChan c x s).stock = s.stock := rfl
@[simp] theorem setChan_ports (c : Nat) (x : Chan) (s : State) : (setChan c x s).ports = s.ports := rfl
@[simp] theorem setChan_mach (c : Nat) (x : Chan) (s : State) : (setChan c x s).mach = s.mach := rfl
@[simp] theorem setChan_faults (c : Nat) (x : Chan) (s : State) : (setChan c x s).faults = s.faults := rfl
@[simp] theorem setChan_panel (c : Nat) (x : Chan) (s : State) : (setChan c x s).panel = s.panel := rfl
@[simp] theorem setChan_audio (c : Nat) (x : Chan) (s : State) : (setChan c x s).audio = s.audio := rfl
@[simp] theorem setChan_stats (c : Nat) (x : Chan) (s : State) : (setChan c x s).stats = s.stats := rfl
@[simp] theorem setChan_latched (c : Nat) (x : Chan) (s : State) : (setChan c x s).latched = s.latched := rfl

/-! setArea changes `stock` alone. -/

@[simp] theorem setArea_pending (d : Nat) (a : StockArea) (s : State) : (setArea d a s).pending = s.pending := rfl
@[simp] theorem setArea_out (d : Nat) (a : StockArea) (s : State) : (setArea d a s).out = s.out := rfl
@[simp] theorem setArea_freeCtr (d : Nat) (a : StockArea) (s : State) : (setArea d a s).freeCtr = s.freeCtr := rfl
@[simp] theorem setArea_regs (d : Nat) (a : StockArea) (s : State) : (setArea d a s).regs = s.regs := rfl
@[simp] theorem setArea_mem (d : Nat) (a : StockArea) (s : State) : (setArea d a s).mem = s.mem := rfl
@[simp] theorem setArea_undef (d : Nat) (a : StockArea) (s : State) : (setArea d a s).undef = s.undef := rfl
@[simp] theorem setArea_clk (d : Nat) (a : StockArea) (s : State) : (setArea d a s).clk = s.clk := rfl
@[simp] theorem setArea_evc (d : Nat) (a : StockArea) (s : State) : (setArea d a s).evc = s.evc := rfl
@[simp] theorem setArea_core (d : Nat) (a : StockArea) (s : State) : (setArea d a s).core = s.core := rfl
@[simp] theorem setArea_pair (d : Nat) (a : StockArea) (s : State) : (setArea d a s).pair = s.pair := rfl
@[simp] theorem setArea_epoch (d : Nat) (a : StockArea) (s : State) : (setArea d a s).epoch = s.epoch := rfl
@[simp] theorem setArea_fault (d : Nat) (a : StockArea) (s : State) : (setArea d a s).fault = s.fault := rfl
@[simp] theorem setArea_idn (d : Nat) (a : StockArea) (s : State) : (setArea d a s).idn = s.idn := rfl
@[simp] theorem setArea_doors (d : Nat) (a : StockArea) (s : State) : (setArea d a s).doors = s.doors := rfl
@[simp] theorem setArea_pool (d : Nat) (a : StockArea) (s : State) : (setArea d a s).pool = s.pool := rfl
@[simp] theorem setArea_loft (d : Nat) (a : StockArea) (s : State) : (setArea d a s).loft = s.loft := rfl
@[simp] theorem setArea_tmr (d : Nat) (a : StockArea) (s : State) : (setArea d a s).tmr = s.tmr := rfl
@[simp] theorem setArea_pins (d : Nat) (a : StockArea) (s : State) : (setArea d a s).pins = s.pins := rfl
@[simp] theorem setArea_i2c (d : Nat) (a : StockArea) (s : State) : (setArea d a s).i2c = s.i2c := rfl
@[simp] theorem setArea_tap (d : Nat) (a : StockArea) (s : State) : (setArea d a s).tap = s.tap := rfl
@[simp] theorem setArea_fans (d : Nat) (a : StockArea) (s : State) : (setArea d a s).fans = s.fans := rfl
@[simp] theorem setArea_fuses (d : Nat) (a : StockArea) (s : State) : (setArea d a s).fuses = s.fuses := rfl
@[simp] theorem setArea_nand (d : Nat) (a : StockArea) (s : State) : (setArea d a s).nand = s.nand := rfl
@[simp] theorem setArea_vat (d : Nat) (a : StockArea) (s : State) : (setArea d a s).vat = s.vat := rfl
@[simp] theorem setArea_ports (d : Nat) (a : StockArea) (s : State) : (setArea d a s).ports = s.ports := rfl
@[simp] theorem setArea_mach (d : Nat) (a : StockArea) (s : State) : (setArea d a s).mach = s.mach := rfl
@[simp] theorem setArea_keys (d : Nat) (a : StockArea) (s : State) : (setArea d a s).keys = s.keys := rfl
@[simp] theorem setArea_faults (d : Nat) (a : StockArea) (s : State) : (setArea d a s).faults = s.faults := rfl
@[simp] theorem setArea_panel (d : Nat) (a : StockArea) (s : State) : (setArea d a s).panel = s.panel := rfl
@[simp] theorem setArea_audio (d : Nat) (a : StockArea) (s : State) : (setArea d a s).audio = s.audio := rfl
@[simp] theorem setArea_stats (d : Nat) (a : StockArea) (s : State) : (setArea d a s).stats = s.stats := rfl
@[simp] theorem setArea_latched (d : Nat) (a : StockArea) (s : State) : (setArea d a s).latched = s.latched := rfl

/-! setApply changes `stock` alone. -/

@[simp] theorem setApply_pending (a : Option Apply) (s : State) : (setApply a s).pending = s.pending := rfl
@[simp] theorem setApply_out (a : Option Apply) (s : State) : (setApply a s).out = s.out := rfl
@[simp] theorem setApply_freeCtr (a : Option Apply) (s : State) : (setApply a s).freeCtr = s.freeCtr := rfl
@[simp] theorem setApply_regs (a : Option Apply) (s : State) : (setApply a s).regs = s.regs := rfl
@[simp] theorem setApply_mem (a : Option Apply) (s : State) : (setApply a s).mem = s.mem := rfl
@[simp] theorem setApply_undef (a : Option Apply) (s : State) : (setApply a s).undef = s.undef := rfl
@[simp] theorem setApply_clk (a : Option Apply) (s : State) : (setApply a s).clk = s.clk := rfl
@[simp] theorem setApply_evc (a : Option Apply) (s : State) : (setApply a s).evc = s.evc := rfl
@[simp] theorem setApply_core (a : Option Apply) (s : State) : (setApply a s).core = s.core := rfl
@[simp] theorem setApply_pair (a : Option Apply) (s : State) : (setApply a s).pair = s.pair := rfl
@[simp] theorem setApply_epoch (a : Option Apply) (s : State) : (setApply a s).epoch = s.epoch := rfl
@[simp] theorem setApply_fault (a : Option Apply) (s : State) : (setApply a s).fault = s.fault := rfl
@[simp] theorem setApply_idn (a : Option Apply) (s : State) : (setApply a s).idn = s.idn := rfl
@[simp] theorem setApply_doors (a : Option Apply) (s : State) : (setApply a s).doors = s.doors := rfl
@[simp] theorem setApply_pool (a : Option Apply) (s : State) : (setApply a s).pool = s.pool := rfl
@[simp] theorem setApply_loft (a : Option Apply) (s : State) : (setApply a s).loft = s.loft := rfl
@[simp] theorem setApply_tmr (a : Option Apply) (s : State) : (setApply a s).tmr = s.tmr := rfl
@[simp] theorem setApply_pins (a : Option Apply) (s : State) : (setApply a s).pins = s.pins := rfl
@[simp] theorem setApply_i2c (a : Option Apply) (s : State) : (setApply a s).i2c = s.i2c := rfl
@[simp] theorem setApply_tap (a : Option Apply) (s : State) : (setApply a s).tap = s.tap := rfl
@[simp] theorem setApply_fans (a : Option Apply) (s : State) : (setApply a s).fans = s.fans := rfl
@[simp] theorem setApply_fuses (a : Option Apply) (s : State) : (setApply a s).fuses = s.fuses := rfl
@[simp] theorem setApply_nand (a : Option Apply) (s : State) : (setApply a s).nand = s.nand := rfl
@[simp] theorem setApply_vat (a : Option Apply) (s : State) : (setApply a s).vat = s.vat := rfl
@[simp] theorem setApply_stock (a : Option Apply) (s : State) : (setApply a s).stock = { s.stock with apply := a } := rfl
@[simp] theorem setApply_ports (a : Option Apply) (s : State) : (setApply a s).ports = s.ports := rfl
@[simp] theorem setApply_mach (a : Option Apply) (s : State) : (setApply a s).mach = s.mach := rfl
@[simp] theorem setApply_keys (a : Option Apply) (s : State) : (setApply a s).keys = s.keys := rfl
@[simp] theorem setApply_faults (a : Option Apply) (s : State) : (setApply a s).faults = s.faults := rfl
@[simp] theorem setApply_panel (a : Option Apply) (s : State) : (setApply a s).panel = s.panel := rfl
@[simp] theorem setApply_audio (a : Option Apply) (s : State) : (setApply a s).audio = s.audio := rfl
@[simp] theorem setApply_stats (a : Option Apply) (s : State) : (setApply a s).stats = s.stats := rfl
@[simp] theorem setApply_latched (a : Option Apply) (s : State) : (setApply a s).latched = s.latched := rfl

/-! Reads after writes. A table in canonical form reads back every value; a read elsewhere is as before. -/

theorem reg_setReg_ne {a b : Nat} (v : Word) (s : State) (h : b ≠ a) : reg (setReg a v s) b = reg s b := by
  show tget _ (tset _ s.regs a v) b = _
  unfold tset
  split
  · exact tget_tdel_ne _ _ h
  · exact tget_tins_ne _ _ _ h

theorem door_setDoor_ne {d e : Nat} (x : Door) (s : State) (h : e ≠ d) : door (setDoor d x s) e = door s e :=
  tget_tset_ne _ _ _ h

theorem door_setDoor_same (d : Nat) (x : Door) (s : State) (w : tableWf {} 0 s.doors = true) :
    door (setDoor d x s) d = x := tget_tset_same _ _ w

theorem door_modDoor_ne {d e : Nat} (f : Door → Door) (s : State) (h : e ≠ d) : door (modDoor d f s) e = door s e :=
  tget_tset_ne _ _ _ h

theorem door_modDoor_same (d : Nat) (f : Door → Door) (s : State) (w : tableWf {} 0 s.doors = true) :
    door (modDoor d f s) d = f (door s d) := tget_tset_same _ _ w

theorem mget_mset_ne {a b : Nat} (v : Byte) (s : State) (h : b ≠ a) : mget (mset a v s) b = mget s b :=
  tget_tset_ne _ _ _ h

theorem mget_mset_same (a : Nat) (v : Byte) (s : State) (w : tableWf 0#8 0 s.mem = true) : mget (mset a v s) a = v :=
  tget_tset_same _ _ w

theorem mset_wf (a : Nat) (v : Byte) (s : State) (w : tableWf 0#8 0 s.mem = true) : tableWf 0#8 0 (mset a v s).mem = true :=
  tableWf_tset _ _ w

theorem port_setPort_ne {q r : Nat} (p : Port) (s : State) (h : r ≠ q) : port (setPort q p s) r = port s r :=
  tget_tset_ne _ _ _ h

theorem chan_setChan_ne {c e : Nat} (x : Chan) (s : State) (h : e ≠ c) : chan (setChan c x s) e = chan s e :=
  tget_tset_ne _ _ _ h

theorem keSlot_setKe_ne {k j : Nat} (x : KeSlot) (s : State) (h : j ≠ k) : keSlot (setKe k x s) j = keSlot s j :=
  tget_tset_ne _ _ _ h

theorem cnt_cntAdd_ne {a b : Nat} (n : Nat) (s : State) (h : b ≠ a) : cnt (cntAdd a n s) b = cnt s b :=
  tget_tset_ne _ _ _ h

theorem area_setArea_ne {d e : Nat} (x : StockArea) (s : State) (h : e ≠ d) : area (setArea d x s) e = area s e :=
  tget_tset_ne _ _ _ h

theorem evcStack_setEvcStack_ne {t u : Nat} (v : List (Nat × Nat)) (s : State) (h : u ≠ t) :
    evcStack (setEvcStack t v s) u = evcStack s u := tget_tset_ne _ _ _ h

@[simp] theorem evcPend_setEvcStack (t u : Nat) (v : List (Nat × Nat)) (s : State) :
    evcPend (setEvcStack t v s) u = evcPend s u := rfl

/-! Outcomes. -/

theorem live_run {s : State} (f : State → State) (h : s.clk.held = false) : live s f = f s := by simp [live, h]

theorem live_held {s : State} (f : State → State) (h : s.clk.held = true) : live s f = s := by simp [live, h]

theorem done_next {s : State} (h : s.undef = false) : done s = .next s := by simp [done, h]

theorem done_fault {s : State} (h : s.undef = true) : done s = .fault .undefinedPinFunction := by simp [done, h]

/-- A command answers a next state, or the one fault, as its effect leaves the mark of R405. -/
theorem done_cases (s : State) : done s = .next s ∨ done s = .fault .undefinedPinFunction := by
  cases h : s.undef
  · exact .inl (done_next h)
  · exact .inr (done_fault h)


end Sys2Proof.Machine
end

