-- ==== Sys2Proof/Tests/Slice0.lean ====
section
/-! SUPPORT. Tests of the model against the manual's worked cases and tables, refusals of ill-formed commands, and for each
statement states that meet its hypotheses. -/

namespace Sys2Proof.Tests

set_option Elab.async false

open Sys2Proof.Machine

/-! Small states. -/

/-- The machine out of reset, its boot over, every register at its reset value. -/
def on : State := { State.reset with clk := { held := false } }

/-- `on` with a core. -/
def withCore (c : Core) : State := { on with core := c }

/-- `on` with D registers, each with its number. -/
def withD (l : List (Nat × Word)) : State := withCore { d := l }

/-- `on` with registers of the sentinel address space, lowest address first. -/
def withRegs (l : List (Nat × Word)) : State := { on with regs := l }

/-- `on` with the root's state. -/
def withClk (c : Clk) : State := { on with clk := { c with held := false } }

/-- What holds of the state an outcome goes on to. -/
def nextOf (o : Host.Outcome State Fault Refusal) (p : State → Bool) : Bool :=
  match o with
  | .next s => p s
  | .fault _ => false
  | .refused _ => false

/-- A packet: opcode, flags, tag, sequence number, parameters from byte 16; its CRC is 0, as door 3 takes it. -/
def packet (op flags tag seq : Nat) (params : Bytes) : Bytes :=
  leBytes 1 op ++ leBytes 1 flags ++ leBytes 2 tag ++ leBytes 4 seq ++ leBytes 2 (if flags &&& 2 = 2 then 0 else params.length)
    ++ leBytes 6 0 ++ fitBytes 48 params

/-- `s` with one command of door `d` that waits for the Interpreter. -/
def waitingIn (s : State) (d : Nat) (c : Cmd) : State := { s with doors := tset {} s.doors d { door s d with cmds := [c] } }

/-- A command as its packet gives it. -/
def command (op flags : Nat) (params : Bytes) : Cmd :=
  { tag := 7, opcode := op, flags := flags, pkt := packet op flags 7 0 params, gen := 0, stage := .waiting }

/-! Ill-formed commands are refused. -/

theorem test_wf_condition : wellFormed (.kBcc 15 0#22) = false ∧ wellFormed (.kBcc 14 0#22) = true := by decide
theorem test_wf_push : wellFormed (.kPush 26) = false ∧ wellFormed (.kPush 25) = true := by decide
theorem test_wf_pop : wellFormed (.kPop 26) = false ∧ wellFormed (.kPop 25) = true := by decide
theorem test_wf_shift : wellFormed (.kWrac 0 0 25) = false ∧ wellFormed (.kWrac 0 0 24) = true := by decide
theorem test_wf_control : wellFormed (.kMfc 0 8#8) = false ∧ wellFormed (.kMtc 8#8 0) = false ∧ wellFormed (.kMtc 7#8 0) = true := by decide
theorem test_wf_mode : wellFormed (.kLdW 0 .reserved {}) = false ∧ wellFormed (.kLdH 0 .reserved {}) = false ∧
    wellFormed (.kLdHu 0 .reserved {}) = false ∧ wellFormed (.kLdB 0 .reserved {}) = false ∧
    wellFormed (.kLdBu 0 .reserved {}) = false ∧ wellFormed (.kStW 0 .reserved) = false ∧ wellFormed (.kStH 0 .reserved) = false ∧
    wellFormed (.kStB 0 .reserved) = false ∧ wellFormed (.kLda 0 .reserved {}) = false ∧ wellFormed (.kSta 0 .reserved) = false := by
  decide
theorem test_wf_packet : wellFormed (.commandPacket [(0, [0#8])]) = false ∧
    wellFormed (.commandPacket [(0, packet 0 0 1 0 [])]) = true := by decide
theorem test_wf_sample : wellFormed (.telemetrySample [25] []) = false := by decide
theorem test_wf_mount : wellFormed (.vatMountDone (.absent 4) {}) = false ∧ wellFormed (.vatMountDone (.absent 6) {}) = true := by decide
theorem test_wf_nand : wellFormed (.vatOpDone { errs := [{ cw := 16 }] }) = false ∧
    wellFormed (.vatOpDone { errs := [{ cw := 15, first := [9231] }] }) = true ∧
    wellFormed (.vatOpDone { errs := [{ cw := 0, again := [9232] }] }) = false := by decide

/-! Words of Karpol instructions, written out from the encoding tables of chapter 13 and its worked cases. -/

theorem test_word_movi : decodeWord 0x18400040#32 = some (.kMovi 1 64#16) := by decide
theorem test_word_movi0 : decodeWord 0x18C00000#32 = some (.kMovi 3 0#16) := by decide
theorem test_word_ldw : decodeWord 0x40890000#32 = some (.kLdW 2 (.postInc 1) {}) := by decide
theorem test_word_add : decodeWord 0x00CC8001#32 = some (.kAdd 3 3 2) := by decide
theorem test_word_addi : decodeWord 0x0444FFFF#32 = some (.kAddi 1 1 0xFFFF#16) := by decide
theorem test_word_bne : decodeWord 0x807FFFFD#32 = some (.kBcc 1 0x3FFFFD#22) := by decide
theorem test_word_tbsc : decodeWord 0x980022C8#32 = some (.kTbsc 2#14 0x2C8#12) := by decide
theorem test_word_tbs : decodeWord 0x900009C8#32 = some (.kTbs 0#14 0x9C8#12) := by decide
-- Tables 13-7 to 13-12, field by field: major opcode, then the fields in order.
theorem test_word_shli : decodeWord 0b000000_0101_0110_0000_00011_000_010100#32 = some (.kShli 5 6 3) := by decide
theorem test_word_lea : decodeWord 0b001000_0_010_011_000_1000000000000001#32 = some (.kLea 2 3 0x8001#16) := by decide
theorem test_word_adda : decodeWord 0b001001_0_100_101_0111_00000000000_0010#32 = some (.kAdda 4 5 7) := by decide
theorem test_word_index : decodeWord 0b010101_0001_010_011_0100_10_0000000000#32 = some (.kStW 1 (.index 2 4 2)) := by decide
theorem test_word_jump : decodeWord 0b100011_0010_110_0000000000000000000#32 = some (.kBalr 6) := by decide
theorem test_word_call : decodeWord 0b100010_11111111111111111111111111#32 = some (.kCall 0x3FFFFFF#26) := by decide
theorem test_word_bit : decodeWord 0b101010_0000_1_0011_00000_000001000001#32 = some (.kBset (.indexed 3 0x41#12)) := by decide
theorem test_word_mac : decodeWord 0b101000_0000_10_0001_0010_1_0_0000000000#32 = some (.kMac 2 1 2 true false) := by decide
theorem test_word_push : decodeWord 0b110000_0000_11000_00000000000000000#32 = some (.kPush 24) := by decide
theorem test_word_trap : decodeWord 0b111110_0011_0000000000000000_10_1001#32 = some (.kTrap 0x29#8) := by decide
theorem test_word_undefined : decodeWord 0xFFFFFFFF#32 = none ∧ decodeWord 0b111110_0011_1000000000000000_10_1001#32 = none := by decide
theorem test_word_lea_reserved : decodeWord 0b001000_1_010_011_000_1000000000000001#32 = none := by decide

/-! Karpol instructions. -/

-- Table 13-10: ADD sets C from the carry out; worked case of chapter 13: D3 gathers D2.
theorem test_add_carry : nextOf (exec (.kAdd 3 3 2) (withD [(2, 5#32), (3, 0xFFFFFFFF#32)])) (fun s =>
    dreg s 3 == 4#32 && s.core.stat == 1#32 && s.core.pc == 4#32) = true := by decide
-- V is the signed overflow, N the result's sign.
theorem test_add_overflow : nextOf (exec (.kAdd 0 1 2) (withD [(1, 0x7FFFFFFF#32), (2, 1#32)])) (fun s =>
    dreg s 0 == 0x80000000#32 && s.core.stat == 0xC#32) = true := by decide
-- SUB: C is the borrow.
theorem test_sub_borrow : nextOf (exec (.kSub 0 1 2) (withD [(1, 1#32), (2, 2#32)])) (fun s =>
    dreg s 0 == 0xFFFFFFFF#32 && s.core.stat == 5#32) = true := by decide
-- The last pass of the worked loop: D1 ends 0 with Z = 1 (and C from 1 + 0xFFFF_FFFF).
theorem test_addi_zero : nextOf (exec (.kAddi 1 1 0xFFFF#16) (withD [(1, 1#32)])) (fun s =>
    dreg s 1 == 0#32 && s.core.stat == 3#32) = true := by decide
theorem test_divs_corner : nextOf (exec (.kDivs 0 1 2) (withD [(1, 0x80000000#32), (2, 0xFFFFFFFF#32)])) (fun s =>
    dreg s 0 == 0x80000000#32 && wbit s.core.stat 3) = true := by decide
theorem test_divu_zero : nextOf (exec (.kDivu 0 1 2) (withD [(1, 7#32)])) (fun s =>
    dreg s 0 == 0xFFFFFFFF#32 && wbit s.core.stat 3) = true := by decide
theorem test_rems_sign : nextOf (exec (.kRems 0 1 2) (withD [(1, 0xFFFFFFF9#32), (2, 2#32)])) (fun s =>
    dreg s 0 == 0xFFFFFFFF#32) = true := by decide
theorem test_sar : nextOf (exec (.kSari 0 1 4) (withD [(1, 0x80000008#32)])) (fun s =>
    dreg s 0 == 0xF8000000#32 && wbit s.core.stat 0) = true := by decide
theorem test_shift_zero_keeps_carry : nextOf (exec (.kShri 0 1 0) (withCore { d := [(1, 3#32)], stat := 1#32 })) (fun s =>
    dreg s 0 == 3#32 && s.core.stat == 1#32) = true := by decide
-- BNE back by three words while Z is 0; falls through while it is 1.
theorem test_bne_taken : nextOf (exec (.kBcc 1 0x3FFFFD#22) (withCore { pc := 0x10000000#32 + 12#32 })) (fun s =>
    s.core.pc == 0x10000000#32) = true := by decide
theorem test_bne_falls : nextOf (exec (.kBcc 1 0x3FFFFD#22) (withCore { pc := 0x10000000#32 + 12#32, stat := 2#32 })) (fun s =>
    s.core.pc == 0x10000000#32 + 16#32) = true := by decide
theorem test_movhi : nextOf (exec (.kMovhi 2 0x1234#16) (withD [(2, 0x5678#32)])) (fun s => dreg s 2 == 0x12345678#32) = true := by decide
theorem test_clz : nextOf (exec (.kClz 0 1) (withD [(1, 0x00010000#32)])) (fun s => dreg s 0 == 15#32) = true := by decide
theorem test_bswap : nextOf (exec (.kBswap 0 1) (withD [(1, 0x11223344#32)])) (fun s => dreg s 0 == 0x44332211#32) = true := by decide
-- R273: AC clamps at 2^55 - 1 and SAT sets.
theorem test_mac_clamps : nextOf (exec (.kMac 0 1 2 false false) (withCore { d := [(1, 0x7FFF#32), (2, 0x7FFF#32)], ac := [(0, 2 ^ 55 - 1)] })) (fun s =>
    acc s 0 == 2 ^ 55 - 1 && wbit s.core.stat 4) = true := by decide
theorem test_msu : nextOf (exec (.kMsu 1 1 2 false true) (withD [(1, 3#32), (2, 0x00050000#32)])) (fun s => acc s 1 == -15) = true := by decide
-- A store writes the low byte alone; memory reads little-endian (R3).
theorem test_store_load : nextOf (exec (.kStW 1 (.disp 0 4#16)) (withCore { d := [(1, 0xA1B2C3D4#32)], a := [(0, 0x20000000#32)] })) (fun s =>
    mread s 0x20000004 4 == [0xD4#8, 0xC3#8, 0xB2#8, 0xA1#8]) = true := by decide
theorem test_ldb_signed : nextOf (exec (.kLdB 1 (.postInc 0) {}) { withCore { a := [(0, 0x20000000#32)] } with mem := [(0x20000000, 0x80#8)] }) (fun s =>
    dreg s 1 == 0xFFFFFF80#32 && areg s 0 == 0x20000001#32) = true := by decide
-- R262: a misaligned word load raises BUSERR, DETAIL 1; the handler is that of vector 2.
theorem test_misaligned : nextOf (exec (.kLdW 1 (.disp 0 2#16) {}) { withCore { a := [(0, 0x20000000#32), (7, 0x20000100#32)], vbase := 0x20000000#32, stklim := 0x20001000#32 } with mem := [(0x2000000B, 0x10#8)] }) (fun s =>
    s.core.pc == 0x10000000#32 && s.core.ecause == 0x102#32 && s.core.eaddr == 0x20000002#32 && wbit s.core.stat 12) = true := by decide


/-! The manual's worked cases. -/

/-- Bytes of numbers. -/
def bytes (l : List Nat) : Bytes := l.map (BitVec.ofNat 8)

-- Chapter 0: flags 5; software writes 4 while hardware sets bit 1; the register reads 3 (R8).
theorem test_w1c : (reg (putBit 0x40030004 1 true (writeTyped 0x40030004 false 4#32 (withRegs [(0x40030004, 5#32)]))) 0x40030004)
    = 3#32 := by decide
-- Chapter 3: slot B jumped to after A failed check 9.
theorem test_bootstat : reg (setBoot 1 true false false 0xA 1 0 0 on) 0x400B001C = 0x1A03#32 := by decide
-- Chapter 4: the reply to NOP on door 2 begins with TAG 0x0102, DONE and RFLAGS 0.
theorem test_reply_head : (replyBytes { tag := 0x102, status := 0, gen := 1, opcode := 0, detail := 0, epoch := 0, res0 := 0, res1 := 0, res2 := 0, data := none, quiet := false, pool := .floor, endsCmd := true } false).take 4
    = bytes [0x02, 0x01, 0, 0] := by decide
-- R55: the CRC-32C of the parameters given there (the check value of CRC-32C over "123456789").
theorem test_crc32c : crc32c (bytes [0x31, 0x32, 0x33, 0x34, 0x35, 0x36, 0x37, 0x38, 0x39]) = 0xE3069283 := by decide +kernel
-- Chapter 5: three entries; the boundary 37 µs away is the first that qualifies.
theorem test_boundary : prepTime 3 = 2096 ∧
    earliestBoundary { on with epoch := { on.epoch with k := 20, boundaries := 76864, count := 1048576 - 46250 } } 3 = 76865 := by decide
-- Chapter 6: the PORT entry of dry port 2 is well formed.
theorem test_port_entry : entryFault (fitBytes 32 (bytes [2, 0, 0x0A, 0, 0, 0, 0, 0, 1, 0, 2, 0, 0, 0x24, 3, 0, 2, 0])) = none := by decide
-- Chapter 8: the SecTAG and the IV of an XPN frame.
theorem test_xpn_iv : macsecIv 1 [] (bytes [0x5A, 0x17, 0xC3, 0x08, 0x91, 0x2E, 0x44, 0xB6, 0x0F, 0x73, 0xAA, 0x29]) 1 0x100000005
    = bytes [0x5A, 0x17, 0xC3, 0x09, 0x91, 0x2E, 0x44, 0xB7, 0x0F, 0x73, 0xAA, 0x2C] := by decide
theorem test_sectag : slice (macsecSeal
    { dir := 0, wet := 0, dry := 0, cls := 0, quota := 0, suite := 1, sciOpt := 2, offset30 := false, replay := false, window := 0
      sci := bytes [0x02, 0x1C, 0x7E, 0x40, 0, 0x11, 0, 1], grace := 0 } { an := 1, ssci := 1 } 0x100000005
    (List.replicate 60 0#8)) 12 16
    = bytes [0x88, 0xE5, 0x2D, 0, 0, 0, 0, 5, 0x02, 0x1C, 0x7E, 0x40, 0, 0x11, 0, 1] := by decide
-- Chapter 8: record headers of the packed cell.
theorem test_record_header : recordHeader false true 0 3 182 = bytes [0x40, 0, 0, 0, 0, 3, 0, 0xB6] ∧
    recordHeader true true 300 7 60 = bytes [0xC0, 0, 1, 0x2C, 0, 7, 0, 0x3C] := by decide
-- Chapter 11: the first 32 bytes of the audit record.
theorem test_record : (recordBody { on with nand := { on.nand with nextSeq := 500 } } 3
    { command 0x43 0 (bytes [3, 0x21]) with input := List.replicate 37 0#8, aux := [0x12C41, 0x66501A2B, 8] }).take 32
    = bytes [0x4C, 0x50, 0x41, 0x52, 0xA8, 0, 3, 0x21, 0xF4, 1, 0, 0, 0, 0, 0, 0, 0x41, 0x2C, 1, 0, 0, 0, 0, 0,
             0x2B, 0x1A, 0x50, 0x66, 8, 0, 0x25, 0] := by decide
-- Chapter 14: PAIR.LAST and PAIR.STATUS after BIST fails copy A in Tight mode.
theorem test_solo : nextOf (exec (.bistDone false true {})
    { withRegs [(0x4009001C, 0x00041021#32)] with pair := { on.pair with handling := .bist } }) (fun s =>
      reg s 0x4009001C == 0x00041621#32 && regPeek s 0x40090000 == 0xE#32) = true := by decide
-- Chapter 15: COMPLETE 18 with [200@9, 18@4] on the stack is a stack fault.
theorem test_fltinfo : nextOf (exec (.evcComplete .sentinel 18#10) { on with evc := { on.evc with stk := [(0, [(200, 9), (18, 4)])] } })
    (fun s => reg s 0x40000018 == 0x48C8#32 && evcStack s 0 == []) = true := by decide
-- Chapter 15: source 18 at level 4 is claimed while IL = 4 and the stack is empty.
theorem test_claim : nextOf (exec (.evcClaim .sentinel) { withRegs [(0x40000220, 0#32), (0x40000400 + 4 * 18, 0x104#32)] with core := { stat := 0x400#32 }, evc := { on.evc with pend := [(0, 2 ^ 18)] } })
    (fun s => s.out == [.readData 18] && evcStack s 0 == [(18, 4)] && evcPend s 0 == 0) = true := by decide +kernel
-- Chapter 15: TM0 with PRE 9 counts the tenth tick, and its wrap counts in TM1 (SRC 5).
theorem test_prescaler : nextOf (exec (.timerCount .tick) { withRegs [(0x40010004, 1#32), (0x40010044, 9#32), (0x40010058, 0xFFFF#32)] with tmr := [(0, { pre := 8 })] })
    (fun s => reg s 0x40010050 == 0#32) = true ∧
    nextOf (exec (.timerCount .tick) { withRegs [(0x40010004, 1#32), (0x40010044, 9#32), (0x40010058, 0xFFFF#32)] with tmr := [(0, { pre := 9 })] })
    (fun s => reg s 0x40010050 == 1#32) = true := by decide
theorem test_chain : nextOf (exec (.timerCount .tick) (withRegs [(0x40010004, 3#32), (0x40010050, 0xFFFF#32), (0x40010058, 0xFFFF#32), (0x40010060, 5#32), (0x40010078, 0xFFFF#32)]))
    (fun s => reg s 0x40010050 == 0#32 && reg s 0x40010070 == 1#32) = true := by decide +kernel
-- Chapter 16: the timing registers of the 1,280 × 800 panel.
theorem test_timing : let t := timingShadow (withRegs [(0x40050010, 0x00300500#32), (0x40050014, 0x00500020#32), (0x40050018, 0x00030320#32), (0x4005001C, 0x000E0006#32)])
    t.htot = 1440 ∧ t.vtot = 823 ∧ t.vsync = 803 ∧ t.ok = true := by decide
-- Chapter 17: the PALRUN block's pixels 23 and 24, and the FIXED4 pixel.
theorem test_palrun : let s := mwrite (0x60000000 + 0x12340) (bytes [1, 0, 0, 0, 0, 0xFF, 0, 0, 0xFF, 0xF1, 0x71, 0xF0, 0xF0, 0x70]) (mwriteN 0x60000000 4 0x12341 on)
    stcPixel s 0 8 7 2 = 0xFF0000FF ∧ stcPixel s 0 8 0 3 = 0 ∧ stcDamaged s 1 0x12340 = false := by decide
theorem test_fixed4 : fixed4 (mwrite 0x60000000 (leBytes 16 (63 + (2 ^ 30 - 1) * 2 ^ 30 + 5 * 2 ^ 64)) on) 0 0 0 = 0xFF555555 := by decide
-- Chapter 17: the governor at throttle level 3 and level 0.
/-- A layer of a line by its costs. -/
def layer (mode exact trimd : Nat) : LayerWork :=
  { mode := mode, exact := [{ setup := exact, per := 0 }], trimd := [{ setup := trimd, per := 0, trim := true }] }
/-- The work that the layers of the worked line do with `e` eighths removed throughout. -/
def worked (e : Nat) : List (Nat × Bool) :=
  (govern 12600 [(0, e)] 64 0 [layer 0 960 960, layer 0 960 960, layer 0 560 560, layer 1 2240 960, layer 1 2240 960, layer 1 960 640]).1.map
    fun o => (o.setup, o.trim)
theorem test_governor : worked 4 = [(960, false), (960, false), (560, false), (960, true), (960, true), (960, false)] ∧
    worked 0 = [(960, false), (960, false), (560, false), (2240, false), (2240, false), (960, false)] := by decide
-- Chapter 18: the attack reaches full level on its 250th step; the release of 27 takes 2,428 steps.
theorem test_attack : (List.range 249).foldl (fun l _ => rise l 263 65535) 0 = 65487 ∧ rise 65487 263 65535 = 65535 := by decide +kernel
theorem test_coefficient : toSigned 24 0x99999A = -6710886 := by decide
-- Chapter 19: the fan curve at 66 °C, and a two-pulse fan at 71,428 ticks.
theorem test_fan_curve : tableDutyAt (withRegs [(0x40030080, 0x0078001E#32), (0x40030084, 0x00A0002D#32), (0x40030088, 0x00DC003C#32), (0x4003008C, 0x01180046#32), (0x40030090, 0x01540050#32), (0x40030094, 0x017C0055#32), (0x40030098, 0x0190005A#32), (0x4003009C, 0x0190005F#32)]) 66 = 256 := by decide
theorem test_rpm : tachRpm (withRegs [(0x40030050, 71428#32), (0x40030058, 0x07D00005#32)]) 1 = 4200 := by decide
-- Chapter 19: GP32 and GP33 locked by 0x5A, 0xA5, 3.
theorem test_lock : nextOf (exec (.lockSequence 2 3#32) { on with pins := { on.pins with lockSeq := [(2, 2)] } }) (fun s => reg s 0x40020088 == 3#32) = true := by decide
-- A 0xA5 that does not follow 0x5A starts nothing (R409).
theorem test_lock_order : nextOf (exec (.lockSequence 2 0xA5#32) { on with pins := { on.pins with lockSeq := [(2, 0)] } }) (fun s => tget 0 s.pins.lockSeq 2 == 0) = true := by decide

/-- A packet with its CRC. -/
def sealed (p : Bytes) : Bytes := p.take 12 ++ leBytes 4 (pktCrcComputed p) ++ p.drop 16

/-- A PCIe door with a packet in its ring and its floor used up. -/
def fullDoor : Door :=
  { linkUp := true, session := true, ringEnable := true, cringLog2 := 4, rringLog2 := 4, cmdTail := 1, floorUsed := 32, grant := 0x7F }

-- Chapter 4: doors 0 and 1 compete for the last shared entry while the pointer names door 3.
theorem test_pool : nextOf (exec (.commandPacket [(1, sealed (packet 0 0 9 0 [])), (0, sealed (packet 0 0 8 0 []))])
    { on with doors := [(0, fullDoor), (1, fullDoor)], pool := { on.pool with sharedFree := 1, pointer := 3 } }) (fun s =>
      (door s 0).cmds.length == 1 && (door s 1).cmds.length == 0 && ((door s 1).replies.map fun r => (r.status, r.res0)) == [(0x21, 0)]
        && s.pool.sharedFree == 0 && s.pool.pointer == 1) = true := by decide +kernel
-- Chapter 10: a FELT_LINK_UE at GEN 7.
theorem test_fault : nextOf (exec (.faultDetected .feltLinkUe) { on with fault := { on.fault with gen := 7 } }) (fun s =>
    s.faults.last == 0x00080011 && s.fault.gen == 8 && s.fault.mode == 1) = true := by decide +kernel
-- Chapter 12: the commit of O1 into a channel whose next slot drains is refused with 0x61, low DETAIL 3.
theorem test_pair_waits : pairCheck { on with
      keys := { on.keys with chans := [(0x42, { owner := some 0, cur := { state := 2, an := 0 }, nxt := { state := 3 } })] }
      doors := [(0, { grant := 0x7F })] } 0
    { outs := [(1, List.replicate 44 1#8)] } (bytes [1, 0, 0x42, 0, 0, 1, 0, 0] ++ leBytes 4 1 ++ leBytes 4 0 ++ leBytes 8 1)
    = some (0x61, 3) := by decide +kernel
-- R25: a glitch below 50 ns is ignored, a pulse of 10 µs resets.
theorem test_pulse : nextOf (exec (.coldReset 49) on) (fun s => !s.clk.held) = true ∧ nextOf (exec (.coldReset 10000) on) (fun s => s.clk.held && s.mem == []) = true := by decide
-- R405: FUNC set while OE is 1 leaves the behaviour undefined, and the block stops there.
theorem test_undefined_pin : isNext (exec (.registerWrite .sentinel 0x40020050#32 1#32) (withRegs [(0x40020040, 1#32)])) = false := by decide
-- R26: the first step out of power-on is the release of the cold reset.
theorem test_release : nextOf (exec .resetRelease State.reset) (fun s => !s.clk.held && s.idn.booting) = true := by decide
-- The queue: the command in front runs, the rest waits.
theorem test_queue : nextOf (step { on with pending := [.kNop, .kEi] }) (fun s => s.core.pc == 4#32 && s.pending == [.kEi]) = true := by decide
-- An idle block counts one PCLK cycle a tick of two (the model's own choice).
theorem test_idle : nextOf (step on) (fun s => s.pending == [] && nowP s == nowP on + 2) = true := by decide

/-! For each statement with hypotheses, states and operands that meet them, clause by clause. -/

theorem runs_of {s : State} (h : s.clk.held = false ∧ s.undef = false ∧ kReady s = true ∧ atBp s = false ∧
    fetchFault s.core.pc.toNat = none ∧ (s.pair.mode = 0 ∨ s.pair.mode = 2) ∧ s.pair.asChk = false) : Spec.Runs s :=
  ⟨h.1, h.2.1, h.2.2.1, h.2.2.2.1, h.2.2.2.2.1, h.2.2.2.2.2.1, h.2.2.2.2.2.2⟩

theorem room_of {d : Nat} {c : Cmd} {i o : Nat} (h : pointersOk d c.pkt = true ∧ pktInLen c.pkt = i ∧ o ≤ pktOutLen c.pkt) :
    Spec.Room d c i o := ⟨h.1, h.2.1, h.2.2⟩

theorem takes_of {s : State} {d tag op : Nat} {c : Cmd} (h : s.clk.held = false ∧ headWaiting (door s d) = some c ∧ c.tag = tag ∧
    c.opcode = op ∧ (d = 3 → sentinelRuns s = true) ∧ fenceBlocked (door s d) c = false ∧ rrReaches s d = true ∧
    stateRefuses s d c = false) : Spec.Takes s d tag op c :=
  ⟨h.1, h.2.1, h.2.2.1, h.2.2.2.1, h.2.2.2.2.1, h.2.2.2.2.2.1, h.2.2.2.2.2.2.1, h.2.2.2.2.2.2.2⟩

theorem enters_of {x : State} {n : Nat} {ret : Word} (h : (accessFault true (areg x 7).toNat 4 = none ∧ regionOf (areg x 7).toNat ≠ .block) ∧
    (accessFault true (areg x 7 + 4#32).toNat 4 = none ∧ regionOf (areg x 7 + 4#32).toNat ≠ .block) ∧
    (accessFault false (x.core.vbase + w32 (4 * n)).toNat 4 = none ∧ regionOf (x.core.vbase + w32 (4 * n)).toNat ≠ .block ∧
      regionOf (x.core.vbase + w32 (4 * n)).toNat ≠ .window) ∧ fetchFault (Spec.handler x n ret).toNat = none) :
    Spec.Enters x n ret := ⟨h.1, h.2.1, h.2.2.1, h.2.2.2⟩

/-- A sentinel with a stack in DTCM and its vectors there, all of whose handlers stand at 0x1000_0000. -/
def based : State :=
  { withCore { a := [(7, 0x2001FFF0#32)], vbase := 0x20000000#32, stklim := 0x2001FFFC#32 } with
    mem := (List.range 32).map fun n => (0x20000003 + 4 * n, 0x10#8) }

theorem witness_KarpolAluResults : Spec.Runs on ∧ (Spec.alu on (.kShl 15 0 15)).isSome = true ∧
    (Spec.alu on (.kDivs 0 1 2)).isSome = true := ⟨runs_of (by decide +kernel), by decide +kernel⟩
theorem witness_KarpolCompareFlags : Spec.Runs on ∧ (Spec.compare on (.kCmpi 15 0x8000#16)).isSome = true := ⟨runs_of (by decide +kernel), by decide +kernel⟩
theorem witness_KarpolMoves : Spec.Runs on ∧ (Spec.move on (.kLeapc 7 0xFFFF#16)).isSome = true := ⟨runs_of (by decide +kernel), by decide +kernel⟩
theorem witness_KarpolAccumulators : Spec.Runs on ∧ (Spec.mac on (.kWrac 3 15 24)).isSome = true ∧ (Spec.mac on (.kMac 3 0 15 true false)).isSome = true :=
  ⟨runs_of (by decide +kernel), by decide +kernel⟩
theorem witness_KarpolLoads : Spec.Runs based ∧ eaOf (.preDec 7) 4 based = some (0x2001FFEC#32, some (7, 0x2001FFEC#32)) ∧
    accessFault false 0x2001FFEC 4 = none ∧ (Spec.load (.kLda 7 (.preDec 7) {})).isSome = true := ⟨runs_of (by decide +kernel), by decide +kernel⟩
theorem witness_KarpolStores : Spec.Runs based ∧ eaOf (.disp 7 0xC#16) 4 based = some (0x2001FFFC#32, none) ∧
    accessFault true 0x2001FFFC 4 = none ∧ regionOf 0x2001FFFC ≠ .block ∧ accessFault true 0x40010004 4 = none ∧
    regionOf 0x40010004 = .block ∧ (Spec.store based (.kStW 0 (.disp 7 0xC#16))).isSome = true := ⟨runs_of (by decide +kernel), by decide +kernel⟩
theorem witness_KarpolStack : Spec.Runs based ∧ (Spec.push based (.kPush 25)).isSome = true ∧ (Spec.push based (.kCall 1#26)).isSome = true ∧
    (areg based 7).toNat + 4 ≤ based.core.stklim.toNat ∧ accessFault true (areg based 7).toNat 4 = none ∧
    regionOf (areg based 7).toNat ≠ .block ∧ accessFault false (areg based 7 - 4#32).toNat 4 = none ∧
    regionOf (areg based 7 - 4#32).toNat ≠ .block ∧ regionOf (areg based 7 - 4#32).toNat ≠ .window ∧
    (Spec.pop based 0#32 (.kPop 25)).isSome = true ∧ (Spec.pop based 0#32 .kRet).isSome = true := ⟨runs_of (by decide +kernel), by decide +kernel⟩
theorem witness_KarpolReturn : let s := { based with core := { based.core with stat := 0x1000#32 } }
    Spec.Runs s ∧ wbit s.core.stat 12 = true ∧ accessFault false (areg s 7 - 4#32 - 4#32).toNat 4 = none ∧
    loadVal (Spec.fetched s) (areg s 7 - 4#32).toNat 4 % 4 = 0 := ⟨runs_of (by decide +kernel), by decide +kernel⟩
theorem witness_KarpolFlow : Spec.Runs on ∧ (Spec.flow on (.kBcc 14 0x200000#22)).isSome = true ∧ (Spec.flow on .kJlk).isSome = true ∧
    (Spec.flow on (.kBld (.indexed 15 0xFFF#12))).isSome = true := ⟨runs_of (by decide +kernel), by decide +kernel⟩
theorem witness_KarpolBitWrites : Spec.Runs on ∧ (Spec.bitPut on (.kBset (.direct 0#12))).isSome = true ∧ Spec.unblocked 0 = true ∧
    bitRead (Spec.fetched on) 0 = false ∧ bitRead (Spec.fetched (bitWrite 0 true on)) 0 = true ∧ Spec.Runs (bitWrite 0 true on) := by
  refine ⟨runs_of ?_, ?_, ?_, ?_, ?_, runs_of ?_⟩ <;> decide +kernel

/-- A request for the sentinel, below its level. -/
def asked : State := { withRegs [(0x40000220, 0#32), (0x40000400, 0x101#32)] with evc := { on.evc with pend := [(0, 1)] } }

theorem witness_KarpolSystem_wait : Spec.Runs on ∧ sentinelPending (Spec.fetched on) = false ∧ Spec.Runs asked ∧
    sentinelPending (Spec.fetched asked) = true ∧ asked.clk.pstate ≠ .nap ∧
    irqDue { Spec.fetched asked with core := { asked.core with waiting := true, shadow := false } } = none := by
  refine ⟨runs_of ?_, ?_, runs_of ?_, ?_⟩ <;> decide +kernel
theorem witness_KarpolSystem_brk : let s := { on with pair := { on.pair with brk := true } }
    Spec.Runs s ∧ s.pair.brk = true := ⟨runs_of (by decide +kernel), by decide +kernel⟩
theorem witness_KarpolSystem_chkpt : let s := { withRegs [(0x40090008, 1#32)] with pair := { on.pair with mode := 2, failedA := true } }
    let t := withRegs [(0x40090008, 1#32)]
    Spec.Runs s ∧ Spec.Runs t ∧ s.pair.mode = 2 ∧ t.pair.mode = 0 ∧ rbit t pairCtrl 0 = true ∧ on.pair.mode = 0 ∧ rbit on pairCtrl 0 = false :=
  ⟨runs_of (by decide +kernel), runs_of (by decide +kernel), by decide +kernel⟩
theorem witness_KarpolSystem_control : (Spec.control on.core 7).isSome = true ∧ (6#8).toNat ≤ 6 := by decide +kernel

theorem witness_KarpolTraps_trap : Spec.Runs based ∧ Spec.trap based (.kTrap 0xFF#8) = some (4, 0xFF, 0#32) ∧
    Spec.Enters (Spec.fetched based) 4 (Spec.returns based 4) := ⟨runs_of (by decide +kernel), by decide +kernel, enters_of (by decide +kernel)⟩
theorem witness_KarpolTraps_fault : Spec.Runs based ∧ Spec.trap based (.kLdW 0 (.disp 7 1#16) {}) = some (2, 1, 0x2001FFF1#32) ∧
    Spec.Enters (Spec.fetched based) 2 (Spec.returns based 2) := ⟨runs_of (by decide +kernel), by decide +kernel, enters_of (by decide +kernel)⟩
theorem witness_KarpolTraps_lockup : Spec.Runs on ∧ (Spec.trap on (.kTrap 0#8)).isSome = true ∧ accessFault true (areg on 7).toNat 4 ≠ none :=
  ⟨runs_of (by decide +kernel), by decide +kernel⟩

/-- An interrupt at level 1 is due. -/
def due : State := { based with regs := asked.regs, evc := asked.evc, core := { based.core with stat := 0x80#32 } }
theorem witness_KarpolBoundaries_entry : due.clk.held = false ∧ due.undef = false ∧ due.pair.mode = 0 ∧ due.pair.asChk = false ∧
    coreIssues due = true ∧ due.core.shadow = false ∧ irqDue due = some 1 ∧
    rfld due (evcBase + 0x008) 0 16 = 0 := by decide +kernel
theorem witness_KarpolBoundaries_enters : Spec.Enters due (16 + 1) due.core.pc := enters_of (by decide +kernel)
theorem witness_KarpolBoundaries_wait : let s := { asked with core := { waiting := true } }
    sentinelRuns s = true ∧ s.core.waiting = true ∧ s.idn.booting = false ∧ s.idn.halted = false ∧ s.core.lockup = false ∧
    sentinelPending s = true ∧ s.clk.pstate ≠ .nap ∧ irqDue s = none ∧ s.pair.haltWanted = false ∧ s.pair.resyncWanted = false := by decide +kernel
theorem witness_KarpolBoundaries_bp : let s := { on with pair := { on.pair with brk := true, bps := [(0, (0#32, true))] } }
    s.pair.mode = 0 ∧ s.undef = false ∧ kReady s = true ∧ atBp s = true := by decide +kernel
/-- The pair in Loose mode, `a` in A0, the last room of the checker's queue of 253 free. -/
def loose (a : Word) : State :=
  { withCore { a := [(0, a)] } with pair := { on.pair with mode := 1, queue := List.replicate 253 (.load 0#32), lag := 1 } }
theorem loose_of {s : State} (h : s.clk.held = false ∧ s.undef = false ∧ kReady s = true ∧ atBp s = false ∧
    fetchFault s.core.pc.toNat = none ∧ s.pair.mode = 1 ∧ s.pair.asChk = false ∧ s.pair.queue.length ≤ 253) : Spec.RunsLoose s :=
  ⟨h.1, h.2.1, h.2.2.1, h.2.2.2.1, h.2.2.2.2.1, h.2.2.2.2.2.1, h.2.2.2.2.2.2.1, h.2.2.2.2.2.2.2⟩
theorem witness_KarpolBoundaries_loose : Spec.RunsLoose (loose 0x200FFFFC#32) ∧ Spec.RunsLoose (loose 0x20000000#32) ∧
    (Spec.alu on (.kShl 15 0 15)).isSome = true ∧ (Spec.compare on (.kCmpi 15 0x8000#16)).isSome = true ∧
    (let s := loose 0x2001FFFC#32
     eaOf (.disp 0 0#16) 4 s = some (0x2001FFFC#32, none) ∧ accessFault false 0x2001FFFC 4 = none ∧ accessFault true 0x2001FFFC 4 = none ∧
     regionOf 0x2001FFFC ≠ .block ∧ regionOf 0x2001FFFC ≠ .window) :=
  ⟨loose_of (by decide +kernel), loose_of (by decide +kernel), by decide +kernel⟩
theorem witness_KarpolBoundaries_gap : let p : Pair := { on.pair with mode := 1, since := 0xFFFFF }
    let s := { withRegs [(0x40090008, 1#32)] with pair := p }
    let t := { on with pair := p }
    coreIssues s = true ∧ gapDue s = true ∧ s.pair.lag = 0 ∧ s.pair.queue = [] ∧ s.pair.sigMain = s.pair.sigChk ∧ rbit s pairCtrl 0 = true ∧
    coreIssues t = true ∧ gapDue t = true ∧ rbit t pairCtrl 0 = false ∧
    (let u := { t with pair := { p with sigMain := p.sigChk + 1 } }
     coreIssues u = true ∧ gapDue u = true ∧ u.pair.sigMain ≠ u.pair.sigChk) := by decide +kernel

/-! Doors. -/

/-- A command whose packet describes `i` bytes of input and `o` of output. -/
def ptrCommand (op i o : Nat) (params : Bytes) : Cmd :=
  { tag := 7, opcode := op, flags := 4, gen := 0, stage := .waiting
    pkt := leBytes 1 op ++ leBytes 1 4 ++ leBytes 2 7 ++ leBytes 4 0 ++ leBytes 2 params.length ++ leBytes 6 0 ++
      leBytes 8 0x30000000 ++ leBytes 4 i ++ leBytes 4 o ++ leBytes 8 0x30001000 ++
      fitBytes 24 params }

/-- `s` with a command of door `d` that the Interpreter dispatches now. -/
def readyIn (s : State) (d op : Nat) (params : Bytes) : State := waitingIn s d (command op 0 params)
def ready (d op : Nat) (params : Bytes) : State := readyIn on d op params
def readyPtr (d op i o : Nat) (params : Bytes) : State := waitingIn on d (ptrCommand op i o params)

/-- A formed reply. -/
def formed : Reply := Spec.reply on (command 0 0 []) 0 0 0 0 0 none

/-- `on` with a door. -/
def withDoor (d : Nat) (x : Door) : State := { on with doors := [(d, x)] }

theorem witness_Replies_final : findCmd (ready 3 0 []) 3 7 = some (command 0 0 []) ∧ (command 0 0 []).dropped = false ∧
    findCmd (waitingIn on 0 { command 0 0 [] with dropped := true }) 0 7 = some { command 0 0 [] with dropped := true } := by decide +kernel
theorem witness_Replies_deliver : let x : Door := { linkUp := true, ringEnable := true, replies := [formed], rplTail := 15, rplHead := 1 }
    on.clk.held = false ∧ (door (withDoor 1 x) 1).replies = [formed] ∧ (door (withDoor 1 x) 1).resetPend = false ∧
    15 = (door (withDoor 1 x) 1).rplTail % 2 ^ (door (withDoor 1 x) 1).rringLog2 ∧
    (15 + 1) % 2 ^ (door (withDoor 1 x) 1).rringLog2 ≠ (door (withDoor 1 x) 1).rplHead % 2 ^ (door (withDoor 1 x) 1).rringLog2 := by decide +kernel
theorem witness_Replies_moderation : (door (withDoor 0 { modRunning := true }) 0).held = [] ∧
    (door (withDoor 0 { modRunning := true, held := [0] }) 0).modRunning = true ∧ (door on 0).modRunning = false ∧ (door on 0).replies = [] := by decide +kernel

theorem witness_DoorCommands_plain : Spec.Takes (ready 3 0x00 []) 3 7 0x00 (command 0x00 0 []) ∧ Spec.Takes (ready 2 0x02 []) 2 7 0x02 (command 0x02 0 []) ∧
    pktPtr (command 0x02 0 []).pkt = false ∧ Spec.Takes (ready 0 0x03 []) 0 7 0x03 (command 0x03 0 []) ∧
    Spec.Takes (ready 0 0x04 []) 0 7 0x04 (command 0x04 0 []) ∧ Spec.Takes (ready 0 0x05 (bytes [0xFF, 0xFF])) 0 7 0x05 (command 0x05 0 (bytes [0xFF, 0xFF])) := by
  refine ⟨takes_of ?_, takes_of ?_, ?_, takes_of ?_, takes_of ?_, takes_of ?_⟩ <;> decide +kernel
theorem witness_DoorCommands_ptr : Spec.Takes (readyPtr 0 0x01 32 304 []) 0 7 0x01 (ptrCommand 0x01 32 304 []) ∧ Spec.Room 0 (ptrCommand 0x01 32 304 []) 32 304 ∧
    cmdInput (Spec.taken (readyPtr 0 0x01 32 304 []) 0 7) 0 (ptrCommand 0x01 32 304 []) (some (List.replicate 32 0#8)) = some (List.replicate 32 0#8) ∧
    Spec.Takes (readyPtr 3 0x02 0 64 []) 3 7 0x02 (ptrCommand 0x02 0 64 []) ∧ pktPtr (ptrCommand 0x02 0 64 []).pkt = true ∧ Spec.Room 3 (ptrCommand 0x02 0 64 []) 0 64 := by
  refine ⟨takes_of ?_, room_of ?_, ?_, takes_of ?_, ?_,
    room_of ?_⟩ <;> decide +kernel
theorem witness_DoorCommands_claim : let s := waitingIn (withDoor 1 { session := true }) 1 (command 0x03 0 (bytes [1]))
    Spec.Takes s 1 7 0x03 (command 0x03 0 (bytes [1])) ∧ (door (Spec.taken s 1 7) 1).session = true ∧
    bitAt (pByte (command 0x03 0 (bytes [1])).pkt 0) 0 = true ∧ bitAt (pByte (command 0x03 0 []).pkt 0) 0 = false ∧
    (door (Spec.taken (ready 0 0x03 []) 0 7) 0).session = false :=
  ⟨takes_of (by decide +kernel), by decide +kernel⟩
theorem witness_Statistics_port : Spec.Takes (readyPtr 3 0x50 0 256 (bytes [15])) 3 7 0x50 (ptrCommand 0x50 0 256 (bytes [15])) ∧
    Spec.Takes (readyPtr 0 0x50 0 256 (bytes [15])) 0 7 0x50 (ptrCommand 0x50 0 256 (bytes [15])) ∧
    Spec.Room 3 (ptrCommand 0x50 0 256 (bytes [15])) 0 256 ∧ Spec.Room 0 (ptrCommand 0x50 0 256 (bytes [15])) 0 256 ∧
    pByte (ptrCommand 0x50 0 256 (bytes [15])).pkt 0 = 15 ∧
    (port (readyPtr 0 0x50 0 256 (bytes [15])) 15).owner ≠ some 0 := by
  refine ⟨takes_of ?_, takes_of ?_, room_of ?_,
    room_of ?_, ?_⟩ <;> decide +kernel
theorem witness_Statistics_chan : let c := ptrCommand 0x51 0 128 (bytes [0xFF, 0x1F, 1, 0])
    Spec.Takes (waitingIn on 3 c) 3 7 0x51 c ∧ Spec.Room 3 c 0 (128 * 1) ∧ pLe c.pkt 0 2 = 8191 ∧ pLe c.pkt 2 2 = 1 :=
  ⟨takes_of (by decide +kernel), room_of (by decide +kernel), by decide +kernel⟩
theorem witness_Statistics_clear : let c := command 0x52 0 (bytes [0, 0, 15, 0])
    let e := command 0x52 0 (bytes [1, 0, 0xFF, 0x1F])
    Spec.Takes (waitingIn on 3 c) 3 7 0x52 c ∧ pByte c.pkt 0 = 0 ∧ pLe c.pkt 2 2 = 15 ∧ Spec.Takes (waitingIn on 3 e) 3 7 0x52 e ∧
    pByte e.pkt 0 = 1 ∧ pLe e.pkt 2 2 = 8191 := by
  refine ⟨takes_of ?_, ?_, ?_, takes_of ?_, ?_⟩ <;> decide +kernel
theorem witness_Statistics_tel : let c := command 0x53 0 (bytes [0xE8, 3, 31])
    Spec.Takes (waitingIn on 0 c) 0 7 0x53 c ∧ pLe c.pkt 0 2 = 1000 ∧ fld (pByte c.pkt 2) 0 5 = 31 ∧
    (door (withDoor 2 { telPeriod := 1000, telItems := 16 }) 2).telPeriod ≠ 0 ∧ (door (withDoor 2 { telPeriod := 1000, telItems := 16 }) 2).telItems = 2 ^ 4 :=
  ⟨takes_of (by decide +kernel), by decide +kernel⟩
theorem witness_OfficerCommands_grant : let c := command 0x70 0 (bytes [2, 0, 0, 0, 0x7F, 0x3F, 0, 0])
    Spec.Takes (waitingIn on 3 c) 3 7 0x70 c ∧ pByte c.pkt 0 = 2 ∧ pLe c.pkt 4 4 = 0x3F7F ∧ bitAt 0x3F7F 7 = false ∧ fld 0x3F7F 14 18 = 0 ∧
    0x3F7F ≠ (door (Spec.taken (waitingIn on 3 c) 3 7) 2).grant ∧ 0 = (door (Spec.taken (waitingIn on 3 c) 3 7) 2).grant :=
  ⟨takes_of (by decide +kernel), by decide +kernel⟩
theorem witness_OfficerCommands_owner : let c := command 0x71 0 (bytes [0, 3, 0xFF, 0x1F])
    let x := Spec.taken (waitingIn on 3 c) 3 7
    Spec.Takes (waitingIn on 3 c) 3 7 0x71 c ∧ ownerIndexOk 0 8191 = true ∧ ownerRefused x 0 8191 = none ∧ ownerNow x 0 8191 ≠ 3 ∧
    ownerNow x 0 8191 = 0xFF ∧ ownerIndexOk 1 15 = true ∧ ownerRefused x 1 15 = none :=
  ⟨takes_of (by decide +kernel), by decide +kernel⟩
theorem witness_OfficerCommands_module : let c := command 0x73 0 (bytes [15, 3, 0x77, 0xFF])
    Spec.Takes (waitingIn on 3 c) 3 7 0x73 c ∧ pByte c.pkt 0 = 15 ∧ pByte c.pkt 1 = 3 ∧ pByte c.pkt 2 = 0x77 ∧ pByte c.pkt 3 = 0xFF :=
  ⟨takes_of (by decide +kernel), by decide +kernel⟩

/-! Stock. -/

/-- An EPOCH_LEN entry. -/
def epochEntry : Bytes := fitBytes 32 (bytes [10, 0, 0, 0, 0, 0, 0, 0, 24])

/-- `on` with an Apply of door 0. -/
def applying (a : Apply) : State := { on with stock := { on.stock with apply := some a } }
def pendingApply : Apply := { door := 0, tag := 7, target := 1, earliest := true, waitRelease := false }

theorem witness_StockCommands_set : let c := command 0x10 0 epochEntry
    Spec.Takes (waitingIn on 0 c) 0 7 0x10 c ∧ pktPtr c.pkt = false ∧ entryFault (slice c.pkt 16 32) = none ∧
    (layEntries (area on 0).entries [slice c.pkt 16 32]).length = 1 ∧ 512 ≤ stockSharedFree on :=
  ⟨takes_of (by decide +kernel), by decide +kernel⟩
theorem witness_StockCommands_get : let c := ptrCommand 0x11 0 32 (bytes [1, 0, 0, 0, 0, 10])
    Spec.Takes (waitingIn on 1 c) 1 7 0x11 c ∧ pByte c.pkt 0 = 1 ∧ pLe c.pkt 4 2 = 2560 ∧
    Spec.Room 1 c 0 (32 + 32 * min 2560 ((area on 1).entries.length - pLe c.pkt 2 2)) := by
  refine ⟨takes_of ?_, ?_, ?_, room_of ?_⟩ <;> decide +kernel
theorem witness_StockCommands_check : let s := { on with stock := { on.stock with areas := [(0, { entries := [(10 * 65536, (0, fitBytes 24 (bytes [24])))] })] } }
    Spec.Takes (readyIn s 0 0x12 []) 0 7 0x12 (command 0x12 0 []) ∧ (area s 0).entries ≠ [] ∧ (area on 0).entries = [] :=
  ⟨takes_of (by decide +kernel), by decide +kernel⟩
theorem witness_StockCommands_checkEnd : let c := { command 0x12 0 [] with stage := .running, aux := [0, 5, 1, 0, 0, 0] }
    findCmd (waitingIn on 0 c) 0 7 = some c ∧ (area (waitingIn on 0 c) 0).mods = 0 ∧
    (area { on with stock := { on.stock with areas := [(0, { mods := 1 })] } } 0).mods ≠ 0 := by decide +kernel
theorem witness_StockCommands_apply : let s := { on with stock := { on.stock with areas := [(0, { passed := true })] } }
    Spec.Takes (readyIn s 0 0x13 []) 0 7 0x13 (command 0x13 0 []) ∧ s.stock.apply = none ∧ (area s 0).passed = true ∧
    (area s 0).checkVer = s.stock.liveVer ∧ earliestBoundary s (area s 0).entries.length = 1 ∧ pLe (command 0x13 0 []).pkt 0 8 = 0 ∧
    pLe (command 0x13 0 (bytes [0, 0, 1])).pkt 0 8 = 65536 ∧ 65536 ≤ s.epoch.boundaries + 65536 :=
  ⟨takes_of (by decide +kernel), by decide +kernel⟩
theorem witness_StockDiscard : Spec.Takes (readyIn (applying pendingApply) 3 0x14 []) 3 7 0x14 (command 0x14 0 []) ∧
    ∀ a ∈ (applying pendingApply).stock.apply, a.door ≠ 3 := ⟨takes_of (by decide +kernel), by decide +kernel⟩
theorem witness_StockFrozen : Spec.Takes (readyIn (applying pendingApply) 0 0x12 []) 0 7 0x12 (command 0x12 0 []) ∧ pendingApply.door = 0 ∧
    Spec.Takes (readyIn (applying pendingApply) 3 0x12 []) 3 7 0x12 (command 0x12 0 []) ∧
    (area (setArea 3 { entries := [(0, 0, [])] } (applying pendingApply)) 3).entries ≠ [] ∧
    (let c := ptrCommand 0x11 0 32 (bytes [0, 0, 0, 0, 0, 10])
     Spec.Takes (waitingIn on 0 c) 0 7 0x11 c ∧ Spec.Room 0 c 0 32 ∧ pByte c.pkt 0 = 0 ∧ pLe c.pkt 4 2 = 2560 ∧ (area on 0).entries.length ≤ pLe c.pkt 2 2) := by
  refine ⟨takes_of ?_, ?_, takes_of ?_, ?_, takes_of ?_,
    room_of ?_, ?_⟩ <;> decide +kernel
theorem witness_Applies : (applying { pendingApply with waitRelease := true }).stock.apply = some { pendingApply with waitRelease := true } ∧
    (∀ f ∈ on.mach.frames, f.bank = on.stock.active) ∧ 0 < earliestBoundary on (area on 0).entries.length ∧ on.stock.apply = none ∧
    (applying pendingApply).clk.held = false ∧ pendingApply.waitRelease = false ∧ pendingApply.target = ((applying pendingApply).epoch.boundaries + 1) % 2 ^ 64 ∧
    ({ pendingApply with waitRelease := true, earliest := false, target := 0 } : Apply).target < earliestBoundary on 0 := by decide +kernel

/-! Events. -/

theorem witness_ClaimsReturnTheBest : claimed asked 0 = some 0 ∧ claimed on 0 = none ∧ bitAt (evcPend asked 0) 0 = true ∧
    (let s := { asked with core := { stat := 0xF00#32 } }
     claimed s 0 = none ∧ deliverable s 0 0 = true) ∧
    (let s := { withRegs [(0x400003FC + 4 * 256, 0x80F#32)] with evc := { on.evc with pend := [(3, 2 ^ 255)] }, doors := [(2, { grant := 1 })] }
     claimed s 3 = some 255) := by decide +kernel
theorem witness_Completions : (0x3FF#10).toNat = 1023 ∧ evcStack { on with evc := { on.evc with stk := [(1, [(255, 1)])] } } 1 = [((255#10).toNat, 1)] ∧
    leAt (bytes [0xFE, 3]) 0 2 = 0x3FE ∧ (bytes [0xFE, 3]).length = 2 ∧
    evcStack { on with evc := { on.evc with stk := [(3, [(0x3FE, 15)])] } } 3 = [(leAt (bytes [0xFE, 3]) 0 2, 15)] := by decide +kernel
theorem witness_StackFaults : (evcStack on 2).head? = none ∧ 0x3FF = ((evcStack on 2).head?.map Prod.fst).getD 0x3FF ∧
    (∀ e ∈ (evcStack { on with evc := { on.evc with stk := [(2, [(255, 1)])] } } 2).head?, e.1 ≠ (0#10).toNat) ∧
    leAt (bytes [0, 0]) 0 2 < 0x3FF := by decide +kernel
theorem witness_EventSources : 192 ≤ (0xFF#32).toNat % 256 ∧ (0xBF#32).toNat % 256 < 192 ∧ srcTargets asked 0 0 = true := by decide +kernel

/-- A door that may fetch a packet. -/
def openDoor : Door := { linkUp := true, session := true, ringEnable := true, cmdTail := 1, grant := 0x7F }
theorem witness_PacketsAndRings : mayFetch (withDoor 1 openDoor) 1 = true ∧
    (let p := fetchBytes (withDoor 1 openDoor) 1 (packet 0 0 9 0 [])
     pktCrcComputed p ≠ pktCrc p ∧ p.length = 64) ∧
    (let p := fetchBytes (withDoor 1 openDoor) 1 (sealed (packet 0 0 9 5 []))
     pktCrcComputed p = pktCrc p ∧ pktSeq p ≠ (door (consumePkt 1 (withDoor 1 openDoor)) 1).expectSeq) ∧
    (let p := fetchBytes (withDoor 1 openDoor) 1 (sealed (packet 0xFF 0 9 0 []))
     pktCrcComputed p = pktCrc p ∧ pktSeq p = (door (consumePkt 1 (withDoor 1 openDoor)) 1).expectSeq ∧
     (startFault (withDoor 1 openDoor) 1 p).isSome = true) ∧
    (let p := fetchBytes (withDoor 1 openDoor) 1 (sealed (packet 0 0 9 0 []))
     pktCrcComputed p = pktCrc p ∧ startFault (withDoor 1 openDoor) 1 p = none ∧ (door (withDoor 1 openDoor) 1).floorUsed < 32) ∧
    (door on 1).ringEnable = false ∧ wbit 1#32 0 = true ∧ wbit 2#32 0 = false := by decide +kernel
theorem witness_PacketsAndRings_spi : let s := withDoor 2 { session := true, grant := 0x7F, spiQueue := [sealed (packet 0 0 9 0 [])] }
    mayFetch s 2 = true ∧ pktCont (fetchBytes s 2 []) = false ∧ collecting (door s 2) = none ∧ startFault s 2 (fetchBytes s 2 []) = none := by decide +kernel
theorem witness_DoorResets : (door on 1).linkUp = false ∧ (door (withDoor 2 { lastSpi := 0x66 }) 2).lastSpi = 0x66 ∧ (door on 2).lastSpi ≠ 0x66 ∧
    (door (withDoor 3 { resetPend := true }) 3).resetPend = true ∧ tableWf {} 0 (withDoor 1 openDoor).doors = true ∧
    tableWf {} 0 (withDoor 2 { lastSpi := 0x66 }).doors = true ∧ tableWf {} 0 (withDoor 3 { resetPend := true }).doors = true ∧
    tableWf {} 0 on.doors = true := by decide +kernel
theorem witness_SpiInstructions : (List.replicate 64 0#8).length = 64 ∧ (door (withDoor 2 { spiQueue := List.replicate 7 [] }) 2).spiQueue.length < 8 ∧
    8 ≤ (door (withDoor 2 { spiQueue := List.replicate 8 [] }) 2).spiQueue.length ∧ (door (withDoor 2 { replies := [formed] }) 2).replies = [formed] ∧
    (door on 2).replies = [] ∧ (door (withDoor 2 { window := some [0#8] }) 2).window.getD [] = [0#8] := by decide +kernel

/-! Keys. -/

/-- An SA_LOAD record of a channel key under V0, and of vault entry V15. -/
def saRecord : Bytes := bytes [0xFF, 0x1F, 0, 0, 0, 3, 0, 0] ++ leBytes 4 1 ++ leBytes 4 3600 ++ leBytes 8 1 ++ List.replicate 72 0#8
def saVault : Bytes := bytes [15, 0, 1, 0, 0, 0, 0, 0] ++ List.replicate 88 0#8
/-- `on` with channel 8191 door 3's and V0 derived. -/
def keyed : State := { on with keys := { on.keys with chans := [(8191, { owner := some 3 })], v0 := List.replicate 32 1#8, v0Ready := true } }
/-- `on` with channel `n`. -/
def withChan (n : Nat) (x : Chan) : State := { on with keys := { on.keys with chans := [(n, x)] } }

theorem witness_KeyCommands_load : let c := ptrCommand 0x20 96 0 []
    let s := { waitingIn keyed 3 c with mem := (List.zip ((List.range 96).map (0x30000000 + ·)) saRecord).filter fun e => e.2 != 0#8 }
    let x := Spec.taken s 3 7
    Spec.Takes s 3 7 0x20 c ∧ Spec.Room 3 c 96 0 ∧ cmdInput x 3 c none = some saRecord ∧ saRecordFault x saRecord = none ∧
    loadStops x 3 saRecord = none ∧ byteAt saRecord 2 = 0 ∧ leAt saRecord 0 2 = 8191 ∧ chanWaits x 8191 = false ∧
    (let r := List.replicate 96 0xFF#8
     let y := { s with mem := (List.range 96).map fun i => (0x30000000 + i, 0xFF#8) }
     Spec.Takes y 3 7 0x20 c ∧ cmdInput (Spec.taken y 3 7) 3 c none = some r ∧ (saRecordFault (Spec.taken y 3 7) r).isSome = true) := by
  refine ⟨takes_of ?_, room_of ?_, ?_, ?_, ?_, ?_,
    ?_, ?_, takes_of ?_, ?_⟩ <;> decide +kernel
theorem witness_KeyCommands_vault : saVault.length = 96 ∧ saRecordFault keyed saVault = none ∧ byteAt saVault 2 = 1 ∧ loadStops keyed 3 saVault = none ∧
    vaultFull keyed 15 = false ∧ byteAt saVault 4 = 0 ∧ bitAt (byteAt saVault 3) 2 = false := by decide +kernel
/-- Where the blob unwraps to 32 bytes, what it unwraps to is the key: whether it does is the standard's, not the model's. -/
theorem witness_KeyCommands_unwrap (bs : Bytes) (h : keyUnwrap 0 keyed.keys.v0 (slice saRecord 40 (blobLen saRecord)) = some bs)
    (n : bs.length = 32) : saUnwrap keyed saRecord = .inr bs := by
  have f : b2n (bitAt (byteAt saRecord 3) 1) = 0 := by decide +kernel
  have g : kekKey keyed (byteAt saRecord 4) = some keyed.keys.v0 := by decide +kernel
  have p : (byteAt saRecord 2 == 1 && bitAt (byteAt saRecord 3) 2) = false := by decide +kernel
  simp [saUnwrap, f, g, p, h, n]
theorem witness_KeyCommands_retire : let c := command 0x21 0 (bytes [0xFF, 0x1F, 0])
    let e := command 0x21 0 (bytes [0xFF, 0x1F, 1])
    Spec.Takes (waitingIn keyed 3 c) 3 7 0x21 c ∧ Spec.Takes (waitingIn keyed 3 e) 3 7 0x21 e ∧ pLe c.pkt 0 2 = 8191 ∧ pByte c.pkt 2 = 0 ∧ pByte e.pkt 2 = 1 ∧
    mayUse (chan keyed 8191).owner 3 = true ∧ applyNamesChan keyed 8191 = false ∧ bindOf (liveBank keyed) 8191 = none ∧ chanWaits keyed 8191 = false :=
  ⟨takes_of (by decide +kernel), takes_of (by decide +kernel), by decide +kernel⟩
theorem witness_KeyCommands_query : let c := ptrCommand 0x22 0 64 (bytes [0xFF, 0x1F, 1, 0])
    Spec.Takes (waitingIn on 3 c) 3 7 0x22 c ∧ Spec.Room 3 c 0 (64 * 1) ∧ pLe c.pkt 0 2 = 8191 ∧ pLe c.pkt 2 2 = 1 :=
  ⟨takes_of (by decide +kernel), room_of (by decide +kernel), by decide +kernel⟩
theorem witness_KeyEvents : (chan (withChan 0 { nxt := { state := 3 } }) 0).nxt.state = 3 ∧ chanDir (withChan 0 {}) 0 = 0 ∧ drainBusy (withChan 0 { nxt := { state := 3 } }) 0 = false ∧
    (let s := { withChan 6 { nxt := { state := 3, demotedT := 1250000 } } with
       stock := { on.stock with bank0 := [(5 * 65536 + 6, fitBytes 24 (bytes [1, 0, 7, 1, 64, 0, 0, 8, 0, 0, 2, 2, 2, 2, 2, 2, 0, 1, 1]))] }
       epoch := { on.epoch with base := 2500000 } }
     (∃ b, bindOf (liveBank s) 6 = some b ∧ b.grace * 1250000 ≤ nowP s - (chan s 6).nxt.demotedT) ∧ (chan s 6).nxt.state = 3 ∧
     chanDir s 6 ≠ 0 ∧ kidBusy s (chan s 6).nxt.kid = false ∧
     (∃ b, bindOf (liveBank s) 6 = some b ∧
       nowP { s with epoch := on.epoch } - (chan s 6).nxt.demotedT < b.grace * 1250000)) ∧
    (let s := { withChan 5 { cur := { state := 2, lifetime := 8 } } with epoch := { on.epoch with base := 7 * 1250000000 } }
     (chan s 5).cur.state = 2 ∧ (chan s 5).cur.aged = false ∧ (chan s 5).cur.lifetime ≠ 0 ∧
     7 * (chan s 5).cur.lifetime * 1250000000 ≤ 8 * (nowP s - (chan s 5).cur.promotedT)) ∧
    (chan (withChan 5 { cur := { aged := true } }) 5).cur.aged = true := by
  refine ⟨?_, ?_, ?_, ⟨⟨_, rfl, ?_⟩, ?_, ?_, ?_,
    ⟨_, rfl, ?_⟩⟩, ?_⟩ <;> decide +kernel

/-- `on` with KE slot `k`. -/
def withKe (k : Nat) (x : KeSlot) : State := { on with keys := { on.keys with ke := [(k, x)] } }
theorem witness_KeySlots_timeout : (keSlot (withKe 15 { state := 1 }) 15).state = 1 ∧ keRuns (withKe 15 { state := 1 }) 15 = false ∧
    (let s := withKe 15 { state := 1, timeout := 1, opened := 0 }
     nowP s - (keSlot s 15).opened < (keSlot s 15).timeout * 1250000000 ∧
     (let t := { s with epoch := { on.epoch with base := 1250000000 } }
      (keSlot t 15).timeout * 1250000000 ≤ nowP t - (keSlot t 15).opened)) ∧
    (let c := { command 0x31 0 (bytes [15]) with stage := .running, aux := [15, 3] }
     let s := waitingIn { withKe 15 { state := 1, serial := 3 } with keys := { (withKe 15 { state := 1, serial := 3 }).keys with units := [(2, [(0, 7)])] } } 0 c
     keRuns s 15 = true) := by decide +kernel
theorem witness_KeySlots_open : let c := command 0x30 0 (bytes [0x58, 2])
    let full := { on with keys := { on.keys with ke := (List.range 16).map fun k => (k, { state := 1 }) } }
    let last := { on with keys := { on.keys with ke := (List.range 15).map fun k => (k, { state := 1 }) } }
    Spec.Takes (waitingIn last 0 c) 0 7 0x30 c ∧ Spec.Takes (waitingIn full 0 c) 0 7 0x30 c ∧ pLe c.pkt 0 2 = 600 ∧ (keSlot last 15).state = 0 ∧
    (∀ j : Nat, j < 15 → (keSlot last j).state ≠ 0) ∧ (∀ j : Nat, j < 16 → (keSlot full j).state ≠ 0) :=
  ⟨takes_of (by decide +kernel), takes_of (by decide +kernel), by decide +kernel⟩
theorem witness_KeySlots_close : let c := command 0x32 0 (bytes [15, 0])
    Spec.Takes (waitingIn (withKe 15 { state := 1 }) 0 c) 0 7 0x32 c ∧ pktPtr c.pkt = false ∧ pByte c.pkt 0 = 15 ∧ pByte c.pkt 1 = 0 ∧
    keBarred (withKe 15 { state := 1 }) 0 15 = false ∧ keRuns (waitingIn (withKe 15 { state := 1 }) 0 c) 15 = false ∧
    (keSlot (withKe 15 { state := 1 }) 15).state = 1 ∧ (keSlot (withKe 15 { state := 1 }) 15).expired = false ∧
    Spec.Takes (waitingIn (withKe 15 { state := 2 }) 0 c) 0 7 0x32 c ∧ (keSlot (withKe 15 { state := 2 }) 15).state = 2 := by
  refine ⟨takes_of ?_, ?_, ?_, ?_, ?_, ?_,
    ?_, ?_, takes_of ?_, ?_⟩ <;> decide +kernel
/-- Door 0 closes KE slot 15 while its operation, of door 1, still runs past the slot's timeout. -/
theorem witness_KeySlots_closeRuns : let c := command 0x32 0 (bytes [15, 0])
    let w := withKe 15 { state := 1, owner := 0, serial := 3, expired := true }
    let e := { command 0x31 0 (bytes [15]) with stage := .running, aux := [15, 3], tag := 8 }
    let s := { w with doors := [(0, { cmds := [e, c] })], keys := { w.keys with units := [(2, [(0, 8)])] } }
    Spec.Takes s 0 7 0x32 c ∧ keBarred s 0 15 = false ∧ keRuns s 15 = true ∧ (keSlot s 15).expired = true :=
  ⟨takes_of (by decide +kernel), by decide +kernel⟩
theorem witness_KeySlots_commit : let c := ptrCommand 0x32 24 0 (bytes [15, 1])
    let s := waitingIn { withKe 15 { state := 1, owner := 0, outs := [(3, List.replicate 44 1#8)] } with
      keys := { (withKe 15 { state := 1, owner := 0, outs := [(3, List.replicate 44 1#8)] }).keys with chans := [(8191, { owner := some 0 })] } } 0 c
    let s1 := { s with doors := [(0, { door s 0 with grant := 0x7F })] }
    let bs := bytes [3, 0, 0xFF, 0x1F, 0, 3, 0, 0] ++ leBytes 4 1 ++ leBytes 4 0 ++ leBytes 8 1
    Spec.Takes s1 0 7 0x32 c ∧ pointersOk 0 c.pkt = true ∧ pktPtr c.pkt = true ∧ pByte c.pkt 0 = 15 ∧ pByte c.pkt 1 = 1 ∧ pktInLen c.pkt = 24 * 1 ∧ keBarred s1 0 15 = false ∧
    keState (keSlot s1 15) = 1 ∧ cmdInput (Spec.taken s1 0 7) 0 c (some bs) = some bs ∧
    pairsFault (Spec.taken s1 0 7) (splitPairs 1 bs) = none ∧
    pairsRefused (Spec.taken s1 0 7) 0 (keSlot s1 15) (splitPairs 1 bs) = none ∧
    (∀ r ∈ splitPairs 1 bs, byteAt r 1 = 0 → (chan s1 (leAt r 2 2)).owner ≠ none) :=
  ⟨takes_of (by decide +kernel), by decide +kernel⟩

/-- A KE_STEP of KE slot 15: operation, argument, flags, bytes of input and of output. -/
def stepCmd (op arg fl i o : Nat) : Cmd := if i = 0 ∧ o = 0 then command 0x31 0 (bytes [15, op, arg, fl]) else ptrCommand 0x31 i o (bytes [15, op, arg, fl])
/-- KE slot 15, open for door 0 with what is in it. -/
def opened : KeSlot := { state := 1, owner := 0, ec := some [1#8], dk := some [2#8], zEc := some [3#8], kPq := some [4#8] }
def stepping (op arg fl i o : Nat) : State := waitingIn (withKe 15 opened) 0 (stepCmd op arg fl i o)

theorem witness_KeSteps_takes : Spec.Takes (stepping 2 0 0 97 0) 0 7 0x31 (stepCmd 2 0 0 97 0) ∧ keState (keSlot (stepping 2 0 0 97 0) 15) = 1 :=
  ⟨takes_of (by decide +kernel), by decide +kernel⟩
theorem witness_KeSteps_keygen : Spec.StepOk (Spec.taken (stepping 1 0 0 0 97) 0 7) 0 1 (stepCmd 1 0 0 0 97) (some []) [] { slot := true, out := 97 } ∧
    Spec.present 1 (keSlot (stepping 1 0 0 0 97) (stepSlot (stepCmd 1 0 0 0 97))) = true := ⟨by constructor <;> decide +kernel, by decide +kernel⟩
theorem witness_KeSteps_dh : let bs := List.replicate 97 9#8
    Spec.StepOk (Spec.taken (stepping 2 0 0 97 0) 0 7) 0 2 (stepCmd 2 0 0 97 0) (some bs) bs { slot := true, inLo := 97, inHi := 97 } ∧
    Spec.present 2 (keSlot (stepping 2 0 0 97 0) 15) = true ∧ Spec.present 2 (keSlot (withKe 15 { opened with ec := none }) 15) = false :=
  ⟨by constructor <;> decide +kernel, by decide +kernel⟩
theorem witness_KeSteps_kem : let bs := List.replicate 1568 9#8
    Spec.StepOk (Spec.taken (stepping 3 0 0 0 1568) 0 7) 0 3 (stepCmd 3 0 0 0 1568) (some []) [] { slot := true, out := 1568 } ∧
    Spec.StepOk (Spec.taken (stepping 4 0 0 1568 1568) 0 7) 0 4 (stepCmd 4 0 0 1568 1568) (some bs) bs { slot := true, inLo := 1568, inHi := 1568, out := 1568 } ∧
    Spec.StepOk (Spec.taken (stepping 5 0 0 1568 0) 0 7) 0 5 (stepCmd 5 0 0 1568 0) (some bs) bs { slot := true, inLo := 1568, inHi := 1568 } :=
  ⟨by constructor <;> decide +kernel, by constructor <;> decide +kernel, by constructor <;> decide +kernel⟩
theorem witness_KeSteps_derive : let bs := List.replicate 64 9#8
    Spec.StepOk (Spec.taken (stepping 6 0 0 64 0) 0 7) 0 6 (stepCmd 6 0 0 64 0) (some bs) bs { slot := true, inLo := 1, inHi := 1048576 } ∧
    Spec.StepOk (Spec.taken (stepping 7 3 0 64 0) 0 7) 0 7 (stepCmd 7 3 0 64 0) (some bs) bs { slot := true, argHi := 3, inHi := 64 } :=
  ⟨by constructor <;> decide +kernel, by constructor <;> decide +kernel⟩
theorem witness_KeSteps_status : Spec.StepOk (Spec.taken (stepping 0 0 0 0 8) 0 7) 0 0 (stepCmd 0 0 0 0 8) (some []) [] { slot := true, out := 8 } :=
  by constructor <;> decide +kernel
/-- Vault entry V15, a P-384 key of door 0's; KE slot 15 open; door 0 with `c`. -/
def vaulted (c : Cmd) : State :=
  waitingIn { withKe 15 opened with keys := { (withKe 15 opened).keys with vault := [(15, { key := List.replicate 48 1#8, p384 := true, owner := 0 })] } } 0 c
/-- A KE_STEP without a slot. -/
def freeCmd (op arg fl i o : Nat) : Cmd := ptrCommand 0x31 i o (bytes [0xFF, op, arg, fl])
theorem witness_KeSteps_sign : let c := stepCmd 8 15 0 0 96
    Spec.StepOk (Spec.taken (vaulted c) 0 7) 0 8 c (some []) [] { slot := true, argLo := 1, argHi := 15, out := 96 } ∧ (vaultAt (vaulted c) (stepArg c)).p384 = true :=
  ⟨by constructor <;> decide +kernel, by decide +kernel⟩
theorem witness_KeSteps_hash : let c := freeCmd 0x10 0 0 8 48
    Spec.Takes (vaulted c) 0 7 0x31 c ∧ Spec.StepOk (Spec.taken (vaulted c) 0 7) 0 0x10 c (some (List.replicate 8 0#8)) (List.replicate 8 0#8) { slot := false, inHi := 1048576, out := 48 } :=
  ⟨takes_of (by decide +kernel), by constructor <;> decide +kernel⟩
theorem input_of {s : State} {c : Cmd} {bs : Bytes} (h : bs.length = pktInLen c.pkt) : cmdInput s 0 c (some bs) = some bs := by
  simp [cmdInput, h]
theorem witness_KeSteps_verify : let c := freeCmd 0x11 0 0 193 0
    let e := stepCmd 0x12 0 1 7219 0
    Spec.StepOk (Spec.taken (vaulted c) 0 7) 0 0x11 c (some (List.replicate 193 0#8)) (List.replicate 193 0#8) { slot := false, verify := true, inLo := 193, inHi := 1048576 } ∧
    stepTranscript c = false ∧ stepTranscript e = true ∧
    Spec.StepOk (Spec.taken (vaulted e) 0 7) 0 0x12 e (some (List.replicate 7219 0#8)) (List.replicate 7219 0#8) { slot := true, verify := true, inLo := 7219, inHi := 7219 } :=
  ⟨by constructor <;> decide +kernel, by decide +kernel, by decide +kernel, by
    have input := input_of (s := Spec.taken (vaulted (stepCmd 0x12 0 1 7219 0)) 0 7) (c := stepCmd 0x12 0 1 7219 0)
      (bs := List.replicate 7219 0#8) (List.length_replicate.trans (by decide +kernel))
    constructor
    case input => exact input
    all_goals decide +kernel⟩
theorem witness_KeSteps_vault : let c := freeCmd 0x13 14 0 0 97
    let e := freeCmd 0x13 15 0 0 97
    let w := freeCmd 0x14 15 0 0 56
    Spec.StepOk (Spec.taken (vaulted c) 0 7) 0 0x13 c (some []) [] { slot := false, argLo := 1, argHi := 15, out := 97 } ∧ vaultFull (vaulted c) (stepArg c) = false ∧
    Spec.StepOk (Spec.taken (vaulted e) 0 7) 0 0x13 e (some []) [] { slot := false, argLo := 1, argHi := 15, out := 97 } ∧ vaultFull (vaulted e) (stepArg e) = true ∧
    stepReplace e = false ∧ Spec.StepOk (Spec.taken (vaulted w) 0 7) 0 0x14 w (some []) [] { slot := false, argLo := 1, argHi := 15 } ∧
    vaultFull (vaulted w) (stepArg w) = true ∧ 56 ≤ pktOutLen w.pkt :=
  ⟨by constructor <;> decide +kernel, by decide +kernel, by constructor <;> decide +kernel, by decide +kernel, by decide +kernel, by constructor <;> decide +kernel,
    by decide +kernel⟩
/-- Port 15 a Calender port of door 0's, with a received message. -/
def calPorts : State := { on with
  mach := { on.mach with cal := [(7, { recvq := [(bytes [1, 2], true)] })] }
  ports := [(15, { state := 5, owner := some 0, carrying := true })]
  stock := { on.stock with bank0 := [(2 * 65536 + 15, fitBytes 24 (bytes [1, 0, 2, 1, 14, 6]))] } }
theorem witness_KeSteps_messages : let c := freeCmd 0x15 7 0 2 0
    let e := freeCmd 0x16 7 0 0 2
    let s := waitingIn calPorts 0
    Spec.StepOk (Spec.taken (s c) 0 7) 0 0x15 c (some (bytes [1, 2])) (bytes [1, 2]) { slot := false, argHi := 7, inLo := 1, inHi := 450 } ∧
    isCal (liveBank (s c)) (stepArg c) = true ∧ (cal (s c) 7).sendq.length < 16 ∧
    Spec.StepOk (Spec.taken (s e) 0 7) 0 0x16 e (some []) [] { slot := false, argHi := 7 } ∧ (cal (s e) 7).recvq = (bytes [1, 2], true) :: [] ∧
    (bytes [1, 2]).length ≤ pktOutLen e.pkt ∧ (cal (s e) 0).recvq = [] :=
  ⟨by constructor <;> decide +kernel, by decide +kernel, by decide +kernel, by constructor <;> decide +kernel, by decide +kernel⟩

/-- Slot 15's operation runs on unit `u`. -/
def stepRunning (u op arg i o : Nat) : State :=
  let c := { stepCmd op arg 0 i o with stage := .running, aux := [15, 0] }
  let s := waitingIn (withKe 15 opened) 0 c
  { s with keys := { s.keys with units := [(u, [(0, 7)])] } }
theorem witness_KeCompletions : unitQueue (stepRunning 2 6 0 64 0) 2 = (0, 7) :: [] ∧ (keSlot (stepRunning 2 6 0 64 0) 15).state = 1 ∧
    (∃ c, findCmd (stepRunning 2 6 0 64 0) 0 7 = some c ∧ c.opcode = 0x31 ∧ c.aux.headD 0xFF = 15 ∧ c.aux = [15, (keSlot (stepRunning 2 6 0 64 0) 15).serial] ∧ stepOp c = 6) ∧
    (∃ c, findCmd (stepRunning 2 7 3 64 0) 0 7 = some c ∧ stepOp c = 7 ∧ stepArg c = 3 ∧ (keSlot (stepRunning 2 7 3 64 0) 15).zEc = some [3#8] ∧
      (keSlot (stepRunning 2 7 3 64 0) 15).kPq = some [4#8]) ∧
    (∃ c, findCmd (stepRunning 1 5 0 1568 0) 0 7 = some c ∧ stepOp c = 5 ∧ (keSlot (stepRunning 1 5 0 1568 0) 15).dk = some [2#8]) := by
  refine ⟨?_, ?_, ⟨_, rfl, ?_⟩, ⟨_, rfl, ?_⟩, ⟨_, rfl, ?_⟩⟩ <;> decide +kernel
/-- The elliptic-curve and lattice operations either give a result or do not: the standards say which. -/
theorem witness_KeCompletions_results (sc p r : Bytes) :
    ((∃ z, p384Dh sc p = some z) ∨ p384Dh sc p = none) ∧ ((∃ x, mlkemEncaps p r = some x) ∨ mlkemEncaps p r = none) :=
  ⟨(p384Dh sc p).eq_none_or_eq_some.symm, (mlkemEncaps p r).eq_none_or_eq_some.symm⟩

theorem witness_Zeroise_channel : let c := command 0x23 0 (bytes [0, 0, 0xFF, 0x1F])
    let s := waitingIn (withChan 8191 { owner := some 2 }) 2 c
    Spec.Takes s 2 7 0x23 c ∧ pByte c.pkt 0 = 0 ∧ pLe c.pkt 2 2 = 8191 ∧ (chan s 8191).owner = some 2 ∧ applyNamesChan s 8191 = false :=
  ⟨takes_of (by decide +kernel), by decide +kernel⟩
theorem witness_Zeroise_owned : let c := command 0x23 0 (bytes [1])
    let s := waitingIn (withChan 8191 { owner := some 2 }) 2 c
    Spec.Takes s 2 7 0x23 c ∧ pByte c.pkt 0 = 1 ∧ pLe c.pkt 2 2 = 0 ∧ s.stock.apply = none ∧
    (s.keys.chans.map (·.1)).filter (fun n => (chan s n).owner == some 2) = [8191] :=
  ⟨takes_of (by decide +kernel), by decide +kernel⟩
theorem witness_Zeroise_all : Spec.Takes (ready 3 0x23 (bytes [2])) 3 7 0x23 (command 0x23 0 (bytes [2])) ∧ pByte (command 0x23 0 (bytes [2])).pkt 0 = 2 ∧
    pLe (command 0x23 0 (bytes [2])).pkt 2 2 = 0 ∧ Spec.Takes (ready 3 0x23 (bytes [3])) 3 7 0x23 (command 0x23 0 (bytes [3])) ∧
    pByte (command 0x23 0 (bytes [3])).pkt 0 = 3 := by
  refine ⟨takes_of ?_, ?_, ?_, takes_of ?_, ?_⟩ <;> decide +kernel

/-! Frames. -/

/-- The first frame bytes of an EtherType, to 60 bytes; a frame ends with its FCS. -/
def ether (et : Nat) : Bytes := List.replicate 12 2#8 ++ beBytes 2 et ++ List.replicate 46 0#8
def framed (b : Bytes) : Bytes := b ++ leBytes 4 (crc32 b)
/-- A port that carries. -/
def carrier : Port := { state := 5, carrying := true }
/-- A bank: wet port 0 maps to dry port 7, and channel 5 binds them for encryption in class 2 under AES-128 with replay off,
channel 6 for decryption. -/
def wired : Table Bytes := [
  (3 * 65536, fitBytes 24 (bytes [7])),
  (5 * 65536 + 5, fitBytes 24 (bytes [0, 0, 7, 2, 64, 0, 0, 0, 0, 0, 2, 2, 2, 2, 2, 2, 0, 1])),
  (5 * 65536 + 6, fitBytes 24 (bytes [1, 0, 7, 1, 64, 0, 0, 8, 0, 0, 2, 2, 2, 2, 2, 2, 0, 1]))]
/-- A policy rule for every frame of wet port 0: an action, a class, a channel or an egress port. -/
def rule (action cls n : Nat) : Nat × Bytes :=
  (4 * 65536, fitBytes 24 (bytes [0, 1, 0, action] ++ List.replicate 11 0#8 ++ leBytes 1 cls ++ leBytes 2 (if action = 2 then n else 0) ++ leBytes 1 n))
/-- `on` with ports 0 and 15 up, a bank and frames. -/
def machine (bank : Table Bytes) (l : List Sheet) : State :=
  { on with ports := [(0, carrier), (15, carrier)], stock := { on.stock with bank0 := bank }, mach := { on.mach with frames := l, nextId := 9 } }
/-- A whole frame of a port. -/
def frameOf (port : Nat) (b : Bytes) : Sheet := { id := 1, port := port, slot := some 0, bytes := b, ended := true }
def rx (port : PortId) : RxFrame := { port := port, bytes := framed (ether 0x0800) }

theorem witness_FrameReception_admit : on.fault.mode ≠ 2 ∧ (port on 0).state ∉ [3, 4, 5] ∧ (port (machine [] []) 0).state ∈ [3, 4, 5] ∧
    (machine [] []).fault.mode ≠ 2 ∧ (machine [] []).clk.draining = false ∧ (machine [] []).clk.admitStopped = false ∧
    (port (machine [] []) 0).carrying = true ∧ (machine [] []).fault.mode ≠ 1 ∧
    (port { on with ports := [(15, { state := 4 })] } 15).carrying = false ∧ (port { on with ports := [(15, { state := 4 })] } 15).state ∈ [3, 4, 5] ∧
    { on.clk with admitStopped := true }.draining = false ∧ { on.clk with draining := true }.draining = true := by decide +kernel
/-- Port 0 loops its transmit pins back. -/
def looping (l : List (Bytes × Bool)) : State :=
  { machine [(2 * 65536, fitBytes 24 (bytes [3]))] [] with ports := [(0, { carrier with looped := l })] }
theorem witness_FrameReception_loop : portLoop (liveBank (machine [] [])) 0 = false ∧ portLoop (liveBank (looping [])) 0 = true ∧
    (port (looping []) 0).looped = [] ∧ (port (looping [([1#8], true)]) 0).looped = ([1#8], true) :: [] ∧
    received (machine [] []) (rx 0) = some (rx 0, machine [] []) := by decide +kernel
theorem witness_FrameReception_slot : ∃ i, pickSlot (machine [] []) 0 = some i := by
  have h : ∀ j, slotFree (machine [] []) 0 j = true := fun _ => rfl
  refine ⟨freeVal (machine [] []) % 1024, ?_⟩
  rw [pickSlot, show List.range 1024 = 0 :: (List.range 1023).map (· + 1) from List.range_succ_eq_map, List.map_cons, List.find?_cons_of_pos (h _)]
  rfl
theorem pickSlot_full (l : List Sheet) (h : ∀ j, j < 1024 → ∃ f ∈ l, f.slot = some j ∧ frmDir f = 0) : pickSlot (machine [] l) 0 = none := by
  rw [pickSlot, List.find?_eq_none]
  intro j m
  obtain ⟨i, -, rfl⟩ := List.mem_map.1 m
  obtain ⟨f, n, a, b⟩ := h _ (Nat.mod_lt (freeVal (machine [] l) + i) (by decide))
  simp only [slotFree, Bool.not_eq_true, Bool.not_eq_false', List.any_eq_true]
  exact ⟨f, n, by simp [a, b]⟩
theorem witness_FrameReception_full : ∃ l, pickSlot (machine [] l) 0 = none :=
  ⟨(List.range 1024).map fun i => { frameOf 0 [] with slot := some i },
    pickSlot_full _ fun j n => ⟨{ frameOf 0 [] with slot := some j }, List.mem_map.2 ⟨j, List.mem_range.2 n, by with_reducible rfl⟩, by with_reducible rfl, by simp [frmDir, frameOf]⟩⟩
theorem witness_FrameReception_two : (rx 0).port.val < (rx 15).port.val ∧ ∃ t u, exec (.frameAdmit [rx 0]) on = .next t ∧ exec (.frameAdmit [rx 15]) t = .next u :=
  ⟨by decide, _, _, rfl, rfl⟩
theorem witness_FrameReception_end : let f := { frameOf 15 (framed (ether 0x8808)) with ended := false, maxFrame := 1518 }
    let l := { f with bytes := List.replicate 65 0#8, maxFrame := 64 }
    (machine [] [f]).mach.frames.find? (fun f => f.port == 15 && !f.ended) = some f ∧ f.coding = false ∧ 64 ≤ f.bytes.length ∧ f.bytes.length ≤ f.maxFrame ∧
    crc32 (f.bytes.take (f.bytes.length - 4)) = leAt f.bytes (f.bytes.length - 4) 4 ∧ f.stage ≠ .unmapped ∧ beAt f.bytes 12 2 = 0x8808 ∧
    (machine [] [l]).mach.frames.find? (fun f => f.port == 15 && !f.ended) = some l ∧ 64 ≤ l.bytes.length ∧ l.maxFrame < l.bytes.length ∧
    (let g := { l with maxFrame := 65 }
     g.bytes.length ≤ g.maxFrame ∧ crc32 (g.bytes.take (g.bytes.length - 4)) ≠ leAt g.bytes (g.bytes.length - 4) 4) ∧
    ({ l with bytes := [0#8] } : Sheet).bytes.length < 64 := by decide +kernel

/-- Wire meets `f` first. -/
def wire (bank : Table Bytes) (f : Sheet) : State := machine bank [f]
def fromWet : Sheet := frameOf 0 (framed (ether 0x0800))
def fromDry (et : Nat) : Sheet := frameOf 15 (framed (ether et))
theorem witness_WireDecisions_refused : Spec.oldest (wire wired fromWet) .headbox 0 = some fromWet ∧ policyHit wired fromWet = none ∧
    (∃ v, policyHit (rule 0 0 0 :: wired) fromWet = some v ∧ vb v 11 = 0) ∧
    (∃ v, policyHit (rule 2 0 5 :: []) fromWet = some v ∧ vb v 11 = 2 ∧ bindOf [rule 2 0 5] (vle v 24 2) = none) ∧
    Spec.oldest (wire wired (fromDry 0x88E5)) .headbox 1 = some (fromDry 0x88E5) ∧ beAt (fromDry 0x88E5).bytes 12 2 = 0x88E5 ∧
    isCal wired 7 = false ∧ secTagOk (fromDry 0x88E5).bytes = false := by
  refine ⟨?_, ?_, ⟨_, rfl, ?_⟩, ⟨_, rfl, ?_⟩, ?_⟩ <;> decide +kernel
/-- A bank whose dry port 7 runs Calender cells, with channels 5 and 6 as their carriers. -/
def celled : Table Bytes := (2 * 65536 + 15, fitBytes 24 (bytes [1, 0, 2, 1, 14, 6])) ::
  (9 * 65536 + 7, fitBytes 24 (bytes [1, 0, 0, 0, 5, 0, 6, 0])) :: wired
theorem witness_WireDecisions_cell : Spec.oldest (wire celled (fromDry 0x88B5)) .headbox 1 = some (fromDry 0x88B5) ∧
    beAt (fromDry 0x88B5).bytes 12 2 = 0x88B5 ∧ isCal celled 7 = true := by decide +kernel
theorem witness_WireDecisions_bound : let s := wire (rule 2 0 5 :: wired) fromWet
    Spec.bound s fromWet 5 15 2 96 ∧ Spec.oldest s .headbox 0 = some fromWet ∧ egressCarries s fromWet 15 = true ∧ chanCharge s 5 + 1 ≤ quotaOf s fromWet 5 ∧
    classLimit s 15 2 = 0 ∧
    (let t := wire ((8 * 65536 + 7, fitBytes 24 (bytes [1, 1, 1, 0, 1, 0, 1, 0])) :: rule 2 0 5 :: wired) fromWet
     let u := { t with mach := { t.mach with frames := t.mach.frames ++ [{ frameOf 0 [] with egress := 15, cls := 2, granules := 64, stage := .couch, chan := some 5 }] } }
     egressCarries u fromWet 15 = true ∧ quotaOf u fromWet 5 < chanCharge u 5 + 1 ∧ classLimit u 15 2 ≠ 0 ∧ classLimit u 15 2 < classCharge u 15 2 + 1) ∧
    egressCarries { s with ports := [] } fromWet 15 = false := by
  exact ⟨.inl ⟨by decide +kernel, _, bindOfVal (bankVal wired 5 5), rfl, by decide +kernel⟩, by decide +kernel⟩
/-- A MACsec frame of channel 6 with an explicit SCI, from dry port 7. -/
def secured : Sheet := frameOf 15 (framed (List.replicate 12 2#8 ++ beBytes 2 0x88E5 ++ bytes [0x2C, 0] ++ beBytes 4 1 ++ bytes [2, 2, 2, 2, 2, 2, 0, 1] ++ List.replicate 64 0#8))
theorem witness_WireDecisions_sci : let s := wire wired secured
    Spec.oldest s .headbox 1 = some secured ∧ (∃ c e k n, Spec.bound s secured c e k n ∧ egressCarries s secured e = true ∧ chanCharge s c + (n + 255) / 256 ≤ quotaOf s secured c) ∧
    sciLookup [] 7 (readSecTag secured.bytes).sci = none := by
  refine ⟨?_, ⟨6, 0, 1, secured.bytes.length, .inr ⟨?_, ?_, ?_, ?_, bindOfVal (bankVal wired 5 6),
    ?_, ?_, ?_, rfl⟩, ?_⟩, ?_⟩ <;> decide +kernel
theorem witness_WireDecisions_bypass : let s := wire (rule 1 3 0 :: wired) fromWet
    (∃ v, policyHit (rule 1 3 0 :: wired) fromWet = some v ∧ vb v 11 = 1 ∧ vb v 23 = 3) ∧
    (∃ d x, mapOf (rule 1 3 0 :: wired) 0 = some (d, x) ∧ isCal (rule 1 3 0 :: wired) d = false ∧ 15 = 8 + d) ∧ egressCarries s fromWet 15 = true ∧ classLimit s 15 3 = 0 ∧
    bypassCharge s 15 + 1 ≤ 256 ∧
    (let t := { s with mach := { s.mach with frames := [{ fromWet with bypass := true, egress := 15, granules := 256 }] } }
     256 < bypassCharge t 15 + 1) ∧
    (let b := [(1 * 65536, fitBytes 24 (bytes [4])), (4 * 65536, fitBytes 24 (bytes [1, 0x80, 0, 1, 0, 0, 0, 0, 0, 0, 0, 0, 0, 0, 0, 1, 0, 0, 0]))]
     (∃ v, policyHit b (fromDry 0x0800) = some v ∧ vb v 11 = 1 ∧ portExists b (vb v 26) = true) ∧ beAt (fromDry 0x0800).bytes 12 2 ≠ 0x88E5 ∧
     egressCarries { (wire b (fromDry 0x0800)) with ports := [] } (fromDry 0x0800) 0 = false) := by
  refine ⟨⟨_, rfl, ?_⟩, ⟨7, 0, ?_⟩, ?_, ?_, ?_, ?_, ⟨_, rfl, ?_⟩, ?_⟩ <;> decide +kernel

/-- The Couch meets `f` first; channels 5 and 6 have current keys, lanes 0 and 7 are in service. -/
def couch (bank : Table Bytes) (f : Sheet) : State :=
  let k : KeySlot := { state := 2, kid := 4, key := List.replicate 16 1#8, startPn := 1, pn := 9 }
  let s := machine bank [{ f with stage := .couch }]
  { s with
    mach := { s.mach with lanes := [(0, { state := 0 }), (7, { state := 0 })] }
    keys := { s.keys with chans := [(5, { owner := some 0, cur := k, lanes := [0, 7] }), (6, { owner := some 0, cur := { k with h := 8, seen := [8] }, lanes := [7] })] } }
def couched (f : Sheet) : Sheet := { f with stage := .couch }
theorem witness_CouchDeals_plain : Spec.oldest (couch wired fromWet) .couch 0 = some (couched fromWet) ∧ (couched fromWet).chan = none := by decide +kernel
theorem witness_CouchDeals_encrypt : let f := { fromWet with chan := some 5 }
    let s := couch wired f
    Spec.oldest s .couch 0 = some (couched f) ∧ bindOf wired 5 = some (bindOfVal (bankVal wired 5 5)) ∧ isCal wired (bindOfVal (bankVal wired 5 5)).dry = false ∧
    encSlot (chan s 5) f.boundary = some false ∧ (pickLane (rebind 5 s) (chan (rebind 5 s) 5).lanes).isSome = true ∧
    encSlot (chan { s with keys := on.keys } 5) f.boundary = none ∧
    (let t := { s with mach := { s.mach with lanes := [] } }
     pickLane (rebind 5 t) (chan (rebind 5 t) 5).lanes = none) := by decide +kernel
theorem witness_CouchDeals_cells : let f := { fromWet with chan := some 5 }
    let s := couch celled f
    Spec.oldest s .couch 0 = some (couched f) ∧ (bindOf celled 5).isSome = true ∧ isCal celled (bindOfVal (bankVal celled 5 5)).dry = true ∧
    (chan s (latTx (calBank s 7) 7)).cur.state = 2 ∧ (pickLane (rebind 5 s) (chan (rebind 5 s) 5).lanes).isSome = true ∧
    (let t := { s with mach := { s.mach with lanes := [] } }
     pickLane (rebind 5 t) (chan (rebind 5 t) 5).lanes = none) ∧
    (chan { s with keys := on.keys } (latTx (calBank s 7) 7)).cur.state ≠ 2 := by decide +kernel
theorem witness_CouchDeals_decrypt : let f := { secured with chan := some 6 }
    let s := couch wired f
    let x := bindOfVal (bankVal wired 5 6)
    Spec.oldest s .couch 1 = some (couched f) ∧ bindOf wired 6 = some x ∧ (readSecTag f.bytes).pn = 1 ∧ x.suite = 0 ∧
    decSlot (chan s 6) ((readSecTag f.bytes).tci % 4) = some false ∧ x.replay = true ∧ replayBad (slotOf (chan s 6) false) x.window 1 = true ∧
    (let k := { slotOf (chan s 6) false with h := 0, seen := [] }
     let t := { s with keys := { s.keys with chans := [(6, { chan s 6 with cur := k })] } }
     replayBad k x.window 1 = false ∧ (pickLane (rebind 6 t) (chan (rebind 6 t) 6).lanes).isSome = true) ∧
    decSlot (chan { s with keys := on.keys } 6) ((readSecTag f.bytes).tci % 4) = none ∧ (readSecTag (fromDry 0x88E5).bytes).pn = 0 := by decide +kernel

theorem witness_FramesLeave_press : let f := { fromWet with stage := .press, lane := 7 }
    let g := { fromWet with stage := .dryer, chan := some 5, pn := some 9, kid := 4 }
    let s := couch wired fromWet
    laneQueue (machine wired [f]) 7 = f :: [] ∧
    (let t := { s with mach := { s.mach with frames := [g] } }
     t.mach.frames.find? (fun f => (f.stage == .press || f.stage == .dryer || f.stage == .held) && f.chan == some 5) = some g ∧
     g.stage = .dryer ∧ g.ended = true ∧ (bindOf wired 5).isSome = true) := by
  decide +kernel
theorem witness_FramesLeave_decrypt : let g := { secured with stage := .dryer, chan := some 6, pn := some 9, kid := 4 }
    let s := couch wired fromWet
    let k := slotOf (chan s 6) ((chan s 6).nxt.kid == 4)
    let x := bindOfVal (bankVal wired 5 6)
    8 ≤ g.port ∧ g.port < 16 ∧ ({ g with verified := false } : Sheet).verified = false ∧ ({ g with verified := true } : Sheet).verified = true ∧ bindOf wired 6 = some x ∧
    x.replay = true ∧ k.kid = g.kid ∧ replayBad k x.window 8 = true ∧ replayBad k x.window 9 = false := by decide +kernel
theorem witness_FramesLeave_bypass : let f := { fromWet with stage := .dryer, bypass := true, ended := true }
    (machine wired [f]).mach.frames.find? (fun f => (f.stage == .press || f.stage == .dryer || f.stage == .held) && (f.bypass && f.port == 0)) = some f ∧
    f.chan = none := by decide +kernel
theorem witness_FramesLeave_select : let f := { fromWet with stage := .queued, egress := 15, cls := 3, result := List.replicate 60 0#8 }
    let s := machine wired [f]
    egressFree s 15 = true ∧ frameQueue s 15 3 = f :: [] ∧
    (drr 1024 (classWeight s 15) (fun k => (frameQueue s 15 k).head?.map lineLength) 64 (egressOf s 15)).map (·.1) = some 3 := by decide +kernel
theorem witness_FramesLeave_reel : let f := { fromWet with stage := .chosen, egress := 15 }
    let g := { f with stage := .sending, chan := some 5 }
    (machine wired [f]).mach.frames.find? (fun f => f.stage == .chosen && f.egress == 15) = some f ∧ (port (machine wired [f]) 15).carrying = true ∧
    (port { (machine wired [f]) with ports := [] } 15).carrying = false ∧
    (machine wired [g]).mach.frames.find? (fun f => f.stage == .sending && f.egress == 15) = some g ∧ g.late = false ∧ ({ g with chan := none } : Sheet).chan = none ∧
    (withClk { pstate := .dim }).clk.pstate ≠ .run ∧ on.clk.pstate = .run := by
  decide +kernel

/-- `on` with Press lanes, and door 3 with a LANE_SERVICE of lane 7. -/
def lanes (l : List (Nat × PLane)) : State := { on with mach := { on.mach with lanes := l } }
def service (action : Nat) : Cmd := command 0x72 0 (bytes [7, action])
theorem witness_Lanes_service : Spec.Takes (waitingIn (lanes []) 3 (service 0)) 3 7 0x72 (service 0) ∧ pByte (service 0).pkt 0 = 7 ∧ pByte (service 0).pkt 1 = 0 ∧
    Spec.Takes (waitingIn (lanes []) 3 (service 1)) 3 7 0x72 (service 1) ∧ pByte (service 1).pkt 1 = 1 := by
  refine ⟨takes_of ?_, ?_, ?_, takes_of ?_, ?_⟩ <;> decide +kernel
theorem witness_Lanes_states : let two := lanes [(0, { state := 0 }), (7, { state := 0 })]
    let one := lanes [(7, { state := 0 })]
    ((lane two 7).state = 0 ∧ 1 < ((List.range 8).filter fun j => (lane two j).state == 0).length) ∧
    ((lane one 7).state = 0 ∧ ((List.range 8).filter fun j => (lane one j).state == 0).length ≤ 1) ∧
    (lane (lanes [(7, { state := 1 })]) 7).state = 1 ∧ laneQueue (lanes [(7, { state := 1 })]) 7 = [] ∧
    (lane (lanes [(7, { state := 5 })]) 7).state = 5 ∧ (lane on 7).state = 3 ∧ on.clk.pstate = .run ∧
    (withClk { pstate := .nap }).clk.pstate ≠ .run := by
  decide +kernel
theorem witness_Ports : (port { on with ports := [(15, { state := 1 })] } 15).state = 1 ∧ (port { on with ports := [(15, { state := 2 })] } 15).state = 2 ∧
    (port { on with ports := [(0, carrier)] } 0).state = 5 ∧ (port { on with ports := [(15, { state := 3 })] } 15).state = 3 ∧
    (let s := { on with ports := [(15, { state := 6 })], clk := { on.clk with runWanted := true } }
     (port s 15).state = 6 ∧ s.clk.runWanted = true) ∧ 6 ≠ (port { on with ports := [(0, carrier)] } 0).state ∧ 8 ≤ (15 : PortId).val := by decide +kernel

/-- Dry port 7 up on the Calender, eight ports of 50 Gb/s at the dry end, with a raster of one row. -/
def rastered (rtype : Nat) (k : CalPort) : State :=
  let bank := (1 * 65536 + 1, fitBytes 24 (bytes [4])) :: (7 * 65536 + 7 * 1024, fitBytes 24 (bytes [rtype, 0, 1, 0])) :: celled
  let s := couch bank fromWet
  { s with mach := { s.mach with frames := [], cal := [(7, k)] } }
/-- A state at a PCLK time. -/
def atTime (n : Nat) (s : State) : State := { s with epoch := { s.epoch with base := n, count := 0 } }
theorem witness_Intervals :
    (let s := withDoor 0 { modRunning := true, modEnd := 1250, telPeriod := 1, telNext := 1250000 }
     nowP (atTime 1249 s) < (door s 0).modEnd ∧ (door s 0).modEnd ≤ nowP (atTime 1250 s) ∧ nowP (atTime 1250 s) < (door s 0).telNext ∧
     (door s 0).telNext ≤ nowP (atTime 1250000 s)) ∧
    (let s := { on with evc := { on.evc with modHold := true, modEnd := 250 } }; nowP (atTime 249 s) < s.evc.modEnd ∧ s.evc.modEnd ≤ nowP (atTime 250 s)) ∧
    (let s := withClk { dimWanted := true, draining := true, drainFrom := 7 }
     nowP (atTime 7 s) < s.clk.drainFrom + 625000 ∧ s.clk.drainFrom + 625000 ≤ nowP (atTime 625007 s)) ∧
    (let s := { rastered 1 { hold := true, holdFrom := 100, okAt := 100 } with epoch := {} }
     syncTimedOut (atTime 99 s) 7 = false ∧ syncTimedOut (atTime 819200000 s) 7 = true ∧
     holdLong (atTime 99 s) 7 = false ∧ holdLong (atTime 819200000 s) 7 = true) := by decide +kernel
theorem witness_Calender_slots : let s := rastered 1 { slots := 10081 }
    calBank s 7 = liveBank s ∧ isCal (calBank s 7) 7 = true ∧ slotsPerEpoch s 7 = 10082 ∧ (cal s 7).slots < slotsPerEpoch s 7 ∧ slotsPerEpoch (rastered 1 { slots := 10082 }) 7 ≤ (cal (rastered 1 { slots := 10082 }) 7).slots ∧
    (port s (8 + 7)).state = 5 ∧ s.fault.mode = 0 ∧ rasterType (liveBank s) 7 10081 = 1 ∧ rasterType (liveBank (rastered 2 {})) 7 0 = 2 ∧ rasterType (liveBank (rastered 0 {})) 7 0 = 0 := by
  decide +kernel
theorem witness_Calender_sends : let s := rastered 1 { hold := true }
    latTx (calBank s 7) 7 = 5 ∧ (chan s 5).cur.state = 2 ∧ contFrame s 7 = none ∧ (cal s 7).sendq = [] ∧ (cal s 7).hold = true ∧
    egressFree s (8 + 7) = true ∧ laneReady (setCal 7 { cal s 7 with slots := 1 } s) 5 = true ∧
    laneReady { s with mach := { s.mach with lanes := [] } } 5 = false ∧
    (cal (rastered 1 { sendq := [[1#8]] }) 7).sendq = [1#8] :: [] ∧ (chan { s with keys := on.keys } 5).cur.state ≠ 2 ∧
    (∀ f ∈ s.mach.frames, f.stage = .queued → f.egress ≠ 8 + 7) ∧ (cal on 7).hold = false := by decide +kernel
/-- A received cell of dry port 7 with control and PN. -/
def cell (cm pn : Nat) : Sheet := { frameOf 15 (List.replicate 12 2#8 ++ beBytes 2 0x88B5 ++ bytes [1, cm] ++ beBytes 8 pn ++ List.replicate 476 0#8) with stage := .cell }
theorem witness_Calender_receives : let s := { rastered 1 {} with mach := { (rastered 1 {}).mach with frames := [cell 0 9] } }
    s.mach.frames.find? (fun f => f.stage == .cell && f.port == 8 + 7 && f.ended) = some (cell 0 9) ∧ (cell 0 9).bytes.length = 500 ∧ byteAt (cell 0 9).bytes 14 = 1 ∧
    byteAt (cell 0x80 0).bytes 15 = 128 ∧ byteAt (cell 0 9).bytes 15 < 128 ∧ latRx (bankOf s (cell 0 9).bank) 7 = 6 ∧ decSlot (chan s 6) 0 = some false ∧ decSlot (chan s 6) 3 = none ∧
    (slotOf (chan s 6) false).startPn ≤ 9 ∧ (slotOf (chan s 6) false).h < beAt (cell 0 9).bytes 16 8 ∧ beAt (cell 0 8).bytes 16 8 ≤ (slotOf (chan s 6) false).h ∧
    laneReady s 6 = true ∧ laneReady { s with mach := { s.mach with lanes := [] } } 6 = false ∧
    (framed []).length ≠ 500 := by decide +kernel
theorem witness_Calender_plain : plainOk (fitBytes 456 (cellPlain 0 0 [])) none = true ∧ plainOk (fitBytes 456 (cellPlain 3 0 [])) none = false ∧ fld 0 2 5 = 0 ∧ fld 4 2 5 ≠ 0 := by decide +kernel
/-- A cell's tag verifies or not: the standard says which. -/
theorem witness_Calender_opens (k iv a c t : Bytes) : (∃ p, gcmOpen k iv a c t = some p) ∨ gcmOpen k iv a c t = none :=
  (gcmOpen k iv a c t).eq_none_or_eq_some.symm
theorem witness_Calender_release : let r : Reasm := { pi := 1, data := [], kid := 4, age := 0, time := 0 }
    let f := { fromDry 0x0800 with stage := .held, due := - 2 ^ 40, egress := 0 }
    nextHeld on 7 = none ∧ (cal on 7).pend = none ∧ (cal (rastered 1 { pend := some r }) 7).pend = some r ∧ nextHeld (rastered 1 { pend := some r }) 7 = none ∧
    (let s := { rastered 1 {} with mach := { (rastered 1 {}).mach with frames := [f] } }
     let y := enqueue { f with late := f.late || decide (dueOf s f + 1 < (nowP s : Int)) || !egressFree s f.egress } s
     nextHeld s 7 = some f ∧ (cal s 7).pend = none ∧ dueOf s f ≤ (nowP s : Int) ∧ heldFirst y 7 = []) ∧
    (let g := { f with due := 2 ^ 40 }
     let s := { rastered 1 {} with mach := { (rastered 1 {}).mach with frames := [g] } }
     nextHeld s 7 = some g ∧ (cal s 7).pend = none ∧ (nowP s : Int) < dueOf s g) := by decide +kernel

/-! The Store. -/

/-- `on` with a formatted Store of 64 good blocks that is ready, and door 3 with `c`. -/
def stored (c : Cmd) : State :=
  let s := waitingIn on 3 c
  { s with
    regs := [(0x400A0010, 4#32)]
    vat := { s.vat with st := 3, wp := true }
    nand := { s.nand with formatted := true, user := 4, geom := { blocks := 64 } } }
theorem input_3 (s : State) (c : Cmd) (h : Option Bytes) : cmdInput s 3 c h = some (mread s (pktInAddr c.pkt) (pktInLen c.pkt)) := rfl
theorem idle_of {s : State} (h : s.vat.st = 3 ∧ s.vat.stopping = false ∧ s.vat.busy = false ∧ s.vat.ops = []) : Spec.StoreIdle s := h
theorem ream_of {s : State} {c : Cmd} {n : Nat} (h : pLe c.pkt 4 4 % n = 0 ∧ pLe c.pkt 8 4 % n = 0 ∧
    pLe c.pkt 4 4 + pLe c.pkt 8 4 ≤ reamSectors s (pByte c.pkt 0) * 4096) : Spec.InReam s c n := h
theorem witness_Store_waits : let c := command 0x47 0 (bytes [0x4D, 0x52, 0x4F, 0x46, 0, 0, 0, 0])
    let s := { stored c with vat := { (stored c).vat with st := 1 } }
    Spec.Takes s 3 7 0x47 c ∧ Spec.StoreOk s 3 7 c none [] ∧ s.vat.st = 1 ∧ Spec.StoreOk (stored c) 3 7 c none [] ∧ Spec.StoreIdle (stored c) ∧
    (let t := { stored c with vat := { (stored c).vat with busy := true, ops := [{ door := 3, tag := 7, phase := .hash }] } }
     t.vat.busy = true ∧ t.vat.ops = { door := 3, tag := 7, phase := .hash } :: [] ∧ findCmd t 3 7 ≠ none) := by
  refine ⟨takes_of ?_, ⟨rfl, rfl, rfl⟩, ?_, ⟨rfl, rfl, rfl⟩, idle_of ?_, ?_⟩ <;> decide +kernel
theorem witness_Store_read : let c := ptrCommand 0x40 0 4096 (bytes [2, 0, 0, 0, 0, 0xF0, 3, 0, 0, 16, 0, 0])
    let full := { stored c with nand := { (stored c).nand with data := [(2 * 16777216 + 63, [1#8])], loc := [(2 * 16777216 + 63, 1)] } }
    Spec.Takes (stored c) 3 7 0x40 c ∧ Spec.StoreOk (stored c) 3 7 c none [] ∧ Spec.StoreIdle full ∧ Spec.Takes full 3 7 0x40 c ∧
    pageGroups (stored c) (pByte c.pkt 0) ((List.range 1).map (63 + ·)) = [] ∧ pLe c.pkt 4 4 / 4096 = 63 ∧
    pageGroups full (pByte c.pkt 0) ((List.range 1).map (63 + ·)) ≠ [] := by
  refine ⟨takes_of ?_, ⟨rfl, room_of ?_, ?_, ?_, ream_of ?_, rfl⟩,
    idle_of ?_, takes_of ?_, ?_⟩ <;> decide +kernel
/-- A block stands queued for relocation, and the last page operation was a foreground one. -/
def queued (s : State) : State :=
  { s with vat := { s.vat with fgLast := true }, nand := { s.nand with blks := [(63, { queued := true, used := 1 })], loc := [(0, 63 * 64 + 1)] } }
theorem witness_Store_write : let c := ptrCommand 0x41 4096 0 (bytes [2, 0, 0, 0, 0, 0xF0, 3, 0, 0, 16, 0, 0])
    Spec.Takes (stored c) 3 7 0x41 c ∧ Spec.StoreOk (stored c) 3 7 c none (mread (Spec.taken (stored c) 3 7) (pktInAddr c.pkt) (pktInLen c.pkt)) ∧
    Spec.Takes (queued (stored c)) 3 7 0x41 c ∧ Spec.StoreIdle (queued (stored c)) := by
  refine ⟨takes_of ?_, ⟨rfl, room_of ?_, ?_, ?_, ream_of ?_, input_3 _ _ _⟩,
    takes_of ?_, idle_of ?_⟩ <;> decide +kernel
/-- Its first page program: relocation's turn, no block, a block. -/
theorem witness_Store_program : let c := ptrCommand 0x41 4096 0 (bytes [0, 0, 0, 0, 0, 0xF0, 3, 0, 0, 16, 0, 0])
    let bs := List.replicate 4096 7#8
    let o : VatOp := { door := 3, tag := 7, phase := .data 1 }
    let z := { c with stage := .running, input := bs }
    let w := Spec.inVat (stored c) 3 7 c bs o
    let none' := { w with nand := { w.nand with geom := { blocks := 0 } } }
    relocDue (Spec.inVat (queued (stored c)) 3 7 c bs o) = true ∧ relocDue w = false ∧ relocDue none' = false ∧
    (programSecs (pageKind z) (pageSecs none' z o 0) (makeRoom (pageKind z) none')).isNone = true ∧
    (programSecs (pageKind z) (pageSecs w z o 0) (makeRoom (pageKind z) w)).isSome = true := by decide +kernel
theorem witness_Store_erase : let e := command 0x42 0 (bytes [2, 1, 0, 0, 0, 0, 0, 0, 0, 0, 4, 0])
    let f := command 0x42 0 (bytes [0, 0, 0, 0, 0, 0, 0, 0, 0, 16, 0, 0])
    let s := { stored e with nand := { (stored e).nand with pool := [5, 6] } }
    Spec.Takes s 3 7 0x42 e ∧ Spec.StoreOk s 3 7 e none [] ∧ Spec.StoreIdle s ∧ bitAt (pByte e.pkt 1) 0 = true ∧ s.nand.pool = 5 :: [6] ∧
    Spec.Takes (stored f) 3 7 0x42 f ∧ Spec.StoreOk (stored f) 3 7 f none [] ∧ bitAt (pByte f.pkt 1) 0 = false := by
  refine ⟨takes_of ?_, ⟨rfl, ?_, ream_of ?_, rfl, ?_⟩, idle_of ?_,
    ?_, ?_, takes_of ?_, ⟨rfl, ?_, ream_of ?_, rfl, ?_⟩, ?_⟩ <;> decide +kernel
theorem witness_Store_log : let c := ptrCommand 0x43 1024 0 (bytes [3, 5])
    let n := 80 + (pktInLen c.pkt + 3) / 4 * 4 + 48
    let full := { stored c with nand := { (stored c).nand with logFill := 4096, logUsed := 16384 } }
    Spec.Takes (stored c) 3 7 0x43 c ∧ Spec.StoreOk (stored c) 3 7 c none (mread (Spec.taken (stored c) 3 7) (pktInAddr c.pkt) (pktInLen c.pkt)) ∧
    n = 1152 ∧ ((stored c).nand.logFill + n ≤ 4096 ∨ (stored c).nand.logUsed < 16384) ∧ 4096 < full.nand.logFill + n ∧ 16384 ≤ full.nand.logUsed := by
  refine ⟨takes_of ?_, ⟨rfl, ?_, ?_, ?_, ?_, input_3 _ _ _⟩, ?_⟩ <;> decide +kernel
theorem witness_Store_logRead : let c := ptrCommand 0x44 0 132 (bytes [3])
    let r : LogRec := { seq := 0, sector := 0, off := 0, bytes := List.replicate 132 0#8 }
    let s := { stored c with nand := { (stored c).nand with log := [r], nextSeq := 1 } }
    let trimmed := { stored c with nand := { (stored c).nand with baseSeq := 1, nextSeq := 1 } }
    Spec.Takes s 3 7 0x44 c ∧ Spec.StoreOk s 3 7 c none [] ∧ Spec.StoreOk trimmed 3 7 c none [] ∧ pLe c.pkt 4 8 < s.nand.nextSeq ∧
    (s.nand.log.filter fun e => decide (pLe c.pkt 4 8 ≤ e.seq)) = r :: [] ∧ r.bytes.length ≤ pktOutLen c.pkt ∧ pktOutLen (ptrCommand 0x44 0 131 (bytes [3])).pkt < r.bytes.length ∧
    (stored c).nand.nextSeq ≤ pLe c.pkt 4 8 ∧ pLe c.pkt 4 8 < trimmed.nand.nextSeq ∧ pLe c.pkt 4 8 < trimmed.nand.baseSeq ∧
    (trimmed.nand.log.filter fun e => decide (pLe c.pkt 4 8 ≤ e.seq)) = [] := by
  refine ⟨takes_of ?_, ⟨rfl, room_of ?_, ?_, rfl⟩, ⟨rfl, room_of ?_, ?_, rfl⟩,
    ?_⟩ <;> decide +kernel
theorem witness_Store_others : let t := command 0x45 0 (bytes [3])
    let u := command 0x45 0 (bytes [3, 0, 0, 0, 1])
    let i := ptrCommand 0x46 0 144 (bytes [5])
    Spec.Takes (stored t) 3 7 0x45 t ∧ Spec.StoreOk (stored t) 3 7 t none [] ∧ pLe t.pkt 4 8 ≤ (stored t).nand.nextSeq ∧
    Spec.Takes (stored u) 3 7 0x45 u ∧ Spec.StoreOk (stored u) 3 7 u none [] ∧ (stored u).nand.nextSeq < pLe u.pkt 4 8 ∧
    Spec.Takes (stored i) 3 7 0x46 i ∧ Spec.StoreOk (stored i) 3 7 i none [] := by
  refine ⟨takes_of ?_, ⟨rfl, rfl, ?_, rfl⟩, ?_, takes_of ?_, ⟨rfl, rfl, ?_, rfl⟩, ?_, takes_of ?_, ⟨rfl, room_of ?_, ?_, rfl⟩⟩ <;> decide +kernel

/-- The Store runs one operation of door 3's command `c`. -/
def vatRuns (c : Cmd) (p : VatPhase) : State :=
  { stored c with vat := { (stored c).vat with busy := true, ops := [{ door := 3, tag := 7, phase := p, pages := [(64, 0)] }] } }
theorem witness_StoreOperations : let s := vatRuns (command 0x40 0 []) (.reads [[1], [2]])
    s.clk.held = false ∧ rbit s 0x400A0010 2 = true ∧ s.vat.busy = true ∧ s.vat.stopping = false ∧
    s.vat.ops = { door := 3, tag := 7, phase := .reads ([1] :: [[2]]), pages := [(64, 0)] } :: [] ∧
    findCmd s 3 7 = some (command 0x40 0 []) ∧ (findCmd (vatRuns (command 0x41 0 []) .commit) 3 7).map (·.opcode) = some 0x41 ∧
    (findCmd (vatRuns (command 0x42 0 []) (.erases [1] true)) 3 7).map (·.opcode) = some 0x42 ∧
    (findCmd (vatRuns (command 0x43 0 []) .commit) 3 7).map (·.opcode) = some 0x43 ∧
    (findCmd (vatRuns (command 0x45 0 []) .commit) 3 7).map (·.opcode) = some 0x45 ∧
    (findCmd (vatRuns (command 0x47 0 []) (.format [] 3)) 3 7).map (·.opcode) = some 0x47 ∧
    [((64, 0) : Nat × Nat)].getLast? = some (64, 0) ∧ ({ (stored (command 0x41 0 [])).nand with jrnBlk := some 9 } : Nand).jrnBlk = some 9 := by
  decide +kernel
theorem witness_StoreOperations_format : (formatNow [] {} (vatRuns (command 0x47 0 []) (.format [] 3))).1 = false ∧
    (let s := vatRuns (command 0x47 0 []) (.format [] 3)
     let t := { s with nand := { s.nand with geom := { page := 2, luns := 1, blocks := 2048 } } }
     (formatNow [] {} t).1 = true) := by decide +kernel
theorem witness_StoreBackground : let s := queued (stored (command 0 0 []))
    nclkRuns s = true ∧ s.vat.stopping = false ∧ s.fault.mode ≠ 2 ∧ s.vat.ops = [] ∧ s.vat.st = 3 ∧ patrolPage s = some 4032 ∧
    vatIdle true s = true ∧ relocQueued s = true ∧ s.vat.reloc = none ∧ allBlocks s.nand.geom = 64 ∧
    ((List.range 64).find? fun b => (blk s b).queued && !(blk s b).retired) = some 63 ∧ (takeBlk 0 s).isSome = true ∧
    s.clk.throttle = 0 ∧ (withClk { throttle := 1 }).clk.throttle ≠ 0 := by decide +kernel
theorem witness_StoreMounts : on.vat.st = 1 ∧ (mountStore (.absent 1) on).idn.booting = false ∧ pageKnown { pageBytes := 2048, spare := 0, pagesPerBlock := 64, targets := 1, luns := 1, blocks := 256 } = false ∧
    pageKnown { pageBytes := 4096, spare := 519, pagesPerBlock := 64, targets := 1, luns := 1, blocks := 256 } = true ∧ spareOk 4 519 = false ∧
    (let t := { on with regs := [(0x400A0010, 4#32)], idn := { on.idn with booting := true } }
     t.vat.st = 1 ∧ rbit t 0x400A0010 2 = true ∧ (mountStore (.absent 1) t).idn.booting = true ∧ sentinelRuns (mountStore (.absent 1) t) = true) ∧
    (stored (command 0 0 [])).vat.ddrOk = false ∧ ({ (stored (command 0 0 [])).vat with ddrOk := true } : Vat).st = 3 := by decide +kernel
theorem witness_StoreLevelling : let s := { stored (command 0 0 []) with
      regs := [(0x40080014, 100#32), (0x400A0010, 4#32)]
      nand := { (stored (command 0 0 [])).nand with loc := [(0, 63 * 64 + 1)], blks := (List.range 64).map fun b => (b, { used := if b = 63 then 1 else 0, erases := if b = 63 then 0 else 1000 }) } }
    let t := { s with vat := { s.vat with level := some { src := 63, dst := 0 } } }
    vatIdle false s = true ∧ s.clk.throttle = 0 ∧ s.vat.level = none ∧ (reg s 0x40080014).toNat % 2 ^ 16 < eraseMax s - eraseMin s ∧
    leastBy (fun b => (blk s b).erases) ((goodBlks s).filter fun b => !(liveIn s b).isEmpty) = some 63 ∧
    (leastBy (fun p => eraseMax s - (blk s p).erases) (emptyBlks (if s.nand.pool.contains 63 then 1 else 0) s)).isSome = true ∧
    vatIdle true t = true ∧ relocQueued t = false ∧ t.vat.level = some { src := 63, dst := 0 } ∧
    liveIn s 62 = [] ∧ liveIn s 63 = 0 :: [] ∧ inPage s (tget 0 s.nand.loc 0 - 1) = [0] ∧ hasRoom s 0 = true ∧ (blk s 63).retired = false := by decide +kernel

/-! Modules, panel and audio. -/

/-- Door 0 with a MODULE_XFER of port 15, whose module is on bus 3. -/
def xferCmd (write : Bool) : Cmd := if write then ptrCommand 0x54 128 0 (bytes [15, 1, 0, 128]) else ptrCommand 0x54 0 128 (bytes [15, 0, 0, 128])
def xfer (write : Bool) (regs : List (Nat × Word)) (q : I2cCtl) : State :=
  waitingIn { on with regs := regs, ports := [(15, { owner := some 0, ctrl := 4, addr := 0x50, select := 255 })], i2c := [(3, q)] } 0 (xferCmd write)
theorem witness_ModuleTransfers : Spec.Takes (xfer true [] {}) 0 7 0x54 (xferCmd true) ∧ Spec.Takes (xfer false [] {}) 0 7 0x54 (xferCmd false) ∧
    Spec.XferOk (xfer true [] {}) 0 (xferCmd true) (some (List.replicate 128 1#8)) 7 (List.replicate 128 1#8) ∧ Spec.XferOk (xfer false [] {}) 0 (xferCmd false) none 7 [] :=
  ⟨takes_of (by decide +kernel), takes_of (by decide +kernel), by unfold Spec.XferOk; decide +kernel, by unfold Spec.XferOk; decide +kernel⟩
theorem witness_ModuleTransfers_bus : let s := xfer true [] {}
    let e := xfer true [(0x40020050, 0xFF#32)] {}
    let t : I2cXfer := { door := 0, tag := 7, port := 15, addr := 0x50, select := 255, write := true, off := 0, len := 128, data := [] }
    (port s 15).ctrl ≠ 0 ∧ (port on 15).ctrl = 0 ∧ (i2cCtl s 3).running = false ∧ (i2cCtl s 3).queue = [] ∧ (i2cCtl s 3).sel = 255 ∧ i2cEnabled s 3 = false ∧ i2cEnabled e 3 = true ∧
    tableWf ({} : I2cCtl) 0 on.i2c = true ∧
    (let r := xfer true [(0x40020050, 0xFF#32)] { queue := [t], running := true }
     (i2cCtl r 3).queue = t :: [] ∧ (i2cCtl r 3).running = true ∧ i2cEnabled r 3 = true) := by decide +kernel

/-- A PANEL_POST of one pixel. -/
def postCmd : Cmd := ptrCommand 0x60 2 0 (bytes [0, 0, 0, 0, 1, 0, 1, 0, 1, 0, 4, 0])
theorem witness_PanelJobs_post : let s := waitingIn on 0 postCmd
    let x := checkCfg (Spec.taken s 0 7)
    Spec.Takes s 0 7 0x60 postCmd ∧ pointersOk 0 postCmd.pkt = true ∧ postLenBad 0 postCmd.pkt = none ∧ postBad x postCmd.pkt = none ∧
    (x.panel.cfgValid = false ∨ rbit x 0x40060008 1 = false) :=
  ⟨takes_of (by decide +kernel), by decide +kernel⟩
/-- L4 a surface of one 16-bit pixel beyond the protection range, which covers the lower half of Panel RAM. -/
def shown : List (Nat × Word) := [(0x40060008, 3#32), (0x40060400, 0x11#32), (0x40060404, 0x100000#32), (0x40060408, 4#32), (0x4006040C, 0x00010001#32),
  (0x40060420, 1#32), (0x40060484, 0xFFFFF#32)]
theorem witness_PanelJobs_postQueued : let s := waitingIn (withRegs shown) 0 postCmd
    let x := checkCfg (Spec.taken s 0 7)
    Spec.Takes s 0 7 0x60 postCmd ∧ postBad x postCmd.pkt = none ∧ x.panel.cfgValid = true ∧ rbit x 0x40060008 1 = true ∧
    cmdInput x 0 postCmd (some (bytes [1, 2])) = some (bytes [1, 2]) ∧ s.panel.queue.length < 16 :=
  ⟨takes_of (by decide +kernel), by decide +kernel⟩
theorem witness_PanelJobs_queue : wbit 1#32 0 = true ∧ goWhy (withRegs [(0x40070010, 0#32), (0x40070020, 4#32), (0x40070024, 0x00010001#32)]) (goJob (withRegs [(0x40070010, 0#32), (0x40070020, 4#32), (0x40070024, 0x00010001#32)])) = 0 ∧
    goWhy (withRegs [(0x40070010, 0x700#32)]) (goJob (withRegs [(0x40070010, 0x700#32)])) = 3 ∧ wfld 0x5EA1#32 0 16 = 0x5EA1 ∧ wfld 0#32 0 16 ≠ 0x5EA1 := by decide +kernel
theorem witness_PanelJobs_start : let j : BltJob := { dstride := 4 }
    let s := { on with panel := { on.panel with queue := [j] } }
    s.panel.queue = j :: [] ∧ s.panel.postWait = [] ∧ freeUnit s = some 0 ∧ j.beam = false ∧ (∀ r ∈ runningJobs s, jobHolds r j = false ∧ (r.input = none ∨ j.input = none)) := by
  decide +kernel
-- Chapter 17, worked case of the Blitter: 320 bursts, 6,416 FCLK cycles.
theorem test_blt_time : let q : BltJob := { sfmt := 3, dfmt := 1, src := 0x40000, sstride := 128, dst := 0x80000, dstride := 2560, w := 96, h := 64, idle := 16 }
    jobBursts q = 320 ∧ jobTime q = 2 * 6416 := by decide +kernel
theorem witness_PanelJobs_done : let q : BltJob := { wm := true, irq := true }
    let p : BltJob := { post := some (0, 7, true), input := some [] }
    (let s := { on with epoch := { on.epoch with base := 100 } }
     2 * (16 + jobBursts q * (4 + q.idle)) ≤ nowP s - q.start ∧ 2 * (16 + jobBursts p * (4 + p.idle)) ≤ nowP s - p.start) ∧
    nowP on - q.start < 2 * (16 + jobBursts q * (4 + q.idle)) ∧
    bltUnit { on with panel := { on.panel with units := [(1, some q)] } } 1 = some q ∧ q.dead = false ∧ q.post = none ∧ q.input = none ∧
    bltUnit { on with panel := { on.panel with units := [(1, some p)] } } 1 = some p ∧ p.post = some (0, 7, true) ∧ p.input ≠ none ∧ p.wm = false ∧ p.irq = false := by
  decide +kernel

/-- `on` with the panel register EN set, the raster running on `line`. -/
def rasterAt (line : Nat) (h : Bool) : State := { withRegs [(0x40050008, 1#32)] with panel := { on.panel with running := true, line := line, hblank := h } }
theorem witness_RasterEvents_lines : on.panel.running = false ∧ (rasterAt 0 false).panel.running = true ∧ rbit (rasterAt 0 false) 0x40050008 0 = true ∧
    rbit { rasterAt 0 false with regs := [] } 0x40050008 0 = false ∧
    (let n := fun line => (line + 1) % ((rasterAt line false).panel.live.vact + (rasterAt line false).panel.live.vfp + (rasterAt line false).panel.live.vsw + (rasterAt line false).panel.live.vbp)
     n 489 = 490 ∧ n 524 = 0 ∧ n 0 = 1 ∧ n 479 = 480 ∧ n 480 = 481) ∧ (rasterAt 523 false).panel.line + 2 = (rasterAt 523 false).panel.live.vtot ∧
    (rasterAt 0 false).panel.line + 2 ≠ (rasterAt 0 false).panel.live.vtot := by decide +kernel
theorem witness_RasterEvents_start : let s := withRegs [(0x400A0010, 1#32), (0x40050008, 1#32)]
    s.panel.running = false ∧ rbit s 0x40050008 0 = true ∧ pxclkRuns s = true ∧ s.panel.live.ok = true ∧
    ({ s.panel with live := { s.panel.live with hact := 0xFFF } } : Panel).live.ok = false ∧
    s.panel.live.vact ≤ (rasterAt 480 false).panel.line ∧ bitAt s.panel.live.out 0 = false := by decide +kernel
theorem witness_RasterEvents_entries : let s := { rasterAt 0 false with panel := { (rasterAt 0 false).panel with lsActive := true, lsOpen := 5, lsSrv := 1 } }
    let e := fun (b : List Nat) => { s with mem := (List.zip ((List.range 8).map (0x21000000 + ·)) (bytes b)).filter fun c => c.2 != 0#8 }
    s.panel.lsActive = true ∧ s.panel.live.vtot = 525 ∧ s.panel.lsSrv ≤ 5 ∧ 5 ≤ s.panel.lsOpen ∧ s.panel.lsOpen < 6 ∧ 0 < s.panel.lsSrv ∧ 1 ≤ (lsEntry s 0).2.1 + 1 ∧
    (lsEntry (e [5, 0, 1, 1]) 0).2.2.1 ≤ 0x404 := by decide +kernel
theorem witness_RasterEvents_dandy : let q : Dandy := { line := 0, chg := 0, exact := [1, 2], sent := [1, 2] }
    let s := { on with panel := { on.panel with dandy := [q] } }
    s.panel.dandy = q :: [] ∧ q.chg = s.panel.chg ∧ (worstDiff 0 q.exact q.sent).1 = 0 ∧ ({ q with chg := 1 } : Dandy).chg ≠ s.panel.chg := by decide +kernel

def streamCmd : Cmd := ptrCommand 0x61 2 0 []
/-- Door 0 with an AUDIO_STREAM, HOST_EN live, blocks in the stream. -/
def streaming (host : Nat) (l : List StreamBlk) : State :=
  waitingIn { on with audio := { on.audio with live := [(0x40040008, w32 host)], stream := l } } 0 streamCmd
theorem witness_AudioEvents_stream : let b : StreamBlk := { door := 0, tag := 1, data := bytes [1, 0] }
    Spec.Takes (streaming 1 []) 0 7 0x61 streamCmd ∧ pointersOk 0 streamCmd.pkt = true ∧ 2 ≤ pktInLen streamCmd.pkt ∧ pktInLen streamCmd.pkt % 2 = 0 ∧
    wbit (aud (streaming 0 []) 8) 0 = false ∧ wbit (aud (streaming 1 []) 8) 0 = true ∧ cmdInput (Spec.taken (streaming 1 []) 0 7) 0 streamCmd (some (bytes [1, 0])) = some (bytes [1, 0]) ∧
    (∃ c ∈ (streaming 1 [{ b with door := 1 }]).audio.stream.head?, c.door ≠ 0) ∧ (∀ c ∈ (streaming 1 [b, b, b, b]).audio.stream.head?, c.door = 0) ∧
    4 ≤ (streaming 1 [b, b, b, b]).audio.stream.length ∧ (streaming 1 [b, b, b]).audio.stream.length < 4 := by
  refine ⟨takes_of ?_, ?_, ?_, ?_, ?_, ?_, ?_, ⟨_, rfl, ?_⟩,
    ?_⟩ <;> decide +kernel
-- R382: at y = 0 both PWM balls are 50 % squares in opposite phase.
theorem test_pwm_silence : (pwmBalls (pwmSample 0 1 0 0).1) =
    List.replicate 12 (false, true) ++ List.replicate 25 (true, false) ++ List.replicate 13 (false, true) := by decide +kernel
theorem witness_AudioEvents_sinks : let s := { on with audio := { on.audio with live := [(0x40040008, 6#32), (0x40040190, 0x134#32)], sinks := [(0, { en := true })] } }
    (∃ b, (sinksOut 0 0 s).out = .audio b :: s.out ∧ b.bclk = 1 ∧ b.mclk = true) ∧ wbit (aud s 8) 1 = true ∧ (sink s 0).en = true ∧ audioHeld s = false ∧ wbit (aud s 8) 2 = true ∧
    wbit (aud s 0x190) 2 = true ∧ wbit (aud on 0x190) 2 = false ∧ wbit (aud on 8) 2 = false ∧ (sink on 0).en = false ∧ tableWf {} 0 s.audio.sinks = true :=
  ⟨⟨_, rfl, by decide +kernel, by decide +kernel⟩, by decide +kernel⟩
theorem witness_AudioEvents_boundary : aclkRuns on = false ∧ aclkRuns (withRegs [(0x400A0010, 2#32)]) = true ∧ tableWf {} 0 (withRegs [(0x400A0010, 2#32)]).audio.voices = true ∧
    wbit 2#32 1 = true ∧ 3 ∉ on.audio.prst ∧ (wbit 0#32 0 = false ∨ spBad on (wbit 0#32 1) = false) ∧ wbit 1#32 1 = false := by decide +kernel

/-! Pins, fans. -/

theorem witness_Pins : (let s := { on with pins := { on.pins with lockSeq := [(2, 1)] } }
     tget 0 s.pins.lockSeq 2 = 1) ∧ tget 0 on.pins.lockSeq 0 = 0 ∧ tget 0 { on.pins with lockSeq := [(1, 2)] }.lockSeq 1 = 2 ∧
    (let s := withRegs [(0x40020078, 0#32)]
     bitAt s.pins.level 47 ≠ true ∧ rbit s (0x40020070 + 4 * (47 / 16)) (47 % 16) = false ∧
     wbit (reg s (0x40020100 + 4 * 47)) 8 = false) ∧
    (let s := withRegs [(0x40020070, 0#32), (0x40020100, 0x700#32)]
     rbit s 0x40020070 0 = false ∧ wbit (reg s 0x40020100) 8 = true) ∧
    rbit on (0x40020070 + 4 * (47 / 16)) (47 % 16) = true ∧ bitAt on.pins.level 47 = false ∧ bitAt on.fans.resolved 2 = false ∧ bitAt on.fans.resolved 5 = false ∧
    bitAt on.fans.resolved 6 = false := by decide +kernel
/-- `on` with the fan block's state. -/
def withFans (f : Fans) : State := { on with fans := f }
theorem witness_Fans_tach : bitAt on.fans.resolved 2 = false ∧ bitAt (withFans { resolved := 7, tach := [(2, { edge := some 0 })] }).fans.resolved 2 = true ∧
    (tach (withFans { resolved := 7, tach := [(2, { edge := some 0 })] }) 2).edge = some 0 ∧ (slowCounts on 3 = false ∨ (tach on 3).faulted = true) ∧
    (let s := { withRegs [(0x40030008, 1#32), (0x40030020, 1000#32), (0x40030048, 0x07D00004#32)] with epoch := { on.epoch with base := 2500000000 }, fans := { on.fans with resolved := 7 } }
     slowCounts s 0 = true ∧ (tach s 0).faulted = false ∧ rfld s 0x40030048 16 16 * 1250000 ≤ nowP s - slowSince s 0) := by decide +kernel
-- Chapter 19, "Seized rotor": slow from 300,001 ticks after the edge, a fault at 2,030.0001 ms.
theorem test_fan_fault_time : let s := { withRegs [(0x40030008, 1#32), (0x40030020, 1000#32), (0x40030050, 71428#32), (0x40030058, 0x07D00005#32)] with
      fans := { on.fans with resolved := 7, tach := [(1, { edge := some 0 })] } }
    let at? := fun n => slowLong { s with epoch := { on.epoch with base := n } } 1
    at? (20300001 * 125 - 1) = false ∧ at? (20300001 * 125) = true := by decide +kernel
theorem witness_Fans_watchdog : wfld 0xFA5E#32 0 16 = 0xFA5E ∧ wfld 0#32 0 16 ≠ 0xFA5E ∧ rbit (withRegs [(0x40030008, 1#32)]) 0x40030008 0 = true ∧ rbit on 0x40030008 0 = false ∧
    (let s := { withRegs [(0x40030008, 1#32)] with epoch := { on.epoch with base := 12500000000 }, fans := { on.fans with wdog := some (1000, 0) } }
     s.fans.wdog = some (1000, 0) ∧ 1000 * 1250000 ≤ nowP s - 0) := by decide +kernel
-- Table 19-4, step 10 on: DEAD 5, COMP 1, applied duty 300, Hall code 5, RUN at the period start at 280 µs.
theorem test_gate_periods : let s := { withRegs [(0x40030008, 9#32), (0x4003001C, 5#32), (0x4003002C, 300#32)] with
      epoch := { on.epoch with base := 350000 }, fans := { on.fans with f3 := 1, arm := true, hall := 5 } }
    let t := pwmStart s
    (List.range 6).map (gateHigh t) = [(5, 300), (305, 400), (0, 0), (5, 400), (0, 0), (0, 0)] ∧
    (List.range 6).map (gateHigh (pwmStart { t with epoch := { on.epoch with base := 400000 } })) =
      [(5, 300), (305, 400), (0, 0), (0, 400), (0, 0), (0, 0)] := by decide +kernel
theorem witness_Fans_gates : (let s := withFans { f3 := 1 }; s.fans.f3 ≠ 2 ∧ ∃ o ∈ [some 3], o ≠ (none : Option Nat)) ∧ (withFans { f3 := 2, hall := 7 }).fans.f3 = 2 ∧
    hallStep (withFans { f3 := 2, hall := 5 }).fans.hall (withFans { f3 := 2, hall := 5 }).fans.dir = some (0, 1) ∧
    (let s := { withRegs [(0x4003003C, 300#32)] with fans := { on.fans with f3 := 2, hall := 5 } }; (gateHigh s 0).1 < (gateHigh s 0).2) := by decide +kernel
theorem witness_Fans_drive : (let s := withFans { resolved := 0x38, f3 := 2, hall := 5 }
     (7 : Nat) &&& fld s.fans.resolved 3 3 ≠ s.fans.hall ∧ bitAt ((7 : Nat) &&& fld s.fans.resolved 3 3) 0 = true ∧ s.fans.f3 = 2 ∧ (7 : Nat) &&& fld s.fans.resolved 3 3 = 7) ∧
    on.fans.f3 = 0 ∧ (withFans { f3 := 1 }).fans.f3 ≠ 0 ∧ (withFans { resolved := 64 }).fans.tripIn = true ∧ bitAt (withFans { resolved := 64 }).fans.resolved 6 = true ∧
    (withFans { tripIn := false }).fans.tripIn = false ∧ (withFans { f3 := 1, arm := true, hall := 6 }).fans.hall ≤ 6 ∧ on.fans.arm = false := by decide +kernel

-- Table 20-6, the worked case of chapter 20, and the order of R428.
theorem test_ball_counts : (allBalls.filter fun b => match b with | .signal _ => true | _ => false).length = 261 ∧
    ([Supply.core, .vss, .sd, .sdh, .pll, .aon, .ioA, .ioN, .ioP].map fun v => (allBalls.filter (· == .supply v)).length) =
      [358, 633, 94, 32, 8, 4, 20, 8, 12] ∧ (allBalls.filter (· == .nc)).length = 14 := by decide +kernel
theorem test_ball_places : ballAt 24 34 = .signal (.lane true false true 5) ∧ ballAt 24 35 = .signal (.lane true false false 5) ∧
    ballAt 24 36 = .supply .vss ∧ ballAt 24 33 = .supply .sd ∧ ballAt 23 34 = .supply .sd ∧ ballAt 25 34 = .supply .vss ∧
    ballAt 12 20 = .supply .core ∧ rowLetters 24 = "AE" := by decide +kernel

/-! Faults, resets, power. -/

/-- The sentinel has asked for fuse bit `i`. -/
def asksFuse (i : Nat) : State := withRegs [(0x400B00F0, w32 i)]
theorem witness_Faults_fuses : wfld 0xF05E#32 0 16 = 0xF05E ∧ wfld 0#32 0 16 ≠ 0xF05E ∧ rbit (withRegs [(0x400B00FC, 1#32)]) 0x400B00FC 0 = true ∧ rbit on 0x400B00FC 0 = false ∧
    rfld (asksFuse 832) 0x400B00F0 0 10 = 832 ∧ (asksFuse 832).fuses.burn = none ∧ (asksFuse 832).fuses.sensed.lock = false ∧ 832 < rfld (asksFuse 833) 0x400B00F0 0 10 ∧
    rfld (asksFuse 63) 0x400B00F0 0 10 < 64 ∧ { on.fuses with burn := some 64 }.burn = some 64 := by decide +kernel
theorem witness_Faults_stage : let f := { fromDry 0x0800 with slot := some 1023 }
    let s := { machine [] [f] with epoch := { on.epoch with base := 1250000 } }
    s.mach.frames.find? (fun f => f.slot == some 1023 && frmDir f == 1) = some f ∧ f.time + 1250000 ≤ nowP s ∧ f.stage ≠ .couch ∧
    nowP (machine [] [f]) < f.time + 1250000 := by decide +kernel
theorem witness_Faults_memory : regionOf (0x10000000#32).toNat ∈ [.itcm, .dtcm, .sram] ∧ regionOf (0x60000000#32).toNat ∉ [.itcm, .dtcm, .sram] ∧
    regionOf (0x300FFFFF#32).toNat = .sram ∧ wbit (withCore { cctl := 2#32 }).core.cctl 1 = true ∧ wbit (withCore { cctl := 2#32 }).core.cctl 0 = false ∧ on.faults.first = 0 := by decide +kernel
/-- A device state, with recoveries begun at times. -/
def recovering (mode restarts : Nat) (begun : List Nat) : State :=
  { on with fault := { mode := mode }, faults := { on.faults with restarts := restarts, begun := begun } }
theorem witness_Faults_recovery : (recovering 2 0 []).fault.mode = 2 ∧ (recovering 1 2 []).fault.mode = 1 ∧ (recovering 1 2 []).faults.restarts < 3 ∧
    3 ≤ (recovering 1 3 []).faults.restarts ∧ (recovering 0 0 [0, 0, 0, 0, 0, 0]).fault.mode = 0 ∧
    ((recovering 0 0 [0, 0, 0, 0, 0, 0]).faults.begun.filter fun t => decide (nowP (recovering 0 0 [0, 0, 0, 0, 0, 0]) - t < 1250000000)).length < 7 ∧
    7 ≤ ((recovering 0 0 [0, 0, 0, 0, 0, 0, 0]).faults.begun.filter fun t => decide (nowP (recovering 0 0 [0, 0, 0, 0, 0, 0, 0]) - t < 1250000000)).length := by
  decide +kernel
theorem witness_ResetEvents : State.reset.clk.pstate ≠ .off ∧ State.reset.clk.pstate ≠ .sleep ∧ on.clk.held = false ∧ wfld 0xA5C3#32 0 16 = 0xA5C3 ∧ wfld 0#32 0 16 ≠ 0xA5C3 ∧
    (on.fault.mode ≠ 2 ∨ sentinelRuns on = true) ∧
    (let s := { on with fault := { mode := 2 }, pair := { on.pair with handling := .bist } }
     s.fault.mode = 2 ∧ sentinelRuns s = false) ∧
    (State.reset.regs.map (·.1)).Nodup ∧ State.reset.clk.held = true ∧ State.reset.loft.pwrEn = true ∧ State.reset.clk.thermHold = false ∧
    { State.reset.loft with pwrEn := false }.pwrEn = false ∧ State.reset.undef = false ∧ Spec.actsInReset (.kNop) = false ∧ 10000 ≤ 10000 := by decide +kernel

theorem witness_Power_states : (withClk { psBusy := true }).clk.psBusy = true ∧ on.clk.psBusy = false ∧ on.clk.pstate = .run ∧ (withClk { pstate := .dim }).clk.pstate = .dim ∧
    on.clk.dimWanted = false ∧
    (let s := withClk { dimWanted := true, draining := true, sleepWanted := true }
     s.clk.dimWanted = true ∧ s.clk.draining = true ∧ s.mach.frames = [] ∧ (∀ d < 8, (cal s d).pend = none) ∧ s.clk.sleepWanted = true) ∧
    (let s := withClk { runWanted := true, pstate := .dim }
     s.clk.runWanted = true ∧ s.clk.pstate = .dim ∧ (∀ q : Nat, q < 16 → (port s q).state ≠ 6)) ∧
    (let s := { withClk { sleepWanted := true, pstate := .nap } with vat := { on.vat with stopping := true } }
     s.clk.sleepWanted = true ∧ s.clk.pstate ≠ .run ∧ s.clk.pstate ≠ .off ∧ s.vat.stopping = true ∧ s.vat.busy = false) ∧
    on.vat.stopping = false := by decide +kernel
theorem witness_Power_sensors : (hottest (newTemps on [20, 114, 30])).2 = 114 ∧ (hottest (newTemps on [20, 30, 30, 30, 30, 115])).2 = 115 ∧ on.clk.droop = false ∧
    State.reset.loft.pwrEn = true ∧ State.reset.clk.pstate ≠ .off ∧ (∃ i < 6, 115 ≤ [(20 : Int), 115].getD i 0) ∧
    (∀ i < 6, [(104 : Int), 20].getD i 0 < 105) ∧ (∀ i < 6, [(114 : Int)].getD i 0 < 115) ∧ (∃ i < 6, 105 ≤ [(114 : Int)].getD i 0) := by decide +kernel
theorem witness_Power_clocks : wfld 20#32 0 10 = 20 ∧ wfld 1000#32 0 10 = 1000 ∧ wfld 19#32 0 10 < 20 ∧ 1000 < wfld 1001#32 0 10 ∧ pxclkRuns (withRegs [(0x400A0010, 1#32)]) = true ∧
    (withClk { pstate := .nap }).clk.pstate = .nap ∧ aclkRuns (writeTyped 0x400A0010 false 1#32 on) = aclkRuns on ∧ aclkRuns (writeTyped 0x400A0010 false 0#32 on) = aclkRuns on := by decide +kernel

/-- `on` with the Loft's state. -/
def withLoft (l : Loft) : State := { on with loft := l }
theorem witness_Loft_queue : let w : LoftWrite := { offset := 0x01C, mask := 0xFFFFFFFF#32, value := 5#32 }
    on.loft.wq = [] ∧ (withLoft { wq := [w], xtalRun := true }).loft.wq = w :: [] ∧ (withLoft { wq := [w], xtalRun := true }).loft.xtalRun = true ∧
    (withLoft { wq := [w] }).loft.wq = w :: [] ∧ (withLoft { wq := [w] }).loft.xtalRun = false ∧
    (withLoft { wq := List.replicate 3 w }).loft.wq.length < 4 ∧ 4 ≤ (withLoft { wq := List.replicate 4 w }).loft.wq.length ∧
    (withClk { pstate := .sleep }).loft.xtalDead = false := by decide +kernel
theorem witness_Loft_clock : let s := withLoft { xtalRun := true, xtalPos := 2 ^ 20 - 1, rtcSub := 32767 }
    let t := { s with regs := [(0x400E0008, 2#32)] }
    s.clk.pstate ≠ .off ∧ s.loft.xtalRun = true ∧ rfld s 0x400E0024 0 10 = 0 ∧ s.loft.xtalPos < 2 ^ 20 ∧ s.loft.rtcSub < 32768 ∧
    rbit s 0x400E0008 0 = false ∧ rbit s 0x400E0008 1 = false ∧ rbit t 0x400E0008 1 = true ∧ rbit t 0x400E0008 0 = false ∧
    rfld t 0x400E0024 0 10 = 0 ∧ on.loft.xtalRun = false ∧ on.loft.xtalPos < 2 ^ 20 := by decide +kernel
theorem witness_Loft_tamper : let s := withLoft { xtalRun := true, tstate := [0, 0, 0, 1] }
    s.loft.xtalRun = true ∧ s.clk.pstate ≠ .off ∧ s.loft.tstate.getD 3 2 = 1 ∧ s.loft.tstate.getD 3 2 ≠ 2 ∧
    (0 : Nat) ≠ s.loft.tstate.getD 3 2 ∧ (withLoft { xtalRun := true }).loft.tstate.getD 3 2 = 2 := by decide +kernel
theorem witness_Loft_button : (withLoft { xtalRun := true }).loft.btn ≠ true ∧
    (let s := { withLoft { xtalRun := true, btn := true } with regs := [(0x400E0008, 4#32)] }
     s.loft.btn = true ∧ s.loft.longDone = false ∧ crystalRuns s = true ∧ rbit s 0x400E0008 2 = true ∧ s.loft.pwrEn = true) ∧
    (let s := { withLoft { xtalRun := true, pwrEn := false, wakeHeld := true } with clk := { on.clk with pstate := .sleep } }
     s.loft.pwrEn = false ∧ s.clk.pstate = .sleep ∧ s.loft.xtalRun = true ∧ s.loft.wakeHeld = true) := by decide +kernel

/-! Timers, the pair, debug. -/

theorem witness_Timers : (∀ n : Nat, n < 8 → wbit 0x80#32 n = true → rbit (withRegs [(0x40010004, 0x80#32)]) 0x40010004 n = true) ∧
    (∀ n : Nat, n < 8 → rbit on 0x40010004 n = false) ∧
    (let s := withRegs [(0x40010004, 0x80#32), (0x40010120, 4#32), (0x40010138, 9#32), (0x400A0010, 1#32)]
     (∀ n : Nat, n < 8 → (rbit s 0x40010004 n = true ↔ n = 7)) ∧ tmrSrc s 7 = 4 ∧ pxclkRuns s = true ∧ tmrCountOf s 7 ≠ rfld s (0x40010058 + 0x20 * 7) 0 16) ∧
    (0 = 7 ∨ tmrSrc on (0 + 1) ≠ 5) := by decide +kernel
/-- Timer 7 alone is enabled, with SRC `src`, PRE 3, COUNT 9, RELOAD `live`; its prescaler is at `pre`; its pin has its function. -/
def timing (src live pre : Nat) : State :=
  { withRegs [(0x40010004, 0x80#32), (0x40010120, w32 src), (0x40010124, 3#32), (0x40010130, 9#32), (0x40010138, w32 live), (0x40020050, 0x8000#32), (0x400A0010, 1#32)] with
    tmr := [(7, { pre := pre })] }
theorem witness_TimerCommands_counts : ((timing 0 20 2).regs.map (·.1)).Nodup ∧ ((timing 0 20 2).tmr.map (·.1)).Nodup ∧
    (∀ n : Nat, n < 8 → n ≠ 7 → rbit (timing 0 20 2) 0x40010004 n = false) ∧ Spec.timerSees (timing 0 20 2) .tick 7 = true ∧
    (tget {} (timing 0 20 2).tmr 7).pre < Spec.timerReg (timing 0 20 2) 7 0x04 ∧
    Spec.timerReg (timing 0 20 3) 7 0x04 ≤ (tget {} (timing 0 20 3).tmr 7).pre ∧ Spec.timerSees (timing 0 20 2) .line 7 = false ∧
    Spec.timerSees (timing 4 9 0) .line 7 = true ∧ Spec.timerSees (timing 3 9 0) (.edge 7 false) 7 = true ∧
    Spec.timerReg (timing 4 9 0) 7 0x10 = Spec.timerReg (timing 4 9 0) 7 0x18 ∧
    Spec.timerReg (timing 0 20 3) 7 0x10 ≠ Spec.timerReg (timing 0 20 3) 7 0x18 := by decide +kernel
theorem witness_TimerCommands_registers : (0x400FFFFC#32).toNat % 4 = 0 ∧ 0x40000000 ≤ (0x400FFFFC#32).toNat ∧ (0x400FFFFC#32).toNat ≤ 0x400FFFFF ∧
    (regWrite 0x40010004 1#32 on).undef = false ∧ (0x3FFFFFFC#32).toNat % 4 = 0 ∧ (0x3FFFFFFC#32).toNat < 0x40000000 ∧
    (doorWrite 0 0x50 1#32 on).undef = false ∧ (doorWrite 1 0x11FC 1#32 on).undef = false ∧ (0x801FFFFC#32).toNat % 4 = 0 ∧
    0x80000000 ≤ (0x801FFFFC#32).toNat ∧ (0x801FFFFC#32).toNat ≤ 0x801FFFFF ∧ (0x80000001#32).toNat % 4 ≠ 0 ∧ on.undef = false := by decide +kernel
theorem witness_Registers : (0x400E000D#32).toNat % 4 ≠ 0 ∧ (0x400FFFFC#32).toNat % 4 = 0 ∧ 0x40000000 ≤ (0x400FFFFC#32).toNat ∧
    (regWrite 0x40010004 1#32 on).undef = false ∧ (0x801FFFF8#32).toNat % 8 = 0 ∧ 0x80100000 ≤ (0x801FFFF8#32).toNat ∧ (0x801FFFF8#32).toNat ≤ 0x801FFFFF := by decide +kernel
/-- `on` with the pair's state. -/
def withPair (p : Pair) : State := { on with pair := p }
theorem witness_Pair_watchdog : let s := { on with epoch := { on.epoch with base := 1250000000 } }
    nowP s - s.pair.wdogStart = 1250000000 ∧ s.pair.wdogPaused = none ∧ s.idn.booting = false ∧ s.idn.halted = false ∧ s.pair.wdogWarned = false ∧
    s.pair.wdogTaken * 1250000 * 7 ≤ 8 * 1250000000 ∧ s.pair.wdogTaken * 1250000 ≤ 1250000000 ∧ nowP on - on.pair.wdogStart = 0 ∧
    8 * 0 < on.pair.wdogTaken * 1250000 * 7 ∧ 0 < on.pair.wdogTaken * 1250000 ∧ on.pair.wdogPaused = none ∧ wfld 0x6B1D#32 0 16 = 0x6B1D ∧ (withPair { wdogPaused := some 3 }).pair.wdogPaused ≠ none := by decide +kernel
theorem witness_Pair_modes : rbit on 0x40090008 31 = false ∧ solo on = false ∧ solo (withPair { mode := 2, failedA := true }) = true ∧ on.pair.scrubSram ≠ 131071 ∧
    (withPair { scrubSram := 131071 }).pair.scrubSram = 131071 := by decide +kernel
theorem witness_Pair_bist : let s := withPair { handling := .bist, noSolo := true }
    s.pair.handling = .bist ∧ s.faults.bist = false ∧ s.pair.failedA = false ∧ s.pair.failedB = false ∧ solo s = false ∧ s.pair.noSolo = true ∧
    solo (withPair { handling := .bist }) = false ∧ { on.faults with bist := true }.bist = true ∧ on.pair.handling ≠ .zeroing ∧
    (withPair { handling := .bist }).pair.noSolo = false ∧ on.pair.handling ≠ .bist ∧ (withPair { handling := .zeroing }).pair.handling = .zeroing := by decide +kernel
theorem witness_Debug_tap : on.clk.pstate = .run ∧ (List.replicate 32 true).length = 32 ∧ (List.replicate 311 true).length = 311 ∧ on.undef = false := by decide +kernel
/-- `on` with DBG_ACCESS selected and the pair's state. -/
def debugged (p : Pair) : State := { withPair p with tap := { on.tap with ir := 0x20 } }
theorem witness_Debug_access : tapOn (debugged {}) = true ∧ (debugged {}).tap.ir = 0x20 ∧ accessFault false 0x20000000 4 = none ∧ accessFault true 0x20000000 4 = none ∧
    accessFault false 0x20000002 4 ≠ none ∧ accessFault true 0x10000000 4 = none ∧ accessFault true 0xFFFFFFFC 4 ≠ none ∧
    (storeVal 0x20000000 4 5 (debugged {})).undef = false ∧ copyHalted 0#32 (debugged {}) = false ∧ copyHalted 0#32 (debugged { halted := true }) = true := by decide +kernel
theorem witness_Debug_pair : (debugged { halted := true }).pair.mode ≠ 3 ∧ pairStopped (debugged {}) = false ∧ (debugged { brk := true }).pair.brk = true ∧
    (debugged { brk := true }).core.waiting = false ∧ (debugged { handling := .bist }).pair.handling ≠ .run ∧ (debugged { halted := true }).idn.booting = false ∧
    wfld 1#32 0 2 = 1 ∧ solo (debugged {}) = false ∧ solo (debugged { mode := 2, failedA := true }) = true ∧ pairStopped (debugged { mode := 2, failedA := true }) = false := by decide +kernel
theorem witness_Debug_checker : let s := debugged { mode := 3, chkHalted := true }
    s.pair.chkHalted = true ∧ s.pair.mode = 3 ∧ (if s.pair.mode = 3 then s.pair.chkHalted else s.pair.halted) = true ∧
    (debugged {}).pair.mode ≠ 1 ∧ (debugged { halted := true }).pair.halted = true ∧ (5#32) = BitVec.ofNat 32 (5 : Fin 16).val := by decide +kernel
/-- A halted pair at an unmapped PC steps into its handler. -/
theorem witness_Debug_step : (stepMain { debugged { halted := true } with core := { pc := 0x10000000#32 } }).undef = false := by decide +kernel

/-! The whole block. -/

theorem witness_CommandsComplete : on.wf = true ∧ ∃ t, step { on with pending := [.kNop] } = .next t := ⟨by decide +kernel, _, rfl⟩
theorem witness_StepKeepsForm : State.reset.wf = true ∧ ∃ t, step State.reset = .next t := ⟨by decide +kernel, _, rfl⟩
theorem witness_FusesStayBlown : let s := { on with fuses := { on.fuses with blown := { svn := 1, khEc := 2 ^ 383, khPq := 2 ^ 383, lock := true } } }
    s.wf = true ∧ (∃ t, step s = .next t) ∧ s.fuses.blown.svn.testBit 0 = true ∧ s.fuses.blown.khEc.testBit 383 = true ∧ s.fuses.blown.khPq.testBit 383 = true ∧ s.fuses.blown.lock = true :=
  ⟨by decide +kernel, ⟨_, rfl⟩, by decide +kernel⟩
theorem witness_KarpolWords : wellFormed (.kPush 25) = true ∧ (encodeWord (.kPush 25)).isSome = true ∧ (decodeWord 0x18400040#32).isSome = true := by decide +kernel
theorem witness_RegistersAndMemory : (on.regs.map (·.1)).Nodup ∧ Memory.wf on.mem = true ∧ bitAt (regSpec 0x40010004).w1c 7 = false ∧ bitAt (regSpec 0x40010004).rw 7 = true ∧
    bitAt (regSpec 0x40020004).rw 31 = false := by decide +kernel

end Sys2Proof.Tests
end

section
/-! Registers and memory (R4–R6): a register read back after a store, the bits that each type of field takes, and bytes of
memory read back after a write. -/

namespace Sys2Proof.Machine

/-! Tables in which an index is listed at most once. -/

/-- Index `i` is listed at most once in a table. -/
def ListedOnce {α : Type} (t : Table α) (i : Nat) : Prop := (t.map (·.1)).count i ≤ 1

theorem listedOnce_of_nodup {α : Type} {t : Table α} (h : (t.map (·.1)).Nodup) (i : Nat) : ListedOnce t i := by
  unfold ListedOnce
  induction t with
  | nil => exact Nat.zero_le 1
  | cons e r ih =>
    rw [List.map_cons] at h ⊢
    obtain ⟨he, hr⟩ := List.nodup_cons.1 h
    by_cases hi : e.1 = i
    · subst hi
      exact Nat.le_of_eq (by rw [List.count_cons_self, List.count_eq_zero.2 he])
    · rw [List.count_cons_of_ne hi]
      exact ih hr

/-- An index that no entry has reads as the default. -/
theorem tget_of_not_mem {α : Type} (d : α) {t : Table α} {i : Nat} (h : i ∉ t.map (·.1)) : tget d t i = d := by
  induction t with
  | nil => rfl
  | cons e r ih =>
    obtain ⟨k, v⟩ := e
    rw [List.map_cons, List.mem_cons, not_or] at h
    rw [tget, if_neg (Ne.symm h.1), ih h.2]

theorem tget_tdel_of_listedOnce {α : Type} (d : α) {t : Table α} {i : Nat} (h : ListedOnce t i) :
    tget d (tdel t i) i = d := by
  induction t with
  | nil => rfl
  | cons e r ih =>
    obtain ⟨k, v⟩ := e
    by_cases hk : k = i
    · subst hk
      have h0 : k ∉ r.map (·.1) := by
        unfold ListedOnce at h
        rw [List.map_cons, List.count_cons_self] at h
        exact List.count_eq_zero.1 (by omega)
      rw [tdel, if_pos rfl, tget_of_not_mem d h0]
    · unfold ListedOnce at h
      rw [List.map_cons, List.count_cons_of_ne hk] at h
      rw [tdel, if_neg hk, tget, if_neg hk, ih h]

/-- An index listed at most once reads back the value set. -/
theorem tget_tset_of_listedOnce {α : Type} [DecidableEq α] (d : α) {t : Table α} {i : Nat} (v : α) (h : ListedOnce t i) :
    tget d (tset d t i v) i = v := by
  unfold tset
  split
  · next hv => rw [tget_tdel_of_listedOnce d h, hv]
  · exact tget_tins_same d t i v

theorem count_tdel_ne {α : Type} (t : Table α) {i j : Nat} (h : j ≠ i) :
    ((tdel t i).map (·.1)).count j = (t.map (·.1)).count j := by
  induction t with
  | nil => rfl
  | cons e r ih =>
    obtain ⟨k, v⟩ := e
    by_cases hk : k = i
    · rw [tdel, if_pos hk, List.map_cons, List.count_cons_of_ne (by omega)]
    · rw [tdel, if_neg hk, List.map_cons, List.map_cons, List.count_cons, List.count_cons, ih]

theorem count_tins_ne {α : Type} (t : Table α) {i j : Nat} (v : α) (h : j ≠ i) :
    ((tins t i v).map (·.1)).count j = (t.map (·.1)).count j := by
  induction t with
  | nil => exact List.count_cons_of_ne (Ne.symm h)
  | cons e r ih =>
    obtain ⟨k, u⟩ := e
    rw [tins]
    split
    · exact List.count_cons_of_ne (Ne.symm h)
    · split
      · next hk => subst hk; rw [List.map_cons, List.map_cons]
      · rw [List.map_cons, List.map_cons, List.count_cons, List.count_cons, ih]

/-- Setting one index leaves how often another is listed. -/
theorem listedOnce_tset_ne {α : Type} [DecidableEq α] (d : α) {t : Table α} {i j : Nat} (v : α) (h : j ≠ i)
    (hj : ListedOnce t j) : ListedOnce (tset d t i v) j := by
  unfold ListedOnce tset
  split
  · rw [count_tdel_ne t h]; exact hj
  · rw [count_tins_ne t v h]; exact hj

/-! A register read back after a store. -/

theorem reg_setReg_of_listedOnce {a : Nat} (v : Word) {s : State} (h : ListedOnce s.regs a) : reg (setReg a v s) a = v :=
  tget_tset_of_listedOnce _ v h

theorem listedOnce_setReg_ne {a b : Nat} (v : Word) {s : State} (h : b ≠ a) (hb : ListedOnce s.regs b) :
    ListedOnce (setReg a v s).regs b := listedOnce_tset_ne _ v h hb

/-- A value other than the reset value reads back from every table. -/
theorem reg_setReg_of_ne_reset {a : Nat} {v : Word} (s : State) (h : v ≠ w32 (regSpec a).reset) : reg (setReg a v s) a = v := by
  show tget _ (tset _ s.regs a v) a = v
  rw [tset, if_neg h, tget_tins_same]

/-- A stored bit that differs from its reset value reads back from every table. -/
theorem rbit_setReg_of_ne_reset {a i : Nat} {v : Word} {b : Bool} (s : State) (h0 : wbit (w32 (regSpec a).reset) i ≠ b)
    (h : wbit v i = b) : rbit (setReg a v s) a i = b := by
  have hv : v ≠ w32 (regSpec a).reset := by rintro rfl; exact h0 h
  rw [rbit, reg_setReg_of_ne_reset s hv, h]

/-! Bits of words. -/

theorem bitAt_eq_testBit (w i : Nat) : bitAt w i = w.testBit i := by
  rw [bitAt, Nat.testBit_eq_decide_div_mod_eq]
  rfl

theorem wbit_w32 (n : Nat) {i : Nat} (h : i < 32) : wbit (w32 n) i = bitAt n i := by
  rw [wbit, w32, BitVec.getLsbD_ofNat, decide_eq_true h, Bool.true_and, bitAt_eq_testBit]

theorem wbit_and (v w : Word) (i : Nat) : wbit (v &&& w) i = (wbit v i && wbit w i) := BitVec.getLsbD_and
theorem wbit_or (v w : Word) (i : Nat) : wbit (v ||| w) i = (wbit v i || wbit w i) := BitVec.getLsbD_or
theorem wbit_not (v : Word) {i : Nat} (h : i < 32) : wbit (~~~v) i = !wbit v i := by
  rw [wbit, BitVec.getLsbD_not, decide_eq_true h, Bool.true_and]; rfl
theorem wbit_wsetBit {w : Word} {k i : Nat} {b : Bool} (h : k < 32) : wbit (wsetBit w k b) i = if i = k then b else wbit w i :=
  getLsbD_wsetBit h

/-! Typed writes and reads (R4). -/

/-- What a software write leaves in a register: the writable bits as written, less the ones that a 1 clears. -/
def typedValue (p : RegSpec) (locked : Bool) (v old : Word) : Word :=
  let m := w32 p.rw ||| (if locked then 0#32 else w32 p.lk)
  ((old &&& ~~~m) ||| (v &&& m)) &&& ~~~(v &&& w32 p.w1c)

theorem writeTyped_eq (a : Nat) (locked : Bool) (v : Word) (s : State) :
    writeTyped a locked v s = setReg a (typedValue (regSpec a) locked v (reg s a)) s := rfl

/-- A bit that software may write takes the bit written where a 1 does not clear it; any other keeps its value. -/
theorem wbit_typedValue (p : RegSpec) (locked : Bool) (v old : Word) {i : Nat} (h : i < 32) :
    wbit (typedValue p locked v old) i =
      ((if bitAt p.rw i || (!locked && bitAt p.lk i) then wbit v i else wbit old i) && !(wbit v i && bitAt p.w1c i)) := by
  have hlk : wbit (if locked then 0#32 else w32 p.lk) i = (!locked && bitAt p.lk i) := by
    cases locked
    · rw [if_neg Bool.false_ne_true, wbit_w32 _ h, Bool.not_false, Bool.true_and]
    · rw [if_pos rfl, wbit, BitVec.getLsbD_zero, Bool.not_true, Bool.false_and]
  rw [typedValue, wbit_and, wbit_or, wbit_and, wbit_and, wbit_not _ h, wbit_not _ h, wbit_and, wbit_or, hlk, wbit_w32 _ h,
    wbit_w32 _ h]
  cases bitAt p.rw i || (!locked && bitAt p.lk i) <;> simp

theorem rbit_writeTyped {a i : Nat} {locked : Bool} {v : Word} {s : State} (h : ListedOnce s.regs a) (hi : i < 32) :
    rbit (writeTyped a locked v s) a i =
      ((if bitAt (regSpec a).rw i || (!locked && bitAt (regSpec a).lk i) then wbit v i else rbit s a i) &&
        !(wbit v i && bitAt (regSpec a).w1c i)) := by
  rw [rbit, writeTyped_eq, reg_setReg_of_listedOnce _ h, wbit_typedValue _ _ _ _ hi, rbit]

/-- What a read leaves in a register: its read-to-clear bits at their reset value. -/
theorem rbit_readClears {a i : Nat} {s : State} (h : ListedOnce s.regs a) (hi : i < 32) :
    rbit (readClears a s) a i = if bitAt (regSpec a).rc i then bitAt (regSpec a).reset i else rbit s a i := by
  unfold readClears
  extract_lets p
  by_cases hrc : p.rc = 0
  · rw [if_pos hrc, if_neg (by rw [show (regSpec a).rc = 0 from hrc, bitAt_eq_testBit, Nat.zero_testBit]; exact Bool.false_ne_true)]
  · rw [if_neg hrc, rbit, reg_setReg_of_listedOnce _ h, wbit_or, wbit_and, wbit_and, wbit_not _ hi, wbit_w32 _ hi, wbit_w32 _ hi]
    show (rbit s a i && !bitAt p.rc i || bitAt p.reset i && bitAt p.rc i) = if bitAt p.rc i then bitAt p.reset i else _
    cases bitAt p.rc i <;> simp

theorem reg_readClears_ne {a b : Nat} (s : State) (h : b ≠ a) : reg (readClears a s) b = reg s b := by
  unfold readClears
  extract_lets p
  split
  · rfl
  · exact reg_setReg_ne _ s h

/-! Bytes of memory. -/

theorem mget_mwrite_outside (a : Nat) (bs : Bytes) (s : State) {x : Nat} (h : x < a ∨ a + bs.length ≤ x) :
    mget (mwrite a bs s) x = mget s x := by
  induction bs generalizing a s with
  | nil => rfl
  | cons b r ih =>
    rw [List.length_cons] at h
    rw [mwrite, ih (a + 1) (mset a b s) (by omega), mget_mset_ne b s (by omega)]

theorem mwrite_wf (a : Nat) (bs : Bytes) {s : State} (w : Memory.wf s.mem = true) : Memory.wf (mwrite a bs s).mem = true := by
  induction bs generalizing a s with
  | nil => exact w
  | cons b r ih => exact ih (a + 1) (mset_wf a b s w)

theorem mget_mwrite_inside (a : Nat) (bs : Bytes) {s : State} (w : Memory.wf s.mem = true) {k : Nat} (h : k < bs.length) :
    mget (mwrite a bs s) (a + k) = bs.getD k 0#8 := by
  induction bs generalizing a s k with
  | nil => exact absurd h (Nat.not_lt_zero k)
  | cons b r ih =>
    cases k with
    | zero => exact (mget_mwrite_outside (a + 1) r _ (.inl (by omega))).trans (mget_mset_same a b s w)
    | succ j =>
      rw [List.length_cons] at h
      rw [mwrite, List.getD_cons_succ, ← ih (a + 1) (mset_wf a b s w) (by omega), Nat.add_assoc, Nat.add_comm 1]

/-- What a store does to memory does not depend on the panel's state. -/
theorem agentWrite_mem (a : Nat) (bs : Bytes) (s : State) : ∃ x : State, x.mem = s.mem ∧ agentWrite a bs s = mwrite a bs x := by
  unfold agentWrite
  split
  · exact ⟨panelChange s, rfl, rfl⟩
  · exact ⟨s, rfl, rfl⟩

/-- Settles O59: a typed register changes bit by bit as `wbit_typedValue` says, and memory by induction on the bytes written. -/
theorem registersAndMemory : Obligations.RegistersAndMemory := by
  refine ⟨?_, ?_⟩
  · intro s a i locked v hs hi
    have h1 : ListedOnce s.regs a := listedOnce_of_nodup hs a
    have hbit := rbit_writeTyped (locked := locked) (v := v) h1 hi
    refine ⟨?_, ?_, rbit_readClears h1 hi, ?_, rfl, rfl, by rw [readClears_frame]⟩
    · intro hw hrw
      have hm : (bitAt (regSpec a).rw i || (!locked && bitAt (regSpec a).lk i)) = true := by
        rcases hrw with h | ⟨h, rfl⟩
        · rw [h, Bool.true_or]
        · rw [h, Bool.not_false, Bool.true_and, Bool.or_true]
      rw [hbit, hm, hw, if_pos rfl, Bool.and_false, Bool.not_false, Bool.and_true]
    · intro hrw hlk
      have hm : (bitAt (regSpec a).rw i || (!locked && bitAt (regSpec a).lk i)) = false := by
        rw [hrw, Bool.false_or]
        rcases hlk with h | rfl
        · rw [h, Bool.and_false]
        · rfl
      rw [hbit, hm, if_neg Bool.false_ne_true, Bool.and_comm (wbit v i)]
    · exact fun b hb => ⟨reg_setReg_ne _ s hb, reg_readClears_ne s hb⟩
  · intro s a bs w
    obtain ⟨x, hx, he⟩ := agentWrite_mem a bs s
    have wx : Memory.wf x.mem = true := hx ▸ w
    rw [he]
    refine ⟨mwrite_wf a bs wx, fun k hk => mget_mwrite_inside a bs wx hk, fun y hy => ?_⟩
    rw [mget_mwrite_outside a bs x hy, mget, hx, mget]

end Sys2Proof.Machine
end

section
/-! Timers (R324–R328): what each operation on the timers leaves in the registers, each said once. -/

namespace Sys2Proof.Machine

/-! Fields of words. -/

theorem wfld_w32 {n : Nat} (lo len : Nat) (h : n < 2 ^ 32) : wfld (w32 n) lo len = fld n lo len := by
  rw [wfld, w32, BitVec.toNat_ofNat, Nat.mod_eq_of_lt h]

theorem wfld_lt (w : Word) (lo len : Nat) : wfld w lo len < 2 ^ len := Nat.mod_lt _ (Nat.two_pow_pos len)

theorem bitAt_wfld (w : Word) (lo : Nat) {len i : Nat} (h : i < len) : bitAt (wfld w lo len) i = wbit w (lo + i) := by
  rw [bitAt_eq_testBit, wfld, fld, Nat.testBit_mod_two_pow, Nat.testBit_div_two_pow, decide_eq_true h, Bool.true_and,
    Nat.add_comm]
  rfl

theorem bitAt_and (m n i : Nat) : bitAt (m &&& n) i = (bitAt m i && bitAt n i) := by
  rw [bitAt_eq_testBit, bitAt_eq_testBit, bitAt_eq_testBit, Nat.testBit_and]

theorem bitAt_or (m n i : Nat) : bitAt (m ||| n) i = (bitAt m i || bitAt n i) := by
  rw [bitAt_eq_testBit, bitAt_eq_testBit, bitAt_eq_testBit, Nat.testBit_or]

theorem bitAt_toNat (w : Word) (i : Nat) : bitAt w.toNat i = wbit w i := bitAt_eq_testBit _ _

theorem bitAt_zero (i : Nat) : bitAt 0 i = false := by rw [bitAt_eq_testBit, Nat.zero_testBit]

/-- The bits of a byte subtracted from 255. -/
theorem bitAt_255_sub {x i : Nat} (hx : x < 256) (hi : i < 8) : bitAt (255 - x) i = !bitAt x i := by
  rw [bitAt_eq_testBit, bitAt_eq_testBit, show 255 - x = 2 ^ 8 - (x + 1) by omega, Nat.testBit_two_pow_sub_succ hx,
    decide_eq_true hi, Bool.true_and]

theorem bitAt_mod_256 (x : Nat) {i : Nat} (hi : i < 8) : bitAt (x % 256) i = bitAt x i := by
  rw [bitAt_eq_testBit, bitAt_eq_testBit, Nat.testBit_mod_two_pow x 8 i, decide_eq_true hi, Bool.true_and]

/-! Folds. -/

theorem foldl_of_fixed {α β : Type} {f : β → α → β} {l : List α} {s : β} (h : ∀ m ∈ l, f s m = s) : l.foldl f s = s := by
  induction l with
  | nil => rfl
  | cons m r ih =>
    rw [List.foldl_cons, h m List.mem_cons_self, ih fun x hx => h x (List.mem_cons_of_mem m hx)]

/-- A fold in which only the element `k` does anything. -/
theorem foldl_of_only {α β : Type} {f : β → α → β} {l : List α} {k : α} {s : β} (hl : l.Nodup) (hk : k ∈ l)
    (h1 : ∀ m ∈ l, m ≠ k → f s m = s) (h2 : ∀ m ∈ l, m ≠ k → f (f s k) m = f s k) : l.foldl f s = f s k := by
  induction l with
  | nil => exact absurd hk List.not_mem_nil
  | cons m r ih =>
    obtain ⟨hm, hr⟩ := List.nodup_cons.1 hl
    rw [List.foldl_cons]
    by_cases e : m = k
    · subst e
      exact foldl_of_fixed fun x hx => h2 x (List.mem_cons_of_mem m hx) fun e => hm (e ▸ hx)
    · rw [h1 m List.mem_cons_self e]
      exact ih hr ((List.mem_cons.1 hk).resolve_left (Ne.symm e)) (fun x hx => h1 x (List.mem_cons_of_mem m hx))
        fun x hx => h2 x (List.mem_cons_of_mem m hx)

/-! The registers of the timers. -/

theorem reg_raise (n : Nat) (s : State) (a : Nat) : reg (raise n s) a = reg s a := by rw [raise_frame]; rfl

theorem tmrAddr_ne_of_timer (o : Nat) {n m : Nat} (h : n ≠ m) : tmrAddr n o ≠ tmrAddr m o := by
  unfold tmrAddr; omega

theorem tmrAddr_ne_of_offset (n m : Nat) {o k : Nat} (ho : o < 0x20) (hk : k < 0x20) (h : o ≠ k) :
    tmrAddr n o ≠ tmrAddr m k := by
  unfold tmrAddr; omega

/-- The registers of single timers lie above EN and FLAGS. -/
theorem lt_tmrAddr {a : Nat} (h : a < 0x40010040) (n o : Nat) : a ≠ tmrAddr n o :=
  Nat.ne_of_lt (Nat.lt_of_lt_of_le h (Nat.le_trans (Nat.le_add_right _ (0x20 * n)) (Nat.le_add_right _ o)))

theorem tmrAddr_live (n : Nat) : tmrAddr n 0x18 = 0x40010058 + 0x20 * n := Nat.add_right_comm _ _ _
theorem tmrAddr_count (n : Nat) : tmrAddr n 0x10 = 0x40010050 + 0x20 * n := Nat.add_right_comm _ _ _
theorem tmrAddr_latch (n : Nat) : tmrAddr n 0x14 = 0x40010054 + 0x20 * n := Nat.add_right_comm _ _ _

theorem reg_setRegN_ne {a b : Nat} (v : Nat) (s : State) (h : b ≠ a) : reg (setRegN a v s) b = reg s b :=
  reg_setReg_ne _ s h

/-! Start of a timer (R325). -/

/-- RELOAD_P and CMP_P of timer `n` as its live register takes them. -/
def tmrPreload (s : State) (n : Nat) : Word :=
  w32 (rfld s (tmrAddr n 0x08) 0 16 + rfld s (tmrAddr n 0x0C) 0 16 * 2 ^ 16)

theorem tmrPreload_congr {s t : State} {n : Nat} (h1 : reg t (tmrAddr n 0x08) = reg s (tmrAddr n 0x08))
    (h2 : reg t (tmrAddr n 0x0C) = reg s (tmrAddr n 0x0C)) : tmrPreload t n = tmrPreload s n := by
  rw [tmrPreload, rfld, rfld, h1, h2, tmrPreload, rfld, rfld]

/-- A live register that holds the preloads shows them as RELOAD and CMP. -/
theorem liveLoaded_of_preload {s t : State} {n : Nat} (h : reg t (tmrAddr n 0x18) = tmrPreload s n) : Spec.liveLoaded s t n := by
  have hp : rfld s (tmrAddr n 0x08) 0 16 < 2 ^ 16 := wfld_lt _ _ _
  have hc : rfld s (tmrAddr n 0x0C) 0 16 < 2 ^ 16 := wfld_lt _ _ _
  have hw : ∀ lo, rfld t (tmrAddr n 0x18) lo 16 =
      fld (rfld s (tmrAddr n 0x08) 0 16 + rfld s (tmrAddr n 0x0C) 0 16 * 2 ^ 16) lo 16 := by
    intro lo
    rw [rfld, h, tmrPreload, wfld_w32 _ _ (by omega)]
  refine ⟨(hw 0).trans ?_, ?_⟩
  · show _ = rfld s (tmrAddr n 0x08) 0 16
    unfold fld; omega
  · rw [← tmrAddr_live, hw 16]
    show _ = rfld s (tmrAddr n 0x0C) 0 16
    unfold fld; omega

/-- A start stores the preloads in the live register and clears the prescaler. -/
theorem tmrStart_eq (n : Nat) (s : State) :
    tmrStart n s = setPrescaler n 0 (setReg (tmrAddr n 0x18) (tmrPreload s n) s) := rfl

@[simp] theorem setPrescaler_regs (n k : Nat) (s : State) : (setPrescaler n k s).regs = s.regs := rfl
@[simp] theorem setPrescaler_tmr (n k : Nat) (s : State) : (setPrescaler n k s).tmr = tset {} s.tmr n { pre := k } := rfl
@[simp] theorem setPrescaler_mem (n k : Nat) (s : State) : (setPrescaler n k s).mem = s.mem := rfl
@[simp] theorem setPrescaler_core (n k : Nat) (s : State) : (setPrescaler n k s).core = s.core := rfl
@[simp] theorem setPrescaler_doors (n k : Nat) (s : State) : (setPrescaler n k s).doors = s.doors := rfl
@[simp] theorem reg_setPrescaler (n k : Nat) (s : State) (a : Nat) : reg (setPrescaler n k s) a = reg s a := rfl

theorem reg_tmrStart_ne {n b : Nat} (s : State) (h : b ≠ tmrAddr n 0x18) : reg (tmrStart n s) b = reg s b := by
  rw [tmrStart_eq, reg_setPrescaler, reg_setReg_ne _ s h]

theorem listedOnce_tmrStart_ne {n b : Nat} {s : State} (h : b ≠ tmrAddr n 0x18) (hb : ListedOnce s.regs b) :
    ListedOnce (tmrStart n s).regs b := by
  rw [tmrStart_eq, setPrescaler_regs]
  exact listedOnce_setReg_ne _ h hb

theorem tmr_tmrStart (n : Nat) (s : State) : (tmrStart n s).tmr = tset {} s.tmr n {} := by
  rw [tmrStart_eq, setPrescaler_tmr, setReg_tmr]

/-- The timers of a list that `p` names start, in the list's order. -/
def tmrStarts (p : Nat → Bool) (l : List Nat) (s : State) : State := l.foldl (fun x n => if p n then tmrStart n x else x) s

theorem tmrSetEn_eq (v : Nat) (s : State) : tmrSetEn v s =
    setRegN 0x40010004 (v % 256) (tmrStarts (fun n => bitAt v n && !tmrEn s n) (List.range 8) s) := rfl

theorem tmrStarts_cons (p : Nat → Bool) (n : Nat) (l : List Nat) (s : State) :
    tmrStarts p (n :: l) s = tmrStarts p l (if p n then tmrStart n s else s) := rfl

theorem tmrStarts_none {p : Nat → Bool} {l : List Nat} {s : State} (h : ∀ n ∈ l, p n = false) : tmrStarts p l s = s :=
  foldl_of_fixed fun n hn => if_neg (by rw [h n hn]; exact Bool.false_ne_true)

/-- The starts of timers leave memory, the core and the doors alone. -/
theorem tmrStarts_other (p : Nat → Bool) (l : List Nat) (s : State) : (tmrStarts p l s).mem = s.mem ∧
    (tmrStarts p l s).core = s.core ∧ (tmrStarts p l s).doors = s.doors := by
  induction l generalizing s with
  | nil => exact ⟨rfl, rfl, rfl⟩
  | cons n l ih =>
    obtain ⟨hm, hc, hd⟩ := ih (if p n then tmrStart n s else s)
    rw [tmrStarts_cons, hm, hc, hd]
    split
    · rw [tmrStart_eq, setPrescaler_mem, setPrescaler_core, setPrescaler_doors, setReg_mem, setReg_core, setReg_doors]
      exact ⟨rfl, rfl, rfl⟩
    · exact ⟨rfl, rfl, rfl⟩

/-- The live registers of the timers that start are all that changes among the registers. -/
theorem reg_tmrStarts_ne {p : Nat → Bool} {l : List Nat} {s : State} {b : Nat}
    (h : ∀ n ∈ l, p n = true → b ≠ tmrAddr n 0x18) : reg (tmrStarts p l s) b = reg s b := by
  induction l generalizing s with
  | nil => rfl
  | cons n l ih =>
    rw [tmrStarts_cons, ih fun m hm => h m (List.mem_cons_of_mem n hm)]
    split
    · next hp => exact reg_tmrStart_ne s (h n List.mem_cons_self hp)
    · rfl

/-- A timer that starts has its preloads live. -/
theorem reg_tmrStarts_live {p : Nat → Bool} {l : List Nat} {s : State} {n : Nat} (hl : l.Nodup) (hn : n ∈ l) (hp : p n = true)
    (h : ListedOnce s.regs (tmrAddr n 0x18)) : reg (tmrStarts p l s) (tmrAddr n 0x18) = tmrPreload s n := by
  induction l generalizing s with
  | nil => exact absurd hn List.not_mem_nil
  | cons m l ih =>
    obtain ⟨hm, hr⟩ := List.nodup_cons.1 hl
    rw [tmrStarts_cons]
    by_cases e : m = n
    · subst e
      rw [if_pos hp, reg_tmrStarts_ne fun j hj _ => tmrAddr_ne_of_timer _ (ne_of_mem_of_not_mem hj hm).symm]
      rw [tmrStart_eq, reg_setPrescaler, reg_setReg_of_listedOnce _ h]
    · have hin := (List.mem_cons.1 hn).resolve_left (Ne.symm e)
      split
      · rw [ih hr hin (listedOnce_tmrStart_ne (tmrAddr_ne_of_timer _ (Ne.symm e)) h)]
        exact tmrPreload_congr (reg_tmrStart_ne s (tmrAddr_ne_of_offset _ _ (by decide) (by decide) (by decide)))
          (reg_tmrStart_ne s (tmrAddr_ne_of_offset _ _ (by decide) (by decide) (by decide)))
      · exact ih hr hin h

theorem tmr_tmrStarts_ne {p : Nat → Bool} {l : List Nat} {s : State} {n : Nat} (h : n ∉ l ∨ p n = false) :
    tget {} (tmrStarts p l s).tmr n = tget {} s.tmr n := by
  induction l generalizing s with
  | nil => rfl
  | cons m l ih =>
    rw [tmrStarts_cons, ih (h.imp_left fun h hn => h (List.mem_cons_of_mem m hn))]
    split
    · next hp =>
      rw [tmr_tmrStart]
      refine tget_tset_ne _ _ _ ?_
      rintro rfl
      rcases h with h | h
      · exact h List.mem_cons_self
      · rw [h] at hp; exact Bool.false_ne_true hp
    · rfl

/-- A timer that starts has its prescaler at 0. -/
theorem tmr_tmrStarts {p : Nat → Bool} {l : List Nat} {s : State} {n : Nat} (hl : l.Nodup) (hn : n ∈ l) (hp : p n = true)
    (h : ListedOnce s.tmr n) : tget {} (tmrStarts p l s).tmr n = {} := by
  induction l generalizing s with
  | nil => exact absurd hn List.not_mem_nil
  | cons m l ih =>
    obtain ⟨hm, hr⟩ := List.nodup_cons.1 hl
    rw [tmrStarts_cons]
    by_cases e : m = n
    · subst e
      rw [if_pos hp, tmr_tmrStarts_ne (.inl hm)]
      rw [tmr_tmrStart, tget_tset_of_listedOnce {} {} h]
    · have hin := (List.mem_cons.1 hn).resolve_left (Ne.symm e)
      split
      · exact ih hr hin (tmr_tmrStart m s ▸ listedOnce_tset_ne {} {} (Ne.symm e) h)
      · exact ih hr hin h

theorem rbit_setRegN_en {v n : Nat} {s : State} (h : ListedOnce s.regs 0x40010004) (hn : n < 8) :
    rbit (setRegN 0x40010004 (v % 256) s) 0x40010004 n = bitAt v n := by
  rw [rbit, setRegN, reg_setReg_of_listedOnce _ h, wbit_w32 _ (by omega), bitAt_mod_256 v hn]

theorem listedOnce_tmrStarts {p : Nat → Bool} {l : List Nat} {s : State} {b : Nat} (hb : ∀ n, b ≠ tmrAddr n 0x18)
    (h : ListedOnce s.regs b) : ListedOnce (tmrStarts p l s).regs b := by
  induction l generalizing s with
  | nil => exact h
  | cons m l ih =>
    rw [tmrStarts_cons]
    split
    · exact ih (listedOnce_tmrStart_ne (hb m) h)
    · exact ih h

/-- A new value of EN enables the timers it names, and starts those that were not enabled (R325). -/
theorem enabled_tmrSetEn {s : State} (hr : (s.regs.map (·.1)).Nodup) (ht : (s.tmr.map (·.1)).Nodup) (v : Nat)
    {on : Nat → Bool} (hon : ∀ n, n < 8 → on n = bitAt v n) : Spec.Enabled s (tmrSetEn v s) on := by
  have hlive : ∀ n, 0x40010004 ≠ tmrAddr n 0x18 := fun n => lt_tmrAddr (by decide) n _
  have hstart : ∀ n, n < 8 → (bitAt v n && !tmrEn s n) = (on n && !rbit s 0x40010004 n) := fun n hn => by rw [hon n hn]; rfl
  rw [tmrSetEn_eq]
  refine ⟨fun n hn => ⟨?_, fun h1 h2 => ?_, fun h => ?_⟩, fun a ha h => ?_, ?_⟩
  · rw [rbit_setRegN_en (listedOnce_tmrStarts hlive (listedOnce_of_nodup hr _)) hn, hon n hn]
  · have hp : (bitAt v n && !tmrEn s n) = true := by rw [hstart n hn, h1, h2]; rfl
    refine ⟨liveLoaded_of_preload ?_, ?_⟩
    · rw [reg_setRegN_ne _ _ (hlive n).symm]
      exact reg_tmrStarts_live (p := fun n => bitAt v n && !tmrEn s n) List.nodup_range (List.mem_range.2 hn) hp
        (listedOnce_of_nodup hr _)
    · exact congrArg Tmr.pre (tmr_tmrStarts (p := fun n => bitAt v n && !tmrEn s n) List.nodup_range (List.mem_range.2 hn) hp
        (listedOnce_of_nodup ht _))
  · have hp : (bitAt v n && !tmrEn s n) = false := by
      rw [hstart n hn]
      rcases h with h | h
      · rw [h, Bool.false_and]
      · rw [h, Bool.not_true, Bool.and_false]
    refine ⟨?_, tmr_tmrStarts_ne (p := fun n => bitAt v n && !tmrEn s n) (.inr hp)⟩
    rw [← tmrAddr_live, reg_setRegN_ne _ _ (hlive n).symm]
    refine reg_tmrStarts_ne fun m _ hm => tmrAddr_ne_of_timer _ ?_
    rintro rfl
    rw [hp] at hm
    exact Bool.false_ne_true hm
  · rw [reg_setRegN_ne _ _ ha]
    exact reg_tmrStarts_ne fun n hn _ => tmrAddr_live n ▸ h n (List.mem_range.1 hn)
  · rw [setRegN_mem, setRegN_core, setRegN_doors]
    exact tmrStarts_other _ _ s

end Sys2Proof.Machine
end

section
/-! One count of a timer (R326), one event for a timer that alone is enabled (R324), and the latches of a chain (R327). -/

namespace Sys2Proof.Machine

theorem timerReg_eq (s : State) (n o : Nat) : Spec.timerReg s n o = rfld s (tmrAddr n o) 0 16 := rfl

theorem raise_regs (n : Nat) (s : State) : (raise n s).regs = s.regs := by rw [raise_frame]

theorem raise_other (n : Nat) (s : State) :
    (raise n s).mem = s.mem ∧ (raise n s).core = s.core ∧ (raise n s).tmr = s.tmr := by
  rw [raise_frame]
  exact ⟨rfl, rfl, rfl⟩

theorem reg_putBit_ne {a b i : Nat} {v : Bool} (s : State) (h : b ≠ a) : reg (putBit a i v s) b = reg s b := reg_setReg_ne _ s h

/-- A flag of TMR.FLAGS, which resets to 0, that is set reads back from every table. -/
theorem rbit_putBit_flags {i j : Nat} (s : State) (hi : i < 16) :
    rbit (putBit 0x40010000 i true s) 0x40010000 j = if j = i then true else rbit s 0x40010000 j := by
  have hv : wsetBit (reg s 0x40010000) i true ≠ w32 (regSpec 0x40010000).reset := by
    intro e
    have h1 : wbit (wsetBit (reg s 0x40010000) i true) i = true := by rw [wbit_wsetBit (by omega), if_pos rfl]
    rw [e] at h1
    exact Bool.false_ne_true ((BitVec.getLsbD_zero (w := 32) (i := i)).symm.trans h1)
  rw [rbit, putBit, reg_setReg_of_ne_reset s hv, wbit_wsetBit (by omega), rbit]

/-! MATCH. -/

/-- COUNT of timer `n` is equal to its live CMP, which does not lie above its live RELOAD. -/
def tmrMeets (n : Nat) (s : State) : Bool :=
  tmrCountOf s n == rfld s (tmrAddr n 0x18) 16 16 && decide (rfld s (tmrAddr n 0x18) 16 16 ≤ rfld s (tmrAddr n 0x18) 0 16)

theorem tmrMeets_iff {n : Nat} {s : State} : tmrMeets n s = true ↔ tmrCountOf s n = rfld s (tmrAddr n 0x18) 16 16 ∧
    rfld s (tmrAddr n 0x18) 16 16 ≤ rfld s (tmrAddr n 0x18) 0 16 := by
  rw [tmrMeets, Bool.and_eq_true, beq_iff_eq, decide_eq_true_iff]

theorem tmrMatch_of_meets {n : Nat} {s : State} (h : tmrMeets n s = true) :
    tmrMatch n s = raise (17 + 2 * n) (putBit 0x40010000 (2 * n + 1) true s) := if_pos (tmrMeets_iff.1 h)

theorem tmrMatch_of_not_meets {n : Nat} {s : State} (h : ¬ tmrMeets n s = true) : tmrMatch n s = s :=
  if_neg fun hm => h (tmrMeets_iff.2 hm)

/-- Meeting CMP changes FLAGS alone among the registers. -/
theorem reg_tmrMatch_ne {n a : Nat} {s : State} (h : a ≠ 0x40010000) : reg (tmrMatch n s) a = reg s a := by
  by_cases hm : tmrMeets n s = true
  · rw [tmrMatch_of_meets hm, reg_raise, reg_putBit_ne s h]
  · rw [tmrMatch_of_not_meets hm]

theorem rbit_tmrMatch_flags {n j : Nat} {s : State} (hn : n < 8) (hj : j ≠ 2 * n + 1) :
    rbit (tmrMatch n s) 0x40010000 j = rbit s 0x40010000 j := by
  by_cases hm : tmrMeets n s = true
  · rw [tmrMatch_of_meets hm, rbit, reg_raise, ← rbit, rbit_putBit_flags s (by omega), if_neg hj]
  · rw [tmrMatch_of_not_meets hm]

/-- The MATCH flag is set where the count meets CMP. -/
theorem rbit_tmrMatch_match {n : Nat} {s : State} (hn : n < 8) :
    rbit (tmrMatch n s) 0x40010000 (2 * n + 1) = (rbit s 0x40010000 (2 * n + 1) || tmrMeets n s) := by
  by_cases hm : tmrMeets n s = true
  · rw [tmrMatch_of_meets hm, rbit, reg_raise, ← rbit, rbit_putBit_flags s (by omega), if_pos rfl, hm, Bool.or_true]
  · rw [tmrMatch_of_not_meets hm, eq_false_of_ne_true hm, Bool.or_false]

theorem tmrMatch_other (n : Nat) (s : State) :
    (tmrMatch n s).mem = s.mem ∧ (tmrMatch n s).core = s.core ∧ (tmrMatch n s).tmr = s.tmr := by
  by_cases hm : tmrMeets n s = true
  · rw [tmrMatch_of_meets hm]
    exact raise_other _ _
  · rw [tmrMatch_of_not_meets hm]
    exact ⟨rfl, rfl, rfl⟩

/-! The wrap. -/

/-- A wrap of timer `n` but for its ONESHOT: preloads live, COUNT 0, WRAP flag and source. -/
def tmrWrapped (n : Nat) (s : State) : State :=
  raise (16 + 2 * n) (putBit 0x40010000 (2 * n) true (setRegN (tmrAddr n 0x10) 0 (setReg (tmrAddr n 0x18) (tmrPreload s n) s)))

theorem reg_tmrWrapped_ne {n a : Nat} {s : State} (h1 : a ≠ 0x40010000) (h2 : a ≠ tmrAddr n 0x10) (h3 : a ≠ tmrAddr n 0x18) :
    reg (tmrWrapped n s) a = reg s a := by
  rw [tmrWrapped, reg_raise, reg_putBit_ne _ h1, reg_setRegN_ne _ _ h2, reg_setReg_ne _ s h3]

/-- The registers of a timer lie apart from FLAGS and EN. -/
theorem tmrAddr_ne_flags (n o : Nat) : tmrAddr n o ≠ 0x40010000 := (lt_tmrAddr (by decide) n o).symm
theorem tmrAddr_ne_en (n o : Nat) : tmrAddr n o ≠ 0x40010004 := (lt_tmrAddr (by decide) n o).symm
theorem tmrAddr_live_ne_count (n : Nat) : tmrAddr n 0x18 ≠ tmrAddr n 0x10 :=
  tmrAddr_ne_of_offset n n (by decide) (by decide) (by decide)

theorem reg_tmrWrapped_live {n : Nat} {s : State} (h : ListedOnce s.regs (tmrAddr n 0x18)) :
    reg (tmrWrapped n s) (tmrAddr n 0x18) = tmrPreload s n := by
  rw [tmrWrapped, reg_raise, reg_putBit_ne _ (tmrAddr_ne_flags n _), reg_setRegN_ne _ _ (tmrAddr_live_ne_count n),
    reg_setReg_of_listedOnce _ h]

theorem reg_tmrWrapped_count {n : Nat} {s : State} (h : ListedOnce s.regs (tmrAddr n 0x10)) :
    reg (tmrWrapped n s) (tmrAddr n 0x10) = 0#32 := by
  rw [tmrWrapped, reg_raise, reg_putBit_ne _ (tmrAddr_ne_flags n _), setRegN,
    reg_setReg_of_listedOnce _ (listedOnce_setReg_ne _ (tmrAddr_live_ne_count n).symm h)]
  rfl

theorem rbit_tmrWrapped_flags {n j : Nat} {s : State} (hn : n < 8) :
    rbit (tmrWrapped n s) 0x40010000 j = if j = 2 * n then true else rbit s 0x40010000 j := by
  rw [tmrWrapped, rbit, reg_raise, ← rbit, rbit_putBit_flags _ (by omega), rbit,
    reg_setRegN_ne _ _ (tmrAddr_ne_flags n _).symm, reg_setReg_ne _ s (tmrAddr_ne_flags n _).symm, rbit]

theorem tmrWrapped_regs (n : Nat) (s : State) : (tmrWrapped n s).regs =
    (setReg 0x40010000 (wsetBit (reg s 0x40010000) (2 * n) true)
      (setReg (tmrAddr n 0x10) (w32 0) (setReg (tmrAddr n 0x18) (tmrPreload s n) s))).regs := by
  rw [tmrWrapped, raise_regs, putBit, reg_setRegN_ne _ _ (tmrAddr_ne_flags n _).symm, reg_setReg_ne _ s (tmrAddr_ne_flags n _).symm, setRegN]

theorem listedOnce_tmrWrapped_en {n : Nat} {s : State} (h : ListedOnce s.regs 0x40010004) :
    ListedOnce (tmrWrapped n s).regs 0x40010004 := by
  rw [tmrWrapped_regs]
  exact listedOnce_setReg_ne _ (by decide) (listedOnce_setReg_ne _ (tmrAddr_ne_en n _).symm
    (listedOnce_setReg_ne _ (tmrAddr_ne_en n _).symm h))

theorem tmrWrapped_other (n : Nat) (s : State) :
    (tmrWrapped n s).mem = s.mem ∧ (tmrWrapped n s).core = s.core ∧ (tmrWrapped n s).tmr = s.tmr := by
  obtain ⟨hm, hc, ht⟩ := raise_other (16 + 2 * n)
    (putBit 0x40010000 (2 * n) true (setRegN (tmrAddr n 0x10) 0 (setReg (tmrAddr n 0x18) (tmrPreload s n) s)))
  rw [tmrWrapped, hm, hc, ht, putBit_mem, putBit_core, putBit_tmr, setRegN_mem, setRegN_core, setRegN_tmr, setReg_mem,
    setReg_core, setReg_tmr]
  exact ⟨rfl, rfl, rfl⟩

/-- A wrap with ONESHOT stops the timer. -/
theorem tmrWrap_eq (n : Nat) (s : State) : tmrWrap n s =
    if rbit s (tmrAddr n 0x00) 3 then putBit 0x40010004 n false (tmrWrapped n s) else tmrWrapped n s := by
  have hc : rbit (tmrWrapped n s) (tmrAddr n 0x00) 3 = rbit s (tmrAddr n 0x00) 3 := by
    rw [rbit, reg_tmrWrapped_ne (tmrAddr_ne_flags n _) (tmrAddr_ne_of_offset n n (by decide) (by decide) (by decide))
      (tmrAddr_ne_of_offset n n (by decide) (by decide) (by decide)), rbit]
  rw [← hc]
  rfl

theorem reg_tmrWrap_ne_en {n a : Nat} {s : State} (h : a ≠ 0x40010004) : reg (tmrWrap n s) a = reg (tmrWrapped n s) a := by
  rw [tmrWrap_eq]
  split
  · exact reg_putBit_ne _ h
  · rfl

theorem rbit_tmrWrap_en {n j : Nat} {s : State} (hn : n < 8) (h : ListedOnce s.regs 0x40010004) :
    rbit (tmrWrap n s) 0x40010004 j = (rbit s 0x40010004 j && !(j == n && rbit s (tmrAddr n 0x00) 3)) := by
  have hw : reg (tmrWrapped n s) 0x40010004 = reg s 0x40010004 :=
    reg_tmrWrapped_ne (by decide) (tmrAddr_ne_en n _).symm (tmrAddr_ne_en n _).symm
  rw [tmrWrap_eq]
  by_cases hc : rbit s (tmrAddr n 0x00) 3 = true
  · rw [if_pos hc, rbit, putBit, reg_setReg_of_listedOnce _ (listedOnce_tmrWrapped_en h), wbit_wsetBit (by omega), hw, hc]
    by_cases hj : j = n
    · rw [if_pos hj, hj, beq_self_eq_true, Bool.and_self, Bool.not_true, Bool.and_false]
    · rw [if_neg hj, beq_false_of_ne hj, Bool.false_and, Bool.not_false, Bool.and_true, rbit]
  · rw [if_neg hc, rbit, hw, eq_false_of_ne_true hc, Bool.and_false, Bool.not_false, Bool.and_true, rbit]

theorem tmrWrap_other (n : Nat) (s : State) :
    (tmrWrap n s).mem = s.mem ∧ (tmrWrap n s).core = s.core ∧ (tmrWrap n s).tmr = s.tmr := by
  rw [tmrWrap_eq]
  split
  · rw [putBit_mem, putBit_core, putBit_tmr]
    exact tmrWrapped_other n s
  · exact tmrWrapped_other n s

/-! One count. -/

/-- One count of timer `n`, its cascade left out. -/
def tmrCounted (n : Nat) (s : State) : State :=
  if tmrCountOf s n = rfld s (tmrAddr n 0x18) 0 16 then tmrMatch n (tmrWrap n s)
  else tmrMatch n (setRegN (tmrAddr n 0x10) ((tmrCountOf s n + 1) % 2 ^ 16) s)

/-- Below RELOAD a count does not reach the timer above. -/
theorem tmrCount_below {fuel n : Nat} {s : State} (h : tmrCountOf s n ≠ rfld s (tmrAddr n 0x18) 0 16) :
    tmrCount (fuel + 1) n s = tmrMatch n (setRegN (tmrAddr n 0x10) ((tmrCountOf s n + 1) % 2 ^ 16) s) := if_neg h

/-- A count leaves the enables of the other timers. -/
theorem tmrEn_tmrCounted {n j : Nat} {s : State} (hn : n < 8) (h : ListedOnce s.regs 0x40010004) (hj : j ≠ n) :
    tmrEn (tmrCounted n s) j = tmrEn s j := by
  show rbit _ 0x40010004 j = rbit s 0x40010004 j
  unfold tmrCounted
  split
  · rw [rbit, reg_tmrMatch_ne (by decide), ← rbit, rbit_tmrWrap_en hn h, beq_false_of_ne hj, Bool.false_and, Bool.not_false,
      Bool.and_true]
  · rw [rbit, reg_tmrMatch_ne (by decide), reg_setRegN_ne _ s (tmrAddr_ne_en n _).symm, rbit]

/-- Where the timer above is not enabled, a wrap has no cascade. -/
theorem tmrCount_alone {fuel n : Nat} {s : State} (hn : n < 8) (h : ListedOnce s.regs 0x40010004)
    (ha : n < 7 → tmrEn s (n + 1) = false) : tmrCount (fuel + 1) n s = tmrCounted n s := by
  unfold tmrCount tmrCounted
  split
  · next hc =>
    have he : tmrEn (tmrMatch n (tmrWrap n s)) (n + 1) = tmrEn s (n + 1) := by
      rw [← tmrEn_tmrCounted hn h (Nat.succ_ne_self n), tmrCounted, if_pos hc]
    refine if_neg fun ⟨h7, _, h2⟩ => ?_
    rw [he, ha h7] at h2
    exact Bool.false_ne_true h2
  · rfl

theorem tmrCounted_below {n : Nat} {s : State} (h : tmrCountOf s n ≠ rfld s (tmrAddr n 0x18) 0 16) :
    tmrCounted n s = tmrMatch n (setRegN (tmrAddr n 0x10) ((tmrCountOf s n + 1) % 2 ^ 16) s) := if_neg h

theorem tmrCounted_at_reload {n : Nat} {s : State} (h : tmrCountOf s n = rfld s (tmrAddr n 0x18) 0 16) :
    tmrCounted n s = tmrMatch n (tmrWrap n s) := if_pos h

theorem tmrCounted_other (n : Nat) (s : State) :
    (tmrCounted n s).mem = s.mem ∧ (tmrCounted n s).core = s.core ∧ (tmrCounted n s).tmr = s.tmr := by
  by_cases h : tmrCountOf s n = rfld s (tmrAddr n 0x18) 0 16
  · obtain ⟨h1, h2, h3⟩ := tmrMatch_other n (tmrWrap n s)
    rw [tmrCounted_at_reload h, h1, h2, h3]
    exact tmrWrap_other n s
  · obtain ⟨h1, h2, h3⟩ := tmrMatch_other n (setRegN (tmrAddr n 0x10) ((tmrCountOf s n + 1) % 2 ^ 16) s)
    rw [tmrCounted_below h, h1, h2, h3, setRegN_mem, setRegN_core, setRegN_tmr]
    exact ⟨rfl, rfl, rfl⟩

/-- A timer that takes a number below 2^16 as its COUNT shows it. -/
theorem tmrCountOf_setRegN {n c : Nat} {s : State} (h : ListedOnce s.regs (tmrAddr n 0x10)) (hc : c < 2 ^ 16) :
    tmrCountOf (setRegN (tmrAddr n 0x10) c s) n = c := by
  rw [tmrCountOf, rfld, setRegN, reg_setReg_of_listedOnce _ h, wfld_w32 _ _ (by omega), fld]
  omega

/-- A count does as R326 says of a timer that alone is enabled. -/
theorem counted_tmrCounted {n : Nat} {s : State} (hn : n < 8) (hr : (s.regs.map (·.1)).Nodup) :
    Spec.Counted s (tmrCounted n s) n := by
  have once := listedOnce_of_nodup hr
  obtain ⟨hmem, hcore, _⟩ := tmrCounted_other n s
  refine ⟨fun h => ?_, fun h => ?_, hmem, hcore⟩
  · rw [tmrCounted_below h]
    obtain ⟨x, hx⟩ : ∃ x, x = setRegN (tmrAddr n 0x10) ((tmrCountOf s n + 1) % 2 ^ 16) s := ⟨_, rfl⟩
    rw [← hx]
    have hlive : reg x (tmrAddr n 0x18) = reg s (tmrAddr n 0x18) := hx ▸ reg_setRegN_ne _ s (tmrAddr_live_ne_count n)
    have hflags : reg x 0x40010000 = reg s 0x40010000 := hx ▸ reg_setRegN_ne _ s (tmrAddr_ne_flags n _).symm
    have ht : Spec.timerReg (tmrMatch n x) n 0x10 = tmrCountOf x n := by
      rw [timerReg_eq, rfld, reg_tmrMatch_ne (tmrAddr_ne_flags n _)]; rfl
    have hcount : tmrCountOf x n = (tmrCountOf s n + 1) % 2 ^ 16 :=
      hx ▸ tmrCountOf_setRegN (once _) (Nat.mod_lt _ (by decide))
    refine ⟨ht.trans hcount, ?_, ?_, ?_, ?_⟩
    · rw [← tmrAddr_live, reg_tmrMatch_ne (tmrAddr_ne_flags n _), hlive]
    · rw [rbit_tmrMatch_flags hn (by omega), rbit, hflags, rbit]
    · rw [rbit_tmrMatch_match hn, ht, rbit, hflags, ← tmrAddr_live, timerReg_eq, tmrMeets, rfld, rfld, hlive]; rfl
    · rw [reg_tmrMatch_ne (by decide), hx, reg_setRegN_ne _ s (tmrAddr_ne_en n _).symm]
  · rw [tmrCounted_at_reload h]
    have hlive : reg (tmrWrap n s) (tmrAddr n 0x18) = tmrPreload s n := by
      rw [reg_tmrWrap_ne_en (tmrAddr_ne_en n _), reg_tmrWrapped_live (once _)]
    have hcount : tmrCountOf (tmrWrap n s) n = 0 := by
      rw [tmrCountOf, rfld, reg_tmrWrap_ne_en (tmrAddr_ne_en n _), reg_tmrWrapped_count (once _)]; rfl
    have hflags : ∀ j, rbit (tmrWrap n s) 0x40010000 j = if j = 2 * n then true else rbit s 0x40010000 j := fun j => by
      rw [rbit, reg_tmrWrap_ne_en (by decide), ← rbit, rbit_tmrWrapped_flags hn]
    have hmeets : tmrMeets n (tmrWrap n s) = (Spec.timerReg s n 0x0C == 0) := by
      obtain ⟨_, hcmp⟩ := liveLoaded_of_preload hlive
      rw [← tmrAddr_live] at hcmp
      rw [Bool.eq_iff_iff, tmrMeets_iff, hcount, hcmp, beq_iff_eq]
      exact ⟨fun h => h.1.symm, fun h => ⟨h.symm, Nat.le_trans (Nat.le_of_eq h) (Nat.zero_le _)⟩⟩
    refine ⟨?_, liveLoaded_of_preload ?_, ?_, ?_, ?_⟩
    · rw [timerReg_eq, rfld, reg_tmrMatch_ne (tmrAddr_ne_flags n _)]; exact hcount
    · rw [reg_tmrMatch_ne (tmrAddr_ne_flags n _), hlive]
    · rw [rbit_tmrMatch_flags hn (by omega), hflags, if_pos rfl]
    · rw [rbit_tmrMatch_match hn, hflags, if_neg (by omega), hmeets]
    · rw [rbit, reg_tmrMatch_ne (by decide), ← rbit, rbit_tmrWrap_en hn (once _), beq_self_eq_true, Bool.true_and]; rfl

end Sys2Proof.Machine
end

section
/-! Timer events and commands, and register commands (R9, R61, R117, R324–R328). -/

namespace Sys2Proof.Machine

/-! An event at one timer (R324). -/

theorem timerSees_eq (s : State) (ev : TimerEvent) (n : Nat) : Spec.timerSees s ev n = tmrSees s ev n := by
  cases ev with
  | tick => rfl
  | edge m up => exact congrArg (fun b => rbit s 0x40010004 n && (m.val == n && rbit s 0x40020050 (8 + n) && b)) (Bool.or_comm _ _)
  | line => rfl

theorem tmrEvent_unseen {s : State} {ev : TimerEvent} {n : Nat} (h : tmrSees s ev n = false) : tmrEvent ev s n = s :=
  if_neg (by rw [h]; exact Bool.false_ne_true)

theorem tmrEvent_disabled {s : State} {ev : TimerEvent} {n : Nat} (h : tmrEn s n = false) : tmrEvent ev s n = s :=
  tmrEvent_unseen ((congrArg (· && _) h).trans (Bool.false_and _))

/-- A tick below PRE steps the prescaler alone. -/
theorem tmrEvent_prescaled {s : State} {n : Nat} (h : tmrSees s .tick n = true)
    (hp : (tget {} s.tmr n).pre < rfld s (tmrAddr n 0x04) 0 16) :
    tmrEvent .tick s n = setPrescaler n ((tget {} s.tmr n).pre + 1) s := (if_pos h).trans (if_pos hp)

theorem tmrEvent_tick {s : State} {n : Nat} (h : tmrSees s .tick n = true)
    (hp : rfld s (tmrAddr n 0x04) 0 16 ≤ (tget {} s.tmr n).pre) :
    tmrEvent .tick s n = tmrCount 8 n (setPrescaler n 0 s) := (if_pos h).trans (if_neg (Nat.not_lt.2 hp))

theorem tmrEvent_not_tick {s : State} {ev : TimerEvent} {n : Nat} (h : tmrSees s ev n = true) (he : ev ≠ .tick) :
    tmrEvent ev s n = tmrCount 8 n s := by
  cases ev with
  | tick => exact absurd rfl he
  | edge m up => exact if_pos h
  | line => exact if_pos h

theorem exec_timerCount {s : State} (ev : TimerEvent) (hh : s.clk.held = false) :
    exec (.timerCount ev) s = .next ((List.range 8).foldl (tmrEvent ev) s) := congrArg Host.Outcome.next (live_run _ hh)

/-- Where no other timer is enabled, before it counts or after, an event is an event at timer `k`. -/
theorem exec_timerCount_alone {s : State} {ev : TimerEvent} {k : Nat} (hh : s.clk.held = false) (hk : k < 8)
    (h1 : ∀ n, n < 8 → n ≠ k → tmrEn s n = false) (h2 : ∀ n, n < 8 → n ≠ k → tmrEn (tmrEvent ev s k) n = tmrEn s n) :
    exec (.timerCount ev) s = .next (tmrEvent ev s k) := by
  rw [exec_timerCount ev hh, foldl_of_only List.nodup_range (List.mem_range.2 hk)]
  · exact fun n hn he => tmrEvent_disabled (h1 n (List.mem_range.1 hn) he)
  · exact fun n hn he => tmrEvent_disabled ((h2 n (List.mem_range.1 hn) he).trans (h1 n (List.mem_range.1 hn) he))

/-! Latches of a chain (R327). -/

/-- The timers of a list latch the counts of `s`. -/
def tmrLatches (s : State) (l : List Nat) (x : State) : State :=
  l.foldl (fun x m => setRegN (tmrAddr m 0x14) (tmrCountOf s m) x) x

theorem tmrLatch_eq (n : Nat) (s : State) : tmrLatch n s = tmrLatches s (tmrChain s 8 n) s := rfl

theorem tmrLatches_cons (s : State) (m : Nat) (l : List Nat) (x : State) :
    tmrLatches s (m :: l) x = tmrLatches s l (setRegN (tmrAddr m 0x14) (tmrCountOf s m) x) := rfl

theorem reg_tmrLatches_ne {s : State} {l : List Nat} {x : State} {a : Nat} (h : ∀ m ∈ l, a ≠ tmrAddr m 0x14) :
    reg (tmrLatches s l x) a = reg x a := by
  induction l generalizing x with
  | nil => rfl
  | cons m l ih =>
    rw [tmrLatches_cons, ih fun j hj => h j (List.mem_cons_of_mem m hj), reg_setRegN_ne _ x (h m List.mem_cons_self)]

theorem reg_tmrLatches {s : State} {l : List Nat} {x : State} {m : Nat} (hl : l.Nodup) (hm : m ∈ l)
    (h : ListedOnce x.regs (tmrAddr m 0x14)) : reg (tmrLatches s l x) (tmrAddr m 0x14) = w32 (tmrCountOf s m) := by
  induction l generalizing x with
  | nil => exact absurd hm List.not_mem_nil
  | cons j l ih =>
    obtain ⟨hj, hr⟩ := List.nodup_cons.1 hl
    rw [tmrLatches_cons]
    by_cases e : j = m
    · subst e
      rw [reg_tmrLatches_ne fun i hi => tmrAddr_ne_of_timer _ (ne_of_mem_of_not_mem hi hj).symm, setRegN,
        reg_setReg_of_listedOnce _ h]
    · exact ih hr ((List.mem_cons.1 hm).resolve_left (Ne.symm e))
        (listedOnce_setReg_ne _ (tmrAddr_ne_of_timer _ (Ne.symm e)) h)

/-- The chain above timer `n` holds the timers that an unbroken run of SRC 5 joins to it. -/
theorem mem_tmrChain {s : State} {fuel n m : Nat} (h : m ≤ n + fuel) (hm : m < 8) :
    m ∈ tmrChain s fuel n ↔ n < m ∧ ∀ j, n < j → j ≤ m → tmrSrc s j = 5 := by
  induction fuel generalizing n with
  | zero => exact ⟨fun h => absurd h List.not_mem_nil, fun ⟨h1, _⟩ => by omega⟩
  | succ f ih =>
    rw [tmrChain]
    split
    · next hc =>
      rw [List.mem_cons, ih (by omega)]
      constructor
      · rintro (rfl | ⟨h1, h2⟩)
        · exact ⟨by omega, fun j h1 h2 => (show j = n + 1 by omega) ▸ hc.2⟩
        · refine ⟨by omega, fun j h3 h4 => ?_⟩
          by_cases e : j = n + 1
          · exact e ▸ hc.2
          · exact h2 j (by omega) h4
      · rintro ⟨h1, h2⟩
        by_cases e : m = n + 1
        · exact .inl e
        · exact .inr ⟨by omega, fun j h3 h4 => h2 j (by omega) h4⟩
    · next hc => exact ⟨fun h => absurd h List.not_mem_nil, fun ⟨h1, h2⟩ => absurd ⟨by omega, h2 (n + 1) (by omega) h1⟩ hc⟩

theorem tmrChain_bounds {s : State} {fuel n m : Nat} (h : m ∈ tmrChain s fuel n) : n < m ∧ m < 8 := by
  induction fuel generalizing n with
  | zero => exact absurd h List.not_mem_nil
  | succ f ih =>
    rw [tmrChain] at h
    split at h
    · next hc =>
      rcases List.mem_cons.1 h with rfl | h
      · exact ⟨by omega, by omega⟩
      · have := ih h
        omega
    · exact absurd h List.not_mem_nil

theorem tmrChain_nodup (s : State) (fuel n : Nat) : (tmrChain s fuel n).Nodup := by
  induction fuel generalizing n with
  | zero => exact List.nodup_nil
  | succ f ih =>
    rw [tmrChain]
    split
    · exact List.nodup_cons.2 ⟨fun h => Nat.lt_irrefl _ (tmrChain_bounds h).1, ih (n + 1)⟩
    · exact List.nodup_nil

theorem exec_timerCountRead {s : State} (k : Fin 8) (hh : s.clk.held = false) :
    exec (.timerCountRead k) s = .next (tmrLatch k.val (emit (.readData (tmrCountOf s k.val)) s)) :=
  congrArg Host.Outcome.next (live_run _ hh)

/-! The timer commands that write EN. -/

theorem exec_timerEn {s : State} (v : Word) (hh : s.clk.held = false) :
    exec (.timerEn v) s = .next (tmrSetEn (wfld v 0 8) s) := congrArg Host.Outcome.next (live_run _ hh)

/-- EN after a START write of GO bits. -/
def goEn (s : State) (v : Word) : Nat := ((reg s 0x40010004).toNat ||| wfld v 0 8) &&& 255

/-- EN after a START write of STOP bits. -/
def stopEn (s : State) (v : Word) : Nat := (reg s 0x40010004).toNat &&& (255 - wfld v 8 8)

theorem exec_timerGo {s : State} (v : Word) (hh : s.clk.held = false) :
    exec (.timerGo v) s = .next (tmrSetEn (goEn s v) s) := congrArg Host.Outcome.next (live_run _ hh)

theorem exec_timerStop {s : State} (v : Word) (hh : s.clk.held = false) :
    exec (.timerStop v) s = .next (tmrSetEn (stopEn s v) s) := by
  have h : exec (.timerStop v) s = .next (tmrSetEn (((reg s 0x40010004).toNat ||| 0) &&& (255 - wfld v 8 8)) s) :=
    congrArg Host.Outcome.next (live_run _ hh)
  rw [h, Nat.or_zero, stopEn]

theorem bitAt_goEn (s : State) (v : Word) {n : Nat} (h : n < 8) : bitAt (goEn s v) n = (rbit s 0x40010004 n || wbit v n) := by
  have h255 : bitAt 255 n = true := by
    rw [show (255 : Nat) = 255 - 0 from rfl, bitAt_255_sub (by decide) h, bitAt_zero, Bool.not_false]
  rw [goEn, bitAt_and, bitAt_or, bitAt_toNat, bitAt_wfld v 0 h, Nat.zero_add, h255, Bool.and_true, rbit]

theorem bitAt_stopEn (s : State) (v : Word) {n : Nat} (h : n < 8) :
    bitAt (stopEn s v) n = (rbit s 0x40010004 n && !wbit v (n + 8)) := by
  rw [stopEn, bitAt_and, bitAt_toNat, bitAt_255_sub (wfld_lt v 8 8) h, bitAt_wfld v 8 h, Nat.add_comm, rbit]

/-- A value of EN that names no timer that is not enabled starts none. -/
theorem tmrSetEn_of_no_start {s : State} {v : Nat} (h : ∀ n, n < 8 → bitAt v n = true → rbit s 0x40010004 n = true) :
    tmrSetEn v s = setRegN 0x40010004 (v % 256) s := by
  rw [tmrSetEn_eq, tmrStarts_none]
  intro n hn
  show (bitAt v n && !rbit s 0x40010004 n) = false
  cases hb : bitAt v n
  · rfl
  · rw [h n (List.mem_range.1 hn) hb]; rfl

/-! Register commands. -/

theorem inRange_iff {a lo hi : Nat} : inRange a lo hi = true ↔ lo ≤ a ∧ a ≤ hi := by
  rw [inRange, Bool.and_eq_true, decide_eq_true_iff, decide_eq_true_iff]

theorem inRange_of_lt {a lo hi : Nat} (h : a < lo) : ¬ inRange a lo hi = true := fun e => by
  have := inRange_iff.1 e; omega

theorem inRange_of_gt {a lo hi : Nat} (h : hi < a) : ¬ inRange a lo hi = true := fun e => by
  have := inRange_iff.1 e; omega

theorem regionOf_block {a : Nat} (h1 : 0x40000000 ≤ a) (h2 : a ≤ 0x400FFFFF) : regionOf a = .block := by
  rw [regionOf, if_neg (by omega), if_neg (inRange_of_gt (by omega)), if_neg (inRange_of_gt (by omega)),
    if_neg (inRange_of_gt (by omega)), if_pos (inRange_iff.2 ⟨h1, h2⟩)]

theorem regionOf_window {a : Nat} (h1 : 0x80000000 ≤ a) (h2 : a ≤ 0x801FFFFF) : regionOf a = .window := by
  rw [regionOf, if_neg (by omega), if_neg (inRange_of_gt (by omega)), if_neg (inRange_of_gt (by omega)),
    if_neg (inRange_of_gt (by omega)), if_neg (inRange_of_gt (by omega)), if_neg (inRange_of_gt (by omega)),
    if_neg (inRange_of_gt (by omega)), if_pos (inRange_iff.2 ⟨h1, h2⟩)]

/-- Below the register blocks lie the ROM and memories. -/
theorem regionOf_below_blocks {a : Nat} (h : a < 0x40000000) : regionOf a ≠ .block ∧ regionOf a ≠ .window := by
  rw [regionOf, if_neg (inRange_of_lt h), if_neg (inRange_of_lt (a := a) (lo := 0x60000000) (by omega)),
    if_neg (inRange_of_lt (a := a) (lo := 0x70000000) (by omega)), if_neg (inRange_of_lt (a := a) (lo := 0x80000000) (by omega))]
  repeat' split
  all_goals exact ⟨Region.noConfusion, Region.noConfusion⟩

theorem exec_rcRead {s : State} (who : EvcTarget) (a : Word) (hh : s.clk.held = false) :
    exec (.rcRead who a) s = .next (registerRead who a s) := congrArg Host.Outcome.next (live_run _ hh)

theorem exec_counterLatchRead {s : State} (a : Word) (hh : s.clk.held = false) :
    exec (.counterLatchRead a) s = .next (registerRead .sentinel a s) := congrArg Host.Outcome.next (live_run _ hh)

theorem exec_registerWrite {s : State} (who : EvcTarget) (a v : Word) (hh : s.clk.held = false) :
    exec (.registerWrite who a v) s = done (registerWrite who a v s) := congrArg done (live_run _ hh)

/-- A register command at no multiple of 4 is ignored. -/
theorem registerRead_unaligned {a : Word} (who : EvcTarget) (s : State) (h : a.toNat % 4 ≠ 0) : registerRead who a s = s := if_pos h

theorem registerWrite_unaligned {a : Word} (who : EvcTarget) (v : Word) (s : State) (h : a.toNat % 4 ≠ 0) :
    registerWrite who a v s = s := if_pos h

/-- A read of the sentinel in a register block. -/
theorem registerRead_block {a : Word} (s : State) (h4 : a.toNat % 4 = 0) (h : regionOf a.toNat = .block) :
    registerRead .sentinel a s = regReadEffect a.toNat (emit (.readData (regPeek s a.toNat).toNat) s) := by
  refine (if_neg (by omega)).trans ((if_pos (.inl h)).trans ?_)
  rw [loadEffect, loadVal, h]

/-- A read of the sentinel in the statistics window. -/
theorem registerRead_window {a : Word} (s : State) (h4 : a.toNat % 4 = 0) (h : regionOf a.toNat = .window) :
    registerRead .sentinel a s = statLatch a.toNat (emit (.readData (statPeek s a.toNat).toNat) s) := by
  refine (if_neg (by omega)).trans ((if_pos (.inr h)).trans ?_)
  rw [loadEffect, loadVal, h]

theorem registerRead_elsewhere {a : Word} (s : State) (h1 : regionOf a.toNat ≠ .block) (h2 : regionOf a.toNat ≠ .window) :
    registerRead .sentinel a s = s := by
  by_cases h4 : a.toNat % 4 ≠ 0
  · exact if_pos h4
  · exact (if_neg h4).trans (if_neg (not_or.2 ⟨h1, h2⟩))

theorem registerRead_door0 {a : Word} (s : State) (h4 : a.toNat % 4 = 0) :
    registerRead .door0 a s = doorReadEffect 0 a.toNat (emit (.readData (doorPeek 0 a.toNat s).toNat) s) := if_neg (by omega)

theorem registerRead_door1 {a : Word} (s : State) (h4 : a.toNat % 4 = 0) :
    registerRead .door1 a s = doorReadEffect 1 a.toNat (emit (.readData (doorPeek 1 a.toNat s).toNat) s) := if_neg (by omega)

theorem registerWrite_block {a : Word} (v : Word) (s : State) (h4 : a.toNat % 4 = 0) (h : regionOf a.toNat = .block) :
    registerWrite .sentinel a v s = regWrite a.toNat v s := (if_neg (by omega)).trans (if_pos h)

theorem registerWrite_elsewhere {a : Word} (v : Word) (s : State) (h : regionOf a.toNat ≠ .block) :
    registerWrite .sentinel a v s = s := by
  by_cases h4 : a.toNat % 4 ≠ 0
  · exact if_pos h4
  · exact (if_neg h4).trans (if_neg h)

theorem registerWrite_door0 {a : Word} (v : Word) (s : State) (h4 : a.toNat % 4 = 0) :
    registerWrite .door0 a v s = doorWrite 0 a.toNat v s := if_neg (by omega)

theorem registerWrite_door1 {a : Word} (v : Word) (s : State) (h4 : a.toNat % 4 = 0) :
    registerWrite .door1 a v s = doorWrite 1 a.toNat v s := if_neg (by omega)

/-- The counters of the channels hold no word that stands by itself. -/
theorem statWord_channels {s : State} {a : Nat} (h : 0x80100000 ≤ a) : statWord s a = none := by
  unfold statWord
  extract_lets o
  have ho : 0x100000 ≤ o := by omega
  rw [if_neg (by omega), if_neg (inRange_of_gt (by omega)), if_neg (inRange_of_gt (by omega))]

theorem statCounter_channels {s : State} {a : Nat} (h : 0x80100000 ≤ a) : statCounter s a = cnt s a := by
  unfold statCounter
  extract_lets o
  exact if_neg (by omega)

/-- The low word of a counter. `statPeek` is unfolded as a function, not applied: the kernel would count the offset of an
address that is a variable down from 0x80000000. -/
theorem statPeek_of_counter {s : State} {a : Nat} (h : statWord s a = none) (h8 : a % 8 ≠ 4) :
    statPeek s a = w32 (statCounter s a) := by
  generalize hf : @statPeek = f
  delta statPeek at hf
  subst hf
  dsimp only
  rewrite [h]
  exact if_neg h8

theorem statLatch_channels {s : State} {a : Nat} (h : 0x80100000 ≤ a) (h8 : a % 8 ≠ 4) :
    statLatch a s = { s with latched := tset 0 s.latched a (cnt s a / 2 ^ 32) } := by
  rw [statLatch, statWord_channels h, statCounter_channels h]
  exact if_neg (not_or.2 ⟨Bool.false_ne_true, h8⟩)

/-- A read of the low word of a channel's counter answers it and latches the high word (R117). -/
theorem registerRead_channel_counter {a : Word} (s : State) (h8 : a.toNat % 8 = 0) (h1 : 0x80100000 ≤ a.toNat)
    (h2 : a.toNat ≤ 0x801FFFFF) : registerRead .sentinel a s =
      { s with out := .readData (cnt s a.toNat % 2 ^ 32) :: s.out
               latched := tset 0 s.latched a.toNat (cnt s a.toNat / 2 ^ 32) } := by
  have hlow : a.toNat % 8 ≠ 4 := by omega
  rw [registerRead_window s (by omega) (regionOf_window (by omega) h2), statPeek_of_counter (statWord_channels h1) hlow, statCounter_channels h1, statLatch_channels h1 hlow,
    w32, BitVec.toNat_ofNat]
  rfl

/-- Settles O50: each command's effect is the operation on the timers that `exec_` names; a lone timer counts by
`exec_timerCount_alone`. -/
theorem timersAndRegisters : Obligations.TimersAndRegisters := by
  intro s hh
  refine ⟨?_, ?_, ?_, ?_, ?_, ?_, ?_, ?_, ?_⟩
  · rintro v en y rfl rfl
    rw [exec_timerEn v hh, tmrSetEn_eq]; rfl
  · intro v h
    rw [exec_timerGo v hh, tmrSetEn_of_no_start]
    · rfl
    · intro n hn hb
      rw [bitAt_goEn s v hn, Bool.or_eq_true] at hb
      exact hb.elim id (h n hn)
  · intro v
    rw [exec_timerStop v hh, tmrSetEn_of_no_start]
    · rfl
    · intro n hn hb
      rw [bitAt_stopEn s v hn, Bool.and_eq_true] at hb
      exact hb.1
  · intro ev h
    rw [exec_timerCount ev hh, foldl_of_fixed fun n hn => tmrEvent_disabled (h n (List.mem_range.1 hn))]
  · rintro k c hen hsrc hpx rfl hc
    rw [← tmrAddr_live] at hc
    rw [← tmrAddr_count]
    have hsees : tmrSees s .line k = true := by
      show (rbit s 0x40010004 k && (tmrSrc s k == 4 && pxclkRuns s)) = true
      rw [(hen k k.isLt).2 rfl, hsrc, hpx]; rfl
    have hev := (tmrEvent_not_tick hsees TimerEvent.noConfusion).trans (tmrCount_below (fuel := 7) hc)
    rw [exec_timerCount_alone hh k.isLt, hev]
    · exact fun n hn he => eq_false_of_ne_true fun h => he ((hen n hn).1 h)
    · intro n hn _
      show rbit _ 0x40010004 n = rbit s 0x40010004 n
      rw [hev, rbit, reg_tmrMatch_ne (by decide), reg_setRegN_ne _ s (tmrAddr_ne_en k _).symm, rbit]
  · intro k h
    rw [exec_timerCountRead k hh, ← tmrAddr_count]
    have hc : tmrChain (emit (.readData (tmrCountOf s k)) s) 8 k = [] := if_neg fun ⟨h7, h5⟩ => h.elim (Nat.ne_of_lt h7) fun h => h h5
    rw [tmrLatch_eq, hc]; rfl
  · intro who a v h
    rw [exec_registerWrite who a v hh, registerWrite_unaligned who v s h, exec_rcRead who a hh, registerRead_unaligned who s h,
      exec_counterLatchRead a hh, registerRead_unaligned _ s h]
    exact ⟨rfl, rfl, rfl⟩
  · intro a v h4 h1 h2
    have hb := regionOf_block h1 h2
    rw [exec_rcRead _ a hh, registerRead_block s h4 hb, exec_registerWrite _ a v hh, registerWrite_block v s h4 hb]
    exact ⟨rfl, done_next⟩
  · intro a h8 h1 h2
    rw [exec_counterLatchRead a hh, registerRead_channel_counter s h8 h1 h2]

end Sys2Proof.Machine
end

section
/-! O60: each timer command and register command completes. -/

namespace Sys2Proof.Machine

/-- The latches change registers alone: a read of COUNT shows the count and touches nothing else but them. -/
theorem tmrLatch_other (n : Nat) (s : State) : (tmrLatch n s).out = s.out ∧ (tmrLatch n s).mem = s.mem ∧
    (tmrLatch n s).core = s.core ∧ (tmrLatch n s).tmr = s.tmr := by
  rw [tmrLatch_frame]
  exact ⟨rfl, rfl, rfl, rfl⟩

/-- A timer holds in CNT_L the count of `s` after a latch where the chain above `k` holds it, and what it held otherwise. -/
theorem timerReg_tmrLatch {s : State} {k m : Nat} (hr : (s.regs.map (·.1)).Nodup) (hm : m < 8) :
    (Spec.chainedTo s k m → Spec.timerReg (tmrLatch k s) m 0x14 = Spec.timerReg s m 0x10) ∧
    (¬ Spec.chainedTo s k m → Spec.timerReg (tmrLatch k s) m 0x14 = Spec.timerReg s m 0x14) := by
  have hmem : m ∈ tmrChain s 8 k ↔ Spec.chainedTo s k m := mem_tmrChain (by omega) hm
  rw [tmrLatch_eq]
  constructor
  · intro h
    have hc : tmrCountOf s m < 2 ^ 16 := wfld_lt _ _ _
    rw [timerReg_eq, rfld, reg_tmrLatches (tmrChain_nodup s 8 k) (hmem.2 h) (listedOnce_of_nodup hr _), wfld_w32 _ _ (by omega),
      fld, Nat.pow_zero, Nat.div_one, Nat.mod_eq_of_lt hc]
    rfl
  · intro h
    rw [timerReg_eq, rfld, reg_tmrLatches_ne fun j hj => ?_]
    · rfl
    · refine tmrAddr_ne_of_timer _ ?_
      rintro rfl
      exact h (hmem.1 hj)

theorem timerEnables_complete {s : State} (hh : s.clk.held = false) (hr : (s.regs.map (·.1)).Nodup)
    (ht : (s.tmr.map (·.1)).Nodup) (v : Word) :
    (∃ t : State, exec (.timerEn v) s = .next t ∧ Spec.Enabled s t (fun n => wbit v n)) ∧
    (∃ t : State, exec (.timerGo v) s = .next t ∧ Spec.Enabled s t (fun n => rbit s 0x40010004 n || wbit v n)) ∧
    (∃ t : State, exec (.timerStop v) s = .next t ∧ Spec.Enabled s t (fun n => rbit s 0x40010004 n && !wbit v (n + 8))) :=
  ⟨⟨_, exec_timerEn v hh, enabled_tmrSetEn hr ht _ fun n hn => by rw [bitAt_wfld v 0 hn, Nat.zero_add]⟩,
    ⟨_, exec_timerGo v hh, enabled_tmrSetEn hr ht _ fun _ hn => (bitAt_goEn s v hn).symm⟩,
    ⟨_, exec_timerStop v hh, enabled_tmrSetEn hr ht _ fun _ hn => (bitAt_stopEn s v hn).symm⟩⟩

/-- TIMER_COUNT where timer `k` alone is enabled and the event makes it count from a state that differs from `s` in its
prescaler at most. -/
theorem exec_timerCount_counts {s x : State} {ev : TimerEvent} {k : Nat} (hh : s.clk.held = false) (hk : k < 8)
    (hr : (s.regs.map (·.1)).Nodup) (h1 : ∀ n, n < 8 → n ≠ k → rbit s 0x40010004 n = false)
    (hx : x.regs = s.regs) (he : tmrEvent ev s k = tmrCount 8 k x) :
    exec (.timerCount ev) s = .next (tmrCounted k x) := by
  have hreg : ∀ a, reg x a = reg s a := fun a => by rw [reg, hx, reg]
  have hen : ∀ n, tmrEn x n = tmrEn s n := fun n => congrArg (wbit · n) (hreg 0x40010004)
  have hone : ListedOnce x.regs 0x40010004 := hx ▸ listedOnce_of_nodup hr _
  rw [tmrCount_alone hk hone fun h7 => (hen (k + 1)).trans (h1 (k + 1) (by omega) (by omega))] at he
  rw [← he]
  exact exec_timerCount_alone hh hk h1 fun n _ hn => by rw [he, tmrEn_tmrCounted hk hone hn, hen]

theorem timerCount_completes {s : State} (hh : s.clk.held = false) (hr : (s.regs.map (·.1)).Nodup)
    (ht : (s.tmr.map (·.1)).Nodup) (ev : TimerEvent) (k : Fin 8)
    (h1 : ∀ n : Nat, n < 8 → n ≠ k.val → rbit s 0x40010004 n = false) :
    (Spec.timerSees s ev k = false → exec (.timerCount ev) s = .next s) ∧
    (Spec.timerSees s ev k = true →
      (ev = .tick → (tget {} s.tmr k).pre < Spec.timerReg s k 0x04 →
        exec (.timerCount ev) s = .next { s with tmr := tset {} s.tmr k { pre := (tget {} s.tmr k).pre + 1 } }) ∧
      (ev = .tick → Spec.timerReg s k 0x04 ≤ (tget {} s.tmr k).pre →
        ∃ t : State, exec (.timerCount ev) s = .next t ∧ Spec.Counted s t k ∧ (tget {} t.tmr k).pre = 0) ∧
      (ev ≠ .tick → ∃ t : State, exec (.timerCount ev) s = .next t ∧ Spec.Counted s t k ∧ t.tmr = s.tmr)) := by
  rw [timerSees_eq]
  refine ⟨fun h => ?_, fun h => ⟨?_, ?_, fun he => ?_⟩⟩
  · have hs : tmrEvent ev s k = s := tmrEvent_unseen h
    rw [exec_timerCount_alone hh k.isLt h1 (fun n _ _ => by rw [hs]), hs]
  · rintro rfl hp
    have hs := tmrEvent_prescaled h hp
    rw [exec_timerCount_alone hh k.isLt h1 (fun n _ _ => by rw [hs]; rfl), hs]
    rfl
  · rintro rfl hp
    obtain ⟨_, _, htmr⟩ := tmrCounted_other k (setPrescaler k 0 s)
    refine ⟨_, exec_timerCount_counts hh k.isLt hr h1 (setPrescaler_regs k 0 s) (tmrEvent_tick h hp), ?_, ?_⟩
    · exact counted_tmrCounted (s := setPrescaler k 0 s) k.isLt hr
    · rw [htmr, setPrescaler_tmr, tget_tset_of_listedOnce {} _ (listedOnce_of_nodup ht _)]
  · obtain ⟨_, _, htmr⟩ := tmrCounted_other k s
    exact ⟨_, exec_timerCount_counts hh k.isLt hr h1 rfl (tmrEvent_not_tick h he), counted_tmrCounted k.isLt hr, htmr⟩

theorem timerCountRead_completes {s : State} (hh : s.clk.held = false) (hr : (s.regs.map (·.1)).Nodup) (k : Fin 8) :
    ∃ t : State, exec (.timerCountRead k) s = .next t ∧ t.out = .readData (Spec.timerReg s k 0x10) :: s.out ∧
      (∀ m : Nat, m < 8 →
        (Spec.chainedTo s k m → Spec.timerReg t m 0x14 = Spec.timerReg s m 0x10) ∧
        (¬ Spec.chainedTo s k m → Spec.timerReg t m 0x14 = Spec.timerReg s m 0x14)) ∧
      (∀ a : Nat, (∀ m : Nat, m < 8 → a ≠ 0x40010054 + 0x20 * m) → reg t a = reg s a) ∧
      t.mem = s.mem ∧ t.core = s.core ∧ t.tmr = s.tmr := by
  obtain ⟨ho, hm, hc, ht⟩ := tmrLatch_other k.val (emit (.readData (tmrCountOf s k.val)) s)
  refine ⟨_, exec_timerCountRead k hh, ho, fun m hm => timerReg_tmrLatch (s := emit (.readData (tmrCountOf s k.val)) s) hr hm, fun a ha => ?_, hm, hc, ht⟩
  rw [tmrLatch_eq, reg_tmrLatches_ne fun m hm => ?_]
  · rfl
  · exact tmrAddr_latch m ▸ ha m (tmrChain_bounds hm).2

/-- A register write completes where it leaves no pin as R405 says. -/
theorem exec_registerWrite_next {s t : State} {who : EvcTarget} {a v : Word} (hh : s.clk.held = false)
    (h : registerWrite who a v s = t) (ht : t.undef = false) : exec (.registerWrite who a v) s = .next t := by
  rw [exec_registerWrite who a v hh, h, done_next ht]

/-- Settles O60, command by command. -/
theorem timerAndRegisterCommands : Obligations.TimerAndRegisterCommands := by
  intro s hh hr ht
  refine ⟨timerEnables_complete hh hr ht, timerCount_completes hh hr ht, timerCountRead_completes hh hr, ?_, ?_⟩
  · intro a v h4
    refine ⟨fun h1 h2 => ?_, fun h => ?_, ?_, ?_, ?_, ?_, fun h1 h2 => ?_⟩
    · have hb := regionOf_block h1 h2
      rw [exec_rcRead _ a hh, exec_counterLatchRead a hh, registerRead_block s h4 hb]
      exact ⟨rfl, rfl, exec_registerWrite_next hh (registerWrite_block v s h4 hb)⟩
    · obtain ⟨hb, hw⟩ := regionOf_below_blocks h
      rw [exec_rcRead _ a hh, registerRead_elsewhere s hb hw]
      exact ⟨rfl, exec_registerWrite_next hh (registerWrite_elsewhere v s hb)⟩
    · rw [exec_rcRead _ a hh, registerRead_door0 s h4]
    · rw [exec_rcRead _ a hh, registerRead_door1 s h4]
    · exact exec_registerWrite_next hh (registerWrite_door0 v s h4)
    · exact exec_registerWrite_next hh (registerWrite_door1 v s h4)
    · rw [exec_counterLatchRead a hh, registerRead_window s h4 (regionOf_window h1 h2)]
  · intro who a v h4
    rw [exec_rcRead who a hh, registerRead_unaligned who s h4, exec_counterLatchRead a hh, registerRead_unaligned _ s h4]
    exact ⟨rfl, rfl, exec_registerWrite_next hh (registerWrite_unaligned who v s h4)⟩

end Sys2Proof.Machine
end

section
/-! What a recovery and the fault state discard leaves the fault state and the fault record as they stand, but for the record's
counts of discarded commands and frames (R201, R205, R210, Table 10-5). -/

namespace Sys2Proof.Machine

/-- The fault state with the generation, and of the fault record LAST, LAST_UNIT, FIRST and RECOVERIES. -/
def faultNote (s : State) : FaultSt × Nat × Nat × Nat × Nat :=
  (s.fault, s.faults.last, s.faults.lastUnit, s.faults.first, s.faults.recoveries)

theorem faultNote_congr {s t : State} (h1 : t.fault = s.fault) (h2 : t.faults = s.faults) : faultNote t = faultNote s := by
  rw [faultNote, h1, h2, faultNote]

@[simp] theorem faultNote_ite (c : Prop) [Decidable c] (s t : State) :
    faultNote (if c then s else t) = if c then faultNote s else faultNote t := apply_ite _ _ _ _

@[simp] theorem faultNote_foldl {β : Type} {f : State → β → State} (h : ∀ x b, faultNote (f x b) = faultNote x) (l : List β)
    (s : State) : faultNote (l.foldl f s) = faultNote s := by
  induction l generalizing s with
  | nil => rfl
  | cons b r ih => rw [List.foldl_cons, ih, h]

/-! Updates of other fields. -/

section
variable (s : State)

@[simp] theorem faultNote_withMach (m : Mach) : faultNote { s with mach := m } = faultNote s := faultNote_congr rfl rfl
@[simp] theorem faultNote_withKeys (k : Keys) : faultNote { s with keys := k } = faultNote s := faultNote_congr rfl rfl
@[simp] theorem faultNote_emit (o : Out) : faultNote (emit o s) = faultNote s := faultNote_congr rfl rfl
@[simp] theorem faultNote_freeNext : faultNote (freeNext s) = faultNote s := faultNote_congr rfl rfl
@[simp] theorem faultNote_setReg (a : Nat) (v : Word) : faultNote (setReg a v s) = faultNote s := faultNote_congr rfl rfl
@[simp] theorem faultNote_orReg (a m : Nat) : faultNote (orReg a m s) = faultNote s := faultNote_setReg s _ _
@[simp] theorem faultNote_putBit (a i : Nat) (b : Bool) : faultNote (putBit a i b s) = faultNote s := faultNote_setReg s _ _
@[simp] theorem faultNote_setDoor (d : Nat) (x : Door) : faultNote (setDoor d x s) = faultNote s := faultNote_congr rfl rfl
@[simp] theorem faultNote_modDoor (d : Nat) (f : Door → Door) : faultNote (modDoor d f s) = faultNote s := faultNote_setDoor s _ _
@[simp] theorem faultNote_modCmd (d tag : Nat) (f : Cmd → Cmd) : faultNote (modCmd d tag f s) = faultNote s :=
  faultNote_modDoor s _ _
@[simp] theorem faultNote_removeCmd (d : Nat) (p : Cmd → Bool) : faultNote (removeCmd d p s) = faultNote s :=
  faultNote_modDoor s _ _
@[simp] theorem faultNote_setArea (d : Nat) (a : StockArea) : faultNote (setArea d a s) = faultNote s := faultNote_congr rfl rfl
@[simp] theorem faultNote_setApply (a : Option Apply) : faultNote (setApply a s) = faultNote s := faultNote_congr rfl rfl
@[simp] theorem faultNote_bumpLiveVer : faultNote (bumpLiveVer s) = faultNote s := faultNote_congr rfl rfl
@[simp] theorem faultNote_cntAdd (a n : Nat) : faultNote (cntAdd a n s) = faultNote s := faultNote_congr rfl rfl
@[simp] theorem faultNote_setFrames (l : List Sheet) : faultNote (setFrames l s) = faultNote s := faultNote_congr rfl rfl
@[simp] theorem faultNote_setEgress (e : Nat) (x : Egress) : faultNote (setEgress e x s) = faultNote s := faultNote_congr rfl rfl
@[simp] theorem faultNote_setCal (d : Nat) (c : CalPort) : faultNote (setCal d c s) = faultNote s := faultNote_congr rfl rfl
@[simp] theorem faultNote_modCal (d : Nat) (f : CalPort → CalPort) : faultNote (modCal d f s) = faultNote s := faultNote_setCal s _ _
@[simp] theorem faultNote_setChan (c : Nat) (x : Chan) : faultNote (setChan c x s) = faultNote s := faultNote_congr rfl rfl
@[simp] theorem faultNote_modChan (c : Nat) (f : Chan → Chan) : faultNote (modChan c f s) = faultNote s := faultNote_setChan s _ _
@[simp] theorem faultNote_clearChan (c : Nat) : faultNote (clearChan c s) = faultNote s := faultNote_setChan s _ _
@[simp] theorem faultNote_setVault (n : Nat) (v : Vault) : faultNote (setVault n v s) = faultNote s := faultNote_congr rfl rfl
@[simp] theorem faultNote_setUnit (u : Nat) (l : List (Nat × Nat)) : faultNote (setUnit u l s) = faultNote s := faultNote_congr rfl rfl
@[simp] theorem faultNote_setKe (k : Nat) (x : KeSlot) : faultNote (setKe k x s) = faultNote s := faultNote_congr rfl rfl
@[simp] theorem faultNote_setI2c (n : Nat) (c : I2cCtl) : faultNote (setI2c n c s) = faultNote s := faultNote_congr rfl rfl
@[simp] theorem faultNote_modPanel (f : Panel → Panel) : faultNote (modPanel f s) = faultNote s := faultNote_congr rfl rfl
@[simp] theorem faultNote_setBltUnit (u : Nat) (j : Option BltJob) : faultNote (setBltUnit u j s) = faultNote s :=
  faultNote_modPanel s _
@[simp] theorem faultNote_modAudio (f : Audio → Audio) : faultNote (modAudio f s) = faultNote s := faultNote_congr rfl rfl
@[simp] theorem faultNote_modVat (f : Vat → Vat) : faultNote (modVat f s) = faultNote s := faultNote_congr rfl rfl
@[simp] theorem faultNote_modNand (f : Nand → Nand) : faultNote (modNand f s) = faultNote s := faultNote_congr rfl rfl
@[simp] theorem faultNote_modBlk (b : Nat) (f : Blk → Blk) : faultNote (modBlk b f s) = faultNote s := faultNote_modNand s _
@[simp] theorem faultNote_setHead (o : VatOp) : faultNote (setHead o s) = faultNote s := faultNote_modVat s _
@[simp] theorem faultNote_dropHead : faultNote (dropHead s) = faultNote s := faultNote_modVat s _
@[simp] theorem faultNote_vatBegin : faultNote (vatBegin s) = faultNote s := faultNote_modVat s _
@[simp] theorem faultNote_fillBlk (kind b : Nat) : faultNote (fillBlk kind b s) = faultNote s := faultNote_modNand s _
@[simp] theorem faultNote_putSector (key : Nat) (bs : Bytes) (loc m : Nat) : faultNote (putSector key bs loc m s) = faultNote s :=
  faultNote_modNand s _

/-! Events, doors and memory. -/

@[simp] theorem faultNote_raise (n : Nat) : faultNote (raise n s) = faultNote s := by
  rw [raise_frame]; exact faultNote_congr rfl rfl

@[simp] theorem faultNote_raiseIf (b : Bool) (n : Nat) : faultNote (raiseIf b n s) = faultNote s := by simp [raiseIf]

@[simp] theorem faultNote_irq2Settle : faultNote (irq2Settle s) = faultNote s := by
  rw [irq2Settle_frame]; exact faultNote_congr rfl rfl

@[simp] theorem faultNote_doorInterrupt (d v : Nat) : faultNote (doorInterrupt d v s) = faultNote s := by
  rw [doorInterrupt_frame]; exact faultNote_congr rfl rfl

@[simp] theorem faultNote_setNotice (d bit : Nat) : faultNote (setNotice d bit s) = faultNote s := by simp [setNotice]

@[simp] theorem faultNote_agentWrite (a : Nat) (bs : Bytes) : faultNote (agentWrite a bs s) = faultNote s := by
  rw [agentWrite_frame]; exact faultNote_congr rfl rfl

@[simp] theorem faultNote_deviceWrite (a : Nat) (bs : Bytes) : faultNote (deviceWrite a bs s) = faultNote s :=
  (faultNote_agentWrite _ a bs).trans (faultNote_congr rfl rfl)

/-! Commands that end or are deferred. -/

@[simp] theorem faultNote_poolReturn (d : Nat) (k : PoolKind) : faultNote (poolReturn d k s) = faultNote s := by
  cases k with
  | none => rfl
  | floor => exact faultNote_modDoor s _ _
  | shared => exact faultNote_congr rfl rfl

@[simp] theorem faultNote_pushReply (d : Nat) (r : Reply) : faultNote (pushReply d r s) = faultNote s := by simp [pushReply]

@[simp] theorem faultNote_writeOutput (d : Nat) (c : Cmd) (data : Bytes) : faultNote (writeOutput d c data s) = faultNote s := by
  simp [writeOutput]

@[simp] theorem faultNote_finish (d tag status detail r0 r1 r2 : Nat) (data : Option Bytes) :
    faultNote (finish d tag status detail r0 r1 r2 data s) = faultNote s := by
  unfold finish
  cases findCmd s d tag with
  | none => rfl
  | some c => cases data <;> simp

@[simp] theorem faultNote_finishSt (d tag status detail : Nat) : faultNote (finishSt d tag status detail s) = faultNote s :=
  faultNote_finish s _ _ _ _ _ _ _ _

@[simp] theorem faultNote_finishR0 (d tag status r0 : Nat) : faultNote (finishR0 d tag status r0 s) = faultNote s :=
  faultNote_finish s _ _ _ _ _ _ _ _

@[simp] theorem faultNote_deferCmd (d tag status : Nat) : faultNote (deferCmd d tag status s) = faultNote s := by
  unfold deferCmd
  cases findCmd s d tag with
  | none => rfl
  | some c => simp

@[simp] theorem faultNote_cancelApply (result : Nat) : faultNote (cancelApply result s) = faultNote s := by
  unfold cancelApply
  split <;> simp

/-! Frames. -/

@[simp] theorem faultNote_dropOnset : faultNote (dropOnset s) = faultNote s := by
  unfold dropOnset
  split
  · rfl
  · exact (faultNote_raise _ _).trans (faultNote_withMach s _)

@[simp] theorem faultNote_dropChan (c i : Nat) : faultNote (dropChan c i s) = faultNote s := by simp [dropChan]

@[simp] theorem faultNote_creditSettle (e k : Nat) : faultNote (creditSettle e k s) = faultNote s := by simp [creditSettle]

@[simp] theorem faultNote_removeFrm (id : Nat) : faultNote (removeFrm id s) = faultNote s := by
  unfold removeFrm
  cases findFrm s id <;> simp

@[simp] theorem faultNote_discardFrm (f : Sheet) : faultNote (discardFrm f s) = faultNote s := by
  unfold discardFrm
  split <;> simp

@[simp] theorem faultNote_discardChan (f : Sheet) (i : Nat) : faultNote (discardChan f i s) = faultNote s := by
  unfold discardChan
  split <;> simp

@[simp] theorem faultNote_dropChanFrames (c : Nat) : faultNote (dropChanFrames c s) = faultNote s := by simp [dropChanFrames]

@[simp] theorem faultNote_countFrame : faultNote (countFrame s) = faultNote s := rfl

@[simp] theorem faultNote_faultFrame (f : Sheet) : faultNote (faultFrame f s) = faultNote s := by
  unfold faultFrame
  cases f.chan <;> simp

@[simp] theorem faultNote_faultReasm (d : Nat) : faultNote (faultReasm d s) = faultNote s := by
  unfold faultReasm
  split <;> simp

@[simp] theorem faultNote_discardFrames : faultNote (discardFrames s) = faultNote s := by
  unfold discardFrames
  extract_lets s1 s2 s3
  have h1 : faultNote s1 = faultNote s := by simp [s1]
  have h2 : faultNote s2 = faultNote s1 := by simp [s2]
  have h3 : faultNote s3 = faultNote s2 := by simp [s3]
  exact (faultNote_withMach s3 _).trans (h3.trans (h2.trans h1))

/-! The key engine. -/

@[simp] theorem faultNote_joinUnit (d tag u : Nat) (aux : List Nat) (input : Bytes) :
    faultNote (joinUnit d tag u aux input s) = faultNote s := by simp [joinUnit]

@[simp] theorem faultNote_waitDrain (c d tag : Nat) (input : Bytes) : faultNote (waitDrain c d tag input s) = faultNote s :=
  (faultNote_deferCmd _ _ _ _).trans ((faultNote_withKeys _ _).trans (faultNote_modCmd s d tag _))

@[simp] theorem faultNote_loadAsk (d tag : Nat) (r : Bytes) : faultNote (loadAsk d tag r s) = faultNote s := by
  unfold loadAsk loadGo
  split <;> simp

@[simp] theorem faultNote_retireNext (c d tag drained : Nat) : faultNote (retireNext c d tag drained s) = faultNote s := by
  simp [retireNext]

@[simp] theorem faultNote_retireAll (c d tag drained : Nat) : faultNote (retireAll c d tag drained s) = faultNote s := by
  simp [retireAll]

@[simp] theorem faultNote_resumeWaits (c : Nat) : faultNote (resumeWaits c s) = faultNote s := by
  unfold resumeWaits
  split
  · rfl
  · refine (faultNote_foldl (fun x w => ?_) _ _).trans (faultNote_withKeys s _)
    cases findCmd x w.2.1 w.2.2 <;> simp

@[simp] theorem faultNote_keExpire (k : Nat) : faultNote (keExpire k s) = faultNote s := by simp [keExpire, keAbandon]

@[simp] theorem faultNote_keSettle : faultNote (keSettle s) = faultNote s := by
  unfold keSettle
  extract_lets s1
  have h1 : faultNote s1 = faultNote s := by simp [s1]
  exact (faultNote_withKeys s1 _).trans h1

@[simp] theorem faultNote_keFreed (k : Nat) : faultNote (keFreed k s) = faultNote s := by
  simp [keFreed]

@[simp] theorem faultNote_zeroise (cs : List Nat) (ke : KeSlot → Bool) (va : Vault → Bool) :
    faultNote (zeroise cs ke va s).1 = faultNote s := by simp [zeroise]

@[simp] theorem faultNote_clearMessages : faultNote (clearMessages s) = faultNote s := by simp [clearMessages]

@[simp] theorem faultNote_purgeUnits : faultNote (purgeUnits s) = faultNote s := by
  unfold purgeUnits
  extract_lets keep s1
  have h1 : faultNote s1 = faultNote s := by simp [s1]
  exact (faultNote_keSettle _).trans ((faultNote_withKeys s1 _).trans h1)

end

end Sys2Proof.Machine
end

section
/-! The purges of the Store's, the panel's and audio's queues leave the fault state and the fault record, and so does all that a
recovery discards. -/

namespace Sys2Proof.Machine

/-! The Store: pages programmed and blocks taken. -/

@[simp] theorem faultNote_eraseBlk (b : Nat) (s : State) : faultNote (eraseBlk b s) = faultNote s := by simp [eraseBlk, erased]

@[simp] theorem faultNote_countPage (host : Bool) (s : State) : faultNote (countPage host s) = faultNote s := by simp [countPage]

theorem faultNote_programIn {b : Nat} {cws : List Bytes} (s : State) : faultNote (programIn b cws s).2 = faultNote s := by
  simp [programIn]

theorem faultNote_takeBlk {kind b : Nat} {s t : State} (h : takeBlk kind s = some (b, t)) : faultNote t = faultNote s := by
  unfold takeBlk at h
  split at h
  · cases h; rfl
  · obtain ⟨c, _, hc⟩ := Option.map_eq_some_iff.1 h
    cases hc
    exact faultNote_eraseBlk _ s

theorem faultNote_programRaw {kind a : Nat} {cws : List Bytes} {s t : State} (h : programRaw kind cws s = some (a, t)) :
    faultNote t = faultNote s := by
  unfold programRaw at h
  split at h
  · next b _ =>
    have e := faultNote_programIn (b := b) (cws := cws) s
    rw [Option.some.inj h] at e
    exact e
  · obtain ⟨⟨b, x⟩, hb, hc⟩ := Option.map_eq_some_iff.1 h
    have e := faultNote_programIn (b := b) (cws := cws) (fillBlk kind b x)
    rw [hc, faultNote_fillBlk, faultNote_takeBlk hb] at e
    exact e

theorem faultNote_programSecs {kind a m : Nat} {secs : List Bytes} {s t : State} (h : programSecs kind secs s = some (a, m, t)) :
    faultNote t = faultNote s := by
  obtain ⟨⟨b, x⟩, hb, hc⟩ := Option.map_eq_some_iff.1 h
  cases hc
  exact (faultNote_programRaw hb).trans (faultNote_congr rfl rfl)

@[simp] theorem faultNote_placeSecs (keys : List Nat) (secs : List Bytes) (a m : Nat) (s : State) :
    faultNote (placeSecs keys secs a m s) = faultNote s := by simp [placeSecs]

@[simp] theorem faultNote_moveSectors (n : Nat) (keys : List Nat) (s : State) : faultNote (moveSectors n keys s) = faultNote s := by
  induction n generalizing keys s with
  | zero => rfl
  | succ n ih =>
    unfold moveSectors
    split
    · rfl
    · extract_lets here secs
      split
      · rfl
      · next h => rw [ih, faultNote_placeSecs, faultNote_countPage, faultNote_programSecs h]

@[simp] theorem faultNote_makeRoom (kind : Nat) (s : State) : faultNote (makeRoom kind s) = faultNote s := by
  unfold makeRoom reclaim
  split
  · rfl
  · split
    · rfl
    · extract_lets room full
      split <;> simp

theorem faultNote_programOwn {kind a : Nat} {s t : State} (h : programOwn kind s = some (a, t)) : faultNote t = faultNote s :=
  (faultNote_programRaw h).trans ((faultNote_makeRoom kind _).trans (faultNote_congr rfl rfl))

/-! The Store: commands begun and ended. -/

@[simp] theorem faultNote_vatFinish (o : VatOp) (status detail r0 r1 r2 : Nat) (data : Option Bytes) (s : State) :
    faultNote (vatFinish o status detail r0 r1 r2 data s) = faultNote s := by simp [vatFinish]

@[simp] theorem faultNote_beginRead (o : VatOp) (c : Cmd) (s : State) : faultNote (beginRead o c s) = faultNote s := by
  unfold beginRead
  extract_lets first secs
  split
  · unfold endRead
    extract_lets off n lost bs
    split <;> simp
  · simp

@[simp] theorem faultNote_beginLogRead (o : VatOp) (c : Cmd) (s : State) : faultNote (beginLogRead o c s) = faultNote s := by
  unfold beginLogRead
  extract_lets ahead
  split
  · simp
  · clear_value ahead
    cases ahead with
    | none => simp [endLogRead]
    | some r => simp

@[simp] theorem faultNote_beginAppend (o : VatOp) (c : Cmd) (s : State) : faultNote (beginAppend o c s) = faultNote s := by
  simp [beginAppend]

@[simp] theorem faultNote_beginFormat (o : VatOp) (s : State) : faultNote (beginFormat o s) = faultNote s := by simp [beginFormat]

@[simp] theorem faultNote_startOp (o : VatOp) (c : Cmd) (s : State) : faultNote (startOp o c s) = faultNote s := by
  simp [startOp]

@[simp] theorem faultNote_noBlock (o : VatOp) (s : State) : faultNote (noBlock o s) = faultNote s := by simp [noBlock, wornOut]

@[simp] theorem faultNote_beginNand (o : VatOp) (c : Cmd) (s : State) : faultNote (beginNand o c s) = faultNote s := by
  unfold beginNand
  split
  case h_5 =>
    split
    · simp
    · next h => rw [faultNote_vatBegin, faultNote_setHead, faultNote_programSecs h, faultNote_makeRoom]
  case h_9 =>
    split
    · simp
    · next h => rw [faultNote_vatBegin, faultNote_programOwn h]
  all_goals simp

@[simp] theorem faultNote_vatPump (n : Nat) (s : State) : faultNote (vatPump n s) = faultNote s := by
  induction n generalizing s with
  | zero => rfl
  | succ n ih =>
    unfold vatPump
    split
    · rfl
    · split
      · rfl
      · split <;> simp [ih]

@[simp] theorem faultNote_dropFormat (s : State) : faultNote (dropFormat s) = faultNote s := by
  unfold dropFormat
  split
  · split <;> simp
  · rfl

@[simp] theorem faultNote_purgeVat (s : State) : faultNote (purgeVat s) = faultNote s := by simp [purgeVat, pump]

/-! Modules, the panel and audio. -/

@[simp] theorem faultNote_purgeI2c (s : State) : faultNote (purgeI2c s) = faultNote s := by simp [purgeI2c]

@[simp] theorem faultNote_postBytes (off : Nat) (bs : Bytes) (s : State) : faultNote (postBytes off bs s) = faultNote s := by
  induction bs generalizing off s with
  | nil => rfl
  | cons b r ih => rw [postBytes, ih, postByte, faultNote_ite, faultNote_agentWrite, ite_self]

@[simp] theorem faultNote_jobPixels (q : BltJob) (k : Nat) (s : State) : faultNote (jobPixels q k s) = faultNote s := by
  simp [jobPixels, jobPixel]

@[simp] theorem faultNote_cutJob (s : State) (u : Nat) : faultNote (cutJob s u) = faultNote s := by
  unfold cutJob
  split <;> simp

@[simp] theorem faultNote_purgeBlt (s : State) : faultNote (purgeBlt s) = faultNote s := by simp [purgeBlt]

@[simp] theorem faultNote_purgeAudio (s : State) : faultNote (purgeAudio s) = faultNote s := by
  simp [purgeAudio, streamDry, audEvent]

/-! What a recovery discards. -/

@[simp] theorem faultNote_faultCmd (code d : Nat) (c : Cmd) (s : State) : faultNote (faultCmd code d c s) = faultNote s :=
  (faultNote_finish _ _ _ _ _ _ _ _ _).trans rfl

@[simp] theorem faultNote_discardCmds (code : Nat) (s : State) : faultNote (discardCmds code s) = faultNote s := by
  simp [discardCmds, purgeEngines]

theorem faultNote_runRecovery (code : Nat) (s : State) : faultNote (runRecovery code s) = faultNote s := by simp [runRecovery]

/-- GEN takes its next value, and the record stays. -/
theorem faultNote_bumpGen (s : State) :
    faultNote (bumpGen s) = faultNote { s with fault := { s.fault with gen := (s.fault.gen + 1) % 2 ^ 16 } } := by
  unfold bumpGen
  extract_lets _ s1
  exact faultNote_foldl (fun x d => faultNote_setNotice x d 3) _ s1

/-- A fault is recorded under GEN (Table 10-5); FIRST keeps the earliest since it was read 0. -/
theorem faultNote_recordFault (code unit : Nat) (s : State) : faultNote (recordFault code unit s) =
    (s.fault, code + s.fault.gen * 2 ^ 16, unit, if s.faults.first = 0 then code + s.fault.gen * 2 ^ 16 else s.faults.first,
      s.faults.recoveries) := rfl

end Sys2Proof.Machine
end

section
/-! O46: fuse burns (R39), block locks (R5), the commands of faults and what a fault starts (R194–R211). -/

namespace Sys2Proof.Machine

/-! The cases of `startRecovery` (R201, R205, R208–R211). -/

/-- In the fault state a fault is only recorded. -/
theorem startRecovery_in_fault {s : State} (code unit : Nat) (h : s.fault.mode = 2) :
    startRecovery code unit s = recordFault code unit s := if_pos h

/-- While a recovery runs a fault restarts it, three times at most. -/
theorem startRecovery_restarts {s : State} (code unit : Nat) (h : s.fault.mode = 1) (h3 : s.faults.restarts < 3) :
    startRecovery code unit s =
      runRecovery code (recordFault code unit (setFaults (fun f => { f with restarts := f.restarts + 1 }) s)) := by
  rw [startRecovery, if_neg (by omega), if_pos h, if_neg (by omega)]

theorem startRecovery_fourth_restart {s : State} (code unit : Nat) (h : s.fault.mode = 1) (h3 : 3 ≤ s.faults.restarts) :
    startRecovery code unit s = enterFault 0x33 false (recordFault code unit) s := by
  rw [startRecovery, if_neg (by omega), if_pos h, if_pos h3]

theorem startRecovery_storm {s : State} (code unit : Nat) (h : s.fault.mode = 0) (h7 : 7 ≤ (recentRecoveries s).length) :
    startRecovery code unit s = enterFault 0x32 false (recordFault code unit) s := by
  rw [startRecovery, if_neg (by omega), if_neg (by omega), if_pos h7]

/-- The state that a recovery begins in: RECOVERING, in the next generation, its fault counted. -/
def recoveryBegun (s : State) : State :=
  setFaults (fun f => { f with
      recoveries := satInc 32 f.recoveries, restarts := 0, discCmds := 0, discFrames := 0
      begun := recentRecoveries s ++ [nowP s] })
    (bumpLiveVer (bumpGen { s with fault := { s.fault with mode := 1 } }))

theorem startRecovery_begins {s : State} (code unit : Nat) (h : s.fault.mode = 0) (h7 : (recentRecoveries s).length < 7) :
    startRecovery code unit s = runRecovery code (recordFault code unit (recoveryBegun s)) := by
  rw [startRecovery, if_neg (by omega), if_neg (by omega), if_neg (by omega), recoveryBegun]

/-! What is noted of a fault. -/

/-- The parts of the note. -/
theorem faultNote_eq_iff {s : State} {f : FaultSt} {last unit first recoveries : Nat} :
    faultNote s = (f, last, unit, first, recoveries) ↔ s.fault = f ∧ s.faults.last = last ∧ s.faults.lastUnit = unit ∧
      s.faults.first = first ∧ s.faults.recoveries = recoveries := by
  simp only [faultNote, Prod.mk.injEq]

/-- The generation that a recovery or the fault state begins (R205). -/
def nextGen (s : State) : Nat := (s.fault.gen + 1) % 2 ^ 16

theorem bumpGen_note (s : State) : (bumpGen s).fault = { s.fault with gen := nextGen s } ∧
    (bumpGen s).faults.last = s.faults.last ∧ (bumpGen s).faults.lastUnit = s.faults.lastUnit ∧
    (bumpGen s).faults.first = s.faults.first ∧ (bumpGen s).faults.recoveries = s.faults.recoveries :=
  faultNote_eq_iff.1 (faultNote_bumpGen s)

theorem recoveryBegun_note (s : State) : (recoveryBegun s).fault = { mode := 1, gen := nextGen s } ∧
    (recoveryBegun s).faults.recoveries = satInc 32 s.faults.recoveries := by
  obtain ⟨hf, _, _, _, hr⟩ := bumpGen_note { s with fault := { s.fault with mode := 1 } }
  unfold recoveryBegun
  generalize bumpGen { s with fault := { s.fault with mode := 1 } } = b at hf hr
  exact ⟨hf, congrArg (satInc 32) hr⟩

/-- Entry to the fault state is noted as the fault that led to it and the cause behind it. -/
theorem faultNote_enterFault (code : Nat) (bist : Bool) (note : State → State) (s : State) :
    faultNote (enterFault code bist note s) =
      faultNote (recordFault code 0 (note (bumpGen { s with fault := { s.fault with mode := 2 } }))) := by
  have hcounts : ∀ x : State, faultNote (setFaults (fun f => { f with discCmds := 0, discFrames := 0, bist := bist }) x) =
      faultNote x := fun _ => rfl
  rw [enterFault, faultNote_raise, faultNote_raise, faultNote_zeroise, faultNote_clearMessages, faultNote_discardFrames,
    faultNote_discardCmds, faultNote_cancelApply, hcounts]

/-- Two faults recorded one after the other: LAST is the second, FIRST keeps the first (entry 76 of the log). -/
theorem recordFault_twice (code cause unit : Nat) (s : State) (h0 : s.faults.first = 0) (hc : cause ≠ 0) :
    (recordFault code 0 (recordFault cause unit s)).faults.first = cause + s.fault.gen * 2 ^ 16 := by
  have h : (recordFault cause unit s).faults.first = cause + s.fault.gen * 2 ^ 16 := if_pos h0
  exact (if_neg (by rw [h]; omega)).trans h

/-- Entry to the fault state for `code`, by the fault `cause` that led to it (R211). -/
theorem enterFault_note (code cause unit : Nat) (bist : Bool) (s : State) :
    (enterFault code bist (recordFault cause unit) s).fault = { mode := 2, gen := nextGen s } ∧
    (enterFault code bist (recordFault cause unit) s).faults.last = code + nextGen s * 2 ^ 16 ∧
    (s.faults.first = 0 → cause ≠ 0 →
      (enterFault code bist (recordFault cause unit) s).faults.first = cause + nextGen s * 2 ^ 16) := by
  have hnote := faultNote_enterFault code bist (recordFault cause unit) s
  obtain ⟨hf, _, _, h0, _⟩ := bumpGen_note { s with fault := { s.fault with mode := 2 } }
  generalize bumpGen { s with fault := { s.fault with mode := 2 } } = b at hnote hf h0
  have hgen : b.fault.gen = nextGen s := congrArg FaultSt.gen hf
  obtain ⟨hrec, _⟩ := faultNote_eq_iff.1 (faultNote_recordFault cause unit b)
  obtain ⟨h1, h2, _, _, _⟩ := faultNote_eq_iff.1 (hnote.trans (faultNote_recordFault code 0 _))
  obtain ⟨_, _, _, h3, _⟩ := faultNote_eq_iff.1 hnote
  rw [h1, h2, h3, hrec, hgen]
  exact ⟨hf, rfl, fun hz hc => by rw [recordFault_twice code cause unit b (h0.trans hz) hc, hgen]⟩

/-- A recovery that begins. -/
theorem startRecovery_begins_note {s : State} (code unit : Nat) (h : s.fault.mode = 0) (h7 : (recentRecoveries s).length < 7) :
    (startRecovery code unit s).fault.mode = 1 ∧ (startRecovery code unit s).fault.gen = nextGen s ∧
    (startRecovery code unit s).faults.recoveries = satInc 32 s.faults.recoveries ∧
    (startRecovery code unit s).faults.last = code + nextGen s * 2 ^ 16 ∧
    (startRecovery code unit s).faults.lastUnit = unit := by
  obtain ⟨hf, hr⟩ := recoveryBegun_note s
  obtain ⟨h1, h2, h3, _, h5⟩ := faultNote_eq_iff.1
    ((faultNote_runRecovery code (recordFault code unit (recoveryBegun s))).trans (faultNote_recordFault code unit _))
  rw [startRecovery_begins code unit h h7, h1, h2, h3, h5, hf, hr]
  exact ⟨rfl, rfl, rfl, rfl, rfl⟩

/-! Lock bits (R5). -/

/-- A 1 written to a writable bit that resets to 0 reads back from every table. -/
theorem rbit_writeTyped_set {a i : Nat} {locked : Bool} {v : Word} (s : State) (hi : i < 32) (hrw : bitAt (regSpec a).rw i = true)
    (hw : bitAt (regSpec a).w1c i = false) (h0 : bitAt (regSpec a).reset i = false) (hv : wbit v i = true) :
    rbit (writeTyped a locked v s) a i = true := by
  rw [writeTyped_eq]
  refine rbit_setReg_of_ne_reset s ?_ ?_
  · rw [wbit_w32 _ hi, h0]; exact Bool.false_ne_true
  · rw [wbit_typedValue _ _ _ _ hi, hrw, hw, Bool.true_or, if_pos rfl, hv]; rfl

theorem rbit_putBit_true {a i : Nat} (s : State) (hi : i < 32) (h0 : bitAt (regSpec a).reset i = false) :
    rbit (putBit a i true s) a i = true := by
  refine rbit_setReg_of_ne_reset s ?_ ?_
  · rw [wbit_w32 _ hi, h0]; exact Bool.false_ne_true
  · rw [wbit_wsetBit hi, if_pos rfl]

theorem rbit_idnWrite_lock {v : Word} (s : State) (hv : wbit v 0 = true) : rbit (idnWrite 0x0FC v s) 0x400B00FC 0 = true := by
  have h : idnWrite 0x0FC v s = putBit 0x400B00FC 0 true s := if_pos hv
  rw [h, rbit_putBit_true s (by decide) (by decide)]

theorem rbit_pairWrite_lock {v : Word} (s : State) (hv : wbit v 31 = true) : rbit (pairWrite 0x008 v s) 0x40090008 31 = true := by
  refine rbit_setReg_of_ne_reset s (by decide) ?_
  rw [hv, Bool.or_true, wbit_w32 _ (by decide)]
  cases (if rbit s pairCtrl 31 || solo s then wbit (reg s pairCtrl) 0 else wbit v 0)
  · decide
  · decide

/-- The value written once CTRL.LOCK has been taken into account. -/
theorem wbit_lockKept {v : Word} {c : Prop} [Decidable c] (hv : wbit v 31 = true) :
    wbit (if c then wsetBit v 31 true else v) 31 = true := by
  split
  · rw [wbit_wsetBit (by decide), if_pos rfl]
  · exact hv

theorem rbit_pnlWrite_lock {v : Word} (s : State) (hv : wbit v 31 = true) : rbit (pnlWrite 0x008 v s) 0x40050008 31 = true := by
  unfold pnlWrite
  rw [if_neg (show ¬ pnlBad 0x008 v = true from Bool.false_ne_true)]
  extract_lets lock s1 s2
  have h1 : rbit s1 0x40050008 31 = true :=
    rbit_writeTyped_set (a := 0x40050008) s (by decide) (by decide) (by decide) (by decide) (wbit_lockKept hv)
  rw [if_neg (by decide)]
  split
  · exact h1
  · exact h1

theorem rbit_cmpWrite_lock {v : Word} (s : State) (hv : wbit v 31 = true) : rbit (cmpWrite 0x008 v s) 0x40060008 31 = true := by
  unfold cmpWrite
  rw [if_neg (by decide), if_neg (show ¬ cmpBad 0x008 v = true from Bool.false_ne_true)]
  extract_lets a lock v1 s1
  have h1 : rbit s1 0x40060008 31 = true :=
    rbit_writeTyped_set (a := 0x40060008) s (by decide) (by decide) (by decide) (by decide) (wbit_lockKept hv)
  clear_value s1
  split
  · exact h1
  · exact h1

/-- The lock bit of a block whose write is a register's write as a whole. -/
theorem storedBit_lock {a : Nat} {i : Nat} (s : State) (h1 : ¬ ((a = fanCtrl ∨ a = vatBase + 0x004) ∧ i ≠ 0))
    (h2 : ¬ a / 0x10000 = 0x400E) (hi : i < 32) : ∃ v : Word, wbit v i = true ∧ storedBit a i true s = regWrite a v s := by
  refine ⟨wsetBit (reg s a &&& w32 ((regSpec a).rw ||| (regSpec a).lk)) i true, ?_, ?_⟩
  · rw [wbit_wsetBit hi, if_pos rfl]
  · rw [storedBit, if_neg h1, if_neg h2]

theorem storedBit_lock_ctrl {a : Nat} (s : State) (h : a = fanCtrl ∨ a = vatBase + 0x004) :
    storedBit a 31 true s = putBit a 31 true s := if_pos ⟨h, by decide⟩

/-- BLOCK_LOCK sets the block's lock bit. -/
theorem rbit_storedBit_lock (b : LockBlock) (s : State) :
    rbit (storedBit (lockBit b).1 (lockBit b).2 true s) (lockBit b).1 (lockBit b).2 = true := by
  cases b with
  | idn =>
    obtain ⟨v, hv, h⟩ := storedBit_lock (a := 0x400B00FC) (i := 0) s (by decide) (by decide) (by decide)
    exact (congrArg (rbit · 0x400B00FC 0) h).trans (rbit_idnWrite_lock s hv)
  | vat =>
    exact (congrArg (rbit · 0x40080004 31) (storedBit_lock_ctrl s (.inr rfl))).trans
      (rbit_putBit_true s (by decide) (by decide))
  | pair =>
    obtain ⟨v, hv, h⟩ := storedBit_lock (a := 0x40090008) (i := 31) s (by decide) (by decide) (by decide)
    exact (congrArg (rbit · 0x40090008 31) h).trans (rbit_pairWrite_lock s hv)
  | panel =>
    obtain ⟨v, hv, h⟩ := storedBit_lock (a := 0x40050008) (i := 31) s (by decide) (by decide) (by decide)
    exact (congrArg (rbit · 0x40050008 31) h).trans (rbit_pnlWrite_lock s hv)
  | compositor =>
    obtain ⟨v, hv, h⟩ := storedBit_lock (a := 0x40060008) (i := 31) s (by decide) (by decide) (by decide)
    exact (congrArg (rbit · 0x40060008 31) h).trans (rbit_cmpWrite_lock s hv)
  | fan =>
    exact (congrArg (rbit · 0x40030008 31) (storedBit_lock_ctrl s (.inl rfl))).trans
      (rbit_putBit_true s (by decide) (by decide))

end Sys2Proof.Machine
end

section
/-! The commands of O46. -/

namespace Sys2Proof.Machine

/-! Fuse burns (R39). -/

theorem exec_fpkey {s : State} (v : Word) (hh : s.clk.held = false) : exec (.fpkey v) s = .next (fpkeyWrite v s) :=
  congrArg Host.Outcome.next (live_run _ hh)

theorem fpkeyWrite_ignored {s : State} {v : Word} (h : rbit s 0x400B00FC 0 = true ∨ wfld v 0 16 ≠ 0xF05E) :
    fpkeyWrite v s = s := if_pos h

theorem fpkeyWrite_refused {s : State} {v : Word} (h1 : rbit s 0x400B00FC 0 = false) (h2 : wfld v 0 16 = 0xF05E)
    (h : s.fuses.burn ≠ none ∨ 832 < rfld s 0x400B00F0 0 10 ∨ (64 ≤ rfld s 0x400B00F0 0 10 ∧ s.fuses.sensed.lock = true)) :
    fpkeyWrite v s = putBit 0x400B00F8 2 true s :=
  (if_neg (not_or.2 ⟨ne_true_of_eq_false h1, Decidable.not_not.2 h2⟩)).trans (if_pos (h.imp_left Option.isSome_iff_ne_none.2))

theorem fpkeyWrite_starts {s : State} {v : Word} (h1 : rbit s 0x400B00FC 0 = false) (h2 : wfld v 0 16 = 0xF05E)
    (hb : s.fuses.burn = none) (hi : rfld s 0x400B00F0 0 10 ≤ 832)
    (hl : rfld s 0x400B00F0 0 10 < 64 ∨ s.fuses.sensed.lock = false) :
    fpkeyWrite v s = { s with fuses := { s.fuses with burn := some (rfld s 0x400B00F0 0 10) } } := by
  refine (if_neg (not_or.2 ⟨ne_true_of_eq_false h1, Decidable.not_not.2 h2⟩)).trans (if_neg ?_)
  rintro (h | h | ⟨h64, hlock⟩)
  · rw [hb] at h; exact Bool.false_ne_true h
  · exact absurd h (Nat.not_lt.2 hi)
  · rcases hl with h | h
    · exact absurd h (Nat.not_lt.2 h64)
    · rw [h] at hlock; exact Bool.false_ne_true hlock

theorem exec_fpkey_cases {s : State} (hh : s.clk.held = false) :
    (∀ (v : Word) (i : Nat), i = rfld s 0x400B00F0 0 10 →
      (rbit s 0x400B00FC 0 = true ∨ wfld v 0 16 ≠ 0xF05E → exec (.fpkey v) s = .next s) ∧
      (rbit s 0x400B00FC 0 = false → wfld v 0 16 = 0xF05E →
        (s.fuses.burn ≠ none ∨ 832 < i ∨ (64 ≤ i ∧ s.fuses.sensed.lock = true)) →
        exec (.fpkey v) s = .next (putBit 0x400B00F8 2 true s)) ∧
      (rbit s 0x400B00FC 0 = false → wfld v 0 16 = 0xF05E → s.fuses.burn = none → i ≤ 832 →
        (i < 64 ∨ s.fuses.sensed.lock = false) →
        exec (.fpkey v) s = .next { s with fuses := { s.fuses with burn := some i } })) := by
  rintro v i rfl
  rw [exec_fpkey v hh]
  exact ⟨fun h => congrArg _ (fpkeyWrite_ignored h), fun h1 h2 h => congrArg _ (fpkeyWrite_refused h1 h2 h),
    fun h1 h2 hb hi hl => congrArg _ (fpkeyWrite_starts h1 h2 hb hi hl)⟩

/-- The end of a burn, where one is in progress. -/
theorem exec_fuseBurnDone {s : State} (hh : s.clk.held = false) : exec .fuseBurnDone s = .next (match s.fuses.burn with
    | none => s
    | some i => putBit 0x400B00F8 1 true
        { s with fuses := { s.fuses with blown := blowBit i s.fuses.blown, burn := none } }) :=
  congrArg Host.Outcome.next (live_run _ hh)

/-! Faults detected, watchdogs and the end of a recovery. -/

theorem exec_blockLock {s : State} (b : LockBlock) (hh : s.clk.held = false) :
    exec (.blockLock b) s = .next (storedBit (lockBit b).1 (lockBit b).2 true s) := congrArg Host.Outcome.next (live_run _ hh)

theorem exec_faultDetected {s : State} (f : FaultEvent) (hh : s.clk.held = false) :
    exec (.faultDetected f) s = .next (faultDetected f s) := congrArg Host.Outcome.next (live_run _ hh)

theorem faultDetected_memCorrected {s : State} {a : Word} (h : regionOf a.toNat ∈ [.itcm, .dtcm, .sram]) :
    faultDetected (.memCorrected a) s = memCe s := if_pos (by simpa using h)

theorem faultDetected_memCorrected_elsewhere {s : State} {a : Word} (h : regionOf a.toNat ∉ [.itcm, .dtcm, .sram]) :
    faultDetected (.memCorrected a) s = s := if_neg (by simpa using h)

/-- A parity error of a D-cache line: the line is dropped and filled again. -/
theorem lineError_data {s : State} {a : Nat} (hr : regionOf a = .sram) (hc : wbit s.core.cctl 1 = true) :
    lineError true a s = cacheErr (dcacheLoad a { s with pair := { s.pair with
      dcache := s.pair.dcache.filter fun e => e != a / 32 } }) := by
  refine (if_neg (not_or.2 ⟨Decidable.not_not.2 hr, ?_⟩)).trans (if_pos rfl)
  exact ne_false_of_eq_true hc

/-- No cache holds a line outside sentinel SRAM, nor one that CCTL turns off. -/
theorem lineError_none {s : State} {a : Nat} {data : Bool}
    (h : regionOf a ≠ .sram ∨ wbit s.core.cctl (if data then 1 else 0) = false) : lineError data a s = s := if_pos h

theorem exec_stageWatchdog {s : State} {dir : Fin 2} {i : Fin 1024} {f : Sheet} (hh : s.clk.held = false)
    (hf : s.mach.frames.find? (fun f => f.slot == some i.val && frmDir f == dir.val) = some f) :
    exec (.stageWatchdog dir i) s = .next (
      if nowP s < f.time + 1250000 ∨ (f.stage = .couch ∧ (lanesInService s).isEmpty = true) then s
      else startRecovery 0x15 (i.val + 1024 * dir.val) s) := by
  refine congrArg Host.Outcome.next ((live_run _ hh).trans ?_)
  rw [hf]

theorem exec_recoveryEnd {s : State} (hh : s.clk.held = false) : exec .recoveryEnd s = .next (
    if s.fault.mode = 1 then
      raise 178 { s with fault := { s.fault with mode := 0 }, faults := { s.faults with restarts := 0 } }
    else s) := congrArg Host.Outcome.next (live_run _ hh)

/-- Settles O46: the commands by their `exec_` equations, and the cases of a fault by what `faultNote` says stays of the record
while work is discarded. -/
theorem faultsAndRecoveries : Obligations.FaultsAndRecoveries := by
  refine ⟨fun s hh => ?_, ?_⟩
  · have hlock : ∀ b, ∃ t : State, exec (.blockLock b) s = .next t ∧ rbit t (lockBit b).1 (lockBit b).2 = true :=
      fun b => ⟨_, exec_blockLock b hh, rbit_storedBit_lock b s⟩
    refine ⟨exec_fpkey_cases hh, fun i h => ?_, fun h => ?_, hlock .idn, hlock .vat, hlock .pair, hlock .panel, hlock .compositor,
      hlock .fan, exec_faultDetected _ hh, fun l => exec_faultDetected _ hh, fun c => exec_faultDetected _ hh,
      exec_faultDetected _ hh, exec_faultDetected _ hh, exec_faultDetected _ hh, fun a => ⟨fun h => ?_, fun h => ?_, fun h1 h2 => ?_,
        fun data h => ?_⟩, fun dir i f hf => ⟨fun h => ?_, fun h hc => ?_⟩, fun h => ?_, fun h => ?_⟩
    · rw [exec_fuseBurnDone hh, h]
    · rw [exec_fuseBurnDone hh, h]
    · rw [exec_faultDetected _ hh, faultDetected_memCorrected h]
    · rw [exec_faultDetected _ hh, faultDetected_memCorrected_elsewhere h]
    · exact (exec_faultDetected _ hh).trans (congrArg _ (lineError_data h1 h2))
    · exact (exec_faultDetected _ hh).trans (congrArg _ (lineError_none h))
    · rw [exec_stageWatchdog hh hf, if_pos (.inl h)]
    · rw [exec_stageWatchdog hh hf, if_neg (not_or.2 ⟨Nat.not_lt.2 h, fun e => hc e.1⟩)]
    · rw [exec_recoveryEnd hh, if_neg h]
    · rw [exec_recoveryEnd hh, if_pos h]
  · rintro s code unit rec rfl
    refine ⟨startRecovery_in_fault code unit, startRecovery_restarts code unit, fun h h3 => ?_, fun h h7 => ?_, fun h h7 => ?_⟩
    · obtain ⟨hf, hl, _⟩ := enterFault_note 0x33 code unit false s
      rw [startRecovery_fourth_restart code unit h h3, hf, hl]
      exact ⟨rfl, rfl⟩
    · exact startRecovery_begins_note code unit h h7
    · obtain ⟨hf, hl, h1⟩ := enterFault_note 0x32 code unit false s
      rw [startRecovery_storm code unit h h7, hf, hl]
      exact ⟨rfl, rfl, rfl, h1⟩

end Sys2Proof.Machine
end

section
/-! O34: what Wire decides about a frame (R10, R121–R125, R145, R146). A verdict is found from the policy map or the SecTAG, the
checks of R124 refine it, and the command carries it out. -/

namespace Sys2Proof.Machine

section
variable {s : State} {f : Sheet}

/-! The command carries the verdict out (R119). -/

/-- What a verdict of Wire makes of frame `f`. -/
def wireActed (s : State) (f : Sheet) : WireV → State
  | .drop i => Spec.atEnd s f (discardPort f i s)
  | .dropC c i => Spec.atEnd s f (dropChan c i (discardFrm f s))
  | .down e => Spec.atEnd s f (discardDown false { f with egress := e } s)
  | .cell => modFrm f.id (fun x => { x with stage := .cell }) s
  | .channel c e k g =>
    modFrm f.id (fun x => { x with stage := .couch, chan := some c, egress := e, cls := k, granules := g }) s
  | .bypass e k g =>
    modFrm f.id (fun x => { x with stage := .couch, bypass := true, egress := e, cls := k, granules := g }) s

theorem exec_wireCheck {dir : Fin 2} {v : WireV} (hh : s.clk.held = false) (hf : Spec.oldest s .headbox dir = some f)
    (hv : wireVerdict s f = v) : exec (.wireCheck dir) s = .next (wireActed s f v) := by
  refine congrArg Host.Outcome.next ((live_run _ hh).trans ?_)
  unfold Spec.oldest at hf
  rw [wireCheck, hf]
  dsimp only
  rw [hv]
  cases v <;> rfl

/-! The policy map (R10, R123). -/

theorem wirePolicy_unmatched (h : policyHit (bankOf s f.bank) f = none) : wirePolicy s f = .drop 17 := by
  rw [wirePolicy, h]

section
variable {v : Bytes} (hv : policyHit (bankOf s f.bank) f = some v)
include hv

theorem wirePolicy_discard (h : vb v 11 = 0) : wirePolicy s f = .drop 16 := by
  simp only [wirePolicy, hv, if_pos h]

theorem wirePolicy_protect_unbound (h : vb v 11 = 2) (hc : bindOf (bankOf s f.bank) (vle v 24 2) = none) :
    wirePolicy s f = .drop 16 := by
  simp only [wirePolicy, hv, h, hc, if_neg (show ¬ 2 = 0 by decide), if_pos]

theorem wirePolicy_protect {x : Bind} (h : vb v 11 = 2) (hc : bindOf (bankOf s f.bank) (vle v 24 2) = some x)
    (hx : x.dir = 0 ∧ x.wet = f.port) :
    wirePolicy s f = wireChannel s f (vle v 24 2) (8 + x.dry) x.cls (f.bytes.length + 32) := by
  simp only [wirePolicy, hv, h, hc, if_neg (show ¬ 2 = 0 by decide), if_pos hx, if_pos]

theorem wirePolicy_bypass_wet {d y : Nat} (h : vb v 11 = 1) (hw : f.port < 8)
    (hm : mapOf (bankOf s f.bank) f.port = some (d, y)) (hd : isCal (bankOf s f.bank) d = false) :
    wirePolicy s f = wireBypass s f (8 + d) (vb v 23) := by
  simp [wirePolicy, hv, h, hw, hm, hd]

theorem wirePolicy_bypass_dry (h : vb v 11 = 1) (hw : 8 ≤ f.port) (he : portExists (liveBank s) (vb v 26) = true) :
    wirePolicy s f = wireBypass s f (vb v 26) (vb v 23) := by
  simp [wirePolicy, hv, h, Nat.not_lt.2 hw, he]

end

/-! Which of the policy map, the SecTAG and the Calender a frame meets (R121, R146). -/

theorem wireVerdict_wet (h : f.port < 8) : wireVerdict s f = wirePolicy s f := if_pos h

theorem wireVerdict_plain (h : 8 ≤ f.port) (hs : beAt f.bytes 12 2 ≠ 0x88E5) (hc : beAt f.bytes 12 2 ≠ 0x88B5) :
    wireVerdict s f = wirePolicy s f := by
  simp only [wireVerdict, if_neg (Nat.not_lt.2 h), hs, hc, false_and, if_false]

theorem wireVerdict_cell (h : 8 ≤ f.port) (hc : beAt f.bytes 12 2 = 0x88B5) (hp : isCal (bankOf s f.bank) (f.port - 8) = true) :
    wireVerdict s f = .cell := by
  simp [wireVerdict, Nat.not_lt.2 h, hc, hp]

section
variable (h : 8 ≤ f.port) (hs : beAt f.bytes 12 2 = 0x88E5) (hp : isCal (bankOf s f.bank) (f.port - 8) = false)
include h hs hp

theorem wireVerdict_secured : wireVerdict s f = if secTagOk f.bytes then
    match sciLookup (bankOf s f.bank) (f.port - 8) (readSecTag f.bytes).sci with
    | some (c, x) => wireChannel s f c x.wet x.cls f.bytes.length
    | none => .drop 22
    else .drop 22 :=
  (if_neg (Nat.not_lt.2 h)).trans (if_pos ⟨hs, hp⟩)

theorem wireVerdict_no_secTag_or_channel (ht : secTagOk f.bytes = false ∨
    sciLookup (bankOf s f.bank) (f.port - 8) (readSecTag f.bytes).sci = none) : wireVerdict s f = .drop 22 := by
  rw [wireVerdict_secured h hs hp]
  rcases ht with ht | ht
  · exact if_neg (ne_true_of_eq_false ht)
  · rw [ht, ite_self]

theorem wireVerdict_sci {c : Nat} {x : Bind} (ht : secTagOk f.bytes = true)
    (hx : sciLookup (bankOf s f.bank) (f.port - 8) (readSecTag f.bytes).sci = some (c, x)) :
    wireVerdict s f = wireChannel s f c x.wet x.cls f.bytes.length := by
  rw [wireVerdict_secured h hs hp, if_pos ht, hx]

end

/-- A frame that is found to be a channel's goes to that channel's checks, by either way it is found. -/
theorem wireVerdict_bound {c e k n : Nat} (h : Spec.bound s f c e k n) : wireVerdict s f = wireChannel s f c e k n := by
  obtain ⟨hw, v, x, hv, ha, rfl, hc, hdir, hwet, rfl, rfl, rfl⟩ | ⟨hd, hs, hp, ht, x, hx, rfl, rfl, rfl⟩ := h
  · exact (wireVerdict_wet hw).trans (wirePolicy_protect hv ha hc ⟨hdir, hwet⟩)
  · exact wireVerdict_sci hd hs hp ht hx

/-! The checks of R124 for a channel's frame and for a bypassed one. -/

/-- The limit of a class binds a frame of the encrypt direction alone, where it is not 0. -/
theorem overLimit_iff {e k g : Nat} : overLimit s f e k g = true ↔
    f.port < 8 ∧ classLimit s e k ≠ 0 ∧ classLimit s e k < classCharge s e k + g := by
  simp only [overLimit, frmDir, Bool.and_eq_true, beq_iff_eq, bne_iff_ne, decide_eq_true_eq, and_assoc,
    Nat.div_eq_zero_iff, (by decide : ¬ 8 = 0), false_or]

theorem overLimit_eq_false {e k g : Nat} (h : f.port < 8 → classLimit s e k = 0 ∨ classCharge s e k + g ≤ classLimit s e k) :
    overLimit s f e k g = false := by
  refine Bool.eq_false_iff.2 fun ho => ?_
  obtain ⟨hw, h0, hl⟩ := overLimit_iff.1 ho
  exact (h hw).elim h0 (Nat.not_le.2 hl)

section
variable {c e k n : Nat}

theorem wireChannel_down (h : egressCarries s f e = false) : wireChannel s f c e k n = .down e := by
  simp [wireChannel, h]

variable (he : egressCarries s f e = true)
include he

theorem wireChannel_overQuota (h : quotaOf s f c < chanCharge s c + granulesOf n) : wireChannel s f c e k n = .dropC c 2 := by
  simp [wireChannel, he, h]

variable (hq : chanCharge s c + granulesOf n ≤ quotaOf s f c)
include hq

theorem wireChannel_overLimit (h : overLimit s f e k (granulesOf n) = true) : wireChannel s f c e k n = .dropC c 3 := by
  simp [wireChannel, he, Nat.not_lt.2 hq, h]

theorem wireChannel_passes (h : overLimit s f e k (granulesOf n) = false) :
    wireChannel s f c e k n = .channel c e k (granulesOf n) := by
  simp [wireChannel, he, Nat.not_lt.2 hq, h]

end

section
variable {e k : Nat}

theorem wireBypass_down (h : egressCarries s f e = false) : wireBypass s f e k = .down e := by
  simp [wireBypass, h]

variable (he : egressCarries s f e = true)
include he

theorem wireBypass_overLimit (h : overLimit s f e k (granulesOf f.bytes.length) = true ∨
    256 < bypassCharge s e + granulesOf f.bytes.length) : wireBypass s f e k = .drop 20 := by
  simp only [wireBypass, he, Bool.not_true, Bool.false_eq_true, if_false]
  rcases h with h | h
  · exact if_pos h
  · rw [if_pos h, ite_self]

theorem wireBypass_passes (h : overLimit s f e k (granulesOf f.bytes.length) = false)
    (hb : bypassCharge s e + granulesOf f.bytes.length ≤ 256) : wireBypass s f e k = .bypass e k (granulesOf f.bytes.length) := by
  simp [wireBypass, he, h, Nat.not_lt.2 hb]

end

end

/-- Settles O34: each case names the verdict, by the rule of the policy map or the SecTAG and then the check of R124 that decides,
and the command carries it out. -/
theorem wireDecisions : Obligations.WireDecisions := by
  rintro s dir f b hh hf rfl
  refine ⟨fun i hw h => exec_wireCheck (v := .drop i) hh hf ((wireVerdict_wet hw).trans ?_),
    fun hd hs hp ht => exec_wireCheck hh hf (wireVerdict_no_secTag_or_channel hd hs hp ht),
    fun hd hc hp => exec_wireCheck hh hf (wireVerdict_cell hd hc hp), ?_, ?_⟩
  · obtain ⟨hv, rfl⟩ | ⟨v, hv, ha, rfl⟩ | ⟨v, hv, ha, hc, rfl⟩ := h
    · exact wirePolicy_unmatched hv
    · exact wirePolicy_discard hv ha
    · exact wirePolicy_protect_unbound hv ha hc
  · rintro c e k n g h rfl
    have act {r : WireV} (hr : wireChannel s f c e k n = r) := exec_wireCheck hh hf ((wireVerdict_bound h).trans hr)
    exact ⟨fun he => act (wireChannel_down he), fun he hq => act (wireChannel_overQuota he hq),
      fun he hq hw h0 hl => act (wireChannel_overLimit he hq (overLimit_iff.2 ⟨hw, h0, hl⟩)),
      fun he hq hl => act (wireChannel_passes he hq (overLimit_eq_false hl))⟩
  · rintro v e k g hv ha rfl rfl h
    have hb : wireVerdict s f = wireBypass s f e (vb v 23) := by
      obtain ⟨hw, d, y, hm, hd, rfl⟩ | ⟨hd, hs, hc, rfl, hx⟩ := h
      · exact (wireVerdict_wet hw).trans (wirePolicy_bypass_wet hv ha hw hm hd)
      · exact (wireVerdict_plain hd hs hc).trans (wirePolicy_bypass_dry hv ha hd hx)
    have act {r : WireV} (hr : wireBypass s f e (vb v 23) = r) := exec_wireCheck hh hf (hb.trans hr)
    exact ⟨fun he => act (wireBypass_down he), fun he hl => act (wireBypass_overLimit he (hl.imp_left overLimit_iff.2)),
      fun he hl hg => act (wireBypass_passes he (overLimit_eq_false hl) hg)⟩

end Sys2Proof.Machine
end

section
/-! O55: the state after power-on (R25, R282). -/

namespace Sys2Proof.Machine

/-- Settles O55: the reset state holds every field at the default that Machine/State.lean gives it. -/
theorem resetState : Obligations.ResetState :=
  ⟨by decide +kernel, rfl, rfl, rfl, fun _ => ⟨rfl, rfl, rfl⟩, rfl, rfl, fun _ => rfl⟩

end Sys2Proof.Machine
end

section
/-! Resets (R25, R26, Table 2-5): what a cause clears and keeps, what a release leaves, and what a held reset ignores. -/

namespace Sys2Proof.Machine

/-! What a reset clears and keeps. -/

/-- A burn that a reset cuts short touches the fuses and the supply of free values alone (R39). -/
theorem burnCut_frame (s : State) :
    burnCut s = { s with fuses := (burnCut s).fuses, freeCtr := (burnCut s).freeCtr } := by
  unfold burnCut
  split <;> rfl

theorem burnCut_sensed (s : State) : (burnCut s).fuses.sensed = s.fuses.sensed := by
  unfold burnCut
  split <;> rfl

theorem clearAll_loft (cold : Bool) (s : State) : (clearAll cold s).loft = s.loft := by
  show (burnCut s).loft = s.loft
  rw [burnCut_frame]

theorem clearAll_nand (cold : Bool) (s : State) : (clearAll cold s).nand = s.nand := by
  show (burnCut s).nand = s.nand
  rw [burnCut_frame]

theorem clearAll_pending (cold : Bool) (s : State) : (clearAll cold s).pending = s.pending := by
  show (burnCut s).pending = s.pending
  rw [burnCut_frame]

theorem clearAll_regs (cold : Bool) (s : State) : (clearAll cold s).regs = s.regs.filter fun e => keptReg e.1 := by
  show (burnCut s).regs.filter _ = _
  rw [burnCut_frame]

theorem clearAll_sensed (cold : Bool) (s : State) : (clearAll cold s).fuses.sensed = s.fuses.sensed := burnCut_sensed s

theorem clearAll_pstate_sleep (cold : Bool) {s : State} (h : s.clk.pstate = .sleep) : (clearAll cold s).clk.pstate = .sleep := by
  have hb : (burnCut s).clk.pstate = .sleep := by rw [burnCut_frame, h]
  show (match (burnCut s).clk.pstate with | .sleep => PState.sleep | .off => .off | _ => .run) = .sleep
  rw [hb]

/-- The bit of a cause that is set reads 1, where the table of registers lists RCAUSE at most once (R26). -/
theorem rbit_setCause {b : Nat} {s : State} (h : ListedOnce s.regs 0x400A0004) (hb : b < 32) :
    rbit (setCause b s) 0x400A0004 b = true := by
  have hr : reg (setCause b s) 0x400A0004 = wsetBit (reg s 0x400A0004) b true := reg_setReg_of_listedOnce _ h
  rw [rbit, hr, wbit_wsetBit hb, if_pos rfl]

theorem listedOnce_clearAll (cold : Bool) {s : State} (h : (s.regs.map (·.1)).Nodup) (a : Nat) :
    ListedOnce (clearAll cold s).regs a := by
  rw [clearAll_regs]
  exact listedOnce_of_nodup (h.sublist (List.filter_sublist.map _)) a

theorem resetCause_kept (cold : Bool) (b : Nat) (s : State) : (resetCause cold b s).loft = s.loft ∧
    (resetCause cold b s).nand = s.nand ∧ (resetCause cold b s).pending = s.pending :=
  ⟨clearAll_loft (cold || (s.clk.held && s.clk.cold)) s, clearAll_nand (cold || (s.clk.held && s.clk.cold)) s,
    clearAll_pending (cold || (s.clk.held && s.clk.cold)) s⟩

/-! Lows of the reset inputs, losses of the clock and SWRST. -/

theorem lowActs_of_le {min ns : Nat} (act : State → State) {s : State} (hp : s.clk.pstate ≠ .off) (h50 : 50 ≤ min)
    (h : min ≤ ns) : lowActs min ns act s = act s := by
  rw [lowActs, if_neg (not_or.2 ⟨hp, by omega⟩), if_pos h]

theorem lowActs_short {ns : Nat} (min : Nat) (act : State → State) (s : State) (h : ns < 50) : lowActs min ns act s = s :=
  if_pos (.inr h)

theorem exec_clkLoss {s : State} (h0 : s.clk.pstate ≠ .off) (h1 : s.clk.pstate ≠ .sleep) :
    exec .clkLoss s = .next (modClk (fun c => { c with refclkOk := false }) (resetCause true 6 s)) := by
  refine congrArg Host.Outcome.next ?_
  split
  · contradiction
  · contradiction
  · rfl

theorem exec_swrst {s : State} (key : Word) (hh : s.clk.held = false) : exec (.swrst key) s = .next (swrstWrite key s) :=
  congrArg Host.Outcome.next (live_run _ hh)

theorem swrstWrite_acts {s : State} {key : Word} (hk : wfld key 0 16 = 0xA5C3)
    (h : s.fault.mode ≠ 2 ∨ sentinelRuns s = true) : swrstWrite key s = resetCause false 4 s :=
  if_pos ⟨hk, fun hm => h.resolve_left (not_not_intro hm)⟩

theorem swrstWrite_ignored {s : State} {key : Word}
    (h : wfld key 0 16 ≠ 0xA5C3 ∨ (s.fault.mode = 2 ∧ sentinelRuns s = false)) : swrstWrite key s = s := by
  refine if_neg fun ⟨hk, hm⟩ => ?_
  obtain hk' | ⟨h2, hr⟩ := h
  · exact hk' hk
  · exact Bool.false_ne_true (hr.symm.trans (hm h2))

/-! Release (Table 2-6). -/

/-- `t` is `s` but for registers, the Event Controller, the doors, the outputs and the Loft. -/
def SameCore (s t : State) : Prop :=
  ∃ regs evc doors out loft, t = { s with regs := regs, evc := evc, doors := doors, out := out, loft := loft }

theorem SameCore.raise {s t : State} (n : Nat) (h : SameCore s t) : SameCore s (raise n t) := by
  obtain ⟨_, _, _, _, _, rfl⟩ := h
  rw [raise_frame]
  exact ⟨_, _, _, _, _, rfl⟩

theorem SameCore.putBit {s t : State} (a i : Nat) (b : Bool) (h : SameCore s t) : SameCore s (putBit a i b t) := by
  obtain ⟨_, _, _, _, _, rfl⟩ := h
  exact ⟨_, _, _, _, _, rfl⟩

theorem SameCore.modLoft {s t : State} (f : Loft → Loft) (h : SameCore s t) : SameCore s (modLoft f t) := by
  obtain ⟨_, _, _, _, _, rfl⟩ := h
  exact ⟨_, _, _, _, _, rfl⟩

/-- What the Loft does at a release leaves the core side alone (R318, R319). -/
theorem sameCore_loftRelease (s : State) : SameCore s (loftRelease s) := by
  have h0 : SameCore s s := ⟨_, _, _, _, _, rfl⟩
  unfold loftRelease
  extract_lets ind s1 s2
  have h1 : SameCore s s1 :=
    List.foldlRecOn ind _ h0 fun _ hx _ _ => ((hx.modLoft _).putBit _ _ _).raise 10
  have h2 : SameCore s s2 := List.foldlRecOn s.loft.latched _ h1 fun _ hx n _ => hx.raise n
  exact h2.modLoft _

theorem exec_resetRelease_idle {s : State} (h : s.clk.held = false ∨ s.loft.pwrEn = false ∨ s.clk.thermHold = true) :
    exec .resetRelease s = .next s :=
  congrArg Host.Outcome.next (if_neg (by rcases h with h | h | h <;> simp [h]))

/-- A release ends the reset, senses the fuses, derives V0 and starts the boot ROM; the core and memory stay as the reset has
left them (R36, R37, Table 2-6). -/
theorem exec_resetRelease_releases {s : State} (h1 : s.clk.held = true) (h2 : s.loft.pwrEn = true)
    (h3 : s.clk.thermHold = false) (h4 : s.clk.pstate ≠ .off) :
    ∃ t : State, exec .resetRelease s = .next t ∧ t.clk.held = false ∧ t.clk.pstate = .run ∧ t.clk.pllLock = true ∧
      t.fuses.sensed = s.fuses.blown ∧ t.idn.booting = true ∧ t.keys.v0 = deriveV0 kekSeed ∧ t.core = s.core ∧
      t.mem = s.mem := by
  refine ⟨_, congrArg Host.Outcome.next (if_pos (by simp [h1, h2, h3, h4])), ?_⟩
  extract_lets s1 _ s2 _ _ _ s3
  have hs1 : s1.fuses.blown = s.fuses.blown ∧ s1.core = s.core ∧ s1.mem = s.mem := by
    unfold s1
    split <;> exact ⟨rfl, rfl, rfl⟩
  obtain ⟨_, _, _, _, _, ht⟩ := sameCore_loftRelease (wdogReload s3)
  rw [ht]
  exact ⟨rfl, rfl, rfl, hs1.1, rfl, rfl, hs1.2⟩

/-! A held reset (R25). -/

/-- A command outside those that act in a reset has its effect under `live`. -/
theorem exec_eq_live {i : Instr} (s : State) (h : Spec.actsInReset i = false) :
    ∃ f : State → State, exec i s = .next (live s f) ∨ exec i s = done (live s f) := by
  cases i <;> first | exact ⟨_, .inl rfl⟩ | exact ⟨_, .inr rfl⟩ | nomatch h

theorem exec_held {i : Instr} {s : State} (hh : s.clk.held = true) (hu : s.undef = false) (h : Spec.actsInReset i = false) :
    exec i s = .next s := by
  obtain ⟨f, he | he⟩ := exec_eq_live s h
  · rw [he, live_held f hh]
  · rw [he, live_held f hh, done_next hu]

/-- Settles O47: the causes by what `resetCause` clears and keeps, the release by what the Loft leaves alone, and the held reset
by `live`. -/
theorem resetEvents : Obligations.ResetEvents := by
  refine ⟨⟨fun s ns hp => ⟨fun h => ?_, fun h => ?_, fun h => ?_, fun h => ⟨?_, ?_, ?_⟩⟩, ?_, ?_, ?_, ?_, ?_⟩, ?_⟩
  · exact congrArg Host.Outcome.next (lowActs_of_le _ hp (by decide) h)
  · exact congrArg Host.Outcome.next (lowActs_of_le _ hp (by decide) h)
  · exact congrArg Host.Outcome.next (lowActs_of_le _ hp (by decide) h)
  · exact congrArg Host.Outcome.next (lowActs_short _ _ s h)
  · exact congrArg Host.Outcome.next (lowActs_short _ _ s h)
  · exact congrArg Host.Outcome.next (lowActs_short _ _ s h)
  · exact fun s h0 h1 => ⟨_, rfl, exec_clkLoss h0 h1⟩
  · intro s key hh
    rw [exec_swrst key hh]
    exact ⟨fun hk h => congrArg _ (swrstWrite_acts hk h), fun h => congrArg _ (swrstWrite_ignored h)⟩
  · rintro s cold b t hb rfl
    exact ⟨fun h => rbit_setCause (listedOnce_clearAll (cold || (s.clk.held && s.clk.cold)) h _) (by omega), rfl, rfl, rfl, rfl,
      rfl, rfl, rfl, rfl, rfl, rfl, rfl, rfl, resetCause_kept cold b s⟩
  · exact fun s h => exec_resetRelease_idle h
  · exact fun s h1 h2 h3 h4 => exec_resetRelease_releases h1 h2 h3 h4
  · exact fun i s hh hu h => exec_held hh hu h

end Sys2Proof.Machine
end

section
/-! The Loft (R28, R315–R322): its resets, the crystal's count, the write queue, tamper inputs and the button. -/

namespace Sys2Proof.Machine

/-! The crystal's count without a trim (R317). -/

theorem trim_of_zero {s : State} (h : rfld s 0x400E0024 0 10 = 0) : trim s = 0 := by
  show toSigned 10 (rfld s 0x400E0024 0 10) = 0
  rw [h]
  rfl

theorem spanCounts_zero {x : Nat} (h : x ≤ 2 ^ 20) : spanCounts 0 x = x := by
  rw [spanCounts, if_pos (Int.le_refl 0)]
  exact Nat.min_eq_left h

theorem rtcCounts_zero {pos : Nat} (k : Nat) (h : pos < 2 ^ 20) : rtcCounts 0 pos k = k := by
  have hm : (pos + k) % 2 ^ 20 < 2 ^ 20 := Nat.mod_lt _ (Nat.two_pow_pos 20)
  rw [rtcCounts, spanCounts_zero (Nat.le_refl _), spanCounts_zero (Nat.le_of_lt hm), spanCounts_zero (Nat.le_of_lt h), Nat.div_add_mod']
  exact Nat.add_sub_cancel_left pos k

/-- No crystal cycle counts nothing, whatever the trim. -/
theorem rtcCounts_no_cycle (c : Int) {pos : Nat} (h : pos < 2 ^ 20) : rtcCounts c pos 0 = 0 := by
  rw [rtcCounts, Nat.add_zero, Nat.div_eq_of_lt h, Nat.mod_eq_of_lt h, Nat.zero_mul, Nat.zero_add, Nat.sub_self]

section
variable {s : State} (ht : rfld s 0x400E0024 0 10 = 0) (hp : s.loft.xtalPos < 2 ^ 20)
include ht hp

theorem cyclesLeft_of_no_trim (hs : s.loft.rtcSub < 32768) : cyclesLeft s = 32768 - s.loft.rtcSub := by
  have hf : (List.range 1025).find? (fun i => decide (32768 - s.loft.rtcSub ≤
      rtcCounts (trim s) s.loft.xtalPos (32768 - s.loft.rtcSub + i - 512))) = some 512 := by
    simp only [trim_of_zero ht, rtcCounts_zero _ hp]
    rw [List.find?_range_eq_some]
    refine ⟨decide_eq_true (by omega), List.mem_range.2 (by decide), fun j hj => ?_⟩
    rw [Bool.not_eq_true', decide_eq_false_iff_not]
    omega
  show 32768 - s.loft.rtcSub + ((List.range 1025).find? _).getD 512 - 512 = _
  rw [hf]
  exact Nat.add_sub_cancel _ _

theorem countCrystal_of_no_trim (k : Nat) : countCrystal k s =
    modLoft (fun l => { l with rtcSub := l.rtcSub + k, xtalPos := (l.xtalPos + k) % 2 ^ 20 }) s := by
  rw [countCrystal, modLoft, modLoft, trim_of_zero ht, rtcCounts_zero _ hp]

end

theorem countCrystal_no_cycle {s : State} (hp : s.loft.xtalPos < 2 ^ 20) : countCrystal 0 s = s := by
  rw [countCrystal, modLoft, rtcCounts_no_cycle _ hp, Nat.add_zero, Nat.add_zero, Nat.mod_eq_of_lt hp]

theorem crystalRuns_iff {s : State} : crystalRuns s = true ↔ s.loft.xtalRun = true ∧ s.clk.pstate ≠ .off := by
  rw [crystalRuns, Bool.and_eq_true, bne_iff_ne]

theorem crystalRuns_stopped {s : State} (h : s.loft.xtalRun = false) : crystalRuns s = false := by
  rw [crystalRuns, h, Bool.false_and]

theorem setSeconds_no_alarm (sec sub : Nat) {s : State} (h : rbit s 0x400E0008 0 = false) :
    setSeconds sec sub s = modLoft (fun l => { l with rtcSec := sec % 2 ^ 32, rtcSub := sub }) s := by
  refine if_neg ?_
  have hr : rbit s (loftBase + 0x008) 0 = false := h
  show ¬ (rbit s (loftBase + 0x008) 0 && _) = true
  rw [hr, Bool.false_and]
  exact Bool.false_ne_true

/-! Resets of the Loft, removal of VDD_AON, forced off. -/

theorem exec_loftReset (s : State) : ∃ t : State, exec .loftReset s = .next t ∧ t.loft = {} ∧ t.clk.held = true ∧
    t.clk.pstate = .run ∧ reg t 0x400A0004 = 1#32 ∧ t.mem = [] ∧ t.fuses.sensed = s.fuses.sensed :=
  ⟨_, rfl, rfl, rfl, rfl, rfl, rfl, clearAll_sensed true s⟩

theorem exec_forcedOff {s : State} (hb : s.loft.btn = true) (ho : rbit s 0x400E0008 2 = true) (hp : s.loft.pwrEn = true)
    (hx : crystalRuns s = true) : ∃ t : State, exec .forcedOff s = .next t ∧ t.loft.pwrEn = false ∧ t.clk.held = true ∧
      t.clk.pstate = .sleep ∧ rbit t 0x400E0028 6 = true ∧ t.mem = [] := by
  have ho' : rbit s (loftBase + 0x008) 2 = true := ho
  refine ⟨_, congrArg Host.Outcome.next (if_pos (by rw [hb, ho', hp, hx]; rfl)), rfl, rfl, rfl, ?_, rfl⟩
  exact rbit_setReg_of_ne_reset _ (by decide) ((wbit_wsetBit (by decide)).trans (if_pos rfl))

/-! The write queue (R316). -/

theorem exec_loftWriteApply_empty {s : State} (h : s.loft.wq = []) : exec .loftWriteApply s = .next s := by
  refine congrArg Host.Outcome.next ?_
  rw [h]

theorem exec_loftWriteApply {s : State} {w : LoftWrite} {r : List LoftWrite} (h : s.loft.wq = w :: r) :
    exec .loftWriteApply s = .next (if crystalRuns s then
      loftApply w.offset w.mask w.value (modLoft (fun l => { l with wq := r }) s) else s) := by
  refine congrArg Host.Outcome.next ?_
  rw [h]

theorem exec_rtcSet {s : State} (v : Word) (hh : s.clk.held = false) : exec (.rtcSet v) s = .next (loftWrite 0x01C v s) :=
  congrArg Host.Outcome.next (live_run _ hh)

/-! The RTC (R317). -/

/-- The RTC at the end of its second: RTC_SEC counts, RTC_SUB starts anew, the place in the span goes on by what was left. -/
def nextSecond (s : State) : State :=
  modLoft (fun l => { l with
    rtcSec := (l.rtcSec + 1) % 2 ^ 32, rtcSub := 0, xtalPos := (l.xtalPos + (32768 - l.rtcSub)) % 2 ^ 20 }) s

section
variable {s : State} (ht : rfld s 0x400E0024 0 10 = 0) (hp : s.loft.xtalPos < 2 ^ 20) (hs : s.loft.rtcSub < 32768)
include ht hp hs

theorem setSeconds_cyclesLeft (ha : rbit s 0x400E0008 0 = false) :
    setSeconds (s.loft.rtcSec + 1) ((countCrystal (cyclesLeft s) s).loft.rtcSub - 32768) (countCrystal (cyclesLeft s) s) =
      nextSecond s := by
  rw [cyclesLeft_of_no_trim ht hp hs, countCrystal_of_no_trim ht hp, setSeconds_no_alarm _ _ (by exact ha), modLoft_loft,
    show s.loft.rtcSub + (32768 - s.loft.rtcSub) - 32768 = 0 by omega]
  rfl

theorem exec_rtcSecond (hx : crystalRuns s = true) (ha : rbit s 0x400E0008 0 = false) : exec .rtcSecond s =
    .next (if rbit s 0x400E0008 1 && !s.clk.held then raise 1 (nextSecond s) else nextSecond s) := by
  refine congrArg Host.Outcome.next ((if_neg (ne_false_of_eq_true hx)).trans ?_)
  dsimp only
  rw [setSeconds_cyclesLeft ht hp hs ha]
  rfl

/-- The cycles that have passed fall short of the second's end (R20). -/
theorem cyclesPassed_lt (hx : crystalRuns s = true) : s.loft.rtcSub + cyclesPassed s < 32768 := by
  have hlt : cyclesPassed s < 32768 - s.loft.rtcSub := by
    rw [cyclesPassed, if_pos hx, cyclesLeft_of_no_trim ht hp hs, Nat.max_eq_right (by omega)]
    exact Nat.mod_lt _ (by omega)
  omega

end

theorem exec_rtcSubRead {s : State} (hh : s.clk.held = false) : exec .rtcSubRead s =
    .next (freeNext (modLoft (fun l => { l with rtcSecL := l.rtcSec })
      (emit (.readData ((countCrystal (cyclesPassed s) s).loft.rtcSub % 2 ^ 32)) (countCrystal (cyclesPassed s) s)))) := by
  refine congrArg Host.Outcome.next ((live_run _ hh).trans ?_)
  show loftReadEffect 0x010 (emit (.readData (w32 (countCrystal (cyclesPassed s) s).loft.rtcSub).toNat) s) = _
  rw [w32, BitVec.toNat_ofNat]
  rfl

theorem cyclesPassed_stopped {s : State} (h : s.loft.xtalRun = false) : cyclesPassed s = 0 := by
  rw [cyclesPassed, crystalRuns_stopped h, if_neg Bool.false_ne_true]

/-! Tamper inputs and the button (R318, R319, R321). -/

/-- What a tamper sample does to an input that has resolved, or to one that has not by a sample within the band. -/
theorem exec_tamperSample {s : State} (n : Fin 4) (level : BandLevel) (hx : crystalRuns s = true) :
    let st := s.loft.tstate.getD n 2
    let side := match level with | .above => 0 | .below => 1 | .within => 2
    (st ≠ 2 → (side = 2 ∨ side = st) → exec (.tamperSample n level) s = .next s) ∧
    (st ≠ 2 → side ≠ 2 → side ≠ st → exec (.tamperSample n level) s =
      .next (stampTamper n (modLoft (fun l => { l with
        tstate := listSet l.tstate n side, streak := listSet l.streak n (2, 0) }) s))) ∧
    (st = 2 → side = 2 → exec (.tamperSample n level) s =
      .next (modLoft (fun l => { l with streak := listSet l.streak n (2, 0) }) s)) := by
  intro st side
  have hr : ¬ crystalRuns s = false := ne_false_of_eq_true hx
  refine ⟨fun h2 h => ?_, fun h2 h3 h4 => ?_, fun h2 h3 => ?_⟩
  · exact congrArg Host.Outcome.next ((if_neg hr).trans ((if_neg h2).trans (if_pos h)))
  · exact congrArg Host.Outcome.next ((if_neg hr).trans ((if_neg h2).trans (if_neg (not_or.2 ⟨h3, h4⟩))))
  · refine congrArg Host.Outcome.next ((if_neg hr).trans ((if_pos h2).trans ?_))
    cases level with
    | above => exact absurd h3 (by decide : (0 : Nat) ≠ 2)
    | below => exact absurd h3 (by decide : (1 : Nat) ≠ 2)
    | within => rfl

theorem exec_tamperEdge {s : State} (n : Fin 4) (rising : Bool) (hp : s.clk.pstate ≠ .off) (h : s.loft.tstate.getD n 2 ≠ 2) :
    exec (.tamperEdge n rising) s = .next (loftRaise (2 + (if rising then 4 + n.val else n.val))
      (stampTamper n (putBit 0x400E0004 (if rising then 4 + n.val else n.val) true s))) :=
  congrArg Host.Outcome.next (if_neg (not_or.2 ⟨hp, h⟩))

theorem exec_pwrbtnPress {s : State} {pressed : Bool} (hx : crystalRuns s = true) (hb : s.loft.btn ≠ pressed)
    (hh : s.clk.held = false) : exec (.pwrbtnPress pressed) s =
      .next (raise (if pressed then 11 else 12) (modLoft (fun l => { l with btn := pressed, longDone := false }) s)) :=
  congrArg Host.Outcome.next ((if_neg (not_or.2 ⟨ne_false_of_eq_true hx, hb⟩)).trans (if_neg (ne_true_of_eq_false hh)))

theorem exec_pwrbtnLong {s : State} (hb : s.loft.btn = true) (hl : s.loft.longDone = false) (hx : crystalRuns s = true)
    (hh : s.clk.held = false) :
    exec .pwrbtnLong s = .next (raise 13 (modLoft (fun l => { l with longDone := true }) s)) :=
  congrArg Host.Outcome.next ((if_pos (by rw [hb, hl, hx]; rfl)).trans (if_neg (ne_true_of_eq_false hh)))

theorem exec_pwrEnRise {s : State} (hp : s.loft.pwrEn = false) (hs : s.clk.pstate = .sleep) (hx : crystalRuns s = true)
    (hw : s.loft.wakeHeld = true) :
    exec .pwrEnRise s = .next (modLoft (fun l => { l with pwrEn := true, wakeHeld := false, sleepExit := true }) s) :=
  congrArg Host.Outcome.next (if_pos (by rw [hp, hs, hx, hw]; rfl))

/-- Settles O49: event by event, the RTC by its count without a trim. -/
theorem loftEvents : Obligations.LoftEvents := by
  rintro s loft rfl
  refine ⟨exec_loftReset s, ⟨_, rfl, rfl, rfl, rfl, rfl⟩, fun hp h => ?_, fun hh => ?_, exec_loftWriteApply_empty,
    fun w r h => ⟨fun hx hp => ?_, fun hx => ?_⟩, fun hx => ?_, ?_, fun v hh => ⟨fun h => ?_, fun h => ?_⟩,
    fun hh hx hp => ?_, fun hh hx hp ht hpos hs => ?_, exec_tamperEdge, fun hp => ?_, ?_, fun pressed hp hx hb hh => ?_, exec_pwrbtnLong,
    exec_forcedOff, fun hp hs hx hw => ?_⟩
  · exact congrArg Host.Outcome.next (if_neg (not_or.2 ⟨hp, fun ⟨h1, h2⟩ => h.elim (absurd h1) (ne_false_of_eq_true h2)⟩))
  · exact congrArg Host.Outcome.next (live_run _ hh)
  · rw [exec_loftWriteApply h, if_pos (crystalRuns_iff.2 ⟨hx, hp⟩)]
    rfl
  · rw [exec_loftWriteApply h, crystalRuns_stopped hx, if_neg Bool.false_ne_true]
  · exact congrArg Host.Outcome.next (if_pos (crystalRuns_stopped hx))
  · rintro y rfl ht hpos hs hx hp ha
    have he := exec_rtcSecond ht hpos hs (crystalRuns_iff.2 ⟨hx, hp⟩) ha
    refine ⟨fun h1 hh => he.trans ?_, fun h => he.trans ?_⟩
    · rw [h1, hh]
      rfl
    · rcases h with h | h
      · rw [h]
        rfl
      · rw [h, Bool.not_true, Bool.and_false]
        rfl
  · exact (exec_rtcSet v hh).trans (congrArg _ (if_pos h))
  · exact (exec_rtcSet v hh).trans (congrArg _ (if_neg (Nat.not_lt.2 h)))
  · rw [exec_rtcSubRead hh, cyclesPassed_stopped hx, countCrystal_no_cycle hp]
    rfl
  · have hr := crystalRuns_iff.2 ⟨hx, hp⟩
    have hlt := cyclesPassed_lt ht hpos hs hr
    refine ⟨cyclesPassed s, hlt, ?_⟩
    rw [exec_rtcSubRead hh, countCrystal_of_no_trim ht hpos, modLoft_loft, Nat.mod_eq_of_lt (Nat.lt_trans hlt (by decide))]
    rfl
  · exact congrArg Host.Outcome.next (if_neg hp)
  · rintro n level st side hp hx rfl rfl
    exact exec_tamperSample n level (crystalRuns_iff.2 ⟨hx, hp⟩)
  · exact exec_pwrbtnPress (crystalRuns_iff.2 ⟨hx, hp⟩) hb hh
  · exact exec_pwrEnRise hp hs (crystalRuns_iff.2 ⟨hx, by rw [hs]; decide⟩) hw

end Sys2Proof.Machine
end

section
/-! Power states, throttling, droop and the clocks (R21, R29–R34, R389, R390). -/

namespace Sys2Proof.Machine

/-! What a change of a port leaves of the root. -/

@[simp] theorem raise_clk (n : Nat) (s : State) : (raise n s).clk = s.clk := by rw [raise_frame]

@[simp] theorem raiseIf_clk (b : Bool) (n : Nat) (s : State) : (raiseIf b n s).clk = s.clk := by
  cases b
  · rfl
  · exact raise_clk n s

@[simp] theorem calSettle_clk (d : Nat) (s : State) : (calSettle d s).clk = s.clk := by
  unfold calSettle
  extract_lets h c
  split
  · rfl
  · split <;> rfl

@[simp] theorem loseSync_clk (d : Nat) (s : State) : (loseSync d s).clk = s.clk := rfl

section
variable {f : State → State} (hf : ∀ x : State, (f x).clk = x.clk)
include hf

theorem calChange_clk (d : Nat) (s : State) : (calChange d f s).clk = s.clk := by
  rw [calChange, calUpdate, raiseIf_clk, calSettle_clk, hf]

theorem portCal_clk (q : Nat) (lose : Bool) (s : State) : (portCal q lose f s).clk = s.clk := by
  unfold portCal
  split
  · exact hf s
  · refine calChange_clk (fun x => ?_) _ s
    split
    · rw [loseSync_clk, hf]
    · exact hf x

theorem lineChange_clk (q : Nat) (s : State) : (lineChange q f s).clk = s.clk := by
  unfold lineChange
  extract_lets s1
  split
  · exact hf s
  · exact hf s

end

@[simp] theorem portTo_clk (q st : Nat) (s : State) : (portTo q st s).clk = s.clk := by
  unfold portTo
  extract_lets p leaves s1 s2
  have h1 : s1.clk = s.clk := lineChange_clk (portCal_clk (setPort_clk q (portIn st p)) q leaves) q s
  have h2 : s2.clk = s1.clk := by
    unfold s2
    split <;> rfl
  split
  · rfl
  · rw [raise_clk, h2, h1]

@[simp] theorem portClose_clk (q : Nat) (s : State) : (portClose q s).clk = s.clk := by
  unfold portClose
  split
  · exact portTo_clk q _ s
  · rfl

theorem portsDim_clk (s : State) : (portsDim s).clk = s.clk := by
  unfold portsDim
  refine List.foldlRecOn (motive := fun x : State => x.clk = s.clk) _ _ rfl fun x hx q _ => Eq.trans ?_ hx
  split
  · exact portTo_clk q _ x
  · exact portClose_clk q x

/-! Requests for a power state (R29). -/

theorem exec_psreqRun {s : State} (hh : s.clk.held = false) : exec .psreqRun s = .next (psreqWrite 0#32 s) :=
  congrArg Host.Outcome.next (live_run _ hh)
theorem exec_psreqDim {s : State} (hh : s.clk.held = false) : exec .psreqDim s = .next (psreqWrite 1#32 s) :=
  congrArg Host.Outcome.next (live_run _ hh)
theorem exec_psreqNap {s : State} (hh : s.clk.held = false) : exec .psreqNap s = .next (psreqWrite 2#32 s) :=
  congrArg Host.Outcome.next (live_run _ hh)
theorem exec_psreqSleep {s : State} (hh : s.clk.held = false) : exec .psreqSleep s = .next (psreqWrite 3#32 s) :=
  congrArg Host.Outcome.next (live_run _ hh)

theorem psreqWrite_busy (v : Word) {s : State} (h : s.clk.psBusy = true) : psreqWrite v s = s := if_pos (.inl h)

section
variable {s : State} (hb : s.clk.psBusy = false)
include hb

theorem psreqWrite_run_run (hp : s.clk.pstate = .run) : psreqWrite 0#32 s = setRegN 0x400A000C 0 s := by
  refine (if_neg (not_or.2 ⟨ne_true_of_eq_false hb, by decide⟩)).trans ?_
  rw [hp]
  rfl

/-- From RUN a request for a lower state starts the drain into DIM. -/
theorem psreqWrite_run_lower {v : Word} {n : Nat} (hp : s.clk.pstate = .run) (hn : wfld v 0 3 = n)
    (h : n = 1 ∨ n = 2 ∨ n = 3) : psreqWrite v s =
      modClk (fun c => { c with psBusy := true, dimWanted := true, napWanted := n == 2, sleepWanted := n == 3 })
        (setRegN 0x400A000C n s) := by
  refine (if_neg (not_or.2 ⟨ne_true_of_eq_false hb, by omega⟩)).trans ?_
  rw [hn, hp]
  rcases h with rfl | rfl | rfl <;> rfl

theorem psreqWrite_dim_run (hp : s.clk.pstate = .dim) : psreqWrite 0#32 s =
    modClk (fun c => { c with psBusy := true, runWanted := true, napWanted := false }) (setRegN 0x400A000C 0 s) := by
  refine (if_neg (not_or.2 ⟨ne_true_of_eq_false hb, by decide⟩)).trans ?_
  rw [hp]
  have hn : napExit (setRegN 0x400A000C 0 s) = setRegN 0x400A000C 0 s := if_neg (by rw [setRegN_clk, hp]; decide)
  exact congrArg (modClk _) hn

theorem psreqWrite_dim_dim (hp : s.clk.pstate = .dim) : psreqWrite 1#32 s = setRegN 0x400A000C 1 s := by
  refine (if_neg (not_or.2 ⟨ne_true_of_eq_false hb, by decide⟩)).trans ?_
  rw [hp]
  rfl

end

/-! The drain into DIM, the way back to RUN and the entry to SLEEP (R29–R31). -/

theorem dimDraining_iff {s : State} : dimDraining s = true ↔ s.clk.dimWanted = true ∧ s.clk.draining = true := by
  rw [dimDraining, Bool.and_eq_true]

theorem pendingPorts_isEmpty_iff {s : State} : (pendingPorts s).isEmpty = true ↔ ∀ d < 8, (cal s d).pend = none := by
  simp [pendingPorts, List.filter_eq_nil_iff]

theorem exec_dimDrainEnd {s : State} (hh : s.clk.held = false) : exec .dimDrainEnd s =
    .next (if dimDraining s && s.mach.frames.isEmpty && (pendingPorts s).isEmpty then dimReached s else s) :=
  congrArg Host.Outcome.next (live_run _ hh)

theorem dimDrained_iff {s : State} : (dimDraining s && s.mach.frames.isEmpty && (pendingPorts s).isEmpty) = true ↔
    s.clk.dimWanted = true ∧ s.clk.draining = true ∧ s.mach.frames = [] ∧ ∀ d < 8, (cal s d).pend = none := by
  rw [Bool.and_eq_true, Bool.and_eq_true, dimDraining_iff, pendingPorts_isEmpty_iff, List.isEmpty_iff, and_assoc, and_assoc]

/-- The drain has not ended while a frame is left or some frame's cells are still to come. -/
theorem exec_dimDrainEnd_waits {s : State} (hh : s.clk.held = false) (h : s.clk.dimWanted = false ∨ s.clk.draining = false ∨
    s.mach.frames ≠ [] ∨ ∃ d < 8, (cal s d).pend ≠ none) : exec .dimDrainEnd s = .next s := by
  refine (exec_dimDrainEnd hh).trans (congrArg _ (if_neg fun hd => ?_))
  obtain ⟨hw, hdr, hf, hc⟩ := dimDrained_iff.1 hd
  obtain h | h | h | ⟨d, h8, h⟩ := h
  · exact Bool.false_ne_true (h.symm.trans hw)
  · exact Bool.false_ne_true (h.symm.trans hdr)
  · exact h hf
  · exact h (hc d h8)

/-- On the way to SLEEP, DIM goes on with the stop of the Vat. -/
theorem dimReached_sleep {s : State} (h : s.clk.sleepWanted = true) : dimReached s = vatStop (portsDim
    (modClk (fun c => { c with pstate := .dim, dimWanted := false, draining := false, psBusy := true }) s)) := by
  unfold dimReached
  extract_lets s1
  have h1 : s1.clk.sleepWanted = true := by
    unfold s1
    rw [portsDim_clk]
    exact h
  refine (if_pos h1).trans (congrArg (fun x => vatStop (portsDim x)) ?_)
  rw [modClk, modClk, h]

theorem exec_dimDrainEnd_sleep {s : State} (hh : s.clk.held = false)
    (hd : (dimDraining s && s.mach.frames.isEmpty && (pendingPorts s).isEmpty) = true) (hs : s.clk.sleepWanted = true) :
    exec .dimDrainEnd s = .next (vatStop (portsDim
      (modClk (fun c => { c with pstate := .dim, dimWanted := false, draining := false, psBusy := true }) s))) := by
  rw [exec_dimDrainEnd hh, if_pos hd, dimReached_sleep hs]

theorem exec_dimDrainTimeout {s : State} (hh : s.clk.held = false) : exec .dimDrainTimeout s = .next (
    if dimDraining s && decide (s.clk.drainFrom + 625000 ≤ nowP s) then
      dimReached ((pendingPorts s).foldl (fun x d => dimPending d x) (s.mach.frames.foldl (fun x f => dimDiscard f x) s))
    else s) := congrArg Host.Outcome.next (live_run _ hh)

theorem exec_dimDrainTimeout_early {s : State} (hh : s.clk.held = false)
    (h : s.clk.dimWanted = false ∨ s.clk.draining = false ∨ nowP s < s.clk.drainFrom + 625000) :
    exec .dimDrainTimeout s = .next s := by
  refine (exec_dimDrainTimeout hh).trans (congrArg _ (if_neg fun hd => ?_))
  obtain ⟨hd, ht⟩ := Bool.and_eq_true_iff.1 hd
  obtain ⟨hw, hdr⟩ := dimDraining_iff.1 hd
  obtain h | h | h := h
  · exact Bool.false_ne_true (h.symm.trans hw)
  · exact Bool.false_ne_true (h.symm.trans hdr)
  · exact absurd (of_decide_eq_true ht) (Nat.not_le.2 h)

theorem exec_dimExitDone {s : State} (hh : s.clk.held = false) (hw : s.clk.runWanted = true) (hp : s.clk.pstate = .dim)
    (hq : ∀ q : Nat, q < 16 → (port s q).state ≠ 6) : exec .dimExitDone s =
      .next (modClk (fun c => { c with pstate := .run, psBusy := false, runWanted := false, admitFrom := true }) s) := by
  refine congrArg Host.Outcome.next ((live_run _ hh).trans (if_pos ?_))
  have ha : (List.range 16).all (fun q => (port s q).state != psDim) = true :=
    List.all_eq_true.2 fun q h => bne_iff_ne.2 (hq q (List.mem_range.1 h))
  rw [hw, hp, ha]
  rfl

theorem exec_sleepEntryDone {s : State} (hh : s.clk.held = false) : exec .sleepEntryDone s = .next (
    if s.clk.sleepWanted && s.clk.pstate != .run && vatAtPoint s then
      modLoft (fun l => { l with pwrEn := false }) (clearAll true (modClk (fun c => { c with pstate := .sleep }) (padsLatch s)))
    else s) := congrArg Host.Outcome.next (live_run _ hh)

/-- Before the Vat has come to rest the entry to SLEEP is not done (R31; entry 63 of the log). -/
theorem exec_sleepEntryDone_waits {s : State} (hh : s.clk.held = false) (h : s.vat.stopping = false ∨ s.vat.busy = true) :
    exec .sleepEntryDone s = .next s := by
  refine (exec_sleepEntryDone hh).trans (congrArg _ (if_neg fun hd => ?_))
  have hv : vatAtPoint s = false := by
    rcases h with h | h <;> simp [vatAtPoint, h]
  rw [hv, Bool.and_false] at hd
  exact Bool.false_ne_true hd

theorem exec_sleepEntryDone_sleeps {s : State} (hh : s.clk.held = false) (hw : s.clk.sleepWanted = true)
    (hp : s.clk.pstate ≠ .run) (hv : vatAtPoint s = true) : ∃ t : State, exec .sleepEntryDone s = .next t ∧
      t.clk.pstate = .sleep ∧ t.clk.held = true ∧ t.loft = { s.loft with pwrEn := false } ∧ t.mem = [] ∧ t.core = {} := by
  refine ⟨_, (exec_sleepEntryDone hh).trans (congrArg _ (if_pos ?_)), ?_, rfl, ?_, rfl, rfl⟩
  · rw [hw, hv, bne_iff_ne.2 hp]
    rfl
  · exact clearAll_pstate_sleep true rfl
  · rw [modLoft_loft, clearAll_loft]
    rfl

/-! Samples of the sensors (R32, R34, R389, R390). -/

/-- What a sampling round leaves before a trip. -/
def sampled (s : State) (temps : List Int) (rails : List Nat) : State :=
  let ts := newTemps s temps
  let rs := (List.range 8).map fun r => rails.getD r 0
  noteRate (telSample rs (modClk (fun c => { c with
    temps := ts, rails := rs, hotSensor := (hottest ts).1, hotTemp := (hottest ts).2, cal := 0
    throttle := newLevel s (hottest ts).2 }) s))

theorem exec_telemetrySample {s : State} (temps : List Int) (rails : List Nat) (hh : s.clk.held = false) :
    exec (.telemetrySample temps rails) s = .next (
      if 115 ≤ (hottest (newTemps s temps)).2 then thermalTrip (sampled s temps rails) else sampled s temps rails) :=
  congrArg Host.Outcome.next (if_neg (ne_true_of_eq_false hh))

theorem exec_telemetrySample_held {s : State} (temps : List Int) (rails : List Nat) (hh : s.clk.held = true) :
    exec (.telemetrySample temps rails) s = .next (heldSample temps s) := congrArg Host.Outcome.next (if_pos hh)

section
variable {s : State} {temps : List Int} (hp : s.loft.pwrEn = true) (ho : s.clk.pstate ≠ .off)
include hp ho

theorem heldSample_trips (h : ∃ i < 6, 115 ≤ temps.getD i 0) : heldSample temps s = thermalTrip s := by
  obtain ⟨i, hi, ht⟩ := h
  exact (if_neg (not_or.2 ⟨ne_false_of_eq_true hp, ho⟩)).trans
    (if_pos (List.any_eq_true.2 ⟨i, List.mem_range.2 hi, decide_eq_true ht⟩))

section
variable (hn : ∀ i < 6, temps.getD i 0 < 115)
include hn

theorem heldSample_no_trip : heldSample temps s = if (List.range 6).all (fun i => decide (temps.getD i 0 < 105)) then
    modClk (fun c => { c with thermHold := false }) s else s := by
  refine (if_neg (not_or.2 ⟨ne_false_of_eq_true hp, ho⟩)).trans (if_neg fun h => ?_)
  obtain ⟨i, hi, ht⟩ := List.any_eq_true.1 h
  exact absurd (hn i (List.mem_range.1 hi)) (Int.not_lt.2 (of_decide_eq_true ht))

theorem heldSample_warm (h : ∃ i < 6, 105 ≤ temps.getD i 0) : heldSample temps s = s := by
  obtain ⟨i, hi, ht⟩ := h
  refine (heldSample_no_trip hp ho hn).trans (if_neg fun ha => ?_)
  exact absurd (of_decide_eq_true (List.all_eq_true.1 ha i (List.mem_range.2 hi))) (Int.not_lt.2 ht)

end

theorem heldSample_cool (h : ∀ i < 6, temps.getD i 0 < 105) :
    heldSample temps s = modClk (fun c => { c with thermHold := false }) s :=
  (heldSample_no_trip hp ho fun i hi => Int.lt_trans (h i hi) (by decide)).trans
    (if_pos (List.all_eq_true.2 fun i hi => decide_eq_true (h i (List.mem_range.1 hi))))

end

/-! Droop (R33). -/

theorem exec_droopStart {s : State} (hh : s.clk.held = false) (hd : s.clk.droop = false) : exec .droopStart s =
    .next (noteRate (setRegN 0x400A001C (min 65535 ((reg s 0x400A001C).toNat + 1))
      (modClk (fun c => { c with droop := true }) s))) := by
  refine congrArg Host.Outcome.next ((live_run _ hh).trans ((if_neg (ne_true_of_eq_false hd)).trans ?_))
  have hsat : ∀ n, satInc 16 n = min 65535 (n + 1) := by
    intro n
    unfold satInc
    split <;> omega
  rw [← hsat]
  rfl

/-! The divisor of PXCLK and the gates (R21, Table 2-7). -/

theorem exec_pxdiv {s : State} (v : Word) (hh : s.clk.held = false) : exec (.pxdiv v) s = .next (pxdivWrite v s) :=
  congrArg Host.Outcome.next (live_run _ hh)

theorem inRange_pxdiv_iff {n : Nat} : inRange n 20 1000 = true ↔ 20 ≤ n ∧ n ≤ 1000 := by
  rw [inRange, Bool.and_eq_true, decide_eq_true_iff, decide_eq_true_iff]

theorem pxdivWrite_ignored {s : State} {v : Word} (h : wfld v 0 10 < 20 ∨ 1000 < wfld v 0 10) : pxdivWrite v s = s :=
  if_neg fun hr => by obtain ⟨h1, h2⟩ := inRange_pxdiv_iff.1 hr; omega

theorem pxdivWrite_inRange {s : State} {v : Word} (h1 : 20 ≤ wfld v 0 10) (h2 : wfld v 0 10 ≤ 1000) : pxdivWrite v s =
    if pxclkRuns s then modClk (fun c => { c with pxdivPend := some (wfld v 0 10) }) (setRegN 0x400A0014 (wfld v 0 10) s)
    else modClk (fun c => { c with pxdivPend := none, pxdivLive := wfld v 0 10 }) (setRegN 0x400A0014 (wfld v 0 10) s) :=
  if_pos (inRange_pxdiv_iff.2 ⟨h1, h2⟩)

theorem pxclkRuns_nap {s : State} (h : s.clk.pstate = .nap) : pxclkRuns s = false := by
  rw [pxclkRuns, h]
  exact Bool.and_false _

theorem exec_clkGate {s : State} (v : Word) (hh : s.clk.held = false) : exec (.clkGate v) s = .next (gateWrite v s) :=
  congrArg Host.Outcome.next (live_run _ hh)

/-- A write of GATE that does not turn ACLK. -/
theorem gateWrite_of_aclk {s : State} {v : Word} (h : aclkRuns (writeTyped 0x400A0010 false v s) = aclkRuns s) : gateWrite v s =
    if wbit v 0 then writeTyped 0x400A0010 false v s else pxdivApply (rasterOff (writeTyped 0x400A0010 false v s)) := by
  unfold gateWrite
  extract_lets s1 s2
  have h2 : s2 = s1 := if_pos h
  rw [h2]
  rfl

/-- Settles O48, event by event: each command's effect is the operation that its `exec_` lemma names. That a frame in transmission at
the drain's timeout ends with an error, that gating PXCLK applies a pending divisor, and that SLEEP waits for the Vat are the
model's own reading (entries 16, 17 and 63 of the log). -/
theorem powerAndClocks : Obligations.PowerAndClocks := by
  rintro s clk hh rfl
  refine ⟨fun hb => ⟨?_, ?_, ?_, ?_⟩, fun hb hp => ⟨?_, ?_, ?_, ?_⟩, fun hb hp => ⟨?_, ?_⟩, exec_dimDrainEnd_waits hh,
    fun h1 h2 h3 h4 hs => ?_, exec_dimDrainTimeout_early hh, ?_, exec_dimExitDone hh, exec_sleepEntryDone_waits hh,
    fun hw hp _ h1 h2 => ?_, ?_, ?_, fun i => ?_, exec_droopStart hh, ?_, ?_, ?_⟩
  · rw [exec_psreqRun hh, psreqWrite_busy _ hb]
  · rw [exec_psreqDim hh, psreqWrite_busy _ hb]
  · rw [exec_psreqNap hh, psreqWrite_busy _ hb]
  · rw [exec_psreqSleep hh, psreqWrite_busy _ hb]
  · rw [exec_psreqRun hh, psreqWrite_run_run hb hp]
  · exact (exec_psreqDim hh).trans (congrArg _ (psreqWrite_run_lower (n := 1) hb hp rfl (.inl rfl)))
  · exact (exec_psreqNap hh).trans (congrArg _ (psreqWrite_run_lower (n := 2) hb hp rfl (.inr (.inl rfl))))
  · exact (exec_psreqSleep hh).trans (congrArg _ (psreqWrite_run_lower (n := 3) hb hp rfl (.inr (.inr rfl))))
  · exact (exec_psreqRun hh).trans (congrArg _ (psreqWrite_dim_run hb hp))
  · rw [exec_psreqDim hh, psreqWrite_dim_dim hb hp]
  · exact exec_dimDrainEnd_sleep hh (dimDrained_iff.2 ⟨h1, h2, h3, h4⟩) hs
  · rintro t hw hdr ht rfl
    have hd := Bool.and_eq_true_iff.2 ⟨dimDraining_iff.2 ⟨hw, hdr⟩, decide_eq_true ht⟩
    exact (exec_dimDrainTimeout hh).trans (congrArg _ (if_pos hd))
  · exact exec_sleepEntryDone_sleeps hh hw hp (by rw [vatAtPoint, h1, h2]; rfl)
  · rintro temps rails ts k h y rfl hk rfl
    obtain ⟨rfl, rfl⟩ := Prod.mk.inj hk
    have he := exec_telemetrySample temps rails hh
    exact ⟨fun h => he.trans (congrArg _ (if_neg (Int.not_le.2 h))), fun h => he.trans (congrArg _ (if_pos h))⟩
  · rintro temps rails z rfl hp ho
    have he := exec_telemetrySample_held (s := { s with clk := { s.clk with held := true } }) temps rails rfl
    exact ⟨fun h => he.trans (congrArg _ (heldSample_trips hp ho h)), fun h => he.trans (congrArg _ (heldSample_cool hp ho h)),
      fun hn h => he.trans (congrArg _ (heldSample_warm hp ho hn h))⟩
  · exact congrArg Host.Outcome.next (live_run _ hh)
  · exact congrArg Host.Outcome.next (live_run _ hh)
  · rintro v n rfl
    rw [exec_pxdiv v hh]
    refine ⟨fun h => congrArg _ (pxdivWrite_ignored h), fun h1 h2 h => ?_, fun h1 h2 h => ?_⟩
    · rw [pxdivWrite_inRange h1 h2, if_pos h]
      rfl
    · rw [pxdivWrite_inRange h1 h2, pxclkRuns_nap h]
      rfl
  · rintro v y rfl ha
    rw [exec_clkGate v hh, gateWrite_of_aclk ha]
    refine ⟨fun h => ?_, fun h => ?_⟩
    · rw [h]
      rfl
    · rw [h]
      rfl

end Sys2Proof.Machine
end

section
/-! O57: what no command may spoil (Laws/Keeps.lean) is kept by every command and so by every step; blown fuses are part of it
(R39). -/

namespace Sys2Proof.Machine

section
variable {q0 : List Instr} {fz : FuseBits} {s : State}

/-- What no command may spoil is kept by every command; one arm per command, as in Machine/Dispatch.lean. -/
theorem exec_keeps (i : Instr) (h : Keeps q0 fz s) : OutKeeps q0 fz (exec i s) :=
  match i with
  | .coldReset .. => execColdReset_keeps h
  | .warmReset .. => execWarmReset_keeps h
  | .coreSupervisorReset .. => execCoreSupervisorReset_keeps h
  | .clkLoss => execClkLoss_keeps h
  | .resetRelease => execResetRelease_keeps h
  | .loftReset => execLoftReset_keeps h
  | .swrst .. => execSwrst_keeps h
  | .pxdiv .. => execPxdiv_keeps h
  | .clkGate .. => execClkGate_keeps h
  | .psreqRun => execPsreqRun_keeps h
  | .psreqDim => execPsreqDim_keeps h
  | .psreqNap => execPsreqNap_keeps h
  | .psreqSleep => execPsreqSleep_keeps h
  | .dimDrainEnd => execDimDrainEnd_keeps h
  | .dimDrainTimeout => execDimDrainTimeout_keeps h
  | .dimExitDone => execDimExitDone_keeps h
  | .sleepEntryDone => execSleepEntryDone_keeps h
  | .pwrEnRise => execPwrEnRise_keeps h
  | .droopStart => execDroopStart_keeps h
  | .droopEnd => execDroopEnd_keeps h
  | .telemetrySample .. => execTelemetrySample_keeps h
  | .sensorCal .. => execSensorCal_keeps h
  | .fpkey .. => execFpkey_keeps h
  | .fuseBurnDone => execFuseBurnDone_keeps h
  | .blockLock .. => execBlockLock_keeps h
  | .vatMountDone .. => execVatMountDone_keeps h
  | .commandPacket .. => execCommandPacket_keeps h
  | .cmdTail .. => execCmdTail_keeps h
  | .rplHead .. => execRplHead_keeps h
  | .ringEnable .. => execRingEnable_keeps h
  | .ringDisable .. => execRingDisable_keeps h
  | .replyDeliver .. => execReplyDeliver_keeps h
  | .idleHint .. => execIdleHint_keeps h
  | .moderationExpiry .. => execModerationExpiry_keeps h
  | .sentinelModerationEnd => execSentinelModerationEnd_keeps h
  | .doorReset .. => execDoorReset_keeps h
  | .doorResetDone .. => execDoorResetDone_keeps h
  | .pcieLinkUp .. => execPcieLinkUp_keeps h
  | .pcieLinkDown .. => execPcieLinkDown_keeps h
  | .pciePerst .. => execPciePerst_keeps h
  | .writeCmd .. => execWriteCmd_keeps h
  | .writeCmdQ .. => execWriteCmdQ_keeps h
  | .readStatus .. => execReadStatus_keeps h
  | .readReply .. => execReadReply_keeps h
  | .readReplyQ .. => execReadReplyQ_keeps h
  | .readData .. => execReadData_keeps h
  | .readDataQ .. => execReadDataQ_keeps h
  | .readNotice .. => execReadNotice_keeps h
  | .writeNoticeMask .. => execWriteNoticeMask_keeps h
  | .spiEvcClaim .. => execSpiEvcClaim_keeps h
  | .spiEvcComplete .. => execSpiEvcComplete_keeps h
  | .spiIdleHint => execSpiIdleHint_keeps h
  | .resetEnable => execResetEnable_keeps h
  | .spiDoorReset => execSpiDoorReset_keeps h
  | .doorNop .. => execDoorNop_keeps h
  | .identify .. => execIdentify_keeps h
  | .getStatus .. => execGetStatus_keeps h
  | .doorClaim .. => execDoorClaim_keeps h
  | .doorRelease .. => execDoorRelease_keeps h
  | .idleSetup .. => execIdleSetup_keeps h
  | .stockSet .. => execStockSet_keeps h
  | .stockGet .. => execStockGet_keeps h
  | .stockCheck .. => execStockCheck_keeps h
  | .stockCheckEnd .. => execStockCheckEnd_keeps h
  | .stockApply .. => execStockApply_keeps h
  | .stockDiscard .. => execStockDiscard_keeps h
  | .shadowLoaded => execShadowLoaded_keeps h
  | .applyReleaseTime => execApplyReleaseTime_keeps h
  | .epochBoundary => execEpochBoundary_keeps h
  | .portLanesSet .. => execPortLanesSet_keeps h
  | .signalChange .. => execSignalChange_keeps h
  | .lockLoss .. => execLockLoss_keeps h
  | .remoteFaultRx .. => execRemoteFaultRx_keeps h
  | .portUp .. => execPortUp_keeps h
  | .frameAdmit .. => execFrameAdmit_keeps h
  | .macFrameEnd .. => execMacFrameEnd_keeps h
  | .wireCheck .. => execWireCheck_keeps h
  | .couchDeal .. => execCouchDeal_keeps h
  | .pressDone .. => execPressDone_keeps h
  | .dryerRelease .. => execDryerRelease_keeps h
  | .egressSelect .. => execEgressSelect_keeps h
  | .reelStart .. => execReelStart_keeps h
  | .frameTxEnd .. => execFrameTxEnd_keeps h
  | .feltScrub .. => execFeltScrub_keeps h
  | .laneServiceRemove .. => execLaneServiceRemove_keeps h
  | .laneServiceRestore .. => execLaneServiceRestore_keeps h
  | .laneDrained .. => execLaneDrained_keeps h
  | .laneKatDone .. => execLaneKatDone_keeps h
  | .calenderSlot .. => execCalenderSlot_keeps h
  | .cellReceive .. => execCellReceive_keeps h
  | .syncTimeout .. => execSyncTimeout_keeps h
  | .holdExpire .. => execHoldExpire_keeps h
  | .calRelease .. => execCalRelease_keeps h
  | .saLoad .. => execSaLoad_keeps h
  | .saRetireNext .. => execSaRetireNext_keeps h
  | .saRetireAll .. => execSaRetireAll_keeps h
  | .saQuery .. => execSaQuery_keeps h
  | .zeroiseChannel .. => execZeroiseChannel_keeps h
  | .zeroiseOwned .. => execZeroiseOwned_keeps h
  | .zeroiseKe .. => execZeroiseKe_keeps h
  | .zeroiseDevice .. => execZeroiseDevice_keeps h
  | .keyDrainEmpty .. => execKeyDrainEmpty_keeps h
  | .rxGraceEnd .. => execRxGraceEnd_keeps h
  | .keOpen .. => execKeOpen_keeps h
  | .keStatus .. => execKeStatus_keeps h
  | .ecKeygen .. => execEcKeygen_keeps h
  | .ecDh .. => execEcDh_keeps h
  | .kemKeygen .. => execKemKeygen_keeps h
  | .kemEncaps .. => execKemEncaps_keeps h
  | .kemDecaps .. => execKemDecaps_keeps h
  | .transcript .. => execTranscript_keeps h
  | .derive .. => execDerive_keeps h
  | .sign .. => execSign_keeps h
  | .sha384 .. => execSha384_keeps h
  | .ecdsaVerify .. => execEcdsaVerify_keeps h
  | .mldsaVerify .. => execMldsaVerify_keeps h
  | .vaultKeygen .. => execVaultKeygen_keeps h
  | .vaultWrap .. => execVaultWrap_keeps h
  | .msgSend .. => execMsgSend_keeps h
  | .msgRecv .. => execMsgRecv_keeps h
  | .keClose .. => execKeClose_keeps h
  | .keyeOpDone .. => execKeyeOpDone_keeps h
  | .keTimeout .. => execKeTimeout_keeps h
  | .faultDetected .. => execFaultDetected_keeps h
  | .stageWatchdog .. => execStageWatchdog_keeps h
  | .recoveryEnd => execRecoveryEnd_keeps h
  | .storeRead .. => execStoreRead_keeps h
  | .storeWrite .. => execStoreWrite_keeps h
  | .storeErase .. => execStoreErase_keeps h
  | .logAppend .. => execLogAppend_keeps h
  | .logRead .. => execLogRead_keeps h
  | .logTrim .. => execLogTrim_keeps h
  | .reamInfo .. => execReamInfo_keeps h
  | .storeFormat .. => execStoreFormat_keeps h
  | .vatOpDone .. => execVatOpDone_keeps h
  | .retentionPatrol .. => execRetentionPatrol_keeps h
  | .backgroundRelocate .. => execBackgroundRelocate_keeps h
  | .staticLevelling => execStaticLevelling_keeps h
  | .vatIfReq .. => execVatIfReq_keeps h
  | .portStats .. => execPortStats_keeps h
  | .chanStats .. => execChanStats_keeps h
  | .counterClear .. => execCounterClear_keeps h
  | .telSubscribe .. => execTelSubscribe_keeps h
  | .telemetryPeriod .. => execTelemetryPeriod_keeps h
  | .moduleXfer .. => execModuleXfer_keeps h
  | .i2cTransactionDone .. => execI2cTransactionDone_keeps h
  | .i2cBusTimeout .. => execI2cBusTimeout_keeps h
  | .panelPost .. => execPanelPost_keeps h
  | .audioStream .. => execAudioStream_keeps h
  | .grantSet .. => execGrantSet_keeps h
  | .ownerSet .. => execOwnerSet_keeps h
  | .moduleAssign .. => execModuleAssign_keeps h
  | .kAdd .. => execKAdd_keeps h
  | .kAddc .. => execKAddc_keeps h
  | .kSub .. => execKSub_keeps h
  | .kSubc .. => execKSubc_keeps h
  | .kAnd .. => execKAnd_keeps h
  | .kOr .. => execKOr_keeps h
  | .kXor .. => execKXor_keeps h
  | .kAndn .. => execKAndn_keeps h
  | .kCmp .. => execKCmp_keeps h
  | .kTst .. => execKTst_keeps h
  | .kMov .. => execKMov_keeps h
  | .kNot .. => execKNot_keeps h
  | .kNeg .. => execKNeg_keeps h
  | .kMin .. => execKMin_keeps h
  | .kMax .. => execKMax_keeps h
  | .kShl .. => execKShl_keeps h
  | .kShr .. => execKShr_keeps h
  | .kSar .. => execKSar_keeps h
  | .kRor .. => execKRor_keeps h
  | .kShli .. => execKShli_keeps h
  | .kShri .. => execKShri_keeps h
  | .kSari .. => execKSari_keeps h
  | .kRori .. => execKRori_keeps h
  | .kMul .. => execKMul_keeps h
  | .kMulh .. => execKMulh_keeps h
  | .kMulhu .. => execKMulhu_keeps h
  | .kDivu .. => execKDivu_keeps h
  | .kDivs .. => execKDivs_keeps h
  | .kRemu .. => execKRemu_keeps h
  | .kRems .. => execKRems_keeps h
  | .kSextb .. => execKSextb_keeps h
  | .kSexth .. => execKSexth_keeps h
  | .kZextb .. => execKZextb_keeps h
  | .kZexth .. => execKZexth_keeps h
  | .kClz .. => execKClz_keeps h
  | .kBswap .. => execKBswap_keeps h
  | .kMinu .. => execKMinu_keeps h
  | .kMaxu .. => execKMaxu_keeps h
  | .kAddi .. => execKAddi_keeps h
  | .kAndi .. => execKAndi_keeps h
  | .kOri .. => execKOri_keeps h
  | .kXori .. => execKXori_keeps h
  | .kCmpi .. => execKCmpi_keeps h
  | .kMovi .. => execKMovi_keeps h
  | .kMovhi .. => execKMovhi_keeps h
  | .kLea .. => execKLea_keeps h
  | .kMova .. => execKMova_keeps h
  | .kMovd .. => execKMovd_keeps h
  | .kAdda .. => execKAdda_keeps h
  | .kSuba .. => execKSuba_keeps h
  | .kCmpa .. => execKCmpa_keeps h
  | .kMovaa .. => execKMovaa_keeps h
  | .kAddas .. => execKAddas_keeps h
  | .kLeapc .. => execKLeapc_keeps h
  | .kLdW .. => execKLdW_keeps h
  | .kLdH .. => execKLdH_keeps h
  | .kLdHu .. => execKLdHu_keeps h
  | .kLdB .. => execKLdB_keeps h
  | .kLdBu .. => execKLdBu_keeps h
  | .kStW .. => execKStW_keeps h
  | .kStH .. => execKStH_keeps h
  | .kStB .. => execKStB_keeps h
  | .kLda .. => execKLda_keeps h
  | .kSta .. => execKSta_keeps h
  | .kBcc .. => execKBcc_keeps h
  | .kBal .. => execKBal_keeps h
  | .kCall .. => execKCall_keeps h
  | .kJmp .. => execKJmp_keeps h
  | .kCallr .. => execKCallr_keeps h
  | .kBalr .. => execKBalr_keeps h
  | .kJlk => execKJlk_keeps h
  | .kPush .. => execKPush_keeps h
  | .kPop .. => execKPop_keeps h
  | .kTbs .. => execKTbs_keeps h
  | .kTbc .. => execKTbc_keeps h
  | .kTbsc .. => execKTbsc_keeps h
  | .kTbcs .. => execKTbcs_keeps h
  | .kBset .. => execKBset_keeps h
  | .kBclr .. => execKBclr_keeps h
  | .kBflip .. => execKBflip_keeps h
  | .kBld .. => execKBld_keeps h
  | .kBst .. => execKBst_keeps h
  | .kBand .. => execKBand_keeps h
  | .kBor .. => execKBor_keeps h
  | .kBxor .. => execKBxor_keeps h
  | .kCset => execKCset_keeps h
  | .kCclr => execKCclr_keeps h
  | .kCflip => execKCflip_keeps h
  | .kMac .. => execKMac_keeps h
  | .kMsu .. => execKMsu_keeps h
  | .kMpy .. => execKMpy_keeps h
  | .kRdac .. => execKRdac_keeps h
  | .kWrac .. => execKWrac_keeps h
  | .kClrac .. => execKClrac_keeps h
  | .kAddac .. => execKAddac_keeps h
  | .kNop => execKNop_keeps h
  | .kWait => execKWait_keeps h
  | .kWaitComplete => execKWaitComplete_keeps h
  | .kBrk => execKBrk_keeps h
  | .kTrap .. => execKTrap_keeps h
  | .kReti => execKReti_keeps h
  | .kRet => execKRet_keeps h
  | .kEi => execKEi_keeps h
  | .kDi => execKDi_keeps h
  | .kChkpt => execKChkpt_keeps h
  | .kMfc .. => execKMfc_keeps h
  | .kMtc .. => execKMtc_keeps h
  | .kIinv => execKIinv_keeps h
  | .kIinvl .. => execKIinvl_keeps h
  | .interruptEntry => execInterruptEntry_keeps h
  | .gapCheckpoint => execGapCheckpoint_keeps h
  | .modeReq .. => execModeReq_keeps h
  | .pairKick .. => execPairKick_keeps h
  | .wdogWarn => execWdogWarn_keeps h
  | .sntWatchdog => execSntWatchdog_keeps h
  | .sentinelScrub .. => execSentinelScrub_keeps h
  | .bistDone .. => execBistDone_keeps h
  | .restartZeroDone .. => execRestartZeroDone_keeps h
  | .extest .. => execExtest_keeps h
  | .samplePreload .. => execSamplePreload_keeps h
  | .idcode .. => execIdcode_keeps h
  | .highz .. => execHighz_keeps h
  | .clamp .. => execClamp_keeps h
  | .bypass .. => execBypass_keeps h
  | .dbgAccess .. => execDbgAccess_keeps h
  | .tapReset => execTapReset_keeps h
  | .busRead .. => execBusRead_keeps h
  | .busWrite .. => execBusWrite_keeps h
  | .regRead .. => execRegRead_keeps h
  | .regWrite .. => execRegWrite_keeps h
  | .dbgHalt => execDbgHalt_keeps h
  | .dbgResume .. => execDbgResume_keeps h
  | .dbgStep => execDbgStep_keeps h
  | .setMode .. => execSetMode_keeps h
  | .dbgResync => execDbgResync_keeps h
  | .dbgBreakpoint .. => execDbgBreakpoint_keeps h
  | .evcClaim .. => execEvcClaim_keeps h
  | .evcComplete .. => execEvcComplete_keeps h
  | .swset .. => execSwset_keeps h
  | .swclr .. => execSwclr_keeps h
  | .xtalStart => execXtalStart_keeps h
  | .xtalFail => execXtalFail_keeps h
  | .loftWriteApply => execLoftWriteApply_keeps h
  | .rtcSecond => execRtcSecond_keeps h
  | .rtcSet .. => execRtcSet_keeps h
  | .rtcSubRead => execRtcSubRead_keeps h
  | .tamperEdge .. => execTamperEdge_keeps h
  | .pwrbtnEdge => execPwrbtnEdge_keeps h
  | .tamperSample .. => execTamperSample_keeps h
  | .pwrbtnPress .. => execPwrbtnPress_keeps h
  | .pwrbtnLong => execPwrbtnLong_keeps h
  | .forcedOff => execForcedOff_keeps h
  | .timerEn .. => execTimerEn_keeps h
  | .timerGo .. => execTimerGo_keeps h
  | .timerStop .. => execTimerStop_keeps h
  | .timerCount .. => execTimerCount_keeps h
  | .timerCountRead .. => execTimerCountRead_keeps h
  | .rasterStart => execRasterStart_keeps h
  | .lineStart .. => execLineStart_keeps h
  | .activeEnd => execActiveEnd_keeps h
  | .lsEntryWrite => execLsEntryWrite_keeps h
  | .sealKick .. => execSealKick_keeps h
  | .dandyDone => execDandyDone_keeps h
  | .bltGo .. => execBltGo_keeps h
  | .bltJobStart => execBltJobStart_keeps h
  | .bltJobDone .. => execBltJobDone_keeps h
  | .sampleBoundary => execSampleBoundary_keeps h
  | .voiceKey .. => execVoiceKey_keeps h
  | .prst .. => execPrst_keeps h
  | .spRun .. => execSpRun_keeps h
  | .eqCommit .. => execEqCommit_keeps h
  | .eqClr .. => execEqClr_keeps h
  | .fanTableEval => execFanTableEval_keeps h
  | .tachEdge .. => execTachEdge_keeps h
  | .fanFault .. => execFanFault_keeps h
  | .manual .. => execManual_keeps h
  | .fanKick .. => execFanKick_keeps h
  | .fanTakeover => execFanTakeover_keeps h
  | .hallChange .. => execHallChange_keeps h
  | .fan3Trip => execFan3Trip_keeps h
  | .f3TripRelease => execF3TripRelease_keeps h
  | .f3Clr => execF3Clr_keeps h
  | .f3Arm => execF3Arm_keeps h
  | .f3Disarm => execF3Disarm_keeps h
  | .inputResolved .. => execInputResolved_keeps h
  | .gpioEdge .. => execGpioEdge_keeps h
  | .outset .. => execOutset_keeps h
  | .outclr .. => execOutclr_keeps h
  | .lockSequence .. => execLockSequence_keeps h
  | .counterLatchRead .. => execCounterLatchRead_keeps h
  | .rcRead .. => execRcRead_keeps h
  | .registerWrite .. => execRegisterWrite_keeps h
  | .vddAonRemoval => execVddAonRemoval_keeps h
  | .keyAging .. => execKeyAging_keeps h
  | .pwmPeriodStart => execPwmPeriodStart_keeps h

/-- In a well-formed state it all holds, of the state's own queue and blown bits. -/
theorem keeps_of_wf (h : s.wf = true) : Keeps s.pending s.fuses.blown s := by
  simp only [State.wf, Bool.and_eq_true, decide_eq_true_eq] at h
  obtain ⟨⟨⟨⟨⟨hmem, hcore⟩, hcommit⟩, hchk⟩, hbsr⟩, hdoors⟩ := h
  have hc : ∀ c, s.pair.chk = some c → c.wf = true := fun c e => by rwa [e] at hchk
  exact ⟨rfl, FuseLe.refl _, hbsr, hmem, hcore, hcommit, hc, hdoors⟩

/-- Another queue leaves every other part of it. -/
theorem setPending_keeps (q : List Instr) (h : Keeps q0 fz s) : Keeps q fz { s with pending := q } :=
  { h with pending := rfl }

/-- A step takes the front of the queue and keeps the rest of it. -/
theorem step_keeps (h : Keeps q0 fz s) : OutKeeps q0.tail fz (step s) := by
  obtain rfl := h.pending
  unfold step
  split
  · next hq =>
    rw [hq] at h ⊢
    exact next_keeps (tick_keeps h)
  · next c rest hq =>
    rw [hq]
    exact exec_keeps c (setPending_keeps rest h)

/-- A step from a well-formed state keeps its blown bits, the rest of its queue and every form. -/
theorem keeps_of_step {t : State} (hs : s.wf = true) (ht : step s = .next t) : Keeps s.pending.tail s.fuses.blown t := by
  have h := step_keeps (keeps_of_wf hs)
  rwa [ht] at h

end

/-- Settles O57 by the clause of `Keeps` on fuses: the only two operations that write the blown bits, the end of a burn and a
burn cut short by a reset, blow one more (`fuseLe_blowBit`). -/
theorem fusesStayBlown : Obligations.FusesStayBlown := by
  intro s t hs ht
  obtain ⟨hsvn, hec, hpq, hlock⟩ := (keeps_of_step hs ht).fuses
  exact ⟨hsvn, hec, hpq, hlock⟩

end Sys2Proof.Machine
end

section
/-! A command that the Interpreter dispatches (R77), and what its final reply and the signals of an event leave as they are: the
Stocks, the epoch, the paper machine, the ports and the keys. -/

namespace Sys2Proof.Machine

/-! Dispatch. -/

/-- The Interpreter takes a command that `Spec.Takes` describes: the effect is that of its row on the state in which it runs. -/
theorem dispatchIf_takes {s : State} {d tag op : Nat} {c : Cmd} {p : Cmd → Bool} (f : Cmd → State → State)
    (h : Spec.Takes s d tag op c) (hp : p c = true) : dispatchIf d tag op p f s = f c (Spec.taken s d tag) := by
  obtain ⟨_, hhead, htag, hop, hrun, hfence, hturn, hserved⟩ := h
  have hrun : ¬ (d = 3 ∧ sentinelRuns s = false) := fun e => Bool.false_ne_true (e.2.symm.trans (hrun e.1))
  have hserved : stateRefuses (Spec.taken s d tag) d c = false := hserved
  unfold dispatchIf
  rw [hhead]
  dsimp only
  rw [if_neg (by simp [htag, hop, hp]), if_neg hrun, if_neg (ne_true_of_eq_false hfence), if_neg (by simp [hturn])]
  exact if_neg (ne_true_of_eq_false hserved)

/-- The same of a row that takes every command of its opcode, at a step. -/
theorem live_dispatch_takes {s : State} {d tag op : Nat} {c : Cmd} (f : Cmd → State → State) (h : Spec.Takes s d tag op c) :
    live s (dispatch d tag op f) = f c (Spec.taken s d tag) :=
  (live_run _ h.held).trans (dispatchIf_takes f h rfl)

/-- The same of a row that takes the commands of its opcode for which `p` holds. -/
theorem live_dispatchIf_takes {s : State} {d tag op : Nat} {c : Cmd} {p : Cmd → Bool} (f : Cmd → State → State)
    (h : Spec.Takes s d tag op c) (hp : p c = true) : live s (dispatchIf d tag op p f) = f c (Spec.taken s d tag) :=
  (live_run _ h.held).trans (dispatchIf_takes f h hp)

/-! Replies. -/

theorem poolReturn_frame (d : Nat) (k : PoolKind) (s : State) :
    poolReturn d k s = { s with doors := (poolReturn d k s).doors, pool := (poolReturn d k s).pool } := by
  cases k <;> rfl

theorem pushReply_frame (d : Nat) (r : Reply) (s : State) : pushReply d r s = { s with doors := (pushReply d r s).doors } := by
  unfold pushReply
  split
  · rw [irq2Settle_frame]; rfl
  · rfl

/-- Output data goes to the sentinel's memory, or to the host. -/
theorem writeOutput_frame (d : Nat) (c : Cmd) (data : Bytes) (s : State) : writeOutput d c data s =
    { s with mem := (writeOutput d c data s).mem, panel := (writeOutput d c data s).panel, pair := (writeOutput d c data s).pair,
             out := (writeOutput d c data s).out } := by
  unfold writeOutput
  split
  · unfold deviceWrite; rw [agentWrite_frame]
  · split <;> rfl

/-- A final reply changes its door, the reply pool and what its output data is written to. -/
theorem finish_frame (d tag status detail r0 r1 r2 : Nat) (data : Option Bytes) (s : State) :
    ∃ doors pool mem panel pair out, finish d tag status detail r0 r1 r2 data s =
      { s with doors := doors, pool := pool, mem := mem, panel := panel, pair := pair, out := out } := by
  unfold finish
  split
  · exact ⟨_, _, _, _, _, _, rfl⟩
  · next c _ =>
    split
    · rw [poolReturn_frame]; exact ⟨_, _, _, _, _, _, rfl⟩
    · extract_lets s1 r2' r
      have h1 : ∃ mem panel pair out, s1 = { s with mem := mem, panel := panel, pair := pair, out := out } := by
        cases data with
        | none => exact ⟨_, _, _, _, rfl⟩
        | some bs => exact ⟨_, _, _, _, writeOutput_frame d c bs s⟩
      clear_value s1
      obtain ⟨_, _, _, _, rfl⟩ := h1
      rw [pushReply_frame]
      exact ⟨_, _, _, _, _, _, rfl⟩

theorem deferCmd_frame (d tag status : Nat) (s : State) :
    deferCmd d tag status s = { s with doors := (deferCmd d tag status s).doors } := by
  unfold deferCmd
  split
  · rfl
  · split
    · split
      · rfl
      · rw [pushReply_frame]; rfl
    · rfl

section
variable (d tag status detail r0 r1 r2 : Nat) (data : Option Bytes) (s : State)

@[simp] theorem finish_stock : (finish d tag status detail r0 r1 r2 data s).stock = s.stock := by
  obtain ⟨_, _, _, _, _, _, h⟩ := finish_frame d tag status detail r0 r1 r2 data s
  rw [h]

@[simp] theorem finish_epoch : (finish d tag status detail r0 r1 r2 data s).epoch = s.epoch := by
  obtain ⟨_, _, _, _, _, _, h⟩ := finish_frame d tag status detail r0 r1 r2 data s
  rw [h]

@[simp] theorem finish_mach : (finish d tag status detail r0 r1 r2 data s).mach = s.mach := by
  obtain ⟨_, _, _, _, _, _, h⟩ := finish_frame d tag status detail r0 r1 r2 data s
  rw [h]

@[simp] theorem finish_ports : (finish d tag status detail r0 r1 r2 data s).ports = s.ports := by
  obtain ⟨_, _, _, _, _, _, h⟩ := finish_frame d tag status detail r0 r1 r2 data s
  rw [h]

@[simp] theorem finish_keys : (finish d tag status detail r0 r1 r2 data s).keys = s.keys := by
  obtain ⟨_, _, _, _, _, _, h⟩ := finish_frame d tag status detail r0 r1 r2 data s
  rw [h]

@[simp] theorem finishR0_stock : (finishR0 d tag status r0 s).stock = s.stock := finish_stock ..

@[simp] theorem deferCmd_keys : (deferCmd d tag status s).keys = s.keys := by rw [deferCmd_frame]

end

section
variable (n : Nat) (s : State)

@[simp] theorem raise_stock : (raise n s).stock = s.stock := by rw [raise_frame]
@[simp] theorem raise_epoch : (raise n s).epoch = s.epoch := by rw [raise_frame]
@[simp] theorem raise_mach : (raise n s).mach = s.mach := by rw [raise_frame]
@[simp] theorem raise_keys : (raise n s).keys = s.keys := by rw [raise_frame]

end

end Sys2Proof.Machine
end

section
/-! O17 and O18: the Stock commands (R83–R86, R89, R90, R96), with what they rest on: the area of a door after a change, the entry
pool and the records of STOCK_GET. -/

namespace Sys2Proof.Machine

/-! Areas. -/

theorem area_congr {s t : State} (h : t.stock = s.stock) (d : Nat) : area t d = area s d := by rw [area, h, area]

theorem setArea_stock (d : Nat) (a : StockArea) (s : State) :
    (setArea d a s).stock = { s.stock with areas := tset {} s.stock.areas d a } := rfl

/-- An area whose entries have changed since reset reads back from every table. -/
theorem area_setArea_of_mods {a : StockArea} (d : Nat) (s : State) (h : a.mods ≠ 0) : area (setArea d a s) d = a := by
  have hne : a ≠ {} := fun e => h (congrArg StockArea.mods e)
  unfold area setArea tset
  rw [if_neg hne]
  exact tget_tins_same _ _ _ _

theorem area_restocked_same (s : State) (d : Nat) (es : Table (Nat × Bytes)) : area (Spec.restocked s d es) d =
    { area s d with entries := es, passed := false, checkVer := 0, mods := (area s d).mods + 1 } :=
  area_setArea_of_mods d s (Nat.succ_ne_zero _)

theorem area_restocked_ne (s : State) {d e : Nat} (es : Table (Nat × Bytes)) (h : e ≠ d) :
    area (Spec.restocked s d es) e = area s e := area_setArea_ne _ s h

theorem stockFrozen_eq_false {s : State} {d : Nat} (h : ∀ a ∈ s.stock.apply, a.door ≠ d) : stockFrozen s d = false := by
  unfold stockFrozen
  split
  · next a ha => exact beq_eq_false_iff_ne.2 (h a ha)
  · rfl

/-! The entry pool (R83). -/

/-- Smaller Stocks leave no fewer shared entries free. -/
theorem stockSharedFree_le {s t : State} (h : ∀ d, (area t d).entries.length ≤ (area s d).entries.length) :
    stockSharedFree s ≤ stockSharedFree t := by
  have h0 := h 0
  have h1 := h 1
  have h2 := h 2
  have h3 := h 3
  simp only [stockSharedFree, List.range, List.range.loop, List.map_cons, List.map_nil, List.foldl_cons, List.foldl_nil]
  omega

theorem mem_rotation {ptr d : Nat} (hd : d < 4) : d ∈ rotation ptr :=
  List.mem_map.2 ⟨(d + 4 - ptr % 4) % 4, List.mem_range.2 (Nat.mod_lt _ (by decide)), by omega⟩

/-- The one request of a cycle that the pool can meet is granted, and the pointer stays (R83). -/
theorem stockGrant_one {s : State} {d n : Nat} (hd : d < 4) (h : n ≤ stockSharedFree s) :
    ∃ l, stockGrant [(d, n)] s = (l, s) ∧ l.contains d = true := by
  unfold stockGrant
  extract_lets free shared ordered won contested granted
  have hc : contested = false := by
    have h1 : shared.length ≤ 1 := List.length_filter_le _ _
    simp only [contested, decide_eq_false (Nat.not_le.2 (Nat.lt_succ_of_le h1)), Bool.false_and]
  refine ⟨granted, by rw [hc], List.contains_iff_mem.2 (List.mem_append.2 ?_)⟩
  by_cases hn : n = 0
  · exact .inl (by simp [hn])
  have hs : shared = [(d, n)] := by simp [shared, Nat.pos_of_ne_zero hn]
  have hmem : (d, n) ∈ ordered := List.mem_filterMap.2 ⟨d, mem_rotation hd, by simp [hs]⟩
  have hall : ∀ r ∈ ordered, r = (d, n) := fun r hr => by
    obtain ⟨e, _, he⟩ := List.mem_filterMap.1 hr
    have := List.mem_of_find?_eq_some he
    rwa [hs, List.mem_singleton] at this
  clear_value ordered
  obtain ⟨r, rest, rfl⟩ := List.exists_cons_of_ne_nil (List.ne_nil_of_mem hmem)
  obtain rfl := hall r List.mem_cons_self
  refine .inr ?_
  simp only [won, List.foldl_cons]
  refine List.foldlRecOn (motive := fun x : Nat × List Nat => d ∈ x.2) _ _ ?_ fun x hx r _ => ?_
  · rw [if_pos h]; exact List.mem_singleton_self d
  · split
    · exact List.mem_append_left _ hx
    · exact hx

/-! STOCK_DISCARD (R96). -/

/-- Settles O18: the discard is `Spec.restocked` with no entries, and its reply leaves the Stocks, the ports and the keys. -/
theorem stockDiscard : Obligations.StockDiscard := by
  intro s d tag c hc hfree
  have hexec : exec (.stockDiscard d tag) s = .next (finishR0 d tag 0x00 (area s d).entries.length
      (Spec.restocked (Spec.taken s d tag) d [])) := by
    refine congrArg Host.Outcome.next ((live_dispatch_takes _ hc).trans ?_)
    exact if_neg (ne_true_of_eq_false (stockFrozen_eq_false (s := Spec.taken s d tag) hfree))
  refine ⟨hexec, fun x hx => ?_⟩
  obtain rfl := Host.Outcome.next.inj (hexec.symm.trans hx)
  have hstock := finishR0_stock d tag 0x00 (area s d).entries.length (Spec.restocked (Spec.taken s d tag) d [])
  have hown := (area_congr hstock d).trans (area_restocked_same _ d [])
  have hother : ∀ e : Nat, e ≠ d → area _ e = area s e := fun e he => (area_congr hstock e).trans (area_restocked_ne _ [] he)
  have hle : ∀ e : Nat, (area _ e).entries.length ≤ (area s e).entries.length := fun e => by
    by_cases he : e = d
    · rw [he, hown]; exact Nat.zero_le _
    · exact Nat.le_of_eq (congrArg (fun a : StockArea => a.entries.length) (hother e he))
  refine ⟨congrArg StockArea.entries hown, congrArg StockArea.passed hown, congrArg StockArea.checkVer hown,
    stockSharedFree_le hle, ?_⟩
  rw [hstock, finishR0, finish_ports, finish_keys, Spec.restocked, setArea_stock, setArea_ports, setArea_keys]
  exact ⟨rfl, rfl, rfl, rfl, rfl, rfl, rfl, hother⟩

/-! STOCK_SET (R83–R85). -/

/-- A STOCK_SET of one entry of the right form, for which the pool has room. -/
theorem stockStore_one {s : State} {d tag : Nat} {e : Bytes} {t : Table (Nat × Bytes)} (hd : d < 4) (he : entryFault e = none)
    (hfree : ∀ a ∈ s.stock.apply, a.door ≠ d) (ht : t = layEntries (area s d).entries [e])
    (hpool : (t.length - (area s d).entries.length) - (512 - (area s d).entries.length) ≤ stockSharedFree s) :
    stockStore d tag [e] s =
      finish d tag 0x00 0 t.length (t.length - (area s d).entries.length) 0 none (Spec.restocked s d t) := by
  obtain ⟨l, hgrant, hl⟩ := stockGrant_one hd hpool
  have hform : firstFormFault [e] = none := by simp [firstFormFault, he]
  unfold stockStore
  rw [hform]
  dsimp only
  rw [if_neg (ne_true_of_eq_false (stockFrozen_eq_false hfree)), ← ht, hgrant]
  exact if_neg (by rw [hl]; exact Bool.false_ne_true)

/-! STOCK_GET (Tables 5-2 and 5-5). -/

theorem length_leBytes (n v : Nat) : (leBytes n v).length = n := by
  induction n generalizing v with
  | zero => rfl
  | succ n ih => rw [leBytes, List.length_cons, ih]

theorem length_fitBytes (n : Nat) (bs : Bytes) : (fitBytes n bs).length = n := by
  rw [fitBytes, List.length_append, List.length_take, List.length_replicate]
  omega

theorem length_stockRecord (s : State) (d : Nat) : (stockRecord s d).length = 32 := by
  simp [stockRecord, length_leBytes]

theorem length_entryBytes (e : Nat × (Nat × Bytes)) : (entryBytes e).length = 32 := by
  simp [entryBytes, length_leBytes, length_fitBytes]

theorem length_flatten_entryBytes (es : Table (Nat × Bytes)) : ((es.map entryBytes).flatten).length = 32 * es.length := by
  induction es with
  | nil => rfl
  | cons e r ih =>
    rw [List.map_cons, List.flatten_cons, List.length_append, length_entryBytes, ih, List.length_cons]
    omega

theorem lengthBad_room {d i o n : Nat} {c : Cmd} (h : Spec.Room d c i o) (hn : n ≤ o) : lengthBad c.pkt i n = none := by
  obtain ⟨_, hin, hout⟩ := h
  unfold lengthBad
  rw [if_neg (not_not_intro hin), if_neg (by omega)]

/-- STOCK_GET of a door's own Stock. -/
theorem exec_stockGet {s : State} {d : DoorId} {tag n : Nat} {c : Cmd} (hc : Spec.Takes s d tag 0x11 c) (hd : pByte c.pkt 0 = d)
    (hn : pLe c.pkt 4 2 = n) (hmax : n ≤ 2560)
    (hroom : Spec.Room d c 0 (32 + 32 * min n ((area s d).entries.length - pLe c.pkt 2 2))) :
    exec (.stockGet d tag) s = .next (finish d tag 0x00 0 (min n ((area s d).entries.length - pLe c.pkt 2 2))
      (area s d).entries.length 0
      (some (stockRecord s d ++ ((((area s d).entries.drop (pLe c.pkt 2 2)).take n).map entryBytes).flatten))
      (Spec.taken s d tag)) := by
  refine congrArg Host.Outcome.next ((live_dispatch_takes _ hc).trans ?_)
  have hlen : (((area s d).entries.drop (pLe c.pkt 2 2)).take n).length = min n ((area s d).entries.length - pLe c.pkt 2 2) := by
    rw [List.length_take, List.length_drop]
  have hwho : (if pByte c.pkt 0 = 0xFF then d.val else pByte c.pkt 0) = d.val := by rw [hd, ite_self]
  dsimp only
  rw [hwho, hn, hroom.ptrs, if_neg (by decide), if_neg (Nat.not_lt.2 (Nat.le_of_lt_succ d.isLt)), if_neg (Nat.not_lt.2 hmax),
    if_neg (fun e => e.2 rfl), lengthBad_room hroom (Nat.le_of_eq ?_)]
  · exact congrArg (finish d tag 0x00 0 · _ 0 _ _) hlen
  · rw [List.length_append, length_stockRecord, length_flatten_entryBytes]; exact congrArg (32 + 32 * ·) hlen

/-! STOCK_CHECK (R86). -/

theorem exec_stockCheck {s : State} {d : DoorId} {tag : Nat} {c : Cmd} (hc : Spec.Takes s d tag 0x12 c)
    (hfree : ∀ a ∈ s.stock.apply, a.door ≠ d) : exec (.stockCheck d tag) s = .next (
      let x := setArea d { area s d with passed := false, checkVer := 0 } (Spec.taken s d tag)
      let v := (stockVerdict x d (area s d).entries).getD (0, 0, 0)
      if (area s d).entries.isEmpty then finishSt d tag 0x01 1 x
      else modCmd d tag (fun y => { y with
        aux := [(area s d).mods, s.stock.liveVer, (area s d).entries.length, v.1, v.2.1, v.2.2] }) x) := by
  refine congrArg Host.Outcome.next ((live_dispatch_takes _ hc).trans ?_)
  exact if_neg (ne_true_of_eq_false (stockFrozen_eq_false (s := Spec.taken s d tag) hfree))

theorem exec_stockCheckEnd {s : State} {d : DoorId} {tag mods ver n st num e : Nat} {c : Cmd} (hh : s.clk.held = false)
    (hc : findCmd s d tag = some c) (ho : c.opcode = 0x12) (hs : c.stage = .running) (ha : c.aux = [mods, ver, n, st, num, e]) :
    exec (.stockCheckEnd d tag) s = .next (
      if st ≠ 0 then finish d tag st num (e / 65536 + e % 65536 * 2 ^ 16) 0 0 none s
      else finish d tag 0x00 0 ver n 0 none
        (if (area s d).mods = mods then setArea d { area s d with passed := true, checkVer := ver } s else s)) := by
  refine congrArg Host.Outcome.next ((live_run _ hh).trans ?_)
  simp only [hc, ho, hs, ha]
  rfl

/-! STOCK_APPLY (R89, R90). -/

theorem exec_stockApply {s : State} {d : DoorId} {tag first target : Nat} {c : Cmd} (hc : Spec.Takes s d tag 0x13 c)
    (hnone : s.stock.apply = none) (hpass : (area s d).passed = true) (hver : (area s d).checkVer = s.stock.liveVer)
    (hfirst : first = earliestBoundary s (area s d).entries.length) (htarget : target = pLe c.pkt 0 8)
    (hin : target ≠ 0 → first ≤ target ∧ target ≤ s.epoch.boundaries + 65536) :
    exec (.stockApply d tag) s = .next (deferCmd d tag 0x10 (setApply (some
      { door := d, tag := tag, target := if target = 0 then first else target, earliest := decide (target = 0),
        waitRelease := s.mach.frames.any fun f => f.bank != s.stock.active }) (Spec.taken s d tag))) := by
  refine congrArg Host.Outcome.next ((live_dispatch_takes _ hc).trans ?_)
  have hnone : (Spec.taken s d tag).stock.apply = none := hnone
  have hpass : (area (Spec.taken s d tag) d).passed = true := hpass
  have hfirst : earliestBoundary (Spec.taken s d tag) (area (Spec.taken s d tag) d).entries.length = first := hfirst.symm
  have hlate : ¬ (target ≠ 0 ∧ (target < first ∨ s.epoch.boundaries + 65536 < target)) := fun ⟨h0, h⟩ =>
    h.elim (Nat.not_lt.2 (hin h0).1) (Nat.not_lt.2 (hin h0).2)
  dsimp only
  rw [hnone, hpass, hfirst, ← htarget]
  exact (if_neg (by decide)).trans ((if_neg (not_not_intro hver)).trans (if_neg hlate))

/-- Settles O17, each command by its equation. -/
theorem stockCommands : Obligations.StockCommands := by
  intro s d tag c
  refine ⟨fun hostIn t hc hptr he hfree ht hpool => ?_, fun n hc hd hn hmax hroom => exec_stockGet hc hd hn hmax hroom,
    fun hc hfree he => ?_, fun v hc hfree he hv => ?_, fun mods ver n st num e hh hf ho hs ha => ⟨fun h0 hm => ?_, fun h0 hm => ?_,
    fun h0 => ?_⟩, fun first target hc hnone hpass hver => exec_stockApply hc hnone hpass hver⟩
  · refine congrArg Host.Outcome.next ((live_dispatch_takes _ hc).trans ?_)
    exact (if_pos (by rw [hptr]; rfl)).trans (stockStore_one (s := Spec.taken s d tag) d.isLt he hfree ht hpool)
  · rw [exec_stockCheck hc hfree, he]; rfl
  · rw [exec_stockCheck hc hfree, hv]
    exact congrArg Host.Outcome.next (if_neg (by simpa using he))
  · rw [exec_stockCheckEnd hh hf ho hs ha, if_neg (not_not_intro h0), if_pos hm]
  · rw [exec_stockCheckEnd hh hf ho hs ha, if_neg (not_not_intro h0), if_neg hm]
  · rw [exec_stockCheckEnd hh hf ho hs ha, if_pos h0]

end Sys2Proof.Machine
end

section
/-! The boundary of an epoch (R88, R91, R92): what follows the swap of the banks, and what happens at every boundary, leaves the
Stocks and banks and the epoch's count as they are. -/

namespace Sys2Proof.Machine

/-- The Stocks and the banks, and the epoch. -/
def liveNote (s : State) : Stock × Epoch := (s.stock, s.epoch)

/-- The same, and whether the epoch has seen a drop (R142). -/
def boundaryNote (s : State) : (Stock × Epoch) × Bool := (liveNote s, s.mach.onset)

theorem liveNote_of_boundaryNote {s t : State} (h : boundaryNote t = boundaryNote s) : liveNote t = liveNote s :=
  congrArg Prod.fst h

theorem boundaryNote_congr {s t : State} (h1 : t.stock = s.stock) (h2 : t.epoch = s.epoch) (h3 : t.mach.onset = s.mach.onset) :
    boundaryNote t = boundaryNote s := by
  rw [boundaryNote, liveNote, h1, h2, h3, boundaryNote, liveNote]

/-- What each step of a fold leaves, the fold leaves. -/
theorem foldl_note {α β : Type} {g : State → α} {f : State → β → State} (h : ∀ x b, g (f x b) = g x) (l : List β)
    (s : State) : g (l.foldl f s) = g s :=
  List.foldlRecOn (motive := fun x => g x = g s) _ _ rfl fun x hx b _ => (h x b).trans hx

/-! Ports (R107, R110, R111). -/

section
variable (s : State)

@[simp] theorem boundaryNote_raise (n : Nat) : boundaryNote (raise n s) = boundaryNote s :=
  boundaryNote_congr (raise_stock n s) (raise_epoch n s) (congrArg Mach.onset (raise_mach n s))

@[simp] theorem boundaryNote_raiseIf (b : Bool) (n : Nat) : boundaryNote (raiseIf b n s) = boundaryNote s := by
  cases b
  · rfl
  · exact boundaryNote_raise s n

@[simp] theorem boundaryNote_finish (d tag status detail r0 r1 r2 : Nat) (data : Option Bytes) :
    boundaryNote (finish d tag status detail r0 r1 r2 data s) = boundaryNote s :=
  boundaryNote_congr (finish_stock ..) (finish_epoch ..) (congrArg Mach.onset (finish_mach ..))

@[simp] theorem boundaryNote_setPort (q : Nat) (p : Port) : boundaryNote (setPort q p s) = boundaryNote s := rfl
@[simp] theorem boundaryNote_setCal (d : Nat) (x : CalPort) : boundaryNote (setCal d x s) = boundaryNote s := rfl
@[simp] theorem boundaryNote_modChan (c : Nat) (f : Chan → Chan) : boundaryNote (modChan c f s) = boundaryNote s := rfl

@[simp] theorem boundaryNote_calSettle (d : Nat) : boundaryNote (calSettle d s) = boundaryNote s := by
  unfold calSettle
  extract_lets h c
  split
  · rfl
  · split <;> rfl

@[simp] theorem boundaryNote_calUpdate (d was : Nat) : boundaryNote (calUpdate d was s) = boundaryNote s :=
  (boundaryNote_raiseIf _ _ _).trans (boundaryNote_calSettle s d)

section
variable {f : State → State} (hf : ∀ x : State, boundaryNote (f x) = boundaryNote x)
include hf

theorem boundaryNote_portCal (q : Nat) (lose : Bool) : boundaryNote (portCal q lose f s) = boundaryNote s := by
  unfold portCal
  split
  · exact hf s
  · refine (boundaryNote_calUpdate _ _ _).trans ?_
    split
    · exact hf s
    · exact hf s

theorem boundaryNote_lineChange (q : Nat) : boundaryNote (lineChange q f s) = boundaryNote s := by
  unfold lineChange
  extract_lets s1
  split
  · exact hf s
  · exact hf s

end

@[simp] theorem boundaryNote_portTo (q st : Nat) : boundaryNote (portTo q st s) = boundaryNote s := by
  unfold portTo
  extract_lets p leaves s1 s2
  have h1 : boundaryNote s1 = boundaryNote s :=
    boundaryNote_lineChange s (fun x => boundaryNote_portCal x (boundaryNote_setPort · q (portIn st p)) q leaves) q
  have h2 : boundaryNote s2 = boundaryNote s1 := by
    unfold s2
    split <;> rfl
  split
  · rfl
  · rw [boundaryNote_raise, h2, h1]

theorem boundaryNote_portDisable (q : Nat) : boundaryNote (portDisable q s) = boundaryNote s := by
  unfold portDisable
  split
  · exact boundaryNote_portCal s (fun x => boundaryNote_setPort x q _) q false
  · exact boundaryNote_portTo s q _

theorem boundaryNote_portSwap (old new : Bank) (q : Nat) : boundaryNote (portSwap old new s q) = boundaryNote s := by
  unfold portSwap
  split
  · exact boundaryNote_portDisable s q
  · extract_lets p s1
    have h1 : boundaryNote s1 = boundaryNote s := by
      unfold s1
      split <;> rfl
    split
    · rw [boundaryNote_portTo, h1]
    · exact h1

theorem boundaryNote_portsSwap (old new : Bank) : boundaryNote (portsSwap old new s) = boundaryNote s :=
  foldl_note (fun x q => boundaryNote_portSwap x old new q) _ s

theorem boundaryNote_portsCarry : boundaryNote (portsCarry s) = boundaryNote s := by
  refine foldl_note (fun x q => ?_) _ s
  dsimp only
  split
  · exact boundaryNote_portCal x (fun y => boundaryNote_setPort y q _) q false
  · rfl

/-! Keys (R172–R174) and ownership (R74). -/

@[simp] theorem boundaryNote_promote (c : Nat) : boundaryNote (promote c s) = boundaryNote s := rfl

theorem boundaryNote_rollover (c : Nat) : boundaryNote (rollover c s) = boundaryNote s := by
  unfold rollover
  extract_lets x ends cause cur s1
  have h1 : boundaryNote s1 = boundaryNote s := rfl
  split
  · rfl
  · split
    · split
      · rw [boundaryNote_raise, boundaryNote_promote]
      · split
        · exact h1
        · exact (boundaryNote_raise _ _).trans h1
    · rfl

theorem boundaryNote_rolloverAll : boundaryNote (rolloverAll s) = boundaryNote s :=
  foldl_note (fun x c => boundaryNote_rollover x c) _ s

theorem boundaryNote_applySwitches (es : Table (Nat × Bytes)) : boundaryNote (applySwitches es s).1 = boundaryNote s := by
  refine List.foldlRecOn (motive := fun x : State × Nat => boundaryNote x.1 = boundaryNote s) _ _ rfl fun x hx e _ => ?_
  dsimp only
  split
  · exact hx
  · exact hx

theorem boundaryNote_applyOwners (d : Nat) (old new : Bank) (es : Table (Nat × Bytes)) :
    boundaryNote (applyOwners d old new es s) = boundaryNote s := by
  unfold applyOwners
  extract_lets named s1 ports
  have h1 : boundaryNote s1 = boundaryNote s := foldl_note (fun x c => by split <;> rfl) _ s
  refine (foldl_note (fun x q => ?_) _ s1).trans h1
  dsimp only
  split
  · rfl
  · split <;> rfl

theorem boundaryNote_applyDirs (es : Table (Nat × Bytes)) : boundaryNote (applyDirs es s) = boundaryNote s := by
  unfold applyDirs
  exact foldl_note (fun x _ => boundaryNote_modChan x _ _) _ s

/-! Press lanes (R130, R131) and admission (R29, R30). -/

theorem boundaryNote_laneReplies (i detail : Nat) (cs : List (Nat × Nat)) :
    boundaryNote (laneReplies i detail cs s) = boundaryNote s :=
  foldl_note (fun x _ => boundaryNote_finish x _ _ _ _ _ _ _ _) cs s

theorem boundaryNote_lanesBoundary : boundaryNote (lanesBoundary s) = boundaryNote s := by
  refine foldl_note (fun x i => ?_) _ s
  dsimp only
  split
  · exact (boundaryNote_laneReplies _ _ _ _).trans (boundaryNote_raise _ _)
  · rfl

theorem boundaryNote_admitBoundary : boundaryNote (admitBoundary s) = boundaryNote s := by
  unfold admitBoundary
  split
  · rfl
  · split <;> rfl

/-! Frames: a discard may be the first drop of the epoch (R142). -/

theorem dropOnset_frame : ∃ mach evc doors out,
    dropOnset s = { s with mach := mach, evc := evc, doors := doors, out := out } := by
  unfold dropOnset
  split
  · exact ⟨_, _, _, _, rfl⟩
  · rw [raise_frame]; exact ⟨_, _, _, _, rfl⟩

theorem removeFrm_frame (id : Nat) : removeFrm id s = { s with mach := (removeFrm id s).mach } := by
  unfold removeFrm
  extract_lets s1
  split
  · split
    · unfold creditSettle
      split <;> rfl
    · rfl
  · rfl

theorem discardFrm_frame (f : Sheet) :
    discardFrm f s = { s with mach := (discardFrm f s).mach, stats := (discardFrm f s).stats } := by
  unfold discardFrm
  rw [removeFrm_frame]
  split
  · split <;> rfl
  · rfl

/-- A discard counts, and changes what the paper machine holds. -/
theorem discardChan_frame (f : Sheet) (i : Nat) : ∃ mach stats evc doors out,
    discardChan f i s = { s with mach := mach, stats := stats, evc := evc, doors := doors, out := out } := by
  unfold discardChan
  rw [discardFrm_frame]
  split
  · unfold dropChan
    obtain ⟨_, _, _, _, h⟩ := dropOnset_frame (cntAdd (chanCnt _ i) 1
      { s with mach := (discardFrm f s).mach, stats := (discardFrm f s).stats })
    rw [h]
    exact ⟨_, _, _, _, _, rfl⟩
  · exact ⟨_, _, _, _, _, rfl⟩

theorem liveNote_dropOnset : liveNote (dropOnset s) = liveNote s := by
  obtain ⟨_, _, _, _, h⟩ := dropOnset_frame s
  rw [h]; rfl

theorem liveNote_removeFrm (id : Nat) : liveNote (removeFrm id s) = liveNote s := by rw [removeFrm_frame]; rfl

theorem liveNote_discardChan (f : Sheet) (i : Nat) : liveNote (discardChan f i s) = liveNote s := by
  obtain ⟨_, _, _, _, _, h⟩ := discardChan_frame s f i
  rw [h]; rfl

theorem liveNote_enqueue (f : Sheet) : liveNote (enqueue f s) = liveNote s := by
  unfold enqueue
  split
  · exact liveNote_discardChan s f 4
  · exact liveNote_removeFrm s f.id

theorem liveNote_sendLate (d fuel : Nat) : liveNote (sendLate d fuel s) = liveNote s := by
  induction fuel generalizing s with
  | zero => rfl
  | succ fuel ih =>
    unfold sendLate
    split
    · rfl
    · rw [ih, liveNote_enqueue]

theorem liveNote_dropPending (d : Nat) : liveNote (dropPending d s) = liveNote s := by
  unfold dropPending
  split
  · rfl
  · extract_lets s1
    split
    · exact liveNote_dropOnset _
    · exact liveNote_dropOnset _

theorem liveNote_calSwap (old new : Bank) (d was : Nat) : liveNote (calSwap old new d was s) = liveNote s := by
  unfold calSwap
  extract_lets s1
  have h1 : liveNote s1 = liveNote s := by
    refine (liveNote_of_boundaryNote (boundaryNote_calUpdate _ d was)).trans ?_
    split
    · exact liveNote_dropPending s d
    · rfl
  exact (liveNote_sendLate s1 d _).trans h1

end

end Sys2Proof.Machine
end

section
/-! O20: the shadow load, the release time and the boundary of an Apply (R88, R90–R92). -/

namespace Sys2Proof.Machine

/-! Before the boundary. -/

theorem exec_shadowLoaded {s : State} {a : Apply} (hh : s.clk.held = false) (ha : s.stock.apply = some a)
    (hw : a.waitRelease = false) : exec .shadowLoaded s =
      .next (setApply (some { a with shadow := some (overlay (liveBank s) (area s a.door).entries) }) s) := by
  refine congrArg Host.Outcome.next ((live_run _ hh).trans ?_)
  rw [ha]
  exact if_neg (ne_true_of_eq_false hw)

theorem oldBankInUse_eq_false {s : State} (h : ∀ f ∈ s.mach.frames, f.bank = s.stock.active) : oldBankInUse s = false :=
  List.any_eq_false.2 fun f hf => by simp [h f hf]

/-- The last frame of the old bank has left. -/
theorem exec_applyReleaseTime {s : State} {a : Apply} (hh : s.clk.held = false) (ha : s.stock.apply = some a)
    (hw : a.waitRelease = true) (hold : ∀ f ∈ s.mach.frames, f.bank = s.stock.active) : exec .applyReleaseTime s = .next (
      let first := earliestBoundary s (area s a.door).entries.length
      if a.earliest then setApply (some { a with waitRelease := false, target := max a.target first }) s
      else if a.target < first then finish a.door a.tag 0x65 0 (first % 2 ^ 32) (first / 2 ^ 32) 0 none
        (setArea a.door { area s a.door with lastResult := 4 } (setApply none s))
      else setApply (some { a with waitRelease := false }) s) := by
  refine congrArg Host.Outcome.next ((live_run _ hh).trans ?_)
  rw [ha]
  exact if_neg (by rw [hw, oldBankInUse_eq_false hold]; exact Bool.false_ne_true)

/-! The banks swap. -/

theorem liveBank_congr {s t : State} (h : t.stock = s.stock) : liveBank t = liveBank s := by
  rw [liveBank, bankOf, h, liveBank, bankOf]

/-- The bank that an Apply makes live. -/
def stagedBank (a : Apply) (s : State) : Bank := a.shadow.getD (overlay (liveBank s) (area s a.door).entries)

/-- `s` with the staged bank live and no Apply pending. -/
def bankSwapped (a : Apply) (s : State) : State :=
  { s with
    stock := if s.stock.active = 0 then { s.stock with bank1 := stagedBank a s, active := 1, apply := none }
      else { s.stock with bank0 := stagedBank a s, active := 0, apply := none }
    epoch := { s.epoch with k := bankK (stagedBank a s) } }

/-- The Stock of the Apply's door after it. -/
def appliedArea (a : Apply) (s : State) : StockArea :=
  { area s a.door with entries := [], passed := false, checkVer := 0, mods := (area s a.door).mods + 1,
                       lastEpoch := s.epoch.boundaries, lastResult := 1 }

/-- `s` after an Apply, as far as Stocks, banks and the epoch go. -/
def afterApply (a : Apply) (s : State) : State := setArea a.door (appliedArea a s) (bumpLiveVer (bankSwapped a s))

section
variable (a : Apply) (s : State)

theorem liveBank_afterApply : liveBank (afterApply a s) = stagedBank a s := by
  by_cases h0 : s.stock.active = 0
  · simp [liveBank, bankOf, afterApply, setArea, bumpLiveVer, bankSwapped, h0]
  · simp [liveBank, bankOf, afterApply, setArea, bumpLiveVer, bankSwapped, h0]

theorem active_afterApply : (afterApply a s).stock.active ≠ s.stock.active := by
  by_cases h0 : s.stock.active = 0
  · simp [afterApply, setArea, bumpLiveVer, bankSwapped, h0]
  · simp [afterApply, setArea, bumpLiveVer, bankSwapped, h0, Ne.symm h0]

theorem apply_afterApply : (afterApply a s).stock.apply = none := by
  simp only [afterApply, setArea, bumpLiveVer, bankSwapped]
  split <;> rfl

theorem liveVer_afterApply : (afterApply a s).stock.liveVer = (s.stock.liveVer + 1) % 2 ^ 32 := by
  simp only [afterApply, setArea, bumpLiveVer, bankSwapped]
  split <;> rfl

theorem epoch_afterApply : (afterApply a s).epoch = { s.epoch with k := bankK (stagedBank a s) } := rfl

theorem area_afterApply_same : area (afterApply a s) a.door = appliedArea a s := area_setArea_of_mods _ _ (Nat.succ_ne_zero _)

theorem area_afterApply_ne {e : Nat} (h : e ≠ a.door) : area (afterApply a s) e = area s e := by
  refine (area_setArea_ne _ _ h).trans ?_
  simp only [area, bumpLiveVer, bankSwapped]
  split <;> rfl

theorem liveNote_setArea_bumpLiveVer {s t : State} (d : Nat) (x : StockArea) (h : liveNote t = liveNote s) :
    liveNote (setArea d x (bumpLiveVer t)) = liveNote (setArea d x (bumpLiveVer s)) := by
  have h1 : t.stock = s.stock := congrArg Prod.fst h
  have h2 : t.epoch = s.epoch := congrArg Prod.snd h
  simp only [liveNote, setArea, bumpLiveVer, h1, h2]

/-- What follows the swap (ownership, key switches, ports, Calender ports, the reply) changes no Stock, no bank and not the
epoch. -/
theorem liveNote_swapBanks : liveNote (swapBanks a s) = liveNote (afterApply a s) := by
  unfold swapBanks
  extract_lets ar es old new stock st epoch s1
  have h1 : s1 = bankSwapped a s := rfl
  clear_value s1
  have hs : liveNote (applySwitches es (applyDirs es (applyOwners a.door old new es s1))).1 = liveNote s1 :=
    liveNote_of_boundaryNote ((boundaryNote_applySwitches _ es).trans ((boundaryNote_applyDirs _ es).trans
      (boundaryNote_applyOwners s1 a.door old new es)))
  split
  next s2 missed he =>
  rw [he] at hs
  extract_lets s3 s4
  have h3 : liveNote s3 = liveNote (bankSwapped a s) := by
    rw [← h1, ← hs]
    exact (foldl_note (fun x d => liveNote_calSwap x old new d _) _ _).trans
      (liveNote_of_boundaryNote (boundaryNote_portsSwap s2 old new))
  have h4 : liveNote s4 = liveNote (afterApply a s) := liveNote_setArea_bumpLiveVer a.door (appliedArea a s) h3
  refine (liveNote_of_boundaryNote (boundaryNote_finish _ _ _ _ _ _ _ _ _)).trans ?_
  exact (liveNote_of_boundaryNote (boundaryNote_raise s4 80)).trans h4

end

/-! The boundary. -/

/-- The epoch after the counter's wrap (R88). -/
def nextEpoch (e : Epoch) : Epoch :=
  { e with boundaries := (e.boundaries + 1) % 2 ^ 64, count := 0, base := e.base + 2 ^ e.k }

theorem boundaryNote_epochWrap (s : State) : boundaryNote (epochWrap s) = ((s.stock, nextEpoch s.epoch), false) := by
  unfold epochWrap
  exact (foldl_note (fun x d => boundaryNote_setCal x d _) _ _).trans rfl

/-- What every boundary does after the Apply. -/
theorem exec_epochBoundary {s : State} (hh : s.clk.held = false) :
    ∃ t, exec .epochBoundary s = .next t ∧ boundaryNote t = boundaryNote (applyBoundary (epochWrap s)) :=
  ⟨_, congrArg Host.Outcome.next (live_run _ hh), by
    rw [boundaryNote_admitBoundary, boundaryNote_lanesBoundary, boundaryNote_rolloverAll, boundaryNote_portsCarry]⟩

theorem applyBoundary_none {s : State} (h : s.stock.apply = none) : applyBoundary s = s := by
  rw [applyBoundary, h]

theorem applyBoundary_target {s : State} {a : Apply} (h : s.stock.apply = some a) (hw : a.waitRelease = false)
    (ht : a.target = s.epoch.boundaries) : applyBoundary s = swapBanks a s := by
  rw [applyBoundary, h]
  exact if_pos (by rw [hw, ht]; simp)

/-- Settles O20: the events before the boundary by their equations, the boundary by what `liveNote` and `boundaryNote` say it
leaves. -/
theorem applies : Obligations.Applies := by
  refine ⟨fun s hh => ⟨fun a ha hw => exec_shadowLoaded hh ha hw, fun a ha hw hold he => ?_, fun a ha hw hold he ht => ?_,
    fun hnone => ?_⟩, fun s a hh ha hw ht => ?_⟩
  · rw [exec_applyReleaseTime hh ha hw hold]
    exact congrArg Host.Outcome.next (if_pos he)
  · rw [exec_applyReleaseTime hh ha hw hold]
    exact congrArg Host.Outcome.next ((if_neg (ne_true_of_eq_false he)).trans (if_pos ht))
  · obtain ⟨t, hexec, hnote⟩ := exec_epochBoundary hh
    have hwrap := boundaryNote_epochWrap s
    rw [applyBoundary_none ((congrArg (fun n => n.1.1.apply) hwrap).trans hnone), hwrap] at hnote
    exact ⟨t, hexec, congrArg (fun n => n.1.1) hnote, congrArg (fun n => n.2) hnote, congrArg (fun n => n.1.2) hnote⟩
  · obtain ⟨t, hexec, hnote⟩ := exec_epochBoundary hh
    have hwrap := boundaryNote_epochWrap s
    generalize epochWrap s = w at hnote hwrap
    have hstock : w.stock = s.stock := congrArg (fun n => n.1.1) hwrap
    have hepoch : w.epoch = nextEpoch s.epoch := congrArg (fun n => n.1.2) hwrap
    have hbound : w.epoch.boundaries = a.target := (congrArg Epoch.boundaries hepoch).trans ht.symm
    rw [applyBoundary_target ((congrArg Stock.apply hstock).trans ha) hw hbound.symm] at hnote
    have hlive := (liveNote_of_boundaryNote hnote).trans (liveNote_swapBanks a w)
    have hts : t.stock = (afterApply a w).stock := congrArg Prod.fst hlive
    have hte : t.epoch = (afterApply a w).epoch := congrArg Prod.snd hlive
    have hbank : liveBank t = stagedBank a w := (liveBank_congr hts).trans (liveBank_afterApply a w)
    have harea : area t a.door = appliedArea a w := (area_congr hts _).trans (area_afterApply_same a w)
    refine ⟨t, hexec, ?_, ?_, ?_, ?_, ?_, ?_, congrArg StockArea.entries harea, congrArg StockArea.lastResult harea,
      (congrArg StockArea.lastEpoch harea).trans hbound, fun e he => ?_⟩
    · rw [hbank, stagedBank, liveBank_congr hstock, area_congr hstock]
    · rw [hts, ← hstock]; exact active_afterApply a w
    · rw [hts]; exact apply_afterApply a w
    · rw [hts, liveVer_afterApply, hstock]
    · rw [hte, epoch_afterApply]; exact hbound
    · rw [hte, epoch_afterApply, hbank]
    · exact (area_congr hts e).trans ((area_afterApply_ne a w he).trans (area_congr hstock e))

end Sys2Proof.Machine
end

section
/-! ZEROISE (R87, R94, R189–R192): what its operations leave of the KE slots, and O32. -/

namespace Sys2Proof.Machine

/-! The table of KE slots. -/

section
variable (s : State)

theorem dropChanFrames_keys (c : Nat) : (dropChanFrames c s).keys = s.keys := by
  refine foldl_note (g := State.keys) (fun x f => ?_) _ s
  obtain ⟨_, _, _, _, _, h⟩ := discardChan_frame x f 5
  rw [h]

theorem ke_waitDrain (c d tag : Nat) (input : Bytes) : (waitDrain c d tag input s).keys.ke = s.keys.ke := by
  rw [waitDrain, deferCmd_keys]
  rfl

theorem ke_joinUnit (d tag u : Nat) (aux : List Nat) (input : Bytes) : (joinUnit d tag u aux input s).keys.ke = s.keys.ke := by
  unfold joinUnit
  extract_lets q s1
  split
  · rfl
  · rw [deferCmd_keys]; rfl

theorem ke_loadAsk (d tag : Nat) (r : Bytes) : (loadAsk d tag r s).keys.ke = s.keys.ke := by
  unfold loadAsk loadGo
  split
  · rw [finishSt, finish_keys]
  · split
    · exact ke_waitDrain s _ d tag r
    · exact ke_joinUnit s d tag 2 [] r

theorem ke_retireNext (c d tag drained : Nat) : (retireNext c d tag drained s).keys.ke = s.keys.ke := by
  unfold retireNext
  split
  · rw [finishSt, finish_keys]
  · split
    · exact ke_waitDrain s c d tag []
    · rw [finishR0, finish_keys]; rfl

theorem ke_retireAll (c d tag drained : Nat) : (retireAll c d tag drained s).keys.ke = s.keys.ke := by
  unfold retireAll
  split
  · rw [finishSt, finish_keys]
  · split
    · rw [finishSt, finish_keys]
    · split
      · exact ke_waitDrain s c d tag []
      · rw [finishR0, finish_keys]; rfl

/-- A command that waited on a channel goes on without touching a KE slot. -/
theorem ke_resumeWaits (c : Nat) : (resumeWaits c s).keys.ke = s.keys.ke := by
  unfold resumeWaits
  split
  · rfl
  · extract_lets mine keys s1
    refine (foldl_note (g := fun x => x.keys.ke) (fun x w => ?_) mine s1).trans rfl
    split
    · rfl
    · split
      · exact ke_loadAsk x _ _ _
      · split
        · exact ke_retireAll x _ _ _ _
        · exact ke_retireNext x _ _ _ _

theorem keSlot_congr {s t : State} (h : t.keys.ke = s.keys.ke) (j : Nat) : keSlot t j = keSlot s j := by
  rw [keSlot, h, keSlot]

theorem keSlot_keFreed_ne {j k : Nat} (h : j ≠ k) : keSlot (keFreed k s) j = keSlot s j := by
  unfold keFreed
  extract_lets x keys s1 s2
  have h1 : s1.keys.ke = s.keys.ke := by
    unfold s1
    split <;> rfl
  have h2 : keSlot s2 j = keSlot s j := (keSlot_setKe_ne _ s1 h).trans (keSlot_congr h1 j)
  split
  · refine (keSlot_congr ?_ j).trans h2
    rw [raise_keys]; rfl
  · exact h2

/-- A ZEROISE leaves every KE slot that its scope does not take in. -/
theorem keSlot_zeroise (cs : List Nat) (ke : KeSlot → Bool) (va : Vault → Bool) {j : Nat} (h : ke (keSlot s j) = false) :
    keSlot (zeroise cs ke va s).1 j = keSlot s j := by
  unfold zeroise
  extract_lets held kes vs s1 s2 s3
  have h1 : s1.keys.ke = s.keys.ke :=
    foldl_note (g := fun x => x.keys.ke) (fun x c => by rw [dropChanFrames_keys]; rfl) cs s
  have hj : j ∉ kes := fun hm => by simp [kes, h] at hm
  have h2 : keSlot s2 j = keSlot s1 j := List.foldlRecOn (motive := fun x => keSlot x j = keSlot s1 j) kes _ rfl
    fun x hx k hk => (keSlot_keFreed_ne x fun e : j = k => hj (e ▸ hk)).trans hx
  have h3 : s3.keys.ke = s2.keys.ke :=
    foldl_note (g := fun x => x.keys.ke) (f := fun x n => setVault n {} x) (fun _ _ => rfl) vs s2
  have h4 : (cs.foldl (fun x c => resumeWaits c x) s3).keys.ke = s3.keys.ke :=
    foldl_note (g := fun x => x.keys.ke) (fun x c => ke_resumeWaits x c) cs s3
  exact (keSlot_congr (h4.trans h3) j).trans (h2.trans (keSlot_congr h1 j))

end

/-! The scopes. -/

/-- The parameters of a ZEROISE are in range, and its door may ask for its scope. -/
theorem zeroiseWith_passes {d tag : Nat} {f : Nat → State → State} {c : Cmd} {s : State} (h3 : pByte c.pkt 0 ≤ 3)
    (hn : if pByte c.pkt 0 = 0 then pLe c.pkt 2 2 ≤ 8191 else pLe c.pkt 2 2 = 0) (hd : 2 ≤ pByte c.pkt 0 → d = 3) :
    zeroiseWith d tag f c s = f (pLe c.pkt 2 2) s := by
  unfold zeroiseWith
  extract_lets scope n
  have hb : ¬ (if scope = 0 then 8191 < n else (n != 0) = true) := by
    split
    · next h0 => rw [if_pos h0] at hn; exact Nat.not_lt.2 hn
    · next h0 => rw [if_neg h0] at hn; simp [n, hn]
  rw [if_neg (Nat.not_lt.2 h3), if_neg hb, if_neg fun e => e.2 (hd e.1)]

/-- A filter that keeps nothing, as the scopes that reach no slot or no vault entry leave it. -/
theorem filter_noneKept {α : Type} (l : List α) : l.filter (fun _ => false) = [] :=
  List.filter_eq_nil_iff.2 fun _ _ => Bool.false_ne_true

/-- A ZEROISE of one channel reaches no KE slot and no vault entry. -/
theorem zeroise_channel (n : Nat) (s : State) : zeroise [n] (fun _ => false) (fun _ => false) s =
    (resumeWaits n (dropChanFrames n (clearChan n s)),
      if holdsKey s (chan s n).cur || holdsKey s (chan s n).nxt then 1 else 0, 0, 0) := by
  have hheld : ([n].filter fun c => holdsKey s (chan s c).cur || holdsKey s (chan s c).nxt).length =
      if holdsKey s (chan s n).cur || holdsKey s (chan s n).nxt then 1 else 0 := by
    rw [List.filter_cons, List.filter_nil]
    cases holdsKey s (chan s n).cur || holdsKey s (chan s n).nxt <;> rfl
  simp only [zeroise, Bool.and_false, filter_noneKept, List.foldl_nil, List.foldl_cons, List.length_nil, hheld]

/-- A ZEROISE of the KE slots reaches no channel and no vault entry. -/
theorem zeroise_ke (s : State) : zeroise [] (fun _ => true) (fun _ => false) s =
    (((List.range 16).filter fun j => (keSlot s j).state != 0).foldl (fun y j => keFreed j y) s, 0,
      ((List.range 16).filter fun j => (keSlot s j).state != 0).length, 0) := by
  simp only [zeroise, Bool.and_true, Bool.and_false, filter_noneKept, List.filter_nil, List.foldl_nil, List.length_nil]

theorem applyNamesChan_none {s : State} (h : s.stock.apply = none) (c : Nat) : applyNamesChan s c = false := by
  rw [applyNamesChan, h]

section
variable {s : State} {d : DoorId} {tag : Nat} {c : Cmd} (hc : Spec.Takes s d tag 0x23 c)
include hc

theorem exec_zeroiseChannel {n : Nat} (h0 : pByte c.pkt 0 = 0) (hn : n = pLe c.pkt 2 2) (hmax : n ≤ 8191)
    (hown : d = 3 ∨ (chan s n).owner = some d.val) (hnames : applyNamesChan s n = false) :
    exec (.zeroiseChannel d tag) s = .next (finish d tag 0x00 0
      (if holdsKey s (chan s n).cur || holdsKey s (chan s n).nxt then 1 else 0) 0 0 none
      (raise 164 (bumpLiveVer (resumeWaits n (dropChanFrames n (clearChan n (Spec.taken s d tag))))))) := by
  refine congrArg Host.Outcome.next ((live_dispatchIf_takes _ hc (by simp [zeroiseScope, h0])).trans ?_)
  have hnames : applyNamesChan (Spec.taken s d tag) n = false := hnames
  rw [zeroiseWith_passes (by omega) (by rw [if_pos h0, ← hn]; exact hmax) (by omega), ← hn]
  refine (if_neg fun e => hown.elim e.1 e.2).trans ?_
  rw [hnames, zeroise_channel]
  rfl

/-- ZEROISE of what the door owns, with no Apply pending that it could cancel. -/
theorem exec_zeroiseOwned (h1 : pByte c.pkt 0 = 1) (hn : pLe c.pkt 2 2 = 0) (hnone : s.stock.apply = none)
    {r : State × Nat × Nat × Nat}
    (hr : r = zeroise ((s.keys.chans.map (·.1)).filter fun n => (chan s n).owner == some d.val) (fun y => y.owner == d.val)
      (fun y => y.owner == d.val) (Spec.taken s d tag)) :
    exec (.zeroiseOwned d tag) s = .next (finish d tag 0x00 0 r.2.1 r.2.2.1 r.2.2.2 none (raise 164 (bumpLiveVer r.1))) := by
  refine congrArg Host.Outcome.next ((live_dispatchIf_takes _ hc (by simp [zeroiseScope, h1])).trans ?_)
  have hany : ∀ cs : List Nat, cs.any (applyNamesChan (Spec.taken s d tag)) = false := fun cs =>
    List.any_eq_false.2 fun n _ => ne_true_of_eq_false (applyNamesChan_none hnone n)
  rw [zeroiseWith_passes (by omega) (by rw [if_neg (by omega)]; exact hn) (by omega), hr]
  dsimp only
  rw [hany]
  rfl

theorem exec_zeroiseKe (hd : d = 3) (h2 : pByte c.pkt 0 = 2) (hn : pLe c.pkt 2 2 = 0) :
    exec (.zeroiseKe d tag) s = .next (finish d tag 0x00 0 0 ((List.range 16).filter fun j => (keSlot s j).state != 0).length 0 none
      (raise 164 (bumpLiveVer (((List.range 16).filter fun j => (keSlot s j).state != 0).foldl (fun y j => keFreed j y)
        (Spec.taken s d tag))))) := by
  refine congrArg Host.Outcome.next ((live_dispatchIf_takes _ hc (by simp [zeroiseScope, h2])).trans ?_)
  rw [zeroiseWith_passes (by omega) (by rw [if_neg (by omega)]; exact hn) (fun _ => congrArg Fin.val hd), zeroise_ke]
  rfl

theorem exec_zeroiseDevice (hd : d = 3) (h3 : pByte c.pkt 0 = 3) (hn : pLe c.pkt 2 2 = 0) {r : State × Nat × Nat × Nat}
    (hr : r = zeroise (s.keys.chans.map (·.1)) (fun _ => true) (fun _ => true) (clearMessages (Spec.taken s d tag))) :
    exec (.zeroiseDevice d tag) s =
      .next (finish d tag 0x00 0 r.2.1 r.2.2.1 r.2.2.2 none (raise 164 (bumpLiveVer (zeroiseCancels r.1)))) := by
  refine congrArg Host.Outcome.next ((live_dispatchIf_takes _ hc (by simp [zeroiseScope, h3])).trans ?_)
  rw [zeroiseWith_passes (by omega) (by rw [if_neg (by omega)]; exact hn) (fun _ => congrArg Fin.val hd), hr]
  rfl

end

/-- Settles O32: each scope is `zeroise` on what it takes in, and a slot that it does not take in stays (`keSlot_zeroise`). (The
name `zeroise` is the operation's own.) -/
theorem zeroiseOfEachScope : Obligations.Zeroise := by
  intro s d tag c
  refine ⟨fun n hc => exec_zeroiseChannel hc, fun cs hc h1 hn hnone hcs => ?_, fun hc hd h2 hn => ?_, fun hc hd h3 hn => ?_⟩
  · subst hcs
    obtain ⟨⟨z, n, k, v⟩, hr⟩ : ∃ r, r = zeroise ((s.keys.chans.map (·.1)).filter fun n => (chan s n).owner == some d.val)
      (fun y => y.owner == d.val) (fun y => y.owner == d.val) (Spec.taken s d tag) := ⟨_, rfl⟩
    refine ⟨z, n, k, v, hr, exec_zeroiseOwned (r := (z, n, k, v)) hc h1 hn hnone hr,
      congrArg (fun r => r.2.2.1) hr, fun j _ _ hj => ?_⟩
    have hz := keSlot_zeroise (Spec.taken s d tag) ((s.keys.chans.map (·.1)).filter fun n => (chan s n).owner == some d.val)
      (fun y => y.owner == d.val) (fun y => y.owner == d.val) (j := j) (beq_eq_false_iff_ne.2 hj)
    rwa [← hr] at hz
  · subst hd
    exact ⟨_, _, rfl, rfl, exec_zeroiseKe hc rfl h2 hn⟩
  · subst hd
    obtain ⟨⟨z, n, k, v⟩, hr⟩ : ∃ r, r = zeroise (s.keys.chans.map (·.1)) (fun _ => true) (fun _ => true)
      (clearMessages (Spec.taken s 3 tag)) := ⟨_, rfl⟩
    exact ⟨z, n, k, v, hr, exec_zeroiseDevice (r := (z, n, k, v)) hc rfl h3 hn hr⟩

end Sys2Proof.Machine
end

section
/-! O33: what becomes of a frame whose first byte crosses (R102, R105, R109, R119, R198) and of a frame whose last byte has been
received (R102, R112, R116). -/

namespace Sys2Proof.Machine

/-! Frames of one cycle are taken in ascending port order (R119). -/

/-- Frames sorted by port, those of one port in the order given. -/
def inPortOrder (fs : List RxFrame) : List RxFrame :=
  ((List.range 16).map fun q => fs.filter fun x => x.port.val == q).flatten

theorem exec_frameAdmit {s : State} (fs : List RxFrame) (hh : s.clk.held = false) :
    exec (.frameAdmit fs) s = .next ((inPortOrder fs).foldl admitFrame s) := congrArg Host.Outcome.next (live_run _ hh)

/-- In a sorted list the frames of port `n` follow those of the ports below it. -/
theorem filter_port_le {fs : List RxFrame} (h : fs.Pairwise fun x y => x.port ≤ y.port) (n : Nat) :
    (fs.filter fun x => decide (x.port.val ≤ n)) =
      (fs.filter fun x => decide (x.port.val < n)) ++ fs.filter fun x => x.port.val == n := by
  induction fs with
  | nil => rfl
  | cons x r ih =>
    obtain ⟨hx, hr⟩ := List.pairwise_cons.1 h
    rcases Nat.lt_trichotomy x.port.val n with hlt | heq | hgt
    · simp [hlt, Nat.le_of_lt hlt, Nat.ne_of_lt hlt, ih hr]
    · have hnone : r.filter (fun y => decide (y.port.val < n)) = [] :=
        List.filter_eq_nil_iff.2 fun y hy e => Nat.not_lt.2 (heq ▸ Fin.le_def.1 (hx y hy)) (of_decide_eq_true e)
      simp [heq, ih hr, hnone]
    · simp [Nat.lt_asymm hgt, Nat.not_le.2 hgt, Nat.ne_of_gt hgt, ih hr]

theorem inPortOrder_of_sorted {fs : List RxFrame} (h : fs.Pairwise fun x y => x.port ≤ y.port) : inPortOrder fs = fs := by
  have upTo : ∀ n, ((List.range n).map fun q => fs.filter fun x => x.port.val == q).flatten =
      fs.filter fun x => decide (x.port.val < n) := by
    intro n
    induction n with
    | zero => simp
    | succ n ih =>
      rw [List.range_succ, List.map_append, List.flatten_append, ih, List.map_singleton, List.flatten_singleton,
        ← filter_port_le h n]
      exact List.filter_congr fun x _ => decide_eq_decide.2 Nat.lt_succ_iff.symm
  exact (upTo 16).trans (List.filter_eq_self.2 fun x _ => decide_eq_true x.port.isLt)

theorem inPortOrder_swap {x y : RxFrame} (h : x.port.val < y.port.val) : inPortOrder [y, x] = inPortOrder [x, y] := by
  refine congrArg List.flatten (List.map_congr_left fun q _ => ?_)
  by_cases hx : x.port.val = q
  · simp [hx, Nat.ne_of_gt (hx ▸ h)]
  · simp [List.filter_cons, hx]

theorem exec_frameAdmit_one {s : State} (x : RxFrame) (hh : s.clk.held = false) :
    exec (.frameAdmit [x]) s = .next (admitFrame s x) := by
  rw [exec_frameAdmit _ hh, inPortOrder_of_sorted (List.pairwise_singleton ..)]; rfl

theorem exec_frameAdmit_two {s : State} {x y : RxFrame} (h : x.port.val < y.port.val) (hh : s.clk.held = false) :
    exec (.frameAdmit [x, y]) s = .next (admitFrame (admitFrame s x) y) ∧
      exec (.frameAdmit [y, x]) s = .next (admitFrame (admitFrame s x) y) := by
  have hxy : inPortOrder [x, y] = [x, y] := inPortOrder_of_sorted (List.pairwise_pair.2 (Nat.le_of_lt h))
  rw [exec_frameAdmit _ hh, exec_frameAdmit _ hh, inPortOrder_swap h, hxy]
  exact ⟨rfl, rfl⟩

/-! What a port's receiver takes (R102, R105, R116). -/

section
variable {s : State} {x : RxFrame}

theorem received_from_balls (h : portLoop (liveBank s) x.port = false) : received s x =
    some ({ x with coding := x.coding || (portFec (liveBank s) x.port != 0 && x.fecUncorrected != 0) }, s) :=
  if_neg (ne_true_of_eq_false h)

theorem received_none (h : portLoop (liveBank s) x.port = true) (hl : (port s x.port).looped = []) : received s x = none := by
  rw [received, if_pos h]
  dsimp only
  rw [hl]

theorem received_looped {bytes : Bytes} {ok : Bool} {r : List (Bytes × Bool)} (h : portLoop (liveBank s) x.port = true)
    (hl : (port s x.port).looped = (bytes, ok) :: r) : received s x =
      some ({ x with bytes := bytes,
                     coding := (x.coding || (portFec (liveBank s) x.port != 0 && x.fecUncorrected != 0)) || !ok },
        setPort x.port { port s x.port with looped := r } s) := by
  rw [received, if_pos h]
  dsimp only
  rw [hl]

/-- A receiver takes a frame of its own port; of the machine it changes at most the ports. -/
theorem received_frame {f : RxFrame} {z : State} (h : received s x = some (f, z)) :
    f.port = x.port ∧ ∃ ports, z = { s with ports := ports } := by
  cases hb : portLoop (liveBank s) x.port with
  | false =>
    rw [received_from_balls hb] at h
    cases h
    exact ⟨rfl, _, rfl⟩
  | true =>
    cases hl : (port s x.port).looped with
    | nil => rw [received_none hb hl] at h; cases h
    | cons e r =>
      rw [received_looped hb hl] at h
      cases h
      exact ⟨rfl, _, rfl⟩

theorem admitFrame_received {f : RxFrame} {z : State} (h : received s x = some (f, z)) :
    admitFrame s x = admitReceived z f := by
  rw [admitFrame, h]

theorem admitFrame_none (h : received s x = none) : admitFrame s x = s := by rw [admitFrame, h]

end

/-! The first byte at the Headbox (R30, R109, R111, R119, R198). -/

theorem portReceives_iff {p : Port} : portReceives p = true ↔ p.state ∈ [3, 4, 5] := by
  simp [portReceives, or_assoc]

/-- The count of FEC words leaves the root, the fault state and the banks as they are. -/
theorem fecCounted_note (s : State) (f : RxFrame) : (Spec.fecCounted s f).clk = s.clk ∧ (Spec.fecCounted s f).fault = s.fault ∧
    (Spec.fecCounted s f).stock = s.stock := by
  unfold Spec.fecCounted
  split
  · exact ⟨rfl, rfl, rfl⟩
  · simp only [cntAdd_clk, cntAdd_fault, cntAdd_stock, and_self]

/-- A frame that nothing refuses takes slot `i` of its direction, or finds none free. -/
def takeSlot (s : State) (f : RxFrame) : Option Nat → State
  | none => dropPort f.port 21 s
  | some i => freeNext (Spec.takenIn s (Spec.admitted s f i))

section
variable {s : State} {f : RxFrame}

theorem admitReceived_refused (h : s.fault.mode = 2 ∨ (port s f.port).state ∉ [3, 4, 5]) : admitReceived s f = s :=
  if_pos (h.imp_right fun hs => Bool.eq_false_iff.2 fun hr => hs (portReceives_iff.1 hr))

/-- What refuses a frame that the receiver takes, in the order in which it is asked, once the FEC words are counted (the order is
entry 33 of the log). -/
theorem admitReceived_receiving (hm : s.fault.mode ≠ 2) (hp : (port s f.port).state ∈ [3, 4, 5]) {y : State}
    (hy : y = Spec.fecCounted s f) : admitReceived s f =
      if s.clk.draining then cntAdd (portCnt f.port 15) 1 y
      else if !(port s f.port).carrying then cntAdd (portCnt f.port 14) 1 y
      else if s.clk.admitStopped then cntAdd (portCnt f.port 15) 1 y
      else if s.fault.mode = 1 then
        cntAdd (faultDiscardCnt f.port) 1 { y with faults := { y.faults with discFrames := satInc 64 y.faults.discFrames } }
      else takeSlot y f (pickSlot y (f.port / 8)) := by
  obtain ⟨hclk, hfault, hstock⟩ := fecCounted_note s f
  rw [← hclk, ← hfault, ← hy]
  rw [← hy] at hstock
  refine (if_neg (not_or.2 ⟨hm, ne_false_of_eq_true (portReceives_iff.2 hp)⟩)).trans ?_
  unfold Spec.fecCounted at hy
  dsimp only
  rw [← hy]
  cases pickSlot y (f.port / 8) with
  | none => rfl
  | some i =>
    rw [takeSlot, Spec.admitted, liveBank_congr hstock]
    rfl

end

/-! What a frame's first byte leaves of the root. -/

theorem takeSlot_clk (s : State) (f : RxFrame) (o : Option Nat) : (takeSlot s f o).clk = s.clk := by
  cases o with
  | none =>
    obtain ⟨_, _, _, _, h⟩ := dropOnset_frame (cntAdd (portCnt f.port 21) 1 s)
    rw [takeSlot, dropPort, h]
    rfl
  | some i => rfl

theorem admitReceived_clk (s : State) (f : RxFrame) : (admitReceived s f).clk = s.clk := by
  by_cases h : s.fault.mode = 2 ∨ (port s f.port).state ∉ [3, 4, 5]
  · rw [admitReceived_refused h]
  · obtain ⟨hm, hp⟩ := not_or.1 h
    rw [admitReceived_receiving hm (Decidable.not_not.1 hp) rfl]
    simp only [apply_ite State.clk, cntAdd_clk, takeSlot_clk, (fecCounted_note s f).1, ite_self]

theorem admitFrame_clk (s : State) (x : RxFrame) : (admitFrame s x).clk = s.clk := by
  cases hr : received s x with
  | none => rw [admitFrame_none hr]
  | some e =>
    obtain ⟨f, z⟩ := e
    obtain ⟨_, _, rfl⟩ := received_frame hr
    rw [admitFrame_received hr, admitReceived_clk]

/-! The end of a received frame (R102, R112, R116). -/

section
variable {f : Sheet}

theorem macVerdict_coding (h : f.coding = true) : macVerdict f = some 5 := if_pos h

variable (hc : f.coding = false)
include hc

theorem macVerdict_short (h : f.bytes.length < 64) : macVerdict f = some 3 := by simp [macVerdict, hc, h]

variable (h64 : 64 ≤ f.bytes.length)
include h64

theorem macVerdict_long (h : f.maxFrame < f.bytes.length) : macVerdict f = some 4 := by
  simp [macVerdict, hc, Nat.not_lt.2 h64, h]

variable (hmax : f.bytes.length ≤ f.maxFrame)
include hmax

theorem macVerdict_fcs
    (h : crc32 (f.bytes.take (f.bytes.length - 4)) ≠ leAt f.bytes (f.bytes.length - 4) 4) : macVerdict f = some 2 := by
  simp [macVerdict, hc, Nat.not_lt.2 h64, Nat.not_lt.2 hmax, h]

theorem macVerdict_good
    (h : crc32 (f.bytes.take (f.bytes.length - 4)) = leAt f.bytes (f.bytes.length - 4) 4) : macVerdict f = none := by
  simp [macVerdict, hc, Nat.not_lt.2 h64, Nat.not_lt.2 hmax, h]

end

section
variable {s : State} {q : PortId} {f : Sheet} (hh : s.clk.held = false)
  (hf : s.mach.frames.find? (fun f => f.port == q.val && !f.ended) = some f)
include hh hf

/-- A frame that the MAC finds bad is discarded, under the counter of its verdict. -/
theorem exec_macFrameEnd_bad {i : Nat} (h : macVerdict f = some i) :
    exec (.macFrameEnd q) s = .next (cntAdd (portCnt q i) 1 (discardFrm f s)) := by
  refine congrArg Host.Outcome.next ((live_run _ hh).trans ?_)
  simp only [frameEnd, hf, h]

/-- One that it finds good is passed on, unless its port is not mapped. -/
theorem exec_macFrameEnd_good (h : macVerdict f = none) {y : State}
    (hy : y = if beAt f.bytes 12 2 = 0x8808 then cntAdd (portCnt q 6) 1 s else s) :
    exec (.macFrameEnd q) s = .next (
      if f.stage = .unmapped then cntAdd (portCnt q 7) 1 (discardFrm f y)
      else modFrm f.id (fun x => { x with ended := true })
        (cntAdd (portCnt q 1) f.bytes.length (cntAdd (portCnt q 0) 1 y))) := by
  refine congrArg Host.Outcome.next ((live_run _ hh).trans ?_)
  simp only [frameEnd, hf, h, hy]

end

/-- Settles O33: what the receiver takes, what may refuse it, and the MAC's verdict, each by its equation; two frames of one cycle
by `inPortOrder`. -/
theorem frameReception : Obligations.FrameReception := by
  intro s hh
  refine ⟨?_, ?_, ?_, ?_⟩
  · rintro x p e rfl rfl
    refine ⟨received_from_balls, fun h hl => ?_, fun bytes ok r h hl => received_looped h hl⟩
    rw [exec_frameAdmit_one x hh, admitFrame_none (received_none h hl)]
  · rintro x f q p z y hr rfl rfl rfl
    rw [exec_frameAdmit_one x hh, admitFrame_received hr]
    obtain ⟨hq, _, hz⟩ := received_frame hr
    have hfault : s.fault = z.fault := by rw [hz]
    have hclk : s.clk = z.clk := by rw [hz]
    rw [← hq, hfault, hclk]
    refine ⟨fun h => congrArg _ (admitReceived_refused h), fun hm hp => ?_⟩
    rw [admitReceived_receiving hm hp rfl]
    refine ⟨fun hd => ?_, fun hd hc => ?_, fun hd hc ha => ?_, fun hd hc ha => ⟨fun h => ?_, fun h hn => ?_, fun i h hi => ?_⟩⟩
    · simp only [hd, if_true]
    · simp [hd, hc]
    · simp [hd, hc, ha]
    · simp [hd, hc, ha, h]
    · simp [hd, hc, ha, h, hn, takeSlot]
    · simp [hd, hc, ha, h, hi, takeSlot]
  · intro x y t u hxy ht hu
    obtain rfl := Host.Outcome.next.inj ((exec_frameAdmit_one x hh).symm.trans ht)
    have hh' : (admitFrame s x).clk.held = false := by rw [admitFrame_clk, hh]
    obtain rfl := Host.Outcome.next.inj ((exec_frameAdmit_one y hh').symm.trans hu)
    exact exec_frameAdmit_two hxy hh
  · rintro q f n hf rfl
    refine ⟨fun hc => exec_macFrameEnd_bad hh hf (macVerdict_coding hc),
      fun hc h => exec_macFrameEnd_bad hh hf (macVerdict_short hc h),
      fun hc h64 h => exec_macFrameEnd_bad hh hf (macVerdict_long hc h64 h),
      fun hc h64 hmax h => exec_macFrameEnd_bad hh hf (macVerdict_fcs hc h64 hmax h), fun y hc h64 hmax h hy => ?_⟩
    rw [exec_macFrameEnd_good hh hf (macVerdict_good hc h64 hmax h) hy]
    exact ⟨fun hu => congrArg _ (if_pos hu), fun hu => congrArg _ (if_neg hu)⟩

end Sys2Proof.Machine
end

section
/-! O36: from a Press lane to the line (R116, R124, R127, R128, R132, R134, R135, R137, R138). -/

namespace Sys2Proof.Machine

/-- A frame of a channel's sequence is that channel's. -/
theorem chan_of_inSequence {l : List Sheet} {c : Fin 8192} {f : Sheet} (hf : l.find? (inSequence (.channel c)) = some f) :
    f.chan = some c.val := by
  have h := List.find?_some hf
  simp only [inSequence, Bool.and_eq_true, beq_iff_eq] at h
  exact h.2

section
variable {s : State} (hh : s.clk.held = false)
include hh

/-! The Press (R128, R137). -/

/-- The head of a lane's queue joins the Dryer; one with an uncorrectable word is discarded. -/
theorem exec_pressDone {i : LaneId} {f : Sheet} {rest : List Sheet} (r : FeltRead) (hq : laneQueue s i = f :: rest) :
    exec (.pressDone i r) s = .next (
      if r.uncorrectable then feltUe f (feltCe r s) else modFrm f.id (fun x => { x with stage := .dryer }) (feltCe r s)) := by
  refine congrArg Host.Outcome.next ((live_run _ hh).trans ?_)
  rw [pressDone, hq]
  rfl

/-! The Dryer's release (R127, R132). -/

/-- A frame that is no channel's has no packet number to check. -/
theorem exec_dryerRelease_bypass {d : DryerQueue} {f : Sheet} (hf : s.mach.frames.find? (inSequence d) = some f)
    (hst : f.stage = .dryer) (he : f.ended = true) (hc : f.chan = none) :
    exec (.dryerRelease d) s = .next (enqueue f s) := by
  refine congrArg Host.Outcome.next ((live_run _ hh).trans ?_)
  simp [dryerRelease, hf, hst, he, hc]

section
variable {c : Fin 8192} {f : Sheet} {pn : Nat} (hf : s.mach.frames.find? (inSequence (.channel c)) = some f)
  (hst : f.stage = .dryer) (he : f.ended = true) (hpn : f.pn = some pn)
include hf hst he hpn

theorem exec_dryerRelease_encrypt (hw : f.port < 8) : exec (.dryerRelease (.channel c)) s = .next (enqueue f s) := by
  have hdir : frmDir f = 0 := Nat.div_eq_of_lt hw
  refine congrArg Host.Outcome.next ((live_run _ hh).trans ?_)
  simp [dryerRelease, hf, hst, he, hpn, chan_of_inSequence hf, hdir]

/-- A decrypted frame is checked for its ICV and then for replay, where its key still stands in a slot. -/
theorem exec_dryerRelease_decrypt {x : Bind} {k : KeySlot} (hd : 8 ≤ f.port) (hx : bindOf (bankOf s f.bank) c = some x)
    (hk : k = slotOf (chan s c) ((chan s c).nxt.kid == f.kid)) : exec (.dryerRelease (.channel c)) s = .next (
      if f.verified = false then discardChan f 7 s
      else if x.replay = true ∧ k.kid = f.kid ∧ replayBad k x.window pn = true then discardChan f 6 s
      else enqueue f (acceptPn c f.kid pn s)) := by
  have hdir : frmDir f ≠ 0 := Nat.ne_of_gt (Nat.div_pos hd (by decide))
  refine congrArg Host.Outcome.next ((live_run _ hh).trans ?_)
  simp [dryerRelease, hf, hst, he, hpn, chan_of_inSequence hf, hdir, hx, hk, and_assoc]

end

/-! Egress (R109, R116, R124, R134, R135). -/

theorem exec_egressSelect {q : PortId} {f : Sheet} {rest : List Sheet} {k : Nat} {g : Egress} (hfree : egressFree s q = true)
    (hdrr : drr 1024 (classWeight s q) (fun k => (frameQueue s q k).head?.map lineLength) 64 (egressOf s q) = some (k, g))
    (hk : k ∈ [1, 2, 3]) (hq : frameQueue s q k = f :: rest) : exec (.egressSelect q) s = .next (setEgress q
      (drrSpend g k (lineLength f) rest.isEmpty) (modFrm f.id (fun x => { x with stage := .chosen }) s)) := by
  refine congrArg Host.Outcome.next ((live_run _ hh).trans ?_)
  have hsome : ¬ (((frameQueue s q 1).head?.map lineLength).isNone && ((frameQueue s q 2).head?.map lineLength).isNone &&
      ((frameQueue s q 3).head?.map lineLength).isNone) = true := by
    simp only [List.mem_cons, List.not_mem_nil, or_false] at hk
    rcases hk with rfl | rfl | rfl <;> simp [hq]
  refine (if_neg (by rw [hfree]; decide)).trans ((if_neg hsome).trans ?_)
  rw [hdrr]
  dsimp only
  rw [hq]

/-- The Reel sends the chosen frame, unless its port is down or a word of it cannot be corrected. -/
theorem exec_reelStart {q : PortId} {f : Sheet} (r : FeltRead)
    (hf : s.mach.frames.find? (fun f => f.stage == .chosen && f.egress == q.val) = some f) :
    exec (.reelStart q r) s = .next (
      if !(port s q).carrying then discardDown true f s
      else if r.uncorrectable then feltUe f (feltCe r s)
      else sendOut q (wireFrame f.result) true
        (lineChange q (modFrm f.id fun x => { x with stage := .sending }) (feltCe r s))) := by
  refine congrArg Host.Outcome.next ((live_run _ hh).trans ?_)
  simp only [reelStart, hf]

theorem exec_frameTxEnd {q : PortId} {f : Sheet} {n : Nat} {y : State}
    (hf : s.mach.frames.find? (fun f => f.stage == .sending && f.egress == q.val) = some f) (hl : f.late = false)
    (hn : n = (wireFrame f.result).length)
    (hy : y = cntAdd (portCnt q 9) n (cntAdd (portCnt q 8) 1 (lineChange q (removeFrm f.id) s))) :
    exec (.frameTxEnd q) s = .next (portClose q (countSent f n y)) := by
  refine congrArg Host.Outcome.next ((live_run _ hh).trans ?_)
  simp [frameTxEnd, hf, hl, hn, hy]

/-! Felt scrubbing (R137, R138). -/

theorem exec_feltScrub (r : FeltRead) : exec (.feltScrub r) s = .next (onPclk (feltScrub r) s) :=
  congrArg Host.Outcome.next (live_run _ hh)

end

theorem onPclk_run {s : State} (f : State → State) (h : s.clk.pstate = .run) : onPclk f s = f s := if_pos h

theorem onPclk_gated {s : State} (f : State → State) (h : s.clk.pstate ≠ .run) : onPclk f s = s := if_neg h

theorem countSent_chan {f : Sheet} {c : Nat} (n : Nat) (s : State) (h : f.chan = some c) :
    countSent f n s = cntAdd (chanCnt c 1) n (cntAdd (chanCnt c 0) 1 s) := by rw [countSent, h]

theorem countSent_bypass {f : Sheet} (n : Nat) (s : State) (h : f.chan = none) :
    countSent f n s = cntAdd (portCnt f.port 19) n (cntAdd (portCnt f.port 18) 1 s) := by rw [countSent, h]

/-- A scrub read counts what it met, and the last of a pass counts the pass. -/
theorem feltScrub_eq (r : FeltRead) {s y : State}
    (hy : y = cntAdd feltCeCnt r.corrected { s with mach := { s.mach with scrub := (s.mach.scrub + 1) % 65536 } }) :
    feltScrub r s = (if s.mach.scrub = 65535 then cntAdd scrubCnt 1 else id)
      (if r.uncorrectable then cntAdd feltUeCnt 1 y else y) := by
  subst hy
  by_cases h : s.mach.scrub = 65535
  · exact (if_pos (congrArg (· + 1) h)).trans (by rw [if_pos h]; rfl)
  · exact (if_neg fun e => h (Nat.succ.inj e)).trans (by rw [if_neg h]; rfl)

/-- Settles O36: each command by its equation, of which each case of the statement takes one branch. -/
theorem framesLeave : Obligations.FramesLeave := by
  intro s r q hh
  refine ⟨fun i f rest hq => ⟨fun h => ?_, fun h => ?_⟩, fun c f pn x k hf hst he hpn hx hk => ⟨?_, ?_, ?_, ?_⟩,
    fun f hf hst he hc => exec_dryerRelease_bypass (d := .bypass q) hh hf hst he hc,
    fun f rest k g hfree hdrr hk hq => exec_egressSelect hh hfree hdrr hk hq,
    fun f hf => ⟨fun hc => ?_, fun hc h => ?_, fun hc h => ?_⟩,
    fun f n y hf hn hy hl => ⟨fun c hc => ?_, fun hc => ?_⟩, fun bytes p hp => ⟨fun h => ?_, fun h => ?_⟩,
    fun y hy => ⟨fun h => ?_, fun h => ?_⟩⟩
  · rw [exec_pressDone hh r hq, h]; rfl
  · rw [exec_pressDone hh r hq, h]; rfl
  · exact exec_dryerRelease_encrypt hh hf hst he hpn
  · intro hd _ hv
    rw [exec_dryerRelease_decrypt hh hf hst he hpn hd hx hk, if_pos hv]
  · intro hd _ hv hr hkid hbad
    rw [exec_dryerRelease_decrypt hh hf hst he hpn hd hx hk, if_neg (ne_false_of_eq_true hv), if_pos ⟨hr, hkid, hbad⟩]
  · intro hd _ hv hok
    rw [exec_dryerRelease_decrypt hh hf hst he hpn hd hx hk, if_neg (ne_false_of_eq_true hv), if_neg]
    rintro ⟨hr, hkid, hbad⟩
    rcases hok with h | h | h
    · exact absurd hr (ne_true_of_eq_false h)
    · exact h hkid
    · exact absurd hbad (ne_true_of_eq_false h)
  · rw [exec_reelStart hh r hf, hc]; rfl
  · rw [exec_reelStart hh r hf, hc, h]; rfl
  · rw [exec_reelStart hh r hf, hc, h]; rfl
  · rw [exec_frameTxEnd hh hf hl hn hy, countSent_chan n y hc]
  · rw [exec_frameTxEnd hh hf hl hn hy, countSent_bypass n y hc]
  · exact if_neg (ne_true_of_eq_false h)
  · rw [hp]; exact if_pos h
  · rw [exec_feltScrub hh, onPclk_gated _ h]
  · rw [exec_feltScrub hh, onPclk_run _ h, feltScrub_eq r hy]

end Sys2Proof.Machine
end

section
/-! O37: Press lanes in and out of service (R130, R131, Table 7-3), and the states of a port (R108, R109, R111, Table 6-4). -/

namespace Sys2Proof.Machine

/-! The table of lanes. -/

/-- A lane's state, once it is no longer the one it has out of reset, reads back. -/
theorem lane_laneTo_state {i st : Nat} (s : State) (h : st ≠ 3) : (lane (laneTo i st s) i).state = st := by
  have hne : { lane s i with state := st } ≠ ({} : PLane) := fun e => h (congrArg PLane.state e)
  have hmach : (laneTo i st s).mach = (setLane i { lane s i with state := st } s).mach := raise_mach ..
  rw [lane, hmach]
  show (tget {} (tset {} s.mach.lanes i _) i).state = st
  rw [tset, if_neg hne, tget_tins_same]

theorem lane_congr {s t : State} (h : t.mach = s.mach) (i : Nat) : lane t i = lane s i := by rw [lane, h, lane]

theorem laneReplies_mach (i detail : Nat) (cs : List (Nat × Nat)) (s : State) : (laneReplies i detail cs s).mach = s.mach := by
  unfold laneReplies
  induction cs generalizing s with
  | nil => rfl
  | cons c r ih => rw [List.foldl_cons, ih, laneReply, finish_mach]

theorem laneReply_eq {i st : Nat} {s : State} (detail : Nat) (c : Nat × Nat) (h : (lane s i).state = st) :
    laneReply i detail c s = finish c.1 c.2 (if detail = 0 then 0x00 else 0x01) detail st 0 0 none s := by
  rw [laneReply, h]; rfl

/-! REMOVE and RESTORE by the lane's state (R130). -/

section
variable {s : State} {i : Nat} {c : Nat × Nat}

theorem laneRemove_inService (h : (lane s i).state = 0) (h1 : 1 < (lanesInService s).length) :
    laneRemove i c s = laneTo i 1 (setLane i { lane s i with removes := (lane s i).removes ++ [c] } s) :=
  (if_pos h).trans (if_neg (Nat.not_le.2 h1))

/-- The last lane in service stays. -/
theorem laneRemove_last (h : (lane s i).state = 0) (h1 : (lanesInService s).length ≤ 1) :
    laneRemove i c s = finish c.1 c.2 0x22 0 0 0 0 none s := by
  refine (if_pos h).trans ((if_pos h1).trans ?_)
  rw [h]; rfl

theorem laneRemove_draining (h : (lane s i).state = 1) :
    laneRemove i c s = setLane i { lane s i with removes := (lane s i).removes ++ [c] } s := by
  simp [laneRemove, h]

theorem laneRemove_out (h : (lane s i).state = 2 ∨ (lane s i).state = 5) :
    laneRemove i c s = finish c.1 c.2 0x00 0 (lane s i).state 0 0 none s := by
  rcases h with h | h <;> simp [laneRemove, h, laneReply_eq 0 c h]

/-- A lane on its way into service is OUT, and what restored it ends. -/
theorem laneRemove_testing (h : (lane s i).state = 3 ∨ (lane s i).state = 4) :
    laneRemove i c s = finish c.1 c.2 0x00 0 2 0 0 none
      (laneReplies i 0x22 (lane s i).restore (laneTo i 2 (setLane i { lane s i with restore := [] } s))) := by
  have hstate : (lane (laneReplies i 0x22 (lane s i).restore
      (laneTo i 2 (setLane i { lane s i with restore := [] } s))) i).state = 2 := by
    rw [lane_congr (laneReplies_mach _ _ _ _), lane_laneTo_state _ (by decide)]
  refine Eq.trans ?_ (laneReply_eq 0 c hstate)
  rcases h with h | h <;> simp [laneRemove, h]

theorem laneRestore_out (h : (lane s i).state = 2 ∨ (lane s i).state = 5) : laneRestore i c s = laneTest i [c] s := if_pos h

theorem laneRestore_draining (h : (lane s i).state = 1) :
    laneRestore i c s = setLane i { lane s i with restoreNext := (lane s i).restoreNext ++ [c] } s := by
  simp [laneRestore, h]

theorem laneRestore_refused (h : (lane s i).state = 0 ∨ (lane s i).state = 3 ∨ (lane s i).state = 4) :
    laneRestore i c s = finish c.1 c.2 0x01 0x21 (lane s i).state 0 0 none s := by
  rcases h with h | h | h <;> simp [laneRestore, h, laneReply_eq 0x21 c h]

end

/-! LANE_SERVICE and the ends of a drain and of a test. -/

section
variable {s : State} {i : LaneId} {tag : Nat} {c : Cmd} (hc : Spec.Takes s 3 tag 0x72 c) (hi : pByte c.pkt 0 = i)
include hc hi

/-- LANE_SERVICE's checks pass a lane and an operation that there are. -/
theorem laneService_passes {want op : Nat} (f : Nat → State → State) (hop : pByte c.pkt 1 = op) (h1 : op ≤ 1)
    (hw : ((if op = 1 then 1 else 0) == want) = true) :
    live s (laneService want tag f) = f i (Spec.taken s 3 tag) := by
  refine (live_dispatchIf_takes _ hc (by rw [hop]; exact hw)).trans ?_
  rw [if_neg (by rw [hi]; omega), if_neg (by omega), hi]

theorem exec_laneServiceRemove (hop : pByte c.pkt 1 = 0) :
    exec (.laneServiceRemove tag) s = .next (laneRemove i (3, tag) (Spec.taken s 3 tag)) :=
  congrArg Host.Outcome.next (laneService_passes hc hi _ hop (by decide) rfl)

theorem exec_laneServiceRestore (hop : pByte c.pkt 1 = 1) :
    exec (.laneServiceRestore tag) s = .next (laneRestore i (3, tag) (Spec.taken s 3 tag)) :=
  congrArg Host.Outcome.next (laneService_passes hc hi _ hop (by decide) rfl)

end

section
variable {s : State} (hh : s.clk.held = false)
include hh

theorem exec_laneDrained {i : LaneId} (h : (lane s i).state = 1) (hq : laneQueue s i = []) :
    exec (.laneDrained i) s = .next (laneOut i s) :=
  congrArg Host.Outcome.next ((live_run _ hh).trans (if_pos ⟨h, by rw [hq]; rfl⟩))

theorem exec_laneKatDone (i : LaneId) (pass : Bool) : exec (.laneKatDone i pass) s = .next (onPclk (laneKat i pass) s) :=
  congrArg Host.Outcome.next (live_run _ hh)

end

/-- A drained lane is OUT; RESTOREs that waited go on with one test. -/
theorem laneOut_eq {s y : State} {i : Nat} (hy : y = laneReplies i 0 (lane s i).removes
      (laneTo i 2 (setLane i { lane s i with removes := [], restoreNext := [] } s))) :
    laneOut i s = if (lane s i).restoreNext = [] then y else laneTest i (lane s i).restoreNext y := by
  simp only [laneOut, List.isEmpty_iff, hy]

/-- A test's end where a lane tests itself. -/
theorem laneKat_testing {s : State} {i : Nat} (pass : Bool) (h : (lane s i).state = 3) : laneKat i pass s =
    if pass then laneTo i 4 s
    else laneReplies i 0x20 (lane s i).restore (laneTo i 5 (setLane i { lane s i with restore := [] } s)) :=
  if_neg (not_not_intro h)

/-! The states of a port (R107–R111). -/

section
variable {s : State} {q st : Nat}

theorem lanesOff_iff : lanesOff st = true ↔ st ∈ [0, 1, 6] := by
  simp [lanesOff, psDisabled, psReconfig, psDim, or_assoc]

theorem portIn_eq (p : Port) : portIn st p =
    { p with state := st, carrying := false, cdr := if st ∈ [0, 1, 6] then 0 else p.cdr
             looped := if st ∈ [0, 1, 6] then [] else p.looped, closing := p.closing && st != 0 } := by
  simp only [portIn, lanesOff_iff]
  rfl

theorem portCal_wet {lose : Bool} {f : State → State} (h : q < 8) : portCal q lose f = f := funext fun _ => if_pos h

theorem portCal_dry {lose : Bool} {f : State → State} (h : 8 ≤ q) :
    portCal q lose f = calChange (q - 8) fun x => if lose then loseSync (q - 8) (f x) else f x :=
  funext fun _ => if_neg (Nat.not_lt.2 h)

/-- A port that changes state: what its lanes carry changes, a departure from UP but for DIM counts, and its source is raised. -/
theorem portTo_changes (h : st ≠ (port s q).state) : portTo q st s = raise (88 + q)
    ((if (port s q).state = 5 ∧ st ≠ 6 then cntAdd (portCnt q 13) 1 else id)
      (lineChange q (portCal q ((port s q).state == 5) (setPort q (portIn st (port s q)))) s)) := by
  refine (if_neg (Ne.symm h)).trans (congrArg _ ?_)
  by_cases hl : (port s q).state = 5 ∧ st ≠ 6
  · rw [if_pos hl]
    exact if_pos (by simpa [psUp, psDim] using hl)
  · rw [if_neg hl]
    exact if_neg (by simpa [psUp, psDim] using hl)

end

section
variable {s : State} {q : PortId} {signal : Bool} {cdr : Byte} (hh : s.clk.held = false)
include hh

theorem exec_portLanesSet (h : (port s q).state = 1 ∨ ((port s q).state = 6 ∧ s.clk.runWanted = true)) :
    exec (.portLanesSet q signal cdr) s = .next (portCdr q cdr.toNat (portTo q (if signal then 3 else 2) s)) :=
  congrArg Host.Outcome.next ((live_run _ hh).trans (if_pos h))

theorem exec_signalChange (h : (port s q).state = 2 ∨ (port s q).state = 3) :
    exec (.signalChange q signal cdr) s = .next (portCdr q cdr.toNat (portTo q (if signal then 3 else 2) s)) :=
  congrArg Host.Outcome.next ((live_run _ hh).trans (if_pos h))

theorem exec_lockLoss (h : (port s q).state = 5 ∨ (port s q).state = 4) :
    exec (.lockLoss q signal cdr) s = .next (portCdr q cdr.toNat (portTo q (if signal then 3 else 2) s)) :=
  congrArg Host.Outcome.next ((live_run _ hh).trans (if_pos h))

theorem exec_remoteFaultRx (h : (port s q).state = 5 ∨ (port s q).state = 3) :
    exec (.remoteFaultRx q) s = .next (portCdr q 0xFF (portTo q 4 s)) :=
  congrArg Host.Outcome.next ((live_run _ hh).trans (if_pos h))

theorem exec_portUp (h : (port s q).state = 3 ∨ (port s q).state = 4) :
    exec (.portUp q) s = .next (portCdr q 0xFF (portTo q 5 s)) :=
  congrArg Host.Outcome.next ((live_run _ hh).trans (if_pos h))

end

/-- Settles O37: a lane's commands by its state, and a port's by the one equation of a change of state. -/
theorem lanesAndPorts : Obligations.LanesAndPorts := by
  refine ⟨?_, ?_⟩
  · rintro s i l hh rfl
    refine ⟨fun tag c x hc hi hx => ?_, fun y h hq hy => ?_, fun hp pass => ?_, fun hp h => ?_, fun hp h => ?_⟩
    · have hlane : lane s i = lane x i := by rw [hx]; rfl
      have hserve : ((List.range 8).filter fun j => (lane s j).state == 0) = lanesInService x := by rw [hx]; rfl
      rw [hlane, hserve]
      refine ⟨fun hop => ?_, fun hop => ?_⟩
      · rw [exec_laneServiceRemove hc hi hop, ← hx]
        exact ⟨fun h h1 => congrArg _ (laneRemove_inService h h1), fun h h1 => congrArg _ (laneRemove_last h h1),
          fun h => congrArg _ (laneRemove_draining h), fun h => congrArg _ (laneRemove_out h),
          fun h => congrArg _ (laneRemove_testing h)⟩
      · rw [exec_laneServiceRestore hc hi hop, ← hx]
        exact ⟨fun h => congrArg _ (laneRestore_out h), fun h => congrArg _ (laneRestore_draining h),
          fun h => congrArg _ (laneRestore_refused h)⟩
    · rw [exec_laneDrained hh h hq, laneOut_eq hy]; rfl
    · rw [exec_laneKatDone hh, onPclk_gated _ hp]
    · rw [exec_laneKatDone hh, onPclk_run _ hp, laneKat_testing _ h]; rfl
    · rw [exec_laneKatDone hh, onPclk_run _ hp, laneKat_testing _ h]; rfl
  · rintro s q signal cdr p t hh rfl rfl
    refine ⟨exec_portLanesSet hh, exec_signalChange hh, exec_lockLoss hh, exec_remoteFaultRx hh, exec_portUp hh,
      fun st p1 hst hp1 => ?_⟩
    rw [portTo_changes hst, portIn_eq, ← hp1]
    refine ⟨fun hw => ?_, fun hd => ?_⟩
    · rw [portCal_wet hw]
    · rw [portCal_dry hd]
      simp only [beq_iff_eq]

end Sys2Proof.Machine
end

section
/-! O41: MODULE_XFER and the ends of a transaction (R113–R115, R255). -/

namespace Sys2Proof.Machine

/-! The table of controllers. -/

/-- A second entry at an index replaces the first. -/
theorem tins_tins_same {α : Type} (t : Table α) (i : Nat) (u v : α) : tins (tins t i u) i v = tins t i v := by
  induction t with
  | nil => simp [tins]
  | cons e r ih =>
    obtain ⟨k, w⟩ := e
    rcases Nat.lt_trichotomy i k with h | rfl | h
    · simp [tins, h]
    · simp [tins]
    · simp [tins, Nat.lt_asymm h, Nat.ne_of_gt h, ih]

section
variable {n : Nat} {c c' : I2cCtl} (s : State)

/-- A controller with work is not in its state of reset. -/
theorem i2cCtl_ne_default (h : c.queue ≠ []) : c ≠ {} := fun e => h (congrArg I2cCtl.queue e)

theorem i2cCtl_setI2c (h : c.queue ≠ []) : i2cCtl (setI2c n c s) n = c := by
  rw [i2cCtl, setI2c_i2c, tset, if_neg (i2cCtl_ne_default h), tget_tins_same]

theorem setI2c_setI2c (h : c.queue ≠ []) (h' : c'.queue ≠ []) : setI2c n c' (setI2c n c s) = setI2c n c' s := by
  have ht : tset {} (tset {} s.i2c n c) n c' = tset {} s.i2c n c' := by
    simp only [tset, if_neg (i2cCtl_ne_default h), if_neg (i2cCtl_ne_default h'), tins_tins_same]
  simp only [setI2c, ht]

end

theorem i2cCtl_modCmd (n d tag : Nat) (f : Cmd → Cmd) (s : State) : i2cCtl (modCmd d tag f s) n = i2cCtl s n := rfl

theorem setI2c_modCmd (n d tag : Nat) (c : I2cCtl) (f : Cmd → Cmd) (s : State) :
    setI2c n c (modCmd d tag f s) = modCmd d tag f (setI2c n c s) := rfl

theorem xferNote_i2c (n : Nat) (t : I2cXfer) (detail count : Nat) (data : Option Bytes) (s : State) :
    (xferNote n t detail count data s).i2c = s.i2c := by
  obtain ⟨_, _, _, _, _, _, h⟩ := finish_frame t.door t.tag stDoneNote detail count 0 0 data (raise (104 + n) s)
  rw [xferNote, h, raise_frame]

theorem busSend_of_regs {s y : State} {n : Nat} {l : List I2cBit} (h : y.regs = s.regs) :
    busSend n l y = emit (.i2c n ((reg s (gpioBase + 0x0A0 + 4 * n)).toNat % 4) l) y := by
  rw [busSend, reg, h, reg]

/-! What a controller starts (R113, R115, R255). -/

section
variable {s : State} {n : Nat}

theorem i2cStart_running (fuel : Nat) (h : (i2cCtl s n).running = true) : i2cStart fuel n s = s := by
  cases fuel with
  | zero => rfl
  | succ k => exact if_pos h

theorem i2cStart_empty (fuel : Nat) (h : (i2cCtl s n).queue = []) : i2cStart fuel n s = s := by
  cases fuel with
  | zero => rfl
  | succ k => simp [i2cStart, h]

section
variable {t : I2cXfer} {rest : List I2cXfer} (fuel : Nat) (hr : (i2cCtl s n).running = false)
  (hq : (i2cCtl s n).queue = t :: rest)
include hr hq

theorem i2cStart_disabled (he : i2cEnabled s n = false) : i2cStart (fuel + 1) n s =
    i2cStart fuel n (xferNote n t 0x14 0 none (setI2c n { i2cCtl s n with queue := rest } s)) := by
  simp [i2cStart, hr, hq, he]

theorem i2cStart_enabled {y : State} (he : i2cEnabled s n = true)
    (hy : y = modCmd t.door t.tag (fun z => { z with committed := true }) (selectFor n t s)) :
    i2cStart (fuel + 1) n s = busSend n (busBits t) (setI2c n { i2cCtl y n with running := true } y) := by
  simp [i2cStart, hr, hq, he, hy]

end

/-- A module without a select pin leaves the lines as they are where none is held. -/
theorem selectFor_noPin {c : I2cCtl} {t : I2cXfer} (hq : c.queue ≠ []) (hc : c.sel = 255) (ht : t.select = 255) :
    selectFor n t (setI2c n c s) = setI2c n { c with last := t.port } s := by
  have hctl := i2cCtl_setI2c (n := n) s hq
  unfold selectFor
  rw [hctl]
  obtain ⟨q, r, l, _⟩ := c
  obtain rfl : _ = 255 := hc
  by_cases h : l = t.port
  · simp [h, ht]
  · simp only [h, false_and, if_false, if_true, ht]
    exact setI2c_setI2c s hq hq

/-- A transfer that joins the empty queue of an enabled controller starts. -/
theorem i2cPump_starts {c : I2cCtl} {t : I2cXfer} (hr : c.running = false) (hq : c.queue = [t]) (he : i2cEnabled s n = true)
    (hc : c.sel = 255) (ht : t.select = 255) : i2cPump n (setI2c n c s) = busSend n (busBits t)
      (modCmd t.door t.tag (fun z => { z with committed := true })
        (setI2c n { queue := [t], running := true, last := t.port, sel := 255 } s)) := by
  obtain ⟨q, r, l, e⟩ := c
  obtain ⟨rfl, rfl, rfl⟩ : r = false ∧ q = [t] ∧ e = 255 := ⟨hr, hq, hc⟩
  have hne : [t] ≠ [] := List.cons_ne_nil t []
  have hctl := i2cCtl_setI2c (n := n) (c := ⟨[t], false, l, 255⟩) s hne
  have hsel := selectFor_noPin (s := s) (n := n) (c := ⟨[t], false, l, 255⟩) hne rfl ht
  have henabled : i2cEnabled (setI2c n ⟨[t], false, l, 255⟩ s) n = true := he
  rw [i2cPump, i2cStart_enabled _ (by rw [hctl]) (by rw [hctl]) henabled (by rw [hsel]), i2cCtl_modCmd, i2cCtl_setI2c s hne,
    setI2c_modCmd, setI2c_setI2c s hne hne]

/-- A transfer that joins the empty queue of a disabled controller ends. -/
theorem i2cPump_disabled {c : I2cCtl} {t : I2cXfer} (hw : tableWf {} 0 s.i2c = true) (hr : c.running = false)
    (hq : c.queue = [t]) (he : i2cEnabled s n = false) : i2cPump n (setI2c n c s) =
      xferNote n t 0x14 0 none (setI2c n { c with queue := [] } (setI2c n c s)) := by
  have hctl := i2cCtl_setI2c (n := n) (c := c) s (by rw [hq]; exact List.cons_ne_nil t [])
  have henabled : i2cEnabled (setI2c n c s) n = false := he
  rw [i2cPump, i2cStart_disabled _ (by rw [hctl, hr]) (by rw [hctl, hq]) henabled, hctl]
  refine i2cStart_empty _ ?_
  rw [i2cCtl, xferNote_i2c, setI2c_i2c, setI2c_i2c, tget_tset_same _ _ (tableWf_tset _ _ hw)]

end

/-! MODULE_XFER (R114, R255). -/

section
variable {s : State} {d : DoorId} {tag : Nat} {c : Cmd} {hostIn : Option Bytes} {bs : Bytes}

theorem xferLength_none (hx : Spec.XferOk s d c hostIn tag bs) : xferLength c = none := by
  obtain ⟨_, _, hop, _, _, hwrite, hread, _, _⟩ := hx
  unfold xferLength
  by_cases h : pByte c.pkt 1 = 1
  · obtain ⟨hin, hout⟩ := hwrite h
    simp [h, hin, hout]
  · obtain ⟨hin, hout⟩ := hread (by omega)
    simp [h, lengthBad, hin, Nat.not_lt.2 hout]

/-- A transfer that passes its checks joins the queue of its module's controller, where there is a module. -/
theorem exec_moduleXfer {p : Port} {t : I2cXfer} (hc : Spec.Takes s d tag 0x54 c) (hx : Spec.XferOk s d c hostIn tag bs)
    (hp : p = port s (pByte c.pkt 0))
    (ht : t = { door := d, tag := tag, port := pByte c.pkt 0, addr := p.addr, select := p.select, write := pByte c.pkt 1 == 1
                off := pByte c.pkt 2, len := pByte c.pkt 3, data := bs }) :
    exec (.moduleXfer d tag hostIn) s = .next (
      if p.ctrl = 0 then finish d tag 0x36 0 0 0 0 none (Spec.taken s d tag)
      else i2cPump (p.ctrl - 1) (setI2c (p.ctrl - 1) { i2cCtl s (p.ctrl - 1) with
        queue := (i2cCtl s (p.ctrl - 1)).queue ++ [t] } (Spec.taken s d tag))) := by
  have hlen := xferLength_none hx
  obtain ⟨hptr, hq, hop, hlo, hhi, _, _, hown, hin⟩ := hx
  refine congrArg Host.Outcome.next ((live_dispatch_takes _ hc).trans ?_)
  have hport : port (Spec.taken s d tag) (pByte c.pkt 0) = p := hp.symm
  have hrange : inRange (pByte c.pkt 3) 1 128 = true := inRange_iff.2 ⟨hlo, hhi⟩
  have hnone : (if 1 < pByte c.pkt 1 then none else xferLength c) = none := by rw [hlen, ite_self]
  have hdoor : mayUse p.owner d = true := by rw [hp]; exact hown
  simp only [hport, hptr, hnone, hrange, hdoor, hin, Bool.not_true, Bool.false_eq_true, if_false, if_neg (Nat.not_lt.2 hq),
    if_neg (Nat.not_lt.2 hop), ht]
  rfl

end

/-! The ends of a transaction (R113, R114). -/

section
variable {s : State} {n : Nat} {t : I2cXfer} {rest : List I2cXfer} {y : State} (hq : (i2cCtl s n).queue = t :: rest)
  (hr : (i2cCtl s n).running = true) (he : i2cEnabled s n = true)
  (hy : y = setI2c n { i2cCtl s n with queue := rest, running := false } s)
include hq hr he hy

/-- A transaction that succeeds replies with all of its data. -/
theorem i2cEnd_done (k : Nat) (bs : Bytes) : i2cEnd n none k bs s = i2cPump n (finish t.door t.tag 0x00 0 t.len 0 0
    (if t.write then none else some (fitBytes t.len bs)) y) := by
  simp only [i2cEnd, hq, hr, he, hy]
  rfl

/-- One that fails replies with what it had transferred; a bus timeout frees the bus first. -/
theorem i2cEnd_failed {k m : Nat} {bs : Bytes} {out : Option Bytes} (detail : Nat) (hm : m = min k t.len)
    (hout : out = if t.write = true ∨ m = 0 then none else some (fitBytes m bs)) :
    i2cEnd n (some detail) k bs s = i2cPump n (finish t.door t.tag 0x01 detail m 0 0 out
      (raise (104 + n) (if detail = 0x12 then busSend n [.pulses 9, .stop] y else y))) := by
  simp only [i2cEnd, hq, hr, he, hy, hm, hout, Bool.or_eq_true, beq_iff_eq]
  rfl

end

/-- Settles O41: a transfer joins its controller's queue and what the controller then starts is one case of `i2cStart`; a
transaction ends by one of two equations. -/
theorem moduleTransfers : Obligations.ModuleTransfers := by
  refine ⟨?_, ?_⟩
  · rintro s d tag c hostIn bs p n x t hc hx hp rfl rfl ht
    rw [exec_moduleXfer hc hx hp ht]
    refine ⟨fun h => congrArg _ (if_pos h), fun h hr => congrArg _ ((if_neg h).trans ?_),
      fun h hr hq he hs hsel => congrArg _ ((if_neg h).trans ?_), fun hw h hr hq he => congrArg _ ((if_neg h).trans ?_)⟩
    · have hctl := i2cCtl_setI2c (n := p.ctrl - 1) (c := { i2cCtl s (p.ctrl - 1) with
        queue := (i2cCtl s (p.ctrl - 1)).queue ++ [t] }) (Spec.taken s d tag) (by simp)
      exact i2cStart_running _ (by rw [hctl, hr])
    · rw [hq]
      refine (i2cPump_starts (s := Spec.taken s d tag) (c := { i2cCtl s (p.ctrl - 1) with queue := [t] })
        hr rfl he hsel hs).trans ?_
      refine (busSend_of_regs (s := s) (by simp only [modCmd_regs, setI2c_regs, Spec.taken])).trans ?_
      rw [ht]
      rfl
    · rw [hq]
      refine (i2cPump_disabled (s := Spec.taken s d tag) (c := { i2cCtl s (p.ctrl - 1) with queue := [t] }) hw hr rfl he).trans ?_
      rw [xferNote, ht]
      rfl
  · rintro s n k bs t rest m out y hh hq hr he hm hout hy
    have hnack := i2cEnd_failed hq hr he hy (k := 0) (bs := []) (out := none) 0x10 (Nat.zero_min _).symm (by simp)
    have hfail := fun detail => i2cEnd_failed hq hr he hy detail hm hout
    have ends {f : State → State} {z : State} (h : f s = z) :
        Host.Outcome.next (φ := Fault) (ρ := Refusal) (live s f) = .next z := congrArg _ ((live_run _ hh).trans h)
    refine ⟨ends (i2cEnd_done hq hr he hy k bs), ends hnack, ends (hfail 0x11), ends (hfail 0x13), ends ?_⟩
    rw [hfail 0x12, if_pos rfl, busSend_of_regs (s := s) (by rw [hy]; rfl)]

end Sys2Proof.Machine
end

section
/-! O35: what the Couch does with the oldest frame of a direction (R126–R129, R144, R148, R169, R175). The command hands a
channel's frame to `dealCells`, `dealEncrypt` or `dealDecrypt`, and each of these has one equation per case. -/

namespace Sys2Proof.Machine

section
variable {s : State} {dir : Fin 2} {f : Sheet} (hh : s.clk.held = false) (hf : Spec.oldest s .couch dir = some f)
include hh hf

/-! The command (R128). -/

theorem exec_couchDeal_bypass (hc : f.chan = none) : exec (.couchDeal dir) s =
    .next (passCouch { f with stage := .dryer, verified := true, result := bodyOf f } s) := by
  refine congrArg Host.Outcome.next ((live_run _ hh).trans ?_)
  unfold Spec.oldest at hf
  simp only [couchDeal, hf, hc]

/-- A frame of a bound channel goes by its direction, and in the encrypt direction by the protocol of its dry port. -/
theorem exec_couchDeal_channel {c : Nat} {x : Bind} (hc : f.chan = some c) (hx : bindOf (bankOf s f.bank) c = some x) :
    exec (.couchDeal dir) s = .next (
      if dir.val = 1 then dealDecrypt f c x s
      else if isCal (bankOf s f.bank) x.dry then dealCells f c x s
      else dealEncrypt f c x s) := by
  refine congrArg Host.Outcome.next ((live_run _ hh).trans ?_)
  unfold Spec.oldest at hf
  simp only [couchDeal, hf, hc, hx]

end

section
variable {s : State} {f : Sheet} {c : Nat} {x : Bind}

/-! Toward a Calender port (R128, R169). -/

theorem carrierReady_iff {d : Nat} : carrierReady s d = true ↔ (chan s (latTx (calBank s d) d)).cur.state = 2 := beq_iff_eq

theorem dealCells_no_carrier (hk : carrierReady s x.dry = false) :
    dealCells f c x s = Spec.atEnd s f (discardChan f 5 s) := by
  rw [dealCells, hk]
  rfl

section
variable (hk : carrierReady s x.dry = true)
include hk

theorem dealCells_held (hl : pickLane (rebind c s) (chan (rebind c s) c).lanes = none) :
    dealCells f c x s = rebind c s := by
  simp only [dealCells, hk, hl, if_true]

theorem dealCells_passes {i : Nat} (hl : pickLane (rebind c s) (chan (rebind c s) c).lanes = some i) :
    dealCells f c x s =
      passCouch { f with stage := .dryer, verified := true, result := bodyOf f } (rebind c s) := by
  simp only [dealCells, hk, hl, if_true]

end

/-! Toward a MACsec port (R126, R128, R144). -/

theorem dealEncrypt_no_key (hw : encSlot (chan s c) f.boundary = none) :
    dealEncrypt f c x s = Spec.atEnd s f (discardChan f 5 s) := by
  rw [dealEncrypt, hw]
  rfl

section
variable {w : Bool} (hw : encSlot (chan s c) f.boundary = some w)
include hw

/-- A frame held for want of a lane has no packet number yet. -/
theorem dealEncrypt_held (hl : pickLane (rebind c s) (chan (rebind c s) c).lanes = none) :
    dealEncrypt f c x s = rebind c s := by
  simp only [dealEncrypt, hw, hl]

theorem dealEncrypt_dealt {i : Nat} {k : KeySlot} (hl : pickLane (rebind c s) (chan (rebind c s) c).lanes = some i)
    (hk : k = slotOf (chan (rebind c s) c) w) : dealEncrypt f c x s = assignPn c w (passCouch
      { f with stage := .press, lane := i, pn := some k.pn, kid := k.kid, verified := true,
               result := macsecSeal x k k.pn (bodyOf f) } (rebind c s)) := by
  simp only [dealEncrypt, hw, hl, hk]

end

/-! From a MACsec port (R127, R145, R148, R175). -/

theorem dealDecrypt_no_key (hw : decSlot (chan s c) ((readSecTag f.bytes).tci % 4) = none) :
    dealDecrypt f c x s = Spec.atEnd s f (discardChan f 5 s) := by
  simp only [dealDecrypt, hw]
  rfl

/-- The packet number of a received frame: that of its SecTAG, or for a suite with extended numbers the one recovered from it
(R148). -/
def couchPn (f : Sheet) (x : Bind) (k : KeySlot) : Nat :=
  if x.suite = 0 then (readSecTag f.bytes).pn else recoverPn (readSecTag f.bytes).pn (lowestPn k x.window)

section
variable {w : Bool} {k : KeySlot} {pn : Nat} (hw : decSlot (chan s c) ((readSecTag f.bytes).tci % 4) = some w)
  (hk : k = slotOf (chan s c) w) (hpn : pn = couchPn f x k)
include hw hk hpn

theorem dealDecrypt_zero (h0 : pn = 0) : dealDecrypt f c x s = Spec.atEnd s f (discardPort f 22 s) := by
  simp only [dealDecrypt, hw]
  rw [← hk]
  exact if_pos (hpn.symm.trans h0)

section
variable (h0 : pn ≠ 0)
include h0

theorem dealDecrypt_replayed (hr : x.replay = true) (hb : replayBad k x.window pn = true) :
    dealDecrypt f c x s = Spec.atEnd s f (discardChan f 6 s) := by
  simp only [dealDecrypt, hw]
  rw [← hk, ← couchPn, ← hpn, if_neg h0, hr, hb]
  rfl

/-- A frame that passes the replay check is dealt with what comes of opening it; the Dryer counts one that does not open. -/
theorem dealDecrypt_dealt {i : Nat} (hr : x.replay = false ∨ replayBad k x.window pn = false)
    (hl : pickLane (rebind c s) (chan (rebind c s) c).lanes = some i) : dealDecrypt f c x s = passCouch
      { f with stage := .press, lane := i, pn := some pn, kid := k.kid, verified := (macsecOpen x k pn f.bytes).isSome,
               result := (macsecOpen x k pn f.bytes).getD [] } (rebind c s) := by
  have hok : (x.replay && replayBad k x.window pn) = false := Bool.and_eq_false_iff.2 hr
  simp only [dealDecrypt, hw, hl]
  rw [← hk, ← couchPn, ← hpn, if_neg h0, hok]
  rfl

end

end

end

/-- Settles O35: the frame's direction and the protocol of its dry port name the function that deals it, and the key, the packet
number and the lane name its case. -/
theorem couchDeals : Obligations.CouchDeals := by
  intro s dir f hh hf
  refine ⟨exec_couchDeal_bypass hh hf, ?_⟩
  rintro c x y hc hx rfl
  have hdeal := exec_couchDeal_channel hh hf hc hx
  have cells (hd : dir = 0) (hp : isCal (bankOf s f.bank) x.dry = true) {z : State} (h : dealCells f c x s = z) :
      exec (.couchDeal dir) s = .next z := by
    rw [hdeal, hd, hp, ← h]
    rfl
  have encrypt (hd : dir = 0) (hp : isCal (bankOf s f.bank) x.dry = false) {z : State} (h : dealEncrypt f c x s = z) :
      exec (.couchDeal dir) s = .next z := by
    rw [hdeal, hd, hp, ← h]
    rfl
  have decrypt (hd : dir = 1) {z : State} (h : dealDecrypt f c x s = z) : exec (.couchDeal dir) s = .next z := by
    rw [hdeal, hd, ← h]
    rfl
  refine ⟨fun hd hp hk => ?_, fun hd hp hk => ?_, fun hd hp hw => encrypt hd hp (dealEncrypt_no_key hw), ?_,
    fun hd hw => decrypt hd (dealDecrypt_no_key hw), ?_⟩
  · have hready := carrierReady_iff.2 hk
    exact ⟨fun hl => cells hd hp (dealCells_held hready hl), fun i hl => cells hd hp (dealCells_passes hready hl)⟩
  · exact cells hd hp (dealCells_no_carrier (Bool.eq_false_iff.2 (mt carrierReady_iff.1 hk)))
  · intro w k hd hp hw hk
    exact ⟨fun hl => encrypt hd hp (dealEncrypt_held hw hl), fun i hl => encrypt hd hp (dealEncrypt_dealt hw hl hk)⟩
  · rintro w k t pn hd rfl hw hk hpn
    exact ⟨fun h0 => decrypt hd (dealDecrypt_zero hw hk hpn h0),
      fun h0 hr hb => decrypt hd (dealDecrypt_replayed hw hk hpn h0 hr hb),
      fun i h0 hr hl => decrypt hd (dealDecrypt_dealt hw hk hpn h0 hr hl)⟩

end Sys2Proof.Machine
end

section
/-! O38: the model takes a protected cell's key from the channel after its lanes have been bound anew (R129, R160), the statement
from the channel before. Where the table of channels is in canonical form (`tableWf`) both find one key. In a table that lists a
channel twice the binding can clear the first of the two entries and uncover the second, and the two part: the statement has no
premise that leaves such a table out. -/

namespace Sys2Proof.Machine

/-! The key that receives a cell, before and after the binding. -/

theorem decSlot_withLanes (x : Chan) (l : List Nat) (an : Nat) : decSlot { x with lanes := l } an = decSlot x an := rfl

theorem decSlot_rebind {s : State} (c an : Nat) (hw : tableWf {} 0 s.keys.chans = true) :
    decSlot (chan (rebind c s) c) an = decSlot (chan s c) an := by
  unfold rebind
  split
  · have hset : chan (modChan c (fun x => { x with lanes := lanesInService s }) s) c =
        { chan s c with lanes := lanesInService s } := tget_tset_same _ _ hw
    rw [hset, decSlot_withLanes]
  · rfl

section
variable {s : State} {f : Sheet} {c : Nat} {d : Fin 8} (hc : c = latRx (bankOf s f.bank) d)
include hc

/-- No cell waits for a lane where the channel has no key for it. -/
theorem cellWaits_no_key (hk : decSlot (chan s c) (byteAt f.bytes 15 % 4) = none) : cellWaits d f s = false := by
  subst hc
  rw [cellWaits, hk]

theorem protectedCell_no_key (hk : decSlot (chan s c) (byteAt f.bytes 15 % 4) = none) :
    protectedCell d f s = cellBad d false false s := by
  subst hc
  rw [protectedCell, hk]

end

theorem bankOf_rebind_removeFrm (s : State) (c id i : Nat) : bankOf (rebind c (removeFrm id s)) i = bankOf s i := by
  have hr : (rebind c (removeFrm id s)).stock = (removeFrm id s).stock := by unfold rebind; split <;> rfl
  rw [bankOf, hr, removeFrm_frame, bankOf]

section
variable {s : State} {d : Fin 8} {f : Sheet} {c : Nat} (hh : s.clk.held = false)
  (hf : s.mach.frames.find? (fun f => f.stage == .cell && f.port == 8 + d.val && f.ended) = some f)
  (hlen : f.bytes.length = 500) (hver : byteAt f.bytes 14 = 1) (hcm : byteAt f.bytes 15 < 128)
  (hc : c = latRx (bankOf s f.bank) d) (hk : decSlot (chan s c) (byteAt f.bytes 15 % 4) = none)
include hh hf hlen hver hcm hc hk

/-- A protected cell for which the channel has no key is judged at once, by the channel as the binding leaves it. -/
theorem exec_cellReceive_rebound : exec (.cellReceive d) s =
    .next (calChange d (fun x => protectedCell d f (rebind c x)) (removeFrm f.id s)) := by
  have hopen : bitAt (byteAt f.bytes 15) 7 = false := by
    rw [bitAt_eq_testBit]
    exact Nat.testBit_lt_two_pow hcm
  have hbank : bankOf (removeFrm f.id s) f.bank = bankOf s f.bank := by rw [removeFrm_frame, bankOf, bankOf]
  refine congrArg Host.Outcome.next ((live_run _ hh).trans ?_)
  simp only [cellReceive, hf, hlen, hver, hopen, cellWaits_no_key hc hk, calChange, hbank, ← hc,
    beq_self_eq_true, Bool.and_self, Bool.and_false, Bool.not_true, Bool.false_eq_true, if_false]

/-- The clause of O38 that fails, where the table of channels is in canonical form: the cell counts as bad (R160). -/
theorem exec_cellReceive_no_key (hw : tableWf {} 0 s.keys.chans = true) : exec (.cellReceive d) s =
    .next (calChange d (fun x => cellBad d false false (rebind c x)) (removeFrm f.id s)) := by
  have hkeys : (removeFrm f.id s).keys = s.keys := by rw [removeFrm_frame]
  have hkey : decSlot (chan (rebind c (removeFrm f.id s)) c) (byteAt f.bytes 15 % 4) = none := by
    rw [decSlot_rebind _ _ (hkeys ▸ hw), chan, hkeys]
    exact hk
  rw [exec_cellReceive_rebound hh hf hlen hver hcm hc hk, calChange,
    protectedCell_no_key (hc.trans (by rw [bankOf_rebind_removeFrm])) hkey]
  rfl

end

/-! The counterexample. Its cell carries a tag that verifies under the uncovered key, and a CMODE with a reserved bit set: by that
key it fails in step 3 of R160, by the statement in step 1, and the two differ in the count of cells towards cell sync (R163). -/

/-- Bytes 0–23 of the cell (Table 8-4): VERSION 1, CMODE 4, PN 1. -/
def reservedHead : Bytes := List.replicate 12 0#8 ++ beBytes 2 0x88B5 ++ [1#8, 4#8] ++ beBytes 8 1
def reservedBody : Bytes := List.replicate 456 0#8
/-- The cell, its tag under the all-zero key and salt. -/
def reservedCell : Sheet :=
  { port := 8, ended := true, stage := .cell
    bytes := reservedHead ++ reservedBody ++ gcmTag (aesKeysOf []) (beBytes 12 1) reservedHead reservedBody
      ++ List.replicate 4 0#8 }
/-- Channel 0, the carrier of dry port 0, is listed twice: without a key, and behind that with the all-zero key current. -/
def listedTwice : State :=
  { clk := { held := false }, mach := { frames := [reservedCell] }
    keys := { chans := [(0, {}), (0, { cur := { state := 2 } })] } }

/-- The statement reads the entry without a key; binding the channel's lanes, of which none is in service, uncovers the other. -/
theorem listedTwice_key : decSlot (chan listedTwice 0) 0 = none ∧
    decSlot (chan (rebind 0 (removeFrm 0 listedTwice)) 0) 0 = some false := by decide

theorem listedTwice_good :
    (cal (calChange 0 (fun x => protectedCell 0 reservedCell (rebind 0 x)) (removeFrm 0 listedTwice)) 0).good = 1 ∧
    (cal (calChange 0 (fun x => cellBad 0 false false (rebind 0 x)) (removeFrm 0 listedTwice)) 0).good = 0 := by
  decide +kernel

theorem reservedCell_form : reservedCell.bytes.length = 500 ∧ byteAt reservedCell.bytes 14 = 1 ∧
    byteAt reservedCell.bytes 15 = 4 := by decide +kernel

/-- Refutes O38 in a state whose table of channels lists one twice: the model judges the cell by the key that the binding uncovers
and counts it towards cell sync, where the statement, which finds no key, has the count at 0. -/
theorem not_calenderPorts : ¬ Obligations.CalenderPorts := by
  rintro ⟨-, -, hrecv⟩
  obtain ⟨hlen, hver, hcm⟩ := reservedCell_form
  obtain ⟨hmodel, hstated⟩ := listedTwice_good
  have hlt : byteAt reservedCell.bytes 15 < 128 := by rw [hcm]; decide
  have hkey : decSlot (chan listedTwice 0) (byteAt reservedCell.bytes 15 % 4) = none := by
    rw [hcm]
    exact listedTwice_key.1
  have hc : 0 = latRx (bankOf listedTwice reservedCell.bank) (0 : Fin 8) := by decide
  have hrun := exec_cellReceive_rebound (s := listedTwice) (d := 0) rfl rfl hlen hver hlt hc hkey
  have hsays := (((hrecv listedTwice 0 rfl).1 reservedCell _ _ rfl rfl rfl).2.2 0 hlen hver hlt hc).1 hkey
  have heq := Host.Outcome.next.inj (hrun.symm.trans hsays)
  have hgood := congrArg (fun t => (cal t 0).good) heq
  exact absurd (hmodel.symm.trans (hgood.trans hstated)) (by decide)

end Sys2Proof.Machine
end

section
/-! O28: SA_LOAD, SA_RETIRE and SA_QUERY (R170, R171, R176, R177, R245, R249), with what commands of the key engine share: the
checks of R242 that let them through, and the queue of a unit. -/

namespace Sys2Proof.Machine

/-! The checks of R242, and the units. -/

/-- A command whose descriptor has room passes the pointer and length checks. -/
theorem withIo_room {d tag i o : Nat} {c : Cmd} (f : State → State) (s : State) (h : Spec.Room d c i o) :
    withIo d tag c i o f s = f s := by
  rw [withIo, h.ptrs, lengthBad_room h (Nat.le_refl o)]
  rfl

theorem joinUnit_eq_joined (d tag u : Nat) (aux : List Nat) (input : Bytes) (s : State) :
    joinUnit d tag u aux input s = Spec.joined s d tag u aux input := by
  unfold joinUnit Spec.joined
  by_cases h : unitQueue s u = []
  · simp only [h, List.isEmpty_nil, if_true]
  · simp only [List.isEmpty_iff, if_neg h, stDelayedEngine]

/-! SA_LOAD (R170, R177, R249). -/

/-- An SA_LOAD that no case of R170 and R176 stops goes on. -/
theorem loadGo_goes {d tag : Nat} {r : Bytes} (go : State → State) {s : State} (h : loadStops s d r = none)
    (hw : byteAt r 2 = 0 → chanWaits s (leAt r 0 2) = false) : loadGo d tag r go s = go s := by
  rw [loadGo, h]
  exact if_neg (by simpa using hw)

section
variable {s : State} {d : DoorId} {tag : Nat} {c : Cmd}

/-- An SA_LOAD whose record has been read. -/
theorem exec_saLoad {hostIn : Option Bytes} {r : Bytes} (hc : Spec.Takes s d tag 0x20 c) (hroom : Spec.Room d c 96 0)
    (hr : cmdInput (Spec.taken s d tag) d c hostIn = some r) :
    exec (.saLoad d tag hostIn) s = .next (saLoadRecord d tag r (Spec.taken s d tag)) := by
  refine congrArg Host.Outcome.next ((live_dispatch_takes _ hc).trans ?_)
  rw [withIo_room _ _ hroom, hr]

/-! SA_RETIRE (R171). -/

theorem retireWith_passes {s : State} {d tag n : Nat} {c : Cmd} (f : Nat → State → State) (hn : n = pLe c.pkt 0 2)
    (hmax : n ≤ 8191) (hscope : pByte c.pkt 2 ≤ 1) (hown : mayUse (chan s n).owner d = true) :
    retireWith d tag f c s = f n s := by
  unfold retireWith
  rw [← hn, if_neg (Nat.not_lt.2 hmax), if_neg (Nat.not_lt.2 hscope), hown]
  rfl

theorem retireNext_goes {s : State} {n : Nat} (d tag drained : Nat) (hnames : applyNamesChan s n = false)
    (hwait : chanWaits s n = false) : retireNext n d tag drained s = finishR0 d tag 0x00
      (if (chan s n).nxt.state = 0 then drained else 1) (bumpLiveVer (setChan n { chan s n with nxt := {} } s)) := by
  unfold retireNext
  rw [hnames, hwait]
  rfl

theorem retireAll_goes {s : State} {n : Nat} (d tag drained : Nat) (hnames : applyNamesChan s n = false)
    (hbind : bindOf (liveBank s) n = none) (hwait : chanWaits s n = false) : retireAll n d tag drained s = finishR0 d tag 0x00
      ((if (chan s n).cur.state = 0 then 0 else 1) + (if (chan s n).nxt.state = 0 then drained else 1))
      (bumpLiveVer (setChan n { chan s n with cur := {}, nxt := {}, endCause := 0, owner := none } s)) := by
  have hcur : b2n ((chan s n).cur.state != ksEmpty) = if (chan s n).cur.state = 0 then 0 else 1 := by
    by_cases h : (chan s n).cur.state = 0 <;> simp [b2n, ksEmpty, h]
  unfold retireAll
  rw [hnames, hbind, hwait, ← hcur]
  rfl

/-! SA_QUERY (R245). -/

theorem notOwned_none {s : State} {d : DoorId} {first count : Nat}
    (h : ∀ n : Nat, first ≤ n → n < first + count → d = 3 ∨ (chan s n).owner = some d.val) :
    notOwned s d first count = none := by
  unfold notOwned
  split
  · rfl
  · next hd =>
    refine List.find?_eq_none.2 fun n hn => ?_
    obtain ⟨i, hi, rfl⟩ := List.mem_map.1 hn
    obtain rfl | hown := h (first + i) (Nat.le_add_right _ _) (Nat.add_lt_add_left (List.mem_range.1 hi) _)
    · exact absurd rfl hd
    · simp [hown]

/-- SA_QUERY of channels that the door may read. -/
theorem exec_saQuery {first count : Nat} (hc : Spec.Takes s d tag 0x22 c) (hroom : Spec.Room d c 0 (64 * count))
    (hfirst : first = pLe c.pkt 0 2) (hcount : count = pLe c.pkt 2 2) (hlo : 1 ≤ count)
    (hhi : count ≤ if d = 2 then 256 else 1024) (hmax : first ≤ 8191) (hend : first + count ≤ 8192)
    (hown : ∀ n : Nat, first ≤ n → n < first + count → d = 3 ∨ (chan s n).owner = some d.val) :
    exec (.saQuery d tag) s = .next (finish d tag 0x00 0 count 0 0
      (some ((List.range count).map fun i => chanRecord (Spec.taken s d tag) (first + i)).flatten) (Spec.taken s d tag)) := by
  refine congrArg Host.Outcome.next ((live_dispatch_takes _ hc).trans ?_)
  have hrange : inRange count 1 (if d = 2 then 256 else 1024) = true := inRange_iff.2 ⟨hlo, hhi⟩
  have howned : notOwned (Spec.taken s d tag) d first count = none := notOwned_none (s := Spec.taken s d tag) hown
  dsimp only
  rw [← hfirst, ← hcount, withIo_room _ _ hroom, hrange, if_neg (Nat.not_lt.2 hmax), if_neg (Nat.not_lt.2 hend), howned]
  rfl

end

/-- Settles O28, each command by its equation. -/
theorem keyCommands : Obligations.KeyCommands := by
  intro s d tag c
  refine ⟨fun hostIn r hc hroom hr hform hstops hwait => ?_, fun hostIn r o hc hroom hr hform => ?_,
    fun n hc hn hmax h0 hown hnames hwait => ?_, fun n hc hn hmax h1 hown hnames hbind hwait => ?_,
    fun first count => exec_saQuery⟩
  · rw [exec_saLoad hc hroom hr, saLoadRecord, hform]
    exact congrArg Host.Outcome.next ((loadGo_goes _ hstops hwait).trans (joinUnit_eq_joined ..))
  · rw [exec_saLoad hc hroom hr, saLoadRecord, hform]
    rfl
  · refine congrArg Host.Outcome.next ((live_dispatchIf_takes _ hc (by simp [h0])).trans ?_)
    exact (retireWith_passes (s := Spec.taken s d tag) _ hn hmax (by omega) hown).trans
      (retireNext_goes d tag 0 hnames hwait)
  · refine congrArg Host.Outcome.next ((live_dispatchIf_takes _ hc (by simp [h1])).trans ?_)
    exact (retireWith_passes (s := Spec.taken s d tag) _ hn hmax (by omega) hown).trans
      (retireAll_goes d tag 0 hnames hbind hwait)

end Sys2Proof.Machine
end

section
/-! O29: the ends of drains and graces, key aging and the timeouts of KE slots (R172, R173, R185), KE_OPEN and KE_CLOSE (R181,
R184, R252). -/

namespace Sys2Proof.Machine

/-! Channels: drains, graces and aging (R172, R173). -/

section
variable {s : State} {c : Fin 8192} (hh : s.clk.held = false)
include hh

theorem exec_keyDrainEmpty_encrypt (hstate : (chan s c).nxt.state = 3) (hdir : chanDir s c = 0) (hbusy : drainBusy s c = false) :
    exec (.keyDrainEmpty c) s = .next (resumeWaits c (setChan c { chan s c with nxt := {} } s)) := by
  refine congrArg Host.Outcome.next ((live_run _ hh).trans ?_)
  exact (if_neg (not_not_intro hstate)).trans ((if_pos hdir).trans (if_neg (ne_true_of_eq_false hbusy)))

/-- The grace of a bound decrypt channel's DRAINING slot. -/
theorem exec_rxGraceEnd {b : Bind} (hb : bindOf (liveBank s) c = some b) : exec (.rxGraceEnd c) s = .next (
    if (chan s c).nxt.state ≠ 3 ∨ chanDir s c = 0 ∨ nowP s - (chan s c).nxt.demotedT < b.grace * 1250000 then s
    else if kidBusy s (chan s c).nxt.kid then
      setChan c { chan s c with nxt := { (chan s c).nxt with graceOver := true } } s
    else setChan c { chan s c with nxt := {} } s) := by
  refine congrArg Host.Outcome.next ((live_run _ hh).trans ?_)
  rw [hb]
  rfl

theorem exec_keyAging_ages (hstate : (chan s c).cur.state = 2) (haged : (chan s c).cur.aged = false)
    (hlife : (chan s c).cur.lifetime ≠ 0)
    (hold : 7 * (chan s c).cur.lifetime * 1250000000 ≤ 8 * (nowP s - (chan s c).cur.promotedT)) :
    exec (.keyAging c) s =
      .next (raise 161 (setChan c { chan s c with cur := { (chan s c).cur with aged := true } } s)) := by
  refine congrArg Host.Outcome.next ((live_run _ hh).trans (if_pos ⟨hstate, haged, .inl ?_⟩))
  simp only [bne_iff_ne.2 hlife, decide_eq_true hold, Bool.and_self]

/-- A key ages once. -/
theorem exec_keyAging_aged (haged : (chan s c).cur.aged = true) : exec (.keyAging c) s = .next s :=
  congrArg Host.Outcome.next ((live_run _ hh).trans (if_neg fun h => Bool.false_ne_true (h.2.1.symm.trans haged)))

end

/-! The timeout of a KE slot (R185). -/

theorem keOver_iff {s : State} {x : KeSlot} : keOver s x = true ↔ x.timeout * 1250000000 ≤ nowP s - x.opened := by
  rw [keOver, decide_eq_true_iff]

theorem keOver_eq_false {s : State} {x : KeSlot} (h : nowP s - x.opened < x.timeout * 1250000000) : keOver s x = false :=
  eq_false_of_ne_true fun h' => Nat.not_le.2 h (keOver_iff.1 h')

section
variable {s : State} {k : Fin 16} (hh : s.clk.held = false)
include hh

theorem exec_keTimeout_early (hearly : nowP s - (keSlot s k).opened < (keSlot s k).timeout * 1250000000) :
    exec (.keTimeout k) s = .next s :=
  congrArg Host.Outcome.next ((live_run _ hh).trans (if_pos (.inr (keOver_eq_false hearly))))

/-- A timeout that has passed abandons the slot, or waits for the operation that runs on it. -/
theorem exec_keTimeout_over (hopen : (keSlot s k).state = 1)
    (hover : (keSlot s k).timeout * 1250000000 ≤ nowP s - (keSlot s k).opened) : exec (.keTimeout k) s = .next (
      if keRuns s k then setKe k { keSlot s k with expired := true } s
      else raise 163 (orReg keFlags 2
        (setKe k { state := 2, owner := (keSlot s k).owner, serial := (keSlot s k).serial } s))) := by
  refine congrArg Host.Outcome.next ((live_run _ hh).trans ?_)
  exact if_neg (by simp [hopen, keOver_iff.2 hover])

end

/-! KE_OPEN (R181). -/

section
variable {s : State} {d : DoorId} {tag : Nat} {c : Cmd} (hc : Spec.Takes s d tag 0x30 c) (hlo : 1 ≤ pLe c.pkt 0 2)
  (hhi : pLe c.pkt 0 2 ≤ 600)
include hc hlo hhi

/-- The lowest FREE slot opens. -/
theorem exec_keOpen {k : Nat} (hk : k < 16) (hfree : (keSlot s k).state = 0)
    (hlow : ∀ j : Nat, j < k → (keSlot s j).state ≠ 0) :
    exec (.keOpen d tag) s = .next (finishR0 d tag 0x00 k
      (setKe k { state := 1, owner := d, timeout := pLe c.pkt 0 2, opened := nowP s, serial := s.keys.nextKid }
        { Spec.taken s d tag with keys := { s.keys with nextKid := s.keys.nextKid + 1 } })) := by
  refine congrArg Host.Outcome.next ((live_dispatch_takes _ hc).trans ?_)
  have hfind : (List.range 16).find? (fun j => (keSlot (Spec.taken s d tag) j).state == 0) = some k :=
    List.find?_range_eq_some.2 ⟨beq_iff_eq.2 hfree, List.mem_range.2 hk,
      fun j hj => congrArg not (beq_eq_false_iff_ne.2 (hlow j hj))⟩
  dsimp only
  rw [inRange_iff.2 ⟨hlo, hhi⟩, hfind]
  rfl

theorem exec_keOpen_full (hfull : ∀ j : Nat, j < 16 → (keSlot s j).state ≠ 0) :
    exec (.keOpen d tag) s = .next (finishSt d tag 0x23 0 (Spec.taken s d tag)) := by
  refine congrArg Host.Outcome.next ((live_dispatch_takes _ hc).trans ?_)
  have hfind : (List.range 16).find? (fun j => (keSlot (Spec.taken s d tag) j).state == 0) = none :=
    List.find?_eq_none.2 fun j hj => fun h => hfull j (List.mem_range.1 hj) (beq_iff_eq.1 h)
  dsimp only
  rw [inRange_iff.2 ⟨hlo, hhi⟩, hfind]
  rfl

end

/-! A dispatch changes no operation that runs: the units, and what the doors' commands keep for them, stay. -/

/-- A command of a door whose command `tag` starts. -/
def started (tag : Nat) (c : Cmd) : Cmd := if c.tag == tag && c.stage != .replied then { c with stage := .running } else c

theorem started_aux (tag : Nat) (c : Cmd) : (started tag c).aux = c.aux := by
  unfold started
  split <;> rfl

/-- The start of a command leaves it the command that its tag finds. -/
theorem started_outstanding (tag t : Nat) (c : Cmd) :
    ((started tag c).tag == t && (started tag c).stage != .replied) = (c.tag == t && c.stage != .replied) := by
  unfold started
  split
  · next h => rw [(Bool.and_eq_true_iff.1 h).2]; rfl
  · rfl

/-- A door that holds a command after a change reads back from every table. -/
theorem door_setDoor_of_cmds {d : Nat} {x : Door} (s : State) (h : x.cmds ≠ []) : door (setDoor d x s) d = x := by
  have hne : x ≠ {} := fun e => h (congrArg Door.cmds e)
  have hset : tset {} s.doors d x = tins s.doors d x := if_neg hne
  rw [door, setDoor_doors, hset, tget_tins_same]

theorem cmds_taken {s : State} {d tag op : Nat} {c : Cmd} (hc : Spec.Takes s d tag op c) (e : Nat) :
    (door (Spec.taken s d tag) e).cmds = if e = d then (door s e).cmds.map (started tag) else (door s e).cmds := by
  by_cases he : e = d
  · subst he
    have hne : (door s e).cmds.map (started tag) ≠ [] := fun h =>
      List.ne_nil_of_mem (List.mem_of_find?_eq_some hc.head) (List.map_eq_nil_iff.1 h)
    rw [if_pos rfl]
    exact congrArg Door.cmds
      (door_setDoor_of_cmds (x := { door s e with cmds := (door s e).cmds.map (started tag) }) s hne)
  · rw [if_neg he]
    exact congrArg Door.cmds (door_setDoor_ne _ s he)

theorem findCmd_taken_aux {s : State} {d tag op : Nat} {c : Cmd} (hc : Spec.Takes s d tag op c) (e t : Nat) :
    (findCmd (Spec.taken s d tag) e t).map Cmd.aux = (findCmd s e t).map Cmd.aux := by
  unfold findCmd
  rw [cmds_taken hc]
  split
  · rw [List.find?_map, Option.map_map]
    simp only [Function.comp_def, started_aux, started_outstanding]
  · rfl

/-- Whether an operation runs on a slot's opening is told by what the commands of the units keep for them. -/
theorem serialRuns_eq (s : State) (n : Nat) : serialRuns s n = (List.range 3).any fun u => (unitQueue s u).any fun q =>
    ((findCmd s q.1 q.2).map Cmd.aux).elim false fun l => l.getD 1 0 == n && n != 0 := by
  unfold serialRuns
  refine congrArg _ (funext fun u => congrArg _ (funext fun q => ?_))
  cases findCmd s q.1 q.2 <;> rfl

theorem keRuns_taken {s : State} {d tag op : Nat} {c : Cmd} (hc : Spec.Takes s d tag op c) (k : Nat) :
    keRuns (Spec.taken s d tag) k = keRuns s k := by
  unfold keRuns
  rw [serialRuns_eq, serialRuns_eq]
  simp only [findCmd_taken_aux hc]
  rfl

/-! KE_CLOSE (R184, R252). -/

theorem length_splitPairs (n : Nat) (b : Bytes) : (splitPairs n b).length = n := by
  induction n generalizing b with
  | zero => rfl
  | succ n ih => rw [splitPairs, List.length_cons, ih]

section
variable {s : State} {k : Nat}

theorem keState_expired {x : KeSlot} (h : x.expired = true) : keState x = 2 := if_pos h

theorem keState_of_not_expired {x : KeSlot} (h : x.expired = false) : keState x = x.state := if_neg (ne_true_of_eq_false h)

/-- A slot that holds no expiry back, and on which nothing runs, is FREE. -/
theorem keFreed_idle (hrun : keRuns s k = false) (hexp : (keSlot s k).expired = false) : keFreed k s = setKe k {} s := by
  unfold keFreed
  dsimp only
  rw [hrun, hexp]
  rfl

/-- A slot whose expiry waits for its operation is reported, and the operation keeps what the slot held. -/
theorem keFreed_abandoned (hrun : keRuns s k = true) (hexp : (keSlot s k).expired = true) : keFreed k s =
    raise 163 (orReg keFlags 2 (setKe k {} { s with keys := { s.keys with closed := s.keys.closed ++ [keSlot s k] } })) := by
  unfold keFreed
  dsimp only
  rw [hrun, hexp]
  rfl

/-- KE_CLOSE of an abandoned slot, with values in range. -/
theorem closeSlot_abandoned {d tag : Nat} {rs : List Bytes} (hf : pairsFault s rs = none) (hbar : keBarred s d k = false)
    (hstate : keState (keSlot s k) = 2) : closeSlot d tag k (some rs) s = finishSt d tag 0x01 0x42 (keFreed k s) := by
  unfold closeSlot
  rw [Option.bind_some, hf]
  dsimp only
  rw [hbar, hstate]
  rfl

/-- KE_CLOSE of an OPEN slot whose pairs their destinations take: all are written. -/
theorem closeSlot_commits {d tag : Nat} {rs : List Bytes} (hf : pairsFault s rs = none) (hbar : keBarred s d k = false)
    (hstate : keState (keSlot s k) = 1) (href : pairsRefused s d (keSlot s k) rs = none)
    (hown : ∀ r ∈ rs, byteAt r 1 = 0 → (chan s (leAt r 2 2)).owner ≠ none) : closeSlot d tag k (some rs) s =
      finishR0 d tag 0x00 rs.length (keFreed k (rs.foldl (fun y r => commitPair d (keSlot s k) r y) s)) := by
  have howns : (rs.any fun r => byteAt r 1 == 0 && (chan s (leAt r 2 2)).owner == none) = false :=
    List.any_eq_false.2 fun r hr => by simpa using hown r hr
  unfold closeSlot
  rw [Option.bind_some, hf]
  dsimp only
  rw [hbar, hstate]
  unfold closeCommit
  dsimp only
  rw [href]
  dsimp only
  rw [howns]
  rfl

end

section
variable {s : State} {d : DoorId} {tag k : Nat} {c : Cmd} {hostIn : Option Bytes} (hc : Spec.Takes s d tag 0x32 c)
  (hk : k = pByte c.pkt 0) (hmax : k ≤ 15)
include hc hk hmax

/-- KE_CLOSE without pairs. -/
theorem exec_keClose_bare (hptr : pktPtr c.pkt = false) (h0 : pByte c.pkt 1 = 0) :
    exec (.keClose d tag hostIn) s = .next (closeSlot d tag k (some []) (Spec.taken s d tag)) := by
  refine congrArg Host.Outcome.next ((live_dispatch_takes _ hc).trans ?_)
  dsimp only
  rw [pointersOk, h0, hptr, ← hk, if_pos rfl, if_neg (Nat.not_lt.2 hmax)]
  rfl

/-- KE_CLOSE with pairs that can be read. -/
theorem exec_keClose_pairs {n : Nat} {bs : Bytes} (hptr : pktPtr c.pkt = true) (hptrs : pointersOk d c.pkt = true)
    (hn : n = pByte c.pkt 1) (hlo : 1 ≤ n) (hhi : n ≤ 4) (hlen : pktInLen c.pkt = 24 * n)
    (hin : cmdInput (Spec.taken s d tag) d c hostIn = some bs) :
    exec (.keClose d tag hostIn) s = .next (closeSlot d tag k (some (splitPairs n bs)) (Spec.taken s d tag)) := by
  refine congrArg Host.Outcome.next ((live_dispatch_takes _ hc).trans ?_)
  dsimp only
  rw [hptrs, ← hn, ← hk, hptr, hlen, if_neg (Nat.ne_of_gt hlo), if_neg (Nat.ne_of_gt hlo), beq_self_eq_true,
    if_neg (Nat.not_lt.2 hmax), if_neg (Nat.not_lt.2 hhi), hin]
  rfl

end

/-- Settles O29: the events by their equations, and a close by what of its slot a dispatch leaves as it was (`keRuns_taken`). -/
theorem keySlotsAndEvents : Obligations.KeySlotsAndEvents := by
  refine ⟨fun s c k hh => ⟨exec_keyDrainEmpty_encrypt hh, fun b hb hover hstate hdir hbusy => ?_, fun b hb hearly => ?_,
    exec_keyAging_ages hh, exec_keyAging_aged hh, fun _ => exec_keTimeout_early hh, fun hopen hover hrun => ?_,
    fun hopen hover hrun => ?_⟩, fun s d tag c => ⟨fun t k hc ht hlo hhi hk hfree hlow => ?_, fun hc => exec_keOpen_full hc,
    fun hostIn k hc hptr hk hmax h0 hbar hrun hexp => ⟨fun hstate => ?_, fun hstate => ?_⟩,
    fun hostIn k hc hptr hk hmax h0 hbar hrun hexp => ?_,
    fun hostIn bs k n hc hptr hptrs hk hmax hn hlo hhi hlen hbar hstate hin hform href hown => ?_⟩⟩
  · rw [exec_rxGraceEnd hh hb, if_neg (by simp [hstate, hdir, hover]), if_neg (ne_true_of_eq_false hbusy)]
  · rw [exec_rxGraceEnd hh hb, if_pos (.inr (.inr hearly))]
  · rw [exec_keTimeout_over hh hopen hover, if_neg (ne_true_of_eq_false hrun)]
  · rw [exec_keTimeout_over hh hopen hover, if_pos hrun]
  · subst ht
    exact exec_keOpen hc hlo hhi hk hfree hlow
  · have hstate : keState (keSlot s k) = 1 := (keState_of_not_expired hexp).trans hstate
    have hidle := keFreed_idle (s := Spec.taken s d tag) ((keRuns_taken hc k).trans hrun) hexp
    rw [exec_keClose_bare hc hk hmax hptr h0,
      closeSlot_commits (s := Spec.taken s d tag) rfl hbar hstate rfl (fun _ hr => absurd hr List.not_mem_nil)]
    exact congrArg (fun x => Host.Outcome.next (finishR0 d tag 0x00 0 x)) hidle
  · have hstate : keState (keSlot s k) = 2 := (keState_of_not_expired hexp).trans hstate
    have hidle := keFreed_idle (s := Spec.taken s d tag) ((keRuns_taken hc k).trans hrun) hexp
    rw [exec_keClose_bare hc hk hmax hptr h0, closeSlot_abandoned (s := Spec.taken s d tag) rfl hbar hstate, hidle]
  · have hkept := keFreed_abandoned (s := Spec.taken s d tag) ((keRuns_taken hc k).trans hrun) hexp
    rw [exec_keClose_bare hc hk hmax hptr h0,
      closeSlot_abandoned (s := Spec.taken s d tag) rfl hbar (keState_expired hexp), hkept]
    rfl
  · rw [exec_keClose_pairs hc hk hmax hptr hptrs hn hlo hhi hlen hin,
      closeSlot_commits (s := Spec.taken s d tag) hform hbar hstate href hown, length_splitPairs]
    rfl

end Sys2Proof.Machine
end

section
/-! O30: KE_STEP (R180–R182, R187, R188, Table 12-7): an operation that its row lets through joins its unit, is refused for what
its slot lacks, or completes at once. -/

namespace Sys2Proof.Machine

section
variable {s : State} {d : DoorId} {tag op u : Nat} {c : Cmd} {hostIn h : Option Bytes} {bs : Bytes} {r : StepRow}

/-- A KE_STEP that passes its row takes effect. -/
theorem keStep_passes (f : State → State) (hk : Spec.StepOk s d op c hostIn bs r) (tag : Nat) : keStep d tag f c s = f s := by
  obtain ⟨hcode, hptrs, hrow, hlo, hhi, hout, hvalues, howner, _⟩ := hk
  unfold keStep
  rw [hptrs, hcode, hrow]
  dsimp only
  rw [inRange_iff.2 ⟨hlo, hhi⟩, if_neg (Nat.not_lt.2 hout), hvalues, howner]
  rfl

theorem withInput_some (f : Bytes → State → State) (hin : cmdInput s d c h = some bs) (tag : Nat) :
    withInput d tag c h f s = f bs s := by
  rw [withInput, hin]

/-- An operation without input is one with no bytes of it. -/
theorem cmdInput_none (s : State) (d : Nat) (c : Cmd) : cmdInput s d c none = cmdInput s d c (some []) := by
  unfold cmdInput
  by_cases h0 : pktInLen c.pkt = 0
  · simp [h0]
  · simp [h0, Ne.symm h0]

theorem keSlotStep_joins (present : KeSlot → Bool) (hstate : keState (keSlot s (stepSlot c)) = 1)
    (hp : present (keSlot s (stepSlot c)) = true) (hin : cmdInput s d c h = some bs) :
    keSlotStep d tag u c h present s = Spec.joined s d tag u [stepSlot c, (keSlot s (stepSlot c)).serial] bs := by
  unfold keSlotStep
  rw [if_neg (by simp [hstate, hp]), withInput_some _ hin]
  exact joinUnit_eq_joined ..

theorem keSlotStep_lacks (present : KeSlot → Bool) (hstate : keState (keSlot s (stepSlot c)) = 1)
    (hp : present (keSlot s (stepSlot c)) = false) : keSlotStep d tag u c h present s = finishSt d tag 0x67 1 s := by
  unfold keSlotStep
  rw [if_pos (.inr hp), hstate]
  rfl

theorem keFreeStep_joins (hin : cmdInput s d c h = some bs) :
    keFreeStep d tag u c h s = Spec.joined s d tag u [0xFF, 0] bs := by
  unfold keFreeStep
  rw [withInput_some _ hin]
  exact joinUnit_eq_joined ..

/-- An operation on an OPEN slot: it joins its unit where the slot holds its inputs, and is refused where it does not. -/
theorem slotStep_answers {i : Instr}
    (heffect : exec i s = .next (keSlotStep d tag u c h (Spec.present op) (Spec.taken s d tag)))
    (hin : cmdInput (Spec.taken s d tag) d c h = some bs) (hstate : keState (keSlot s (stepSlot c)) = 1) :
    (Spec.present op (keSlot s (stepSlot c)) = true → exec i s =
      .next (Spec.joined (Spec.taken s d tag) d tag u [stepSlot c, (keSlot s (stepSlot c)).serial] bs)) ∧
    (Spec.present op (keSlot s (stepSlot c)) = false → exec i s = .next (finishSt d tag 0x67 1 (Spec.taken s d tag))) :=
  ⟨fun hp => heffect.trans (congrArg Host.Outcome.next (keSlotStep_joins (s := Spec.taken s d tag) _ hstate hp hin)),
    fun hp => heffect.trans (congrArg Host.Outcome.next (keSlotStep_lacks (s := Spec.taken s d tag) _ hstate hp))⟩

/-- A verification takes the transcript of its slot, or its own digest. -/
theorem verifyStep_answers {i : Instr}
    (heffect : exec i s = .next (if stepTranscript c then keSlotStep d tag u c h (fun _ => true) (Spec.taken s d tag)
      else keFreeStep d tag u c h (Spec.taken s d tag)))
    (hin : cmdInput (Spec.taken s d tag) d c h = some bs) :
    (stepTranscript c = false → exec i s = .next (Spec.joined (Spec.taken s d tag) d tag u [0xFF, 0] bs)) ∧
    (stepTranscript c = true → keState (keSlot s (stepSlot c)) = 1 → exec i s =
      .next (Spec.joined (Spec.taken s d tag) d tag u [stepSlot c, (keSlot s (stepSlot c)).serial] bs)) := by
  refine ⟨fun ht => heffect.trans (congrArg Host.Outcome.next ?_),
    fun ht hstate => heffect.trans (congrArg Host.Outcome.next ?_)⟩
  · exact (if_neg (ne_true_of_eq_false ht)).trans (keFreeStep_joins hin)
  · exact (if_pos ht).trans (keSlotStep_joins (s := Spec.taken s d tag) _ hstate rfl hin)

end

section
variable {s : State} {d : DoorId} {tag op : Nat} {c : Cmd} {hostIn : Option Bytes} {bs : Bytes} {r : StepRow}
  (hc : Spec.Takes s d tag 0x31 c)
include hc

/-- A dispatched KE_STEP of operation `op` that passes its row has the effect of its operation. -/
theorem exec_keStep (i : Instr) {f : Cmd → State → State}
    (hi : exec i s = .next (live s (dispatchIf d tag 0x31 (stepIs op) fun c => keStep d tag (f c) c)))
    (hk : Spec.StepOk (Spec.taken s d tag) d op c hostIn bs r) : exec i s = .next (f c (Spec.taken s d tag)) :=
  hi.trans (congrArg Host.Outcome.next
    ((live_dispatchIf_takes _ hc (by simp [stepIs, hk.code])).trans (keStep_passes _ hk tag)))

/-- SIGN with a P-384 key is an operation on a slot like the others (R251). -/
theorem exec_sign (hk : Spec.StepOk (Spec.taken s d tag) d 0x08 c hostIn bs r) (hp384 : (vaultAt s (stepArg c)).p384 = true) :
    exec (.sign d tag) s = .next (keSlotStep d tag 0 c none (Spec.present 0x08) (Spec.taken s d tag)) := by
  have hp384 : (vaultAt (Spec.taken s d tag) (stepArg c)).p384 = true := hp384
  exact (exec_keStep hc (.sign d tag) rfl hk).trans (congrArg Host.Outcome.next (if_neg (by simp [hp384])))

/-! The vault (R176, R178, R251). -/

theorem exec_vaultKeygen (hk : Spec.StepOk (Spec.taken s d tag) d 0x13 c (some []) bs r) : exec (.vaultKeygen d tag) s = .next (
    if vaultFull s (stepArg c) && !stepReplace c then finishSt d tag 0x61 1 (Spec.taken s d tag)
    else Spec.joined (Spec.taken s d tag) d tag 0 [0xFF, 0] bs) := by
  rw [← keFreeStep_joins ((cmdInput_none ..).trans hk.input)]
  exact exec_keStep hc (.vaultKeygen d tag) rfl hk

theorem exec_vaultWrap (hk : Spec.StepOk (Spec.taken s d tag) d 0x14 c (some []) bs r) (hfull : vaultFull s (stepArg c) = true)
    (hout : (if (vaultAt s (stepArg c)).p384 then 56 else 40) ≤ pktOutLen c.pkt) :
    exec (.vaultWrap d tag) s = .next (Spec.joined (Spec.taken s d tag) d tag 2 [0xFF, 0] bs) := by
  have hfull : ¬ (!vaultFull (Spec.taken s d tag) (stepArg c)) = true := by
    rw [show vaultFull (Spec.taken s d tag) (stepArg c) = true from hfull]
    exact Bool.false_ne_true
  refine (exec_keStep hc (.vaultWrap d tag) rfl hk).trans (congrArg Host.Outcome.next ?_)
  exact (if_neg hfull).trans ((if_neg (Nat.not_lt.2 hout)).trans (keFreeStep_joins ((cmdInput_none ..).trans hk.input)))

/-! Messages (R187, R188). -/

theorem exec_msgSend {q : Nat} (hk : Spec.StepOk (Spec.taken s d tag) d 0x15 c hostIn bs r) (hq : q = stepArg c)
    (hcal : isCal (liveBank s) q = true) (hroom : (cal s q).sendq.length < 16) : exec (.msgSend d tag hostIn) s =
      .next (finishSt d tag 0x00 0 (setCal q { cal s q with sendq := (cal s q).sendq ++ [bs] } (Spec.taken s d tag))) := by
  subst hq
  have hcal : ¬ (!isCal (liveBank (Spec.taken s d tag)) (stepArg c)) = true := by
    rw [show isCal (liveBank (Spec.taken s d tag)) (stepArg c) = true from hcal]
    exact Bool.false_ne_true
  refine (exec_keStep hc (.msgSend d tag hostIn) rfl hk).trans (congrArg Host.Outcome.next ?_)
  exact (if_neg hcal).trans ((if_neg (Nat.not_le.2 hroom)).trans (withInput_some _ hk.input tag))

section
variable {q : Nat} (hk : Spec.StepOk (Spec.taken s d tag) d 0x16 c (some []) bs r) (hq : q = stepArg c)
include hk hq

/-- MSG_RECV takes the oldest message where its output has room for it. -/
theorem exec_msgRecv {m : Bytes} {o : Bool} {rest : List (Bytes × Bool)} (hm : (cal s q).recvq = (m, o) :: rest)
    (hout : m.length ≤ pktOutLen c.pkt) : exec (.msgRecv d tag) s =
      .next (finish d tag 0x00 0 (m.length + (if o then 2 ^ 31 else 0)) (cal s q).dropped 0 (some m)
        (setCal q { cal s q with recvq := rest, dropped := 0 } (Spec.taken s d tag))) := by
  subst hq
  have hm : (cal (Spec.taken s d tag) (stepArg c)).recvq = (m, o) :: rest := hm
  refine (exec_keStep hc (.msgRecv d tag) rfl hk).trans (congrArg Host.Outcome.next ?_)
  dsimp only
  rw [hm]
  exact if_neg (Nat.not_lt.2 hout)

theorem exec_msgRecv_empty (hm : (cal s q).recvq = []) : exec (.msgRecv d tag) s =
    .next (finish d tag 0x01 0x44 0 (cal s q).dropped 0 none (setCal q { cal s q with dropped := 0 } (Spec.taken s d tag))) := by
  subst hq
  refine (exec_keStep hc (.msgRecv d tag) rfl hk).trans (congrArg Host.Outcome.next ?_)
  dsimp only
  split
  · rfl
  · next h => exact absurd (h.symm.trans hm) (List.cons_ne_nil _ _)

end

end

/-- Settles O30, each operation by its effect where its row lets it through (`exec_keStep`). -/
theorem keSteps : Obligations.KeSteps := by
  intro s d tag c hostIn bs r x hc
  refine ⟨?_, fun hk => ?_, fun hk => ?_, ?_, fun hk hfree => ?_, fun hk hfull hkeep => ?_, exec_vaultWrap hc,
    fun q => exec_msgSend hc, fun q m o rest hk hq => exec_msgRecv hc hk hq,
    fun q hk hq => exec_msgRecv_empty hc hk hq⟩
  · have hnone : ∀ {op}, Spec.StepOk x d op c (some []) bs r → cmdInput x d c none = some bs :=
      fun hk => (cmdInput_none ..).trans hk.input
    simp only [List.forall_mem_cons]
    exact ⟨fun hk _ => slotStep_answers (exec_keStep hc (.ecKeygen d tag) rfl hk) (hnone hk),
      fun hk _ => slotStep_answers (exec_keStep hc (.ecDh d tag hostIn) rfl hk) hk.input,
      fun hk _ => slotStep_answers (exec_keStep hc (.kemKeygen d tag) rfl hk) (hnone hk),
      fun hk _ => slotStep_answers (exec_keStep hc (.kemEncaps d tag hostIn) rfl hk) hk.input,
      fun hk _ => slotStep_answers (exec_keStep hc (.kemDecaps d tag hostIn) rfl hk) hk.input,
      fun hk _ => slotStep_answers (exec_keStep hc (.transcript d tag hostIn) rfl hk) hk.input,
      fun hk _ => slotStep_answers (exec_keStep hc (.derive d tag hostIn) rfl hk) hk.input,
      fun hk hp => slotStep_answers (exec_sign hc hk (hp trivial)) (hnone hk), List.forall_mem_nil _⟩
  · exact congrArg Host.Outcome.next ((live_dispatchIf_takes _ hc (by simp [hk.code])).trans (keStep_passes _ hk tag))
  · exact (exec_keStep hc (.sha384 d tag hostIn) rfl hk).trans (congrArg Host.Outcome.next (keFreeStep_joins hk.input))
  · simp only [List.forall_mem_cons]
    exact ⟨fun hk => verifyStep_answers (exec_keStep hc (.ecdsaVerify d tag hostIn) rfl hk) hk.input,
      fun hk => verifyStep_answers (exec_keStep hc (.mldsaVerify d tag hostIn) rfl hk) hk.input, List.forall_mem_nil _⟩
  · rw [exec_vaultKeygen hc hk, if_neg]
    rcases hfree with h | h <;> simp [h]
  · rw [exec_vaultKeygen hc hk, if_pos]
    simp [hfull, hkeep]

end Sys2Proof.Machine
end

section
/-! O31: the end of a key engine operation (R170, R176, R177, R180–R183, R185): what a KE_STEP leaves in its slot and answers,
and what an SA_LOAD does with its unwrapped blob. -/

namespace Sys2Proof.Machine

/-! A KE_STEP's result (R181, R183). -/

section
variable {s : State} {c : Cmd} {y : KeSlot}

theorem stepResult_ecDh {sc z : Bytes} (hop : stepOp c = 0x02) (hec : y.ec = some sc) (hz : p384Dh sc c.input = some z) :
    stepResult s c y = .done { y with zEc := some (fitBytes 48 z), ec := none } none := by
  unfold stepResult
  rw [hop]
  simp only [hec, hz]

/-- A point that gives no secret (R183). -/
theorem stepResult_ecDh_none {sc : Bytes} (hop : stepOp c = 0x02) (hec : y.ec = some sc) (hz : p384Dh sc c.input = none) :
    stepResult s c y = .note 0x40 := by
  unfold stepResult
  rw [hop]
  simp only [hec, hz]

theorem stepResult_kemEncaps {e : Bytes × Bytes} (hop : stepOp c = 0x04)
    (he : mlkemEncaps c.input (Config.freeBytes s.freeCtr 32) = some e) :
    stepResult s c y = .done { y with kPq := some (fitBytes 32 e.2) } (some (fitBytes 1568 e.1)) := by
  unfold stepResult
  rw [hop]
  simp only [he]

theorem stepResult_kemDecaps {dk : Bytes} (hop : stepOp c = 0x05) (hdk : y.dk = some dk) :
    stepResult s c y = .done { y with kPq := some (fitBytes 32 (mlkemDecaps dk c.input)), dk := none } none := by
  unfold stepResult
  rw [hop]
  simp only [hdk]

theorem stepResult_transcript (hop : stepOp c = 0x06) :
    stepResult s c y = .done { y with transcript := y.transcript ++ c.input } none := by
  unfold stepResult
  rw [hop]
  rfl

theorem stepResult_derive {z q out : Bytes} (hop : stepOp c = 0x07) (hz : y.zEc = some z) (hq : y.kPq = some q)
    (hout : out = fitBytes 44 (hkdf384 (fitBytes 48 (sha384 y.transcript)) (z ++ q) c.input 44)) :
    stepResult s c y = .done { y with outs := tset [] y.outs (stepArg c) out } none := by
  unfold stepResult
  rw [hop, hout]
  simp only [hz, hq]
  rfl

end

/-! A KE_STEP whose slot is as it was dispatched on (R181, R185). -/

section
variable {s : State} {c : Cmd} {k : Nat} {y y' : KeSlot} (d tag : Nat) (haux : c.aux = [k, y.serial]) (hy : y = keSlot s k)
include haux hy

theorem stepOn_same : stepOn s c = y := by
  subst hy
  unfold stepOn
  rw [haux]
  exact if_pos rfl

theorem stepBack_same (h0 : y.serial ≠ 0) (hs : y'.serial = y.serial) : stepBack c y' s = setKe k y' s := by
  subst hy
  unfold stepBack
  rw [haux]
  exact (if_neg h0).trans (if_pos hs.symm)

theorem keStepDone_note {n : Nat} (h : stepResult s c y = .note n) : keStepDone d tag c s = finishSt d tag 0x01 n s := by
  rw [keStepDone, stepOn_same haux hy, h]
  rfl

theorem keStepDone_silent (h0 : y.serial ≠ 0) (h : stepResult s c y = .done y' none) (hs : y'.serial = y.serial) :
    keStepDone d tag c s = finishSt d tag 0x00 0 (freeNext (setKe k y' s)) := by
  rw [keStepDone, stepOn_same haux hy, h, ← stepBack_same haux hy h0 hs]
  rfl

theorem keStepDone_output {bs : Bytes} (h0 : y.serial ≠ 0) (h : stepResult s c y = .done y' (some bs))
    (hs : y'.serial = y.serial) :
    keStepDone d tag c s = finish d tag 0x00 0 bs.length 0 0 (some bs) (freeNext (setKe k y' s)) := by
  rw [keStepDone, stepOn_same haux hy, h, ← stepBack_same haux hy h0 hs]
  rfl

end

/-! KEYE_OP_DONE: the oldest operation of the unit (R180, R185). -/

section
variable {s : State} {u : Fin 3} {d tag : Nat} {rest : List (Nat × Nat)} {c : Cmd} (hh : s.clk.held = false)
  (hq : unitQueue s u = (d, tag) :: rest) (hc : findCmd s d tag = some c)
include hh hq hc

theorem exec_keyeOpDone_step (ho : c.opcode = 0x31) (hop : stepOp c ≠ 0x13 ∧ stepOp c ≠ 0x14) :
    exec (.keyeOpDone u) s = .next (Spec.expire (keStepDone d tag c (opsCount u (setUnit u rest s)))) := by
  refine congrArg Host.Outcome.next ((live_run _ hh).trans ?_)
  have hc : findCmd (opsCount u (setUnit u rest s)) d tag = some c := hc
  unfold unitDone
  rw [hq]
  dsimp only
  rw [hc]
  dsimp only
  rw [ho, if_neg (by decide), if_neg (by decide), if_neg (by decide), if_neg (not_or.2 hop)]
  rfl

theorem exec_keyeOpDone_load (ho : c.opcode = 0x20) :
    exec (.keyeOpDone u) s = .next (Spec.expire (loadDone d tag c.input (opsCount u (setUnit u rest s)))) := by
  refine congrArg Host.Outcome.next ((live_run _ hh).trans ?_)
  have hc : findCmd (opsCount u (setUnit u rest s)) d tag = some c := hc
  unfold unitDone
  rw [hq]
  dsimp only
  rw [hc]
  dsimp only
  rw [ho, if_neg (by decide), if_pos rfl]
  rfl

end

/-! The unwrapped blob of an SA_LOAD (R170, R176, R177, R249). -/

theorem loadNext_eq_loaded (n : Nat) (r key salt : Bytes) (s : State) :
    loadNext n (byteAt r 5) (leAt r 8 4) (leAt r 12 4) (leAt r 16 8) key salt s = Spec.loaded s n r key salt := rfl

section
variable {s : State} {d tag : Nat} {r : Bytes} (hstops : loadStops s d r = none)
include hstops

theorem loadDone_channel {bs : Bytes} (h0 : byteAt r 2 = 0) (hwait : chanWaits s (leAt r 0 2) = false)
    (hun : saUnwrap s r = .inr bs) : loadDone d tag r s = finishR0 d tag 0x00 (leNat (kcv (bs.take 32))) (takeChan (leAt r 0 2) d
      (Spec.loaded s (leAt r 0 2) r (bs.take 32) (if bs.length = 44 then bs.drop 32 else slice r 24 12))) := by
  rw [loadDone, loadGo_goes _ hstops fun _ => hwait, hun]
  dsimp only
  rw [if_pos h0, loadChannel, loadNext_eq_loaded]
  rfl

theorem loadDone_vault {bs : Bytes} (h1 : byteAt r 2 = 1) (hun : saUnwrap s r = .inr bs) : loadDone d tag r s =
    finishR0 d tag 0x00 (if bitAt (byteAt r 3) 2 then 0 else leNat (kcv bs))
      (setVault (leAt r 0 2) { key := bs, p384 := bitAt (byteAt r 3) 2, owner := d } s) := by
  rw [loadDone, loadGo_goes _ hstops fun h0 => absurd (h0.symm.trans h1) (by decide), hun]
  dsimp only
  rw [if_neg (by omega), loadVault]
  rfl

theorem loadDone_unauthentic (hwait : byteAt r 2 = 0 → chanWaits s (leAt r 0 2) = false) (hun : saUnwrap s r = .inl 1) :
    loadDone d tag r s = finishSt d tag 0x49 1 (raise 165 (orReg keFlags 1 (incReg (keyeBase + 0x024) s))) := by
  rw [loadDone, loadGo_goes _ hstops hwait, hun]
  rfl

end

/-- Settles O31: the operation's command ends by its `exec_keyeOpDone` equation, with the result that `stepResult` names or
with what the blob unwrapped to. -/
theorem keCompletions : Obligations.KeCompletions := by
  refine ⟨fun s u d tag rest c x k y hh hq hc ho hx hk hy haux _ h0 => ?_,
    fun s d tag rest c x n r hh hq hc ho hx hr hn hstops => ?_⟩
  · have hy' : y = keSlot x k := hx ▸ hy
    have hfree : s.freeCtr = x.freeCtr := hx ▸ rfl
    have hdone : ∀ {op : Nat} {t : State}, stepOp c = op → op ≠ 0x13 ∧ op ≠ 0x14 → keStepDone d tag c x = t →
        exec (.keyeOpDone u) s = .next (Spec.expire t) := fun hop hne ht => by
      rw [exec_keyeOpDone_step hh hq hc ho (hop ▸ hne), ← hx, ht]
    refine ⟨fun sc z hop hec hz => ?_, fun sc hop hec hz => ?_, fun e hop he => ?_, fun dk hop hdk => ?_, fun hop => ?_,
      fun z q out hop hz hkq hout => ?_⟩
    · exact hdone hop (by decide) (keStepDone_silent d tag haux hy' h0 (stepResult_ecDh hop hec hz) rfl)
    · exact hdone hop (by decide) (keStepDone_note d tag haux hy' (stepResult_ecDh_none hop hec hz))
    · refine hdone hop (by decide) ((keStepDone_output d tag haux hy' h0 (stepResult_kemEncaps hop (hfree ▸ he)) rfl).trans ?_)
      rw [length_fitBytes]
    · exact hdone hop (by decide) (keStepDone_silent d tag haux hy' h0 (stepResult_kemDecaps hop hdk) rfl)
    · exact hdone hop (by decide) (keStepDone_silent d tag haux hy' h0 (stepResult_transcript hop) rfl)
    · exact hdone hop (by decide) (keStepDone_silent d tag haux hy' h0 (stepResult_derive hop hz hkq hout) rfl)
  · have hdone : ∀ {t : State}, loadDone d tag r x = t → exec (.keyeOpDone 2) s = .next (Spec.expire t) := fun ht => by
      rw [exec_keyeOpDone_load hh hq hc ho, ← hr, ← ht, hx]
      rfl
    subst hn
    exact ⟨fun bs hdest hwait hun => hdone (loadDone_channel hstops hdest hwait hun),
      fun bs hdest hun => hdone (loadDone_vault hstops hdest hun),
      fun hwait hun => hdone (loadDone_unauthentic hstops hwait hun)⟩

end Sys2Proof.Machine
end

section
/-! The Vat's own state (R224, R229): what programming pages, reading them and ending commands leave of it. None of these stops
the Vat, which only the entry to SLEEP does. -/

namespace Sys2Proof.Machine

/-! Events, replies, pages and blocks leave all of it alone. -/

section
variable (s : State)

@[simp] theorem raise_vat (n : Nat) : (raise n s).vat = s.vat := by rw [raise_frame]

@[simp] theorem raiseIf_vat (b : Bool) (n : Nat) : (raiseIf b n s).vat = s.vat := by
  unfold raiseIf
  split
  · exact raise_vat s n
  · rfl

@[simp] theorem finish_vat (d tag status detail r0 r1 r2 : Nat) (data : Option Bytes) :
    (finish d tag status detail r0 r1 r2 data s).vat = s.vat := by
  obtain ⟨_, _, _, _, _, _, h⟩ := finish_frame d tag status detail r0 r1 r2 data s
  rw [h]

@[simp] theorem modBlk_vat (b : Nat) (f : Blk → Blk) : (modBlk b f s).vat = s.vat := rfl
@[simp] theorem eraseBlk_vat (b : Nat) : (eraseBlk b s).vat = s.vat := rfl
@[simp] theorem putSector_vat (key : Nat) (bs : Bytes) (loc m : Nat) : (putSector key bs loc m s).vat = s.vat := rfl

@[simp] theorem countPage_vat (host : Bool) : (countPage host s).vat = s.vat := by cases host <;> rfl
@[simp] theorem countPage_nand (host : Bool) : (countPage host s).nand = s.nand := by cases host <;> rfl

@[simp] theorem placeSecs_vat (keys : List Nat) (secs : List Bytes) (a m : Nat) : (placeSecs keys secs a m s).vat = s.vat :=
  foldl_note (g := State.vat) (fun x (e : (Nat × Bytes) × Nat) => putSector_vat x e.1.1 e.1.2 (a + 1) (m + 4 * e.2)) _ s

end

theorem takeBlk_vat {kind b : Nat} {s t : State} (h : takeBlk kind s = some (b, t)) : t.vat = s.vat := by
  unfold takeBlk at h
  split at h
  · cases h; rfl
  · obtain ⟨c, _, hc⟩ := Option.map_eq_some_iff.1 h
    cases hc
    exact eraseBlk_vat ..

theorem programRaw_vat {kind a : Nat} {cws : List Bytes} {s t : State} (h : programRaw kind cws s = some (a, t)) :
    t.vat = s.vat := by
  unfold programRaw at h
  split at h
  · cases h; rfl
  · obtain ⟨⟨b, x⟩, hb, hc⟩ := Option.map_eq_some_iff.1 h
    cases hc
    exact (takeBlk_vat hb :)

theorem programSecs_vat {kind a m : Nat} {secs : List Bytes} {s t : State} (h : programSecs kind secs s = some (a, m, t)) :
    t.vat = s.vat := by
  obtain ⟨⟨b, x⟩, hb, hc⟩ := Option.map_eq_some_iff.1 h
  cases hc
  exact (programRaw_vat hb :)

@[simp] theorem moveSectors_vat (n : Nat) (keys : List Nat) (s : State) : (moveSectors n keys s).vat = s.vat := by
  induction n generalizing keys s with
  | zero => rfl
  | succ n ih =>
    unfold moveSectors
    split
    · rfl
    · extract_lets here secs
      split
      · rfl
      · next h => rw [ih, placeSecs_vat, countPage_vat, programSecs_vat h]

@[simp] theorem makeRoom_vat (kind : Nat) (s : State) : (makeRoom kind s).vat = s.vat := by
  unfold makeRoom reclaim
  split
  · rfl
  · split
    · rfl
    · extract_lets room full
      split
      · rfl
      · extract_lets keys s1
        have h1 : s1.vat = s.vat := moveSectors_vat ..
        split
        · exact (eraseBlk_vat ..).trans h1
        · exact h1

theorem programOwn_vat {kind a : Nat} {s t : State} (h : programOwn kind s = some (a, t)) : t.vat = s.vat :=
  (programRaw_vat h).trans (makeRoom_vat kind _)

@[simp] theorem writeOwn_vat (kind : Nat) (s : State) : (writeOwn kind s).vat = s.vat := by
  unfold writeOwn
  split
  · rfl
  · next h => exact (countPage_vat ..).trans (programOwn_vat h)

@[simp] theorem writeTables_vat (s : State) : (writeTables s).vat = s.vat := by
  unfold writeTables
  split
  · exact (writeOwn_vat ..).trans (writeOwn_vat ..)
  · rfl

@[simp] theorem commitPage_vat (s : State) : (commitPage s).vat = s.vat := by
  unfold commitPage
  extract_lets s1
  have h1 : s1.vat = s.vat := countPage_vat s true
  split
  · exact h1
  · exact (foldl_note (g := State.vat) (fun x _ => writeOwn_vat 2 x) _ _).trans h1

@[simp] theorem refillPool_vat (b : Nat) (s : State) : (refillPool b s).vat = s.vat := by
  unfold refillPool
  split
  · extract_lets s1
    split
    · rfl
    · next h => exact (takeBlk_vat h).trans rfl
  · rfl

@[simp] theorem appendRecord_vat (r : Bytes) (page : Nat × Nat) (s : State) : (appendRecord r page s).vat = s.vat :=
  raiseIf_vat ..

/-! Retired blocks, reads, formats and the ends of commands may change its state and its queue, but do not stop it. -/

@[simp] theorem settleSpare_stopping (before : Nat) (s : State) : (settleSpare before s).vat.stopping = s.vat.stopping := by
  unfold settleSpare
  extract_lets now s1
  have h1 : s1.vat = s.vat := raiseIf_vat ..
  split
  · rw [wornOut, raise_vat, modVat_vat, h1]
  · rw [h1]

@[simp] theorem redoPages_stopping (b : Nat) (s : State) : (redoPages b s).vat.stopping = s.vat.stopping := by
  unfold redoPages
  split
  · rfl
  · next o _ _ =>
    split
    · rfl
    · next c _ =>
      extract_lets done
      have hdone : done.2.vat = s.vat := by
        refine List.foldlRecOn (motive := fun x : List (Nat × Nat) × State => x.2.vat = s.vat) _ _ rfl fun x hx e _ => ?_
        split
        · split
          · exact hx
          · next h => exact (countPage_vat ..).trans ((programSecs_vat h).trans hx)
        · exact hx
      exact (congrArg Vat.stopping hdone :)

@[simp] theorem retireBlk_stopping (move : Bool) (b : Nat) (s : State) :
    (retireBlk move b s).vat.stopping = s.vat.stopping := by
  unfold retireBlk
  extract_lets before s1 keys s2
  have h1 : s1.vat = s.vat := refillPool_vat ..
  have h2 : s2.vat.stopping = s1.vat.stopping := by
    unfold s2
    split
    · rw [redoPages_stopping, moveSectors_vat]
    · rfl
  rw [settleSpare_stopping, raise_vat, writeTables_vat, h2, h1]

@[simp] theorem readMet_stopping (b : Nat) (outs : List (Option Nat)) (s : State) :
    (readMet b outs s).vat.stopping = s.vat.stopping := by
  unfold readMet
  extract_lets thresh limit mended lost s1 s2 s3 s4
  have h1 : s1.vat = s.vat := foldl_note (g := State.vat) (fun x _ => incReg_vat _ x) _ s
  have h2 : s2.vat = s1.vat := foldl_note (g := State.vat) (fun x _ => raise_vat (incReg _ x) 145) _ s1
  have h3 : s3.vat = s.vat := h2.trans h1
  have h4 : s4.vat = s.vat := by
    unfold s4
    split
    · exact (raise_vat ..).trans h3
    · exact h3
  split
  · rw [retireBlk_stopping, h4]
  · rw [h4]

@[simp] theorem sweepPool_stopping (fails : List Nat) (s : State) : (sweepPool fails s).vat.stopping = s.vat.stopping := by
  refine foldl_note (g := fun x => x.vat.stopping) (fun x b => ?_) _ s
  split
  · split
    · exact retireBlk_stopping ..
    · rfl
  · rfl

@[simp] theorem vatFinish_stopping (o : VatOp) (status detail r0 r1 r2 : Nat) (data : Option Bytes) (s : State) :
    (vatFinish o status detail r0 r1 r2 data s).vat.stopping = s.vat.stopping := by rw [vatFinish, finish_vat]; rfl

@[simp] theorem setHead_stopping (o : VatOp) (s : State) : (setHead o s).vat.stopping = s.vat.stopping := rfl

@[simp] theorem endRead_stopping (o : VatOp) (c : Cmd) (s : State) : (endRead o c s).vat.stopping = s.vat.stopping := by
  unfold endRead
  extract_lets off n lost bs
  split <;> exact vatFinish_stopping ..

@[simp] theorem endLogRead_stopping (o : VatOp) (c : Cmd) (s : State) : (endLogRead o c s).vat.stopping = s.vat.stopping := by
  unfold endLogRead
  extract_lets rs hurt good next out
  split
  · exact vatFinish_stopping ..
  · split <;> exact vatFinish_stopping ..

@[simp] theorem trimLog_stopping (n : Nat) (s : State) : (trimLog n s).2.vat.stopping = s.vat.stopping := by
  unfold trimLog
  extract_lets x
  split
  · rfl
  · exact (congrArg Vat.stopping (foldl_note (g := State.vat) (fun y k => putSector_vat y (sectorKey 3 k) [] 0 0) _ s) :)

theorem formatPool_vat (fails l : List Nat) (n : Nat) (s : State) : (formatPool fails l n s).vat = s.vat := by
  induction l generalizing n s with
  | nil => rfl
  | cons b l ih =>
    cases n with
    | zero => rfl
    | succ n =>
      unfold formatPool
      extract_lets join
      split
      · exact ih ..
      · split
        · exact (ih ..).trans (raise_vat ..)
        · exact ih ..

theorem formatNow_stopping (lower : List Nat) (r : NandResult) (s : State) :
    (formatNow lower r s).2.vat.stopping = s.vat.stopping := by
  unfold formatNow
  extract_lets n marks s1 per
  have h1 : s1.vat = s.vat := foldl_note (g := State.vat) (fun x b => modBlk_vat x b _) _ s
  split
  · rw [raise_vat, modVat_vat, h1]
  · extract_lets s2 s3
    have h3 : s3.vat = s1.vat := (writeOwn_vat ..).trans ((writeTables_vat _).trans (formatPool_vat ..))
    rw [noteSpare, settleSpare_stopping, raise_vat, raise_vat, modVat_vat, h3, h1]

end Sys2Proof.Machine
end

section
/-! O40: the end of a NAND operation of the running command (R220, R225–R227, R230, R232, R237–R239, R253), the Store's background
work (R230, R233–R236), the interface request and the mount (R216–R218). -/

namespace Sys2Proof.Machine

/-! The end of a NAND operation, by the phase of the running command. -/

section
variable {o : VatOp} {c : Cmd} {r : NandResult} {s : State}

theorem opDone_reads {g : List Nat} {l : List (List Nat)} (hp : o.phase = .reads (g :: l)) :
    opDone o c r s = readDone o c g l r s := by
  unfold opDone
  rw [hp]

theorem opDone_data_failed {n : Nat} {p : Nat × Nat} (hp : o.phase = .data n) (hf : r.failed = true)
    (hl : o.pages.getLast? = some p) : opDone o c r s =
      retireBlk true (p.1 / ppb s.nand.geom) (setHead { o with pages := o.pages.dropLast } (countPage true s)) := by
  unfold opDone pageFailed
  simp only [hp, hf, hl, if_true, countPage_nand]

theorem opDone_data_done {n : Nat} (hp : o.phase = .data n) (hf : r.failed = false) : opDone o c r s =
    setHead { o with phase := if n ≤ 1 then .commit else .data (n - 1) }
      (modNand (fun x => { x with orphan := true }) (countPage true s)) := by
  unfold opDone
  simp only [hp, hf, Bool.false_eq_true, if_false]

theorem opDone_erase {b : Nat} {l : List Nat} {check : Bool} {t : State} (hp : o.phase = .erases (b :: l) check)
    (he : eraseDone b check r s = (true, t)) :
    opDone o c r s = setHead { o with phase := if l = [] then .commit else .erases l false } t := by
  unfold opDone
  simp [hp, he]

theorem opDone_erase_readBack {b : Nat} {l : List Nat} (hp : o.phase = .erases (b :: l) false) (hf : r.failed = false) :
    opDone o c r s = setHead { o with phase := .erases (b :: l) true } (erased b (closeBlk b s)) := by
  unfold opDone eraseDone
  simp [hp, hf]

theorem opDone_commit_failed {b : Nat} (hp : o.phase = .commit) (hf : r.failed = true) (hb : s.nand.jrnBlk = some b) :
    opDone o c r s = retireBlk true b (countPage true s) := by
  unfold opDone
  simp only [hp, hf, hb, if_true]

theorem opDone_commit (hp : o.phase = .commit) (hf : r.failed = false) : opDone o c r s = commitOp o c r.fails s := by
  unfold opDone
  simp only [hp, hf, Bool.false_eq_true, if_false]

theorem opDone_format {lower : List Nat} {k : Nat} (hp : o.phase = .format lower k) :
    opDone o c r s = formatDone o c lower r s := by
  unfold opDone
  rw [hp]

end

/-! A page that has been read; the last one ends STORE_READ or LOG_READ (R220, R239). -/

theorem readDone_eq {o o1 : VatOp} {c : Cmd} {g : List Nat} {l : List (List Nat)} {r : NandResult} {s y : State}
    {outs : List (Nat × List (Option (Bytes × Nat)))} (houts : outs = pageOut s (g.map (sectorKey (pByte c.pkt 0))) r.errs)
    (ho : o1 = { o with
      phase := .reads l
      lost := o.lost ++ (g.zip outs).flatMap fun e => (e.2.2.zipIdx.filter fun v => v.1.isNone).map fun v => e.1 * 4 + v.2
      got := (g.zip outs).foldl (fun t e => tset [] t e.1 (delivered4 e.2.2)) o.got })
    (hy : y = readMet ((tget 0 s.nand.loc (sectorKey (pByte c.pkt 0) (g.headD 0)) - 1) / ppb s.nand.geom) (outBits outs)
      (setHead o1 s)) :
    readDone o c g l r s = if l.isEmpty then (if c.opcode = 0x40 then endRead o1 c y else endLogRead o1 c y) else y := by
  subst hy ho houts
  rfl

/-! Commit points (R225). -/

section
variable {o : VatOp} {c : Cmd} {fails : List Nat} {s : State}

theorem commitOp_write (h : c.opcode = 0x41) : commitOp o c fails s = vatFinish o 0x00 0 (storeLen c / 4096) 0 0 none
    (settleSpare (spareBlks s) (sweepPool fails ((List.range (storeLen c / 4096)).foldl (fun x i =>
      let p := o.pages.getD (i / pageSectors s.nand.geom) (0, 0)
      putSector (sectorKey (storeReam c) (storeOff c / 4096 + i)) (slice c.input (4096 * i) 4096) (p.1 + 1)
        (p.2 + 4 * (i % pageSectors s.nand.geom)) x) (commitPage s)))) := by
  unfold commitOp
  rw [h]
  rfl

theorem commitOp_erase (h : c.opcode = 0x42) : commitOp o c fails s = vatFinish o 0x00 0
    ((List.range (storeLen c / 4096)).filter fun i =>
      tget 0 (commitPage s).nand.loc (sectorKey (storeReam c) (storeOff c / 4096 + i)) != 0).length 0 0 none
    (sweepPool fails ((List.range (storeLen c / 4096)).foldl (fun x i =>
      putSector (sectorKey (storeReam c) (storeOff c / 4096 + i)) [] 0 0 x) (commitPage s))) := by
  unfold commitOp
  rw [h]
  rfl

theorem commitOp_append (h : c.opcode = 0x43) : commitOp o c fails s = vatFinish o 0x00 0
    ((commitPage s).nand.nextSeq % 2 ^ 32) ((commitPage s).nand.nextSeq / 2 ^ 32) 0 none
    (settleSpare (spareBlks s) (appendRecord o.record (o.pages.headD (0, 0)) (commitPage s))) := by
  unfold commitOp
  rw [h]
  rfl

theorem commitOp_trim (h : c.opcode = 0x45) : commitOp o c fails s = vatFinish o 0x00 0
    (trimLog (storeSeq c) (commitPage s)).1 0 0 none (trimLog (storeSeq c) (commitPage s)).2 := by
  unfold commitOp
  rw [h]
  rfl

end

/-! The end of a format (R226, R253). -/

section
variable {o : VatOp} {c : Cmd} {lower : List Nat} {r : NandResult} {s y : State}

theorem formatDone_format (h : (true, y) = formatNow lower r s) (hop : c.opcode = 0x47) :
    formatDone o c lower r s = vatFinish o 0x00 0 y.nand.user 0 0 none y := by
  unfold formatDone
  rw [← h]
  exact if_pos hop

theorem formatDone_other (h : (true, y) = formatNow lower r s) (hop : c.opcode ≠ 0x47) :
    formatDone o c lower r s = setHead { o with phase := .waiting } y := by
  unfold formatDone
  rw [← h]
  exact if_neg hop

theorem formatDone_failed (h : (false, y) = formatNow lower r s) :
    formatDone o c lower r s = vatFinish o 0x26 0 0 0 0 none y := by
  unfold formatDone
  rw [← h]
  rfl

end

/-! No end of a NAND operation stops the Vat. -/

section
variable (o : VatOp) (c : Cmd) (r : NandResult) (s : State)

theorem commitOp_stopping (fails : List Nat) : (commitOp o c fails s).vat.stopping = s.vat.stopping := by
  unfold commitOp
  extract_lets before s1 k first n m
  have h1 : s1.vat = s.vat := commitPage_vat s
  have hput : ∀ (l : List Nat) (f : State → Nat → State), (∀ x i, (f x i).vat = x.vat) → (l.foldl f s1).vat = s.vat :=
    fun l f hf => (foldl_note hf l s1).trans h1
  split
  · rw [vatFinish_stopping, settleSpare_stopping, sweepPool_stopping, hput _ _ fun x i => putSector_vat ..]
  · rw [vatFinish_stopping, sweepPool_stopping, hput _ _ fun x i => putSector_vat ..]
  · rw [vatFinish_stopping, settleSpare_stopping, appendRecord_vat, h1]
  · exact (vatFinish_stopping ..).trans ((trimLog_stopping ..).trans (congrArg Vat.stopping h1))

theorem formatDone_stopping (lower : List Nat) : (formatDone o c lower r s).vat.stopping = s.vat.stopping := by
  have h := formatNow_stopping lower r s
  unfold formatDone
  revert h
  generalize formatNow lower r s = p
  obtain ⟨ok, s1⟩ := p
  intro h
  dsimp only
  split
  · exact (vatFinish_stopping ..).trans h
  · split
    · exact (vatFinish_stopping ..).trans h
    · exact h

theorem readDone_stopping (g : List Nat) (l : List (List Nat)) : (readDone o c g l r s).vat.stopping = s.vat.stopping := by
  rw [readDone_eq rfl rfl rfl]
  split
  · split
    · rw [endRead_stopping, readMet_stopping, setHead_stopping]
    · rw [endLogRead_stopping, readMet_stopping, setHead_stopping]
  · rw [readMet_stopping, setHead_stopping]

theorem eraseDone_stopping (b : Nat) (check : Bool) : (eraseDone b check r s).2.vat.stopping = s.vat.stopping := by
  unfold eraseDone
  split
  · dsimp only
    split
    · exact retireBlk_stopping ..
    · rfl
  · split
    · exact retireBlk_stopping ..
    · rfl

theorem opDone_stopping : (opDone o c r s).vat.stopping = s.vat.stopping := by
  have hcount : (countPage true s).vat.stopping = s.vat.stopping := congrArg Vat.stopping (countPage_vat s true)
  unfold opDone
  split
  · rfl
  · rfl
  · exact formatDone_stopping ..
  · split
    · exact endRead_stopping ..
    · exact endLogRead_stopping ..
  · exact readDone_stopping ..
  · extract_lets s1
    split
    · unfold pageFailed
      split
      · exact hcount
      · exact (retireBlk_stopping ..).trans hcount
    · exact hcount
  · rfl
  · exact eraseDone_stopping ..
  · split
    · split
      · rfl
      · exact (retireBlk_stopping ..).trans hcount
    · exact commitOp_stopping ..

end

/-- The end of a NAND operation where the Vat is not on its way into SLEEP (R224, R229). -/
theorem exec_vatOpDone {s : State} {r : NandResult} {o : VatOp} {rest : List VatOp} {c : Cmd} (hh : s.clk.held = false)
    (hclk : nclkRuns s = true) (hbusy : s.vat.busy = true) (hstop : s.vat.stopping = false) (hops : s.vat.ops = o :: rest)
    (hc : findCmd s o.door o.tag = some c) :
    exec (.vatOpDone r) s =
      .next (pump (opDone o c r (modVat (fun v => { v with busy := false, fgLast := true }) s))) := by
  refine congrArg Host.Outcome.next ((live_run _ hh).trans ?_)
  have hs : (opDone o c r (modVat (fun v => { v with busy := false, fgLast := true }) s)).vat.stopping = false :=
    (opDone_stopping ..).trans hstop
  rw [if_pos hclk]
  unfold vatOpDone
  simp only [hbusy, hops, hc, hs, Bool.not_true, Bool.false_eq_true, if_false]

/-! Patrol, relocation and levelling (R230, R233–R236). -/

section
variable {s : State} {r : NandResult}

theorem exec_retentionPatrol {p : Nat} (hh : s.clk.held = false) (hclk : nclkRuns s = true) (hstop : s.vat.stopping = false)
    (hmode : s.fault.mode ≠ 2) (hops : s.vat.ops = []) (hst : s.vat.st = 3 ∨ s.vat.st = 4) (hp : patrolPage s = some p) :
    exec (.retentionPatrol r) s = .next (readMet (p / ppb s.nand.geom) (outBits (pageOut s (inPage s p) r.errs))
      (modVat (fun v => { v with patrol := p + 1 }) s)) := by
  refine congrArg Host.Outcome.next ((live_run _ hh).trans ?_)
  have hidle : (nclkRuns s && !s.vat.stopping && s.fault.mode != 2 && s.vat.ops.isEmpty && (s.vat.st == 3 || s.vat.st == 4))
      = true := by
    simp [hclk, hstop, hmode, hops, hst]
  simp only [hidle, hp, Bool.not_true, Bool.false_eq_true, if_false]

theorem exec_backgroundRelocate (hh : s.clk.held = false) (hidle : vatIdle true s = true) :
    exec (.backgroundRelocate r) s = .next (if relocQueued s then relocStep r s else levelStep r s) := by
  refine congrArg Host.Outcome.next ((live_run _ hh).trans ?_)
  rw [hidle]
  rfl

/-- The move that a relocation works on: the one under way, or that of the first queued block to a fresh block. -/
theorem relocStep_moves {m : Move} {x : State} {a : Option Move} {e : Bool} {z : State}
    (hm : s.vat.reloc = some m ∧ x = s ∨ s.vat.reloc = none ∧ ∃ b t, m = { src := b, dst := t } ∧
      ((List.range (allBlocks s.nand.geom)).find? fun b => (blk s b).queued && !(blk s b).retired) = some b ∧
      takeBlk (if s.nand.pool.contains b then 1 else 0) s = some (t, x))
    (hz : (a, e, z) = moveStep m r (modVat (fun v => { v with fgLast := false }) x)) :
    relocStep r s = pump (if e then incReg 0x40080034 (modVat (fun v => { v with reloc := a }) z)
      else modVat (fun v => { v with reloc := a }) z) := by
  unfold relocStep
  rcases hm with ⟨hm, rfl⟩ | ⟨hm, b, t, rfl, hb, ht⟩
  · simp only [hm, ← hz]
    rfl
  · simp only [hm, hb, Option.bind_some, ht, Option.map_some, ← hz]
    rfl

theorem levelStep_moves {m : Move} (hm : s.vat.level = some m) (ht : s.clk.throttle = 0) :
    levelStep r s = modVat (fun v => { v with level := (moveStep m r s).1 }) (moveStep m r s).2.2 := by
  unfold levelStep
  rw [hm]
  exact if_pos ht

theorem levelStep_throttled {m : Move} (hm : s.vat.level = some m) (ht : s.clk.throttle ≠ 0) : levelStep r s = s := by
  unfold levelStep
  rw [hm]
  exact if_neg ht

theorem exec_staticLevelling_begins (hh : s.clk.held = false) (hidle : vatIdle false s = true) (ht : s.clk.throttle = 0)
    (hl : s.vat.level = none) :
    exec .staticLevelling s = .next (modVat (fun v => { v with level := levelStart s }) s) := by
  refine congrArg Host.Outcome.next ((live_run _ hh).trans (if_neg ?_))
  simp [hidle, ht, hl]

theorem exec_staticLevelling_throttled (hh : s.clk.held = false) (ht : s.clk.throttle ≠ 0) :
    exec .staticLevelling s = .next s := by
  refine congrArg Host.Outcome.next ((live_run _ hh).trans (if_pos ?_))
  simp [ht]

theorem levelStart_begins {b t : Nat} (hd : rfld s 0x40080014 0 16 < eraseMax s - eraseMin s)
    (hb : leastBy (fun b => (blk s b).erases) ((goodBlks s).filter fun b => !(liveIn s b).isEmpty) = some b)
    (ht : leastBy (fun p => eraseMax s - (blk s p).erases) (emptyBlks (if s.nand.pool.contains b then 1 else 0) s) = some t) :
    levelStart s = some { src := b, dst := t } := by
  refine (if_neg (Nat.not_le.2 hd)).trans ?_
  dsimp only
  rw [hb, Option.bind_some, ht]
  rfl

theorem moveStep_ends {m : Move} (hl : liveIn s m.src = []) :
    moveStep m r s = (none, true, if r.failed then retireBlk true m.src s else eraseBlk m.src (closeBlk m.src s)) := by
  unfold moveStep
  rw [hl]

theorem moveStep_page {m : Move} {k : Nat} {l : List Nat} (hl : liveIn s m.src = k :: l) : moveStep m r s =
    ((movePage m (inPage s (tget 0 s.nand.loc k - 1)) r s).1.map fun d => { m with dst := d }, false,
      (movePage m (inPage s (tget 0 s.nand.loc k - 1)) r s).2) := by
  unfold moveStep
  rw [hl]

/-- A page is copied into the block that the move fills, where that has room and the program succeeds. -/
theorem movePage_copies {m : Move} {keys : List Nat} {outs : List (Nat × List (Option (Bytes × Nat)))} {x : State}
    {secs : List Bytes} {a : Nat} {z : State} (houts : outs = pageOut s keys r.errs)
    (hx : x = readMet m.src (outBits outs) s) (hret : (blk x m.src).retired = false) (hroom : hasRoom x m.dst = true)
    (hsecs : secs = outs.map fun e => delivered4 e.2) (hf : r.failed = false)
    (hz : (a, z) = programIn m.dst (secs.zipIdx.map fun (bs, j) => sectorCws (x.freeCtr + 4 * j) bs).flatten
      { x with freeCtr := x.freeCtr + 4 * secs.length }) :
    movePage m keys r s = (some m.dst, placeSecs keys secs a x.freeCtr (countPage false z)) := by
  unfold movePage
  extract_lets outs' x' kind room secs'
  obtain rfl : outs' = outs := houts.symm
  obtain rfl : x' = x := hx.symm
  obtain rfl : secs' = secs := hsecs.symm
  have hr : room = some (m.dst, x') := if_pos hroom
  clear_value room
  subst hr
  rw [if_neg (ne_true_of_eq_false hret)]
  dsimp only
  rw [← hz, hf]
  rfl

end

/-! The interface request and the mount (R216–R218). -/

section
variable {s : State} {v : Word}

theorem exec_vatIfReq {l : Bool} {y : State} (hh : s.clk.held = false) (hl : l = rbit s 0x40080004 31)
    (hy : y = putBit 0x40080004 31 (l || wbit v 31) (writeTyped 0x40080004 l v s)) :
    exec (.vatIfReq v) s = .next (ifRequest (wbit v 0) y) := by
  subst hy hl
  exact congrArg Host.Outcome.next (live_run _ hh)

theorem ifRequest_down {want : Bool} (h : s.vat.st = 0 ∨ s.vat.st = 1) : ifRequest want s = s := if_pos h

theorem ifRequest_async (h : 1 < s.vat.st) : ifRequest false s =
    emit (.nand (.features false s.vat.asyncMax (rfld s 0x40080004 1 3)))
      (modVat (fun v => { v with nvddr3 := false, asyncMode := v.asyncMax }) s) :=
  if_neg (by omega)

theorem ifRequest_ddr (h : 1 < s.vat.st) (hd : s.vat.ddrOk = true) : ifRequest true s = emit (.nand .zqCal)
    (emit (.nand (.features true s.vat.ddrMode (rfld s 0x40080004 1 3))) (modVat (fun v => { v with nvddr3 := true }) s)) :=
  (if_neg (by omega)).trans ((if_pos rfl).trans (if_pos hd))

theorem ifRequest_noDdr (hd : s.vat.ddrOk = false) : ifRequest true s = s := by
  unfold ifRequest
  simp [hd]

theorem exec_vatMountDone {a : MountAnswer} {boot : BootReads} (hh : s.clk.held = false) (hst : s.vat.st = 1)
    (hclk : nclkRuns s = true) : exec (.vatMountDone a boot) s = .next
      (if (mountStore a s).idn.booting && sentinelRuns (mountStore a s) then romRun boot (mountStore a s) else mountStore a s) := by
  refine congrArg Host.Outcome.next ((live_run _ hh).trans (if_neg ?_))
  simp [hst, hclk]

theorem exec_vatMountDone_mounted {a : MountAnswer} {boot : BootReads} (hh : s.clk.held = false) (hst : s.vat.st ≠ 1) :
    exec (.vatMountDone a boot) s = .next s := congrArg Host.Outcome.next ((live_run _ hh).trans (if_pos (.inl hst)))

theorem mountStore_unknown {p : ParamPage} (h : pageKnown p = false) : mountStore (.found p) s =
    pump (raise 154 (modVat (fun v => { v with st := 0, reason := 4 }) s)) := congrArg pump (if_pos (by rw [h]; rfl))

theorem mountStore_spare {p : ParamPage} (h : pageKnown p = true) (hs : spareOk (p.pageBytes / 1024) p.spare = false) :
    mountStore (.found p) s = pump (raise 154 (modVat (fun v => { v with st := 0, reason := 5 }) s)) :=
  congrArg pump ((if_neg (by rw [h]; decide)).trans (if_pos (by rw [hs]; rfl)))

end

/-- Settles O40: the end of an operation is one case of `opDone`, which does not stop the Vat; the background work, the interface
request and the mount each by their equation. -/
theorem storeOperationsEnd : Obligations.StoreOperationsEnd := by
  refine ⟨fun s r o rest c x hh hclk hbusy hstop hops hc hx => ?_, fun s r hh =>
    ⟨?_, ?_, ?_, ?_, ?_, ?_, ?_, ?_, ?_, ?_, ?_, ?_, ?_⟩⟩
  · have hdone : ∀ {y : State}, opDone o c r x = y → exec (.vatOpDone r) s = .next (pump y) := by
      rintro _ rfl
      exact hx ▸ exec_vatOpDone hh hclk hbusy hstop hops hc
    have hgeom : s.nand.geom = x.nand.geom := by rw [hx]
    have hpages : pageOut s = pageOut x := by rw [hx]; rfl
    have hloc : s.nand.loc = x.nand.loc := by rw [hx]
    have hjrn : s.nand.jrnBlk = x.nand.jrnBlk := by rw [hx]
    rw [hgeom, hpages, hloc, hjrn]
    refine ⟨fun g l outs o1 y hp houts ho1 hy => ?_, fun n hp => ⟨fun p hf hl => hdone (opDone_data_failed hp hf hl),
        fun y hf hy => hdone (hy ▸ opDone_data_done hp hf)⟩,
      fun b l o1 ho1 => ?_, fun b hp hf hb => hdone (opDone_commit_failed hp hf hb), fun y hp hf hy => ?_,
      fun lower k y hp => ⟨fun h hop => hdone ((opDone_format hp).trans (formatDone_format h hop)),
        fun h hop => hdone ((opDone_format hp).trans (formatDone_other h hop)),
        fun h => hdone ((opDone_format hp).trans (formatDone_failed h))⟩⟩
    · have hread := (opDone_reads hp).trans (readDone_eq houts ho1 hy)
      exact ⟨fun hl => hdone (hread.trans (if_neg (by simpa using hl))),
        fun hl => hdone (hread.trans ((if_pos (by simpa using hl)).trans (apply_ite (fun f : State → State => f y) ..).symm))⟩
    · subst ho1
      refine ⟨fun hp hf => hdone (opDone_erase_readBack hp hf), fun hp hf => hdone (opDone_erase hp ?_),
        fun hp hz => hdone (opDone_erase hp ?_), fun hp hz => hdone (opDone_erase hp ?_)⟩
      · simp [eraseDone, hf]
      · simp [eraseDone, Nat.not_lt.2 hz]
      · simp [eraseDone, hz]
    · subst hy
      have hcommit := opDone_commit (c := c) (s := x) hp hf
      exact ⟨fun hop => hdone (hcommit.trans (commitOp_erase hop)), fun hop => hdone (hcommit.trans (commitOp_write hop)),
        fun hop => hdone (hcommit.trans (commitOp_append hop)), fun hop => hdone (hcommit.trans (commitOp_trim hop))⟩
  · exact fun p => exec_retentionPatrol hh
  · intro m x a z hidle hq hm
    have hstep := (exec_backgroundRelocate (r := r) hh hidle).trans (congrArg Host.Outcome.next (if_pos hq))
    exact ⟨fun hz => hstep.trans (congrArg Host.Outcome.next (relocStep_moves hm hz)),
      fun hz => hstep.trans (congrArg Host.Outcome.next (relocStep_moves hm hz))⟩
  · intro m a e z hidle hq hm hz
    have hstep := (exec_backgroundRelocate (r := r) hh hidle).trans
      (congrArg Host.Outcome.next (if_neg (ne_true_of_eq_false hq)))
    refine ⟨fun ht => ?_, fun ht => ?_⟩
    · rw [hstep, levelStep_moves hm ht, ← hz]
      rfl
    · rw [hstep, levelStep_throttled hm ht]
  · exact exec_staticLevelling_begins hh
  · refine fun b t hd => levelStart_begins ?_
    rwa [rfld, wfld, fld, Nat.pow_zero, Nat.div_one]
  · exact exec_staticLevelling_throttled hh
  · refine fun m hl => ⟨fun hf => ?_, fun hf => ?_⟩ <;> rw [moveStep_ends hl, hf] <;> rfl
  · intro m k l keys outs x secs a z hl hkeys houts hx hret hroom hsecs hf hz
    rw [moveStep_page hl, ← hkeys, movePage_copies houts hx hret hroom hsecs hf hz]
    rfl
  · intro v l y k hl hy hk
    have hreq := exec_vatIfReq hh hl hy
    have hvat : y.vat = s.vat := by rw [hy, putBit_vat, writeTyped_vat]
    rw [← hvat, hk]
    refine ⟨fun h => ?_, fun h hv => ?_, fun h hv hd => ?_, fun hv hd => ?_⟩
    · rw [hreq, ifRequest_down h]
    · rw [hreq, hv, ifRequest_async h]
      rfl
    · rw [hreq, hv, ifRequest_ddr h hd]
      rfl
    · rw [hreq, hv, ifRequest_noDdr hd]
  · exact fun a boot hst => exec_vatMountDone_mounted hh hst
  · rintro a k (⟨i, rfl, rfl⟩ | ⟨p, rfl, hp, rfl⟩ | ⟨p, rfl, hp, hs, rfl⟩)
    · rfl
    · exact mountStore_unknown hp
    · exact mountStore_spare hp hs
  · intro a boot hst hclk hb
    rw [exec_vatMountDone hh hst hclk, hb]
    rfl
  · intro a boot hst hclk hb hrun
    rw [exec_vatMountDone hh hst hclk, hb, hrun]
    rfl

end Sys2Proof.Machine
end

section
/-! O53, O54 and O56: what a step does with its queue, how a command ends (R405), and the forms that every step keeps. -/

namespace Sys2Proof.Machine

/-- A command's outcome is a next state, or the one fault that the manual leaves (R405). -/
def Completes (o : Host.Outcome State Fault Refusal) : Prop := (∃ t, o = .next t) ∨ o = .fault .undefinedPinFunction

theorem completes_next (s : State) : Completes (.next s) := .inl ⟨s, rfl⟩

theorem completes_done (s : State) : Completes (done s) := (done_cases s).imp_left fun h => ⟨s, h⟩

/-- The commands whose effect may select an undefined pin function end by `done`; the others answer a next state. -/
theorem exec_completes (s : State) (i : Instr) : Completes (exec i s) :=
  match i with
  | .kAdd .. | .kAddc .. | .kSub .. | .kSubc .. | .kAnd .. | .kOr .. | .kXor .. | .kAndn .. | .kCmp .. | .kTst ..
  | .kMov .. | .kNot .. | .kNeg .. | .kMin .. | .kMax .. | .kShl .. | .kShr .. | .kSar .. | .kRor .. | .kShli ..
  | .kShri .. | .kSari .. | .kRori .. | .kMul .. | .kMulh .. | .kMulhu .. | .kDivu .. | .kDivs .. | .kRemu ..
  | .kRems .. | .kSextb .. | .kSexth .. | .kZextb .. | .kZexth .. | .kClz .. | .kBswap .. | .kMinu .. | .kMaxu ..
  | .kAddi .. | .kAndi .. | .kOri .. | .kXori .. | .kCmpi .. | .kMovi .. | .kMovhi .. | .kLea .. | .kMova ..
  | .kMovd .. | .kAdda .. | .kSuba .. | .kCmpa .. | .kMovaa .. | .kAddas .. | .kLeapc .. | .kLdW .. | .kLdH ..
  | .kLdHu .. | .kLdB .. | .kLdBu .. | .kStW .. | .kStH .. | .kStB .. | .kLda .. | .kSta .. | .kBcc .. | .kBal ..
  | .kCall .. | .kJmp .. | .kCallr .. | .kBalr .. | .kJlk | .kPush .. | .kPop .. | .kTbs .. | .kTbc .. | .kTbsc ..
  | .kTbcs .. | .kBset .. | .kBclr .. | .kBflip .. | .kBld .. | .kBst .. | .kBand .. | .kBor .. | .kBxor .. | .kCset
  | .kCclr | .kCflip | .kMac .. | .kMsu .. | .kMpy .. | .kRdac .. | .kWrac .. | .kClrac .. | .kAddac .. | .kNop
  | .kWait | .kWaitComplete | .kBrk | .kTrap .. | .kReti | .kRet | .kEi | .kDi | .kChkpt | .kMfc .. | .kMtc .. | .kIinv
  | .kIinvl .. | .interruptEntry | .dbgAccess .. | .busWrite .. | .dbgResume .. | .dbgStep | .registerWrite .. =>
    completes_done _
  | .coldReset .. | .warmReset .. | .coreSupervisorReset .. | .clkLoss | .resetRelease | .swrst .. | .pxdiv ..
  | .clkGate .. | .psreqRun | .psreqDim | .psreqNap | .psreqSleep | .dimDrainEnd | .dimDrainTimeout | .dimExitDone
  | .sleepEntryDone | .pwrEnRise | .droopStart | .droopEnd | .telemetrySample .. | .sensorCal .. | .fpkey ..
  | .fuseBurnDone | .blockLock .. | .vatMountDone .. | .commandPacket .. | .cmdTail .. | .rplHead .. | .ringEnable ..
  | .ringDisable .. | .replyDeliver .. | .idleHint .. | .moderationExpiry .. | .sentinelModerationEnd | .doorReset ..
  | .doorResetDone .. | .pcieLinkUp .. | .pcieLinkDown .. | .pciePerst .. | .writeCmd .. | .writeCmdQ ..
  | .readStatus .. | .readReply .. | .readReplyQ .. | .readData .. | .readDataQ .. | .readNotice ..
  | .writeNoticeMask .. | .spiEvcClaim .. | .spiEvcComplete .. | .spiIdleHint | .resetEnable | .spiDoorReset
  | .doorNop .. | .identify .. | .getStatus .. | .doorClaim .. | .doorRelease .. | .idleSetup .. | .stockSet ..
  | .stockGet .. | .stockCheck .. | .stockCheckEnd .. | .stockApply .. | .stockDiscard .. | .shadowLoaded
  | .applyReleaseTime | .epochBoundary | .portLanesSet .. | .signalChange .. | .lockLoss .. | .remoteFaultRx ..
  | .portUp .. | .frameAdmit .. | .macFrameEnd .. | .wireCheck .. | .couchDeal .. | .pressDone .. | .dryerRelease ..
  | .egressSelect .. | .reelStart .. | .frameTxEnd .. | .feltScrub .. | .laneServiceRemove .. | .laneServiceRestore ..
  | .laneDrained .. | .laneKatDone .. | .calenderSlot .. | .cellReceive .. | .syncTimeout .. | .holdExpire ..
  | .calRelease .. | .saLoad .. | .saRetireNext .. | .saRetireAll .. | .saQuery .. | .zeroiseChannel ..
  | .zeroiseOwned .. | .zeroiseKe .. | .zeroiseDevice .. | .keyDrainEmpty .. | .rxGraceEnd .. | .keOpen ..
  | .keStatus .. | .ecKeygen .. | .ecDh .. | .kemKeygen .. | .kemEncaps .. | .kemDecaps .. | .transcript ..
  | .derive .. | .sign .. | .sha384 .. | .ecdsaVerify .. | .mldsaVerify .. | .vaultKeygen .. | .vaultWrap ..
  | .msgSend .. | .msgRecv .. | .keClose .. | .keyeOpDone .. | .keTimeout .. | .faultDetected .. | .stageWatchdog ..
  | .recoveryEnd | .storeRead .. | .storeWrite .. | .storeErase .. | .logAppend .. | .logRead .. | .logTrim ..
  | .reamInfo .. | .storeFormat .. | .vatOpDone .. | .retentionPatrol .. | .backgroundRelocate .. | .staticLevelling
  | .vatIfReq .. | .portStats .. | .chanStats .. | .counterClear .. | .telSubscribe .. | .telemetryPeriod ..
  | .moduleXfer .. | .i2cTransactionDone .. | .i2cBusTimeout .. | .panelPost .. | .audioStream .. | .grantSet ..
  | .ownerSet .. | .moduleAssign .. | .gapCheckpoint | .modeReq .. | .pairKick .. | .wdogWarn | .sntWatchdog
  | .sentinelScrub .. | .bistDone .. | .restartZeroDone .. | .extest .. | .samplePreload .. | .idcode .. | .highz ..
  | .clamp .. | .bypass .. | .tapReset | .busRead .. | .regRead .. | .regWrite .. | .dbgHalt | .setMode .. | .dbgResync
  | .dbgBreakpoint .. | .evcClaim .. | .evcComplete .. | .swset .. | .swclr .. | .xtalStart | .xtalFail
  | .loftWriteApply | .rtcSecond | .rtcSet .. | .rtcSubRead | .tamperEdge .. | .pwrbtnEdge | .tamperSample ..
  | .pwrbtnPress .. | .pwrbtnLong | .forcedOff | .timerEn .. | .timerGo .. | .timerStop .. | .timerCount ..
  | .timerCountRead .. | .rasterStart | .lineStart .. | .activeEnd | .lsEntryWrite | .sealKick .. | .dandyDone
  | .bltGo .. | .bltJobStart | .bltJobDone .. | .sampleBoundary | .voiceKey .. | .prst .. | .spRun .. | .eqCommit ..
  | .eqClr .. | .fanTableEval | .tachEdge .. | .fanFault .. | .manual .. | .fanKick .. | .fanTakeover | .hallChange ..
  | .fan3Trip | .f3TripRelease | .f3Clr | .f3Arm | .f3Disarm | .inputResolved .. | .gpioEdge .. | .outset ..
  | .outclr .. | .lockSequence .. | .counterLatchRead .. | .rcRead .. | .keyAging .. | .pwmPeriodStart | .loftReset
  | .vddAonRemoval =>
    completes_next _

/-- What no command may spoil includes every form of a well-formed state. -/
theorem Keeps.wf {q : List Instr} {fz : FuseBits} {s : State} (h : Keeps q fz s) : s.wf = true := by
  have hchk : (match s.pair.chk with | some c => c.wf | none => true) = true := by
    cases hc : s.pair.chk with
    | none => rfl
    | some c => exact h.chk c hc
  simp only [State.wf, Bool.and_eq_true, decide_eq_true_eq]
  exact ⟨⟨⟨⟨⟨h.mem, h.core⟩, h.commit⟩, hchk⟩, h.bsr⟩, h.doors⟩

/-- Settles O53: both clauses are the two cases of `step`. -/
theorem stepRunsFrontCommand : Obligations.StepRunsFrontCommand :=
  ⟨fun _ _ => rfl, fun s h => by unfold step; rw [h]⟩

/-- Settles O54: how each command ends, and `keeps_of_step` for the rest of the queue. -/
theorem commandsComplete : Obligations.CommandsComplete :=
  ⟨fun i s => exec_completes s i, fun _ _ hs ht => (keeps_of_step hs ht).pending⟩

/-- Settles O56: the forms are part of what no command may spoil, which every step keeps. -/
theorem stepKeepsForm : Obligations.StepKeepsForm := fun _ _ hs ht => (keeps_of_step hs ht).wf

end Sys2Proof.Machine
end

section
/-! O58: the formats of Karpol words (R269, Tables 13-7 to 13-12). A format's encoding is a word exactly where the word's fields are
the encoding's parts; with that, each instruction's word decodes to it, and each group's decoder names what encodes to the word. -/

namespace Sys2Proof.Machine

/-! Fields. -/

theorem wfld_eq (w : Word) (lo len : Nat) : wfld w lo len = w.toNat / 2 ^ lo % 2 ^ len := rfl

@[simp] theorem fD_val (w : Word) (lo : Nat) : (fD w lo).val = wfld w lo 4 := Nat.mod_mod _ _
@[simp] theorem fA_val (w : Word) (lo : Nat) : (fA w lo).val = wfld w lo 3 := Nat.mod_mod _ _
@[simp] theorem f5_val (w : Word) (lo : Nat) : (f5 w lo).val = wfld w lo 5 := Nat.mod_mod _ _
@[simp] theorem f2_val (w : Word) (lo : Nat) : (f2 w lo).val = wfld w lo 2 := Nat.mod_mod _ _

theorem fD_eq_iff {w : Word} {lo : Nat} {d : Fin 16} : fD w lo = d ↔ wfld w lo 4 = d.val := by rw [Fin.ext_iff, fD_val]
theorem fA_eq_iff {w : Word} {lo : Nat} {d : Fin 8} : fA w lo = d ↔ wfld w lo 3 = d.val := by rw [Fin.ext_iff, fA_val]
theorem f5_eq_iff {w : Word} {lo : Nat} {d : Fin 32} : f5 w lo = d ↔ wfld w lo 5 = d.val := by rw [Fin.ext_iff, f5_val]
theorem f2_eq_iff {w : Word} {lo : Nat} {d : Fin 4} : f2 w lo = d ↔ wfld w lo 2 = d.val := by rw [Fin.ext_iff, f2_val]

theorem toNat_ofNat_wfld (n : Nat) (w : Word) : (BitVec.ofNat n w.toNat).toNat = wfld w 0 n := by
  rw [BitVec.toNat_ofNat, wfld_eq, Nat.pow_zero, Nat.div_one]

@[simp] theorem fImm_toNat (w : Word) : (fImm w).toNat = wfld w 0 16 := toNat_ofNat_wfld 16 w
@[simp] theorem fBit_toNat (w : Word) : (fBit w).toNat = wfld w 0 12 := toNat_ofNat_wfld 12 w

theorem ofNat_eq_iff {n : Nat} {w : Word} {b : BitVec n} : BitVec.ofNat n w.toNat = b ↔ wfld w 0 n = b.toNat := by
  rw [← BitVec.toNat_inj, toNat_ofNat_wfld]
theorem setWidth_eq_iff {n : Nat} {w : Word} {b : BitVec n} : w.setWidth n = b ↔ wfld w 0 n = b.toNat := by
  rw [← BitVec.ofNat_toNat, ofNat_eq_iff]
theorem fImm_eq_iff {w : Word} {b : BitVec 16} : fImm w = b ↔ wfld w 0 16 = b.toNat := ofNat_eq_iff
theorem fBit_eq_iff {w : Word} {b : BitVec 12} : fBit w = b ↔ wfld w 0 12 = b.toNat := ofNat_eq_iff

theorem wbit_eq_iff {w : Word} {i : Nat} {b : Bool} : wbit w i = b ↔ wfld w i 1 = b2n b := by
  rw [← bitAt_toNat, bitAt, wfld_eq, Nat.pow_one]
  cases b <;> simp [b2n]

@[simp] theorem zeroed_eq_some {z : Bool} {i j : Instr} : zeroed z i = some j ↔ z = true ∧ i = j := by
  cases z <;> simp [zeroed]

@[simp] theorem fZero_iff {w : Word} {lo len : Nat} : fZero w lo len = true ↔ wfld w lo len = 0 := beq_iff_eq

/-! Formats. -/

theorem encMajor_eq_some {m rest : Nat} {w : Word} (hm : m < 64) (hr : rest < 2 ^ 26) :
    encMajor m rest = some w ↔ wfld w 26 6 = m ∧ wfld w 0 26 = rest := by
  have hw := w.isLt
  rw [encMajor, Option.some_inj, ← BitVec.toNat_inj, w32, BitVec.toNat_ofNat, wfld_eq, wfld_eq]
  omega

/-- A major opcode, four bits and a rest of 22. -/
theorem encMajor_sub_eq_some {m sub low : Nat} {w : Word} (hm : m < 64) (hs : sub < 16) (hl : low < 2 ^ 22) :
    encMajor m (sub * 2 ^ 22 + low) = some w ↔ wfld w 26 6 = m ∧ wfld w 22 4 = sub ∧ wfld w 0 22 = low := by
  rw [encMajor_eq_some hm (by omega)]
  simp only [wfld_eq]
  omega

theorem encMajor_bare_eq_some {m sub : Nat} {w : Word} (hm : m < 64) (hs : sub < 16) :
    encMajor m (sub * 2 ^ 22) = some w ↔ wfld w 26 6 = m ∧ wfld w 22 4 = sub ∧ wfld w 0 22 = 0 := by
  rw [← Nat.add_zero (sub * 2 ^ 22), encMajor_sub_eq_some hm hs (by decide)]

theorem encAlu_eq_some {f sh : Nat} {dd a b : Fin 16} {w : Word} (hf : f < 64) (hs : sh < 32) :
    encAlu f dd a b sh = some w ↔ wfld w 26 6 = 0 ∧ wfld w 22 4 = dd.val ∧ wfld w 18 4 = a.val ∧ wfld w 14 4 = b.val ∧
      wfld w 9 5 = sh ∧ wfld w 6 3 = 0 ∧ wfld w 0 6 = f := by
  rw [encAlu, encMajor_eq_some (by decide) (by omega)]
  simp only [wfld_eq]
  omega

theorem encImm_eq_some {m : Nat} {dd a : Fin 16} {imm : BitVec 16} {w : Word} (hm : m < 64) :
    encImm m dd a imm = some w ↔ wfld w 26 6 = m ∧ wfld w 22 4 = dd.val ∧ wfld w 18 4 = a.val ∧ wfld w 16 2 = 0 ∧
      wfld w 0 16 = imm.toNat := by
  have hi := imm.isLt
  rw [encImm, encMajor_eq_some hm (by omega)]
  simp only [wfld_eq]
  omega

theorem encAddr_eq_some {sub : Nat} {an am : Fin 8} {dm : Fin 16} {w : Word} (hs : sub < 16) :
    encAddr sub an am dm = some w ↔ wfld w 26 6 = 0x09 ∧ wfld w 25 1 = 0 ∧ wfld w 22 3 = an.val ∧ wfld w 19 3 = am.val ∧
      wfld w 15 4 = dm.val ∧ wfld w 4 11 = 0 ∧ wfld w 0 4 = sub := by
  rw [encAddr, encMajor_eq_some (by decide) (by omega)]
  simp only [wfld_eq]
  omega

/-- LEA and LEAPC. -/
theorem encLea_eq_some {m : Nat} {an am : Fin 8} {imm : BitVec 16} {w : Word} (hm : m < 64) :
    encMajor m (an.val * 2 ^ 22 + am.val * 2 ^ 19 + imm.toNat) = some w ↔ wfld w 26 6 = m ∧ wfld w 25 1 = 0 ∧
      wfld w 22 3 = an.val ∧ wfld w 19 3 = am.val ∧ wfld w 16 3 = 0 ∧ wfld w 0 16 = imm.toNat := by
  have hi := imm.isLt
  rw [encMajor_eq_some hm (by omega)]
  simp only [wfld_eq]
  omega

theorem encTest_eq_some {m : Nat} {d : BitVec 14} {b : BitVec 12} {w : Word} (hm : m < 64) :
    encTest m d b = some w ↔ wfld w 26 6 = m ∧ BitVec.ofNat 14 (wfld w 12 14) = d ∧ fBit w = b := by
  have hd := d.isLt
  have hb := b.isLt
  rw [encTest, encMajor_eq_some hm (by omega), fBit_eq_iff, ← BitVec.toNat_inj, BitVec.toNat_ofNat]
  simp only [wfld_eq]
  omega

theorem encMac_eq_some {sub low : Nat} {ac : Fin 4} {a b : Fin 16} {w : Word} (hs : sub < 16) (hl : low < 2 ^ 12) :
    encMac sub ac a b low = some w ↔ wfld w 26 6 = 0x28 ∧ wfld w 22 4 = sub ∧ wfld w 20 2 = ac.val ∧ wfld w 16 4 = a.val ∧
      wfld w 12 4 = b.val ∧ wfld w 0 12 = low := by
  rw [encMac, encMajor_eq_some (by decide) (by omega)]
  simp only [wfld_eq]
  omega

/-- Fields H1 and H2 of the low twelve bits. -/
theorem encHalves_lt (h1 h2 : Bool) : encHalves h1 h2 < 2 ^ 12 := by cases h1 <;> cases h2 <;> decide

theorem low12_encHalves {w : Word} {h1 h2 : Bool} :
    wfld w 0 12 = encHalves h1 h2 ↔ fZero w 0 10 = true ∧ wbit w 11 = h1 ∧ wbit w 10 = h2 := by
  have b1 : b2n h1 < 2 := by cases h1 <;> decide
  have b2 : b2n h2 < 2 := by cases h2 <;> decide
  rw [fZero_iff, wbit_eq_iff, wbit_eq_iff, encHalves]
  simp only [wfld_eq]
  omega

/-- The bit reference of a bit instruction's word, and the bits that must be 0 beside it. -/
theorem encBit_eq_some {sub : Nat} {b : BitRef} {w : Word} (hs : sub < 16) :
    encBit sub b = some w ↔ wfld w 26 6 = 0x2A ∧ wfld w 22 4 = sub ∧
      (fZero w 12 5 && (wbit w 21 || fZero w 17 4)) = true ∧
      (if wbit w 21 then BitRef.indexed (fD w 17) (fBit w) else BitRef.direct (fBit w)) = b := by
  cases b with
  | direct n =>
    have hn := n.isLt
    rw [encBit, encMajor_sub_eq_some (by decide) hs (by omega)]
    cases h : wbit w 21 <;> rw [wbit_eq_iff] at h <;> simp [fBit_eq_iff, b2n, wfld_eq] at h ⊢ <;> omega
  | indexed dm n =>
    have hn := n.isLt
    rw [encBit, Nat.add_assoc, Nat.add_assoc, encMajor_sub_eq_some (by decide) hs (by omega)]
    cases h : wbit w 21 <;> rw [wbit_eq_iff] at h <;> simp [fBit_eq_iff, fD_eq_iff, b2n, wfld_eq] at h ⊢ <;> omega

theorem encMode_lt (m : AMode) : encMode m < 2 ^ 22 := by
  cases m <;> simp only [encMode] <;> omega

/-- An, MODE and the displacement. -/
theorem low22_eq_iff {an k low : Nat} {w : Word} (ha : an < 8) (hk : k < 8) (hl : low < 2 ^ 16) :
    wfld w 0 22 = an * 2 ^ 19 + k * 2 ^ 16 + low ↔ wfld w 19 3 = an ∧ wfld w 16 3 = k ∧ wfld w 0 16 = low := by
  simp only [wfld_eq]
  omega

/-- The fields of an addressing mode that its word carries: An, MODE and the low 16 bits. -/
def modeFields : AMode → Nat × Nat × Nat
  | .disp an d => (an.val, 0, d.toNat)
  | .postInc an => (an.val, 1, 0)
  | .preDec an => (an.val, 2, 0)
  | .index an dm sh => (an.val, 3, dm.val * 2 ^ 12 + sh.val * 2 ^ 10)
  | .postDisp an d => (an.val, 4, d.toNat)
  | .pcRel d => (0, 5, d.toNat)
  | .reserved => (0, 6, 0)

theorem modeFields_lt (m : AMode) : (modeFields m).1 < 8 ∧ (modeFields m).2.1 < 8 ∧ (modeFields m).2.2 < 2 ^ 16 := by
  cases m <;> simp only [modeFields] <;> omega

theorem encMode_eq_fields (m : AMode) :
    encMode m = (modeFields m).1 * 2 ^ 19 + (modeFields m).2.1 * 2 ^ 16 + (modeFields m).2.2 := by
  cases m <;> simp only [modeFields, encMode] <;> omega

theorem index_fields {w : Word} {dm : Fin 16} {sh : Fin 4} : wfld w 0 16 = dm.val * 2 ^ 12 + sh.val * 2 ^ 10 ↔
    wfld w 0 10 = 0 ∧ wfld w 12 4 = dm.val ∧ wfld w 10 2 = sh.val := by
  simp only [wfld_eq]
  omega

theorem modeFields_decodeMode {w : Word} (h : decodeMode w ≠ .reserved) :
    modeFields (decodeMode w) = (wfld w 19 3, wfld w 16 3, wfld w 0 16) := by
  unfold decodeMode at h ⊢
  split
  case h_1 hk | h_5 hk => simp [modeFields, hk]
  case h_2 hk | h_3 hk | h_6 hk =>
    simp only [hk, ne_eq, ite_eq_right_iff, Classical.not_imp, fZero_iff] at h
    simp [modeFields, hk, h]
  case h_4 hk =>
    simp only [hk, ne_eq, ite_eq_right_iff, Classical.not_imp, fZero_iff] at h
    simp [modeFields, hk, h, index_fields.2 ⟨h.1, (fD_val ..).symm, (f2_val ..).symm⟩]
  case h_7 => simp_all

theorem decodeMode_of_fields {w : Word} {m : AMode} (hm : m ≠ .reserved)
    (h : modeFields m = (wfld w 19 3, wfld w 16 3, wfld w 0 16)) : decodeMode w = m := by
  simp only [Prod.ext_iff] at h
  obtain ⟨han, hk, hlow⟩ := h
  cases m with
  | reserved => exact absurd rfl hm
  | index an dm sh =>
    obtain ⟨hz, hdm, hsh⟩ := index_fields.1 hlow.symm
    simp [decodeMode, ← hk, modeFields, fA_eq_iff, ← han, fD_eq_iff, f2_eq_iff, hz, hdm, hsh]
  | _ => simp [decodeMode, ← hk, modeFields, fA_eq_iff, fImm_eq_iff, ← han, ← hlow]

/-- Loads and stores: the word decodes to the mode that it was made from (Table 13-4). -/
theorem encMem_eq_some {m t : Nat} {ea : AMode} {w : Word} (hm : m < 64) (ht : t < 16) (hea : ea ≠ .reserved) :
    encMem m t ea = some w ↔ wfld w 26 6 = m ∧ wfld w 22 4 = t ∧ decodeMode w = ea := by
  obtain ⟨ha, hk, hl⟩ := modeFields_lt ea
  rw [encMem, encMode_eq_fields, encMajor_sub_eq_some hm ht (by omega), low22_eq_iff ha hk hl]
  refine and_congr_right' (and_congr_right' ⟨fun ⟨h1, h2, h3⟩ => ?_, fun h => ?_⟩)
  · exact decodeMode_of_fields hea (by rw [h1, h2, h3])
  · subst h
    rw [modeFields_decodeMode hea]
    exact ⟨rfl, rfl, rfl⟩

/-! What a word decodes to encodes to the word. -/

/-- `i` is well formed, and `w` is its word. -/
def Spells (w : Word) (i : Instr) : Prop := encodeWord i = some w ∧ wellFormed i = true

theorem spells_alu {w : Word} {i : Instr} (hm : wfld w 26 6 = 0) (h : decodeAlu w = some i) : Spells w i := by
  unfold decodeAlu at h
  extract_lets dd a b sh z r3 r2 cmp shi at h
  split at h
  all_goals
    simp [r3, r2, cmp, shi, z] at h
  all_goals
    obtain ⟨hz, rfl⟩ := h
    refine ⟨(encAlu_eq_some (by decide) (by omega)).2 ?_, rfl⟩
    simp [*, dd, a, b, sh]

theorem spells_imm {w : Word} {i : Instr} (h : decodeImm w = some i) : Spells w i := by
  unfold decodeImm at h
  extract_lets dd a z at h
  split at h
  all_goals
    simp [z] at h
  all_goals
    obtain ⟨hz, rfl⟩ := h
    refine ⟨(encImm_eq_some (by decide)).2 ?_, rfl⟩
    simp [*, dd, a]

theorem spells_addr {w : Word} {i : Instr} (hm : wfld w 26 6 = 0x09) (h : decodeAddr w = some i) : Spells w i := by
  unfold decodeAddr at h
  extract_lets an am dm z at h
  split at h
  all_goals
    simp [z] at h
  all_goals
    obtain ⟨hz, rfl⟩ := h
    refine ⟨(encAddr_eq_some (by decide)).2 ?_, rfl⟩
    simp [*, an, am, dm]

/-- The register field of LDA and STA has three bits, which bit 25 of the word extends by a 0. -/
theorem wfld_22_4_of_bit25 {w : Word} (h : wfld w 25 1 = 0) : wfld w 22 4 = wfld w 22 3 := by
  simp only [wfld_eq] at h ⊢
  omega

theorem spells_mem {w : Word} {i : Instr} (h : decodeMem w = some i) : Spells w i := by
  unfold decodeMem at h
  extract_lets ea dt ok at h
  split at h
  all_goals
    simp [ok] at h
  all_goals
    obtain ⟨hok, rfl⟩ := h
    refine ⟨(encMem_eq_some (by decide) (by omega) (by simp [hok])).2 ?_, by simp [wellFormed, AMode.wellFormed, hok]⟩
    simp [*, dt, ea, wfld_22_4_of_bit25]

theorem spells_jump {w : Word} {i : Instr} (hm : wfld w 26 6 = 0x23) (h : decodeJump w = some i) : Spells w i := by
  unfold decodeJump at h
  extract_lets an z at h
  split at h
  case h_5 => cases h
  case h_4 hs =>
    simp [z] at h
    obtain ⟨⟨hz, ha⟩, rfl⟩ := h
    refine ⟨(encMajor_bare_eq_some (by decide) (by decide)).2 ⟨hm, hs, ?_⟩, rfl⟩
    simp only [wfld_eq] at *
    omega
  all_goals
    next hs =>
    obtain ⟨hz, rfl⟩ := zeroed_eq_some.1 h
    refine ⟨(encMajor_sub_eq_some (by decide) (by decide) (by omega)).2 ⟨hm, hs, ?_⟩, rfl⟩
    simp [z, an, wfld_eq] at hz ⊢
    omega

theorem spells_bit {w : Word} {i : Instr} (hm : wfld w 26 6 = 0x2A) (h : decodeBit w = some i) : Spells w i := by
  unfold decodeBit at h
  extract_lets ind ref z none3 at h
  split at h
  case h_12 => cases h
  case h_9 hs | h_10 hs | h_11 hs =>
    obtain ⟨hz, rfl⟩ := zeroed_eq_some.1 h
    exact ⟨(encMajor_bare_eq_some (by decide) (by decide)).2 ⟨hm, hs, fZero_iff.1 hz⟩, rfl⟩
  all_goals
    next hs =>
    obtain ⟨hz, rfl⟩ := zeroed_eq_some.1 h
    exact ⟨(encBit_eq_some (by decide)).2 ⟨hm, hs, hz, rfl⟩, rfl⟩

theorem spells_mac {w : Word} {i : Instr} (hm : wfld w 26 6 = 0x28) (h : decodeMac w = some i) : Spells w i := by
  unfold decodeMac at h
  extract_lets ac a b sh mac at h
  split at h
  case h_8 => cases h
  case h_1 hs | h_2 hs | h_3 hs =>
    obtain ⟨hz, rfl⟩ := zeroed_eq_some.1 h
    refine ⟨(encMac_eq_some (by decide) (encHalves_lt _ _)).2 ⟨hm, hs, ?_, ?_, ?_, low12_encHalves.2 ⟨hz, rfl, rfl⟩⟩, rfl⟩
    all_goals simp [ac, a, b]
  case h_4 hs | h_5 hs | h_6 hs | h_7 hs =>
    obtain ⟨hz, rfl⟩ := zeroed_eq_some.1 h
    simp [sh, wfld_eq] at hz
    refine ⟨(encMac_eq_some (by decide) (by omega)).2 ⟨hm, hs, ?_, ?_, ?_, ?_⟩, by simp [wellFormed, sh, wfld_eq, hz]⟩
    all_goals
      simp [ac, a, sh, wfld_eq]
    all_goals omega

theorem spells_stack {w : Word} {i : Instr} (hm : wfld w 26 6 = 0x30) (h : decodeStack w = some i) : Spells w i := by
  unfold decodeStack at h
  extract_lets r z at h
  split at h
  case h_3 => cases h
  all_goals
    next hs =>
    obtain ⟨hz, rfl⟩ := zeroed_eq_some.1 h
    simp [z, r] at hz
    refine ⟨(encMajor_eq_some (by decide) (by omega)).2 ⟨hm, ?_⟩, by simp [wellFormed, r, hz]⟩
    simp [r, wfld_eq] at hs hz ⊢
    omega

theorem spells_sys {w : Word} {i : Instr} (hm : wfld w 26 6 = 0x3E) (h : decodeSys w = some i) : Spells w i := by
  unfold decodeSys at h
  extract_lets plain cr crOk at h
  split at h
  case h_14 => cases h
  case h_4 hs =>
    obtain ⟨hz, rfl⟩ := zeroed_eq_some.1 h
    refine ⟨(encMajor_sub_eq_some (by decide) (by decide) (by omega)).2 ⟨hm, hs, ?_⟩, rfl⟩
    simp [cr, wfld_eq] at hz ⊢
    omega
  case h_10 hs | h_11 hs =>
    obtain ⟨hz, rfl⟩ := zeroed_eq_some.1 h
    simp [crOk, cr, wfld_eq] at hz
    refine ⟨(encMajor_sub_eq_some (by decide) (by decide) (by omega)).2 ⟨hm, hs, ?_⟩, by simp [wellFormed, cr, hz]⟩
    simp [cr, wfld_eq]
    omega
  case h_13 hs =>
    obtain ⟨hz, rfl⟩ := zeroed_eq_some.1 h
    refine ⟨(encMajor_sub_eq_some (by decide) (by decide) (by omega)).2 ⟨hm, hs, ?_⟩, rfl⟩
    simp [wfld_eq] at hz ⊢
    omega
  all_goals
    next hs =>
    obtain ⟨hz, rfl⟩ := zeroed_eq_some.1 h
    exact ⟨(encMajor_sub_eq_some (by decide) (by decide) (by decide)).2 ⟨hm, hs, fZero_iff.1 hz⟩, rfl⟩

theorem spells_of_decodeWord {w : Word} {i : Instr} (h : decodeWord w = some i) : Spells w i := by
  unfold decodeWord at h
  split at h
  case h_1 hm => exact spells_alu hm h
  case h_2 hm =>
    obtain ⟨hz, rfl⟩ := zeroed_eq_some.1 h
    refine ⟨(encLea_eq_some (by decide)).2 ?_, rfl⟩
    simp [wfld_eq] at hm hz ⊢
    omega
  case h_3 hm => exact spells_addr hm h
  case h_4 hm =>
    obtain ⟨hz, rfl⟩ := zeroed_eq_some.1 h
    simp at hz
    refine ⟨(encMajor_eq_some (by decide) (by simp [wfld_eq]; omega)).2 ⟨hm, ?_⟩, rfl⟩
    simp [wfld_eq] at hz ⊢
    omega
  case h_5 hm =>
    obtain ⟨hz, rfl⟩ := zeroed_eq_some.1 h
    exact ⟨(encMajor_sub_eq_some (by decide) (by omega) (by omega)).2 ⟨hm, (fD_val ..).symm, (toNat_ofNat_wfld ..).symm⟩,
      by simpa [wellFormed] using hz⟩
  case h_6 hm | h_7 hm =>
    obtain rfl := Option.some.inj h
    exact ⟨(encMajor_eq_some (by decide) (by omega)).2 ⟨hm, (toNat_ofNat_wfld ..).symm⟩, rfl⟩
  case h_8 hm => exact spells_jump hm h
  case h_9 hm | h_10 hm | h_11 hm | h_12 hm =>
    obtain rfl := Option.some.inj h
    exact ⟨(encTest_eq_some (by decide)).2 ⟨hm, rfl, rfl⟩, rfl⟩
  case h_13 hm => exact spells_mac hm h
  case h_14 hm => exact spells_bit hm h
  case h_15 hm => exact spells_stack hm h
  case h_16 hm => exact spells_sys hm h
  case h_17 =>
    split at h
    · exact spells_imm h
    · split at h
      · exact spells_mem h
      · cases h

/-! A well-formed instruction's word decodes to it. -/

theorem decodeWord_alu {w : Word} (hm : wfld w 26 6 = 0) : decodeWord w = decodeAlu w := by
  unfold decodeWord
  rw [hm]
  rfl

theorem aMode_ne_reserved {m : AMode} (h : m.wellFormed = true) : m ≠ .reserved := by simpa [AMode.wellFormed] using h

theorem decodeWord_of_encodeWord {w : Word} {i : Instr} (hw : wellFormed i = true) (h : encodeWord i = some w) :
    decodeWord w = some (Spec.asWord i) := by
  cases i with
  | kAdd dd a b | kAddc dd a b | kSub dd a b | kSubc dd a b | kAnd dd a b | kOr dd a b | kXor dd a b | kAndn dd a b
  | kMin dd a b | kMax dd a b | kShl dd a b | kShr dd a b | kSar dd a b | kRor dd a b | kMul dd a b | kMulh dd a b
  | kMulhu dd a b | kDivu dd a b | kDivs dd a b | kRemu dd a b | kRems dd a b | kMinu dd a b | kMaxu dd a b
  | kCmp a b | kTst a b | kMov dd a | kNot dd a | kNeg dd a | kSextb dd a | kSexth dd a | kZextb dd a | kZexth dd a
  | kClz dd a | kBswap dd a =>
    obtain ⟨hm, hd, ha, hb, hs, hz, hf⟩ := (encAlu_eq_some (by decide) (by decide)).1 h
    simp [decodeWord_alu, decodeAlu, Spec.asWord, fD_eq_iff, *]
  | kShli dd a sh | kShri dd a sh | kSari dd a sh | kRori dd a sh =>
    obtain ⟨hm, hd, ha, hb, hs, hz, hf⟩ := (encAlu_eq_some (by decide) sh.isLt).1 h
    simp [decodeWord_alu, decodeAlu, Spec.asWord, fD_eq_iff, f5_eq_iff, *]
  | kAddi dd a imm | kAndi dd a imm | kOri dd a imm | kXori dd a imm | kCmpi a imm | kMovi dd imm | kMovhi dd imm =>
    obtain ⟨hm, hd, ha, hz, hi⟩ := (encImm_eq_some (by decide)).1 h
    simp [decodeWord, inRange, decodeImm, Spec.asWord, fD_eq_iff, fImm_eq_iff, *]
  | kLea an am imm =>
    obtain ⟨hm, h25, hd, ha, hz, hi⟩ := (encLea_eq_some (by decide)).1 h
    simp [decodeWord, Spec.asWord, fA_eq_iff, fImm_eq_iff, *]
  | kMova an dm | kMovd dm am | kAdda an am dm | kSuba an am dm | kCmpa an am | kMovaa an am | kAddas an am dm =>
    obtain ⟨hm, h25, hn, ha, hd, hz, hs⟩ := (encAddr_eq_some (by decide)).1 h
    simp [decodeWord, decodeAddr, Spec.asWord, fA_eq_iff, fD_eq_iff, *]
  | kLdW dt ea met | kLdH dt ea met | kLdHu dt ea met | kLdB dt ea met | kLdBu dt ea met | kStW dt ea | kStH dt ea
  | kStB dt ea =>
    have hr := aMode_ne_reserved hw
    obtain ⟨hm, ht, he⟩ := (encMem_eq_some (by decide) dt.isLt hr).1 h
    simp [decodeWord, inRange, decodeMem, Spec.asWord, fD_eq_iff, *]
  | kBset b | kBclr b | kBflip b | kBld b | kBst b | kBand b | kBor b | kBxor b =>
    obtain ⟨hm, hs, hz, hb⟩ := (encBit_eq_some (by decide)).1 h
    simp [decodeWord, decodeBit, Spec.asWord, *]
  | kTbs disp b | kTbc disp b | kTbsc disp b | kTbcs disp b =>
    obtain ⟨hm, hd, hb⟩ := (encTest_eq_some (by decide)).1 h
    simp [decodeWord, Spec.asWord, *]
  | kMac ac a b h1 h2 | kMsu ac a b h1 h2 | kMpy ac a b h1 h2 =>
    obtain ⟨hm, hs, hac, ha, hb, hl⟩ := (encMac_eq_some (by decide) (encHalves_lt _ _)).1 h
    obtain ⟨hz, hh1, hh2⟩ := low12_encHalves.1 hl
    simp [decodeWord, decodeMac, Spec.asWord, f2_eq_iff, fD_eq_iff, *]
  | kRdac dd ac sh | kWrac ac a sh =>
    have hsh := sh.isLt
    obtain ⟨hm, hs, hac, ha, hb, hl⟩ := (encMac_eq_some (by decide) (by omega)).1 h
    have hz : wfld w 10 6 = 0 ∧ wfld w 5 5 = sh.val ∧ wfld w 0 5 = 0 := by
      simp only [wfld_eq] at hb hl ⊢
      simp at hb
      omega
    simp_all [decodeWord, decodeMac, Spec.asWord, f2_eq_iff, fD_eq_iff, f5_eq_iff, wellFormed]
  | kClrac ac =>
    obtain ⟨hm, hs, hac, ha, hb, hl⟩ := (encMac_eq_some (by decide) (by decide)).1 h
    have hz : wfld w 0 20 = 0 := by
      simp [wfld_eq] at ha hb hl ⊢
      omega
    simp [decodeWord, decodeMac, Spec.asWord, f2_eq_iff, *]
  | kAddac ac acs =>
    obtain ⟨hm, hs, hac, ha, hb, hl⟩ := (encMac_eq_some (by decide) (by omega)).1 h
    have hz : wfld w 5 15 = 0 ∧ wfld w 3 2 = acs.val ∧ wfld w 0 3 = 0 := by
      simp [wfld_eq] at ha hb hl ⊢
      omega
    simp [decodeWord, decodeMac, Spec.asWord, f2_eq_iff, *]
  | kLda ar ea met | kSta ar ea =>
    have hr := aMode_ne_reserved hw
    obtain ⟨hm, ht, he⟩ := (encMem_eq_some (by decide) (by omega) hr).1 h
    have h25 : wfld w 25 1 = 0 ∧ wfld w 22 3 = ar.val := by
      simp only [wfld_eq] at ht ⊢
      omega
    simp [decodeWord, inRange, decodeMem, Spec.asWord, fA_eq_iff, *]
  | kLeapc an imm =>
    have hi := imm.isLt
    obtain ⟨hm, hl⟩ := (encMajor_eq_some (by decide) (by omega)).1 h
    have hz : wfld w 25 1 = 0 ∧ wfld w 16 6 = 0 ∧ wfld w 22 3 = an.val ∧ wfld w 0 16 = imm.toNat := by
      simp only [wfld_eq] at hl ⊢
      omega
    simp [decodeWord, Spec.asWord, fA_eq_iff, fImm_eq_iff, *]
  | kBcc cond disp =>
    have hc : cond.val ≠ 15 := by simpa [wellFormed] using hw
    obtain ⟨hm, hs, hl⟩ := (encMajor_sub_eq_some (by decide) cond.isLt disp.isLt).1 h
    simp [decodeWord, Spec.asWord, fD_eq_iff, setWidth_eq_iff, *]
  | kBal disp | kCall disp =>
    obtain ⟨hm, hl⟩ := (encMajor_eq_some (by decide) disp.isLt).1 h
    simp [decodeWord, Spec.asWord, setWidth_eq_iff, *]
  | kJmp an | kCallr an | kBalr an =>
    obtain ⟨hm, hs, hl⟩ := (encMajor_sub_eq_some (by decide) (by decide) (by omega)).1 h
    have hz : wfld w 0 19 = 0 ∧ wfld w 19 3 = an.val := by
      simp only [wfld_eq] at hl ⊢
      omega
    simp [decodeWord, decodeJump, Spec.asWord, fA_eq_iff, *]
  | kJlk =>
    obtain ⟨hm, hs, hl⟩ := (encMajor_bare_eq_some (by decide) (by decide)).1 h
    have hz : wfld w 0 19 = 0 ∧ wfld w 19 3 = 0 := by
      simp only [wfld_eq] at hl ⊢
      omega
    simp [decodeWord, decodeJump, Spec.asWord, *]
  | kPush r =>
    have hr : r.val ≤ 25 := by simpa [wellFormed] using hw
    obtain ⟨hm, hl⟩ := (encMajor_eq_some (by decide) (by omega)).1 h
    have hz : wfld w 0 17 = 0 ∧ wfld w 17 5 = r.val ∧ wfld w 22 4 = 0 := by
      simp only [wfld_eq] at hl ⊢
      omega
    simp [decodeWord, decodeStack, Spec.asWord, f5_eq_iff, *]
  | kPop r =>
    have hr : r.val ≤ 25 := by simpa [wellFormed] using hw
    obtain ⟨hm, hl⟩ := (encMajor_eq_some (by decide) (by omega)).1 h
    have hz : wfld w 0 17 = 0 ∧ wfld w 17 5 = r.val ∧ wfld w 22 4 = 1 := by
      simp only [wfld_eq] at hl ⊢
      omega
    simp [decodeWord, decodeStack, Spec.asWord, f5_eq_iff, *]
  | kCset | kCclr | kCflip =>
    obtain ⟨hm, hs, hl⟩ := (encMajor_bare_eq_some (by decide) (by decide)).1 h
    simp [decodeWord, decodeBit, Spec.asWord, *]
  | kNop | kWait | kBrk | kReti | kRet | kEi | kDi | kChkpt | kIinv =>
    obtain ⟨hm, hs, hl⟩ := (encMajor_sub_eq_some (by decide) (by decide) (by decide)).1 h
    simp [decodeWord, decodeSys, Spec.asWord, *]
  | kTrap imm =>
    have hi := imm.isLt
    obtain ⟨hm, hs, hl⟩ := (encMajor_sub_eq_some (by decide) (by decide) (by omega)).1 h
    have hz : wfld w 8 14 = 0 ∧ wfld w 0 8 = imm.toNat := by
      simp only [wfld_eq] at hl ⊢
      omega
    simp [decodeWord, decodeSys, Spec.asWord, setWidth_eq_iff, *]
  | kMfc r cr | kMtc cr r =>
    have hc : cr.toNat ≤ 7 := by simpa [wellFormed] using hw
    obtain ⟨hm, hs, hl⟩ := (encMajor_sub_eq_some (by decide) (by decide) (by omega)).1 h
    have hz : wfld w 20 2 = 0 ∧ wfld w 16 4 = r.val ∧ wfld w 8 8 = 0 ∧ wfld w 0 8 = cr.toNat ∧ w.toNat % 256 = cr.toNat := by
      simp only [wfld_eq] at hl ⊢
      omega
    simp [decodeWord, decodeSys, Spec.asWord, setWidth_eq_iff, fD_eq_iff, *]
  | kIinvl an =>
    obtain ⟨hm, hs, hl⟩ := (encMajor_sub_eq_some (by decide) (by decide) (by omega)).1 h
    have hz : wfld w 0 19 = 0 ∧ wfld w 19 3 = an.val := by
      simp only [wfld_eq] at hl ⊢
      omega
    simp [decodeWord, decodeSys, Spec.asWord, fA_eq_iff, *]
  | _ => cases h

/-- Settles O58: the formats for well-formed instructions, and for a word that decodes, what each group's decoder names. -/
theorem karpolWords : Obligations.KarpolWords :=
  ⟨fun _ _ hw h => decodeWord_of_encodeWord hw h, fun _ _ h => spells_of_decodeWord h⟩

end Sys2Proof.Machine
end

section
/-! One instruction of the main copy: what its fetch leaves, and how an effect that comes to a state retires, in Tight mode and Solo
(R289) and in Loose mode (R288–R290). -/

namespace Sys2Proof.Machine

/-! States that an instruction's run cannot tell apart. -/

/-- `x` differs from `y` in nothing that decides how an instruction goes on or ends. -/
structure Alike (x y : State) : Prop where
  core : x.core = y.core
  clk : x.clk = y.clk
  undef : x.undef = y.undef
  mode : x.pair.mode = y.pair.mode
  asChk : x.pair.asChk = y.pair.asChk

theorem Alike.refl (x : State) : Alike x x := ⟨rfl, rfl, rfl, rfl, rfl⟩

theorem Alike.trans {x y z : State} (h : Alike x y) (g : Alike y z) : Alike x z :=
  ⟨h.core.trans g.core, h.clk.trans g.clk, h.undef.trans g.undef, h.mode.trans g.mode, h.asChk.trans g.asChk⟩

theorem icacheFill_alike (a : Nat) (x : State) : Alike (icacheFill a x) x := by
  rw [icacheFill_frame]; exact ⟨rfl, rfl, rfl, rfl, rfl⟩

theorem foldOut_alike (o : List Nat) (x : State) : Alike (foldOut o x) x := by
  rw [foldOut_frame]; exact ⟨rfl, rfl, rfl, rfl, rfl⟩

theorem outReg_alike (n : Nat) (v : Word) (x : State) : Alike (outReg n v x) x := foldOut_alike _ x

theorem dcacheLoad_alike (a : Nat) (x : State) : Alike (dcacheLoad a x) x := by
  rw [dcacheLoad_frame]; exact ⟨rfl, rfl, rfl, rfl, rfl⟩

theorem loadEffect_alike (a : Nat) (x : State) : Alike (loadEffect a x) x := by
  obtain ⟨_, _, _, _, _, _, _, _, h⟩ := loadEffect_frame a x
  rw [h]; exact ⟨rfl, rfl, rfl, rfl, rfl⟩

theorem loadMet_alike (met : LoadMet) (a : Nat) (x : State) : Alike (loadMet met a x) x := by
  rw [loadMet_frame]; exact ⟨rfl, rfl, rfl, rfl, rfl⟩

theorem agentWrite_alike (a : Nat) (bs : Bytes) (x : State) : Alike (agentWrite a bs x) x := by
  rw [agentWrite_frame]; exact ⟨rfl, rfl, rfl, rfl, rfl⟩

theorem bufferStore_alike (a : Nat) (x : State) : Alike (bufferStore a x) x := by
  rw [bufferStore_frame]; exact ⟨rfl, rfl, rfl, rfl, rfl⟩

theorem stored_alike (a n v : Nat) (x : State) : Alike (Spec.stored a n v x) x :=
  (bufferStore_alike a _).trans (agentWrite_alike a _ x)

/-! The core's registers are written last: nothing else of an effect reads them. -/

theorem modCore_modCore (f g : Core → Core) (x : State) : modCore f (modCore g x) = modCore (fun c => f (g c)) x := rfl

theorem modCore_eq_of_core {f g : Core → Core} {x : State} (h : f x.core = g x.core) : modCore f x = modCore g x :=
  congrArg (fun c => { x with core := c }) h

theorem foldOut_modCore (o : List Nat) (f : Core → Core) (x : State) : foldOut o (modCore f x) = modCore f (foldOut o x) := by
  unfold foldOut
  rw [modCore_pair]
  split <;> rfl

theorem outReg_modCore (n : Nat) (v : Word) (f : Core → Core) (x : State) :
    outReg n v (modCore f x) = modCore f (outReg n v x) := foldOut_modCore _ f x

theorem setD_eq (i : Fin 16) (v : Word) (x : State) :
    setD i v x = modCore (fun c => { c with d := tset 0#32 c.d i.val v }) (outReg i.val v x) := outReg_modCore ..
theorem setA_eq (i : Fin 8) (v : Word) (x : State) :
    setA i v x = modCore (fun c => { c with a := tset 0#32 c.a i.val v }) (outReg (16 + i.val) v x) := outReg_modCore ..
theorem setAcc_eq (i : Fin 4) (v : Int) (x : State) :
    setAcc i v x = modCore (fun c => { c with ac := tset 0 c.ac i.val v }) (outAcc i.val v x) := foldOut_modCore ..
theorem setLk_eq (v : Word) (x : State) : setLk v x = modCore (fun c => { c with lk := v }) (outReg 24 v x) :=
  outReg_modCore ..
theorem setStat_eq (v : Word) (x : State) : setStat v x = modCore (fun c => { c with stat := v }) (outReg 25 v x) :=
  outReg_modCore ..
theorem loadStat_eq (v : Word) (x : State) : loadStat v x =
    modCore (fun c => { c with stat := statMask v, shadow := true }) (outReg 25 (statMask v) x) := outReg_modCore ..
theorem kNext_eq (x : State) : kNext x = modCore (fun c => { c with pc := c.pc + 4#32 }) x := rfl

/-! The fetch. -/

section
variable {s : State}

theorem fetched_alike (s : State) : Alike (Spec.fetched s) (modCore (fun c => { c with shadow := false }) s) :=
  (icacheFill_alike _ _).trans ⟨rfl, rfl, rfl, rfl, rfl⟩

theorem looseFetched_alike (s : State) : Alike (Spec.looseFetched s) (modCore (fun c => { c with shadow := false }) s) :=
  (icacheFill_alike _ _).trans ((foldOut_alike _ _).trans ⟨rfl, rfl, rfl, rfl, rfl⟩)

theorem core_of_kReady (h : kReady s = true) : s.core.waiting = false ∧ s.core.lockup = false := by
  simp [kReady, coreIssues] at h
  exact ⟨h.1.1.1.2, h.1.1.2⟩

/-! Tight mode and Solo. -/

theorem mode_ne_of_tight (h : s.pair.mode = 0 ∨ s.pair.mode = 2) : s.pair.mode ≠ 1 ∧ s.pair.mode ≠ 3 := by omega

theorem chkRun_tight (h : s.pair.mode = 0 ∨ s.pair.mode = 2) : chkRun s = s := by
  obtain ⟨h1, h3⟩ := mode_ne_of_tight h
  rw [chkRun, if_neg h3, if_neg h1]

theorem waitRoom_tight (h : s.pair.mode = 0 ∨ s.pair.mode = 2) : waitRoom s = s := by
  rw [waitRoom, if_neg (mode_ne_of_tight h).1]

/-- In Tight mode and Solo the boundary behind a retired instruction moves the commit set and does no more. -/
theorem boundary_tight {x : State} (hh : x.clk.held = false) (hw : x.core.waiting = false) (hl : x.core.lockup = false)
    (hm : x.pair.mode = 0 ∨ x.pair.mode = 2) : boundary (x, .retired) = Spec.retired x x.core := by
  obtain ⟨h1, h3⟩ := mode_ne_of_tight hm
  have hr : kRetire (x, .retired) = Spec.retired x x.core := by
    rw [kRetire_ok hh hw hl h3, if_neg h1]; rfl
  have hheld : ¬(Spec.retired x x.core).clk.held = true := by simp [Spec.retired, hh]
  rw [boundary, hr, if_neg hheld]
  exact chkRun_tight hm

/-- The instruction at the PC is issued. -/
theorem kRun_tight (e : State → KRes) (h : Spec.Runs s) :
    kRun e s = boundary (kIssue e (modPair (fun p => { p with skip := false }) s)) := by
  rw [kRun, if_neg (by rw [h.ready]; decide), if_neg (by rw [h.bp]; decide), waitRoom_tight (by exact h.mode)]

theorem fetch_tight (h : Spec.Runs s) : icacheFill s.core.pc.toNat (outFetch s.core.pc
    (modCore (fun c => { c with shadow := false }) (modPair (fun p => { p with skip := false }) s))) = Spec.fetched s :=
  congrArg (icacheFill s.core.pc.toNat) (foldOut_of_mode (mode_ne_of_tight h.mode).1)

theorem kIssue_tight_ok {e : State → KRes} {x : State} (h : Spec.Runs s) (he : e (Spec.fetched s) = .ok x) :
    kIssue e (modPair (fun p => { p with skip := false }) s) = (x, .retired) :=
  kIssue_ok h.fetch ((congrArg e (fetch_tight h)).trans he)

/-- An effect that comes to a state like the fetched one, with another core, retires with that core. -/
theorem run_tight {e : State → KRes} {x : State} {c : Core} (h : Spec.Runs s)
    (he : e (Spec.fetched s) = .ok (modCore (fun _ => c) x)) (hx : Alike x (Spec.fetched s)) (hw : c.waiting = false)
    (hl : c.lockup = false) : done (live s (kRun e)) = .next (Spec.retired x c) := by
  have hf := hx.trans (fetched_alike s)
  have hb : boundary (modCore (fun _ => c) x, .retired) = Spec.retired x c :=
    boundary_tight (x := modCore (fun _ => c) x) (congrArg Clk.held hf.clk ▸ h.held) hw hl (hf.mode ▸ h.mode)
  rw [live_run _ h.held, kRun_tight e h, kIssue_tight_ok h he, hb]
  exact done_next (hf.undef.trans h.undef)

/-! Loose mode. -/

/-- The queue has room, so that the main copy does not wait, and its instruction is issued. -/
theorem kRun_loose (e : State → KRes) (h : Spec.RunsLoose s) :
    kRun e s = boundary (kIssue e (modPair (fun p => { p with skip := false }) s)) := by
  have hroom : waitRoom (modPair (fun p => { p with skip := false }) s) = modPair (fun p => { p with skip := false }) s := by
    rw [waitRoom, if_pos (by exact h.mode), chkRoom, if_pos (by exact h.room)]
  rw [kRun, if_neg (by rw [h.ready]; decide), if_neg (by rw [h.bp]; decide), hroom]

theorem boundary_loose {x : State} (hh : x.clk.held = false) (hw : x.core.waiting = false) (hl : x.core.lockup = false)
    (hm : x.pair.mode = 1) : boundary (x, .retired) = Spec.looseRetired x x.core := by
  have hr : kRetire (x, .retired) = { x with pair := { x.pair with
      since := x.pair.since + 1, issued := x.pair.issued + 1, lag := x.pair.lag + 1 } } := by
    rw [kRetire_ok hh hw hl (by omega), if_pos hm]
  rw [boundary, hr, if_neg (by simp [hh])]
  rfl

/-- As `run_tight`, in Loose mode, where the checker follows at the boundary. -/
theorem run_loose {e : State → KRes} {x : State} {c : Core} (h : Spec.RunsLoose s)
    (he : e (Spec.looseFetched s) = .ok (modCore (fun _ => c) x)) (hx : Alike x (Spec.looseFetched s))
    (hw : c.waiting = false) (hl : c.lockup = false) : done (live s (kRun e)) = done (Spec.looseRetired x c) := by
  have hf := hx.trans (looseFetched_alike s)
  have hb : boundary (modCore (fun _ => c) x, .retired) = Spec.looseRetired x c :=
    boundary_loose (x := modCore (fun _ => c) x) (congrArg Clk.held hf.clk ▸ h.held) hw hl (hf.mode.trans h.mode)
  have hi : kIssue e (modPair (fun p => { p with skip := false }) s) = (modCore (fun _ => c) x, .retired) :=
    kIssue_ok h.fetch he
  rw [live_run _ h.held, kRun_loose e h, hi, hb]

end

end Sys2Proof.Machine
end

section
/-! O1–O4 and O8: what instructions that reach no further than the core do to the state in which their effect begins, and that they
retire with it. -/

namespace Sys2Proof.Machine

section
variable {s x : State}

/-! Operands. -/

theorem dreg_of_core (hx : x.core = { s.core with shadow := false }) (i : Fin 16) : dreg x i = dreg s i := by
  unfold dreg; rw [hx]

theorem areg_of_core (hx : x.core = { s.core with shadow := false }) (i : Fin 8) : areg x i = areg s i := by
  unfold areg; rw [hx]

theorem acc_of_core (hx : x.core = { s.core with shadow := false }) (i : Fin 4) : acc x i = acc s i := by
  unfold acc; rw [hx]

theorem stat_of_core (hx : x.core = { s.core with shadow := false }) : x.core.stat = s.core.stat := by rw [hx]

/-- A chain of register writes leaves one core. -/
theorem modCore_const {f : Core → Core} {c : Core} (h : f x.core = c) : modCore f x = modCore (fun _ => c) x :=
  modCore_eq_of_core h

/-! ALU instructions. -/

theorem kAlu_effect (hx : x.core = { s.core with shadow := false }) {dd : Fin 16} {f : Word → Word × Word} {r : Word × Word}
    (hr : f s.core.stat = r) : kAlu dd f x =
      .ok (modCore (fun _ => { Spec.nextD s dd r.1 with stat := r.2 }) (outReg 25 r.2 (outReg dd.val r.1 x))) := by
  have hc : (outReg 25 r.2 (outReg dd.val r.1 x)).core = { s.core with shadow := false } :=
    ((outReg_alike ..).trans (outReg_alike ..)).core.trans hx
  rw [kAlu, stat_of_core hx, hr, setD_eq, setStat_eq, outReg_modCore, kNext_eq, modCore_modCore, modCore_modCore]
  exact congrArg KRes.ok (modCore_const (by rw [hc]; rfl))

theorem kFlags_effect (hx : x.core = { s.core with shadow := false }) {f : Word → Word × Word} {st : Word}
    (hr : (f s.core.stat).2 = st) :
    kFlags f x = .ok (modCore (fun _ => { Spec.next s with stat := st }) (outReg 25 st x)) := by
  have hc : (outReg 25 st x).core = { s.core with shadow := false } := (outReg_alike ..).core.trans hx
  rw [kFlags, stat_of_core hx, hr, setStat_eq, kNext_eq, modCore_modCore]
  exact congrArg KRes.ok (modCore_const (by rw [hc]; rfl))

theorem wsetBit_comm {w : Word} {i j : Nat} {a b : Bool} (hi : i < 32) (hj : j < 32) (hij : i ≠ j) :
    wsetBit (wsetBit w i a) j b = wsetBit (wsetBit w j b) i a := by
  apply BitVec.eq_of_getLsbD_eq
  intro k _
  rw [getLsbD_wsetBit hj, getLsbD_wsetBit hi, getLsbD_wsetBit hi, getLsbD_wsetBit hj]
  by_cases hki : k = i
  · rw [if_neg (hki ▸ hij), if_pos hki, if_pos hki]
  · rw [if_neg hki, if_neg hki]

/-- The shift unit sets C behind V, Table 13-8 names them the other way round. -/
theorem shiftFlags_eq (r : Word) (last : Bool) (n : Nat) (st : Word) : shiftFlags r last n st = Spec.shift st r last n := by
  unfold shiftFlags Spec.shift
  split
  · rfl
  · exact congrArg (Prod.mk r) (wsetBit_comm (by decide) (by decide) (by decide))

/-- The one quotient that has no room, −2^31 by −1, is its dividend; the remainder is 0 (R272). -/
theorem divsFlags_eq (a b st : Word) : divsFlags a b st =
    if b = 0#32 then Spec.division st 0xFFFFFFFF#32 true
    else if a = 0x80000000#32 ∧ b = 0xFFFFFFFF#32 then Spec.division st 0x80000000#32 true
    else Spec.division st (BitVec.ofInt 32 (a.toInt.tdiv b.toInt)) false := by
  unfold divsFlags divOverflow
  split
  · rfl
  · split
    · next h => obtain ⟨rfl, rfl⟩ := h; rfl
    · next h =>
      rw [show (a == 0x80000000#32 && b == 0xFFFFFFFF#32) = false by simpa [not_and] using h]
      rfl

theorem remsFlags_eq (a b st : Word) : remsFlags a b st =
    if b = 0#32 then Spec.division st a true
    else if a = 0x80000000#32 ∧ b = 0xFFFFFFFF#32 then Spec.division st 0#32 true
    else Spec.division st (BitVec.ofInt 32 (a.toInt.tmod b.toInt)) false := by
  unfold remsFlags divOverflow
  split
  · rfl
  · split
    · next h => obtain ⟨rfl, rfl⟩ := h; rfl
    · next h =>
      rw [show (a == 0x80000000#32 && b == 0xFFFFFFFF#32) = false by simpa [not_and] using h]
      rfl

/-- An instruction that writes D[dd] and the flags, in every mode (Tables 13-10, 13-11). -/
theorem alu_effect (hx : x.core = { s.core with shadow := false }) {i : Instr} {dd : Fin 16} {r : Word × Word}
    (h : Spec.alu s i = some (dd, r)) : exec i s = done (live s (kRun (kEffect i))) ∧ kEffect i x =
      .ok (modCore (fun _ => { Spec.nextD s dd r.1 with stat := r.2 }) (outReg 25 r.2 (outReg dd.val r.1 x))) := by
  have hd := dreg_of_core hx
  have hst := stat_of_core hx
  cases i with
  | kAdd d a b | kSub d a b | kAnd d a b | kOr d a b | kXor d a b | kAndn d a b | kMin d a b | kMax d a b | kMinu d a b
  | kMaxu d a b | kMul d a b | kMulh d a b | kMulhu d a b | kDivu d a b | kRemu d a b =>
    cases h
    exact ⟨rfl, kAlu_effect hx (by rw [hd, hd]; rfl)⟩
  | kAddc d a b | kSubc d a b =>
    cases h
    exact ⟨rfl, kAlu_effect hx (by rw [hd, hd, hst]; rfl)⟩
  | kNot d a | kNeg d a | kSextb d a | kSexth d a | kZextb d a | kZexth d a | kClz d a | kBswap d a | kAddi d a imm
  | kAndi d a imm | kOri d a imm | kXori d a imm =>
    cases h
    exact ⟨rfl, kAlu_effect hx (by rw [hd]; rfl)⟩
  | kShl d a b | kShr d a b | kSar d a b | kRor d a b =>
    cases h
    exact ⟨rfl, kAlu_effect hx (by rw [shCount, hd, hd]; exact shiftFlags_eq ..)⟩
  | kShli d a n | kShri d a n | kSari d a n | kRori d a n =>
    cases h
    exact ⟨rfl, kAlu_effect hx (by rw [hd]; exact shiftFlags_eq ..)⟩
  | kDivs d a b =>
    cases h
    exact ⟨rfl, kAlu_effect hx (by rw [hd, hd]; exact divsFlags_eq ..)⟩
  | kRems d a b =>
    cases h
    exact ⟨rfl, kAlu_effect hx (by rw [hd, hd]; exact remsFlags_eq ..)⟩
  | _ => cases h

/-! Compares. -/

theorem compare_effect (hx : x.core = { s.core with shadow := false }) {i : Instr} {st : Word}
    (h : Spec.compare s i = some st) : exec i s = done (live s (kRun (kEffect i))) ∧
      kEffect i x = .ok (modCore (fun _ => { Spec.next s with stat := st }) (outReg 25 st x)) := by
  have hd := dreg_of_core hx
  have ha := areg_of_core hx
  cases i with
  | kCmp a b | kTst a b =>
    cases h
    exact ⟨rfl, kFlags_effect hx (by rw [hd, hd]; rfl)⟩
  | kCmpi a imm =>
    cases h
    exact ⟨rfl, kFlags_effect hx (by rw [hd]; rfl)⟩
  | kCmpa an am =>
    cases h
    exact ⟨rfl, kFlags_effect hx (by rw [ha, ha]; rfl)⟩
  | _ => cases h

/-! In Tight mode and Solo no output is folded. -/

theorem outReg_tight (hm : x.pair.mode = 0 ∨ x.pair.mode = 2) (n : Nat) (v : Word) : outReg n v x = x :=
  foldOut_of_mode (mode_ne_of_tight hm).1

theorem fetched_mode (h : Spec.Runs s) : (Spec.fetched s).pair.mode = 0 ∨ (Spec.fetched s).pair.mode = 2 :=
  (fetched_alike s).mode ▸ h.mode

theorem fetched_core (s : State) : (Spec.fetched s).core = { s.core with shadow := false } := (fetched_alike s).core

theorem fetched_asChk (h : Spec.Runs s) : (Spec.fetched s).pair.asChk = false := (fetched_alike s).asChk.trans h.main

/-- An instruction whose effect on the fetched state is another core alone. -/
theorem run_core {e : State → KRes} {c : Core} (h : Spec.Runs s)
    (he : e (Spec.fetched s) = .ok (modCore (fun _ => c) (Spec.fetched s))) (hw : c.waiting = s.core.waiting)
    (hl : c.lockup = s.core.lockup) : done (live s (kRun e)) = .next (Spec.retired (Spec.fetched s) c) :=
  have hc := core_of_kReady h.ready
  run_tight h he (.refl _) (hw.trans hc.1) (hl.trans hc.2)

/-! Moves and address arithmetic. -/

theorem kMove_effect (hx : x.core = { s.core with shadow := false }) (hm : x.pair.mode = 0 ∨ x.pair.mode = 2) {dd : Fin 16}
    {v u : Word} (hv : v = u) : kMove dd v x = .ok (modCore (fun _ => Spec.nextD s dd u) x) := by
  rw [kMove, hv, setD_eq, outReg_tight hm, kNext_eq, modCore_modCore]
  exact congrArg KRes.ok (modCore_const (by rw [hx]; rfl))

theorem kMoveA_effect (hx : x.core = { s.core with shadow := false }) (hm : x.pair.mode = 0 ∨ x.pair.mode = 2) {an : Fin 8}
    {v u : Word} (hv : v = u) : kMoveA an v x = .ok (modCore (fun _ => Spec.nextA s an u) x) := by
  rw [kMoveA, hv, setA_eq, outReg_tight hm, kNext_eq, modCore_modCore]
  exact congrArg KRes.ok (modCore_const (by rw [hx]; rfl))

/-! Multiply-accumulate (R273). -/

theorem satTo_56 (v : Int) : satTo 56 v = (clampInt (-(2 : Int) ^ 55) ((2 : Int) ^ 55 - 1) v,
    decide (clampInt (-(2 : Int) ^ 55) ((2 : Int) ^ 55 - 1) v ≠ v)) := rfl

theorem satTo_32 (v : Int) : satTo 32 v = (clampInt (-(2 : Int) ^ 31) ((2 : Int) ^ 31 - 1) v,
    decide (clampInt (-(2 : Int) ^ 31) ((2 : Int) ^ 31 - 1) v ≠ v)) := rfl

theorem setAcc_tight (hm : x.pair.mode = 0 ∨ x.pair.mode = 2) (i : Fin 4) (v : Int) :
    setAcc i v x = modCore (fun c => { c with ac := tset 0 c.ac i.val v }) x :=
  (setAcc_eq i v x).trans (congrArg _ (foldOut_of_mode (mode_ne_of_tight hm).1))

theorem kAcc_effect (hx : x.core = { s.core with shadow := false }) (hm : x.pair.mode = 0 ∨ x.pair.mode = 2) {ac : Fin 4}
    {v u : Int} (hv : v = u) : kAcc ac v x = .ok (modCore (fun _ => Spec.clamped s ac u) x) := by
  rw [kAcc, hv, satTo_56, setAcc_tight hm, setStat_eq, outReg_modCore, outReg_tight hm, kNext_eq, modCore_modCore,
    modCore_modCore]
  exact congrArg KRes.ok (modCore_const (by rw [hx]; rfl))

theorem setAcc_effect (hx : x.core = { s.core with shadow := false }) (hm : x.pair.mode = 0 ∨ x.pair.mode = 2) {ac : Fin 4}
    {v u : Int} (hv : v = u) : kNext (setAcc ac v x) = modCore (fun _ => Spec.nextAcc s ac u) x := by
  rw [hv, setAcc_tight hm, kNext_eq, modCore_modCore]
  exact modCore_const (by rw [hx]; rfl)

theorem macProduct_eq (hx : x.core = { s.core with shadow := false }) (a b : Fin 16) (h1 h2 : Bool) :
    macProduct (dreg x a) (dreg x b) h1 h2 x.core.stat = Spec.product s a b h1 h2 := by
  rw [dreg_of_core hx, dreg_of_core hx, stat_of_core hx]
  rfl

end

/-- Settles O1: `alu_effect`, where no output is folded. -/
theorem karpolAluResults : Obligations.KarpolAluResults := by
  intro s i dd r hs hr
  obtain ⟨hi, he⟩ := alu_effect (fetched_core s) hr
  rw [outReg_tight (fetched_mode hs), outReg_tight (fetched_mode hs)] at he
  exact hi.trans (run_core hs he rfl rfl)

/-- Settles O2: `compare_effect`, where no output is folded. -/
theorem karpolCompareFlags : Obligations.KarpolCompareFlags := by
  intro s i st hs hr
  obtain ⟨hi, he⟩ := compare_effect (fetched_core s) hr
  rw [outReg_tight (fetched_mode hs)] at he
  exact hi.trans (run_core hs he rfl rfl)

/-- Settles O3: each writes one register of the fetched state, whose operands are those of the state before. -/
theorem karpolMoves : Obligations.KarpolMoves := by
  intro s i c hs h
  have hx := fetched_core s
  have hm := fetched_mode hs
  have hd := dreg_of_core hx
  have ha := areg_of_core hx
  cases i with
  | kMov dd a | kMovhi dd imm =>
    cases h
    exact run_core hs (kMove_effect hx hm (by rw [hd])) rfl rfl
  | kMovi dd imm =>
    cases h
    exact run_core hs (kMove_effect hx hm rfl) rfl rfl
  | kMovd dm am =>
    cases h
    exact run_core hs (kMove_effect hx hm (ha am)) rfl rfl
  | kLea an am imm =>
    cases h
    exact run_core hs (kMoveA_effect hx hm (by rw [ha]; rfl)) rfl rfl
  | kMovaa an am =>
    cases h
    exact run_core hs (kMoveA_effect hx hm (ha am)) rfl rfl
  | kMova an dm =>
    cases h
    exact run_core hs (kMoveA_effect hx hm (hd dm)) rfl rfl
  | kAdda an am dm | kSuba an am dm | kAddas an am dm =>
    cases h
    exact run_core hs (kMoveA_effect hx hm (by rw [ha, hd])) rfl rfl
  | kLeapc an imm =>
    cases h
    exact run_core hs (kMoveA_effect hx hm (by rw [hx]; rfl)) rfl rfl
  | _ => cases h

/-- Settles O4: an accumulator or D register takes the value of the fetched state's operands, clamped where R273 clamps it. -/
theorem karpolAccumulators : Obligations.KarpolAccumulators := by
  intro s i c hs h
  have hx := fetched_core s
  have hm := fetched_mode hs
  have hp := macProduct_eq hx
  have hacc := acc_of_core hx
  cases i with
  | kMac ac a b h1 h2 | kMsu ac a b h1 h2 =>
    cases h
    exact run_core hs (kAcc_effect hx hm (by rw [hacc, hp])) rfl rfl
  | kAddac ac acs =>
    cases h
    exact run_core hs (kAcc_effect hx hm (by rw [hacc, hacc])) rfl rfl
  | kMpy ac a b h1 h2 =>
    cases h
    exact run_core hs (congrArg KRes.ok (setAcc_effect hx hm (hp a b h1 h2))) rfl rfl
  | kClrac ac =>
    cases h
    exact run_core hs (congrArg KRes.ok (setAcc_effect hx hm rfl)) rfl rfl
  | kWrac ac a sh =>
    by_cases hsh : sh.val ≤ 24
    · obtain rfl := Option.some.inj ((if_pos hsh).symm.trans h)
      have he : kWrac ac a sh (Spec.fetched s) =
          .ok (kNext (setAcc ac ((dreg (Spec.fetched s) a).toInt * (2 ^ sh.val : Nat)) (Spec.fetched s))) :=
        if_neg (Nat.not_lt.2 hsh)
      exact run_core hs (he.trans (congrArg KRes.ok (setAcc_effect hx hm (by rw [dreg_of_core hx])))) rfl rfl
    · cases (if_neg hsh).symm.trans h
  | kRdac dd ac sh =>
    cases h
    refine run_core hs ?_ rfl rfl
    rw [kRdac, hacc, satTo_32, setD_eq, outReg_tight hm, setStat_eq, outReg_modCore, outReg_tight hm, kNext_eq,
      modCore_modCore, modCore_modCore]
    exact congrArg KRes.ok (modCore_const (by rw [hx]; rfl))
  | _ => cases h

end Sys2Proof.Machine
end

section
/-! O8 and O9: branches, jumps, bit tests and bit instructions (R266–R268). -/

namespace Sys2Proof.Machine

section
variable {s x : State}

/-! Accesses of the main copy in Tight mode and Solo: nothing is recorded. -/

theorem record_tight (hm : x.pair.mode = 0 ∨ x.pair.mode = 2) (e : Replay) : record e x = x := by
  obtain ⟨h1, h3⟩ := mode_ne_of_tight hm
  rw [record, if_neg h1, if_neg (fun h => h3 h.1)]

theorem kTake_tight {f : State → State} (hm : (f x).pair.mode = 0 ∨ (f x).pair.mode = 2) (hc : x.pair.asChk = false)
    (v : Word) : kTake v f x = (v, f x) := by
  rw [kTake, if_neg (by rw [hc]; decide), record_tight hm]

theorem wbit_b2n (b : Bool) : wbit (w32 (b2n b)) 0 = b := by cases b <;> decide

/-- A bit read gives the bit, and does nothing (R268). -/
theorem takeBit_tight (hm : x.pair.mode = 0 ∨ x.pair.mode = 2) (hc : x.pair.asChk = false) (b : Nat) :
    takeBit b x = (bitRead x b, x) := by
  have ho : outBitOp b none x = x := foldOut_of_mode (mode_ne_of_tight hm).1
  rw [takeBit, ho, kTake_tight hm hc]
  exact congrArg (·, x) (wbit_b2n _)

theorem putBitAt_tight (hm : x.pair.mode = 0 ∨ x.pair.mode = 2) (hc : x.pair.asChk = false) (b : Nat) (v : Bool) :
    putBitAt b v x = bitWrite b v x := by
  have ho : outBitOp b (some v) x = x := foldOut_of_mode (mode_ne_of_tight hm).1
  rw [putBitAt, ho]
  exact if_neg (by rw [hc]; decide)

/-! Flow. -/

theorem nextPc_of_core (hx : x.core = { s.core with shadow := false }) : nextPc x = s.core.pc + 4#32 := by
  unfold nextPc; rw [hx]

theorem branchTarget_of_core {n : Nat} (hx : x.core = { s.core with shadow := false }) (d : BitVec n) :
    branchTarget d x = Spec.target s d := by
  unfold branchTarget; rw [hx]; rfl

theorem bitAddr_of_core (hx : x.core = { s.core with shadow := false }) (b : BitRef) : bitAddr b x = Spec.bitOf s b := by
  cases b with
  | direct n => rfl
  | indexed dm n => rw [bitAddr, dreg_of_core hx]; rfl

theorem setPc_effect (hx : x.core = { s.core with shadow := false }) (a : Word) :
    setPc a x = modCore (fun _ => { Spec.next s with pc := a }) x := modCore_const (by rw [hx]; rfl)

theorem kNext_effect (hx : x.core = { s.core with shadow := false }) : kNext x = modCore (fun _ => Spec.next s) x :=
  (kNext_eq x).trans (modCore_const (by rw [hx]; rfl))

theorem condHolds_eq (st : Word) {cond : Nat} (h : cond < 15) : condHolds cond st = Spec.condition st cond := by
  interval_cases cond <;> rfl

theorem kJump_aligned {a : Word} (h : a.toNat % 4 = 0) (x : State) : kJump a x = .ok (setPc a x) := by
  rw [kJump, if_neg (by simp [h])]

/-- LK takes the following address, the PC the target. -/
theorem setLk_effect (hx : x.core = { s.core with shadow := false }) (hm : x.pair.mode = 0 ∨ x.pair.mode = 2) (a : Word) :
    setPc a (setLk (nextPc x) x) = modCore (fun _ => { Spec.next s with lk := s.core.pc + 4#32, pc := a }) x := by
  rw [nextPc_of_core hx, setLk_eq, outReg_tight hm, setPc, modCore_modCore]
  exact modCore_const (by rw [hx]; rfl)

/-- STAT takes a value. -/
theorem setStat_effect (hx : x.core = { s.core with shadow := false }) (hm : x.pair.mode = 0 ∨ x.pair.mode = 2) (v : Word) :
    kNext (setStat v x) = modCore (fun _ => { Spec.next s with stat := v }) x := by
  rw [setStat_eq, outReg_tight hm, kNext_eq, modCore_modCore]
  exact modCore_const (by rw [hx]; rfl)

theorem kBitC_effect (hx : x.core = { s.core with shadow := false }) (hm : x.pair.mode = 0 ∨ x.pair.mode = 2)
    (hc : x.pair.asChk = false) (b : BitRef) {f : Bool → Bool → Bool} {v : Bool}
    (hv : f (wbit s.core.stat 0) (bitRead x (Spec.bitOf s b)) = v) :
    kBitC b f x = .ok (modCore (fun _ => Spec.carry s v) x) := by
  rw [kBitC, bitAddr_of_core hx, takeBit_tight hm hc]
  dsimp only
  rw [setStat_effect hx hm, stat_of_core hx, stC, hv]
  rfl

theorem kTestBit_effect (hx : x.core = { s.core with shadow := false }) (hm : x.pair.mode = 0 ∨ x.pair.mode = 2)
    (hc : x.pair.asChk = false) (want : Bool) (disp : BitVec 14) (b : BitVec 12) : kTestBit want none disp b x =
      .ok (modCore (fun _ => { Spec.next s with
        pc := if bitRead x b.toNat = want then Spec.target s disp else s.core.pc + 4#32 }) x) := by
  rw [kTestBit, takeBit_tight hm hc]
  dsimp only
  split
  · rw [setPc_effect hx, branchTarget_of_core hx]
  · rw [kNext_effect hx]; rfl

end

/-- Settles O8: each leaves the fetched state with another core. -/
theorem karpolFlow : Obligations.KarpolFlow := by
  intro s i c hs h
  have hx := fetched_core s
  have hm := fetched_mode hs
  have hc := fetched_asChk hs
  have hst := stat_of_core hx
  cases i with
  | kBcc cond disp =>
    by_cases h15 : cond.val = 15
    · cases (if_pos h15).symm.trans h
    · obtain rfl := Option.some.inj ((if_neg h15).symm.trans h)
      refine run_core hs ((if_neg h15).trans (congrArg KRes.ok ?_)) rfl rfl
      rw [hst, condHolds_eq _ (by omega)]
      split
      · rw [setPc_effect hx, branchTarget_of_core hx]
      · exact kNext_effect hx
  | kBal disp =>
    cases h
    refine run_core hs (congrArg KRes.ok ?_) rfl rfl
    rw [branchTarget_of_core hx, setLk_effect hx hm]
  | kJmp an =>
    by_cases ha : (areg s an).toNat % 4 = 0
    · obtain rfl := Option.some.inj ((if_pos ha).symm.trans h)
      refine run_core hs ?_ rfl rfl
      rw [kJmp, areg_of_core hx, kJump_aligned ha, setPc_effect hx]
    · cases (if_neg ha).symm.trans h
  | kBalr an =>
    by_cases ha : (areg s an).toNat % 4 = 0
    · obtain rfl := Option.some.inj ((if_pos ha).symm.trans h)
      refine run_core hs ?_ rfl rfl
      rw [kBalr, areg_of_core hx, kJump_aligned ha, setLk_effect hx hm]
    · cases (if_neg ha).symm.trans h
  | kJlk =>
    by_cases ha : s.core.lk.toNat % 4 = 0
    · obtain rfl := Option.some.inj ((if_pos ha).symm.trans h)
      refine run_core hs ?_ rfl rfl
      rw [kJlk, hx, kJump_aligned ha, setPc_effect hx]
    · cases (if_neg ha).symm.trans h
  | kTbs disp b =>
    cases h
    exact run_core hs (kTestBit_effect hx hm hc true disp b) rfl rfl
  | kTbc disp b =>
    cases h
    refine run_core hs ((kTestBit_effect hx hm hc false disp b).trans ?_) rfl rfl
    cases bitRead (Spec.fetched s) b.toNat <;> rfl
  | kBld b | kBand b | kBor b | kBxor b =>
    cases h
    exact run_core hs (kBitC_effect hx hm hc b rfl) rfl rfl
  | kCset | kCclr | kCflip =>
    cases h
    refine run_core hs (congrArg KRes.ok ?_) rfl rfl
    rw [setStat_effect hx hm, hst]
    rfl
  | kNop =>
    cases h
    exact run_core hs (congrArg KRes.ok (kNext_effect hx)) rfl rfl
  | kEi =>
    cases h
    refine run_core hs (congrArg KRes.ok ?_) rfl rfl
    rw [hst, setStat_eq, outReg_tight hm, kNext_eq, modCore_modCore, modCore_modCore]
    exact modCore_const (by rw [hx]; rfl)
  | kDi =>
    cases h
    refine run_core hs (congrArg KRes.ok ?_) rfl rfl
    rw [hst, setStat_effect hx hm]
  | _ => cases h

/-! Bit writes. -/

section
variable {s x : State}

theorem raise_alike (n : Nat) (x : State) : Alike (raise n x) x := by
  rw [raise_frame]; exact ⟨rfl, rfl, rfl, rfl, rfl⟩

theorem evcSettle_alike (d : Nat) (x : State) : Alike (evcSettle d x) x := by
  rw [evcSettle_frame]; exact ⟨rfl, rfl, rfl, rfl, rfl⟩

theorem unpend_alike (t n : Nat) (x : State) : Alike (unpend t n x) x := ⟨rfl, rfl, rfl, rfl, rfl⟩

theorem swSet_alike (n : Nat) (x : State) : Alike (swSet n x) x := by
  unfold swSet
  split
  · exact raise_alike n x
  · exact .refl x

theorem swClr_alike (n : Nat) (x : State) : Alike (swClr n x) x := by
  unfold swClr
  extract_lets y
  split
  · have hy : Alike y x := (unpend_alike 3 n _).trans ((unpend_alike 2 n _).trans ((unpend_alike 1 n _).trans (unpend_alike 0 n x)))
    exact (evcSettle_alike 2 _).trans ((evcSettle_alike 1 _).trans ((evcSettle_alike 0 y).trans hy))
  · exact .refl x

/-- A write of a bit that is no register bit leaves the core and the pair as they are (Table 13-5). -/
theorem bitWrite_alike {b : Nat} (hb : Spec.unblocked b = true) (v : Bool) (x : State) : Alike (bitWrite b v x) x := by
  unfold bitWrite
  unfold Spec.unblocked at hb
  cases hp : bitPlace b with
  | general a i => exact ⟨rfl, rfl, rfl, rfl, rfl⟩
  | pending n =>
    cases v
    · exact swClr_alike n x
    · exact swSet_alike n x
  | mask n => exact ⟨rfl, rfl, rfl, rfl, rfl⟩
  | block a i => rw [hp] at hb; cases hb
  | none => exact .refl x

/-- An instruction that writes one bit of the fetched state and goes on at a PC. -/
theorem run_bitWrite {e : State → KRes} {b : Nat} {v : Bool} {pc : Word} (h : Spec.Runs s) (hb : Spec.unblocked b = true)
    (he : e (Spec.fetched s) = .ok (setPc pc (bitWrite b v (Spec.fetched s)))) :
    done (live s (kRun e)) = .next (Spec.retired (bitWrite b v (Spec.fetched s)) { Spec.next s with pc := pc }) := by
  have hx := bitWrite_alike hb v (Spec.fetched s)
  have hc := core_of_kReady h.ready
  refine run_tight h (he.trans (congrArg KRes.ok ?_)) hx hc.1 hc.2
  exact setPc_effect (hx.core.trans (fetched_core s)) pc

/-- Behind a write of a bit the following address is the fetched state's. -/
theorem kNext_bitWrite {b : Nat} (hb : Spec.unblocked b = true) (v : Bool) :
    kNext (bitWrite b v (Spec.fetched s)) = setPc (s.core.pc + 4#32) (bitWrite b v (Spec.fetched s)) :=
  congrArg (setPc · (bitWrite b v (Spec.fetched s))) (nextPc_of_core ((bitWrite_alike hb v _).core.trans (fetched_core s)))

theorem run_kBitPut {e : State → KRes} {r : BitRef} {v : Bool} (h : Spec.Runs s)
    (hb : Spec.unblocked (Spec.bitOf s r) = true)
    (he : e (Spec.fetched s) = .ok (kNext (putBitAt (bitAddr r (Spec.fetched s)) v (Spec.fetched s)))) :
    done (live s (kRun e)) =
      .next (Spec.retired (bitWrite (Spec.bitOf s r) v (Spec.fetched s)) { Spec.next s with pc := s.core.pc + 4#32 }) := by
  refine run_bitWrite h hb (he.trans (congrArg KRes.ok ?_))
  rw [putBitAt_tight (fetched_mode h) (fetched_asChk h), bitAddr_of_core (fetched_core s), kNext_bitWrite hb]

/-- TBSC and TBCS that branch. -/
theorem run_kTestBit_write {want v : Bool} {disp : BitVec 14} {b : BitVec 12} (h : Spec.Runs s)
    (hb : Spec.unblocked b.toNat = true) (hr : bitRead (Spec.fetched s) b.toNat = want) :
    done (live s (kRun (kTestBit want (some v) disp b))) =
      .next (Spec.retired (bitWrite b.toNat v (Spec.fetched s)) { Spec.next s with pc := Spec.target s disp }) := by
  refine run_bitWrite h hb ?_
  rw [kTestBit, takeBit_tight (fetched_mode h) (fetched_asChk h)]
  dsimp only
  rw [if_pos hr, putBitAt_tight (fetched_mode h) (fetched_asChk h), branchTarget_of_core (fetched_core s)]

/-- TBSC and TBCS that do not branch. -/
theorem run_kTestBit_stay {want v : Bool} {disp : BitVec 14} {b : BitVec 12} (h : Spec.Runs s)
    (hr : bitRead (Spec.fetched s) b.toNat ≠ want) :
    done (live s (kRun (kTestBit want (some v) disp b))) = .next (Spec.retired (Spec.fetched s) (Spec.next s)) := by
  refine run_core h ?_ rfl rfl
  rw [kTestBit, takeBit_tight (fetched_mode h) (fetched_asChk h)]
  dsimp only
  rw [if_neg hr, kNext_effect (fetched_core s)]

end

/-- Settles O9: a bit that is no register bit is written, and only it and the PC change. -/
theorem karpolBitWrites : Obligations.KarpolBitWrites := by
  refine ⟨fun s i b v pc hs h hb => ?_, fun s disp b hs hr => ?_, fun s disp b hs hr => ?_⟩
  · cases i with
    | kBset r | kBclr r =>
      cases h
      exact run_kBitPut hs hb rfl
    | kBst r =>
      cases h
      exact run_kBitPut hs hb (by rw [kBst, stat_of_core (fetched_core s)]; rfl)
    | kBflip r =>
      cases h
      refine run_kBitPut hs hb ?_
      rw [kBflip, takeBit_tight (fetched_mode hs) (fetched_asChk hs), bitAddr_of_core (fetched_core s)]
    | kTbsc disp n =>
      by_cases hr : bitRead (Spec.fetched s) n.toNat = true
      · cases (if_pos hr).symm.trans h
        exact run_kTestBit_write hs hb hr
      · cases (if_neg hr).symm.trans h
    | kTbcs disp n =>
      by_cases hr : bitRead (Spec.fetched s) n.toNat = true
      · cases (if_pos hr).symm.trans h
      · cases (if_neg hr).symm.trans h
        exact run_kTestBit_write hs hb (by simpa using hr)
    | _ => cases h
  · exact run_kTestBit_stay hs (by rw [hr]; decide)
  · exact run_kTestBit_stay hs (by rw [hr]; decide)

end Sys2Proof.Machine
end

section
/-! O5 and O6: loads and stores of the main copy in Tight mode and Solo (R261, R263, R264). -/

namespace Sys2Proof.Machine

section
variable {s x : State}

theorem eaOf_of_core (hx : x.core = { s.core with shadow := false }) (m : AMode) (n : Nat) : eaOf m n x = eaOf m n s := by
  cases m with
  | index an dm sh => rw [eaOf, eaOf, areg_of_core hx, dreg_of_core hx]
  | pcRel d => rw [eaOf, eaOf, hx]
  | reserved => rfl
  | _ => rw [eaOf, eaOf, areg_of_core hx]

theorem setD_tight (hm : x.pair.mode = 0 ∨ x.pair.mode = 2) (i : Fin 16) (v : Word) :
    setD i v x = modCore (fun c => { c with d := tset 0#32 c.d i.val v }) x := by rw [setD_eq, outReg_tight hm]

theorem setA_tight (hm : x.pair.mode = 0 ∨ x.pair.mode = 2) (i : Fin 8) (v : Word) :
    setA i v x = modCore (fun c => { c with a := tset 0#32 c.a i.val v }) x := by rw [setA_eq, outReg_tight hm]

theorem baseUpdate_tight (hm : x.pair.mode = 0 ∨ x.pair.mode = 2) (u : Option (Fin 8 × Word)) :
    baseUpdate u x = modCore (Spec.based u) x := by
  cases u with
  | none => rfl
  | some p => exact setA_tight hm p.1 p.2

/-! Loads. -/

/-- What a load leaves of the state it began in: the read has its effect, its line is filled. -/
theorem takeLoad_tight (hm : x.pair.mode = 0 ∨ x.pair.mode = 2) (hc : x.pair.asChk = false) (a n : Nat) :
    takeLoad a n x = (w32 (loadVal x a n), dcacheLoad a (loadEffect a x)) := by
  have ho : outData a n none x = x := foldOut_of_mode (mode_ne_of_tight hm).1
  have ha : Alike (dcacheLoad a (loadEffect a x)) x := (dcacheLoad_alike a _).trans (loadEffect_alike a x)
  rw [takeLoad, ho]
  exact kTake_tight (f := fun y => dcacheLoad a (loadEffect a y)) (ha.mode ▸ hm) hc _

theorem kLoad_tight (hm : x.pair.mode = 0 ∨ x.pair.mode = 2) (hc : x.pair.asChk = false) {a : Word} {n : Nat}
    (hf : accessFault false a.toNat n = none) (k : Word → State → KRes) :
    kLoad a n k x = k (w32 (loadVal x a.toNat n)) (dcacheLoad a.toNat (loadEffect a.toNat x)) := by
  rw [kLoad, hf]
  dsimp only
  rw [takeLoad_tight hm hc]

/-- A core that goes on to the next instruction. -/
def onward (c : Core) : Core := { c with pc := c.pc + 4#32 }

theorem onward_based (u : Option (Fin 8 × Word)) (c : Core) : onward (Spec.based u c) = Spec.based u (onward c) := by
  cases u <;> rfl

/-- A load's value goes to a register by `put`, which in Tight mode and Solo is `take` on the core. -/
structure Puts (put : Word → State → State) (take : Word → Core → Core) : Prop where
  tight : ∀ v y, (y.pair.mode = 0 ∨ y.pair.mode = 2) → put v y = modCore (take v) y
  onward : ∀ v c, onward (take v c) = take v (onward c)
  waiting : ∀ v c, (take v c).waiting = c.waiting
  lockup : ∀ v c, (take v c).lockup = c.lockup

theorem puts_setD (dt : Fin 16) (g : Word → Word) :
    Puts (fun v => setD dt (g v)) (fun v c => { c with d := tset 0#32 c.d dt.val (g v) }) :=
  ⟨fun v _ hy => setD_tight hy dt (g v), fun _ _ => rfl, fun _ _ => rfl, fun _ _ => rfl⟩

theorem puts_setA (ar : Fin 8) : Puts (setA ar) (fun v c => { c with a := tset 0#32 c.a ar.val v }) :=
  ⟨fun v _ hy => setA_tight hy ar v, fun _ _ => rfl, fun _ _ => rfl, fun _ _ => rfl⟩

/-- A load instruction executes as the load into its register. -/
theorem load_effect {i : Instr} {m : AMode} {n : Nat} {met : LoadMet} {take : Word → Core → Core}
    (h : Spec.load i = some (m, n, met, take)) :
    ∃ put, Puts put take ∧ exec i s = done (live s (kRun (kLoadTo m n met put))) := by
  cases i with
  | kLdW dt a l | kLdH dt a l | kLdHu dt a l | kLdB dt a l | kLdBu dt a l =>
    cases h
    exact ⟨_, puts_setD dt _, rfl⟩
  | kLda ar a l =>
    cases h
    exact ⟨_, puts_setA ar, rfl⟩
  | _ => cases h

theorem run_kLoadTo {m : AMode} {n : Nat} {met : LoadMet} {put : Word → State → State}
    {take : Word → Core → Core} {ea : Word} {u : Option (Fin 8 × Word)} (h : Spec.Runs s) (hp : Puts put take)
    (hea : eaOf m n s = some (ea, u)) (hf : accessFault false ea.toNat n = none) :
    done (live s (kRun (kLoadTo m n met put))) = .next (Spec.retired
      (loadMet met ea.toNat (dcacheLoad ea.toNat (loadEffect ea.toNat (Spec.fetched s))))
      (take (w32 (loadVal (Spec.fetched s) ea.toNat n)) (Spec.based u (Spec.next s)))) := by
  have hm := fetched_mode h
  have hy : Alike (loadMet met ea.toNat (dcacheLoad ea.toNat (loadEffect ea.toNat (Spec.fetched s)))) (Spec.fetched s) :=
    (loadMet_alike met ea.toNat _).trans ((dcacheLoad_alike ea.toNat _).trans (loadEffect_alike ea.toNat _))
  have hc := core_of_kReady h.ready
  have hb : (Spec.based u (Spec.next s)).waiting = s.core.waiting ∧ (Spec.based u (Spec.next s)).lockup = s.core.lockup := by
    cases u <;> exact ⟨rfl, rfl⟩
  refine run_tight h ?_ hy ((hp.waiting _ _).trans (hb.1.trans hc.1)) ((hp.lockup _ _).trans (hb.2.trans hc.2))
  rw [kLoadTo, eaOf_of_core (fetched_core s), hea]
  dsimp only
  rw [kLoad_tight hm (fetched_asChk h) hf, baseUpdate_tight (hy.mode ▸ hm), hp.tight _ _ (hy.mode ▸ hm), kNext_eq,
    modCore_modCore, modCore_modCore]
  refine congrArg KRes.ok (modCore_const ?_)
  rw [hy.core.trans (fetched_core s)]
  exact (hp.onward _ _).trans (congrArg (take _) (onward_based u _))

/-! Stores. -/

theorem putStore_tight (hm : x.pair.mode = 0 ∨ x.pair.mode = 2) (hc : x.pair.asChk = false) (a n v : Nat) :
    putStore a n v x = bufferStore a (storeVal a n v x) := by
  have ho : outData a n (some v) x = x := foldOut_of_mode (mode_ne_of_tight hm).1
  rw [putStore, ho]
  exact if_neg (by rw [hc]; decide)

theorem storeVal_memory {a : Nat} (h : regionOf a ≠ .block) (n v : Nat) : storeVal a n v x = agentWrite a (leBytes n v) x := by
  unfold storeVal
  split
  · contradiction
  · rfl

theorem storeVal_register {a : Nat} (h : regionOf a = .block) (n : Nat) (v : Word) :
    bufferStore a (storeVal a n v.toNat x) = regWrite a v x := by
  unfold bufferStore storeVal
  rw [h, w32, BitVec.ofNat_toNat, BitVec.setWidth_eq]
  rfl

/-- Outside the register blocks a store goes to memory by way of the write buffer. -/
theorem putStore_memory (hm : x.pair.mode = 0 ∨ x.pair.mode = 2) (hc : x.pair.asChk = false) {a : Nat}
    (ha : regionOf a ≠ .block) (n v : Nat) : putStore a n v x = Spec.stored a n v x := by
  rw [putStore_tight hm hc, storeVal_memory ha]
  rfl

theorem kStore_ok {a : Word} {n : Nat} (hf : accessFault true a.toNat n = none) (v : Word) (k : State → KRes) :
    kStore a n v k x = k (putStore a.toNat n v.toNat x) := by
  rw [kStore, hf]

theorem kStoreFrom_ok {m : AMode} {n : Nat} {ea : Word} {u : Option (Fin 8 × Word)}
    (hx : x.core = { s.core with shadow := false }) (hea : eaOf m n s = some (ea, u))
    (hf : accessFault true ea.toNat n = none) (v : Word) :
    kStoreFrom m n v x = .ok (kNext (baseUpdate u (putStore ea.toNat n v.toNat x))) := by
  rw [kStoreFrom, eaOf_of_core hx, hea]
  exact kStore_ok hf v _

/-- A store instruction executes as the store of its register. -/
theorem store_effect (hx : x.core = { s.core with shadow := false }) {i : Instr} {m : AMode} {n : Nat} {v : Word}
    (h : Spec.store s i = some (m, n, v)) :
    exec i s = done (live s (kRun (kEffect i))) ∧ kEffect i x = kStoreFrom m n v x := by
  cases i with
  | kStW dt ea | kStH dt ea | kStB dt ea =>
    cases h
    exact ⟨rfl, congrArg (fun r => kStoreFrom _ _ r x) (dreg_of_core hx dt)⟩
  | kSta ar ea =>
    cases h
    exact ⟨rfl, congrArg (fun r => kStoreFrom _ _ r x) (areg_of_core hx ar)⟩
  | _ => cases h

end

/-- Settles O5: the load into the register that the instruction names. -/
theorem karpolLoads : Obligations.KarpolLoads := by
  intro s i m n met take ea u hs h hea hf
  obtain ⟨put, hp, hi⟩ := load_effect (s := s) h
  exact hi.trans (run_kLoadTo hs hp hea hf)

/-- Settles O6: memory takes the bytes, or the register of a block the word. -/
theorem karpolStores : Obligations.KarpolStores := by
  intro s i m n v ea u hs h hea hf
  have hx := fetched_core s
  have hm := fetched_mode hs
  obtain ⟨hi, he⟩ := store_effect hx h
  have hst := he.trans (kStoreFrom_ok hx hea hf v)
  refine ⟨fun hr => hi.trans ?_, fun hr => hi.trans ?_⟩
  · have hy := stored_alike ea.toNat n v.toNat (Spec.fetched s)
    have hc := core_of_kReady hs.ready
    rw [putStore_memory hm (fetched_asChk hs) hr, baseUpdate_tight (hy.mode ▸ hm), kNext_eq, modCore_modCore] at hst
    refine run_tight (c := Spec.based u (Spec.next s)) hs (hst.trans (congrArg KRes.ok (modCore_const ?_))) hy ?_ ?_
    · rw [hy.core.trans hx]
      exact onward_based u _
    · cases u <;> exact hc.1
    · cases u <;> exact hc.2
  · rw [putStore_tight hm (fetched_asChk hs), storeVal_register hr] at hst
    rw [live_run _ hs.held, kRun_tight _ hs, kIssue_tight_ok hs hst]

end Sys2Proof.Machine
end

section
/-! O7: PUSH, POP, CALL, CALLR, RET and RETI of the main copy in Tight mode and Solo (R265, R266, R279). -/

namespace Sys2Proof.Machine

section
variable {s x : State}

/-! Memory does not read the core. -/

theorem stored_modCore (a n v : Nat) (f : Core → Core) (x : State) :
    Spec.stored a n v (modCore f x) = modCore f (Spec.stored a n v x) := by
  have hw : ∀ (bs : Bytes) (a : Nat) (y : State), mwrite a bs (modCore f y) = modCore f (mwrite a bs y) := by
    intro bs
    induction bs with
    | nil => exact fun _ _ => rfl
    | cons b r ih => exact fun a y => ih (a + 1) (mset a b y)
  have ha : agentWrite a (leBytes n v) (modCore f x) = modCore f (agentWrite a (leBytes n v) x) := by
    unfold agentWrite
    rw [show hitsOpenRam (modCore f x) a (leBytes n v).length = hitsOpenRam x a (leBytes n v).length from rfl]
    split
    · exact hw _ a (panelChange x)
    · exact hw _ a x
  unfold Spec.stored bufferStore
  rw [ha]
  split <;> rfl

/-- The D-cache is on or off by CCTL alone. -/
theorem dcacheLoad_modCore (a : Nat) {f : Core → Core} (hf : (f x.core).cctl = x.core.cctl) :
    dcacheLoad a (modCore f x) = modCore f (dcacheLoad a x) := by
  unfold dcacheLoad
  dsimp only
  rw [modCore_core, hf, modCore_pair]
  split
  · rfl
  · split <;> rfl

theorem loadEffect_plain {a : Nat} (h : Spec.plain a) (x : State) : loadEffect a x = x := by
  unfold loadEffect
  split
  · exact absurd ‹_› h.1
  · exact absurd ‹_› h.2
  · rfl

theorem loadVal_plain {a : Nat} (h : Spec.plain a) (x : State) (n : Nat) :
    loadVal x a n = leNat ((List.range n).map fun i => memByte x (a + i)) := by
  unfold loadVal
  split
  · exact absurd ‹_› h.1
  · exact absurd ‹_› h.2
  · rfl

/-- Where a read has no side effect, it gives what memory holds. -/
theorem loadVal_of_mem {a : Nat} (h : Spec.plain a) {y : State} (hy : y.mem = x.mem) (n : Nat) : loadVal y a n = loadVal x a n := by
  rw [loadVal_plain h, loadVal_plain h]
  unfold memByte mget
  rw [hy]

theorem kLoad_plain (hm : x.pair.mode = 0 ∨ x.pair.mode = 2) (hc : x.pair.asChk = false) {a : Word} {n : Nat}
    (hf : accessFault false a.toNat n = none) (hp : Spec.plain a.toNat) (k : Word → State → KRes) :
    kLoad a n k x = k (w32 (loadVal x a.toNat n)) (dcacheLoad a.toNat x) := by
  rw [kLoad_tight hm hc hf, loadEffect_plain hp]

/-! Pushes. -/

/-- The core behind a push: A7 has gone up by 4. -/
def pushedCore (s : State) : Core := { s.core with shadow := false, a := tset 0#32 s.core.a 7 (areg s 7 + 4#32) }

theorem kPush_ok (hx : x.core = { s.core with shadow := false }) (hm : x.pair.mode = 0 ∨ x.pair.mode = 2)
    (hc : x.pair.asChk = false) (hl : (areg s 7).toNat + 4 ≤ s.core.stklim.toNat)
    (hf : accessFault true (areg s 7).toNat 4 = none) (hr : regionOf (areg s 7).toNat ≠ .block) (v : Word)
    (k : State → KRes) :
    kPush v k x = k (modCore (fun _ => pushedCore s) (Spec.stored (areg s 7).toNat 4 v.toNat x)) := by
  have hy := stored_alike (areg s 7).toNat 4 v.toNat x
  have hstk : ¬x.core.stklim.toNat < (areg s 7).toNat + 4 := by rw [hx]; exact Nat.not_lt.2 hl
  rw [kPush, areg_of_core hx, if_neg hstk, kStore_ok hf, putStore_memory hm hc hr, setA_tight (hy.mode ▸ hm)]
  exact congrArg k (modCore_const (by rw [hy.core.trans hx]; rfl))

/-- A push that goes on at a PC. -/
theorem run_kPush {e : State → KRes} {v pc : Word} {k : State → KRes} (h : Spec.Runs s)
    (hl : (areg s 7).toNat + 4 ≤ s.core.stklim.toNat) (hf : accessFault true (areg s 7).toNat 4 = none)
    (hr : regionOf (areg s 7).toNat ≠ .block) (he : e (Spec.fetched s) = kPush v k (Spec.fetched s))
    (hk : ∀ y : State, y.core = pushedCore s → k y = .ok (setPc pc y)) :
    done (live s (kRun e)) = .next (Spec.retired (Spec.stored (areg s 7).toNat 4 v.toNat (Spec.fetched s))
      { Spec.nextA s 7 (areg s 7 + 4#32) with pc := pc }) := by
  have hc := core_of_kReady h.ready
  refine run_tight h (he.trans ?_) (stored_alike ..) hc.1 hc.2
  rw [kPush_ok (fetched_core s) (fetched_mode h) (fetched_asChk h) hl hf hr, hk _ rfl]
  rfl

/-- What PUSH, CALL and CALLR push, and where they go on. -/
theorem push_effect {i : Instr} {v pc : Word} (hx : x.core = { s.core with shadow := false })
    (h : Spec.push s i = some (v, pc)) : exec i s = done (live s (kRun (kEffect i))) ∧
      ∃ k : State → KRes, kEffect i x = kPush v k x ∧ ∀ y : State, y.core = pushedCore s → k y = .ok (setPc pc y) := by
  have hnext : ∀ y : State, y.core = pushedCore s → kNext y = setPc (s.core.pc + 4#32) y := fun y hy =>
    congrArg (setPc · y) (by rw [nextPc, hy]; rfl)
  cases i with
  | kPush r =>
    have hreg : ∀ v, stackReg r s = some v → kPushI r x = kPush v (fun y => .ok (kNext y)) x := by
      intro v hv
      rw [kPushI, show stackReg r x = stackReg r s by unfold stackReg; rw [hx], hv]
    have hv : stackReg r s = some v ∧ s.core.pc + 4#32 = pc := by
      unfold Spec.push at h
      unfold stackReg
      dsimp only at h
      split_ifs at h ⊢ <;> cases h <;> exact ⟨rfl, rfl⟩
    obtain ⟨hv, rfl⟩ := hv
    exact ⟨rfl, _, hreg v hv, fun y hy => congrArg KRes.ok (hnext y hy)⟩
  | kCall disp =>
    cases h
    refine ⟨rfl, fun y => .ok (setPc (branchTarget disp x) y), ?_, fun y _ => ?_⟩
    · exact congrArg (fun v => kPush v (fun y => .ok (setPc (branchTarget disp x) y)) x) (nextPc_of_core hx)
    · rw [branchTarget_of_core hx]
  | kCallr an =>
    by_cases ha : (areg s an).toNat % 4 = 0
    · cases (if_pos ha).symm.trans h
      refine ⟨rfl, kJump (areg x an), ?_, fun y _ => ?_⟩
      · exact congrArg (fun v => kPush v _ x) (nextPc_of_core hx)
      · rw [areg_of_core hx, kJump_aligned ha]
    · cases (if_neg ha).symm.trans h
  | _ => cases h

/-! Pops. -/

/-- The core behind a pop: A7 has come down by 4. -/
def poppedCore (s : State) : Core := { s.core with shadow := false, a := tset 0#32 s.core.a 7 (areg s 7 - 4#32) }

theorem kPop_ok (hx : x.core = { s.core with shadow := false }) (hm : x.pair.mode = 0 ∨ x.pair.mode = 2)
    (hc : x.pair.asChk = false) (hf : accessFault false (areg s 7 - 4#32).toNat 4 = none)
    (hp : Spec.plain (areg s 7 - 4#32).toNat) (k : Word → State → KRes) :
    kPop k x = k (w32 (loadVal x (areg s 7 - 4#32).toNat 4))
      (modCore (fun _ => poppedCore s) (dcacheLoad (areg s 7 - 4#32).toNat x)) := by
  have hy := dcacheLoad_alike (areg s 7 - 4#32).toNat x
  rw [kPop, areg_of_core hx, kLoad_plain hm hc hf hp, setA_tight (hy.mode ▸ hm)]
  exact congrArg (k _) (modCore_const (by rw [hy.core.trans hx]; rfl))

/-- A pop whose rest sets the core. -/
theorem run_kPop {e : State → KRes} {c : Core} {k : Word → State → KRes} (h : Spec.Runs s)
    (hf : accessFault false (areg s 7 - 4#32).toNat 4 = none) (hp : Spec.plain (areg s 7 - 4#32).toNat)
    (he : e (Spec.fetched s) = kPop k (Spec.fetched s))
    (hk : ∀ y : State, y.core = poppedCore s → (y.pair.mode = 0 ∨ y.pair.mode = 2) →
      k (w32 (loadVal (Spec.fetched s) (areg s 7 - 4#32).toNat 4)) y = .ok (modCore (fun _ => c) y))
    (hw : c.waiting = s.core.waiting) (hl : c.lockup = s.core.lockup) :
    done (live s (kRun e)) = .next (Spec.retired (dcacheLoad (areg s 7 - 4#32).toNat (Spec.fetched s)) c) := by
  have hc := core_of_kReady h.ready
  have hy := dcacheLoad_alike (areg s 7 - 4#32).toNat (Spec.fetched s)
  refine run_tight h (he.trans ?_) hy (hw.trans hc.1) (hl.trans hc.2)
  rw [kPop_ok (fetched_core s) (fetched_mode h) (fetched_asChk h) hf hp, hk _ rfl (hy.mode ▸ fetched_mode h)]
  rfl

/-- POP's register takes the word. -/
theorem setStackReg_effect {r : Fin 32} {v : Word} {c : Core} (hx : x.core = poppedCore s)
    (hm : x.pair.mode = 0 ∨ x.pair.mode = 2) (h : Spec.pop s v (.kPop r) = some c) :
    kNext (setStackReg r v x) = modCore (fun _ => c) x := by
  unfold Spec.pop at h
  unfold setStackReg
  dsimp only at h
  split_ifs at h ⊢
  all_goals cases h
  · rw [outReg_modCore, outReg_tight hm, kNext_eq, modCore_modCore]
    exact modCore_const (by rw [hx]; rfl)
  · rw [outReg_modCore, outReg_tight hm, kNext_eq, modCore_modCore]
    exact modCore_const (by rw [hx]; rfl)
  · rw [setLk_eq, outReg_tight hm, kNext_eq, modCore_modCore]
    exact modCore_const (by rw [hx]; rfl)
  · rw [loadStat_eq, outReg_tight hm, kNext_eq, modCore_modCore]
    exact modCore_const (by rw [hx]; rfl)

theorem pop_core {i : Instr} {v : Word} {c : Core} (h : Spec.pop s v i = some c) :
    c.waiting = s.core.waiting ∧ c.lockup = s.core.lockup := by
  cases i with
  | kPop r | kRet =>
    unfold Spec.pop at h
    dsimp only at h
    split_ifs at h <;> cases h <;> exact ⟨rfl, rfl⟩
  | _ => cases h

theorem stackReg_of_pop {r : Fin 32} {v : Word} {c : Core} (h : Spec.pop s v (.kPop r) = some c) (x : State) :
    ∃ w, stackReg r x = some w := by
  unfold Spec.pop at h
  unfold stackReg
  dsimp only at h
  split_ifs at h ⊢ <;> exact ⟨_, rfl⟩

/-- An A register that has been set to another value than 0 reads back. -/
theorem tget_tset_ne_zero {t : Table Word} {i : Nat} {v : Word} (hv : v ≠ 0#32) : tget 0#32 (tset 0#32 t i v) i = v := by
  rw [tset, if_neg hv, tget_tins_same]

theorem dcacheLoad_mem (a : Nat) (x : State) : (dcacheLoad a x).mem = x.mem := by rw [dcacheLoad_frame]

/-- The second pop of RETI finds A7 where the first left it, since no access below address 0 is permitted. -/
theorem areg7_of_popped (hx : x.core = poppedCore s) (hf : accessFault false (areg s 7 - 4#32 - 4#32).toNat 4 = none) :
    areg x 7 = areg s 7 - 4#32 := by
  have h0 : areg s 7 - 4#32 ≠ 0#32 := by
    intro h0
    rw [h0] at hf
    exact absurd hf (by decide)
  have ha : areg x 7 = tget 0#32 (tset 0#32 s.core.a 7 (areg s 7 - 4#32)) 7 := by unfold areg; rw [hx]; rfl
  rw [ha, tget_tset_ne_zero h0]

/-- RETI's second pop: STAT takes the word, with its unlisted bits 0, and the PC the address popped before. -/
theorem kPop_kReti_tail {z : State} {v : Word} (hx : x.core = { s.core with shadow := false }) (hz : Alike z x)
    (hf : accessFault false (areg s 7 - 4#32 - 4#32).toNat 4 = none) (hp : Spec.plain (areg s 7 - 4#32 - 4#32).toNat)
    (hm : z.pair.mode = 0 ∨ z.pair.mode = 2) (hc : z.pair.asChk = false) (hmem : z.mem = x.mem) :
    kPop (fun st y => .ok (setPc v (setStat (statMask st) y))) (modCore (fun _ => poppedCore s) z) =
      .ok (modCore (fun _ => { s.core with
        a := tset 0#32 (tset 0#32 s.core.a 7 (areg s 7 - 4#32)) 7 (areg s 7 - 4#32 - 4#32)
        pc := v
        stat := w32 (loadVal x (areg s 7 - 4#32 - 4#32).toNat 4) &&& 0x1FBF#32
        shadow := false }) (dcacheLoad (areg s 7 - 4#32 - 4#32).toNat z)) := by
  have hy : areg (modCore (fun _ => poppedCore s) z) 7 = areg s 7 - 4#32 := areg7_of_popped rfl hf
  have hd : ∀ a, dcacheLoad a (modCore (fun _ => poppedCore s) z) = modCore (fun _ => poppedCore s) (dcacheLoad a z) :=
    fun a => dcacheLoad_modCore a (by rw [hz.core.trans hx]; rfl)
  have hpp : poppedCore (modCore (fun _ => poppedCore s) z) = { s.core with
      shadow := false, a := tset 0#32 (tset 0#32 s.core.a 7 (areg s 7 - 4#32)) 7 (areg s 7 - 4#32 - 4#32) } := by
    rw [poppedCore, hy]
    rfl
  have hmode : ∀ a, (dcacheLoad a z).pair.mode = 0 ∨ (dcacheLoad a z).pair.mode = 2 := fun a =>
    (dcacheLoad_alike a z).mode ▸ hm
  rw [kPop_ok (s := modCore (fun _ => poppedCore s) z) rfl hm hc (by rw [hy]; exact hf) (by rw [hy]; exact hp), hy, hd,
    loadVal_of_mem (y := modCore (fun _ => poppedCore s) z) hp (x := x) hmem]
  dsimp only
  rw [setStat_eq, outReg_modCore, outReg_modCore, outReg_tight (hmode _), setPc, modCore_modCore, modCore_modCore,
    modCore_modCore]
  exact congrArg KRes.ok (modCore_const (by rw [hpp]; rfl))

end

/-- Settles O7: each push stores its word at A7, each pop loads it from below. -/
theorem karpolStack : Obligations.KarpolStack := by
  refine ⟨fun s i v pc hs h hl hf hr => ?_, fun s i c hs hf hp h => ?_, fun s hs hh hf1 hp1 hf2 hp2 hv => ?_⟩
  · obtain ⟨hi, k, he, hk⟩ := push_effect (fetched_core s) h
    exact hi.trans (run_kPush hs hl hf hr he hk)
  · cases i with
    | kPop r =>
      obtain ⟨w, hw⟩ := stackReg_of_pop h (Spec.fetched s)
      have he : kPopI r (Spec.fetched s) = kPop (fun v y => .ok (kNext (setStackReg r v y))) (Spec.fetched s) := by
        rw [kPopI, hw]
      have hc := pop_core h
      exact run_kPop hs hf hp he (fun y hy hm => congrArg KRes.ok (setStackReg_effect hy hm h)) hc.1 hc.2
    | kRet =>
      by_cases ha : (w32 (loadVal (Spec.fetched s) (areg s 7 - 4#32).toNat 4)).toNat % 4 = 0
      · obtain rfl := Option.some.inj ((if_pos ha).symm.trans h)
        refine run_kPop (k := kJump) hs hf hp rfl (fun y hy _ => ?_) rfl rfl
        rw [kJump_aligned ha]
        exact congrArg KRes.ok (modCore_const (by rw [hy]; rfl))
      · cases (if_neg ha).symm.trans h
    | _ => cases h
  · have hx := fetched_core s
    have hm := fetched_mode hs
    have hc := fetched_asChk hs
    have hd := dcacheLoad_alike (areg s 7 - 4#32).toNat (Spec.fetched s)
    have hlive := core_of_kReady hs.ready
    have hal : (w32 (loadVal (Spec.fetched s) (areg s 7 - 4#32).toNat 4)).toNat % 4 = 0 := by
      rw [w32, BitVec.toNat_ofNat]
      omega
    refine run_tight (e := kReti) hs ?_ ((dcacheLoad_alike _ _).trans hd) hlive.1 hlive.2
    rw [kReti, if_pos (by rw [stat_of_core hx]; exact hh), kPop_ok hx hm hc hf1 hp1]
    dsimp only
    rw [if_neg (not_not.2 hal)]
    exact kPop_kReti_tail hx hd hf2 hp2 (hd.mode ▸ hm) (hd.asChk.trans hc) (dcacheLoad_mem _ _)

end Sys2Proof.Machine
end

section
/-! O11: exceptions of the main copy in Tight mode and Solo, their entry, and lockup (R274–R276, R280). Interrupts enter in the same
way. -/

namespace Sys2Proof.Machine

section
variable {s x : State}

/-! The entry. -/

/-- `x` behind one push of an entry. -/
def pushedOnce (x : State) (v : Word) : State :=
  modCore (fun c => { c with a := tset 0#32 c.a 7 (areg x 7 + 4#32) }) (Spec.stored (areg x 7).toNat 4 v.toNat x)

theorem entryPush_ok (hm : x.pair.mode = 0 ∨ x.pair.mode = 2) (hc : x.pair.asChk = false)
    (hf : accessFault true (areg x 7).toNat 4 = none) (hr : regionOf (areg x 7).toNat ≠ .block) (v : Word) :
    entryPush v x = some (pushedOnce x v) := by
  have hst := stored_alike (areg x 7).toNat 4 v.toNat x
  rw [entryPush, hf]
  dsimp only
  rw [putStore_memory hm hc hr, setA_tight (hst.mode ▸ hm)]
  rfl

/-- A7 behind the first push is A7 + 4, which is not 0, since no access above the last word is permitted. -/
theorem areg7_pushedOnce (hf : accessFault true (areg x 7).toNat 4 = none) (v : Word) :
    areg (pushedOnce x v) 7 = areg x 7 + 4#32 := by
  have h0 : areg x 7 + 4#32 ≠ 0#32 := by
    intro h0
    rw [show areg x 7 = 0xFFFFFFFC#32 by bv_omega] at hf
    exact absurd hf (by decide)
  exact tget_tset_ne_zero h0

/-- The core behind both pushes. -/
def entryCore (x : State) : Core :=
  { x.core with a := tset 0#32 (tset 0#32 x.core.a 7 (areg x 7 + 4#32)) 7 (areg x 7 + 4#32 + 4#32) }

theorem pushedOnce_pushedOnce (hf : accessFault true (areg x 7).toNat 4 = none) (ret : Word) :
    pushedOnce (pushedOnce x x.core.stat) ret = modCore (fun _ => entryCore x) (Spec.pushed x ret) := by
  have h1 := stored_alike (areg x 7).toNat 4 x.core.stat.toNat x
  have h2 := (stored_alike (areg x 7 + 4#32).toNat 4 ret.toNat (Spec.stored (areg x 7).toNat 4 x.core.stat.toNat x)).trans h1
  rw [pushedOnce, areg7_pushedOnce hf, pushedOnce, stored_modCore, modCore_modCore]
  exact modCore_const (by rw [h2.core]; rfl)

/-- Both pushes of an entry go to memory. -/
theorem entryPushes_ok {n : Nat} {ret : Word} (hm : x.pair.mode = 0 ∨ x.pair.mode = 2) (hc : x.pair.asChk = false)
    (h : Spec.Enters x n ret) : ∃ y, entryPush x.core.stat x = some y ∧
      entryPush ret y = some (modCore (fun _ => entryCore x) (Spec.pushed x ret)) := by
  have h1 := stored_alike (areg x 7).toNat 4 x.core.stat.toNat x
  have ha := areg7_pushedOnce h.first.1 x.core.stat
  refine ⟨_, entryPush_ok hm hc h.first.1 h.first.2 _, ?_⟩
  rw [entryPush_ok (x := pushedOnce x x.core.stat) (h1.mode ▸ hm) (h1.asChk.trans hc) (by rw [ha]; exact h.second.1)
    (by rw [ha]; exact h.second.2), pushedOnce_pushedOnce h.first.1]

theorem pushed_alike (x : State) (ret : Word) : Alike (Spec.pushed x ret) x := (stored_alike ..).trans (stored_alike ..)

theorem entered_alike (x : State) (n : Nat) (ret : Word) : Alike (Spec.entered x n ret) x :=
  (dcacheLoad_alike _ _).trans (pushed_alike x ret)

theorem entryMark_tight (hm : x.pair.mode = 0 ∨ x.pair.mode = 2) (n : Nat) (mark : Core → Core) :
    entryMark n mark x = modCore mark x := by
  have ho : outEntry n (modCore mark x) = modCore mark x := foldOut_of_mode (mode_ne_of_tight hm).1
  have hm' : (modCore mark x).pair.mode = 0 ∨ (modCore mark x).pair.mode = 2 := hm
  unfold entryMark
  rw [ho]
  split
  · dsimp only
    rw [outReg_tight hm', outReg_tight hm', outReg_tight hm']
  · dsimp only
    rw [outReg_tight hm']

theorem entryVector_ok (hm : x.pair.mode = 0 ∨ x.pair.mode = 2) (hc : x.pair.asChk = false) {n : Nat} {a : Nat}
    (ha : (x.core.vbase + w32 (4 * n)).toNat = a) (hf : accessFault false a 4 = none) (hp : Spec.plain a)
    (hh : fetchFault (w32 (loadVal x a 4)).toNat = none) :
    entryVector n x = setPc (w32 (loadVal x a 4)) (dcacheLoad a x) := by
  unfold entryVector
  extract_lets b
  have hb : b = a := ha
  clear_value b
  subst hb
  rw [hf]
  dsimp only
  rw [takeLoad_tight hm hc, loadEffect_plain hp]
  dsimp only
  rw [hh]

/-- An entry that finds its way, where step 2 leaves VBASE and CCTL as they are (R276). -/
theorem kEnter_ok {n : Nat} {ret : Word} {mark : Core → Core} (hm : x.pair.mode = 0 ∨ x.pair.mode = 2)
    (hc : x.pair.asChk = false) (h : Spec.Enters x n ret) (hv : (mark (entryCore x)).vbase = x.core.vbase)
    (hcc : (mark (entryCore x)).cctl = x.core.cctl) : kEnter n ret mark x =
      modCore (fun _ => { mark (entryCore x) with pc := Spec.handler x n ret }) (Spec.entered x n ret) := by
  have hp := pushed_alike x ret
  obtain ⟨y, hy, hz⟩ := entryPushes_ok hm hc h
  have hl : loadVal (modCore (fun _ => mark (entryCore x)) (Spec.pushed x ret)) (x.core.vbase + w32 (4 * n)).toNat 4 =
      loadVal (Spec.pushed x ret) (x.core.vbase + w32 (4 * n)).toNat 4 :=
    loadVal_of_mem (y := modCore (fun _ => mark (entryCore x)) (Spec.pushed x ret)) (x := Spec.pushed x ret) h.vector.2
      (modCore_mem ..) 4
  have hcc' : (mark (entryCore x)).cctl = (Spec.pushed x ret).core.cctl := by rw [hcc, hp.core]
  have hd : dcacheLoad (x.core.vbase + w32 (4 * n)).toNat (modCore (fun _ => mark (entryCore x)) (Spec.pushed x ret)) =
      modCore (fun _ => mark (entryCore x)) (Spec.entered x n ret) :=
    dcacheLoad_modCore (x := Spec.pushed x ret) (f := fun _ => mark (entryCore x)) _ hcc'
  have hvec : entryVector n (modCore (fun _ => mark (entryCore x)) (Spec.pushed x ret)) =
      setPc (Spec.handler x n ret) (modCore (fun _ => mark (entryCore x)) (Spec.entered x n ret)) := by
    rw [entryVector_ok (x := modCore (fun _ => mark (entryCore x)) (Spec.pushed x ret)) (hp.mode ▸ hm) (hp.asChk.trans hc)
      (congrArg (fun v => (v + w32 (4 * n)).toNat) hv) h.vector.1 h.vector.2 (by rw [hl]; exact h.code), hl, hd]
    rfl
  rw [kEnter, hy]
  dsimp only
  rw [hz]
  dsimp only
  rw [entryMark_tight (x := modCore (fun _ => entryCore x) (Spec.pushed x ret)) (hp.mode ▸ hm), modCore_modCore, hvec]
  rfl

/-! Exceptions. -/

/-- As `boundary_tight`, for every end of an instruction that asks for nothing at the boundary. -/
theorem boundary_tight_exc {k : KEnd} (hk : k = .retired ∨ k = .faulted) (hh : x.clk.held = false)
    (hw : x.core.waiting = false) (hl : x.core.lockup = false) (hm : x.pair.mode = 0 ∨ x.pair.mode = 2) :
    boundary (x, k) = Spec.retired x x.core := by
  obtain rfl | rfl := hk
  · exact boundary_tight hh hw hl hm
  · obtain ⟨h1, h3⟩ := mode_ne_of_tight hm
    have hr : kRetire (x, .faulted) = Spec.retired x x.core := by
      unfold kRetire
      dsimp only
      rw [if_neg (by simp [hh]), if_neg (by simp [hw, hl]), if_neg h1, if_neg h3]
      rfl
    have hheld : ¬(Spec.retired x x.core).clk.held = true := by simp [Spec.retired, hh]
    rw [boundary, hr, if_neg hheld]
    exact chkRun_tight hm

/-- A locked-up core stays as it stands at the boundary. -/
theorem boundary_lockup {k : KEnd} (hk : k = .retired ∨ k = .faulted) (hh : x.clk.held = false) (hl : x.core.lockup = true)
    (hm : x.pair.mode = 0 ∨ x.pair.mode = 2) : boundary (x, k) = x := by
  rw [boundary, kRetire_lockup hh hl, if_neg (by simp [hh])]
  obtain rfl | rfl := hk <;> exact chkRun_tight hm

/-- How an instruction ends that raises exception `n`. -/
def excEnd (n : Nat) : KEnd := if n = 4 ∨ n = 5 then .retired else .faulted

theorem excEnd_cases (n : Nat) : excEnd n = .retired ∨ excEnd n = .faulted := by
  unfold excEnd
  split
  · exact .inl rfl
  · exact .inr rfl

theorem kRun_exc {e : State → KRes} {n d : Nat} {a : Word} (h : Spec.Runs s) (he : e (Spec.fetched s) = .exc n d a) :
    live s (kRun e) = boundary (kExcept n d a (Spec.fetched s), excEnd n) := by
  have hf := fetch_tight h
  have hi := kIssue_exc (s := modPair (fun p => { p with skip := false }) s) h.fetch ((congrArg e hf).trans he)
  rw [live_run _ h.held, kRun_tight e h, hi]
  exact congrArg (fun y => boundary (kExcept n d a y, excEnd n)) hf

theorem excReturn_of_core (hx : x.core = { s.core with shadow := false }) (n : Nat) : excReturn n x = Spec.returns s n := by
  rw [excReturn, nextPc_of_core hx, hx]
  rfl

/-- An exception whose entry finds its way. -/
theorem run_exc {e : State → KRes} {n d : Nat} {a : Word} (h : Spec.Runs s) (he : e (Spec.fetched s) = .exc n d a)
    (hE : Spec.Enters (Spec.fetched s) n (Spec.returns s n)) : done (live s (kRun e)) =
      .next (Spec.retired (Spec.entered (Spec.fetched s) n (Spec.returns s n)) (Spec.trapped s n d a)) := by
  have hx := fetched_core s
  have hy := (entered_alike (Spec.fetched s) n (Spec.returns s n)).trans (fetched_alike s)
  have hc := core_of_kReady h.ready
  have hcore : ({ markExc n d a (entryCore (Spec.fetched s)) with
      pc := Spec.handler (Spec.fetched s) n (Spec.returns s n) } : Core) = Spec.trapped s n d a := by
    unfold entryCore
    rw [areg_of_core hx, hx]
    rfl
  have hex : kExcept n d a (Spec.fetched s) = modCore (fun _ => Spec.trapped s n d a)
      (Spec.entered (Spec.fetched s) n (Spec.returns s n)) := by
    rw [kExcept, excReturn_of_core hx, kEnter_ok (fetched_mode h) (fetched_asChk h) hE rfl rfl, hcore]
  have hb : boundary (modCore (fun _ => Spec.trapped s n d a) (Spec.entered (Spec.fetched s) n (Spec.returns s n)), excEnd n) =
      Spec.retired (Spec.entered (Spec.fetched s) n (Spec.returns s n)) (Spec.trapped s n d a) :=
    boundary_tight_exc (excEnd_cases n) (congrArg Clk.held hy.clk ▸ h.held) hc.1 hc.2 (hy.mode ▸ h.mode)
  rw [kRun_exc h he, hex, hb]
  exact done_next (hy.undef.trans h.undef)

/-- An exception whose first push is a BUSERR. -/
theorem run_exc_lockup {e : State → KRes} {n d : Nat} {a : Word} (h : Spec.Runs s)
    (he : e (Spec.fetched s) = .exc n d a) (hf : accessFault true (areg s 7).toNat 4 ≠ none) :
    done (live s (kRun e)) = .next { Spec.fetched s with core := { s.core with shadow := false, lockup := true } } := by
  have hx := fetched_core s
  have hy := fetched_alike s
  have hl : kLockup (Spec.fetched s) = { Spec.fetched s with core := { s.core with shadow := false, lockup := true } } :=
    modCore_const (by rw [hx])
  have hex : kExcept n d a (Spec.fetched s) = kLockup (Spec.fetched s) := by
    obtain ⟨k, hk⟩ := Option.ne_none_iff_exists'.1 hf
    rw [kExcept, kEnter, entryPush, areg_of_core hx, hk]
  have hb : boundary (kLockup (Spec.fetched s), excEnd n) = kLockup (Spec.fetched s) :=
    boundary_lockup (x := kLockup (Spec.fetched s)) (excEnd_cases n) (congrArg Clk.held hy.clk ▸ h.held) rfl (fetched_mode h)
  rw [kRun_exc h he, hex, hb, ← hl]
  exact done_next (hy.undef.trans h.undef)

/-! What raises an exception. -/

theorem pc_of_core (hx : x.core = { s.core with shadow := false }) : x.core.pc = s.core.pc := by rw [hx]

theorem kUndef_of_core (hx : x.core = { s.core with shadow := false }) : kUndef x = .exc 1 0 s.core.pc := by
  unfold kUndef; rw [hx]

/-- The exception of a load or store (R261, R262, R264): a mode that does not exist, or an access that is not permitted. -/
def accessTrap (write : Bool) (m : AMode) (n : Nat) (s : State) : Option (Nat × Nat × Word) :=
  match eaOf m n s with
  | none => some (1, 0, s.core.pc)
  | some (ea, _) => (accessFault write ea.toNat n).map fun d => (2, d, ea)

theorem kLoadTo_exc (hx : x.core = { s.core with shadow := false }) {m : AMode} {n : Nat} {t : Nat × Nat × Word}
    (h : accessTrap false m n s = some t) (met : LoadMet) (put : Word → State → State) :
    kLoadTo m n met put x = .exc t.1 t.2.1 t.2.2 := by
  unfold accessTrap at h
  rw [kLoadTo, eaOf_of_core hx]
  cases hea : eaOf m n s with
  | none =>
    rw [hea] at h
    cases h
    exact kUndef_of_core hx
  | some p =>
    rw [hea] at h
    obtain ⟨d, hd, rfl⟩ := Option.map_eq_some_iff.1 h
    dsimp only
    rw [kLoad, hd]

theorem kStoreFrom_exc (hx : x.core = { s.core with shadow := false }) {m : AMode} {n : Nat} {t : Nat × Nat × Word}
    (h : accessTrap true m n s = some t) (v : Word) : kStoreFrom m n v x = .exc t.1 t.2.1 t.2.2 := by
  unfold accessTrap at h
  rw [kStoreFrom, eaOf_of_core hx]
  cases hea : eaOf m n s with
  | none =>
    rw [hea] at h
    cases h
    exact kUndef_of_core hx
  | some p =>
    rw [hea] at h
    obtain ⟨d, hd, rfl⟩ := Option.map_eq_some_iff.1 h
    dsimp only
    rw [kStore, hd]

theorem crRead_none {cr : Nat} (h : 7 < cr) (c : Core) : crRead cr c = none := by
  unfold crRead
  split
  case h_9 => rfl
  all_goals omega

theorem stackReg_none {r : Fin 32} (h : 25 < r.val) (x : State) : stackReg r x = none := by
  rw [stackReg, if_neg (by omega), if_neg (by omega), if_neg (by omega), if_neg (by omega)]

theorem stackReg_some {r : Fin 32} (h : ¬25 < r.val) (x : State) : ∃ v, stackReg r x = some v := by
  unfold stackReg
  have hr : r.val < 16 ∨ (¬r.val < 16 ∧ r.val < 24) ∨ r.val = 24 ∨ r.val = 25 := by omega
  rcases hr with h | ⟨h, h'⟩ | h | h <;> simp [*]

theorem kPush_exc (hx : x.core = { s.core with shadow := false }) (h : s.core.stklim.toNat < (areg s 7).toNat + 4) (v : Word)
    (k : State → KRes) : kPush v k x = .exc 3 0 s.core.pc := by
  rw [kPush, areg_of_core hx, hx]
  exact if_pos h

theorem kJump_exc {a : Word} (h : ¬a.toNat % 4 = 0) (x : State) : kJump a x = .exc 2 1 a := if_pos h

theorem fetched_brk (s : State) : (Spec.fetched s).pair.brk = s.pair.brk := by
  rw [Spec.fetched, icacheFill_frame]; rfl

/-- Every exception of Table 13-13a, by the instruction that raises it. -/
theorem trap_effect (hs : Spec.Runs s) {i : Instr} {n d : Nat} {a : Word} (h : Spec.trap s i = some (n, d, a)) :
    exec i s = done (live s (kRun (kEffect i))) ∧ kEffect i (Spec.fetched s) = .exc n d a := by
  have hx := fetched_core s
  have hundef := kUndef_of_core hx
  cases i with
  | kTrap imm =>
    cases h
    exact ⟨rfl, congrArg (KRes.exc 4 imm.toNat) (pc_of_core hx)⟩
  | kBrk =>
    by_cases hb : s.pair.brk = true
    · cases (if_pos hb).symm.trans h
    · cases (if_neg hb).symm.trans h
      refine ⟨rfl, ?_⟩
      change kBrk (Spec.fetched s) = _
      rw [kBrk, if_neg (mode_ne_of_tight (fetched_mode hs)).2, fetched_brk, if_neg hb, hx]
  | kBcc cond disp =>
    by_cases hc : cond.val = 15
    · cases (if_pos hc).symm.trans h
      exact ⟨rfl, (if_pos hc).trans hundef⟩
    · cases (if_neg hc).symm.trans h
  | kWrac ac r sh =>
    by_cases hc : 24 < sh.val
    · cases (if_pos hc).symm.trans h
      exact ⟨rfl, (if_pos hc).trans hundef⟩
    · cases (if_neg hc).symm.trans h
  | kMfc dd cr =>
    by_cases hc : 7 < cr.toNat
    · cases (if_pos hc).symm.trans h
      refine ⟨rfl, ?_⟩
      change kMfc dd cr (Spec.fetched s) = _
      rw [kMfc, crRead_none hc]
      exact hundef
    · cases (if_neg hc).symm.trans h
  | kMtc cr r =>
    by_cases hc : 7 < cr.toNat
    · cases (if_pos hc).symm.trans h
      refine ⟨rfl, ?_⟩
      change kMtc cr r (Spec.fetched s) = _
      rw [kMtc, crRead_none hc]
      exact hundef
    · cases (if_neg hc).symm.trans h
  | kPush r =>
    by_cases hr : 25 < r.val
    · cases (if_pos hr).symm.trans h
      refine ⟨rfl, ?_⟩
      change kPushI r (Spec.fetched s) = _
      rw [kPushI, stackReg_none hr]
      exact hundef
    · have h' := (if_neg hr).symm.trans h
      by_cases hl : s.core.stklim.toNat < (areg s 7).toNat + 4
      · cases (if_pos hl).symm.trans h'
        obtain ⟨v, hv⟩ := stackReg_some hr (Spec.fetched s)
        refine ⟨rfl, ?_⟩
        change kPushI r (Spec.fetched s) = _
        rw [kPushI, hv]
        exact kPush_exc hx hl _ _
      · cases (if_neg hl).symm.trans h'
  | kPop r =>
    by_cases hr : 25 < r.val
    · cases (if_pos hr).symm.trans h
      refine ⟨rfl, ?_⟩
      change kPopI r (Spec.fetched s) = _
      rw [kPopI, stackReg_none hr]
      exact hundef
    · cases (if_neg hr).symm.trans h
  | kCall disp =>
    by_cases hl : s.core.stklim.toNat < (areg s 7).toNat + 4
    · cases (if_pos hl).symm.trans h
      refine ⟨rfl, ?_⟩
      change kCall disp (Spec.fetched s) = _
      exact kPush_exc hx hl _ _
    · cases (if_neg hl).symm.trans h
  | kCallr an =>
    by_cases hl : s.core.stklim.toNat < (areg s 7).toNat + 4
    · cases (if_pos hl).symm.trans h
      refine ⟨rfl, ?_⟩
      change kCallr an (Spec.fetched s) = _
      exact kPush_exc hx hl _ _
    · cases (if_neg hl).symm.trans h
  | kReti =>
    by_cases hh : wbit s.core.stat 12 = true
    · cases (if_pos hh).symm.trans h
    · cases (if_neg hh).symm.trans h
      refine ⟨rfl, ?_⟩
      change kReti (Spec.fetched s) = _
      rw [kReti, stat_of_core hx]
      exact (if_neg hh).trans hundef
  | kJmp an | kBalr an =>
    by_cases ha : (areg s an).toNat % 4 = 0
    · cases (if_pos ha).symm.trans h
    · cases (if_neg ha).symm.trans h
      refine ⟨rfl, ?_⟩
      rw [← areg_of_core hx] at ha ⊢
      exact kJump_exc ha _
  | kJlk =>
    by_cases ha : s.core.lk.toNat % 4 = 0
    · cases (if_pos ha).symm.trans h
    · cases (if_neg ha).symm.trans h
      refine ⟨rfl, ?_⟩
      change kJlk (Spec.fetched s) = _
      rw [kJlk, hx]
      exact kJump_exc ha _
  | kLdW dt ea met | kLdH dt ea met | kLdHu dt ea met | kLdB dt ea met | kLdBu dt ea met | kLda ar ea met =>
    exact ⟨rfl, kLoadTo_exc hx h _ _⟩
  | kStW dt ea | kStH dt ea | kStB dt ea | kSta ar ea => exact ⟨rfl, kStoreFrom_exc hx h _⟩
  | _ => cases h

end

/-- Settles O11: each exception, then its entry, or lockup where the first push fails. -/
theorem karpolTraps : Obligations.KarpolTraps := by
  refine ⟨fun s i n d a hs h hE => ?_, fun s i n d a hs h hf => ?_⟩
  · obtain ⟨hi, he⟩ := trap_effect hs h
    exact hi.trans (run_exc hs he hE)
  · obtain ⟨hi, he⟩ := trap_effect hs h
    exact hi.trans (run_exc_lockup hs he hf)

end Sys2Proof.Machine
end

section
/-! O10: WAIT, BRK in Break mode, CHKPT, control registers and the invalidation of the I-cache, of the main copy in Tight mode and
Solo. -/

namespace Sys2Proof.Machine

section
variable {s x : State}

/-! WAIT (R29, R278). -/

/-- `x` has the pair and the core of `y`, and neither a reset nor an undefined pin function parts them. -/
structure Steady (x y : State) : Prop where
  held : x.clk.held = y.clk.held
  undef : x.undef = y.undef
  core : x.core = y.core
  pair : x.pair = y.pair

theorem Steady.trans {x y z : State} (h : Steady x y) (g : Steady y z) : Steady x z :=
  ⟨h.held.trans g.held, h.undef.trans g.undef, h.core.trans g.core, h.pair.trans g.pair⟩

theorem rasterOff_steady (x : State) : Steady (rasterOff x) x := by
  unfold rasterOff
  extract_lets y
  split <;> exact ⟨rfl, rfl, rfl, rfl⟩

theorem audioStop_steady (x : State) : Steady (audioStop x) x := ⟨rfl, rfl, rfl, rfl⟩

theorem pxdivApply_steady (x : State) : Steady (pxdivApply x) x := by
  unfold pxdivApply
  split <;> exact ⟨rfl, rfl, rfl, rfl⟩

/-- Entering NAP stops clocks and pads; the core and the pair stay. -/
theorem napSettle_steady (x : State) : Steady (napSettle x) x := by
  unfold napSettle
  extract_lets y
  split
  · have hy : Steady (modClk (fun c => { c with pstate := .nap }) y) x := by
      unfold y
      split <;> exact ⟨rfl, rfl, rfl, rfl⟩
    exact (rasterOff_steady _).trans ((audioStop_steady _).trans ((pxdivApply_steady _).trans hy))
  · exact ⟨rfl, rfl, rfl, rfl⟩

/-- A waiting core has not retired its WAIT. -/
theorem boundary_waiting (hh : x.clk.held = false) (hw : x.core.waiting = true) (hm : x.pair.mode = 0 ∨ x.pair.mode = 2) :
    boundary (x, .retired) = x := by
  have hr : kRetire (x, .retired) = x := by
    unfold kRetire
    rw [if_neg (by simp [hh]), if_pos (by simp [hw])]
  rw [boundary, hr, if_neg (by simp [hh])]
  exact chkRun_tight hm

theorem run_waiting {e : State → KRes} {y : State} (h : Spec.Runs s) (he : e (Spec.fetched s) = .ok y)
    (hy : Steady y (modCore (fun c => { c with waiting := true }) (Spec.fetched s))) :
    done (live s (kRun e)) = .next y := by
  have hf := fetched_alike s
  have hheld : y.clk.held = false := hy.held.trans (congrArg Clk.held hf.clk ▸ h.held)
  have hm : y.pair.mode = 0 ∨ y.pair.mode = 2 := by rw [hy.pair]; exact fetched_mode h
  rw [live_run _ h.held, kRun_tight e h, kIssue_tight_ok h he, boundary_waiting hheld (by rw [hy.core]; rfl) hm]
  exact done_next (hy.undef.trans (hf.undef.trans h.undef))

theorem outWait_tight (hm : x.pair.mode = 0 ∨ x.pair.mode = 2) : outWait x = x := foldOut_of_mode (mode_ne_of_tight hm).1

theorem kWait_waits (hm : x.pair.mode = 0 ∨ x.pair.mode = 2) (hc : x.pair.asChk = false) (hp : sentinelPending x = false) :
    kWait x = .ok (napSettle (modCore (fun c => { c with waiting := true }) x)) := by
  rw [kWait, outWait_tight hm, if_neg (by simp [hc]), if_neg (by simp [hp])]

theorem kWait_completes (hm : x.pair.mode = 0 ∨ x.pair.mode = 2) (hc : x.pair.asChk = false)
    (hp : sentinelPending x = true) : kWait x = .ok (waitDone x) := by
  rw [kWait, outWait_tight hm, if_neg (by simp [hc]), if_pos hp]

theorem modCore_awake (h : x.core.waiting = false) : modCore (fun c => { c with waiting := false }) x = x := by
  have hc : ({ x.core with waiting := false } : Core) = x.core := by rw [← h]
  exact congrArg (fun c => { x with core := c }) hc

/-- A WAIT with nothing to take ends in the instruction behind it. -/
theorem waitDone_tight (hm : x.pair.mode = 0 ∨ x.pair.mode = 2) (hn : x.clk.pstate ≠ .nap)
    (hi : irqDue (modCore (fun c => { c with waiting := true }) x) = none) :
    waitDone x = kNext (modCore (fun c => { c with waiting := false }) x) := by
  rw [waitDone, hi, napExit, if_neg hn, record_tight hm]

/-! BRK and CHKPT. -/

theorem haltPair_tight (hm : x.pair.mode = 0 ∨ x.pair.mode = 2) : haltPair wordEffect x = kHalt x :=
  if_neg (mode_ne_of_tight hm).1

theorem kBrk_halts (hm : x.pair.mode = 0 ∨ x.pair.mode = 2) (hc : x.pair.asChk = false) (hb : x.pair.brk = true) :
    kBrk x = .halt (kNext x) := by
  rw [kBrk, if_neg (mode_ne_of_tight hm).2, if_pos hb, if_neg (by simp [hc])]

theorem outChkpt_tight (hm : x.pair.mode = 0 ∨ x.pair.mode = 2) : outChkpt x = x := foldOut_of_mode (mode_ne_of_tight hm).1

/-- In Solo, or in Tight mode with no request, CHKPT does nothing (R292, R299). -/
theorem kChkpt_none (hm : x.pair.mode = 0 ∨ x.pair.mode = 2) (hc : x.pair.asChk = false)
    (h : x.pair.mode = 2 ∨ rbit x pairCtrl 0 = false) : kChkpt x = .ok (kNext x) := by
  rw [kChkpt, outChkpt_tight hm]
  by_cases h2 : x.pair.mode = 2
  · rw [if_pos (by simp [solo, h2])]
  · have hr : rbit x pairCtrl 0 = false := h.resolve_left h2
    rw [if_neg (by simp [solo, h2, hc]), if_neg (mode_ne_of_tight hm).1, if_neg (by simp [hr])]

/-- In Tight mode a request for Loose mode opens the first interval (R292). -/
theorem kChkpt_opens (hm : x.pair.mode = 0) (hc : x.pair.asChk = false) (hr : rbit x pairCtrl 0 = true) :
    kChkpt x = .opened (openLoose (kNext x)) := by
  rw [kChkpt, outChkpt_tight (.inl hm)]
  rw [if_neg (by simp [solo, hm, hc]), if_neg (by simp [hm]), if_pos ⟨hm, hr⟩]

theorem fetched_rbit (s : State) (a i : Nat) : rbit (Spec.fetched s) a i = rbit s a i := by
  rw [Spec.fetched, icacheFill_frame]; rfl

theorem fetched_pstate (s : State) : (Spec.fetched s).clk.pstate = s.clk.pstate := congrArg Clk.pstate (fetched_alike s).clk

/-! How BRK and CHKPT end an instruction. -/

theorem kIssue_halt {e : State → KRes} {y : State} (hf : fetchFault s.core.pc.toNat = none)
    (hx : e (icacheFill s.core.pc.toNat (outFetch s.core.pc (modCore (fun c => { c with shadow := false }) s))) = .halt y) :
    kIssue e s = (y, .halt) := by
  unfold kIssue
  extract_lets s1 pc s2
  have hp : pc = s.core.pc := fetched_pc s
  have h1 : fetchFault pc.toNat = none := hp ▸ hf
  have h2 : e s2 = .halt y := by rw [← hx]; exact congrArg (fun w => e (icacheFill (BitVec.toNat w) s1)) hp
  rw [h1]
  dsimp only
  rw [h2]

theorem kIssue_opened {e : State → KRes} {y : State} (hf : fetchFault s.core.pc.toNat = none)
    (hx : e (icacheFill s.core.pc.toNat (outFetch s.core.pc (modCore (fun c => { c with shadow := false }) s))) = .opened y) :
    kIssue e s = (y, .opened) := by
  unfold kIssue
  extract_lets s1 pc s2
  have hp : pc = s.core.pc := fetched_pc s
  have h1 : fetchFault pc.toNat = none := hp ▸ hf
  have h2 : e s2 = .opened y := by rw [← hx]; exact congrArg (fun w => e (icacheFill (BitVec.toNat w) s1)) hp
  rw [h1]
  dsimp only
  rw [h2]

/-- A halt asked for by the instruction follows its commit. -/
theorem boundary_halt (hh : x.clk.held = false) (hw : x.core.waiting = false) (hl : x.core.lockup = false)
    (hm : x.pair.mode = 0 ∨ x.pair.mode = 2) : boundary (x, .halt) = kHalt (Spec.retired x x.core) := by
  obtain ⟨h1, h3⟩ := mode_ne_of_tight hm
  have hr : kRetire (x, .halt) = Spec.retired x x.core := by
    unfold kRetire
    dsimp only
    rw [if_neg (by simp [hh]), if_neg (by simp [hw, hl]), if_neg h1, if_neg h3]
    rfl
  have hheld : ¬(Spec.retired x x.core).clk.held = true := by simp [Spec.retired, hh]
  rw [boundary, hr, if_neg hheld]
  exact haltPair_tight (x := Spec.retired x x.core) hm

theorem kHalt_undef (x : State) : (kHalt x).undef = x.undef := rfl

theorem run_halt {e : State → KRes} {c : Core} (h : Spec.Runs s)
    (he : e (Spec.fetched s) = .halt (modCore (fun _ => c) (Spec.fetched s))) (hw : c.waiting = false)
    (hl : c.lockup = false) : done (live s (kRun e)) = .next (kHalt (Spec.retired (Spec.fetched s) c)) := by
  have hf := fetched_alike s
  have hi := kIssue_halt (s := modPair (fun p => { p with skip := false }) s) h.fetch ((congrArg e (fetch_tight h)).trans he)
  have hb : boundary (modCore (fun _ => c) (Spec.fetched s), .halt) = kHalt (Spec.retired (Spec.fetched s) c) :=
    boundary_halt (x := modCore (fun _ => c) (Spec.fetched s)) (congrArg Clk.held hf.clk ▸ h.held) hw hl (fetched_mode h)
  rw [live_run _ h.held, kRun_tight e h, hi, hb]
  exact done_next ((kHalt_undef _).trans (hf.undef.trans h.undef))

/-- The checker has nothing to execute in the interval that an instruction opened. -/
theorem boundary_opened (hh : x.clk.held = false) (hm : x.pair.mode = 1) (hl : x.pair.lag = 0) (hq : x.pair.queue = []) :
    boundary (x, .opened) = freeNext x := by
  have hr : kRetire (x, .opened) = x := by
    unfold kRetire
    rw [if_neg (by simp [hh]), if_pos (by simp)]
  rw [boundary, hr, if_neg (by simp [hh])]
  dsimp only
  rw [chkRun, if_neg (by omega), if_pos hm, hl, hq, Nat.zero_add, Nat.mod_one]
  rfl

theorem run_opened {e : State → KRes} {y : State} (h : Spec.Runs s) (he : e (Spec.fetched s) = .opened (openLoose y))
    (hc : y.clk = (Spec.fetched s).clk) (hu : y.undef = (Spec.fetched s).undef) :
    done (live s (kRun e)) = .next (freeNext (openLoose y)) := by
  have hf := fetched_alike s
  have hi := kIssue_opened (s := modPair (fun p => { p with skip := false }) s) h.fetch ((congrArg e (fetch_tight h)).trans he)
  have hb : boundary (openLoose y, .opened) = freeNext (openLoose y) :=
    boundary_opened (x := openLoose y) ((congrArg Clk.held (hc.trans hf.clk)).trans h.held) rfl rfl rfl
  rw [live_run _ h.held, kRun_tight e h, hi, hb]
  exact done_next ((hu.trans hf.undef).trans h.undef)

/-! Control registers (Table 13-13). -/

theorem crRead_eq_control (cr : Nat) (c : Core) : crRead cr c = Spec.control c cr := rfl

/-- The control registers that exist. -/
theorem control_isSome {cr : Nat} (h : cr ≤ 7) (c : Core) : ∃ v, Spec.control c cr = some v := by
  interval_cases cr <;> exact ⟨_, rfl⟩

/-- A control register has the value it had before the fetch. -/
theorem control_of_core (hx : x.core = { s.core with shadow := false }) (cr : Nat) :
    Spec.control x.core cr = Spec.control s.core cr := by
  rw [hx]; rfl

/-- MFC of CYCLE latches CYCLEH. -/
theorem kMfc_cycle (hm : x.pair.mode = 0 ∨ x.pair.mode = 2) (hc : x.pair.asChk = false)
    (hx : x.core = { s.core with shadow := false }) (dd : Fin 16) : kMfc dd 5#8 x =
      .ok (modCore (fun _ => { Spec.nextD s dd (w32 s.core.cycle) with cycleh := w32 (s.core.cycle / 2 ^ 32) }) x) := by
  have hm' : (modCore (fun c => { c with cycleh := w32 (x.core.cycle / 2 ^ 32) }) x).pair.mode = 0 ∨
      (modCore (fun c => { c with cycleh := w32 (x.core.cycle / 2 ^ 32) }) x).pair.mode = 2 := hm
  have h5 : crRead (5#8 : Byte).toNat x.core = some (w32 x.core.cycle) := rfl
  rw [kMfc, h5]
  dsimp only
  rw [if_pos rfl, kTake_tight hm hc]
  dsimp only [id]
  rw [kTake_tight hm hc]
  dsimp only [id]
  rw [outReg_tight hm', setD_tight hm', modCore_modCore, kNext_eq, modCore_modCore]
  exact congrArg KRes.ok (modCore_const (by rw [hx]; rfl))

theorem kMfc_plain (hm : x.pair.mode = 0 ∨ x.pair.mode = 2) (hx : x.core = { s.core with shadow := false })
    {cr : Byte} (hcr : cr ≠ 5#8) {v : Word} (hv : Spec.control s.core cr.toNat = some v) (dd : Fin 16) :
    kMfc dd cr x = .ok (modCore (fun _ => Spec.nextD s dd v) x) := by
  rw [kMfc, crRead_eq_control, control_of_core hx, hv]
  dsimp only
  rw [if_neg hcr, setD_tight hm, kNext_eq, modCore_modCore]
  exact congrArg KRes.ok (modCore_const (by rw [hx]; rfl))

theorem crWrite_tight (hm : x.pair.mode = 0 ∨ x.pair.mode = 2) (hx : x.core = { s.core with shadow := false }) {cr : Nat}
    (hcr : cr ≤ 6) (v : Word) : kNext (crWrite cr v x) = modCore (fun _ => Spec.controlled s cr v) x := by
  interval_cases cr
  · change kNext (loadStat v x) = _
    rw [kNext_eq, loadStat_eq, outReg_tight hm, modCore_modCore]
    exact modCore_const (by rw [hx]; rfl)
  · change kNext (outReg 33 _ _) = _
    rw [kNext_eq, outReg_modCore, outReg_tight hm, modCore_modCore]
    exact modCore_const (by rw [hx]; rfl)
  · change kNext (outReg 34 _ _) = _
    rw [kNext_eq, outReg_modCore, outReg_tight hm, modCore_modCore]
    exact modCore_const (by rw [hx]; rfl)
  all_goals exact kNext_effect hx

/-- MTC neither waits nor locks the core up. -/
theorem controlled_waiting (s : State) (cr : Nat) (v : Word) :
    (Spec.controlled s cr v).waiting = s.core.waiting ∧ (Spec.controlled s cr v).lockup = s.core.lockup := by
  unfold Spec.controlled
  split <;> exact ⟨rfl, rfl⟩

theorem kMtc_ok {cr : Byte} (hcr : cr.toNat ≤ 7) (a : Fin 16) (x : State) :
    kMtc cr a x = .ok (kNext (crWrite cr.toNat (dreg x a) x)) := by
  obtain ⟨v, hv⟩ := control_isSome hcr x.core
  rw [kMtc, crRead_eq_control, hv]

/-- `x` with the caches that a write of CCTL leaves. -/
def cachesKept (s : State) (v : Word) (x : State) : State :=
  { x with pair := { x.pair with
      icache := if wbit v 0 && wbit s.core.cctl 0 then x.pair.icache else []
      dcache := if wbit v 1 && wbit s.core.cctl 1 then s.pair.dcache else [] } }

theorem cctlWrite_tight (hm : x.pair.mode = 0 ∨ x.pair.mode = 2) (hc : x.pair.asChk = false)
    (hx : x.core = { s.core with shadow := false }) (hd : x.pair.dcache = s.pair.dcache) (v : Word) :
    kNext (crWrite 7 v x) = modCore (fun _ => Spec.controlled s 7 v) (cachesKept s v x) := by
  have hcw : cctlWrite v x = modCore (fun c => { c with cctl := v &&& 3#32 }) (cachesKept s v x) := by
    have hi : (if wbit v 0 && wbit x.core.cctl 0 then x.pair.icache else []) =
        if wbit v 0 && wbit s.core.cctl 0 then x.pair.icache else [] := by rw [hx]
    have hd' : (if wbit v 1 && wbit x.core.cctl 1 || x.pair.asChk then x.pair.dcache else []) =
        if wbit v 1 && wbit s.core.cctl 1 then s.pair.dcache else [] := by rw [hx, hc, hd, Bool.or_false]
    exact congrArg₂ (fun i d => { x with
      core := { x.core with cctl := v &&& 3#32 }, pair := { x.pair with icache := i, dcache := d } }) hi hd'
  change kNext (outReg 39 _ (cctlWrite v x)) = _
  rw [hcw, outReg_modCore, outReg_tight (x := cachesKept s v x) hm, kNext_eq, modCore_modCore]
  exact modCore_const (x := cachesKept s v x) (by rw [show (cachesKept s v x).core = x.core from rfl, hx]; rfl)

/-- An instruction that only writes the pair's caches. -/
theorem kNext_modPair (hx : x.core = { s.core with shadow := false }) (f : Pair → Pair) :
    kNext (modPair f x) = modCore (fun _ => Spec.next s) (modPair f x) :=
  kNext_effect (x := modPair f x) hx

theorem fetched_dcache (s : State) : (Spec.fetched s).pair.dcache = s.pair.dcache := by
  rw [Spec.fetched, icacheFill_frame]; rfl

end

/-- Settles O10: each instruction's effect on the fetched state, and the boundary behind it. -/
theorem karpolSystem : Obligations.KarpolSystem := by
  intro s hs
  have hx := fetched_core s
  have hm := fetched_mode hs
  have hc := fetched_asChk hs
  refine ⟨fun hp => ?_, fun hp hn hi => ?_, fun hb => ?_, fun h => ?_, fun h0 hr => ?_, fun dd cr v hv => ?_,
    fun cr a hcr => ?_, fun a => ?_, ?_, fun an => ?_⟩
  · have hw : modCore (fun c => { c with waiting := true }) (Spec.fetched s) =
        { Spec.fetched s with core := { s.core with waiting := true, shadow := false } } := modCore_const (by rw [hx])
    rw [← hw]
    exact run_waiting hs (kWait_waits hm hc hp) (napSettle_steady _)
  · have hw : modCore (fun c => { c with waiting := true }) (Spec.fetched s) =
        { Spec.fetched s with core := { s.core with waiting := true, shadow := false } } := modCore_const (by rw [hx])
    have hk : kWait (Spec.fetched s) = .ok (modCore (fun _ => Spec.next s) (Spec.fetched s)) := by
      rw [kWait_completes hm hc hp, waitDone_tight hm (by rwa [fetched_pstate]) (by rwa [hw]),
        modCore_awake (by rw [hx]; exact (core_of_kReady hs.ready).1), kNext_effect hx]
    exact run_core hs hk rfl rfl
  · have hk : kBrk (Spec.fetched s) = .halt (modCore (fun _ => Spec.next s) (Spec.fetched s)) := by
      rw [kBrk_halts hm hc ((fetched_brk s).trans hb), kNext_effect hx]
    exact run_halt hs hk (core_of_kReady hs.ready).1 (core_of_kReady hs.ready).2
  · have hmode : (Spec.fetched s).pair.mode = s.pair.mode := (fetched_alike s).mode
    have hk : kChkpt (Spec.fetched s) = .ok (modCore (fun _ => Spec.next s) (Spec.fetched s)) := by
      rw [kChkpt_none hm hc (by rwa [hmode, fetched_rbit]), kNext_effect hx]
    exact run_core hs hk rfl rfl
  · have hmode : (Spec.fetched s).pair.mode = 0 := (fetched_alike s).mode.trans h0
    have hk : kChkpt (Spec.fetched s) = .opened (openLoose (modCore (fun _ => Spec.next s) (Spec.fetched s))) := by
      rw [kChkpt_opens hmode hc (by rwa [fetched_rbit]), kNext_effect hx]
    exact run_opened hs hk rfl rfl
  · by_cases h5 : cr = 5#8
    · subst h5
      cases hv
      rw [if_pos rfl]
      exact run_core hs (kMfc_cycle hm hc hx dd) rfl rfl
    · rw [if_neg h5]
      exact run_core hs (kMfc_plain hm hx h5 hv dd) rfl rfl
  · have hk : kMtc cr a (Spec.fetched s) =
        .ok (modCore (fun _ => Spec.controlled s cr.toNat (dreg s a)) (Spec.fetched s)) := by
      rw [kMtc_ok (by omega), crWrite_tight hm hx hcr, dreg_of_core hx]
    obtain ⟨hw, hl⟩ := controlled_waiting s cr.toNat (dreg s a)
    exact run_core hs hk hw hl
  · have hk : kMtc 7#8 a (Spec.fetched s) = .ok (modCore (fun _ => Spec.controlled s 7 (dreg s a))
        (cachesKept s (dreg s a) (Spec.fetched s))) := by
      rw [kMtc_ok (by decide), dreg_of_core hx]
      exact congrArg KRes.ok (cctlWrite_tight hm hc hx (fetched_dcache s) _)
    exact run_tight hs hk ⟨rfl, rfl, rfl, rfl, rfl⟩ (core_of_kReady hs.ready).1 (core_of_kReady hs.ready).2
  · exact run_tight (x := modPair (fun p => { p with icache := [] }) (Spec.fetched s)) hs (congrArg KRes.ok (kNext_modPair hx _))
      ⟨rfl, rfl, rfl, rfl, rfl⟩ (core_of_kReady hs.ready).1 (core_of_kReady hs.ready).2
  · have hk : kIinvl an (Spec.fetched s) = .ok (modCore (fun _ => Spec.next s)
        (modPair (fun p => { p with icache := tdel p.icache ((areg s an).toNat / 32) }) (Spec.fetched s))) := by
      rw [kIinvl, areg_of_core hx, kNext_modPair hx]
    exact run_tight hs hk ⟨rfl, rfl, rfl, rfl, rfl⟩ (core_of_kReady hs.ready).1 (core_of_kReady hs.ready).2

end Sys2Proof.Machine
end

section
/-! O12: what happens between instructions in Tight mode and Solo, instructions and CHKPT of the main copy in Loose mode, and the
checkpoint of GAP (R276–R278, R288–R292, R301). -/

namespace Sys2Proof.Machine

section
variable {s x : State}

/-! Tight mode and Solo. -/

theorem coreIssues_iff : coreIssues s = true ↔ sentinelRuns s = true ∧ s.idn.booting = false ∧ s.idn.halted = false ∧
    s.core.waiting = false ∧ s.core.lockup = false := by
  simp [coreIssues, and_assoc]

theorem gapDue_tight (hm : s.pair.mode = 0 ∨ s.pair.mode = 2) : gapDue s = false := by
  simp [gapDue, (mode_ne_of_tight hm).1]

/-- With no moderation period, an interrupt is entered and nothing else (R277, R313). -/
theorem kInterrupt_tight {p k : Nat} (hm : s.pair.mode = 0 ∨ s.pair.mode = 2) (hc : s.pair.asChk = false)
    (hE : Spec.Enters s (16 + p) s.core.pc) (hp : rfld s (evcBase + 0x008) 0 16 = 0) :
    kInterrupt p k s = modCore (fun _ => Spec.interrupted s p) (Spec.entered s (16 + p) s.core.pc) := by
  unfold kInterrupt
  rw [hp, record_tight hm]
  exact kEnter_ok hm hc hE rfl rfl

/-- The commit set follows an entry (R289). -/
theorem kEntryCommit_tight (hh : x.clk.held = false) (hl : x.core.lockup = false) (hm : x.pair.mode = 0 ∨ x.pair.mode = 2) :
    kEntryCommit x = Spec.retired x x.core := by
  obtain ⟨h1, h3⟩ := mode_ne_of_tight hm
  rw [kEntryCommit, if_neg (by simp [hh]), if_neg (by simp [hl, h1, h3])]
  rfl

theorem interruptEntry_tight {p : Nat} (hh : s.clk.held = false) (hm : s.pair.mode = 0 ∨ s.pair.mode = 2)
    (hc : s.pair.asChk = false) (hi : coreIssues s = true) (hs : s.core.shadow = false) (hp : irqDue s = some p)
    (hE : Spec.Enters s (16 + p) s.core.pc) (hper : rfld s (evcBase + 0x008) 0 16 = 0) :
    interruptEntry s = Spec.retired (Spec.entered s (16 + p) s.core.pc) (Spec.interrupted s p) := by
  have hy := entered_alike s (16 + p) s.core.pc
  have hm' : (Spec.entered s (16 + p) s.core.pc).pair.mode = 0 ∨ (Spec.entered s (16 + p) s.core.pc).pair.mode = 2 :=
    hy.mode ▸ hm
  rw [interruptEntry, if_pos (by simp [hi, hs, gapDue_tight hm]), hp]
  dsimp only
  rw [waitRoom_tight hm, kInterrupt_tight hm hc hE hper,
    kEntryCommit_tight (x := modCore (fun _ => Spec.interrupted s p) (Spec.entered s (16 + p) s.core.pc))
      (congrArg Clk.held hy.clk ▸ hh) (coreIssues_iff.1 hi).2.2.2.2 hm']
  exact chkRun_tight (s := Spec.retired (Spec.entered s (16 + p) s.core.pc) (Spec.interrupted s p)) hm'

theorem waiting_eq (hw : s.core.waiting = true) : modCore (fun c => { c with waiting := true }) s = s := by
  have hc : ({ s.core with waiting := true } : Core) = s.core := by rw [← hw]
  exact congrArg (fun c => { s with core := c }) hc

theorem waitComplete_tight (hh : s.clk.held = false) (hm : s.pair.mode = 0 ∨ s.pair.mode = 2) (hr : sentinelRuns s = true)
    (hw : s.core.waiting = true) (hb : s.idn.booting = false) (ht : s.idn.halted = false) (hl : s.core.lockup = false)
    (hp : sentinelPending s = true) (hn : s.clk.pstate ≠ .nap) (hi : irqDue s = none) (h1 : s.pair.haltWanted = false)
    (h2 : s.pair.resyncWanted = false) :
    waitComplete s = Spec.retired s { s.core with waiting := false, pc := s.core.pc + 4#32 } := by
  have hb' : boundary (kNext (modCore (fun c => { c with waiting := false }) s), .retired) =
      Spec.retired s { s.core with waiting := false, pc := s.core.pc + 4#32 } :=
    boundary_tight (x := kNext (modCore (fun c => { c with waiting := false }) s)) hh rfl hl hm
  rw [waitComplete, if_pos (by simp [hr, hw, hb, ht, hp]), waitRoom_tight hm, waitDone_tight hm hn (by rwa [waiting_eq hw]), hb']
  dsimp only
  rw [if_neg (by simp [Spec.retired, h2]), if_neg (by simp [Spec.retired, h1])]

theorem kRun_atBp (hm : s.pair.mode = 0 ∨ s.pair.mode = 2) (hr : kReady s = true) (hb : atBp s = true) (e : State → KRes) :
    kRun e s = kHalt s := by
  rw [kRun, if_neg (by simp [hr]), if_pos hb, haltPair_tight hm]

/-- A halted pair executes nothing (R301). -/
theorem kRun_halted (h : s.pair.halted = true) (e : State → KRes) : kRun e s = s :=
  if_pos (by simp [kReady, coreIssues, sentinelRuns, h])

/-! Loose mode. -/

theorem looseFetched_core (s : State) : (Spec.looseFetched s).core = { s.core with shadow := false } :=
  (looseFetched_alike s).core

theorem record_loose (hm : x.pair.mode = 1) (e : Replay) :
    record e x = modPair (fun p => { p with queue := p.queue ++ [e] }) x := if_pos hm

theorem record_alike_loose (hm : x.pair.mode = 1) (e : Replay) : Alike (record e x) x := by
  rw [record_loose hm]; exact ⟨rfl, rfl, rfl, rfl, rfl⟩

theorem outData_alike (a n : Nat) (w : Option Nat) (x : State) : Alike (outData a n w x) x := foldOut_alike _ x

theorem loadMet_none (a : Nat) (x : State) : loadMet {} a x = x := by simp [loadMet]

/-- A load from memory in Loose mode: its address is an output, and its value goes on record. -/
theorem takeLoad_loose (hc : x.pair.asChk = false) {a : Nat} (hp : Spec.plain a) (n : Nat) :
    takeLoad a n x = (w32 (loadVal x a n), record (.load (w32 (loadVal x a n))) (dcacheLoad a (outData a n none x))) := by
  have ho : (outData a n none x).pair.asChk = false := (outData_alike ..).asChk.trans hc
  rw [takeLoad, kTake, if_neg (by rw [ho]; decide), loadEffect_plain hp]

theorem kLdW_loose (hm : x.pair.mode = 1) (hc : x.pair.asChk = false) (hx : x.core = { s.core with shadow := false })
    {m : AMode} {ea v : Word} (hea : eaOf m 4 s = some (ea, none)) (hf : accessFault false ea.toNat 4 = none)
    (hp : Spec.plain ea.toNat) (hv : v = w32 (loadVal x ea.toNat 4)) (dt : Fin 16) : kLdW dt m {} x =
      .ok (modCore (fun _ => Spec.nextD s dt v)
        (outReg dt.val v (record (.load v) (dcacheLoad ea.toNat (outData ea.toNat 4 none x))))) := by
  have hd := (dcacheLoad_alike ea.toNat (outData ea.toNat 4 none x)).trans (outData_alike ea.toNat 4 none x)
  have hy := (outReg_alike dt.val v _).trans ((record_alike_loose (hd.mode.trans hm) (.load v)).trans hd)
  rw [kLdW, kLoadTo, eaOf_of_core hx, hea]
  dsimp only
  rw [kLoad, hf]
  dsimp only
  rw [takeLoad_loose hc hp, ← hv]
  dsimp only [baseUpdate]
  rw [loadMet_none, setD_eq, kNext_eq, modCore_modCore]
  exact congrArg KRes.ok (modCore_const (by rw [hy.core, hx]; rfl))

theorem putStore_loose (hc : x.pair.asChk = false) {a : Nat} (ha : regionOf a ≠ .block) (n v : Nat) :
    putStore a n v x = Spec.stored a n v (outData a n (some v) x) := by
  have ho : (outData a n (some v) x).pair.asChk = false := (outData_alike ..).asChk.trans hc
  unfold putStore
  extract_lets y
  rw [if_neg (by rw [ho]; decide), storeVal_memory ha]
  rfl

theorem kStW_loose (hc : x.pair.asChk = false) (hx : x.core = { s.core with shadow := false }) {m : AMode} {ea : Word}
    (hea : eaOf m 4 s = some (ea, none)) (hf : accessFault true ea.toNat 4 = none) (hr : regionOf ea.toNat ≠ .block)
    (dt : Fin 16) : kStW dt m x = .ok (modCore (fun _ => Spec.next s)
      (Spec.stored ea.toNat 4 (dreg s dt).toNat (outData ea.toNat 4 (some (dreg s dt).toNat) x))) := by
  have hy := (stored_alike ea.toNat 4 (dreg s dt).toNat _).trans (outData_alike ea.toNat 4 (some (dreg s dt).toNat) x)
  rw [kStW, dreg_of_core hx, kStoreFrom_ok hx hea hf, putStore_loose hc hr]
  exact congrArg KRes.ok (kNext_effect (hy.core.trans hx))

/-! CHKPT in Loose mode. -/

theorem kIssue_chkpt {e : State → KRes} {y : State} (hf : fetchFault s.core.pc.toNat = none)
    (hx : e (icacheFill s.core.pc.toNat (outFetch s.core.pc (modCore (fun c => { c with shadow := false }) s))) = .chkpt y) :
    kIssue e s = (y, .chkpt) := by
  unfold kIssue
  extract_lets s1 pc s2
  have hp : pc = s.core.pc := fetched_pc s
  have h1 : fetchFault pc.toNat = none := hp ▸ hf
  have h2 : e s2 = .chkpt y := by rw [← hx]; exact congrArg (fun w => e (icacheFill (BitVec.toNat w) s1)) hp
  rw [h1]
  dsimp only
  rw [h2]

theorem kChkpt_loose (hm : x.pair.mode = 1) (hc : x.pair.asChk = false) : kChkpt x = .chkpt (kNext (outChkpt x)) := by
  unfold kChkpt
  extract_lets y
  have h1 : y.pair.mode = 1 := (foldOut_alike [6] x).mode.trans hm
  rw [if_neg (by simp [hc, solo, hm]), if_pos hm]

/-- The retired CHKPT counts towards GAP, and the checker has one instruction more to execute. -/
def chkptRetired (x : State) : State :=
  { x with pair := { x.pair with since := x.pair.since + 1, issued := x.pair.issued + 1, lag := x.pair.lag + 1 } }

theorem boundary_chkpt (hh : x.clk.held = false) (hw : x.core.waiting = false) (hl : x.core.lockup = false)
    (hm : x.pair.mode = 1) : boundary (x, .chkpt) = looseCheckpoint wordEffect (chkptRetired x) := by
  have hr : kRetire (x, .chkpt) = chkptRetired x := by
    unfold kRetire
    dsimp only
    rw [if_neg (by simp [hh]), if_neg (by simp [hw, hl]), if_pos hm, if_neg (by decide)]
    rfl
  rw [boundary, hr, if_neg (by simp [chkptRetired, hh])]

/-- The fetch and the outputs of CHKPT leave memory, the queue, the checker and the commit set. -/
theorem looseFetched_pair (s : State) : (Spec.looseFetched s).mem = s.mem ∧
    (Spec.looseFetched s).pair.commit = s.pair.commit ∧ (Spec.looseFetched s).pair.chk = s.pair.chk ∧
    (Spec.looseFetched s).pair.queue = s.pair.queue ∧ (Spec.looseFetched s).pair.lag = s.pair.lag := by
  have h : ∀ y : State, (outFetch s.core.pc y).mem = y.mem ∧ (outFetch s.core.pc y).pair.commit = y.pair.commit ∧
      (outFetch s.core.pc y).pair.chk = y.pair.chk ∧ (outFetch s.core.pc y).pair.queue = y.pair.queue ∧
      (outFetch s.core.pc y).pair.lag = y.pair.lag := by
    intro y
    rw [show outFetch s.core.pc y = _ from foldOut_frame _ y]
    exact ⟨rfl, rfl, rfl, rfl, rfl⟩
  rw [Spec.looseFetched, icacheFill_frame]
  exact h _

theorem chkpt_loose (h : Spec.RunsLoose s) : ∃ x, exec .kChkpt s = done (looseCheckpoint wordEffect x) ∧
    x.core = Spec.next s ∧ x.mem = s.mem ∧ x.pair.mode = 1 ∧ x.pair.commit = s.pair.commit ∧ x.pair.chk = s.pair.chk ∧
    x.pair.queue = s.pair.queue ∧ x.pair.lag = s.pair.lag + 1 := by
  have hf := looseFetched_alike s
  have hm : (Spec.looseFetched s).pair.mode = 1 := hf.mode.trans h.mode
  have hk : kChkpt (Spec.looseFetched s) = .chkpt (kNext (outChkpt (Spec.looseFetched s))) :=
    kChkpt_loose hm (hf.asChk.trans h.main)
  have ho := foldOut_frame [6] (Spec.looseFetched s)
  have ha := (foldOut_alike [6] (Spec.looseFetched s)).trans hf
  have hi : kIssue kChkpt (modPair (fun p => { p with skip := false }) s) =
      (kNext (outChkpt (Spec.looseFetched s)), .chkpt) := kIssue_chkpt h.fetch hk
  have hn : kNext (outChkpt (Spec.looseFetched s)) = modCore (fun _ => Spec.next s) (outChkpt (Spec.looseFetched s)) :=
    kNext_effect ha.core
  obtain ⟨hmem, hcommit, hchk, hqueue, hlag⟩ := looseFetched_pair s
  have hcore := core_of_kReady h.ready
  refine ⟨chkptRetired (modCore (fun _ => Spec.next s) (outChkpt (Spec.looseFetched s))), ?_, rfl, ?_, ha.mode.trans h.mode, ?_, ?_, ?_, ?_⟩
  · have hb := boundary_chkpt (x := modCore (fun _ => Spec.next s) (outChkpt (Spec.looseFetched s)))
      (congrArg Clk.held ha.clk ▸ h.held) hcore.1 hcore.2 (ha.mode.trans h.mode)
    change done (live s (kRun kChkpt)) = _
    rw [live_run _ h.held, kRun_loose _ h, hi, hn, hb]
  · exact (congrArg State.mem ho).trans hmem
  · exact (congrArg (fun y => y.pair.commit) ho).trans hcommit
  · exact (congrArg (fun y => y.pair.chk) ho).trans hchk
  · exact (congrArg (fun y => y.pair.queue) ho).trans hqueue
  · exact congrArg (· + 1) ((congrArg (fun y => y.pair.lag) ho).trans hlag)

/-! The implicit checkpoint of GAP. -/

/-- With nothing left for the checker to execute, a checkpoint compares the signatures at once (R289). -/
theorem comparePair_idle (hl : s.pair.lag = 0) (hq : s.pair.queue = []) (d : Word → State → KRes) (pass : State → State) :
    comparePair d pass s = if s.pair.sigMain = s.pair.sigChk then pass (checkpoint s) else classSFault 0x21 2 0 0#32 s := by
  have he : chkEntries s.pair.queue.length s = s := by rw [hq]; rfl
  rw [comparePair, he, hl]
  rfl

theorem rbit_checkpoint (s : State) : rbit (checkpoint s) pairCtrl 0 = rbit s pairCtrl 0 :=
  congrArg (wbit · 0) (reg_setRegN_ne _ s (by decide))

theorem gapCheckpoint_idle (hh : s.clk.held = false) (hi : coreIssues s = true) (hg : gapDue s = true) (hl : s.pair.lag = 0)
    (hq : s.pair.queue = []) : exec .gapCheckpoint s = .next (raise 186 (orReg pairEvents 0x10
      (if s.pair.sigMain = s.pair.sigChk then
        (if rbit s pairCtrl 0 then checkpoint s else closeLoose (checkpoint s))
      else classSFault 0x21 2 0 0#32 s))) := by
  change Host.Outcome.next (live s fun y =>
    if coreIssues y && gapDue y then raise 186 (orReg pairEvents 0x10 (looseCheckpoint wordEffect y)) else y) = _
  rw [live_run _ hh, if_pos (by simp [hi, hg]), looseCheckpoint, comparePair_idle hl hq, rbit_checkpoint]

end

/-- Settles O12: the boundary in Tight mode and Solo, instructions in Loose mode, and the checkpoint of GAP. -/
theorem karpolBoundaries : Obligations.KarpolBoundaries := by
  refine ⟨fun s hh hu hm hc => ⟨fun p hi hs hp hE hper => ?_, fun hr hw hb ht hl hp hn hi h1 h2 => ?_, fun hr hb => ?_⟩,
    fun s hs => ⟨fun i dd r h => ?_, fun i st h => ?_, fun dt m ea v hea hf hp hv => ?_, fun dt m ea hea hf hr => ?_,
      chkpt_loose hs⟩,
    fun s hh hi hg hl hq => ⟨fun he hr => ?_, fun he hr => ?_, fun hne => ?_⟩⟩
  · have hy := entered_alike s (16 + p) s.core.pc
    change done (live s interruptEntry) = _
    rw [live_run _ hh, interruptEntry_tight hh hm hc hi hs hp hE hper]
    exact done_next (hy.undef.trans hu)
  · change done (live s waitComplete) = _
    rw [live_run _ hh, waitComplete_tight hh hm hr hw hb ht hl hp hn hi h1 h2]
    exact done_next hu
  · constructor
    · change done (live s (kRun kNop)) = _
      rw [live_run _ hh, kRun_atBp hm hr hb]
      exact done_next ((kHalt_undef s).trans hu)
    · change done (live (kHalt s) (kRun kNop)) = _
      rw [live_run (s := kHalt s) _ hh, kRun_halted (s := kHalt s) rfl]
      exact done_next ((kHalt_undef s).trans hu)
  · obtain ⟨hi, he⟩ := alu_effect (looseFetched_core s) h
    exact hi.trans (run_loose hs he ((outReg_alike ..).trans (outReg_alike ..)) (core_of_kReady hs.ready).1
      (core_of_kReady hs.ready).2)
  · obtain ⟨hi, he⟩ := compare_effect (looseFetched_core s) h
    exact hi.trans (run_loose hs he (outReg_alike ..) (core_of_kReady hs.ready).1 (core_of_kReady hs.ready).2)
  · have hfe := looseFetched_alike s
    have hm : (Spec.looseFetched s).pair.mode = 1 := hfe.mode.trans hs.mode
    have hd := (dcacheLoad_alike ea.toNat (outData ea.toNat 4 none (Spec.looseFetched s))).trans (outData_alike ea.toNat 4 none _)
    exact run_loose hs (kLdW_loose hm (hfe.asChk.trans hs.main) (looseFetched_core s) hea hf hp hv dt)
      ((outReg_alike ..).trans ((record_alike_loose (hd.mode.trans hm) _).trans hd)) (core_of_kReady hs.ready).1
      (core_of_kReady hs.ready).2
  · exact run_loose hs (kStW_loose ((looseFetched_alike s).asChk.trans hs.main) (looseFetched_core s) hea hf hr dt)
      ((stored_alike ..).trans (outData_alike ..)) (core_of_kReady hs.ready).1 (core_of_kReady hs.ready).2
  · rw [gapCheckpoint_idle hh hi hg hl hq, if_pos he, if_pos hr]
  · rw [gapCheckpoint_idle hh hi hg hl hq, if_pos he, if_neg (by simp [hr])]
  · rw [gapCheckpoint_idle hh hi hg hl hq, if_neg hne]

end Sys2Proof.Machine
end

section
/-! O19: the commands of a frozen Stock (R248). -/

namespace Sys2Proof.Machine

section
variable {s : State}

theorem stockFrozen_of_apply {d : Nat} {a : Apply} (h : s.stock.apply = some a) (hd : a.door = d) : stockFrozen s d = true := by
  rw [stockFrozen, h]
  exact beq_iff_eq.2 hd

/-- A door that holds entries reads its area back. -/
theorem area_setArea_of_entries {a : StockArea} (d : Nat) (s : State) (h : a.entries ≠ []) : area (setArea d a s) d = a := by
  have hne : a ≠ {} := fun e => h (congrArg StockArea.entries e)
  unfold area setArea tset
  rw [if_neg hne]
  exact tget_tins_same _ _ _ _

/-! A pending Apply takes no part in the dispatch, the checks or the reply. -/

theorem takes_setApply {d tag op : Nat} {c : Cmd} (a : Option Apply) (h : Spec.Takes s d tag op c) :
    Spec.Takes (setApply a s) d tag op c := by
  obtain ⟨hheld, hhead, htag, hop, hrun, hfence, hturn, hserved⟩ := h
  exact ⟨hheld, hhead, htag, hop, hrun, hfence, hturn, hserved⟩

theorem modDoor_setApply (a : Option Apply) (d : Nat) (f : Door → Door) (s : State) :
    modDoor d f (setApply a s) = setApply a (modDoor d f s) := rfl

theorem irq2Settle_setApply (a : Option Apply) (s : State) : irq2Settle (setApply a s) = setApply a (irq2Settle s) := by
  have hc : irq2Cause (setApply a s) = irq2Cause s := rfl
  unfold irq2Settle
  rw [hc]
  extract_lets x y
  have hx : x = y := rfl
  clear_value x y
  subst hx
  split
  · split
    · rfl
    · split <;> rfl
  · rfl

theorem pushReply_setApply (a : Option Apply) (d : Nat) (r : Reply) (s : State) :
    pushReply d r (setApply a s) = setApply a (pushReply d r s) := by
  unfold pushReply
  split
  · rw [modDoor_setApply, irq2Settle_setApply]
  · rfl

theorem poolReturn_setApply (a : Option Apply) (d : Nat) (k : PoolKind) (s : State) :
    poolReturn d k (setApply a s) = setApply a (poolReturn d k s) := by cases k <;> rfl

theorem finishSt_setApply (a : Option Apply) (d tag status detail : Nat) (s : State) :
    finishSt d tag status detail (setApply a s) = setApply a (finishSt d tag status detail s) := by
  have hf : findCmd (setApply a s) d tag = findCmd s d tag := rfl
  unfold finishSt finish
  rw [hf]
  split
  · rfl
  · split
    · rw [removeCmd, modDoor_setApply, poolReturn_setApply]; rfl
    · dsimp only
      rw [modCmd, modDoor_setApply, pushReply_setApply]; rfl

theorem stockVerdict_setApply (a : Option Apply) (s : State) (d : Nat) (es : Table (Nat × Bytes)) :
    stockVerdict (setApply a s) d es = stockVerdict s d es := rfl

/-- What STOCK_CHECK does where the Stock is not frozen, on the state in which it runs. -/
def checkBegun (d tag : Nat) (s : State) : State :=
  let a := area s d
  let x := setArea d { a with passed := false, checkVer := 0 } s
  let v := (stockVerdict x d a.entries).getD (0, 0, 0)
  if a.entries.isEmpty then finishSt d tag 0x01 1 x
  else modCmd d tag (fun y => { y with
    aux := [a.mods, s.stock.liveVer, a.entries.length, v.1, v.2.1, v.2.2] }) x

theorem checkBegun_setApply (a : Option Apply) (d tag : Nat) (s : State) :
    checkBegun d tag (setApply a s) = setApply a (checkBegun d tag s) := by
  have ha : area (setApply a s) d = area s d := rfl
  have hx : ∀ b, setArea d b (setApply a s) = setApply a (setArea d b s) := fun _ => rfl
  unfold checkBegun
  rw [ha]
  dsimp only
  rw [hx]
  split
  · exact finishSt_setApply a d tag 0x01 1 _
  · rfl

/-- A begun check of a Stock with entries has not passed. -/
theorem area_checkBegun {d tag : Nat} {s : State} (h : (area s d).entries ≠ []) :
    (area (checkBegun d tag s) d).passed = false ∧ (area (checkBegun d tag s) d).checkVer = 0 := by
  have hx := area_setArea_of_entries (a := { area s d with passed := false, checkVer := 0 }) d s h
  unfold checkBegun
  dsimp only
  rw [if_neg (by simpa using h)]
  exact ⟨congrArg StockArea.passed hx, congrArg StockArea.checkVer hx⟩

end

/-- Settles O19: the refusal of a frozen Stock, another door's check by `checkBegun`, and STOCK_GET with nothing left to give. -/
theorem frozenStock : Obligations.StockFrozen := by
  intro s d tag c
  refine ⟨fun a hc ha hd => ⟨?_, finish_stock ..⟩, fun a hc ha hd => ?_, fun hc hd hn hf hroom => ?_⟩
  · refine congrArg Host.Outcome.next ((live_dispatch_takes _ hc).trans ?_)
    exact if_pos (stockFrozen_of_apply (s := Spec.taken s d tag) ha hd)
  · have hfree : ∀ b ∈ s.stock.apply, b.door ≠ d := by
      rintro b hb
      cases ha.symm.trans hb
      exact hd
    have ht : exec (.stockCheck d tag) s = .next (checkBegun d tag (Spec.taken s d tag)) := exec_stockCheck hc hfree
    refine ⟨_, ht, area_checkBegun (s := Spec.taken s d tag), fun v hv => ?_⟩
    have hv' : exec (.stockCheck d tag) (setApply none s) = .next (checkBegun d tag (setApply none (Spec.taken s d tag))) :=
      exec_stockCheck (s := setApply none s) (takes_setApply none hc) nofun
    obtain rfl := Host.Outcome.next.inj (hv'.symm.trans hv)
    rw [checkBegun_setApply]
    exact ⟨rfl, rfl⟩
  · have hmin : min (pLe c.pkt 4 2) ((area s d).entries.length - pLe c.pkt 2 2) = 0 := by omega
    have h := exec_stockGet hc hd rfl hn (by rwa [hmin])
    rwa [hmin, List.drop_eq_nil_of_le hf, List.take_nil, List.map_nil, List.flatten_nil, List.append_nil] at h

end Sys2Proof.Machine
end

section
/-! O21 to O24: claims and completions of the targets of the Event Controller, stack faults, and the pending bits (R307–R313). -/

namespace Sys2Proof.Machine

section
variable {s x : State}

/-! Pending bits. -/

theorem testBit_add_two_pow {v n : Nat} (h : v.testBit n = false) (m : Nat) :
    (v + 2 ^ n).testBit m = (v.testBit m || m == n) := by
  rw [Nat.add_comm]
  rcases Nat.lt_trichotomy m n with hm | rfl | hm
  · rw [Nat.testBit_two_pow_add_gt hm, beq_eq_false_iff_ne.2 hm.ne, Bool.or_false]
  · rw [Nat.testBit_two_pow_add_eq, h]; simp
  · obtain ⟨k, rfl⟩ := Nat.exists_eq_add_of_lt hm
    have hq : v / 2 ^ n % 2 = 0 := by simpa [Nat.testBit_eq_decide_div_mod_eq] using h
    have hdiv : (2 ^ n + v) / 2 ^ (n + 1) = v / 2 ^ (n + 1) := by
      rw [Nat.pow_succ, ← Nat.div_div_eq_div_mul, ← Nat.div_div_eq_div_mul,
        Nat.add_div_left _ (Nat.two_pow_pos n)]
      omega
    have hsplit : ∀ w : Nat, w.testBit (n + k + 1) = (w / 2 ^ (n + 1)).testBit k := by
      intro w
      rw [Nat.testBit_div_two_pow]
      exact congrArg w.testBit (by omega)
    rw [hsplit, hdiv, ← hsplit, beq_eq_false_iff_ne.2 (by omega), Bool.or_false]

theorem evcPend_setEvcPend_same {v : Nat} (hv : v ≠ 0) (t : Nat) (s : State) : evcPend (setEvcPend t v s) t = v := by
  have h : tset 0 s.evc.pend t v = tins s.evc.pend t v := if_neg hv
  rw [evcPend, setEvcPend]
  dsimp only
  rw [h, tget_tins_same]

theorem evcPend_setEvcPend_ne {t u : Nat} (h : u ≠ t) (v : Nat) (s : State) : evcPend (setEvcPend t v s) u = evcPend s u :=
  tget_tset_ne _ _ _ h

/-- A number with a bit set is not 0. -/
theorem ne_zero_of_bitAt {v n : Nat} (h : bitAt v n = true) : v ≠ 0 := by
  rintro rfl
  rw [bitAt_zero] at h
  cases h

/-- An occurrence sets one bit of one target. -/
theorem bitAt_pendTarget (n t u m : Nat) (s : State) : bitAt (evcPend (pendTarget n t s) u) m =
    (bitAt (evcPend s u) m || (u == t && (m == n && srcTargets s n t))) := by
  unfold pendTarget
  split
  · next hr =>
    dsimp only
    rw [hr, Bool.and_true]
    by_cases hu : u = t
    · subst hu
      rw [beq_self_eq_true, Bool.true_and]
      split
      · next hb =>
        rw [evcPend_setEvcPend_same (ne_zero_of_bitAt hb)]
        by_cases hm : m = n
        · rw [hm, hb, Bool.true_or]
        · rw [beq_eq_false_iff_ne.2 hm, Bool.or_false]
      · next hb =>
        rw [evcPend_setEvcPend_same (Nat.ne_of_gt (Nat.add_pos_right _ (Nat.two_pow_pos n))), bitAt_eq_testBit,
          bitAt_eq_testBit, testBit_add_two_pow (by rw [← bitAt_eq_testBit]; exact Bool.eq_false_iff.2 hb)]
    · rw [evcPend_setEvcPend_ne hu, beq_eq_false_iff_ne.2 hu, Bool.false_and, Bool.or_false]
  · next hr => rw [Bool.eq_false_iff.2 hr, Bool.and_false, Bool.and_false, Bool.or_false]

/-- `x` has the pending bits, the stacks and the sources of `y`. -/
structure SameRequests (x y : State) : Prop where
  pend : x.evc.pend = y.evc.pend
  stk : x.evc.stk = y.evc.stk
  regs : x.regs = y.regs

theorem SameRequests.refl (x : State) : SameRequests x x := ⟨rfl, rfl, rfl⟩

theorem SameRequests.trans {x y z : State} (h : SameRequests x y) (g : SameRequests y z) : SameRequests x z :=
  ⟨h.pend.trans g.pend, h.stk.trans g.stk, h.regs.trans g.regs⟩

theorem SameRequests.evcPend {x y : State} (h : SameRequests x y) (t : Nat) : evcPend x t = evcPend y t :=
  congrArg (tget 0 · t) h.pend

theorem SameRequests.evcStack {x y : State} (h : SameRequests x y) (t : Nat) : evcStack x t = evcStack y t :=
  congrArg (tget [] · t) h.stk

theorem irq2Settle_same (x : State) : SameRequests (irq2Settle x) x := by
  rw [irq2Settle_frame]; exact ⟨rfl, rfl, rfl⟩

theorem evcSignal_same (d p : Nat) (x : State) : SameRequests (evcSignal d p x) x := by
  rw [evcSignal_frame]; exact ⟨rfl, rfl, rfl⟩

theorem setLastSig_same (d v : Nat) (x : State) : SameRequests (setLastSig d v x) x := ⟨rfl, rfl, rfl⟩

/-- Where nothing is deliverable, the signal of a door falls. -/
theorem settleNone_same (d : Nat) (x : State) :
    SameRequests ((if d = 2 then irq2Settle else id) (setLastSig d 0 x)) x := by
  split
  · exact (irq2Settle_same _).trans (setLastSig_same d 0 x)
  · exact setLastSig_same d 0 x

theorem evcSettle_same (d : Nat) (x : State) : SameRequests (evcSettle d x) x := by
  unfold evcSettle
  split
  · exact settleNone_same d x
  · extract_lets p
    split
    · exact (evcSignal_same d p _).trans (setLastSig_same d (p + 1) x)
    · split
      · exact irq2Settle_same x
      · exact .refl x

theorem evcResignal_same (d : Nat) (x : State) : SameRequests (evcResignal d x) x := by
  unfold evcResignal
  split
  · exact settleNone_same d x
  · exact (evcSignal_same d _ _).trans (setLastSig_same d _ x)

/-- The pending bits an occurrence sets, before the doors are signalled. -/
def pended (n : Nat) (s : State) : State := pendTarget n 3 (pendTarget n 2 (pendTarget n 1 (pendTarget n 0 s)))

theorem raise_same (n : Nat) (s : State) : SameRequests (raise n s) (pended n s) := by
  have h : ∀ (d : Nat) (x : State), SameRequests (if srcTargets s n (d + 1) then evcSettle d x else x) x := by
    intro d x
    split
    · exact evcSettle_same d x
    · exact .refl x
  exact (h 2 _).trans ((h 1 _).trans (h 0 _))

theorem pendTarget_regs (n t : Nat) (s : State) : (pendTarget n t s).regs = s.regs := by rw [pendTarget_frame]

theorem srcTargets_pendTarget (n m t u : Nat) (s : State) : srcTargets (pendTarget n t s) m u = srcTargets s m u := by
  rw [srcTargets, srcCfg, reg, pendTarget_regs]; rfl

theorem pendTarget_stk (n t : Nat) (s : State) : (pendTarget n t s).evc.stk = s.evc.stk := by
  unfold pendTarget
  split <;> rfl

/-- An occurrence sets the source's bit for the targets it is routed to (R307). -/
theorem bitAt_raise {t : Nat} (ht : t < 4) (n m : Nat) (s : State) :
    bitAt (evcPend (raise n s) t) m = (bitAt (evcPend s t) m || (m == n && srcTargets s n t)) := by
  rw [(raise_same n s).evcPend, pended]
  simp only [bitAt_pendTarget, srcTargets_pendTarget]
  interval_cases t <;> simp

theorem evcStack_raise (n t : Nat) (s : State) : evcStack (raise n s) t = evcStack s t := by
  rw [(raise_same n s).evcStack, evcStack, pended]
  simp only [pendTarget_stk]
  rfl

/-! Claims. -/

/-- What can be delivered to a target (R308). -/
theorem deliverable_iff (s : State) (t n : Nat) : deliverable s t n = true ↔ bitAt (evcPend s t) n = true ∧
    (t = 0 → evcMasked s n = false) ∧ (∀ e ∈ (evcStack s t).head?, e.2 < srcLevel s n) ∧
    (t ≠ 0 → doorOpen s (t - 1) = true) := by
  have hmask : (!(t == 0 && evcMasked s n)) = true ↔ (t = 0 → evcMasked s n = false) := by
    cases evcMasked s n <;> simp
  have hopen : (t == 0 || doorOpen s (t - 1)) = true ↔ (t ≠ 0 → doorOpen s (t - 1) = true) := by
    by_cases h : t = 0 <;> simp [h]
  rw [deliverable, evcRequested, Bool.and_eq_true, Bool.and_eq_true, Bool.and_eq_true, hmask, hopen, and_assoc, and_assoc]
  cases evcStack s t with
  | nil => simp
  | cons e r => simp

/-- One source is to be preferred to another: a higher level, or the same and a lower number. -/
def Beats (s : State) (n m : Nat) : Prop := srcLevel s m < srcLevel s n ∨ (srcLevel s m = srcLevel s n ∧ n ≤ m)

/-- `b` is the best among the sources below `k` that meet a test. -/
def BestBelow (s : State) (p : Nat → Bool) (k : Nat) (b : Option Nat) : Prop :=
  match b with
  | none => ∀ m < k, p m = false
  | some n => n < k ∧ p n = true ∧ ∀ m < k, p m = true → Beats s n m

/-- The step of the search for the best source. -/
def better (s : State) (p : Nat → Bool) (b : Option Nat) (n : Nat) : Option Nat :=
  if p n then
    match b with
    | none => some n
    | some m => if srcLevel s m < srcLevel s n then some n else b
  else b

theorem bestBelow_better {p : Nat → Bool} {k : Nat} {b : Option Nat} (h : BestBelow s p k b) :
    BestBelow s p (k + 1) (better s p b k) := by
  unfold better
  by_cases hk : p k = true
  · rw [if_pos hk]
    cases b with
    | none =>
      refine ⟨Nat.lt_succ_self k, hk, fun m hm hp => ?_⟩
      rcases Nat.lt_succ_iff_lt_or_eq.1 hm with hm | rfl
      · rw [h m hm] at hp; cases hp
      · exact .inr ⟨rfl, Nat.le_refl m⟩
    | some n =>
      obtain ⟨hn, hp, hbest⟩ := h
      dsimp only
      split
      · next hl =>
        refine ⟨Nat.lt_succ_self k, hk, fun m hm hpm => ?_⟩
        rcases Nat.lt_succ_iff_lt_or_eq.1 hm with hm | rfl
        · refine .inl ?_
          rcases hbest m hm hpm with hb | hb <;> omega
        · exact .inr ⟨rfl, Nat.le_refl m⟩
      · next hl =>
        refine ⟨Nat.lt_succ_of_lt hn, hp, fun m hm hpm => ?_⟩
        rcases Nat.lt_succ_iff_lt_or_eq.1 hm with hm | rfl
        · exact hbest m hm hpm
        · unfold Beats; omega
  · rw [if_neg hk]
    cases b with
    | none =>
      intro m hm
      rcases Nat.lt_succ_iff_lt_or_eq.1 hm with hm | rfl
      · exact h m hm
      · exact Bool.eq_false_iff.2 hk
    | some n =>
      obtain ⟨hn, hp, hbest⟩ := h
      refine ⟨Nat.lt_succ_of_lt hn, hp, fun m hm hpm => ?_⟩
      rcases Nat.lt_succ_iff_lt_or_eq.1 hm with hm | rfl
      · exact hbest m hm hpm
      · exact absurd hpm hk

theorem bestSource_best (s : State) (p : Nat → Bool) : BestBelow s p 256 (bestSource s p) := by
  have h : ∀ k, BestBelow s p k ((List.range k).foldl (better s p) none) := by
    intro k
    induction k with
    | zero => exact fun m hm => absurd hm (Nat.not_lt_zero m)
    | succ k ih =>
      rw [List.range_succ, List.foldl_append]
      exact bestBelow_better ih
  exact h 256

theorem bestDeliverable_best (s : State) (t : Nat) : BestBelow s (deliverable s t) 256 (bestDeliverable s t) := by
  unfold bestDeliverable
  split
  · next h =>
    intro m _
    rw [Bool.eq_false_iff]
    intro hd
    have hb := ((deliverable_iff s t m).1 hd).1
    rw [h, bitAt_zero] at hb
    cases hb
  · exact bestSource_best s _

/-- A claim returns the best deliverable request, and for the sentinel none below STAT.IL (R310). -/
theorem claimed_some {t n : Nat} (h : claimed s t = some n) : n < 256 ∧ deliverable s t n = true ∧
    (t = 0 → coreIL s ≤ srcLevel s n) ∧ ∀ m, m < 256 → deliverable s t m = true → Beats s n m := by
  have hb := bestDeliverable_best s t
  unfold claimed at h
  cases hd : bestDeliverable s t with
  | none => rw [hd] at h; cases h
  | some k =>
    rw [hd] at h hb
    obtain ⟨hk, hdk, hbest⟩ := hb
    by_cases hl : t = 0 ∧ srcLevel s k < coreIL s
    · cases (if_pos hl).symm.trans h
    · cases (if_neg hl).symm.trans h
      exact ⟨hk, hdk, fun h0 => Nat.not_lt.1 fun hlt => hl ⟨h0, hlt⟩, hbest⟩

theorem claimed_none {t : Nat} (h : claimed s t = none) (m : Nat) (hm : m < 256) (hd : deliverable s t m = true) :
    t = 0 ∧ srcLevel s m < coreIL s := by
  have hb := bestDeliverable_best s t
  unfold claimed at h
  cases hbd : bestDeliverable s t with
  | none => rw [hbd] at hb; rw [hb m hm] at hd; cases hd
  | some k =>
    rw [hbd] at h hb
    obtain ⟨_, _, hbest⟩ := hb
    by_cases hl : t = 0 ∧ srcLevel s k < coreIL s
    · obtain ⟨h0, hlt⟩ := hl
      refine ⟨h0, ?_⟩
      rcases hbest m hm hd with hb | hb <;> omega
    · cases (if_neg hl).symm.trans h

theorem claimed_emit (o : Out) (s : State) (t : Nat) : claimed (emit o s) t = claimed s t := rfl

/-! Completions and stack faults. -/

theorem complete_top {t v l : Nat} {r : List (Nat × Nat)} (hv : v ≠ 0x3FF) (h : evcStack s t = (v, l) :: r) :
    complete t v s = if t = 0 then setEvcStack t r s else evcResignal (t - 1) (setEvcStack t r s) := by
  rw [complete, if_neg hv, h]
  exact if_pos rfl

/-- A completion of another vector than the top entry's is a stack fault (R312). -/
theorem complete_other {t v : Nat} (hv : v ≠ 0x3FF) (h : ∀ e ∈ (evcStack s t).head?, e.1 ≠ v) :
    complete t v s = stackFault t v s := by
  rw [complete, if_neg hv]
  cases hs : evcStack s t with
  | nil => rfl
  | cons e r => exact if_neg (h e (by rw [hs]; rfl))

/-- The vector that a stack fault expected (R312). -/
def expectedVector (s : State) (t : Nat) : Nat := match evcStack s t with | [] => 0x3FF | (n, _) :: _ => n

theorem expectedVector_eq (s : State) (t : Nat) : expectedVector s t = ((evcStack s t).head?.map Prod.fst).getD 0x3FF := by
  unfold expectedVector
  cases evcStack s t <;> rfl

/-- The record of a stack fault. -/
def stackFaulted (t w : Nat) (s : State) : State :=
  raise 176 (putBit (evcBase + 0x004) t true (setRegN (evcBase + 0x018) w (setEvcStack t [] s)))

theorem stackFault_faulted (t v : Nat) (s : State) : stackFault t v s = (if t = 0 then id else evcResignal (t - 1))
    (stackFaulted t (expectedVector s t + v % 1024 * 2 ^ 10 + t * 2 ^ 20) s) := by
  by_cases h : t = 0
  · rw [if_pos h, id_eq]; exact if_pos h
  · rw [if_neg h]; exact if_neg h

theorem stackFault_eq {t v : Nat} (hv : v < 1024) : stackFault t v s = (if t = 0 then id else evcResignal (t - 1))
    (stackFaulted t (((evcStack s t).head?.map Prod.fst).getD 0x3FF + v * 2 ^ 10 + t * 2 ^ 20) s) := by
  rw [stackFault_faulted, expectedVector_eq, Nat.mod_eq_of_lt hv]

/-! Software sources (R307). -/

theorem software_source {n : Nat} : inRange (n % 256) 192 255 = true ↔ 192 ≤ n % 256 := by
  rw [inRange, Bool.and_eq_true, decide_eq_true_iff, decide_eq_true_iff]
  omega

theorem evcWrite_swset (v : Word) (s : State) : evcWrite 0x020 v s = swSet (v.toNat % 256) s := by
  have h : wfld v 0 8 = v.toNat % 256 := by rw [wfld_eq, Nat.pow_zero, Nat.div_one]; rfl
  rw [← h]; rfl

theorem evcWrite_swclr (v : Word) (s : State) : evcWrite 0x024 v s = swClr (v.toNat % 256) s := by
  have h : wfld v 0 8 = v.toNat % 256 := by rw [wfld_eq, Nat.pow_zero, Nat.div_one]; rfl
  rw [← h]; rfl

/-- The door 2 instruction completes for target 3. -/
theorem exec_spiEvcComplete {data : Bytes} (hh : s.clk.held = false) (hl : data.length = 2) (hv : leAt data 0 2 < 1024) :
    exec (.spiEvcComplete data) s = .next (complete 3 (leAt data 0 2) (spiDone 0x0F s)) := by
  refine congrArg Host.Outcome.next ((live_run _ hh).trans ?_)
  dsimp only
  rw [if_neg (by omega), Nat.mod_eq_of_lt hv]

theorem popped_pend (t : Nat) (r : List (Nat × Nat)) (s : State) (j : Nat) :
    evcPend (if t = 0 then setEvcStack t r s else evcResignal (t - 1) (setEvcStack t r s)) j = evcPend s j := by
  split
  · rfl
  · exact (evcResignal_same (t - 1) (setEvcStack t r s)).evcPend j

end

/-- Settles O21: the search for the best source, and what the two ways of a claim do with it. -/
theorem claimsReturnTheBest : Obligations.ClaimsReturnTheBest := by
  refine ⟨fun s t => ⟨deliverable_iff s t, fun n h => claimed_some h, fun h => claimed_none h⟩,
    fun s hh => ⟨fun t i n hi h => ?_, fun t h => ?_, congrArg Host.Outcome.next (live_run _ hh), fun n bytes x hc hx => ?_,
      fun bytes hb hc => ?_⟩⟩
  · subst hi
    refine congrArg Host.Outcome.next ((live_run _ hh).trans ?_)
    dsimp only
    rw [claim, claimed_emit, claimVector, h]
    rfl
  · refine congrArg Host.Outcome.next ((live_run _ hh).trans ?_)
    dsimp only
    rw [claim, claimed_emit, claimVector, h]
    rfl
  · subst hx
    refine ⟨fun hb => ?_, fun hb => ?_⟩
    · refine congrArg Host.Outcome.next ((live_run _ hh).trans ?_)
      dsimp only
      rw [hc]
      exact if_neg (Nat.not_lt.2 hb)
    · refine congrArg Host.Outcome.next ((live_run _ hh).trans ?_)
      dsimp only
      rw [hc]
      exact if_pos hb
  · refine congrArg Host.Outcome.next ((live_run _ hh).trans ?_)
    dsimp only
    rw [hc]
    dsimp only [Option.getD_none]
    rw [List.take_of_length_le (by rw [length_leBytes]; exact hb)]
    exact if_neg (Nat.not_lt.2 hb)

/-- Settles O22: the pop of the top entry, which leaves the pending bits. -/
theorem completions : Obligations.Completions := by
  intro s hh
  refine ⟨fun t => congrArg Host.Outcome.next (live_run _ hh), fun t v i l r hi hv hs => ⟨_, ?_, rfl, popped_pend i r s⟩,
    fun data l r hl hlt hs => ?_⟩
  · subst hi
    have hv' : v.toNat ≠ 0x3FF := fun h => hv (BitVec.eq_of_toNat_eq h)
    exact congrArg Host.Outcome.next ((live_run _ hh).trans (complete_top hv' hs))
  · rw [exec_spiEvcComplete hh hl (by omega), complete_top (s := spiDone 0x0F s) (by omega) hs]
    rfl

/-- Settles O23 by `complete_other` and `stackFault_eq`. -/
theorem stackFaults : Obligations.StackFaults := by
  refine ⟨fun s t v i expected hh hi hv he hne => ?_, fun s data v expected hh hl hv hlt he hne => ?_⟩
  · subst hi he
    have hv' : v.toNat ≠ 0x3FF := fun h => hv (BitVec.eq_of_toNat_eq h)
    have h := (complete_other hv' hne).trans (stackFault_eq v.isLt)
    unfold stackFaulted at h
    exact congrArg Host.Outcome.next ((live_run _ hh).trans h)
  · subst hv he
    rw [exec_spiEvcComplete hh hl (by omega), complete_other (s := spiDone 0x0F s) (by omega) hne,
      stackFault_eq (s := spiDone 0x0F s) (by omega), if_neg (by decide)]
    rfl

/-- Settles O24: the bits of an occurrence, the software sources, and the end of moderation. -/
theorem eventSources : Obligations.EventSources := by
  refine ⟨fun s n t m ht => ⟨bitAt_raise ht n m s, evcStack_raise n t s, ?_⟩, fun s v hh => ⟨fun h => ?_, fun h => ⟨?_, ?_⟩,
    fun n hn h => ?_, fun h => ?_, fun h => ?_⟩⟩
  · rw [raise_frame]; exact ⟨rfl, rfl, rfl⟩
  · exact congrArg Host.Outcome.next ((live_run _ hh).trans ((evcWrite_swset v s).trans (if_pos (software_source.2 h))))
  · exact congrArg Host.Outcome.next ((live_run _ hh).trans ((evcWrite_swset v s).trans
      (if_neg fun hr => Nat.not_le.2 h (software_source.1 hr))))
  · exact congrArg Host.Outcome.next ((live_run _ hh).trans ((evcWrite_swclr v s).trans
      (if_neg fun hr => Nat.not_le.2 h (software_source.1 hr))))
  · subst hn
    exact congrArg Host.Outcome.next ((live_run _ hh).trans ((evcWrite_swclr v s).trans (if_pos (software_source.2 h))))
  · exact congrArg Host.Outcome.next ((live_run _ hh).trans (if_neg (Nat.not_lt.2 h)))
  · exact congrArg Host.Outcome.next ((live_run _ hh).trans (if_pos h))

end Sys2Proof.Machine
end

section
/-! O51: the watchdog, the scrubber, mode requests and the outcomes of the sentinel pair (R292–R299, R434). -/

namespace Sys2Proof.Machine

section
variable {s : State}

/-! The watchdog (R294). -/

theorem wdogCounts_of (hp : s.pair.wdogPaused = none) (hb : s.idn.booting = false) (hh : s.idn.halted = false) :
    wdogCounts s = true := by simp [wdogCounts, hp, hb, hh]

theorem exec_wdogWarn (h : s.clk.held = false) (hc : wdogCounts s = true) : exec .wdogWarn s = .next (
    if s.pair.wdogWarned = false ∧ s.pair.wdogTaken * 1250000 * 7 ≤ 8 * wdogElapsed s then
      raise 187 (orReg pairEvents 0x20 (modPair (fun p => { p with wdogWarned := true }) s))
    else s) := by
  refine congrArg Host.Outcome.next ((live_run _ h).trans ?_)
  rw [hc]
  simp only [Bool.true_and, Bool.and_eq_true, Bool.not_eq_true', decide_eq_true_eq]

theorem exec_sntWatchdog (h : s.clk.held = false) (hc : wdogCounts s = true) : exec .sntWatchdog s = .next (
    if s.pair.wdogTaken * 1250000 ≤ wdogElapsed s then classSFault 0x23 3 0 0#32 s else s) := by
  refine congrArg Host.Outcome.next ((live_run _ h).trans ?_)
  rw [hc]
  simp only [Bool.true_and, decide_eq_true_eq]

theorem exec_pairKick (h : s.clk.held = false) (v : Word) : exec (.pairKick v) s = .next (pairKick v s) :=
  congrArg Host.Outcome.next (live_run _ h)

/-- MODE_REQ is ignored in Solo and where CTRL is locked (R292, R304). -/
theorem exec_modeReq (h : s.clk.held = false) (v : Word) : exec (.modeReq v) s = .next (setRegN pairCtrl
    (b2n (if rbit s pairCtrl 31 || solo s then rbit s pairCtrl 0 else wbit v 0) +
      b2n (rbit s pairCtrl 31 || wbit v 31) * 2 ^ 31) s) :=
  congrArg Host.Outcome.next (live_run _ h)

/-! The scrubber and the outcomes. -/

theorem exec_sentinelScrub_clean (h : s.clk.held = false) :
    exec (.sentinelScrub .clean .clean .clean) s = .next (scrubNext s) :=
  congrArg Host.Outcome.next (live_run _ h)

theorem exec_bistDone (h : s.clk.held = false) (a b : Bool) (boot : BootReads) : exec (.bistDone a b boot) s = .next (
    if s.pair.handling = .bist ∧ s.faults.bist = false then bistOutcome a b boot s else s) :=
  congrArg Host.Outcome.next (live_run _ h)

theorem exec_restartZeroDone (h : s.clk.held = false) (boot : BootReads) : exec (.restartZeroDone boot) s = .next (
    if s.pair.handling = .zeroing then restart boot s else s) :=
  congrArg Host.Outcome.next (live_run _ h)

/-- PAIR.LAST with the outcome of a BIST of both copies. -/
def bistNoted (a b : Bool) (s : State) : State :=
  setReg pairLast (wsetFld (wsetFld (reg s pairLast) 8 1 (b2n a)) 9 1 (b2n b)) s

/-- A BIST of two copies, none of which had failed (R296). -/
theorem bistOutcome_two (ha : s.pair.failedA = false) (hb : s.pair.failedB = false) (hs : solo s = false) (a b : Bool)
    (boot : BootReads) : bistOutcome a b boot s =
      if a && b then beginZeroing (countTransient (bistNoted a b s))
      else if a || b then oneCopy (!a) boot (bistNoted a b s) else bistFailed (bistNoted a b s) := by
  unfold bistOutcome
  rw [ha, hb, Bool.not_false, Bool.and_true, Bool.and_true, hs]
  rfl

theorem exec_bistDone_two (h : s.clk.held = false) (hh : s.pair.handling = .bist) (hf : s.faults.bist = false)
    (ha : s.pair.failedA = false) (hb : s.pair.failedB = false) (hs : solo s = false) (a b : Bool) (boot : BootReads) :
    exec (.bistDone a b boot) s = .next (
      if a && b then beginZeroing (countTransient (bistNoted a b s))
      else if a || b then oneCopy (!a) boot (bistNoted a b s) else bistFailed (bistNoted a b s)) := by
  rw [exec_bistDone h, if_pos ⟨hh, hf⟩, bistOutcome_two ha hb hs]

theorem oneCopy_solo (h : s.pair.noSolo = false) (aFails : Bool) (boot : BootReads) :
    oneCopy aFails boot s = soloResume boot (markFailed aFails s) := by
  have hn : (markFailed aFails s).pair.noSolo = false := h
  exact if_neg (by rw [hn]; decide)

theorem oneCopy_noSolo (h : s.pair.noSolo = true) (aFails : Bool) (boot : BootReads) :
    oneCopy aFails boot s = beginZeroing (markFailed aFails s) := by
  have hn : (markFailed aFails s).pair.noSolo = true := h
  exact if_pos hn

theorem markFailed_a (s : State) :
    markFailed true s = modPair (fun p => { p with failedA := true, mainB := true, mode := 2 }) s := by
  have h : ({ s.pair with
      failedA := s.pair.failedA || true, failedB := s.pair.failedB || !true, mainB := true, mode := 2 } : Pair) =
      { s.pair with failedA := true, mainB := true, mode := 2 } := by rw [Bool.or_true, Bool.not_true, Bool.or_false]
  exact congrArg (setPair · s) h

theorem markFailed_b (s : State) :
    markFailed false s = modPair (fun p => { p with failedB := true, mainB := false, mode := 2 }) s := by
  have h : ({ s.pair with
      failedA := s.pair.failedA || false, failedB := s.pair.failedB || !false, mainB := false, mode := 2 } : Pair) =
      { s.pair with failedB := true, mainB := false, mode := 2 } := by rw [Bool.or_false, Bool.not_false, Bool.or_true]
  exact congrArg (setPair · s) h

end

/-- Settles O51, each event by its equation. -/
theorem pairEventsHold : Obligations.PairEvents := by
  intro s pair hh hpair
  subst hpair
  refine ⟨fun e he hp hb hht => ?_, fun v => ⟨fun hv => ?_, fun n hv hp => ?_, fun hv hp => ?_, fun hl hs => ?_, fun hls => ?_⟩,
    fun y hy => ⟨fun hn => ?_, fun hn => ?_⟩, fun a b boot h => ?_, fun boot y hbist hf ha hb hs =>
    ⟨fun hy => ?_, fun hy hn => ?_, fun hy hn => ?_, fun hy => ?_⟩, fun boot h => ?_, fun boot h => ?_⟩
  · subst he
    have hc := wdogCounts_of hp hb hht
    refine ⟨fun hw he => ?_, fun he => ?_, fun he => ?_, fun he => ?_⟩
    · exact (exec_wdogWarn hh hc).trans (congrArg Host.Outcome.next (if_pos ⟨hw, he⟩))
    · exact (exec_wdogWarn hh hc).trans (congrArg Host.Outcome.next (if_neg fun h => Nat.not_le.2 he h.2))
    · exact (exec_sntWatchdog hh hc).trans (congrArg Host.Outcome.next (if_pos he))
    · exact (exec_sntWatchdog hh hc).trans (congrArg Host.Outcome.next (if_neg (Nat.not_le.2 he)))
  · exact (exec_pairKick hh v).trans (congrArg Host.Outcome.next (if_pos hv))
  · rw [exec_pairKick hh, pairKick, if_neg (not_not_intro hv), hp]; rfl
  · rw [exec_pairKick hh, pairKick, if_neg (not_not_intro hv), hp]; rfl
  · rw [exec_modeReq hh, show rbit s pairCtrl 31 = false from hl, hs]; rfl
  · have h : (rbit s pairCtrl 31 || solo s) = true := by rw [Bool.or_eq_true]; exact hls
    rw [exec_modeReq hh, h]; rfl
  · subst hy
    exact (exec_sentinelScrub_clean hh).trans (congrArg Host.Outcome.next (if_neg hn))
  · subst hy
    exact (exec_sentinelScrub_clean hh).trans (congrArg Host.Outcome.next (if_pos hn))
  · refine (exec_bistDone hh a b boot).trans (congrArg Host.Outcome.next (if_neg fun hb => ?_))
    rcases h with h | h
    · exact h hb.1
    · rw [hb.2] at h; cases h
  · subst hy
    exact exec_bistDone_two hh hbist hf ha hb hs true true boot
  · subst hy
    rw [exec_bistDone_two hh hbist hf ha hb hs, if_neg (by decide), if_pos (by decide), oneCopy_solo (s := bistNoted false true s) hn]
    exact congrArg (fun x => Host.Outcome.next (soloResume boot x)) (markFailed_a (bistNoted false true s))
  · subst hy
    rw [exec_bistDone_two hh hbist hf ha hb hs, if_neg (by decide), if_pos (by decide), oneCopy_noSolo (s := bistNoted true false s) hn]
    exact congrArg (fun x => Host.Outcome.next (beginZeroing x)) (markFailed_b (bistNoted true false s))
  · subst hy
    exact exec_bistDone_two hh hbist hf ha hb hs false false boot
  · exact (exec_restartZeroDone hh boot).trans (congrArg Host.Outcome.next (if_pos h))
  · exact (exec_restartZeroDone hh boot).trans (congrArg Host.Outcome.next (if_neg h))

end Sys2Proof.Machine
end

section
/-! O52: the boundary register, the instructions of the test access port, and the debug commands (R300–R303, R412, R413, R427–R429). -/

namespace Sys2Proof.Machine

section
variable {s y : State}

/-! The boundary register. -/

theorem boundaryBalls_covered : boundaryBalls = coveredBalls := by decide +kernel

theorem boundaryBalls_cells : (boundaryBalls.map cellCount).sum = 311 := by decide +kernel

/-! The test access port (R427–R429). -/

theorem tapOn_run (h : s.clk.pstate = .run) : tapOn s = true := by rw [tapOn, h]; rfl

/-- An instruction that is selected with nothing to shift. -/
theorem tapRun_nil (h : tapOn s = true) (ir : Nat) (scan : State → State) : tapRun ir [] scan s = tapSelect ir s := by
  rw [tapRun, if_neg (by rw [h]; decide), if_pos rfl]

theorem tapRun_scan {tdi : List Bool} (h : tapOn s = true) (ht : tdi ≠ []) (ir : Nat) (scan : State → State) :
    tapRun ir tdi scan s = scan (tapSelect ir s) := by
  rw [tapRun, if_neg (by rw [h]; decide), if_neg ht]

theorem tapRun_off (h : tapOn s = false) (ir : Nat) (tdi : List Bool) (scan : State → State) : tapRun ir tdi scan s = s :=
  if_pos h

/-- `s` with an instruction of the port selected. -/
def tapSelected (ir : Nat) (s : State) : State := { s with tap := { s.tap with ir := ir }, idn := { s.idn with tap := true } }

/-- An instruction that leaves the balls to their functions. -/
theorem tapSelect_quiet {ir : Nat} (h : tapDrives (tapSelected ir s) = none) : tapSelect ir s = tapSelected ir s := by
  have hs : tapSelect ir s = tapEmit (tapSelected ir s) := rfl
  rw [hs, tapEmit, h]

theorem tapSelect_drives {ir : Nat} {l : List Nat} (h : tapDrives (tapSelected ir s) = some l) :
    tapSelect ir s = emit (.boundary l) (tapSelected ir s) := by
  have hs : tapSelect ir s = tapEmit (tapSelected ir s) := rfl
  rw [hs, tapEmit, h]

theorem ne_nil_of_length {n : Nat} {l : List Bool} (h : l.length = n + 1) : l ≠ [] := by
  rintro rfl
  cases h

/-- A scan as long as the register shifts out what it captured. -/
theorem tapShift_full {cap tdi : List Bool} (h : tdi.length = cap.length) (s : State) : tapShift cap tdi s = emit (.tdo cap) s := by
  rw [tapShift, List.take_left' h.symm]

theorem shifted_full {cap tdi : List Bool} (h : tdi.length = cap.length) : shifted cap tdi = tdi := by
  rw [shifted, List.drop_left' h.symm]

/-- A scan of all cells of the boundary register. -/
theorem scanBoundary_full {tdi : List Bool} (h : tdi.length = 311) (s : State) : scanBoundary tdi s =
    tapEmit { emit (.tdo (bsrCapture s)) { s with freeCtr := s.freeCtr + 311 } with tap := { s.tap with bsr := tdi } } := by
  have hc : tdi.length = (bsrCapture s).length := h.trans (bsrCapture_length s).symm
  unfold scanBoundary
  dsimp only
  rw [tapShift_full hc, shifted_full hc]
  rfl

/-! Debug commands (Tables 14-6, 14-7). -/

/-- `s` in which a debug command runs: the result before is shifted out, and the command is seen (R300). -/
def dbgRuns (s : State) : State := raise 188 (modPair (fun p => { p with dbgSeen := true }) (emit (.tdo (dbgCapture s)) s))

/-- The end of a debug command. -/
def dbgEnds (cmd : Nat) (a v : Word) (r : DbgOut) : State :=
  { r.st with tap := { r.st.tap with cmd := cmd, res := r.res, addr := a, data := r.data.getD v } }

theorem done_dbgOk {x : State} (h : x.undef = false) (cmd : Nat) (a v : Word) :
    done (dbgEnds cmd a v (dbgOk x)) = .next (dbgEnds cmd a v (dbgOk x)) := done_next (s := dbgEnds cmd a v (dbgOk x)) h

theorem done_dbgFail {x : State} (h : x.undef = false) (n cmd : Nat) (a v : Word) :
    done (dbgEnds cmd a v (dbgFail n x)) = .next (dbgEnds cmd a v (dbgFail n x)) :=
  done_next (s := dbgEnds cmd a v (dbgFail n x)) h

theorem dbgScan_runs {cmd : Nat} (h : s.clk.held = false) (ht : tapOn s = true) (hi : s.tap.ir = 0x20) (hc : cmd ≠ 0)
    (a v : Word) (boot : BootReads) : dbgScan cmd a v boot s = dbgEnds cmd a v (dbgCommand cmd a v boot (dbgRuns s)) := by
  have hh : ¬(cmd = 0 ∨ (emit (.tdo (dbgCapture s)) s).clk.held = true) := by
    rintro (h0 | h0)
    · exact hc h0
    · have he : (emit (.tdo (dbgCapture s)) s).clk.held = s.clk.held := rfl
      rw [he, h] at h0
      cases h0
  rw [dbgScan, if_neg (by simp [ht, hi]), dbgUpdate, if_neg hh]
  rfl

/-- The command finds the pair and the core as they were, but for DBG_SEEN. -/
theorem dbgRuns_frame (s : State) : dbgRuns s = { s with
    evc := (dbgRuns s).evc, doors := (dbgRuns s).doors, out := (dbgRuns s).out, pair := { s.pair with dbgSeen := true } } :=
  raise_frame 188 (modPair (fun p => { p with dbgSeen := true }) (emit (.tdo (dbgCapture s)) s))

theorem dbgRuns_core (s : State) : (dbgRuns s).core = s.core := by rw [dbgRuns_frame]
theorem dbgRuns_undef (s : State) : (dbgRuns s).undef = s.undef := by rw [dbgRuns_frame]
theorem dbgRuns_idn (s : State) : (dbgRuns s).idn = s.idn := by rw [dbgRuns_frame]
theorem dbgRuns_pair (s : State) : (dbgRuns s).pair = { s.pair with dbgSeen := true } := by rw [dbgRuns_frame]
theorem copyHalted_dbgRuns (a : Word) (s : State) : copyHalted a (dbgRuns s) = copyHalted a s := by rw [dbgRuns_frame]; rfl
theorem pairStopped_dbgRuns (s : State) : pairStopped (dbgRuns s) = pairStopped s := by rw [dbgRuns_frame]; rfl
theorem solo_dbgRuns (s : State) : solo (dbgRuns s) = solo s := by rw [dbgRuns_frame]; rfl

/-! The bus (Table 14-7). -/

theorem dbgBusRead_ok {a : Word} (h : accessFault false a.toNat 4 = none) (x : State) : dbgBusRead a x =
    { res := 0, data := some (w32 (loadVal x a.toNat 4)), st := loadEffect a.toNat x } := by rw [dbgBusRead, h]

theorem dbgBusRead_fault {a : Word} (h : accessFault false a.toNat 4 ≠ none) (x : State) : dbgBusRead a x = dbgFail 2 x := by
  obtain ⟨d, hd⟩ := Option.ne_none_iff_exists'.1 h
  rw [dbgBusRead, hd]

theorem dbgBusWrite_fault {a : Word} (h : accessFault true a.toNat 4 ≠ none) (v : Word) (x : State) :
    dbgBusWrite a v x = dbgFail 2 x := by
  obtain ⟨d, hd⟩ := Option.ne_none_iff_exists'.1 h
  rw [dbgBusWrite, hd]

/-- `x` with the cache lines of an address invalidated in both copies. -/
def linesDropped (a : Nat) (x : State) : State := { x with pair := { x.pair with
  icache := tdel x.pair.icache (a / 32), chkIcache := tdel x.pair.chkIcache (a / 32)
  dcache := x.pair.dcache.filter fun e => e != a / 32 } }

theorem dbgBusWrite_ok {a : Word} (h : accessFault true a.toNat 4 = none) (v : Word) (x : State) :
    dbgBusWrite a v x = dbgOk (linesDropped a.toNat (storeVal a.toNat 4 v.toNat x)) := by
  rw [dbgBusWrite, h]
  rfl

/-! Register numbers (Table 14-7). -/

theorem wfld_ofNat_fin (n : Fin 16) : wfld (BitVec.ofNat 32 n.val) 0 8 = n.val := by
  rw [wfld_eq, BitVec.toNat_ofNat, Nat.pow_zero, Nat.div_one]
  omega

theorem wbit8_ofNat_fin (n : Fin 16) : wbit (BitVec.ofNat 32 n.val) 8 = false := by
  revert n
  decide

theorem dbgReg_d (n : Fin 16) (c : Core) : dbgReg n.val c = some (tget 0#32 c.d n.val) := if_pos n.isLt

theorem dbgSetReg_d (n : Fin 16) (v : Word) (x : State) :
    dbgSetReg n.val v x = modCore (fun c => { c with d := tset 0#32 c.d n.val v }) x := if_pos n.isLt

theorem modCore_crReadEffect_zero (x : State) : modCore (crReadEffect 0) x = x := rfl

/-- REG_READ of D[n] in the halted main copy. -/
theorem dbgRegRead_d (n : Fin 16) (h : s.pair.halted = true) : dbgRegRead (BitVec.ofNat 32 n.val) s =
    { res := 0, data := some (tget 0#32 s.core.d n.val), st := s } := by
  have hh : copyHalted (BitVec.ofNat 32 n.val) s = true := by
    rw [copyHalted, wbit8_ofNat_fin]
    exact h
  unfold dbgRegRead
  dsimp only
  rw [if_neg (by rw [hh]; decide), wfld_ofNat_fin, wbit8_ofNat_fin, Bool.false_and, if_neg (by decide), dbgReg_d]
  dsimp only
  rw [if_neg (by decide), if_neg (by omega), modCore_crReadEffect_zero]

/-- REG_WRITE of D[n] in the copies that are halted. -/
theorem dbgRegWrite_d (n : Fin 16) (v : Word) (h : (if s.pair.mode = 3 then s.pair.chkHalted else s.pair.halted) = true) :
    dbgRegWrite (BitVec.ofNat 32 n.val) v s =
      if s.pair.mode = 3 then dbgOk (asChecker (modCore fun c => { c with d := tset 0#32 c.d n.val v }) s)
      else
        let x := modCore (fun c => { c with d := tset 0#32 c.d n.val v }) s
        dbgOk (modPair (fun p => { p with commit := x.core, chk := p.chk.map fun _ => x.core }) x) := by
  have hd : dbgSetReg n.val v = modCore fun c => { c with d := tset 0#32 c.d n.val v } := funext fun x => dbgSetReg_d n v x
  unfold dbgRegWrite
  dsimp only
  rw [if_neg (by rw [h]; decide), wfld_ofNat_fin, dbgReg_d, Option.isNone_some, if_neg Bool.false_ne_true, hd]

theorem dbgRegRead_running {a : Word} (h : copyHalted a s = false) : dbgRegRead a s = dbgFail 3 s := if_pos h

theorem dbgRegWrite_running (a v : Word) (h : (if s.pair.mode = 3 then s.pair.chkHalted else s.pair.halted) = false) :
    dbgRegWrite a v s = dbgFail 3 s := if_pos h

/-! While the pair is stopped, no copy can be commanded. -/

theorem pairStopped_of_handling (h : s.pair.handling ≠ .run) : pairStopped s = true := by
  rw [pairStopped, Bool.or_eq_true]
  exact .inl (bne_iff_ne.2 h)

theorem dbgHalt_stopped (h : pairStopped s = true) : dbgHalt s = dbgFail 1 s := if_pos h
theorem dbgResume_stopped (h : pairStopped s = true) (boot : BootReads) : dbgResume boot s = dbgFail 1 s := if_pos h
theorem dbgStep_stopped (h : pairStopped s = true) : dbgStep s = dbgFail 1 s := if_pos h
theorem dbgSetMode_stopped (h : pairStopped s = true) (v : Word) : dbgSetMode v s = dbgFail 1 s := if_pos h
theorem dbgResync_stopped (h : pairStopped s = true) : dbgResync s = dbgFail 1 s := if_pos h

/-! Outside Replay mode. -/

section
variable (hs : pairStopped s = false) (hm : s.pair.mode ≠ 3)
include hs hm

theorem dbgHalt_noBreak (hb : s.pair.brk = false) : dbgHalt s = dbgFail 4 s := by
  rw [dbgHalt, if_neg (by rw [hs]; decide), if_neg hm, if_pos hb]

theorem dbgHalt_break (hb : s.pair.brk = true) (hh : s.pair.halted = false) (hw : s.core.waiting = false) :
    dbgHalt s = dbgOk (haltPair wordEffect s) := by
  rw [dbgHalt, if_neg (by rw [hs]; decide), if_neg hm, if_neg (by rw [hb]; decide), if_neg (by rw [hh]; decide),
    if_neg (by rw [hw]; decide)]

theorem dbgResume_halted (hh : s.pair.halted = true) (boot : BootReads) : dbgResume boot s = dbgOk (unhalt boot s) := by
  rw [dbgResume, if_neg (by rw [hs]; decide), if_neg hm, if_pos hh]

theorem dbgStep_running (hh : s.pair.halted = false) : dbgStep s = dbgFail 3 s := by
  rw [dbgStep, if_neg (by rw [hs]; decide), if_neg hm, if_neg (by rw [hh]; decide)]

theorem dbgStep_halted (hh : s.pair.halted = true) : dbgStep s = dbgOk (stepMain s) := by
  rw [dbgStep, if_neg (by rw [hs]; decide), if_neg hm, if_pos hh]

theorem dbgSetMode_break {v : Word} {b : Bool} (h : wfld v 0 2 = b2n b) :
    dbgSetMode v s = dbgOk (modPair (fun p => { p with brk := b }) s) := by
  unfold dbgSetMode
  dsimp only
  rw [h, if_neg (by rw [hs]; decide)]
  cases b
  · rw [if_neg (by decide), if_neg hm, if_neg (by decide)]; rfl
  · rw [if_neg (by decide), if_neg hm, if_neg (by decide)]; rfl

end

theorem dbgResync_solo (hs : pairStopped s = false) (hl : solo s = true) : dbgResync s = dbgFail 4 s := by
  rw [dbgResync, if_neg (by rw [hs]; decide), if_pos hl]

theorem dbgResync_ok (hs : pairStopped s = false) (hl : solo s = false) (hw : s.core.waiting = false) :
    dbgResync s = dbgOk (resync s) := by
  rw [dbgResync, if_neg (by rw [hs]; decide), if_neg (by rw [hl]; decide), if_neg (by rw [hw]; decide)]

/-- A halted pair outside the boot ROM resumes at its PC. -/
theorem unhalt_undef (hb : s.idn.booting = false) (boot : BootReads) : (unhalt boot s).undef = s.undef := by
  unfold unhalt
  extract_lets s1
  have h : s1.idn.booting = false := hb
  rw [if_neg (by simp [h])]
  rfl

end

/-- Settles O52: the balls by evaluation, the port's instructions by `tapRun`, the debug commands by `dbgScan_runs`. -/
theorem debugAndTest : Obligations.DebugAndTest := by
  refine ⟨⟨boundaryBalls_covered, boundaryBalls_cells⟩, fun s tdi sel hr hsel => ?_,
    fun s a v boot y ends hh ht hi hu hy hends => ?_⟩
  · have hon := tapOn_run hr
    subst hsel
    refine ⟨congrArg Host.Outcome.next (if_pos hon), ?_, fun hl => ?_, fun hn => ?_, ?_, ?_, ?_, fun hl => ?_, fun hl => ?_,
      fun boot hu => ?_, fun i hi => ?_⟩
    · exact congrArg Host.Outcome.next ((tapRun_nil hon _ _).trans (tapSelect_quiet rfl))
    · refine congrArg Host.Outcome.next ((tapRun_scan hon (ne_nil_of_length hl) _ _).trans ?_)
      rw [tapSelect_quiet rfl, tapShift_full (by rw [hl, bitList, List.length_map, List.length_range])]
      rfl
    · refine congrArg Host.Outcome.next ((tapRun_scan hon hn _ _).trans ?_)
      rw [tapSelect_quiet rfl]
      rfl
    · exact ⟨_, congrArg Host.Outcome.next ((tapRun_nil hon _ _).trans (tapSelect_drives rfl)), rfl, rfl⟩
    · exact ⟨_, congrArg Host.Outcome.next ((tapRun_nil hon _ _).trans (tapSelect_drives rfl)), rfl, rfl⟩
    · exact ⟨_, congrArg Host.Outcome.next ((tapRun_nil hon _ _).trans (tapSelect_drives rfl)), rfl, rfl⟩
    · refine ⟨_, congrArg Host.Outcome.next ((tapRun_scan hon (ne_nil_of_length hl) _ _).trans (scanBoundary_full hl _)), rfl, rfl⟩
    · refine ⟨_, congrArg Host.Outcome.next ((tapRun_scan hon (ne_nil_of_length hl) _ _).trans (scanBoundary_full hl _)),
        rfl, rfl, rfl, rfl, rfl⟩
    · have h : tapRun 0x20 [] (scanDebug [] boot) s = tapSelected 0x20 s := (tapRun_nil hon _ _).trans (tapSelect_quiet rfl)
      exact (congrArg done h).trans (done_next (s := tapSelected 0x20 s) hu)
    · have hoff : tapOn { s with clk := { s.clk with pstate := .sleep } } = false := rfl
      simp only [List.mem_cons, List.not_mem_nil, or_false] at hi
      rcases hi with rfl | rfl | rfl | rfl | rfl | rfl | rfl
      case inr.inr.inr.inr.inr.inr => exact congrArg Host.Outcome.next (if_neg (by rw [hoff]; decide))
      all_goals exact congrArg Host.Outcome.next (tapRun_off hoff _ _ _)
  · have hy : y = dbgRuns s := hy
    have hends : ends = fun cmd a v res t => .next (dbgEnds cmd a v { res := res, st := t }) := hends
    subst hy hends
    have hp := dbgRuns_pair s
    have hc := dbgRuns_core s
    have hu' : (dbgRuns s).undef = false := (dbgRuns_undef s).trans hu
    have run : ∀ (cmd : Nat) (a v : Word) (boot : BootReads), cmd ≠ 0 → dbgScan cmd a v boot s =
      dbgEnds cmd a v (dbgCommand cmd a v boot (dbgRuns s)) := fun cmd a v boot hn => dbgScan_runs hh ht hi hn a v boot
    have hstop := pairStopped_dbgRuns s
    refine ⟨fun hf => ?_, fun hf => ?_, fun hf => ?_, fun t hf ht hut => ?_, fun hcop => ?_, fun hcop => ?_, fun n hhalt ha => ?_,
      fun n c hhalt hm ha hcore => ?_, fun n hhalt hm ha => ?_, fun hrun => ?_, fun hst hm => ?_, ?_⟩
    · exact congrArg Host.Outcome.next ((run 1 _ _ _ (by decide)).trans (congrArg (dbgEnds 1 a 0#32) (dbgBusRead_ok hf _)))
    · exact congrArg Host.Outcome.next ((run 1 _ _ _ (by decide)).trans (congrArg (dbgEnds 1 a 0#32) (dbgBusRead_fault hf _)))
    · have h := (run 2 a v {} (by decide)).trans (congrArg (dbgEnds 2 a v) (dbgBusWrite_fault hf v _))
      exact (congrArg done h).trans (done_dbgFail hu' 2 2 a v)
    · subst ht
      have h := (run 2 a v {} (by decide)).trans (congrArg (dbgEnds 2 a v) (dbgBusWrite_ok hf v _))
      exact (congrArg done h).trans
        (done_dbgOk (x := linesDropped a.toNat (storeVal a.toNat 4 v.toNat (dbgRuns s))) hut 2 a v)
    · exact congrArg Host.Outcome.next ((run 3 _ _ _ (by decide)).trans
        (congrArg (dbgEnds 3 a 0#32) (dbgRegRead_running ((copyHalted_dbgRuns a s).trans hcop))))
    · exact congrArg Host.Outcome.next ((run 4 _ _ _ (by decide)).trans
        (congrArg (dbgEnds 4 a v) (dbgRegWrite_running a v (by rw [hp]; exact hcop))))
    · subst ha
      refine congrArg Host.Outcome.next ((run 3 _ _ _ (by decide)).trans ?_)
      rw [← hc]
      exact congrArg (dbgEnds 3 _ 0#32) (dbgRegRead_d n (by rw [hp]; exact hhalt))
    · subst ha hcore
      refine congrArg Host.Outcome.next ((run 4 _ _ _ (by decide)).trans ?_)
      have hm' : (dbgRuns s).pair.mode ≠ 3 := by rw [hp]; exact hm
      have h := dbgRegWrite_d (s := dbgRuns s) n v (by rw [if_neg hm', hp]; exact hhalt)
      rw [if_neg hm'] at h
      rw [← hc]
      exact congrArg (dbgEnds 4 _ v) h
    · subst ha
      refine congrArg Host.Outcome.next ((run 4 _ _ _ (by decide)).trans ?_)
      have hm' : (dbgRuns s).pair.mode = 3 := by rw [hp]; exact hm
      have h := dbgRegWrite_d (s := dbgRuns s) n v (by rw [if_pos hm', hp]; exact hhalt)
      rw [if_pos hm'] at h
      exact congrArg (dbgEnds 4 _ v) h
    · have h := hstop.trans (pairStopped_of_handling hrun)
      refine ⟨?_, ?_, ?_, ?_, ?_⟩
      · exact congrArg Host.Outcome.next ((run 5 _ _ _ (by decide)).trans (congrArg (dbgEnds 5 _ _) (dbgHalt_stopped h)))
      · have hr := (run 6 0#32 0#32 boot (by decide)).trans (congrArg (dbgEnds 6 _ _) (dbgResume_stopped h boot))
        exact (congrArg done hr).trans (done_dbgFail hu' 1 6 0#32 0#32)
      · have hr := (run 7 0#32 0#32 {} (by decide)).trans (congrArg (dbgEnds 7 _ _) (dbgStep_stopped h))
        exact (congrArg done hr).trans (done_dbgFail hu' 1 7 0#32 0#32)
      · exact congrArg Host.Outcome.next ((run 8 _ _ _ (by decide)).trans (congrArg (dbgEnds 8 _ _) (dbgSetMode_stopped h v)))
      · exact congrArg Host.Outcome.next ((run 9 _ _ _ (by decide)).trans (congrArg (dbgEnds 9 _ _) (dbgResync_stopped h)))
    · have h := hstop.trans hst
      have hm' : (dbgRuns s).pair.mode ≠ 3 := by rw [hp]; exact hm
      have hhalted : (dbgRuns s).pair.halted = s.pair.halted := by rw [hp]
      have hbrk : (dbgRuns s).pair.brk = s.pair.brk := by rw [hp]
      have hwait : (dbgRuns s).core.waiting = s.core.waiting := by rw [hc]
      refine ⟨fun hb => ?_, fun hb hn hw => ?_, fun h1 => ?_, fun hha hbo => ?_, fun hha => ?_, fun hha hus => ?_, fun hv => ?_,
        fun hv => ?_, fun hso => ?_, fun hso hw => ?_⟩
      · exact congrArg Host.Outcome.next ((run 5 _ _ _ (by decide)).trans
          (congrArg (dbgEnds 5 _ _) (dbgHalt_noBreak h hm' (hbrk.trans hb))))
      · exact congrArg Host.Outcome.next ((run 5 _ _ _ (by decide)).trans
          (congrArg (dbgEnds 5 _ _) (dbgHalt_break h hm' (hbrk.trans hb) (hhalted.trans hn) (hwait.trans hw))))
      · exact if_neg (by rw [hp]; exact h1)
      · have hr := (run 6 0#32 0#32 boot (by decide)).trans
          (congrArg (dbgEnds 6 _ _) (dbgResume_halted h hm' (hhalted.trans hha) boot))
        have hb : (dbgRuns s).idn.booting = false := by rw [dbgRuns_idn]; exact hbo
        exact (congrArg done hr).trans (done_dbgOk ((unhalt_undef hb boot).trans hu') 6 0#32 0#32)
      · have hr := (run 7 0#32 0#32 {} (by decide)).trans (congrArg (dbgEnds 7 _ _) (dbgStep_running h hm' (hhalted.trans hha)))
        exact (congrArg done hr).trans (done_dbgFail hu' 3 7 0#32 0#32)
      · have hr := (run 7 0#32 0#32 {} (by decide)).trans (congrArg (dbgEnds 7 _ _) (dbgStep_halted h hm' (hhalted.trans hha)))
        exact (congrArg done hr).trans (done_dbgOk hus 7 0#32 0#32)
      · exact congrArg Host.Outcome.next ((run 8 _ _ _ (by decide)).trans
          (congrArg (dbgEnds 8 _ _) (dbgSetMode_break (b := true) h hm' hv)))
      · exact congrArg Host.Outcome.next ((run 8 _ _ _ (by decide)).trans
          (congrArg (dbgEnds 8 _ _) (dbgSetMode_break (b := false) h hm' hv)))
      · exact congrArg Host.Outcome.next ((run 9 _ _ _ (by decide)).trans
          (congrArg (dbgEnds 9 _ _) (dbgResync_solo h ((solo_dbgRuns s).trans hso))))
      · exact congrArg Host.Outcome.next ((run 9 _ _ _ (by decide)).trans
          (congrArg (dbgEnds 9 _ _) (dbgResync_ok h ((solo_dbgRuns s).trans hso) (hwait.trans hw))))
    · exact congrArg Host.Outcome.next (run 10 _ _ _ (by decide))

end Sys2Proof.Machine
end

section
/-! O42: PANEL_POST, the Blitter's jobs and the kick of the seal (R256, R360, R366–R369). -/

namespace Sys2Proof.Machine

section
variable {s : State}

/-! PANEL_POST. -/

/-- The checks of the host window leave the Blitter's queue. -/
theorem checkCfg_queue (s : State) : (checkCfg s).panel.queue = s.panel.queue := by
  unfold checkCfg
  extract_lets ok s1
  split
  · rw [raise_frame]; rfl
  · rfl

/-- A PANEL_POST whose pointers, length and parameters pass. -/
theorem exec_panelPost {d : DoorId} {tag : Nat} {c : Cmd} {x : State} (hc : Spec.Takes s d tag 0x60 c)
    (hp : pointersOk d c.pkt = true) (hl : postLenBad d c.pkt = none) (hx : x = checkCfg (Spec.taken s d tag))
    (hb : postBad x c.pkt = none) (hostIn : Option Bytes) : exec (.panelPost d tag hostIn) s = .next (
      if !x.panel.cfgValid || !rbit x 0x40060008 1 then finishSt d tag stClosed 0 x
      else match cmdInput x d c hostIn with
        | none => finishSt d tag stPointer 0 x
        | some bs => queuePost (postJob x d tag c.pkt bs) x) := by
  subst hx
  refine congrArg Host.Outcome.next ((live_dispatch_takes _ hc).trans ?_)
  dsimp only
  rw [hp, if_neg (by decide), hl]
  dsimp only
  rw [hb]
  rfl

theorem queuePost_room {j : BltJob} (h : s.panel.queue.length < 16) :
    queuePost j s = Spec.panelled (fun p => { p with queue := p.queue ++ [j] }) s :=
  congrArg (fun p => { s with panel := p }) (if_pos h)

/-! GO (R368) and the kick of the seal (R360). -/

theorem exec_bltGo (h : s.clk.held = false) (v : Word) : exec (.bltGo v) s = .next (bltGo v s) :=
  congrArg Host.Outcome.next (live_run _ h)

theorem exec_sealKick (h : s.clk.held = false) (v : Word) : exec (.sealKick v) s = .next (sealKick v s) :=
  congrArg Host.Outcome.next (live_run _ h)

theorem bltGo_refused {v : Word} (hv : wbit v 0 = true) (h : goWhy s (goJob s) ≠ 0) : bltGo v s =
    raise 65 (orReg 0x40070004 (if goWhy s (goJob s) = 5 then 6 else 2)
      (Spec.panelled (fun p => { p with why := goWhy s (goJob s) }) s)) := by
  rw [bltGo, if_pos hv]
  exact if_neg h

theorem bltGo_queued {v : Word} (hv : wbit v 0 = true) (h : goWhy s (goJob s) = 0) :
    bltGo v s = Spec.panelled (fun p => { p with queue := p.queue ++ [goJob s] }) s := by
  rw [bltGo, if_pos hv]
  exact if_pos h

/-! Jobs (R366, R367, R369). -/

/-- The head of the queue starts where nothing that runs holds it. -/
theorem startJob_ok {j : BltJob} {rest : List BltJob} {u : Nat} (hq : s.panel.queue = j :: rest) (hw : s.panel.postWait = [])
    (hu : freeUnit s = some u) (hb : j.beam = false)
    (hr : ∀ r ∈ runningJobs s, jobHolds r j = false ∧ (r.input = none ∨ j.input = none)) :
    startJob none s = Spec.panelled (fun p => { p with queue := rest })
      (Spec.panelled (fun p => { p with units := tset none p.units u (some (jobBegun s j)) }) s) := by
  have hnone : (runningJobs s).any (fun r => jobHolds r j || (r.input.isSome && j.input.isSome)) = false := by
    rw [List.any_eq_false]
    intro r hm
    obtain ⟨hh, hi⟩ := hr r hm
    rcases hi with hi | hi <;> simp [hh, hi]
  have hmay : mayStart s none = some (j, u) := by
    rw [mayStart, hq, hu]
    dsimp only
    rw [hb, hnone]
    rfl
  have hp : ({ s.panel with
      units := tset none s.panel.units u (some (jobBegun s j)), queue := s.panel.queue.drop 1 ++ s.panel.postWait.take 1
      postWait := s.panel.postWait.drop 1 } : Panel) =
      { s.panel with units := tset none s.panel.units u (some (jobBegun s j)), queue := rest } := by
    rw [hq, List.drop_one, List.tail_cons, show s.panel.postWait.take 1 = [] by rw [hw]; rfl, List.append_nil,
      show s.panel.postWait.drop 1 = s.panel.postWait by rw [hw]; rfl]
  rw [startJob, hmay]
  exact congrArg (fun p => { s with panel := p }) hp

theorem jobOver_iff {q : BltJob} (hd : q.dead = false) :
    jobOver s q = true ↔ 2 * (16 + jobBursts q * (4 + q.idle)) ≤ nowP s - q.start := by
  rw [jobOver, hd, Bool.false_or, decide_eq_true_iff]
  rfl

/-- `s` with a job's pixels written, its unit free and the job counted. -/
def jobWritten (u : Nat) (q : BltJob) (s : State) : State :=
  let x := jobPixels q (q.w * q.h) s
  setReg 0x40070040 (reg x 0x40070040 + 1#32) (setBltUnit u none x)

/-- The end of a job that is over. -/
theorem jobDone_over {u : Nat} {q : BltJob} (hq : bltUnit s u = some q) (hd : q.dead = false)
    (ho : 2 * (16 + jobBursts q * (4 + q.idle)) ≤ nowP s - q.start) : jobDone u s = (
      let s3 := if q.input.isSome then jobWritten u q s else modPanel (fun p => { p with lastTag := q.tag }) (jobWritten u q s)
      let s4 := if q.wm then setRegN (pnlBase + 0x020) (q.wmLine + 2 ^ 31) s3 else s3
      let s5 := if q.irq then raise 64 (putBit (bltBase + 0x004) 0 true s4) else s4
      match q.post with
      | none => s5
      | some (d, tag, clipped) =>
        finish d tag (if clipped then 0x01 else 0x00) (if clipped then 0x50 else 0) (q.w * q.h) 0 0 none s5) := by
  rw [jobDone, hq]
  dsimp only
  rw [(jobOver_iff hd).2 ho, if_neg (by decide), hd, if_neg Bool.false_ne_true]
  cases q.post <;> rfl

end

/-- Settles O42: PANEL_POST by its equation, the start and the end of a job by `startJob_ok` and `jobDone_over`. -/
theorem panelJobs : Obligations.PanelJobs := by
  refine ⟨fun s d tag c hostIn bs x hc hp hl hx hb => ⟨fun h => ?_, fun hv hr hin hq => ?_⟩,
    fun s v j hh hj => ⟨fun hv => ?_, fun hv hw => ?_, fun y hv hy hne => ?_, fun hv => ?_, fun hv => ?_⟩,
    fun s j rest u hh hq hw hu hb hr => congrArg Host.Outcome.next ((live_run _ hh).trans (startJob_ok hq hw hu hb hr)),
    fun s u q hh hq hd ht => ?_, fun s u q y hh hq hd ht hy => ⟨fun hpost hin hwm hirq => ?_, fun hpost hin hwm hirq => ?_,
      fun d tag clip hpost hin hwm hirq => ?_⟩⟩
  · rw [exec_panelPost hc hp hl hx hb]
    exact congrArg Host.Outcome.next (if_pos (by rcases h with h | h <;> simp [h]))
  · have hlen : x.panel.queue.length < 16 := by rw [hx, checkCfg_queue]; exact hq
    rw [exec_panelPost hc hp hl hx hb, if_neg (by simp [hv, hr]), hin]
    exact congrArg Host.Outcome.next (queuePost_room hlen)
  · exact (exec_bltGo hh v).trans (congrArg Host.Outcome.next (if_neg (by rw [hv]; decide)))
  · subst hj
    exact (exec_bltGo hh v).trans (congrArg Host.Outcome.next (bltGo_queued hv hw))
  · subst hj hy
    exact (exec_bltGo hh v).trans (congrArg Host.Outcome.next (bltGo_refused hv hne))
  · exact (exec_sealKick hh v).trans (congrArg Host.Outcome.next (if_pos hv))
  · exact (exec_sealKick hh v).trans (congrArg Host.Outcome.next (if_neg hv))
  · have ho : jobOver s q = false := Bool.eq_false_iff.2 fun h => Nat.not_le.2 ht ((jobOver_iff hd).1 h)
    refine congrArg Host.Outcome.next ((live_run _ hh).trans ?_)
    rw [jobDone, hq]
    exact if_pos (by rw [ho]; rfl)
  all_goals
    have hy : y = jobWritten u q s := hy
    subst hy
    refine congrArg Host.Outcome.next ((live_run _ hh).trans ((jobDone_over hq hd ht).trans ?_))
    rw [hpost, hwm, hirq]
    dsimp only
  · rw [hin, Option.isSome_none, if_neg Bool.false_ne_true, if_neg Bool.false_ne_true, if_neg Bool.false_ne_true]; rfl
  · rw [hin, Option.isSome_none, if_neg Bool.false_ne_true, if_pos rfl, if_pos rfl]; rfl
  · rw [if_pos (Option.isSome_iff_ne_none.2 hin), if_neg Bool.false_ne_true, if_neg Bool.false_ne_true]

end Sys2Proof.Machine
end

section
/-! O44: AUDIO_STREAM, the sample boundary, the balls of the sinks, and the writes that wait for the boundary (R257, R372–R387). -/

namespace Sys2Proof.Machine

section
variable {s x y : State}

/-! AUDIO_STREAM (R257). -/

theorem streamBusy_iff (s : State) (d : Nat) : (match streamOwner s with | some o => o != d | none => false) = true ↔
    ∃ b ∈ s.audio.stream.head?, b.door ≠ d := by
  unfold streamOwner
  cases s.audio.stream with
  | nil => simp
  | cons b r => simp

theorem exec_audioStream {d : DoorId} {tag : Nat} {c : Cmd} (hc : Spec.Takes s d tag 0x61 c)
    (hp : pointersOk d c.pkt = true) (h2 : 2 ≤ pktInLen c.pkt) (hev : pktInLen c.pkt % 2 = 0)
    (htop : pktInLen c.pkt ≤ (if d = 2 then 16384 else 65536)) (hostIn : Option Bytes) :
    exec (.audioStream d tag hostIn) s = .next (
      let x := Spec.taken s d tag
      if !wbit (aud s 0x008) 0 then finishSt d tag stClosed 0 x
      else if (match streamOwner s with | some o => o != d.val | none => false) then finishSt d tag stStreamBusy 0 x
      else if 4 ≤ s.audio.stream.length then finishSt d tag stQueueFull 0 x
      else match cmdInput x d c hostIn with
        | none => finishSt d tag stPointer 0 x
        | some bs => modAudio (fun a => { a with stream := a.stream ++ [{ door := d, tag := tag, data := bs }] }) x) := by
  have htop' : pktInLen c.pkt ≤ (if d.val = 2 then 16384 else 65536) := by
    have hd : d = 2 ↔ d.val = 2 := Fin.ext_iff
    simpa only [hd] using htop
  refine congrArg Host.Outcome.next ((live_dispatch_takes _ hc).trans ?_)
  dsimp only
  rw [hp, if_neg (by decide), if_neg (by simp [inRange, h2, htop', hev])]
  rfl

/-! What the operations of a boundary leave. -/

/-- `x` has the sample count, the phase resets and the registers in force of `y`. -/
structure SameClock (x y : State) : Prop where
  samples : x.audio.samples = y.audio.samples
  prst : x.audio.prst = y.audio.prst
  live : x.audio.live = y.audio.live

/-- And its voices too. -/
structure SameVoices (x y : State) : Prop extends SameClock x y where
  voices : x.audio.voices = y.audio.voices

theorem SameVoices.refl (x : State) : SameVoices x x := ⟨⟨rfl, rfl, rfl⟩, rfl⟩

theorem SameClock.trans {x y z : State} (h : SameClock x y) (g : SameClock y z) : SameClock x z :=
  ⟨h.samples.trans g.samples, h.prst.trans g.prst, h.live.trans g.live⟩

theorem SameVoices.trans {x y z : State} (h : SameVoices x y) (g : SameVoices y z) : SameVoices x z :=
  ⟨h.toSameClock.trans g.toSameClock, h.voices.trans g.voices⟩

theorem SameVoices.of_audio (h : x.audio = y.audio) : SameVoices x y :=
  ⟨⟨congrArg Audio.samples h, congrArg Audio.prst h, congrArg Audio.live h⟩, congrArg Audio.voices h⟩

theorem audEvent_audio (b n : Nat) (x : State) : (audEvent b n x).audio = x.audio := by
  rw [audEvent, raise_frame]; rfl

theorem raiseIf_audio (b : Bool) (n : Nat) (x : State) : (raiseIf b n x).audio = x.audio := by
  unfold raiseIf
  split
  · rw [raise_frame]
  · rfl

theorem finish_audio (d tag status detail r0 r1 r2 : Nat) (data : Option Bytes) (s : State) :
    (finish d tag status detail r0 r1 r2 data s).audio = s.audio := by
  obtain ⟨_, _, _, _, _, _, h⟩ := finish_frame d tag status detail r0 r1 r2 data s
  rw [h]

theorem audEvent_same (b n : Nat) (x : State) : SameVoices (audEvent b n x) x := .of_audio (audEvent_audio b n x)

theorem modSink_same (k : Nat) (f : Sink → Sink) (x : State) : SameVoices (modSink k f x) x := ⟨⟨rfl, rfl, rfl⟩, rfl⟩

/-! Writes that take effect. -/

theorem spApply_same (x : State) : SameVoices (spApply x) x := by
  unfold spApply
  split <;> exact ⟨⟨rfl, rfl, rfl⟩, rfl⟩

theorem eqApply_same (k : Nat) (x : State) : SameVoices (eqApply k x) x := by
  unfold eqApply
  extract_lets z o s1
  have h1 : SameVoices s1 x := by
    unfold s1
    split
    · exact modSink_same k _ x
    · exact .refl x
  split
  · exact (audEvent_same _ _ _).trans ((modSink_same k _ s1).trans h1)
  · exact h1

theorem streamStop_same (x : State) : SameVoices (streamStop x) x := by
  unfold streamStop
  split
  · exact .refl x
  · extract_lets s1
    have h1 : s1.audio = x.audio := by
      refine List.foldlRecOn (motive := fun y : State => y.audio = x.audio) _ _ rfl fun y hy b _ => ?_
      split
      · exact (finish_audio ..).trans hy
      · exact (finish_audio ..).trans hy
    exact (audEvent_same _ _ _).trans (SameVoices.trans (y := s1) ⟨⟨rfl, rfl, rfl⟩, rfl⟩ (.of_audio h1))

/-- The boundary takes the written registers live (R373). -/
theorem audioApply_same (s : State) : SameVoices (audioApply s)
    (modAudio (fun a => { a with live := s.regs.filter fun e => inRange e.1 audBase (audBase + 0xFFFF) }) s) := by
  unfold audioApply
  extract_lets s1 s2
  have h2 : SameVoices s2 s1 := (eqApply_same 1 _).trans ((eqApply_same 0 _).trans (spApply_same s1))
  split
  · exact h2
  · exact (streamStop_same s2).trans h2

/-! The voices (R374). -/

theorem voiceStep_clock (n : Nat) (x : State) : SameClock (voiceStep n x) x := by
  unfold voiceStep
  extract_lets o v0 v1 v2 s1
  have h1 : SameClock s1 x := ⟨rfl, rfl, rfl⟩
  split
  · exact (audEvent_same _ _ _).toSameClock.trans h1
  · exact h1

theorem voices_voiceStep (n : Nat) (x : State) : ∃ v : Voice, v.phase =
      (if n ∈ x.audio.prst then 0 else ((voice x n).phase + afld x (0x040 + 0x20 * n) 0 32) % 2 ^ 32) ∧
    (voiceStep n x).audio.voices = tset {} x.audio.voices n v := by
  unfold voiceStep
  extract_lets o v0 v1 v2 s1
  have hkey : v1.phase = (phaseStep (afld x o 0 32) (x.audio.prst.contains n) v0).phase := by
    unfold v1 keyStep
    split <;> rfl
  have henv : ∀ (a d u r : Nat) (v : Voice), (envStep a d u r v).phase = v.phase := by
    intro a d u r v
    unfold envStep
    dsimp only
    split
    · rfl
    · rfl
    · split <;> rfl
    · rfl
    · rfl
  refine ⟨v2, ?_, ?_⟩
  · rw [show v2.phase = v1.phase from henv .., hkey, phaseStep]
    by_cases hm : n ∈ x.audio.prst
    · rw [if_pos (List.contains_iff_mem.2 hm), if_pos hm]
    · rw [if_neg (fun h => hm (List.contains_iff_mem.1 h)), if_neg hm]
  · split
    · rw [audEvent_audio]; rfl
    · rfl

theorem voice_voiceStep_ne {m n : Nat} (h : m ≠ n) (x : State) : voice (voiceStep n x) m = voice x m := by
  obtain ⟨v, _, hv⟩ := voices_voiceStep n x
  rw [voice, hv]
  exact tget_tset_ne _ _ _ h

theorem tableWf_voiceStep (n : Nat) (h : tableWf {} 0 x.audio.voices = true) :
    tableWf {} 0 (voiceStep n x).audio.voices = true := by
  obtain ⟨v, _, hv⟩ := voices_voiceStep n x
  rw [hv]
  exact tableWf_tset n v h

theorem phase_voiceStep (n : Nat) (h : tableWf {} 0 x.audio.voices = true) : (voice (voiceStep n x) n).phase =
    if n ∈ x.audio.prst then 0 else ((voice x n).phase + afld x (0x040 + 0x20 * n) 0 32) % 2 ^ 32 := by
  obtain ⟨v, hp, hv⟩ := voices_voiceStep n x
  rw [voice, hv, tget_tset_same n v h, hp]

theorem afld_same (h : SameClock x y) (o lo len : Nat) : afld x o lo len = afld y o lo len := by
  rw [afld, afld, aud, aud, h.live]

/-- Voices advanced one after the other: each once, out of the state before all of them. -/
theorem voices_advance : ∀ (l : List Nat) (x : State), l.Nodup →
    SameClock (l.foldl (fun x n => voiceStep n x) x) x ∧
    (tableWf {} 0 x.audio.voices = true → ∀ n, (voice (l.foldl (fun x n => voiceStep n x) x) n).phase =
      if n ∈ l then (if n ∈ x.audio.prst then 0 else ((voice x n).phase + afld x (0x040 + 0x20 * n) 0 32) % 2 ^ 32)
      else (voice x n).phase)
  | [], x, _ => ⟨⟨rfl, rfl, rfl⟩, fun _ _ => by simp⟩
  | m :: l, x, hnd => by
    obtain ⟨hm, hl⟩ := List.nodup_cons.1 hnd
    have hs := voiceStep_clock m x
    obtain ⟨hc, hp⟩ := voices_advance l (voiceStep m x) hl
    refine ⟨hc.trans hs, fun hw n => ?_⟩
    rw [List.foldl_cons, hp (tableWf_voiceStep m hw) n, afld_same hs, hs.prst]
    rcases eq_or_ne n m with rfl | hne
    · rw [if_neg hm, if_pos List.mem_cons_self, phase_voiceStep n hw]
    · rw [voice_voiceStep_ne hne]
      simp only [List.mem_cons, hne, false_or]

/-! What follows the voices. -/

theorem spStep_same (x : State) : SameVoices (spStep x).2 x := by
  unfold spStep
  extract_lets len out back s1
  have hout : ∀ y, SameVoices (out y).2 y := fun y => ⟨⟨rfl, rfl, rfl⟩, rfl⟩
  split
  · exact .refl x
  · split
    · exact hout x
    · split
      · exact (hout _).trans ((SameVoices.of_audio (raiseIf_audio _ _ _)).trans ⟨⟨rfl, rfl, rfl⟩, rfl⟩)
      · exact (audEvent_same _ _ _).trans ⟨⟨rfl, rfl, rfl⟩, rfl⟩

theorem streamStep_same (x : State) : SameVoices (streamStep x).2 x := by
  unfold streamStep
  split
  · exact ⟨⟨rfl, rfl, rfl⟩, rfl⟩
  · extract_lets gap v b1 s1 s2
    split
    · exact ⟨⟨rfl, rfl, rfl⟩, rfl⟩
    · have h2 : SameVoices s2 x := (SameVoices.of_audio (finish_audio ..)).trans ⟨⟨rfl, rfl, rfl⟩, rfl⟩
      dsimp only
      split
      · exact (audEvent_same 3 71 s2).trans h2
      · exact h2

theorem satSink_same (k : Nat) (i : Int) (x : State) : SameVoices (satSink k i x).2 x := by
  unfold satSink
  dsimp only
  split
  · exact .refl x
  · exact audEvent_same _ _ _

theorem eqSection_same (k j : Nat) (i : Int) (x : State) : SameVoices (eqSection k j i x).2 x := by
  unfold eqSection
  extract_lets z q c sum v
  split
  · exact .refl x
  · exact SameVoices.trans (y := v.2) ⟨⟨rfl, rfl, rfl⟩, rfl⟩ (satSink_same k _ x)

theorem equalise_same (k : Nat) (i : Int) (x : State) : SameVoices (equalise k i x).2 x :=
  List.foldlRecOn (motive := fun a : Int × State => SameVoices a.2 x) _ _ (.refl x)
    fun a ha j _ => (eqSection_same k j a.1 a.2).trans ha

theorem silence_same (k : Nat) (i : Int) (x : State) : SameVoices (silence k i x) x := by
  unfold silence
  extract_lets cfg mode z quiet start n s1
  have h1 : SameVoices s1 x := modSink_same k _ x
  split
  · exact (modSink_same k _ s1).trans h1
  · split
    · exact (modSink_same k _ s1).trans h1
    · split
      · exact (audEvent_same _ _ _).trans ((modSink_same k _ s1).trans h1)
      · split
        · exact (audEvent_same _ _ _).trans ((modSink_same k _ s1).trans h1)
        · exact h1

theorem sinksOut_same (i j : Int) (x : State) : SameVoices (sinksOut i j x) x :=
  ⟨⟨rfl, rfl, rfl⟩, rfl⟩

/-- A counted sample: SAMPLES is one more, modulo 2^32 (R372). -/
theorem countSample_counts (x : State) : SameVoices (countSample x)
    (modAudio (fun a => { a with samples := (a.samples + 1) % 2 ^ 32 }) x) := by
  unfold countSample
  extract_lets period t s1
  have h1 : SameVoices s1 (modAudio (fun a => { a with samples := (a.samples + 1) % 2 ^ 32 }) x) :=
    ⟨⟨rfl, rfl, rfl⟩, rfl⟩
  split
  · exact (audEvent_same _ _ _).trans h1
  · exact h1

/-- A boundary is: the written registers live, each voice on by one sample, no phase reset left, one sample counted. -/
theorem sampleBoundary_same (s : State) : SameVoices (sampleBoundary s) (modAudio (fun a =>
    { a with prst := [], samples := (a.samples + 1) % 2 ^ 32 })
      ((List.range 4).foldl (fun x n => voiceStep n x) (audioApply s))) := by
  unfold sampleBoundary
  extract_lets s1 s2 sp st xs m0 m1 y0 y1
  have hst : SameVoices st.2 s2 := (streamStep_same _).trans (spStep_same s2)
  have hm : SameVoices m1.2 s2 := (satSink_same 1 _ _).trans ((satSink_same 0 _ _).trans hst)
  have hy : SameVoices y1.2 s2 := (equalise_same 1 _ _).trans ((equalise_same 0 _ _).trans hm)
  have hz : SameVoices (sinksOut y0.1 y1.1 (silence 1 y1.1 (silence 0 y0.1 y1.2))) s2 :=
    (sinksOut_same ..).trans ((silence_same ..).trans ((silence_same ..).trans hy))
  refine (countSample_counts _).trans ⟨⟨?_, hz.prst, hz.live⟩, hz.voices⟩
  exact congrArg (fun n => (n + 1) % 2 ^ 32) hz.samples

theorem tget_filter {α : Type} (d : α) (p : Nat × α → Bool) {i : Nat} (hp : ∀ v, p (i, v) = true) :
    ∀ t : Table α, tget d (t.filter p) i = tget d t i
  | [] => rfl
  | (k, v) :: t => by
    by_cases hk : k = i
    · subst hk
      rw [List.filter_cons_of_pos (hp v), tget, tget, if_pos rfl, if_pos rfl]
    · rw [tget, if_neg hk, ← tget_filter d p hp t]
      by_cases hv : p (k, v) = true
      · rw [List.filter_cons_of_pos hv, tget, if_neg hk]
      · rw [List.filter_cons_of_neg hv]

/-- At a boundary a register in force is the register as written. -/
theorem aud_audioApply (s : State) {o : Nat} (ho : o ≤ 0xFFFF) : aud (audioApply s) o = reg s (audBase + o) := by
  rw [aud, (audioApply_same s).live]
  exact tget_filter _ _ (fun v => by simp [inRange, ho]) s.regs

theorem exec_sampleBoundary (hh : s.clk.held = false) :
    exec .sampleBoundary s = .next (if aclkRuns s then sampleBoundary s else s) :=
  congrArg Host.Outcome.next (live_run _ hh)

theorem live_sampleBoundary (s : State) : (sampleBoundary s).audio.live =
    s.regs.filter (fun e => decide (0x40040000 ≤ e.1 ∧ e.1 ≤ 0x4004FFFF)) := by
  rw [(sampleBoundary_same s).live]
  refine ((voices_advance _ _ List.nodup_range).1.live.trans (audioApply_same s).live).trans
    (List.filter_congr fun e _ => ?_)
  exact (Bool.decide_and (0x40040000 ≤ e.1) (e.1 ≤ 0x4004FFFF)).symm

theorem samples_sampleBoundary (s : State) : (sampleBoundary s).audio.samples = (s.audio.samples + 1) % 2 ^ 32 := by
  refine (sampleBoundary_same s).samples.trans (congrArg (fun n => (n + 1) % 2 ^ 32) ?_)
  exact (voices_advance _ _ List.nodup_range).1.samples.trans (audioApply_same s).samples

theorem phase_sampleBoundary {n : Nat} (hw : tableWf {} 0 s.audio.voices = true) (hn : n < 4) :
    (voice (sampleBoundary s) n).phase =
      if n ∈ s.audio.prst then 0 else ((voice s n).phase + (reg s (0x40040040 + 0x20 * n)).toNat) % 2 ^ 32 := by
  have ha := audioApply_same s
  have hv : voice (audioApply s) n = voice s n := congrArg (fun t : Table Voice => tget ({} : Voice) t n) ha.voices
  have hw' : tableWf {} 0 (audioApply s).audio.voices = true := ha.voices.symm ▸ hw
  have hf : afld (audioApply s) (0x040 + 0x20 * n) 0 32 = (reg s (0x40040040 + 0x20 * n)).toNat := by
    rw [afld, aud_audioApply s (by omega), wfld_eq, pow_zero, Nat.div_one, Nat.mod_eq_of_lt (BitVec.isLt _)]
    exact congrArg (fun a => (reg s a).toNat) (by rw [audBase]; omega)
  have hp := (voices_advance (List.range 4) _ List.nodup_range).2 hw' n
  rw [if_pos (List.mem_range.2 hn), hv, hf, ha.prst] at hp
  exact (congrArg (fun t => (tget {} t n).phase) (sampleBoundary_same s).voices).trans hp

/-! The balls of the sinks (R382–R384). -/

theorem length_pwmSample (y : Int) : ∀ (n : Nat) (e1 e2 : Int), (pwmSample y n e1 e2).1.length = n
  | 0, _, _ => rfl
  | n + 1, _, _ => congrArg (· + 1) (length_pwmSample y n _ _)

theorem length_pwmBalls : ∀ l : List Nat, (pwmBalls l).length = 50 * l.length
  | [] => rfl
  | q :: l => by
    have ih := length_pwmBalls l
    rw [pwmBalls] at ih ⊢
    rw [List.flatMap_cons, List.length_append, ih, List.length_map, List.length_range, List.length_cons]
    ring

theorem compl_of_mem_pwmBalls {l : List Nat} {e : Bool × Bool} (h : e ∈ pwmBalls l) : e.2 = !e.1 := by
  obtain ⟨q, _, hq⟩ := List.mem_flatMap.1 h
  obtain ⟨c, _, rfl⟩ := List.mem_map.1 hq
  rfl

theorem length_slotBits (y : Int) (on : Bool) : (slotBits y on).length = 24 := by
  rw [slotBits, List.length_map, List.length_range]

theorem length_s1Frame_stereo {cfg : Word} (h : wbit cfg 2 = false) (y : Int) : (s1Frame cfg y).length = 50 := by
  rw [s1Frame, h, if_neg Bool.false_ne_true]
  simp [List.range_succ, length_slotBits]

theorem length_s1Frame_tdm {cfg : Word} (h : wbit cfg 2 = true) (y : Int) : (s1Frame cfg y).length = 250 := by
  rw [s1Frame, if_pos h]
  simp [List.range_succ, length_slotBits]

/-- The balls that the sinks drive for a sample. -/
def audioBalls (y0 y1 : Int) (s : State) : AudioBalls :=
  { pwm := if wbit (aud s 0x008) 1 && (sink s 0).en && !audioHeld s then
      pwmBalls (pwmSample y0 5 (sink s 0).e1 (sink s 0).e2).1 else []
    mclk := wbit (aud s 0x190) 8 && !audioHeld s
    bclk := if wbit (aud s 0x008) 2 && !audioHeld s then (if wbit (aud s 0x190) 2 then 1 else 5) else 0
    fs := if wbit (aud s 0x008) 2 && !audioHeld s then s1Fs (aud s 0x190) else []
    sd := if wbit (aud s 0x008) 2 && !audioHeld s then s1Frame (aud s 0x190) y1 else []
    en0 := (sink s 0).en
    en1 := (sink s 1).en }

theorem out_sinksOut (y0 y1 : Int) (s : State) : (sinksOut y0 y1 s).out = .audio (audioBalls y0 y1 s) :: s.out := rfl

theorem errors_sinksOut_off (y0 y1 : Int) (h : wbit (aud s 8) 1 = false ∨ (sink s 0).en = false)
    (hw : tableWf {} 0 s.audio.sinks = true) :
    (sink (sinksOut y0 y1 s) 0).e1 = 0 ∧ (sink (sinksOut y0 y1 s) 0).e2 = 0 := by
  have hoff : (wbit (aud s 8) 1 && (sink s 0).en && !audioHeld s) = false := by
    rcases h with h | h <;> simp [h]
  have hs : sink (sinksOut y0 y1 s) 0 = { sink s 0 with e1 := 0, e2 := 0 } := by
    refine (tget_tset_same 0 _ hw).trans ?_
    dsimp only
    rw [hoff]
    rfl
  rw [hs]
  exact ⟨rfl, rfl⟩

/-! Writes that wait for the boundary (R387). -/

theorem audWrite_voice (n : Fin 4) (v : Word) : audWrite (0x050 + 0x20 * n.val) v s = if wbit v 1 then
      modAudio (fun a => { a with prst := if a.prst.contains n.val then a.prst else a.prst ++ [n.val] })
        (writeTyped (0x40040050 + 0x20 * n.val) false v s)
      else writeTyped (0x40040050 + 0x20 * n.val) false v s := by
  fin_cases n <;> rfl

theorem audWrite_spCtrl {v : Word} (h : wbit v 0 = false ∨ spBad s (wbit v 1) = false) : audWrite 0x0D0 v s =
    modAudio (fun a => { a with spWrite := some (wbit v 0) }) (writeTyped 0x400400D0 false v s) := by
  have hb : ¬ ((wbit v 0 && spBad s (wbit v 1)) = true) := by
    rcases h with h | h <;> simp [h]
  exact if_neg hb

theorem audWrite_eqCtrl (k : Fin 2) (v : Word) : audWrite (0x200 + 0x100 * k.val) v s =
    modSink k.val (fun z => { z with commit := z.commit || wbit v 8, clr := z.clr || wbit v 9 })
      (writeTyped (0x40040200 + 0x100 * k.val) false v s) := by
  fin_cases k <;> rfl

theorem exec_voiceKey (hh : s.clk.held = false) (n : Fin 4) (v : Word) :
    exec (.voiceKey n v) s = .next (audWrite (0x050 + 0x20 * n.val) v s) :=
  congrArg Host.Outcome.next (live_run _ hh)

theorem exec_prst (hh : s.clk.held = false) (n : Fin 4) (v : Word) :
    exec (.prst n v) s = .next (audWrite (0x050 + 0x20 * n.val) v s) :=
  congrArg Host.Outcome.next (live_run _ hh)

end

/-- Settles O44: the boundary keeps its clock and voices through every operation but the ones that set them, the balls are read off
the one emission of the sinks, and each write is one of the register writes of R387. -/
theorem audioEvents : Obligations.AudioEvents := by
  refine ⟨?_, fun s hh => ⟨fun ha => ?_, fun ha => ?_, ?_, ?_, fun v hv => ?_, fun v k => ?_⟩⟩
  · rintro s d tag c hostIn bs x rfl hc hp h2 hev htop
    have he := exec_audioStream hc hp h2 hev htop hostIn
    have hbusy := streamBusy_iff s d.val
    dsimp only at he
    refine ⟨fun h0 => ?_, fun b hb h0 hd => ?_, fun h0 hd h4 => ?_, fun h0 hd h4 hin => ?_⟩
    · rw [he, h0]
      rfl
    · rw [he, h0, if_neg (by decide), if_pos (hbusy.2 ⟨b, hb, hd⟩)]
      rfl
    · rw [he, h0, if_neg (by decide), if_neg (fun h => (hbusy.1 h).elim fun b hb => hb.2 (hd b hb.1)), if_pos h4]
      rfl
    · rw [he, h0, if_neg (by decide), if_neg (fun h => (hbusy.1 h).elim fun b hb => hb.2 (hd b hb.1)),
        if_neg (Nat.not_le.2 h4), hin]
      rfl
  · rw [exec_sampleBoundary hh, ha, if_neg Bool.false_ne_true]
  · exact ⟨_, (exec_sampleBoundary hh).trans (by rw [if_pos ha]), samples_sampleBoundary s, (sampleBoundary_same s).prst,
      live_sampleBoundary s, fun hw n hn => phase_sampleBoundary hw hn⟩
  · intro y0 y1 b hb
    obtain rfl : audioBalls y0 y1 s = b := by
      have := (out_sinksOut y0 y1 s).symm.trans hb
      simpa using this
    refine ⟨⟨rfl, rfl⟩, fun h => ⟨?_, errors_sinksOut_off y0 y1 h⟩, fun h1 hen hheld => ?_, fun h2 => ?_, fun h2 hheld => ?_⟩
    · rcases h with h | h <;> simp [audioBalls, h]
    · have hb : (audioBalls y0 y1 s).pwm = pwmBalls (pwmSample y0 5 (sink s 0).e1 (sink s 0).e2).1 := by
        simp [audioBalls, h1, hen, hheld]
      rw [hb, length_pwmBalls, length_pwmSample]
      exact ⟨rfl, fun _ => compl_of_mem_pwmBalls⟩
    · simp [audioBalls, h2]
    · have hon : (wbit (aud s 8) 2 && !audioHeld s) = true := by rw [h2, hheld]; rfl
      have hsd : (audioBalls y0 y1 s).sd = s1Frame (aud s 0x190) y1 := if_pos hon
      have hfs : (audioBalls y0 y1 s).fs = s1Fs (aud s 0x190) := if_pos hon
      have hbc : (audioBalls y0 y1 s).bclk = if wbit (aud s 0x190) 2 then 1 else 5 := if_pos hon
      refine ⟨fun hf => ?_, fun hf => ?_⟩
      · rw [hsd, hfs, hbc, hf]
        exact ⟨rfl, length_s1Frame_stereo hf y1, by rw [s1Fs, hf, if_neg Bool.false_ne_true]⟩
      · rw [hsd, hfs, hbc, if_pos hf]
        exact ⟨rfl, length_s1Frame_tdm hf y1, if_pos hf⟩
  · rintro v n y rfl
    refine ⟨fun h1 => ?_, fun h1 hn => ?_⟩
    · have := audWrite_voice (s := s) n v
      rw [h1, if_neg Bool.false_ne_true] at this
      exact ⟨(exec_voiceKey hh n v).trans (congrArg _ this), (exec_prst hh n v).trans (congrArg _ this)⟩
    · rw [exec_prst hh, audWrite_voice, if_pos h1, modAudio, writeTyped_audio,
        if_neg (fun h => hn (List.contains_iff_mem.1 h))]
  · exact congrArg Host.Outcome.next ((live_run _ hh).trans (audWrite_spCtrl hv))
  · exact ⟨_, rfl, congrArg Host.Outcome.next ((live_run _ hh).trans (audWrite_eqCtrl k v)),
      congrArg Host.Outcome.next ((live_run _ hh).trans (audWrite_eqCtrl k v))⟩

end Sys2Proof.Machine
end

section
/-! O43: line starts, the raster's start, the Line Sequencer and the Dandy check (R329–R343, R365). -/

namespace Sys2Proof.Machine

section
variable {s : State}

/-! Line starts (R331, R333). -/

theorem exec_lineStart (hh : s.clk.held = false) (times : List Nat) : exec (.lineStart times) s = .next
    (if !s.panel.running then s else if !rbit s pnlCtrl 0 then rasterOff s else lineStart times s) :=
  congrArg Host.Outcome.next (live_run _ hh)

theorem exec_lineStart_on (hh : s.clk.held = false) (times : List Nat) (hr : s.panel.running = true)
    (he : rbit s pnlCtrl 0 = true) : exec (.lineStart times) s = .next (lineStart times s) := by
  rw [exec_lineStart hh, hr, he]
  rfl

/-- The line that a line start reaches, begun. -/
def lineBegun (s : State) : State :=
  modPanel (fun p => { p with line := (s.panel.line + 1) % s.panel.live.vtot, hblank := false }) s

theorem lineStart_vsync (times : List Nat) (h : (s.panel.line + 1) % s.panel.live.vtot = s.panel.live.vsync) :
    lineStart times s = lineCommon (sendBlank (raise 49 (pnlFlag 1 (applyTiming (pxdivApply (lineBegun s)))))) :=
  congrArg lineCommon (if_pos h)

theorem lineStart_first (times : List Nat) (hv : (s.panel.line + 1) % s.panel.live.vtot ≠ s.panel.live.vsync)
    (h : (s.panel.line + 1) % s.panel.live.vtot = 0) :
    lineStart times s = lineCommon (sendLine 0 times (scanStart (lineBegun s))) :=
  congrArg lineCommon ((if_neg hv).trans (if_pos h))

theorem lineStart_active (times : List Nat) (h0 : (s.panel.line + 1) % s.panel.live.vtot ≠ 0)
    (h : (s.panel.line + 1) % s.panel.live.vtot < s.panel.live.vact) :
    lineStart times s = lineCommon (sendLine ((s.panel.line + 1) % s.panel.live.vtot) times (lineBegun s)) := by
  have hv : (s.panel.line + 1) % s.panel.live.vtot ≠ s.panel.live.vsync :=
    (h.trans_le (Nat.le_add_right _ _)).ne
  exact congrArg lineCommon ((if_neg hv).trans ((if_neg h0).trans (if_pos h)))

theorem lineStart_end (times : List Nat) (hv : (s.panel.line + 1) % s.panel.live.vtot ≠ s.panel.live.vsync)
    (h0 : (s.panel.line + 1) % s.panel.live.vtot ≠ 0) (h : (s.panel.line + 1) % s.panel.live.vtot = s.panel.live.vact) :
    lineStart times s = lineCommon (sendBlank (scanEnd (lineBegun s))) :=
  congrArg lineCommon ((if_neg hv).trans ((if_neg h0).trans ((if_neg h.not_lt).trans (if_pos h))))

theorem lineStart_blank (times : List Nat) (hv : (s.panel.line + 1) % s.panel.live.vtot ≠ s.panel.live.vsync)
    (h : s.panel.live.vact < (s.panel.line + 1) % s.panel.live.vtot) :
    lineStart times s = lineCommon (sendBlank (lineBegun s)) :=
  congrArg lineCommon ((if_neg hv).trans ((if_neg (Nat.zero_lt_of_lt h).ne').trans
    ((if_neg h.not_gt).trans (if_neg h.ne'))))

/-! What a blanking line shows (R331, R335). -/

theorem lineClocks_blank {t : Timing} {y : Nat} (h : t.vact ≤ y) :
    let b := fun px hs de => clockBalls t.out px hs (vsyncLine t y) de
    lineClocks t y [] = [(t.hact, b 0 false false), (t.hfp, b 0 false false), (t.hsw, b 0 true false), (t.hbp, b 0 false false)] := by
  rw [lineClocks]
  dsimp only
  rw [if_neg h.not_gt]
  rfl

/-- In the parallel format colours show inside DE alone, and each signal has its polarity. -/
theorem clockBalls_parallel {out : Nat} (h : bitAt out 0 = false) (px : Nat) (hs vs de : Bool) : clockBalls out px hs vs de =
    { rgb := if de then px else 0, hsync := hs == bitAt out 2, vsync := vs == bitAt out 3, de := de != bitAt out 4
      pclk := if bitAt out 5 then .falling else .rising } := by
  rw [clockBalls]
  dsimp only
  rw [if_neg (ne_true_of_eq_false h)]
  rfl

/-! The raster's start, the Line Sequencer and the Dandy check. -/

theorem exec_rasterStart (hh : s.clk.held = false) : exec .rasterStart s = .next
    (if s.panel.running || !rbit s pnlCtrl 0 || !pxclkRuns s then s
    else if s.panel.live.ok then
      lineCommon (sendBlank (panelChange (modPanel (fun p => { p with
        running := true, line := p.live.vact, hblank := false, heart := 0, frame := p.frame + 1, lines := [], dandyN := 0
        dandy := [], motion := false }) s)))
    else pnlFlag 10 (modPanel (fun p => { p with timingPend := false }) s)) :=
  congrArg Host.Outcome.next (live_run _ hh)

theorem exec_activeEnd (hh : s.clk.held = false) (hr : s.panel.running = true) (hb : s.panel.hblank = false) :
    exec .activeEnd s = .next (if s.panel.line + 2 = s.panel.live.vtot then lsRestart (modPanel (fun q => { q with hblank := true }) s)
      else modPanel (fun q => { q with hblank := true, lsOpen := (s.panel.line + 2) % s.panel.live.vtot }) s) := by
  refine congrArg Host.Outcome.next ((live_run _ hh).trans ?_)
  dsimp only
  rw [hr, hb, if_neg (by decide)]
  rfl

theorem exec_lsEntryWrite (hh : s.clk.held = false) : exec .lsEntryWrite s = .next (lsStep s) :=
  congrArg Host.Outcome.next (live_run _ hh)

section
variable {last : Bool} {line target value : Nat}

theorem lsStep_idle (ha : s.panel.lsActive = false) : lsStep s = s := by
  rw [lsStep]
  dsimp only
  rw [ha]
  rfl

theorem lsStep_end (he : lsEntry s s.panel.lsPos = (last, line, target, value)) (ha : s.panel.lsActive = true)
    (h : last = true ∨ s.panel.live.vtot ≤ line) : lsStep s = modPanel (fun q => { q with lsActive := false }) s := by
  have hend : (last || decide (s.panel.live.vtot ≤ line)) = true := by
    rw [Bool.or_eq_true, decide_eq_true_eq]; exact h
  rw [lsStep, he]
  dsimp only
  rw [ha, if_neg (by decide), if_pos hend]

/-- An entry that is neither END nor beyond the frame is late, waits or is executed (R340). -/
theorem lsStep_entry (he : lsEntry s s.panel.lsPos = (last, line, target, value)) (ha : s.panel.lsActive = true)
    (hl : last = false) (hv : line < s.panel.live.vtot) : lsStep s =
      if line < s.panel.lsSrv then raise 54 (pnlFlag 6 (modPanel (fun q => { q with lsActive := false }) s))
      else if s.panel.lsOpen < line then s
      else if inRange target 0x400 0x4FF then raise 54 (pnlFlag 7 (modPanel (fun q => { q with
        lsPos := q.lsPos + 8, lsSrv := line, lsCount := q.lsCount + 1, lsLast := line }) s))
      else cmpWrite target (w32 value) (modPanel (fun q => { q with
        lsPos := q.lsPos + 8, lsSrv := line, lsCount := q.lsCount + 1, lsLast := line }) s) := by
  have hend : ¬ (last || decide (s.panel.live.vtot ≤ line)) = true := by
    rw [Bool.or_eq_true, decide_eq_true_eq, hl]
    exact fun h => h.elim Bool.false_ne_true hv.not_ge
  rw [lsStep, he]
  dsimp only
  rw [ha, if_neg (by decide), if_neg hend]

end

/-- The oldest sample: skipped where something changed, else compared; equal lines are counted and no more (R365). -/
theorem exec_dandyDone {q : Dandy} {r : List Dandy} (hh : s.clk.held = false) (hd : s.panel.dandy = q :: r) :
    (q.chg ≠ s.panel.chg → exec .dandyDone s = .next (cmpCount 0x110 (modPanel (fun p => { p with dandy := r }) s))) ∧
    (q.chg = s.panel.chg → (worstDiff 0 q.exact q.sent).1 = 0 →
      exec .dandyDone s = .next (cmpCount 0x108 (modPanel (fun p => { p with dandy := r }) s))) := by
  refine ⟨fun hc => ?_, fun hc h0 => ?_⟩
  · refine congrArg Host.Outcome.next ((live_run _ hh).trans ?_)
    dsimp only
    rw [hd]
    dsimp only
    rw [if_pos hc]
  · refine congrArg Host.Outcome.next ((live_run _ hh).trans ?_)
    dsimp only
    rw [hd]
    dsimp only
    rw [if_neg (not_not.2 hc), h0]
    rfl

end

/-- Settles O43: each line start by the line it reaches, the blanking levels, and one equation per branch of the raster's start,
the Line Sequencer and the Dandy check. -/
theorem rasterEvents : Obligations.RasterEvents := by
  refine fun s hh => ⟨fun times hr => ?_, fun times hr he => ?_, ?_, ?_, fun h => ?_, ?_, fun hr hb => ⟨fun h => ?_, fun h => ?_⟩,
    fun last line target value he => ⟨fun ha => ?_, fun ha h => ?_, fun ha hl hv hs => ?_, fun ha hl hv hs ho => ?_, ?_⟩, ?_⟩
  · rw [exec_lineStart hh, hr]
    rfl
  · rw [exec_lineStart hh, hr, show rbit s pnlCtrl 0 = false from he, rasterOff, hr]
    rfl
  · rintro times n t y hr he rfl rfl rfl
    have hx := exec_lineStart_on hh times hr he
    exact ⟨fun h => hx.trans (congrArg _ (lineStart_vsync times h)),
      fun hv h => hx.trans (congrArg _ (lineStart_first times hv h)),
      fun h0 h => hx.trans (congrArg _ (lineStart_active times h0 h)),
      fun hv h0 h => hx.trans (congrArg _ (lineStart_end times hv h0 h)),
      fun hv h => hx.trans (congrArg _ (lineStart_blank times hv h))⟩
  · rintro t b v rfl rfl rfl
    refine ⟨fun h => congrArg (fun l => emit (.panelLine s.panel.line l) s) (lineClocks_blank h), fun px hs h => ?_⟩
    simp [clockBalls_parallel h]
  · have hidle : (s.panel.running || !rbit s pnlCtrl 0 || !pxclkRuns s) = true := by
      rcases h with h | h
      · rw [h]; rfl
      · rw [show rbit s pnlCtrl 0 = false from h, Bool.not_false, Bool.or_true, Bool.true_or]
    rw [exec_rasterStart hh, if_pos hidle]
  · rintro t hr he hp rfl
    have hx := exec_rasterStart hh
    rw [hr, show rbit s pnlCtrl 0 = true from he, hp, if_neg (by decide)] at hx
    exact ⟨fun ht => by rw [hx, ht, if_neg Bool.false_ne_true]; rfl, fun ht => by rw [hx, if_pos ht]; rfl⟩
  · rw [exec_activeEnd hh hr hb, if_pos h]
    rfl
  · rw [exec_activeEnd hh hr hb, if_neg h]
    rfl
  · rw [exec_lsEntryWrite hh, lsStep_idle ha]
  · rw [exec_lsEntryWrite hh, lsStep_end he ha h]
    rfl
  · rw [exec_lsEntryWrite hh, lsStep_entry he ha hl hv, if_pos hs]
    rfl
  · rw [exec_lsEntryWrite hh, lsStep_entry he ha hl hv, if_neg hs.not_gt, if_pos ho]
  · rintro y ha hl hv hs ho rfl
    have hx := lsStep_entry he ha hl hv
    rw [if_neg hs.not_gt, if_neg ho.not_gt] at hx
    refine ⟨fun h4 h5 => ?_, fun h => ?_⟩
    · rw [exec_lsEntryWrite hh, hx, if_pos (by simp [inRange, h4, h5])]
      rfl
    · rw [exec_lsEntryWrite hh, hx, if_neg (by simp only [inRange, Bool.and_eq_true, decide_eq_true_eq]; omega)]
      rfl
  · rintro q r y hd rfl
    exact exec_dandyDone hh hd

end Sys2Proof.Machine
end

section
/-! O45: general pins (R391, R407, R409), tachometers and the fan watchdog (R392–R396), the three-phase drive (R397–R401). -/

namespace Sys2Proof.Machine

section
variable {s : State}

/-! General pins. -/

theorem bitAt_wfld_8_2_zero (w : Word) : bitAt (wfld w 8 2) 0 = wbit w 8 := by
  rw [bitAt_eq_testBit, wfld_eq, Nat.testBit_mod_two_pow, Nat.testBit_div_two_pow]
  rfl

theorem bitAt_wfld_8_2_one (w : Word) : bitAt (wfld w 8 2) 1 = wbit w 9 := by
  rw [bitAt_eq_testBit, wfld_eq, Nat.testBit_mod_two_pow, Nat.testBit_div_two_pow]
  rfl

/-- EDGE selects rising edges by its low bit and falling ones by its high bit (R407). -/
theorem edgeSelected (w : Word) (rising : Bool) :
    bitAt (wfld w 8 2) (if rising then 0 else 1) = wbit w (if rising then 8 else 9) := by
  cases rising
  · exact bitAt_wfld_8_2_one w
  · exact bitAt_wfld_8_2_zero w

theorem exec_gpioEdge (hh : s.clk.held = false) (n : Fin 48) (rising : Bool) :
    exec (.gpioEdge n rising) s = .next (gpioEdge n.val rising s) :=
  congrArg Host.Outcome.next (live_run _ hh)

theorem gpioEdge_none {n : Nat} {rising : Bool} (h : bitAt s.pins.level n = rising ∨ gpBit s 0x070 n = true) :
    gpioEdge n rising s = s := by
  refine if_neg fun hb => ?_
  obtain ⟨hr, hl⟩ := Bool.and_eq_true_iff.1 hb
  rcases h with h | h
  · exact (bne_iff_ne.1 hl) h
  · rw [gpResolved, h] at hr
    exact Bool.false_ne_true hr

/-- The pins with a detected edge on pin `n`. -/
def edgeLevel (n : Nat) (rising : Bool) (s : State) : State :=
  setPins { s.pins with level := if rising then s.pins.level + 2 ^ n else s.pins.level - 2 ^ n } s

theorem gpioEdge_detected {n : Nat} {rising : Bool} (hl : bitAt s.pins.level n ≠ rising) (hr : gpBit s 0x070 n = false) :
    gpioEdge n rising s = if wbit (pinCfg s n) (if rising then 8 else 9) then
      raiseIf (wbit (pinCfg s n) 10) (32 + n / 16) (putBit (gpioAddr 0x060 (n / 16)) (n % 16) true (edgeLevel n rising s))
      else edgeLevel n rising s := by
  have hb : (gpResolved s n && (bitAt s.pins.level n != rising)) = true := by
    rw [gpResolved, hr, bne_iff_ne.2 hl]; rfl
  rw [gpioEdge, if_pos hb]
  dsimp only
  rw [edgeSelected]
  rfl

theorem exec_lockSequence (hh : s.clk.held = false) (b : Fin 3) (v : Word) :
    exec (.lockSequence b v) s = .next (lockWrite b.val v s) :=
  congrArg Host.Outcome.next (live_run _ hh)

theorem lockWrite_two {b : Nat} (h : tget 0 s.pins.lockSeq b = 2) (v : Word) : lockWrite b v s =
    setReg (gpioAddr 0x080 b) (reg s (gpioAddr 0x080 b) ||| (v &&& 0xFFFF#32))
      (setPins { s.pins with lockSeq := tset 0 s.pins.lockSeq b 0 } s) := by
  rw [lockWrite, h]
  rfl

theorem lockWrite_one {b : Nat} (h : tget 0 s.pins.lockSeq b = 1) (v : Word) : lockWrite b v s =
    setPins { s.pins with lockSeq := tset 0 s.pins.lockSeq b (if v = 0xA5#32 then 2 else if v = 0x5A#32 then 1 else 0) } s := by
  rw [lockWrite, h]
  change (if v = 0xA5#32 then _ else if v = 0x5A#32 then _ else _) = _
  split
  · rfl
  · split <;> rfl

theorem lockWrite_zero {b : Nat} (h : tget 0 s.pins.lockSeq b = 0) (v : Word) : lockWrite b v s =
    setPins { s.pins with lockSeq := tset 0 s.pins.lockSeq b (if v = 0x5A#32 then 1 else 0) } s := by
  rw [lockWrite, h]
  change (if v = 0x5A#32 then _ else _) = _
  split <;> rfl

theorem gpResolve_low {n : Nat} (high : Bool) (hr : gpBit s 0x070 n = true) (hl : bitAt s.pins.level n = false) :
    gpResolve n high s = putBit (gpioAddr 0x070 (n / 16)) (n % 16) false
      (setPins { s.pins with level := s.pins.level + (if high then 2 ^ n else 0) } s) := by
  rw [gpResolve, if_neg (by rw [gpResolved, hr]; decide), hl]
  rfl

theorem fanResolve_new {i : Nat} (f : Fans → Fans) (h : bitAt s.fans.resolved i = false) :
    fanResolve i f s = setFans (f { s.fans with resolved := s.fans.resolved + 2 ^ i }) s :=
  if_neg (ne_true_of_eq_false h)

/-! Tachometers and the watchdog. -/

theorem exec_tachEdge (hh : s.clk.held = false) (n : Fin 3) :
    exec (.tachEdge n) s = .next (if bitAt s.fans.resolved n.val then tachEdge n.val s else s) :=
  congrArg Host.Outcome.next (live_run _ hh)

theorem tachEdge_timed {n t : Nat} (h : (tach s n).edge = some t) : tachEdge n s = tachSettle s n
    (setTach n { tach s n with edge := some (nowP s) } (setRegN (tachAddr n 0) (min 0xFFFFFF (ticksSince s t)) s)) := by
  rw [tachEdge, h]
  rfl

theorem exec_fanFault (hh : s.clk.held = false) (n : Fin 4) : exec (.fanFault n) s = .next
    (if slowLong s n.val && !(tach s n.val).faulted then
      raise (36 + n.val) (putBit fanFlags n.val true (setTach n.val { tach s n.val with faulted := true } s))
    else s) :=
  congrArg Host.Outcome.next (live_run _ hh)

theorem slowLong_iff (s : State) (n : Nat) : slowLong s n = true ↔
    slowCounts s n = true ∧ rfld s (tachAddr n 8) 16 16 * 1250000 ≤ nowP s - slowSince s n := by
  rw [slowLong, Bool.and_eq_true, decide_eq_true_eq]

theorem exec_fanKick (hh : s.clk.held = false) (v : Word) : exec (.fanKick v) s = .next (fanKick v s) :=
  congrArg Host.Outcome.next (live_run _ hh)

theorem exec_manual (hh : s.clk.held = false) (v : Word) : exec (.manual v) s = .next (fanCtrlWrite v s) :=
  congrArg Host.Outcome.next (live_run _ hh)

theorem exec_fanTakeover (hh : s.clk.held = false) : exec .fanTakeover s = .next (if fanManual s && fanExpired s then
      raise 43 (putBit fanFlags 6 true (setFans { s.fans with wdog := none, left := 0 } (putBit fanCtrl 0 false s)))
    else s) :=
  congrArg Host.Outcome.next (live_run _ hh)

theorem fanExpired_of {m t : Nat} (hw : s.fans.wdog = some (m, t)) (h : m * 1250000 ≤ nowP s - t) : fanExpired s = true := by
  rw [fanExpired, hw]
  exact decide_eq_true h

/-! The gates (R397–R399). -/

theorem raise_fans (n : Nat) (x : State) : (raise n x).fans = x.fans := by rw [raise_frame]

theorem gateRun_off (h : s.fans.f3 ≠ 2) (g : Nat) : gateRun s g = (0, 0) := if_pos h

/-- The row of Table 19-3 for DIR 0, turned round for DIR 1. -/
theorem hallStep_true (code : Nat) : hallStep code true = (hallStep code false).map fun p => (p.2, p.1) := rfl

theorem hallStep_invalid {code : Nat} (h : code = 0 ∨ 7 ≤ code) (dir : Bool) : hallStep code dir = none := by
  have hrow : hallStep code false = none := by
    unfold hallStep
    dsimp only
    rw [if_neg Bool.false_ne_true]
    split
    case h_7 => rfl
    all_goals omega
  cases dir
  · exact hrow
  · rw [hallStep_true, hrow]
    rfl

theorem gateRun_invalid (h : s.fans.hall = 0 ∨ 7 ≤ s.fans.hall) (g : Nat) : gateRun s g = (0, 0) := by
  rw [gateRun, hallCode, hallStep_invalid h]
  split <;> rfl

/-- The two phases of a code differ (Table 19-3). -/
theorem hallStep_ne {code p r : Nat} {dir : Bool} (h : hallStep code dir = some (p, r)) : p ≠ r := by
  have hc : code < 7 := by
    by_contra hn
    rw [hallStep_invalid (.inr (Nat.not_lt.1 hn))] at h
    cases h
  have hall : ∀ c < 7, ∀ d, ∀ q ∈ hallStep c d, q.1 ≠ q.2 := by decide
  exact hall code hc dir (p, r) h

theorem gateRun_run {p r : Nat} (hf : s.fans.f3 = 2) (hs : hallStep s.fans.hall s.fans.dir = some (p, r)) (g : Nat) :
    gateRun s g = if g = 2 * p then (0, applied s 3)
      else if g = 2 * p + 1 then (if s.fans.comp then (applied s 3, 400) else (0, 0))
      else if g = 2 * r + 1 then (0, 400) else (0, 0) := by
  rw [gateRun, if_neg (not_not.2 hf), hallCode, hs]

theorem gateHigh_none {g : Nat} (h : gateRun s g = (0, 0)) : gateHigh s g = (0, 0) := by
  rw [gateHigh, h]
  exact if_neg (Nat.not_lt_zero _)

/-- A gate that is high at some tick: not before its command's rise and the dead time, and until its command falls. -/
theorem gateHigh_bounds {g : Nat} (h : (gateHigh s g).1 < (gateHigh s g).2) :
    gateRise s g + s.fans.dead ≤ s.fans.pwmAt + (gateHigh s g).1 ∧ (gateHigh s g).2 = (gateRun s g).2 := by
  rw [gateHigh] at h ⊢
  split at h
  case isTrue hlo =>
    rw [if_pos hlo]
    exact ⟨by dsimp only; omega, rfl⟩
  case isFalse hlo => exact absurd h (Nat.lt_irrefl 0)

theorem gateRise_ge (s : State) (g : Nat) (h : (gateRun s g).1 ≠ 0) : s.fans.pwmAt + (gateRun s g).1 ≤ gateRise s g := by
  rw [gateRise, if_neg h]
  exact Nat.le_max_left _ _

/-- A gate that is high at a tick has its command true there. -/
theorem gateRun_of_high {g c : Nat} (h : (gateHigh s g).1 ≤ c ∧ c < (gateHigh s g).2) :
    (gateRun s g).1 ≤ c ∧ c < (gateRun s g).2 := by
  obtain ⟨hr, hf⟩ := gateHigh_bounds (h.1.trans_lt h.2)
  refine ⟨?_, hf ▸ h.2⟩
  by_cases h0 : (gateRun s g).1 = 0
  · omega
  · have := gateRise_ge s g h0
    omega

/-- The commands of the two gates of a leg are never true together. -/
theorem gateRun_leg (s : State) (leg c : Nat) : ¬ (((gateRun s (2 * leg)).1 ≤ c ∧ c < (gateRun s (2 * leg)).2) ∧
    (gateRun s (2 * leg + 1)).1 ≤ c ∧ c < (gateRun s (2 * leg + 1)).2) := by
  rintro ⟨⟨_, hhi⟩, hlo, hlo'⟩
  by_cases hf : s.fans.f3 = 2
  · cases hs : hallStep s.fans.hall s.fans.dir with
    | none =>
      rw [gateRun, if_neg (not_not.2 hf), hallCode, hs] at hhi
      exact Nat.not_lt_zero _ hhi
    | some pr =>
      obtain ⟨p, r⟩ := pr
      rw [gateRun_run hf hs] at hhi hlo hlo'
      by_cases hp : 2 * leg = 2 * p
      · rw [if_pos hp] at hhi
        rw [if_neg (by omega), if_pos (by omega)] at hlo hlo'
        split at hlo'
        case isTrue hc =>
          rw [if_pos hc] at hlo
          exact absurd hhi (Nat.not_lt.2 hlo)
        case isFalse hc => exact Nat.not_lt_zero _ hlo'
      · rw [if_neg hp, if_neg (by omega), if_neg (by omega)] at hhi
        exact Nat.not_lt_zero _ hhi
  · rw [gateRun_off hf] at hhi
    exact Nat.not_lt_zero _ hhi

/-! A change of the drive settles the gates (R398). -/

theorem gateSettle_rest {was : List (Option Nat)} (hf : s.fans.f3 ≠ 2) (hw : ∀ o ∈ was, o = none) : gateSettle was s = s := by
  refine if_pos (Bool.and_eq_true_iff.2 ⟨List.all_eq_true.2 fun o ho => ?_, bne_iff_ne.2 hf⟩)
  rw [hw o ho]
  rfl

theorem gateSettle_low {was : List (Option Nat)} (hw : s.fans.f3 = 2 ∨ ∃ o ∈ was, o ≠ none)
    (hg : ∀ l g, gateRun (setFans { s.fans with gateFrom := l } s) g = (0, 0)) :
    (gateSettle was s).out = .gates (List.replicate 6 (0, 0)) :: s.out := by
  have hb : ¬ (was.all (·.isNone) && s.fans.f3 != 2) = true := by
    rw [Bool.and_eq_true, List.all_eq_true, bne_iff_ne]
    rintro ⟨hn, hf⟩
    rcases hw with hw | ⟨o, ho, hne⟩
    · exact hf hw
    · exact hne (Option.isNone_iff_eq_none.1 (hn o ho))
  rw [gateSettle, if_neg hb]
  dsimp only
  refine congrArg (fun l => Out.gates l :: s.out) ?_
  rw [List.map_congr_left fun g _ => gateHigh_none (hg _ g)]
  rfl

theorem gateSettle_fans (was : List (Option Nat)) (x : State) : ∃ l, (gateSettle was x).fans = { x.fans with gateFrom := l } := by
  rw [gateSettle]
  split
  · exact ⟨x.fans.gateFrom, rfl⟩
  · exact ⟨_, rfl⟩

theorem gateSince_off (h : s.fans.f3 ≠ 2) (c : Nat) : ∀ o ∈ gateSince s c, o = none := by
  intro o ho
  obtain ⟨g, _, rfl⟩ := List.mem_map.1 ho
  dsimp only
  rw [gateRun_off h]
  exact if_neg fun hc => Nat.not_lt_zero _ hc.2

/-! Commands of the drive (R397, R400, R401). -/

/-- Out of RUN the drive's change to a state other than RUN leaves the gates as they are. -/
theorem f3To_off {st : Nat} (hst : st ≠ 2) (hne : s.fans.f3 ≠ st) (hf : s.fans.f3 ≠ 2) :
    f3To st s = raise 44 (setFans { s.fans with f3 := st, arm := false } s) := by
  rw [f3To, if_neg hne]
  exact gateSettle_rest (by rw [raise_fans]; exact hst) (gateSince_off hf _)

theorem f3To_change {st : Nat} (hne : s.fans.f3 ≠ st) : f3To st s =
    gateSettle (gateSince s (pwmTick s)) (raise 44 (setFans { s.fans with f3 := st, arm := false } s)) :=
  if_neg hne

theorem exec_hallChange (hh : s.clk.held = false) (c : Fin 8) : exec (.hallChange c) s = .next (hallChange c.val s) :=
  congrArg Host.Outcome.next (live_run _ hh)

/-- A new Hall code that is no falling edge of FAN3_HA. -/
theorem hallChange_new {code : Nat} (hm : code &&& fld s.fans.resolved 3 3 ≠ s.fans.hall)
    (he : bitAt s.fans.hall 0 = false ∨ bitAt (code &&& fld s.fans.resolved 3 3) 0 = true) :
    hallChange code s = gateSettle (gateSince s (pwmTick s))
      (if s.fans.f3 = 2 ∧ hallValid (code &&& fld s.fans.resolved 3 3) = false then
        hallErr (setFans { s.fans with hall := code &&& fld s.fans.resolved 3 3 } s)
      else setFans { s.fans with hall := code &&& fld s.fans.resolved 3 3 } s) := by
  have hb : ¬ (bitAt s.fans.hall 0 && !bitAt (code &&& fld s.fans.resolved 3 3) 0) = true := by
    rcases he with h | h <;> simp [h]
  rw [hallChange]
  dsimp only
  rw [if_neg hm, if_neg hb]

theorem hallValid_iff (m : Nat) : hallValid m = true ↔ 1 ≤ m ∧ m ≤ 6 := by
  rw [hallValid, inRange, Bool.and_eq_true, decide_eq_true_eq, decide_eq_true_eq]

theorem exec_fan3Trip (hh : s.clk.held = false) : exec .fan3Trip s =
    .next (tripDrives (f3To 0 (raise 40 (putBit fanFlags 4 true (setFans { s.fans with tripIn := true } s))))) :=
  congrArg Host.Outcome.next (live_run _ hh)

theorem exec_f3TripRelease (hh : s.clk.held = false) : exec .f3TripRelease s = .next
    (if s.fans.tripIn && bitAt s.fans.resolved 6 then
      tripDrives (raiseIf (s.fans.f3 == 0) 41 (setFans { s.fans with tripIn := false } s))
    else s) :=
  congrArg Host.Outcome.next (live_run _ hh)

theorem f3Command_tripped (h : s.fans.f3 = 0) (v : Word) : f3Command v s =
    if wbit v 1 then putBit fanFlags 8 true (if wbit v 0 then (if s.fans.tripIn then putBit fanFlags 5 true s else f3To 1 s) else s)
    else (if wbit v 0 then (if s.fans.tripIn then putBit fanFlags 5 true s else f3To 1 s) else s) := by
  rw [f3Command, h]
  rfl

theorem f3Command_idle (h : s.fans.f3 = 1) (v : Word) :
    f3Command v s = if wbit v 1 then setFans { s.fans with arm := true } s else s := by
  rw [f3Command, h]
  rfl

theorem f3Command_run (h : s.fans.f3 = 2) (v : Word) : f3Command v s = if wbit v 2 then f3To 1 s else s := by
  rw [f3Command, h]
  rfl

theorem tachSettle_fans (was : State) (n : Nat) (x : State) : ∃ t, (tachSettle was n x).fans = { x.fans with tach := t } := by
  rw [tachSettle]
  split
  · exact ⟨x.fans.tach, rfl⟩
  · exact ⟨_, rfl⟩

/-- The duties that a period takes leave the drive. -/
theorem pwmTake_drive (s : State) :
    (pwmTake s).fans.arm = s.fans.arm ∧ (pwmTake s).fans.f3 = s.fans.f3 ∧ (pwmTake s).fans.hall = s.fans.hall := by
  refine List.foldlRecOn (motive := fun x : State => x.fans.arm = s.fans.arm ∧ x.fans.f3 = s.fans.f3 ∧ x.fans.hall = s.fans.hall)
    _ _ ⟨rfl, rfl, rfl⟩ fun x hx n _ => ?_
  obtain ⟨t, ht⟩ := tachSettle_fans s n (setRegN (fanBase + 0x030 + 4 * n) (dutyWanted s n) x)
  rw [ht]
  exact hx

/-- The outcome of a period's start, before the drive follows. -/
def pwmTaken (s : State) : State := emit (.fanPwm ((List.range 3).map (applied (pwmTake s)))) (pwmTake s)

theorem exec_pwmPeriodStart (hh : s.clk.held = false) : exec .pwmPeriodStart s = .next (pwmStart s) :=
  congrArg Host.Outcome.next (live_run _ hh)

theorem pwmStart_disarmed (ha : s.fans.arm = false) : pwmStart s = gateSettle (gateSince s 399) (pwmTaken s) := by
  refine if_neg fun h => ?_
  have : (pwmTake s).fans.arm = true := h.1
  rw [(pwmTake_drive s).1, ha] at this
  exact Bool.false_ne_true this

theorem pwmStart_armed (ha : s.fans.arm = true) (hf : s.fans.f3 = 1) (h1 : 1 ≤ s.fans.hall) (h6 : s.fans.hall ≤ 6) :
    pwmStart s = gateSettle (gateSince (pwmTaken s) (pwmTick (pwmTaken s)))
      (raise 44 (setFans { (pwmTaken s).fans with f3 := 2, arm := false } (pwmTaken s))) := by
  obtain ⟨ta, tf, th⟩ := pwmTake_drive s
  have hto : f3To 2 (pwmTaken s) = gateSettle (gateSince (pwmTaken s) (pwmTick (pwmTaken s)))
      (raise 44 (setFans { (pwmTaken s).fans with f3 := 2, arm := false } (pwmTaken s))) :=
    f3To_change (by rw [pwmTaken, emit_fans, tf, hf]; decide)
  obtain ⟨l, hl⟩ := gateSettle_fans (gateSince (pwmTaken s) (pwmTick (pwmTaken s)))
    (raise 44 (setFans { (pwmTaken s).fans with f3 := 2, arm := false } (pwmTaken s)))
  have hv : hallValid (hallCode (f3To 2 (pwmTaken s))) = true := by
    rw [hto, hallCode, hl, raise_fans, setFans_fans, pwmTaken, emit_fans, hallValid_iff, th]
    exact ⟨h1, h6⟩
  rw [pwmStart]
  dsimp only
  rw [← pwmTaken, if_pos ⟨ta.trans ha, tf.trans hf⟩, if_pos hv, hto]

end

/-! The three parts of O45. -/

section
variable {s : State}

theorem pins_lockSequence (hh : s.clk.held = false) (b : Fin 3) (v : Word) (k a : Nat) (toward : Nat → State)
    (hk : k = tget 0 s.pins.lockSeq b) (ha : a = 0x40020080 + 4 * b.val)
    (ht : toward = fun j => { s with pins := { s.pins with lockSeq := tset 0 s.pins.lockSeq b j } }) :
    (k < 2 → v = 0x5A#32 → exec (.lockSequence b v) s = .next (toward 1)) ∧
    (k = 1 → v = 0xA5#32 → exec (.lockSequence b v) s = .next (toward 2)) ∧
    (k = 0 → v ≠ 0x5A#32 → exec (.lockSequence b v) s = .next (toward 0)) ∧
    (k = 1 → v ≠ 0x5A#32 → v ≠ 0xA5#32 → exec (.lockSequence b v) s = .next (toward 0)) ∧
    (k = 2 → exec (.lockSequence b v) s = .next (setReg a (reg s a ||| (v &&& 0xFFFF#32)) (toward 0))) := by
  subst hk ha ht
  have hx := exec_lockSequence hh b v
  refine ⟨fun h2 hv => ?_, fun h1 hv => ?_, fun h0 hv => ?_, fun h1 hv hv' => ?_, fun h2 => ?_⟩
  · have h01 : tget 0 s.pins.lockSeq b.val = 0 ∨ tget 0 s.pins.lockSeq b.val = 1 := by omega
    rcases h01 with h | h
    · rw [hx, lockWrite_zero h, if_pos hv]
      rfl
    · rw [hx, lockWrite_one h, if_neg (by rw [hv]; decide), if_pos hv]
      rfl
  · rw [hx, lockWrite_one h1, if_pos hv]
    rfl
  · rw [hx, lockWrite_zero h0, if_neg hv]
    rfl
  · rw [hx, lockWrite_one h1, if_neg hv', if_neg hv]
    rfl
  · rw [hx, lockWrite_two h2]
    rfl

theorem pins_inputResolved (hh : s.clk.held = false) (i : InputPin) (high : Bool) :
    exec (.inputResolved i high) s = .next (match i with
      | .gp n => gpResolve n.val high s
      | .tach n => fanResolve n.val id s
      | .hall n =>
        if bitAt s.fans.resolved (3 + n.val) then s
        else if high then hallChange (s.fans.hall + 2 ^ n.val) (fanResolve (3 + n.val) id s) else fanResolve (3 + n.val) id s
      | .trip => if bitAt s.fans.resolved 6 then s else tripDrives (fanResolve 6 (fun f => { f with tripIn := !high }) s)) := by
  refine congrArg Host.Outcome.next ((live_run _ hh).trans ?_)
  cases i <;> rfl

theorem pins_gpioEdge (hh : s.clk.held = false) (n : Fin 48) (rising : Bool) :
    (bitAt s.pins.level n = rising ∨ gpBit s 0x070 n = true → exec (.gpioEdge n rising) s = .next s) ∧
    (bitAt s.pins.level n ≠ rising → gpBit s 0x070 n = false →
      wbit (pinCfg s n) (if rising then 8 else 9) = false → exec (.gpioEdge n rising) s = .next (edgeLevel n rising s)) ∧
    (bitAt s.pins.level n ≠ rising → gpBit s 0x070 n = false →
      wbit (pinCfg s n) (if rising then 8 else 9) = true → exec (.gpioEdge n rising) s = .next
        (raiseIf (wbit (pinCfg s n) 10) (32 + n.val / 16)
          (putBit (gpioAddr 0x060 (n.val / 16)) (n.val % 16) true (edgeLevel n rising s)))) := by
  have hx := exec_gpioEdge hh n rising
  refine ⟨fun h => ?_, fun hl hr hc => ?_, fun hl hr hc => ?_⟩
  · rw [hx, gpioEdge_none h]
  · rw [hx, gpioEdge_detected hl hr, if_neg (ne_true_of_eq_false hc)]
  · rw [hx, gpioEdge_detected hl hr, if_pos hc]

theorem fans_fault (hh : s.clk.held = false) (n : Fin 4) :
    (slowCounts s n = true → (tach s n).faulted = false → rfld s (0x40030048 + 0x10 * n.val) 16 16 * 1250000 ≤ nowP s - slowSince s n →
      exec (.fanFault n) s = .next (raise (36 + n.val) (putBit fanFlags n.val true (setTach n.val { tach s n with faulted := true } s)))) ∧
    ((slowCounts s n = false ∨ (tach s n).faulted = true ∨
      nowP s - slowSince s n < rfld s (0x40030048 + 0x10 * n.val) 16 16 * 1250000) → exec (.fanFault n) s = .next s) := by
  have ha : tachAddr n.val 8 = 0x40030048 + 0x10 * n.val := by rw [tachAddr, fanBase]; omega
  have hx := exec_fanFault hh n
  rw [← ha]
  refine ⟨fun hs hf ht => ?_, fun h => ?_⟩
  · have hb : (slowLong s n.val && !(tach s n.val).faulted) = true := by rw [(slowLong_iff s n.val).2 ⟨hs, ht⟩, hf]; rfl
    rw [hx, if_pos hb]
  · have hb : ¬ (slowLong s n.val && !(tach s n.val).faulted) = true := by
      rw [Bool.and_eq_true, slowLong_iff, Bool.not_eq_true']
      rintro ⟨⟨hs, ht⟩, hf⟩
      rcases h with h | h | h
      · exact Bool.false_ne_true (h.symm.trans hs)
      · exact Bool.false_ne_true (hf.symm.trans h)
      · exact h.not_ge ht
    rw [hx, if_neg hb]

theorem fans_kick (hh : s.clk.held = false) (v : Word) :
    (wfld v 0 16 ≠ 0xFA5E → exec (.fanKick v) s = .next s) ∧
    (wfld v 0 16 = 0xFA5E → fanManual s = true → exec (.fanKick v) s = .next (fanWdogStart s)) ∧
    (wfld v 0 16 = 0xFA5E → fanManual s = false →
      exec (.fanKick v) s = .next (setFans { s.fans with left := rfld s (fanBase + 0x010) 0 16 } s)) := by
  have hx := exec_fanKick hh v
  refine ⟨fun h => ?_, fun h hm => ?_, fun h hm => ?_⟩
  · rw [hx, fanKick, if_pos h]
  · rw [hx, fanKick, if_neg (not_not.2 h), if_pos hm]
  · rw [hx, fanKick, if_neg (not_not.2 h), if_neg (ne_true_of_eq_false hm)]

theorem fans_hallChange (hh : s.clk.held = false) (c : Fin 8) {m : Nat} {y : State} (hm : m = c.val &&& fld s.fans.resolved 3 3)
    (hne : m ≠ s.fans.hall) (hy : y = setFans { s.fans with hall := m } s) (he : bitAt s.fans.hall 0 = false ∨ bitAt m 0 = true) :
    (s.fans.f3 = 2 → (m = 0 ∨ m = 7) →
      exec (.hallChange c) s = .next (gateSettle (gateSince s (pwmTick s)) (hallErr y))) ∧
    (s.fans.f3 = 2 → 1 ≤ m → m ≤ 6 → exec (.hallChange c) s = .next (gateSettle (gateSince s (pwmTick s)) y)) ∧
    (s.fans.f3 ≠ 2 → exec (.hallChange c) s = .next y) := by
  subst hm
  have hx := exec_hallChange hh c
  rw [hallChange_new hne he, ← hy] at hx
  have hv := hallValid_iff (c.val &&& fld s.fans.resolved 3 3)
  refine ⟨fun hf h => ?_, fun hf h1 h6 => ?_, fun hf => ?_⟩
  · rw [hx, if_pos ⟨hf, Bool.eq_false_iff.2 fun h' => by have := hv.1 h'; omega⟩]
  · rw [hx, if_neg (fun h => Bool.false_ne_true (h.2.symm.trans (hv.2 ⟨h1, h6⟩)))]
  · rw [hx, if_neg (fun h => hf h.1), gateSettle_rest (hy ▸ hf) (gateSince_off hf _)]

theorem fans_trip (hh : s.clk.held = false) {y : State}
    (hy : y = raise 40 (putBit fanFlags 4 true (setFans { s.fans with tripIn := true } s))) :
    (s.fans.f3 ≠ 0 → exec .fan3Trip s = .next (tripDrives (gateSettle (gateSince y (pwmTick y))
      (raise 44 (setFans { y.fans with f3 := 0, arm := false } y))))) ∧
    (s.fans.f3 = 0 → exec .fan3Trip s = .next (tripDrives (setFans { y.fans with arm := false } y))) := by
  have hf : y.fans.f3 = s.fans.f3 := by rw [hy, raise_fans]; rfl
  have hx := exec_fan3Trip hh
  rw [← hy] at hx
  refine ⟨fun h => ?_, fun h => ?_⟩
  · rw [hx, f3To_change (by rw [hf]; exact h)]
  · rw [hx, f3To, if_pos (hf.trans h)]

theorem exec_f3Clr (hh : s.clk.held = false) : exec .f3Clr s = .next (f3Command 1#32 s) :=
  congrArg Host.Outcome.next (live_run _ hh)

theorem exec_f3Arm (hh : s.clk.held = false) : exec .f3Arm s = .next (f3Command 2#32 s) :=
  congrArg Host.Outcome.next (live_run _ hh)

theorem exec_f3Disarm (hh : s.clk.held = false) : exec .f3Disarm s = .next (f3Command 4#32 s) :=
  congrArg Host.Outcome.next (live_run _ hh)

theorem f3Command_clr (h : s.fans.f3 = 0) : f3Command 1#32 s = if s.fans.tripIn then putBit fanFlags 5 true s
    else raise 44 (setFans { s.fans with f3 := 1, arm := false } s) := by
  rw [f3Command_tripped h, if_neg (by decide), if_pos (by decide), f3To_off (by decide) (by rw [h]; decide) (by rw [h]; decide)]

end

theorem pins_outputs (s : State) (hh : s.clk.held = false) (b : Fin 3) (v : Word) :
    exec (.outset b v) s = .next (outSet b.val v s) ∧ exec (.outclr b v) s = .next (outClear b.val v s) :=
  ⟨congrArg Host.Outcome.next (live_run _ hh), congrArg Host.Outcome.next (live_run _ hh)⟩

/-- Settles O45: the general pins by their rules, the fans by one equation per command and case, the gates by the bounds of a
command's run. -/
theorem pinsAndFans : Obligations.PinsAndFans := by
  refine ⟨fun s hh => ⟨?_, ?_, ?_, ?_, ?_, ?_, ?_⟩, ?_, ?_⟩
  · rintro b v a rfl
    exact pins_outputs s hh b v
  · exact pins_lockSequence hh
  · rintro n rising c y rfl rfl
    exact pins_gpioEdge hh n rising
  · exact fun n high hr hl => (pins_inputResolved hh (.gp n) high).trans (congrArg _ (gpResolve_low high hr hl))
  · exact fun n high h => (pins_inputResolved hh (.tach n) high).trans (congrArg _ (fanResolve_new id h))
  · intro n h
    refine (pins_inputResolved hh (.hall n) false).trans (congrArg _ ?_)
    dsimp only
    rw [if_neg (ne_true_of_eq_false h), if_neg Bool.false_ne_true]
    exact fanResolve_new id h
  · intro high h
    refine (pins_inputResolved hh .trip high).trans (congrArg _ ?_)
    dsimp only
    rw [if_neg (ne_true_of_eq_false h), fanResolve_new _ h]
    rfl
  · rintro s fans hh rfl
    refine ⟨fun n h => ?_, fun n t h ht => ?_, fun n => (fans_fault hh n).1, fun n => (fans_fault hh n).2,
      congrArg Host.Outcome.next (live_run _ hh), fun v => (fans_kick hh v).1, fun v => (fans_kick hh v).2.1,
      fun v => (fans_kick hh v).2.2, ?_, fun m t hm hw ht => ?_, fun hm => ?_, ?_, ?_, fun ht hr => ?_, fun h0 ht => ?_,
      fun h0 ht => ?_, fun h0 => ?_, fun h1 => ?_, fun h2 => ?_, ?_⟩
    · rw [exec_tachEdge hh, if_neg (ne_true_of_eq_false h)]
    · rw [exec_tachEdge hh, if_pos h, tachEdge_timed ht]
      rfl
    · rintro v y rfl
      have hx := exec_manual hh v
      exact ⟨fun h => hx.trans (congrArg _ (if_pos h)), fun h => hx.trans (congrArg _ (if_neg (ne_true_of_eq_false h)))⟩
    · have hb : (fanManual s && fanExpired s) = true := by
        rw [show fanManual s = true from hm, fanExpired_of hw ht]; rfl
      rw [exec_fanTakeover hh, if_pos hb]
      rfl
    · have hb : ¬ (fanManual s && fanExpired s) = true := by
        rw [show fanManual s = false from hm]; exact Bool.false_ne_true
      rw [exec_fanTakeover hh, if_neg hb]
    · intro c m y hm hne hy he
      exact fans_hallChange hh c hm hne hy he
    · intro y hy
      exact fans_trip hh hy
    · rw [exec_f3TripRelease hh, ht, hr]
      rfl
    · rw [exec_f3Clr hh, f3Command_clr h0, ht]
      rfl
    · rw [exec_f3Clr hh, f3Command_clr h0, if_pos ht]
      rfl
    · rw [exec_f3Arm hh, f3Command_tripped h0]
      rfl
    · rw [exec_f3Arm hh, f3Command_idle h1]
      rfl
    · rw [exec_f3Disarm hh, f3Command_run h2, if_pos (by decide), f3To_change (by rw [h2]; decide)]
      rfl
    · intro y z hy hz
      have hzt : z = pwmTaken s := by rw [hz, hy]; rfl
      subst hzt
      have hx := exec_pwmPeriodStart hh
      refine ⟨fun ha => ?_, fun ha hf h1 h6 => ?_⟩
      · rw [hx, pwmStart_disarmed ha]
      · rw [hx, pwmStart_armed ha hf h1 h6]
        rfl
  · intro s was
    refine ⟨gateSettle_rest, fun hf hw => ?_, fun hf hh => ?_, fun p r hf hs => ?_, fun g => gateHigh_bounds, fun leg c h => ?_⟩
    · exact gateSettle_low (.inr hw) fun l g => gateRun_off hf g
    · exact gateSettle_low (.inl hf) fun l g => gateRun_invalid hh g
    · have hne := hallStep_ne hs
      have hg := gateRun_run hf hs
      refine ⟨?_, ?_, ?_, ?_⟩
      · rw [hg, if_pos rfl]
      · rw [hg, if_neg (by omega), if_neg (by omega), if_pos rfl]
      · rw [hg, if_neg (by omega), if_neg (by omega), if_neg (by omega)]
      · rw [hg, if_neg (by omega), if_pos rfl]
    · exact gateRun_leg s leg c ⟨gateRun_of_high h.1, gateRun_of_high h.2⟩

end Sys2Proof.Machine
end

section
/-! O14: the bytes of a reply (R60, Table 4-6), with what a field of a byte string reads as. -/

namespace Sys2Proof.Machine

/-! Little-endian fields. -/

theorem leNat_leBytes (n v : Nat) : leNat (leBytes n v) = v % 256 ^ n := by
  induction n generalizing v with
  | zero => rw [Nat.pow_zero, Nat.mod_one]; rfl
  | succ n ih => rw [leBytes, leNat, ih, Nat.pow_succ', Nat.mod_mul, BitVec.toNat_ofNat]

/-- A field at the start of a byte string. -/
theorem leAt_leBytes_append (n v : Nat) (bs : Bytes) : leAt (leBytes n v ++ bs) 0 n = v % 256 ^ n := by
  rw [leAt, slice, List.drop_zero, List.take_left' (length_leBytes n v), leNat_leBytes]

/-- A field that lies behind another one. -/
theorem leAt_behind_leBytes {m o : Nat} (v : Nat) (bs : Bytes) (n : Nat) (h : m ≤ o) :
    leAt (leBytes m v ++ bs) o n = leAt bs (o - m) n := by
  have hm : (leBytes m v).length = m := length_leBytes m v
  rw [leAt, slice, List.drop_append, List.drop_eq_nil_of_le (hm.symm ▸ h), hm, List.nil_append, leAt, slice]

/-! The reply. -/

/-- Bytes 0–27 of a reply, which its CRC covers. -/
def replyBody (r : Reply) (phase : Bool) : Bytes :=
  leBytes 2 r.tag ++ leBytes 1 r.status ++ leBytes 1 (b2n phase + 2 * b2n r.interim + 4 * b2n r.unsol + 8 * b2n r.data.isSome)
    ++ leBytes 2 r.gen ++ leBytes 1 r.opcode ++ leBytes 1 r.detail ++ leBytes 8 r.epoch ++ leBytes 4 r.res0 ++ leBytes 4 r.res1
    ++ leBytes 4 r.res2

theorem replyBytes_eq (r : Reply) (phase : Bool) :
    replyBytes r phase = replyBody r phase ++ leBytes 4 (crc32c (replyBody r phase)) := rfl

theorem length_replyBody (r : Reply) (phase : Bool) : (replyBody r phase).length = 28 := by
  simp only [replyBody, List.length_append, length_leBytes]

theorem length_replyBytes (r : Reply) (phase : Bool) : (replyBytes r phase).length = 32 := by
  rw [replyBytes_eq, List.length_append, length_replyBody, length_leBytes]

theorem take_replyBytes (r : Reply) (phase : Bool) : (replyBytes r phase).take 28 = replyBody r phase := by
  rw [replyBytes_eq, List.take_left' (length_replyBody r phase)]

/-- The flags of Table 4-6 fit into their byte. -/
theorem replyFlags_lt (a b c d : Bool) : b2n a + 2 * b2n b + 4 * b2n c + 8 * b2n d < 256 := by
  revert a b c d
  decide

theorem leAt_replyBytes_crc (r : Reply) (phase : Bool) :
    leAt (replyBytes r phase) 28 4 = crc32c (replyBody r phase) % 2 ^ 32 := by
  rw [leAt, slice, replyBytes_eq, List.drop_left' (length_replyBody r phase),
    List.take_of_length_le (Nat.le_of_eq (length_leBytes ..)), leNat_leBytes]
  exact congrArg (crc32c (replyBody r phase) % ·) (by decide : 256 ^ 4 = 2 ^ 32)

/-- Settles O14: each field is what `leBytes` laid down behind the fields before it. -/
theorem replyLayout : Obligations.ReplyLayout := by
  intro r phase
  refine ⟨length_replyBytes r phase, ?_⟩
  rw [take_replyBytes, leAt_replyBytes_crc, replyBytes_eq, replyBody]
  simp only [List.append_assoc, leAt_behind_leBytes, leAt_leBytes_append, Nat.reduceLeDiff, Nat.reduceSub, Nat.reducePow,
    Nat.mod_eq_of_lt (replyFlags_lt ..), and_self]

end Sys2Proof.Machine
end

section
/-! O15 and O16: door commands, statistics, telemetry and the officer's commands (R73, R74, R76, R114, R245, R246, R254), each by
the equation of its row on the state in which the command runs. -/

namespace Sys2Proof.Machine

section
variable {s : State} {d : DoorId} {tag : Nat} {c : Cmd}

/-! Door commands (Table 12-2). -/

theorem exec_doorNop (hc : Spec.Takes s d tag 0x00 c) :
    exec (.doorNop d tag) s = .next (finishSt d tag 0x00 0 (Spec.taken s d tag)) :=
  congrArg Host.Outcome.next (live_dispatch_takes _ hc)

theorem exec_identify {hostIn : Option Bytes} {nonce : Bytes} (hc : Spec.Takes s d tag 0x01 c) (hroom : Spec.Room d c 32 304)
    (hin : cmdInput (Spec.taken s d tag) d c hostIn = some nonce) :
    exec (.identify d tag hostIn) s = .next (Spec.joined (Spec.taken s d tag) d tag 0 [] nonce) := by
  refine congrArg Host.Outcome.next ((live_dispatch_takes _ hc).trans ?_)
  rw [withIo_room _ _ hroom, hin]
  exact joinUnit_eq_joined ..

theorem exec_getStatus_words (hc : Spec.Takes s d tag 0x02 c) (hp : pktPtr c.pkt = false) :
    exec (.getStatus d tag) s = .next (finish d tag 0x00 0 (s.fault.gen + s.fault.mode * 2 ^ 16) s.stock.liveVer
      ((if s.stock.apply.isSome then 1 else 0) + keFree s * 2 ^ 8) none (Spec.taken s d tag)) :=
  congrArg Host.Outcome.next ((live_dispatch_takes _ hc).trans (if_neg (ne_true_of_eq_false hp)))

theorem exec_getStatus_record (hc : Spec.Takes s d tag 0x02 c) (hp : pktPtr c.pkt = true) (hroom : Spec.Room d c 0 64) :
    exec (.getStatus d tag) s = .next
      (finish d tag 0x00 0 64 0 0 (some (statusRecord (Spec.taken s d tag) d)) (Spec.taken s d tag)) :=
  congrArg Host.Outcome.next ((live_dispatch_takes _ hc).trans ((if_pos hp).trans (withIo_room _ _ hroom)))

/-- DOOR_CLAIM, by whether the door's session is held (R76). -/
theorem exec_doorClaim {held : Bool} (hc : Spec.Takes s d tag 0x03 c) (hd : d ≠ 3)
    (hs : (door (Spec.taken s d tag) d).session = held) : exec (.doorClaim d tag) s = .next (
      if held && !bitAt (pByte c.pkt 0) 0 then finishSt d tag 0x62 0 (Spec.taken s d tag)
      else finishR0 d tag 0x00 (b2n held) (modDoor d (fun y => { y with session := true })
        (if held then dropSession d tag (Spec.taken s d tag) else Spec.taken s d tag))) := by
  subst hs
  exact congrArg Host.Outcome.next ((live_dispatch_takes _ hc).trans (if_neg hd))

theorem exec_doorRelease (hc : Spec.Takes s d tag 0x04 c) (hd : d ≠ 3) : exec (.doorRelease d tag) s = .next
    (finishSt d tag 0x00 0 (modDoor d (fun y => { y with session := false }) (Spec.taken s d tag))) :=
  congrArg Host.Outcome.next ((live_dispatch_takes _ hc).trans (if_neg hd))

theorem exec_idleSetup (hc : Spec.Takes s d tag 0x05 c) (hd : d ≠ 3) : exec (.idleSetup d tag) s = .next
    (finishR0 d tag 0x00 (door (Spec.taken s d tag) d).modPeriod
      (modDoor d (fun y => { y with modPeriod := pLe c.pkt 0 2 }) (Spec.taken s d tag))) :=
  congrArg Host.Outcome.next ((live_dispatch_takes _ hc).trans (if_neg hd))

/-! Statistics (R245). -/

/-- What PORT_STATS does once its port number is in range. -/
theorem exec_portStats (hc : Spec.Takes s d tag 0x50 c) (hroom : Spec.Room d c 0 256) (hq : pByte c.pkt 0 ≤ 15) :
    exec (.portStats d tag) s = .next (
      if d ≠ 3 ∧ (port s (pByte c.pkt 0)).owner ≠ some d.val then finishR0 d tag 0x31 (pByte c.pkt 0) (Spec.taken s d tag)
      else finish d tag 0x00 0 256 0 0 (some (portWindow (Spec.taken s d tag) (pByte c.pkt 0))) (Spec.taken s d tag)) :=
  congrArg Host.Outcome.next ((live_dispatch_takes _ hc).trans ((withIo_room _ _ hroom).trans (if_neg (Nat.not_lt.2 hq))))

theorem exec_chanStats {first count : Nat} (hc : Spec.Takes s d tag 0x51 c) (hroom : Spec.Room d c 0 (128 * count))
    (hfirst : first = pLe c.pkt 0 2) (hcount : count = pLe c.pkt 2 2) (hlo : 1 ≤ count)
    (hhi : count ≤ if d = 2 then 128 else 1024) (hmax : first ≤ 8191) (hend : first + count ≤ 8192)
    (hown : ∀ n : Nat, first ≤ n → n < first + count → d = 3 ∨ (chan s n).owner = some d.val) :
    exec (.chanStats d tag) s = .next (finish d tag 0x00 0 count 0 0
      (some ((List.range count).map fun i => chanWindow (Spec.taken s d tag) (first + i)).flatten) (Spec.taken s d tag)) := by
  refine congrArg Host.Outcome.next ((live_dispatch_takes _ hc).trans ?_)
  have hrange : inRange count 1 (if d = 2 then 128 else 1024) = true := inRange_iff.2 ⟨hlo, hhi⟩
  have howned : notOwned (Spec.taken s d tag) d first count = none := notOwned_none (s := Spec.taken s d tag) hown
  dsimp only
  rw [← hfirst, ← hcount, withIo_room _ _ hroom, hrange, if_neg (Nat.not_lt.2 hmax), if_neg (Nat.not_lt.2 hend), howned]
  rfl

theorem exec_counterClear_port (hc : Spec.Takes s d tag 0x52 c) (hkind : pByte c.pkt 0 = 0) (hq : pLe c.pkt 2 2 ≤ 15)
    (hown : d = 3 ∨ (port s (pLe c.pkt 2 2)).owner = some d.val) : exec (.counterClear d tag) s =
      .next (finishR0 d tag 0x00 1 (clearWindow (portCnt (pLe c.pkt 2 2) 0) 0x100 (Spec.taken s d tag))) := by
  refine congrArg Host.Outcome.next ((live_dispatch_takes _ hc).trans ?_)
  rw [hkind]
  exact (if_neg (Nat.not_lt.2 hq)).trans (if_neg fun h => hown.elim h.1 h.2)

theorem exec_counterClear_chan (hc : Spec.Takes s d tag 0x52 c) (hkind : pByte c.pkt 0 = 1) (hn : pLe c.pkt 2 2 ≤ 8191)
    (hown : d = 3 ∨ (chan s (pLe c.pkt 2 2)).owner = some d.val) : exec (.counterClear d tag) s =
      .next (finishR0 d tag 0x00 1 (clearWindow (chanCnt (pLe c.pkt 2 2) 0) 0x80 (Spec.taken s d tag))) := by
  refine congrArg Host.Outcome.next ((live_dispatch_takes _ hc).trans ?_)
  rw [hkind]
  exact (if_neg (Nat.not_lt.2 hn)).trans (if_neg fun h => hown.elim h.1 h.2)

/-! Telemetry (R254). -/

theorem exec_telSubscribe {period items : Nat} (hc : Spec.Takes s d tag 0x53 c) (hp : period = pLe c.pkt 0 2)
    (hi : items = fld (pByte c.pkt 2) 0 5) (hmax : period ≤ 1000) (hsome : period ≠ 0 → items ≠ 0) :
    exec (.telSubscribe d tag) s = .next (finishR0 d tag 0x00 (door (Spec.taken s d tag) d).telPeriod
      (modDoor d (fun y => { y with
        telPeriod := period, telItems := if period = 0 then 0 else items, telNext := nowP s + period * 1250000 })
        (Spec.taken s d tag))) := by
  subst hp hi
  exact congrArg Host.Outcome.next ((live_dispatch_takes _ hc).trans
    ((if_neg (Nat.not_lt.2 hmax)).trans (if_neg fun h => hsome h.1 h.2)))

/-- The items of a subscription to one item (Table 12-10). -/
theorem telItems_pow {i : Nat} (hi : i < 5) : ((List.range 5).filter fun k => bitAt (2 ^ i) k) = [i] := by
  revert i
  decide

theorem exec_telemetryPeriod_waits (hh : s.clk.held = false) (h : (door s d).telPeriod = 0 ∨ nowP s < (door s d).telNext) :
    exec (.telemetryPeriod d) s = .next s := congrArg Host.Outcome.next ((live_run _ hh).trans (if_pos h))

theorem exec_telemetryPeriod_one {i : Nat} (hh : s.clk.held = false) (hp : (door s d).telPeriod ≠ 0)
    (hn : (door s d).telNext ≤ nowP s) (hi : i < 5) (hitems : (door s d).telItems = 2 ^ i) : exec (.telemetryPeriod d) s =
      .next (unsolicited d 0x53 i (telWords s i).1 (telWords s i).2.1 (telWords s i).2.2
        (modDoor d (fun y => { y with telNext := y.telNext + y.telPeriod * 1250000 }) s)) := by
  refine congrArg Host.Outcome.next ((live_run _ hh).trans ?_)
  dsimp only
  rw [if_neg (not_or.2 ⟨hp, Nat.not_lt.2 hn⟩), hitems, telItems_pow hi]
  rfl

end

/-- Settles O15, each command by its equation. -/
theorem doorAndStatistics : Obligations.DoorAndStatistics := by
  refine ⟨fun s d tag c => ⟨exec_doorNop, fun hostIn nonce => exec_identify, exec_getStatus_words, exec_getStatus_record,
      fun hc hd hs => ?_, fun hc hd hs hf => ?_, fun hc hd hs hf => ?_, exec_doorRelease, exec_idleSetup⟩,
    fun s d tag c => ⟨fun hc hroom hq hown => ?_, fun hc hroom hq hd hown => ?_, fun first count => exec_chanStats,
      exec_counterClear_port, exec_counterClear_chan, fun period items => exec_telSubscribe, exec_telemetryPeriod_waits,
      fun i => exec_telemetryPeriod_one⟩⟩
  · rw [exec_doorClaim hc hd hs, Bool.false_and, if_neg Bool.false_ne_true, if_neg Bool.false_ne_true]
    rfl
  · rw [exec_doorClaim hc hd hs, hf, Bool.not_false, Bool.and_true, if_pos rfl]
  · rw [exec_doorClaim hc hd hs, hf, Bool.not_true, Bool.and_false, if_neg Bool.false_ne_true, if_pos rfl]
    rfl
  · rw [exec_portStats hc hroom hq, if_neg fun h => hown.elim h.1 h.2]
  · rw [exec_portStats hc hroom hq, if_pos ⟨hd, hown⟩]

end Sys2Proof.Machine
end

section
/-! O16: the officer's commands (R73, R74, R114), and what a reply of one door leaves of the others. -/

namespace Sys2Proof.Machine

/-! Replies change their own door alone. -/

section
variable {d e : Nat} (s : State)

theorem door_congr {t : State} (h : t.doors = s.doors) (e : Nat) : door t e = door s e := by rw [door, h, door]

theorem door_irq2Settle_ne (h : e ≠ 2) : door (irq2Settle s) e = door s e := by
  unfold irq2Settle
  extract_lets x
  split
  · split
    · rfl
    · split <;> exact door_setDoor_ne _ s h
  · exact door_setDoor_ne _ s h

theorem door_poolReturn_ne (k : PoolKind) (h : e ≠ d) : door (poolReturn d k s) e = door s e := by
  cases k
  · rfl
  · exact door_modDoor_ne _ s h
  · rfl

theorem door_pushReply_ne (r : Reply) (h : e ≠ d) : door (pushReply d r s) e = door s e := by
  unfold pushReply
  split
  · next hd => rw [door_irq2Settle_ne _ (hd ▸ h), door_modDoor_ne _ s (hd ▸ h)]
  · exact door_modDoor_ne _ s h

theorem doors_writeOutput (c : Cmd) (data : Bytes) : (writeOutput d c data s).doors = s.doors := by rw [writeOutput_frame]

theorem door_finish_ne (tag status detail r0 r1 r2 : Nat) (data : Option Bytes) (h : e ≠ d) :
    door (finish d tag status detail r0 r1 r2 data s) e = door s e := by
  unfold finish
  split
  · rfl
  · next c _ =>
    split
    · exact (door_poolReturn_ne _ _ h).trans (door_modDoor_ne _ s h)
    · refine (door_pushReply_ne _ _ h).trans ((door_modDoor_ne _ _ h).trans ?_)
      cases data with
      | none => rfl
      | some bs => exact door_congr _ (doors_writeOutput s c bs) e

end

/-! GRANT_SET (R73). -/

theorem setGrant_same {d w : Nat} {s : State} (h : w = (door s d).grant) :
    setGrant d w s = modDoor d (fun y => { y with grant := w }) s := by
  unfold setGrant
  extract_lets old s1 s2
  rw [if_pos (congrArg (bitAt · 0) h)]
  exact if_pos h

theorem setGrant_other {d w : Nat} {s : State} (h : w ≠ (door s d).grant) : setGrant d w s =
    (fun y => if bitAt w 0 = bitAt (door s d).grant 0 then y else raise (112 + 8 * d) (evcSettle d y))
      (setNotice d 4 (modDoor d (fun y => { y with grant := w }) s)) := by
  unfold setGrant
  extract_lets old s1 s2
  have h2 : s2 = setNotice d 4 s1 := if_neg h
  rw [h2]
  rfl

section
variable {s : State} {tag : Nat} {c : Cmd}

theorem exec_grantSet {d w : Nat} (hc : Spec.Takes s 3 tag 0x70 c) (hd : d = pByte c.pkt 0) (hw : w = pLe c.pkt 4 4)
    (hmax : d ≤ 2) (h7 : bitAt w 7 = false) (h14 : fld w 14 18 = 0) : exec (.grantSet tag) s =
      .next (setGrant d w (finishR0 3 tag 0x00 (door (Spec.taken s 3 tag) d).grant (Spec.taken s 3 tag))) := by
  subst hd hw
  exact congrArg Host.Outcome.next ((live_dispatch_takes _ hc).trans
    ((if_neg (Nat.not_lt.2 hmax)).trans (if_neg (by rw [h7, h14]; decide))))

/-! OWNER_SET (R74). -/

theorem exec_ownerSet {kind o n : Nat} (hc : Spec.Takes s 3 tag 0x71 c) (hk : kind = pByte c.pkt 0) (ho : o = pByte c.pkt 1)
    (hn : n = pLe c.pkt 2 2) (hkind : kind ≤ 3) (hown : o ≤ 3 ∨ o = 0xFF) (hidx : ownerIndexOk kind n = true)
    (href : ownerRefused (Spec.taken s 3 tag) kind n = none) : exec (.ownerSet tag) s = .next (
      let x := Spec.taken s 3 tag
      if ownerNow x kind n = o then finish 3 tag 0x01 0x02 (ownerNow x kind n) 0 0 none x
      else finishR0 3 tag 0x00 (ownerNow x kind n) (bumpLiveVer (setOwner kind n o x))) := by
  refine congrArg Host.Outcome.next ((live_dispatch_takes _ hc).trans ?_)
  dsimp only
  rw [← hk, ← ho, ← hn, if_neg (Nat.not_lt.2 hkind), if_neg (by omega), hidx, href]
  rfl

/-! MODULE_ASSIGN (R114). -/

theorem exec_moduleAssign {q k a sel : Nat} (hc : Spec.Takes s 3 tag 0x73 c) (hq : q = pByte c.pkt 0) (hk : k = pByte c.pkt 1)
    (ha : a = pByte c.pkt 2) (hsel : sel = pByte c.pkt 3) (hqmax : q ≤ 15) (hkmax : k ≤ 3) (halo : 0x08 ≤ a)
    (hahi : a ≤ 0x77) (hs : sel ≤ 47 ∨ sel = 0xFF) : exec (.moduleAssign tag) s = .next (finishR0 3 tag 0x00
      ((if (port s q).ctrl = 0 then 0xFF else (port s q).ctrl - 1) + (port s q).addr * 2 ^ 8 + (port s q).select * 2 ^ 16)
      (setPort q { port s q with ctrl := k + 1, addr := a, select := sel } (Spec.taken s 3 tag))) := by
  refine congrArg Host.Outcome.next ((live_dispatch_takes _ hc).trans ?_)
  have ha' : inRange a 0x08 0x77 = true := inRange_iff.2 ⟨halo, hahi⟩
  have hk' : k ≠ 0xFF := by omega
  dsimp only
  rw [← hq, ← hk, ← ha, ← hsel, if_neg (Nat.not_lt.2 hqmax), if_neg (by omega), ha', if_neg (by simp [hk']),
    if_neg (by omega), if_neg hk']
  rfl

end

/-- Settles O16, each command by its equation: the reply of door 3 leaves the grant of the door that GRANT_SET names. -/
theorem officerCommands : Obligations.OfficerCommands := by
  intro s tag c
  refine ⟨fun d w hc hd hw hmax h7 h14 => ?_, fun kind o n hc hk ho hn hkind hown hidx href => ?_,
    fun q k a sel => exec_moduleAssign⟩
  · have hgrant : ∀ r, (door (finishR0 3 tag 0x00 r (Spec.taken s 3 tag)) d).grant = (door (Spec.taken s 3 tag) d).grant :=
      fun r => congrArg Door.grant (door_finish_ne _ _ _ _ _ _ _ _ (by omega))
    rw [exec_grantSet hc hd hw hmax h7 h14]
    refine ⟨fun h => ?_, fun h => ?_⟩
    · rw [← h, setGrant_same (h.trans (hgrant w).symm)]
    · rw [setGrant_other fun e => h (e.trans (hgrant _)), hgrant]
  · rw [exec_ownerSet hc hk ho hn hkind hown hidx href]
    exact ⟨fun h => congrArg Host.Outcome.next ((if_pos h).trans (by rw [h])), fun h => congrArg Host.Outcome.next (if_neg h)⟩

end Sys2Proof.Machine
end

section
/-! O13: the end of a moderation period (R79). Its statement fails for a table of doors that lists a door twice; for a table in
canonical form, as every reset state and step leaves it, the clause that fails holds. -/

namespace Sys2Proof.Machine

/-! A table in canonical form, set twice at one index. -/

section
variable {α : Type} [DecidableEq α] {d : α} {t : Table α} {lo i : Nat}

theorem tdel_of_lt (w : tableWf d lo t = true) (h : i < lo) : tdel t i = t := by
  induction t generalizing lo with
  | nil => rfl
  | cons e r ih =>
    obtain ⟨k, v⟩ := e
    simp only [tableWf, Bool.and_eq_true, decide_eq_true_eq] at w
    rw [tdel, if_neg (by omega), ih w.2 (by omega)]

theorem tins_of_lt (v : α) (w : tableWf d lo t = true) (h : i < lo) : tins t i v = (i, v) :: t := by
  cases t with
  | nil => rfl
  | cons e r =>
    obtain ⟨k, u⟩ := e
    simp only [tableWf, Bool.and_eq_true, decide_eq_true_eq] at w
    rw [tins, if_pos (by omega)]

theorem tins_tdel_same (v : α) (w : tableWf d lo t = true) : tins (tdel t i) i v = tins t i v := by
  induction t generalizing lo with
  | nil => rfl
  | cons e r ih =>
    obtain ⟨k, u⟩ := e
    simp only [tableWf, Bool.and_eq_true, decide_eq_true_eq] at w
    by_cases hk : k = i
    · subst hk
      rw [tdel, if_pos rfl, tins_of_lt v w.2 (Nat.lt_succ_self k), tins, if_neg (Nat.lt_irrefl k), if_pos rfl]
    · rw [tdel, if_neg hk, tins, tins, ih w.2]
      by_cases hlt : i < k
      · rw [tdel_of_lt w.2 (by omega)]
      · rw [if_neg hlt, if_neg hlt, if_neg (Ne.symm hk), if_neg (Ne.symm hk)]

theorem tset_tset_same {u v : α} (w : tableWf d lo t = true) (hv : v ≠ d) : tset d (tset d t i u) i v = tset d t i v := by
  unfold tset
  rw [if_neg hv, if_neg hv]
  split
  · exact tins_tdel_same v w
  · exact tins_tins_same t i u v

end

theorem setDoor_setDoor {d : Nat} {x y : Door} {s : State} (w : tableWf {} 0 s.doors = true) (hy : y ≠ {}) :
    setDoor d y (setDoor d x s) = setDoor d y s := by
  show ({ s with doors := tset {} (tset {} s.doors d x) d y } : State) = { s with doors := tset {} s.doors d y }
  rw [tset_tset_same w hy]

/-! The end of a moderation period. -/

section
variable {s : State} {d : DoorId} {v : Nat}

/-- The vector that a period held goes out at its end (R79). -/
theorem exec_moderationExpiry_held (hh : s.clk.held = false) (hd : d.val < 2) (hrun : (door s d).modRunning = true)
    (hend : (door s d).modEnd ≤ nowP s) (hv : (door s d).held = [v]) : exec (.moderationExpiry d) s =
      .next (sendMsix d v (setDoor d { door s d with modRunning := false, held := [] } s)) := by
  refine congrArg Host.Outcome.next ((live_run _ hh).trans ?_)
  unfold moderationExpiry
  dsimp only
  rw [if_neg (by simp [hrun, hend]), if_neg (by omega), hv]
  rfl

theorem sendMsix_masked {d : Nat} (h : msixMasked (door s d) v = true) : sendMsix d v s = setDoor d { door s d with
    pba := if bitAt (door s d).pba v then (door s d).pba else (door s d).pba + 2 ^ v } s := if_pos h

/-- A number with a bit set is not 0. -/
theorem pba_set_ne (n v : Nat) : (if bitAt n v then n else n + 2 ^ v) ≠ 0 := by
  split
  · next h => rintro rfl; simp [bitAt] at h
  · exact Nat.ne_of_gt (Nat.add_pos_right n (Nat.two_pow_pos v))

/-- The clause of O13 that fails, where the table of doors is in canonical form: the vector becomes pending. -/
theorem exec_moderationExpiry_masked (hh : s.clk.held = false) (hd : d.val < 2) (hrun : (door s d).modRunning = true)
    (hend : (door s d).modEnd ≤ nowP s) (hv : (door s d).held = [v]) (hm : msixMasked (door s d) v = true)
    (w : tableWf {} 0 s.doors = true) : exec (.moderationExpiry d) s = .next (modDoor d (fun x => { x with
      held := [], modRunning := false, pba := if bitAt x.pba v then x.pba else x.pba + 2 ^ v }) s) := by
  rw [exec_moderationExpiry_held hh hd hrun hend hv]
  have hdoor := door_setDoor_same d { door s d with modRunning := false, held := [] } s w
  have hmask : msixMasked (door (setDoor d { door s d with modRunning := false, held := [] } s) d) v = true :=
    (congrArg (msixMasked · v) hdoor).trans hm
  rw [sendMsix_masked hmask, hdoor, setDoor_setDoor w fun e => pba_set_ne (door s d).pba v (congrArg Door.pba e)]
  rfl

end

/-! The counterexample. -/

/-- Door 0 is listed twice: at the end of a moderation period that holds the masked vector 0, and behind that with a session. -/
def doorListedTwice : State :=
  { clk := { held := false }, doors := [(0, { modRunning := true, held := [0] }), (0, { session := true })] }

/-- Without its moderation the first entry is the default, which the table does not list: the pending bit goes to the other. -/
theorem doorListedTwice_session :
    (door (sendMsix 0 0 (setDoor 0 { door doorListedTwice 0 with modRunning := false, held := [] } doorListedTwice)) 0).session
      = true ∧
    (door (modDoor 0 (fun x => { x with
      held := [], modRunning := false, pba := if bitAt x.pba 0 then x.pba else x.pba + 2 ^ 0 }) doorListedTwice) 0).session
      = false := by decide

/-- Refutes O13 in a state whose table of doors lists one twice: at the end of the moderation period door 0 reads, in the model,
as the entry that the first one hid, which has a session; by the statement it has none. -/
theorem not_replies : ¬ Obligations.Replies := by
  rintro ⟨-, hdoor⟩
  obtain ⟨-, -, -, -, -, hmasked, -⟩ := hdoor doorListedTwice 0 rfl
  obtain ⟨hmodel, hstated⟩ := doorListedTwice_session
  have hlt : (0 : DoorId).val < 2 := by decide
  have hend : (door doorListedTwice (0 : DoorId)).modEnd ≤ nowP doorListedTwice := Nat.zero_le _
  have hrun := exec_moderationExpiry_held (s := doorListedTwice) (d := 0) (v := 0) rfl hlt rfl hend rfl
  have hsays := hmasked 0 hlt rfl hend rfl (by decide)
  have heq := Host.Outcome.next.inj (hrun.symm.trans hsays)
  have hsession := congrArg (fun t => (door t 0).session) heq
  exact Bool.false_ne_true (hstated.symm.trans (hsession.symm.trans hmodel))

end Sys2Proof.Machine
end

section
/-! O25: packets at a front end (Table 4-10, R69, R71), ring doorbells and ring control (R61–R63, R79). -/

namespace Sys2Proof.Machine

/-! The checks of one packet. -/

section
variable {d : Nat} {p : Bytes} {s z : State}

/-- A packet passes its CRC where its door has one (R55). -/
theorem crc_passes (h : d ≠ 3 → pktCrcComputed p = pktCrc p) : ¬ (d ≠ 3 ∧ pktCrcComputed p ≠ pktCrc p) :=
  fun e => e.2 (h e.1)

theorem checkPkt_crc (hd : d ≠ 3) (h : pktCrcComputed p ≠ pktCrc p) :
    checkPkt d p s = (refusePkt d p 0x40 (pktCrcComputed p) s, false) := if_pos ⟨hd, h⟩

theorem checkPkt_sequence (hcrc : d ≠ 3 → pktCrcComputed p = pktCrc p) (h : pktSeq p ≠ (door s d).expectSeq) :
    checkPkt d p s = (refusePkt d p 0x45 (door s d).expectSeq s, false) :=
  (if_neg (crc_passes hcrc)).trans (if_pos h)

/-- A packet in sequence that starts a command, with no door 2 command collecting data, comes to the checks of its start. -/
theorem checkPkt_start (hcrc : d ≠ 3 → pktCrcComputed p = pktCrc p) (hseq : pktSeq p = (door s d).expectSeq)
    (hz : z = modDoor d (fun x => { x with expectSeq := (x.expectSeq + 1) % 2 ^ 32 }) s)
    (h2 : d = 2 → pktCont p = false ∧ collecting (door z 2) = none) : checkPkt d p s =
      (startFault z d p).elim (z, true) fun q => (refusePkt d p q.1 q.2 z, false) := by
  have hcont : ¬ (d = 2 ∧ pktCont p = true) := fun e => Bool.false_ne_true ((h2 e.1).1.symm.trans e.2)
  have hnone : (if d = 2 then collecting (door z 2) else none) = none := by
    split
    · next hd => exact (h2 hd).2
    · rfl
  unfold checkPkt
  dsimp only
  rw [if_neg (crc_passes hcrc), if_neg (not_not_intro hseq), if_neg hcont, ← hz, hnone]
  cases startFault z d p <;> rfl

end

/-! One packet in a cycle. -/

section
variable {s z : State} {d : DoorId} {b p : Bytes}

theorem onePerDoor_one (d : DoorId) (b : Bytes) : onePerDoor [(d, b)] = [(d, b)] := by
  unfold onePerDoor
  fin_cases d <;> rfl

theorem grantPool_none (s : State) : grantPool [] s = s := rfl

/-- A door 2 packet that describes input data waits for it (R66). -/
theorem acceptPkt_eq (d : DoorId) (p : Bytes) (k : PoolKind) (s : State) : acceptPkt d p k s =
    modDoor d (fun x => { x with cmds := x.cmds ++ [{
      tag := pktTag p, opcode := pktOpcode p, flags := pktFlags p, pkt := p, pool := k, gen := s.fault.gen,
      stage := if d = 2 ∧ pktInLen p ≠ 0 then .collecting (pktInLen p) else .waiting }] }) s := by
  unfold acceptPkt
  extract_lets n c
  have hstage : c.stage = if d = 2 ∧ pktInLen p ≠ 0 then .collecting (pktInLen p) else .waiting := by
    by_cases hd : d = 2
    · subst hd
      by_cases hp : pktInLen p = 0 <;> simp [c, n, hp]
    · have hv : d.val ≠ 2 := fun h => hd (Fin.ext h)
      simp [c, n, hd, hv]
  rw [← hstage]

/-- The one request of a cycle takes an entry of its door's floor while one is left (R71). -/
theorem grantPool_floor {d : Nat} (h : (door s d).floorUsed < 32) : grantPool [(d, p)] s =
    acceptPkt d p .floor (modDoor d (fun x => { x with floorUsed := x.floorUsed + 1 }) s) := by
  unfold grantPool
  simp [poolTake, h]

theorem exec_commandPacket (hh : s.clk.held = false) (hf : mayFetch s d = true) (hp : p = fetchBytes s d b) :
    exec (.commandPacket [(d, b)]) s = .next (grantPool (if (checkPkt d p (consumePkt d s)).2 then [(d.val, p)] else [])
      (checkPkt d p (consumePkt d s)).1) := by
  subst hp
  refine congrArg Host.Outcome.next ((live_run _ hh).trans ?_)
  rw [onePerDoor_one, List.foldl_cons, List.foldl_nil]
  unfold frontEnd
  dsimp only
  rw [if_pos hf]
  split <;> rfl

theorem exec_commandPacket_refused (hh : s.clk.held = false) (hf : mayFetch s d = true) (hp : p = fetchBytes s d b)
    (hz : checkPkt d p (consumePkt d s) = (z, false)) : exec (.commandPacket [(d, b)]) s = .next z := by
  rw [exec_commandPacket hh hf hp, hz]
  rfl

theorem exec_commandPacket_accepted (hh : s.clk.held = false) (hf : mayFetch s d = true) (hp : p = fetchBytes s d b)
    (hz : checkPkt d p (consumePkt d s) = (z, true)) (hroom : (door z d).floorUsed < 32) : exec (.commandPacket [(d, b)]) s =
      .next (acceptPkt d p .floor (modDoor d (fun x => { x with floorUsed := x.floorUsed + 1 }) z)) := by
  rw [exec_commandPacket hh hf hp, hz]
  exact congrArg Host.Outcome.next (grantPool_floor hroom)

end

/-! Doorbells and ring control (R61–R63, R79). -/

section
variable {s : State} {d : DoorId} {v : Word}

theorem wfld_zero (v : Word) (n : Nat) : wfld v 0 n = v.toNat % 2 ^ n := by
  rw [wfld, fld, Nat.pow_zero, Nat.div_one]

theorem exec_cmdTail (hh : s.clk.held = false) (hd : d ≠ 2) : exec (.cmdTail d v) s =
    .next (modDoor d (fun x => { x with cmdTail := v.toNat % 2 ^ 12, idle := false }) s) := by
  rw [← wfld_zero]
  exact congrArg Host.Outcome.next ((live_run _ hh).trans (if_neg hd))

theorem exec_rplHead (hh : s.clk.held = false) (hd : d ≠ 2) : exec (.rplHead d v) s =
    .next (modDoor d (fun x => { x with rplHead := v.toNat % 2 ^ 12, idle := false }) s) := by
  rw [← wfld_zero]
  exact congrArg Host.Outcome.next ((live_run _ hh).trans (if_neg hd))

theorem exec_ringEnable (hh : s.clk.held = false) (hd : d.val < 2) (hr : (door s d).ringEnable = false) :
    exec (.ringEnable d) s = .next (modDoor d (fun x => { x with
      ringEnable := true, cmdHead := 0, cmdTail := 0, rplHead := 0, rplTail := 0, phase := true }) s) := by
  refine congrArg Host.Outcome.next ((live_run _ hh).trans ((if_neg (Nat.not_le.2 hd)).trans ?_))
  exact congrArg (setDoor d · s) (if_neg (ne_true_of_eq_false hr))

theorem exec_ringDisable (hh : s.clk.held = false) (hd : d.val < 2) :
    exec (.ringDisable d) s = .next (modDoor d (fun x => { x with ringEnable := false }) s) :=
  congrArg Host.Outcome.next ((live_run _ hh).trans (if_neg (Nat.not_le.2 hd)))

theorem exec_idleHint_set (hh : s.clk.held = false) (hd : d ≠ 2) (hv : wbit v 0 = true) : exec (.idleHint d v) s =
    .next (raise (112 + 8 * d.val + 7) (modDoor d (fun x => { x with idle := true }) s)) :=
  congrArg Host.Outcome.next ((live_run _ hh).trans ((if_neg hd).trans ((if_pos hv).trans
    (if_neg fun h => hd (Fin.ext h)))))

theorem exec_idleHint_clear (hh : s.clk.held = false) (hd : d ≠ 2) (hv : wbit v 0 = false) :
    exec (.idleHint d v) s = .next s :=
  congrArg Host.Outcome.next ((live_run _ hh).trans ((if_neg hd).trans (if_neg (ne_true_of_eq_false hv))))

end

/-- Settles O25: a packet's checks in their order, the doorbells and ring control each by its equation. -/
theorem packetsAndRings : Obligations.PacketsAndRings := by
  refine ⟨fun s d b p y hh hf hp hy => ?_, fun s d v hh => ⟨exec_cmdTail hh, exec_rplHead hh, exec_ringEnable hh,
    exec_ringDisable hh, exec_idleHint_set hh, exec_idleHint_clear hh⟩⟩
  subst hy
  have hne : d ≠ 3 → d.val ≠ 3 := fun h e => h (Fin.ext e)
  have hval : (d ≠ 3 → pktCrcComputed p = pktCrc p) → d.val ≠ 3 → pktCrcComputed p = pktCrc p := fun h e =>
    h fun hd => e (congrArg Fin.val hd)
  refine ⟨fun hd hcrc => exec_commandPacket_refused hh hf hp (checkPkt_crc (hne hd) hcrc),
    fun hcrc hseq => exec_commandPacket_refused hh hf hp (checkPkt_sequence (hval hcrc) hseq),
    fun z hcrc hseq hz h2 => ?_⟩
  have hgen : z.fault.gen = s.fault.gen := by rw [hz]; rfl
  have hcheck := checkPkt_start (hval hcrc) hseq hz fun h => h2 (Fin.ext h)
  refine ⟨fun st r0 hst => exec_commandPacket_refused hh hf hp (hcheck.trans (by rw [hst]; rfl)), fun hst hroom => ?_⟩
  rw [exec_commandPacket_accepted hh hf hp (hcheck.trans (by rw [hst]; rfl)) hroom, acceptPkt_eq, ← hgen]
  rfl

end Sys2Proof.Machine
end

section
/-! What the signals of events (R78–R80, R307, R309) and returns to the reply pool (R71) leave of a door: all but its interrupts,
its moderation and its count of entries in use. A door so changed reads back from a table in canonical form, and from any table
where what is left of it is not the default. -/

namespace Sys2Proof.Machine

/-- A door without what signals and returns to the pool change. -/
def doorNote (x : Door) : Door :=
  { x with pba := 0, idle := false, held := [], modRunning := false, modEnd := 0, irq2 := false, floorUsed := 0 }

/-- Doors of one note agree in every field that the note keeps. -/
theorem eq_of_doorNote {α : Type} (g : Door → α) {x y : Door} (h : doorNote x = doorNote y)
    (hg : ∀ z, g (doorNote z) = g z := by exact fun _ => rfl) : g x = g y := by
  rw [← hg x, h, hg]

/-- A change of door `e` that leaves its note reads back. -/
def ReadsBack (s : State) (e : Nat) : Prop := tableWf {} 0 s.doors = true ∨ doorNote (door s e) ≠ {}

/-- From `s` to `t` door `e` has been signalled at most. -/
structure Signalled (e : Nat) (s t : State) : Prop where
  note : doorNote (door t e) = doorNote (door s e)
  form : tableWf {} 0 s.doors = true → tableWf {} 0 t.doors = true
  frame : ∃ evc doors pool out, t = { s with evc := evc, doors := doors, pool := pool, out := out }

theorem Signalled.refl (e : Nat) (s : State) : Signalled e s s := ⟨rfl, id, _, _, _, _, rfl⟩

theorem Signalled.trans {e : Nat} {s t u : State} (h : Signalled e s t) (g : Signalled e t u) : Signalled e s u := by
  obtain ⟨_, _, _, _, rfl⟩ := h.frame
  obtain ⟨_, _, _, _, rfl⟩ := g.frame
  exact ⟨g.note.trans h.note, fun w => g.form (h.form w), _, _, _, _, rfl⟩

theorem Signalled.readsBack {e : Nat} {s t : State} (h : Signalled e s t) (hs : ReadsBack s e) : ReadsBack t e :=
  hs.imp h.form fun hn => h.note ▸ hn

/-- An operation that signals door `e` at most. -/
def Signals (e : Nat) (f : State → State) : Prop := ∀ s, ReadsBack s e → Signalled e s (f s)

theorem Signals.comp {e : Nat} {f g : State → State} (hg : Signals e g) (hf : Signals e f) : Signals e fun s => g (f s) :=
  fun s h => (hf s h).trans (hg _ ((hf s h).readsBack h))

theorem Signals.ite {e : Nat} {c : Prop} [Decidable c] {f g : State → State} (hf : Signals e f) (hg : Signals e g) :
    Signals e fun s => if c then f s else g s := by
  intro s h
  dsimp only
  split
  · exact hf s h
  · exact hg s h

theorem signals_foldl {α : Type} {e : Nat} {f : State → α → State} (h : ∀ a, Signals e (f · a)) (l : List α) :
    Signals e fun s => l.foldl f s := by
  induction l with
  | nil => exact fun s _ => .refl e s
  | cons a l ih => exact ih.comp (h a)

/-! Doors. -/

theorem door_setDoor_of_ne {d : Nat} {x : Door} (s : State) (h : x ≠ {}) : door (setDoor d x s) d = x := by
  rw [door, setDoor_doors, tset, if_neg h, tget_tins_same]

theorem door_setDoor_of_readsBack {e : Nat} {x : Door} {s : State} (h : ReadsBack s e)
    (hx : doorNote x = doorNote (door s e)) : door (setDoor e x s) e = x := by
  rcases h with w | hn
  · exact door_setDoor_same e x s w
  · exact door_setDoor_of_ne s fun h0 => hn (hx.symm.trans (congrArg doorNote h0))

theorem signalled_setDoor {d e : Nat} {x : Door} {s : State} (h : ReadsBack s e)
    (hx : d = e → doorNote x = doorNote (door s e)) : Signalled e s (setDoor d x s) := by
  refine ⟨?_, fun w => tableWf_tset d x w, _, _, _, _, rfl⟩
  by_cases hd : d = e
  · subst hd
    rw [door_setDoor_of_readsBack h (hx rfl), hx rfl]
  · rw [door_setDoor_ne x s (Ne.symm hd)]

/-- A change of another door, or one that leaves the note. -/
theorem signals_modDoor {d e : Nat} {f : Door → Door} (hf : d = e → ∀ x, doorNote (f x) = doorNote x) :
    Signals e (modDoor d f) := fun s h => signalled_setDoor h fun hd => by
  subst hd
  exact hf rfl _

theorem signals_frame {e : Nat} {f : State → State} (hf : ∀ s, ∃ evc pool out, f s = { s with evc := evc, pool := pool, out := out }) :
    Signals e f := fun s _ => by
  obtain ⟨_, _, _, h⟩ := hf s
  rw [h]
  exact ⟨rfl, id, _, _, _, _, rfl⟩

section
variable (e : Nat)

theorem signals_emit (o : Out) : Signals e (emit o) := signals_frame fun _ => ⟨_, _, _, rfl⟩

theorem signals_poolReturn (d : Nat) (k : PoolKind) : Signals e (poolReturn d k) := by
  cases k with
  | none => exact fun s _ => .refl e s
  | floor => exact signals_modDoor (f := fun x => { x with floorUsed := x.floorUsed - 1 }) fun _ _ => rfl
  | shared => exact signals_frame fun _ => ⟨_, _, _, rfl⟩

/-! Interrupts and signals. -/

theorem signals_sendMsix (d v : Nat) : Signals e (sendMsix d v) := fun s h => by
  unfold sendMsix
  extract_lets x
  have hset : ∀ y, doorNote y = doorNote x → Signalled e s (setDoor d y s) := fun y hy =>
    signalled_setDoor h fun hd => hd ▸ hy
  split
  · exact hset _ rfl
  · have h1 := hset { x with
      pba := if bitAt x.pba v then x.pba - 2 ^ v else x.pba, idle := false, modRunning := decide (x.modPeriod ≠ 0)
      modEnd := nowP s + x.modPeriod * 125 } rfl
    exact h1.trans (signals_emit e _ _ (h1.readsBack h))

theorem signals_doorInterrupt (d v : Nat) : Signals e (doorInterrupt d v) := fun s h => by
  unfold doorInterrupt
  extract_lets x
  split
  · exact signalled_setDoor h fun hd => hd ▸ rfl
  · exact signals_sendMsix e d v s h

theorem signals_irq2Settle : Signals e irq2Settle := fun s h => by
  unfold irq2Settle
  extract_lets x
  have hset : ∀ y, doorNote y = doorNote x → Signalled e s (setDoor 2 y s) := fun y hy =>
    signalled_setDoor h fun hd => hd ▸ hy
  split
  · split
    · exact .refl e s
    · split <;> exact hset _ rfl
  · exact hset _ rfl

theorem signals_evcSignal (d p : Nat) : Signals e (evcSignal d p) :=
  (signals_irq2Settle e).ite (signals_doorInterrupt e d (16 + p))

theorem signals_setLastSig (d v : Nat) : Signals e (setLastSig d v) := signals_frame fun _ => ⟨_, _, _, rfl⟩

theorem signals_evcSettle (d : Nat) : Signals e (evcSettle d) := fun s h => by
  unfold evcSettle
  split
  · split
    · exact (signals_irq2Settle e).comp (signals_setLastSig e d 0) s h
    · exact signals_setLastSig e d 0 s h
  · extract_lets p
    split
    · exact (signals_evcSignal e d p).comp (signals_setLastSig e d (p + 1)) s h
    · split
      · exact signals_irq2Settle e s h
      · exact .refl e s

theorem signals_pendTarget (n t : Nat) : Signals e (pendTarget n t) :=
  signals_frame fun s => ⟨_, _, _, pendTarget_frame n t s⟩

theorem signals_raise (n : Nat) : Signals e (raise n) := fun s h => by
  have hpend : Signals e fun s => pendTarget n 3 (pendTarget n 2 (pendTarget n 1 (pendTarget n 0 s))) :=
    (signals_pendTarget e n 3).comp ((signals_pendTarget e n 2).comp ((signals_pendTarget e n 1).comp (signals_pendTarget e n 0)))
  have hsettle : ∀ d, Signals e fun x => if srcTargets s n (d + 1) then evcSettle d x else x := fun d =>
    (signals_evcSettle e d).ite fun x _ => .refl e x
  exact ((hsettle 2).comp ((hsettle 1).comp ((hsettle 0).comp hpend))) s h

/-- A door reset clears the EVC's stack and pending bits of its target (R312). -/
theorem signals_evcClearTarget (t : Nat) : Signals e (evcClearTarget t) := by
  have hclear : Signals e fun s => setEvcPend t 0 (setEvcStack t [] s) := signals_frame fun _ => ⟨_, _, _, rfl⟩
  have hsettle : Signals e (evcSettleTarget t) := Signals.ite (fun s _ => .refl e s) (signals_evcSettle e (t - 1))
  exact hsettle.comp hclear

end

end Sys2Proof.Machine
end

section
/-! O26: door resets (R64, R81). A reset leaves its door as `emptyDoor` says, but for signals, and other doors signalled at most. -/

namespace Sys2Proof.Machine

/-- From `s` to `t` door `d` has changed, though not in its grant, and the other doors have been signalled at most. -/
structure OwnDoor (d : Nat) (s t : State) : Prop where
  form : tableWf {} 0 t.doors = true
  grant : (door t d).grant = (door s d).grant
  others : ∀ e, e ≠ d → doorNote (door t e) = doorNote (door s e)
  stock : t.stock = s.stock
  fault : t.fault = s.fault

section
variable {d : Nat} {s t u : State}

theorem OwnDoor.trans (h : OwnDoor d s t) (g : OwnDoor d t u) : OwnDoor d s u :=
  ⟨g.form, g.grant.trans h.grant, fun e he => (g.others e he).trans (h.others e he), g.stock.trans h.stock, g.fault.trans h.fault⟩

theorem ownDoor_signals {f : State → State} (hf : ∀ e, Signals e f) (w : tableWf {} 0 s.doors = true) : OwnDoor d s (f s) := by
  obtain ⟨_, _, _, _, h⟩ := (hf d s (.inl w)).frame
  exact ⟨(hf d s (.inl w)).form w, eq_of_doorNote Door.grant (hf d s (.inl w)).note, fun e _ => (hf e s (.inl w)).note,
    (congrArg State.stock h :), (congrArg State.fault h :)⟩

theorem ownDoor_modDoor {f : Door → Door} (hf : ∀ x, (f x).grant = x.grant) (w : tableWf {} 0 s.doors = true) :
    OwnDoor d s (modDoor d f s) :=
  ⟨tableWf_tset d _ w, (congrArg Door.grant (door_modDoor_same d f s w)).trans (hf _),
    fun _ he => congrArg doorNote (door_modDoor_ne f s he), rfl, rfl⟩

end

/-! What a reset empties (R81). -/

/-- A door with its ring, queue, window, session and subscription as at reset, and the commands whose replies will be dropped. -/
def emptyDoor (kept : List Cmd) (x : Door) : Door := { x with
  cmds := kept, replies := [], ringEnable := false, cmdHead := 0, cmdTail := 0, rplHead := 0, rplTail := 0,
  phase := true, notice := 0, idle := false, expectSeq := 0, session := false, spiQueue := [], overrun := false,
  window := none, windowRead := false, modPeriod := 0, modRunning := false, held := [], telPeriod := 0, telItems := 0 }

/-- The note of an emptied door depends on what its note was. -/
theorem doorNote_emptyDoor (kept : List Cmd) {x y : Door} (h : doorNote x = doorNote y) :
    doorNote (emptyDoor kept x) = doorNote (emptyDoor kept y) :=
  calc doorNote (emptyDoor kept x) = doorNote (emptyDoor kept (doorNote x)) := rfl
    _ = doorNote (emptyDoor kept (doorNote y)) := by rw [h]
    _ = doorNote (emptyDoor kept y) := rfl

/-- A door reset discards commands and replies, empties the door and clears its target of the EVC. -/
theorem doorResetCore_eq (s : State) {d : Nat} (hd : d ≠ 3) : ∃ (gone kept : List Cmd) (old : List Reply),
    (∀ c ∈ kept, c.dropped = true) ∧ doorResetCore d s = irq2Settle (evcClearTarget (d + 1) (modDoor d (emptyDoor kept)
      (old.foldl (fun y r => poolReturn d r.pool y) (gone.foldl (fun y c => poolReturn d c.pool y) s)))) := by
  unfold doorResetCore
  extract_lets x gone s1 s2 kept s3
  rw [if_neg hd]
  refine ⟨gone, kept, _, fun c hc => ?_, rfl⟩
  obtain ⟨e, -, rfl⟩ := List.mem_map.1 hc
  rfl

section
variable {s : State} {d : Nat} (w : tableWf {} 0 s.doors = true) (hd : d ≠ 3)
include w hd

theorem doorResetCore_own : OwnDoor d s (doorResetCore d s) ∧ ∃ kept, (∀ c ∈ kept, c.dropped = true) ∧
    doorNote (door (doorResetCore d s) d) = doorNote (emptyDoor kept (door s d)) := by
  obtain ⟨gone, kept, old, hkept, heq⟩ := doorResetCore_eq s hd
  have hpool : ∀ e, Signals e fun s =>
      old.foldl (fun y r => poolReturn d r.pool y) (gone.foldl (fun y c => poolReturn d c.pool y) s) := fun e =>
    (signals_foldl (fun r => signals_poolReturn e d r.pool) old).comp (signals_foldl (fun c => signals_poolReturn e d c.pool) gone)
  have hevc : ∀ e, Signals e fun s => irq2Settle (evcClearTarget (d + 1) s) := fun e =>
    (signals_irq2Settle e).comp (signals_evcClearTarget e (d + 1))
  have h1 : OwnDoor d s _ := ownDoor_signals hpool w
  have h2 := ownDoor_modDoor (d := d) (f := emptyDoor kept) (fun _ => rfl) h1.form
  rw [heq]
  refine ⟨h1.trans (h2.trans (ownDoor_signals hevc h2.form)), kept, hkept, ?_⟩
  rw [(hevc d _ (.inl h2.form)).note, door_modDoor_same _ _ _ h1.form]
  exact doorNote_emptyDoor kept (hpool d s (.inl w)).note

theorem startDoorReset_own : OwnDoor d s (startDoorReset d s) ∧ ∃ kept, (∀ c ∈ kept, c.dropped = true) ∧
    doorNote (door (startDoorReset d s) d) = doorNote { emptyDoor kept (door s d) with resetPend := true } := by
  obtain ⟨hown, kept, hkept, hnote⟩ := doorResetCore_own w hd
  have h1 := ownDoor_modDoor (d := d) (f := fun x => { x with resetPend := true }) (fun _ => rfl) hown.form
  have hraise : ∀ e, Signals e (raise (doorSource d 4)) := fun e => signals_raise e _
  rw [startDoorReset, if_neg hd]
  refine ⟨hown.trans (h1.trans (ownDoor_signals hraise h1.form)), kept, hkept, ?_⟩
  rw [(hraise d _ (.inl h1.form)).note, door_modDoor_same _ _ _ hown.form]
  exact congrArg (fun x : Door => { x with resetPend := true }) hnote

end

/-! The causes of R64. -/

/-- A cause of a door reset starts it once what comes with the cause is done, which concerns the door alone. -/
theorem exec_resetCause {s : State} {d : DoorId} (hh : s.clk.held = false) (w : tableWf {} 0 s.doors = true) (hd : d.val < 2)
    {i : Instr} (hi : i ∈ [Instr.doorReset d 0xC1EA#32, .pcieLinkDown d .linkDown, .pcieLinkDown d .hotReset,
      .pcieLinkDown d .ringAccess, .pcieLinkDown d .functionReset, .pcieLinkDown d .d3hot, .pciePerst d]) :
    ∃ y, OwnDoor d s y ∧ exec i s = .next (startDoorReset d y) := by
  have hself : OwnDoor d s s := ownDoor_signals (f := id) (fun e s _ => .refl e s) w
  have hfalls : OwnDoor d s (linkFalls d s) := by
    unfold linkFalls
    split
    · have h1 := ownDoor_modDoor (d := d) (f := fun x => { x with linkUp := false }) (fun _ => rfl) w
      exact h1.trans (ownDoor_signals (fun e => signals_raise e _) h1.form)
    · exact hself
  have hlow : ¬ d.val ≥ 2 := Nat.not_le.2 hd
  have hne : d ≠ 2 := fun h => absurd (congrArg Fin.val h) (Nat.ne_of_lt hd)
  have hkey : wfld 0xC1EA#32 0 16 = 0xC1EA := by decide
  simp only [List.mem_cons, List.not_mem_nil, or_false] at hi
  rcases hi with rfl | rfl | rfl | rfl | rfl | rfl | rfl
  · exact ⟨s, hself, congrArg Host.Outcome.next ((live_run _ hh).trans ((if_neg hne).trans (if_pos hkey)))⟩
  · exact ⟨_, hfalls, congrArg Host.Outcome.next ((live_run _ hh).trans (if_neg hlow))⟩
  · exact ⟨_, hfalls, congrArg Host.Outcome.next ((live_run _ hh).trans (if_neg hlow))⟩
  · exact ⟨_, ownDoor_signals (fun e => signals_emit e (.aer d)) w,
      congrArg Host.Outcome.next ((live_run _ hh).trans (if_neg hlow))⟩
  · exact ⟨s, hself, congrArg Host.Outcome.next ((live_run _ hh).trans (if_neg hlow))⟩
  · exact ⟨s, hself, congrArg Host.Outcome.next ((live_run _ hh).trans (if_neg hlow))⟩
  · exact ⟨_, hfalls.trans (ownDoor_modDoor (f := fun x => { x with perst := true }) (fun _ => rfl) hfalls.form),
      congrArg Host.Outcome.next ((live_run _ hh).trans (if_neg hlow))⟩

/-- Settles O26: the causes of R64 come to `startDoorReset`, whose door reads as `emptyDoor` says. -/
theorem doorResets : Obligations.DoorResets := by
  intro s d hh w
  refine ⟨fun hd i hi => ?_, fun hd hl => ?_, fun h2 => ?_, fun h2 => ?_, fun hp => ?_⟩
  · obtain ⟨y, hy, hexec⟩ := exec_resetCause hh w hd hi
    obtain ⟨hown, kept, hkept, hnote⟩ := startDoorReset_own hy.form (d := d) (by omega)
    have hall := hy.trans hown
    refine ⟨_, hexec, eq_of_doorNote Door.resetPend hnote, eq_of_doorNote Door.replies hnote,
      eq_of_doorNote Door.session hnote, eq_of_doorNote Door.expectSeq hnote, eq_of_doorNote Door.ringEnable hnote,
      eq_of_doorNote Door.cmdHead hnote, eq_of_doorNote Door.cmdTail hnote, eq_of_doorNote Door.rplHead hnote,
      eq_of_doorNote Door.rplTail hnote, eq_of_doorNote Door.notice hnote, ?_, hall.grant, hall.stock, hall.fault,
      fun e he => ⟨eq_of_doorNote Door.cmds (hall.others e he), eq_of_doorNote Door.replies (hall.others e he),
        eq_of_doorNote Door.session (hall.others e he), eq_of_doorNote Door.expectSeq (hall.others e he)⟩⟩
    rwa [show (door (startDoorReset d y) d).cmds = kept from eq_of_doorNote Door.cmds hnote]
  · exact congrArg Host.Outcome.next ((live_run _ hh).trans (if_pos ⟨hd, hl⟩))
  · obtain ⟨hown, kept, hkept, hnote⟩ := startDoorReset_own w (d := 2) (by decide)
    have hdone := door_modDoor_same 2 (fun x => { x with lastSpi := 0x99, spiClaim := none }) _ hown.form
    refine ⟨_, congrArg Host.Outcome.next ((live_run _ hh).trans (if_pos h2)), ?_⟩
    rw [spiDone, hdone]
    exact ⟨eq_of_doorNote Door.resetPend hnote, eq_of_doorNote Door.replies hnote, eq_of_doorNote Door.spiQueue hnote,
      eq_of_doorNote Door.window hnote, eq_of_doorNote Door.session hnote⟩
  · exact congrArg Host.Outcome.next ((live_run _ hh).trans (if_neg h2))
  · exact congrArg Host.Outcome.next ((live_run _ hh).trans (if_pos hp))

end Sys2Proof.Machine
end

section
/-! O27: the SPI instructions of door 2 (Table 4-9, R53, R65, R66, R79, R81). Each leaves its code in the door, which therefore is
not the default and reads back from every table. -/

namespace Sys2Proof.Machine

/-! Door 2 after an instruction. -/

section
variable {s : State} {code : Nat}

theorem door2_modDoor {f : Door → Door} (h : (f (door s 2)).lastSpi ≠ 0) : door (modDoor 2 f s) 2 = f (door s 2) :=
  door_setDoor_of_ne s fun e => h (congrArg Door.lastSpi e)

theorem door2_spiDone (s : State) (h : code ≠ 0) :
    door (spiDone code s) 2 = { door s 2 with lastSpi := code, spiClaim := none } := door2_modDoor h

/-- A change of door 2 that comes with an instruction and leaves its code. -/
theorem door2_after {f : Door → Door} (s : State) (h : code ≠ 0) (hf : ∀ x, (f x).lastSpi = x.lastSpi) :
    door (modDoor 2 f (spiDone code s)) 2 = f { door s 2 with lastSpi := code, spiClaim := none } := by
  have hdone := door2_spiDone s h
  rw [door2_modDoor (by rw [hf, hdone]; exact h), hdone]

theorem readsBack_of_lastSpi (h : (door s 2).lastSpi ≠ 0) : ReadsBack s 2 := .inr fun e => h (congrArg Door.lastSpi e)

/-- The same once the door has been signalled. -/
theorem note_after {f : Door → Door} {g : State → State} (s : State) (h : code ≠ 0) (hf : ∀ x, (f x).lastSpi = x.lastSpi)
    (hg : Signals 2 g) : doorNote (door (g (modDoor 2 f (spiDone code s))) 2) =
      doorNote (f { door s 2 with lastSpi := code, spiClaim := none }) := by
  have hdoor := door2_after s h hf
  rw [(hg _ (readsBack_of_lastSpi (by rw [hdoor, hf]; exact h))).note, hdoor]

theorem take_leBytes {n k : Nat} (v : Nat) (h : n ≤ k) : (leBytes n v).take k = leBytes n v :=
  List.take_of_length_le (Nat.le_trans (Nat.le_of_eq (length_leBytes n v)) h)

end

/-! WRITE_CMD (R65). -/

/-- A WRITE_CMD has been clocked in: door 2 is idle no longer. -/
def spiWriting (code : Nat) (s : State) : State := modDoor 2 (fun x => { x with idle := false }) (spiDone code s)

section
variable {s : State} {code : Nat} {data : Bytes}

theorem door2_spiWriting (s : State) (hc : code ≠ 0) : door (spiWriting code s) 2 =
    { door s 2 with lastSpi := code, spiClaim := none, idle := false } := door2_after s hc fun _ => rfl

/-- The queue takes the 64 bytes where it has room. -/
theorem spiWriteCmd_room (hc : code ≠ 0) (hl : data.length = 64) (h : (door s 2).spiQueue.length < 8) :
    spiWriteCmd code data s =
      modDoor 2 (fun x => { x with spiQueue := x.spiQueue ++ [data] }) (spiWriting code s) := by
  have hq : (door (spiWriting code s) 2).spiQueue.length < 8 := by rw [door2_spiWriting s hc]; exact h
  unfold spiWriteCmd
  dsimp only
  rw [if_neg (by rw [hl]; decide), List.take_of_length_le (Nat.le_of_eq hl)]
  exact if_pos hq

theorem door2_spiWriteCmd_room (hc : code ≠ 0) (hl : data.length = 64) (h : (door s 2).spiQueue.length < 8) :
    door (spiWriteCmd code data s) 2 = { door s 2 with
      lastSpi := code, spiClaim := none, idle := false, spiQueue := (door s 2).spiQueue ++ [data] } := by
  have hdoor := door2_spiWriting s hc
  rw [spiWriteCmd_room hc hl h, door2_modDoor (by rw [hdoor]; exact hc), hdoor]

theorem spiWriteCmd_full (hc : code ≠ 0) (hl : data.length = 64) (h : 8 ≤ (door s 2).spiQueue.length) :
    spiWriteCmd code data s = raise 131 (modDoor 2 (fun x => { x with overrun := true }) (spiWriting code s)) := by
  have hq : ¬ (door (spiWriting code s) 2).spiQueue.length < 8 := by rw [door2_spiWriting s hc]; exact Nat.not_lt.2 h
  exact (if_neg (by rw [hl]; decide)).trans (if_neg hq)

/-- A full queue stays, and OVERRUN is set. -/
theorem door2_spiWriteCmd_full (hc : code ≠ 0) (hl : data.length = 64) (h : 8 ≤ (door s 2).spiQueue.length) :
    (door (spiWriteCmd code data s) 2).spiQueue = (door s 2).spiQueue ∧ (door (spiWriteCmd code data s) 2).overrun = true := by
  have hdoor := door2_spiWriting s hc
  have hne : (door (spiWriting code s) 2).lastSpi ≠ 0 := by rw [hdoor]; exact hc
  have hmod := door2_modDoor (f := fun x => { x with overrun := true }) hne
  have hnote := (signals_raise 2 131 _ (readsBack_of_lastSpi (by rw [hmod]; exact hne))).note
  rw [hmod, hdoor] at hnote
  rw [spiWriteCmd_full hc hl h]
  exact ⟨(eq_of_doorNote Door.spiQueue hnote :), (eq_of_doorNote Door.overrun hnote :)⟩

end

/-! READ_REPLY (R65, R66). -/

/-- Door 2's replies, the instruction it had last, and what has been put out. -/
structure SpiAt (code : Nat) (rs : List Reply) (o : List Out) (s : State) : Prop where
  code : (door s 2).lastSpi = code
  replies : (door s 2).replies = rs
  out : s.out = o

section
variable {s t : State} {code : Nat} {rs : List Reply} {o : List Out} (hc : code ≠ 0)
include hc

theorem SpiAt.modDoor {f : Door → Door} {rs' : List Reply} (h : SpiAt code rs o s) (h1 : (f (door s 2)).lastSpi = (door s 2).lastSpi)
    (h2 : (f (door s 2)).replies = rs') : SpiAt code rs' o (modDoor 2 f s) := by
  have hne : (f (door s 2)).lastSpi ≠ 0 := h1.trans h.code ▸ hc
  exact ⟨by rw [door2_modDoor hne, h1, h.code], by rw [door2_modDoor hne, h2], h.out⟩

theorem SpiAt.signals {f : State → State} (h : SpiAt code rs o s) (hf : Signals 2 f) (ho : (f s).out = s.out) :
    SpiAt code rs o (f s) := by
  have hnote := (hf s (readsBack_of_lastSpi (h.code ▸ hc))).note
  exact ⟨(eq_of_doorNote Door.lastSpi hnote).trans h.code, (eq_of_doorNote Door.replies hnote).trans h.replies, ho.trans h.out⟩

end

theorem windowLoad_replies (x : Door) : (windowLoad x).replies = x.replies := by
  unfold windowLoad
  split
  · split <;> rfl
  · rfl

theorem windowLoad_lastSpi (x : Door) : (windowLoad x).lastSpi = x.lastSpi := by
  unfold windowLoad
  split
  · split <;> rfl
  · rfl

theorem delivered_at {s : State} {code : Nat} {rs : List Reply} {o : List Out} (hc : code ≠ 0) (r : Reply)
    (h : SpiAt code rs o s) : SpiAt code rs o (delivered 2 r s) := by
  unfold delivered
  extract_lets s1
  have h1 : SpiAt code rs o s1 := by
    unfold s1
    split
    · exact h.modDoor hc rfl h.replies
    · exact h
  exact h1.signals hc (signals_poolReturn 2 2 r.pool) (by rw [poolReturn_frame])

/-- A complete READ_REPLY consumes the reply at the head. -/
theorem spiConsume_at {s : State} {code : Nat} {rs : List Reply} {o : List Out} (hc : code ≠ 0) (h : SpiAt code rs o s) :
    SpiAt code rs.tail o (spiConsume s) := by
  unfold spiConsume
  extract_lets x x1
  have hx1 : x1.lastSpi = x.lastSpi ∧ x1.replies = x.replies := by
    unfold x1
    split <;> exact ⟨rfl, rfl⟩
  obtain ⟨hspi, hrep⟩ := hx1
  split
  · next hr =>
    refine h.modDoor (f := fun _ => windowLoad x1) hc ((windowLoad_lastSpi x1).trans hspi) ?_
    rw [windowLoad_replies, hr, ← h.replies, ← hrep, hr]
    rfl
  · next r rest hr =>
    extract_lets x2 x3
    have hx3 : x3.lastSpi = x.lastSpi ∧ x3.replies = rest := by
      unfold x3
      split <;> exact ⟨(windowLoad_lastSpi x1).trans hspi, rfl⟩
    have htail : rest = rs.tail := by rw [← h.replies, ← hrep, hr]; rfl
    have h1 : SpiAt code rs.tail o (setDoor 2 (windowLoad x3) s) :=
      h.modDoor (f := fun _ => windowLoad x3) hc ((windowLoad_lastSpi x3).trans hx3.1)
        ((windowLoad_replies x3).trans (hx3.2.trans htail))
    exact (delivered_at hc r h1).signals hc (signals_irq2Settle 2) (by rw [irq2Settle_frame])

/-- The 32 bytes that a READ_REPLY puts out: those of the reply at the head, zeros where there is none. -/
def spiReplyBytes (s : State) : Bytes := ((door s 2).replies.head?.map fun r => replyBytes r false).getD (List.replicate 32 0#8)

theorem length_spiReplyBytes (s : State) : (spiReplyBytes s).length = 32 := by
  unfold spiReplyBytes
  cases (door s 2).replies with
  | nil => exact List.length_replicate
  | cons r rest => exact length_replyBytes r false

theorem spiReadReply_eq (code n : Nat) (s : State) : spiReadReply code n s =
    let s1 := spiDone code (emit (.spiData ((spiReplyBytes s).take n)) s)
    if n < 32 then s1 else modDoor 2 (fun x => { x with idle := false }) (spiConsume s1) := by
  unfold spiReadReply spiReplyBytes
  dsimp only
  cases (door s 2).replies <;> rfl

section
variable {s : State} {code n : Nat} (hc : code ≠ 0)
include hc

/-- Door 2 at the end of an instruction that has put out data. -/
theorem spiDone_at (o : Out) (s : State) : SpiAt code (door s 2).replies (o :: s.out) (spiDone code (emit o s)) := by
  have hdoor := door2_spiDone (emit o s) hc
  exact ⟨by rw [hdoor], by rw [hdoor]; rfl, rfl⟩

theorem spiReadReply_short (h : n < 32) : (door (spiReadReply code n s) 2).replies = (door s 2).replies := by
  rw [spiReadReply_eq]
  exact (congrArg (fun t => (door t 2).replies) (if_pos h)).trans (spiDone_at hc _ s).replies

theorem spiReadReply_complete (h : 32 ≤ n) : (door (spiReadReply code n s) 2).replies = (door s 2).replies.tail ∧
    (spiReadReply code n s).out = .spiData (spiReplyBytes s) :: s.out := by
  have htake : (spiReplyBytes s).take n = spiReplyBytes s := List.take_of_length_le (length_spiReplyBytes s ▸ h)
  have hat := spiConsume_at hc (spiDone_at hc (.spiData (spiReplyBytes s)) s)
  have hend := hat.modDoor (f := fun x => { x with idle := false }) hc rfl hat.replies
  rw [spiReadReply_eq, htake]
  dsimp only
  rw [if_neg (Nat.not_lt.2 h)]
  exact ⟨hend.replies, hend.out⟩

end

/-! READ_DATA (R66). -/

/-- Bytes beyond the end of the window read 0. -/
theorem fitBytes_slice (w : Bytes) (o n : Nat) :
    fitBytes n (slice w o n) = (w.drop o).take n ++ List.replicate (n - (w.length - o)) 0#8 := by
  rw [fitBytes, slice, List.take_take, Nat.min_self, List.length_take, List.length_drop]
  congr 2
  omega

/-! READ_STATUS, READ_NOTICE and WRITE_NOTICE_MASK. -/

section
variable {s : State} {n : Nat} (hh : s.clk.held = false)
include hh

theorem exec_readStatus (h : 4 ≤ n) : exec (.readStatus n) s = .next (modDoor 2 (fun x => { x with overrun := false })
    (spiDone 0x05 (emit (.spiData (leBytes 4 (spiStatus s))) s))) := by
  refine congrArg Host.Outcome.next ((live_run _ hh).trans ((if_neg (Nat.not_lt.2 h)).trans ?_))
  rw [take_leBytes _ h]

theorem exec_readNotice (h : 4 ≤ n) : exec (.readNotice n) s = .next (irq2Settle (modDoor 2 (fun x => { x with notice := 0 })
    (spiDone 0x06 (emit (.spiData (leBytes 4 (door s 2).notice)) s)))) := by
  refine congrArg Host.Outcome.next ((live_run _ hh).trans ((if_neg (Nat.not_lt.2 h)).trans ?_))
  rw [take_leBytes _ h]

theorem exec_writeNoticeMask {data : Bytes} (h : data.length = 4) : exec (.writeNoticeMask data) s =
    .next (irq2Settle (modDoor 2 (fun x => { x with noticeMask := leNat data % 128 }) (spiDone 0x07 s))) := by
  have hdata : leAt data 0 4 = leNat data := by rw [leAt, slice, List.drop_zero, ← h, List.take_length]
  refine congrArg Host.Outcome.next ((live_run _ hh).trans ((if_neg (by rw [h]; decide)).trans ?_))
  rw [hdata]

theorem exec_spiIdleHint : exec .spiIdleHint s =
    .next (irq2Settle (raise 135 (modDoor 2 (fun x => { x with idle := true }) (spiDone 0xB9 s)))) := by
  refine congrArg Host.Outcome.next ((live_run _ hh).trans ?_)
  rw [idleHint, if_pos rfl]
  rfl

end

/-! The instructions that exist in two widths. -/

section
variable {s : State} (hh : s.clk.held = false)
include hh

theorem exec_writeCmd_either {i : (Bytes → Instr) × Nat} (hi : i ∈ [(Instr.writeCmd, 0x02), (.writeCmdQ, 0x32)])
    (data : Bytes) : i.2 ≠ 0 ∧ exec (i.1 data) s = .next (spiWriteCmd i.2 data s) := by
  simp only [List.mem_cons, List.not_mem_nil, or_false] at hi
  rcases hi with rfl | rfl <;> exact ⟨by decide, congrArg Host.Outcome.next (live_run _ hh)⟩

theorem exec_readReply_either {i : (Nat → Instr) × Nat} (hi : i ∈ [(Instr.readReply, 0x0B), (.readReplyQ, 0x6B)]) (n : Nat) :
    i.2 ≠ 0 ∧ exec (i.1 n) s = .next (spiReadReply i.2 n s) := by
  simp only [List.mem_cons, List.not_mem_nil, or_false] at hi
  rcases hi with rfl | rfl <;> exact ⟨by decide, congrArg Host.Outcome.next (live_run _ hh)⟩

theorem exec_readData_either {i : (Nat → Nat → Instr) × Nat} (hi : i ∈ [(Instr.readData, 0x0C), (.readDataQ, 0x6C)])
    (o n : Nat) : exec (i.1 o n) s = .next (spiReadData i.2 o n s) := by
  simp only [List.mem_cons, List.not_mem_nil, or_false] at hi
  rcases hi with rfl | rfl <;> exact congrArg Host.Outcome.next (live_run _ hh)

end

/-- Settles O27: each instruction by its equation; door 2 reads back what each leaves in it. -/
theorem spiInstructions : Obligations.SpiInstructions := by
  intro s hh
  refine ⟨fun i hi data hl => ⟨fun h => ?_, fun h => ?_⟩, fun n h => ?_,
    fun i hi n => ⟨fun r rest h hr => ?_, fun h hr => ?_, fun h => ?_⟩, fun i hi o n w hw => ?_, fun n h => ?_, fun data h => ?_,
    ?_, congrArg Host.Outcome.next (live_run _ hh)⟩
  · obtain ⟨hc, hx⟩ := exec_writeCmd_either hh hi data
    have hdoor := door2_spiWriteCmd_room hc hl h
    refine ⟨_, hx, ?_, ?_, ?_, ?_, by rw [spiWriteCmd_room hc hl h]; rfl⟩ <;> rw [hdoor]
  · obtain ⟨hc, hx⟩ := exec_writeCmd_either hh hi data
    exact ⟨_, hx, door2_spiWriteCmd_full hc hl h⟩
  · have hdoor := door2_after (code := 0x05) (f := fun x => { x with overrun := false })
      (emit (.spiData (leBytes 4 (spiStatus s))) s) (by decide) fun _ => rfl
    exact ⟨_, exec_readStatus hh h, congrArg Door.overrun hdoor, rfl⟩
  · obtain ⟨hc, hx⟩ := exec_readReply_either hh hi n
    obtain ⟨hrep, hout⟩ := spiReadReply_complete (s := s) hc h
    rw [spiReplyBytes, hr] at hout
    exact ⟨_, hx, by rw [hrep, hr]; rfl, hout⟩
  · obtain ⟨hc, hx⟩ := exec_readReply_either hh hi n
    obtain ⟨hrep, hout⟩ := spiReadReply_complete (s := s) hc h
    rw [spiReplyBytes, hr] at hout
    exact ⟨_, hx, by rw [hrep, hr]; rfl, hout⟩
  · obtain ⟨hc, hx⟩ := exec_readReply_either hh hi n
    exact ⟨_, hx, spiReadReply_short hc h⟩
  · subst hw
    rw [exec_readData_either hh hi o n, ← fitBytes_slice]
    rfl
  · have hnote := note_after (code := 0x06) (f := fun x => { x with notice := 0 })
      (emit (.spiData (leBytes 4 (door s 2).notice)) s) (by decide) (fun _ => rfl) (signals_irq2Settle 2)
    exact ⟨_, exec_readNotice hh h, (eq_of_doorNote Door.notice hnote :), by rw [irq2Settle_frame]; rfl⟩
  · have hnote := note_after (code := 0x07) (f := fun x => { x with noticeMask := leNat data % 128 }) s (by decide)
      (fun _ => rfl) (signals_irq2Settle 2)
    exact ⟨_, exec_writeNoticeMask hh h, (eq_of_doorNote Door.noticeMask hnote :), (eq_of_doorNote Door.notice hnote :)⟩
  · have hnote := note_after (code := 0xB9) (f := fun x => { x with idle := true }) s (by decide) (fun _ => rfl)
      ((signals_irq2Settle 2).comp (signals_raise 2 135))
    refine ⟨_, exec_spiIdleHint hh, (eq_of_doorNote Door.lastSpi hnote :), ?_, rfl⟩
    rw [irq2Settle_frame, raise_frame]
    rfl

end Sys2Proof.Machine
end

section
/-! Commands of a door (R69, R70): what a change of one and an interim reply leave for a tag to find. -/

namespace Sys2Proof.Machine

section
variable {s : State} {d tag : Nat} {c : Cmd}

theorem cmds_ne_nil (h : findCmd s d tag = some c) : (door s d).cmds ≠ [] :=
  List.ne_nil_of_mem (List.mem_of_find?_eq_some h)

theorem tag_of_findCmd (h : findCmd s d tag = some c) : c.tag = tag ∧ c.stage ≠ .replied := by
  simpa using List.find?_some h

/-- A change that leaves a command outstanding under its tag. -/
def KeepsTag (f : Cmd → Cmd) : Prop := ∀ x, x.stage ≠ .replied → (f x).tag = x.tag ∧ (f x).stage ≠ .replied

theorem cmds_modCmd_same (f : Cmd → Cmd) (h : findCmd s d tag = some c) : (door (modCmd d tag f s) d).cmds =
    updWhere (door s d).cmds (fun x => x.tag == tag && x.stage != .replied) f := by
  have hne : updWhere (door s d).cmds (fun x => x.tag == tag && x.stage != .replied) f ≠ [] := fun e =>
    cmds_ne_nil h (List.map_eq_nil_iff.1 e)
  exact congrArg Door.cmds (door_setDoor_of_cmds (x := { door s d with cmds := _ }) s hne)

/-- What a tag finds among commands of which one has changed. -/
theorem find_updWhere {f : Cmd → Cmd} (hf : KeepsTag f) (l : List Cmd) (tag t : Nat) :
    (updWhere l (fun x => x.tag == tag && x.stage != .replied) f).find? (fun x => x.tag == t && x.stage != .replied) =
      (l.find? fun x => x.tag == t && x.stage != .replied).map fun x =>
        if x.tag == tag && x.stage != .replied then f x else x := by
  unfold updWhere
  rw [List.find?_map]
  congr 2
  funext x
  dsimp only [Function.comp]
  split
  · next hx =>
    obtain ⟨-, hs⟩ := Bool.and_eq_true_iff.1 hx
    obtain ⟨h1, h2⟩ := hf x (by simpa using hs)
    rw [h1, hs, (bne_iff_ne ..).2 h2]
  · rfl

theorem findCmd_modCmd_same {f : Cmd → Cmd} (hf : KeepsTag f) (h : findCmd s d tag = some c) :
    findCmd (modCmd d tag f s) d tag = some (f c) := by
  obtain ⟨htag, hstage⟩ := tag_of_findCmd h
  have hc : (c.tag == tag && c.stage != .replied) = true := by simp [htag, hstage]
  unfold findCmd at h ⊢
  rw [cmds_modCmd_same f h, find_updWhere hf, h]
  exact congrArg some (if_pos hc)

theorem isSome_findCmd_modCmd {f : Cmd → Cmd} (hf : KeepsTag f) (h : findCmd s d tag = some c) (e t : Nat) :
    (findCmd (modCmd d tag f s) e t).isSome = (findCmd s e t).isSome := by
  by_cases he : e = d
  · subst he
    unfold findCmd
    rw [cmds_modCmd_same f h, find_updWhere hf, Option.isSome_map]
  · unfold findCmd
    rw [show door (modCmd d tag f s) e = door s e from door_modDoor_ne _ s he]

/-! Interim replies (R70). -/

theorem windowLoad_cmds (x : Door) : (windowLoad x).cmds = x.cmds := by
  unfold windowLoad
  split
  · split <;> rfl
  · rfl

theorem cmds_pushReply (r : Reply) (h : (door s d).cmds ≠ []) (e : Nat) :
    (door (pushReply d r s) e).cmds = (door s e).cmds := by
  by_cases he : e = d
  · subst he
    unfold pushReply
    split
    · next h2 =>
      subst h2
      have hload : (windowLoad { door s 2 with replies := (door s 2).replies ++ [r] }).cmds = (door s 2).cmds :=
        windowLoad_cmds _
      have hdoor := door_setDoor_of_cmds (d := 2) s (hload.symm ▸ h)
      have hback : ReadsBack (modDoor 2 (fun x => windowLoad { x with replies := x.replies ++ [r] }) s) 2 :=
        .inr fun e => h (hload.symm.trans ((congrArg Door.cmds hdoor).symm.trans (congrArg Door.cmds e)))
      exact (eq_of_doorNote Door.cmds (signals_irq2Settle 2 _ hback).note).trans ((congrArg Door.cmds hdoor).trans hload)
    · have hdoor : door (modDoor e (fun x => { x with replies := x.replies ++ [r] }) s) e =
          { door s e with replies := (door s e).replies ++ [r] } := door_setDoor_of_cmds s h
      rw [hdoor]
  · rw [door_pushReply_ne s r he]

theorem isSome_findCmd_deferCmd (status : Nat) (h : findCmd s d tag = some c) (e t : Nat) :
    (findCmd (deferCmd d tag status s) e t).isSome = (findCmd s e t).isSome := by
  have hf : KeepsTag fun x => { x with interimSent := true } := fun _ hx => ⟨rfl, hx⟩
  have hmod := isSome_findCmd_modCmd hf h
  unfold deferCmd
  rw [h]
  dsimp only
  split
  · split
    · exact hmod e t
    · have hpush := cmds_pushReply (d := d) (s := modCmd d tag (fun x => { x with interimSent := true }) s)
        { mkReply s tag c.opcode status 0 0 0 0 with interim := true, quiet := pktQuiet c.pkt }
        (cmds_ne_nil (findCmd_modCmd_same hf h)) e
      rw [← hmod e t]
      unfold findCmd
      rw [hpush]
  · rfl

end

end Sys2Proof.Machine
end

section
/-! O39: how each Store command starts (R70, R217, R220, R222, R224–R226, R232, R236–R239, Table 12-8): the Vat's queue as a
dispatched command finds it, the checks at its turn, and the NAND operation that it begins with. -/

namespace Sys2Proof.Machine

/-! The Vat's queue (R224). -/

/-- The command at the head of the Vat's queue may go on: nothing holds the Vat. -/
structure VatReady (o : VatOp) (c : Cmd) (s : State) : Prop where
  mounted : s.vat.st ≠ 1
  going : s.vat.stopping = false
  free : s.vat.busy = false
  head : ∃ rest, s.vat.ops = o :: rest
  cmd : findCmd s o.door o.tag = some c

section
variable {s : State} {o : VatOp} {c : Cmd}

theorem vatPump_held (n : Nat) (h : s.vat.st = 1 ∨ s.vat.stopping = true ∨ s.vat.busy = true) : vatPump n s = s := by
  cases n with
  | zero => rfl
  | succ n => exact if_pos h

theorem vatPump_empty (n : Nat) (h : s.vat.ops = []) : vatPump n s = s := by
  cases n with
  | zero => rfl
  | succ n => simp [vatPump, h]

theorem vatPump_ready (n : Nat) (h : VatReady o c s) : vatPump (n + 1) s =
    if o.phase = .waiting then vatPump n (startOp o c s)
    else if o.phase = .hash ∨ relocDue s = true then s else vatPump n (beginNand o c s) := by
  obtain ⟨hst, hstop, hbusy, ⟨rest, hops⟩, hcmd⟩ := h
  have hheld : ¬ (s.vat.st = 1 ∨ s.vat.stopping = true ∨ s.vat.busy = true) := by simp [hst, hstop, hbusy]
  rw [vatPump, if_neg hheld, hops]
  dsimp only
  rw [hcmd]

/-- A command in a phase with a NAND operation begins it, unless it is relocation's turn. -/
theorem vatPump_turn {f : State → State} (n : Nat) (h : VatReady o c s) (hw : o.phase ≠ .waiting) (hh : o.phase ≠ .hash)
    (hf : relocDue s = false → vatPump n (beginNand o c s) = f s) : vatPump (n + 1) s = Spec.turn s f := by
  rw [vatPump_ready n h, if_neg hw, Spec.turn]
  by_cases hr : relocDue s = true
  · rw [if_pos (.inr hr), if_pos hr]
  · rw [if_neg (not_or.2 ⟨hh, hr⟩), if_neg hr, hf (Bool.eq_false_iff.2 hr)]

end

/-! A dispatched Store command in the queue. -/

section
variable {s : State} {d tag : Nat} {c : Cmd} {bs : Bytes}

/-- The command as it runs: with its input, and what a LOG_APPEND keeps of its dispatch. -/
def storeCmd (s : State) (c : Cmd) (bs : Bytes) : Cmd := { c with stage := .running, input := bs, aux := Spec.storeAux s c }

theorem findCmd_congr {t : State} (h : t.doors = s.doors) (e k : Nat) : findCmd t e k = findCmd s e k := by
  unfold findCmd
  rw [door_congr s h]

theorem VatReady.congr {t : State} {o : VatOp} (h : VatReady o c s) (hd : t.doors = s.doors) (hv : t.vat = s.vat) :
    VatReady o c t :=
  ⟨hv ▸ h.mounted, hv ▸ h.going, hv ▸ h.free, hv ▸ h.head, (findCmd_congr hd _ _).trans h.cmd⟩

theorem findCmd_taken (h : findCmd s d tag = some c) :
    findCmd (Spec.taken s d tag) d tag = some { c with stage := .running } ∧
    ∀ e t, (findCmd (Spec.taken s d tag) e t).isSome = (findCmd s e t).isSome := by
  have hf : KeepsTag fun x => { x with stage := .running } := fun _ _ => ⟨rfl, nofun⟩
  have hdoors : (Spec.taken s d tag).doors = (modCmd d tag (fun x => { x with stage := .running }) s).doors := rfl
  exact ⟨(findCmd_congr hdoors d tag).trans (findCmd_modCmd_same hf h), fun e t =>
    (congrArg Option.isSome (findCmd_congr hdoors e t)).trans (isSome_findCmd_modCmd hf h e t)⟩

/-- A command that joins the Vat's queue is the one that its tag finds, and every other tag finds what it found. -/
theorem findCmd_inVat (o : VatOp) (h : findCmd s d tag = some c) :
    findCmd (Spec.inVat s d tag c bs o) d tag = some (storeCmd s c bs) ∧
    ∀ e t, (findCmd (Spec.inVat s d tag c bs o) e t).isSome = (findCmd s e t).isSome := by
  obtain ⟨h1, h2⟩ := findCmd_taken h
  have hf : KeepsTag fun x => { x with input := bs, aux := Spec.storeAux s c } := fun _ hx => ⟨rfl, hx⟩
  have hdoors : (Spec.inVat s d tag c bs o).doors =
    (modCmd d tag (fun x => { x with input := bs, aux := Spec.storeAux s c }) (Spec.taken s d tag)).doors := rfl
  exact ⟨(findCmd_congr hdoors d tag).trans (findCmd_modCmd_same hf h1), fun e t =>
    ((congrArg Option.isSome (findCmd_congr hdoors e t)).trans (isSome_findCmd_modCmd hf h1 e t)).trans (h2 e t)⟩

theorem deferCmd_vat (status : Nat) (t : State) : (deferCmd d tag status t).vat = t.vat := by rw [deferCmd_frame]

theorem inVat_vat (o : VatOp) : (Spec.inVat s d tag c bs o).vat = { s.vat with ops := s.vat.ops ++ [o] } := rfl

theorem joinVat_taken : joinVat d tag (some bs) (Spec.storeAux s c) (Spec.taken s d tag) = pump (
    if !s.vat.ops.isEmpty || s.vat.st == 1 then deferCmd d tag 0x12 (Spec.inVat s d tag c bs { door := d, tag := tag })
    else Spec.inVat s d tag c bs { door := d, tag := tag }) := rfl

/-- Behind a mount, a running NAND operation or a record being hashed the command waits, deferred (R70, R224). -/
theorem joinVat_waits (hc : findCmd s d tag = some c) (hw : s.vat.st = 1 ∨ (s.vat.busy = true ∧ s.vat.ops ≠ []) ∨
      ∃ o rest, s.vat.ops = o :: rest ∧ o.phase = .hash ∧ findCmd s o.door o.tag ≠ none) :
    joinVat d tag (some bs) (Spec.storeAux s c) (Spec.taken s d tag) =
      deferCmd d tag 0x12 (Spec.inVat s d tag c bs { door := d, tag := tag }) := by
  have hwaits : (!s.vat.ops.isEmpty || s.vat.st == 1) = true := by
    rcases hw with h | ⟨-, h⟩ | ⟨o, rest, h, -⟩
    · simp [h]
    · simp [h]
    · simp [h]
  rw [joinVat_taken, if_pos hwaits, pump]
  obtain ⟨hin, hothers⟩ := findCmd_inVat (bs := bs) { door := d, tag := tag } hc
  have hfind := isSome_findCmd_deferCmd 0x12 hin
  have hvat : (deferCmd d tag 0x12 (Spec.inVat s d tag c bs { door := d, tag := tag })).vat =
      { s.vat with ops := s.vat.ops ++ [{ door := d, tag := tag }] } := by rw [deferCmd_vat, inVat_vat]
  generalize deferCmd d tag 0x12 (Spec.inVat s d tag c bs { door := d, tag := tag }) = w at hvat hfind ⊢
  by_cases hheld : w.vat.st = 1 ∨ w.vat.stopping = true ∨ w.vat.busy = true
  · exact vatPump_held _ hheld
  obtain ⟨hst, hstop, hbusy⟩ : w.vat.st ≠ 1 ∧ w.vat.stopping = false ∧ w.vat.busy = false := by simpa using hheld
  rw [hvat] at hst hbusy
  rcases hw with h | ⟨h, -⟩ | ⟨o, rest, hops, hphase, hcmd⟩
  · exact absurd h hst
  · exact absurd (h.symm.trans hbusy) (by decide)
  · have hsome : (findCmd w o.door o.tag).isSome := by
      rw [hfind, hothers]
      exact Option.isSome_iff_ne_none.2 hcmd
    obtain ⟨c', hc'⟩ := Option.isSome_iff_exists.1 hsome
    have hready : VatReady o c' w := ⟨hvat ▸ hst, hstop, hvat ▸ hbusy,
      ⟨rest ++ [{ door := d, tag := tag }], by rw [hvat, hops]; rfl⟩, hc'⟩
    rw [vatPump_ready _ hready, if_neg (by rw [hphase]; decide), if_pos (.inl hphase)]

end

/-! The checks of the dispatch (Table 12-8). -/

section
variable {s : State} {d : DoorId} {tag : Nat} {c : Cmd} {hostIn : Option Bytes} {bs : Bytes}

theorem reamSectors_congr {t : State} (h : t.nand = s.nand) (r : Nat) : reamSectors t r = reamSectors s r := by
  unfold reamSectors
  rw [h]

theorem rangeBad_false {t : State} {unit : Nat} (ht : t.nand = s.nand) (h : Spec.InReam s c unit) :
    rangeBad t c unit = false := by
  obtain ⟨hoff, hlen, hlast⟩ := h
  have hle : ¬ reamSectors t (storeReam c) * 4096 < storeOff c + storeLen c := by
    rw [reamSectors_congr ht]
    exact Nat.not_lt.2 hlast
  rw [rangeBad, decide_eq_false hle]
  simp [storeOff, storeLen, hoff, hlen]

theorem ream_bounds {r : Nat} (h : r ∈ [0, 1, 2, 4, 5]) : ¬ 5 < r ∧ r ≠ 3 := by
  simp only [List.mem_cons, List.not_mem_nil, or_false] at h
  omega

theorem storeRange_passes {e unit : Nat} {t : State} (f : State → State) (ht : t.nand = s.nand)
    (hn : 4 ≤ pLe c.pkt 8 4 ∧ pLe c.pkt 8 4 ≤ (if e = 2 then 16384 else 1048576)) (hr : pByte c.pkt 0 ∈ [0, 1, 2, 4, 5])
    (h : Spec.InReam s c unit) : storeRange e tag unit c f t = f t := by
  obtain ⟨hr5, hr3⟩ := ream_bounds hr
  have hlen : inRange (storeLen c) 4 (mostStore e) = true := inRange_iff.2 hn
  rw [storeRange, if_neg (show ¬ 5 < storeReam c from hr5), if_neg (by rw [hlen]; decide),
    if_neg (by rw [rangeBad_false ht h]; decide), if_neg (show storeReam c ≠ 3 from hr3)]

/-- A Store command that passes the checks of its dispatch joins the Vat's queue with its input (R224). -/
def Joins (s : State) (d tag : Nat) (c : Cmd) (bs : Bytes) (i : Instr) : Prop :=
  exec i s = .next (joinVat d tag (some bs) (Spec.storeAux s c) (Spec.taken s d tag))

theorem joins_of_check {op : Nat} {i : Instr} {f : Cmd → State → State} (hc : Spec.Takes s d tag op c)
    (hi : exec i s = .next (live s (dispatch d tag op f)))
    (hf : f c (Spec.taken s d tag) = joinVat d tag (some bs) (Spec.storeAux s c) (Spec.taken s d tag)) :
    Joins s d tag c bs i := by
  rw [Joins, hi, live_dispatch_takes _ hc, hf]

theorem storeAux_of_ne (h : c.opcode ≠ 0x43) : Spec.storeAux s c = [] := if_neg h

theorem storeRead_joins (hc : Spec.Takes s d tag 0x40 c) (h : Spec.StoreOk s d tag c hostIn bs) :
    Joins s d tag c bs (.storeRead d tag) := by
  obtain ⟨-, h⟩ := h
  simp only [hc.op] at h
  obtain ⟨hroom, hn, hr, hin, rfl⟩ := h
  refine joins_of_check hc rfl ?_
  rw [storeAux_of_ne (by simp [hc.op]), withIo_room (o := storeLen c) _ _ hroom,
    storeRange_passes (t := Spec.taken s d tag) _ rfl hn hr hin]

theorem storeWrite_joins (hc : Spec.Takes s d tag 0x41 c) (h : Spec.StoreOk s d tag c hostIn bs) :
    Joins s d tag c bs (.storeWrite d tag hostIn) := by
  obtain ⟨-, h⟩ := h
  simp only [hc.op] at h
  obtain ⟨hroom, hn, hr, hin, hbs⟩ := h
  refine joins_of_check hc rfl ?_
  rw [storeAux_of_ne (by simp [hc.op]), withIo_room (i := storeLen c) _ _ hroom,
    storeRange_passes (t := Spec.taken s d tag) _ rfl hn hr hin, hbs]

theorem storeErase_joins (hc : Spec.Takes s d tag 0x42 c) (h : Spec.StoreOk s d tag c hostIn bs) :
    Joins s d tag c bs (.storeErase d tag) := by
  obtain ⟨-, h⟩ := h
  simp only [hc.op] at h
  obtain ⟨hr, hin, rfl, hwhole⟩ := h
  have hrange : rangeBad (Spec.taken s d tag) c 4096 = false := rangeBad_false rfl hin
  obtain ⟨hr5, hr3⟩ := ream_bounds hr
  refine joins_of_check hc rfl ?_
  rw [storeAux_of_ne (by simp [hc.op]), if_neg (show ¬ 5 < storeReam c from hr5)]
  by_cases hsan : bitAt (pByte c.pkt 1) 0 = true
  · obtain ⟨hd, hr2, hoff, hlen⟩ := hwhole hsan
    have hd3 : d = 3 := Fin.ext hd
    have hall : (storeReam c == 2 && storeOff c == 0 && storeLen c == 262144) = true := by
      simp [storeReam, storeOff, storeLen, hr2, hoff, hlen]
    rw [hall, if_neg (by simp), hrange, if_neg (by decide), if_neg (show storeReam c ≠ 3 from hr3), if_neg (by simp [hd3])]
  · have hplain : storeSanitise c = false := by simp [storeSanitise, hc.op, hsan]
    rw [hplain, if_neg (by simp), hrange, if_neg (by decide), if_neg (show storeReam c ≠ 3 from hr3), if_neg (by simp)]

theorem logAppend_joins (hc : Spec.Takes s d tag 0x43 c) (h : Spec.StoreOk s d tag c hostIn bs) :
    Joins s d tag c bs (.logAppend d tag hostIn) := by
  obtain ⟨-, h⟩ := h
  simp only [hc.op] at h
  obtain ⟨hptr, hlo, hhi, hr, hbs⟩ := h
  refine joins_of_check hc rfl ?_
  rw [hptr, if_neg (by decide), inRange_iff.2 ⟨hlo, hhi⟩, if_neg (by decide),
    show storeReam c = 3 from hr, if_neg (by decide), if_neg (by decide), hbs, Spec.storeAux, if_pos hc.op]
  rfl

theorem logRead_joins (hc : Spec.Takes s d tag 0x44 c) (h : Spec.StoreOk s d tag c hostIn bs) :
    Joins s d tag c bs (.logRead d tag) := by
  obtain ⟨-, h⟩ := h
  simp only [hc.op] at h
  obtain ⟨hroom, hr, rfl⟩ := h
  refine joins_of_check hc rfl ?_
  rw [storeAux_of_ne (by simp [hc.op]), withIo_room _ _ hroom, show storeReam c = 3 from hr,
    if_neg (by decide), if_neg (by decide)]

theorem logTrim_joins (hc : Spec.Takes s d tag 0x45 c) (h : Spec.StoreOk s d tag c hostIn bs) :
    Joins s d tag c bs (.logTrim d tag) := by
  obtain ⟨-, h⟩ := h
  simp only [hc.op] at h
  obtain ⟨hd, hr, rfl⟩ := h
  have hd3 : d = 3 := Fin.ext hd
  refine joins_of_check hc rfl ?_
  rw [storeAux_of_ne (by simp [hc.op]), show storeReam c = 3 from hr, if_neg (by decide), if_neg (by decide),
    if_neg (not_not.2 hd3)]

theorem reamInfo_joins (hc : Spec.Takes s d tag 0x46 c) (h : Spec.StoreOk s d tag c hostIn bs) :
    Joins s d tag c bs (.reamInfo d tag) := by
  obtain ⟨-, h⟩ := h
  simp only [hc.op] at h
  obtain ⟨hroom, hr, rfl⟩ := h
  refine joins_of_check hc rfl ?_
  rw [storeAux_of_ne (by simp [hc.op]), withIo_room _ _ hroom, if_neg (show ¬ 5 < storeReam c from Nat.not_lt.2 hr)]

theorem storeFormat_joins (hc : Spec.Takes s d tag 0x47 c) (h : Spec.StoreOk s d tag c hostIn bs) :
    Joins s d tag c bs (.storeFormat d tag) := by
  obtain ⟨-, h⟩ := h
  simp only [hc.op] at h
  obtain ⟨hd, rfl⟩ := h
  have hd3 : d = 3 := Fin.ext hd
  refine joins_of_check hc rfl ?_
  rw [storeAux_of_ne (by simp [hc.op]), if_neg (not_not.2 hd3)]

end

/-! The start of a command on an idle Store: what the checks of its turn leave it to do (R242, Table 12-8). -/

section
variable {d tag : Nat} {c : Cmd} {x : State}

theorem startOp_read (hc : c.opcode = 0x40) (hx : x.vat.st = 3) :
    startOp { door := d, tag := tag } c x = beginRead { door := d, tag := tag } c x := by
  simp [startOp, storeWrites, hc, hx]

theorem startOp_write (hc : c.opcode = 0x41) (hx : x.vat.st = 3) : startOp { door := d, tag := tag } c x = setHead
      { door := d, tag := tag, phase := .data ((storeLen c / 4096 + pageSectors x.nand.geom - 1) / pageSectors x.nand.geom) }
      x := by
  simp [startOp, storeWrites, hc, hx]

theorem startOp_erase (hc : c.opcode = 0x42) (hx : x.vat.st = 3) : startOp { door := d, tag := tag } c x =
    setHead { door := d, tag := tag, phase := if bitAt (pByte c.pkt 1) 0 then .erases x.nand.pool false else .commit } x := by
  simp [startOp, storeWrites, storeSanitise, hc, hx]

theorem startOp_append (hc : c.opcode = 0x43) (hx : x.vat.st = 3) (h : appendFull x c = false) :
    startOp { door := d, tag := tag } c x = beginAppend { door := d, tag := tag } c x := by
  simp [startOp, storeWrites, hc, hx, h]

theorem startOp_append_full (hc : c.opcode = 0x43) (hx : x.vat.st = 3) (h : appendFull x c = true) :
    startOp { door := d, tag := tag } c x = vatFinish { door := d, tag := tag } 0x25 0 0 0 0 none
      (raiseIf (!x.vat.auditFull) 151 { x with vat := { x.vat with auditFull := true } }) := by
  simp [startOp, storeWrites, hc, hx, h, stReamFull, modVat]

theorem startOp_logRead (hc : c.opcode = 0x44) (hx : x.vat.st = 3) :
    startOp { door := d, tag := tag } c x = beginLogRead { door := d, tag := tag } c x := by
  simp [startOp, storeWrites, hc, hx]

theorem startOp_trim (hc : c.opcode = 0x45) (hx : x.vat.st = 3) (h : pLe c.pkt 4 8 ≤ x.nand.nextSeq) :
    startOp { door := d, tag := tag } c x = setHead { door := d, tag := tag, phase := .commit } x := by
  have hin : ¬ x.nand.nextSeq < storeSeq c := Nat.not_lt.2 h
  simp [startOp, storeWrites, hc, hx, hin]

theorem startOp_trim_beyond (hc : c.opcode = 0x45) (h : x.nand.nextSeq < pLe c.pkt 4 8) :
    startOp { door := d, tag := tag } c x = vatFinish { door := d, tag := tag } 0x4A 0 0 0 0 none x := if_pos ⟨hc, h⟩

theorem startOp_info (hc : c.opcode = 0x46) (hx : x.vat.st = 3) :
    startOp { door := d, tag := tag } c x =
      vatFinish { door := d, tag := tag } 0x00 0 144 0 0 (some (reamInfo x (pByte c.pkt 0))) x := by
  simp [startOp, storeWrites, storeReam, hc, hx, stDone]

theorem startOp_format (hc : c.opcode = 0x47) (hx : x.vat.st = 3) :
    startOp { door := d, tag := tag } c x = beginFormat { door := d, tag := tag } x := by
  simp [startOp, hc, hx]

end

/-! A Store command that joins the queue of an idle Store runs at once. -/

section
variable {s : State} {d tag : Nat} {c : Cmd} {bs : Bytes} {i : Instr} {o o1 : VatOp}

theorem setHead_inVat (hs : s.vat.ops = []) : setHead o1 (Spec.inVat s d tag c bs o) = Spec.inVat s d tag c bs o1 := by
  rw [setHead, modVat, inVat_vat, hs]
  unfold Spec.inVat
  simp only [modCmd_vat, show (Spec.taken s d tag).vat = s.vat from rfl, hs]
  rfl

theorem dropHead_inVat (hs : s.vat.ops = []) :
    dropHead (Spec.inVat s d tag c bs o) = { Spec.inVat s d tag c bs o with vat := s.vat } := by
  have hvat : { s.vat with ops := (s.vat.ops ++ [o]).drop 1 } = s.vat := by
    rw [hs]
    exact congrArg (fun l => { s.vat with ops := l }) hs.symm
  rw [dropHead, modVat, inVat_vat]
  exact congrArg (fun v => { Spec.inVat s d tag c bs o with vat := v }) hvat

theorem inVat_nand (o : VatOp) : (Spec.inVat s d tag c bs o).nand = s.nand := by
  dsimp only [Spec.inVat, Spec.taken]
  rfl

theorem inVat_keys (o : VatOp) : (Spec.inVat s d tag c bs o).keys = s.keys := by
  dsimp only [Spec.inVat, Spec.taken]
  rfl

theorem inVat_st (hs : Spec.StoreIdle s) : (Spec.inVat s d tag c bs o).vat.st = 3 := hs.1

theorem inVat_ready (hs : Spec.StoreIdle s) (hc : findCmd s d tag = some c) (hd : o.door = d) (ht : o.tag = tag) :
    VatReady o (storeCmd s c bs) (Spec.inVat s d tag c bs o) := by
  obtain ⟨hst, hstop, hbusy, hops⟩ := hs
  refine ⟨?_, hstop, hbusy, ⟨[], by rw [inVat_vat, hops]; rfl⟩, ?_⟩
  · rw [inVat_vat, hst]
    decide
  · rw [hd, ht]
    exact (findCmd_inVat o hc).1

theorem exec_of_joins (hj : Joins s d tag c bs i) (hs : Spec.StoreIdle s) (hc : findCmd s d tag = some c) :
    exec i s = .next (vatPump 3 (startOp { door := d, tag := tag } (storeCmd s c bs)
      (Spec.inVat s d tag c bs { door := d, tag := tag }))) := by
  have hready := inVat_ready (o := { door := d, tag := tag }) (bs := bs) hs hc rfl rfl
  obtain ⟨hst, -, -, hops⟩ := hs
  have hfuel : 3 * (Spec.inVat s d tag c bs { door := d, tag := tag }).vat.ops.length + 1 = 3 + 1 := by
    rw [inVat_vat, hops]
    rfl
  rw [hj, joinVat_taken, if_neg (by simp [hops, hst]), pump, hfuel, vatPump_ready 3 hready, if_pos rfl]

/-- A command whose start ends it leaves the queue empty. -/
theorem exec_of_ends {x : State} (hj : Joins s d tag c bs i) (hs : Spec.StoreIdle s) (hc : findCmd s d tag = some c)
    (hx : startOp { door := d, tag := tag } (storeCmd s c bs) (Spec.inVat s d tag c bs { door := d, tag := tag }) = x)
    (hops : x.vat.ops = []) : exec i s = .next x := by
  rw [exec_of_joins hj hs hc, hx, vatPump_empty 3 hops]

/-- A command that starts with a NAND operation begins it, unless it is relocation's turn. -/
theorem exec_of_begins {f : State → State} (hj : Joins s d tag c bs i) (hs : Spec.StoreIdle s) (hc : findCmd s d tag = some c)
    (hx : startOp { door := d, tag := tag } (storeCmd s c bs) (Spec.inVat s d tag c bs { door := d, tag := tag }) =
      setHead o1 (Spec.inVat s d tag c bs { door := d, tag := tag }))
    (hd : o1.door = d) (ht : o1.tag = tag) (hw : o1.phase ≠ .waiting) (hh : o1.phase ≠ .hash)
    (hf : vatPump 2 (beginNand o1 (storeCmd s c bs) (Spec.inVat s d tag c bs o1)) = f (Spec.inVat s d tag c bs o1)) :
    exec i s = .next (Spec.turn (Spec.inVat s d tag c bs o1) f) := by
  have hops := hs.2.2.2
  rw [exec_of_joins hj hs hc, hx, setHead_inVat hops, vatPump_turn 2 (inVat_ready hs hc hd ht) hw hh fun _ => hf]

theorem vatFinish_inVat {status detail r0 r1 r2 : Nat} {data : Option Bytes} (hs : s.vat.ops = []) :
    vatFinish { door := d, tag := tag } status detail r0 r1 r2 data (Spec.inVat s d tag c bs o) =
      finish d tag status detail r0 r1 r2 data { Spec.inVat s d tag c bs o with vat := s.vat } := by
  rw [vatFinish, dropHead_inVat hs]

/-- A command that its start finishes, with nothing else changed. -/
theorem exec_of_finish {status detail r0 r1 r2 : Nat} {data : Option Bytes} (hj : Joins s d tag c bs i) (hs : Spec.StoreIdle s)
    (hc : findCmd s d tag = some c)
    (hx : startOp { door := d, tag := tag } (storeCmd s c bs) (Spec.inVat s d tag c bs { door := d, tag := tag }) =
      vatFinish { door := d, tag := tag } status detail r0 r1 r2 data (Spec.inVat s d tag c bs { door := d, tag := tag })) :
    exec i s = .next (finish d tag status detail r0 r1 r2 data
      { Spec.inVat s d tag c bs { door := d, tag := tag } with vat := s.vat }) := by
  obtain ⟨-, -, -, hops⟩ := id hs
  refine exec_of_ends hj hs hc (hx.trans (vatFinish_inVat hops)) ?_
  rw [finish_vat]
  exact hops

theorem vatPump_vatBegin (n : Nat) (x : State) : vatPump n (vatBegin x) = Spec.busied x := vatPump_held n (.inr (.inr rfl))

theorem vatPump_noBlock (n : Nat) (hs : s.vat.ops = []) (hd : o1.door = d) (ht : o1.tag = tag) :
    vatPump n (noBlock o1 (Spec.inVat s d tag c bs o)) = Spec.noRoom d tag (Spec.inVat s d tag c bs o) := by
  have hroom : noBlock o1 (Spec.inVat s d tag c bs o) = Spec.noRoom d tag (Spec.inVat s d tag c bs o) := by
    rw [noBlock, vatFinish, hd, ht]
    rfl
  rw [hroom]
  refine vatPump_empty n ?_
  rw [Spec.noRoom, finish_vat, dropHead, modVat, raise_vat, inVat_vat, hs]
  rfl

theorem vatPump_commit (n : Nat) (hs : s.vat.ops = []) (hd : o1.door = d) (ht : o1.tag = tag) (hp : o1.phase = .commit) :
    vatPump n (beginNand o1 (storeCmd s c bs) (Spec.inVat s d tag c bs o1)) =
      Spec.recorded d tag (Spec.inVat s d tag c bs o1) := by
  unfold beginNand Spec.recorded
  rw [hp]
  dsimp only
  cases h : programOwn 2 (Spec.inVat s d tag c bs o1) with
  | none => exact vatPump_noBlock n hs hd ht
  | some p => exact vatPump_vatBegin n p.2

end

end Sys2Proof.Machine
end

section
/-! O39, by command: what each begins with on an idle Store, and the statement. -/

namespace Sys2Proof.Machine

theorem endRead_unread (d tag : Nat) (c : Cmd) (x : State) : endRead { door := d, tag := tag } c x =
    vatFinish { door := d, tag := tag } 0x00 0 (storeLen c) 0 0
      (some (reamRead x (storeReam c) (storeOff c) (storeLen c))) x := rfl

/-- A read of an empty log whose records before `baseSeq` are asked for (Table 11-3). -/
theorem endLogRead_trimmed {o : VatOp} {c : Cmd} {x : State} (h : (x.nand.log.filter fun e => decide (storeSeq c ≤ e.seq)) = [])
    (hb : storeSeq c < x.nand.baseSeq) :
    endLogRead o c x = vatFinish o 0x01 0x31 0 (x.nand.baseSeq % 2 ^ 32) 0 (some []) x := by
  have hw : logWanted x c = [] := by rw [logWanted, h]; rfl
  simp [endLogRead, hw, hb, max_eq_right hb.le, stDoneNote]

/-- The sectors that a STORE_READ's range meets, page by page (R220). -/
def readGroups (s : State) (c : Cmd) : List (List Nat) :=
  pageGroups s (pByte c.pkt 0)
    ((List.range ((pLe c.pkt 4 4 + pLe c.pkt 8 4 + 4095) / 4096 - pLe c.pkt 4 4 / 4096)).map (pLe c.pkt 4 4 / 4096 + ·))

theorem beginRead_mapped {o : VatOp} {c : Cmd} {x : State} (h : readGroups x c ≠ []) :
    beginRead o c x = setHead { o with phase := .reads (readGroups x c) } x := by
  unfold readGroups at h ⊢
  unfold beginRead storeReam storeOff storeLen
  dsimp only
  split
  · next hnil => exact absurd hnil h
  · rfl

theorem beginRead_unmapped {o : VatOp} {c : Cmd} {x : State} (h : readGroups x c = []) : beginRead o c x = endRead o c x := by
  unfold readGroups at h
  unfold beginRead storeReam storeOff storeLen
  dsimp only
  rw [h]

section
variable {s t : State} (h : t.nand = s.nand)
include h

theorem blk_congr : blk t = blk s := by
  funext b
  rw [blk, blk, h]

theorem pageGroups_congr : pageGroups t = pageGroups s := by
  funext r l
  rw [pageGroups, pageGroups, h]

theorem readGroups_congr (c : Cmd) : readGroups t c = readGroups s c := by
  rw [readGroups, readGroups, pageGroups_congr h]

theorem reamRead_congr : reamRead t = reamRead s := by
  funext r off n
  unfold reamRead sectorBytes
  rw [h]

end

section
variable {s : State} {d : DoorId} {tag : Nat} {c : Cmd} {hostIn : Option Bytes} {bs : Bytes}

theorem exec_storeRead_mapped (hs : Spec.StoreIdle s) (hok : Spec.StoreOk s d tag c hostIn bs)
    (hc : Spec.Takes s d tag 0x40 c) (hl : readGroups s c ≠ []) : exec (.storeRead d tag) s = .next
      (Spec.turn (Spec.inVat s d tag c bs { door := d, tag := tag, phase := .reads (readGroups s c) }) Spec.busied) := by
  have hn := inVat_nand (s := s) (d := d) (tag := tag) (c := c) (bs := bs) { door := d, tag := tag }
  have hg := readGroups_congr hn (storeCmd s c bs)
  refine exec_of_begins (storeRead_joins hc hok) hs hok.1 ?_ rfl rfl nofun nofun (vatPump_vatBegin 2 _)
  rw [startOp_read (c := storeCmd s c bs) hc.op (inVat_st hs), beginRead_mapped (by rw [hg]; exact hl), hg]
  rfl

theorem exec_storeRead_unmapped (hs : Spec.StoreIdle s) (hok : Spec.StoreOk s d tag c hostIn bs)
    (hc : Spec.Takes s d tag 0x40 c) (hl : readGroups s c = []) :
    exec (.storeRead d tag) s = .next (finish d tag 0x00 0 (pLe c.pkt 8 4) 0 0
      (some (reamRead s (pByte c.pkt 0) (pLe c.pkt 4 4) (pLe c.pkt 8 4)))
      { Spec.inVat s d tag c bs { door := d, tag := tag } with vat := s.vat }) := by
  have hn := inVat_nand (s := s) (d := d) (tag := tag) (c := c) (bs := bs) { door := d, tag := tag }
  have hg := readGroups_congr hn (storeCmd s c bs)
  have hr := reamRead_congr hn
  refine exec_of_finish (storeRead_joins hc hok) hs hok.1 ?_
  rw [startOp_read (c := storeCmd s c bs) hc.op (inVat_st hs), beginRead_unmapped (hg.trans hl), endRead_unread, hr]
  rfl

/-- A STORE_WRITE waits for relocation's turn, or begins with its first page, or finds no block for it. -/
theorem exec_storeWrite_begins {m : Nat} (hs : Spec.StoreIdle s) (hok : Spec.StoreOk s d tag c hostIn bs)
    (hc : Spec.Takes s d tag 0x41 c) (hm : m = pageSectors s.nand.geom) {o : VatOp}
    (ho : o = { door := d, tag := tag, phase := .data ((pLe c.pkt 8 4 / 4096 + m - 1) / m) }) :
    exec (.storeWrite d tag hostIn) s = .next (Spec.turn (Spec.inVat s d tag c bs o) fun w =>
      match programSecs (pageKind (storeCmd s c bs)) (pageSecs w (storeCmd s c bs) o 0)
        (makeRoom (pageKind (storeCmd s c bs)) w) with
      | none => Spec.noRoom d tag w
      | some (a, k, x) => Spec.busied (setHead { o with pages := [(a, k)] } x)) := by
  subst hm ho
  refine exec_of_begins (storeWrite_joins hc hok) hs hok.1 ?_ rfl rfl nofun nofun ?_
  · exact startOp_write (c := storeCmd s c bs) hc.op (inVat_st hs)
  · unfold beginNand
    dsimp only [List.length_nil]
    generalize programSecs _ _ _ = p
    cases p with
    | none => exact vatPump_noBlock 2 hs.2.2.2 rfl rfl
    | some p => exact vatPump_vatBegin 2 _

theorem exec_storeErase_plain (hs : Spec.StoreIdle s) (hok : Spec.StoreOk s d tag c hostIn bs)
    (hc : Spec.Takes s d tag 0x42 c) (hp : bitAt (pByte c.pkt 1) 0 = false) : exec (.storeErase d tag) s =
      .next (Spec.turn (Spec.inVat s d tag c bs { door := d, tag := tag, phase := .commit }) (Spec.recorded d tag)) := by
  refine exec_of_begins (storeErase_joins hc hok) hs hok.1 ?_ rfl rfl nofun nofun (vatPump_commit 2 hs.2.2.2 rfl rfl rfl)
  refine (startOp_erase (c := storeCmd s c bs) hc.op (inVat_st hs)).trans ?_
  rw [if_neg (by rw [show bitAt (pByte (storeCmd s c bs).pkt 1) 0 = false from hp]; decide)]

theorem exec_storeErase_sanitise {b : Nat} {rest : List Nat} (hs : Spec.StoreIdle s) (hok : Spec.StoreOk s d tag c hostIn bs)
    (hc : Spec.Takes s d tag 0x42 c) (hp : bitAt (pByte c.pkt 1) 0 = true) (hb : s.nand.pool = b :: rest) :
    exec (.storeErase d tag) s = .next (Spec.turn
      (Spec.inVat s d tag c bs { door := d, tag := tag, phase := .erases (b :: rest) false })
      fun w => Spec.busied (modBlk b (fun x => { x with torn := true }) (emit (.nand (.erase b)) w))) := by
  refine exec_of_begins (storeErase_joins hc hok) hs hok.1 ?_ rfl rfl nofun nofun (vatPump_vatBegin 2 _)
  refine (startOp_erase (c := storeCmd s c bs) hc.op (inVat_st hs)).trans ?_
  rw [if_pos (show bitAt (pByte (storeCmd s c bs).pkt 1) 0 = true from hp),
    show (Spec.inVat s d tag c bs { door := d, tag := tag }).nand.pool = b :: rest from hb]

/-- Bytes of an audit record with its header and its hash (Table 11-6). -/
def recordSize (c : Cmd) : Nat := 80 + (pktInLen c.pkt + 3) / 4 * 4 + 48

theorem beginAppend_inVat (hs : s.vat.ops = []) :
    beginAppend { door := d, tag := tag } (storeCmd s c bs) (Spec.inVat s d tag c bs { door := d, tag := tag }) =
      setUnit 2 (unitQueue s 2 ++ [(d.val, tag)]) (Spec.inVat s d tag c bs
        { door := d, tag := tag, phase := .hash, record := recordBody s d (storeCmd s c bs) }) := by
  have hbody : recordBody (Spec.inVat s d tag c bs { door := d, tag := tag }) d (storeCmd s c bs) =
      recordBody s d (storeCmd s c bs) := by
    rw [recordBody, inVat_nand, recordBody]
  have hq : unitQueue (Spec.inVat s d tag c bs { door := d, tag := tag }) 2 = unitQueue s 2 := by
    rw [unitQueue, inVat_keys, unitQueue]
  rw [beginAppend, hbody, hq, setHead_inVat hs]

theorem exec_logAppend_hashes (hs : Spec.StoreIdle s) (hok : Spec.StoreOk s d tag c hostIn bs) (hc : Spec.Takes s d tag 0x43 c)
    (hfit : s.nand.logFill + recordSize c ≤ 4096 ∨ s.nand.logUsed < 16384) :
    exec (.logAppend d tag hostIn) s = .next (setUnit 2 (unitQueue s 2 ++ [(d.val, tag)]) (Spec.inVat s d tag c bs
      { door := d, tag := tag, phase := .hash, record := recordBody s d (storeCmd s c bs) })) := by
  have hfull : appendFull (Spec.inVat s d tag c bs { door := d, tag := tag }) (storeCmd s c bs) = false := by
    rw [appendFull, needsSector, inVat_nand]
    show (decide (4096 < s.nand.logFill + recordSize c) && decide (16384 ≤ s.nand.logUsed)) = false
    simp only [Bool.and_eq_false_iff, decide_eq_false_iff_not]
    omega
  have hready := (inVat_ready (o := { door := d, tag := tag, phase := .hash, record := recordBody s d (storeCmd s c bs) })
    (bs := bs) hs hok.1 rfl rfl).congr (setUnit_doors 2 (unitQueue s 2 ++ [(d.val, tag)]) _)
    (setUnit_vat 2 (unitQueue s 2 ++ [(d.val, tag)]) _)
  rw [exec_of_joins (logAppend_joins hc hok) hs hok.1, startOp_append (c := storeCmd s c bs) hc.op (inVat_st hs) hfull,
    beginAppend_inVat hs.2.2.2, vatPump_ready 2 hready, if_neg nofun, if_pos (.inl rfl)]

theorem exec_logAppend_full (hs : Spec.StoreIdle s) (hok : Spec.StoreOk s d tag c hostIn bs) (hc : Spec.Takes s d tag 0x43 c)
    (hsec : 4096 < s.nand.logFill + recordSize c) (hused : 16384 ≤ s.nand.logUsed) :
    exec (.logAppend d tag hostIn) s = .next (finish d tag 0x25 0 0 0 0 none (dropHead (raiseIf (!s.vat.auditFull) 151
      { Spec.inVat s d tag c bs { door := d, tag := tag } with
        vat := { (Spec.inVat s d tag c bs { door := d, tag := tag }).vat with auditFull := true } }))) := by
  have hfull : appendFull (Spec.inVat s d tag c bs { door := d, tag := tag }) (storeCmd s c bs) = true := by
    rw [appendFull, needsSector, inVat_nand]
    show (decide (4096 < s.nand.logFill + recordSize c) && decide (16384 ≤ s.nand.logUsed)) = true
    rw [decide_eq_true hsec, decide_eq_true hused]
    rfl
  refine exec_of_ends (logAppend_joins hc hok) hs hok.1 (startOp_append_full (c := storeCmd s c bs) hc.op (inVat_st hs) hfull) ?_
  rw [finish_vat, dropHead, modVat, raiseIf_vat]
  show (s.vat.ops ++ [_]).drop 1 = []
  rw [hs.2.2.2]
  rfl

theorem exec_logRead_beyond (hs : Spec.StoreIdle s) (hok : Spec.StoreOk s d tag c hostIn bs) (hc : Spec.Takes s d tag 0x44 c)
    (hseq : s.nand.nextSeq ≤ pLe c.pkt 4 8) : exec (.logRead d tag) s =
      .next (finish d tag 0x01 0x32 0 (s.nand.nextSeq % 2 ^ 32) 0 (some [])
        { Spec.inVat s d tag c bs { door := d, tag := tag } with vat := s.vat }) :=
  exec_of_finish (logRead_joins hc hok) hs hok.1
    ((startOp_logRead (c := storeCmd s c bs) hc.op (inVat_st hs)).trans (if_pos hseq))

/-- A LOG_READ of a sequence number that the log has reached goes by the first record from there on. -/
theorem startOp_logRead_reached (hs : Spec.StoreIdle s) (hc : Spec.Takes s d tag 0x44 c) (hseq : pLe c.pkt 4 8 < s.nand.nextSeq) :
    startOp { door := d, tag := tag } (storeCmd s c bs) (Spec.inVat s d tag c bs { door := d, tag := tag }) =
      match (s.nand.log.filter fun e => decide (pLe c.pkt 4 8 ≤ e.seq)).head? with
      | some r => if pktOutLen c.pkt < r.bytes.length
        then vatFinish { door := d, tag := tag } 0x41 0 r.bytes.length 0 0 none
          (Spec.inVat s d tag c bs { door := d, tag := tag })
        else setHead
          { door := d, tag := tag, phase := .reads (pageGroups s 3 ((takeLogRecs
            (s.nand.log.filter fun e => decide (pLe c.pkt 4 8 ≤ e.seq)) (pktOutLen c.pkt)).map (·.sector)).eraseDups) }
          (Spec.inVat s d tag c bs { door := d, tag := tag })
      | none => endLogRead { door := d, tag := tag } (storeCmd s c bs) (Spec.inVat s d tag c bs { door := d, tag := tag }) := by
  refine (startOp_logRead (c := storeCmd s c bs) hc.op (inVat_st hs)).trans ((if_neg ?_).trans ?_)
  · rw [inVat_nand]
    exact Nat.not_le.2 hseq
  · rw [logWanted, pageGroups_congr (inVat_nand _), inVat_nand]
    rfl

theorem exec_logRead_trimmed (hs : Spec.StoreIdle s) (hok : Spec.StoreOk s d tag c hostIn bs) (hc : Spec.Takes s d tag 0x44 c)
    (hseq : pLe c.pkt 4 8 < s.nand.nextSeq) (hbase : pLe c.pkt 4 8 < s.nand.baseSeq)
    (hnone : (s.nand.log.filter fun e => decide (pLe c.pkt 4 8 ≤ e.seq)) = []) : exec (.logRead d tag) s =
      .next (finish d tag 0x01 0x31 0 (s.nand.baseSeq % 2 ^ 32) 0 (some [])
        { Spec.inVat s d tag c bs { door := d, tag := tag } with vat := s.vat }) := by
  refine exec_of_finish (logRead_joins hc hok) hs hok.1 ((startOp_logRead_reached hs hc hseq).trans ?_)
  rw [hnone]
  exact endLogRead_trimmed (c := storeCmd s c bs) hnone hbase

theorem exec_logRead_short {r : LogRec} {rest : List LogRec} (hs : Spec.StoreIdle s) (hok : Spec.StoreOk s d tag c hostIn bs)
    (hc : Spec.Takes s d tag 0x44 c) (hseq : pLe c.pkt 4 8 < s.nand.nextSeq)
    (hr : (s.nand.log.filter fun e => decide (pLe c.pkt 4 8 ≤ e.seq)) = r :: rest) (hlen : pktOutLen c.pkt < r.bytes.length) :
    exec (.logRead d tag) s = .next (finish d tag 0x41 0 r.bytes.length 0 0 none
      { Spec.inVat s d tag c bs { door := d, tag := tag } with vat := s.vat }) := by
  refine exec_of_finish (logRead_joins hc hok) hs hok.1 ((startOp_logRead_reached hs hc hseq).trans ?_)
  rw [hr]
  exact if_pos hlen

theorem exec_logRead_reads {r : LogRec} {rest : List LogRec} (hs : Spec.StoreIdle s) (hok : Spec.StoreOk s d tag c hostIn bs)
    (hc : Spec.Takes s d tag 0x44 c) (hseq : pLe c.pkt 4 8 < s.nand.nextSeq)
    (hr : (s.nand.log.filter fun e => decide (pLe c.pkt 4 8 ≤ e.seq)) = r :: rest) (hlen : r.bytes.length ≤ pktOutLen c.pkt) :
    exec (.logRead d tag) s = .next (Spec.turn (Spec.inVat s d tag c bs
      { door := d, tag := tag
        phase := .reads (pageGroups s 3 ((takeLogRecs (r :: rest) (pktOutLen c.pkt)).map (·.sector)).eraseDups) })
      Spec.busied) := by
  refine exec_of_begins (logRead_joins hc hok) hs hok.1 ((startOp_logRead_reached hs hc hseq).trans ?_) rfl rfl nofun nofun
    (vatPump_vatBegin 2 _)
  rw [hr]
  exact if_neg (Nat.not_lt.2 hlen)

theorem exec_logTrim (hs : Spec.StoreIdle s) (hok : Spec.StoreOk s d tag c hostIn bs) (hc : Spec.Takes s d tag 0x45 c)
    (hseq : pLe c.pkt 4 8 ≤ s.nand.nextSeq) : exec (.logTrim d tag) s =
      .next (Spec.turn (Spec.inVat s d tag c bs { door := d, tag := tag, phase := .commit }) (Spec.recorded d tag)) :=
  exec_of_begins (logTrim_joins hc hok) hs hok.1 (startOp_trim (c := storeCmd s c bs) hc.op (inVat_st hs) hseq)
    rfl rfl nofun nofun (vatPump_commit 2 hs.2.2.2 rfl rfl rfl)

theorem exec_logTrim_beyond (hs : Spec.StoreIdle s) (hok : Spec.StoreOk s d tag c hostIn bs) (hc : Spec.Takes s d tag 0x45 c)
    (hseq : s.nand.nextSeq < pLe c.pkt 4 8) : exec (.logTrim d tag) s = .next (finish d tag 0x4A 0 0 0 0 none
      { Spec.inVat s d tag c bs { door := d, tag := tag } with vat := s.vat }) :=
  exec_of_finish (logTrim_joins hc hok) hs hok.1 (startOp_trim_beyond (c := storeCmd s c bs) hc.op hseq)

/-- A command that has no pages yet holds no block, so its joining frees and takes none. -/
theorem freeBlks_inVat (hs : s.vat.ops = []) : freeBlks (Spec.inVat s d tag c bs { door := d, tag := tag }) = freeBlks s := by
  have hn : (Spec.inVat s d tag c bs { door := d, tag := tag }).nand = s.nand := inVat_nand _
  have hheld : blkHeld (Spec.inVat s d tag c bs { door := d, tag := tag }) = blkHeld s := by
    funext b
    rw [blkHeld, blkHeld, hn, inVat_vat, hs]
    rfl
  have hfree : blkFree (Spec.inVat s d tag c bs { door := d, tag := tag }) = blkFree s := by
    funext b
    rw [blkFree, blkFree, hheld, blk_congr hn, hn]
  rw [freeBlks, freeBlks, hfree, hn]

theorem reamInfo_inVat (hs : s.vat.ops = []) (r : Nat) :
    reamInfo (Spec.inVat s d tag c bs { door := d, tag := tag }) r = reamInfo s r := by
  have hn : (Spec.inVat s d tag c bs { door := d, tag := tag }).nand = s.nand := inVat_nand _
  have hst : (Spec.inVat s d tag c bs { door := d, tag := tag }).vat.st = s.vat.st := rfl
  have hgood : goodBlks (Spec.inVat s d tag c bs { door := d, tag := tag }) = goodBlks s := by
    rw [goodBlks, goodBlks, blk_congr hn, hn]
  unfold reamInfo
  rw [freeBlks_inVat hs, reamSectors_congr hn, hst, hn, retiredCount, retiredCount, hn, eraseMax, eraseMax, eraseMin, eraseMin,
    hgood, blk_congr hn]

theorem exec_reamInfo (hs : Spec.StoreIdle s) (hok : Spec.StoreOk s d tag c hostIn bs) (hc : Spec.Takes s d tag 0x46 c) :
    exec (.reamInfo d tag) s = .next (finish d tag 0x00 0 144 0 0 (some (reamInfo s (pByte c.pkt 0)))
      { Spec.inVat s d tag c bs { door := d, tag := tag } with vat := s.vat }) := by
  refine exec_of_finish (reamInfo_joins hc hok) hs hok.1 ((startOp_info (c := storeCmd s c bs) hc.op (inVat_st hs)).trans ?_)
  rw [reamInfo_inVat hs.2.2.2]
  rfl

/-- The Store in state FORMATTING, its first command in a format's phase, begins the format. -/
theorem vatPump_format {x : State} {o : VatOp} {lower : List Nat} {k : Nat} (n : Nat) (hops : x.vat.ops = [o])
    (hp : o.phase = .format lower k) (hst : x.vat.st = 5) (hstop : x.vat.stopping = false) (hbusy : x.vat.busy = false)
    (hcmd : (findCmd x o.door o.tag).isSome) : vatPump (n + 1) x = { x with vat := { x.vat with busy := true } } := by
  obtain ⟨c, hc⟩ := Option.isSome_iff_exists.1 hcmd
  have hready : VatReady o c x := ⟨by rw [hst]; decide, hstop, hbusy, ⟨[], hops⟩, hc⟩
  have hturn : ¬ relocDue x = true := by simp [relocDue, hst]
  have hbegin : beginNand o c x = vatBegin x := by rw [beginNand, hp]
  rw [vatPump_ready n hready, hp, if_neg nofun, if_neg (not_or.2 ⟨nofun, hturn⟩), hbegin]
  exact vatPump_vatBegin n x

theorem exec_storeFormat (hs : Spec.StoreIdle s) (hok : Spec.StoreOk s d tag c hostIn bs) (hc : Spec.Takes s d tag 0x47 c)
    {y w : State} (hy : y = Spec.inVat s d tag c bs { door := d, tag := tag }) (hw : w = deferCmd d tag 0x12 y) :
    exec (.storeFormat d tag) s = .next { w with vat := { w.vat with
      st := 5, busy := true, ops := [{ door := d, tag := tag, phase := .format (lowerRegs y) 3 }] } } := by
  have hcmd : findCmd y d tag = some (storeCmd s c bs) := by rw [hy]; exact (findCmd_inVat _ hok.1).1
  have hfound : (findCmd w d tag).isSome := by rw [hw, isSome_findCmd_deferCmd 0x12 hcmd, hcmd]; rfl
  have hst : y.vat.st = 3 := by rw [hy]; exact inVat_st hs
  have hvat : w.vat = { s.vat with ops := [{ door := d, tag := tag }] } := by
    rw [hw, deferCmd_vat, hy, inVat_vat, hs.2.2.2]
    rfl
  have hhead : beginFormat { door := d, tag := tag } y = { w with vat := { w.vat with
      st := 5, ops := [{ door := d, tag := tag, phase := .format (lowerRegs y) 3 }] } } := by
    rw [beginFormat, hst, stDelayedStore, ← hw, setHead, modVat, modVat, hvat]
  rw [exec_of_joins (storeFormat_joins hc hok) hs hok.1, ← hy, startOp_format (c := storeCmd s c bs) hc.op hst, hhead]
  refine congrArg Host.Outcome.next (vatPump_format 2 rfl rfl rfl ?_ ?_ ?_)
  · rw [hvat]
    exact hs.2.1
  · rw [hvat]
    exact hs.2.2.1
  · exact (congrArg Option.isSome (findCmd_congr (s := w) rfl d tag)).trans hfound

end

/-- Settles O39: a command joins the queue with its input (`Joins`); behind others it stays there, and on an idle Store it runs
at once, as the lemma of its row says. -/
theorem storeCommandsStart : Obligations.StoreCommandsStart := by
  refine ⟨?_, ?_⟩
  · intro s d tag op i c hostIn bs hrow hc hok hw
    have hj : Joins s d tag c bs i := by
      simp only [List.mem_cons, Prod.mk.injEq, List.not_mem_nil, or_false] at hrow
      rcases hrow with ⟨rfl, rfl⟩ | ⟨rfl, rfl⟩ | ⟨rfl, rfl⟩ | ⟨rfl, rfl⟩ | ⟨rfl, rfl⟩ |
        ⟨rfl, rfl⟩ | ⟨rfl, rfl⟩ | ⟨rfl, rfl⟩
      · exact storeRead_joins hc hok
      · exact storeWrite_joins hc hok
      · exact storeErase_joins hc hok
      · exact logAppend_joins hc hok
      · exact logRead_joins hc hok
      · exact logTrim_joins hc hok
      · exact reamInfo_joins hc hok
      · exact storeFormat_joins hc hok
    exact Eq.trans hj (congrArg Host.Outcome.next (joinVat_waits hok.1 hw))
  · rintro s d tag c hostIn bs o m y z hs hok rfl hm rfl rfl
    refine ⟨?_, ?_, fun hc => exec_storeErase_plain hs hok hc, fun b rest hc => exec_storeErase_sanitise hs hok hc, ?_,
      fun hc => exec_logRead_beyond hs hok hc, fun hc => exec_logRead_trimmed hs hok hc, ?_, fun hc => exec_logTrim hs hok hc,
      fun hc => exec_logTrim_beyond hs hok hc, fun hc => exec_reamInfo hs hok hc, ?_⟩
    · rintro _ _ l hc rfl rfl rfl
      exact ⟨exec_storeRead_mapped hs hok hc, exec_storeRead_unmapped hs hok hc⟩
    · rintro w o1 hc ho rfl
      have hx := exec_storeWrite_begins hs hok hc hm ho
      refine ⟨fun hr => ?_, fun hr hp => ?_, fun a k x hr hp => ?_⟩
      · rw [hx, Spec.turn, if_pos hr]
      · rw [hx, Spec.turn, if_neg (by rw [hr]; decide)]
        refine congrArg Host.Outcome.next ?_
        rw [storeCmd, hp]
      · rw [hx, Spec.turn, if_neg (by rw [hr]; decide)]
        refine congrArg Host.Outcome.next ?_
        rw [storeCmd, hp]
    · rintro r n hc rfl rfl
      exact ⟨exec_logAppend_hashes hs hok hc, exec_logAppend_full hs hok hc⟩
    · intro r rest hc hseq hr
      exact ⟨exec_logRead_short hs hok hc hseq hr, exec_logRead_reads hs hok hc hseq hr⟩
    · intro w hc hw
      exact exec_storeFormat hs hok hc rfl hw

end Sys2Proof.Machine
end
